-- ==== Sys2Proof/Word.lean ====
section
/-! DEFINITION. Word.lean: the word types, and the names of the parts of the module and of the things its agents
exchange (threads, launches, host agents, commands, packets), as spec/00_scope.md, 01_device.md, 20_package_and_pod.md
and 21_remote_and_collectives.md name them. -/
namespace Sys2Proof

/-- A 32-bit register or memory word (R1, R2). -/
abbrev Word := BitVec 32
/-- A 64-bit pair, pointer or PC (R25, R29). -/
abbrev DWord := BitVec 64
/-- A byte of memory (R2). -/
abbrev Byte := BitVec 8

/-- A thread: the group it belongs to, by the number the model gives each group when it is placed, and its lane
position 0-31 (R125). -/
structure Tid where
  gid  : Nat
  lane : Nat
deriving DecidableEq, Repr

/-- A launch: the die that runs it and its die-local identity (R303). -/
structure LRef where
  die : Nat
  id  : Nat
deriving DecidableEq, Repr

/-- The agents that reach the part from outside (R428 OWNER): 0 management port, 1 host function 0, 2 pod controller. -/
inductive Agent where
  | mgmt
  | host
  | pod
deriving DecidableEq, Repr

/-- The number of an agent in the OWNER register (R428). -/
def Agent.code : Agent → Nat
  | .mgmt => 0
  | .host => 1
  | .pod  => 2

/-- Where a 64-byte command comes from (R430): the next entry of a command queue, or a channel of the management port
or the pod controller, which carries the sixteen words of the command. -/
inductive CmdSrc where
  | queue (q : Nat)
  | channel (a : Agent) (words : List Word)
deriving DecidableEq, Repr

/-- The name by which the packages of a gang launch know it: the package, die and launch identity of gang rank 0. The
spec does not lay out GANG control and BARRIER bodies (R392, R403, R405); see the assumption log, entry 7. -/
structure GangId where
  pkg : Nat
  die : Nat
  id  : Nat
deriving DecidableEq, Repr

/-- What a GANG control packet carries (R403, R404, R406, R444); a field a step does not use is 0. `what` is 0
START, 1 ACCEPT, 2 REFUSE, 3 GO, 4 CANCEL, 5 ABORT, 6 DONE. -/
structure GangMsg where
  what    : Nat
  gang    : GangId
  header  : DWord
  argp    : DWord
  teams   : Nat
  members : List Nat
  rank    : Nat
  key     : Nat
  code    : Nat
  leak    : Nat
  cycle   : Nat
deriving DecidableEq, Repr

/-- What a BARRIER packet carries (R405). -/
structure BarMsg where
  gang    : GangId
  release : Bool
  level   : Nat
  set     : Nat
  phase   : Nat
deriving DecidableEq, Repr

/-- The header of a COLLECTIVE body (R409). -/
structure CollHdr where
  group  : Nat
  rop    : Nat
  rtype  : Nat
  cseq   : Nat
  offset : Nat
  sig    : Nat
  len    : Nat
  kind   : Nat
  key    : Nat
  route  : List Nat
deriving DecidableEq, Repr

/-- The body of a packet, by its kind (R392, R393, R409). -/
inductive Body where
  | req (addr : DWord) (key sub flags tag : Nat) (data : List Byte)
  | reply (status reason tag : Nat) (data : List Byte)
  | coll (h : CollHdr) (data : List Byte)
  | collAbort (group cseq key code : Nat)
  | gang (m : GangMsg)
  | bar (m : BarMsg)
  | reserved
deriving DecidableEq, Repr

/-- A packet: the envelope of R375 and its body. -/
structure Packet where
  src     : Nat
  hop     : Nat
  dst     : Nat
  die     : Nat
  transit : Bool
  cls     : Nat
  gen     : Nat
  seq     : Nat
  kind    : Nat
  body    : Body
deriving DecidableEq, Repr

/-- A packet as a port receives it: the port, the packet that the envelope and body of its flits read as, and the CRC that
its last flit holds (R375, R376). -/
structure Rx where
  port : Nat
  pkt  : Packet
  crc  : Word
deriving DecidableEq, Repr

/-- A preamble as a port receives it (R374). `delta` is half the difference between the pair's two one-way timestamp
deltas, in picoseconds (R377); `elapsed` the whole slots since its timestamp (R378). -/
structure PreambleMsg where
  pkg     : Nat
  port    : Nat
  gen     : Nat
  cycle   : Nat
  slot    : Nat
  lit     : Nat
  offset  : Int
  hops    : Option Nat
  aligned : Bool
  crcOk   : Bool
  delta   : Int
  elapsed : Nat
  lowest  : Nat
deriving DecidableEq, Repr

/-- An ack flit (R376, R382, R384): the sender; for each class the highest in-order hop sequence it has accepted, and
its send base; the transit completions it reports; the bytes of its transit partition that it has granted the receiver so far (assumption log 83); and the
highest broadcast sequence it has accepted of each class. -/
structure AckMsg where
  src     : Nat
  acked   : List (Nat × Nat)
  bases   : List (Nat × Nat)
  transit : List Nat
  credit  : Nat
  bcast   : List (Nat × Nat)
deriving DecidableEq, Repr

end Sys2Proof
end

