-- ==== Sys2Proof/Machine/Bits.lean ====
section
/-! DEFINITION. Bits.lean: bit fields, extensions and byte order (R1, R2, R9), on naturals and on words. -/
namespace Sys2Proof.Machine

/-- bits(x, hi, lo) of R9, on a natural number. -/
def bitsN (x hi lo : Nat) : Nat := (x / 2 ^ lo) % 2 ^ (hi + 1 - lo)

/-- A field of a word, as a natural number. -/
def bits {w : Nat} (x : BitVec w) (hi lo : Nat) : Nat := bitsN x.toNat hi lo

/-- Bit `n` of a word. -/
def bit {w : Nat} (x : BitVec w) (n : Nat) : Bool := x.getLsbD n

/-- A natural number read as two's complement of `w` bits (sext of R9). -/
def sextN (w x : Nat) : Int :=
  let y := x % 2 ^ w
  if 2 * y < 2 ^ w then (y : Int) else (y : Int) - 2 ^ w

/-- An integer reduced to a word of `w` bits (R63). -/
def ofInt (w : Nat) (x : Int) : BitVec w := BitVec.ofInt w x

/-- The little-endian bytes of a number (R2). -/
def bytesOf : Nat → Nat → List Byte
  | 0, _ => []
  | n + 1, x => BitVec.ofNat 8 x :: bytesOf n (x / 256)

/-- The number that little-endian bytes stand for (R2). -/
def ofBytes : List Byte → Nat
  | [] => 0
  | b :: bs => b.toNat + 256 * ofBytes bs

/-- The 32-bit words of a number, the lowest first (R2). -/
def wordsOf : Nat → Nat → List Word
  | 0, _ => []
  | n + 1, x => BitVec.ofNat 32 x :: wordsOf n (x / 2 ^ 32)

/-- The number that words stand for, the lowest first (R2). -/
def ofWords : List Word → Nat
  | [] => 0
  | w :: ws => w.toNat + 2 ^ 32 * ofWords ws

/-- concat of R9 for a pair: the low word in the lower register (R25). -/
def pairOf (lo hi : Word) : DWord := BitVec.ofNat 64 (lo.toNat + 2 ^ 32 * hi.toNat)

def loWord (x : DWord) : Word := BitVec.ofNat 32 x.toNat
def hiWord (x : DWord) : Word := BitVec.ofNat 32 (x.toNat / 2 ^ 32)

/-- x divided by y, rounded up. -/
def cdiv (x y : Nat) : Nat := (x + y - 1) / y

/-- Replace element `n` of a list that has it. -/
def upd {α : Type} (l : List α) (n : Nat) (f : α → α) : List α := l.modify n f

end Sys2Proof.Machine
end

