-- ==== Sys2Proof/Machine/Num.lean ====
section
/-! DEFINITION. Num.lean: number formats and rounding (spec/05_number_formats.md): exact values, the formats of R88 and
the nf formats of R93, decoding (R96), rounding (R102), fitting (R103, R441) and stochastic rounding (R104). -/
namespace Sys2Proof.Machine

/-- An exact value: NaN, an infinity, or the finite value (−1)^neg × 2^e × x, where x is `m`, or lies strictly between
`m` and `m + 1` when `st` is set. -/
inductive Val where
  | nan
  | inf (neg : Bool)
  | fin (neg : Bool) (m : Nat) (e : Int) (st : Bool)
deriving DecidableEq, Repr

/-- A zero of the given sign. -/
def Val.zero (neg : Bool) : Val := .fin neg 0 0 false
def Val.isNan : Val → Bool
  | .nan => true
  | _ => false
def Val.isZero : Val → Bool
  | .fin _ m _ st => m == 0 && !st
  | _ => false
def Val.neg : Val → Val
  | .nan => .nan
  | .inf n => .inf (!n)
  | .fin n m e st => .fin (!n) m e st

/-- A rounding mode of R102; `sr` carries the 16 random bits of R104. -/
inductive Rnd where
  | rne | rz | ru | rd | rna
  | sr (rnd : Nat)
deriving DecidableEq, Repr

/-- The mode rounds a value of this sign toward zero (R103). -/
def Rnd.towardZero (r : Rnd) (neg : Bool) : Bool :=
  match r with
  | .rz => true
  | .rd => !neg
  | .ru => neg
  | _ => false

/-- A floating-point format: sign present, exponent and mantissa widths, bias and special policy (R88, R93). The
formats of R88 have policy 2. -/
structure Flt where
  sgn  : Bool
  eb   : Nat
  mb   : Nat
  bias : Int
  pol  : Nat
deriving DecidableEq, Repr

def fp64 : Flt := { sgn := true, eb := 11, mb := 52, bias := 1023, pol := 2 }
def fp32 : Flt := { sgn := true, eb := 8, mb := 23, bias := 127, pol := 2 }
def fp16 : Flt := { sgn := true, eb := 5, mb := 10, bias := 15, pol := 2 }
def bf16 : Flt := { sgn := true, eb := 8, mb := 7, bias := 127, pol := 2 }

/-- The exponent of the subnormal spacing. -/
def Flt.qmin (f : Flt) : Int := 1 - f.bias - f.mb
/-- Code width without the sign. -/
def Flt.mw (f : Flt) : Nat := f.eb + f.mb
/-- The code of +∞ under policy 2. -/
def Flt.infCode (f : Flt) : Nat := (2 ^ f.eb - 1) * 2 ^ f.mb
/-- The code of the greatest finite value (R88, R96). -/
def Flt.maxCode (f : Flt) : Nat :=
  if f.pol = 2 then f.infCode - 1 else if f.pol = 1 then 2 ^ f.mw - 2 else 2 ^ f.mw - 1
/-- What a NaN fits to (R88, R103): the NaN code with sign 0, or +0 where the format has none. -/
def Flt.nanCode (f : Flt) : Nat :=
  if f.pol = 2 then (if f.mb = 0 then 0 else f.infCode + 2 ^ (f.mb - 1))
  else if f.pol = 1 then 2 ^ f.mw - 1 else 0
/-- The code of magnitude `c` with a sign. -/
def Flt.signed (f : Flt) (neg : Bool) (c : Nat) : Nat := if neg then 2 ^ f.mw + c else c

/-- The value of a code (R88, R96). -/
def decodeF (f : Flt) (c : Nat) : Val :=
  let mag := c % 2 ^ f.mw
  let neg := f.sgn && c / 2 ^ f.mw % 2 == 1
  let ex := mag / 2 ^ f.mb
  let m := mag % 2 ^ f.mb
  if f.pol = 1 ∧ mag = 2 ^ f.mw - 1 then .nan
  else if f.pol = 2 ∧ ex = 2 ^ f.eb - 1 then (if m = 0 then .inf neg else .nan)
  else if ex = 0 then .fin neg m f.qmin false
  else .fin neg (2 ^ f.mb + m) (f.qmin + ((ex : Int) - 1)) false

/-- The multiple of 2^q that a mode chooses for the magnitude x × 2^e (R102, R104), x being `m` or between `m` and `m + 1`. The caller keeps q above e
where x is not exact. A tie of .rne goes to the even significand; where a format keeps no mantissa bit both neighbours have the significand 1, and
it goes to the larger (R102 does not say which: DESIGN CHOICE, assumption log 87). -/
def roundAt (r : Rnd) (neg : Bool) (m : Nat) (e : Int) (st : Bool) (q : Int) : Nat :=
  if q ≤ e then m * 2 ^ (e - q).toNat
  else
    let s := (q - e).toNat
    let k := m / 2 ^ s
    let rem := m % 2 ^ s
    let half := 2 ^ (s - 1)
    if rem = 0 ∧ st = false then k
    else
      let up : Bool :=
        match r with
        | .rz => false
        | .ru => !neg
        | .rd => neg
        | .rna => decide (half ≤ rem)
        | .rne => decide (half < rem) || (rem == half && (st || k % 2 == 1))
        | .sr rnd => decide (2 ^ 16 ≤ rem * 2 ^ 16 / 2 ^ s + rnd)
      if up then k + 1 else k

/-- Fit a value to a floating-point format (R102, R103). -/
def fitF (f : Flt) (r : Rnd) (sat : Bool) (v : Val) : Nat :=
  match v with
  | .nan => f.nanCode
  | .inf neg =>
    if neg && !f.sgn then 0
    else if f.pol = 0 ∨ sat = true then f.signed neg f.maxCode
    else if f.pol = 1 then f.nanCode
    else f.signed neg f.infCode
  | .fin neg m e st =>
    if neg && !f.sgn then 0
    else if m = 0 ∧ st = false then f.signed neg 0
    else
      let q := max f.qmin ((Nat.log2 m : Int) + e - f.mb)
      let c := (q - f.qmin).toNat * 2 ^ f.mb + roundAt r neg m e st q
      if c ≤ f.maxCode then f.signed neg c
      else if f.pol = 0 ∨ sat = true ∨ r.towardZero neg = true then f.signed neg f.maxCode
      else if f.pol = 1 then f.nanCode
      else f.signed neg f.infCode

/-- Fit a value to an integer of `w` bits with spacing 2^(−bias) (R102, R103): the code, reduced to `w` bits. -/
def fitI (sgn : Bool) (w : Nat) (bias : Int) (r : Rnd) (v : Val) : Nat :=
  let hi : Int := if sgn then 2 ^ (w - 1) - 1 else 2 ^ w - 1
  let lo : Int := if sgn then - 2 ^ (w - 1) else 0
  let clamp (x : Int) : Nat := ((min hi (max lo x)) % (2 ^ w : Int)).toNat
  match v with
  | .nan => 0
  | .inf neg => clamp (if neg then lo else hi)
  | .fin neg m e st =>
    if (Nat.log2 m : Int) + e + bias > 80 then clamp (if neg then lo else hi)
    else
      let k : Int := roundAt r neg m e st (- bias)
      clamp (if neg then - k else k)

/-- Fit a value to an E8M0 scale (R441). -/
def fitE8M0 (r : Rnd) (sat : Bool) (v : Val) : Nat :=
  match v with
  | .nan => 0xFF
  | .inf true => 0
  | .inf false => if sat then 0xFE else 0xFF
  | .fin neg m e st =>
    if neg || (m == 0) then 0
    else
      let q := (Nat.log2 m : Int) + e
      let k := roundAt r false m e st q
      let y : Int := if k = 2 then q + 1 else q
      if y < -127 ∨ q < -128 ∨ (q = -128 ∧ m = 2 ^ Nat.log2 m ∧ st = false) then 0
      else if y > 127 then (if sat || r.towardZero false then 0xFE else 0xFF)
      else (y + 127).toNat

/-- The value of an E8M0 scale (R100). -/
def decodeE8M0 (c : Nat) : Val := if c % 256 = 255 then .nan else .fin false 1 ((c % 256 : Nat) - 127) false

/-! The nf formats (R93–R97). -/

/-- The fields of an nf register (R93). -/
structure Nf where
  s    : Nat
  e    : Nat
  m    : Nat
  bias : Int
  pol  : Nat
deriving DecidableEq, Repr

def nfOf (x : BitVec 16) : Nf :=
  { s := bits x 15 15, e := bits x 14 12, m := bits x 11 9, bias := sextN 7 (bits x 8 2), pol := bits x 1 0 }

/-- Code width w (R93). -/
def Nf.width (n : Nf) : Nat := n.s + n.e + n.m
/-- Container width (R95). -/
def Nf.container (n : Nf) : Nat := if n.width ≤ 4 then 4 else 8
def Nf.flt (n : Nf) : Flt := { sgn := n.s == 1, eb := n.e, mb := n.m, bias := n.bias, pol := n.pol }
/-- FMTLD accepts the value (R73). -/
def nfLegal (x : BitVec 16) : Bool :=
  let n := nfOf x
  !(n.width == 0 || 8 < n.width || n.e == 7 || n.pol == 3 || (n.e == 0 && n.pol != 0)
    || (n.pol == 2 && n.e < 2) || (n.pol == 1 && n.width < 2))

/-- The value of a code in its container (R95, R96). -/
def decodeNf (n : Nf) (c : Nat) : Val :=
  if n.e = 0 then
    let v : Int := if n.s = 1 then sextN n.width c else ((c % 2 ^ n.width : Nat) : Int)
    .fin (v < 0) v.natAbs (- n.bias) false
  else decodeF n.flt c

/-- Fit a value to an nf format (R103). -/
def fitNf (n : Nf) (r : Rnd) (sat : Bool) (v : Val) : Nat :=
  if n.e = 0 then fitI (n.s == 1) n.width n.bias r v else fitF n.flt r sat v

/-- Element `j` of the packed containers in a number (R95). -/
def nfElem (n : Nf) (x j : Nat) : Nat := x / 2 ^ (n.container * j) % 2 ^ n.container

/-- nf0–nf7 when a group starts (R94). -/
def nfReset : List (BitVec 16) := [0xC61D, 0xD43E, 0xB40C, 0xA604, 0xA204, 0x8E00, 0x8600, 0x461D]

/-! Stochastic rounding (R104, R105). -/

def srMix (z : Nat) : Nat :=
  let z := z ^^^ (z / 2 ^ 16)
  let z := z * 0x7FEB352D % 2 ^ 32
  let z := z ^^^ (z / 2 ^ 15)
  let z := z * 0x846CA68B % 2 ^ 32
  z ^^^ (z / 2 ^ 16)

/-- The 16 random bits for element `j` (R104). -/
def srRnd (seed : Word) (lane j : Nat) : Nat :=
  srMix (seed.toNat ^^^ ((lane * 2 ^ 27) % 2 ^ 32) ^^^ (j * 2 ^ 24)) % 2 ^ 16

/-- SRSEED after an instruction rounded by SR (R105). -/
def srNext (seed : Word) : Word := seed + 0x9E3779B9

/-- The mode of a rounding field (R45, R102). -/
def rndOf (code : Nat) (seed : Word) (lane j : Nat) : Rnd :=
  match code with
  | 0 => .rne
  | 1 => .rz
  | 2 => .ru
  | 3 => .rd
  | 4 => .rna
  | _ => .sr (srRnd seed lane j)

/-! Exact arithmetic (R90). -/

/-- The exact sum; an exact zero sum is +0 unless both terms are −0 (R90). -/
def addV (x y : Val) : Val :=
  match x, y with
  | .nan, _ => .nan
  | _, .nan => .nan
  | .inf a, .inf b => if a = b then .inf a else .nan
  | .inf a, _ => .inf a
  | _, .inf b => .inf b
  | .fin na ma ea _, .fin nb mb eb _ =>
    let e := min ea eb
    let a : Int := (ma * 2 ^ (ea - e).toNat : Nat)
    let b : Int := (mb * 2 ^ (eb - e).toNat : Nat)
    let s := (if na then - a else a) + (if nb then - b else b)
    if s = 0 then .zero (na && nb && ma == 0 && mb == 0) else .fin (s < 0) s.natAbs e false

/-- The exact product. -/
def mulV (x y : Val) : Val :=
  match x, y with
  | .nan, _ => .nan
  | _, .nan => .nan
  | .inf a, .inf b => .inf (a != b)
  | .inf a, .fin b m _ _ => if m = 0 then .nan else .inf (a != b)
  | .fin a m _ _, .inf b => if m = 0 then .nan else .inf (a != b)
  | .fin na ma ea _, .fin nb mb eb _ => .fin (na != nb) (ma * mb) (ea + eb) false

/-- The quotient, to more bits than any format of R88 keeps (R115). -/
def divV (x y : Val) : Val :=
  match x, y with
  | .nan, _ => .nan
  | _, .nan => .nan
  | .inf _, .inf _ => .nan
  | .inf a, .fin b _ _ _ => .inf (a != b)
  | .fin a _ _ _, .inf b => .zero (a != b)
  | .fin na ma ea _, .fin nb mb eb _ =>
    if mb = 0 then (if ma = 0 then .nan else .inf (na != nb))
    else if ma = 0 then .zero (na != nb)
    else
      let s := Nat.log2 mb + 80
      let n := ma * 2 ^ s
      .fin (na != nb) (n / mb) (ea - eb - (s : Int)) (n % mb != 0)

/-- Newton's iteration for the integer square root, from above, with fuel. -/
def isqrtGo : Nat → Nat → Nat → Nat
  | 0, _, x => x
  | f + 1, n, x =>
    let y := (x + n / x) / 2
    if y < x then isqrtGo f n y else x

/-- The integer square root. -/
def isqrt (n : Nat) : Nat := if n = 0 then 0 else isqrtGo (Nat.log2 n + 8) n (2 ^ (Nat.log2 n / 2 + 1))

/-- The square root, to more bits than any format of R88 keeps (R115). -/
def sqrtV (x : Val) : Val :=
  match x with
  | .nan => .nan
  | .inf neg => if neg then .nan else .inf false
  | .fin neg m e _ =>
    if m = 0 then .zero neg
    else if neg then .nan
    else
      let s : Nat := if e % 2 = 0 then 160 else 161
      let n := m * 2 ^ s
      let r := isqrt n
      .fin false r ((e - (s : Int)) / 2) (r * r != n)

/-- The exact sum of a list of terms; the terms of an empty list sum to +0. -/
def sumV : List Val → Val
  | [] => .zero false
  | [x] => x
  | x :: y :: l => addV x (sumV (y :: l))

end Sys2Proof.Machine
end

