-- ==== Sys2Proof/Machine/Xfn.lean ====
section
/-! DEFINITION. Xfn.lean: the correctly rounded functions of XFN (R114, R115), EXP2 shared with the bank attention
units (R122). Each transcendental value is enclosed between two fixed-point numbers; the precision is raised until both
ends round to one FP32 value (assumption log 8). -/
namespace Sys2Proof.Machine

/-- Σ z^(2i+1) / (2i+1), alternating if `alt`: the series of atanh and atan, in units of 2^−P, with fuel. -/
def odd1 (alt : Bool) : Nat → Nat → Nat → Nat → Nat → Int
  | 0, _, _, _, _ => 0
  | f + 1, p, z2, t, k =>
    if t = 0 then 0
    else (t / k : Nat) + (if alt then -1 else 1) * odd1 alt f p z2 (t * z2 / 2 ^ p) (k + 2)

/-- atanh (or atan) of z × 2^−P, z × 2^−P at most 1/3. -/
def atanhP (alt : Bool) (p z : Nat) : Int := odd1 alt (p + 4) p (z * z / 2 ^ p) z 1

/-- ln 2 in units of 2^−P. -/
def ln2P (p : Nat) : Nat := (2 * atanhP false p (2 ^ p / 3)).toNat
/-- π in units of 2^−P (Machin). -/
def piP (p : Nat) : Nat := (16 * atanhP true p (2 ^ p / 5) - 4 * atanhP true p (2 ^ p / 239)).toNat

/-- Σ r^k / k!, in units of 2^−P, with fuel. -/
def expGo : Nat → Nat → Nat → Nat → Nat → Nat
  | 0, _, _, _, _ => 0
  | f + 1, p, r, t, k => if t = 0 then 0 else t + expGo f p r (t * r / (k * 2 ^ p)) (k + 1)

/-- e^(r × 2^−P) for r × 2^−P below 1, in units of 2^−P. -/
def expP (p r : Nat) : Nat := expGo (p + 4) p r (2 ^ p) 1

/-- Σ (−1)^k θ^(2k+1) / (2k+1)!, in units of 2^−P, with fuel. -/
def sinGo : Nat → Nat → Nat → Nat → Nat → Int
  | 0, _, _, _, _ => 0
  | f + 1, p, th2, t, k =>
    if t = 0 then 0 else (t : Int) - sinGo f p th2 (t * th2 / (k * (k + 1) * 2 ^ p)) (k + 2)

def sinP (p th : Nat) : Int := sinGo (p + 4) p (th * th / 2 ^ p) th 2

/-- m × 2^e in units of 2^−P, rounded down. -/
def toFix (p m : Nat) (e : Int) : Nat :=
  if 0 ≤ e + p then m * 2 ^ (e + p).toNat else m / 2 ^ (- (e + p)).toNat

/-- The FP32 code both ends of an enclosure round to. -/
def agree (neg : Bool) (p : Nat) (v : Int) (sh : Int) : Option Nat :=
  let err : Int := 2 ^ 24
  let end1 (x : Int) : Nat :=
    fitF fp32 .rne false (.fin (if x < 0 then !neg else neg) x.natAbs (sh - p) false)
  if end1 (v - err) = end1 (v + err) then some (end1 v) else none

/-- Raise the precision until the ends agree; at the last precision the middle is taken. -/
def refine (f : Nat → Int × Int) (neg : Bool) : Nat :=
  let t (p : Nat) : Option Nat := agree neg p (f p).1 (f p).2
  match t 200 with
  | some c => c
  | none =>
    match t 400 with
    | some c => c
    | none =>
      match t 800 with
      | some c => c
      | none => fitF fp32 .rne false (.fin ((f 800).1 < 0) (f 800).1.natAbs ((f 800).2 - 800) false)

def one32 : Nat := 0x3F800000
def nan32 : Nat := 0x7FC00000
def inf32 : Nat := 0x7F800000
def negInf32 : Nat := 0xFF800000
def negZero32 : Nat := 0x80000000

/-- ±m × 2^e split into an integer and a fraction in units of 2^−P. -/
def splitFix (p : Nat) (neg : Bool) (m : Nat) (e : Int) : Int × Nat :=
  let x : Int := toFix p m e
  let y := if neg then - x else x
  (y / 2 ^ p, (y % 2 ^ p).toNat)

/-- 2^x for ±m × 2^e: the fixed-point value of 2^fraction and the power of two. -/
def exp2Fix (neg : Bool) (m : Nat) (e : Int) (p : Nat) : Int × Int :=
  let (n, f) := splitFix p neg m e
  ((expP p (f * ln2P p / 2 ^ p) : Nat), n)

/-- The greatest power of two that still lies within 2^12: a finite FP32 operand at or beyond it overflows or
underflows every exponential. -/
def bigExp (m : Nat) (e : Int) : Bool := m != 0 && 12 ≤ (Nat.log2 m : Int) + e

/-- A positive value below every FP32 value, and one above. -/
def tiny32 : Nat := fitF fp32 .rne false (.fin false 1 (-1000) false)
def huge32 : Nat := fitF fp32 .rne false (.fin false 1 1000 false)

/-- EXP2 (R114, R115). -/
def xExp2 (a : Nat) : Nat :=
  match decodeF fp32 a with
  | .nan => nan32
  | .inf neg => if neg then 0 else inf32
  | .fin neg m e _ =>
    if m = 0 then one32
    else if bigExp m e then (if neg then tiny32 else huge32)
    else if 0 ≤ e ∨ m % 2 ^ (- e).toNat = 0 then
      let n : Int := toFix 0 m e
      fitF fp32 .rne false (.fin false 1 (if neg then - n else n) false)
    else refine (exp2Fix neg m e) false

/-- e^x for ±m × 2^e: with y = x / ln 2 = n + f, 2^f and n. -/
def expFix (neg : Bool) (m : Nat) (e : Int) (p : Nat) : Int × Int :=
  let x : Int := toFix (p + 32) m e
  let y := if neg then - x else x
  let l : Int := ln2P (p + 32)
  let n := y / l
  ((expP p ((y % l).toNat / 2 ^ 32) : Nat), n)

/-- EXP (R114, R115). -/
def xExp (a : Nat) : Nat :=
  match decodeF fp32 a with
  | .nan => nan32
  | .inf neg => if neg then 0 else inf32
  | .fin neg m e _ =>
    if m = 0 then one32
    else if bigExp m e then (if neg then tiny32 else huge32)
    else refine (expFix neg m e) false

/-- ln of the mantissa m × 2^−k in [1, 2), in units of 2^−P. -/
def lnMant (p m k : Nat) : Int :=
  2 * atanhP false p ((m - 2 ^ k) * 2 ^ p / (m + 2 ^ k))

/-- LOG2 (R114, R115). -/
def xLog2 (a : Nat) : Nat :=
  match decodeF fp32 a with
  | .nan => nan32
  | .inf neg => if neg then nan32 else inf32
  | .fin neg m e _ =>
    if m = 0 then negInf32
    else if neg then nan32
    else
      let k := Nat.log2 m
      let ex : Int := k + e
      if m = 2 ^ k then fitF fp32 .rne false (.fin (ex < 0) ex.natAbs 0 false)
      else refine (fun p => (ex * 2 ^ p + lnMant p m k * 2 ^ p / (ln2P p : Int), 0)) false

/-- LOG (R114, R115). -/
def xLog (a : Nat) : Nat :=
  match decodeF fp32 a with
  | .nan => nan32
  | .inf neg => if neg then nan32 else inf32
  | .fin neg m e _ =>
    if m = 0 then negInf32
    else if neg then nan32
    else
      let k := Nat.log2 m
      let ex : Int := k + e
      if m = 2 ^ k ∧ ex = 0 then 0
      else refine (fun p => (ex * (ln2P p : Int) + lnMant p m k, 0)) false

/-- |sin(π f)| for the fraction f in units of 2^−k, and whether the value is exact. -/
def sinQuarter (f k p : Nat) : Int :=
  -- f in [0, 2^k): fold to [0, 1/2]
  let g := if 2 * f ≤ 2 ^ k then f else 2 ^ k - f
  sinP p (piP p * g / 2 ^ k)

/-- sin(π (f × 2^−k)), f below 2^(k+1), of sign `neg`; `zneg` is the sign of a zero. -/
def sinpiCore (neg zneg : Bool) (f k : Nat) : Nat :=
  let n := neg != decide (2 ^ k ≤ f)
  let g := f % 2 ^ k
  if g = 0 then (if zneg then negZero32 else 0)
  else if 2 * g = 2 ^ k then (if n then 2 ^ 31 + one32 else one32)
  else refine (fun p => (sinQuarter g k p, 0)) n

/-- SINPI (R114, R115). -/
def xSinpi (a : Nat) : Nat :=
  match decodeF fp32 a with
  | .nan => nan32
  | .inf _ => nan32
  | .fin neg m e _ =>
    if 0 ≤ e then (if neg then negZero32 else 0)
    else sinpiCore neg neg (m % 2 ^ ((- e).toNat + 1)) (- e).toNat

/-- COSPI (R114, R115): the sine of π (|a| + 1/2). -/
def xCospi (a : Nat) : Nat :=
  match decodeF fp32 a with
  | .nan => nan32
  | .inf _ => nan32
  | .fin _ m e _ =>
    if 0 ≤ e then (if (m * 2 ^ e.toNat) % 2 = 0 then one32 else 2 ^ 31 + one32)
    else
      let k := (- e).toNat
      sinpiCore false false ((m + 2 ^ (k - 1)) % 2 ^ (k + 1)) k

/-- TANH (R114, R115): (1 − u) / (1 + u) with u = e^(−2|a|). -/
def xTanh (a : Nat) : Nat :=
  match decodeF fp32 a with
  | .nan => nan32
  | .inf neg => if neg then 2 ^ 31 + one32 else one32
  | .fin neg m e _ =>
    if m = 0 then (if neg then negZero32 else 0)
    else if 6 ≤ (Nat.log2 m : Int) + e then (if neg then 2 ^ 31 + one32 else one32)
    else refine (fun p =>
      let w := expFix true m (e + 1) p
      let u : Int := w.1 / 2 ^ (- w.2).toNat
      (((2 ^ p - u) * 2 ^ p) / (2 ^ p + u), 0)) neg

/-- SIGM (R114, R115): with u = e^(−|a|), 1 / (1 + u), or u / (1 + u) for a negative operand. -/
def xSigm (a : Nat) : Nat :=
  match decodeF fp32 a with
  | .nan => nan32
  | .inf neg => if neg then 0 else one32
  | .fin neg m e _ =>
    if m = 0 then 0x3F000000
    else if bigExp m e then (if neg then tiny32 else one32)
    else refine (fun p =>
      let w := expFix true m e p
      let u : Int := w.1 / 2 ^ (- w.2).toNat
      let n : Int := if neg then w.1 * 2 ^ p else 2 ^ p * 2 ^ p
      (n / (2 ^ p + u), if neg then w.2 else 0)) false

/-- RCP (R115). -/
def xRcp (a : Nat) : Nat := fitF fp32 .rne false (divV (.fin false 1 0 false) (decodeF fp32 a))

/-- SQRT (R115). -/
def xSqrt (a : Nat) : Nat := fitF fp32 .rne false (sqrtV (decodeF fp32 a))

/-- RSQ (R115): 1 ÷ √a; −0 gives −∞. -/
def xRsq (a : Nat) : Nat :=
  match decodeF fp32 a with
  | .nan => nan32
  | .inf neg => if neg then nan32 else 0
  | .fin neg m e _ =>
    if m = 0 then (if neg then negInf32 else inf32)
    else if neg then nan32
    else
      -- 2^(2j) / (m × 2^parity), floor of its square root
      let par : Nat := if e % 2 = 0 then 0 else 1
      let d := m * 2 ^ par
      let j : Nat := 120
      let n := 2 ^ (2 * j)
      let r := isqrt (n / d)
      fitF fp32 .rne false (.fin false r (- (j : Int) - (e - par) / 2) (r * r * d != n))

/-- DIV (R115). -/
def xDiv (a b : Nat) : Nat := fitF fp32 .rne false (divV (decodeF fp32 a) (decodeF fp32 b))

end Sys2Proof.Machine
end

