-- ==== Sys2Proof/Machine/FpOps.lean ====
section
/-! DEFINITION. FpOps.lean: what the floating-point and conversion instructions compute from the bits of their operands
(spec/06_float_instructions.md). -/
namespace Sys2Proof.Machine

def v32 (x : Word) : Val := decodeF fp32 x.toNat
def v64 (x : DWord) : Val := decodeF fp64 x.toNat
/-- Fit to FP32 by RNE (R106). -/
def f32 (v : Val) : Word := BitVec.ofNat 32 (fitF fp32 .rne false v)
/-- Fit to FP64 by RNE (R120). -/
def f64 (v : Val) : DWord := BitVec.ofNat 64 (fitF fp64 .rne false v)

/-! FOP (R107, R108). -/

def fpAdd (a b : Word) : Word := f32 (addV (v32 a) (v32 b))
def fpSub (a b : Word) : Word := f32 (addV (v32 a) (v32 b).neg)
def fpMul (a b : Word) : Word := f32 (mulV (v32 a) (v32 b))

/-- The place of a non-NaN code in the order with −0 < +0 (R108). -/
def fltKey (f : Flt) (c : Nat) : Int :=
  let mag : Int := (c % 2 ^ f.mw : Nat)
  if c / 2 ^ f.mw % 2 = 1 then - mag - 1 else mag

/-- FMIN and FMAX on codes of one format (R108): a NaN gives the canonical NaN; equal values give the bits of `a`. -/
def minMaxF (f : Flt) (max : Bool) (a b : Nat) : Nat :=
  if (decodeF f a).isNan || (decodeF f b).isNan then f.nanCode
  else if max then (if fltKey f a < fltKey f b then b else a)
  else (if fltKey f b < fltKey f a then b else a)

/-- FMINN and FMAXN (R108): a NaN operand gives way to the other. -/
def minMaxNumF (f : Flt) (max : Bool) (a b : Nat) : Nat :=
  if (decodeF f a).isNan && (decodeF f b).isNan then f.nanCode
  else if (decodeF f a).isNan then b
  else if (decodeF f b).isNan then a
  else minMaxF f max a b

def fpMin (a b : Word) : Word := BitVec.ofNat 32 (minMaxF fp32 false a.toNat b.toNat)
def fpMax (a b : Word) : Word := BitVec.ofNat 32 (minMaxF fp32 true a.toNat b.toNat)
def fpMinN (a b : Word) : Word := BitVec.ofNat 32 (minMaxNumF fp32 false a.toNat b.toNat)
def fpMaxN (a b : Word) : Word := BitVec.ofNat 32 (minMaxNumF fp32 true a.toNat b.toNat)
def fpAbs (a : Word) : Word := BitVec.ofNat 32 (a.toNat % 2 ^ 31)
def fpNeg (a : Word) : Word := a ^^^ 0x80000000
def fpCpsgn (a b : Word) : Word := BitVec.ofNat 32 (a.toNat % 2 ^ 31 + (b.toNat / 2 ^ 31) * 2 ^ 31)

/-- Round to an integral value (R107, R108): a zero result takes the sign of the operand. -/
def fpIntegral (r : Rnd) (a : Word) : Word :=
  match v32 a with
  | .nan => BitVec.ofNat 32 nan32
  | .inf _ => a
  | .fin neg m e st => if 0 ≤ e then a else f32 (.fin neg (roundAt r neg m e st 0) 0 false)

/-- FFRAC (R107, R108). -/
def fpFrac (a : Word) : Word :=
  match v32 a with
  | .nan => BitVec.ofNat 32 nan32
  | .inf _ => BitVec.ofNat 32 nan32
  | .fin neg m e _ => if 0 ≤ e then f32 (.zero neg) else f32 (.fin neg (m % 2 ^ (- e).toNat) e false)

/-- FSCALE (R107, R108). Beyond ±600 the power of two no longer changes the rounded result, so it is held there. -/
def fpScale (a b : Word) : Word :=
  match v32 a with
  | .nan => BitVec.ofNat 32 nan32
  | .inf _ => a
  | .fin neg m e st =>
    if m = 0 then a else f32 (.fin neg m (e + max (-600) (min 600 b.toInt)) st)

/-! FMA (R109). -/

def fpFma (a b d : Word) : Word := f32 (addV (mulV (v32 a) (v32 b)) (v32 d))
def fpFms (a b d : Word) : Word := f32 (addV (mulV (v32 a) (v32 b)) (v32 d).neg)
/-- Negate a result that is not NaN. -/
def negRes (x : Word) : Word := if (v32 x).isNan then x else fpNeg x

/-! HOP (R110, R111). -/

def lo16 (x : Word) : Nat := x.toNat % 2 ^ 16
def hi16 (x : Word) : Nat := x.toNat / 2 ^ 16
/-- Apply an operation to the two elements of a register (R89). -/
def pack2 (g : Nat → Nat → Nat → Nat) (a b d : Word) : Word :=
  BitVec.ofNat 32 (g (lo16 a) (lo16 b) (lo16 d) + 2 ^ 16 * g (hi16 a) (hi16 b) (hi16 d))
def fit16 (f : Flt) (v : Val) : Nat := fitF f .rne false v
def hAdd (f : Flt) (a b _d : Nat) : Nat := fit16 f (addV (decodeF f a) (decodeF f b))
def hSub (f : Flt) (a b _d : Nat) : Nat := fit16 f (addV (decodeF f a) (decodeF f b).neg)
def hMul (f : Flt) (a b _d : Nat) : Nat := fit16 f (mulV (decodeF f a) (decodeF f b))
def hFma (f : Flt) (a b d : Nat) : Nat := fit16 f (addV (mulV (decodeF f a) (decodeF f b)) (decodeF f d))
def hMin (f : Flt) (a b _d : Nat) : Nat := minMaxF f false a b
def hMax (f : Flt) (a b _d : Nat) : Nat := minMaxF f true a b
/-- HDOT2 and BDOT2 (R111). -/
def dot2 (f : Flt) (a b d : Word) : Word :=
  f32 (sumV [mulV (decodeF f (lo16 a)) (decodeF f (lo16 b)), mulV (decodeF f (hi16 a)) (decodeF f (hi16 b)), v32 d])

/-! Compares (R112, R113, R121). -/

/-- How two values compare: none when an operand is NaN. −0 and +0 are equal. -/
def cmpF (f : Flt) (a b : Nat) : Option Ordering :=
  if (decodeF f a).isNan || (decodeF f b).isNan then none
  else
    let key (c : Nat) : Int :=
      let mag : Int := (c % 2 ^ f.mw : Nat)
      if c / 2 ^ f.mw % 2 = 1 then - mag else mag
    some (compare (key a) (key b))

/-- The condition of an FCMP minor 0–13 (R112). -/
def fcmpCond (minor : Nat) (o : Option Ordering) : Bool :=
  match o with
  | none => decide (8 ≤ minor) || minor == 6
  | some c =>
    match minor with
    | 0 => c == .eq
    | 1 => c != .eq
    | 2 => c == .lt
    | 3 => c != .gt
    | 4 => c == .gt
    | 5 => c != .lt
    | 6 => false
    | 7 => true
    | 8 => c == .eq
    | 9 => c != .eq
    | 10 => c == .lt
    | 11 => c != .gt
    | 12 => c == .gt
    | _ => c != .lt

/-- The class number of an FP32 value (R113). -/
def fpClass (a : Word) : Nat :=
  let ex := bits a 30 23
  let m := bits a 22 0
  let neg := bit a 31
  if ex = 255 ∧ m ≠ 0 then 8
  else if ex = 255 then (if neg then 0 else 7)
  else if ex = 0 ∧ m = 0 then (if neg then 3 else 4)
  else if ex = 0 then (if neg then 2 else 5)
  else (if neg then 1 else 6)

/-! SMX (R122–R124). -/

/-- EXP2(round(a − b)) (R122). -/
def expSub (a b : Word) : Word := BitVec.ofNat 32 (xExp2 (fpSub a b).toNat)

/-- A term whose factor is +0 is +0, whatever the other operand holds (R123, R124). -/
def skipTerm (x factor : Word) : Val := if factor = 0 then .zero false else mulV (v32 x) (v32 factor)

/-- MLMRG (R123): the merged maximum, the merged sum and the two factors. Which of two zeros of opposite sign is the greater the rule does not say:
the model takes +0, as FMAX does (DESIGN CHOICE, assumption log 34). -/
def mlMerge (m0 l0 m1 l1 : Word) : Word × Word × Word × Word :=
  let n : Word := BitVec.ofNat 32 nan32
  let ninf : Word := BitVec.ofNat 32 negInf32
  if (v32 m0).isNan || (v32 m1).isNan || (v32 l0).isNan || (v32 l1).isNan || m0 == BitVec.ofNat 32 inf32
      || m1 == BitVec.ofNat 32 inf32 then (n, n, n, n)
  else
    let mn := fpMax m0 m1
    let f0 := if m0 = ninf then 0 else expSub m0 mn
    let f1 := if m1 = ninf then 0 else expSub m1 mn
    (mn, f32 (addV (skipTerm l0 f0) (skipTerm l1 f1)), f0, f1)

/-- RESCALE (R124). -/
def rescale (d a f0 f1 : Word) : Word := f32 (addV (skipTerm d f0) (skipTerm a f1))

/-! CVT (R116–R119). -/

/-- Four codes of a PACKN (R118). -/
def packCodes (n : Nf) (r : Nat → Rnd) (sat : Bool) (xs : List Word) : Nat :=
  ((List.range 4).map (fun j => fitNf n (r j) sat (v32 (xs.getD j 0)) * 2 ^ (n.container * j))).foldl (· + ·) 0

end Sys2Proof.Machine
end

