-- ==== Sys2Proof/Config.lean ====
section
/-! DEFINITION. Config.lean: what one QM-EL512 fixes and the spec does not (the configuration record of R18, the
capability bits of R131), and the free values: constants with no body, of which nothing can be proved. -/
namespace Sys2Proof.Config

/-- The capability mask of the QM-EL512 (R131): bits 0–13. -/
def caps : Nat := 2 ^ 14 - 1

/-- The bytes measured under indices 1, 2 and 4 (R438): the boot ROM version and the firmware images, which the spec does not give. -/
opaque image : Nat → List Byte

/-- A byte of the Ed448 signature of a message under a private key (R439), by its number: the spec does not give the algorithm. -/
opaque ed448 : List Byte → List Byte → Nat → Byte

/-- The n-th byte the model leaves open, wherever the spec calls a byte unspecified (R8). -/
opaque freeByte : Nat → Byte

/-- The KIND of the page that the peer access of a number meets at its owner, another package (R174, R195): 0 SO, 2 UO, any other RC. -/
opaque peerKind : Nat → Nat

/-- The size of the page of another package that a PUBL names by an address (R239): 0 the largest, 1 the middle one, 2 the smallest. -/
opaque peerLevel : Nat → Nat

/-- Whether the die cannot hold `n` more bytes of thread stacks beside `m` (R30, R133): the size of its region is not
in the spec. -/
opaque stackFull : Nat → Nat → Bool

end Sys2Proof.Config
end

