-- ==== Sys2Proof/Syntax.lean ====
section
/-! DEFINITION. Syntax.lean: the instructions and the steps of spec/opcode_table.json, one constructor per row. The
field letters are those of the table; `h` is the horizon bit of R32. The constructors from `resultDelivery` on are the
steps of the part that no word encodes; their arguments name what the step happens to. -/
namespace Sys2Proof

/-- The instructions of the QM-EL512, and the steps of its parts (spec/opcode_table.json). -/
inductive Instr where
  /-- R48: Does nothing; with H set it only ends a segment. -/
  | nop (h : Bool)
  /-- R38: Ends the thread after a horizon wait; its stores then complete and its registers and stack are released. -/
  | exit (h : Bool)
  /-- R66: Raises USER_TRAP at once with the code in b. -/
  | trap (h : Bool) (b : BitVec 7)
  /-- R66: Raises BREAK, or halts the thread for the debugger when breakpoints are armed. -/
  | brk (h : Bool) (b : BitVec 7)
  /-- R68: Reads system register a×128+b into d, capturing the high word of 64-bit clocks. -/
  | srd (h : Bool) (d a b : BitVec 7)
  /-- R68: Writes the RW fields of system register a×128+b from d, with field checks and PRIVILEGE for RWP. -/
  | swr (h : Bool) (d a b : BitVec 7)
  /-- R72: Moves the vector window base by a signed multiple of 16. -/
  | wbase (h : Bool) (b : BitVec 7)
  /-- R72: Moves the uniform window base by a signed multiple of 8. -/
  | ubase (h : Bool) (b : BitVec 7)
  /-- R141: Sets the yielded mark so the picker gathers the thread only as anchor. -/
  | yield (h : Bool)
  /-- R154: Blocks the thread until the masked live threads wait in JOIN at the same PC or 1,024 cycles pass. -/
  | join (h : Bool) (a : BitVec 7)
  /-- R157: Arrives in the next phase of the level-L set and waits for that phase to complete. -/
  | bar (h : Bool) (b : BitVec 7)
  /-- R157: Records arrival in the earliest unarrived phase of the level-L set and returns the phase number. -/
  | arrive (h : Bool) (d b : BitVec 7)
  /-- R157: Blocks until the named phase of the level-L set has completed. -/
  | bwait (h : Bool) (a b : BitVec 7)
  /-- R155: Makes the thread not ready for n to n+64 cycles. -/
  | nap (h : Bool) (a : BitVec 7)
  /-- R73: Checks and writes format register nf[d] of the group. -/
  | fmtld (h : Bool) (d a : BitVec 7)
  /-- R67: Ends a trap handler and resumes by replay or skip. -/
  | tret (h : Bool) (b : BitVec 7)
  /-- R74: d := a + b mod 2^32. -/
  | add (h : Bool) (d a b : BitVec 7)
  /-- R74: d := a − b mod 2^32. -/
  | sub (h : Bool) (d a b : BitVec 7)
  /-- R74: d := low 32 bits of a × b. -/
  | mul (h : Bool) (d a b : BitVec 7)
  /-- R74: d := high 32 bits of the signed product. -/
  | mulh (h : Bool) (d a b : BitVec 7)
  /-- R74: d := high 32 bits of the unsigned product. -/
  | mulhu (h : Bool) (d a b : BitVec 7)
  /-- R74: d := a AND b. -/
  | and (h : Bool) (d a b : BitVec 7)
  /-- R74: d := a OR b. -/
  | or (h : Bool) (d a b : BitVec 7)
  /-- R74: d := a XOR b. -/
  | xor (h : Bool) (d a b : BitVec 7)
  /-- R74: d := a AND NOT b. -/
  | andn (h : Bool) (d a b : BitVec 7)
  /-- R74: d := a shifted left by b[4:0]. -/
  | shl (h : Bool) (d a b : BitVec 7)
  /-- R74: d := a shifted right logically by b[4:0]. -/
  | shr (h : Bool) (d a b : BitVec 7)
  /-- R74: d := a shifted right arithmetically by b[4:0]. -/
  | sar (h : Bool) (d a b : BitVec 7)
  /-- R74: d := signed minimum of a and b. -/
  | min (h : Bool) (d a b : BitVec 7)
  /-- R74: d := signed maximum of a and b. -/
  | max (h : Bool) (d a b : BitVec 7)
  /-- R74: d := unsigned minimum of a and b. -/
  | minu (h : Bool) (d a b : BitVec 7)
  /-- R74: d := unsigned maximum of a and b. -/
  | maxu (h : Bool) (d a b : BitVec 7)
  /-- R75: Pair d := pair a + pair b mod 2^64. -/
  | add64 (h : Bool) (d a b : BitVec 7)
  /-- R75: Pair d := pair a − pair b mod 2^64. -/
  | sub64 (h : Bool) (d a b : BitVec 7)
  /-- R75: Pair d := low 64 bits of pair a × pair b. -/
  | mul64 (h : Bool) (d a b : BitVec 7)
  /-- R75: d := a × b + d, low 32 bits. -/
  | mad (h : Bool) (d a b : BitVec 7)
  /-- R75: Pair d := sext(a) × sext(b) + pair d, low 64 bits. -/
  | madw (h : Bool) (d a b : BitVec 7)
  /-- R75: d := count of leading zeros of a. -/
  | clz (h : Bool) (d a : BitVec 7)
  /-- R75: d := number of set bits of a. -/
  | popc (h : Bool) (d a : BitVec 7)
  /-- R75: d := a with its bits reversed. -/
  | brev (h : Bool) (d a : BitVec 7)
  /-- R76: Extracts a bit field of a, optionally sign-extended. -/
  | bfe (h : Bool) (d a b : BitVec 7)
  /-- R76: Inserts a bit field of a into d. -/
  | bfi (h : Bool) (d a b : BitVec 7)
  /-- R76: Permutes bytes of pair a into d under selector b. -/
  | prmt (h : Bool) (d a b : BitVec 7)
  /-- R75: d := a rotated left by b[4:0]. -/
  | rol (h : Bool) (d a b : BitVec 7)
  /-- R77: Signed division with fixed results for zero and overflow; variable latency. -/
  | div (h : Bool) (d a b : BitVec 7)
  /-- R77: Unsigned division; variable latency. -/
  | divu (h : Bool) (d a b : BitVec 7)
  /-- R77: Signed remainder; variable latency. -/
  | rem (h : Bool) (d a b : BitVec 7)
  /-- R77: Unsigned remainder; variable latency. -/
  | remu (h : Bool) (d a b : BitVec 7)
  /-- R82: Compares a = b and combines into a predicate. -/
  | icmpEq (h : Bool) (c : BitVec 2) (p : BitVec 3) (a b : BitVec 7)
  /-- R82: Compares a ≠ b and combines into a predicate. -/
  | icmpNe (h : Bool) (c : BitVec 2) (p : BitVec 3) (a b : BitVec 7)
  /-- R82: Signed a < b into a predicate. -/
  | icmpLt (h : Bool) (c : BitVec 2) (p : BitVec 3) (a b : BitVec 7)
  /-- R82: Signed a ≤ b into a predicate. -/
  | icmpLe (h : Bool) (c : BitVec 2) (p : BitVec 3) (a b : BitVec 7)
  /-- R82: Signed a > b into a predicate. -/
  | icmpGt (h : Bool) (c : BitVec 2) (p : BitVec 3) (a b : BitVec 7)
  /-- R82: Signed a ≥ b into a predicate. -/
  | icmpGe (h : Bool) (c : BitVec 2) (p : BitVec 3) (a b : BitVec 7)
  /-- R82: Unsigned a < b into a predicate. -/
  | icmpLtu (h : Bool) (c : BitVec 2) (p : BitVec 3) (a b : BitVec 7)
  /-- R82: Unsigned a ≤ b into a predicate. -/
  | icmpLeu (h : Bool) (c : BitVec 2) (p : BitVec 3) (a b : BitVec 7)
  /-- R82: Unsigned a > b into a predicate. -/
  | icmpGtu (h : Bool) (c : BitVec 2) (p : BitVec 3) (a b : BitVec 7)
  /-- R82: Unsigned a ≥ b into a predicate. -/
  | icmpGeu (h : Bool) (c : BitVec 2) (p : BitVec 3) (a b : BitVec 7)
  /-- R82: 64-bit pair equality into a predicate. -/
  | icmpEq64 (h : Bool) (c : BitVec 2) (p : BitVec 3) (a b : BitVec 7)
  /-- R82: 64-bit pair inequality into a predicate. -/
  | icmpNe64 (h : Bool) (c : BitVec 2) (p : BitVec 3) (a b : BitVec 7)
  /-- R82: Signed 64-bit less-than into a predicate. -/
  | icmpLt64 (h : Bool) (c : BitVec 2) (p : BitVec 3) (a b : BitVec 7)
  /-- R82: Unsigned 64-bit less-than into a predicate. -/
  | icmpLtu64 (h : Bool) (c : BitVec 2) (p : BitVec 3) (a b : BitVec 7)
  /-- R82: Tests bit b[4:0] of a into a predicate. -/
  | icmpBtst (h : Bool) (c : BitVec 2) (p : BitVec 3) (a b : BitVec 7)
  /-- R78: d := a + sext(imm11). -/
  | addi (h : Bool) (d a : BitVec 7) (i : BitVec 11)
  /-- R78: d := a AND zext(imm11). -/
  | andi (h : Bool) (d a : BitVec 7) (i : BitVec 11)
  /-- R78: d := a OR zext(imm11). -/
  | ori (h : Bool) (d a : BitVec 7) (i : BitVec 11)
  /-- R78: d := a XOR zext(imm11). -/
  | xori (h : Bool) (d a : BitVec 7) (i : BitVec 11)
  /-- R78: Shifts a left by an immediate amount. -/
  | shli (h : Bool) (d a : BitVec 7) (n : BitVec 6)
  /-- R78: Shifts a right logically by an immediate amount. -/
  | shri (h : Bool) (d a : BitVec 7) (n : BitVec 6)
  /-- R78: Shifts a right arithmetically by an immediate amount. -/
  | sari (h : Bool) (d a : BitVec 7) (n : BitVec 6)
  /-- R78: Rotates a left by an immediate amount. -/
  | roli (h : Bool) (d a : BitVec 7) (n : BitVec 6)
  /-- R78: Shifts pair a left by 0–63. -/
  | shli64 (h : Bool) (d a : BitVec 7) (n : BitVec 6)
  /-- R78: Shifts pair a right logically by 0–63. -/
  | shri64 (h : Bool) (d a : BitVec 7) (n : BitVec 6)
  /-- R78: Shifts pair a right arithmetically by 0–63. -/
  | sari64 (h : Bool) (d a : BitVec 7) (n : BitVec 6)
  /-- R78: d := low 32 bits of a × sext(imm11). -/
  | muli (h : Bool) (d a : BitVec 7) (i : BitVec 11)
  /-- R83: Compares a with sext(imm11) under condition d[6:3] into predicate d[2:0]. -/
  | cmpi (h : Bool) (c : BitVec 4) (p : BitVec 3) (a : BitVec 7) (i : BitVec 11)
  /-- R78: d := sext(imm18). -/
  | movw (h : Bool) (d : BitVec 7) (i : BitVec 18)
  /-- R78: Places imm18 in d[31:14], keeping d[13:0]. -/
  | movh (h : Bool) (d : BitVec 7) (i : BitVec 18)
  /-- R79: d := a or b by a predicate, optionally negated. -/
  | sel (h n : Bool) (p : BitVec 3) (d a b : BitVec 7)
  /-- R80: Pair d := pair a + (zext(b) << shift) with no checks. -/
  | lea (h : Bool) (s : BitVec 4) (d a b : BitVec 7)
  /-- R81: d := a. -/
  | mov (h : Bool) (d a : BitVec 7)
  /-- R81: Pair d := pair a. -/
  | mov64 (h : Bool) (d a : BitVec 7)
  /-- R81: d := the predicates as bits 7–0. -/
  | pmov (h : Bool) (d : BitVec 7)
  /-- R81: Sets predicates p0–p6 selected by b from a. -/
  | pset (h : Bool) (a b : BitVec 7)
  /-- R81: Sign-extends the low w bits of a. -/
  | sext (h : Bool) (d a w : BitVec 7)
  /-- R81: Zero-extends the low w bits of a. -/
  | zext (h : Bool) (d a w : BitVec 7)
  /-- R107: FP32 a + b rounded RNE. -/
  | fadd (h : Bool) (d a b : BitVec 7)
  /-- R107: FP32 a − b rounded RNE. -/
  | fsub (h : Bool) (d a b : BitVec 7)
  /-- R107: FP32 a × b rounded RNE. -/
  | fmul (h : Bool) (d a b : BitVec 7)
  /-- R108: FP32 minimum, NaN if either is NaN. -/
  | fmin (h : Bool) (d a b : BitVec 7)
  /-- R108: FP32 maximum, NaN if either is NaN. -/
  | fmax (h : Bool) (d a b : BitVec 7)
  /-- R108: FP32 minimum preferring the non-NaN operand. -/
  | fminn (h : Bool) (d a b : BitVec 7)
  /-- R108: FP32 maximum preferring the non-NaN operand. -/
  | fmaxn (h : Bool) (d a b : BitVec 7)
  /-- R107: Clears the sign bit of a. -/
  | fabs (h : Bool) (d a : BitVec 7)
  /-- R107: Inverts the sign bit of a. -/
  | fneg (h : Bool) (d a : BitVec 7)
  /-- R107: Takes the sign of b and the rest of a. -/
  | fcpsgn (h : Bool) (d a b : BitVec 7)
  /-- R108: Rounds a to an integral value toward −∞. -/
  | ffloor (h : Bool) (d a : BitVec 7)
  /-- R108: Rounds a to an integral value toward +∞. -/
  | fceil (h : Bool) (d a : BitVec 7)
  /-- R108: Rounds a to an integral value toward zero. -/
  | ftrunc (h : Bool) (d a : BitVec 7)
  /-- R108: Rounds a to an integral value, ties to even. -/
  | frint (h : Bool) (d a : BitVec 7)
  /-- R108: d := a − FTRUNC(a). -/
  | ffrac (h : Bool) (d a : BitVec 7)
  /-- R108: d := a × 2^b with one rounding. -/
  | fscale (h : Bool) (d a b : BitVec 7)
  /-- R109: d := round(a × b + d) with one rounding. -/
  | ffma (h : Bool) (d a b : BitVec 7)
  /-- R109: d := round(a × b − d). -/
  | ffms (h : Bool) (d a b : BitVec 7)
  /-- R109: d := −round(a × b + d). -/
  | fnfma (h : Bool) (d a b : BitVec 7)
  /-- R109: d := −round(a × b − d). -/
  | fnfms (h : Bool) (d a b : BitVec 7)
  /-- R110: Packed FP16 add of two elements. -/
  | hadd2 (h : Bool) (d a b : BitVec 7)
  /-- R110: Packed FP16 subtract. -/
  | hsub2 (h : Bool) (d a b : BitVec 7)
  /-- R110: Packed FP16 multiply. -/
  | hmul2 (h : Bool) (d a b : BitVec 7)
  /-- R110: Packed FP16 fused multiply-add into d. -/
  | hfma2 (h : Bool) (d a b : BitVec 7)
  /-- R110: Packed FP16 minimum. -/
  | hmin2 (h : Bool) (d a b : BitVec 7)
  /-- R110: Packed FP16 maximum. -/
  | hmax2 (h : Bool) (d a b : BitVec 7)
  /-- R110: Packed BF16 add. -/
  | badd2 (h : Bool) (d a b : BitVec 7)
  /-- R110: Packed BF16 subtract. -/
  | bsub2 (h : Bool) (d a b : BitVec 7)
  /-- R110: Packed BF16 multiply. -/
  | bmul2 (h : Bool) (d a b : BitVec 7)
  /-- R110: Packed BF16 fused multiply-add into d. -/
  | bfma2 (h : Bool) (d a b : BitVec 7)
  /-- R110: Packed BF16 minimum. -/
  | bmin2 (h : Bool) (d a b : BitVec 7)
  /-- R110: Packed BF16 maximum. -/
  | bmax2 (h : Bool) (d a b : BitVec 7)
  /-- R111: FP16 two-element dot product accumulated into FP32 d. -/
  | hdot2 (h : Bool) (d a b : BitVec 7)
  /-- R111: BF16 two-element dot product accumulated into FP32 d. -/
  | bdot2 (h : Bool) (d a b : BitVec 7)
  /-- R112: Ordered equal FP32 compare into a predicate. -/
  | fcmpOeq (h : Bool) (c : BitVec 2) (p : BitVec 3) (a b : BitVec 7)
  /-- R112: Ordered not-equal FP32 compare. -/
  | fcmpOne (h : Bool) (c : BitVec 2) (p : BitVec 3) (a b : BitVec 7)
  /-- R112: Ordered less-than FP32 compare. -/
  | fcmpOlt (h : Bool) (c : BitVec 2) (p : BitVec 3) (a b : BitVec 7)
  /-- R112: Ordered less-or-equal FP32 compare. -/
  | fcmpOle (h : Bool) (c : BitVec 2) (p : BitVec 3) (a b : BitVec 7)
  /-- R112: Ordered greater-than FP32 compare. -/
  | fcmpOgt (h : Bool) (c : BitVec 2) (p : BitVec 3) (a b : BitVec 7)
  /-- R112: Ordered greater-or-equal FP32 compare. -/
  | fcmpOge (h : Bool) (c : BitVec 2) (p : BitVec 3) (a b : BitVec 7)
  /-- R112: True when either operand is NaN. -/
  | fcmpUno (h : Bool) (c : BitVec 2) (p : BitVec 3) (a b : BitVec 7)
  /-- R112: True when neither operand is NaN. -/
  | fcmpOrd (h : Bool) (c : BitVec 2) (p : BitVec 3) (a b : BitVec 7)
  /-- R112: Unordered or equal FP32 compare. -/
  | fcmpUeq (h : Bool) (c : BitVec 2) (p : BitVec 3) (a b : BitVec 7)
  /-- R112: Unordered or not-equal FP32 compare. -/
  | fcmpUne (h : Bool) (c : BitVec 2) (p : BitVec 3) (a b : BitVec 7)
  /-- R112: Unordered or less-than FP32 compare. -/
  | fcmpUlt (h : Bool) (c : BitVec 2) (p : BitVec 3) (a b : BitVec 7)
  /-- R112: Unordered or less-or-equal FP32 compare. -/
  | fcmpUle (h : Bool) (c : BitVec 2) (p : BitVec 3) (a b : BitVec 7)
  /-- R112: Unordered or greater-than FP32 compare. -/
  | fcmpUgt (h : Bool) (c : BitVec 2) (p : BitVec 3) (a b : BitVec 7)
  /-- R112: Unordered or greater-or-equal FP32 compare. -/
  | fcmpUge (h : Bool) (c : BitVec 2) (p : BitVec 3) (a b : BitVec 7)
  /-- R113: Tests the class of a against the mask in b. -/
  | fcmpClass (h : Bool) (c : BitVec 2) (p : BitVec 3) (a b : BitVec 7)
  /-- R114: Correctly rounded reciprocal; variable latency. -/
  | xfnRcp (h : Bool) (d a : BitVec 7)
  /-- R114: Correctly rounded reciprocal square root. -/
  | xfnRsq (h : Bool) (d a : BitVec 7)
  /-- R114: Correctly rounded square root. -/
  | xfnSqrt (h : Bool) (d a : BitVec 7)
  /-- R114: Correctly rounded 2^a. -/
  | xfnExp2 (h : Bool) (d a : BitVec 7)
  /-- R114: Correctly rounded log2 a. -/
  | xfnLog2 (h : Bool) (d a : BitVec 7)
  /-- R114: Correctly rounded sin(πa). -/
  | xfnSinpi (h : Bool) (d a : BitVec 7)
  /-- R114: Correctly rounded cos(πa). -/
  | xfnCospi (h : Bool) (d a : BitVec 7)
  /-- R114: Correctly rounded tanh a. -/
  | xfnTanh (h : Bool) (d a : BitVec 7)
  /-- R114: Correctly rounded a ÷ b. -/
  | xfnDiv (h : Bool) (d a b : BitVec 7)
  /-- R114: Correctly rounded logistic sigmoid. -/
  | xfnSigm (h : Bool) (d a : BitVec 7)
  /-- R114: Correctly rounded e^a. -/
  | xfnExp (h : Bool) (d a : BitVec 7)
  /-- R114: Correctly rounded ln a. -/
  | xfnLog (h : Bool) (d a : BitVec 7)
  /-- R117: Converts FP32 to a signed 32-bit integer. -/
  | f2i (h : Bool) (d a : BitVec 7) (k : BitVec 3) (s : Bool) (r : BitVec 3)
  /-- R117: Converts FP32 to an unsigned 32-bit integer. -/
  | f2u (h : Bool) (d a : BitVec 7) (k : BitVec 3) (s : Bool) (r : BitVec 3)
  /-- R117: Converts a signed integer to FP32. -/
  | i2f (h : Bool) (d a : BitVec 7) (k : BitVec 3) (s : Bool) (r : BitVec 3)
  /-- R117: Converts an unsigned integer to FP32. -/
  | u2f (h : Bool) (d a : BitVec 7) (k : BitVec 3) (s : Bool) (r : BitVec 3)
  /-- R117: Converts FP32 to FP16. -/
  | f2h (h : Bool) (d a : BitVec 7) (k : BitVec 3) (s : Bool) (r : BitVec 3)
  /-- R117: Converts FP16 to FP32 exactly. -/
  | h2f (h : Bool) (d a : BitVec 7) (k : BitVec 3) (s : Bool) (r : BitVec 3)
  /-- R117: Converts FP32 to BF16. -/
  | f2b (h : Bool) (d a : BitVec 7) (k : BitVec 3) (s : Bool) (r : BitVec 3)
  /-- R117: Converts BF16 to FP32 exactly. -/
  | b2f (h : Bool) (d a : BitVec 7) (k : BitVec 3) (s : Bool) (r : BitVec 3)
  /-- R117: Converts FP32 to an nf[k] code. -/
  | f2n (h : Bool) (d a : BitVec 7) (k : BitVec 3) (s : Bool) (r : BitVec 3)
  /-- R117: Converts an nf[k] element to FP32 exactly. -/
  | n2f (h : Bool) (d a : BitVec 7) (k : BitVec 3) (s : Bool) (r : BitVec 3)
  /-- R117: Converts FP32 to FP64 exactly. -/
  | f2d (h : Bool) (d a : BitVec 7) (k : BitVec 3) (s : Bool) (r : BitVec 3)
  /-- R117: Converts FP64 to FP32. -/
  | d2f (h : Bool) (d a : BitVec 7) (k : BitVec 3) (s : Bool) (r : BitVec 3)
  /-- R117: Converts a signed integer to FP64 exactly. -/
  | i2d (h : Bool) (d a : BitVec 7) (k : BitVec 3) (s : Bool) (r : BitVec 3)
  /-- R117: Converts FP64 to a signed 32-bit integer. -/
  | d2i (h : Bool) (d a : BitVec 7) (k : BitVec 3) (s : Bool) (r : BitVec 3)
  /-- R118: Converts four FP32 values to nf[k] codes and packs them into d. -/
  | packn (h : Bool) (d a : BitVec 7) (k : BitVec 3) (s : Bool) (r : BitVec 3)
  /-- R118: Unpacks four nf[k] elements of a into four FP32 registers. -/
  | unpkn (h : Bool) (d a : BitVec 7) (k : BitVec 3) (s : Bool) (r : BitVec 3)
  /-- R120: FP64 add of pairs. -/
  | dadd (h : Bool) (d a b : BitVec 7)
  /-- R120: FP64 subtract. -/
  | dsub (h : Bool) (d a b : BitVec 7)
  /-- R120: FP64 multiply. -/
  | dmul (h : Bool) (d a b : BitVec 7)
  /-- R120: FP64 fused multiply-add into d. -/
  | dfma (h : Bool) (d a b : BitVec 7)
  /-- R120: FP64 minimum. -/
  | dmin (h : Bool) (d a b : BitVec 7)
  /-- R120: FP64 maximum. -/
  | dmax (h : Bool) (d a b : BitVec 7)
  /-- R120: FP64 division; variable latency. -/
  | ddiv (h : Bool) (d a b : BitVec 7)
  /-- R120: FP64 square root; variable latency. -/
  | dsqrt (h : Bool) (d a : BitVec 7)
  /-- R121: FP64 ordered equal into a predicate. -/
  | deq (h : Bool) (c : BitVec 2) (p : BitVec 3) (a b : BitVec 7)
  /-- R121: FP64 ordered less-than into a predicate. -/
  | dlt (h : Bool) (c : BitVec 2) (p : BitVec 3) (a b : BitVec 7)
  /-- R121: FP64 ordered less-or-equal into a predicate. -/
  | dle (h : Bool) (c : BitVec 2) (p : BitVec 3) (a b : BitVec 7)
  /-- R121: FP64 unordered test into a predicate. -/
  | duno (h : Bool) (c : BitVec 2) (p : BitVec 3) (a b : BitVec 7)
  /-- R123: Merges partial softmax maximum and sum and writes two scaling factors. -/
  | mlmrg (h : Bool) (d a : BitVec 7)
  /-- R122: d := EXP2(round(a − b)) with fixed latency. -/
  | expsub (h : Bool) (d a b : BitVec 7)
  /-- R124: d := round(d × f0 + a × f1) with one rounding. -/
  | rescale (h : Bool) (d a b : BitVec 7)
  /-- R84: Branches PC-relative by a 25-bit word offset. -/
  | br (h : Bool) (o : BitVec 25)
  /-- R84: Pushes the return address, increments DEPTH and branches. -/
  | call (h : Bool) (o : BitVec 25)
  /-- R84: Branches when a predicate, optionally negated, is 1. -/
  | brp (h : Bool) (p : BitVec 3) (n : Bool) (o : BitVec 21)
  /-- R85: Jumps to the address in pair a. -/
  | jr (h : Bool) (a : BitVec 7)
  /-- R85: Pushes the return address and jumps to pair a. -/
  | callr (h : Bool) (a : BitVec 7)
  /-- R85: Pops the return stack and continues at the popped address. -/
  | ret (h : Bool)
  /-- R85: Jumps to pair a + 4 × b. -/
  | brx (h : Bool) (a b : BitVec 7)
  /-- R87: Snapshots a predicate and opens a block over the next n words. -/
  | pblk (p n : BitVec 3) (t : BitVec 8)
  /-- R150: Gathered: 1 if any participant's a is non-zero. -/
  | vany (h : Bool) (d a : BitVec 7)
  /-- R150: Gathered: 1 if every participant's a is non-zero. -/
  | vall (h : Bool) (d a : BitVec 7)
  /-- R150: Gathered: bit mask of participants with non-zero a. -/
  | ballot (h : Bool) (d a : BitVec 7)
  /-- R151: Rendezvous shuffle from an indexed lane. -/
  | shfidx (h : Bool) (d a b : BitVec 7)
  /-- R151: Rendezvous shuffle from lane − k. -/
  | shfup (h : Bool) (d a b : BitVec 7)
  /-- R151: Rendezvous shuffle from lane + k. -/
  | shfdn (h : Bool) (d a b : BitVec 7)
  /-- R151: Rendezvous shuffle from lane XOR k. -/
  | shfxor (h : Bool) (d a b : BitVec 7)
  /-- R150: Rendezvous integer sum over the live group. -/
  | gradd (h : Bool) (d a : BitVec 7)
  /-- R152: Rendezvous FP32 sum over a fixed lane tree. -/
  | grfadd (h : Bool) (d a : BitVec 7)
  /-- R150: Rendezvous minimum, signed or unsigned. -/
  | grmin (h : Bool) (d a : BitVec 7) (u : Bool)
  /-- R150: Rendezvous maximum, signed or unsigned. -/
  | grmax (h : Bool) (d a : BitVec 7) (u : Bool)
  /-- R150: Gathered: mask of participants whose a equals the issuer's. -/
  | gmatch (h : Bool) (d a : BitVec 7)
  /-- R150: Rendezvous: 1 in exactly one participant. -/
  | elect (h : Bool) (d : BitVec 7)
  /-- R150: Gathered: mask of participants. -/
  | active (h : Bool) (d : BitVec 7)
  /-- R207: Plain load with a scaled 8-bit offset. -/
  | ld (h : Bool) (d a : BitVec 7) (s : BitVec 3) (o : BitVec 8)
  /-- R207: Plain store with a scaled 8-bit offset. -/
  | st (h : Bool) (d a : BitVec 7) (s : BitVec 3) (o : BitVec 8)
  /-- R208: Plain load with a register byte offset. -/
  | ldx (h : Bool) (s : BitVec 3) (d a b : BitVec 7)
  /-- R209: Consuming read of a tile that lowers its read count by one. -/
  | ldxC (h : Bool) (s : BitVec 3) (d a b : BitVec 7)
  /-- R208: Plain store with a register byte offset. -/
  | stx (h : Bool) (s : BitVec 3) (d a b : BitVec 7)
  /-- R207: Acquire load at the scope of its target. -/
  | ldAcq (h : Bool) (d a : BitVec 7) (s : BitVec 3) (o : BitVec 8)
  /-- R207: Release store at the scope of its target. -/
  | stRel (h : Bool) (d a : BitVec 7) (s : BitVec 3) (o : BitVec 8)
  /-- R211: Relaxed atomic 32-bit add returning the old value. -/
  | aadd (h : Bool) (d a b : BitVec 7)
  /-- R211: Relaxed atomic exchange. -/
  | axch (h : Bool) (d a b : BitVec 7)
  /-- R211: Relaxed atomic compare-and-swap. -/
  | acas (h : Bool) (d a b : BitVec 7)
  /-- R211: Relaxed atomic signed minimum. -/
  | amin (h : Bool) (d a b : BitVec 7)
  /-- R211: Relaxed atomic signed maximum. -/
  | amax (h : Bool) (d a b : BitVec 7)
  /-- R211: Relaxed atomic unsigned minimum. -/
  | aminu (h : Bool) (d a b : BitVec 7)
  /-- R211: Relaxed atomic unsigned maximum. -/
  | amaxu (h : Bool) (d a b : BitVec 7)
  /-- R211: Relaxed atomic AND. -/
  | aand (h : Bool) (d a b : BitVec 7)
  /-- R211: Relaxed atomic OR. -/
  | aor (h : Bool) (d a b : BitVec 7)
  /-- R211: Relaxed atomic XOR. -/
  | axor (h : Bool) (d a b : BitVec 7)
  /-- R211: Relaxed atomic wrapping increment. -/
  | aincw (h : Bool) (d a b : BitVec 7)
  /-- R211: Relaxed atomic FP32 add. -/
  | afadd (h : Bool) (d a b : BitVec 7)
  /-- R211: Relaxed atomic 64-bit add. -/
  | aadd64 (h : Bool) (d a b : BitVec 7)
  /-- R211: Relaxed atomic 64-bit compare-and-swap. -/
  | acas64 (h : Bool) (d a b : BitVec 7)
  /-- R211: Relaxed atomic 64-bit exchange. -/
  | axch64 (h : Bool) (d a b : BitVec 7)
  /-- R211: Relaxed atomic FP32 maximum. -/
  | afmax (h : Bool) (d a b : BitVec 7)
  /-- R211: Acquire-release atomic 32-bit add. -/
  | aaddAr (h : Bool) (d a b : BitVec 7)
  /-- R211: Acquire-release atomic exchange. -/
  | axchAr (h : Bool) (d a b : BitVec 7)
  /-- R211: Acquire-release atomic compare-and-swap. -/
  | acasAr (h : Bool) (d a b : BitVec 7)
  /-- R211: Acquire-release atomic signed minimum. -/
  | aminAr (h : Bool) (d a b : BitVec 7)
  /-- R211: Acquire-release atomic signed maximum. -/
  | amaxAr (h : Bool) (d a b : BitVec 7)
  /-- R211: Acquire-release atomic unsigned minimum. -/
  | aminuAr (h : Bool) (d a b : BitVec 7)
  /-- R211: Acquire-release atomic unsigned maximum. -/
  | amaxuAr (h : Bool) (d a b : BitVec 7)
  /-- R211: Acquire-release atomic AND. -/
  | aandAr (h : Bool) (d a b : BitVec 7)
  /-- R211: Acquire-release atomic OR. -/
  | aorAr (h : Bool) (d a b : BitVec 7)
  /-- R211: Acquire-release atomic XOR. -/
  | axorAr (h : Bool) (d a b : BitVec 7)
  /-- R211: Acquire-release atomic wrapping increment. -/
  | aincwAr (h : Bool) (d a b : BitVec 7)
  /-- R211: Acquire-release atomic FP32 add. -/
  | afaddAr (h : Bool) (d a b : BitVec 7)
  /-- R211: Acquire-release atomic 64-bit add. -/
  | aadd64Ar (h : Bool) (d a b : BitVec 7)
  /-- R211: Acquire-release atomic 64-bit compare-and-swap. -/
  | acas64Ar (h : Bool) (d a b : BitVec 7)
  /-- R211: Acquire-release atomic 64-bit exchange. -/
  | axch64Ar (h : Bool) (d a b : BitVec 7)
  /-- R211: Acquire-release atomic FP32 maximum. -/
  | afmaxAr (h : Bool) (d a b : BitVec 7)
  /-- R193: Acquire fence of the scope in b. -/
  | fenceAcq (h : Bool) (b : BitVec 7)
  /-- R193: Release fence of the scope in b. -/
  | fenceRel (h : Bool) (b : BitVec 7)
  /-- R193: Acquire-release fence. -/
  | fenceAr (h : Bool) (b : BitVec 7)
  /-- R194: Sequentially consistent fence. -/
  | fenceSc (h : Bool) (b : BitVec 7)
  /-- R193: SC fence that also waits for the thread's COPY and MMA commands. -/
  | fenceDrain (h : Bool) (b : BitVec 7)
  /-- R215: Prefetch hint into L2 or the RDC. -/
  | pref (h : Bool) (a : BitVec 7)
  /-- R215: Prefetch hint also into L1. -/
  | prefl1 (h : Bool) (a : BitVec 7)
  /-- R216: Removes one or all L1 lines of the core. -/
  | invl1 (h : Bool) (a : BitVec 7) (l : Bool)
  /-- R216: Removes one or all RDC lines after sending held writes. -/
  | rdcinv (h : Bool) (a : BitVec 7) (l : Bool)
  /-- R217: Sets n scratch or tile lines EMPTY. -/
  | lempty (h : Bool) (a n : BitVec 7)
  /-- R217: Sets n scratch or tile lines FULL. -/
  | lfull (h : Bool) (a n : BitVec 7)
  /-- R281: Requests a tile of a partition with a read count. -/
  | talloc (h : Bool) (d a b : BitVec 7)
  /-- R282: Sets a tile's read count to 0. -/
  | trel (h : Bool) (a : BitVec 7)
  /-- R282: Lowers a tile's read count by n. -/
  | tdrop (h : Bool) (a b : BitVec 7)
  /-- R283: Forms a tile pointer from a handle and an offset. -/
  | taddr (h : Bool) (d a b : BitVec 7)
  /-- R284: Returns a tile's live count and remaining reads. -/
  | tstat (h : Bool) (d a : BitVec 7)
  /-- R245: Sets a trigger counter as a release. -/
  | tcset (h : Bool) (a b : BitVec 7)
  /-- R245: Adds to a trigger counter as a release. -/
  | tcadd (h : Bool) (a b : BitVec 7)
  /-- R245: Registers on a counter and blocks until it is reached. -/
  | tcwait (h : Bool) (a b : BitVec 7)
  /-- R245: Reads a trigger counter. -/
  | tcread (h : Bool) (d a : BitVec 7)
  /-- R230: Issues a copy command, linear or tensor. -/
  | cpy (h : Bool) (d a b : BitVec 7)
  /-- R236: Issues a reduce copy combining into the destination. -/
  | cpyr (h : Bool) (d a b : BitVec 7)
  /-- R237: Issues a multicast copy to the scratch of several ranks. -/
  | cpym (h : Bool) (d a b : BitVec 7)
  /-- R238: Issues a copy into the shadow frame of a shadowed page. -/
  | cpys (h : Bool) (d a b : BitVec 7)
  /-- R239: Flips the shadow select of a page at its owner and blocks until done. -/
  | publ (h : Bool) (a : BitVec 7)
  /-- R228: Checks and writes a tensor layout record into a layout slot. -/
  | cpyt (h : Bool) (k : BitVec 3) (a b : BitVec 7)
  /-- R249: Waits until at most n copies are outstanding and returns and clears the copy status. -/
  | cpyw (h : Bool) (d a : BitVec 7)
  /-- R249: Returns the copy status without waiting. -/
  | cpyq (h : Bool) (d : BitVec 7)
  /-- R261: Queues an nf-format block multiply-accumulate. -/
  | mma8 (h : Bool) (d a b : BitVec 7)
  /-- R261: Queues a scaled nf-format block multiply-accumulate. -/
  | mma8s (h : Bool) (d a b : BitVec 7)
  /-- R259: Queues a gathered nf-format block multiply-accumulate. -/
  | mma8g (h : Bool) (d a b : BitVec 7)
  /-- R259: Queues a gathered, scaled nf-format block multiply-accumulate. -/
  | mma8gs (h : Bool) (d a b : BitVec 7)
  /-- R261: Queues an FP16 block multiply-accumulate. -/
  | mmah (h : Bool) (d a b : BitVec 7)
  /-- R261: Queues a BF16 block multiply-accumulate. -/
  | mmab (h : Bool) (d a b : BitVec 7)
  /-- R268: Queues zeroing of an accumulator slot. -/
  | mzero (h : Bool) (d : BitVec 7)
  /-- R268: Queues a load of an accumulator slot from memory. -/
  | mldc (h : Bool) (d a b : BitVec 7)
  /-- R268: Queues a store of an accumulator slot to memory. -/
  | mstc (h : Bool) (d a b : BitVec 7)
  /-- R271: Waits for operations on masked slots and returns and clears the matrix status. -/
  | mwait (h : Bool) (d a : BitVec 7)
  /-- R271: Returns the matrix status without waiting. -/
  | mstat (h : Bool) (d : BitVec 7)
  /-- R273: Requests the core's baton and delivers EPOCH on grant. -/
  | macq (h : Bool) (d : BitVec 7)
  /-- R273: Passes the baton directly to a named group of the team. -/
  | mpass (h : Bool) (a : BitVec 7)
  /-- R273: Releases the baton. -/
  | mrel (h : Bool)
  /-- R273: Reports the baton holder. -/
  | mwho (h : Bool) (d : BitVec 7)
  /-- R292: Group rendezvous that completes the current task and requests the next record. -/
  | tknext (h : Bool) (d a : BitVec 7)
  /-- R295: Group rendezvous that completes the current task, committing a version and decrementing its successor cell. -/
  | tkdone (h : Bool)
  /-- R293: Posts a 64-byte task record to a queue. -/
  | tkpost (h : Bool) (a : BitVec 7)
  /-- R296: Group rendezvous that makes the current task versioned. -/
  | tkspec (h : Bool)
  /-- R300: Discards the versioned task and restarts it at its TKNEXT. -/
  | tkabort (h : Bool)
  /-- R294: Decrements a counter cell, posting its record at zero. -/
  | tksucc (h : Bool) (a : BitVec 7)
  /-- R302: Starts a child launch on the die via the pending pool and returns its identity. -/
  | launch (h : Bool) (d a b : BitVec 7)
  /-- R304: Waits for a child launch to complete or be refused and returns its status. -/
  | lwait (h : Bool) (d a : BitVec 7)
  /-- R304: Returns a child launch's status without waiting. -/
  | lstat (h : Bool) (d a : BitVec 7)
  /-- R306: d := (grp + phases passed at level L) mod n. -/
  | role (h : Bool) (d a b : BitVec 7)
  /-- R326: Checks a query descriptor and sends the query's pages to their attention units. -/
  | aqpost (h : Bool) (d a : BitVec 7)
  /-- R328: Waits for a query to end and returns its status. -/
  | aqwait (h : Bool) (d a : BitVec 7)
  /-- R328: Returns a query's status without waiting. -/
  | aqstat (h : Bool) (d a : BitVec 7)
  /-- R327: Sends CXL for every page of a running query whose triple is not formed. -/
  | aqcancel (h : Bool) (a : BitVec 7)
  /-- R402: Waits until the thread's peer stores and atomics are acknowledged or failed and returns the fail count. -/
  | ndrain (h : Bool) (d : BitVec 7)
  /-- R402: Returns the lowest open generation, optionally waiting until a generation closes. -/
  | ngen (h : Bool) (d a : BitVec 7) (w : Bool)
  /-- R402: Reports reachability, direct entries and next slot to a package. -/
  | npath (h : Bool) (d a : BitVec 7)
  /-- R417: Checks a collective descriptor and posts the collective. -/
  | clpost (h : Bool) (d a : BitVec 7)
  /-- R418: Waits for a collective to end and returns its status. -/
  | clwait (h : Bool) (d a : BitVec 7)
  /-- R418: Returns a collective's status without waiting. -/
  | clstat (h : Bool) (d a : BitVec 7)
  /-- R419: Stages a route table for a slot, active after the next level-L phase. -/
  | clroute (h : Bool) (a : BitVec 7) (l : BitVec 3) (n : BitVec 4)
  /-- R33: A variable-latency result is written to its destination register. -/
  | resultDelivery (t : Tid) (id : Nat) (part : Option Nat)
  /-- R32: A waiting horizon ends once results are written and accesses accepted or refused, taking any fault. -/
  | segmentHorizon (t : Tid)
  /-- R154: A JOIN releases its thread after 1,024 cycles. -/
  | joinTimeout (t : Tid)
  /-- R155: A napping thread becomes ready again. -/
  | napExpiry (t : Tid)
  /-- R158: A barrier phase completes and every member blocked on it becomes ready, as an acquire. -/
  | barPhaseComplete (l : LRef) (level set : Nat)
  /-- R133: Host command that checks and accepts or refuses a launch, or starts a gang, completing when it completes. -/
  | launchCommand (src : CmdSrc)
  /-- R302: A child launch waiting in the pending pool is checked in pool order and its entry freed. -/
  | pendingPoolCheck (die : Nat)
  /-- R134: A waiting team is placed on a cluster when room exists, with registers, scratch and stacks. -/
  | teamPlacement (l : LRef) (cluster : Nat) (cores : List Nat)
  /-- R137: A launch completes once all teams retired and all engine work and children ended, reclaiming tiles. -/
  | launchComplete (l : LRef)
  /-- R147: The scheduler swaps out a blocked team in favour of teams not yet placed. -/
  | blockedTeamSwap (l : LRef) (team : Nat)
  /-- R346: PRE_QUANTUM expires for a team while a launch of equal priority waits. -/
  | timeSliceExpiry (l : LRef) (team : Nat)
  /-- R347: A draining team has not retired within 2 × PRE_DRAIN and the path is chosen again. -/
  | drainTimeout (l : LRef) (team : Nat)
  /-- R348: After engine work in its windows ends, a team is written to a team record and leaves its cores. -/
  | teamSave (l : LRef) (team : Nat)
  /-- R348: A saved team is placed again, its state and engine record restored and its pending entries re-entered. -/
  | teamRestore (l : LRef) (team cluster : Nat) (cores : List Nat)
  /-- R242: An armed command or TCWAIT fires when its counter is reached at an evaluation, as an acquire. -/
  | armedFire (id : Nat)
  /-- R230: A copy unit's source data arrives and is written, combined or multicast at its destination. -/
  | copyUnit (id u : Nat)
  /-- R239: The owner flips SS of a page after in-flight requests end, invalidates copies and serves held requests. -/
  | publishFlip (id : Nat)
  /-- R263: The matrix engine completes one step of a queued operation, reading operand lines as they become FULL. -/
  | matrixStep (core : Nat)
  /-- R281: The pool gives a waiting TALLOC a tile once its partition has room. -/
  | tallocGrant (t : Tid) (id rank slot : Nat)
  /-- R285: Every blocked thread waiting in TALLOC takes POOL_STARVATION when the cluster's starvation conditions hold. -/
  | poolStarvation (cluster : Nat) (l : LRef)
  /-- R278: A spent tile is freed once its accepted accesses are bound, advancing GEN. -/
  | tileFree (cluster rank slot : Nat)
  /-- R292: A waiting TKNEXT receives a record from a queue, or the zero record when the launch is exhausted. -/
  | taskDelivery (gid : Nat)
  /-- R310: A query command enters an attention unit's queue. -/
  | qry (qid page : Nat)
  /-- R313: An attention unit scans one page's keys and values and forms its partial triple. -/
  | bauScan (bau : Nat)
  /-- R321: A bank group refresh suspends an attention scan between reads. -/
  | refresh (bau : Nat)
  /-- R310: A reply reaches the controller and its reply slot is written. -/
  | rpl (qid page : Nat)
  /-- R310: A cancel removes or stops a query page, answered with code 0x04. -/
  | cxl (qid page : Nat)
  /-- R365: A write-combining buffer line is sent to its home die 1 µs after its first held store. -/
  | wcbFlush (die asid line : Nat)
  /-- R177: A translation invalidation completes and TLBINV.BUSY falls. -/
  | tlbinvComplete
  /-- R373: At a slot boundary ring banks swap, unacknowledged packets become owed and gang teams may start. -/
  | slotBoundary
  /-- R371: At boundary + GUARD the grants for the next slot are fixed, spare banks start tuning and the preamble is sent. -/
  | dataWindowStart
  /-- R372: A bank not locked after 1.2 µs is retried once or enters FAULT. -/
  | tuningTimeout (port : Nat)
  /-- R372: A port with three consecutive FAULT slots becomes FAILED. -/
  | portFailed (port : Nat)
  /-- R374: A received preamble is verified, or under the synchronising check sets cycle and slot. -/
  | preamble (port : Nat) (msg : PreambleMsg)
  /-- R376: A received ack flit releases acknowledged packets, carries send bases, credits and transit completions. -/
  | ackFlit (port : Nat) (msg : AckMsg)
  /-- R376: A packet sent 8 times unacknowledged fails its hop destination's packets and cuts it off. -/
  | cutOff (pkg : Nat)
  /-- R384: A member failing to acknowledge over 8 broadcast slots is dropped until the next generation. -/
  | broadcastMemberDrop (port member : Nat)
  /-- R377: Once per cycle a package moves its boundaries toward the reference and updates alignment. -/
  | cycleSteer
  /-- R386: A staged calendar image takes effect at slot 0 of cycle START, failing unreachable packets. -/
  | generationChange
  /-- R390: A DRAINING port with no unacknowledged packets becomes DRAINED at a boundary. -/
  | portDrained (port : Nat)
  /-- R390: A TRAINING port with locked plans and verified peers becomes ACTIVE. -/
  | portTrained (port : Nat)
  /-- R393: A peer read request is translated and served at its owner. -/
  | readRequest (rx : Rx)
  /-- R393: A read reply delivers data to the issuer. -/
  | readReply (rx : Rx)
  /-- R393: A peer write is performed at its owner and answered with a completion. -/
  | pktWrite (rx : Rx)
  /-- R393: A peer atomic is performed at its owner's L2. -/
  | pktAtomic (rx : Rx)
  /-- R395: A completion acknowledges a peer write, atomic or publish at the issuer. -/
  | completion (rx : Rx)
  /-- R393: Copy units are written at the owner, or forwarded when received in transit. -/
  | copyUnits (rx : Rx)
  /-- R393: A copy completion acknowledges copy units at the issuing die. -/
  | copyCompletion (rx : Rx)
  /-- R393: Reduce copy units are combined into their destination at the owner. -/
  | reduceCopyUnits (rx : Rx)
  /-- R393: A publish packet asks the owner to flip a page. -/
  | publish (rx : Rx)
  /-- R392: A packet of a reserved kind is acknowledged and discarded. -/
  | reservedPacket (rx : Rx)
  /-- R409: A collective packet pops its route entry, reduces, writes and forwards or ends. -/
  | collectiveData (rx : Rx)
  /-- R414: An abort packet ends the member's collective with its code. -/
  | collectiveAbort (rx : Rx)
  /-- R403: A member checks the gang launch and replies ACCEPT or REFUSE. -/
  | gangStart (rx : Rx)
  /-- R403: Rank 0 records an acceptance and sends GO when all have arrived. -/
  | gangAccept (rx : Rx)
  /-- R403: Rank 0 cancels the gang on any refusal. -/
  | gangRefuse (rx : Rx)
  /-- R403: A member schedules its first team for the slot-0 boundary of cycle X. -/
  | gangGo (rx : Rx)
  /-- R403: A member frees its reservations and starts nothing. -/
  | gangCancel (rx : Rx)
  /-- R406: A member aborts the gang launch with CODE 8. -/
  | gangAbort (rx : Rx)
  /-- R444: Rank 0 records a member's completion and completes the gang when all are done. -/
  | gangDone (rx : Rx)
  /-- R404: At C0 + 8 with an ACCEPT missing, rank 0 cancels and the launch ends ABORTED. -/
  | gangStartTimeout (l : LRef)
  /-- R404: A member with neither GO nor CANCEL by C0 + 16 discards the launch. -/
  | gangDiscardTimeout (l : LRef)
  /-- R405: Rank 0 records a package's arrival and sends RELEASE when all have arrived. -/
  | barrierArrive (rx : Rx)
  /-- R405: A cross-package barrier phase completes at the receiving package. -/
  | barrierRelease (rx : Rx)
  /-- R432: Host command that copies between tag 0x0 and host memory. -/
  | hostCopy (src : CmdSrc)
  /-- R432: Host command that sets or adds to a counter as a system-scope release. -/
  | signal (src : CmdSrc)
  /-- R432: Host command that holds later commands of its queue until a counter is reached. -/
  | hostWait (src : CmdSrc)
  /-- R385: Host command that checks and stages a calendar image. -/
  | calLoad (src : CmdSrc)
  /-- R390: Host command that moves an ACTIVE port to DRAINING. -/
  | portDrain (src : CmdSrc)
  /-- R390: Host command that moves a DRAINED or FAILED port to TRAINING. -/
  | portRetrain (src : CmdSrc)
  /-- R391: Host command that writes the calendar status block. -/
  | calStatus (src : CmdSrc)
  /-- R340: Host command that retries or fails the accesses of a fault record. -/
  | faultReplay (src : CmdSrc)
  /-- R439: Host command that carries one SPDM request and its signed response. -/
  | attest (src : CmdSrc)
  /-- R434: Host command that makes the issuer owner when there is none. -/
  | ownerClaim (src : CmdSrc)
  /-- R434: Host command that passes ownership to a successor or none. -/
  | ownerYield (src : CmdSrc)
  /-- R430: A doorbell write makes queue entries up to an index available. -/
  | doorbell (q : Nat) (x : Word)
  /-- R428: A write of TLBINV starts a translation invalidation for a page or ASID. -/
  | tlbinv (a : Agent) (v : Word)
  /-- R428: A write of the RESET key resets the module. -/
  | resetWrite (a : Agent) (v : Word)
  /-- R349: A write of a launch identity to ABORT aborts that launch. -/
  | abortWrite (a : Agent) (die : Nat) (v : Word)
  /-- R356: Halts the selected scope at issue boundaries, keeping waits as pending entries. -/
  | dbgHalt (a : Agent) (die : Nat) (v : Word)
  /-- R357: Resumes the halted scope, entering the threads into the age order. -/
  | dbgGo (a : Agent) (die : Nat) (v : Word)
  /-- R355: Resumes the selected thread for one instruction and halts it again. -/
  | dbgStep (a : Agent) (die : Nat) (v : Word)
  /-- R357: A write sets the selected item of a halted thread, or fails with NOT_HALTED, BUSY or BAD_ITEM. -/
  | dbgData (a : Agent) (die : Nat) (v : Word)
  /-- R429: A host read through BAR4 is translated and served, or completes with Completer Abort. -/
  | bar4Read (off n : Nat)
  /-- R429: A host write through BAR4 is translated and performed, or dropped and counted. -/
  | bar4Write (off : Nat) (data : List Byte)
  /-- R5: A write to any other register takes effect as its access code gives, if the writer is permitted. -/
  | registerWrite (a : Agent) (off : Nat) (v : Word)
  /-- R435: A fundamental reset, key write or controller reset ends every launch, clears ownership and repeats bring-up. -/
  | moduleReset
  /-- R436: Bring-up advances to its next stage when the current one has finished. -/
  | bringUpStage (ok : Bool)
  /-- R16: The module controller lowers or raises the core clock by 100 MHz and counts the change. -/
  | clockStep (up : Bool)
  /-- R440: Coolant inlet above 50 °C or flow below 1.5 L/min for 1 s sets FATAL with CAUSE 2. -/
  | coolantFatal
  /-- R437: A die-to-die link that cannot deliver after retries sets FATAL and stops the module. -/
  | linkFailure
  /-- R181: A store or atomic is applied at its point of coherence and its completion returns to the issuer. -/
  | writePerformed (t : Tid) (id : Nat)
  /-- R29: An instruction word fetch completes, making the thread ready, or is refused and faults or parks the thread at the fetch. -/
  | instructionFetch (t : Tid)
  /-- R46: A word with a reserved major or minor issues and raises ILLEGAL_INSTR at once. -/
  | notAnInstruction (w : Word) (reason : Nat)
  /-- R372: A tuning ring bank reaches its plan and enters LOCKED. -/
  | ringLocked (port : Nat)
  /-- R162: A PCIe completion for a host access times out and the access is refused with NOT_PRESENT reason 3. -/
  | completionTimeout (t : Tid) (id : Nat)
  /-- R442: A 64-byte unit of stack memory comes to hold an error its check bits cannot correct, and becomes poisoned. -/
  | unitPoisoned (key : Nat)
deriving DecidableEq, Repr

end Sys2Proof
end

