-- ==== Sys2Proof/Machine/State.lean ====
section
/-! DEFINITION. State.lean: everything the spec gives the machine, as plain data; the reasons a step can stop; and the
state after module reset. INVENTORY.md lists the fields with the rules that name them. -/
namespace Sys2Proof.Machine

/-- Why the machine stops. -/
inductive Fault where
  /-- The next happening on the agenda names a step of the part that the spec does not let happen in this state (its
  conditions do not hold). Raised by every step that no word encodes. Safe: the hardware takes no such step. -/
  | notEnabled
deriving DecidableEq, Repr

/-- Why an instruction has no meaning. -/
inductive Refusal where
  /-- The instruction has no meaning in this model yet. Raised by an arm of exec that is not written. Safe. -/
  | notModelled (mnemonic : String)
deriving DecidableEq, Repr

/-! Copies, trigger registrations (R222–R249). -/

/-- A registration on a trigger counter (R242): the die and memory key of the counter, the threshold, and whether an
evaluation has found it reached. -/
structure Trig where
  id  : Nat
  die : Nat
  key : Nat
  thr : Word
  due : Bool
deriving DecidableEq, Repr

/-- How far an engine command has come: waiting for a registration, registered, held by a fault record, running, its
signal on its way. -/
inductive CmdSt where
  | unregistered
  | armed
  | held (tag : Nat)
  | running
  | signal
deriving DecidableEq, Repr

/-- A unit of a copy on its way: its number; whether a packet with request tag `tag` awaits its reply; whether the fault
record `tag` holds it; its data once the source has been read. -/
structure Flight where
  unit : Nat
  tag  : Nat
  sent : Bool
  held : Bool
  data : Option (List Byte)
deriving DecidableEq, Repr

/-- A data command of a copy engine (R222–R249), in issue order by `id`. `srcOk` lists the units whose source has been
read, `done` the units written at the destination. -/
structure CopyCmd where
  id      : Nat
  t       : Tid
  launch  : LRef
  core    : Nat
  asid    : Nat
  key     : Nat
  minor   : Nat
  ctl     : Word
  len     : Nat
  lay     : List Word
  src     : DWord
  dst     : DWord
  w       : DWord
  g       : DWord
  thr     : Word
  aux     : Word
  st      : CmdSt
  srcOk   : List Nat
  done    : List Nat
  flight  : List Flight
  fail    : Nat
  consumed : Bool
  drops   : List Nat
deriving DecidableEq, Repr

/-! The matrix engine (R250–R274). -/

/-- A queued matrix operation (R252, R354): the words it read at issue, the nf values, the step it will do next, the lines (by memory key) it has
read, and whether block A (true) or B (false) has consumed its tile (R267). -/
structure MOp where
  id    : Nat
  gid   : Nat
  t     : Tid
  minor : Nat
  slotw : Word
  a     : List Word
  b     : List Word
  nfA   : BitVec 16
  nfB   : BitVec 16
  next  : Nat
  rd    : List (Nat × List Byte)
  units : List Nat
  hold  : Option Nat
  eaten : List Bool := []
deriving DecidableEq, Repr

/-! Threads (R21, R352). -/

/-- A destination, decoded to physical registers at issue (R24): nothing, vector registers of the thread, or uniform
registers of its group; the first register and how many. -/
inductive Dst where
  | none
  | vec (r n : Nat)
  | uni (r n : Nat)
deriving DecidableEq, Repr

/-- Where an accepted access goes: a physical address of a die of this package with its page kind, a scratch window, a
tile, host memory, or another package (R160, R170, R175). -/
inductive Loc where
  | phys (die pa kind : Nat)
  | scratch
  | tile
  | host
  | peer
deriving DecidableEq, Repr

/-- What a thread is blocked in (R138), with the operands the wait holds. -/
inductive WaitKind where
  | join (mask : Word)
  | nap
  | arrive (level : Nat) (bar : Bool) (dst : Dst)
  | phase (level token : Nat)
  | fence (kind scope upto : Nat)
  | rdcinv (addr : DWord) (all : Bool)
  | tcwait (id : Nat) (addr : DWord) (thr : Word)
  | mwait (mask upto : Nat) (dst : Dst)
  | tkdone (k : Nat)
  | tkspec (k : Nat)
  | result (id : Nat)
  | copy (c : CopyCmd)
  | mma (op : MOp)
  | publ (id : Nat) (addr : DWord) (sent : Bool)
  | launch (header argp : DWord) (T : Word) (prio : Option Nat) (dst : Dst)
  | post (kind : Nat) (desc : DWord) (arg : Nat) (dst : Dst) (got : List Byte)
  | clwait (id : Word) (dst : Dst)
  | ngen (g : Word) (dst : Dst)
  | ndrain (upto : Nat) (dst : Dst)
deriving DecidableEq, Repr

/-- What an outstanding entry of a thread is: a computed result of the variable-latency class (R33), an access, a wait
that delivers a register, or (among refused entries only) a refused fetch (R337) or a wait that goes on after them (R35). -/
inductive POp where
  | result
  | fetch
  | load (size : Nat) (acq consume : Bool)
  | store (data : List Byte) (rel : Bool)
  | atomic (minor : Nat) (ops : List Word) (acq rel : Bool)
  | lineSet (full : Bool) (n : Nat)
  | rendez (minor : Nat) (u : Bool) (k : Nat) (a b : Word)
  | talloc (part count ord : Nat)
  | tileCount (k : Nat) (all : Bool)
  | tknext (k : Nat) (mask : Word)
  | taskPost
  | taskSucc
  | macq
  | lwait (id : Word)
  | aqwait (seq : Nat)
  | cpyw (n : Nat)
  | tcwait (thr : Word)
  | publ
  | mma (op : MOp)
  | wait (k : WaitKind)
deriving DecidableEq, Repr

/-- How far an entry has come: on its way, held in its die's write-combining buffer (R365), sent to another package in a calendar
generation, or with its value bound; a bound value waits to be written to its destination, register by register (R34); a register already written is none. -/
inductive PSt where
  | sent
  | held
  | remote (gen : Nat)
  | ready (vals : List (Option Word))
deriving DecidableEq, Repr

/-- An outstanding entry of a thread, in program order by `id`. `blk` is the block state that still counts its word (R36);
`bypass` says that a load found its bytes in a store its core held, so that it takes no copy (R171); `ver` that it was issued
in a versioned task (R297); `word` is its instruction word, for the record of a save (R353); `late` says that its value was bound while its thread
was halted, which keeps it pending (R356); `recv` is its place in the order in which its die's write-combining buffer received stores (R365). -/
structure Pend where
  id   : Nat
  pc   : DWord
  dst  : Dst
  op   : POp
  addr : DWord
  loc  : Option Loc
  st   : PSt
  blk    : List Bool := []
  bypass : Bool := false
  ver    : Bool := false
  word   : Option Word := none
  late   : Bool := false
  recv   : Nat := 0
deriving DecidableEq, Repr

/-- A trap as it will be recorded (R333, R335); of one found at the completion of a waiting instruction, `num` is the number of its entry, else 0. -/
structure TrapRec where
  cause   : Nat
  pc      : DWord
  addr    : DWord
  detail  : Nat
  kind    : Nat
  at_     : Nat
  further : Nat
  num     : Nat := 0
deriving DecidableEq, Repr

/-- An entry kept with its segment to be performed again (R35): a refused access with the trap it would take, or, with no trap,
one that the order of R189–R195 held behind a refused access (R202). -/
structure Refused where
  p    : Pend
  trap : Option TrapRec
deriving DecidableEq, Repr

/-- TS, the hidden trap state (R333): the block state, the resume point, whether the trap was taken at a horizon,
whether resumption is at the task's restart point (R300, R343), and the refused accesses; whether the horizon still waited
in an instruction whose H bit is set, and the number that the entries issued before the handler lie below. -/
structure Ts where
  blk     : List Bool
  resume  : DWord
  horizon : Bool
  toTask  : Bool
  refused : List Refused
  hz      : Bool
  upto    : Nat
deriving DecidableEq, Repr

/-- A wait: its number in program order, its kind, the word that waits, the block state before it (R36), and the refused
accesses that are performed again after it (R35). -/
structure Waiting where
  id   : Nat
  kind : WaitKind
  pc   : DWord
  blk  : List Bool
  rest : List Refused
deriving DecidableEq, Repr

/-- Something that takes effect once the thread has waited as a horizon does: EXIT (R38), TRET (R67), a trap taken at
once (R333). -/
inductive Drain where
  | exit
  | tret (mode : Nat)
  | trap (r : TrapRec) (blk : List Bool)
deriving DecidableEq, Repr

/-- The restart point of a task (R300, R352): the state of the thread at the TKNEXT that delivered it. -/
structure Restart where
  pc    : DWord
  vwb   : BitVec 8
  uwb   : BitVec 6
  preds : BitVec 7
  blk   : List Bool
  stack : List DWord
deriving DecidableEq, Repr

/-- A query or collective slot of a thread (R328, R352, R418): free, or the sequence of its query or collective, the
status once it has ended, and a collective's route slot. -/
structure Slot where
  busy   : Bool
  seq    : Nat
  ended  : Bool
  status : Word
  route  : Nat
deriving DecidableEq, Repr

/-- A failed peer store whose report has not been taken (R443), and the refused release that reports it. -/
structure FailedStore where
  id   : Nat
  addr : DWord
  by_  : Option Nat := none
deriving DecidableEq, Repr

/-- A thread (R21, R352). -/
structure Thread where
  pc        : DWord
  regs      : List Word
  vwb       : BitVec 8
  uwb       : BitVec 6
  preds     : BitVec 7
  stack     : List DWord
  blk       : List Bool
  trapCause : BitVec 8
  trapPc    : DWord
  trapAddr  : DWord
  trapInfo  : Word
  inHandler : Bool
  ts        : Ts
  clockCap  : Option Word
  calCap    : Option Word
  srseed    : Word
  yielded   : Bool
  parked    : Bool
  halted    : Bool
  exited    : Bool
  hz        : Bool
  wait      : Option Waiting
  drain     : Option Drain
  infl      : List Pend
  refused   : List Refused
  fetched   : Option Word
  fetchFrom : Option DWord
  rendez    : Word
  tkRendez  : Word
  arrivals  : List Nat
  cpyFail   : Nat
  cpyFailId : Nat
  cpyDrops  : Nat
  qseq      : Nat
  qslots    : List Slot
  cseq      : Nat
  cslots    : List Slot
  rfail     : Nat
  failed    : List FailedStore
  stamps    : List (Nat × Nat)
  restart   : Option Restart
  tkPoints  : List (Nat × Restart)
  redo      : Bool
  tag       : Option Nat
  replay    : Option Bool
  why       : Nat
  stepping  : Bool
  barsFlush : Bool
deriving DecidableEq, Repr

/-! Groups (R125, R351). -/

/-- The current task of a group (R287, R292, R296): its record and queue, whether it is versioned, the version's lines
(die, line address and the bytes written there), the read set, whether it is doomed, and the posts it holds. -/
structure Task where
  bytes     : List Byte
  queue     : Nat
  versioned : Bool
  writes    : List (Nat × Byte)
  reads     : List Nat
  doomed    : Bool
  since     : Nat
  held      : List (Nat × Pend)
deriving DecidableEq, Repr

/-- A group: where it lies, its threads and what they share (R125, R351). `uniRd` holds the uniform registers as the
members of the constellation being issued read them (R144); `used` the accumulator slots named since placement (R350);
`acted` whether a member of the constellation being issued has passed or released the baton (R273): 1 done, 2 refused;
`saving` whether its team's save has begun (R348). -/
structure Group where
  gid      : Nat
  launch   : LRef
  team     : Nat
  idx      : Nat
  core     : Nat
  quad     : Nat
  slot     : Nat
  resident : Bool
  threads  : List Thread
  uni      : List Word
  uniRd    : List Word
  nf       : List (BitVec 16)
  nfRd     : List (BitVec 16)
  lt       : List (List Word)
  mFail    : Nat
  mSlot    : Nat
  used     : Nat
  acted    : Nat
  task     : Option Task
  retired  : Bool
  saving   : Bool
deriving DecidableEq, Repr

/-! Launches (R125, R129, R133). -/

/-- The kernel header (R129) of a launch; `parts` pairs a worst-case count with a size class, `queues` holds the
occupancies. -/
structure Header where
  features    : Nat
  entry       : DWord
  handler     : DWord
  valloc      : Nat
  uniforms    : Nat
  prio        : Nat
  stackBytes  : Nat
  scratch     : Nat
  g           : Nat
  lc          : Nat
  maxDepth    : Nat
  widths      : List Nat
  share       : Nat
  cluster     : Bool
  gang        : Bool
  idempotent  : Bool
  strictTiles : Bool
  speculate   : Bool
  argp        : DWord
  parts       : List (Nat × Nat)
  queues      : List Nat
deriving DecidableEq, Repr

/-- A team that has been placed: its cores (numbered over the package) and the base of its slice on each (R134, R165);
whether it is resident or saved (R348), whether a drain is under way or has been excluded (R347), its PROGRESS, whether it has
retired, and whether its scratch has been freed since (R137). -/
structure Team where
  idx       : Nat
  cores     : List Nat
  bases     : List Nat
  resident  : Bool
  since     : Nat
  drainTill : Option Nat
  noDrain   : Bool
  progress  : Word
  retired   : Bool
  freed     : Bool
  image     : List (List Byte)
  lineImage : List (List Nat)
deriving DecidableEq, Repr

/-- A launch (R125–R137, R303, R304, R403). -/
structure Launch where
  ref      : LRef
  hdr      : Header
  asid     : Nat
  podKey   : Nat
  argp     : DWord
  T        : Nat
  P        : Nat
  rank     : Nat
  depth    : Nat
  parent   : Option LRef
  device   : Bool
  state    : Nat
  code     : Nat
  leak     : Nat
  order    : Nat
  since    : Nat
  teams    : List Team
  nextTeam : Nat
  flushed  : List Nat
  phases   : List (Nat × Nat × Nat)
  stopped  : Bool
deriving DecidableEq, Repr

/-- A cached copy of a 128-byte line: the core or die that holds it, the address-space identifier, the untranslated
line address, the page kind, the line of memory (by key) that it is a copy of, and the bytes (R170). -/
structure Copy where
  holder : Nat
  asid   : Nat
  line   : Nat
  kind   : Nat
  place  : Nat
  data   : List Byte
deriving DecidableEq, Repr

/-- A page-table entry held in an MTLB or, with `victim`, in its victim storage (R179): the die, the ASID, the level, the page and
the leaf. -/
structure Mtlb where
  die  : Nat
  asid : Nat
  lvl  : Nat
  page : Nat
  leaf : DWord
  victim : Bool := false
deriving DecidableEq, Repr

/-! Tiles and tasks (R275–R300). -/

/-- A tile slot that has been used (R277, R278): its core and slot, generation, and, while it holds a tile, the
partition, class, read count, owner and the team that was given it; `live` until it is free, `spent` once the count has reached 0. -/
structure Tile where
  core  : Nat
  slot  : Nat
  gen   : Nat
  live  : Bool
  spent : Bool
  part  : Nat
  cls   : Nat
  count : Nat
  owner : LRef
  team  : Nat
deriving DecidableEq, Repr

/-- A record in a task queue of a launch (R287, R290): `held` names the group that runs it as a versioned task and
keeps its entry (R298). -/
structure QRec where
  launch : LRef
  queue  : Nat
  bytes  : List Byte
  held   : Option Nat
deriving DecidableEq, Repr

/-- A device launch waiting in a die's pending pool (R302). -/
structure Pending where
  ref    : LRef
  pl     : LRef
  depth  : Nat
  header : DWord
  argp   : DWord
  T      : Nat
  prio   : Option Nat
  asid   : Nat
  podKey : Nat
deriving DecidableEq, Repr

/-- A child's status the die keeps until its parent completes (R303, R304). -/
structure Kept where
  ref    : LRef
  parent : LRef
  status : Word
deriving DecidableEq, Repr

/-- The matrix engine of a core (R250, R251, R272): the launch it serves, the slots that have been written (a slot not
listed holds +0), the queue, the baton. `back` lists the groups that came back from a swap having held the baton. -/
structure Engine where
  core   : Nat
  launch : Option LRef
  slots  : List (Nat × List Word)
  queue  : List MOp
  holder : Option Nat
  fifo   : List Nat
  back   : List Nat
  epoch  : Word
deriving DecidableEq, Repr

/-- What a saved team keeps of the engine of its core number `pos` (R348, R350): slot images, operations, and the groups that held the baton or
waited for it. -/
structure SavedEngine where
  launch : LRef
  team   : Nat
  pos    : Nat
  slots  : List (Nat × List Word)
  ops    : List MOp
  held   : List Nat
  waited : List Nat
deriving DecidableEq, Repr

/-! Bank attention units (R307–R328). -/

/-- One page of a query: the token count, the frame it lies in, with its bytes and errors as the AQPOST found them (R319: assumption log 21), its unit,
how far it has come (0 on its way to the unit, 1 in the unit's queue, 2 its triple formed, 3 its slot written or refused), the code, and the triple
m, l, o. -/
structure QPage where
  ptr    : DWord
  n      : Nat
  frame  : Nat
  cells  : List Host.Cell
  bad    : List (Nat × Nat)
  die    : Nat
  bau    : Nat
  st     : Nat
  code   : Nat
  triple : List Word
  cxl    : Bool
deriving DecidableEq, Repr

/-- A query (R311, R326): its thread and slot, the descriptor's bytes, the query vector and the pages. -/
structure Query where
  id     : Nat
  t      : Tid
  slot   : Nat
  seq    : Nat
  core   : Nat
  launch : LRef
  asid   : Nat
  desc   : List Byte
  qv     : List Word
  pages  : List QPage
deriving DecidableEq, Repr

/-! Collectives (R407–R419). -/

/-- A route slot of a launch on its die (R407, R419): the active table, the staged one with the level, set and phase
after which it becomes active, and the next CSEQ. -/
structure RouteSlot where
  launch : LRef
  n      : Nat
  table  : Option (List Byte)
  staged : Option (List Byte × Nat × Nat × Nat × Tid)
  cseq   : Nat
deriving DecidableEq, Repr

/-- A collective a member has posted and that has not ended (R412). `next` counts the chunk packets it has originated;
`passed` the packets it has combined and sent on without writing; `out` holds the numbers of the packets it has sent that are not
acknowledged; `written` the DST ranges; `held` the packet
that a fault record holds; `sigTag` names its add at a counter of another package. -/
structure Coll where
  id      : Nat
  die     : Nat
  t       : Tid
  launch  : LRef
  slot    : Nat
  seq     : Nat
  rslot   : Nat
  cseq    : Nat
  table   : List Byte
  desc    : List Byte
  asid    : Nat
  key     : Nat
  st      : CmdSt
  next    : Nat
  passed  : Nat
  written : List (Nat × Nat)
  out     : List Nat
  held    : Option (Nat × CollHdr × List Byte)
  sigTag  : Option Nat
  code    : Nat
deriving DecidableEq, Repr

/-- A collective packet held on a die until its member has posted and fired (R412), or one that crosses a die-to-die
link. -/
structure HeldColl where
  die  : Nat
  hdr  : CollHdr
  data : List Byte
deriving DecidableEq, Repr

/-- An abort that reached a die for a collective not yet posted (R414). -/
structure AbortRec where
  die   : Nat
  group : Nat
  cseq  : Nat
  key   : Nat
  code  : Nat
deriving DecidableEq, Repr

/-! The Orrery (R366–R391). -/

/-- A calendar entry (R369). -/
structure Entry where
  v     : Bool
  bcast : Bool
  peer  : Nat
  plan  : Nat
deriving DecidableEq, Repr

/-- A broadcast member record (R383). -/
structure Bcast where
  slot    : Nat
  port    : Nat
  members : List Nat
deriving DecidableEq, Repr

/-- A calendar image (R368). -/
structure Cal where
  gen     : Word
  start   : Nat
  s       : Nat
  slotLen : Nat
  guard   : Nat
  flight  : Nat
  npkg    : Nat
  ref     : Nat
  plans   : List Nat
  entries : List Entry
  bcasts  : List Bcast
deriving DecidableEq, Repr

/-- The state of a port (R390). -/
inductive PortSt where
  | active
  | draining
  | drained
  | training
  | failed
deriving DecidableEq, Repr

/-- The state of a ring bank (R372). -/
inductive BankSt where
  | dark
  | tuning
  | locked
  | fault
deriving DecidableEq, Repr

/-- A ring bank: its state, the plan it is on or moves to, and whether its tuning has been retried. -/
structure Bank where
  st    : BankSt
  plan  : Nat
  tries : Nat
deriving DecidableEq, Repr

/-- A port (R371–R374, R390, R391): its state, the bank of this slot and the spare, its grant for this slot and the
next, the preamble verified in this slot, consecutive FAULT slots, what RETRAIN still needs, the counters, the bytes that its transmit interval has
left (R373), what each class and launch has earned in it and not spent (R381), the die of the peer's port that the preamble named (R382), and the
wavelengths of the last slot (R391). -/
structure Port where
  st       : PortSt
  cur      : Bank
  spare    : Bank
  lit      : Nat
  grant    : Nat
  verified : Option Nat
  faults   : Nat
  drainReq : Bool
  need     : List Nat
  seen     : List Nat
  preErr   : Nat
  crcErr   : Nat
  resent   : Nat
  noData   : Nat
  pre      : Option PreambleMsg
  ack      : Option AckMsg
  left     : Nat
  due      : List (Nat × Option LRef × Nat)
  peerDie  : Nat := 0
  lastLit  : Nat := 0
deriving DecidableEq, Repr

/-- A packet in a VOQ of a die or held in transit (R380, R382): its number, the launch it serves, whether it stands in
the broadcast queue (the members that have not acknowledged it), how often it has been sent, the port it was last sent
on if it awaits an acknowledgement in this slot, whether a transit packet waits for its transit completion, and, of a packet
held in transit for another package, the class and number under which it came; all the ports it was sent on since its last acknowledgement (R390), and, by
member, the broadcast slots in which it was sent (R384). -/
structure OutPkt where
  id      : Nat
  die     : Nat
  launch  : Option LRef
  pkt     : Packet
  bcast   : Option (List Nat)
  sent    : Nat
  port    : Option Nat
  fly     : Bool
  relayed : Bool
  foreign : Bool
  origin  : Nat
  ports   : List Nat := []
  casts   : List (Nat × Nat) := []
deriving DecidableEq, Repr

/-- Which hop sequence: the peer package and the class (R376). -/
structure HopSeq where
  pkg : Nat
  cls : Nat
  bc  : Bool
  n   : Nat
deriving DecidableEq, Repr

/-! Gangs (R403–R406, R444). -/

/-- A gang launch on this package: its name, the members in rank order, this package's rank, the cycle of START, who
has accepted, the cycle of GO, the DONEs (rank, code, leak), the members aborted. -/
structure Gang where
  gid     : GangId
  launch  : LRef
  members : List Nat
  rank    : Nat
  c0      : Nat
  accepts : List Nat
  go      : Option Nat
  dones   : List (Nat × Nat × Nat)
  ended   : Option (Nat × Nat)
deriving DecidableEq, Repr

/-- An arrival of a package in a phase of a set that spans packages (R405). -/
structure BarArr where
  gang  : GangId
  level : Nat
  set   : Nat
  phase : Nat
  rank  : Nat
deriving DecidableEq, Repr

/-! Faults (R338, R339, R433). -/

/-- What a fault record stands for: the parked threads of a group, a copy unit, a matrix operation, a registration or
signal of a command, or nothing that waits. -/
inductive FWho where
  | threads (gid : Nat)
  | copyUnit (cmd unit : Nat)
  | copyReg (cmd : Nat)
  | collReg (coll : Nat)
  | collSig (coll : Nat)
  | collUnit (coll : Nat)
  | matrix (core op : Nat)
  | nothing
deriving DecidableEq, Repr

/-- A fault record (R339): its die and TAG, its fields, whether it stands in the ring, and whether it waits for an
answer. -/
structure FRec where
  die    : Nat
  tag    : Nat
  addr   : DWord
  pc     : DWord
  launch : Nat
  place  : Word
  mask   : Word
  kind   : Nat
  reason : Nat
  who    : FWho
  inRing : Bool
  open_  : Bool
deriving DecidableEq, Repr

/-- The registers of a die: its fault ring (R433), scheduler (R349) and debugger (R355), and its counters: the next
TAG and the next launch identity (R303). -/
structure DieRegs where
  fqBase     : DWord
  fqSize     : Word
  fqTail     : Word
  fqHead     : Word
  fqAsid     : BitVec 8
  nextTag    : Nat
  nextLaunch : Nat
  preQuantum : BitVec 20
  preDrain   : BitVec 16
  preSaves   : Word
  preFlushes : Word
  preDrains  : Word
  dbgScope   : BitVec 2
  dbgBrkArm  : Bool
  dbgLaunch  : Word
  dbgTeam    : Word
  dbgThread  : BitVec 14
  dbgItem    : BitVec 12
  dbgResult  : BitVec 3
deriving DecidableEq, Repr

/-- A publish flip that another package asked this die for (R239, R393): its reply goes to `src` under `tag`. -/
structure Flip where
  id   : Nat
  die  : Nat
  asid : Nat
  addr : DWord
  src  : Nat
  cls  : Nat
  tag  : Nat
deriving DecidableEq, Repr

/-! The host interface (R426–R440). -/

/-- A command queue (R430): `avail` is the index its doorbell last named. -/
structure CQueue where
  base  : DWord
  size  : Word
  head  : Word
  en    : Bool
  asid  : BitVec 8
  avail : Word
deriving DecidableEq, Repr

/-- A command that has started and not completed (R431): where it came from, its entry, its words, and what it waits
for. -/
inductive HWait where
  | launch (l : LRef)
  | counter (reg : Nat)
  | copy (done : List Nat)
  | drain (port : Nat)
  | retrain (port : Nat)
deriving DecidableEq, Repr

structure HostCmd where
  id    : Nat
  queue : Option Nat
  agent : Nat
  index : Nat
  words : List Word
  wait  : HWait
deriving DecidableEq, Repr

/-- What a command has reported (R431): the completions written to a channel of the management port or pod
controller, which has no memory entry. -/
structure ChanDone where
  agent  : Nat
  out    : DWord
  status : Word
  result : Word
deriving DecidableEq, Repr

/-- How a BAR4 access completed (R429): 0 none, 1 data, 2 Completer Abort, 3 poisoned data. -/
structure Bar4Done where
  status : Nat
  data   : List Byte
deriving DecidableEq, Repr

/-- A configuration record (R18, R19, R350): whether its signature verifies, the sites of the logical cores of each die, the save pool of a die in
GiB, and its bytes, which are measured. Other fields of it (the trimming of the rings, the device identity, the region of R380) change nothing that
the model shows. -/
structure Record where
  signed   : Bool
  sites    : List (List Nat)
  savePool : Nat
  voq      : Nat
  bytes    : List Byte
deriving DecidableEq, Repr

/-- The module controller: its registers (R428), the stage of bring-up (R436), whether a launch has been accepted since reset; its flash, with the
record last written (R20), the record that the last module reset took from it (R435), and the measurements (R438); the address that the invalidation
under way took (R428); whether the images of stages 1 and 2 carry the firmware key's signature; the device identity key pair and the certificate chain of
slot 0 (R438); since when, in nanoseconds, the measured flow is below what R440 bears. -/
structure Ctl where
  owner     : Nat
  fatal     : Bool
  recovery  : Bool
  cause     : Nat
  stage     : Nat
  clkSteps  : Word
  clkNow    : BitVec 16
  flow      : BitVec 16
  inlet     : BitVec 16
  tlbAddr   : DWord
  tlbBusy   : Bool
  tlbAll    : Bool
  tlbAsid   : BitVec 8
  bar4Base  : DWord
  bar4En    : Bool
  bar4Asid  : BitVec 8
  bar4Faults : Word
  launched  : Bool
  flash     : Record
  config    : Record
  measured  : List (List Byte)
  tlbAt     : DWord
  fwSigned  : Bool × Bool
  idPriv    : List Byte
  idPub     : List Byte
  chain     : List Byte
  lowSince  : Option Nat
deriving DecidableEq, Repr

/-- The network of the package (R366–R391). `ptr` is the pointer of R371, one per optical engine; `tx` and `rx` the hop
sequences (R376); `cut` the packages cut off; `dropped` the broadcast members dropped, by port; `out` the queues; `relays` the
transit completions to report, by origin; `steered` whether the cycle's steering has been done; `taken` the bytes of transit packets accepted from each
package, `credit` the bytes that each package has granted, `used` those sent to it, by die (R382; counted from the last generation change: assumption log 83); `late` control
packets that wait for room in a queue (R380, assumption log 101). -/
structure Net where
  cal      : Option Cal
  staged   : Option Cal
  inData   : Bool
  synced   : Bool
  aligned  : Bool
  offset   : Option Int
  hops     : Option Nat
  via      : Option Nat
  heard    : Bool
  ports    : List Port
  ptr      : List Nat
  tx       : List HopSeq
  rx       : List HopSeq
  cut      : List Nat
  dropped  : List (Nat × Nat)
  out      : List OutPkt
  relays   : List (Nat × Nat)
  steered  : Bool
  taken    : List (Nat × Nat)
  credit   : List (Nat × Nat)
  used     : List (Nat × Nat)
  late     : List OutPkt := []
deriving DecidableEq, Repr

/-- The next happening: a step of the part, a pick of a quadrant, time that passes, the loss of a cached copy or entry, the writing of a
record to the flash (R20), a read of a BAR0 register, a corrected error of stack memory (R442), or a measurement of the coolant (R428), each of which the spec lets happen at any time (assumption log 6). -/
inductive Next where
  | event (i : Instr)
  | pick (quad : Nat)
  | elapse (ns : Nat)
  | evictL1 (core asid line : Nat)
  | evictRdc (die asid line : Nat)
  | evictMtlb (die asid lvl page : Nat)
  | dropVictim (die asid lvl page : Nat)
  | writeFlash (r : Record)
  | readReg (off : Nat)
  | corrected (key : Nat)
  | coolant (flow inlet : BitVec 16)
  | replyLost (tag : Nat)
deriving DecidableEq, Repr

/-- The QM-EL512, whole. The fields before `mem` are the model's own (assumption log 6): the agenda, whose turn it is in the default order and how many
steps of the part it has taken, the thread whose word is being issued, the rest of its constellation, the participants of a gathered
word, the age order of R139, the next number of an access or packet, and the counter of free values. -/
structure State where
  agenda   : List Next
  flip     : Bool
  turn     : Nat
  cur      : Option Tid
  cons     : List Tid
  gather   : List (Tid × Word)
  age      : List Tid
  nextId   : Nat
  freeCtr  : Nat
  mem      : List Host.Cell
  poison   : List (Nat × Nat)
  lines    : List (Nat × Nat)
  l1       : List Copy
  rdc      : List Copy
  mtlb     : List Mtlb
  roots    : List (Nat × Nat × DWord)
  groups   : List Group
  launches : List Launch
  nextGid  : Nat
  ns       : Nat
  pkgId    : BitVec 10
  netWeights : Word
  tiles    : List Tile
  recs     : List QRec
  pool     : List Pending
  kept     : List Kept
  trigs    : List Trig
  copies   : List CopyCmd
  flips    : List Flip
  engines  : List Engine
  savedEng : List SavedEngine
  queries  : List Query
  bauq     : List (Nat × Nat × Nat)
  routes   : List RouteSlot
  colls    : List Coll
  heldColl : List HeldColl
  aborts   : List AbortRec
  gangs    : List Gang
  barArr   : List BarArr
  frecs    : List FRec
  dies     : List DieRegs
  errs     : List (BitVec 16 × BitVec 16)
  calSlot  : BitVec 6
  calCycle : DWord
  net      : Net
  ctl      : Ctl
  windows  : List (DWord × DWord)
  podKeys  : List Word
  queues   : List CQueue
  cmds     : List HostCmd
  chanOut  : List ChanDone
  bar4     : Bar4Done
deriving DecidableEq, Repr

/-- A die's registers at module reset (R349, R355; the fault ring's, for which R433 gives none, are 0: assumption
log 4). -/
def DieRegs.reset : DieRegs :=
  { fqBase := 0, fqSize := 0, fqTail := 0, fqHead := 0, fqAsid := 0, nextTag := 0, nextLaunch := 1,
    preQuantum := 1000, preDrain := 50, preSaves := 0, preFlushes := 0, preDrains := 0,
    dbgScope := 0, dbgBrkArm := false, dbgLaunch := 0, dbgTeam := 0, dbgThread := 0, dbgItem := 0, dbgResult := 0 }

/-- A command queue at module reset: disabled (R435), QASID 0 (R430), the rest 0 (assumption log 4). -/
def CQueue.reset : CQueue := { base := 0, size := 0, head := 0, en := false, asid := 0, avail := 0 }

def Bank.dark : Bank := { st := .dark, plan := 0, tries := 0 }

/-- A port at module reset: dark (R435, R436); its R390 state is not given (assumption log 4). -/
def Port.reset : Port :=
  { st := .drained, cur := Bank.dark, spare := Bank.dark, lit := 0, grant := 0, verified := none, faults := 0,
    drainReq := false, need := [], seen := [], preErr := 0, crcErr := 0, resent := 0, noData := 0,
    pre := none, ack := none, left := 0, due := [] }

/-- The record that the flash holds at first: each core at the site of its number, a save pool of 1 GiB; the spec gives no contents (assumption
log 26). -/
def Record.reset : Record := { signed := true, sites := List.replicate 4 (List.range 48), savePool := 1, voq := 2 ^ 30, bytes := [] }

/-- The management registers at module reset (R428): no owner, stage 0. -/
def Ctl.reset : Ctl :=
  { owner := 3, fatal := false, recovery := false, cause := 0, stage := 0, clkSteps := 0, clkNow := 1800,
    flow := 0, inlet := 0, tlbAddr := 0, tlbBusy := false, tlbAll := false, tlbAsid := 0, bar4Base := 0,
    bar4En := false, bar4Asid := 0, bar4Faults := 0, launched := false,
    flash := Record.reset, config := Record.reset, measured := [], tlbAt := 0, fwSigned := (true, true),
    idPriv := List.replicate 57 0, idPub := List.replicate 57 0, chain := [], lowSince := none }

/-- The network at module reset: no generation, every port dark (R367). -/
def Net.reset : Net :=
  { cal := none, staged := none, inData := false, synced := false, aligned := false, offset := none, hops := none, via := none,
    heard := false,
    ports := List.replicate 64 Port.reset, ptr := List.replicate 16 0, tx := [], rx := [], cut := [], dropped := [],
    out := [], relays := [], steered := false, taken := [], credit := [], used := [] }

/-- The module right after reset (R26, R435, R436): no launch, no thread, every register at its reset value, memory with
no byte written. -/
def State.reset : State :=
  { agenda := [], flip := false, turn := 0, cur := none, cons := [], gather := [], age := [], nextId := 0, freeCtr := 0,
    mem := [], poison := [], lines := [], l1 := [], rdc := [], mtlb := [], roots := [], groups := [], launches := [],
    nextGid := 0, ns := 0, pkgId := 0, netWeights := 0, tiles := [], recs := [], pool := [], kept := [], trigs := [],
    copies := [], flips := [], engines := [], savedEng := [], queries := [], bauq := [], routes := [], colls := [],
    heldColl := [], aborts := [], gangs := [], barArr := [], frecs := [], dies := List.replicate 4 DieRegs.reset,
    errs := List.replicate 8 (0, 0), calSlot := 0, calCycle := 0, net := Net.reset, ctl := Ctl.reset,
    windows := List.replicate 64 (0, 0), podKeys := List.replicate 256 0, queues := List.replicate 16 CQueue.reset,
    cmds := [], chanOut := [], bar4 := { status := 0, data := [] } }

end Sys2Proof.Machine
end

