-- ==== Sys2Proof/Machine/Mem.lean ====
section
/-! DEFINITION. Mem.lean: the memory of the package as one list of cells in canonical form (addresses rising, no cell
equal to what an unlisted address reads as), the places of the spaces in it, and what a write does besides (R168,
R442). An address that no write has reached reads as 0 (R180, R436). -/
namespace Sys2Proof.Machine

/-- The canonical form: addresses strictly rising from `lo`, no zero byte listed. -/
def memWfFrom (lo : Nat) : List Host.Cell → Bool
  | [] => true
  | c :: l => decide (lo ≤ c.1) && c.2 != 0 && memWfFrom (c.1 + 1) l

/-- The canonical form of memory. -/
def Memory.wf (m : List Host.Cell) : Bool := memWfFrom 0 m

/-- The byte at an address; an unlisted address reads as 0 (R180). -/
def memByte : List Host.Cell → Nat → Byte
  | [], _ => 0
  | c :: l, a => if c.1 = a then c.2 else if a < c.1 then 0 else memByte l a

/-- Bytes from an address on, as cells; a zero is not listed. -/
def memCells : List Byte → Nat → List Host.Cell
  | [], _ => []
  | b :: l, a => if b = 0 then memCells l (a + 1) else (a, b) :: memCells l (a + 1)

/-- The `n` bytes from an address on. -/
def memRead (m : List Host.Cell) : Nat → Nat → List Byte
  | 0, _ => []
  | n + 1, a => memByte m a :: memRead m n (a + 1)

/-- Write bytes from an address on. -/
def memWrite (m : List Host.Cell) (bs : List Byte) (a : Nat) : List Host.Cell :=
  let e := a + bs.length
  m.filter (fun c => decide (c.1 < a)) ++ (memCells bs a ++ m.filter (fun c => decide (e ≤ c.1)))

/-- Remove every cell from `a` on, `n` addresses long: they read as 0 again. -/
def memZero (m : List Host.Cell) (a n : Nat) : List Host.Cell :=
  m.filter (fun c => decide (c.1 < a) || decide (a + n ≤ c.1))

/-! Places. HBM of die d: 2^37 bytes from d × 2^37 (R175). Scratch of core c (0–191): 2^20 bytes from 2^40 + c × 2^20
(R163). Host memory: 2^48 bytes from 2^50 (R160). Tile storage of a slot: 2^16 bytes in a region of its own (R276). -/

def hbmKey (die pa : Nat) : Nat := die * 2 ^ 37 + pa % 2 ^ 37
def scratchKey (core off : Nat) : Nat := 2 ^ 40 + core * 2 ^ 20 + off % 2 ^ 20
def hostKey (a : Nat) : Nat := 2 ^ 50 + a % 2 ^ 48
def tileKey (core slot off : Nat) : Nat := 2 ^ 52 + (core * 2 ^ 16 + slot) * 2 ^ 16 + off % 2 ^ 16

/-- Stack memory is the part below 2^39, in 64-byte units (R442). -/
def isHbm (key : Nat) : Bool := decide (key < 2 ^ 39)

/-- Host memory is the part from 2^50 to 2^50 + 2^48 (R160). -/
def isHost (key : Nat) : Bool := decide (2 ^ 50 ≤ key) && decide (key < 2 ^ 50 + 2 ^ 48)

/-- A byte of `n` from `key` lies in a poisoned unit (R442), or in a unit of host memory that host memory answers as poisoned (R162). -/
def poisoned (s : State) (key n : Nat) : Bool :=
  (isHbm key || isHost key) && s.poison.any (fun u => decide (u.1 * 64 < key + n) && decide (key < u.1 * 64 + 64))

/-- Bits of a unit that `n` bytes from `key` on write. -/
def unitMask (unit key n : Nat) : Nat :=
  ((List.range 64).filter (fun i => decide (key ≤ unit * 64 + i) && decide (unit * 64 + i < key + n))).foldl
    (fun acc i => acc + 2 ^ i) 0

/-- After a write, a unit all of whose bytes have been written since it became poisoned is no longer so (R442). -/
def poisonAfter (p : List (Nat × Nat)) (key n : Nat) : List (Nat × Nat) :=
  (p.map (fun u => (u.1, u.2 ||| unitMask u.1 key n))).filter (fun u => u.2 != 2 ^ 64 - 1)

/-- The state of a scratch or tile line: 0 FULL, 1 EMPTY, 2 ERROR (R168). The list holds the lines that are not
FULL. -/
def lineState (s : State) (key : Nat) : Nat :=
  match s.lines.find? (fun x => x.1 == key / 128) with
  | some x => x.2
  | none => 0

def setLine (ls : List (Nat × Nat)) (line st : Nat) : List (Nat × Nat) :=
  let r := ls.filter (fun x => x.1 != line)
  if st = 0 then r else (line, st) :: r

/-- Set `n` consecutive lines from the one that holds `key` (R217). -/
def setLines (ls : List (Nat × Nat)) (key st : Nat) : Nat → List (Nat × Nat)
  | 0 => ls
  | n + 1 => setLines (setLine ls (key / 128 + n) st) key st n

def readNat (s : State) (key n : Nat) : Nat := ofBytes (memRead s.mem n key)

end Sys2Proof.Machine
end

