-- ==== Sys2Proof/Machine/Translate.lean ====
section
/-! DEFINITION. Translate.lean: tagged pointers (R160) and translation at the owner (R173–R179). -/
namespace Sys2Proof.Machine

def addrTag (a : DWord) : Nat := bits a 63 60
/-- The home die of a tag 0x0 or 0x4 address. -/
def addrDie (a : DWord) : Nat := bits a 49 48
def addrPkg (a : DWord) : Nat := bits a 59 50
/-- The virtual offset of a tag 0x0 or 0x4 address. -/
def addrOff (a : DWord) : Nat := bits a 47 0
def addrRank (a : DWord) : Nat := bits a 22 20
def addrScratchOff (a : DWord) : Nat := bits a 19 0
def addrHandle (a : DWord) : Nat := bits a 55 24
def addrTileOff (a : DWord) : Nat := bits a 15 0

/-- Check 1 of R161: a tag of R160, and every must-be-zero bit zero. -/
def tagOk (a : DWord) : Bool :=
  match addrTag a with
  | 0 => bits a 59 50 == 0
  | 1 => bits a 59 23 == 0
  | 2 => bits a 59 48 == 0
  | 4 => true
  | 5 => bits a 59 56 == 0 && bits a 23 16 == 0
  | _ => false

/-- What translation asks of a page (R161, check 6). -/
inductive Perm where
  | read
  | write
  | fetch
deriving DecidableEq, Repr

/-- Why translation refuses: the cause code of R49 and its detail (R176). -/
structure Deny where
  cause  : Nat
  detail : Nat
deriving DecidableEq, Repr

def notPresent : Nat := 0x06
def protection : Nat := 0x07
def dataError : Nat := 0x0C

def pageBits (lvl : Nat) : Nat := if lvl = 2 then 30 else if lvl = 3 then 21 else 16

/-- The index of a level (R173). -/
def lvlIndex (lvl v : Nat) : Nat :=
  match lvl with
  | 1 => bitsN v 47 39
  | 2 => bitsN v 38 30
  | 3 => bitsN v 29 21
  | _ => bitsN v 20 16

def leafBit (e : Nat) : Bool := e / 2 ^ 15 % 2 == 1
def leafSS (e : Nat) : Bool := e / 2 ^ 7 % 2 == 1
def leafSC (e : Nat) : Bool := e / 2 ^ 6 % 2 == 1
def leafBR (e : Nat) : Bool := e / 2 ^ 5 % 2 == 1
def leafKind (e : Nat) : Nat := bitsN e 4 3
def leafX (e : Nat) : Bool := e / 2 ^ 2 % 2 == 1
def leafW (e : Nat) : Bool := e / 2 % 2 == 1
def leafFrame0 (e : Nat) : Nat := bitsN e 36 16
def leafFrame1 (e : Nat) : Nat := bitsN e 57 37

/-- A frame is aligned as the page size of its level asks (R174). -/
def frameFits (lvl f : Nat) : Bool :=
  if lvl = 2 then f % 2 ^ 14 == 0 else if lvl = 3 then f % 2 ^ 5 == 0 else true

/-- A valid leaf entry is well formed (R174). -/
def leafOk (lvl e : Nat) : Bool :=
  bitsN e 63 58 == 0 && bitsN e 14 8 == 0 && leafKind e != 3 && lvl != 1
    && frameFits lvl (leafFrame0 e) && (!leafSC e || frameFits lvl (leafFrame1 e))
    && !(leafBR e && (lvl != 4 || leafSC e || leafKind e == 0))
    && !(leafSS e && !leafSC e)

/-- A valid non-leaf entry of a level is well formed (R174): the table it names is aligned for the next level. -/
def tableOk (lvl e : Nat) : Bool :=
  bitsN e 63 53 == 0 && bitsN e 14 1 == 0 && lvl != 4
    && (if lvl = 3 then bitsN e 52 16 % 256 == 0 else bitsN e 52 16 % 4096 == 0)

/-- Walk the tables of a die from level `lvl` at the table `tbl` (R173–R176), with fuel for the levels left. -/
def walkFrom (s : State) (die v : Nat) : Nat → Nat → Nat → Except Deny (Nat × Nat)
  | 0, _, _ => .error { cause := notPresent, detail := 2 }
  | fuel + 1, lvl, tbl =>
    let key := hbmKey die (tbl + 8 * lvlIndex lvl v)
    if poisoned s key 8 then .error { cause := dataError, detail := 0 }
    else
      let e := readNat s key 8
      if e % 2 = 0 then .error { cause := notPresent, detail := 1 }
      else if leafBit e then
        (if leafOk lvl e then .ok (lvl, e) else .error { cause := notPresent, detail := 2 })
      else if tableOk lvl e then walkFrom s die v fuel (lvl + 1) (bitsN e 52 16)
      else .error { cause := notPresent, detail := 2 }

/-- The root of an ASID's tree on a die; 0 where it has none (R427). -/
def rootOf (s : State) (die asid : Nat) : Nat :=
  match s.roots.find? (fun r => r.1 == die && r.2.1 == asid) with
  | some r => r.2.2.toNat
  | none => 0

/-- The leaf that translates a virtual offset: from the MTLB, else by a walk (R176, R179). -/
def findLeaf (s : State) (die asid v : Nat) : Except Deny (Nat × Nat) :=
  match s.mtlb.find? (fun m => m.die == die && m.asid == asid && m.page == v / 2 ^ pageBits m.lvl) with
  | some m => .ok (m.lvl, m.leaf.toNat)
  | none =>
    if rootOf s die asid = 0 then .error { cause := notPresent, detail := 1 }
    else walkFrom s die v 4 1 (rootOf s die asid)

/-- Checks 5 and 6 of R161. -/
def translate (s : State) (die asid v : Nat) (p : Perm) : Except Deny (Nat × Nat) :=
  match findLeaf s die asid v with
  | .error d => .error d
  | .ok (lvl, e) =>
    let allowed := match p with
      | .read => true
      | .write => leafW e
      | .fetch => leafX e
    if allowed then .ok (lvl, e) else .error { cause := protection, detail := 0 }

/-- The physical address an access to a leaf's page reaches (R175). -/
def physOf (lvl e v : Nat) : Nat :=
  let f := if leafSC e && leafSS e then leafFrame1 e else leafFrame0 e
  f * 2 ^ 16 + v % 2 ^ pageBits lvl

/-- The other frame, which a copy-engine write to a shadowed destination reaches (R175, R238). -/
def shadowOf (lvl e v : Nat) : Nat :=
  let f := if leafSS e then leafFrame0 e else leafFrame1 e
  f * 2 ^ 16 + v % 2 ^ pageBits lvl

/-- The stack that holds a physical address of a die (R175). -/
def stackOf (die pa : Nat) : Nat := 2 * die + bitsN pa 36 36

/-- Count an uncorrectable error of the stack that holds a memory key (R324), saturating. -/
def countErr (s : State) (key : Nat) : State :=
  let bump := fun (e : BitVec 16 × BitVec 16) => (if e.1 = 0xFFFF then e.1 else e.1 + 1, e.2)
  { s with errs := s.errs.modify (stackOf (key / 2 ^ 37) (key % 2 ^ 37)) bump }

/-- A corrected error of the stack that holds a memory key: repaired in place and counted (R324, R442), saturating. -/
def countCorrected (s : State) (key : Nat) : State :=
  let bump := fun (e : BitVec 16 × BitVec 16) => (e.1, if e.2 = 0xFFFF then e.2 else e.2 + 1)
  if isHbm key then { s with errs := s.errs.modify (stackOf (key / 2 ^ 37) (key % 2 ^ 37)) bump } else s

/-- The entry with an uncorrectable error at which a walk ends (R176, R442). -/
def walkErr (s : State) (die v : Nat) : Nat → Nat → Nat → Option Nat
  | 0, _, _ => none
  | fuel + 1, lvl, tbl =>
    let key := hbmKey die (tbl + 8 * lvlIndex lvl v)
    if poisoned s key 8 then some key
    else
      let e := readNat s key 8
      if e % 2 = 0 ∨ leafBit e ∨ tableOk lvl e = false then none else walkErr s die v fuel (lvl + 1) (bitsN e 52 16)

/-- Where the walk for a virtual offset meets an uncorrectable error. -/
def leafErr (s : State) (die asid v : Nat) : Option Nat :=
  match findLeaf s die asid v with
  | .error d => if d.cause = dataError then walkErr s die v 4 1 (rootOf s die asid) else none
  | .ok _ => none

/-- Count the error that the walk for a virtual offset meets, if any (R324, R442). -/
def countWalk (s : State) (die asid v : Nat) : State := match leafErr s die asid v with
  | some k => countErr s k
  | none => s

/-- Where a read of `n` bytes at a tag 0x0 or 0x4 address meets an uncorrectable error: in its walk or in its data. -/
def readErr (s : State) (asid : Nat) (a : DWord) (n : Nat) : Option Nat :=
  match findLeaf s (addrDie a) asid (addrOff a) with
  | .error _ => leafErr s (addrDie a) asid (addrOff a)
  | .ok (lvl, e) =>
    let k := hbmKey (addrDie a) (physOf lvl e (addrOff a))
    if poisoned s k n then some k else none

/-- Count the first uncorrectable error that a read of `n` pieces of `w` bytes meets (R324, R442). -/
def countReads (s : State) (asid w n : Nat) (a : DWord) : State :=
  match (List.range n).findSome? (fun i => readErr s asid (a + BitVec.ofNat 64 (w * i)) w) with
  | some k => countErr s k
  | none => s

/-- An entry of a place in the MTLB of a die, or in its victim storage. -/
def Mtlb.at_ (m : Mtlb) (die asid lvl page : Nat) : Bool := m.die == die && m.asid == asid && m.lvl == lvl && m.page == page

/-- The list without the oldest entry that a test finds. -/
def dropLast (l : List Mtlb) (f : Mtlb → Bool) : List Mtlb := match l.reverse.find? f with
  | some m => l.filter (fun x => !x.at_ m.die m.asid m.lvl m.page)
  | none => l

/-- Move an entry of the MTLB to victim storage, which holds 65,536 entries and loses its oldest when it is full (R179). -/
def toVictim (l : List Mtlb) (m : Mtlb) : List Mtlb :=
  let rest := l.filter (fun x => !x.at_ m.die m.asid m.lvl m.page)
  let mine := fun (x : Mtlb) => x.victim && x.die == m.die
  { m with victim := true } :: (if decide (65536 ≤ (rest.filter mine).length) then dropLast rest mine else rest)

/-- Put an entry into the MTLB of its die, which holds 4,096 of each page size; one that is full evicts its oldest of that size (R179; assumption
log 14). -/
def putMtlb (l : List Mtlb) (m : Mtlb) : List Mtlb :=
  let rest := l.filter (fun x => !x.at_ m.die m.asid m.lvl m.page)
  let same := fun (x : Mtlb) => !x.victim && x.die == m.die && x.lvl == m.lvl
  m :: (if decide (4096 ≤ (rest.filter same).length) then match rest.reverse.find? same with
    | some x => toVictim rest x
    | none => rest else rest)

/-- Keep a leaf that a walk or the victim storage gave in the MTLB (R176, R179). -/
def fillMtlb (s : State) (die asid v : Nat) : State :=
  match s.mtlb.find? (fun m => !m.victim && m.die == die && m.asid == asid && m.page == v / 2 ^ pageBits m.lvl) with
  | some _ => s
  | none =>
    match findLeaf s die asid v with
    | .ok (lvl, e) => { s with mtlb := putMtlb s.mtlb { die := die, asid := asid, lvl := lvl, page := v / 2 ^ pageBits lvl, leaf := BitVec.ofNat 64 e } }
    | .error _ => s

end Sys2Proof.Machine
end

