-- ==== Sys2Proof/Machine/Acc.lean ====
section
/-! DEFINITION. Acc.lean: the parts of the state by name: groups, threads, launches, teams, places. -/
namespace Sys2Proof.Machine

def State.group? (s : State) (gid : Nat) : Option Group := s.groups.find? (fun g => g.gid == gid)
def State.launch? (s : State) (l : LRef) : Option Launch := s.launches.find? (fun x => x.ref == l)
def State.thread? (s : State) (t : Tid) : Option Thread :=
  match s.group? t.gid with
  | some g => g.threads[t.lane]?
  | none => none

/-- Change a group. -/
def State.modGroup (s : State) (gid : Nat) (f : Group → Group) : State :=
  { s with groups := s.groups.map (fun g => if g.gid = gid then f g else g) }
/-- Change a thread. -/
def State.modThread (s : State) (t : Tid) (f : Thread → Thread) : State :=
  s.modGroup t.gid (fun g => { g with threads := g.threads.modify t.lane f })
/-- Change a launch. -/
def State.modLaunch (s : State) (l : LRef) (f : Launch → Launch) : State :=
  { s with launches := s.launches.map (fun x => if x.ref = l then f x else x) }
/-- Change a team of a launch. -/
def State.modTeam (s : State) (l : LRef) (team : Nat) (f : Team → Team) : State :=
  s.modLaunch l (fun x => { x with teams := x.teams.map (fun t => if t.idx = team then f t else t) })

def Launch.team? (l : Launch) (i : Nat) : Option Team := l.teams.find? (fun t => t.idx == i)

/-- A fresh number for an access, a command or a packet. -/
def State.fresh (s : State) : Nat × State := (s.nextId, { s with nextId := s.nextId + 1 })

/-! Places (R13, R14): cores are numbered 0–191 over the package, eight to a cluster, 48 to a die. -/

def coreDie (core : Nat) : Nat := core / 48
def coreCluster (core : Nat) : Nat := core / 8
def coreRank (core : Nat) : Nat := core % 8
/-- Die-local core number (R14). -/
def coreLocal (core : Nat) : Nat := core % 48

def Group.die (g : Group) : Nat := coreDie g.core

/-- The whole work identifier of a thread (R126). -/
def widOf (l : Launch) (g : Group) (lane : Nat) : Nat :=
  ((l.rank * l.T + g.team) * (32 * l.hdr.g) + (32 * g.idx + lane)) % 2 ^ 64

/-- Team-thread number (R126). -/
def teamThread (g : Group) (lane : Nat) : Nat := 32 * g.idx + lane

/-- B_L of R127. -/
def levelBits (h : Header) (level : Nat) : Nat := (h.widths.take (level + 1)).foldl (· + ·) 0

/-- The level-L set of a work identifier: the bits above B_L (R127). -/
def levelSet (h : Header) (level wid : Nat) : Nat := wid / 2 ^ levelBits h level

/-- The teams of one co-residency set: how many (R128). -/
def coTeams (h : Header) : Nat :=
  if h.cluster then max 1 (2 ^ levelBits h h.lc / (32 * h.g)) else 1

/-- The first team of the co-residency set of a team (R128). -/
def coFirst (h : Header) (team : Nat) : Nat := team / coTeams h * coTeams h

/-- A capability bit of the launch's feature mask (R132). -/
def Launch.has (l : Launch) (b : Nat) : Bool := l.hdr.features / 2 ^ b % 2 == 1

/-! Scratch windows (R165). -/

/-- E of R165: the bytes of a slice of a team on `c` cores. -/
def sliceBytes (scratch c : Nat) : Nat := 128 * cdiv scratch (128 * c)

/-- The length of slice `j`. -/
def sliceLen (scratch c j : Nat) : Nat :=
  min scratch ((j + 1) * sliceBytes scratch c) - min scratch (j * sliceBytes scratch c)

/-- The slices of a team: core, base, length. -/
def Team.slices (h : Header) (t : Team) : List (Nat × Nat × Nat) :=
  (t.cores.zip t.bases).zipIdx.map (fun x => (x.1.1, x.1.2, sliceLen h.scratch t.cores.length x.2))

/-- The slices of one team on a core: base and length. -/
def teamSlices (h : Header) (tm : Team) (core : Nat) : List (Nat × Nat) :=
  (tm.cores.zipIdx.filter (fun p => p.1 == core)).map
    (fun p => (tm.bases.getD p.2 0, sliceLen h.scratch tm.cores.length p.2))

/-- The scratch window of a team on a core: base and length (R165); the slices of a CLUSTER set stand side by side. -/
def windowOn (l : Launch) (team core : Nat) : Nat × Nat :=
  let first := coFirst l.hdr team
  let ts := (l.teams.filter (fun t => decide (first ≤ t.idx) && decide (t.idx < first + coTeams l.hdr)))
  let sl := (ts.flatMap (fun t => (teamSlices l.hdr t core).map (fun x => (t.idx, x)))).filter (fun x => x.2.2 != 0)
  match sl with
  | [] => (0, 0)
  | x :: r =>
    ((r.foldl (fun b y => min b y.2.1) x.2.1), (sl.map (fun y => y.2.2)).foldl (· + ·) 0)

/-- The window of a group on a rank of its cluster: the core, its base and its length. -/
def windowOf (l : Launch) (g : Group) (rank : Nat) : Nat × Nat × Nat :=
  let core := coreCluster g.core * 8 + rank
  (core, windowOn l g.team core)

end Sys2Proof.Machine
end

