-- ==== Sys2Proof/Machine/Operands.lean ====
section
/-! DEFINITION. Operands.lean: register names and windows (R23–R27, R42), destinations, predicates. Names are decoded
in the order d, a, b, and the uniform rule R27 is checked after them (assumption log 9). -/
namespace Sys2Proof.Machine

/-- What the word being issued acts on: the thread, its group and its launch. -/
structure Ctx where
  t  : Tid
  th : Thread
  g  : Group
  l  : Launch
deriving DecidableEq, Repr

def illegalInstr : Nat := 0x01
def illegalOperand : Nat := 0x02
def regRange : Nat := 0x03
def misaligned : Nat := 0x04
def addressSpace : Nat := 0x05
def scratchRange : Nat := 0x08
def privilege : Nat := 0x09
def stackOver : Nat := 0x0A
def tileStale : Nat := 0x10
def tileCountCause : Nat := 0x11
def poolStarvation : Nat := 0x12
def poolPartition : Nat := 0x13
def copyFault : Nat := 0x18
def matrixFormat : Nat := 0x19
def scaleExtent : Nat := 0x1A
def batonCause : Nat := 0x1B
def queueOver : Nat := 0x20
def mcastMask : Nat := 0x28
def collOrder : Nat := 0x29
def remoteUnreachable : Nat := 0x2A
def userTrap : Nat := 0x30
def breakCause : Nat := 0x31

/-- A trap found at issue by the word at the thread's PC (R35, R336): cause and detail; address, KIND and WHEN 0. -/
def trapPlain (pc : DWord) (cause detail : Nat) : TrapRec :=
  { cause := cause, pc := pc, addr := 0, detail := detail, kind := 0, at_ := 0, further := 0 }
/-- A trap at issue of a cause that sets KIND and WHEN (R336). -/
def trapAt (pc : DWord) (cause : Nat) (addr : DWord) (detail kind : Nat) : TrapRec :=
  { cause := cause, pc := pc, addr := addr, detail := detail, kind := kind, at_ := 1, further := 0 }

/-- ILLEGAL_OPERAND at issue (R336: WHEN 1). -/
def Ctx.illegal (c : Ctx) : TrapRec := trapAt c.th.pc illegalOperand 0 0 0

abbrev Res (α : Type) := Except TrapRec α

/-- Raise a trap unless a condition holds. -/
def require (b : Bool) (r : TrapRec) : Res Unit := if b then .ok () else .error r

/-- A system name 120–127 read as one register (R23). -/
def systemName (c : Ctx) (n : Nat) : Word :=
  match n with
  | 121 => BitVec.ofNat 32 c.t.lane
  | 122 => BitVec.ofNat 32 (widOf c.l c.g c.t.lane)
  | 123 => BitVec.ofNat 32 (widOf c.l c.g c.t.lane / 2 ^ 32)
  | 124 => BitVec.ofNat 32 c.g.idx
  | 125 => BitVec.ofNat 32 (coreLocal c.g.core)
  | 126 => BitVec.ofNat 32 c.th.vwb.toNat
  | _ => 0

/-- `w` consecutive words of a list. -/
def slice (l : List Word) (i w : Nat) : List Word := (List.range w).map (fun j => l.getD (i + j) 0)

/-- Read a source of `w` registers (R23, R25). -/
def src (c : Ctx) (w : Nat) (f : BitVec 7) : Res (List Word) :=
  let n := f.toNat
  if n < 80 then
    (if c.th.vwb.toNat + n + w ≤ c.th.regs.length then .ok (slice c.th.regs (c.th.vwb.toNat + n) w)
     else .error (trapPlain c.th.pc regRange n))
  else if n < 120 then .ok (slice c.g.uniRd (c.th.uwb.toNat + (n - 80)) w)
  else if w = 1 then .ok [systemName c n]
  else if n = 120 then .ok (List.replicate w 0)
  else if w = 2 ∧ n = 122 then .ok [systemName c 122, systemName c 123]
  else .error c.illegal

def src32 (c : Ctx) (f : BitVec 7) : Res Word :=
  match src c 1 f with
  | .ok l => .ok (l.getD 0 0)
  | .error r => .error r

def src64 (c : Ctx) (f : BitVec 7) : Res DWord :=
  match src c 2 f with
  | .ok l => .ok (pairOf (l.getD 0 0) (l.getD 1 0))
  | .error r => .error r

/-- Decode a destination of `w` registers (R23–R25). -/
def dest (c : Ctx) (w : Nat) (f : BitVec 7) : Res Dst :=
  let n := f.toNat
  if n < 80 then
    (if c.th.vwb.toNat + n + w ≤ c.th.regs.length then .ok (.vec (c.th.vwb.toNat + n) w)
     else .error (trapPlain c.th.pc regRange n))
  else if n < 120 then .ok (.uni (c.th.uwb.toNat + (n - 80)) w)
  else if w = 1 ∧ n = 127 then .ok .none
  else .error c.illegal

def Dst.isUni : Dst → Bool
  | .uni _ _ => true
  | _ => false

def Dst.isVec : Dst → Bool
  | .vec _ _ => true
  | _ => false

/-- A name that an instruction writing a uniform register may read (R27). -/
def uniSource (f : BitVec 7) : Bool :=
  let n := f.toNat
  (decide (80 ≤ n) && decide (n < 120)) || n == 120 || n == 124 || n == 125 || n == 127

/-- R27 and R63: a uniform destination takes every source from the group, and no predicate. -/
def uniRule (c : Ctx) (d : Dst) (srcs : List (BitVec 7)) (readsPred : Bool) : Res Unit :=
  require (!d.isUni || (srcs.all uniSource && !readsPred)) c.illegal

/-- Replace words of a list from an index on. -/
def setWords (l : List Word) : Nat → List Word → List Word
  | _, [] => l
  | i, v :: vs => setWords (l.set i v) (i + 1) vs

/-- Write a destination (R23: a write to null is discarded). -/
def Ctx.write (c : Ctx) (d : Dst) (vs : List Word) : Ctx :=
  match d with
  | .none => c
  | .vec r _ => { c with th := { c.th with regs := setWords c.th.regs r vs } }
  | .uni r _ => { c with g := { c.g with uni := setWords c.g.uni r vs } }

def Ctx.write64 (c : Ctx) (d : Dst) (v : DWord) : Ctx := c.write d [loWord v, hiWord v]

/-- A predicate; p7 reads 1 (R28). -/
def Ctx.pred (c : Ctx) (k : BitVec 3) : Bool := if k = 7 then true else c.th.preds.getLsbD k.toNat

/-- A 7-bit predicate register with one bit set to a value. -/
def setPred (p : BitVec 7) (k : Nat) (v : Bool) : BitVec 7 :=
  if k < 7 then
    (if v then p ||| BitVec.ofNat 7 (2 ^ k) else p &&& ~~~ BitVec.ofNat 7 (2 ^ k))
  else p

/-- Write a predicate; a write to p7 is ignored (R28). -/
def Ctx.setPred (c : Ctx) (k : BitVec 3) (v : Bool) : Ctx :=
  { c with th := { c.th with preds := Machine.setPred c.th.preds k.toNat v } }

/-! The shapes of the register instructions. -/

/-- d := f a b, all 32-bit. -/
def op2 (f : Word → Word → Word) (d a b : BitVec 7) (c : Ctx) : Res Ctx := do
  let dst ← dest c 1 d
  let x ← src32 c a
  let y ← src32 c b
  uniRule c dst [a, b] false
  .ok (c.write dst [f x y])

/-- d := f a. -/
def op1 (f : Word → Word) (d a : BitVec 7) (c : Ctx) : Res Ctx := do
  let dst ← dest c 1 d
  let x ← src32 c a
  uniRule c dst [a] false
  .ok (c.write dst [f x])

/-- d := f a b d: the destination is also a source. -/
def op3 (f : Word → Word → Word → Word) (d a b : BitVec 7) (c : Ctx) : Res Ctx := do
  let dst ← dest c 1 d
  let z ← src32 c d
  let x ← src32 c a
  let y ← src32 c b
  uniRule c dst [d, a, b] false
  .ok (c.write dst [f x y z])

/-- Pairs: d := f a b. -/
def op2p (f : DWord → DWord → DWord) (d a b : BitVec 7) (c : Ctx) : Res Ctx := do
  let dst ← dest c 2 d
  let x ← src64 c a
  let y ← src64 c b
  uniRule c dst [a, b] false
  .ok (c.write64 dst (f x y))

/-- Pairs: d := f a. -/
def op1p (f : DWord → DWord) (d a : BitVec 7) (c : Ctx) : Res Ctx := do
  let dst ← dest c 2 d
  let x ← src64 c a
  uniRule c dst [a] false
  .ok (c.write64 dst (f x))

end Sys2Proof.Machine
end

