-- ==== Sys2Proof/Machine/Poc.lean ====
section
/-! DEFINITION. Poc.lean: what happens at a point of coherence (R181): a write there, with the counters (R242), the
read sets (R299) and the poison (R442) it touches; the cached copies (R170, R171, R364); peer and host reach (R162,
R387, R394). -/
namespace Sys2Proof.Machine

/-- A counter with value `v` is reached at a threshold (R241). -/
def reached (v thr : Word) : Bool := decide ((v - thr).toNat < 2 ^ 31)

def readWord (s : State) (key : Nat) : Word := BitVec.ofNat 32 (readNat s key 4)

/-- The evaluation of R242 after a write to some bytes. -/
def evalTrigs (s : State) (key n : Nat) : List Trig :=
  s.trigs.map (fun r => if r.key < key + n ∧ key < r.key + 4 then
    { r with due := r.due || reached (readWord s r.key) r.thr } else r)

/-- A write by another observer to a line of a read set dooms the task (R299). -/
def doom (byGid : Option Nat) (key n : Nat) (g : Group) : Group :=
  match g.task with
  | some tk =>
    if tk.versioned && byGid != some g.gid && tk.reads.any (fun l => decide (l * 128 < key + n) && decide (key < l * 128 + 128))
    then { g with task := some { tk with doomed := true } } else g
  | none => g

/-- Perform a write at its point of coherence (R181). -/
def pocWrite (s : State) (byGid : Option Nat) (key : Nat) (bs : List Byte) : State :=
  let s1 := { s with mem := memWrite s.mem bs key, poison := poisonAfter s.poison key bs.length,
                     groups := s.groups.map (doom byGid key bs.length) }
  { s1 with trigs := evalTrigs s1 key bs.length }

/-! Cached copies. -/

def Copy.is (c : Copy) (holder asid line : Nat) : Bool := c.holder == holder && c.asid == asid && c.line == line

def findCopy (l : List Copy) (holder asid line : Nat) : Option Copy := l.find? (fun c => c.is holder asid line)
def dropCopy (l : List Copy) (holder asid line : Nat) : List Copy := l.filter (fun c => !c.is holder asid line)
def putCopy (l : List Copy) (c : Copy) : List Copy := c :: dropCopy l c.holder c.asid c.line

/-- The list without the oldest copy of a holder. -/
def dropOldest (l : List Copy) (holder : Nat) : List Copy := match l.reverse.find? (fun c => c.holder == holder) with
  | some c => dropCopy l c.holder c.asid c.line
  | none => l

/-- Fill a cache of `cap` lines (R170): one that is full loses the line it has held longest. The spec names no replacement; which line goes is the
model's choice (assumption log 14), and the agenda may drop any line at any time. -/
def putCopyIn (cap : Nat) (l : List Copy) (c : Copy) : List Copy :=
  let l1 := dropCopy l c.holder c.asid c.line
  c :: (if decide (cap ≤ (l1.filter (fun x => x.holder == c.holder)).length) then dropOldest l1 c.holder else l1)

/-- Replace bytes of a line from an offset on. -/
def setBytes (l : List Byte) : Nat → List Byte → List Byte
  | _, [] => l
  | i, v :: vs => setBytes (l.set i v) (i + 1) vs

/-- A copy takes in a write to its line. -/
def patchCopy (l : List Copy) (holder asid line off : Nat) (bs : List Byte) : List Copy :=
  l.map (fun c => if c.is holder asid line then { c with data := setBytes c.data off bs } else c)

/-- The copies of the line of memory that holds a key, under whatever names, leave the L1 of a core and the RDC of its die, but for the one name
that is `kept`. A copy may be replaced at any time (R170, R364); here it is where a thread of the core would else read, by another name of the
line, a value older than one that it has read or written (R182: assumption log 98). -/
def dropNames (s : State) (core key : Nat) (kept : Option (Nat × Nat)) : State :=
  let stays := fun (c : Copy) => c.place != key / 128 || kept == some (c.asid, c.line)
  { s with l1 := s.l1.filter (fun c => c.holder != core || stays c), rdc := s.rdc.filter (fun c => c.holder != coreDie core || stays c) }

/-- The actions of an acquire of a thread of a core on the copies (R190, R195): its RC copies, and with `uo` the UO
copies too, become misses. -/
def acquireCopies (s : State) (core : Nat) (uo : Bool) : State :=
  { s with l1 := s.l1.filter (fun c => !(c.holder == core && (c.kind == 1 || uo))),
           rdc := s.rdc.filter (fun c => !(c.holder == coreDie core && (c.kind == 1 || uo))) }

/-- The copies of a page of a die are removed everywhere in the package (R177, R178). -/
def dropPage (s : State) (asid : Option Nat) (die v lvl : Nat) : State :=
  let keep := fun (c : Copy) =>
    !((asid == none || asid == some c.asid) && bitsN (c.line * 128) 49 48 == die
      && bitsN (c.line * 128) 47 0 / 2 ^ pageBits lvl == v / 2 ^ pageBits lvl)
  { s with l1 := s.l1.filter keep, rdc := s.rdc.filter keep }

/-! Reach. -/

/-- The entries of the calendar in force, with their slot and port; those of DRAINED and FAILED ports count as invalid
(R387, R390). -/
def liveEntries (s : State) : List (Nat × Nat × Entry) :=
  match s.net.cal with
  | none => []
  | some c =>
    (c.entries.zipIdx.map (fun e => (e.2 / 64, e.2 % 64, e.1))).filter (fun x =>
      x.2.2.v && match s.net.ports[x.2.1]? with
        | some p => p.st != .drained && p.st != .failed
        | none => false)

/-- A peer package is reachable (R387); the package itself always is. -/
def reachable (s : State) (q : Nat) : Bool :=
  q == s.pkgId.toNat ||
  match s.net.cal with
  | none => false
  | some c => decide (q < c.npkg) && !s.net.cut.contains q
      && (liveEntries s).any (fun x => !x.2.2.bcast && x.2.2.peer == q)

/-- The ASID that a pod key is bound to (R394, R427): key 0 never is; the lowest word decides. -/
def keyAsid (s : State) (key : Nat) : Option Nat :=
  if key = 0 then none
  else (s.podKeys.find? (fun w => bit w 8 && bits w 31 16 == key)).map (fun w => bits w 7 0)

/-- A host address range lies in a window granted to an ASID (R162, R427). -/
def hostGranted (s : State) (asid a n : Nat) : Bool :=
  s.windows.any (fun w => bit w.2 63 && bits w.2 55 48 == asid && decide (w.1.toNat ≤ a)
    && decide (a + n ≤ bits w.2 47 0))

/-- The generation in force (CAL_GEN); 0 before the first CAL_LOAD (R367). -/
def calGen (s : State) : Word := match s.net.cal with
  | some c => c.gen
  | none => 0

/-- Generation `a` is `b` or an earlier one. -/
def genLe (a b : Nat) : Bool := decide ((b + 2 ^ 32 - a) % 2 ^ 32 < 2 ^ 31)

/-- A generation is closed (R388): a later one is in force and nothing stamped with it or earlier is left. -/
def genClosed (s : State) (g : Nat) : Bool :=
  genLe g (calGen s).toNat && g != (calGen s).toNat && s.net.out.all (fun o => !genLe o.pkt.gen g)

end Sys2Proof.Machine
end

