-- ==== Sys2Proof/Machine/Places.lean ====
section
/-! DEFINITION. Places.lean: where scratch and tile addresses lie (R163, R165, R277), the units of a copy (R229), the
extents and lines of a matrix operation (R257, R259, R268), and the range scoreboard over them (R233, R266). -/
namespace Sys2Proof.Machine

/-! Tiles (R277). -/

def hRank (h : Nat) : Nat := bitsN h 31 29
def hSlot (h : Nat) : Nat := bitsN h 28 21
def hGen (h : Nat) : Nat := bitsN h 20 9
def hClass (h : Nat) : Nat := bitsN h 8 7
def hPart (h : Nat) : Nat := bitsN h 6 0
def classSize (c : Nat) : Nat := match c with
  | 1 => 4096
  | 2 => 16384
  | 3 => 65536
  | _ => 0

/-- The core that a handle names in the cluster of a core. -/
def hCore (core h : Nat) : Nat := coreCluster core * 8 + hRank h

def State.tile? (s : State) (core slot : Nat) : Option Tile := s.tiles.find? (fun t => t.core == core && t.slot == slot)

/-- A handle passes check 4 of R161 for a launch on a core's cluster (R277). -/
def tileFresh (s : State) (l : Launch) (core h : Nat) : Bool :=
  decide (hPart h < 8) &&
  match l.hdr.parts[hPart h]?, s.tile? (hCore core h) (hSlot h) with
  | some p, some t =>
    p.2 != 0 && p.2 == hClass h && t.live && !t.spent && t.owner == l.ref && t.gen == hGen h
  | _, _ => false

/-- The memory key of a scratch or tile address of a group, if its tag is 0x1 or 0x5 (R163, R165). -/
def localKey (l : Launch) (g : Group) (a : DWord) : Option Nat :=
  if addrTag a = 1 then
    let w := windowOf l g (addrRank a)
    some (scratchKey w.1 (w.2.1 + addrScratchOff a))
  else if addrTag a = 5 then
    let h := addrHandle a
    some (tileKey (hCore g.core h) (hSlot h) (addrTileOff a))
  else none

/-- The length of the space that a scratch or tile address counts in: its window or its size class. -/
def localLen (l : Launch) (g : Group) (a : DWord) : Nat :=
  if addrTag a = 1 then (windowOf l g (addrRank a)).2.2 else classSize (hClass (addrHandle a))

/-- The offset of a scratch or tile address in that space. -/
def localOff (a : DWord) : Nat := if addrTag a = 1 then addrScratchOff a else addrTileOff a

/-! Copy units (R224, R227, R229). -/

def CopyCmd.tensor (c : CopyCmd) : Bool := bit c.ctl 15
def CopyCmd.chunks (c : CopyCmd) : Nat := bits (c.lay.getD 0 0) 12 0
def CopyCmd.rows (c : CopyCmd) : Nat := bits (c.lay.getD 1 0) 16 0
def CopyCmd.sStride (c : CopyCmd) : DWord := pairOf (c.lay.getD 2 0) (c.lay.getD 3 0)
def CopyCmd.dStride (c : CopyCmd) : DWord := pairOf (c.lay.getD 4 0) (c.lay.getD 5 0)
def CopyCmd.sSwz (c : CopyCmd) : Nat := bits (c.lay.getD 0 0) 19 18
def CopyCmd.dSwz (c : CopyCmd) : Nat := bits (c.lay.getD 0 0) 17 16

/-- XOR8 of R229. -/
def swz (mode c r : Nat) : Nat := if mode = 1 then c / 8 * 8 + ((c % 8) ^^^ (r % 8)) else c

/-- How many units a command has. -/
def CopyCmd.units (c : CopyCmd) : Nat := if c.tensor then c.chunks * c.rows else c.len / 16

def CopyCmd.srcAt (c : CopyCmd) (u : Nat) : DWord :=
  if c.tensor then c.src + BitVec.ofNat 64 (u / c.chunks) * c.sStride + BitVec.ofNat 64 (16 * swz c.sSwz (u % c.chunks) (u / c.chunks))
  else c.src + BitVec.ofNat 64 (16 * u)

def CopyCmd.dstAt (c : CopyCmd) (u : Nat) : DWord :=
  if c.tensor then c.dst + BitVec.ofNat 64 (u / c.chunks) * c.dStride + BitVec.ofNat 64 (16 * swz c.dSwz (u % c.chunks) (u / c.chunks))
  else c.dst + BitVec.ofNat 64 (16 * u)

/-- The ranks that CPYM names (R224). -/
def CopyCmd.ranks (c : CopyCmd) : List Nat := (List.range 8).filter (fun k => bit c.ctl (16 + k))

/-- An address with its rank field replaced (R237). -/
def withRank (a : DWord) (k : Nat) : DWord :=
  BitVec.ofNat 64 (2 ^ 60 + k * 2 ^ 20 + addrScratchOff a)

/-- The destinations of a unit: one, or one on each rank of a CPYM. -/
def CopyCmd.dstsAt (c : CopyCmd) (u : Nat) : List DWord :=
  if c.minor = 2 then c.ranks.map (withRank (c.dstAt u)) else [c.dstAt u]

/-- An address with a peer pointer to this package reduced to its tag 0x0 form, to compare addresses. -/
def vaNorm (s : State) (a : DWord) : Nat :=
  if addrTag a = 4 ∧ addrPkg a = s.pkgId.toNat then a.toNat % 2 ^ 50 else a.toNat

/-- A write of `n` bytes from a place falls on a line of an interval of 16-byte units, in which one of them is still to be written (R233, R269).
`us` are the places of all units and of those still to be written. -/
def unitsBlock (all left : List Nat) (place n : Nat) : Bool :=
  all.any (fun k => decide (k < place + n)) && all.any (fun k => decide (place < k + 16)) && left.any (fun k => k / 128 == place / 128)

/-- A write by a thread of an address space, at an address and its key, waits for a command (R233): it lies in the interval of the destination,
on a line to which the command still has to write a unit. Scratch and tile places are compared by key, for each rank of a CPYM on its own; the others by
address. -/
def CopyCmd.blocks (s : State) (l : Launch) (g : Group) (c : CopyCmd) (asid : Nat) (a : DWord) (key n : Nat) : Bool :=
  let us := List.range c.units
  let left := us.filter (fun u => !c.done.contains u)
  if addrTag c.dst = 1 ∨ addrTag c.dst = 5 then
    (List.range (c.dstsAt 0).length).any (fun i =>
      let at_ := fun (u : Nat) => ((c.dstsAt u)[i]?).bind (localKey l g)
      unitsBlock (us.filterMap at_) (left.filterMap at_) key n)
  else
    let at_ := fun (u : Nat) => vaNorm s (c.dstAt u)
    (c.asid == asid || addrTag c.dst == 2) && unitsBlock (us.map at_) (left.map at_) (vaNorm s a) n

/-! Matrix operands (R254–R259, R268). -/

def MOp.compute (o : MOp) : Bool := decide (o.minor < 6)
def MOp.scaled (o : MOp) : Bool := o.minor == 1 || o.minor == 3
def MOp.gather (o : MOp) : Bool := o.minor == 2 || o.minor == 3
def MOp.slot (o : MOp) : Nat := bits o.slotw 3 0
def MOp.ovw (o : MOp) : Bool := bit o.slotw 4
def MOp.ioff (o : MOp) : Nat := bits o.slotw 31 16

def blkPtr (q : List Word) : DWord := pairOf (q.getD 0 0) (q.getD 1 0)
def blkOp (q : List Word) : Word := q.getD 2 0
def blkScale (q : List Word) : Word := q.getD 3 0
def blkK (q : List Word) : Nat := bits (blkOp q) 24 16 + 1
def blkStride (q : List Word) : Nat := 16 * bits (blkOp q) 11 0
def blkDir (q : List Word) : Bool := bit (blkOp q) 28
def blkSwz (q : List Word) : Bool := bit (blkOp q) 27
def blkConsume (q : List Word) : Bool := bit (blkOp q) 26

/-- cb of R257: the container width. -/
def MOp.cb (o : MOp) (isA : Bool) : Nat :=
  if o.minor = 4 ∨ o.minor = 5 then 16 else (nfOf (if isA then o.nfA else o.nfB)).container

/-- The block size (R256). -/
def MOp.bs (o : MOp) : Nat := if o.scaled && bit (blkScale o.a) 29 then 16 else 32
def MOp.nb (o : MOp) : Nat := cdiv (blkK o.a) o.bs

/-- The offset of element k of line l from P (R257). -/
def elemOff (q : List Word) (cb l k : Nat) : Nat :=
  let row := if blkDir q then k else l
  let pos := if blkDir q then l else k
  let off := pos * cb / 8
  row * blkStride q + 16 * swz (if blkSwz q then 1 else 0) (off / 16) row + off % 16

/-- SST of R257. -/
def MOp.sst (o : MOp) : Nat := 16 * cdiv o.nb 16
/-- The offset of the scale of line l for block b from P. -/
def MOp.scaleOff (o : MOp) (q : List Word) (l b : Nat) : Nat := bits (blkScale q) 19 0 + l * o.sst + b

/-- W of R257. -/
def blkWidth (q : List Word) (cb : Nat) : Nat :=
  let n := if blkDir q then 64 else blkK q
  let w := cdiv (n * cb) 8
  if blkSwz q then 128 * cdiv w 128 else 16 * cdiv w 16
/-- The length of a block's operand extent (R257). -/
def blkExtent (q : List Word) (cb : Nat) : Nat :=
  let rows := if blkDir q then blkK q else 64
  (rows - 1) * blkStride q + blkWidth q cb

/-- The transfer word of MLDC and MSTC (R268). -/
def MOp.xfer (o : MOp) : Word := o.b.getD 0 0
def MOp.eb (o : MOp) : Nat := if bits o.xfer 31 30 = 0 then 4 else 2
def MOp.xferLen (o : MOp) : Nat := 63 * (16 * bits o.xfer 15 0) + 64 * o.eb
/-- Unit u of an MSTC or MLDC, 64 × eb ÷ 16 to a row: its offset from P. -/
def MOp.perRow (o : MOp) : Nat := 4 * o.eb
def MOp.xferOff (o : MOp) (u : Nat) : Nat := (u / o.perRow) * (16 * bits o.xfer 15 0) + 16 * (u % o.perRow)

/-- The offset ranges that an operation holds from a pointer: its operand and scale extents, its index vector, an MLDC
source (R266). -/
def MOp.ranges (l : Launch) (g : Group) (o : MOp) : List (DWord × Nat) :=
  let p := blkPtr o.a
  if o.compute then
    let q := blkPtr o.b
    let aLen := if o.gather then localLen l g p - localOff p else blkExtent o.a (o.cb true)
    [(p, aLen), (q, blkExtent o.b (o.cb false))]
      ++ (if o.scaled then [(p + BitVec.ofNat 64 (bits (blkScale o.a) 19 0), 64 * o.sst),
                            (q + BitVec.ofNat 64 (bits (blkScale o.b) 19 0), 64 * o.sst)] else [])
      ++ (if o.gather then [(p + BitVec.ofNat 64 (16 * o.ioff), 128)] else [])
  else if o.minor = 7 then [(p, o.xferLen)] else []

/-- The gathered line index of A's line i, from index bytes already read. -/
def idxOf (bs : List Byte) (i : Nat) : Nat := ofBytes ((bs.drop (2 * i)).take 2)

/-- The byte at a key, from the lines an operation has read, else from memory. -/
def MOp.byteAt (s : State) (o : MOp) (key : Nat) : Byte :=
  match o.rd.find? (fun x => x.1 == key / 128) with
  | some x => x.2.getD (key % 128) 0
  | none => memByte s.mem key

/-- The line of A that row i of the product uses (R259). -/
def MOp.lineA (s : State) (l : Launch) (g : Group) (o : MOp) (i : Nat) : Nat :=
  if o.gather then
    match localKey l g (blkPtr o.a + BitVec.ofNat 64 (16 * o.ioff)) with
    | some k => (o.byteAt s (k + 2 * i)).toNat + 256 * (o.byteAt s (k + 2 * i + 1)).toNat
    | none => i
  else i

/-- The keys of the bytes of A and B, and of the scales, that step b reads (R261, R263), given the gathered lines. -/
def MOp.stepKeys (s : State) (l : Launch) (g : Group) (o : MOp) (b : Nat) : List Nat :=
  let k0 := b * o.bs
  let ks := (List.range (min (blkK o.a) (k0 + o.bs) - k0)).map (fun x => k0 + x)
  match localKey l g (blkPtr o.a), localKey l g (blkPtr o.b) with
  | some ka, some kb =>
    (List.range 64).flatMap (fun i =>
      let la := o.lineA s l g i
      ks.flatMap (fun k => [ka + elemOff o.a (o.cb true) la k, ka + elemOff o.a (o.cb true) la k + (o.cb true - 1) / 8,
                            kb + elemOff o.b (o.cb false) i k, kb + elemOff o.b (o.cb false) i k + (o.cb false - 1) / 8])
        ++ (if o.scaled then [ka + o.scaleOff o.a la b, kb + o.scaleOff o.b i b] else []))
  | _, _ => []

/-- The keys of the index vector (R259). -/
def MOp.idxKeys (l : Launch) (g : Group) (o : MOp) : List Nat :=
  if o.gather then
    match localKey l g (blkPtr o.a + BitVec.ofNat 64 (16 * o.ioff)) with
    | some k => (List.range 128).map (fun j => k + j)
    | none => []
  else []

/-- Lines without repeats. -/
def linesOf (ks : List Nat) : List Nat := (ks.map (fun k => k / 128)).eraseDups

/-- Every line that an operation reads (R265); a gathered A line is known once the index vector is read. -/
def MOp.readLines (s : State) (l : Launch) (g : Group) (o : MOp) : List Nat :=
  if o.compute then linesOf (o.idxKeys l g ++ (List.range o.nb).flatMap (o.stepKeys s l g))
  else if o.minor = 7 then
    match localKey l g (blkPtr o.a) with
    | some k => linesOf ((List.range (64 * o.perRow)).map (fun u => k + o.xferOff u))
    | none => []
  else []

/-- A range of an operation that is in place covers a line: that of a team which is swapped out is in place in tiles only. -/
def rangeCovers (l : Launch) (g : Group) (r : DWord × Nat) (line : Nat) : Bool := match localKey l g r.1 with
  | some k => (g.resident || addrTag r.1 == 5) && decide (k / 128 ≤ line) && decide (line ≤ (k + r.2 - 1) / 128)
  | none => false

/-- The index vector of an operation is not known yet: a line of it is unread and not FULL. -/
def MOp.blind (s : State) (l : Launch) (g : Group) (o : MOp) : Bool :=
  (linesOf (o.idxKeys l g)).any (fun x => !(o.rd.any (fun y => y.1 == x)) && lineState s (128 * x) != 0)

/-- A line holds operands that the operation has still to read (R266): one that it reads; while its index vector is not known, any line of A. -/
def MOp.needs (s : State) (l : Launch) (g : Group) (o : MOp) (line : Nat) : Bool :=
  let rs := o.ranges l g
  !(o.rd.any (fun x => x.1 == line)) && rs.any (fun r => rangeCovers l g r line)
    && ((o.readLines s l g).contains line || (o.blind s l g && (rs.take 1).any (fun r => rangeCovers l g r line)))

/-- A write to a FULL line that the operation has still to read waits (R266). -/
def MOp.holds (s : State) (l : Launch) (g : Group) (o : MOp) (key : Nat) : Bool := lineState s key == 0 && o.needs s l g (key / 128)

/-- The MSTC destination is held as a copy's is (R269). -/
def MOp.blocks (s : State) (l : Launch) (g : Group) (o : MOp) (asid : Nat) (a : DWord) (key n : Nat) : Bool :=
  o.minor == 8 && (g.resident || addrTag (blkPtr o.a) != 1) &&
  let us := List.range (64 * o.perRow)
  let left := us.filter (fun u => !o.units.contains u)
  match localKey l g (blkPtr o.a) with
  | some k => unitsBlock (us.map (fun u => k + o.xferOff u)) (left.map (fun u => k + o.xferOff u)) key n
  | none =>
    let at_ := fun (u : Nat) => vaNorm s (blkPtr o.a + BitVec.ofNat 64 (o.xferOff u))
    l.asid == asid && unitsBlock (us.map at_) (left.map at_) (vaNorm s a) n

/-- The launch and group of a thread. -/
def State.ofThread (s : State) (t : Tid) : Option (Launch × Group) :=
  match s.group? t.gid with
  | some g => (s.launch? g.launch).map (fun l => (l, g))
  | none => none

/-- The matrix operations that hold lines, with their cores: those on an engine, and those saved with their team (R264). -/
def heldOps (s : State) : List (Nat × MOp) :=
  s.engines.flatMap (fun e => e.queue.map (fun o => (e.core, o))) ++ s.savedEng.flatMap (fun x => x.ops.filterMap (fun o =>
    (s.group? o.gid).map (fun g => (g.core, o))))

/-- The scoreboards hold a write of a thread (R233, R266): `id` is its number, so that a thread's own earlier writes
pass. A thread's writes meet the copies and MSTCs of its own core, and the matrix operands of its cluster. -/
def scoreHeld (s : State) (t : Tid) (asid core id : Nat) (a : DWord) (key n : Nat) : Bool :=
  (s.copies.any (fun c => c.core == core && !(c.t == t && decide (id < c.id)) &&
    match s.ofThread c.t with
    | some (l, g) => c.blocks s l { g with core := c.core } asid a key n
    | none => false)) ||
  ((heldOps s).any (fun x => coreCluster x.1 == coreCluster core && !(x.2.t == t && decide (id < x.2.id)) &&
    match s.ofThread x.2.t with
    | some (l, g) => x.2.holds s l g key || (x.1 == core && x.2.blocks s l g asid a key n)
    | none => false))

end Sys2Proof.Machine
end

