-- ==== Sys2Proof/Machine/Wire.lean ====
section
/-! DEFINITION. Wire.lean: a packet as it crosses a port (R375, R393, R409): the 16-byte envelope, the body, the flits and their CRC-32C. The
spec lays out no body of kinds 8, 9 and 10 (assumption log 7): those are the model's. -/
namespace Sys2Proof.Machine

/-! Bodies. -/

/-- The body of a GANG control packet, in the model's layout. -/
def gangBytes (m : GangMsg) : List Byte :=
  bytesOf 1 m.what ++ bytesOf 1 m.gang.die ++ bytesOf 2 m.gang.pkg ++ bytesOf 4 m.gang.id ++ bytesOf 8 m.header.toNat ++ bytesOf 8 m.argp.toNat
    ++ bytesOf 4 m.teams ++ bytesOf 2 m.members.length ++ bytesOf 2 m.rank ++ bytesOf 2 m.key ++ bytesOf 1 m.code ++ bytesOf 1 0
    ++ bytesOf 4 m.leak ++ bytesOf 8 m.cycle ++ m.members.flatMap (bytesOf 2)

/-- The body of a BARRIER packet, in the model's layout. -/
def barBytes (m : BarMsg) : List Byte :=
  bytesOf 1 (if m.release then 1 else 0) ++ bytesOf 1 m.gang.die ++ bytesOf 2 m.gang.pkg ++ bytesOf 4 m.gang.id ++ bytesOf 4 m.level
    ++ bytesOf 8 m.set ++ bytesOf 8 m.phase

/-- The 128-byte header of a COLLECTIVE body (R409). -/
def collBytes (h : CollHdr) : List Byte :=
  bytesOf 2 h.group ++ bytesOf 1 h.route.length ++ bytesOf 1 (h.rop + 16 * h.rtype) ++ bytesOf 4 h.cseq ++ bytesOf 4 h.offset ++ bytesOf 4 h.sig
    ++ bytesOf 4 h.len ++ bytesOf 1 h.kind ++ bytesOf 1 0 ++ bytesOf 2 h.key ++ bytesOf 8 0
    ++ (List.range 48).flatMap (fun i => bytesOf 2 (h.route.getD i 0))

/-- The bytes of a body (R393, R409). -/
def bodyBytes : Body → List Byte
  | .req addr key sub flags tag data => bytesOf 8 addr.toNat ++ bytesOf 2 key ++ bytesOf 1 sub ++ bytesOf 1 flags ++ bytesOf 4 tag ++ data
  | .reply status reason tag data => bytesOf 4 tag ++ bytesOf 1 status ++ bytesOf 1 reason ++ bytesOf 10 0 ++ data
  | .coll h data => collBytes h ++ data
  | .collAbort group cseq key code => bytesOf 2 group ++ bytesOf 2 key ++ bytesOf 4 cseq ++ bytesOf 1 code ++ bytesOf 7 0
  | .gang m => gangBytes m
  | .bar m => barBytes m
  | .reserved => []

/-- The length of a body in 16-byte units: at most 256 (R375). -/
def bodyUnits (k : Packet) : Nat := cdiv (bodyBytes k.body).length 16

/-! The envelope and the flits (R375). -/

def envelope (k : Packet) : List Byte :=
  bytesOf 2 (k.src % 2 ^ 10) ++ bytesOf 2 (k.hop % 2 ^ 10)
    ++ bytesOf 2 (k.dst % 2 ^ 10 + k.die % 4 * 2 ^ 10 + (if k.transit then 2 ^ 12 else 0) + k.cls % 8 * 2 ^ 13)
    ++ bytesOf 2 (bodyUnits k) ++ bytesOf 4 k.gen ++ bytesOf 3 k.seq ++ bytesOf 1 (k.kind % 16)

/-- One bit of CRC-32C on a remainder, and `n` of them. -/
def crcBits : Nat → Nat → Nat
  | 0, c => c
  | n + 1, c => crcBits n (if c % 2 = 1 then (c / 2) ^^^ 0x82F63B78 else c / 2)

/-- CRC-32C of a run of bytes. The spec names the code; its polynomial, bit order, initial value and final complement are those by which the code is
known (PRESUMED, assumption log 30). -/
def crc32c (bs : List Byte) : Word :=
  BitVec.ofNat 32 (bs.foldl (fun c b => crcBits 8 (c ^^^ b.toNat)) 0xFFFFFFFF ^^^ 0xFFFFFFFF)

/-- The envelope and the body, padded to whole units of 16 bytes. -/
def content (k : Packet) : List Byte :=
  let b := bodyBytes k.body
  envelope k ++ b ++ List.replicate (16 * bodyUnits k - b.length) 0

/-- The CRC of a packet: over the envelope and body. -/
def packetCrc (k : Packet) : Word := crc32c (content k)

/-- Bytes that a packet takes on a port: whole flits of 64 bytes, the last 4 bytes the CRC. -/
def pktBytes (k : Packet) : Nat := 64 * cdiv (16 + 16 * bodyUnits k + 4) 64

/-- The flits of a packet. -/
def flits (k : Packet) : List Byte :=
  let c := content k
  c ++ List.replicate (pktBytes k - 4 - c.length) 0 ++ bytesOf 4 (packetCrc k).toNat

end Sys2Proof.Machine

/-- The CRC of a packet that has come holds (R376). -/
def Sys2Proof.Rx.crcOk (rx : Sys2Proof.Rx) : Bool := rx.crc == Sys2Proof.Machine.packetCrc rx.pkt
end

