-- ==== Sys2Proof/Machine/Access.lean ====
section
/-! DEFINITION. Access.lean: an access of a thread from its issue to its end: the checks made at issue (R161, R205), the
owner's acceptance (R176, R277, R394), the packet to another package (R392), what lets it be bound or performed (R182,
R189–R195, R233, R266), and what it then does (R168, R171, R211, R365). Translation is done at issue (assumption log
10). -/
namespace Sys2Proof.Machine

/-! Packets to other packages (R375, R380, R392). -/

/-- The next hop sequence number toward a package (R376), and the table after it is taken. -/
def takeSeq (l : List HopSeq) (pkg cls : Nat) (bc : Bool) : Nat × List HopSeq :=
  let is := fun (h : HopSeq) => h.pkg == pkg && h.cls == cls && h.bc == bc
  match l.find? is with
  | some h => (h.n, l.map (fun x => if is x then { x with n := (x.n + 1) % 2 ^ 24 } else x))
  | none => (0, { pkg := pkg, cls := cls, bc := bc, n := 1 } :: l)

/-- A port is joined to a package in this slot by a verified preamble and may send (R374, R381, R390). -/
def sendPort (s : State) (q : Nat) : Option Nat :=
  if s.net.inData && s.net.aligned then
    (s.net.ports.zipIdx.find? (fun p => p.1.verified == some q && p.1.st == .active)).map (fun p => p.2)
  else none

/-- What a list of counts holds for a package, and the list with more added to it. -/
def countOf (l : List (Nat × Nat)) (pkg : Nat) : Nat := ((l.find? (fun x => x.1 == pkg)).map (fun x => x.2)).getD 0
def addCount (l : List (Nat × Nat)) (pkg n : Nat) : List (Nat × Nat) := (pkg, countOf l pkg + n) :: l.filter (fun x => x.1 != pkg)

/-- A packet on its way to the package that it travels by: it needs room in that package's transit partition (R382). -/
def OutPkt.inTransit (o : OutPkt) : Bool := o.pkt.transit && o.pkt.hop != o.pkt.dst && o.pkt.hop != o.pkt.src

/-- A port may start a packet: its last flit ends within the transmit interval (R373). -/
def fits (n : Net) (port : Nat) (o : OutPkt) : Bool := match n.ports[port]? with
  | some p => decide (pktBytes o.pkt ≤ p.left)
  | none => false

/-- The number of a die of a package, which has a transit partition of its own (R382). -/
def dieOf (pkg die : Nat) : Nat := 4 * pkg + die

/-- The die of the next package at which a port is joined to it in this slot. -/
def joinedDie (n : Net) (port pkg : Nat) : Nat := dieOf pkg (((n.ports[port]?).map (fun p => p.peerDie)).getD 0)

/-- The die of the next package that the port is joined to has granted room for a packet in transit, or it was sent before (R382). -/
def granted (n : Net) (port : Nat) (o : OutPkt) : Bool :=
  let d := joinedDie n port o.pkt.hop
  !o.inTransit || decide (0 < o.sent) || decide (countOf n.used d + pktBytes o.pkt ≤ countOf n.credit d)

/-- Send a packet on a port: its first sending gives it its number (R376) and uses the room granted for it (R382). -/
def sendOut (n : Net) (port : Nat) (o : OutPkt) : Net × OutPkt :=
  let ports := n.ports.modify port (fun p => { p with left := p.left - pktBytes o.pkt })
  if o.sent = 0 then
    let t := takeSeq n.tx o.pkt.hop o.pkt.cls false
    ({ n with tx := t.2, ports := ports, used := if o.inTransit then addCount n.used (joinedDie n port o.pkt.hop) (pktBytes o.pkt) else n.used },
     { o with pkt := { o.pkt with seq := t.1 }, sent := 1, port := some port, fly := true, ports := [port] })
  else ({ n with ports := ports.modify port (fun p => { p with resent := min (p.resent + 1) (2 ^ 32 - 1) }) },
        { o with sent := o.sent + 1, port := some port, fly := true, ports := port :: o.ports.erase port })

/-- Put a new packet into the queues, sent if it may leave at once. -/
def sendNew (s : State) (port : Option Nat) (o : OutPkt) : State :=
  match port with
  | some p =>
    if fits s.net p o && granted s.net p o then
      let r := sendOut s.net p o
      { s with net := { r.1 with out := r.1.out ++ [r.2] } }
    else { s with net := { s.net with out := s.net.out ++ [o] } }
  | none => { s with net := { s.net with out := s.net.out ++ [o] } }

/-- A packet waits in a queue for a hop destination, and so goes before a new one (R376, R381). -/
def queuedFor (s : State) (q : Nat) : Bool := s.net.out.any (fun o => o.pkt.hop == q && o.bcast.isNone && !o.fly && !o.relayed)

/-- Replies and end-to-end acknowledgements, for which the last eighth of a VOQ region is kept (R380, R392). -/
def isReply (k : Packet) : Bool := k.kind == 1 || k.kind == 4 || k.kind == 6

/-- The request part of a die's VOQ region has room for one more packet, of any size (R380). -/
def voqRoom (s : State) (die : Nat) : Bool :=
  decide (((s.net.out.filter (fun o => o.die == die && !isReply o.pkt)).map (fun o => pktBytes o.pkt)).sum + 4160 ≤ s.ctl.config.voq / 8 * 7)

/-- A packet of a scheduler or of the collective engine waits for room in the request part of its die's VOQ region before it is formed (R380), behind
those of the die that wait already. -/
def enqueueLate (s : State) (id die : Nat) (launch : Option LRef) (hop ddie kind : Nat) (body : Body) : State :=
  let pkt : Packet := { src := s.pkgId.toNat, hop := hop, dst := hop, die := ddie, transit := false, cls := 0, gen := 0, seq := 0, kind := kind,
                        body := body }
  let o : OutPkt := { id := id, die := die, launch := launch, pkt := pkt, bcast := none, sent := 0, port := none,
                      fly := false, relayed := false, foreign := false, origin := 0 }
  { s with net := { s.net with late := s.net.late ++ [o] } }

/-- The packets that wait for room and find it are formed, those of a die in their order (R380); one for a package that is no longer reachable is dropped. -/
def formLate (s : State) : State :=
  let todo := s.net.late
  todo.foldl (fun s o =>
    if s.net.late.any (fun x => x.die == o.die) || !voqRoom s o.die then { s with net := { s.net with late := s.net.late ++ [o] } }
    else if reachable s o.pkt.hop = false then s
    else
      let x := { o with pkt := { o.pkt with gen := (calGen s).toNat } }
      sendNew s (if queuedFor s o.pkt.hop then none else sendPort s o.pkt.hop) x) { s with net := { s.net with late := [] } }

/-- Form a packet and put it in the queue of its die (R380); it leaves at once if its window is open and nothing waits before it. -/
def enqueue (s : State) (id die : Nat) (launch : Option LRef) (hop dst ddie cls kind : Nat) (transit : Bool)
    (body : Body) : State :=
  let pkt : Packet := { src := s.pkgId.toNat, hop := hop, dst := dst, die := ddie, transit := transit, cls := cls,
                        gen := (calGen s).toNat, seq := 0, kind := kind, body := body }
  let o : OutPkt := { id := id, die := die, launch := launch, pkt := pkt, bcast := none, sent := 0, port := none,
                      fly := false, relayed := false, foreign := false, origin := 0 }
  sendNew s (if queuedFor s hop then none else sendPort s hop) o

/-! Checks at issue. -/

def remotePeer (s : State) (a : DWord) : Bool := addrTag a == 4 && addrPkg a != s.pkgId.toNat

/-- The checks of R205 from step 3's capability on, in order: capability (R132), check 1, alignment, checks 2 and 3 of
R161, the host windows of R162. -/
def accessCheck (s : State) (c : Ctx) (a : DWord) (n kind : Nat) : Option TrapRec :=
  let trap := fun cause detail => some (trapAt c.th.pc cause a detail kind)
  if addrTag a = 4 ∧ c.l.has 9 = false then some (trapAt c.th.pc illegalOperand 0 0 kind)
  else if tagOk a = false then trap addressSpace 0
  else if a.toNat % n ≠ 0 then trap misaligned 0
  else if addrTag a = 4 ∧ reachable s (addrPkg a) = false then trap remoteUnreachable 0
  else if (addrTag a = 1 ∨ addrTag a = 5) ∧ localLen c.l c.g a < localOff a + n then trap scratchRange 0
  else if addrTag a = 2 ∧ hostGranted s c.l.asid (bits a 47 0) n = false then trap protection 5
  else none

/-- What the owner answers to a request (R161, checks 4–6): where it goes, a refusal, or nothing yet. -/
inductive Adm where
  | ok (l : Loc)
  | deny (cause detail : Nat)
  | away
deriving DecidableEq, Repr

/-- Translation of a tag 0x0 address, or of a tag 0x4 address that names this package, at its owner. -/
def admitHbm (s : State) (asid : Nat) (a : DWord) (p : Perm) : Adm :=
  match translate s (addrDie a) asid (addrOff a) p with
  | .ok (lvl, e) => .ok (.phys (addrDie a) (physOf lvl e (addrOff a)) (leafKind e))
  | .error d => .deny d.cause d.detail

def admitAt (s : State) (l : Launch) (core : Nat) (a : DWord) (p : Perm) : Adm :=
  match addrTag a with
  | 0 => admitHbm s l.asid a p
  | 1 => .ok .scratch
  | 2 => .ok .host
  | 5 => if tileFresh s l core (addrHandle a) then .ok .tile else .deny tileStale 0
  | _ =>
    if addrPkg a = s.pkgId.toNat then
      match keyAsid s l.podKey with
      | some asid => admitHbm s asid a p
      | none => .deny protection 6
    else .away

/-- Count the uncorrectable error that translation met, where it met one (R442). -/
def countAdmit (s : State) (l : Launch) (a : DWord) : State :=
  match addrTag a, keyAsid s l.podKey with
  | 0, _ => countWalk s (addrDie a) l.asid (addrOff a)
  | 4, some asid => if addrPkg a = s.pkgId.toNat then countWalk s (addrDie a) asid (addrOff a) else s
  | _, _ => s

/-- The memory key that an accepted access reaches. -/
def Pend.key (l : Launch) (g : Group) (p : Pend) : Option Nat :=
  match p.loc with
  | some (.phys die pa _) => some (hbmKey die pa)
  | some .host => some (hostKey (bits p.addr 47 0))
  | some .scratch => localKey l g p.addr
  | some .tile => localKey l g p.addr
  | _ => none

/-- The bytes of a size code (R43). -/
def sizeBytes (size : Nat) : Nat := match size with
  | 0 => 1
  | 1 => 1
  | 2 => 2
  | 3 => 2
  | 4 => 4
  | 5 => 8
  | _ => 16

/-- The bytes an entry covers. -/
def POp.size : POp → Nat
  | .load n _ _ => sizeBytes n
  | .store d _ => d.length
  | .atomic m _ _ _ => if m = 12 ∨ m = 13 ∨ m = 14 then 8 else 4
  | .lineSet _ n => 128 * n
  | .tcwait _ => 4
  | .taskPost => 64
  | .taskSucc => 16
  | _ => 0

/-- The entry is an acquire that orders what follows it in its segment (R190): the acquire accesses, and the waits for what an engine signals
(R200). CPYW orders only what issues after its horizon (R249). -/
def POp.isAcq : POp → Bool
  | .load _ acq _ => acq
  | .atomic _ _ acq _ => acq
  | .tcwait _ => true
  | .tknext .. => true
  | .lwait _ => true
  | .aqwait _ => true
  | _ => false

/-- The entry waits for a unit or for other threads, and a halt, a save or a swap keeps it (R348, R353, R356; a rendezvous of R148 among them:
assumption log 17). -/
def POp.waits : POp → Bool
  | .rendez .. => true
  | .talloc .. => true
  | .tknext .. => true
  | .macq => true
  | .lwait _ => true
  | .aqwait _ => true
  | .cpyw _ => true
  | _ => false

def POp.isRel : POp → Bool
  | .store _ rel => rel
  | .atomic _ _ _ rel => rel
  | .taskPost => true
  | .taskSucc => true
  | _ => false

/-- An access to memory, as R189 counts them. -/
def POp.isAccess : POp → Bool
  | .load .. => true
  | .store .. => true
  | .atomic .. => true
  | .lineSet .. => true
  | _ => false

/-- The access writes. -/
def POp.isWrite : POp → Bool
  | .store .. => true
  | .atomic .. => true
  | .lineSet .. => true
  | _ => false

/-- The entry delivers a register, so that its horizon waits for it (R32, R33); TCSET and TCADD, atomics that only
release, do not (R245). -/
def POp.delivers : POp → Bool
  | .result => true
  | .load .. => true
  | .atomic _ _ acq rel => acq || !rel
  | .rendez .. => true
  | .talloc .. => true
  | .tknext .. => true
  | .macq => true
  | .lwait _ => true
  | .aqwait _ => true
  | .cpyw _ => true
  | _ => false

/-- The owner's answer to the entry is part of its performance, so that its horizon waits for it too: TREL, TDROP
(R282), TKPOST and TKSUCC (R288–R290). -/
def POp.late : POp → Bool
  | .tileCount .. => true
  | .taskPost => true
  | .taskSucc => true
  | _ => false

/-- The value is bound or the write performed; only delivery remains. -/
def Pend.bound (p : Pend) : Bool := match p.st with
  | .ready _ => true
  | _ => false

/-- An access to a UO page (R195). The KIND of a peer page is its owner's, so that it is a free value here; a refused access counts as none, and
a release waits for it. -/
def Pend.isUO (p : Pend) : Bool := match p.loc, p.st with
  | some (.phys _ _ k), _ => k == 2
  | none, .remote _ => Config.peerKind p.id == 2
  | _, _ => false

/-- An access to an SO page (R195): so is one whose page is not there yet, and, as a free value, one whose page is another package's. -/
def Pend.isSO (p : Pend) : Bool := match p.loc with
  | some (.phys _ _ k) => k == 0
  | some _ => false
  | none => p.op.isAccess && (addrTag p.addr == 0 || (addrTag p.addr == 4 && Config.peerKind p.id == 0))

/-- The scope of an access (R188). -/
def targetScope (a : DWord) : Nat := match addrTag a with
  | 0 => 4
  | 2 => 6
  | 4 => 5
  | _ => 2

/-- An earlier access is covered at a scope (R189), as acquire and release accesses and fences below SC count them: not
the UO ones (R195). So is the wait for what a unit signals, an acquire behind which the release stands in program order (R190, R192, R200). -/
def Pend.covered (p : Pend) (scope : Nat) (uo : Bool) : Bool :=
  if p.op.isAccess then
    (uo || !p.isUO) && match addrTag p.addr with
    | 4 => decide (5 ≤ scope)
    | 2 => scope == 6
    | _ => true
  else p.op.isAcq

/-- Where the bytes of an entry start, from the place or address it names: a change of line states starts with the line. -/
def POp.start (o : POp) (a : Nat) : Nat := match o with
  | .lineSet .. => a / 128 * 128
  | _ => a

/-- Two accesses of one thread touch a common byte: by place where both are accepted here, else by address. -/
def overlap (l : Launch) (g : Group) (p q : Pend) : Bool :=
  let meet := fun (a b : Nat) => decide (p.op.start a < q.op.start b + q.op.size) && decide (q.op.start b < p.op.start a + p.op.size)
  match p.key l g, q.key l g with
  | some a, some b => meet a b
  | _, _ => meet p.addr.toNat q.addr.toNat

/-- The scope at which an entry is a release. -/
def Pend.relScope (p : Pend) : Nat := match p.op with
  | .taskPost => 4
  | .taskSucc => 4
  | _ => targetScope p.addr

/-- The entries of a thread before number `id` that have not taken effect: the outstanding ones, and the refused ones that are to be
performed again (R35, R202). Those that wait in TS (R333) count for what was issued before the handler was entered. -/
def Thread.earlier (th : Thread) (id : Nat) : List Pend :=
  let kept := th.refused ++ (th.wait.map (fun w => w.rest)).getD [] ++ (if id < th.ts.upto then th.ts.refused else [])
  th.infl.filter (fun q => decide (q.id < id) && !q.bound) ++ (kept.map (fun x => x.p)).filter (fun q => decide (q.id < id))

/-- Every generation in which the thread sent a peer store before number `id` is closed, where the scope asks for it (R189). -/
def gensClosed (s : State) (th : Thread) (id scope : Nat) : Bool :=
  decide (scope < 5) || th.stamps.all (fun x => decide (id ≤ x.1) || genClosed s x.2)

/-- Every access of a thread before number `id` that a release of a scope covers is bound or performed; at pod scope
also acknowledged, with its generation closed (R189). -/
def releaseReady (s : State) (th : Thread) (id scope : Nat) (uo : Bool) : Bool :=
  (th.earlier id).all (fun q => !q.covered scope uo) && gensClosed s th id scope

/-- A thread still keeps the entry of a number. -/
def Thread.keeps (th : Thread) (id : Nat) : Bool :=
  th.infl.any (fun q => q.id == id) || (th.refused ++ (th.wait.map (fun w => w.rest)).getD [] ++ th.ts.refused).any (fun x => x.p.id == id)

/-- The failed peer stores before number `id` that a release of a scope reports (R443): those that no other release which is still kept reports. -/
def unreported (th : Thread) (id scope : Nat) : List FailedStore :=
  if 5 ≤ scope then th.failed.filter (fun f => decide (f.id < id) && !f.by_.any (fun r => r != id && th.keeps r)) else []

/-- An earlier entry of the thread, not yet bound or performed, holds back a later one: common bytes (R31, R182), an acquire (R190, R200), the SO
rule (R195), a release that covers it (R189). A change of line states waits for the writes to its lines only (R217). -/
def holdsBack (l : Launch) (g : Group) (p q : Pend) : Bool :=
  match p.op with
  | .lineSet .. => q.op.isWrite && overlap l g p q
  | _ => (q.op.isAccess && (overlap l g p q || (p.isSO && q.isSO))) || (q.op.isAcq && !p.isUO)
      || (p.op.isRel && q.covered p.relScope false)

/-- The order of the thread's own accesses lets an entry go (R182, R189, R190, R195). -/
def orderOk (s : State) (l : Launch) (g : Group) (th : Thread) (p : Pend) : Bool :=
  (th.earlier p.id).all (fun q => !holdsBack l g p q) && (!p.op.isRel || gensClosed s th p.id p.relScope)

/-- What an entry of another unit waits for among the earlier entries of its thread: a TKNEXT that completes a task for every access (R295), a tile
count for the accesses and the counts of its tile (R279, R282), the wait for an engine for what its commands must find done (R199). -/
def waitsFor (l : Launch) (g : Group) (p q : Pend) : Bool :=
  match p.op with
  | .tknext .. => g.task.isSome && (q.covered 4 true || q.op.late)
  | .tileCount .. => addrTag q.addr == 5 && addrHandle q.addr == addrHandle p.addr && (q.op.isAccess || match q.op with
    | .tileCount .. => true
    | _ => false)
  | .cpyw _ => q.op.isWrite || q.op.isAcq
  | .aqwait _ => q.op.isWrite || q.op.isAcq
  | op => (op.isAccess || op.isRel) && holdsBack l g p q

/-- The outstanding entries that wait, directly or through others, for a refused access of their thread (R202). They cannot be answered before it
is performed again, so no horizon waits for them (assumption log 13). -/
def Thread.stuck (l : Launch) (g : Group) (th : Thread) : List Pend :=
  th.infl.foldl (fun acc p =>
    if !p.bound && (th.refused.map (fun x => x.p) ++ acc).any (fun q => decide (q.id < p.id) && waitsFor l g p q) then acc ++ [p] else acc) []

/-- An accepted store of some thread that is still on its way to memory of this package: its key and bytes. -/
def Pend.heldStore (q : Pend) : Option (Nat × Nat × List Byte) := match q.op, q.loc with
  | .store d _, some (.phys die pa k) => if q.bound || addrTag q.addr != 0 then none else some (hbmKey die pa, k, d)
  | _, _ => none

/-- The threads of the groups on a core or a die, with the entries that no refused access holds back. -/
def heldStores (s : State) (on : Group → Bool) : List (Group × Pend) :=
  (s.groups.filter on).flatMap (fun h => match s.launch? h.launch with
    | some l => h.threads.flatMap (fun th => (th.infl.filter (fun q => q.heldStore.isSome && !(th.stuck l h).contains q)).map (fun q => (h, q)))
    | none => [])

/-- The core of a load holds an earlier store to bytes of it (R171). -/
def coreHolds (s : State) (g : Group) (p : Pend) (key : Nat) : Bool :=
  (heldStores s (fun h => h.core == g.core)).any (fun x => decide (x.2.id < p.id) && match x.2.heldStore with
    | some (k, _, d) => decide (k < key + p.op.size) && decide (key < k + d.length)
    | none => false)

/-- The write-combining buffer of the load's die holds bytes of its line (R365). -/
def dieHolds (s : State) (g : Group) (p : Pend) (key : Nat) : Bool :=
  (heldStores s (fun h => h.die == g.die)).any (fun x => decide (x.2.id < p.id) && match x.2.heldStore with
    | some (k, kind, _) => kind != 0 && k / 2 ^ 37 != g.die && k / 128 == key / 128
    | none => false)

/-- A store is held before the load in its bytes (R171), or in its line by the die's buffer (R365). -/
def heldAhead (s : State) (g : Group) (p : Pend) (key : Nat) : Bool := coreHolds s g p key || dieHolds s g p key

/-! Binding a load (R168, R171, R364). -/

/-- What a try to bind or perform an entry comes to: not yet, done with values, or refused after acceptance. -/
inductive Act where
  | wait
  | done (s : State) (vals : List Word)
  | refuse (s : State) (cause detail : Nat)

/-- The registers a load delivers (R43, R207): a narrow one extended by its size code. -/
def loadWords (size : Nat) (bs : List Byte) : List Word :=
  match size with
  | 0 => [BitVec.ofNat 32 (ofBytes bs)]
  | 1 => [BitVec.ofInt 32 (sextN 8 (ofBytes bs))]
  | 2 => [BitVec.ofNat 32 (ofBytes bs)]
  | 3 => [BitVec.ofInt 32 (sextN 16 (ofBytes bs))]
  | 4 => wordsOf 1 (ofBytes bs)
  | 5 => wordsOf 2 (ofBytes bs)
  | _ => wordsOf 4 (ofBytes bs)

/-- Read `n` bytes of HBM at its point of coherence, or find an uncorrectable error (R442). -/
def pocRead (s : State) (key n : Nat) : Except State (List Byte) :=
  if poisoned s key n then .error (countErr s key) else .ok (memRead s.mem n key)

/-- The lines a core's L1 and a die's RDC hold at most: 128 KiB and 32 MiB (R170). -/
def l1Lines : Nat := 1024
def rdcLines : Nat := 262144

/-- Fill the L1 of a core, and the RDC of its die where the line's home is another die, with a line as its point of coherence has it (R170, R171,
R364). A line with an uncorrectable error fills nothing. -/
def fillCopies (s : State) (g : Group) (asid : Nat) (a : DWord) (kind key : Nat) : State :=
  let k0 := key - a.toNat % 128
  if poisoned s k0 128 then dropNames s g.core key none
  else
    let cp : Copy := { holder := g.core, asid := asid, line := a.toNat / 128, kind := kind, place := key / 128, data := memRead s.mem 128 k0 }
    let s1 := dropNames s g.core key none
    { s1 with l1 := putCopyIn l1Lines s1.l1 cp, rdc := if addrDie a = g.die then s1.rdc else putCopyIn rdcLines s1.rdc { cp with holder := g.die } }

/-- A plain load of an RC or UO page through the L1 of its core and the RDC of its die (R170, R171, R364): a copy that
stands is used; a miss is served by the owner and fills. With `past` it takes no copy of the L1: its core holds a store to its bytes (R171). -/
def cachedRead (s : State) (g : Group) (past : Bool) (asid : Nat) (a : DWord) (kind key n : Nat) : Except State (State × List Byte) :=
  let line := a.toNat / 128
  let off := a.toNat % 128
  match (if past then none else findCopy s.l1 g.core asid line) with
  | some c => .ok (s, (c.data.drop off).take n)
  | none =>
    match (if addrDie a = g.die then none else findCopy s.rdc g.die asid line) with
    | some c =>
      let s1 := dropNames s g.core key (some (asid, line))
      .ok ({ s1 with l1 := putCopyIn l1Lines s1.l1 { c with holder := g.core } }, (c.data.drop off).take n)
    | none =>
      match pocRead s key n with
      | .error s' => .error s'
      | .ok bs => .ok (fillCopies s g asid a kind key, bs)

/-- A version's byte at a key, if it wrote one (R297). -/
def Task.byte? (t : Task) (key : Nat) : Option Byte := (t.writes.find? (fun w => w.1 == key)).map (fun w => w.2)

/-- A load of a versioned task homed on its die (R297): the version's bytes over those of the point of coherence; its
line joins the read set. -/
def versionedRead (s : State) (g : Group) (tk : Task) (key n : Nat) : State × List Byte :=
  (s.modGroup g.gid (fun g => { g with task := some { tk with reads := (key / 128) :: tk.reads.erase (key / 128) } }),
   (List.range n).map (fun i => (tk.byte? (key + i)).getD (memByte s.mem (key + i))))

/-- Take one consuming read of the tile that a handle named (R279): at 0 it is spent (R278). -/
def consumeTile (s : State) (core slot n : Nat) : State :=
  let dec := fun (t : Tile) => if t.core = core ∧ t.slot = slot then
      { t with count := t.count - n, spent := t.spent || decide (t.count ≤ n) } else t
  { s with tiles := s.tiles.map dec }

/-- The version that an access to its own die's memory goes through (R297): its word was issued in the task, which is versioned (R296). -/
def versionedAt (g : Group) (p : Pend) (die : Nat) : Option Task :=
  match g.task with
  | some tk => if tk.versioned ∧ p.ver ∧ addrTag p.addr = 0 ∧ die = g.die then some tk else none
  | none => none

/-- Bind a load whose order allows it. -/
def bindLoad (s : State) (l : Launch) (g : Group) (p : Pend) (size : Nat) (acq consume : Bool) (key : Nat) : Act :=
  let n := sizeBytes size
  let acqd := fun (s : State) => if acq then acquireCopies s g.core false else s
  match p.loc with
  | some (.phys die _ kind) =>
    if heldAhead s g p key then .wait
    else
      match versionedAt g p die with
      | some tk =>
        if poisoned s key n then .refuse (countErr s key) dataError 0
        else
          let r := versionedRead s g tk key n
          .done (acqd (dropNames r.1 g.core key none)) (loadWords size r.2)
      | none =>
        if acq ∨ kind = 0 ∨ addrTag p.addr = 4 then
          match pocRead s key n with
          | .error s' => .refuse s' dataError 0
          | .ok bs =>
            .done (if kind = 0 ∨ addrTag p.addr = 4 then dropNames (acqd s) g.core key none else fillCopies (acqd s) g l.asid p.addr kind key)
              (loadWords size bs)
        else
          match cachedRead s g p.bypass l.asid p.addr kind key n with
          | .error s' => .refuse s' dataError 0
          | .ok (s', bs) => .done s' (loadWords size bs)
  | some .host =>
    if poisoned s key n then .refuse s dataError 0
    else .done (acqd s) (loadWords size (memRead s.mem n key))
  | some _ =>
    if lineState s key = 1 then .wait
    else if lineState s key = 2 then .refuse s copyFault 0
    else
      let h := addrHandle p.addr
      let s1 := if consume then consumeTile s (hCore g.core h) (hSlot h) 1 else s
      .done (acqd s1) (loadWords size (memRead s.mem n key))
  | none => .wait

/-! Performing a write. -/

/-- The value an atomic writes over x, if it writes (R210, R211). -/
def atomicNew (minor : Nat) (x : Nat) (ops : List Word) : Option Nat :=
  let b := ops.getD 0 0
  let w : Word := BitVec.ofNat 32 x
  let b64 := ofWords (ops.take 2)
  match minor with
  | 0 => some (w + b).toNat
  | 1 => some b.toNat
  | 2 => if w = b then some (ops.getD 1 0).toNat else none
  | 3 => some (if b.toInt < w.toInt then b else w).toNat
  | 4 => some (if w.toInt < b.toInt then b else w).toNat
  | 5 => some (min w.toNat b.toNat)
  | 6 => some (max w.toNat b.toNat)
  | 7 => some (w &&& b).toNat
  | 8 => some (w ||| b).toNat
  | 9 => some (w ^^^ b).toNat
  | 10 => some (if b.toNat ≤ w.toNat then 0 else (w.toNat + 1) % 2 ^ 32)
  | 11 => some (fpAdd w b).toNat
  | 12 => some ((x + b64) % 2 ^ 64)
  | 13 => if x = b64 then some (ofWords (ops.drop 2)) else none
  | 14 => some b64
  | 15 => some (fpMax w b).toNat
  | _ => none

/-- An atomic's access at its point of coherence: the old value and the state after. -/
def atomicAt (s : State) (byGid : Option Nat) (minor key n : Nat) (ops : List Word) : State × Nat :=
  let x := readNat s key n
  match atomicNew minor x ops with
  | some y => (pocWrite s byGid key (bytesOf n y), x)
  | none => (s, x)

/-- Lines in which a version holds bytes. -/
def versionLines (w : List (Nat × Byte)) : List Nat := linesOf (w.map (fun x => x.1))

/-- Put bytes into a version (R297). -/
def versionPut (w : List (Nat × Byte)) : Nat → List Byte → List (Nat × Byte)
  | _, [] => w
  | k, b :: bs => versionPut ((k, b) :: w.filter (fun x => x.1 != k)) (k + 1) bs

/-- The version lines that a die holds (R298). -/
def dieVersionLines (s : State) (die : Nat) : Nat :=
  ((s.groups.filter (fun g => g.die == die)).map (fun g => match g.task with
    | some tk => (versionLines tk.writes).length
    | none => 0)).sum

/-- Perform a store at its place: in its version, or at its point of coherence, with the copies that take it in (R171,
R364). -/
def performStore (s : State) (l : Launch) (g : Group) (p : Pend) (key : Nat) (d : List Byte) : Act :=
  match p.loc with
  | some (.phys die _ _) =>
    match versionedAt g p die with
    | some tk =>
      if 65536 ≤ dieVersionLines s g.die ∧ (versionLines tk.writes).contains (key / 128) = false then .wait
      else .done (s.modGroup g.gid (fun g => { g with task := some { tk with writes := versionPut tk.writes key d } })) []
    | none =>
      let s1 := pocWrite s (some g.gid) key d
      if addrTag p.addr = 0 then
        let line := p.addr.toNat / 128
        let off := p.addr.toNat % 128
        let s2 := dropNames s1 g.core key (some (l.asid, line))
        .done { s2 with l1 := patchCopy s2.l1 g.core l.asid line off d,
                        rdc := if die = g.die then s2.rdc else patchCopy s2.rdc g.die l.asid line off d } []
      else .done (dropNames s1 g.core key none) []
  | some _ => .done (pocWrite s (some g.gid) key d) []
  | none => .wait

/-- Perform an atomic at its point of coherence (R197, R211); it removes the copies of its line that its core and die
hold (R171; the RDC's as a replacement, so that the thread's next plain load returns the atomic's write or a later one, R197: assumption log 11). -/
def performAtomic (s : State) (l : Launch) (g : Group) (p : Pend) (key minor : Nat) (ops : List Word) (acq : Bool) : Act :=
  let n := p.op.size
  let fin := fun (s : State) =>
    let r := atomicAt s (some g.gid) minor key n ops
    let s1 := dropNames r.1 g.core key none
    Act.done (if acq then acquireCopies s1 g.core false else s1) (wordsOf (n / 4) r.2)
  match p.loc with
  | some (.phys _ _ _) => if poisoned s key n then .refuse (countErr s key) dataError 0 else fin s
  | some .host => if poisoned s key n then .refuse s dataError 0 else fin s
  | some _ =>
    if lineState s key = 1 then .wait
    else if lineState s key = 2 then .refuse s copyFault 0
    else fin s
  | none => .wait

/-! What an engine's command finds done (R199, R266). -/

/-- The pieces of `n` bytes from an address in HBM of this package, split at the 64 KiB pages they lie in, where they are mapped: key and length. -/
def physPieces (s : State) (l : Launch) (a : DWord) (n : Nat) : List (Nat × Nat) :=
  let asid := if addrTag a = 0 then some l.asid else if addrTag a = 4 ∧ addrPkg a = s.pkgId.toNat then keyAsid s l.podKey else none
  match asid with
  | none => []
  | some asid =>
    let lo := addrOff a
    (List.range (n / 65536 + 2)).filterMap (fun i =>
      let p := max lo ((lo / 65536 + i) * 65536)
      let q := min (lo + n) ((lo / 65536 + i + 1) * 65536)
      if p < q then
        match translate s (addrDie a) asid p .read with
        | .ok (lvl, e) => some (hbmKey (addrDie a) (physOf lvl e p), q - p)
        | .error _ => none
      else none)

/-- An access of a thread touches `n` bytes from an address: by address, or by place where both are known (a page may be mapped twice). -/
def touches (s : State) (l : Launch) (g : Group) (q : Pend) (a : DWord) (n : Nat) : Bool :=
  (decide (vaNorm s q.addr < vaNorm s a + n) && decide (vaNorm s a < vaNorm s q.addr + q.op.size)) ||
  match q.loc with
  | some (.phys ..) => match q.key l g with
    | some k => (physPieces s l a n).any (fun x => decide (k < x.1 + x.2) && decide (x.1 < k + q.op.size))
    | none => false
  | _ => match q.key l g, localKey l g a with
    | some k, some x => decide (k < x + n) && decide (x < k + q.op.size)
    | _, _ => false

/-- The command number `id` of a thread still waits for its own earlier accesses (R199): a write of `n` bytes from an address that is not
performed, an acquire that is not bound, which comes before all that follows it (R190, R200). -/
def ownWrites (s : State) (l : Launch) (g : Group) (th : Thread) (id : Nat) (a : DWord) (n : Nat) : Bool :=
  (th.earlier id).any (fun q => q.op.isAcq || (q.op.isWrite && touches s l g q a n))

/-- The thread that issued a command has an earlier write to a line on its way. -/
def ownStoreTo (s : State) (t : Tid) (id line : Nat) : Bool := match s.ofThread t, s.thread? t with
  | some (l, g), some th => (th.earlier id).any (fun q => q.op.isWrite && match q.key l g with
      | some k => decide (k < 128 * line + 128) && decide (128 * line < k + q.op.size)
      | none => false)
  | _, _ => false

/-- The thread that issued a command has an earlier write to a line, or an acquire, on its way, which the command must find done (R199). -/
def ownWriteTo (s : State) (t : Tid) (id line : Nat) : Bool :=
  ownStoreTo s t id line || match s.thread? t with
    | some th => (th.earlier id).any (fun q => q.op.isAcq)
    | none => false

/-- An engine's write to a line that a matrix operation of the cluster has still to read waits (R265, R266): a copy's for every operation, an
MSTC's, number `id`, for every one but those of which the issuer's own write must come first. -/
def engineHeld (s : State) (core key : Nat) (mstc : Option Nat) : Bool :=
  (heldOps s).any (fun x => coreCluster x.1 == coreCluster core && !(mstc == some x.2.id) && !(mstc.isSome && ownWriteTo s x.2.t x.2.id (key / 128)) &&
    match s.ofThread x.2.t with
    | some (l, g) => x.2.holds s l g key
    | none => false)

end Sys2Proof.Machine
end

