-- ==== Sys2Proof/Machine/Latch.lean ====
section
/-! DEFINITION. Latch.lean: how a matrix operation reads its operand lines (R265), when its blocks consume their tiles (R267), and what a change of
line states makes it read first. -/
namespace Sys2Proof.Machine

/-- The engine may read a line now: it is FULL, and the issuing thread's earlier accesses to it are performed (R199). -/
def lineReady (s : State) (o : MOp) (line : Nat) : Bool := lineState s (128 * line) == 0 && !ownWriteTo s o.t o.id line

/-- Read every line of a list that can be read. -/
def latch (s : State) (o : MOp) (lines : List Nat) : MOp :=
  let new := lines.filter (fun x => !(o.rd.any (fun r => r.1 == x)) && lineReady s o x)
  { o with rd := o.rd ++ new.map (fun x => (x, memRead s.mem 128 (128 * x))) }

def MOp.hasRead (o : MOp) (line : Nat) : Bool := o.rd.any (fun r => r.1 == line)

/-- A line lies in one of the extents of an operation. -/
def MOp.within (l : Launch) (g : Group) (o : MOp) (line : Nat) : Bool :=
  (o.ranges l g).any (fun r => match localKey l g r.1 with
    | some k => decide (k / 128 ≤ line) && decide (line ≤ (k + r.2 - 1) / 128)
    | none => false)

def MOp.idxLines (l : Launch) (g : Group) (o : MOp) : List Nat := linesOf (o.idxKeys l g)

/-- The lines that the operation reads in its extents, once the index vector is read (R259). -/
def MOp.known (s : State) (l : Launch) (g : Group) (o : MOp) : List Nat :=
  if (o.idxLines l g).all o.hasRead then (o.readLines s l g).filter (o.within l g) else []

/-- Read what can be read: the index vector before A (R259). -/
def latchOp (s : State) (l : Launch) (g : Group) (o : MOp) : MOp :=
  let o1 := latch s o (o.idxLines l g)
  latch s o1 (o1.known s l g)

/-- A line that the operation reads is in state ERROR. -/
def readsError (s : State) (l : Launch) (g : Group) (o : MOp) : Bool :=
  (o.idxLines l g ++ o.known s l g).any (fun x => !o.hasRead x && lineState s (128 * x) == 2)

/-- The lines of block A or B: operands, scales and, of A, the index vector (R267). -/
def MOp.blockLines (s : State) (l : Launch) (g : Group) (o : MOp) (isA : Bool) : List Nat :=
  let q := if isA then o.a else o.b
  match localKey l g (blkPtr q) with
  | none => []
  | some p =>
    let keys := (List.range 64).flatMap (fun i =>
      let li := if isA then o.lineA s l g i else i
      (List.range (blkK q)).flatMap (fun k => let e := p + elemOff q (o.cb isA) li k; [e, e + (o.cb isA - 1) / 8])
        ++ (if o.scaled then (List.range o.nb).map (fun b => p + o.scaleOff q li b) else []))
    linesOf ((if isA then o.idxKeys l g else []) ++ keys)

/-- Block A or B has been read to its last line. -/
def MOp.blockRead (s : State) (l : Launch) (g : Group) (o : MOp) (isA : Bool) : Bool :=
  o.compute && (o.blockLines s l g isA).all o.hasRead

/-- A gathered line or scale row reaches beyond the window or tile (R259). -/
def gatherBeyond (s : State) (l : Launch) (g : Group) (o : MOp) : Bool :=
  o.gather && (o.idxLines l g).all o.hasRead && (List.range 64).any (fun i =>
    let la := o.lineA s l g i
    let p := blkPtr o.a
    let room := localLen l g p - localOff p
    decide (room < la * blkStride o.a + blkWidth o.a (o.cb true))
      || (o.scaled && decide (room < bits (blkScale o.a) 19 0 + (la + 1) * o.sst)))

/-- A consuming block consumes its tile once, when its last line is read, unless a gathered line lies beyond it (R267). -/
def eatBlock (s : State) (l : Launch) (g : Group) (core : Nat) (o : MOp) (isA : Bool) : State × MOp :=
  let q := if isA then o.a else o.b
  if blkConsume q && !o.eaten.contains isA && o.blockRead s l g isA && !(isA && gatherBeyond s l g o) then
    (consumeTile s (hCore core (addrHandle (blkPtr q))) (hSlot (addrHandle (blkPtr q))) 1, { o with eaten := isA :: o.eaten })
  else (s, o)

/-- An operation with its number has read what it now says; a block read to its end consumes. -/
def putRead (s : State) (l : Launch) (g : Group) (core : Nat) (o : MOp) : State :=
  let r := eatBlock s l g core o true
  let q := eatBlock r.1 l g core r.2 false
  let put := fun (x : MOp) => if x.id = o.id then q.2 else x
  { q.1 with engines := q.1.engines.map (fun e => { e with queue := e.queue.map put }),
             savedEng := q.1.savedEng.map (fun e => { e with ops := e.ops.map put }) }

/-- Operations that hold FULL lines read them before the lines change their state, so that each reads the value that R265 names. -/
def readHeld (s : State) (lines : List Nat) : State :=
  (heldOps s).foldl (fun s x => match s.ofThread x.2.t with
    | some (l, g) =>
      let new := lines.filter (fun y => x.2.holds s l g (128 * y) && !ownStoreTo s x.2.t x.2.id y)
      if new.isEmpty then s else putRead s l g x.1 { x.2 with rd := x.2.rd ++ new.map (fun y => (y, memRead s.mem 128 (128 * y))) }
    | none => s) s

/-- A line that an operation holds cannot be read yet: its issuer's own store to it comes first (R199). The operations that follow entry `id` of thread
`t` do not keep that entry waiting. -/
def lineKept (s : State) (t : Tid) (id line : Nat) : Bool :=
  (heldOps s).any (fun x => !(x.2.t == t && decide (id < x.2.id)) && match s.ofThread x.2.t with
    | some (l, g) => x.2.holds s l g (128 * line) && ownStoreTo s x.2.t x.2.id line
    | none => false)

/-- Lines come to a state other than FULL (R168); what holds them FULL reads them first. -/
def changeLines (s : State) (lines : List Nat) (st : Nat) : State :=
  let s1 := readHeld s lines
  { s1 with lines := lines.foldl (fun ls x => setLine ls x st) s1.lines }

end Sys2Proof.Machine
end

