-- ==== Sys2Proof/Machine/Faults.lean ====
section
/-! DEFINITION. Faults.lean: fault records (R338, R339) and the ring of each die that carries them (R433). -/
namespace Sys2Proof.Machine

/-- The bytes of a fault record (R339). -/
def FRec.bytes (r : FRec) : List Byte :=
  bytesOf 8 r.addr.toNat ++ bytesOf 8 r.pc.toNat ++ bytesOf 4 r.launch ++ bytesOf 4 r.place.toNat
    ++ bytesOf 4 r.mask.toNat ++ bytesOf 1 r.kind ++ bytesOf 1 r.reason ++ bytesOf 2 r.tag

def State.modDie (s : State) (d : Nat) (f : DieRegs → DieRegs) : State := { s with dies := s.dies.modify d f }

/-- The memory key of a tag 0x0 or tag 0x2 address that the host names, in an ASID, if it is served. -/
def hostAddrKey (s : State) (asid : Nat) (a : DWord) (p : Perm) : Except Deny Nat :=
  if addrTag a = 2 then .ok (hostKey (bits a 47 0))
  else
    match translate s (addrDie a) asid (addrOff a) p with
    | .ok (lvl, e) => .ok (hbmKey (addrDie a) (physOf lvl e (addrOff a)))
    | .error d => .error d

/-- Count the uncorrectable error that the walk for an address that the host names meets, if any (R442). -/
def countAddr (s : State) (asid : Nat) (a : DWord) : State := if addrTag a = 2 then s else countWalk s (addrDie a) asid (addrOff a)

/-- Write the waiting records of a die into its ring, while it has room (R433); with fuel for the records. -/
def pumpRing (s : State) (die : Nat) : Nat → State
  | 0 => s
  | fuel + 1 =>
    match s.dies[die]?, s.frecs.find? (fun r => r.die == die && !r.inRing) with
    | some d, some r =>
      let n := d.fqSize.toNat
      let next := if n = 0 then 0 else (d.fqTail.toNat + 1) % n
      if n < 64 ∨ next = d.fqHead.toNat % n then s
      else
        match hostAddrKey s d.fqAsid.toNat (d.fqBase + BitVec.ofNat 64 (32 * d.fqTail.toNat)) .write with
        | .error _ => countAddr s d.fqAsid.toNat (d.fqBase + BitVec.ofNat 64 (32 * d.fqTail.toNat))
        | .ok key =>
          let s1 := pocWrite s none key r.bytes
          let mark := fun (x : FRec) =>
            if x.die = die ∧ x.tag = r.tag ∧ x.inRing = false then { x with inRing := true } else x
          let recs := (s1.frecs.map mark).filter (fun x => x.open_ || !x.inRing)
          let s2 := { s1 with frecs := recs }
          pumpRing (s2.modDie die (fun d => { d with fqTail := BitVec.ofNat 32 next })) die fuel
    | _, _ => s

def ringPump (s : State) (die : Nat) : State := pumpRing s die (s.frecs.length + 1)

/-- Unanswered records of a die (R338). -/
def openRecs (s : State) (die : Nat) : Nat := (s.frecs.filter (fun r => r.die == die && r.open_)).length

/-- The place word of a record (R339). -/
def placeWord (asid : Nat) (die : Nat) (g : Option Group) (cause : Nat) : Word :=
  let p := match g with
    | some g => coreLocal g.core * 2 ^ 10 + g.quad * 2 ^ 16 + g.slot * 2 ^ 18
    | none => 0
  BitVec.ofNat 32 (asid + die * 2 ^ 8 + p + cause * 2 ^ 24)

/-- Post a record on a die (R338, R433); answers its TAG. -/
def postRec (s : State) (die : Nat) (addr pc : DWord) (launch : Nat) (place mask : Word) (kind reason : Nat)
    (who : FWho) (open_ : Bool) : Nat × State :=
  let tag := match s.dies[die]? with
    | some d => d.nextTag
    | none => 0
  let r : FRec := { die := die, tag := tag, addr := addr, pc := pc, launch := launch, place := place, mask := mask,
                    kind := kind, reason := reason, who := who, inRing := false, open_ := open_ }
  let s1 := { s with frecs := s.frecs ++ [r] }
  (tag, ringPump (s1.modDie die (fun d => { d with nextTag := (d.nextTag + 1) % 2 ^ 16 })) die)

/-- The kind of a record for the access kind of R335. -/
def recKind (kind : Nat) : Nat := match kind with
  | 2 => 1
  | 3 => 2
  | 4 => 3
  | _ => 0

/-- The fault region of an address (R338): everything but [15:0]; the ASID is the launch's. -/
def region (a : DWord) : Nat := a.toNat / 2 ^ 16

/-- The TAG of the open record of a group's sub-group on a region. -/
def regionTag (s : State) (g : Group) (a : DWord) : Option Nat :=
  (s.frecs.find? (fun r => r.open_ && r.who == .threads g.gid && region r.addr == region a)).map (fun r => r.tag)

/-- The lane mask of some lanes. -/
def maskOf (lanes : List Nat) : Word := lanes.foldl (fun m i => m ||| BitVec.ofNat 32 (2 ^ i)) 0

/-- Threads that park in one cycle join their sub-group, or post its record, of the lowest of them, when the die has one free (R338). -/
def joinRec (s : State) (l : Launch) (g : Group) (lanes : List Nat) (r : TrapRec) : Option Nat × State :=
  match regionTag s g r.addr with
  | some t => (some t, s)
  | none =>
    if 4096 ≤ openRecs s g.die then (none, s)
    else
      let q := postRec s g.die r.addr r.pc l.ref.id (placeWord l.asid g.die (some g) notPresent)
        (maskOf lanes) (recKind r.kind) 1 (.threads g.gid) true
      (some q.1, q.2)

/-- Close a record. A closed record that stands in the ring is forgotten. -/
def closeRec (s : State) (die tag : Nat) : State :=
  let shut := fun (r : FRec) => if r.die = die ∧ r.tag = tag ∧ r.open_ then { r with open_ := false } else r
  let recs := (s.frecs.map shut).filter (fun r => r.open_ || !r.inRing)
  { s with frecs := recs }

end Sys2Proof.Machine
end

