-- ==== Sys2Proof/Machine/Abort.lean ====
section
/-! DEFINITION. Abort.lean: ending a launch by abort (R344, R345, R406), and what the route table of a collective says
(R407), which an abort must tell its members. -/
namespace Sys2Proof.Machine

/-! Route tables (R407). -/

def rtGroup (t : List Byte) : Nat := ofBytes (t.take 2)
def rtP (t : List Byte) : Nat := (t.getD 2 0).toNat
def rtOwn (t : List Byte) : Nat := (t.getD 3 0).toNat
def rtMember (t : List Byte) (m : Nat) : Nat := ofBytes ((t.drop (8 + 2 * m)).take 2)
def mbPkg (x : Nat) : Nat := bitsN x 9 0
def mbDie (x : Nat) : Nat := bitsN x 11 10

/-- A collective of a number has been posted on a die, on a slot whose active table has the group (R413). -/
def postedHere (s : State) (die group cseq key : Nat) : Bool :=
  s.routes.any (fun r => r.launch.die == die && decide (cseq < r.cseq) && (match r.table with
    | some t => rtGroup t == group
    | none => false) && s.launches.any (fun l => l.ref == r.launch && l.podKey == key))

/-- A collective can still be aborted (R414): not one that has ended, its add at a counter of another package being on its way (R412). -/
def Coll.abortable (c : Coll) : Bool := c.code == 0 && !(c.st == .signal && c.sigTag.isSome)

/-- An abort is known on a die for a collective (R414): the member that has posted it ends with the code; of one not yet posted
the die keeps the abort for the post to find. -/
def abortAt (s : State) (die group cseq key code : Nat) : State :=
  match s.colls.find? (fun c => c.die == die && rtGroup c.table == group && c.cseq == cseq && c.key == key) with
  | some c => { s with colls := s.colls.map (fun x => if x.id = c.id ∧ x.abortable then { x with code := code } else x) }
  | none =>
    if postedHere s die group cseq key then s
    else { s with aborts := { die := die, group := group, cseq := cseq, key := key, code := code } :: s.aborts }

/-- Tell every other member of a route table that a collective is aborted (R414); a member on another die of the package
is told over the link. -/
def tellMembers (s : State) (c : Coll) (code : Nat) : State :=
  (List.range (rtP c.table)).foldl (fun s m =>
    let x := rtMember c.table m
    if m = rtOwn c.table then s
    else if mbPkg x = s.pkgId.toNat then abortAt s (mbDie x) (rtGroup c.table) c.cseq c.key code
    else
      let f := s.fresh
      enqueueLate f.2 f.1 c.die (some c.launch) (mbPkg x) (mbDie x) 8 (.collAbort (rtGroup c.table) c.cseq c.key code)) s

/-- A member aborts its collective with a code; the first to abort tells the others (R414). A relayed failure is code 3 there, an ORDER stays one
(R413). What a DST unit holds after it is unspecified (R8, R414): here what the packets served before it have written (DESIGN CHOICE, assumption log
86). -/
def abortColl (s : State) (c : Coll) (code : Nat) : State :=
  if c.abortable then
    let s1 := { s with colls := s.colls.map (fun x => if x.id = c.id then { x with code := code } else x) }
    tellMembers s1 c (if code = 2 then 2 else 3)
  else s

/-! Launches. -/

/-- The status word of a launch (R304). -/
def statusWord (leak st code : Nat) : Word := BitVec.ofNat 32 (min leak 65535 * 2 ^ 16 + st * 2 ^ 8 + code)

/-- A thread whose launch is aborted: it is discarded, and its accesses not yet performed are dropped (R344). -/
def Thread.discard (th : Thread) : Thread :=
  { th with exited := true, infl := [], refused := [], wait := none, drain := none, parked := false, halted := false,
            hz := false, tag := none, redo := false }

/-- The registration a waiting thread holds. -/
def waitReg (w : Option Waiting) : Option Nat := match w with
  | some x => match x.kind with
    | .tcwait r _ _ => some r
    | _ => none
  | none => none

/-- An abort of a gang is told to every other member (R406). -/
def tellGangAbort (s : State) (ref : LRef) : State :=
  match s.gangs.find? (fun g => g.launch == ref) with
  | some g =>
    (g.members.zipIdx.filter (fun m => m.2 != g.rank)).foldl (fun s m =>
      let f := s.fresh
      enqueueLate f.2 f.1 ref.die none m.1 0 9
        (.gang { what := 5, gang := g.gid, header := 0, argp := 0, teams := 0, members := [], rank := m.2, key := 0,
                 code := 8, leak := 0, cycle := 0 })) s
  | none => s

/-- Steps 1–4 of R344 for one launch: threads, copies, matrix operations, queries and collectives stop; a kind 7 record
is posted; the other members of a gang are told (R406). -/
def stopLaunch (s : State) (l : Launch) : State :=
  let gids := (s.groups.filter (fun g => g.launch == l.ref)).map (fun g => g.gid)
  let regs := (s.groups.filter (fun g => g.launch == l.ref)).flatMap (fun g => g.threads.filterMap (fun th => waitReg th.wait))
  let cids := (s.copies.filter (fun c => c.launch == l.ref)).map (fun c => c.id)
  let stopG := fun (g : Group) => if g.launch = l.ref then
    { g with threads := g.threads.map Thread.discard, task := none, retired := true } else g
  let stopE := fun (e : Engine) =>
    { e with queue := e.queue.filter (fun o => !gids.contains o.gid || (!o.units.isEmpty && o.hold.isNone)),
             holder := e.holder.filter (fun h => !gids.contains h),
             fifo := e.fifo.filter (fun h => !gids.contains h), back := e.back.filter (fun h => !gids.contains h) }
  let stopR := fun (r : FRec) =>
    let mine := match r.who with
      | .threads g => gids.contains g
      | .copyUnit c _ => cids.contains c
      | .copyReg c => cids.contains c
      | .matrix _ op => s.engines.any (fun e => e.queue.any (fun o => o.id == op && gids.contains o.gid))
      | _ => false
    if mine then { r with open_ := false } else r
  let stopQ := fun (q : Query) => if q.launch = l.ref then
    { q with pages := q.pages.map (fun p => if p.st < 2 then { p with cxl := true } else p) } else q
  let stopL := fun (x : Launch) => if x.ref = l.ref then
    { x with stopped := true, code := 8, teams := x.teams.map (fun t => { t with retired := true, resident := false }),
             nextTeam := x.T, flushed := [] } else x
  let copies := s.copies.filter (fun c => c.launch != l.ref)
  let trigs := s.trigs.filter (fun r => !regs.contains r.id && !cids.contains r.id)
  let frecs := (s.frecs.map stopR).filter (fun r => r.open_ || !r.inRing)
  let age := s.age.filter (fun t => !gids.contains t.gid)
  let cons := s.cons.filter (fun t => !gids.contains t.gid)
  let savedEng := s.savedEng.filter (fun x => x.launch != l.ref)
  let s1 := { s with groups := s.groups.map stopG, engines := s.engines.map stopE, frecs := frecs,
                     queries := s.queries.map stopQ, launches := s.launches.map stopL,
                     copies := copies, trigs := trigs, recs := s.recs.filter (fun r => r.launch != l.ref),
                     age := age, cons := cons, savedEng := savedEng }
  let s2 := (s1.colls.filter (fun c => c.launch == l.ref)).foldl (fun s c => abortColl s c 3) s1
  let s3 := (postRec s2 l.ref.die 0 0 l.ref.id (placeWord l.asid l.ref.die none 0) 0 7 0 .nothing false).2
  tellGangAbort s3 l.ref

/-- A child that still waits in the pending pool ends with its parent, or by its identity (R302, R344): it is checked and placed no more. -/
def dropPooled (s : State) (p : Pending) : State :=
  let kept : Kept := { ref := p.ref, parent := p.pl, status := statusWord 0 3 8 }
  let s1 := { s with pool := s.pool.filter (fun x => x.ref != p.ref), kept := s.kept ++ [kept] }
  (postRec s1 p.ref.die 0 0 p.ref.id (placeWord p.asid p.ref.die none 0) 0 7 0 .nothing false).2

/-- A gang whose part here, rank 0's, has ended and which still waits for DONE is ended (R344, R406, R444): the others are told, no DONE is waited
for any more, and the launch completes with CODE 8. -/
def endGangWait (s : State) (l : Launch) : State :=
  match s.gangs.find? (fun g => g.launch == l.ref) with
  | some g => match g.ended with
    | some (_, leak) =>
      let missing := (List.range g.members.length).filter (fun k => k != 0 && !g.dones.any (fun d => d.1 == k))
      let g1 : Gang := { g with ended := some (8, leak), dones := g.dones ++ missing.map (fun k => (k, 8, 0)) }
      let gangs := s.gangs.map (fun x => if x.gid = g.gid then g1 else x)
      let launches := s.launches.map (fun x => if x.ref = l.ref then { x with stopped := true } else x)
      let s1 := tellGangAbort { s with gangs := gangs, launches := launches } l.ref
      if l.stopped then s1
      else (postRec s1 l.ref.die 0 0 l.ref.id (placeWord l.asid l.ref.die none 0) 0 7 0 .nothing false).2
    | none => s
  | none => s

/-- Abort a launch and its descendants (R344); with fuel for the nesting depth. -/
def abortTree (s : State) (ref : LRef) : Nat → State
  | 0 => s
  | fuel + 1 =>
    match s.launch? ref with
    | none => s
    | some l =>
      if 3 ≤ l.state then endGangWait s l
      else if l.stopped then s
      else
        let s1 := (s.pool.filter (fun p => p.pl == ref)).foldl dropPooled (stopLaunch s l)
        (s1.launches.filter (fun x => x.parent == some ref)).foldl (fun s x => abortTree s x.ref fuel) s1

/-- Abort a launch by its identity (R344, R349), one that waits in a pending pool too; an unknown identity is ignored. Nesting goes no deeper
than 24 (R129), so 26 levels reach every descendant. -/
def abortLaunch (s : State) (ref : LRef) : State := match s.pool.find? (fun p => p.ref == ref) with
  | some p => dropPooled s p
  | none => abortTree s ref 26

end Sys2Proof.Machine
end

