-- ==== Sys2Proof/Machine/Ops.lean ====
section
/-! DEFINITION. Ops.lean: the shared operations: taking a trap (R35, R333–R337, R343), returning from one (R67), the
restart of a versioned task (R300), issuing a word (R29, R36, R37), and issuing an access (R161, R205). -/
namespace Sys2Proof.Machine

abbrev Out := Host.Outcome State Fault Refusal

/-- A step that the spec does not let happen in this state. -/
def notNow : Out := .fault .notEnabled

/-! Versioned tasks. -/

/-- The wait of an entry on an EMPTY line is cancelled by a discard (R300). -/
def emptyWait (s : State) (l : Launch) (g : Group) (p : Pend) : Bool :=
  p.op.delivers && !p.bound && match p.key l g, p.loc with
    | some k, some .scratch => lineState s k == 1
    | some k, some .tile => lineState s k == 1
    | _, _ => false

/-- Put a thread back at its restart point (R300); its registers keep their contents. The stack comes back with its contents, of which R300 names DEPTH
(DESIGN CHOICE, assumption log 95). -/
def Thread.atRestart (th : Thread) : Thread :=
  match th.restart with
  | some r => { th with pc := r.pc, vwb := r.vwb, uwb := r.uwb, preds := r.preds, blk := r.blk, stack := r.stack,
                        hz := false, wait := none, drain := none, redo := false, fetched := none, fetchFrom := none, refused := [] }
  | none => { th with redo := false }

/-- A count of rendezvous has come to number `k`; both count modulo 2^32 (R149, R291). -/
def countReached (n : Word) (k : Nat) : Bool := decide ((n - BitVec.ofNat 32 k).toNat < 2 ^ 31)

/-- The earliest and the latest of some rendezvous numbers. -/
def firstCount (k : Nat) (ks : List Nat) : Nat := ks.foldl (fun m x => if countReached (BitVec.ofNat 32 m) x then x else m) k
def lastCount (ks : List Word) : Word := match ks with
  | [] => 0
  | k :: r => r.foldl (fun m x => if countReached x m.toNat then x else m) k

/-- Discard the version of a group's task (R300): the record goes to the tail of its queue, the writes and held posts
are dropped, and every thread executes the TKNEXT again: a blocked one at once, any other at its next horizon. -/
def discardVersion (s : State) (gid : Nat) : State :=
  match s.group? gid, s.ofThread { gid := gid, lane := 0 } with
  | some g, some (l, _) =>
    match g.task with
    | some tk =>
      if tk.versioned then
        let k := lastCount ((g.threads.filter (fun th => !th.exited)).map (fun th => th.tkRendez))
        let drop := fun (p : Pend) => emptyWait s l g p || (!p.bound && match p.op with
          | .tknext .. => true
          | .store .. => p.ver
          | .taskPost => p.ver
          | .taskSucc => p.ver
          | _ => false)
        let again := fun (th : Thread) =>
          if th.exited then th
          else
            let th1 := { th with tkRendez := k, infl := th.infl.filter (fun p => !drop p) }
            if th1.wait.isSome && th1.infl.isEmpty then th1.atRestart else { th1 with redo := true }
        let mine := fun (r : QRec) => r.held == some gid
        let back := (s.recs.filter mine).map (fun r => { r with held := none })
        { (s.modGroup gid (fun g => { g with task := none, threads := g.threads.map again })) with
          recs := s.recs.filter (fun r => !mine r) ++ back }
      else s
    | none => s
  | _, _ => s

/-- A thread runs a versioned task. -/
def inVersion (s : State) (t : Tid) : Bool := match s.group? t.gid with
  | some g => (g.task.map (fun k => k.versioned)).getD false
  | none => false

/-- The state with the thread's and its group's new values. -/
def putCtx (s : State) (c : Ctx) : State :=
  s.modGroup c.t.gid (fun _ => { c.g with threads := c.g.threads.modify c.t.lane (fun _ => c.th) })

/-! Traps. -/

/-- TRAP_INFO (R335). -/
def infoWord (r : TrapRec) : Word :=
  BitVec.ofNat 32 (min r.further 255 * 2 ^ 16 + r.kind * 2 ^ 12 + r.at_ * 2 ^ 8 + r.detail % 2 ^ 8)

/-- The thread at its handler (R333); what TS keeps is no longer outstanding. -/
def Thread.atHandler (th : Thread) (r : TrapRec) (ts : Ts) (handler : DWord) : Thread :=
  { th with infl := th.infl.filter (fun p => !ts.refused.any (fun x => x.p.id == p.id)),
            trapCause := BitVec.ofNat 8 r.cause, trapPc := r.pc, trapAddr := r.addr, trapInfo := infoWord r,
            ts := ts, blk := [], inHandler := true, pc := handler, hz := false, wait := none, drain := none,
            refused := [], fetched := none, fetchFrom := none, redo := false }

/-- Enter the handler (R333), once every result is written; a trap in a versioned task discards the version first and
resumes at the restart point (R343); a thread without a handler, or in it, ends the launch (R334), as does one that has ended itself
(the completion of its group's task was refused: assumption log 16). -/
def enterTrap (s : State) (t : Tid) (r : TrapRec) (ts : Ts) : State :=
  match s.ofThread t, s.thread? t with
  | some (l, g), some th =>
    if l.hdr.handler = 0 ∨ th.inHandler ∨ th.exited then
      let s1 := (postRec s g.die r.addr r.pc l.ref.id (placeWord l.asid g.die (some g) r.cause) (BitVec.ofNat 32 (2 ^ t.lane))
        6 (if r.cause = notPresent then r.detail else 0) .nothing false).2
      abortLaunch s1 l.ref
    else
      let v := inVersion s t
      let s1 := if v then discardVersion s t.gid else s
      let ts1 := { ts with toTask := v || ts.toTask || th.redo }
      s1.modThread t (fun th => th.atHandler r ts1 l.hdr.handler)
  | _, _ => s

/-- Add an entry kept with a segment, in program order. -/
def insertRefused (l : List Refused) (r : Refused) : List Refused :=
  l.filter (fun x => decide (x.p.id < r.p.id)) ++ r :: l.filter (fun x => decide (r.p.id < x.p.id))

/-- What the hidden trap state keeps of a segment (R35, R202): its refused accesses, and what the order holds behind them. -/
def Thread.kept (l : Launch) (g : Group) (th : Thread) : List Refused :=
  ((th.stuck l g).map (fun p => ({ p := p, trap := none } : Refused))).foldl insertRefused th.refused

/-- What a horizon waits for (R32): every result written and every access answered by its owner. -/
def Thread.settled (l : Launch) (g : Group) (th : Thread) : Bool :=
  th.infl.all (fun p => (th.stuck l g).contains p || (!p.op.delivers && !p.op.late && (p.loc.isSome || !p.op.isAccess)))

/-- Every outstanding result is written (R333, R38). -/
def Thread.drained (l : Launch) (g : Group) (th : Thread) : Bool :=
  th.infl.all (fun p => (th.stuck l g).contains p || !p.op.delivers)

/-- Enter the handler for a trap that is taken at once: TS is formed now, with what has been refused until now (R333, R35). -/
def enterAtOnce (s : State) (t : Tid) (r : TrapRec) (blk : List Bool) : State :=
  match s.ofThread t, s.thread? t with
  | some (l, g), some th =>
    enterTrap s t r { blk := blk, resume := r.pc, horizon := false, toTask := false, refused := th.kept l g, hz := false, upto := s.nextId }
  | _, _ => s

/-- A trap that the thread has taken and not entered yet comes before the halt (R358). -/
def Thread.trapping (th : Thread) : Bool := match th.drain with
  | some (.trap _ _) => true
  | _ => false

/-- A trap found at issue, at a fetch or at completion (R35, R36): the thread takes it at once, after its
outstanding results are written; the accesses that waited to be performed again after its wait stay with the segment. `blk` is the block state
that still counts the trapping word. -/
def trapNow (s : State) (t : Tid) (r : TrapRec) (blk : List Bool) : State :=
  let s1 := s.modThread t (fun th =>
    let rest := (th.wait.map (fun w => w.rest)).getD []
    { th with drain := some (.trap r blk), wait := none, hz := false, fetched := none, fetchFrom := none, refused := rest.foldl insertRefused th.refused })
  match s1.ofThread t, s1.thread? t with
  | some (l, g), some th => if th.drained l g then enterAtOnce s1 t r blk else s1
  | _, _ => s1

/-- An entry is refused: it is kept with its segment, or with TS where it was issued before the handler was entered (R35). -/
def Thread.refuse (th : Thread) (p : Pend) (r : TrapRec) : Thread :=
  let left := th.infl.filter (fun q => q.id != p.id)
  let x : Refused := { p := p, trap := some r }
  if th.inHandler && decide (p.id < th.ts.upto) then { th with infl := left, ts := { th.ts with refused := insertRefused th.ts.refused x } }
  else { th with infl := left, refused := insertRefused th.refused x }

/-- An instruction that has waited for others traps at its completion (R149, R291, R336): at once, before a trap of a later word that is on its way,
which its word finds again when it executes again (R36), and after one of an earlier such instruction, after which this word executes again. A parked
thread keeps the trap until it is answered. -/
def trapEntry (s : State) (t : Tid) (p : Pend) (r0 : TrapRec) : State :=
  let s1 := s.modThread t (fun th => { th with infl := th.infl.filter (fun q => q.id != p.id) })
  let r := { r0 with num := p.id }
  match s1.thread? t with
  | some th => match th.parked, th.drain with
    | true, _ => s1.modThread t (fun th => th.refuse p r)
    | false, some (.trap q _) => if q.num ≠ 0 ∧ q.num < p.id then trapAgain s1 t else trapNow s1 t r p.blk
    | false, _ => trapNow s1 t r p.blk
  | none => s1
where
  /-- The trap on its way, whose last result may have been this one. -/
  trapAgain (s : State) (t : Tid) : State := match s.ofThread t, s.thread? t with
    | some (l, g), some th => match th.drain with
      | some (.trap q blk) => if th.drained l g then enterAtOnce s t q blk else s
      | _ => s
    | _, _ => s

/-- The access kind of an entry (R335). -/
def POp.kind : POp → Nat
  | .load .. => 1
  | .store .. => 2
  | .atomic .. => 3
  | .taskPost => 1
  | .taskSucc => 3
  | .fetch => 4
  | .mma _ => 5
  | .tcwait _ => 3
  | .publ => 1
  | _ => 0

/-- The trap of an entry refused after issue, taken at a horizon (R336). -/
def Pend.trap (p : Pend) (cause detail : Nat) : TrapRec :=
  { cause := cause, pc := p.pc, addr := p.addr, detail := detail, kind := p.op.kind, at_ := 0, further := 0 }

/-- The first refused access of a segment, with the trap it would take and the number of the others that faulted (R35, R335). -/
def firstRefused (l : List Refused) : Option (Pend × TrapRec) :=
  let xs := l.filterMap (fun x => x.trap.map (fun r => (x.p, r)))
  xs.head?.map (fun x => (x.1, { x.2 with further := x.2.further + (xs.length - 1) }))

/-- A refusal parks the thread (R337). -/
def TrapRec.parks (r : TrapRec) : Bool := r.cause == notPresent && r.detail == 1

/-- The instruction in which a thread waits joins what its segment keeps: it waits on once the refused accesses have been performed again. -/
def Thread.shelve (th : Thread) : Thread := match th.wait with
  | some w =>
    let p : Pend := { id := w.id, pc := w.pc, dst := .none, op := .wait w.kind, addr := 0, loc := none, st := .sent, blk := w.blk }
    { th with wait := none, refused := insertRefused (w.rest.foldl insertRefused th.refused) { p := p, trap := none } }
  | none => th

/-- Park some lanes of a group on one region in one cycle (R337, R338, R343): they keep their refused accesses and their state; in a versioned task they
are put back at the restart point, and keep their first refused access for the record and for FAIL. -/
def parkLanes (s : State) (l : Launch) (g : Group) (lanes : List Nat) (r : TrapRec) : State :=
  let q := joinRec s l g lanes r
  let v := match g.task with
    | some tk => tk.versioned
    | none => false
  let s1 := if v then discardVersion q.2 g.gid else q.2
  let park := fun (th : Thread) =>
    let th1 := if v then { th.atRestart with refused := th.refused, redo := true } else th
    { th1 with parked := true, tag := q.1 }
  lanes.foldl (fun s i => s.modThread { gid := g.gid, lane := i } park) s1

/-- A refusal that parks a thread: the thread with it where it parks, at a horizon that is due (R32, R35). -/
def Thread.parksAt (l : Launch) (g : Group) (th : Thread) : Option TrapRec :=
  if !th.exited && !th.parked && !th.halted && g.resident && (th.hz || (th.drain.isSome && match th.drain with
      | some (.trap _ _) => false
      | _ => true)) && th.settled l g then
    match firstRefused th.refused with
    | some (_, r) => if r.parks then some r else none
    | none => none
  else none

/-- The lanes of a group that park on one region in the same cycle (R338): those whose horizons are due (assumption log 15), and the refusal of the
lowest. -/
def parkMates (l : Launch) (g : Group) (lane : Nat) (r : TrapRec) : List Nat × TrapRec :=
  let xs := g.threads.zipIdx.filterMap (fun x =>
    if x.2 = lane then some (x.2, r)
    else match x.1.parksAt l g with
      | some y => if region y.addr = region r.addr then some (x.2, y) else none
      | none => none)
  (xs.map (fun x => x.1), ((xs.head?).map (fun x => x.2)).getD r)

/-- Take the first refused access of a segment at its horizon (R35, R337): park, or trap. The kept block state and resume
point are those after the H instruction; an instruction that still waits goes on after its return. EXIT waits as a horizon without having
taken effect: where a thread resumes whose access is refused in that wait the spec does not say; here it is at EXIT, which it executes again
(DESIGN CHOICE, assumption log 29). -/
def takeRefused (s : State) (t : Tid) (th0 : Thread) : State :=
  let th := th0.shelve
  let s1 := s.modThread t (fun _ => th)
  match s1.ofThread t, firstRefused th.refused with
  | some (l, g), some (p, r) =>
    if r.parks then
      let ms := parkMates l g t.lane r
      let s2 := ms.1.foldl (fun s i => s.modThread { gid := t.gid, lane := i } Thread.shelve) s1
      parkLanes s2 l g ms.1 ms.2
    else
      enterTrap (s1.modThread t (fun th => { th with failed := th.failed.filter (fun f => f.by_ != some p.id) })) t r { blk := th.blk, resume := th.pc, horizon := true, toTask := false, refused := th.kept l g, hz := th.hz, upto := s1.nextId }
  | _, _ => s1

/-- An entry of a thread. -/
def State.pend? (s : State) (t : Tid) (id : Nat) : Option Pend :=
  (s.thread? t).bind (fun th => th.infl.find? (fun p => p.id == id))

/-- Change an entry of a thread. -/
def State.modPend (s : State) (t : Tid) (id : Nat) (f : Pend → Pend) : State :=
  s.modThread t (fun th => { th with infl := th.infl.map (fun p => if p.id = id then f p else p) })

/-! Performing refused accesses again (R35, R67, R340). -/

/-- What admission asks for an entry. A TCREAD of this package is an atomic and asks for write permission, a TCWAIT and a TCREAD that goes to another
package as a READ do not (R161, R245, R393 leave it open: DESIGN CHOICE, assumption log 89). -/
def POp.perm : POp → Perm
  | .store .. => .write
  | .atomic .. => .write
  | .tileCount .. => .read
  | .taskSucc => .write
  | _ => .read

/-- The packet body of an access to another package (R393). -/
def peerBody (key : Nat) (p : Pend) : Nat × Body :=
  let flags := (if p.op.isAcq then 1 else 0) + (if p.op.isRel then 2 else 0)
  match p.op with
  | .load size _ _ => (0, .req p.addr key size flags p.id [])
  | .store d _ => (2, .req p.addr key (Nat.log2 d.length + (if d.length = 1 then 0 else if d.length = 2 then 1 else 2)) flags p.id d)
  | .atomic 16 _ _ _ => (0, .req p.addr key 4 flags p.id [])
  | .atomic m ops _ _ => (3, .req p.addr key m flags p.id (ops.flatMap (fun w => bytesOf 4 w.toNat)))
  | _ => (2, .req p.addr key 0 flags p.id [])

/-- Put an entry among a thread's outstanding ones, in program order. -/
def insertPend (l : List Pend) (p : Pend) : List Pend :=
  l.filter (fun q => decide (q.id < p.id)) ++ p :: l.filter (fun q => decide (p.id < q.id))

/-- An accepted entry as its core keeps it: a store to a line of another die enters the write-combining buffer, behind those it has received (R365); a load of bytes in a store that
the core holds takes no copy (R171). -/
def acceptEntry (s : State) (l : Launch) (g : Group) (p : Pend) (loc : Loc) : Pend :=
  let q := { p with loc := some loc, st := .sent }
  match p.op, loc with
  | .store .., .phys die _ k => if addrTag p.addr = 0 ∧ die ≠ g.die ∧ k ≠ 0 then { q with st := .held, recv := s.nextId } else q
  | .load .., .phys .. => { q with bypass := p.bypass || match q.key l g with
      | some key => coreHolds s g q key
      | none => false }
  | _, _ => q

/-- The entries that an accepted one becomes: a change of `n` lines is one entry for each line, which waits for the earlier writes to that line alone
(R217); its numbers follow the entry's own, which keeps them free. -/
def Pend.pieces (p : Pend) : List Pend := match p.op with
  | .lineSet full n => (List.range n).map (fun i => { p with id := p.id + i, addr := p.addr + BitVec.ofNat 64 (128 * i), op := .lineSet full 1 })
  | _ => [p]

/-- Put an entry to its owner: accepted, refused to the thread, or sent to another package. -/
def submit (s : State) (t : Tid) (l : Launch) (g : Group) (p : Pend) : State :=
  match admitAt s l g.core p.addr p.op.perm with
  | .ok loc =>
    let s1 := if addrTag p.addr = 0 then fillMtlb s (addrDie p.addr) l.asid (addrOff p.addr) else s
    s1.modThread t (fun th => { th with infl := (acceptEntry s l g p loc).pieces.foldl insertPend th.infl })
  | .deny cause detail => (countAdmit s l p.addr).modThread t (fun th => th.refuse p (p.trap cause detail))
  | .away => s.modThread t (fun th => { th with infl := insertPend th.infl { p with loc := none, st := .sent } })

/-- An entry for another package leaves once the thread's order lets it (R189, R190, R195); its packet is stamped then. -/
def sendPeer (s : State) (t : Tid) (l : Launch) (g : Group) (p : Pend) : State :=
  let b := peerBody l.podKey p
  let s1 := enqueue s p.id g.die (some l.ref) (addrPkg p.addr) (addrPkg p.addr) (addrDie p.addr) 1 b.1 false b.2
  let gen := (calGen s).toNat
  s1.modThread t (fun th => { th with infl := th.infl.map (fun q => if q.id = p.id then { q with st := .remote gen } else q) })

/-- The thread's requests to other packages that its order and the scoreboards (R233) now let go are sent, the earliest first. -/
def sendReady (s : State) (t : Tid) : State :=
  match s.ofThread t, s.thread? t with
  | some (l, g), some th =>
    th.infl.foldl (fun s p =>
      match s.thread? t with
      | some th' =>
        if p.loc.isNone ∧ p.op.isAccess ∧ p.st = .sent ∧ remotePeer s p.addr ∧ voqRoom s g.die ∧ orderOk s l g th' p
            ∧ (p.op.isWrite && scoreHeld s t l.asid g.core p.id p.addr 0 p.op.size) = false
            ∧ unreported th' p.id (if p.op.isRel then p.relScope else 0) = []
        then sendPeer s t l g p else s
      | none => s) s
  | _, _ => s

/-- A wait is entered again: what it waits for, and the accesses kept after it, performed once it is over. -/
def waitAgain (s : State) (t : Tid) (k : WaitKind) (x : Refused) (rest : List Refused) : State :=
  let blk := match x.p.op with
    | .wait _ => x.p.blk
    | _ => ((s.thread? t).map (fun th => th.blk)).getD []
  s.modThread t (fun th => { th with wait := some { id := x.p.id, kind := k, pc := x.p.pc, blk := blk, rest := rest } })

/-- A kept entry that its unit, not an owner, answers again. -/
def enterAgain (s : State) (t : Tid) (p : Pend) : State :=
  s.modThread t (fun th => { th with infl := insertPend th.infl { p with st := .sent } })

/-- Perform one kept entry again: the state, and whether the rest follows at once (a wait entered again keeps the rest). -/
def performOne (s : State) (t : Tid) (x : Refused) (rest : List Refused) : State × Bool :=
  match x.p.op with
  | .mma op => (waitAgain s t (.mma op) x rest, false)
  | .tcwait thr => (waitAgain s t (.tcwait x.p.id x.p.addr thr) x rest, false)
  | .publ => (waitAgain s t (.publ x.p.id x.p.addr false) x rest, false)
  | .wait k => (waitAgain s t k x rest, false)
  | .fetch => (s, true)
  | .rendez .. => (enterAgain s t x.p, true)
  | .tknext .. => (enterAgain s t x.p, true)
  | .talloc part count _ => (enterAgain s.fresh.2 t { x.p with op := .talloc part count s.nextId }, true)
  | .tileCount .. => (enterAgain s t x.p, true)
  | .lwait _ => (enterAgain s t x.p, true)
  | .aqwait _ => (enterAgain s t x.p, true)
  | .cpyw _ => (enterAgain s t x.p, true)
  | .macq => (enterAgain s t x.p, true)
  | .result => (s.modThread t (fun th => { th with infl := insertPend th.infl x.p }), true)
  | _ =>
    match s.ofThread t with
    | some (l, g) => (submit s t l g x.p, true)
    | none => (s, false)

/-- Perform a list of refused accesses again, in program order (R35, R67, R340). -/
def performAgain (s : State) (t : Tid) : List Refused → State
  | [] => s
  | x :: rest => if (performOne s t x rest).2 then performAgain (performOne s t x rest).1 t rest else (performOne s t x rest).1

/-- TS with nothing in it. -/
def Ts.empty : Ts := { blk := [], resume := 0, horizon := false, toTask := false, refused := [], hz := false, upto := 0 }

/-- What a return performs again (R67, R35, R202): after a trap taken at a horizon, the faulting accesses in mode 0 only, and in either mode what was held
behind them; after one taken at once, all of it. -/
def Ts.again (ts : Ts) (mode : Nat) : List Refused :=
  if ts.horizon && mode != 0 then ts.refused.filter (fun x => x.trap.isNone) else ts.refused

/-- A kept entry is an instruction that waits. -/
def Refused.waits (x : Refused) : Bool := match x.p.op with
  | .wait _ => true
  | _ => false

/-- Return from a trap (R67, R36): the block state and resume point of TS, mode 0 with the segment's accesses performed
again; after a trap taken at once the refused accesses of the segment are performed again in either mode (R35); after
one in a versioned task, the restart point (R300, R343). -/
def leaveTrap (s : State) (t : Tid) (mode : Nat) : State :=
  match s.thread? t with
  | some th =>
    let ts := th.ts
    let xs := ts.again mode
    let clear := fun (th : Thread) => { th with inHandler := false, drain := none, hz := false, ts := Ts.empty }
    if ts.toTask then s.modThread t (fun th => (clear th).atRestart)
    else if ts.horizon then
      let hz := if xs.any Refused.waits then ts.hz else !xs.isEmpty
      performAgain (s.modThread t (fun th => { clear th with pc := ts.resume, blk := ts.blk, hz := hz })) t xs
    else
      let s1 := s.modThread t (fun th =>
        { clear th with pc := if mode = 0 then ts.resume else ts.resume + 4, blk := if mode = 0 then ts.blk else ts.blk.drop 1 })
      performAgain s1 t xs
  | none => s

/-! Issuing a word. -/

/-- What issuing a word comes to: a trap found at issue, also one that leaves a mark in the state; the word done; the word done, and then what its
arrival lets happen, which may be a trap at its completion (R149, R291); a transfer to a target; a wait; something that takes effect once the thread has
waited as a horizon does. -/
inductive Iss where
  | trap (r : TrapRec)
  | fail (s : State) (r : TrapRec)
  | done (s : State)
  | met (s : State) (f : State → State)
  | jump (s : State) (target : DWord)
  | wait (s : State) (k : WaitKind)
  | drain (s : State) (d : Drain)

/-- The block state after one more word. -/
def blkNext (b : List Bool) : List Bool := b.drop 1

/-- The thread moves past a word: the pc, the block, the horizon. -/
def Thread.past (th : Thread) (h : Bool) (pc : DWord) : Thread :=
  { th with pc := pc, blk := blkNext th.blk, hz := h, fetched := none, fetchFrom := none }

/-- Issue a word for the current thread (R29, R36, R37, R46, R47). `bk` is the reason under which the word may not stand
in a predicate block, or 0. A word that its block skips has no effect but its H bit. -/
def issue (h : Bool) (bk : Nat) (s : State) (f : Ctx → State → Iss) : Out :=
  match s.cur with
  | none => .next s
  | some t =>
    match s.ofThread t, s.thread? t with
    | some (l, g), some th =>
      let c : Ctx := { t := t, th := th, g := g, l := l }
      if bk ≠ 0 ∧ th.blk ≠ [] then .next (trapNow s t (trapPlain th.pc illegalInstr bk) th.blk)
      else if th.blk.head? = some false then .next (s.modThread t (fun th => th.past h (th.pc + 4)))
      else
        match f c s with
        | .trap r => .next (trapNow s t r th.blk)
        | .fail s' r => .next (trapNow s' t r th.blk)
        | .done s' => .next (s'.modThread t (fun th => th.past h (th.pc + 4)))
        | .met s' f => .next (f (s'.modThread t (fun th => th.past h (th.pc + 4))))
        | .jump s' target => .next (s'.modThread t (fun x => { x.past h target with fetchFrom := some th.pc }))
        | .wait s' k =>
          .next (s'.modThread t (fun x => { x.past h (x.pc + 4) with wait := some { id := s.nextId, kind := k, pc := th.pc, blk := th.blk, rest := [] } }))
        | .drain s' d => .next (s'.modThread t (fun th => { th with drain := some d, fetched := none, fetchFrom := none }))
    | _, _ => .next s

/-- A word that reads and writes registers only (R12): its group and thread after it. -/
def issueReg (h : Bool) (s : State) (f : Ctx → Res Ctx) : Out :=
  issue h 0 s (fun c s =>
    match f c with
    | .error r => .trap r
    | .ok c' => .done (s.modGroup c.t.gid (fun _ => { c'.g with threads := c'.g.threads.modify c.t.lane (fun _ => c'.th) })))

/-- What a word of the variable-latency class has computed (R33): its destination and the values on their way there. -/
structure VarRes where
  c    : Ctx
  dst  : Dst
  vals : List Word

/-- Add an entry of a thread. -/
def addPend (s : State) (t : Tid) (pc : DWord) (dst : Dst) (op : POp) (addr : DWord) (loc : Option Loc) (st : PSt) : State :=
  let f := s.fresh
  f.2.modThread t (fun th =>
    { th with infl := insertPend th.infl { id := f.1, pc := pc, dst := dst, op := op, addr := addr, loc := loc, st := st, blk := th.blk,
                                             word := th.fetched } })

/-- A result on its way to its destination (R33); to the null name it is discarded. -/
def addResult (s : State) (t : Tid) (pc : DWord) (dst : Dst) (vals : List Word) : State :=
  if dst = .none then s else addPend s t pc dst .result 0 none (.ready (vals.map some))

/-- A word of the variable-latency class that computes from registers. -/
def issueVar (h : Bool) (s : State) (f : Ctx → Res VarRes) : Out :=
  issue h 0 s (fun c s =>
    match f c with
    | .error r => .trap r
    | .ok v =>
      let s1 := s.modGroup c.t.gid (fun _ => { v.c.g with threads := v.c.g.threads.modify c.t.lane (fun _ => v.c.th) })
      .done (addResult s1 c.t c.th.pc v.dst v.vals))

/-- A word that acts on the whole state, with checks that may trap. -/
def issueWith (h : Bool) (s : State) (f : Ctx → State → Res Iss) : Out :=
  issue h 0 s (fun c s => match f c s with
    | .error r => .trap r
    | .ok i => i)

/-- Issue an access that has passed its checks: number it, put it to its owner. -/
def access (s : State) (c : Ctx) (a : DWord) (dst : Dst) (op : POp) : State :=
  let f := s.fresh
  let v := match c.g.task with
    | some tk => tk.versioned
    | none => false
  submit f.2 c.t c.l c.g { id := f.1, pc := c.th.pc, dst := dst, op := op, addr := a, loc := none, st := .sent, blk := c.th.blk, ver := v,
                             word := c.th.fetched }

/-- The version that a store to an address would join has no room for its line (R298); the thread's own versioned stores on their way count. -/
def versionFull (s : State) (c : Ctx) (a : DWord) : Bool :=
  match c.g.task with
  | some tk =>
    tk.versioned && addrTag a == 0 &&
    let way := c.g.threads.flatMap (fun th => th.infl.filterMap (fun p => match p.op, p.loc, p.ver with
      | .store .., some (.phys die pa _), true => some (hbmKey die pa / 128)
      | _, _, _ => none))
    let ls := (versionLines tk.writes ++ way).eraseDups
    decide (4096 ≤ ls.length) && match translate s (addrDie a) c.l.asid (addrOff a) .write with
      | .ok (lvl, e) => !ls.contains (hbmKey (addrDie a) (physOf lvl e (addrOff a)) / 128)
      | .error _ => false
  | none => false

/-- What a versioned task may not do (R297): checked at issue. Of the copy and matrix families the operations are refused; CPYT, CPYW, CPYQ, MWAIT and
MSTAT, which start none, are not, and every AQ and COLL minor is (DESIGN CHOICE, assumption log 94). -/
def versionCheck (c : Ctx) (kind : Nat) (allowed : Bool) : Res Unit :=
  match c.g.task with
  | some tk => require (!tk.versioned || allowed) (trapAt c.th.pc illegalOperand 0 0 kind)
  | none => .ok ()

/-- A check that yields a trap or nothing. -/
def checkThat (o : Option TrapRec) : Res Unit := match o with
  | some r => .error r
  | none => .ok ()

/-- ILLEGAL_OPERAND at issue with an access kind (R336). -/
def Ctx.illegalK (c : Ctx) (kind : Nat) : TrapRec := trapAt c.th.pc illegalOperand 0 0 kind

/-- A capability bit that the launch's feature mask must set (R132). -/
def needCap (c : Ctx) (b : Nat) : Res Unit := require (c.l.has b) c.illegal

end Sys2Proof.Machine
end

