-- ==== Sys2Proof/Machine/Tile.lean ====
section
/-! DEFINITION. Tile.lean: the tile pool (R276–R286): its instructions and its steps. -/
namespace Sys2Proof.Machine

/-- The tiles of a partition of a launch that are allocated on a cluster and not yet free (R284). -/
def liveTiles (s : State) (l : LRef) (cluster part : Nat) : Nat :=
  (s.tiles.filter (fun t => t.live && t.owner == l && coreCluster t.core == cluster && t.part == part)).length

/-- n_p of R276: the worst-case count of a declared partition; 0 where it is not declared. -/
def partCount (l : Launch) (p : Nat) : Nat := match l.hdr.parts[p]? with
  | some x => if x.2 = 0 then 0 else x.1
  | none => 0

def partClass (l : Launch) (p : Nat) : Nat := match l.hdr.parts[p]? with
  | some x => x.2
  | none => 0

/-- TALLOC (R281): a request to the pool, in order of arrival. -/
def execTalloc (h : Bool) (d a b : BitVec 7) (s : State) : Out :=
  issueWith h s (fun c s => do
    let dst ← dest c 2 d
    let p ← src32 c a
    let n ← src32 c b
    require (!dst.isUni) c.illegal
    needCap c 4
    require (decide (p.toNat ≤ 7)) c.illegal
    require (partClass c.l p.toNat != 0) (trapPlain c.th.pc poolPartition p.toNat)
    require (decide (1 ≤ n.toNat) && decide (n.toNat ≤ 65535)) c.illegal
    let f := s.fresh
    .ok (.done (addPend f.2 c.t c.th.pc dst (.talloc p.toNat n.toNat f.1) 0 none .sent)))

/-- The pointer of TREL, TDROP and TSTAT: a tile's (R282, R284). -/
def tilePointer (c : Ctx) (a : BitVec 7) : Res DWord := do
  let p ← src64 c a
  needCap c 4
  require (addrTag p == 5) c.illegal
  .ok p

/-- The checks of R205 on the pointer of TREL and TDROP, whose offset is ignored (R282). -/
def tileCheck (s : State) (c : Ctx) (p : DWord) : Res Unit :=
  checkThat ((accessCheck s c (p - BitVec.ofNat 64 (p.toNat % 2 ^ 16)) 1 0).map (fun r => { r with addr := p }))

/-- TREL (R282). -/
def execTrel (h : Bool) (a : BitVec 7) (s : State) : Out :=
  issueWith h s (fun c s => do
    let p ← tilePointer c a
    tileCheck s c p
    .ok (.done (addPend s c.t c.th.pc .none (.tileCount 0 true) p (some .tile) .sent)))

/-- TDROP (R282). -/
def execTdrop (h : Bool) (a b : BitVec 7) (s : State) : Out :=
  issueWith h s (fun c s => do
    let n ← src32 c b
    let p ← tilePointer c a
    tileCheck s c p
    .ok (.done (addPend s c.t c.th.pc .none (.tileCount n.toNat false) p (some .tile) .sent)))

/-- TADDR (R283). -/
def execTaddr (h : Bool) (d a b : BitVec 7) (s : State) : Out :=
  issueReg h s (fun c => do
    let dst ← dest c 2 d
    let x ← src32 c a
    let y ← src32 c b
    uniRule c dst [a, b] false
    require (c.l.has 4) c.illegal
    .ok (c.write64 dst (BitVec.ofNat 64 (5 * 2 ^ 60 + x.toNat * 2 ^ 24 + y.toNat % 2 ^ 16))))

/-- The word of TSTAT (R284). -/
def tileStatus (s : State) (c : Ctx) (hd : Nat) : Word :=
  let reads := match s.tile? (hCore c.g.core hd) (hSlot hd) with
    | some t => if tileFresh s c.l c.g.core hd then t.count else 0
    | none => 0
  BitVec.ofNat 32 (liveTiles s c.l.ref (coreCluster c.g.core) (hPart hd) * 2 ^ 16 + reads)

/-- TSTAT (R284). -/
def execTstat (h : Bool) (d a : BitVec 7) (s : State) : Out :=
  issueWith h s (fun c s => do
    let dst ← dest c 1 d
    require (!dst.isUni) c.illegal
    let p ← tilePointer c a
    require (tagOk p) (trapAt c.th.pc addressSpace p 0 0)
    let v := tileStatus s c (addrHandle p)
    .ok (.done (s.modThread c.t (fun _ => (c.write dst [v]).th))))

/-! The pool's steps. -/

/-- The requests waiting at the pool of a cluster for a partition of a launch: their order numbers (R281). -/
def tallocWaiting (s : State) (l : LRef) (cluster part : Nat) : List Nat :=
  (s.groups.filter (fun g => g.launch == l && coreCluster g.core == cluster && g.resident)).flatMap (fun g =>
    g.threads.flatMap (fun th => th.infl.filterMap (fun p => match p.op with
      | .talloc q _ ord => if q = part ∧ p.bound = false then some ord else none
      | _ => none)))

/-- Bytes that the spec leaves open: free values (R8, R278). -/
def freeBytes (from_ : Nat) (n : Nat) : List Byte := (List.range n).map (fun i => Config.freeByte (from_ + i))

/-- The tile that a slot of a core gives a TALLOC (R278, R281): the word's result becomes its pointer, and its bytes are free values. -/
def grantTile (s : State) (t : Tid) (id : Nat) (l : Launch) (g : Group) (part count rank slot : Nat) : State :=
  let core := coreCluster g.core * 8 + rank
  let gen := match s.tile? core slot with
    | some x => x.gen
    | none => 0
  let cls := partClass l part
  let n := classSize cls
  let tile : Tile := { core := core, slot := slot, gen := gen, live := true, spent := false, part := part, cls := cls,
                       count := count, owner := l.ref, team := g.team }
  let hd := rank * 2 ^ 29 + slot * 2 ^ 21 + gen * 2 ^ 9 + cls * 2 ^ 7 + part
  let ptr : DWord := BitVec.ofNat 64 (5 * 2 ^ 60 + hd * 2 ^ 24)
  let key := tileKey core slot 0
  let tiles := tile :: s.tiles.filter (fun x => !(x.core == core && x.slot == slot))
  let s1 := { s with tiles := tiles, mem := memWrite s.mem (freeBytes s.freeCtr n) key, freeCtr := s.freeCtr + n,
                     lines := setLines s.lines key 1 (n / 128) }
  s1.modPend t id (fun p => { p with st := .ready [some (loWord ptr), some (hiWord ptr)] })

/-- The bytes of a size class, all partitions of a header and one core's share of them (R276). -/
def reserveBytes (h : Header) : Nat := (h.parts.map (fun p => p.1 * classSize p.2)).sum
def tileShare (h : Header) : Nat := 65536 * cdiv (cdiv (reserveBytes h) 8) 65536

/-- Where the places of a partition begin in the layout of a launch's tiles, the larger classes first (R276; the layout is the pool's choice:
assumption log 18). -/
def partBase (h : Header) (part : Nat) : Nat :=
  let cls := fun (p : Nat) => ((h.parts[p]?).map (fun x => x.2)).getD 0
  (h.parts.zipIdx.map (fun x => if cls part < x.1.2 ∨ (x.1.2 = cls part ∧ x.2 < part) then x.1.1 * classSize x.1.2 else 0)).sum

/-- How many places of a partition lie in the shares of the first `k` cores of a cluster. -/
def placesBelow (h : Header) (part k : Nat) : Nat := match h.parts[part]? with
  | some x => min x.1 ((k * tileShare h - partBase h part) / classSize x.2)
  | none => 0

/-- A core of a cluster has a place of a partition that no live tile of the launch takes (R276). -/
def placeFree (s : State) (l : Launch) (cluster part rank : Nat) : Bool :=
  decide ((s.tiles.filter (fun t => t.live && t.owner == l.ref && t.core == cluster * 8 + rank && t.part == part)).length
    < placesBelow l.hdr part (rank + 1) - placesBelow l.hdr part rank)

/-- TALLOC_GRANT (R276, R278, R281): the first waiting request for a partition that has room receives a slot of the core of a
rank; every line of the tile is EMPTY. -/
def execTallocGrant (t : Tid) (id rank slot : Nat) (s : State) : Out :=
  match s.ofThread t, s.pend? t id with
  | some (l, g), some p =>
    match p.op with
    | .talloc part count ord =>
      let cluster := coreCluster g.core
      let core := cluster * 8 + rank
      let free := match s.tile? core slot with
        | some x => !x.live
        | none => true
      if p.bound ∨ g.resident = false ∨ 8 ≤ rank ∨ 256 ≤ slot ∨ free = false ∨ partCount l part ≤ liveTiles s l.ref cluster part
          ∨ placeFree s l cluster part rank = false
          ∨ (tallocWaiting s l.ref cluster part).any (fun o => decide (o < ord)) then notNow
      else .next (grantTile s t id l g part count rank slot)
    | _ => notNow
  | _, _ => notNow

end Sys2Proof.Machine
end

