-- ==== Sys2Proof/Machine/Copy.lean ====
section
/-! DEFINITION. Copy.lean: the copy engine's instructions and the start of a data command (R222–R234, R239, R248,
R249). -/
namespace Sys2Proof.Machine

/-! Layout slots (R227, R228). -/

/-- A tensor layout record is valid (R227). -/
def layoutOk (r : List Word) : Bool :=
  let a0 := r.getD 0 0
  let a1 := r.getD 1 0
  let ch := bits a0 12 0
  let rows := bits a1 16 0
  let ss := ofWords ((r.drop 2).take 2)
  let ds := ofWords ((r.drop 4).take 2)
  bits a0 31 20 == 0 && decide (bits a0 19 18 ≤ 1) && decide (bits a0 17 16 ≤ 1) && bits a0 15 13 == 0 && bits a1 31 17 == 0
    && r.getD 6 0 == 0 && r.getD 7 0 == 0
    && decide (1 ≤ ch) && decide (ch ≤ 4096) && decide (1 ≤ rows) && decide (rows ≤ 65536) && ss % 16 == 0 && ds % 16 == 0
    && decide (ch * rows * 16 ≤ 16777216)
    && (bits a0 19 18 == 0 || (ch % 8 == 0 && ss % 128 == 0)) && (bits a0 17 16 == 0 || (ch % 8 == 0 && ds % 128 == 0))

/-- CPYT (R228): the write is the group's, as a uniform write is. -/
def execCpyt (h : Bool) (k : BitVec 3) (a b : BitVec 7) (s : State) : Out :=
  issueReg h s (fun c => do
    let x ← src c 4 a
    let y ← src c 4 b
    require (uniSource a && uniSource b) c.illegal
    require (layoutOk (x ++ y)) c.illegal
    .ok { c with g := { c.g with lt := c.g.lt.set k.toNat (x ++ y) } })

/-! The checks of a data command at issue (R225, R226). -/

def CopyCmd.rop (c : CopyCmd) : Nat := bits c.ctl 31 28
def CopyCmd.rtype (c : CopyCmd) : Nat := bits c.ctl 27 25
def CopyCmd.mask (c : CopyCmd) : Nat := bits c.ctl 23 16
def CopyCmd.waits (c : CopyCmd) : Bool := bit c.ctl 11
def CopyCmd.sigs (c : CopyCmd) : Bool := bit c.ctl 10
def CopyCmd.marks (c : CopyCmd) : Bool := bit c.ctl 9
def CopyCmd.consumes (c : CopyCmd) : Bool := bit c.ctl 8
def CopyCmd.spread (c : CopyCmd) : Bool := bit c.ctl 7
def CopyCmd.cls (c : CopyCmd) : Nat := bits c.ctl 6 4

/-- An operator and element type that R235 allows. -/
def reduceOk (rop rtype : Nat) : Bool :=
  decide (rtype ≤ 4) && decide (rop ≤ 5) && (decide (rtype ≤ 1) || decide (rop ≤ 2))

/-- Check 2 of R225. -/
def copyForm (c : CopyCmd) : Bool :=
  bit c.ctl 24 == false && bits c.ctl 3 0 == 0
    && (if c.minor = 1 then reduceOk c.rop c.rtype else c.rop == 0 && c.rtype == 0)
    && (c.minor == 2 || c.mask == 0)
    && (if c.tensor then layoutOk c.lay
        else decide (16 ≤ c.len) && decide (c.len ≤ 16777216) && c.len % 16 == 0)

/-- Check 4 of R225: the tags of R226. -/
def copyTags (c : CopyCmd) : Bool :=
  let td := addrTag c.dst
  let isLocal := fun (t : Nat) => t == 1 || t == 5
  let dOk := match c.minor with
    | 0 => true
    | 1 => td != 2
    | 2 => td == 1
    | _ => td == 0 || td == 4
  dOk && (!c.waits || addrTag c.w == 0) && (!c.sigs || addrTag c.g == 0 || addrTag c.g == 4)
    && (!c.consumes || addrTag c.src == 5) && (!c.marks || isLocal td)
    && (!(c.tensor && c.sSwz == 1) || isLocal (addrTag c.src)) && (!(c.tensor && c.dSwz == 1) || isLocal td)

/-- The lowest bit that check 7 of R225 compares. -/
def unitFix (a : DWord) : Nat := match addrTag a with
  | 1 => 20
  | 5 => 16
  | _ => 48

/-- A unit address keeps the fields of its base (check 7). -/
def unitStays (base a : DWord) : Bool := a.toNat / 2 ^ unitFix base == base.toNat / 2 ^ unitFix base

/-- A scratch or tile unit lies in its window or size class (check 9). -/
def unitFits (l : Launch) (g : Group) (a : DWord) : Bool :=
  if addrTag a = 1 ∨ addrTag a = 5 then decide (localOff a + 16 ≤ localLen l g a) else true

/-- The pointers of a command that are in use. -/
def CopyCmd.ptrs (c : CopyCmd) : List DWord :=
  [c.src, c.dst] ++ (if c.waits then [c.w] else []) ++ (if c.sigs then [c.g] else [])

/-- The trap of the first pointer that fails a test. -/
def firstBad (pc : DWord) (cause : Nat) (l : List DWord) (ok : DWord → Bool) : Res Unit :=
  match l.find? (fun a => !ok a) with
  | some a => .error (trapAt pc cause a 0 5)
  | none => .ok ()

/-- The checks of R225, after those of decoding and register names. -/
def copyCheck (s : State) (c : Ctx) (k : CopyCmd) : Res Unit := do
  require (k.minor != 3 || c.l.has 12) c.illegal
  require (c.l.has 9 || !(k.ptrs.any (fun a => addrTag a == 4))) c.illegal
  versionCheck c 5 false
  require (copyForm k) c.illegal
  firstBad c.th.pc addressSpace k.ptrs tagOk
  require (copyTags k) c.illegal
  firstBad c.th.pc misaligned [k.src, k.dst] (fun a => a.toNat % 16 == 0)
  firstBad c.th.pc misaligned (k.ptrs.drop 2) (fun a => a.toNat % 4 == 0)
  require (k.minor != 2 || (k.mask != 0 && k.ranks.all (fun r => (windowOf c.l c.g r).2.2 != 0)))
    (trapPlain c.th.pc mcastMask k.mask)
  let us := List.range k.units
  firstBad c.th.pc addressSpace (us.map k.srcAt) (unitStays k.src)
  firstBad c.th.pc addressSpace (us.map k.dstAt) (unitStays k.dst)
  firstBad c.th.pc remoteUnreachable (k.ptrs.filter (fun a => addrTag a == 4)) (fun a => reachable s (addrPkg a))
  firstBad c.th.pc scratchRange (us.map k.srcAt) (unitFits c.l c.g)
  firstBad c.th.pc scratchRange (us.flatMap k.dstsAt) (unitFits c.l c.g)

/-! Taking the entries (R222, R230, R232). -/

/-- The range-scoreboard entries a matrix operation holds: two to four (R266). -/
def MOp.entries (o : MOp) : Nat := if o.scaled then 4 else if o.gather then 3 else 2

/-- The entries of a core's range scoreboard in use: by its data commands and by the operations on its engine (R222,
R266). -/
def boardUse (s : State) (core : Nat) : Nat :=
  (s.copies.filter (fun c => c.core == core)).length
    + ((s.engines.filter (fun e => e.core == core)).map (fun e => (e.queue.map MOp.entries).sum)).sum

/-- The slice in which a CPYM unit would lie has been freed since its team retired (R237). -/
def rankFreed (l : Launch) (g : Group) (a : DWord) : Bool :=
  let core := coreCluster g.core * 8 + addrRank a
  let w := windowOn l g.team core
  let off := w.1 + addrScratchOff a
  !(l.teams.any (fun t => t.resident && !t.freed && (teamSlices l.hdr t core).any (fun x => decide (x.1 ≤ off) && decide (off < x.1 + x.2))))

/-- A destination unit of a command lies in storage that is still its launch's: not behind a stale handle (R277), nor in a slice freed since (R237). -/
def CopyCmd.owns (s : State) (l : Launch) (g : Group) (c : CopyCmd) (a : DWord) : Bool :=
  if addrTag a = 5 then tileFresh s l g.core (addrHandle a) else c.minor != 2 || !rankFreed l g a

/-- The destination lines of a command whose states it changes, each with the unit that lies there (R232, R247). -/
def CopyCmd.ownLines (s : State) (l : Launch) (g : Group) (c : CopyCmd) : List (Nat × Nat) :=
  (List.range c.units).flatMap (fun u =>
    ((c.dstsAt u).filter (c.owns s l g)).filterMap (fun a => (localKey l g a).map (fun k => (k / 128, u))))

/-- The lines that MARK empties. -/
def CopyCmd.markLines (s : State) (l : Launch) (g : Group) (c : CopyCmd) : List Nat :=
  if c.marks then ((c.ownLines s l g).map (fun x => x.1)).eraseDups else []

/-- The command may take its entries: one of the cluster's 512, one of the core's 64; with MARK once the thread's earlier
stores and atomics to the marked lines are performed, and no operation still keeps one of them (R222, R232, R265). -/
def copyReady (s : State) (l : Launch) (g : Group) (th : Thread) (c : CopyCmd) : Bool :=
  decide ((s.copies.filter (fun x => coreCluster x.core == coreCluster c.core)).length < 512)
    && decide (boardUse s c.core < 64)
    && (!c.marks || !((List.range c.units).any (fun u =>
          (c.dstsAt u).any (fun a => ownWrites s l g th c.id (a - BitVec.ofNat 64 (a.toNat % 128)) 128))))
    && !((c.markLines s l g).any (lineKept s c.t c.id))

/-- The command takes its entries; MARK empties its destination lines (R230, R232). -/
def startCopy (s : State) (l : Launch) (g : Group) (c : CopyCmd) : State :=
  let s1 := changeLines s (c.markLines s l g) 1
  { s1 with copies := s1.copies ++ [{ c with st := if c.waits then .unregistered else .running }] }

/-- A data command of a minor (R223, R230). -/
def copyWord (h : Bool) (minor : Nat) (d a b : BitVec 7) (s : State) : Out :=
  issueWith h s (fun c s => do
    let tr ← src c 4 d
    let ad ← src c 4 a
    let cm ← src c 4 b
    let f := s.fresh
    let ctl := cm.getD 0 0
    let k : CopyCmd :=
      { id := f.1, t := c.t, launch := c.l.ref, core := c.g.core, asid := c.l.asid, key := c.l.podKey, minor := minor, ctl := ctl,
        len := (cm.getD 1 0).toNat, lay := c.g.lt.getD (bits ctl 14 12) [],
        src := pairOf (ad.getD 0 0) (ad.getD 1 0), dst := pairOf (ad.getD 2 0) (ad.getD 3 0),
        w := pairOf (tr.getD 0 0) (tr.getD 1 0), g := pairOf (tr.getD 2 0) (tr.getD 3 0),
        thr := cm.getD 2 0, aux := cm.getD 3 0, st := .unregistered, srcOk := [], done := [], flight := [], fail := 0,
        consumed := false, drops := [] }
    copyCheck s c k
    let mark := k.sigs || addrTag k.dst == 2 || addrTag k.dst == 4
    let s1 := if mark then f.2.modThread c.t (fun th => { th with barsFlush := true }) else f.2
    if copyReady s1 c.l c.g c.th k then .ok (.done (startCopy s1 c.l c.g k)) else .ok (.wait s1 (.copy k)))

/-- CPY (R223, R230). -/
def execCpy (h : Bool) (d a b : BitVec 7) (s : State) : Out := copyWord h 0 d a b s
/-- CPYR (R223, R235). -/
def execCpyr (h : Bool) (d a b : BitVec 7) (s : State) : Out := copyWord h 1 d a b s
/-- CPYM (R223, R237). -/
def execCpym (h : Bool) (d a b : BitVec 7) (s : State) : Out := copyWord h 2 d a b s
/-- CPYS (R223, R238). -/
def execCpys (h : Bool) (d a b : BitVec 7) (s : State) : Out := copyWord h 3 d a b s

/-- PUBL (R239): the thread waits until the page is flipped. -/
def execPubl (h : Bool) (a : BitVec 7) (s : State) : Out :=
  issueWith h s (fun c s => do
    let p ← src64 c a
    needCap c 12
    versionCheck c 5 false
    require (addrTag p == 0 || addrTag p == 4) c.illegal
    checkThat (accessCheck s c p 1 5)
    let f := s.fresh
    .ok (.wait (f.2.modThread c.t (fun th => { th with barsFlush := true })) (.publ f.1 p false)))

/-- The copy status word (R249); OUT counts the thread's commands that have not ended. -/
def copyStatus (s : State) (t : Tid) (th : Thread) : Word :=
  BitVec.ofNat 32 (min th.cpyDrops 255 * 2 ^ 24 + th.cpyFail * 2 ^ 16 + (s.copies.filter (fun c => c.t == t)).length)

/-- CPYQ (R249). -/
def execCpyq (h : Bool) (d : BitVec 7) (s : State) : Out :=
  issueWith h s (fun c s => do
    let dst ← dest c 1 d
    require dst.isVec c.illegal
    .ok (.done (s.modThread c.t (fun _ => (c.write dst [copyStatus s c.t c.th]).th))))

/-- CPYW (R249): the status comes once at most n of the thread's earlier commands have not ended. -/
def execCpyw (h : Bool) (d a : BitVec 7) (s : State) : Out :=
  issueWith h s (fun c s => do
    let dst ← dest c 1 d
    let n ← src32 c a
    require dst.isVec c.illegal
    .ok (.done (addPend s c.t c.th.pc dst (.cpyw n.toNat) 0 none .sent)))

end Sys2Proof.Machine
end

