-- ==== Sys2Proof/Machine/Baton.lean ====
section
/-! DEFINITION. Baton.lean: the baton of a core's matrix engine (R272–R274). -/
namespace Sys2Proof.Machine

/-- An engine that has served no launch (R251). -/
def Engine.fresh (core : Nat) : Engine :=
  { core := core, launch := none, slots := [], queue := [], holder := none, fifo := [], back := [], epoch := 0 }

def State.engine (s : State) (core : Nat) : Engine := (s.engines.find? (fun e => e.core == core)).getD (Engine.fresh core)

def State.putEngine (s : State) (e : Engine) : State :=
  { s with engines := e :: s.engines.filter (fun x => x.core != e.core) }

/-- Every waiting MACQ of a group receives EPOCH (R273). -/
def deliverMacq (s : State) (gid : Nat) (epoch : Word) : State :=
  s.modGroup gid (fun g => { g with threads := g.threads.map (fun th => { th with infl := th.infl.map (fun p =>
    match p.op with
    | .macq => if p.bound then p else { p with st := .ready [some epoch], late := th.halted }
    | _ => p) }) })

/-- A group becomes the holder: EPOCH counts the grant (R272). -/
def giveBaton (s : State) (core gid : Nat) : State :=
  let e := s.engine core
  let e1 := { e with holder := some gid, epoch := e.epoch + 1, fifo := e.fifo.filter (fun x => x != gid),
                     back := e.back.filter (fun x => x != gid) }
  deliverMacq (s.putEngine e1) gid e1.epoch

/-- The grant to a group waits: all its threads that wait for the baton are parked (R341), or its team is being saved (R348). -/
def grantWaits (s : State) (gid : Nat) : Bool := match s.group? gid with
  | some g =>
    let asks := g.threads.filter (fun th => th.infl.any (fun p => p.op == .macq && !p.bound))
    g.saving || (!asks.isEmpty && asks.all (fun th => th.parked))
  | none => false

/-- A free baton goes to the head of the FIFO (R272), once one of its issuers is not parked (R341). -/
def grantBaton (s : State) (core : Nat) : State :=
  let e := s.engine core
  match e.holder, e.fifo with
  | none, g :: _ => if grantWaits s g then s else giveBaton s core g
  | _, _ => s

/-- Every free baton that may be granted is. -/
def grantBatons (s : State) : State := (s.engines.map (fun e => e.core)).foldl grantBaton s

/-- A group gives up the baton and its place in the FIFO (R274). -/
def dropBaton (s : State) (core gid : Nat) : State :=
  let e := s.engine core
  let e1 := { e with holder := e.holder.filter (fun x => x != gid), fifo := e.fifo.filter (fun x => x != gid),
                     back := e.back.filter (fun x => x != gid) }
  grantBaton (s.putEngine e1) core

def holds (s : State) (g : Group) : Bool := (s.engine g.core).holder == some g.gid

/-- Feature bit 2 (R251): without it a minor raises BATON. -/
def needMatrix (c : Ctx) : Res Unit := require (c.l.has 2) (trapPlain c.th.pc batonCause 0)

/-- MACQ (R273). -/
def execMacq (h : Bool) (d : BitVec 7) (s : State) : Out :=
  issueWith h s (fun c s => do
    let dst ← dest c 1 d
    require (c.l.has 2) c.illegal
    let e := s.engine c.g.core
    if e.holder = some c.g.gid then .ok (.done (addPend s c.t c.th.pc dst .macq 0 none (.ready [some e.epoch])))
    else
      let s1 := addPend s c.t c.th.pc dst .macq 0 none .sent
      let s2 := if e.fifo.contains c.g.gid then s1 else s1.putEngine { e with fifo := e.fifo ++ [c.g.gid] }
      .ok (.done (grantBaton s2 c.g.core)))

/-- The members of the holding group in one constellation act once (R273): what a later one finds. -/
def batonOnce (c : Ctx) (s : State) (k : Res Iss) : Res Iss :=
  if c.g.acted = 1 then .ok (.done s)
  else if c.g.acted = 2 then .error c.illegal
  else if holds s c.g then k
  else .error (trapPlain c.th.pc batonCause 0)

def markActed (s : State) (gid n : Nat) : State := s.modGroup gid (fun g => { g with acted := n })

/-- MPASS (R273). A group that may not take the baton leaves it where it is: every member traps. -/
def execMpass (h : Bool) (a : BitVec 7) (s : State) : Out :=
  issue h 0 s (fun c s =>
    match src32 c a with
    | .error r => .trap r
    | .ok x =>
      match needMatrix c with
      | .error r => .trap r
      | .ok _ =>
        let heir := s.groups.find? (fun g => g.launch == c.g.launch && g.team == c.g.team && g.idx == x.toNat)
        let good := match heir with
          | some g => g.resident && !g.retired && g.core == c.g.core
          | none => false
        if c.g.acted = 0 ∧ holds s c.g ∧ good = false then .fail (markActed s c.g.gid 2) c.illegal
        else
          match batonOnce c s (match heir with
            | some g => if g.gid = c.g.gid then .ok (.done (markActed s c.g.gid 1))
                        else .ok (.done (markActed (giveBaton s c.g.core g.gid) c.g.gid 1))
            | none => .error c.illegal) with
          | .error r => .trap r
          | .ok i => i)

/-- MREL (R273). -/
def execMrel (h : Bool) (s : State) : Out :=
  issueWith h s (fun c s => do
    needMatrix c
    batonOnce c s (.ok (.done (markActed (dropBaton s c.g.core c.g.gid) c.g.gid 1))))

/-- What MWHO reads (R273): bit 31 where the baton is held, bit 30 where it is the group's own, and the holder's index, or
0xFFFF where there is none to tell. -/
def batonWord (s : State) (c : Ctx) : Word :=
  let e := s.engine c.g.core
  let idx := match e.holder with
    | some x => if c.l.has 2 then
        (match s.group? x with
          | some g => if g.launch = c.g.launch then g.idx else 0xFFFF
          | none => 0xFFFF) else 0xFFFF
    | none => 0xFFFF
  BitVec.ofNat 32 ((if e.holder.isSome then 2 ^ 31 else 0) + (if holds s c.g then 2 ^ 30 else 0) + idx)

/-- MWHO (R273). -/
def execMwho (h : Bool) (d : BitVec 7) (s : State) : Out :=
  issueWith h s (fun c s => do
    let dst ← dest c 1 d
    .ok (.done (putCtx s (c.write dst [batonWord s c]))))

end Sys2Proof.Machine
end

