-- ==== Sys2Proof/Machine/Task.lean ====
section
/-! DEFINITION. Task.lean: the task unit (R287–R300): posts, counter cells, the group rendezvous of TKNEXT, TKDONE and
TKSPEC, commits, and the TASK instructions. -/
namespace Sys2Proof.Machine

/-! Records, queues, cells (R287–R290). -/

def taskCtl (r : List Byte) : Nat := ofBytes ((r.drop 0x20).take 4)
def taskQueue (r : List Byte) : Nat := bitsN (taskCtl r) 3 0
def taskPrio (r : List Byte) : Nat := bitsN (taskCtl r) 18 16
def taskV (r : List Byte) : Bool := bitsN (taskCtl r) 19 19 == 1
def taskS (r : List Byte) : Bool := bitsN (taskCtl r) 20 20 == 1
def taskSuccPtr (r : List Byte) : DWord := BitVec.ofNat 64 (ofBytes ((r.drop 0x18).take 8))

/-- The declared occupancy of a queue. -/
def queueSize (l : Launch) (q : Nat) : Nat := l.hdr.queues.getD q 0

/-- A record keeps the rules of R287 and R288 for a poster on a die. -/
def taskOk (l : Launch) (r : List Byte) (die : Nat) : Bool :=
  let c := taskCtl r
  bitsN c 15 7 == 0 && bitsN c 23 21 == 0 && ((r.drop 0x24).take 12).all (fun b => b == 0)
    && (taskSuccPtr r == 0 || (addrTag (taskSuccPtr r) == 0 && tagOk (taskSuccPtr r) && (taskSuccPtr r).toNat % 16 == 0))
    && decide (0 < queueSize l (taskQueue r))
    && (if bitsN c 6 6 = 1 then bitsN c 5 4 else die) == l.ref.die
    && (!taskV r || (l.has 8 && l.hdr.speculate))

/-- Entries of a queue in use (R290). -/
def queueUse (s : State) (l : LRef) (q : Nat) : Nat := (s.recs.filter (fun r => r.launch == l && r.queue == q)).length

/-- Post a record (R288, R290): the cause and detail of a refusal, or the state after it. -/
def postTask (s : State) (l : Launch) (die : Nat) (r : List Byte) : Except (Nat × Nat) State :=
  if taskOk l r die = false then .error (illegalOperand, 0)
  else if queueSize l (taskQueue r) ≤ queueUse s l.ref (taskQueue r) then .error (queueOver, taskQueue r)
  else .ok { s with recs := s.recs ++ [{ launch := l.ref, queue := taskQueue r, bytes := r, held := none }] }

/-- The key of a tag 0x0 address in the launch's ASID. -/
def taskKey (s : State) (l : Launch) (a : DWord) (p : Perm) (n : Nat) : Except (Nat × Nat) Nat :=
  match translate s (addrDie a) l.asid (addrOff a) p with
  | .error d => .error (d.cause, d.detail)
  | .ok (lvl, e) =>
    let key := hbmKey (addrDie a) (physOf lvl e (addrOff a))
    if poisoned s key n then .error (dataError, 0) else .ok key

/-- Decrement the counter cell at an address, as an atomic (R171, R197, R289): from 1 to 0 it posts the cell's record. A record that cannot be posted for another reason than
overflow leaves COUNT as it was too (DESIGN CHOICE, assumption log 91). -/
def cellDecrement (s : State) (l : Launch) (g : Group) (a : DWord) : Except (Nat × Nat) State := do
  let key ← taskKey s l a .write 16
  let n := readNat s key 4
  let put := fun (s : State) => dropNames (pocWrite s (some g.gid) key (bytesOf 4 (n - 1))) g.core key none
  if n = 0 then .error (illegalOperand, 0)
  else if n ≠ 1 then .ok (put s)
  else do
    let rp : DWord := BitVec.ofNat 64 (readNat s (key + 8) 8)
    if addrTag rp ≠ 0 ∨ tagOk rp = false ∨ rp.toNat % 64 ≠ 0 then .error (illegalOperand, 0)
    else do
      let rk ← taskKey s l rp .read 64
      postTask (put s) l g.die (memRead s.mem 64 rk)

/-! The commit of a versioned task (R299). -/

/-- Make a version's bytes current in one step (R299). -/
def commitVersion (s : State) (gid : Nat) (tk : Task) : State :=
  let ls := versionLines tk.writes
  let keep := fun (c : Copy) => !ls.contains c.place
  let touched := fun (r : Trig) => tk.writes.any (fun w => decide (r.key ≤ w.1) && decide (w.1 < r.key + 4))
  let s1 := { s with mem := tk.writes.foldl (fun m (w : Nat × Byte) => memWrite m [w.2] w.1) s.mem,
                     poison := tk.writes.foldl (fun p (w : Nat × Byte) => poisonAfter p w.1 1) s.poison,
                     groups := s.groups.map (fun g => ls.foldl (fun g x => doom (some gid) (128 * x) 128 g) g),
                     l1 := s.l1.filter keep, rdc := s.rdc.filter keep, recs := s.recs.filter (fun r => r.held != some gid) }
  { s1 with trigs := s1.trigs.map (fun r => if touched r then { r with due := r.due || reached (readWord s1 r.key) r.thr } else r) }

/-- Count the uncorrectable error that a post met: in its record; in its cell, or the walk for it, or the record that its cell names (R442). -/
def countPost (s : State) (l : Launch) (g : Group) (p : Pend) : State :=
  match p.op with
  | .taskSucc => match taskKey s l p.addr .read 16 with
    | .ok key => countReads s l.asid 64 1 (BitVec.ofNat 64 (readNat s (key + 8) 8))
    | .error _ => countReads s l.asid 16 1 p.addr
  | _ => match p.key l g with
    | some key => countErr s key
    | none => s

/-- The state of the scratch line that a TKPOST reads (R168). -/
def postLine (s : State) (l : Launch) (g : Group) (p : Pend) : Nat := match p.loc, p.key l g with
  | some .scratch, some key => lineState s key
  | _, _ => 0

/-- Perform a post that is held or not (R288–R290, R293, R294): what refuses it is kept with the thread's segment. An error of the queue has no
access kind (R336). -/
def performPost (s : State) (t : Tid) (l : Launch) (g : Group) (p : Pend) : State :=
  let r := match p.op with
    | .taskSucc => cellDecrement s l g p.addr
    | _ =>
      match p.key l g with
      | some key =>
        if postLine s l g p = 2 then .error (copyFault, 0)
        else if poisoned s key 64 then .error (dataError, 0) else postTask s l g.die (memRead s.mem 64 key)
      | none => .error (illegalOperand, 0)
  match r with
  | .ok s1 => s1.modThread t (fun th => { th with infl := th.infl.filter (fun q => q.id != p.id) })
  | .error (cause, detail) =>
    let tr := p.trap cause detail
    (if cause = dataError then countPost s l g p else s).modThread t (fun th => th.refuse p (if cause = queueOver then { tr with kind := 0 } else tr))

/-! The rendezvous of a group (R291). -/

/-- A live thread's outstanding group task instruction: its number among them, the instruction (0 TKNEXT, 1 TKDONE,
2 TKSPEC), the number its accesses lie below, and its entry if it is a TKNEXT. -/
structure TaskArr where
  lane  : Nat
  k     : Nat
  minor : Nat
  upto  : Nat
  p     : Option Pend

def Thread.taskArr (th : Thread) (lane : Nat) : Option TaskArr :=
  let w := match th.wait with
    | some x => match x.kind with
      | .tkdone k => some { lane := lane, k := k, minor := 1, upto := x.id, p := none }
      | .tkspec k => some { lane := lane, k := k, minor := 2, upto := x.id, p := none }
      | _ => none
    | none => none
  match th.infl.find? (fun p => match p.op with
      | .tknext .. => !p.bound
      | _ => false) with
  | some p => match p.op with
    | .tknext k _ => some { lane := lane, k := k, minor := 0, upto := p.id, p := some p }
    | _ => w
  | none => w

def taskArrivals (g : Group) : List TaskArr :=
  (g.threads.zipIdx.filter (fun x => !x.1.exited)).filterMap (fun x => x.1.taskArr x.2)

/-- Every live thread of a group has arrived in the same group task instruction: the arrivals. -/
def taskMeet (g : Group) : Option (List TaskArr) :=
  let xs := taskArrivals g
  match xs with
  | [] => none
  | x :: _ =>
    let k := firstCount x.k (xs.map (fun y => y.k))
    let ys := xs.filter (fun y => y.k == k)
    if ys.length = (g.threads.filter (fun th => !th.exited)).length then some ys else none

/-- A post that the group's task holds reads a line that is EMPTY (R168, R299). -/
def heldWaits (s : State) (g : Group) : Bool := match g.task, s.ofThread { gid := g.gid, lane := 0 } with
  | some tk, some (l, _) => tk.held.any (fun h => postLine s l g h.2 == 1)
  | _, _ => false

/-- The release of a completion covers every access of the group's threads before it (R295). -/
def taskQuiet (s : State) (g : Group) (xs : List TaskArr) (uo : Bool) : Bool :=
  !heldWaits s g && g.threads.zipIdx.all (fun x =>
    let upto := match xs.find? (fun y => y.lane == x.2) with
      | some y => y.upto
      | none => s.nextId
    releaseReady s x.1 upto 4 uo && (x.1.earlier upto).all (fun q => !q.op.late))

/-- End the waits of the threads that arrived by TKDONE or TKSPEC. -/
def endTaskWaits (s : State) (gid : Nat) : State :=
  s.modGroup gid (fun g => { g with threads := g.threads.map (fun th => match th.wait with
    | some x => match x.kind with
      | .tkdone _ => { th with wait := none }
      | .tkspec _ => { th with wait := none }
      | _ => th
    | none => th) })

/-- The held posts in the order of their words (R299). -/
def heldInOrder (l : List (Nat × Pend)) : List (Nat × Pend) :=
  l.foldl (fun acc x => acc.filter (fun y => decide (y.2.id ≤ x.2.id)) ++ x :: acc.filter (fun y => decide (x.2.id < y.2.id))) []

/-- Complete the current task of a group (R295): commit or discard its version, perform what it held, decrement the
successor cell. A refused decrement is kept with the lowest live thread, or, in a group that has ended, with its first. -/
def completeTask (s : State) (gid : Nat) (lane : Nat) (pc : DWord) : State :=
  match s.ofThread { gid := gid, lane := lane } with
  | none => s
  | some (l, g) =>
    match g.task with
    | none => s
    | some tk =>
      if tk.versioned ∧ tk.doomed then discardVersion s gid
      else
        let s1 := if tk.versioned then commitVersion s gid tk else s
        let s2 := s1.modGroup gid (fun g => { g with task := none })
        let s3 := (heldInOrder tk.held).foldl (fun s h => performPost s { gid := gid, lane := h.1 } l g h.2) s2
        let a := taskSuccPtr tk.bytes
        if a = 0 then s3
        else
          let f := s3.fresh
          let p : Pend := { id := f.1, pc := pc, dst := .none, op := .taskSucc, addr := a, loc := none, st := .sent }
          performPost f.2 { gid := gid, lane := lane } l g p

/-- A participant of a mismatched group task instruction, or of a TKSPEC that is illegal, traps at completion (R291,
R296). -/
def trapTaskArr (s : State) (gid : Nat) (x : TaskArr) : State :=
  let t : Tid := { gid := gid, lane := x.lane }
  match x.p with
  | some p => trapEntry s t p { p.trap illegalOperand 0 with at_ := 3 }
  | none =>
    match (s.thread? t).bind (fun th => th.wait) with
    | some w => trapNow s t { trapAt w.pc illegalOperand 0 0 0 with at_ := 3 } w.blk
    | none => s

/-- TKSPEC marks the task as versioned; its record holds an entry of its queue again (R296, R298). The entry is back in its queue even if the queue
stands at its occupancy (DESIGN CHOICE, assumption log 92). -/
def makeVersioned (s : State) (g : Group) (tk : Task) : State :=
  if tk.versioned then s
  else
    let q : QRec := { launch := g.launch, queue := tk.queue, bytes := tk.bytes, held := some g.gid }
    let s1 := { s with recs := s.recs ++ [q] }
    s1.fresh.2.modGroup g.gid (fun g => { g with task := some { tk with versioned := true, since := s1.nextId } })

/-- Go on with a group's task rendezvous as far as it can (R291–R296): a mismatch traps; TKSPEC and TKDONE take effect;
TKNEXT completes the current task, and then waits for TASK_DELIVERY. -/
def tryTask (s : State) (gid : Nat) : State :=
  match s.group? gid with
  | none => s
  | some g =>
    match taskMeet g with
    | none =>
      match g.task with
      | some tk =>
        if g.threads.all (fun th => th.exited) ∧ g.retired = false ∧ taskQuiet s g [] tk.versioned then completeTask s gid 0 0 else s
      | none => s
    | some xs =>
      let m := (xs.head?.map (fun x => x.minor)).getD 0
      let lane := (xs.head?.map (fun x => x.lane)).getD 0
      let pc := match (g.threads[lane]?).bind (fun th => th.wait) with
        | some w => w.pc
        | none => ((xs.head?.bind (fun x => x.p)).map (fun p => p.pc)).getD 0
      if xs.any (fun x => x.minor != m) then xs.foldl (fun s x => trapTaskArr s gid x) s
      else
        match m, g.task with
        | 0, none => s
        | 0, some tk => if taskQuiet s g xs tk.versioned then completeTask s gid lane pc else s
        | 1, none => endTaskWaits s gid
        | 1, some tk =>
          if taskQuiet s g xs tk.versioned then
            (if tk.versioned ∧ tk.doomed then completeTask s gid lane pc else completeTask (endTaskWaits s gid) gid lane pc)
          else s
        | _, none => xs.foldl (fun s x => trapTaskArr s gid x) s
        | _, some tk =>
          if taskS tk.bytes ∨ taskV tk.bytes then makeVersioned (endTaskWaits s gid) g tk
          else xs.foldl (fun s x => trapTaskArr s gid x) s

/-! Delivery (R290, R292). -/

/-- Every live thread of a group has arrived in TKNEXT and the group has no task left: the arrivals. -/
def inTknext (g : Group) : Option (List TaskArr) :=
  if g.task.isSome then none
  else match taskMeet g with
    | some xs => if xs.all (fun x => x.minor == 0) then some xs else none
    | none => none

/-- The head of a queue: the first record in it that no running task holds. -/
def queueHead (s : State) (l : LRef) (q : Nat) : Option QRec :=
  s.recs.find? (fun r => r.launch == l && r.queue == q && r.held.isNone)

/-- The record TKNEXT takes under a mask: the head of highest priority, then of the lowest queue (R290). -/
def pickTask (s : State) (l : LRef) (mask : Nat) : Option QRec :=
  let hs := ((List.range 16).filter (fun q => mask / 2 ^ q % 2 == 1)).filterMap (queueHead s l)
  match hs with
  | [] => none
  | h :: r => some (r.foldl (fun m x => if taskPrio m.bytes < taskPrio x.bytes then x else m) h)

/-- A group is blocked in TKNEXT (R292): no live thread of it goes on before TKNEXT is over: each stands at the horizon behind it, in the wait of EXIT,
TRET or a trap for what is outstanding, or in a word that waits for such a result. -/
def blockedInTknext (g : Group) : Bool := (inTknext g).isSome && g.threads.all (fun th => th.exited || th.hz || th.drain.isSome ||
  match th.wait with
  | some w => match w.kind with
    | .result _ => true
    | _ => false
  | none => false)

/-- A thread has posted what its die's task unit has not yet taken. -/
def Thread.posting (th : Thread) : Bool :=
  (th.infl ++ (th.refused ++ th.ts.refused ++ (th.wait.map (fun w => w.rest)).getD []).map (fun x => x.p)).any (fun p => match p.op with
    | .taskPost => true
    | .taskSucc => true
    | _ => false)

/-- A launch is exhausted (R292): every live group is blocked in TKNEXT, every team has started, and every queue is empty, with no post on its way. -/
def exhausted (s : State) (l : Launch) : Bool :=
  decide (l.T ≤ l.nextTeam) && l.flushed.isEmpty && !(s.recs.any (fun r => r.launch == l.ref))
    && (s.groups.filter (fun g => g.launch == l.ref)).all (fun g => g.threads.all (fun th => !th.posting)
          && (g.retired || (g.threads.all (fun th => th.exited) && g.task.isNone) || blockedInTknext g))

/-- The number of the TKNEXT that the arrivals of a group stand in. -/
def arrivedIn (xs : List TaskArr) : Nat := (xs.head?.map (fun x => x.k)).getD 0

/-- A thread's TKNEXT of a number receives sixteen words; its restart point is that TKNEXT (R292, R300). A halted thread keeps it pending (R356). -/
def Thread.takeTask (th : Thread) (k : Nat) (ws : List Word) : Thread :=
  let bind := fun (p : Pend) => match p.op with
    | .tknext i _ => if i = k ∧ p.bound = false then { p with st := .ready (ws.map some), late := th.halted } else p
    | _ => p
  if th.exited then th
  else { th with restart := (th.tkPoints.find? (fun x => x.1 == k)).map (fun x => x.2), tkPoints := th.tkPoints.filter (fun x => x.1 != k),
                 infl := th.infl.map bind }

/-- Sixteen words for every TKNEXT of a number in which the threads of a group wait; an acquire at package scope (R292). -/
def giveTask (s : State) (g : Group) (k : Nat) (ws : List Word) : State :=
  acquireCopies (s.modGroup g.gid (fun g => { g with threads := g.threads.map (fun th => th.takeTask k ws) })) g.core false

/-- Take the first record equal to `r` out of its queue, or let the group hold it (R290, R298). -/
def takeRec (rs : List QRec) (r : QRec) (gid : Nat) : List QRec :=
  match rs with
  | [] => []
  | x :: l => if x = r then (if taskV r.bytes then { x with held := some gid } :: l else l) else x :: takeRec l r gid

/-- TASK_DELIVERY (R290, R292, R296): a group waiting in TKNEXT receives a record; or, the launch being exhausted, every
group receives the zero record. -/
def execTaskDelivery (gid : Nat) (s : State) : Out :=
  match s.ofThread { gid := gid, lane := 0 } with
  | none => notNow
  | some (l, g) =>
    match inTknext g with
    | none => notNow
    | some xs =>
      let mask := match (xs.head?).bind (fun x => x.p) with
        | some p => match p.op with
          | .tknext _ m => bits m 15 0
          | _ => 0
        | none => 0
      if g.resident = false ∨ g.saving then notNow
      else
        match pickTask s l.ref mask with
        | some r =>
          let f := s.fresh
          let tk : Task := { bytes := r.bytes, queue := r.queue, versioned := taskV r.bytes, writes := [], reads := [],
                             doomed := false, since := f.1, held := [] }
          let s1 := { f.2 with recs := takeRec s.recs r gid }
          .next (giveTask (s1.modGroup gid (fun g => { g with task := some tk })) g (arrivedIn xs) (wordsOf 16 (ofBytes r.bytes)))
        | none =>
          if exhausted s l then
            .next ((s.groups.filter (fun g => g.launch == l.ref)).foldl (fun s g => match inTknext g with
              | some ys => giveTask s g (arrivedIn ys) (List.replicate 16 0)
              | none => s) s)
          else notNow

/-! The instructions (R291). -/

/-- The restart point that a TKNEXT keeps (R300). -/
def Thread.point (th : Thread) : Restart :=
  { pc := th.pc, vwb := th.vwb, uwb := th.uwb, preds := th.preds, blk := th.blk, stack := th.stack }

def Thread.arriveTask (th : Thread) : Thread := { th with tkRendez := th.tkRendez + 1 }

/-- TKNEXT (R291, R292). -/
def execTknext (h : Bool) (d a : BitVec 7) (s : State) : Out :=
  issueWith h s (fun c s => do
    let m ← src32 c a
    needCap c 5
    require ([80, 88, 96, 104].contains d.toNat) c.illegal
    require (decide (80 ≤ a.toNat) && decide (a.toNat < 120)) c.illegal
    let dst ← dest c 16 d
    let s1 := s.modThread c.t (fun th => { th.arriveTask with tkPoints := ((c.th.tkRendez + 1).toNat, c.th.point) :: th.tkPoints, barsFlush := true })
    .ok (.met (addPend s1 c.t c.th.pc dst (.tknext (c.th.tkRendez + 1).toNat m) 0 none .sent) (fun s => tryTask s c.t.gid)))

/-- TKDONE (R291, R295). -/
def execTkdone (h : Bool) (s : State) : Out :=
  issueWith h s (fun c s => do
    needCap c 5
    .ok (.wait (s.modThread c.t Thread.arriveTask) (.tkdone (c.th.tkRendez + 1).toNat)))

/-- TKSPEC (R275, R291, R296). -/
def execTkspec (h : Bool) (s : State) : Out :=
  issueWith h s (fun c s => do
    needCap c 5
    require (c.l.has 8 && c.l.hdr.speculate) c.illegal
    .ok (.wait (s.modThread c.t Thread.arriveTask) (.tkspec (c.th.tkRendez + 1).toNat)))

/-- TKPOST (R293): the task unit reads the record after every earlier store of the thread. -/
def execTkpost (h : Bool) (a : BitVec 7) (s : State) : Out :=
  issueWith h s (fun c s => do
    let p ← src64 c a
    needCap c 5
    require (addrTag p == 0 || addrTag p == 1) (c.illegalK 1)
    checkThat (accessCheck s c p 64 1)
    .ok (.done (access (s.modThread c.t (fun th => { th with barsFlush := true })) c p .none .taskPost)))

/-- TKSUCC (R294). -/
def execTksucc (h : Bool) (a : BitVec 7) (s : State) : Out :=
  issueWith h s (fun c s => do
    let p ← src64 c a
    needCap c 5
    require (addrTag p == 0 && p.toNat % 16 == 0) (c.illegalK 3)
    checkThat (accessCheck s c p 16 3)
    .ok (.done (access (s.modThread c.t (fun th => { th with barsFlush := true })) c p .none .taskSucc)))

/-- The current thread executes the word: its block does not skip it. -/
def executes (s : State) : Bool := match s.cur.bind (fun t => s.thread? t) with
  | some th => th.blk.head? != some false
  | none => false

/-- TKABORT (R300): acts once per task; the thread that executes it restarts after draining its results. -/
def execTkabort (h : Bool) (s : State) : Out :=
  let v := match s.cur with
    | some t => inVersion s t
    | none => false
  issueWith (h || (v && executes s)) s (fun c s => do
    needCap c 5
    if c.th.redo then .ok (.done s)
    else
      require (inVersion s c.t) c.illegal
      .ok (.done (discardVersion s c.t.gid)))

end Sys2Proof.Machine
end

