-- ==== Sys2Proof/Machine/Lnch.lean ====
section
/-! DEFINITION. Lnch.lean: launches from the device (R301–R306). -/
namespace Sys2Proof.Machine

/-- A launch identity of a die still names something (R303). -/
def idTaken (s : State) (die n : Nat) : Bool :=
  s.launches.any (fun l => l.ref == ⟨die, n⟩) || s.pool.any (fun p => p.ref == ⟨die, n⟩) || s.kept.any (fun k => k.ref == ⟨die, n⟩)

/-- The first identity from `n` on that is free, wrapping from 2^32 − 1 to 1 (R303); with fuel for those taken. -/
def freeId (s : State) (die : Nat) : Nat → Nat → Nat
  | n, 0 => n
  | n, fuel + 1 => if idTaken s die n then freeId s die (if n = 2 ^ 32 - 1 then 1 else n + 1) fuel else n

/-- Take the next launch identity of a die (R303). -/
def takeId (s : State) (die : Nat) : Nat × State :=
  let n := freeId s die ((s.dies.getD die DieRegs.reset).nextLaunch) (s.launches.length + s.pool.length + s.kept.length)
  (n, s.modDie die (fun d => { d with nextLaunch := if n = 2 ^ 32 - 1 then 1 else n + 1 }))

/-- The status of a child of a launch (R304); none where the identity names none. -/
def childStatus (s : State) (l : Launch) (id : Nat) : Option Word :=
  let ref : LRef := ⟨l.ref.die, id⟩
  match s.kept.find? (fun k => k.ref == ref && k.parent == l.ref) with
  | some k => some k.status
  | none =>
    if s.pool.any (fun p => p.ref == ref && p.pl == l.ref) then some (statusWord 0 0 0)
    else (s.launches.find? (fun x => x.ref == ref && x.parent == some l.ref)).map (fun x => statusWord 0 x.state 0)

/-- UNKNOWN (R304). -/
def unknownStatus : Word := statusWord 0 3 7

/-- The state of a launch status is 3 or 4 (R304). -/
def statusEnded (w : Word) : Bool := decide (3 ≤ bits w 15 8)

/-- LAUNCH (R302): the thread waits for a free entry of the pending pool. -/
def execLaunch (h : Bool) (d a b : BitVec 7) (s : State) : Out :=
  issueWith h s (fun c s => do
    let dst ← dest c 1 d
    let hd ← src64 c a
    let q ← src c 4 b
    require (!dst.isUni) c.illegal
    needCap c 6
    versionCheck c 0 false
    let pw := q.getD 3 0
    require (bits pw 31 4 == 0) c.illegal
    require (addrTag hd == 0) c.illegal
    checkThat (accessCheck s c hd 1 1)
    let prio := if bit pw 3 then some (bits pw 2 0) else none
    let s1 := s.modThread c.t (fun th => { th with barsFlush := true })
    .ok (.wait s1 (.launch hd (pairOf (q.getD 0 0) (q.getD 1 0)) (q.getD 2 0) prio dst)))

/-- The pool of a die has a free entry, and every access that the release of LAUNCH covers is done (R302). -/
def launchReady (s : State) (th : Thread) (die : Nat) : Bool :=
  decide ((s.pool.filter (fun p => p.ref.die == die)).length < 4096) && releaseReady s th s.nextId 4 false

/-- The child enters the pool, or is refused with DEPTH; the thread receives its identity (R302). -/
def startChild (s : State) (l : Launch) (hd argp : DWord) (T : Word) (prio : Option Nat) : Nat × State :=
  let q := takeId s l.ref.die
  let ref : LRef := ⟨l.ref.die, q.1⟩
  if l.hdr.maxDepth < l.depth + 1 then
    (q.1, { q.2 with kept := q.2.kept ++ [{ ref := ref, parent := l.ref, status := statusWord 0 4 6 }] })
  else
    let p : Pending := { ref := ref, pl := l.ref, depth := l.depth + 1, header := hd, argp := argp, T := T.toNat, prio := prio,
                         asid := l.asid, podKey := l.podKey }
    (q.1, { q.2 with pool := q.2.pool ++ [p] })

/-- LWAIT (R304). -/
def execLwait (h : Bool) (d a : BitVec 7) (s : State) : Out :=
  issueWith h s (fun c s => do
    let dst ← dest c 1 d
    let x ← src32 c a
    require (!dst.isUni) c.illegal
    needCap c 6
    .ok (.done (addPend s c.t c.th.pc dst (.lwait x) 0 none .sent)))

/-- LSTAT (R304). -/
def execLstat (h : Bool) (d a : BitVec 7) (s : State) : Out :=
  issueWith h s (fun c s => do
    let dst ← dest c 1 d
    let x ← src32 c a
    require (!dst.isUni) c.illegal
    needCap c 6
    .ok (.done (putCtx s (c.write dst [(childStatus s c.l x.toNat).getD unknownStatus]))))

/-- ROLE (R306). -/
def execRole (h : Bool) (d a b : BitVec 7) (s : State) : Out :=
  issueReg h s (fun c => do
    let dst ← dest c 1 d
    let n ← src32 c a
    require (!dst.isUni) c.illegal
    require (decide (b.toNat ≤ 5)) c.illegal
    require (n != 0) c.illegal
    .ok (c.write dst [BitVec.ofNat 32 ((c.g.idx + c.th.arrivals.getD b.toNat 0 % 2 ^ 32) % n.toNat)]))

end Sys2Proof.Machine
end

