-- ==== Sys2Proof/Machine/Aq.lean ====
section
/-! DEFINITION. Aq.lean: queries to the bank attention units (R307–R328, R445): the descriptor, the scan, the AQ
instructions. -/
namespace Sys2Proof.Machine

/-! What a unit reads at issue: a descriptor, a page list, a query vector (R326, R417, R445). -/

/-- The outcome of such a read: a line is EMPTY; a fault of a load, taken at issue; the bytes. -/
inductive RdRes where
  | wait
  | fault (cause detail : Nat)
  | ok (bs : List Byte)

/-- The memory keys of `n` pieces of `w` bytes from a tag 0x0 address, each translated on its own. -/
def pieceKeys (s : State) (asid : Nat) (p : Perm) (w : Nat) : Nat → DWord → Except Deny (List Nat)
  | 0, _ => .ok []
  | n + 1, a =>
    match translate s (addrDie a) asid (addrOff a) p with
    | .error d => .error d
    | .ok (lvl, e) =>
      match pieceKeys s asid p w n (a + BitVec.ofNat 64 w) with
      | .error d => .error d
      | .ok ks => .ok (hbmKey (addrDie a) (physOf lvl e (addrOff a)) :: ks)

/-- Read `n` bytes, a multiple of 8, of scratch or of package memory for a unit. -/
def unitRead (s : State) (l : Launch) (g : Group) (a : DWord) (n : Nat) : RdRes :=
  if addrTag a = 0 then
    match pieceKeys s l.asid .read 8 (n / 8) a with
    | .error d => .fault d.cause d.detail
    | .ok ks => if ks.any (fun k => poisoned s k 8) then .fault dataError 0 else .ok (ks.flatMap (memRead s.mem 8))
  else
    match localKey l g a with
    | some key =>
      let st := (List.range n).map (fun i => lineState s (key + i))
      if st.contains 1 then .wait else if st.contains 2 then .fault copyFault 0 else .ok (memRead s.mem n key)
    | none => .fault addressSpace 0

/-- Count the uncorrectable error that such a read met, if any (R442). -/
def countUnit (s : State) (l : Launch) (a : DWord) (n : Nat) : State := if addrTag a = 0 then countReads s l.asid 8 (n / 8) a else s

/-! The descriptor (R311, R312). -/

def fieldN (d : List Byte) (off n : Nat) : Nat := ofBytes ((d.drop off).take n)
def fieldP (d : List Byte) (off : Nat) : DWord := BitVec.ofNat 64 (fieldN d off 8)
def zeroAt (d : List Byte) (off n : Nat) : Bool := ((d.drop off).take n).all (fun b => b == 0)

def aqQP (d : List Byte) : DWord := fieldP d 0x00
def aqReply (d : List Byte) : DWord := fieldP d 0x08
def aqScale (d : List Byte) : Word := BitVec.ofNat 32 (fieldN d 0x10 4)
def aqBound (d : List Byte) : Nat := fieldN d 0x14 4
def aqD (d : List Byte) : Nat := fieldN d 0x18 2
def aqFmt (d : List Byte) : Nat := fieldN d 0x1A 1
def aqPages (d : List Byte) : Nat := fieldN d 0x1B 1
def aqNf (d : List Byte) : BitVec 16 := BitVec.ofNat 16 (fieldN d 0x1C 2)
def aqTpp (d : List Byte) : Nat := fieldN d 0x1E 2
def aqKoff (d : List Byte) : Nat := 16 * fieldN d 0x20 2
def aqVoff (d : List Byte) : Nat := 16 * fieldN d 0x22 2
def aqRstr (d : List Byte) : Nat := 16 * fieldN d 0x24 2
def aqMark (d : List Byte) : Bool := fieldN d 0x26 2 % 2 == 1
def aqPL (d : List Byte) : DWord := fieldP d 0x28
/-- eb of R312: bytes of an element. -/
def aqEb (d : List Byte) : Nat := if aqFmt d = 2 then 1 else 2
/-- SZ of R315. -/
def aqSlot (d : List Byte) : Nat := 128 * cdiv (16 + 4 * aqD d) 128
/-- n_p of R312. -/
def aqCount (d : List Byte) (p : Nat) : Nat := min (aqTpp d) (aqBound d - p * aqTpp d)

/-- Row 1 of R445 for a query. -/
def aqFields (d : List Byte) : Bool :=
  let last := aqRstr d * (aqTpp d - 1) + aqD d * aqEb d
  decide (16 ≤ aqD d) && decide (aqD d ≤ 256) && aqD d % 16 == 0 && decide (aqFmt d ≤ 2) && decide (1 ≤ aqPages d)
    && decide (aqPages d ≤ 16)
    && (if aqFmt d = 2 then nfLegal (aqNf d) && decide (5 ≤ (nfOf (aqNf d)).width) && decide ((nfOf (aqNf d)).width ≤ 8) else aqNf d == 0)
    && decide (1 ≤ aqTpp d) && decide (aqTpp d ≤ 256) && decide (1 ≤ aqRstr d) && decide (fieldN d 0x26 2 ≤ 1) && zeroAt d 0x30 16
    && decide (aqKoff d + last ≤ 65536) && decide (aqVoff d + last ≤ 65536) && (!aqMark d || addrTag (aqReply d) == 1)

/-- A trap of a descriptor's read or check, at issue: a fault of a load. KIND is 1, as for the read of the descriptor, in every row (R335 and R445 leave
it open: DESIGN CHOICE, assumption log 97). -/
def descTrap (pc : DWord) (cause detail : Nat) (a : DWord) : TrapRec := trapAt pc cause a detail 1

/-- ILLEGAL_OPERAND of a descriptor (R445): no access has faulted. -/
def illegalAt (pc : DWord) : TrapRec := trapAt pc illegalOperand 0 0 0

/-- The first pointer that breaks a test. -/
def badPtr (l : List (DWord × Nat)) (ok : DWord → Nat → Bool) : Option DWord :=
  (l.find? (fun x => !ok x.1 x.2)).map (fun x => x.1)

def tag01 (a : DWord) : Bool := addrTag a == 0 || addrTag a == 1

/-- A pointer is well formed, and the extent that begins there, where it lies in package memory, stays in that space (R311). An extent that runs past
the end of its space breaks row 2 of R445, which names no trap for it (DESIGN CHOICE, assumption log 96). -/
def spaceOk (a : DWord) (n : Nat) : Bool :=
  tagOk a && (addrTag a != 0 || (tagOk (a + BitVec.ofNat 64 (n - 1)) && addrTag (a + BitVec.ofNat 64 (n - 1)) == 0))

/-- Rows 1–6 of R445 for a query: the trap of the first that fails. -/
def aqCheck (l : Launch) (g : Group) (pc : DWord) (d : List Byte) : Option TrapRec :=
  let ps := [(aqQP d, 16), (aqReply d, 128), (aqPL d, 8)]
  let ext := [(aqQP d, 4 * aqD d), (aqReply d, aqPages d * aqSlot d), (aqPL d, 8 * aqPages d)]
  if aqFields d = false then some (illegalAt pc)
  else match badPtr ext spaceOk with
  | some a => some (descTrap pc addressSpace 0 a)
  | none =>
    if ps.any (fun x => !tag01 x.1) then some (illegalAt pc)
    else match badPtr ps (fun a n => a.toNat % n == 0) with
    | some a => some (descTrap pc misaligned 0 a)
    | none => (badPtr ext (fun a n => addrTag a == 0 || decide (localOff a + n ≤ localLen l g a))).map (descTrap pc scratchRange 0)

/-- Row 8 of R445: the page pointers, the first bad one of the list by its first failing check. -/
def pageCheck (pc : DWord) (ps : List DWord) : Option TrapRec :=
  ps.findSome? (fun a =>
    if tagOk a = false then some (descTrap pc addressSpace 0 a)
    else if addrTag a ≠ 0 then some (illegalAt pc)
    else if a.toNat % 65536 ≠ 0 then some (descTrap pc misaligned 0 a)
    else none)

/-! The scan (R313). -/

/-- An element of a row. -/
def aqElem (s : State) (d : List Byte) (key i : Nat) : Val :=
  if aqFmt d = 2 then decodeNf (nfOf (aqNf d)) (memByte s.mem (key + i)).toNat
  else decodeF (if aqFmt d = 0 then bf16 else fp16) (readNat s (key + 2 * i) 2)

/-- A row of D elements. -/
def aqRow (s : State) (d : List Byte) (key : Nat) : List Val := (List.range (aqD d)).map (aqElem s d key)

/-- One score: the exact dot product times SCALE, rounded once. -/
def aqScore (s : State) (d : List Byte) (qv : List Word) (key : Nat) : Word :=
  f32 (mulV (sumV ((qv.zip (aqRow s d key)).map (fun x => mulV (v32 x.1) x.2))) (v32 (aqScale d)))

def nanWord : Word := BitVec.ofNat 32 nan32
def ninfWord : Word := BitVec.ofNat 32 negInf32

/-- The neutral triple (R314): m, l, then o. -/
def neutralTriple (n : Nat) : List Word := ninfWord :: 0 :: List.replicate n 0

/-- Pass 2 of R313 over the remaining scores: none where a value row holds an uncorrectable error. -/
def aqValues (s : State) (d : List Byte) (base : Nat) (m : Word) : Nat → List Word → Word → List Word → Option (Word × List Word)
  | _, [], l, o => some (l, o)
  | t, x :: xs, l, o =>
    let w := expSub x m
    let key := base + aqVoff d + aqRstr d * t
    if w = 0 then aqValues s d base m (t + 1) xs l o
    else if poisoned s key (aqD d * aqEb d) then none
    else
      aqValues s d base m (t + 1) xs (fpAdd l w)
        ((o.zip (aqRow s d key)).map (fun y => f32 (addV (v32 y.1) (mulV (v32 w) y.2))))

/-- The triple of a page whose frame begins at a key (R313); none where the scan reads an uncorrectable error. -/
def aqScan (s : State) (d : List Byte) (qv : List Word) (base n : Nat) : Option (List Word) :=
  let kk := fun (t : Nat) => base + aqKoff d + aqRstr d * t
  if (List.range n).any (fun t => poisoned s (kk t) (aqD d * aqEb d)) then none
  else
    let sc := (List.range n).map (fun t => aqScore s d qv (kk t))
    let m := sc.foldl fpMax ninfWord
    if (v32 m).isNan ∨ m = BitVec.ofNat 32 inf32 then some (List.replicate (aqD d + 2) nanWord)
    else if m = ninfWord then some (neutralTriple (aqD d))
    else (aqValues s d base m 0 sc 0 (List.replicate (aqD d) 0)).map (fun r => m :: r.1 :: r.2)

/-! The instructions (R325–R328). -/

/-- AQPOST (R326): the descriptor pointer is checked; the thread waits until the query is posted. -/
def execAqpost (h : Bool) (d a : BitVec 7) (s : State) : Out :=
  issueWith h s (fun c s => do
    let dst ← dest c 1 d
    let p ← src64 c a
    require (!dst.isUni) c.illegal
    needCap c 7
    versionCheck c 1 false
    require (tag01 p) c.illegal
    checkThat (accessCheck s c p 64 1)
    .ok (.wait (s.modThread c.t (fun th => { th with barsFlush := true })) (.post 0 p 0 dst [])))

/-- What a try to post comes to: not yet, a trap, or posted with an identity. -/
inductive PostRes where
  | wait
  | hold (got : List Byte)
  | trap (s : State) (r : TrapRec)
  | done (s : State) (id : Word)

/-- Reply lines (R315). -/
def replyLines (l : Launch) (g : Group) (d : List Byte) : List Nat :=
  match localKey l g (aqReply d) with
  | some k => (List.range (aqPages d * aqSlot d / 128)).map (fun i => k / 128 + i)
  | none => []

/-- A page as its AQPOST finds it (R319, R326): its frame with the bytes and errors there, or the code with which its home die refuses it. -/
def pageAt (s : State) (asid : Nat) (d : List Byte) (a : DWord) (i : Nat) : QPage :=
  let n := aqCount d i
  let x : QPage := { ptr := a, n := n, frame := 0, cells := [], bad := [], die := addrDie a, bau := 0, st := 0, code := 0, triple := [], cxl := false }
  if n = 0 then { x with st := 2, triple := neutralTriple (aqD d) }
  else match translate s x.die asid (addrOff a) .read with
  | .error e => { x with code := if e.cause = dataError then 1 else 2 }
  | .ok (lvl, e) =>
    if leafBR e = false then { x with code := 3 }
    else
      let pa := physOf lvl e (addrOff a)
      let inFrame := fun (k : Nat) => decide (hbmKey x.die (pa / 65536 * 65536) ≤ k) && decide (k < hbmKey x.die (pa / 65536 * 65536) + 65536)
      { x with frame := pa / 65536, bau := 256 * stackOf x.die pa + bitsN pa 23 16, cells := s.mem.filter (fun c => inFrame c.1),
               bad := s.poison.filter (fun b => inFrame (b.1 * 64)) }

/-- The query and its slot (R326). -/
def postQuery (s : State) (t : Tid) (l : Launch) (g : Group) (th : Thread) (k : Nat) (d : List Byte) (qv : List Word) (ps : List DWord) :
    State × Word :=
  let f := s.fresh
  let seq := (th.qseq + 1) % 16384
  let q : Query := { id := f.1, t := t, slot := k, seq := seq, core := g.core, launch := l.ref, asid := l.asid, desc := d, qv := qv,
                     pages := ps.zipIdx.map (fun x => pageAt s l.asid d x.1 x.2) }
  let s1 := f.2.modThread t (fun th =>
    { th with qseq := seq, qslots := th.qslots.set k { busy := true, seq := seq, ended := false, status := 0, route := 0 } })
  let ls := if aqMark d then replyLines l g d else []
  (changeLines { s1 with queries := s1.queries ++ [q] } ls 1, BitVec.ofNat 32 (seq * 4 + k))

/-- The lowest free slot. -/
def freeSlot (l : List Slot) : Option Nat := l.findIdx? (fun x => !x.busy)

/-- Post a query whose descriptor, page list and vector have been read and checked (R326): once a slot of the thread is free, the core has room, and
the thread's earlier stores to its pages and reply lines are performed (R318). -/
def slotQuery (s : State) (t : Tid) (l : Launch) (g : Group) (th : Thread) (d pl qb : List Byte) : PostRes :=
  let id := s.nextId
  let ps := (List.range (aqPages d)).map (fun i => fieldP pl (8 * i))
  let kept := aqMark d && (ownWrites s l g th id (aqReply d) (aqPages d * aqSlot d) || (replyLines l g d).any (lineKept s t id))
  match freeSlot th.qslots with
  | none => .hold (d ++ pl ++ qb)
  | some k =>
    if decide (64 ≤ (s.queries.filter (fun q => q.core == g.core)).length) || ps.any (fun a => ownWrites s l g th id a 65536) || kept then
      .hold (d ++ pl ++ qb)
    else
      let r := postQuery s t l g th k d (wordsOf (aqD d) (ofBytes qb)) ps
      .done r.1 r.2

/-- Try to post a query: read and check what R326 and R445 name, after the thread's earlier stores (R318); it is read and checked
once. -/
def tryQuery (s : State) (t : Tid) (l : Launch) (g : Group) (th : Thread) (pc p : DWord) (got : List Byte) : PostRes :=
  let id := s.nextId
  if got ≠ [] then
    let d := got.take 64
    slotQuery s t l g th d ((got.drop 64).take (8 * aqPages d)) (got.drop (64 + 8 * aqPages d))
  else if ownWrites s l g th id p 64 then .wait
  else match unitRead s l g p 64 with
  | .wait => .wait
  | .fault c d => .trap (countUnit s l p 64) (descTrap pc c d p)
  | .ok d =>
    match aqCheck l g pc d with
    | some r => .trap s r
    | none =>
      if ownWrites s l g th id (aqPL d) (8 * aqPages d) ∨ ownWrites s l g th id (aqQP d) (4 * aqD d) then .wait
      else match unitRead s l g (aqPL d) (8 * aqPages d), unitRead s l g (aqQP d) (4 * aqD d) with
      | _, .fault c x => .trap (countUnit s l (aqQP d) (4 * aqD d)) (descTrap pc c x (aqQP d))
      | .fault c x, .ok _ => .trap (countUnit s l (aqPL d) (8 * aqPages d)) (descTrap pc c x (aqPL d))
      | .ok pl, .ok qb =>
        let ps := (List.range (aqPages d)).map (fun i => fieldP pl (8 * i))
        match pageCheck pc ps with
        | some r => .trap s r
        | none => slotQuery s t l g th d pl qb
      | _, _ => .wait

/-- CODE and NBAD of R328 over the pages that are written or refused. -/
def queryCodes (ps : List QPage) : Nat :=
  let bad := ps.filter (fun p => p.st == 3 && p.code != 0)
  ((bad.head?.map (fun p => p.code)).getD 0) * 2 ^ 24 + bad.length * 2 ^ 19

/-- The query status word (R328). -/
def queryStatus (s : State) (t : Tid) (g : Group) (th : Thread) (id : Word) : Word :=
  let infl := (s.queries.filter (fun q => q.core == g.core)).length * 2 ^ 8
  match th.qslots[bits id 1 0]? with
  | some x =>
    if bits id 31 16 ≠ 0 ∨ x.seq ≠ bits id 15 2 ∨ (!x.busy && !x.ended) then BitVec.ofNat 32 infl
    else if x.ended then BitVec.ofNat 32 (x.status.toNat + infl + 2)
    else match s.queries.find? (fun q => q.t == t && q.slot == bits id 1 0) with
    | some q => BitVec.ofNat 32 (queryCodes q.pages + infl + 1)
    | none => BitVec.ofNat 32 infl
  | none => BitVec.ofNat 32 infl

/-- AQWAIT (R328). -/
def execAqwait (h : Bool) (d a : BitVec 7) (s : State) : Out :=
  issueWith h s (fun c s => do
    let dst ← dest c 1 d
    let x ← src32 c a
    require (!dst.isUni) c.illegal
    needCap c 7
    versionCheck c 0 false
    .ok (.done (addPend s c.t c.th.pc dst (.aqwait x.toNat) 0 none .sent)))

/-- AQSTAT (R328). -/
def execAqstat (h : Bool) (d a : BitVec 7) (s : State) : Out :=
  issueWith h s (fun c s => do
    let dst ← dest c 1 d
    let x ← src32 c a
    require (!dst.isUni) c.illegal
    needCap c 7
    versionCheck c 0 false
    .ok (.done (putCtx s (c.write dst [queryStatus s c.t c.g c.th x]))))

/-- AQCANCEL (R327): CXL is asked for every page whose triple is not formed. -/
def execAqcancel (h : Bool) (a : BitVec 7) (s : State) : Out :=
  issueWith h s (fun c s => do
    let x ← src32 c a
    needCap c 7
    versionCheck c 0 false
    let ask := fun (q : Query) =>
      if q.t = c.t ∧ q.slot = bits x 1 0 ∧ q.seq = bits x 15 2 ∧ bits x 31 16 = 0 then
        { q with pages := q.pages.map (fun p => if p.st < 2 then { p with cxl := true } else p) } else q
    .ok (.done { s with queries := s.queries.map ask }))

/-! The steps of a query. -/

def State.modQuery (s : State) (id : Nat) (f : Query → Query) : State :=
  { s with queries := s.queries.map (fun q => if q.id = id then f q else q) }

/-- A page of a query. -/
def State.qpage? (s : State) (id p : Nat) : Option (Query × QPage) :=
  (s.queries.find? (fun q => q.id == id)).bind (fun q => (q.pages[p]?).map (fun x => (q, x)))

def State.setPage (s : State) (id p : Nat) (f : QPage → QPage) : State :=
  s.modQuery id (fun q => { q with pages := q.pages.modify p f })

/-- A page gets the neutral triple with a code. -/
def neutralPage (q : Query) (code : Nat) (x : QPage) : QPage :=
  { x with st := 2, code := code, triple := neutralTriple (aqD q.desc) }

/-- QRY (R310, R326): the home die has translated the page pointer, and the page enters its unit's queue of 16, or is refused. -/
def execQry (qid page : Nat) (s : State) : Out :=
  match s.qpage? qid page with
  | none => notNow
  | some (q, x) =>
    if x.st ≠ 0 then notNow
    else if x.code ≠ 0 then
      .next (((if x.code = 1 then countWalk s x.die q.asid (addrOff x.ptr) else s)).setPage qid page (neutralPage q x.code))
    else if 16 ≤ (s.bauq.filter (fun y => y.1 == x.bau)).length then notNow
    else
      let s1 := s.setPage qid page (fun x => { x with st := 1 })
      .next { s1 with bauq := s1.bauq ++ [(x.bau, qid, page)] }

/-- BAU_SCAN (R313, R319, R323): a unit scans the page at the head of its queue. -/
def execBauScan (bau : Nat) (s : State) : Out :=
  match s.bauq.find? (fun y => y.1 == bau) with
  | none => notNow
  | some (_, qid, page) =>
    let s1 := { s with bauq := s.bauq.erase (bau, qid, page) }
    match s.qpage? qid page with
    | none => .next s1
    | some (q, x) =>
      let base := hbmKey x.die (x.frame * 65536)
      match aqScan { s with mem := x.cells, poison := x.bad ++ s.poison } q.desc q.qv base x.n with
      | some tr => .next (s1.setPage qid page (fun x => { x with st := 2, code := 0, triple := tr }))
      | none => .next ((countErr s1 base).setPage qid page (neutralPage q 1))

/-- REFRESH (R321): a refresh suspends a scan and changes nothing. -/
def execRefresh (_bau : Nat) (s : State) : Out := .next s

/-- CXL (R310, R327): a page asked to be cancelled, whose triple is not formed, answers with code 4. -/
def execCxl (qid page : Nat) (s : State) : Out :=
  match s.qpage? qid page with
  | none => notNow
  | some (q, x) =>
    if x.st < 2 ∧ x.cxl then .next { s.setPage qid page (neutralPage q 4) with bauq := s.bauq.filter (fun y => y.2 != (qid, page)) }
    else notNow

/-- The bytes of a reply slot (R315). -/
def replyBytes (q : Query) (x : QPage) : List Byte :=
  let w := x.triple
  let st := if x.code = 0 then x.n * 2 ^ 16 else x.code
  let body := bytesOf 4 (w.getD 0 0).toNat ++ bytesOf 4 (w.getD 1 0).toNat ++ bytesOf 4 st ++ bytesOf 4 0
    ++ (w.drop 2).flatMap (fun y => bytesOf 4 y.toNat)
  body ++ List.replicate (aqSlot q.desc - body.length) 0

/-- A query whose every slot is written or refused ends; its status stays in the thread's slot (R320, R328). -/
def endQuery (s : State) (qid : Nat) : State :=
  match s.queries.find? (fun q => q.id == qid) with
  | none => s
  | some q =>
    if q.pages.all (fun p => p.st == 3) then
      let s1 := { s with queries := s.queries.filter (fun x => x.id != qid) }
      s1.modThread q.t (fun th =>
        { th with qslots := th.qslots.set q.slot { busy := false, seq := q.seq, ended := true, status := BitVec.ofNat 32 (queryCodes q.pages), route := 0 } })
    else s

/-- RPL (R310, R315, R316): the controller writes a reply slot whose triple is formed, once the engine has read the FULL lines of it that it holds
(R266). -/
def execRpl (qid page : Nat) (s : State) : Out :=
  match s.qpage? qid page with
  | none => notNow
  | some (q, x) =>
    if x.st ≠ 2 then notNow
    else
      let a := aqReply q.desc + BitVec.ofNat 64 (page * aqSlot q.desc)
      let bs := replyBytes q x
      let done := fun (s : State) (code : Nat) => Host.Outcome.next (endQuery (s.setPage qid page (fun x => { x with st := 3, code := code })) qid)
      if addrTag a = 0 then
        match pieceKeys s q.asid .write 128 (bs.length / 128) a with
        | .error _ =>
          let bad := (List.range (bs.length / 128)).findSome? (fun i => leafErr s (addrDie a) q.asid (addrOff (a + BitVec.ofNat 64 (128 * i))))
          done (match bad with
            | some k => countErr s k
            | none => s) 5
        | .ok ks => done ((ks.zipIdx).foldl (fun s k => pocWrite s none k.1 ((bs.drop (128 * k.2)).take 128)) s) x.code
      else
        match s.ofThread q.t with
        | none => done s x.code
        | some (l, g) =>
          match localKey l g a with
          | some k =>
            if (List.range (bs.length / 128)).any (fun i => engineHeld s q.core (k + 128 * i) none) then notNow
            else
            let s1 := pocWrite s none k bs
            done (if aqMark q.desc then { s1 with lines := setLines s1.lines k 0 (bs.length / 128) } else s1) x.code
          | none => done s x.code

end Sys2Proof.Machine
end

