-- ==== Sys2Proof/Machine/Atom.lean ====
section
/-! DEFINITION. Atom.lean: ATOM and ATOM.AR (R206, R210–R212). What each minor writes is `atomicNew`. -/
namespace Sys2Proof.Machine

/-- The registers of the destination and of the operand of a minor (R210). -/
def atomRegs (minor : Nat) : Nat × Nat :=
  match minor with
  | 2 => (1, 2)
  | 12 => (2, 2)
  | 13 => (2, 4)
  | 14 => (2, 2)
  | _ => (1, 1)

/-- The minors that a host address takes (R212). -/
def hostAtomic (minor : Nat) : Bool := [0, 1, 2, 12, 13, 14].contains minor

/-- An atomic of a minor, relaxed or acquire-release. -/
def atom (h : Bool) (minor : Nat) (ar : Bool) (d a b : BitVec 7) (s : State) : Out :=
  issueWith h s (fun c s => do
    let r := atomRegs minor
    let dst ← dest c r.1 d
    let p ← src64 c a
    let ops ← src c r.2 b
    require (!dst.isUni) c.illegal
    versionCheck c 3 false
    require (addrTag p != 2 || hostAtomic minor) (c.illegalK 3)
    checkThat (accessCheck s c p (4 * r.1) 3)
    let s1 := s.modThread c.t (fun th => { th with barsFlush := true })
    .ok (.done (access s1 c p dst (.atomic minor ops ar ar))))

/-- AADD (R210): writes x + b, delivers the old value. -/
def execAadd (h : Bool) (d a b : BitVec 7) (s : State) : Out := atom h 0 false d a b s

/-- AXCH (R210): writes b, delivers the old value. -/
def execAxch (h : Bool) (d a b : BitVec 7) (s : State) : Out := atom h 1 false d a b s

/-- ACAS (R210): writes reg(b+1) if x = reg(b), delivers the old value. -/
def execAcas (h : Bool) (d a b : BitVec 7) (s : State) : Out := atom h 2 false d a b s

/-- AMIN (R210): writes the lesser, signed, delivers the old value. -/
def execAmin (h : Bool) (d a b : BitVec 7) (s : State) : Out := atom h 3 false d a b s

/-- AMAX (R210): writes the greater, signed, delivers the old value. -/
def execAmax (h : Bool) (d a b : BitVec 7) (s : State) : Out := atom h 4 false d a b s

/-- AMINU (R210): writes the lesser, unsigned, delivers the old value. -/
def execAminu (h : Bool) (d a b : BitVec 7) (s : State) : Out := atom h 5 false d a b s

/-- AMAXU (R210): writes the greater, unsigned, delivers the old value. -/
def execAmaxu (h : Bool) (d a b : BitVec 7) (s : State) : Out := atom h 6 false d a b s

/-- AAND (R210): writes x AND b, delivers the old value. -/
def execAand (h : Bool) (d a b : BitVec 7) (s : State) : Out := atom h 7 false d a b s

/-- AOR (R210): writes x OR b, delivers the old value. -/
def execAor (h : Bool) (d a b : BitVec 7) (s : State) : Out := atom h 8 false d a b s

/-- AXOR (R210): writes x XOR b, delivers the old value. -/
def execAxor (h : Bool) (d a b : BitVec 7) (s : State) : Out := atom h 9 false d a b s

/-- AINCW (R210): writes 0 if x ≥ b unsigned, else x + 1, delivers the old value. -/
def execAincw (h : Bool) (d a b : BitVec 7) (s : State) : Out := atom h 10 false d a b s

/-- AFADD (R210): writes x + b in FP32, delivers the old value. -/
def execAfadd (h : Bool) (d a b : BitVec 7) (s : State) : Out := atom h 11 false d a b s

/-- AADD64 (R210): writes x + b, delivers the old value. -/
def execAadd64 (h : Bool) (d a b : BitVec 7) (s : State) : Out := atom h 12 false d a b s

/-- ACAS64 (R210): writes the new pair if x equals the compare pair, delivers the old value. -/
def execAcas64 (h : Bool) (d a b : BitVec 7) (s : State) : Out := atom h 13 false d a b s

/-- AXCH64 (R210): writes b, delivers the old value. -/
def execAxch64 (h : Bool) (d a b : BitVec 7) (s : State) : Out := atom h 14 false d a b s

/-- AFMAX (R210): writes FMAX(x, b), delivers the old value. -/
def execAfmax (h : Bool) (d a b : BitVec 7) (s : State) : Out := atom h 15 false d a b s

/-- AADD.AR (R210): writes x + b, delivers the old value. -/
def execAaddAr (h : Bool) (d a b : BitVec 7) (s : State) : Out := atom h 0 true d a b s

/-- AXCH.AR (R210): writes b, delivers the old value. -/
def execAxchAr (h : Bool) (d a b : BitVec 7) (s : State) : Out := atom h 1 true d a b s

/-- ACAS.AR (R210): writes reg(b+1) if x = reg(b), delivers the old value. -/
def execAcasAr (h : Bool) (d a b : BitVec 7) (s : State) : Out := atom h 2 true d a b s

/-- AMIN.AR (R210): writes the lesser, signed, delivers the old value. -/
def execAminAr (h : Bool) (d a b : BitVec 7) (s : State) : Out := atom h 3 true d a b s

/-- AMAX.AR (R210): writes the greater, signed, delivers the old value. -/
def execAmaxAr (h : Bool) (d a b : BitVec 7) (s : State) : Out := atom h 4 true d a b s

/-- AMINU.AR (R210): writes the lesser, unsigned, delivers the old value. -/
def execAminuAr (h : Bool) (d a b : BitVec 7) (s : State) : Out := atom h 5 true d a b s

/-- AMAXU.AR (R210): writes the greater, unsigned, delivers the old value. -/
def execAmaxuAr (h : Bool) (d a b : BitVec 7) (s : State) : Out := atom h 6 true d a b s

/-- AAND.AR (R210): writes x AND b, delivers the old value. -/
def execAandAr (h : Bool) (d a b : BitVec 7) (s : State) : Out := atom h 7 true d a b s

/-- AOR.AR (R210): writes x OR b, delivers the old value. -/
def execAorAr (h : Bool) (d a b : BitVec 7) (s : State) : Out := atom h 8 true d a b s

/-- AXOR.AR (R210): writes x XOR b, delivers the old value. -/
def execAxorAr (h : Bool) (d a b : BitVec 7) (s : State) : Out := atom h 9 true d a b s

/-- AINCW.AR (R210): writes 0 if x ≥ b unsigned, else x + 1, delivers the old value. -/
def execAincwAr (h : Bool) (d a b : BitVec 7) (s : State) : Out := atom h 10 true d a b s

/-- AFADD.AR (R210): writes x + b in FP32, delivers the old value. -/
def execAfaddAr (h : Bool) (d a b : BitVec 7) (s : State) : Out := atom h 11 true d a b s

/-- AADD64.AR (R210): writes x + b, delivers the old value. -/
def execAadd64Ar (h : Bool) (d a b : BitVec 7) (s : State) : Out := atom h 12 true d a b s

/-- ACAS64.AR (R210): writes the new pair if x equals the compare pair, delivers the old value. -/
def execAcas64Ar (h : Bool) (d a b : BitVec 7) (s : State) : Out := atom h 13 true d a b s

/-- AXCH64.AR (R210): writes b, delivers the old value. -/
def execAxch64Ar (h : Bool) (d a b : BitVec 7) (s : State) : Out := atom h 14 true d a b s

/-- AFMAX.AR (R210): writes FMAX(x, b), delivers the old value. -/
def execAfmaxAr (h : Bool) (d a b : BitVec 7) (s : State) : Out := atom h 15 true d a b s

end Sys2Proof.Machine
end

