-- ==== Sys2Proof/Machine/Forms.lean ====
section
/-! DEFINITION. Forms.lean: the checks that depend on the instruction alone (R42, R43, R46): a word that breaks
one is not an instruction, by the reason number R46 gives. For a step of the part that no word encodes, the part that
it names must exist (spec/01_device.md, 20_package_and_pod.md). -/
namespace Sys2Proof.Machine

/-- A pair name is even (R25). -/
def even (r : BitVec 7) : Bool := r.toNat % 2 == 0
/-- A quad name is a multiple of 4 (R25). -/
def quad (r : BitVec 7) : Bool := r.toNat % 4 == 0
/-- The destination of an access of size code `s` is a register, a pair or a quad (R43). -/
def sizeFits (s : BitVec 3) (d : BitVec 7) : Bool :=
  if s.toNat = 5 then even d else if s.toNat = 6 then quad d else true

/-- The checks of an instruction, each with its reason number under R46 (0 for a step of the part). -/
def formChecks (i : Instr) : List (Nat × Bool) :=
  match i with
  | .nop _ => []
  | .exit _ => []
  | .trap _ _ => []
  | .brk _ _ => []
  | .srd _ _ _ _ => []
  | .swr _ _ _ _ => []
  | .wbase _ _ => []
  | .ubase _ _ => []
  | .yield _ => []
  | .join _ _ => []
  | .bar _ _ => []
  | .arrive _ _ _ => []
  | .bwait _ _ _ => []
  | .nap _ _ => []
  | .fmtld _ _ _ => []
  | .tret _ _ => []
  | .add _ _ _ _ => []
  | .sub _ _ _ _ => []
  | .mul _ _ _ _ => []
  | .mulh _ _ _ _ => []
  | .mulhu _ _ _ _ => []
  | .and _ _ _ _ => []
  | .or _ _ _ _ => []
  | .xor _ _ _ _ => []
  | .andn _ _ _ _ => []
  | .shl _ _ _ _ => []
  | .shr _ _ _ _ => []
  | .sar _ _ _ _ => []
  | .min _ _ _ _ => []
  | .max _ _ _ _ => []
  | .minu _ _ _ _ => []
  | .maxu _ _ _ _ => []
  | .add64 _ d a b => [(6, even d && even a && even b)]
  | .sub64 _ d a b => [(6, even d && even a && even b)]
  | .mul64 _ d a b => [(6, even d && even a && even b)]
  | .mad _ _ _ _ => []
  | .madw _ d _ _ => [(6, even d)]
  | .clz _ _ _ => []
  | .popc _ _ _ => []
  | .brev _ _ _ => []
  | .bfe _ _ _ _ => []
  | .bfi _ _ _ _ => []
  | .prmt _ _ a _ => [(6, even a)]
  | .rol _ _ _ _ => []
  | .div _ _ _ _ => []
  | .divu _ _ _ _ => []
  | .rem _ _ _ _ => []
  | .remu _ _ _ _ => []
  | .icmpEq _ _ _ _ _ => []
  | .icmpNe _ _ _ _ _ => []
  | .icmpLt _ _ _ _ _ => []
  | .icmpLe _ _ _ _ _ => []
  | .icmpGt _ _ _ _ _ => []
  | .icmpGe _ _ _ _ _ => []
  | .icmpLtu _ _ _ _ _ => []
  | .icmpLeu _ _ _ _ _ => []
  | .icmpGtu _ _ _ _ _ => []
  | .icmpGeu _ _ _ _ _ => []
  | .icmpEq64 _ _ _ a b => [(6, even a && even b)]
  | .icmpNe64 _ _ _ a b => [(6, even a && even b)]
  | .icmpLt64 _ _ _ a b => [(6, even a && even b)]
  | .icmpLtu64 _ _ _ a b => [(6, even a && even b)]
  | .icmpBtst _ _ _ _ _ => []
  | .addi _ _ _ _ => []
  | .andi _ _ _ _ => []
  | .ori _ _ _ _ => []
  | .xori _ _ _ _ => []
  | .shli _ _ _ n => [(4, n.toNat < 32)]
  | .shri _ _ _ n => [(4, n.toNat < 32)]
  | .sari _ _ _ n => [(4, n.toNat < 32)]
  | .roli _ _ _ n => [(4, n.toNat < 32)]
  | .shli64 _ d a _ => [(6, even d && even a)]
  | .shri64 _ d a _ => [(6, even d && even a)]
  | .sari64 _ d a _ => [(6, even d && even a)]
  | .muli _ _ _ _ => []
  | .cmpi _ c _ _ _ => [(4, c.toNat < 10)]
  | .movw _ _ _ => []
  | .movh _ _ _ => []
  | .sel _ _ _ _ _ _ => []
  | .lea _ _ d a _ => [(6, even d && even a)]
  | .mov _ _ _ => []
  | .mov64 _ d a => [(6, even d && even a)]
  | .pmov _ _ => []
  | .pset _ _ _ => []
  | .sext _ _ _ _ => []
  | .zext _ _ _ _ => []
  | .fadd _ _ _ _ => []
  | .fsub _ _ _ _ => []
  | .fmul _ _ _ _ => []
  | .fmin _ _ _ _ => []
  | .fmax _ _ _ _ => []
  | .fminn _ _ _ _ => []
  | .fmaxn _ _ _ _ => []
  | .fabs _ _ _ => []
  | .fneg _ _ _ => []
  | .fcpsgn _ _ _ _ => []
  | .ffloor _ _ _ => []
  | .fceil _ _ _ => []
  | .ftrunc _ _ _ => []
  | .frint _ _ _ => []
  | .ffrac _ _ _ => []
  | .fscale _ _ _ _ => []
  | .ffma _ _ _ _ => []
  | .ffms _ _ _ _ => []
  | .fnfma _ _ _ _ => []
  | .fnfms _ _ _ _ => []
  | .hadd2 _ _ _ _ => []
  | .hsub2 _ _ _ _ => []
  | .hmul2 _ _ _ _ => []
  | .hfma2 _ _ _ _ => []
  | .hmin2 _ _ _ _ => []
  | .hmax2 _ _ _ _ => []
  | .badd2 _ _ _ _ => []
  | .bsub2 _ _ _ _ => []
  | .bmul2 _ _ _ _ => []
  | .bfma2 _ _ _ _ => []
  | .bmin2 _ _ _ _ => []
  | .bmax2 _ _ _ _ => []
  | .hdot2 _ _ _ _ => []
  | .bdot2 _ _ _ _ => []
  | .fcmpOeq _ _ _ _ _ => []
  | .fcmpOne _ _ _ _ _ => []
  | .fcmpOlt _ _ _ _ _ => []
  | .fcmpOle _ _ _ _ _ => []
  | .fcmpOgt _ _ _ _ _ => []
  | .fcmpOge _ _ _ _ _ => []
  | .fcmpUno _ _ _ _ _ => []
  | .fcmpOrd _ _ _ _ _ => []
  | .fcmpUeq _ _ _ _ _ => []
  | .fcmpUne _ _ _ _ _ => []
  | .fcmpUlt _ _ _ _ _ => []
  | .fcmpUle _ _ _ _ _ => []
  | .fcmpUgt _ _ _ _ _ => []
  | .fcmpUge _ _ _ _ _ => []
  | .fcmpClass _ _ _ _ _ => []
  | .xfnRcp _ _ _ => []
  | .xfnRsq _ _ _ => []
  | .xfnSqrt _ _ _ => []
  | .xfnExp2 _ _ _ => []
  | .xfnLog2 _ _ _ => []
  | .xfnSinpi _ _ _ => []
  | .xfnCospi _ _ _ => []
  | .xfnTanh _ _ _ => []
  | .xfnDiv _ _ _ _ => []
  | .xfnSigm _ _ _ => []
  | .xfnExp _ _ _ => []
  | .xfnLog _ _ _ => []
  | .f2i _ _ _ _ _ r => [(4, r.toNat < 6)]
  | .f2u _ _ _ _ _ r => [(4, r.toNat < 6)]
  | .i2f _ _ _ _ _ r => [(4, r.toNat < 6)]
  | .u2f _ _ _ _ _ r => [(4, r.toNat < 6)]
  | .f2h _ _ _ _ _ r => [(4, r.toNat < 6)]
  | .h2f _ _ _ _ _ r => [(4, r.toNat < 6)]
  | .f2b _ _ _ _ _ r => [(4, r.toNat < 6)]
  | .b2f _ _ _ _ _ r => [(4, r.toNat < 6)]
  | .f2n _ _ _ _ _ r => [(4, r.toNat < 6)]
  | .n2f _ _ _ _ _ r => [(4, r.toNat < 6)]
  | .f2d _ d _ _ _ r => [(4, r.toNat < 6), (6, even d)]
  | .d2f _ _ a _ _ r => [(4, r.toNat < 6), (6, even a)]
  | .i2d _ d _ _ _ r => [(4, r.toNat < 6), (6, even d)]
  | .d2i _ _ a _ _ r => [(4, r.toNat < 6), (6, even a)]
  | .packn _ _ a _ _ r => [(4, r.toNat < 6), (6, quad a)]
  | .unpkn _ d _ _ _ r => [(4, r.toNat < 6), (6, quad d)]
  | .dadd _ d a b => [(6, even d && even a && even b)]
  | .dsub _ d a b => [(6, even d && even a && even b)]
  | .dmul _ d a b => [(6, even d && even a && even b)]
  | .dfma _ d a b => [(6, even d && even a && even b)]
  | .dmin _ d a b => [(6, even d && even a && even b)]
  | .dmax _ d a b => [(6, even d && even a && even b)]
  | .ddiv _ d a b => [(6, even d && even a && even b)]
  | .dsqrt _ d a => [(6, even d && even a)]
  | .deq _ _ _ a b => [(6, even a && even b)]
  | .dlt _ _ _ a b => [(6, even a && even b)]
  | .dle _ _ _ a b => [(6, even a && even b)]
  | .duno _ _ _ a b => [(6, even a && even b)]
  | .mlmrg _ d a => [(6, quad d && even a)]
  | .expsub _ _ _ _ => []
  | .rescale _ _ _ b => [(6, even b)]
  | .br _ _ => []
  | .call _ _ => []
  | .brp _ _ _ _ => []
  | .jr _ a => [(6, even a)]
  | .callr _ a => [(6, even a)]
  | .ret _ => []
  | .brx _ a _ => [(6, even a)]
  | .pblk _ n t => [(5, t.toNat < 2 ^ (n.toNat + 1))]
  | .vany _ _ _ => []
  | .vall _ _ _ => []
  | .ballot _ _ _ => []
  | .shfidx _ _ _ _ => []
  | .shfup _ _ _ _ => []
  | .shfdn _ _ _ _ => []
  | .shfxor _ _ _ _ => []
  | .gradd _ _ _ => []
  | .grfadd _ _ _ => []
  | .grmin _ _ _ _ => []
  | .grmax _ _ _ _ => []
  | .gmatch _ _ _ => []
  | .elect _ _ => []
  | .active _ _ => []
  | .ld _ d a s _ => [(3, s != 7), (6, sizeFits s d && even a)]
  | .st _ d a s _ => [(3, s != 7), (6, sizeFits s d && even a)]
  | .ldx _ s d a _ => [(3, s != 7), (6, sizeFits s d && even a)]
  | .ldxC _ s d a _ => [(3, s != 7), (6, sizeFits s d && even a)]
  | .stx _ s d a _ => [(3, s != 7), (6, sizeFits s d && even a)]
  | .ldAcq _ d a s _ => [(3, s != 7), (6, sizeFits s d && even a)]
  | .stRel _ d a s _ => [(3, s != 7), (6, sizeFits s d && even a)]
  | .aadd _ _ a _ => [(6, even a)]
  | .axch _ _ a _ => [(6, even a)]
  | .acas _ _ a b => [(6, even a && even b)]
  | .amin _ _ a _ => [(6, even a)]
  | .amax _ _ a _ => [(6, even a)]
  | .aminu _ _ a _ => [(6, even a)]
  | .amaxu _ _ a _ => [(6, even a)]
  | .aand _ _ a _ => [(6, even a)]
  | .aor _ _ a _ => [(6, even a)]
  | .axor _ _ a _ => [(6, even a)]
  | .aincw _ _ a _ => [(6, even a)]
  | .afadd _ _ a _ => [(6, even a)]
  | .aadd64 _ d a b => [(6, even d && even a && even b)]
  | .acas64 _ d a b => [(6, quad b && even d && even a)]
  | .axch64 _ d a b => [(6, even d && even a && even b)]
  | .afmax _ _ a _ => [(6, even a)]
  | .aaddAr _ _ a _ => [(6, even a)]
  | .axchAr _ _ a _ => [(6, even a)]
  | .acasAr _ _ a b => [(6, even a && even b)]
  | .aminAr _ _ a _ => [(6, even a)]
  | .amaxAr _ _ a _ => [(6, even a)]
  | .aminuAr _ _ a _ => [(6, even a)]
  | .amaxuAr _ _ a _ => [(6, even a)]
  | .aandAr _ _ a _ => [(6, even a)]
  | .aorAr _ _ a _ => [(6, even a)]
  | .axorAr _ _ a _ => [(6, even a)]
  | .aincwAr _ _ a _ => [(6, even a)]
  | .afaddAr _ _ a _ => [(6, even a)]
  | .aadd64Ar _ d a b => [(6, even d && even a && even b)]
  | .acas64Ar _ d a b => [(6, quad b && even d && even a)]
  | .axch64Ar _ d a b => [(6, even d && even a && even b)]
  | .afmaxAr _ _ a _ => [(6, even a)]
  | .fenceAcq _ b => [(4, b.toNat < 7)]
  | .fenceRel _ b => [(4, b.toNat < 7)]
  | .fenceAr _ b => [(4, b.toNat < 7)]
  | .fenceSc _ b => [(4, b.toNat < 7)]
  | .fenceDrain _ b => [(4, b.toNat < 7)]
  | .pref _ a => [(6, even a)]
  | .prefl1 _ a => [(6, even a)]
  | .invl1 _ a _ => [(6, even a)]
  | .rdcinv _ a _ => [(6, even a)]
  | .lempty _ a _ => [(6, even a)]
  | .lfull _ a _ => [(6, even a)]
  | .talloc _ d _ _ => [(6, even d)]
  | .trel _ a => [(6, even a)]
  | .tdrop _ a _ => [(6, even a)]
  | .taddr _ d _ _ => [(6, even d)]
  | .tstat _ _ a => [(6, even a)]
  | .tcset _ a _ => [(6, even a)]
  | .tcadd _ a _ => [(6, even a)]
  | .tcwait _ a _ => [(6, even a)]
  | .tcread _ _ a => [(6, even a)]
  | .cpy _ d a b => [(6, quad d && quad a && quad b)]
  | .cpyr _ d a b => [(6, quad d && quad a && quad b)]
  | .cpym _ d a b => [(6, quad d && quad a && quad b)]
  | .cpys _ d a b => [(6, quad d && quad a && quad b)]
  | .publ _ a => [(6, even a)]
  | .cpyt _ _ a b => [(6, quad a && quad b)]
  | .cpyw _ _ _ => []
  | .cpyq _ _ => []
  | .mma8 _ _ a b => [(6, quad a && quad b)]
  | .mma8s _ _ a b => [(6, quad a && quad b)]
  | .mma8g _ _ a b => [(6, quad a && quad b)]
  | .mma8gs _ _ a b => [(6, quad a && quad b)]
  | .mmah _ _ a b => [(6, quad a && quad b)]
  | .mmab _ _ a b => [(6, quad a && quad b)]
  | .mzero _ _ => []
  | .mldc _ _ a _ => [(6, even a)]
  | .mstc _ _ a _ => [(6, even a)]
  | .mwait _ _ _ => []
  | .mstat _ _ => []
  | .macq _ _ => []
  | .mpass _ _ => []
  | .mrel _ => []
  | .mwho _ _ => []
  | .tknext _ _ _ => []
  | .tkdone _ => []
  | .tkpost _ a => [(6, even a)]
  | .tkspec _ => []
  | .tkabort _ => []
  | .tksucc _ a => [(6, even a)]
  | .launch _ _ a b => [(6, quad b && even a)]
  | .lwait _ _ _ => []
  | .lstat _ _ _ => []
  | .role _ _ _ _ => []
  | .aqpost _ _ a => [(6, even a)]
  | .aqwait _ _ _ => []
  | .aqstat _ _ _ => []
  | .aqcancel _ _ => []
  | .ndrain _ _ => []
  | .ngen _ _ _ _ => []
  | .npath _ _ _ => []
  | .clpost _ _ a => [(6, even a)]
  | .clwait _ _ _ => []
  | .clstat _ _ _ => []
  | .clroute _ a _ _ => [(6, even a)]
  | .resultDelivery t _ _ => [(0, t.lane < 32)]
  | .segmentHorizon t => [(0, t.lane < 32)]
  | .joinTimeout t => [(0, t.lane < 32)]
  | .napExpiry t => [(0, t.lane < 32)]
  | .barPhaseComplete l _ _ => [(0, l.die < 4)]
  | .launchCommand _ => []
  | .pendingPoolCheck die => [(0, die < 4)]
  | .teamPlacement l cluster _ => [(0, l.die < 4), (0, cluster < 24)]
  | .launchComplete l => [(0, l.die < 4)]
  | .blockedTeamSwap l _ => [(0, l.die < 4)]
  | .timeSliceExpiry l _ => [(0, l.die < 4)]
  | .drainTimeout l _ => [(0, l.die < 4)]
  | .teamSave l _ => [(0, l.die < 4)]
  | .teamRestore l _ cluster _ => [(0, l.die < 4), (0, cluster < 24)]
  | .armedFire _ => []
  | .copyUnit _ _ => []
  | .publishFlip _ => []
  | .matrixStep core => [(0, core < 192)]
  | .tallocGrant t _ _ _ => [(0, t.lane < 32)]
  | .poolStarvation cluster l => [(0, cluster < 24), (0, l.die < 4)]
  | .tileFree cluster _ _ => [(0, cluster < 24)]
  | .taskDelivery _ => []
  | .qry _ _ => []
  | .bauScan bau => [(0, bau < 2048)]
  | .refresh bau => [(0, bau < 2048)]
  | .rpl _ _ => []
  | .cxl _ _ => []
  | .wcbFlush die _ _ => [(0, die < 4)]
  | .tlbinvComplete => []
  | .slotBoundary => []
  | .dataWindowStart => []
  | .tuningTimeout port => [(0, port < 64)]
  | .portFailed port => [(0, port < 64)]
  | .preamble port _ => [(0, port < 64)]
  | .ackFlit port _ => [(0, port < 64)]
  | .cutOff _ => []
  | .broadcastMemberDrop port _ => [(0, port < 64)]
  | .cycleSteer => []
  | .generationChange => []
  | .portDrained port => [(0, port < 64)]
  | .portTrained port => [(0, port < 64)]
  | .readRequest rx => [(0, rx.port < 64)]
  | .readReply rx => [(0, rx.port < 64)]
  | .pktWrite rx => [(0, rx.port < 64)]
  | .pktAtomic rx => [(0, rx.port < 64)]
  | .completion rx => [(0, rx.port < 64)]
  | .copyUnits rx => [(0, rx.port < 64)]
  | .copyCompletion rx => [(0, rx.port < 64)]
  | .reduceCopyUnits rx => [(0, rx.port < 64)]
  | .publish rx => [(0, rx.port < 64)]
  | .reservedPacket rx => [(0, rx.port < 64)]
  | .collectiveData rx => [(0, rx.port < 64)]
  | .collectiveAbort rx => [(0, rx.port < 64)]
  | .gangStart rx => [(0, rx.port < 64)]
  | .gangAccept rx => [(0, rx.port < 64)]
  | .gangRefuse rx => [(0, rx.port < 64)]
  | .gangGo rx => [(0, rx.port < 64)]
  | .gangCancel rx => [(0, rx.port < 64)]
  | .gangAbort rx => [(0, rx.port < 64)]
  | .gangDone rx => [(0, rx.port < 64)]
  | .gangStartTimeout l => [(0, l.die < 4)]
  | .gangDiscardTimeout l => [(0, l.die < 4)]
  | .barrierArrive rx => [(0, rx.port < 64)]
  | .barrierRelease rx => [(0, rx.port < 64)]
  | .hostCopy _ => []
  | .signal _ => []
  | .hostWait _ => []
  | .calLoad _ => []
  | .portDrain _ => []
  | .portRetrain _ => []
  | .calStatus _ => []
  | .faultReplay _ => []
  | .attest _ => []
  | .ownerClaim _ => []
  | .ownerYield _ => []
  | .doorbell q _ => [(0, q < 16)]
  | .tlbinv _ _ => []
  | .resetWrite _ _ => []
  | .abortWrite _ die _ => [(0, die < 4)]
  | .dbgHalt _ die _ => [(0, die < 4)]
  | .dbgGo _ die _ => [(0, die < 4)]
  | .dbgStep _ die _ => [(0, die < 4)]
  | .dbgData _ die _ => [(0, die < 4)]
  | .bar4Read _ _ => []
  | .bar4Write _ _ => []
  | .registerWrite _ _ _ => []
  | .moduleReset => []
  | .bringUpStage _ => []
  | .clockStep _ => []
  | .coolantFatal => []
  | .linkFailure => []
  | .writePerformed t _ => [(0, t.lane < 32)]
  | .instructionFetch t => [(0, t.lane < 32)]
  | .notAnInstruction _ reason => [(0, 1 ≤ reason && reason ≤ 7)]
  | .ringLocked port => [(0, port < 64)]
  | .completionTimeout t _ => [(0, t.lane < 32)]
  | .unitPoisoned _ => []

end Sys2Proof.Machine
end

