-- ==== Sys2Proof/WellFormed.lean ====
section
/-! DEFINITION. WellFormed.lean: an instruction is well formed when it breaks none of its checks (R46). -/
namespace Sys2Proof

/-- The instruction breaks none of the checks that depend on it alone (R42, R43, R46). -/
def Instr.wf (i : Instr) : Bool := (Machine.formChecks i).all (fun c => c.2)

end Sys2Proof
end

