-- ==== Sys2Proof/Decode.lean ====
section
/-! DEFINITION. Decode.lean: instruction words to instructions and back (R39-R48). The decoder is total; a word that
is not an instruction is rejected by the lowest reason number of R46 that applies (reasons 8 and 9 depend on the
predicate block of the thread and are checked at issue). -/
namespace Sys2Proof
noncomputable section

/-- Why a word is not an instruction: the reason number of R46, 1 to 7. -/
structure Reject where
  reason : Nat
deriving DecidableEq, Repr

/-- Reject for reason `r` unless `c` holds. -/
def need (c : Bool) (r : Nat) (k : Except Reject Instr) : Except Reject Instr :=
  if c then k else .error { reason := r }

/-- A decoded instruction, if it breaks none of its checks; else the lowest reason number that applies (R46). -/
def checked (i : Instr) : Except Reject Instr :=
  match (Machine.formChecks i).find? (fun c => ! c.2) with
  | some c => .error { reason := c.1 }
  | none   => .ok i

/-- Bits [lo + n − 1 : lo] of a word (R1). -/
def fld (w : Word) (lo n : Nat) : BitVec n := BitVec.ofNat n (w.toNat / 2 ^ lo)
/-- `n` bits from bit `lo` of a 7-bit field. -/
def part (f : BitVec 7) (lo n : Nat) : BitVec n := BitVec.ofNat n (f.toNat / 2 ^ lo)
/-- Bit `n` of a word. -/
def flag (w : Word) (n : Nat) : Bool := w.toNat / 2 ^ n % 2 == 1

/-- Major 0x00: the minors of R45. `h`, `d`, `a`, `b` are the fields of the R format (R40). -/
def decSys (mn : Nat) (h : Bool) (d a b : BitVec 7) : Except Reject Instr :=
  match mn with
  | 0 => need (d == 0 && a == 0 && b == 0) 5 (checked (.nop h))
  | 1 => need (d == 0 && a == 0 && b == 0) 5 (checked (.exit h))
  | 2 => need (d == 0 && a == 0) 5 (checked (.trap h b))
  | 3 => need (d == 0 && a == 0) 5 (checked (.brk h b))
  | 4 => checked (.srd h d a b)
  | 5 => checked (.swr h d a b)
  | 6 => need (d == 0 && a == 0) 5 (checked (.wbase h b))
  | 7 => need (d == 0 && a == 0) 5 (checked (.ubase h b))
  | 8 => need (d == 0 && a == 0 && b == 0) 5 (checked (.yield h))
  | 9 => need (d == 0 && b == 0) 5 (checked (.join h a))
  | 10 => need (d == 0 && a == 0) 5 (checked (.bar h b))
  | 11 => need (a == 0) 5 (checked (.arrive h d b))
  | 12 => need (d == 0) 5 (checked (.bwait h a b))
  | 13 => need (d == 0 && b == 0) 5 (checked (.nap h a))
  | 14 => need (b == 0) 5 (checked (.fmtld h d a))
  | 15 => need (d == 0 && a == 0) 5 (checked (.tret h b))
  | _ => .error { reason := 2 }

/-- Major 0x01: the minors of R45. `h`, `d`, `a`, `b` are the fields of the R format (R40). -/
def decIop (mn : Nat) (h : Bool) (d a b : BitVec 7) : Except Reject Instr :=
  match mn with
  | 0 => checked (.add h d a b)
  | 1 => checked (.sub h d a b)
  | 2 => checked (.mul h d a b)
  | 3 => checked (.mulh h d a b)
  | 4 => checked (.mulhu h d a b)
  | 5 => checked (.and h d a b)
  | 6 => checked (.or h d a b)
  | 7 => checked (.xor h d a b)
  | 8 => checked (.andn h d a b)
  | 9 => checked (.shl h d a b)
  | 10 => checked (.shr h d a b)
  | 11 => checked (.sar h d a b)
  | 12 => checked (.min h d a b)
  | 13 => checked (.max h d a b)
  | 14 => checked (.minu h d a b)
  | 15 => checked (.maxu h d a b)
  | _ => .error { reason := 2 }

/-- Major 0x02: the minors of R45. `h`, `d`, `a`, `b` are the fields of the R format (R40). -/
def decIopx (mn : Nat) (h : Bool) (d a b : BitVec 7) : Except Reject Instr :=
  match mn with
  | 0 => checked (.add64 h d a b)
  | 1 => checked (.sub64 h d a b)
  | 2 => checked (.mul64 h d a b)
  | 3 => checked (.mad h d a b)
  | 4 => checked (.madw h d a b)
  | 5 => need (b == 0) 5 (checked (.clz h d a))
  | 6 => need (b == 0) 5 (checked (.popc h d a))
  | 7 => need (b == 0) 5 (checked (.brev h d a))
  | 8 => checked (.bfe h d a b)
  | 9 => checked (.bfi h d a b)
  | 10 => checked (.prmt h d a b)
  | 11 => checked (.rol h d a b)
  | 12 => checked (.div h d a b)
  | 13 => checked (.divu h d a b)
  | 14 => checked (.rem h d a b)
  | 15 => checked (.remu h d a b)
  | _ => .error { reason := 2 }

/-- Major 0x03: the minors of R45. `h`, `d`, `a`, `b` are the fields of the R format (R40). -/
def decIcmp (mn : Nat) (h : Bool) (d a b : BitVec 7) : Except Reject Instr :=
  match mn with
  | 0 => need (part d 3 2 == 0) 5 (checked (.icmpEq h (part d 5 2) (part d 0 3) a b))
  | 1 => need (part d 3 2 == 0) 5 (checked (.icmpNe h (part d 5 2) (part d 0 3) a b))
  | 2 => need (part d 3 2 == 0) 5 (checked (.icmpLt h (part d 5 2) (part d 0 3) a b))
  | 3 => need (part d 3 2 == 0) 5 (checked (.icmpLe h (part d 5 2) (part d 0 3) a b))
  | 4 => need (part d 3 2 == 0) 5 (checked (.icmpGt h (part d 5 2) (part d 0 3) a b))
  | 5 => need (part d 3 2 == 0) 5 (checked (.icmpGe h (part d 5 2) (part d 0 3) a b))
  | 6 => need (part d 3 2 == 0) 5 (checked (.icmpLtu h (part d 5 2) (part d 0 3) a b))
  | 7 => need (part d 3 2 == 0) 5 (checked (.icmpLeu h (part d 5 2) (part d 0 3) a b))
  | 8 => need (part d 3 2 == 0) 5 (checked (.icmpGtu h (part d 5 2) (part d 0 3) a b))
  | 9 => need (part d 3 2 == 0) 5 (checked (.icmpGeu h (part d 5 2) (part d 0 3) a b))
  | 10 => need (part d 3 2 == 0) 5 (checked (.icmpEq64 h (part d 5 2) (part d 0 3) a b))
  | 11 => need (part d 3 2 == 0) 5 (checked (.icmpNe64 h (part d 5 2) (part d 0 3) a b))
  | 12 => need (part d 3 2 == 0) 5 (checked (.icmpLt64 h (part d 5 2) (part d 0 3) a b))
  | 13 => need (part d 3 2 == 0) 5 (checked (.icmpLtu64 h (part d 5 2) (part d 0 3) a b))
  | 14 => need (part d 3 2 == 0) 5 (checked (.icmpBtst h (part d 5 2) (part d 0 3) a b))
  | _ => .error { reason := 2 }

/-- Major 0x0F: the minors of R45. `h`, `d`, `a`, `b` are the fields of the R format (R40). -/
def decMovx (mn : Nat) (h : Bool) (d a b : BitVec 7) : Except Reject Instr :=
  match mn with
  | 0 => need (b == 0) 5 (checked (.mov h d a))
  | 1 => need (b == 0) 5 (checked (.mov64 h d a))
  | 2 => need (a == 0 && b == 0) 5 (checked (.pmov h d))
  | 3 => need (d == 0) 5 (checked (.pset h a b))
  | 4 => checked (.sext h d a b)
  | 5 => checked (.zext h d a b)
  | _ => .error { reason := 2 }

/-- Major 0x10: the minors of R45. `h`, `d`, `a`, `b` are the fields of the R format (R40). -/
def decFop (mn : Nat) (h : Bool) (d a b : BitVec 7) : Except Reject Instr :=
  match mn with
  | 0 => checked (.fadd h d a b)
  | 1 => checked (.fsub h d a b)
  | 2 => checked (.fmul h d a b)
  | 3 => checked (.fmin h d a b)
  | 4 => checked (.fmax h d a b)
  | 5 => checked (.fminn h d a b)
  | 6 => checked (.fmaxn h d a b)
  | 7 => need (b == 0) 5 (checked (.fabs h d a))
  | 8 => need (b == 0) 5 (checked (.fneg h d a))
  | 9 => checked (.fcpsgn h d a b)
  | 10 => need (b == 0) 5 (checked (.ffloor h d a))
  | 11 => need (b == 0) 5 (checked (.fceil h d a))
  | 12 => need (b == 0) 5 (checked (.ftrunc h d a))
  | 13 => need (b == 0) 5 (checked (.frint h d a))
  | 14 => need (b == 0) 5 (checked (.ffrac h d a))
  | 15 => checked (.fscale h d a b)
  | _ => .error { reason := 2 }

/-- Major 0x11: the minors of R45. `h`, `d`, `a`, `b` are the fields of the R format (R40). -/
def decFma (mn : Nat) (h : Bool) (d a b : BitVec 7) : Except Reject Instr :=
  match mn with
  | 0 => checked (.ffma h d a b)
  | 1 => checked (.ffms h d a b)
  | 2 => checked (.fnfma h d a b)
  | 3 => checked (.fnfms h d a b)
  | _ => .error { reason := 2 }

/-- Major 0x12: the minors of R45. `h`, `d`, `a`, `b` are the fields of the R format (R40). -/
def decHop (mn : Nat) (h : Bool) (d a b : BitVec 7) : Except Reject Instr :=
  match mn with
  | 0 => checked (.hadd2 h d a b)
  | 1 => checked (.hsub2 h d a b)
  | 2 => checked (.hmul2 h d a b)
  | 3 => checked (.hfma2 h d a b)
  | 4 => checked (.hmin2 h d a b)
  | 5 => checked (.hmax2 h d a b)
  | 6 => checked (.badd2 h d a b)
  | 7 => checked (.bsub2 h d a b)
  | 8 => checked (.bmul2 h d a b)
  | 9 => checked (.bfma2 h d a b)
  | 10 => checked (.bmin2 h d a b)
  | 11 => checked (.bmax2 h d a b)
  | 12 => checked (.hdot2 h d a b)
  | 13 => checked (.bdot2 h d a b)
  | _ => .error { reason := 2 }

/-- Major 0x13: the minors of R45. `h`, `d`, `a`, `b` are the fields of the R format (R40). -/
def decFcmp (mn : Nat) (h : Bool) (d a b : BitVec 7) : Except Reject Instr :=
  match mn with
  | 0 => need (part d 3 2 == 0) 5 (checked (.fcmpOeq h (part d 5 2) (part d 0 3) a b))
  | 1 => need (part d 3 2 == 0) 5 (checked (.fcmpOne h (part d 5 2) (part d 0 3) a b))
  | 2 => need (part d 3 2 == 0) 5 (checked (.fcmpOlt h (part d 5 2) (part d 0 3) a b))
  | 3 => need (part d 3 2 == 0) 5 (checked (.fcmpOle h (part d 5 2) (part d 0 3) a b))
  | 4 => need (part d 3 2 == 0) 5 (checked (.fcmpOgt h (part d 5 2) (part d 0 3) a b))
  | 5 => need (part d 3 2 == 0) 5 (checked (.fcmpOge h (part d 5 2) (part d 0 3) a b))
  | 6 => need (part d 3 2 == 0) 5 (checked (.fcmpUno h (part d 5 2) (part d 0 3) a b))
  | 7 => need (part d 3 2 == 0) 5 (checked (.fcmpOrd h (part d 5 2) (part d 0 3) a b))
  | 8 => need (part d 3 2 == 0) 5 (checked (.fcmpUeq h (part d 5 2) (part d 0 3) a b))
  | 9 => need (part d 3 2 == 0) 5 (checked (.fcmpUne h (part d 5 2) (part d 0 3) a b))
  | 10 => need (part d 3 2 == 0) 5 (checked (.fcmpUlt h (part d 5 2) (part d 0 3) a b))
  | 11 => need (part d 3 2 == 0) 5 (checked (.fcmpUle h (part d 5 2) (part d 0 3) a b))
  | 12 => need (part d 3 2 == 0) 5 (checked (.fcmpUgt h (part d 5 2) (part d 0 3) a b))
  | 13 => need (part d 3 2 == 0) 5 (checked (.fcmpUge h (part d 5 2) (part d 0 3) a b))
  | 14 => need (part d 3 2 == 0) 5 (checked (.fcmpClass h (part d 5 2) (part d 0 3) a b))
  | _ => .error { reason := 2 }

/-- Major 0x14: the minors of R45. `h`, `d`, `a`, `b` are the fields of the R format (R40). -/
def decXfn (mn : Nat) (h : Bool) (d a b : BitVec 7) : Except Reject Instr :=
  match mn with
  | 0 => need (b == 0) 5 (checked (.xfnRcp h d a))
  | 1 => need (b == 0) 5 (checked (.xfnRsq h d a))
  | 2 => need (b == 0) 5 (checked (.xfnSqrt h d a))
  | 3 => need (b == 0) 5 (checked (.xfnExp2 h d a))
  | 4 => need (b == 0) 5 (checked (.xfnLog2 h d a))
  | 5 => need (b == 0) 5 (checked (.xfnSinpi h d a))
  | 6 => need (b == 0) 5 (checked (.xfnCospi h d a))
  | 7 => need (b == 0) 5 (checked (.xfnTanh h d a))
  | 8 => checked (.xfnDiv h d a b)
  | 9 => need (b == 0) 5 (checked (.xfnSigm h d a))
  | 10 => need (b == 0) 5 (checked (.xfnExp h d a))
  | 11 => need (b == 0) 5 (checked (.xfnLog h d a))
  | _ => .error { reason := 2 }

/-- Major 0x15: the minors of R45. `h`, `d`, `a`, `b` are the fields of the R format (R40). -/
def decCvt (mn : Nat) (h : Bool) (d a b : BitVec 7) : Except Reject Instr :=
  match mn with
  | 0 => checked (.f2i h d a (part b 4 3) (part b 3 1 == 1) (part b 0 3))
  | 1 => checked (.f2u h d a (part b 4 3) (part b 3 1 == 1) (part b 0 3))
  | 2 => checked (.i2f h d a (part b 4 3) (part b 3 1 == 1) (part b 0 3))
  | 3 => checked (.u2f h d a (part b 4 3) (part b 3 1 == 1) (part b 0 3))
  | 4 => checked (.f2h h d a (part b 4 3) (part b 3 1 == 1) (part b 0 3))
  | 5 => checked (.h2f h d a (part b 4 3) (part b 3 1 == 1) (part b 0 3))
  | 6 => checked (.f2b h d a (part b 4 3) (part b 3 1 == 1) (part b 0 3))
  | 7 => checked (.b2f h d a (part b 4 3) (part b 3 1 == 1) (part b 0 3))
  | 8 => checked (.f2n h d a (part b 4 3) (part b 3 1 == 1) (part b 0 3))
  | 9 => checked (.n2f h d a (part b 4 3) (part b 3 1 == 1) (part b 0 3))
  | 10 => checked (.f2d h d a (part b 4 3) (part b 3 1 == 1) (part b 0 3))
  | 11 => checked (.d2f h d a (part b 4 3) (part b 3 1 == 1) (part b 0 3))
  | 12 => checked (.i2d h d a (part b 4 3) (part b 3 1 == 1) (part b 0 3))
  | 13 => checked (.d2i h d a (part b 4 3) (part b 3 1 == 1) (part b 0 3))
  | 14 => checked (.packn h d a (part b 4 3) (part b 3 1 == 1) (part b 0 3))
  | 15 => checked (.unpkn h d a (part b 4 3) (part b 3 1 == 1) (part b 0 3))
  | _ => .error { reason := 2 }

/-- Major 0x16: the minors of R45. `h`, `d`, `a`, `b` are the fields of the R format (R40). -/
def decDop (mn : Nat) (h : Bool) (d a b : BitVec 7) : Except Reject Instr :=
  match mn with
  | 0 => checked (.dadd h d a b)
  | 1 => checked (.dsub h d a b)
  | 2 => checked (.dmul h d a b)
  | 3 => checked (.dfma h d a b)
  | 4 => checked (.dmin h d a b)
  | 5 => checked (.dmax h d a b)
  | 6 => checked (.ddiv h d a b)
  | 7 => need (b == 0) 5 (checked (.dsqrt h d a))
  | 8 => need (part d 3 2 == 0) 5 (checked (.deq h (part d 5 2) (part d 0 3) a b))
  | 9 => need (part d 3 2 == 0) 5 (checked (.dlt h (part d 5 2) (part d 0 3) a b))
  | 10 => need (part d 3 2 == 0) 5 (checked (.dle h (part d 5 2) (part d 0 3) a b))
  | 11 => need (part d 3 2 == 0) 5 (checked (.duno h (part d 5 2) (part d 0 3) a b))
  | _ => .error { reason := 2 }

/-- Major 0x17: the minors of R45. `h`, `d`, `a`, `b` are the fields of the R format (R40). -/
def decSmx (mn : Nat) (h : Bool) (d a b : BitVec 7) : Except Reject Instr :=
  match mn with
  | 0 => need (b == 0) 5 (checked (.mlmrg h d a))
  | 1 => checked (.expsub h d a b)
  | 2 => checked (.rescale h d a b)
  | _ => .error { reason := 2 }

/-- Major 0x1B: the minors of R45. `h`, `d`, `a`, `b` are the fields of the R format (R40). -/
def decJx (mn : Nat) (h : Bool) (d a b : BitVec 7) : Except Reject Instr :=
  match mn with
  | 0 => need (d == 0 && b == 0) 5 (checked (.jr h a))
  | 1 => need (d == 0 && b == 0) 5 (checked (.callr h a))
  | 2 => need (d == 0 && a == 0 && b == 0) 5 (checked (.ret h))
  | 3 => need (d == 0) 5 (checked (.brx h a b))
  | _ => .error { reason := 2 }

/-- Major 0x1D: the minors of R45. `h`, `d`, `a`, `b` are the fields of the R format (R40). -/
def decGrp (mn : Nat) (h : Bool) (d a b : BitVec 7) : Except Reject Instr :=
  match mn with
  | 0 => need (b == 0) 5 (checked (.vany h d a))
  | 1 => need (b == 0) 5 (checked (.vall h d a))
  | 2 => need (b == 0) 5 (checked (.ballot h d a))
  | 3 => checked (.shfidx h d a b)
  | 4 => checked (.shfup h d a b)
  | 5 => checked (.shfdn h d a b)
  | 6 => checked (.shfxor h d a b)
  | 7 => need (b == 0) 5 (checked (.gradd h d a))
  | 8 => need (b == 0) 5 (checked (.grfadd h d a))
  | 9 => need (part b 1 6 == 0) 5 (checked (.grmin h d a (part b 0 1 == 1)))
  | 10 => need (part b 1 6 == 0) 5 (checked (.grmax h d a (part b 0 1 == 1)))
  | 11 => need (b == 0) 5 (checked (.gmatch h d a))
  | 12 => need (a == 0 && b == 0) 5 (checked (.elect h d))
  | 13 => need (a == 0 && b == 0) 5 (checked (.active h d))
  | _ => .error { reason := 2 }

/-- Major 0x26: the minors of R45. `h`, `d`, `a`, `b` are the fields of the R format (R40). -/
def decAtom (mn : Nat) (h : Bool) (d a b : BitVec 7) : Except Reject Instr :=
  match mn with
  | 0 => checked (.aadd h d a b)
  | 1 => checked (.axch h d a b)
  | 2 => checked (.acas h d a b)
  | 3 => checked (.amin h d a b)
  | 4 => checked (.amax h d a b)
  | 5 => checked (.aminu h d a b)
  | 6 => checked (.amaxu h d a b)
  | 7 => checked (.aand h d a b)
  | 8 => checked (.aor h d a b)
  | 9 => checked (.axor h d a b)
  | 10 => checked (.aincw h d a b)
  | 11 => checked (.afadd h d a b)
  | 12 => checked (.aadd64 h d a b)
  | 13 => checked (.acas64 h d a b)
  | 14 => checked (.axch64 h d a b)
  | 15 => checked (.afmax h d a b)
  | _ => .error { reason := 2 }

/-- Major 0x27: the minors of R45. `h`, `d`, `a`, `b` are the fields of the R format (R40). -/
def decAtomAr (mn : Nat) (h : Bool) (d a b : BitVec 7) : Except Reject Instr :=
  match mn with
  | 0 => checked (.aaddAr h d a b)
  | 1 => checked (.axchAr h d a b)
  | 2 => checked (.acasAr h d a b)
  | 3 => checked (.aminAr h d a b)
  | 4 => checked (.amaxAr h d a b)
  | 5 => checked (.aminuAr h d a b)
  | 6 => checked (.amaxuAr h d a b)
  | 7 => checked (.aandAr h d a b)
  | 8 => checked (.aorAr h d a b)
  | 9 => checked (.axorAr h d a b)
  | 10 => checked (.aincwAr h d a b)
  | 11 => checked (.afaddAr h d a b)
  | 12 => checked (.aadd64Ar h d a b)
  | 13 => checked (.acas64Ar h d a b)
  | 14 => checked (.axch64Ar h d a b)
  | 15 => checked (.afmaxAr h d a b)
  | _ => .error { reason := 2 }

/-- Major 0x28: the minors of R45. `h`, `d`, `a`, `b` are the fields of the R format (R40). -/
def decFence (mn : Nat) (h : Bool) (d a b : BitVec 7) : Except Reject Instr :=
  match mn with
  | 0 => need (b.toNat < 7) 4 (need (d == 0 && a == 0) 5 (checked (.fenceAcq h b)))
  | 1 => need (b.toNat < 7) 4 (need (d == 0 && a == 0) 5 (checked (.fenceRel h b)))
  | 2 => need (b.toNat < 7) 4 (need (d == 0 && a == 0) 5 (checked (.fenceAr h b)))
  | 3 => need (b.toNat < 7) 4 (need (d == 0 && a == 0) 5 (checked (.fenceSc h b)))
  | 4 => need (b.toNat < 7) 4 (need (d == 0 && a == 0) 5 (checked (.fenceDrain h b)))
  | _ => .error { reason := 2 }

/-- Major 0x29: the minors of R45. `h`, `d`, `a`, `b` are the fields of the R format (R40). -/
def decCctl (mn : Nat) (h : Bool) (d a b : BitVec 7) : Except Reject Instr :=
  match mn with
  | 0 => need (d == 0 && b == 0) 5 (checked (.pref h a))
  | 1 => need (d == 0 && b == 0) 5 (checked (.prefl1 h a))
  | 2 => need (d == 0 && part b 1 6 == 0) 5 (checked (.invl1 h a (part b 0 1 == 1)))
  | 3 => need (d == 0 && part b 1 6 == 0) 5 (checked (.rdcinv h a (part b 0 1 == 1)))
  | 4 => need (d == 0) 5 (checked (.lempty h a b))
  | 5 => need (d == 0) 5 (checked (.lfull h a b))
  | _ => .error { reason := 2 }

/-- Major 0x2A: the minors of R45. `h`, `d`, `a`, `b` are the fields of the R format (R40). -/
def decTile (mn : Nat) (h : Bool) (d a b : BitVec 7) : Except Reject Instr :=
  match mn with
  | 0 => checked (.talloc h d a b)
  | 1 => need (d == 0 && b == 0) 5 (checked (.trel h a))
  | 2 => need (d == 0) 5 (checked (.tdrop h a b))
  | 3 => checked (.taddr h d a b)
  | 4 => need (b == 0) 5 (checked (.tstat h d a))
  | _ => .error { reason := 2 }

/-- Major 0x2B: the minors of R45. `h`, `d`, `a`, `b` are the fields of the R format (R40). -/
def decTrig (mn : Nat) (h : Bool) (d a b : BitVec 7) : Except Reject Instr :=
  match mn with
  | 0 => need (d == 0) 5 (checked (.tcset h a b))
  | 1 => need (d == 0) 5 (checked (.tcadd h a b))
  | 2 => need (d == 0) 5 (checked (.tcwait h a b))
  | 3 => need (b == 0) 5 (checked (.tcread h d a))
  | _ => .error { reason := 2 }

/-- Major 0x30: the minors of R45. `h`, `d`, `a`, `b` are the fields of the R format (R40). -/
def decCopy (mn : Nat) (h : Bool) (d a b : BitVec 7) : Except Reject Instr :=
  match mn with
  | 0 => checked (.cpy h d a b)
  | 1 => checked (.cpyr h d a b)
  | 2 => checked (.cpym h d a b)
  | 3 => checked (.cpys h d a b)
  | 4 => need (d == 0 && b == 0) 5 (checked (.publ h a))
  | 5 => need (part d 3 4 == 0) 5 (checked (.cpyt h (part d 0 3) a b))
  | 6 => need (b == 0) 5 (checked (.cpyw h d a))
  | 7 => need (a == 0 && b == 0) 5 (checked (.cpyq h d))
  | _ => .error { reason := 2 }

/-- Major 0x31: the minors of R45. `h`, `d`, `a`, `b` are the fields of the R format (R40). -/
def decMma (mn : Nat) (h : Bool) (d a b : BitVec 7) : Except Reject Instr :=
  match mn with
  | 0 => checked (.mma8 h d a b)
  | 1 => checked (.mma8s h d a b)
  | 2 => checked (.mma8g h d a b)
  | 3 => checked (.mma8gs h d a b)
  | 4 => checked (.mmah h d a b)
  | 5 => checked (.mmab h d a b)
  | 6 => need (a == 0 && b == 0) 5 (checked (.mzero h d))
  | 7 => checked (.mldc h d a b)
  | 8 => checked (.mstc h d a b)
  | 9 => need (b == 0) 5 (checked (.mwait h d a))
  | 10 => need (a == 0 && b == 0) 5 (checked (.mstat h d))
  | _ => .error { reason := 2 }

/-- Major 0x32: the minors of R45. `h`, `d`, `a`, `b` are the fields of the R format (R40). -/
def decBaton (mn : Nat) (h : Bool) (d a b : BitVec 7) : Except Reject Instr :=
  match mn with
  | 0 => need (a == 0 && b == 0) 5 (checked (.macq h d))
  | 1 => need (d == 0 && b == 0) 5 (checked (.mpass h a))
  | 2 => need (d == 0 && a == 0 && b == 0) 5 (checked (.mrel h))
  | 3 => need (a == 0 && b == 0) 5 (checked (.mwho h d))
  | _ => .error { reason := 2 }

/-- Major 0x33: the minors of R45. `h`, `d`, `a`, `b` are the fields of the R format (R40). -/
def decTask (mn : Nat) (h : Bool) (d a b : BitVec 7) : Except Reject Instr :=
  match mn with
  | 0 => need (b == 0) 5 (checked (.tknext h d a))
  | 1 => need (d == 0 && a == 0 && b == 0) 5 (checked (.tkdone h))
  | 2 => need (d == 0 && b == 0) 5 (checked (.tkpost h a))
  | 3 => need (d == 0 && a == 0 && b == 0) 5 (checked (.tkspec h))
  | 4 => need (d == 0 && a == 0 && b == 0) 5 (checked (.tkabort h))
  | 5 => need (d == 0 && b == 0) 5 (checked (.tksucc h a))
  | _ => .error { reason := 2 }

/-- Major 0x34: the minors of R45. `h`, `d`, `a`, `b` are the fields of the R format (R40). -/
def decLnch (mn : Nat) (h : Bool) (d a b : BitVec 7) : Except Reject Instr :=
  match mn with
  | 0 => checked (.launch h d a b)
  | 1 => need (b == 0) 5 (checked (.lwait h d a))
  | 2 => need (b == 0) 5 (checked (.lstat h d a))
  | 3 => checked (.role h d a b)
  | _ => .error { reason := 2 }

/-- Major 0x35: the minors of R45. `h`, `d`, `a`, `b` are the fields of the R format (R40). -/
def decAq (mn : Nat) (h : Bool) (d a b : BitVec 7) : Except Reject Instr :=
  match mn with
  | 0 => need (b == 0) 5 (checked (.aqpost h d a))
  | 1 => need (b == 0) 5 (checked (.aqwait h d a))
  | 2 => need (b == 0) 5 (checked (.aqstat h d a))
  | 3 => need (d == 0 && b == 0) 5 (checked (.aqcancel h a))
  | _ => .error { reason := 2 }

/-- Major 0x36: the minors of R45. `h`, `d`, `a`, `b` are the fields of the R format (R40). -/
def decNet (mn : Nat) (h : Bool) (d a b : BitVec 7) : Except Reject Instr :=
  match mn with
  | 0 => need (a == 0 && b == 0) 5 (checked (.ndrain h d))
  | 1 => need (part b 1 6 == 0) 5 (checked (.ngen h d a (part b 0 1 == 1)))
  | 2 => need (b == 0) 5 (checked (.npath h d a))
  | _ => .error { reason := 2 }

/-- Major 0x37: the minors of R45. `h`, `d`, `a`, `b` are the fields of the R format (R40). -/
def decColl (mn : Nat) (h : Bool) (d a b : BitVec 7) : Except Reject Instr :=
  match mn with
  | 0 => need (b == 0) 5 (checked (.clpost h d a))
  | 1 => need (b == 0) 5 (checked (.clwait h d a))
  | 2 => need (b == 0) 5 (checked (.clstat h d a))
  | 3 => need (d == 0) 5 (checked (.clroute h a (part b 4 3) (part b 0 4)))
  | _ => .error { reason := 2 }

/-- The SHFI major 0x08: kinds 0–6, an amount in [5:0], [7:6] zero (R41). -/
def decShfi (kind : Nat) (h : Bool) (d a : BitVec 7) (z : BitVec 2) (n : BitVec 6) : Except Reject Instr :=
  match kind with
  | 0 => need (n.toNat < 32) 4 (need (z == 0) 5 (checked (.shli h d a n)))
  | 1 => need (n.toNat < 32) 4 (need (z == 0) 5 (checked (.shri h d a n)))
  | 2 => need (n.toNat < 32) 4 (need (z == 0) 5 (checked (.sari h d a n)))
  | 3 => need (n.toNat < 32) 4 (need (z == 0) 5 (checked (.roli h d a n)))
  | 4 => need (z == 0) 5 (checked (.shli64 h d a n))
  | 5 => need (z == 0) 5 (checked (.shri64 h d a n))
  | 6 => need (z == 0) 5 (checked (.sari64 h d a n))
  | _ => .error { reason := 4 }

/-- A PBLK word (R37, R46, R54): H clear, [10:0] zero, and no pattern bit at or beyond the count. -/
def decPblk (h : Bool) (p n : BitVec 3) (t : BitVec 8) (z : BitVec 11) : Except Reject Instr :=
  need (z == 0 && t.toNat < 2 ^ (n.toNat + 1)) 5 (need (!h) 7 (.ok (.pblk p n t)))

/-- Decode one instruction word (R39–R46). -/
def decodeWord (w : Word) : Except Reject Instr :=
  let mn := (fld w 21 4).toNat
  let h := flag w 31
  match (fld w 25 6).toNat with
  | 0x00 => decSys mn (flag w 31) (fld w 14 7) (fld w 7 7) (fld w 0 7)
  | 0x01 => decIop mn (flag w 31) (fld w 14 7) (fld w 7 7) (fld w 0 7)
  | 0x02 => decIopx mn (flag w 31) (fld w 14 7) (fld w 7 7) (fld w 0 7)
  | 0x03 => decIcmp mn (flag w 31) (fld w 14 7) (fld w 7 7) (fld w 0 7)
  | 0x04 => checked (.addi h (fld w 18 7) (fld w 11 7) (fld w 0 11))
  | 0x05 => checked (.andi h (fld w 18 7) (fld w 11 7) (fld w 0 11))
  | 0x06 => checked (.ori h (fld w 18 7) (fld w 11 7) (fld w 0 11))
  | 0x07 => checked (.xori h (fld w 18 7) (fld w 11 7) (fld w 0 11))
  | 0x08 => decShfi (fld w 8 3).toNat h (fld w 18 7) (fld w 11 7) (fld w 6 2) (fld w 0 6)
  | 0x09 => checked (.muli h (fld w 18 7) (fld w 11 7) (fld w 0 11))
  | 0x0A => checked (.cmpi h (fld w 21 4) (fld w 18 3) (fld w 11 7) (fld w 0 11))
  | 0x0B => checked (.movw h (fld w 18 7) (fld w 0 18))
  | 0x0C => checked (.movh h (fld w 18 7) (fld w 0 18))
  | 0x0D => checked (.sel h (flag w 24) (fld w 21 3) (fld w 14 7) (fld w 7 7) (fld w 0 7))
  | 0x0E => checked (.lea h (fld w 21 4) (fld w 14 7) (fld w 7 7) (fld w 0 7))
  | 0x0F => decMovx mn (flag w 31) (fld w 14 7) (fld w 7 7) (fld w 0 7)
  | 0x10 => decFop mn (flag w 31) (fld w 14 7) (fld w 7 7) (fld w 0 7)
  | 0x11 => decFma mn (flag w 31) (fld w 14 7) (fld w 7 7) (fld w 0 7)
  | 0x12 => decHop mn (flag w 31) (fld w 14 7) (fld w 7 7) (fld w 0 7)
  | 0x13 => decFcmp mn (flag w 31) (fld w 14 7) (fld w 7 7) (fld w 0 7)
  | 0x14 => decXfn mn (flag w 31) (fld w 14 7) (fld w 7 7) (fld w 0 7)
  | 0x15 => decCvt mn (flag w 31) (fld w 14 7) (fld w 7 7) (fld w 0 7)
  | 0x16 => decDop mn (flag w 31) (fld w 14 7) (fld w 7 7) (fld w 0 7)
  | 0x17 => decSmx mn (flag w 31) (fld w 14 7) (fld w 7 7) (fld w 0 7)
  | 0x18 => checked (.br h (fld w 0 25))
  | 0x19 => checked (.call h (fld w 0 25))
  | 0x1A => checked (.brp h (fld w 22 3) (flag w 21) (fld w 0 21))
  | 0x1B => decJx mn (flag w 31) (fld w 14 7) (fld w 7 7) (fld w 0 7)
  | 0x1C => decPblk h (fld w 22 3) (fld w 19 3) (fld w 11 8) (fld w 0 11)
  | 0x1D => decGrp mn (flag w 31) (fld w 14 7) (fld w 7 7) (fld w 0 7)
  | 0x20 => checked (.ld h (fld w 18 7) (fld w 11 7) (fld w 8 3) (fld w 0 8))
  | 0x21 => checked (.st h (fld w 18 7) (fld w 11 7) (fld w 8 3) (fld w 0 8))
  | 0x22 => if flag w 24 then checked (.ldxC h (fld w 21 3) (fld w 14 7) (fld w 7 7) (fld w 0 7))
    else checked (.ldx h (fld w 21 3) (fld w 14 7) (fld w 7 7) (fld w 0 7))
  | 0x23 => need (fld w 21 3 != 7) 3 (need (!flag w 24) 5
      (checked (.stx h (fld w 21 3) (fld w 14 7) (fld w 7 7) (fld w 0 7))))
  | 0x24 => checked (.ldAcq h (fld w 18 7) (fld w 11 7) (fld w 8 3) (fld w 0 8))
  | 0x25 => checked (.stRel h (fld w 18 7) (fld w 11 7) (fld w 8 3) (fld w 0 8))
  | 0x26 => decAtom mn (flag w 31) (fld w 14 7) (fld w 7 7) (fld w 0 7)
  | 0x27 => decAtomAr mn (flag w 31) (fld w 14 7) (fld w 7 7) (fld w 0 7)
  | 0x28 => decFence mn (flag w 31) (fld w 14 7) (fld w 7 7) (fld w 0 7)
  | 0x29 => decCctl mn (flag w 31) (fld w 14 7) (fld w 7 7) (fld w 0 7)
  | 0x2A => decTile mn (flag w 31) (fld w 14 7) (fld w 7 7) (fld w 0 7)
  | 0x2B => decTrig mn (flag w 31) (fld w 14 7) (fld w 7 7) (fld w 0 7)
  | 0x30 => decCopy mn (flag w 31) (fld w 14 7) (fld w 7 7) (fld w 0 7)
  | 0x31 => decMma mn (flag w 31) (fld w 14 7) (fld w 7 7) (fld w 0 7)
  | 0x32 => decBaton mn (flag w 31) (fld w 14 7) (fld w 7 7) (fld w 0 7)
  | 0x33 => decTask mn (flag w 31) (fld w 14 7) (fld w 7 7) (fld w 0 7)
  | 0x34 => decLnch mn (flag w 31) (fld w 14 7) (fld w 7 7) (fld w 0 7)
  | 0x35 => decAq mn (flag w 31) (fld w 14 7) (fld w 7 7) (fld w 0 7)
  | 0x36 => decNet mn (flag w 31) (fld w 14 7) (fld w 7 7) (fld w 0 7)
  | 0x37 => decColl mn (flag w 31) (fld w 14 7) (fld w 7 7) (fld w 0 7)
  | _ => .error { reason := 1 }

/-- The four bytes of a word as they stand in memory (R2, R39). -/
def wordBytes (w : Word) : List Byte :=
  [BitVec.ofNat 8 w.toNat, BitVec.ofNat 8 (w.toNat / 2 ^ 8), BitVec.ofNat 8 (w.toNat / 2 ^ 16),
   BitVec.ofNat 8 (w.toNat / 2 ^ 24)]

/-- The word that four bytes at rising addresses hold (R2). -/
def bytesWord (bs : List Byte) : Word :=
  BitVec.ofNat 32 (bs.foldr (fun b n => b.toNat + 256 * n) 0)

/-- Decode the first instruction of a list of bytes: the instruction and the bytes after it, or the reason. Fewer than
four bytes hold no word, which the model rejects under reason 0 (a fetch always reads four). -/
def decodeBytes (bs : List Byte) : Except Reject (Instr × List Byte) :=
  match bs with
  | b0 :: b1 :: b2 :: b3 :: rest =>
    match decodeWord (bytesWord [b0, b1, b2, b3]) with
    | .ok i => .ok (i, rest)
    | .error r => .error r
  | _ => .error { reason := 0 }

/-- The instruction that a row of spec/opcode_table.json with `nbits` bits and the word `w` stands for: the bytes as
the hardware stores them, given to the decoder. A row with no bits is a step that no word encodes. -/
def decodeTableWord (nbits w : Nat) : Option Instr :=
  if nbits = 32 then
    match decodeBytes (wordBytes (BitVec.ofNat 32 w)) with
    | .ok (i, _) => some i
    | .error _ => none
  else none

/-- One bit as a number. -/
def hbit (h : Bool) : Nat := if h then 1 else 0
/-- An R-format word (R40). -/
def encR (h : Bool) (mj mn d a b : Nat) : Word :=
  BitVec.ofNat 32 (hbit h * 2 ^ 31 + mj * 2 ^ 25 + mn * 2 ^ 21 + d * 2 ^ 14 + a * 2 ^ 7 + b)
/-- A word with H, a major opcode and the low 25 bits `x`. -/
def encX (h : Bool) (mj x : Nat) : Word := BitVec.ofNat 32 (hbit h * 2 ^ 31 + mj * 2 ^ 25 + x)

/-- The word of an instruction (R39–R45); a step of the part that no word encodes has none. -/
def encode (i : Instr) : Option Word :=
  match i with
  | .nop h => some (encR h 0x00 0 0 0 0)
  | .exit h => some (encR h 0x00 1 0 0 0)
  | .trap h b => some (encR h 0x00 2 0 0 b.toNat)
  | .brk h b => some (encR h 0x00 3 0 0 b.toNat)
  | .srd h d a b => some (encR h 0x00 4 d.toNat a.toNat b.toNat)
  | .swr h d a b => some (encR h 0x00 5 d.toNat a.toNat b.toNat)
  | .wbase h b => some (encR h 0x00 6 0 0 b.toNat)
  | .ubase h b => some (encR h 0x00 7 0 0 b.toNat)
  | .yield h => some (encR h 0x00 8 0 0 0)
  | .join h a => some (encR h 0x00 9 0 a.toNat 0)
  | .bar h b => some (encR h 0x00 10 0 0 b.toNat)
  | .arrive h d b => some (encR h 0x00 11 d.toNat 0 b.toNat)
  | .bwait h a b => some (encR h 0x00 12 0 a.toNat b.toNat)
  | .nap h a => some (encR h 0x00 13 0 a.toNat 0)
  | .fmtld h d a => some (encR h 0x00 14 d.toNat a.toNat 0)
  | .tret h b => some (encR h 0x00 15 0 0 b.toNat)
  | .add h d a b => some (encR h 0x01 0 d.toNat a.toNat b.toNat)
  | .sub h d a b => some (encR h 0x01 1 d.toNat a.toNat b.toNat)
  | .mul h d a b => some (encR h 0x01 2 d.toNat a.toNat b.toNat)
  | .mulh h d a b => some (encR h 0x01 3 d.toNat a.toNat b.toNat)
  | .mulhu h d a b => some (encR h 0x01 4 d.toNat a.toNat b.toNat)
  | .and h d a b => some (encR h 0x01 5 d.toNat a.toNat b.toNat)
  | .or h d a b => some (encR h 0x01 6 d.toNat a.toNat b.toNat)
  | .xor h d a b => some (encR h 0x01 7 d.toNat a.toNat b.toNat)
  | .andn h d a b => some (encR h 0x01 8 d.toNat a.toNat b.toNat)
  | .shl h d a b => some (encR h 0x01 9 d.toNat a.toNat b.toNat)
  | .shr h d a b => some (encR h 0x01 10 d.toNat a.toNat b.toNat)
  | .sar h d a b => some (encR h 0x01 11 d.toNat a.toNat b.toNat)
  | .min h d a b => some (encR h 0x01 12 d.toNat a.toNat b.toNat)
  | .max h d a b => some (encR h 0x01 13 d.toNat a.toNat b.toNat)
  | .minu h d a b => some (encR h 0x01 14 d.toNat a.toNat b.toNat)
  | .maxu h d a b => some (encR h 0x01 15 d.toNat a.toNat b.toNat)
  | .add64 h d a b => some (encR h 0x02 0 d.toNat a.toNat b.toNat)
  | .sub64 h d a b => some (encR h 0x02 1 d.toNat a.toNat b.toNat)
  | .mul64 h d a b => some (encR h 0x02 2 d.toNat a.toNat b.toNat)
  | .mad h d a b => some (encR h 0x02 3 d.toNat a.toNat b.toNat)
  | .madw h d a b => some (encR h 0x02 4 d.toNat a.toNat b.toNat)
  | .clz h d a => some (encR h 0x02 5 d.toNat a.toNat 0)
  | .popc h d a => some (encR h 0x02 6 d.toNat a.toNat 0)
  | .brev h d a => some (encR h 0x02 7 d.toNat a.toNat 0)
  | .bfe h d a b => some (encR h 0x02 8 d.toNat a.toNat b.toNat)
  | .bfi h d a b => some (encR h 0x02 9 d.toNat a.toNat b.toNat)
  | .prmt h d a b => some (encR h 0x02 10 d.toNat a.toNat b.toNat)
  | .rol h d a b => some (encR h 0x02 11 d.toNat a.toNat b.toNat)
  | .div h d a b => some (encR h 0x02 12 d.toNat a.toNat b.toNat)
  | .divu h d a b => some (encR h 0x02 13 d.toNat a.toNat b.toNat)
  | .rem h d a b => some (encR h 0x02 14 d.toNat a.toNat b.toNat)
  | .remu h d a b => some (encR h 0x02 15 d.toNat a.toNat b.toNat)
  | .icmpEq h c p a b => some (encR h 0x03 0 (c.toNat * 2 ^ 5 + p.toNat) a.toNat b.toNat)
  | .icmpNe h c p a b => some (encR h 0x03 1 (c.toNat * 2 ^ 5 + p.toNat) a.toNat b.toNat)
  | .icmpLt h c p a b => some (encR h 0x03 2 (c.toNat * 2 ^ 5 + p.toNat) a.toNat b.toNat)
  | .icmpLe h c p a b => some (encR h 0x03 3 (c.toNat * 2 ^ 5 + p.toNat) a.toNat b.toNat)
  | .icmpGt h c p a b => some (encR h 0x03 4 (c.toNat * 2 ^ 5 + p.toNat) a.toNat b.toNat)
  | .icmpGe h c p a b => some (encR h 0x03 5 (c.toNat * 2 ^ 5 + p.toNat) a.toNat b.toNat)
  | .icmpLtu h c p a b => some (encR h 0x03 6 (c.toNat * 2 ^ 5 + p.toNat) a.toNat b.toNat)
  | .icmpLeu h c p a b => some (encR h 0x03 7 (c.toNat * 2 ^ 5 + p.toNat) a.toNat b.toNat)
  | .icmpGtu h c p a b => some (encR h 0x03 8 (c.toNat * 2 ^ 5 + p.toNat) a.toNat b.toNat)
  | .icmpGeu h c p a b => some (encR h 0x03 9 (c.toNat * 2 ^ 5 + p.toNat) a.toNat b.toNat)
  | .icmpEq64 h c p a b => some (encR h 0x03 10 (c.toNat * 2 ^ 5 + p.toNat) a.toNat b.toNat)
  | .icmpNe64 h c p a b => some (encR h 0x03 11 (c.toNat * 2 ^ 5 + p.toNat) a.toNat b.toNat)
  | .icmpLt64 h c p a b => some (encR h 0x03 12 (c.toNat * 2 ^ 5 + p.toNat) a.toNat b.toNat)
  | .icmpLtu64 h c p a b => some (encR h 0x03 13 (c.toNat * 2 ^ 5 + p.toNat) a.toNat b.toNat)
  | .icmpBtst h c p a b => some (encR h 0x03 14 (c.toNat * 2 ^ 5 + p.toNat) a.toNat b.toNat)
  | .addi h d a i => some (encX h 0x04 (d.toNat * 2 ^ 18 + a.toNat * 2 ^ 11 + i.toNat))
  | .andi h d a i => some (encX h 0x05 (d.toNat * 2 ^ 18 + a.toNat * 2 ^ 11 + i.toNat))
  | .ori h d a i => some (encX h 0x06 (d.toNat * 2 ^ 18 + a.toNat * 2 ^ 11 + i.toNat))
  | .xori h d a i => some (encX h 0x07 (d.toNat * 2 ^ 18 + a.toNat * 2 ^ 11 + i.toNat))
  | .shli h d a n => some (encX h 0x08 (d.toNat * 2 ^ 18 + a.toNat * 2 ^ 11 + n.toNat))
  | .shri h d a n => some (encX h 0x08 (d.toNat * 2 ^ 18 + a.toNat * 2 ^ 11 + 1 * 2 ^ 8 + n.toNat))
  | .sari h d a n => some (encX h 0x08 (d.toNat * 2 ^ 18 + a.toNat * 2 ^ 11 + 2 * 2 ^ 8 + n.toNat))
  | .roli h d a n => some (encX h 0x08 (d.toNat * 2 ^ 18 + a.toNat * 2 ^ 11 + 3 * 2 ^ 8 + n.toNat))
  | .shli64 h d a n => some (encX h 0x08 (d.toNat * 2 ^ 18 + a.toNat * 2 ^ 11 + 4 * 2 ^ 8 + n.toNat))
  | .shri64 h d a n => some (encX h 0x08 (d.toNat * 2 ^ 18 + a.toNat * 2 ^ 11 + 5 * 2 ^ 8 + n.toNat))
  | .sari64 h d a n => some (encX h 0x08 (d.toNat * 2 ^ 18 + a.toNat * 2 ^ 11 + 6 * 2 ^ 8 + n.toNat))
  | .muli h d a i => some (encX h 0x09 (d.toNat * 2 ^ 18 + a.toNat * 2 ^ 11 + i.toNat))
  | .cmpi h c p a i => some (encX h 0x0A (c.toNat * 2 ^ 21 + p.toNat * 2 ^ 18 + a.toNat * 2 ^ 11 + i.toNat))
  | .movw h d i => some (encX h 0x0B (d.toNat * 2 ^ 18 + i.toNat))
  | .movh h d i => some (encX h 0x0C (d.toNat * 2 ^ 18 + i.toNat))
  | .sel h n p d a b => some (encX h 0x0D (hbit n * 2 ^ 24 + p.toNat * 2 ^ 21 + d.toNat * 2 ^ 14 + a.toNat * 2 ^ 7 + b.toNat))
  | .lea h s d a b => some (encX h 0x0E (s.toNat * 2 ^ 21 + d.toNat * 2 ^ 14 + a.toNat * 2 ^ 7 + b.toNat))
  | .mov h d a => some (encR h 0x0F 0 d.toNat a.toNat 0)
  | .mov64 h d a => some (encR h 0x0F 1 d.toNat a.toNat 0)
  | .pmov h d => some (encR h 0x0F 2 d.toNat 0 0)
  | .pset h a b => some (encR h 0x0F 3 0 a.toNat b.toNat)
  | .sext h d a w => some (encR h 0x0F 4 d.toNat a.toNat w.toNat)
  | .zext h d a w => some (encR h 0x0F 5 d.toNat a.toNat w.toNat)
  | .fadd h d a b => some (encR h 0x10 0 d.toNat a.toNat b.toNat)
  | .fsub h d a b => some (encR h 0x10 1 d.toNat a.toNat b.toNat)
  | .fmul h d a b => some (encR h 0x10 2 d.toNat a.toNat b.toNat)
  | .fmin h d a b => some (encR h 0x10 3 d.toNat a.toNat b.toNat)
  | .fmax h d a b => some (encR h 0x10 4 d.toNat a.toNat b.toNat)
  | .fminn h d a b => some (encR h 0x10 5 d.toNat a.toNat b.toNat)
  | .fmaxn h d a b => some (encR h 0x10 6 d.toNat a.toNat b.toNat)
  | .fabs h d a => some (encR h 0x10 7 d.toNat a.toNat 0)
  | .fneg h d a => some (encR h 0x10 8 d.toNat a.toNat 0)
  | .fcpsgn h d a b => some (encR h 0x10 9 d.toNat a.toNat b.toNat)
  | .ffloor h d a => some (encR h 0x10 10 d.toNat a.toNat 0)
  | .fceil h d a => some (encR h 0x10 11 d.toNat a.toNat 0)
  | .ftrunc h d a => some (encR h 0x10 12 d.toNat a.toNat 0)
  | .frint h d a => some (encR h 0x10 13 d.toNat a.toNat 0)
  | .ffrac h d a => some (encR h 0x10 14 d.toNat a.toNat 0)
  | .fscale h d a b => some (encR h 0x10 15 d.toNat a.toNat b.toNat)
  | .ffma h d a b => some (encR h 0x11 0 d.toNat a.toNat b.toNat)
  | .ffms h d a b => some (encR h 0x11 1 d.toNat a.toNat b.toNat)
  | .fnfma h d a b => some (encR h 0x11 2 d.toNat a.toNat b.toNat)
  | .fnfms h d a b => some (encR h 0x11 3 d.toNat a.toNat b.toNat)
  | .hadd2 h d a b => some (encR h 0x12 0 d.toNat a.toNat b.toNat)
  | .hsub2 h d a b => some (encR h 0x12 1 d.toNat a.toNat b.toNat)
  | .hmul2 h d a b => some (encR h 0x12 2 d.toNat a.toNat b.toNat)
  | .hfma2 h d a b => some (encR h 0x12 3 d.toNat a.toNat b.toNat)
  | .hmin2 h d a b => some (encR h 0x12 4 d.toNat a.toNat b.toNat)
  | .hmax2 h d a b => some (encR h 0x12 5 d.toNat a.toNat b.toNat)
  | .badd2 h d a b => some (encR h 0x12 6 d.toNat a.toNat b.toNat)
  | .bsub2 h d a b => some (encR h 0x12 7 d.toNat a.toNat b.toNat)
  | .bmul2 h d a b => some (encR h 0x12 8 d.toNat a.toNat b.toNat)
  | .bfma2 h d a b => some (encR h 0x12 9 d.toNat a.toNat b.toNat)
  | .bmin2 h d a b => some (encR h 0x12 10 d.toNat a.toNat b.toNat)
  | .bmax2 h d a b => some (encR h 0x12 11 d.toNat a.toNat b.toNat)
  | .hdot2 h d a b => some (encR h 0x12 12 d.toNat a.toNat b.toNat)
  | .bdot2 h d a b => some (encR h 0x12 13 d.toNat a.toNat b.toNat)
  | .fcmpOeq h c p a b => some (encR h 0x13 0 (c.toNat * 2 ^ 5 + p.toNat) a.toNat b.toNat)
  | .fcmpOne h c p a b => some (encR h 0x13 1 (c.toNat * 2 ^ 5 + p.toNat) a.toNat b.toNat)
  | .fcmpOlt h c p a b => some (encR h 0x13 2 (c.toNat * 2 ^ 5 + p.toNat) a.toNat b.toNat)
  | .fcmpOle h c p a b => some (encR h 0x13 3 (c.toNat * 2 ^ 5 + p.toNat) a.toNat b.toNat)
  | .fcmpOgt h c p a b => some (encR h 0x13 4 (c.toNat * 2 ^ 5 + p.toNat) a.toNat b.toNat)
  | .fcmpOge h c p a b => some (encR h 0x13 5 (c.toNat * 2 ^ 5 + p.toNat) a.toNat b.toNat)
  | .fcmpUno h c p a b => some (encR h 0x13 6 (c.toNat * 2 ^ 5 + p.toNat) a.toNat b.toNat)
  | .fcmpOrd h c p a b => some (encR h 0x13 7 (c.toNat * 2 ^ 5 + p.toNat) a.toNat b.toNat)
  | .fcmpUeq h c p a b => some (encR h 0x13 8 (c.toNat * 2 ^ 5 + p.toNat) a.toNat b.toNat)
  | .fcmpUne h c p a b => some (encR h 0x13 9 (c.toNat * 2 ^ 5 + p.toNat) a.toNat b.toNat)
  | .fcmpUlt h c p a b => some (encR h 0x13 10 (c.toNat * 2 ^ 5 + p.toNat) a.toNat b.toNat)
  | .fcmpUle h c p a b => some (encR h 0x13 11 (c.toNat * 2 ^ 5 + p.toNat) a.toNat b.toNat)
  | .fcmpUgt h c p a b => some (encR h 0x13 12 (c.toNat * 2 ^ 5 + p.toNat) a.toNat b.toNat)
  | .fcmpUge h c p a b => some (encR h 0x13 13 (c.toNat * 2 ^ 5 + p.toNat) a.toNat b.toNat)
  | .fcmpClass h c p a b => some (encR h 0x13 14 (c.toNat * 2 ^ 5 + p.toNat) a.toNat b.toNat)
  | .xfnRcp h d a => some (encR h 0x14 0 d.toNat a.toNat 0)
  | .xfnRsq h d a => some (encR h 0x14 1 d.toNat a.toNat 0)
  | .xfnSqrt h d a => some (encR h 0x14 2 d.toNat a.toNat 0)
  | .xfnExp2 h d a => some (encR h 0x14 3 d.toNat a.toNat 0)
  | .xfnLog2 h d a => some (encR h 0x14 4 d.toNat a.toNat 0)
  | .xfnSinpi h d a => some (encR h 0x14 5 d.toNat a.toNat 0)
  | .xfnCospi h d a => some (encR h 0x14 6 d.toNat a.toNat 0)
  | .xfnTanh h d a => some (encR h 0x14 7 d.toNat a.toNat 0)
  | .xfnDiv h d a b => some (encR h 0x14 8 d.toNat a.toNat b.toNat)
  | .xfnSigm h d a => some (encR h 0x14 9 d.toNat a.toNat 0)
  | .xfnExp h d a => some (encR h 0x14 10 d.toNat a.toNat 0)
  | .xfnLog h d a => some (encR h 0x14 11 d.toNat a.toNat 0)
  | .f2i h d a k s r => some (encR h 0x15 0 d.toNat a.toNat (k.toNat * 2 ^ 4 + hbit s * 2 ^ 3 + r.toNat))
  | .f2u h d a k s r => some (encR h 0x15 1 d.toNat a.toNat (k.toNat * 2 ^ 4 + hbit s * 2 ^ 3 + r.toNat))
  | .i2f h d a k s r => some (encR h 0x15 2 d.toNat a.toNat (k.toNat * 2 ^ 4 + hbit s * 2 ^ 3 + r.toNat))
  | .u2f h d a k s r => some (encR h 0x15 3 d.toNat a.toNat (k.toNat * 2 ^ 4 + hbit s * 2 ^ 3 + r.toNat))
  | .f2h h d a k s r => some (encR h 0x15 4 d.toNat a.toNat (k.toNat * 2 ^ 4 + hbit s * 2 ^ 3 + r.toNat))
  | .h2f h d a k s r => some (encR h 0x15 5 d.toNat a.toNat (k.toNat * 2 ^ 4 + hbit s * 2 ^ 3 + r.toNat))
  | .f2b h d a k s r => some (encR h 0x15 6 d.toNat a.toNat (k.toNat * 2 ^ 4 + hbit s * 2 ^ 3 + r.toNat))
  | .b2f h d a k s r => some (encR h 0x15 7 d.toNat a.toNat (k.toNat * 2 ^ 4 + hbit s * 2 ^ 3 + r.toNat))
  | .f2n h d a k s r => some (encR h 0x15 8 d.toNat a.toNat (k.toNat * 2 ^ 4 + hbit s * 2 ^ 3 + r.toNat))
  | .n2f h d a k s r => some (encR h 0x15 9 d.toNat a.toNat (k.toNat * 2 ^ 4 + hbit s * 2 ^ 3 + r.toNat))
  | .f2d h d a k s r => some (encR h 0x15 10 d.toNat a.toNat (k.toNat * 2 ^ 4 + hbit s * 2 ^ 3 + r.toNat))
  | .d2f h d a k s r => some (encR h 0x15 11 d.toNat a.toNat (k.toNat * 2 ^ 4 + hbit s * 2 ^ 3 + r.toNat))
  | .i2d h d a k s r => some (encR h 0x15 12 d.toNat a.toNat (k.toNat * 2 ^ 4 + hbit s * 2 ^ 3 + r.toNat))
  | .d2i h d a k s r => some (encR h 0x15 13 d.toNat a.toNat (k.toNat * 2 ^ 4 + hbit s * 2 ^ 3 + r.toNat))
  | .packn h d a k s r => some (encR h 0x15 14 d.toNat a.toNat (k.toNat * 2 ^ 4 + hbit s * 2 ^ 3 + r.toNat))
  | .unpkn h d a k s r => some (encR h 0x15 15 d.toNat a.toNat (k.toNat * 2 ^ 4 + hbit s * 2 ^ 3 + r.toNat))
  | .dadd h d a b => some (encR h 0x16 0 d.toNat a.toNat b.toNat)
  | .dsub h d a b => some (encR h 0x16 1 d.toNat a.toNat b.toNat)
  | .dmul h d a b => some (encR h 0x16 2 d.toNat a.toNat b.toNat)
  | .dfma h d a b => some (encR h 0x16 3 d.toNat a.toNat b.toNat)
  | .dmin h d a b => some (encR h 0x16 4 d.toNat a.toNat b.toNat)
  | .dmax h d a b => some (encR h 0x16 5 d.toNat a.toNat b.toNat)
  | .ddiv h d a b => some (encR h 0x16 6 d.toNat a.toNat b.toNat)
  | .dsqrt h d a => some (encR h 0x16 7 d.toNat a.toNat 0)
  | .deq h c p a b => some (encR h 0x16 8 (c.toNat * 2 ^ 5 + p.toNat) a.toNat b.toNat)
  | .dlt h c p a b => some (encR h 0x16 9 (c.toNat * 2 ^ 5 + p.toNat) a.toNat b.toNat)
  | .dle h c p a b => some (encR h 0x16 10 (c.toNat * 2 ^ 5 + p.toNat) a.toNat b.toNat)
  | .duno h c p a b => some (encR h 0x16 11 (c.toNat * 2 ^ 5 + p.toNat) a.toNat b.toNat)
  | .mlmrg h d a => some (encR h 0x17 0 d.toNat a.toNat 0)
  | .expsub h d a b => some (encR h 0x17 1 d.toNat a.toNat b.toNat)
  | .rescale h d a b => some (encR h 0x17 2 d.toNat a.toNat b.toNat)
  | .br h o => some (encX h 0x18 (o.toNat))
  | .call h o => some (encX h 0x19 (o.toNat))
  | .brp h p n o => some (encX h 0x1A (p.toNat * 2 ^ 22 + hbit n * 2 ^ 21 + o.toNat))
  | .jr h a => some (encR h 0x1B 0 0 a.toNat 0)
  | .callr h a => some (encR h 0x1B 1 0 a.toNat 0)
  | .ret h => some (encR h 0x1B 2 0 0 0)
  | .brx h a b => some (encR h 0x1B 3 0 a.toNat b.toNat)
  | .pblk p n t => some (encX false 0x1C (p.toNat * 2 ^ 22 + n.toNat * 2 ^ 19 + t.toNat * 2 ^ 11))
  | .vany h d a => some (encR h 0x1D 0 d.toNat a.toNat 0)
  | .vall h d a => some (encR h 0x1D 1 d.toNat a.toNat 0)
  | .ballot h d a => some (encR h 0x1D 2 d.toNat a.toNat 0)
  | .shfidx h d a b => some (encR h 0x1D 3 d.toNat a.toNat b.toNat)
  | .shfup h d a b => some (encR h 0x1D 4 d.toNat a.toNat b.toNat)
  | .shfdn h d a b => some (encR h 0x1D 5 d.toNat a.toNat b.toNat)
  | .shfxor h d a b => some (encR h 0x1D 6 d.toNat a.toNat b.toNat)
  | .gradd h d a => some (encR h 0x1D 7 d.toNat a.toNat 0)
  | .grfadd h d a => some (encR h 0x1D 8 d.toNat a.toNat 0)
  | .grmin h d a u => some (encR h 0x1D 9 d.toNat a.toNat (hbit u))
  | .grmax h d a u => some (encR h 0x1D 10 d.toNat a.toNat (hbit u))
  | .gmatch h d a => some (encR h 0x1D 11 d.toNat a.toNat 0)
  | .elect h d => some (encR h 0x1D 12 d.toNat 0 0)
  | .active h d => some (encR h 0x1D 13 d.toNat 0 0)
  | .ld h d a s o => some (encX h 0x20 (d.toNat * 2 ^ 18 + a.toNat * 2 ^ 11 + s.toNat * 2 ^ 8 + o.toNat))
  | .st h d a s o => some (encX h 0x21 (d.toNat * 2 ^ 18 + a.toNat * 2 ^ 11 + s.toNat * 2 ^ 8 + o.toNat))
  | .ldx h s d a b => some (encX h 0x22 (s.toNat * 2 ^ 21 + d.toNat * 2 ^ 14 + a.toNat * 2 ^ 7 + b.toNat))
  | .ldxC h s d a b => some (encX h 0x22 (1 * 2 ^ 24 + s.toNat * 2 ^ 21 + d.toNat * 2 ^ 14 + a.toNat * 2 ^ 7 + b.toNat))
  | .stx h s d a b => some (encX h 0x23 (s.toNat * 2 ^ 21 + d.toNat * 2 ^ 14 + a.toNat * 2 ^ 7 + b.toNat))
  | .ldAcq h d a s o => some (encX h 0x24 (d.toNat * 2 ^ 18 + a.toNat * 2 ^ 11 + s.toNat * 2 ^ 8 + o.toNat))
  | .stRel h d a s o => some (encX h 0x25 (d.toNat * 2 ^ 18 + a.toNat * 2 ^ 11 + s.toNat * 2 ^ 8 + o.toNat))
  | .aadd h d a b => some (encR h 0x26 0 d.toNat a.toNat b.toNat)
  | .axch h d a b => some (encR h 0x26 1 d.toNat a.toNat b.toNat)
  | .acas h d a b => some (encR h 0x26 2 d.toNat a.toNat b.toNat)
  | .amin h d a b => some (encR h 0x26 3 d.toNat a.toNat b.toNat)
  | .amax h d a b => some (encR h 0x26 4 d.toNat a.toNat b.toNat)
  | .aminu h d a b => some (encR h 0x26 5 d.toNat a.toNat b.toNat)
  | .amaxu h d a b => some (encR h 0x26 6 d.toNat a.toNat b.toNat)
  | .aand h d a b => some (encR h 0x26 7 d.toNat a.toNat b.toNat)
  | .aor h d a b => some (encR h 0x26 8 d.toNat a.toNat b.toNat)
  | .axor h d a b => some (encR h 0x26 9 d.toNat a.toNat b.toNat)
  | .aincw h d a b => some (encR h 0x26 10 d.toNat a.toNat b.toNat)
  | .afadd h d a b => some (encR h 0x26 11 d.toNat a.toNat b.toNat)
  | .aadd64 h d a b => some (encR h 0x26 12 d.toNat a.toNat b.toNat)
  | .acas64 h d a b => some (encR h 0x26 13 d.toNat a.toNat b.toNat)
  | .axch64 h d a b => some (encR h 0x26 14 d.toNat a.toNat b.toNat)
  | .afmax h d a b => some (encR h 0x26 15 d.toNat a.toNat b.toNat)
  | .aaddAr h d a b => some (encR h 0x27 0 d.toNat a.toNat b.toNat)
  | .axchAr h d a b => some (encR h 0x27 1 d.toNat a.toNat b.toNat)
  | .acasAr h d a b => some (encR h 0x27 2 d.toNat a.toNat b.toNat)
  | .aminAr h d a b => some (encR h 0x27 3 d.toNat a.toNat b.toNat)
  | .amaxAr h d a b => some (encR h 0x27 4 d.toNat a.toNat b.toNat)
  | .aminuAr h d a b => some (encR h 0x27 5 d.toNat a.toNat b.toNat)
  | .amaxuAr h d a b => some (encR h 0x27 6 d.toNat a.toNat b.toNat)
  | .aandAr h d a b => some (encR h 0x27 7 d.toNat a.toNat b.toNat)
  | .aorAr h d a b => some (encR h 0x27 8 d.toNat a.toNat b.toNat)
  | .axorAr h d a b => some (encR h 0x27 9 d.toNat a.toNat b.toNat)
  | .aincwAr h d a b => some (encR h 0x27 10 d.toNat a.toNat b.toNat)
  | .afaddAr h d a b => some (encR h 0x27 11 d.toNat a.toNat b.toNat)
  | .aadd64Ar h d a b => some (encR h 0x27 12 d.toNat a.toNat b.toNat)
  | .acas64Ar h d a b => some (encR h 0x27 13 d.toNat a.toNat b.toNat)
  | .axch64Ar h d a b => some (encR h 0x27 14 d.toNat a.toNat b.toNat)
  | .afmaxAr h d a b => some (encR h 0x27 15 d.toNat a.toNat b.toNat)
  | .fenceAcq h b => some (encR h 0x28 0 0 0 b.toNat)
  | .fenceRel h b => some (encR h 0x28 1 0 0 b.toNat)
  | .fenceAr h b => some (encR h 0x28 2 0 0 b.toNat)
  | .fenceSc h b => some (encR h 0x28 3 0 0 b.toNat)
  | .fenceDrain h b => some (encR h 0x28 4 0 0 b.toNat)
  | .pref h a => some (encR h 0x29 0 0 a.toNat 0)
  | .prefl1 h a => some (encR h 0x29 1 0 a.toNat 0)
  | .invl1 h a l => some (encR h 0x29 2 0 a.toNat (hbit l))
  | .rdcinv h a l => some (encR h 0x29 3 0 a.toNat (hbit l))
  | .lempty h a n => some (encR h 0x29 4 0 a.toNat n.toNat)
  | .lfull h a n => some (encR h 0x29 5 0 a.toNat n.toNat)
  | .talloc h d a b => some (encR h 0x2A 0 d.toNat a.toNat b.toNat)
  | .trel h a => some (encR h 0x2A 1 0 a.toNat 0)
  | .tdrop h a b => some (encR h 0x2A 2 0 a.toNat b.toNat)
  | .taddr h d a b => some (encR h 0x2A 3 d.toNat a.toNat b.toNat)
  | .tstat h d a => some (encR h 0x2A 4 d.toNat a.toNat 0)
  | .tcset h a b => some (encR h 0x2B 0 0 a.toNat b.toNat)
  | .tcadd h a b => some (encR h 0x2B 1 0 a.toNat b.toNat)
  | .tcwait h a b => some (encR h 0x2B 2 0 a.toNat b.toNat)
  | .tcread h d a => some (encR h 0x2B 3 d.toNat a.toNat 0)
  | .cpy h d a b => some (encR h 0x30 0 d.toNat a.toNat b.toNat)
  | .cpyr h d a b => some (encR h 0x30 1 d.toNat a.toNat b.toNat)
  | .cpym h d a b => some (encR h 0x30 2 d.toNat a.toNat b.toNat)
  | .cpys h d a b => some (encR h 0x30 3 d.toNat a.toNat b.toNat)
  | .publ h a => some (encR h 0x30 4 0 a.toNat 0)
  | .cpyt h k a b => some (encR h 0x30 5 k.toNat a.toNat b.toNat)
  | .cpyw h d a => some (encR h 0x30 6 d.toNat a.toNat 0)
  | .cpyq h d => some (encR h 0x30 7 d.toNat 0 0)
  | .mma8 h d a b => some (encR h 0x31 0 d.toNat a.toNat b.toNat)
  | .mma8s h d a b => some (encR h 0x31 1 d.toNat a.toNat b.toNat)
  | .mma8g h d a b => some (encR h 0x31 2 d.toNat a.toNat b.toNat)
  | .mma8gs h d a b => some (encR h 0x31 3 d.toNat a.toNat b.toNat)
  | .mmah h d a b => some (encR h 0x31 4 d.toNat a.toNat b.toNat)
  | .mmab h d a b => some (encR h 0x31 5 d.toNat a.toNat b.toNat)
  | .mzero h d => some (encR h 0x31 6 d.toNat 0 0)
  | .mldc h d a b => some (encR h 0x31 7 d.toNat a.toNat b.toNat)
  | .mstc h d a b => some (encR h 0x31 8 d.toNat a.toNat b.toNat)
  | .mwait h d a => some (encR h 0x31 9 d.toNat a.toNat 0)
  | .mstat h d => some (encR h 0x31 10 d.toNat 0 0)
  | .macq h d => some (encR h 0x32 0 d.toNat 0 0)
  | .mpass h a => some (encR h 0x32 1 0 a.toNat 0)
  | .mrel h => some (encR h 0x32 2 0 0 0)
  | .mwho h d => some (encR h 0x32 3 d.toNat 0 0)
  | .tknext h d a => some (encR h 0x33 0 d.toNat a.toNat 0)
  | .tkdone h => some (encR h 0x33 1 0 0 0)
  | .tkpost h a => some (encR h 0x33 2 0 a.toNat 0)
  | .tkspec h => some (encR h 0x33 3 0 0 0)
  | .tkabort h => some (encR h 0x33 4 0 0 0)
  | .tksucc h a => some (encR h 0x33 5 0 a.toNat 0)
  | .launch h d a b => some (encR h 0x34 0 d.toNat a.toNat b.toNat)
  | .lwait h d a => some (encR h 0x34 1 d.toNat a.toNat 0)
  | .lstat h d a => some (encR h 0x34 2 d.toNat a.toNat 0)
  | .role h d a b => some (encR h 0x34 3 d.toNat a.toNat b.toNat)
  | .aqpost h d a => some (encR h 0x35 0 d.toNat a.toNat 0)
  | .aqwait h d a => some (encR h 0x35 1 d.toNat a.toNat 0)
  | .aqstat h d a => some (encR h 0x35 2 d.toNat a.toNat 0)
  | .aqcancel h a => some (encR h 0x35 3 0 a.toNat 0)
  | .ndrain h d => some (encR h 0x36 0 d.toNat 0 0)
  | .ngen h d a w => some (encR h 0x36 1 d.toNat a.toNat (hbit w))
  | .npath h d a => some (encR h 0x36 2 d.toNat a.toNat 0)
  | .clpost h d a => some (encR h 0x37 0 d.toNat a.toNat 0)
  | .clwait h d a => some (encR h 0x37 1 d.toNat a.toNat 0)
  | .clstat h d a => some (encR h 0x37 2 d.toNat a.toNat 0)
  | .clroute h a l n => some (encR h 0x37 3 0 a.toNat (l.toNat * 2 ^ 4 + n.toNat))
  | .resultDelivery _ _ _ => none
  | .segmentHorizon _ => none
  | .joinTimeout _ => none
  | .napExpiry _ => none
  | .barPhaseComplete _ _ _ => none
  | .launchCommand _ => none
  | .pendingPoolCheck _ => none
  | .teamPlacement _ _ _ => none
  | .launchComplete _ => none
  | .blockedTeamSwap _ _ => none
  | .timeSliceExpiry _ _ => none
  | .drainTimeout _ _ => none
  | .teamSave _ _ => none
  | .teamRestore _ _ _ _ => none
  | .armedFire _ => none
  | .copyUnit _ _ => none
  | .publishFlip _ => none
  | .matrixStep _ => none
  | .tallocGrant _ _ _ _ => none
  | .poolStarvation _ _ => none
  | .tileFree _ _ _ => none
  | .taskDelivery _ => none
  | .qry _ _ => none
  | .bauScan _ => none
  | .refresh _ => none
  | .rpl _ _ => none
  | .cxl _ _ => none
  | .wcbFlush _ _ _ => none
  | .tlbinvComplete => none
  | .slotBoundary => none
  | .dataWindowStart => none
  | .tuningTimeout _ => none
  | .portFailed _ => none
  | .preamble _ _ => none
  | .ackFlit _ _ => none
  | .cutOff _ => none
  | .broadcastMemberDrop _ _ => none
  | .cycleSteer => none
  | .generationChange => none
  | .portDrained _ => none
  | .portTrained _ => none
  | .readRequest _ => none
  | .readReply _ => none
  | .pktWrite _ => none
  | .pktAtomic _ => none
  | .completion _ => none
  | .copyUnits _ => none
  | .copyCompletion _ => none
  | .reduceCopyUnits _ => none
  | .publish _ => none
  | .reservedPacket _ => none
  | .collectiveData _ => none
  | .collectiveAbort _ => none
  | .gangStart _ => none
  | .gangAccept _ => none
  | .gangRefuse _ => none
  | .gangGo _ => none
  | .gangCancel _ => none
  | .gangAbort _ => none
  | .gangDone _ => none
  | .gangStartTimeout _ => none
  | .gangDiscardTimeout _ => none
  | .barrierArrive _ => none
  | .barrierRelease _ => none
  | .hostCopy _ => none
  | .signal _ => none
  | .hostWait _ => none
  | .calLoad _ => none
  | .portDrain _ => none
  | .portRetrain _ => none
  | .calStatus _ => none
  | .faultReplay _ => none
  | .attest _ => none
  | .ownerClaim _ => none
  | .ownerYield _ => none
  | .doorbell _ _ => none
  | .tlbinv _ _ => none
  | .resetWrite _ _ => none
  | .abortWrite _ _ _ => none
  | .dbgHalt _ _ _ => none
  | .dbgGo _ _ _ => none
  | .dbgStep _ _ _ => none
  | .dbgData _ _ _ => none
  | .bar4Read _ _ => none
  | .bar4Write _ _ => none
  | .registerWrite _ _ _ => none
  | .moduleReset => none
  | .bringUpStage _ => none
  | .clockStep _ => none
  | .coolantFatal => none
  | .linkFailure => none
  | .writePerformed _ _ => none
  | .instructionFetch _ => none
  | .notAnInstruction _ _ => none
  | .ringLocked _ => none
  | .completionTimeout _ _ => none
  | .unitPoisoned _ => none

end
end Sys2Proof
end

