-- ==== Sys2Proof/Machine/Fetch.lean ====
section
/-! DEFINITION. Fetch.lean: fetching an instruction word (R29, R86) and the words that are not instructions (R46). -/
namespace Sys2Proof.Machine

/-- A trap or a refusal at a fetch (R86, R336): TRAP_ADDR is the transferring word's address, else the fetch address. -/
def fetchTrap (th : Thread) (cause detail : Nat) : TrapRec :=
  { cause := cause, pc := th.pc, addr := th.fetchFrom.getD th.pc, detail := detail, kind := 4, at_ := 2, further := 0 }

/-- The holder number of a core's instruction cache among the cached copies; it is not kept coherent with stores, and an
acceptance of a launch empties it of the launch's address space (R171). -/
def textHolder (core : Nat) : Nat := 192 + core

/-- The word at an address: from the instruction cache of the core, else from memory. -/
def textWord (s : State) (core asid : Nat) (a : DWord) (key : Nat) : Word :=
  match findCopy s.l1 (textHolder core) asid (a.toNat / 128) with
  | some c => BitVec.ofNat 32 (ofBytes ((c.data.drop (a.toNat % 128)).take 4))
  | none => readWord s key

/-- The word at a thread's PC, or the trap of its fetch (R29, R86, R161). -/
def fetchWord (s : State) (l : Launch) (core : Nat) (th : Thread) : Except TrapRec Word :=
  let a := th.pc
  if tagOk a = false ∨ addrTag a ≠ 0 then .error (fetchTrap th addressSpace 0)
  else if a.toNat % 4 ≠ 0 then .error (fetchTrap th misaligned 0)
  else match translate s (addrDie a) l.asid (addrOff a) .fetch with
  | .error d => .error (fetchTrap th d.cause d.detail)
  | .ok (lvl, e) =>
    let key := hbmKey (addrDie a) (physOf lvl e (addrOff a))
    if (findCopy s.l1 (textHolder core) l.asid (a.toNat / 128)).isNone && poisoned s key 4 then .error (fetchTrap th dataError 0)
    else .ok (textWord s core l.asid a key)

/-- A fetch that is refused (R86, R337): the thread parks at the fetch, or traps. -/
def refuseFetch (s : State) (t : Tid) (th : Thread) (r : TrapRec) : State :=
  match r.parks, s.ofThread t with
  | true, some (l, g) =>
    let p : Pend := { id := s.nextId, pc := th.pc, dst := .none, op := .fetch, addr := th.pc, loc := none, st := .sent, blk := th.blk }
    let s1 := s.fresh.2.modThread t (fun th => { th with refused := insertRefused th.refused { p := p, trap := some r }, hz := false })
    parkLanes s1 l g [t.lane] { r with addr := th.pc }
  | _, _ => trapNow s t r th.blk

/-- Count the uncorrectable error that a thread's fetch meets (R442). -/
def countFetch (s : State) (l : Launch) (a : DWord) (r : TrapRec) : State := if r.cause = dataError then countReads s l.asid 4 1 a else s

/-- The lines an instruction cache holds at most: 64 KiB (R170). -/
def textLines : Nat := 512

/-- A fetch keeps the leaf it found (R179) and the line of text (R171). -/
def fetchFill (s : State) (l : Launch) (core : Nat) (a : DWord) : State :=
  let s1 := fillMtlb s (addrDie a) l.asid (addrOff a)
  match findCopy s1.l1 (textHolder core) l.asid (a.toNat / 128), translate s1 (addrDie a) l.asid (addrOff a) .fetch with
  | none, .ok (lvl, e) =>
    let k0 := hbmKey (addrDie a) (physOf lvl e (addrOff a)) / 128 * 128
    if poisoned s1 k0 128 then s1
    else
      let c : Copy := { holder := textHolder core, asid := l.asid, line := a.toNat / 128, kind := leafKind e, place := k0 / 128, data := memRead s1.mem 128 k0 }
      { s1 with l1 := putCopyIn textLines s1.l1 c }
  | _, _ => s1

/-- INSTRUCTION_FETCH (R29): the next word of a thread is fetched, or its fetch is refused. -/
def execInstructionFetch (t : Tid) (s : State) : Out :=
  match s.ofThread t, s.thread? t with
  | some (l, g), some th =>
    if g.resident = false ∨ th.exited ∨ th.hz ∨ th.wait.isSome ∨ th.drain.isSome ∨ th.parked ∨ th.halted ∨ th.fetched.isSome then notNow
    else match fetchWord s l g.core th with
    | .ok w => .next ((fetchFill s l g.core th.pc).modThread t (fun th => { th with fetched := some w }))
    | .error r => .next (refuseFetch (countFetch s l th.pc r) t th r)
  | _, _ => notNow

/-- NOT_AN_INSTRUCTION (R46, R47): the word raises ILLEGAL_INSTR at once, with its lowest reason, also where its block
skips it. -/
def execNotAnInstruction (_w : Word) (reason : Nat) (s : State) : Out :=
  match s.cur with
  | none => .next s
  | some t =>
    match s.thread? t with
    | some th => .next (trapNow s t (trapPlain th.pc illegalInstr reason) th.blk)
    | none => .next s

end Sys2Proof.Machine
end

