-- ==== Sys2Proof/Machine/Grp.lean ====
section
/-! DEFINITION. Grp.lean: the group-collective instructions (R148–R153). -/
namespace Sys2Proof.Machine

/-! Gathered minors: the participants are the members of the constellation, of the issuer's group, that execute the word
(R148). -/

/-- The participants and their values, by lane. -/
def participants (s : State) (c : Ctx) (own : Word) : List (Nat × Word) :=
  (c.t.lane, own) :: (s.gather.filter (fun x => x.1.gid == c.t.gid && x.1.lane != c.t.lane)).map (fun x => (x.1.lane, x.2))

/-- A gathered minor: its destination is a vector register. -/
def gathered (h : Bool) (d : BitVec 7) (a : Option (BitVec 7)) (f : Word → List (Nat × Word) → Word) (s : State) : Out :=
  issueWith h s (fun c s => do
    let dst ← dest c 1 d
    let x ← (match a with
      | some a => src32 c a
      | none => .ok 0)
    require (!dst.isUni) c.illegal
    .ok (.done (addResult s c.t c.th.pc dst [f x (participants s c x)])))

def laneMask (l : List (Nat × Word)) : Word := l.foldl (fun m x => m ||| BitVec.ofNat 32 (2 ^ x.1)) 0
def flagWord (b : Bool) : Word := if b then 1 else 0

/-- VANY (R150). -/
def execVany (h : Bool) (d a : BitVec 7) (s : State) : Out :=
  gathered h d (some a) (fun _ ps => flagWord (ps.any (fun x => x.2 != 0))) s

/-- VALL (R150). -/
def execVall (h : Bool) (d a : BitVec 7) (s : State) : Out :=
  gathered h d (some a) (fun _ ps => flagWord (ps.all (fun x => x.2 != 0))) s

/-- BALLOT (R150). -/
def execBallot (h : Bool) (d a : BitVec 7) (s : State) : Out :=
  gathered h d (some a) (fun _ ps => laneMask (ps.filter (fun x => x.2 != 0))) s

/-- MATCH (R150). -/
def execGmatch (h : Bool) (d a : BitVec 7) (s : State) : Out :=
  gathered h d (some a) (fun own ps => laneMask (ps.filter (fun x => x.2 == own))) s

/-- ACTIVE (R150). -/
def execActive (h : Bool) (d : BitVec 7) (s : State) : Out :=
  gathered h d none (fun _ ps => laneMask ps) s

/-! Rendezvous minors: the participants are the live threads of the group (R148, R149). -/

/-- A participant of a rendezvous. -/
structure Part where
  lane  : Nat
  p     : Pend
  minor : Nat
  u     : Bool
  a     : Word
  b     : Word

/-- The arrivals of the live threads of a group in their k-th rendezvous. -/
def arrivals (g : Group) (k : Nat) : List Part :=
  (g.threads.zipIdx.filter (fun x => !x.1.exited)).filterMap (fun x =>
    x.1.infl.findSome? (fun p => match p.op with
      | .rendez minor u k' a b => if k' = k ∧ p.bound = false then some { lane := x.2, p := p, minor := minor, u := u, a := a, b := b } else none
      | _ => none))

/-- The value a lane brings to a rendezvous. -/
def valueOf (ps : List Part) (lane : Nat) : Option Word := (ps.find? (fun x => x.lane == lane)).map (fun x => x.a)

/-- One level of the tree of R152. -/
def treeStep (w : Nat) (xs : List (Option Word)) : List (Option Word) :=
  xs.zipIdx.map (fun x =>
    if x.2 % (2 * w) = 0 then
      match x.1, xs.getD (x.2 + w) none with
      | none, v => v
      | u, none => u
      | some u, some v => some (fpAdd u v)
    else x.1)

/-- GRFADD's sum (R152). -/
def treeSum (ps : List Part) : Word :=
  ((([1, 2, 4, 8, 16] : List Nat).foldl (fun xs w => treeStep w xs) ((List.range 32).map (valueOf ps))).headD none).getD 0

/-- The source lane of a shuffle (R151), or none. -/
def shuffleSrc (minor lane : Nat) (b : Word) : Option Nat :=
  let k := bits b 4 0
  match minor with
  | 3 => some k
  | 4 => if lane < k then none else some (lane - k)
  | 5 => if lane + k < 32 then some (lane + k) else none
  | _ => some (lane ^^^ k)

/-- The lesser or greater over the participants. -/
def extreme (max u : Bool) (xs : List Word) : Word :=
  let less := fun (x y : Word) => if u then decide (x.toNat < y.toNat) else decide (x.toInt < y.toInt)
  match xs with
  | [] => 0
  | x :: r => r.foldl (fun m y => if (if max then less m y else less y m) then y else m) x

/-- The result a participant receives (R150). -/
def rendezResult (ps : List Part) (x : Part) : Word :=
  match x.minor with
  | 7 => (ps.map (fun y => y.a)).foldl (· + ·) 0
  | 8 => treeSum ps
  | 9 => extreme false x.u (ps.map (fun y => y.a))
  | 10 => extreme true x.u (ps.map (fun y => y.a))
  | 12 => flagWord (ps.all (fun y => decide (x.p.id ≤ y.p.id)))
  | m => match shuffleSrc m x.lane x.b with
    | some l => (valueOf ps l).getD x.a
    | none => x.a

/-- Deliver one participant's result, or trap at its completion where they differ (R149, R336): the trap is taken at once, and the word
executes again after TRET in mode 0 (R36). -/
def endPart (bad : Bool) (ps : List Part) (gid : Nat) (s : State) (x : Part) : State :=
  let t : Tid := { gid := gid, lane := x.lane }
  if bad then trapEntry s t x.p { x.p.trap illegalOperand 0 with at_ := 3 }
  else if x.p.dst = .none then s.modThread t (fun th => { th with infl := th.infl.filter (fun q => q.id != x.p.id) })
  else s.modThread t (fun th => { th with infl := th.infl.map (fun q =>
    if q.id = x.p.id then { q with st := .ready [some (rendezResult ps x)], late := th.halted } else q) })

/-- The outstanding rendezvous of a group's live threads, by number. -/
def openRendez (g : Group) : List Nat :=
  (g.threads.filter (fun th => !th.exited)).flatMap (fun th => th.infl.filterMap (fun p => match p.op with
    | .rendez _ _ k _ _ => if p.bound then none else some k
    | _ => none))

/-- Complete every rendezvous of a group in which all live threads have arrived (R149); with fuel for their number. -/
def finishRendez (s : State) (gid : Nat) : Nat → State
  | 0 => s
  | fuel + 1 =>
    match s.group? gid with
    | none => s
    | some g =>
      match openRendez g with
      | [] => s
      | k0 :: r =>
        let k := firstCount k0 r
        if (g.threads.filter (fun th => !th.exited)).all (fun th => countReached th.rendez k) then
          let ps := arrivals g k
          let bad := match ps with
            | [] => false
            | x :: r => r.any (fun y => y.minor != x.minor || ((x.minor == 9 || x.minor == 10) && y.u != x.u))
          finishRendez (ps.foldl (endPart bad ps gid) s) gid fuel
        else s

def tryRendez (s : State) (gid : Nat) : State := finishRendez s gid (match s.group? gid with
  | some g => (openRendez g).length + 1
  | none => 0)

/-- A rendezvous minor: the thread's arrival. -/
def rendezvous (h : Bool) (minor : Nat) (u : Bool) (d : BitVec 7) (a b : Option (BitVec 7)) (s : State) : Out :=
  issueWith h s (fun c s => do
    let rd := fun (x : Option (BitVec 7)) => match x with
      | some x => src32 c x
      | none => .ok 0
    let dst ← dest c 1 d
    let x ← rd a
    let y ← rd b
    require (!dst.isUni) c.illegal
    let k := (c.th.rendez + 1).toNat
    let s1 := s.modThread c.t (fun th => { th with rendez := th.rendez + 1 })
    .ok (.met (addPend s1 c.t c.th.pc dst (.rendez minor u k x y) 0 none .sent) (fun s => tryRendez s c.t.gid)))

/-- SHFIDX (R151). -/
def execShfidx (h : Bool) (d a b : BitVec 7) (s : State) : Out := rendezvous h 3 false d (some a) (some b) s
/-- SHFUP (R151). -/
def execShfup (h : Bool) (d a b : BitVec 7) (s : State) : Out := rendezvous h 4 false d (some a) (some b) s
/-- SHFDN (R151). -/
def execShfdn (h : Bool) (d a b : BitVec 7) (s : State) : Out := rendezvous h 5 false d (some a) (some b) s
/-- SHFXOR (R151). -/
def execShfxor (h : Bool) (d a b : BitVec 7) (s : State) : Out := rendezvous h 6 false d (some a) (some b) s
/-- GRADD (R150). -/
def execGradd (h : Bool) (d a : BitVec 7) (s : State) : Out := rendezvous h 7 false d (some a) none s
/-- GRFADD (R152). -/
def execGrfadd (h : Bool) (d a : BitVec 7) (s : State) : Out := rendezvous h 8 false d (some a) none s
/-- GRMIN (R150). -/
def execGrmin (h : Bool) (d a : BitVec 7) (u : Bool) (s : State) : Out := rendezvous h 9 u d (some a) none s
/-- GRMAX (R150). -/
def execGrmax (h : Bool) (d a : BitVec 7) (u : Bool) (s : State) : Out := rendezvous h 10 u d (some a) none s
/-- ELECT (R150). -/
def execElect (h : Bool) (d : BitVec 7) (s : State) : Out := rendezvous h 12 false d none none s

end Sys2Proof.Machine
end

