-- ==== Sys2Proof/Machine/SysRegs.lean ====
section
/-! DEFINITION. SysRegs.lean: the system registers as SRD and SWR reach them (R26, R68–R71), and the calendar's registers
(R366, R367, R372). -/
namespace Sys2Proof.Machine

/-- The numbers of the system register map (R26, R69). -/
def sysMap : List Nat :=
  [0x000, 0x001, 0x010, 0x011, 0x012, 0x013, 0x014, 0x018, 0x020, 0x021, 0x022, 0x023, 0x040, 0x041, 0x042, 0x044,
   0x048, 0x049, 0x04A, 0x04B, 0x04C, 0x04D, 0x050, 0x060, 0x100, 0x101, 0x102, 0x103, 0x104, 0x105, 0x106, 0x107,
   0x108, 0x110]

/-- The registers marked G (R69). -/
def sysG (n : Nat) : Bool :=
  (decide (0x010 ≤ n) && decide (n ≤ 0x023)) || decide (0x100 ≤ n)

/-- The registers whose SRD has variable latency (R33). -/
def sysVar (n : Nat) : Bool := decide (n ≤ 1) || (decide (0x100 ≤ n) && decide (n ≤ 0x108))

def calSlots (s : State) : Nat := match s.net.cal with
  | some c => c.s
  | none => 1
def calSlotLen (s : State) : Nat := match s.net.cal with
  | some c => c.slotLen
  | none => 4000
def calGuard (s : State) : Nat := match s.net.cal with
  | some c => c.guard
  | none => 96
/-- CAL_OFFSET: 0x8000_0000 without an estimate (R366). -/
def calOffset (s : State) : Word := match s.net.offset with
  | some x => BitVec.ofInt 32 x
  | none => 0x80000000

def BankSt.code : BankSt → Nat
  | .dark => 0
  | .tuning => 1
  | .locked => 2
  | .fault => 3

/-- The lock state of an optical engine (R372): the first of FAULT, TUNING, LOCKED and DARK that a bank of its ports
holds. -/
def engineLock (s : State) (k : Nat) : Nat :=
  let bs := (List.range 4).flatMap (fun j => match s.net.ports[4 * k + j]? with
    | some p => [p.cur.st, p.spare.st]
    | none => [])
  if bs.contains .fault then 3 else if bs.contains .tuning then 1 else if bs.contains .locked then 2 else 0

def calLock (s : State) : Word :=
  BitVec.ofNat 32 (((List.range 16).map (fun k => engineLock s k * 4 ^ k)).sum)

/-- STK (R26). -/
def stkWord (th : Thread) : Word := BitVec.ofNat 32 (min 8 th.stack.length * 2 ^ 24 + th.stack.length)

def teamProgress (l : Launch) (team : Nat) : Word := match l.team? team with
  | some t => t.progress
  | none => 0

/-- The value of a system register for a thread (R26, R69, R70). -/
def sysValue (s : State) (c : Ctx) (n : Nat) : Word :=
  let hi := fun (x : Nat) => BitVec.ofNat 32 (x / 2 ^ 32)
  match n with
  | 0x000 => BitVec.ofNat 32 s.ns
  | 0x001 => c.th.clockCap.getD (hi s.ns)
  | 0x010 => BitVec.ofNat 32 s.pkgId.toNat
  | 0x011 => BitVec.ofNat 32 c.g.die
  | 0x012 => BitVec.ofNat 32 (coreLocal c.g.core)
  | 0x013 => BitVec.ofNat 32 c.g.quad
  | 0x014 => BitVec.ofNat 32 (coreLocal c.g.core / 8)
  | 0x018 => BitVec.ofNat 32 c.l.ref.id
  | 0x020 => BitVec.ofNat 32 Config.caps
  | 0x040 => BitVec.ofNat 32 c.th.vwb.toNat
  | 0x041 => BitVec.ofNat 32 c.th.uwb.toNat
  | 0x042 => BitVec.ofNat 32 c.th.regs.length
  | 0x044 => stkWord c.th
  | 0x048 => BitVec.ofNat 32 c.th.trapCause.toNat
  | 0x049 => loWord c.th.trapPc
  | 0x04A => hiWord c.th.trapPc
  | 0x04B => loWord c.th.trapAddr
  | 0x04C => hiWord c.th.trapAddr
  | 0x04D => c.th.trapInfo
  | 0x050 => teamProgress c.l c.g.team
  | 0x060 => c.th.srseed
  | 0x100 => BitVec.ofNat 32 s.calSlot.toNat
  | 0x101 => loWord s.calCycle
  | 0x102 => c.th.calCap.getD (hiWord s.calCycle)
  | 0x103 => calGen s
  | 0x104 => BitVec.ofNat 32 (calSlots s)
  | 0x105 => BitVec.ofNat 32 (calSlotLen s)
  | 0x106 => BitVec.ofNat 32 (calGuard s)
  | 0x107 => calOffset s
  | 0x108 => calLock s
  | 0x110 => s.netWeights
  | _ => 0

/-- What an SRD does to the captures (R70). -/
def captures (s : State) (n : Nat) (th : Thread) : Thread :=
  match n with
  | 0x000 => { th with clockCap := some (BitVec.ofNat 32 (s.ns / 2 ^ 32)) }
  | 0x001 => { th with clockCap := none }
  | 0x101 => { th with calCap := some (hiWord s.calCycle) }
  | 0x102 => { th with calCap := none }
  | _ => th

/-- A vector window base may be written (R26). -/
def vwbOk (th : Thread) (x : Nat) : Bool := x % 16 == 0 && decide (x < th.regs.length)
/-- A uniform window base may be written (R26). -/
def uwbOk (x : Nat) : Bool := x % 8 == 0 && decide (x ≤ 56)

/-! Barrier sets (R127, R159). -/

/-- The threads of a launch over all its packages. -/
def Launch.threadCount (l : Launch) : Nat := l.P * l.T * (32 * l.hdr.g)

/-- The work identifiers of a level-L set: from, to (R127). -/
def setRange (l : Launch) (level set : Nat) : Nat × Nat :=
  (set * 2 ^ levelBits l.hdr level, min (set * 2 ^ levelBits l.hdr level + 2 ^ levelBits l.hdr level) l.threadCount)

/-- The set lies within one block of `n` consecutive work identifiers. -/
def setWithin (l : Launch) (level set n : Nat) : Bool :=
  let r := setRange l level set
  r.1 / n == (r.2 - 1) / n

/-- The set holds threads of other packages (R158). -/
def setSpans (l : Launch) (level set : Nat) : Bool := !setWithin l level set (l.T * (32 * l.hdr.g))

/-- The scope of a barrier at a set (R159). -/
def barScope (l : Launch) (level set : Nat) : Nat :=
  if levelBits l.hdr level ≤ 5 then 0
  else if setWithin l level set (32 * l.hdr.g) then 1
  else if level ≤ l.hdr.lc ∧ l.hdr.cluster then 2
  else if setSpans l level set then 5
  else 4

/-- The level-L set of a thread. -/
def threadSet (c : Ctx) (level : Nat) : Nat := levelSet c.l.hdr level (widOf c.l c.g c.t.lane)

/-- Phases of a set that have completed (R157). -/
def phaseCount (l : Launch) (level set : Nat) : Nat :=
  match l.phases.find? (fun p => p.1 == level && p.2.1 == set) with
  | some p => p.2.2
  | none => 0

/-- A barrier instruction marks its team as not flushable when its set reaches beyond the team (R347). -/
def barMark (c : Ctx) (level : Nat) (th : Thread) : Thread :=
  if setWithin c.l level (threadSet c level) (32 * c.l.hdr.g) then th else { th with barsFlush := true }

end Sys2Proof.Machine
end

