-- ==== Sys2Proof/Machine/NetWords.lean ====
section
/-! DEFINITION. NetWords.lean: the NET instructions (R401, R402). -/
namespace Sys2Proof.Machine

/-- A uniform destination of a NET or COLL minor raises ILLEGAL_OPERAND (R401, R416). -/
def vecDest (c : Ctx) (d : BitVec 7) : Res Dst := do
  let dst ← dest c 1 d
  require (!dst.isUni) c.illegal
  .ok dst

/-- LOG: the lowest open generation (R389). -/
def lowestOpen (s : State) : Word :=
  let cur := (calGen s).toNat
  BitVec.ofNat 32 (s.net.out.foldl (fun m o => if genLe o.pkt.gen m then o.pkt.gen else m) cur)

/-- Generation `g` is closed as NGEN asks it (R402). -/
def ngenOver (s : State) (g : Word) : Bool :=
  let d := (lowestOpen s - g).toNat
  decide (1 ≤ d) && decide (d ≤ 2 ^ 31 - 1)

/-- Every peer store and atomic of a thread before number `upto` is acknowledged or failed (R402). -/
def ndrainOver (th : Thread) (upto : Nat) : Bool :=
  th.infl.all (fun q => decide (upto ≤ q.id) || q.bound || addrTag q.addr != 4 || !q.op.isWrite)

/-- NDRAIN (R402). -/
def execNdrain (h : Bool) (d : BitVec 7) (s : State) : Out :=
  issueWith h s (fun c s => do
    let dst ← vecDest c d
    .ok (.wait s (.ndrain s.nextId dst)))

/-- NGEN (R402). -/
def execNgen (h : Bool) (d a : BitVec 7) (w : Bool) (s : State) : Out :=
  issueWith h s (fun c s => do
    let dst ← dest c 1 d
    let g ← src32 c a
    require (!dst.isUni) c.illegal
    if w then .ok (.wait s (.ngen g dst)) else .ok (.done (putCtx s (c.write dst [lowestOpen s]))))

/-- The valid DIRECT entries that name a package: their slots (R381, R402). -/
def directSlots (s : State) (q : Nat) : List Nat :=
  ((liveEntries s).filter (fun x => !x.2.2.bcast && x.2.2.peer == q)).map (fun x => x.1)

/-- The first slot after CAL_SLOT, cyclically, with a DIRECT entry to a package; 0x7F when there is none (R402). -/
def nextSlot (s : State) (q : Nat) : Nat :=
  let n := calSlots s
  let order := (List.range n).map (fun i => (s.calSlot.toNat + 1 + i) % n)
  (order.find? (fun k => (directSlots s q).contains k)).getD 0x7F

/-- The word of NPATH (R402). -/
def pathWord (s : State) (q : Nat) : Word :=
  BitVec.ofNat 32 ((if reachable s q then 2 ^ 31 else 0) + min (directSlots s q).length 255 * 2 ^ 16 + nextSlot s q)

/-- NPATH (R402). -/
def execNpath (h : Bool) (d a : BitVec 7) (s : State) : Out :=
  issueWith h s (fun c s => do
    let dst ← dest c 1 d
    let x ← src32 c a
    require (!dst.isUni) c.illegal
    .ok (.done (putCtx s (c.write dst [pathWord s (bits x 9 0)]))))

end Sys2Proof.Machine
end

