-- ==== Sys2Proof/Machine/CollWords.lean ====
section
/-! DEFINITION. CollWords.lean: the COLL instructions, the route table and the collective descriptor (R407, R408,
R416–R419, R445). -/
namespace Sys2Proof.Machine

/-! The route table (R407). -/

/-- A route table keeps the limits of R407 on a die of this package. -/
def routeOk (s : State) (die : Nat) (t : List Byte) : Bool :=
  let ms := (List.range (rtP t)).map (rtMember t)
  decide (2 ≤ rtP t) && decide (rtP t ≤ 16) && decide (rtOwn t < rtP t) && zeroAt t 0x04 4 && zeroAt t 0x28 24
    && ms.all (fun x => decide (x < 4096)) && ms.eraseDups.length == ms.length
    && zeroAt t (8 + 2 * rtP t) (2 * (16 - rtP t))
    && mbPkg (rtMember t (rtOwn t)) == s.pkgId.toNat && mbDie (rtMember t (rtOwn t)) == die

/-! The descriptor (R408). -/

def clSrc (d : List Byte) : DWord := fieldP d 0x00
def clDst (d : List Byte) : DWord := fieldP d 0x08
def clLen (d : List Byte) : Nat := fieldN d 0x10 4
def clSig (d : List Byte) : Nat := fieldN d 0x14 4
def clKind (d : List Byte) : Nat := fieldN d 0x18 1 % 16
def clRoot (d : List Byte) : Nat := fieldN d 0x18 1 / 16
def clRop (d : List Byte) : Nat := fieldN d 0x19 1 % 16
def clRtype (d : List Byte) : Nat := fieldN d 0x19 1 / 16 % 8
def clRslot (d : List Byte) : Nat := fieldN d 0x1A 1 % 16
def clWait (d : List Byte) : Bool := fieldN d 0x1A 1 / 16 % 2 == 1
def clSigf (d : List Byte) : Bool := fieldN d 0x1A 1 / 32 % 2 == 1
def clCls (d : List Byte) : Nat := fieldN d 0x1B 1 % 8
def clThr (d : List Byte) : Word := BitVec.ofNat 32 (fieldN d 0x1C 4)
def clW (d : List Byte) : DWord := fieldP d 0x20
def clG (d : List Byte) : DWord := fieldP d 0x28
def clAux (d : List Byte) : Word := BitVec.ofNat 32 (fieldN d 0x30 4)

/-- Row 1 of R445 for a collective; `p` is the number of members of the slot's table. -/
def clFields (d : List Byte) (p : Nat) : Bool :=
  let n := clLen d
  decide (16 ≤ n) && decide (n ≤ 268435456) && n % 16 == 0
    && (decide ((clDst d).toNat + n ≤ (clSrc d).toNat) || decide ((clSrc d).toNat + n ≤ (clDst d).toNat))
    && decide (clKind d ≤ 3) && decide (clRoot d < p)
    && decide (fieldN d 0x19 1 < 128) && (if clKind d ≤ 1 then reduceOk (clRop d) (clRtype d) else fieldN d 0x19 1 == 0)
    && decide (fieldN d 0x1A 1 < 64) && decide (fieldN d 0x1B 1 < 8) && zeroAt d 0x34 12

/-- The pointers of a descriptor that are in use, each with its alignment. -/
def clPtrs (d : List Byte) : List (DWord × Nat) :=
  [(clSrc d, 16), (clDst d, 16)] ++ (if clWait d then [(clW d, 4)] else []) ++ (if clSigf d then [(clG d, 4)] else [])

/-- The pointers have tags that their fields allow. -/
def clTags (d : List Byte) : Bool :=
  addrTag (clSrc d) == 0 && addrTag (clDst d) == 0 && (!clWait d || addrTag (clW d) == 0)
    && (!clSigf d || addrTag (clG d) == 0 || addrTag (clG d) == 4)

/-- The checks of R445 for a collective, with the capability that a peer G needs first (R132). -/
def clCheck (s : State) (l : Launch) (pc : DWord) (d : List Byte) (t : Option (List Byte)) : Option TrapRec :=
  if clSigf d ∧ addrTag (clG d) = 4 ∧ l.has 9 = false then some (illegalAt pc)
  else match t with
    | none => some (illegalAt pc)
    | some t =>
      if clFields d (rtP t) = false then some (illegalAt pc)
      else match badPtr (clPtrs d) (fun a _ => tagOk a) with
        | some a => some (descTrap pc addressSpace 0 a)
        | none =>
          if clTags d = false then some (illegalAt pc)
          else match badPtr (clPtrs d) (fun a n => a.toNat % n == 0) with
            | some a => some (descTrap pc misaligned 0 a)
            | none =>
              if clSigf d ∧ addrTag (clG d) = 4 ∧ reachable s (addrPkg (clG d)) = false then
                some (descTrap pc remoteUnreachable 0 (clG d))
              else none

/-! Route slots (R407, R419). -/

def State.routeSlot? (s : State) (l : LRef) (n : Nat) : Option RouteSlot :=
  s.routes.find? (fun r => r.launch == l && r.n == n)

def State.putRoute (s : State) (r : RouteSlot) : State :=
  let rest := s.routes.filter (fun x => !(x.launch == r.launch && x.n == r.n))
  { s with routes := r :: rest }

/-- The tables whose phase has completed become active; the numbers restart and the aborts kept for the table before are
discarded (R419). -/
def activateRoute (s : State) (r : RouteSlot) : State :=
  match r.staged, s.launch? r.launch with
  | some (t, level, set, phase, _), some l =>
    if phase < phaseCount l level set then
      let old := match r.table with
        | some o => s.aborts.filter (fun a => !(a.die == r.launch.die && a.group == rtGroup o && a.key == l.podKey))
        | none => s.aborts
      State.putRoute { s with aborts := old } { r with table := some t, staged := none, cseq := 0 }
    else s
  | _, _ => s

/-- A thread ends: the tables it has staged without arriving since never become active (R419). -/
def dropStaged (s : State) (t : Tid) (th : Thread) : State :=
  let never := fun (r : RouteSlot) => match r.staged with
    | some (_, level, _, phase, u) => u == t && decide (th.arrivals.getD level 0 ≤ phase)
    | none => false
  { s with routes := s.routes.map (fun r => if never r then { r with staged := none } else r) }

def activateRoutes (s : State) : State := s.routes.foldl activateRoute s

/-! Posting (R417). -/

/-- A collective ends: its status stays in the thread's slot (R418). -/
def endColl (s : State) (c : Coll) : State :=
  let s1 := { s with colls := s.colls.filter (fun x => x.id != c.id), trigs := s.trigs.filter (fun r => r.id != c.id) }
  let x : Slot := { busy := false, seq := c.seq, ended := true, status := BitVec.ofNat 32 (c.code * 2 ^ 24), route := c.rslot }
  s1.modThread c.t (fun th => { th with cslots := th.cslots.set c.slot x })

/-- An abort that has reached the die for a collective before it was posted (R414). -/
def earlyAbort (s : State) (c : Coll) : Option AbortRec :=
  s.aborts.find? (fun a => a.die == c.die && a.group == rtGroup c.table && a.cseq == c.cseq && a.key == c.key)

/-- The collective and its slot (R413, R417). -/
def postColl (s : State) (t : Tid) (l : Launch) (g : Group) (th : Thread) (k : Nat) (d : List Byte) (r : RouteSlot)
    (table : List Byte) : State × Word :=
  let f := s.fresh
  let seq := (th.cseq + 1) % 8192
  let c : Coll :=
    { id := f.1, die := g.die, t := t, launch := l.ref, slot := k, seq := seq, rslot := r.n, cseq := r.cseq, table := table,
      desc := d, asid := l.asid, key := l.podKey, st := if clWait d then .unregistered else .running, next := 0, passed := 0,
      written := [], out := [], held := none, sigTag := none, code := 0 }
  let s1 := f.2.putRoute { r with cseq := (r.cseq + 1) % 2 ^ 32 }
  let s2 := s1.modThread t (fun th =>
    { th with cseq := seq, cslots := th.cslots.set k { busy := true, seq := seq, ended := false, status := 0, route := r.n } })
  let s3 := match earlyAbort s2 c with
    | some a => endColl { s2 with aborts := s2.aborts.erase a } { c with code := a.code }
    | none => { s2 with colls := s2.colls ++ [c] }
  (s3, BitVec.ofNat 32 (seq * 8 + k))

/-- Post a collective whose descriptor has been read and checked, once a slot of the thread is free (R417). -/
def slotColl (s : State) (t : Tid) (l : Launch) (g : Group) (th : Thread) (d : List Byte) : PostRes :=
  let r := s.routeSlot? l.ref (clRslot d)
  match freeSlot th.cslots, r, r.bind (fun r => r.table) with
  | some k, some r, some table =>
    let q := postColl s t l g th k d r table
    .done q.1 q.2
  | _, _, _ => .hold d

/-- Try to post a collective (R417): its descriptor is read and checked once. -/
def tryColl (s : State) (t : Tid) (l : Launch) (g : Group) (th : Thread) (pc p : DWord) (got : List Byte) : PostRes :=
  if got ≠ [] then slotColl s t l g th got
  else if ownWrites s l g th s.nextId p 64 then .wait
  else match unitRead s l g p 64 with
  | .wait => .wait
  | .fault c d => .trap (countUnit s l p 64) (descTrap pc c d p)
  | .ok d =>
    match clCheck s l pc d ((s.routeSlot? l.ref (clRslot d)).bind (fun r => r.table)) with
    | some x => .trap s x
    | none => slotColl s t l g th d

/-- CLPOST (R417): the descriptor pointer is checked; the thread waits until the collective is posted. -/
def execClpost (h : Bool) (d a : BitVec 7) (s : State) : Out :=
  issueWith h s (fun c s => do
    let dst ← dest c 1 d
    let p ← src64 c a
    require (!dst.isUni) c.illegal
    needCap c 10
    versionCheck c 1 false
    require (tag01 p) c.illegal
    checkThat (accessCheck s c p 64 1)
    .ok (.wait (s.modThread c.t (fun th => { th with barsFlush := true })) (.post 1 p 0 dst [])))

/-- The collective status word (R418). -/
def collStatus (s : State) (g : Group) (th : Thread) (id : Word) : Word :=
  let infl := min (s.colls.filter (fun c => c.die == g.die)).length 255 * 2 ^ 8
  match th.cslots[bits id 2 0]? with
  | some x =>
    if bits id 31 16 ≠ 0 ∨ x.seq ≠ bits id 15 3 ∨ (!x.busy && !x.ended) then BitVec.ofNat 32 infl
    else if x.ended then BitVec.ofNat 32 (x.status.toNat + infl + 2)
    else BitVec.ofNat 32 (infl + 1)
  | none => BitVec.ofNat 32 infl

/-- CLWAIT (R418). -/
def execClwait (h : Bool) (d a : BitVec 7) (s : State) : Out :=
  issueWith h s (fun c s => do
    let dst ← dest c 1 d
    let x ← src32 c a
    require (!dst.isUni) c.illegal
    needCap c 10
    versionCheck c 0 false
    .ok (.wait s (.clwait x dst)))

/-- CLSTAT (R418). -/
def execClstat (h : Bool) (d a : BitVec 7) (s : State) : Out :=
  issueWith h s (fun c s => do
    let dst ← dest c 1 d
    let x ← src32 c a
    require (!dst.isUni) c.illegal
    needCap c 10
    versionCheck c 0 false
    .ok (.done (putCtx s (c.write dst [collStatus s c.g c.th x]))))

/-- CLROUTE (R419): the table pointer is checked; the thread waits until the table is read. -/
def execClroute (h : Bool) (a : BitVec 7) (l : BitVec 3) (n : BitVec 4) (s : State) : Out :=
  issueWith h s (fun c s => do
    let p ← src64 c a
    needCap c 10
    versionCheck c 1 false
    require (tag01 p) c.illegal
    checkThat (accessCheck s c p 64 1)
    require (decide (l.toNat ≤ 5)) c.illegal
    .ok (.wait (s.modThread c.t (fun th => { th with barsFlush := true })) (.post 2 p (n.toNat + 16 * l.toNat) .none [])))

/-- Try to stage a route table (R419); `arg` holds the slot and the level. -/
def tryRoute (s : State) (t : Tid) (l : Launch) (g : Group) (th : Thread) (pc p : DWord) (arg : Nat) : PostRes :=
  let level := arg / 16
  let n := arg % 16
  if ownWrites s l g th s.nextId p 64 then .wait
  else match unitRead s l g p 64 with
  | .wait => .wait
  | .fault c d => .trap (countUnit s l p 64) (descTrap pc c d p)
  | .ok d =>
    if routeOk s g.die d = false then .trap s (illegalAt pc)
    else
      let r := (s.routeSlot? l.ref n).getD { launch := l.ref, n := n, table := none, staged := none, cseq := 0 }
      let set := levelSet l.hdr level (widOf l g t.lane)
      .done (s.putRoute { r with staged := some (d, level, set, th.arrivals.getD level 0, t) }) 0

end Sys2Proof.Machine
end

