-- ==== Sys2Proof/Machine/Mma.lean ====
section
/-! DEFINITION. Mma.lean: the matrix engine's instructions: the checks of R260, the queue, the status (R252–R260, R268,
R271). -/
namespace Sys2Proof.Machine

/-- A field of R253 that must name a uniform register. -/
def uniName (f : BitVec 7) : Bool := decide (80 ≤ f.toNat) && decide (f.toNat < 120)

/-! The checks of R260. -/

/-- Check 4 of R260 for one block. -/
def blockOk (o : MOp) (q : List Word) (cb : Nat) (isA : Bool) : Bool :=
  let w := blkOp q
  bit w 25 == false && bits w 15 12 == 0
    && decide (blkWidth q cb ≤ blkStride q) && (!blkSwz q || bits w 11 0 % 8 == 0)
    && (!(o.gather && isA) || !blkDir q)
    && (!o.scaled || (bits (blkScale q) 28 20 == 0 && bits (blkScale q) 19 0 % 16 == 0))
    && (!blkConsume q || addrTag (blkPtr q) == 5)

/-- Check 4 of R260 for a transfer word. -/
def xferOk (w : Word) : Bool :=
  bits w 31 30 != 3 && bits w 28 16 == 0 && decide ((if bits w 31 30 = 0 then 16 else 8) ≤ bits w 15 0)

def sfmtOk (q : List Word) : Bool := bits (blkScale q) 31 30 == 1 || bits (blkScale q) 31 30 == 2

/-- `n` bytes from an offset above a pointer lie in its window or size class. -/
def extentFits (l : Launch) (g : Group) (p : DWord) (off n : Nat) : Bool := decide (localOff p + off + n ≤ localLen l g p)

/-- The block pointers of an operation. -/
def MOp.ptrs (o : MOp) : List DWord :=
  if o.compute then [blkPtr o.a, blkPtr o.b] else if o.minor = 6 then [] else [blkPtr o.a]

/-- Checks 4–10 of R260. -/
def matrixCheck (c : Ctx) (o : MOp) : Res Unit := do
  let pc := c.th.pc
  require (bits o.slotw 15 5 == 0) c.illegal
  require (!o.compute || (blockOk o o.a (o.cb true) true && blockOk o o.b (o.cb false) false && blkK o.a == blkK o.b))
    c.illegal
  require (!(o.minor == 7 || o.minor == 8) || xferOk o.xfer) c.illegal
  require (!o.scaled || (sfmtOk o.a && sfmtOk o.b && bit (blkScale o.a) 29 == bit (blkScale o.b) 29))
    (trapPlain pc matrixFormat 0)
  firstBad pc addressSpace o.ptrs tagOk
  require (o.ptrs.all (fun p => addrTag p == 1 || addrTag p == 5 || (!o.compute && addrTag p == 0))) c.illegal
  firstBad pc misaligned o.ptrs (fun p => p.toNat % 16 == 0)
  let aFits := fun (p : DWord) =>
    if o.gather then extentFits c.l c.g p 0 0 && extentFits c.l c.g p (16 * o.ioff) 128
    else extentFits c.l c.g p 0 (blkExtent o.a (o.cb true))
  if o.compute then do
    firstBad pc scratchRange [blkPtr o.a] aFits
    firstBad pc scratchRange [blkPtr o.b] (fun p => extentFits c.l c.g p 0 (blkExtent o.b (o.cb false)))
  else firstBad pc scratchRange (o.ptrs.filter (fun p => addrTag p != 0)) (fun p => extentFits c.l c.g p 0 o.xferLen)
  let scale := fun (q : List Word) =>
    require (extentFits c.l c.g (blkPtr q) (bits (blkScale q) 19 0) (64 * o.sst)) { trapPlain pc scaleExtent 0 with addr := blkPtr q }
  if o.scaled then do
    if o.gather then .ok () else scale o.a
    scale o.b
  else .ok ()

/-! Entering the queue (R252, R260). -/

/-- The engine has room for an operation: one of 32 queue entries, and the core's scoreboard entries (R252, R266). -/
def matrixReady (s : State) (core : Nat) (o : MOp) : Bool :=
  decide ((s.engine core).queue.length < 32) && decide (boardUse s core + o.entries ≤ 64)

/-- The first tile pointer whose handle is stale when the engine accepts the operation. -/
def staleTile (s : State) (l : Launch) (core : Nat) (o : MOp) : Option DWord :=
  o.ptrs.find? (fun p => addrTag p == 5 && !tileFresh s l core (addrHandle p))

/-- The engine accepts an operation: it joins the queue, or is refused to the thread with TILE_STALE. -/
def enterMatrix (s : State) (t : Tid) (l : Launch) (g : Group) (pc : DWord) (o : MOp) : State :=
  let f := s.fresh
  match staleTile s l g.core o with
  | some p =>
    let e : Pend := { id := f.1, pc := pc, dst := .none, op := .mma o, addr := p, loc := none, st := .sent }
    f.2.modThread t (fun th => th.refuse e (e.trap tileStale 0))
  | none =>
    let e := s.engine g.core
    f.2.putEngine { e with queue := e.queue ++ [{ o with id := f.1 }] }

/-- A minor that enters the queue. Where bits 2 and 3 of the capability word are both clear, R251 gives BATON and R132 ILLEGAL_OPERAND and no order
between them: the model raises BATON (DESIGN CHOICE, assumption log 35). R260 does not place the check of R297: it comes before BATON (DESIGN
CHOICE, assumption log 90). -/
def matrixWord (h : Bool) (minor : Nat) (names : List (BitVec 7)) (d : BitVec 7) (opA opB : Ctx → Res (List Word)) (s : State) : Out :=
  issueWith h s (fun c s => do
    require (names.all uniName) c.illegal
    let sw ← src32 c d
    let a ← opA c
    let b ← opB c
    needMatrix c
    require (!(minor == 1 || minor == 3) || c.l.has 3) c.illegal
    versionCheck c 5 false
    require (holds s c.g) (trapPlain c.th.pc batonCause 0)
    let nf := fun (q : List Word) => c.g.nfRd.getD (bits (blkOp q) 31 29) 0
    let o : MOp := { id := 0, gid := c.t.gid, t := c.t, minor := minor, slotw := sw, a := a, b := b,
                     nfA := if minor < 4 then nf a else 0, nfB := if minor < 4 then nf b else 0,
                     next := 0, rd := [], units := [], hold := none }
    matrixCheck c o
    let s1 := s.modGroup c.t.gid (fun g => { g with used := g.used ||| 2 ^ o.slot })
    if matrixReady s1 c.g.core o then .ok (.done (enterMatrix s1 c.t c.l c.g c.th.pc o)) else .ok (.wait s1 (.mma o)))

/-- A compute form. -/
def compute (h : Bool) (minor : Nat) (d a b : BitVec 7) (s : State) : Out :=
  matrixWord h minor [d, a, b] d (fun c => src c 4 a) (fun c => src c 4 b) s

/-- MMA8 (R253, R261). -/
def execMma8 (h : Bool) (d a b : BitVec 7) (s : State) : Out := compute h 0 d a b s
/-- MMA8S (R253, R256). -/
def execMma8s (h : Bool) (d a b : BitVec 7) (s : State) : Out := compute h 1 d a b s
/-- MMA8G (R253, R259). -/
def execMma8g (h : Bool) (d a b : BitVec 7) (s : State) : Out := compute h 2 d a b s
/-- MMA8GS (R253, R259). -/
def execMma8gs (h : Bool) (d a b : BitVec 7) (s : State) : Out := compute h 3 d a b s
/-- MMAH (R253): FP16 elements. -/
def execMmah (h : Bool) (d a b : BitVec 7) (s : State) : Out := compute h 4 d a b s
/-- MMAB (R253): BF16 elements. -/
def execMmab (h : Bool) (d a b : BitVec 7) (s : State) : Out := compute h 5 d a b s

/-- MZERO (R268). -/
def execMzero (h : Bool) (d : BitVec 7) (s : State) : Out :=
  matrixWord h 6 [d] d (fun _ => .ok []) (fun _ => .ok []) s

/-- MLDC (R268). -/
def execMldc (h : Bool) (d a b : BitVec 7) (s : State) : Out :=
  matrixWord h 7 [d, a, b] d (fun c => src c 2 a) (fun c => src c 1 b) s
/-- MSTC (R268, R269). -/
def execMstc (h : Bool) (d a b : BitVec 7) (s : State) : Out :=
  matrixWord h 8 [d, a, b] d (fun c => src c 2 a) (fun c => src c 1 b) s

/-! Status (R271). -/

/-- BUSY of a core. -/
def busyMask (s : State) (core : Nat) : Nat := (s.engine core).queue.foldl (fun m o => m ||| 2 ^ o.slot) 0

/-- The matrix status word. -/
def matrixStatus (s : State) (g : Group) : Word :=
  BitVec.ofNat 32 (g.mFail * 2 ^ 24 + g.mSlot * 2 ^ 20 + busyMask s g.core)

/-- Every operation on the core that names a slot of the mask and entered before number `upto` has ended. -/
def mwaitOver (s : State) (core mask upto : Nat) : Bool :=
  (s.engine core).queue.all (fun o => decide (upto ≤ o.id) || mask / 2 ^ o.slot % 2 == 0)

/-- MWAIT (R271): without feature bit 2 it returns 0 at once (R251). Allowed in a versioned task (assumption log 94). -/
def execMwait (h : Bool) (d a : BitVec 7) (s : State) : Out :=
  issueWith h s (fun c s => do
    let dst ← dest c 1 d
    let m ← src32 c a
    uniRule c dst [a] false
    if c.l.has 2 then .ok (.wait s (.mwait (bits m 15 0) s.nextId dst))
    else
      let c1 := c.write dst [0]
      .ok (.done (putCtx s c1)))

/-- MSTAT (R271). -/
def execMstat (h : Bool) (d : BitVec 7) (s : State) : Out :=
  issueWith h s (fun c s => do
    let dst ← dest c 1 d
    let c1 := c.write dst [if c.l.has 2 then matrixStatus s c.g else 0]
    .ok (.done (putCtx s c1)))

end Sys2Proof.Machine
end

