-- ==== Sys2Proof/Machine/Waits.lean ====
section
/-! DEFINITION. Waits.lean: when a waiting instruction is over and what it then does (R138): fences (R193), barriers
(R157–R159), JOIN (R154), RDCINV (R216), the waits for units (R230, R252, R271, R302, R326, R402, R417–R419). -/
namespace Sys2Proof.Machine

/-- Write words to a decoded destination of a thread (R24). -/
def writeDst (s : State) (t : Tid) (d : Dst) (vs : List Word) : State :=
  match d with
  | .none => s
  | .vec r _ => s.modThread t (fun th => { th with regs := setWords th.regs r vs })
  | .uni r _ => s.modGroup t.gid (fun g => { g with uni := setWords g.uni r vs })

/-- A wait is over; the accesses refused after it are performed again (R35). -/
def endWait (s : State) (t : Tid) (w : Waiting) : State :=
  performAgain (s.modThread t (fun th => { th with wait := none })) t w.rest

/-- A trap at the completion of a wait (R35): the accesses refused after it stay with the segment. -/
def trapWait (s : State) (t : Tid) (w : Waiting) (r : TrapRec) : State :=
  trapNow s t r w.blk

/-- The failed peer store that comes first in program order. -/
def firstFailed : List FailedStore → Option FailedStore
  | [] => none
  | f :: l => some (l.foldl (fun m x => if x.id < m.id then x else m) f)

/-- The report of a release of a scope, at completion (R443): the trap, and the thread that has made it. -/
def reportFailed (th : Thread) (upto scope : Nat) (pc : DWord) : Option (TrapRec × Thread) :=
  let fs := unreported th upto scope
  (firstFailed fs).map (fun f =>
    ({ cause := remoteUnreachable, pc := pc, addr := f.addr, detail := 0, kind := 2, at_ := 3, further := fs.length - 1 },
     { th with failed := th.failed.filter (fun x => !fs.contains x) }))

/-! Fences (R193). -/

def fenceAcq (kind : Nat) : Bool := kind != 1
def fenceRel (kind : Nat) : Bool := kind != 0

/-- The condition of a fence of a kind and scope holds for a thread's accesses before number `upto`. -/
def fenceOver (s : State) (t : Tid) (th : Thread) (kind scope upto : Nat) : Bool :=
  let uo := decide (3 ≤ kind)
  let reads := fun (q : Pend) => match q.op with
    | .load .. => true
    | .atomic .. => true
    | _ => false
  (!fenceAcq kind || (th.earlier upto).all (fun q => !reads q || (!uo && q.isUO)))
    && (!fenceRel kind || releaseReady s th upto scope uo)
    && (kind != 4 ||
      (s.copies.all (fun c => decide (upto ≤ c.id) || c.t != t)
        && s.engines.all (fun e => e.queue.all (fun o => decide (upto ≤ o.id) || o.t != t))))

/-! RDCINV (R216, R365). -/

/-- The die's write-combining buffer holds bytes of a line, or of any line. R216 and R365 name no more than 'any write the RDC holds for a line'; the
model counts every accepted store to another die that is not performed yet, of any thread of the die, also one that the order of its own thread
holds back, but not one that waits for a refused access (DESIGN CHOICE, assumption log 19; safe). -/
def wcbHolds (s : State) (die : Nat) (line : Option Nat) : Bool :=
  (heldStores s (fun g => g.die == die)).any (fun x => addrDie x.2.addr != die && !x.2.isSO && (line == none || line == some (x.2.addr.toNat / 128)))

/-! Barriers (R157–R159). -/

/-- Phase `token` of a set has completed, `n` phases of it being complete. Tokens count modulo 2^32, and R157 does not say how far behind or ahead of
the latest completion a token may name its phase: the model takes those up to 2^31 behind as completed (DESIGN CHOICE, assumption log 20; unsafe for
a token further off). -/
def phaseOver (n token : Nat) : Bool :=
  n != 0 && decide ((n - 1 + 2 ^ 32 - token % 2 ^ 32) % 2 ^ 32 < 2 ^ 31)

/-- The arrival of ARRIVE and BAR, once the phase allows it and the release before it is done. -/
def tryArrive (s : State) (t : Tid) (l : Launch) (g : Group) (th : Thread) (w : Waiting) (level : Nat) (bar : Bool) (dst : Dst) :
    State :=
  let set := levelSet l.hdr level (widOf l g t.lane)
  let scope := barScope l level set
  let k := th.arrivals.getD level 0
  if phaseCount l level set < k ∨ releaseReady s th s.nextId scope false = false then s
  else match reportFailed th s.nextId scope w.pc with
  | some (r, th') => trapWait (s.modThread t (fun _ => th')) t w r
  | none =>
    let s1 := s.modThread t (fun th => { th with arrivals := th.arrivals.set level (k + 1) })
    if bar then s1.modThread t (fun th => { th with wait := some { w with kind := .phase level k } })
    else endWait (writeDst s1 t dst [BitVec.ofNat 32 k]) t w

/-- A waiting word of a thread cannot end before an earlier entry of it has taken effect (R189, R199, R202). If that was refused, the thread takes the
refusal there (assumption log 13). -/
def waitHeld (l : Launch) (g : Group) (lane : Nat) (w : Waiting) (q : Pend) : Bool :=
  decide (q.id < w.id) && match w.kind with
  | .fence kind scope _ =>
    let uo := decide (3 ≤ kind)
    let reads := match q.op with
      | .load .. => true
      | .atomic .. => true
      | _ => false
    (fenceAcq kind && reads && (uo || !q.isUO)) || (fenceRel kind && q.covered scope uo)
  | .arrive level _ _ => q.covered (barScope l level (levelSet l.hdr level (widOf l g lane))) false
  | .tkdone _ => g.task.isSome && (q.covered 4 true || q.op.late)
  | .publ .. => q.covered 5 false || q.op.isAcq
  | .launch .. => q.covered 4 false || q.op.isAcq
  | .tcwait .. => q.op.isWrite || q.op.isAcq
  | .copy _ => q.op.isWrite || q.op.isAcq
  | .mma _ => q.op.isWrite || q.op.isAcq
  | .mwait .. => q.op.isWrite || q.op.isAcq
  | .post .. => q.op.isWrite || q.op.isAcq
  | .clwait .. => q.op.isWrite || q.op.isAcq
  | _ => false

/-! JOIN (R154). -/

/-- A thread is blocked in a JOIN at a PC. -/
def Thread.joinAt (th : Thread) (pc : DWord) : Bool := match th.wait with
  | some w => match w.kind with
    | .join _ => w.pc == pc
    | _ => false
  | none => false

/-- Every live thread that the mask of a JOIN names is blocked in one at the same PC. -/
def joinOver (g : Group) (mask : Word) (pc : DWord) : Bool :=
  g.threads.zipIdx.all (fun x => mask.getLsbD x.2 == false || x.1.exited || x.1.joinAt pc)

/-- The lanes of a group whose JOIN is over. -/
def joinLanes (g : Group) : List (Nat × Waiting) :=
  (g.threads.zipIdx).filterMap (fun x => match x.1.wait with
    | some w => match w.kind with
      | .join m => if joinOver g m w.pc && !x.1.halted then some (x.2, w) else none
      | _ => none
    | none => none)

/-- Every thread of a group whose JOIN is over becomes ready at once. -/
def endJoins (s : State) (g : Group) : State :=
  (joinLanes g).foldl (fun s x => endWait s { gid := g.gid, lane := x.1 } x.2) s

/-! The waits of one thread. -/

/-- What a try to post comes to, for the waiting thread; what has been read is kept with the wait. -/
def endPost (s : State) (t : Tid) (w : Waiting) (dst : Dst) : PostRes → State
  | .wait => s
  | .hold got =>
    let kind := match w.kind with
      | .post k desc arg d _ => .post k desc arg d got
      | k => k
    s.modThread t (fun th => { th with wait := some { w with kind := kind } })
  | .trap s' r => trapWait s' t w r
  | .done s' id => endWait (writeDst s' t dst [id]) t w

/-- Go on with a thread's wait as far as it can. -/
def finishWait (s : State) (t : Tid) (l : Launch) (g : Group) (th : Thread) (w : Waiting) : State :=
  match w.kind with
  | .join _ => s
  | .nap => s
  | .tcwait .. => s
  | .publ .. => s
  | .tkdone _ => s
  | .tkspec _ => s
  | .arrive level bar dst => tryArrive s t l g th w level bar dst
  | .phase level token =>
    if phaseOver (phaseCount l level (levelSet l.hdr level (widOf l g t.lane))) token then endWait (acquireCopies s g.core false) t w
    else s
  | .fence kind scope upto =>
    if fenceOver s t th kind scope upto then
      let s1 := if fenceAcq kind then acquireCopies s g.core (decide (3 ≤ kind)) else s
      match (if fenceRel kind then reportFailed th upto scope w.pc else none) with
      | some (r, th') => trapWait (s1.modThread t (fun _ => th')) t w r
      | none => endWait s1 t w
    else s
  | .rdcinv a all =>
    if wcbHolds s g.die (if all then none else some (a.toNat / 128)) then s
    else endWait { s with rdc := if all then s.rdc.filter (fun c => c.holder != g.die) else dropCopy s.rdc g.die l.asid (a.toNat / 128) } t w
  | .mwait mask upto dst =>
    if mwaitOver s g.core mask upto then
      let s1 := writeDst (acquireCopies s g.core false) t dst [matrixStatus s g]
      endWait (s1.modGroup g.gid (fun g => { g with mFail := 0, mSlot := 0 })) t w
    else s
  | .result id => if th.infl.any (fun p => p.id == id) then s else endWait s t w
  | .copy c0 =>
    let c := { c0 with core := g.core }
    if copyReady s l g th c then endWait (startCopy s l g c) t w else s
  | .mma o => if matrixReady s g.core o then endWait (enterMatrix s t l g w.pc o) t w else s
  | .launch hd argp T prio dst =>
    if launchReady s th l.ref.die then
      let r := startChild s l hd argp T prio
      endWait (writeDst r.2 t dst [BitVec.ofNat 32 r.1]) t w
    else s
  | .post kind desc arg dst got =>
    endPost s t w dst (match kind with
      | 0 => tryQuery s t l g th w.pc desc got
      | 1 => tryColl s t l g th w.pc desc got
      | _ => tryRoute s t l g th w.pc desc arg)
  | .clwait id dst =>
    let v := collStatus s g th id
    if bits v 1 0 = 1 then s
    else if bits v 1 0 = 2 then
      let s1 := acquireCopies s g.core false
      if bits v 31 24 = 2 then
        let slot := (th.cslots.getD (bits id 2 0) { busy := false, seq := 0, ended := false, status := 0, route := 0 }).route
        trapWait s1 t w { trapPlain w.pc collOrder slot with at_ := 3 }
      else endWait (writeDst s1 t dst [v]) t w
    else endWait (writeDst s t dst [v]) t w
  | .ngen x dst => if ngenOver s x then endWait (writeDst s t dst [lowestOpen s]) t w else s
  | .ndrain upto dst =>
    if ndrainOver th upto then
      endWait ((writeDst s t dst [BitVec.ofNat 32 (min th.rfail 255)]).modThread t (fun th => { th with rfail := 0 })) t w
    else s

/-- Go on with the wait of one thread: one that is resident and not halted (R202, R356). -/
def wakeThread (s : State) (t : Tid) : State :=
  match s.ofThread t, s.thread? t with
  | some (l, g), some th =>
    match th.wait with
    | some w => if g.resident && !th.halted && !th.exited then finishWait s t l g th w else s
    | none => s
  | _, _ => s

/-! Entries that a unit answers. -/

/-- Whether an entry that waits for a unit, not an owner, can be answered now, with what it delivers and the state after:
LWAIT (R304), AQWAIT (R328), CPYW (R249). A completed wait is an acquire. -/
def answer (s : State) (t : Tid) (l : Launch) (g : Group) (th : Thread) (p : Pend) : Act :=
  match p.op with
  | .lwait id =>
    let v := (childStatus s l id.toNat).getD unknownStatus
    if statusEnded v = false then .wait
    else .done (if bits v 15 8 = 3 then acquireCopies s g.core false else s) [v]
  | .aqwait id =>
    let v := queryStatus s t g th (BitVec.ofNat 32 id)
    if bits v 1 0 = 1 then .wait
    else .done (if bits v 1 0 = 2 then acquireCopies s g.core false else s) [v]
  | .cpyw n =>
    if (s.copies.filter (fun c => c.t == t && decide (c.id < p.id))).length ≤ n then
      .done ((acquireCopies s g.core false).modThread t (fun th => { th with cpyFail := 0, cpyFailId := 0, cpyDrops := 0 }))
        [copyStatus s t th]
    else .wait
  | _ => .wait

end Sys2Proof.Machine
end

