-- ==== Sys2Proof/Machine/Threads.lean ====
section
/-! DEFINITION. Threads.lean: the steps of threads: results delivered (R33), horizons (R32, R35), writes performed (R181,
R365), the ends of timed waits (R154, R155, R162), barrier phases (R157, R158, R405). -/
namespace Sys2Proof.Machine

/-! Results (R33, R34). -/

/-- Bind an entry that its owner or its unit can answer now. -/
def bindEntry (s : State) (t : Tid) (l : Launch) (g : Group) (th : Thread) (p : Pend) : Act :=
  if g.resident = false then .wait
  else match p.op with
  | .load size acq consume =>
    if orderOk s l g th p then
      match p.key l g with
      | some key => bindLoad s l g p size acq consume key
      | none => .wait
    else .wait
  | _ => if th.halted then .wait else answer s t l g th p

/-- Write a bound value to its destination: one register of it, or all that is left (R33, R34). -/
def deliver (s : State) (t : Tid) (p : Pend) (vals : List (Option Word)) (part : Option Nat) : State :=
  let put := fun (s : State) (x : Option Word × Nat) =>
    match x.1, (part == none || part == some x.2) with
    | some v, true =>
      match p.dst with
      | .none => s
      | .vec r _ => writeDst s t (.vec (r + x.2) 1) [v]
      | .uni r _ => writeDst s t (.uni (r + x.2) 1) [v]
    | _, _ => s
  let s1 := vals.zipIdx.foldl put s
  let left := vals.zipIdx.map (fun x => if part = none ∨ part = some x.2 then none else x.1)
  if left.all (fun v => v.isNone) then s1.modThread t (fun th => { th with infl := th.infl.filter (fun q => q.id != p.id) })
  else s1.modPend t p.id (fun q => { q with st := .ready left })

/-- RESULT_DELIVERY (R33, R34): an entry's value is fixed if it is not yet, and written to its destination; `part` names
one register of the destination. A halted thread keeps its waits as pending entries, also one whose value was bound meanwhile (R356); a thread that is
away gets nothing (R348). -/
def execResultDelivery (t : Tid) (id : Nat) (part : Option Nat) (s : State) : Out :=
  match s.ofThread t, s.thread? t, s.pend? t id with
  | some (l, g), some th, some p =>
    if p.op.delivers = false ∨ g.resident = false ∨ (th.halted ∧ (p.late ∨ (p.op.waits ∧ p.bound = false))) then notNow
    else match p.st with
    | .ready vals => .next (deliver s t p vals part)
    | _ =>
      match bindEntry s t l g th p with
      | .wait => notNow
      | .done s1 vs => .next (deliver s1 t p (vs.map some) part)
      | .refuse s1 cause detail => .next (s1.modThread t (fun th => th.refuse p (p.trap cause detail)))
  | _, _, _ => notNow

/-! Writes (R181). -/

/-- Take an entry away. -/
def dropPend (s : State) (t : Tid) (id : Nat) : State :=
  s.modThread t (fun th => { th with infl := th.infl.filter (fun q => q.id != id) })

/-- TREL and TDROP at the pool (R282). -/
def performTile (s : State) (l : Launch) (g : Group) (th : Thread) (p : Pend) (k : Nat) (all : Bool) : Act :=
  let hd := addrHandle p.addr
  if (th.earlier p.id).any (waitsFor l g p) then .wait
  else if tileFresh s l g.core hd = false then .refuse s tileStale 0
  else
    let n := match s.tile? (hCore g.core hd) (hSlot hd) with
      | some x => x.count
      | none => 0
    if all then .done (consumeTile s (hCore g.core hd) (hSlot hd) n) []
    else if n < k then .refuse s tileCountCause 0
    else if k = 0 then .done s [] else .done (consumeTile s (hCore g.core hd) (hSlot hd) k) []

/-- TKPOST and TKSUCC at the task unit (R288, R289, R293, R294): held by the versioned task they were issued in (R297), else performed once every
access that the release covers is done. -/
def performTask (s : State) (t : Tid) (l : Launch) (g : Group) (th : Thread) (p : Pend) : Act :=
  match g.task with
  | some tk =>
    if tk.versioned ∧ p.ver then
      .done (s.modGroup g.gid (fun g => { g with task := some { tk with held := tk.held ++ [(t.lane, p)] } })) []
    else tryPost
  | none => tryPost
where
  tryPost : Act :=
    if orderOk s l g th p = false ∨ postLine s l g p = 1 then .wait else .done (performPost s t l g p) []

/-- The scoreboards hold stores and atomics (R233, R266), not the changes of line states (R217). -/
def scoreHolds : POp → Bool
  | .lineSet .. => false
  | _ => true

/-- The order of its thread, the report of failed stores (R443) and the scoreboards (R233, R266) let a write go. -/
def writeFree (s : State) (t : Tid) (l : Launch) (g : Group) (th : Thread) (p : Pend) (key : Nat) : Bool :=
  orderOk s l g th p && (unreported th p.id (if p.op.isRel then p.relScope else 0)).isEmpty
    && !(scoreHolds p.op && scoreHeld s t l.asid g.core p.id p.addr key p.op.size)

/-- The write-combining buffer of a die received store `q` before store `p`, and they share bytes. -/
def Pend.behind (p q : Pend) : Bool := match p.heldStore, q.heldStore with
  | some (k, _, d), some (k', _, d') => (decide (q.recv < p.recv) || (q.recv == p.recv && decide (q.id < p.id)))
      && decide (k < k' + d'.length) && decide (k' < k + d.length)
  | _, _ => false

/-- A store from a die to a line of another waits for those to its bytes that the die's buffer received before it (R365). One that something else
still holds back at its core has not reached the buffer. -/
def wcbWaits (s : State) (g : Group) (p : Pend) : Bool :=
  let far := fun (q : Pend) => match q.loc with
    | some (.phys die _ kind) => die != g.die && kind != 0
    | _ => false
  far p && s.groups.any (fun h => h.die == g.die && match s.launch? h.launch with
    | some l => h.threads.zipIdx.any (fun x => x.1.infl.any (fun q => far q && p.behind q && match q.key l h with
        | some key => writeFree s { gid := h.gid, lane := x.2 } l h x.1 q key
        | none => false))
    | none => false)

/-- Perform an entry's write. -/
def performEntry (s : State) (t : Tid) (l : Launch) (g : Group) (th : Thread) (p : Pend) : Act :=
  match p.op with
  | .tileCount k all => performTile s l g th p k all
  | .taskPost => performTask s t l g th p
  | .taskSucc => performTask s t l g th p
  | op =>
    match p.key l g with
    | none => .wait
    | some key =>
      if writeFree s t l g th p key = false then .wait
      else match op with
      | .store d _ => performStore s l g p key d
      | .atomic minor ops acq _ => performAtomic s l g p key minor ops acq
      | .lineSet full n =>
        let ls := (List.range n).map (fun i => key / 128 + i)
        if full then .done { s with lines := setLines s.lines key 0 n } []
        else if ls.any (lineKept s t p.id) then .wait else .done (changeLines s ls 1) []
      | _ => .wait

/-- The entry after its write is performed: an atomic that delivers keeps its old value for its destination. -/
def afterWrite (s : State) (t : Tid) (p : Pend) (vals : List Word) : State :=
  if p.op.delivers ∧ p.dst ≠ .none then s.modPend t p.id (fun q => { q with st := .ready (vals.map some) })
  else dropPend s t p.id

/-- WRITE_PERFORMED (R181): a store, atomic, line change, tile count or post of a thread is performed at its point of
coherence or its unit. -/
def execWritePerformed (t : Tid) (id : Nat) (s : State) : Out :=
  match s.ofThread t, s.thread? t, s.pend? t id with
  | some (l, g), some th, some p =>
    if p.bound ∨ p.st = .held ∨ (p.op.isWrite || p.op.late) = false ∨ p.loc.isNone ∨ (g.resident = false ∧ (p.loc = some .scratch ∨ p.loc = some .tile))
        ∨ wcbWaits s g p then notNow
    else match performEntry s t l g th p with
    | .wait => notNow
    | .done s1 vs => .next (afterWrite s1 t p vs)
    | .refuse s1 cause detail => .next (s1.modThread t (fun th => th.refuse p (p.trap cause detail)))
  | _, _, _ => notNow

/-- The stores that a die's write-combining buffer holds, in order (R365). -/
def wcbEntries (s : State) (die : Nat) : List (Tid × Pend) :=
  let xs := (s.groups.filter (fun g => g.die == die)).flatMap (fun g => g.threads.zipIdx.flatMap (fun x =>
    (x.1.infl.filter (fun q => q.st == .held)).map (fun q => (({ gid := g.gid, lane := x.2 } : Tid), q))))
  xs.foldl (fun (acc : List (Tid × Pend)) x => acc.filter (fun y => decide (y.2.id < x.2.id)) ++ x :: acc.filter (fun y => decide (x.2.id < y.2.id))) []

/-- The address space of a thread. -/
def asidOf (s : State) (t : Tid) : Option Nat := (s.ofThread t).map (fun x => x.1.asid)

/-- A held store's line: its address space and line address. -/
def wcbLine (s : State) (x : Tid × Pend) : Option Nat × Nat := (asidOf s x.1, x.2.addr.toNat / 128)

/-- The stores that the buffer of a die holds for a line of an address space, in order (R365). -/
def wcbStores (s : State) (die asid line : Nat) : List (Tid × Pend) :=
  (wcbEntries s die).filter (fun x => wcbLine s x == (some asid, line))

/-- The buffer sends a store: from now on it may be performed. -/
def sendHeld (s : State) (x : Tid × Pend) : State := s.modPend x.1 x.2.id (fun q => if q.st = .held then { q with st := .sent } else q)

/-- Perform one held store if its order lets it go. -/
def flushOne (s : State) (x : Tid × Pend) : State :=
  match s.ofThread x.1, s.thread? x.1 with
  | some (l, g), some th => if wcbWaits s g x.2 then s else match performEntry s x.1 l g th x.2 with
    | .done s1 _ => dropPend s1 x.1 x.2.id
    | _ => s
  | _, _ => s

/-- WCB_FLUSH (R365): the buffer sends a line, and what the order of its threads lets go is performed at its home die. -/
def execWcbFlush (die asid line : Nat) (s : State) : Out :=
  match wcbStores s die asid line with
  | [] => notNow
  | xs => .next (xs.foldl flushOne (xs.foldl sendHeld s))

/-- A waiting word is a release, a fence or an atomic (R365). -/
def WaitKind.sends : WaitKind → Bool
  | .fence .. => true
  | .arrive .. => true
  | .tkdone _ => true
  | .tcwait .. => true
  | .publ .. => true
  | .launch .. => true
  | _ => false

/-- Stores of a die that came before this number are sent by a release, fence or atomic of the die (R365). -/
def sendBefore (s : State) (die : Nat) : Nat :=
  ((s.groups.filter (fun g => g.die == die)).flatMap (fun g => g.threads.flatMap (fun th =>
    (th.infl.filter (fun p => match p.op with
      | .atomic .. => true
      | op => op.isRel)).map (fun p => p.id) ++ (match th.wait with
      | some w => if w.kind.sends then [w.id] else []
      | none => [])))).foldl max 0

/-- A load or an RDCINV of the die asks for a held store's line (R365, R216). -/
def lineAsked (s : State) (die : Nat) (x : Tid × Pend) : Bool :=
  s.groups.any (fun g => g.die == die && g.threads.any (fun th =>
    th.infl.any (fun q => match q.op, q.loc, x.2.loc with
      | .load .., some (.phys d pa _), some (.phys d' pa' _) => !q.bound && d == d' && pa / 128 == pa' / 128
      | _, _, _ => false) ||
    match th.wait with
    | some w => match w.kind with
      | .rdcinv a all => all || a.toNat / 128 == x.2.addr.toNat / 128
      | _ => false
    | none => false))

/-- What the buffer of a die sends at once (R365): what a release, fence, atomic, load or RDCINV asks for, and the earliest lines beyond its 256. The
1 µs that a line may stay is timing: WCB_FLUSH sends a line at any time (assumption log 19). -/
def sendLines (s : State) (die : Nat) : State :=
  match wcbEntries s die with
  | [] => s
  | xs =>
    let n := sendBefore s die
    let lines := (xs.map (wcbLine s)).eraseDups
    let old := lines.take (lines.length - 256)
    (xs.filter (fun x => decide (x.2.id < n) || lineAsked s die x || old.contains (wcbLine s x))).foldl sendHeld s

/-! Horizons (R32, R35, R38, R67). -/

/-- A release at pod or system scope that an earlier peer store, neither acknowledged nor failed, still holds (R443). -/
def relHeld (th : Thread) (p : Pend) : Bool :=
  p.op.isRel && !p.bound && decide (5 ≤ p.relScope) &&
    th.infl.any (fun q => decide (q.id < p.id) && q.op.isWrite && addrTag q.addr == 4 && !q.bound)

/-- Every release of the segment that finds failed peer stores reports them at its horizon (R443): the entry is refused, and the stores are reported
once its trap is taken. -/
def refuseReleases (th : Thread) : Thread :=
  (th.infl.filter (fun p => p.op.isRel && p.op.isAccess && !p.bound)).foldl (fun th p =>
    let fs := unreported th p.id p.relScope
    match reportFailed th p.id p.relScope p.pc with
    | some (r, _) => { th with failed := th.failed.map (fun f => if fs.contains f then { f with by_ := some p.id } else f) }.refuse p r
    | none => th) th

/-- A thread ends (R38); it leaves no block state (R65). -/
def endThread (s0 : State) (t : Tid) : State :=
  let s := match s0.thread? t with
    | some th => dropStaged s0 t th
    | none => s0
  let s1 := s.modThread t (fun th => { th with exited := true, hz := false, drain := none, blk := [], fetched := none, fetchFrom := none })
  tryTask (tryRendez s1 t.gid) t.gid

/-- A group's task is versioned and doomed (R299). -/
def doomed (g : Group) : Bool := match g.task with
  | some tk => tk.versioned && tk.doomed
  | none => false

/-- A waiting horizon ends (R32): a doomed or discarded task restarts the thread (R300); a refused access is taken (R35);
else the thread goes on, ends, or returns from its handler. -/
def passHorizon (s : State) (t : Tid) (g : Group) (th : Thread) : State :=
  if doomed g then (discardVersion s t.gid).modThread t Thread.atRestart
  else if th.redo ∧ th.inHandler = false then s.modThread t Thread.atRestart
  else if th.refused ≠ [] then takeRefused s t th
  else match th.drain with
  | none => s.modThread t (fun th => { th with hz := false })
  | some .exit => endThread s t
  | some (.tret mode) => leaveTrap s t mode
  | some (.trap r blk) => enterAtOnce s t r blk

/-- SEGMENT_HORIZON (R32): the thread's horizon, EXIT or TRET has waited long enough, or a wait that a refused access holds; or the trap it takes has
waited for its results (R333). A halted thread stays as it is (R356). -/
def execSegmentHorizon (t : Tid) (s : State) : Out :=
  match s.ofThread t, s.thread? t with
  | some (l, g), some th0 =>
    if th0.exited ∨ th0.parked ∨ g.resident = false then notNow
    else match th0.drain with
    | some (.trap r blk) => if th0.drained l g then .next (enterAtOnce s t r blk) else notNow
    | _ =>
      let th := refuseReleases th0
      let free := (th.infl.filter (relHeld th)).all (fun p => (th.stuck l g).contains p)
      if th.halted ∨ th.settled l g = false ∨ free = false then notNow
      else match th.wait with
      | some w =>
        if th.refused.any (fun x => waitHeld l g t.lane w x.p) then .next (takeRefused (s.modThread t (fun _ => th)) t th) else notNow
      | none =>
        if th.hz = false ∧ th.drain.isNone then notNow else .next (passHorizon (s.modThread t (fun _ => th)) t g th)
  | _, _ => notNow

/-! Timed waits. -/

/-- A thread that waits, and may go on, in a wait that a test finds. -/
def waitsIn (s : State) (t : Tid) (f : WaitKind → Bool) : Option Waiting :=
  match s.group? t.gid, s.thread? t with
  | some g, some th =>
    if g.resident && !th.halted && !th.exited then th.wait.filter (fun w => f w.kind) else none
  | _, _ => none

/-- JOIN_TIMEOUT (R154): a JOIN releases its thread after 1,024 cycles. -/
def execJoinTimeout (t : Tid) (s : State) : Out :=
  let isJoin := fun (k : WaitKind) => match k with
    | .join _ => true
    | _ => false
  match waitsIn s t isJoin with
  | some w => .next (endWait s t w)
  | none => notNow

/-- NAP_EXPIRY (R155). -/
def execNapExpiry (t : Tid) (s : State) : Out :=
  match waitsIn s t (fun k => k == .nap) with
  | some w => .next (endWait s t w)
  | none => notNow

/-! Barrier phases (R157, R158, R405). -/

/-- The teams of a launch on this package that hold members of a set: first and last. -/
def setTeams (l : Launch) (level set : Nat) : Nat × Nat :=
  let n := 32 * l.hdr.g
  let r := setRange l level set
  let lo := max r.1 (l.rank * l.T * n)
  let hi := min r.2 ((l.rank + 1) * l.T * n)
  if lo < hi then (lo / n - l.rank * l.T, (hi - 1) / n - l.rank * l.T) else (1, 0)

/-- The live members of a set on this package that have started. -/
def setMembers (s : State) (l : Launch) (level set : Nat) : List (Tid × Thread) :=
  (s.groups.filter (fun g => g.launch == l.ref)).flatMap (fun g => (g.threads.zipIdx.filter (fun x =>
    !x.1.exited && levelSet l.hdr level (widOf l g x.2) == set)).map (fun x => (({ gid := g.gid, lane := x.2 } : Tid), x.1)))

/-- A member of a set on this package has not started yet. -/
def setUnstarted (l : Launch) (level set : Nat) : Bool :=
  let r := setTeams l level set
  decide (r.1 ≤ r.2) && (decide (l.nextTeam ≤ r.2) || l.flushed.any (fun x => decide (r.1 ≤ x) && decide (x ≤ r.2)))

/-- Every live member of a set on this package has arrived in phase `k`. -/
def setArrived (s : State) (l : Launch) (level set k : Nat) : Bool :=
  !setUnstarted l level set && (setMembers s l level set).all (fun m => decide (k < m.2.arrivals.getD level 0))

/-- Phase `k` of a set completes here (R157): the count advances, staged route tables become active (R419), and every
member blocked on it becomes ready, as an acquire (R159). -/
def completePhase (s : State) (l : Launch) (level set k : Nat) : State :=
  let rest := l.phases.filter (fun p => !(p.1 == level && p.2.1 == set))
  let s1 := activateRoutes (s.modLaunch l.ref (fun l => { l with phases := (level, set, k + 1) :: rest }))
  (setMembers s l level set).foldl (fun s m => match m.2.wait with
    | some w => match w.kind with
      | .phase lv _ => if lv = level then wakeThread s m.1 else s
      | _ => s
    | none => s) s1

/-- The gang that a launch is the part of. -/
def State.gangOf (s : State) (l : LRef) : Option Gang := s.gangs.find? (fun g => g.launch == l)

/-- The ranks of a gang whose packages hold members of a set: first and last (R405). -/
def setRanks (l : Launch) (level set : Nat) : Nat × Nat :=
  let n := l.T * (32 * l.hdr.g)
  let r := setRange l level set
  (r.1 / n, (r.2 - 1) / n)

/-- Send a BARRIER packet to a rank of a gang (R405). -/
def sendBar (s : State) (g : Gang) (rank : Nat) (m : BarMsg) : State :=
  let f := s.fresh
  let pkg := g.members.getD rank 0
  enqueueLate f.2 f.1 g.launch.die none pkg 0 10 (.bar m)

/-- Rank 0 holds ARRIVE from every package of a set for a phase, one whose part has ended counting as arrived: it sends RELEASE to each of them (R405), and the phase
completes on its own package if that is one. -/
def barRelease (s : State) (g : Gang) (l : Launch) (level set k : Nat) : State :=
  let r := setRanks l level set
  let ranks := (List.range (r.2 + 1)).filter (fun i => decide (r.1 ≤ i))
  let here := fun (i : Nat) => s.barArr.any (fun a => a.gang == g.gid && a.level == level && a.set == set && a.phase == k && a.rank == i)
    || g.dones.any (fun d => d.1 == i) || (i == 0 && g.ended.isSome)
  if ranks.all here then
    let rest := s.barArr.filter (fun a => !(a.gang == g.gid && a.level == level && a.set == set && a.phase == k))
    let s1 := (ranks.filter (fun i => i != 0)).foldl
      (fun s i => sendBar s g i { gang := g.gid, release := true, level := level, set := set, phase := k }) { s with barArr := rest }
    if ranks.contains 0 then completePhase s1 l level set k else s1
  else s

/-- BAR_PHASE_COMPLETE (R157, R158): the live members of a set have all arrived in its next phase. A set that spans packages
completes its own part: it reports to rank 0 (R405). -/
def execBarPhaseComplete (ref : LRef) (level set : Nat) (s : State) : Out :=
  match s.launch? ref with
  | none => notNow
  | some l =>
    let k := phaseCount l level set
    if level ≥ 6 ∨ setArrived s l level set k = false then notNow
    else if setSpans l level set = false then
      (if (setMembers s l level set).isEmpty then notNow else .next (completePhase s l level set k))
    else
      match s.gangOf ref with
      | none => notNow
      | some g =>
        let a : BarArr := { gang := g.gid, level := level, set := set, phase := k, rank := g.rank }
        if s.barArr.contains a then notNow
        else
          let s1 := { s with barArr := a :: s.barArr }
          if g.rank = 0 then .next (barRelease s1 g l level set k)
          else .next (sendBar s1 g 0 { gang := g.gid, release := false, level := level, set := set, phase := k })

end Sys2Proof.Machine
end

