-- ==== Sys2Proof/Machine/Pick.lean ====
section
/-! DEFINITION. Pick.lean: the picker of a quadrant (R138–R144), the words it issues, and what follows a step of the part at
once: waits that are over, group rendezvous, restarts, retirement (R137, R274, R298, R300). -/
namespace Sys2Proof.Machine

/-! Ready threads and their age order (R138, R139). -/

/-- A thread is ready, apart from its fetch (R138); the threads of a group that has come back from a swap having held the baton
are not ready before it holds it again (R274). -/
def Thread.ready (s : State) (g : Group) (th : Thread) : Bool :=
  g.resident && !g.retired && !g.saving && !th.exited && !th.hz && th.wait.isNone && th.drain.isNone && !th.parked && !th.halted
    && !(s.engines.any (fun e => e.core == g.core && e.back.contains g.gid))

def readyAt (s : State) (t : Tid) : Bool := match s.group? t.gid, s.thread? t with
  | some g, some th => th.ready s g
  | _, _ => false

/-- Insert a lane and group slot pair in the order in which threads join (R139). -/
def joinInsert (l : List (Tid × Nat)) (x : Tid × Nat) : List (Tid × Nat) :=
  let before := fun (y : Tid × Nat) => decide (y.1.lane < x.1.lane) || (y.1.lane == x.1.lane && decide (y.2 ≤ x.2))
  l.filter before ++ x :: l.filter (fun y => !before y)

/-- The age order brought up to date: threads that are no longer ready leave it, new ones join at the tail (R139). -/
def refreshAge (s : State) : List Tid :=
  let keep := s.age.filter (readyAt s)
  let new := s.groups.flatMap (fun g => (g.threads.zipIdx.filter (fun x => x.1.ready s g)).map (fun x =>
    (({ gid := g.gid, lane := x.2 } : Tid), g.slot)))
  keep ++ ((new.filter (fun x => !keep.contains x.1)).foldl joinInsert []).map (fun x => x.1)

/-- The number of a quadrant over the package. -/
def Group.quadrant (g : Group) : Nat := 4 * g.core + g.quad

def quadOf (s : State) (t : Tid) : Option Nat := (s.group? t.gid).map Group.quadrant

/-! The constellation (R140, R141). -/

/-- A ready thread may be gathered with an anchor. -/
def gathers (s : State) (anchor t : Tid) : Bool :=
  match s.group? anchor.gid, s.thread? anchor, s.group? t.gid, s.thread? t with
  | some ga, some ta, some g, some th =>
    g.quadrant == ga.quadrant && g.launch == ga.launch && th.pc == ta.pc && !th.yielded
  | _, _, _, _ => false

/-- The members of a constellation, by lane: the anchor and, in every other lane, the earliest candidate of the order. -/
def constellation (s : State) (anchor : Tid) (order : List Tid) : List Tid :=
  let cand := order.filter (gathers s anchor)
  (List.range 32).filterMap (fun q =>
    if q = anchor.lane then some anchor else cand.find? (fun t => t.lane == q))

/-! The words. -/

/-- What a word stands for: its instruction, or the reason why it is none (R46). -/
noncomputable def instrOf (w : Word) : Instr := match decodeWord w with
  | .ok i => i
  | .error r => .notAnInstruction w r.reason

/-- The source of a gathered GRP minor; nothing for any other word (R148, R150). -/
def gatherSource (w : Word) : Option (Option (BitVec 7)) :=
  let x := w.toNat
  if bitsN x 30 25 = 0x1D then
    match bitsN x 24 21 with
    | 0 => some (some (BitVec.ofNat 7 (bitsN x 13 7)))
    | 1 => some (some (BitVec.ofNat 7 (bitsN x 13 7)))
    | 2 => some (some (BitVec.ofNat 7 (bitsN x 13 7)))
    | 11 => some (some (BitVec.ofNat 7 (bitsN x 13 7)))
    | 13 => some none
    | _ => none
  else none

/-- What a member of a constellation brings to a gathered minor, if it executes the word without a trap. -/
def gatherValue (s : State) (w : Word) (t : Tid) : Option (Tid × Word) :=
  match gatherSource w, s.ofThread t, s.thread? t with
  | some a, some (l, g), some th =>
    if th.blk.head? = some false then none
    else
      let c : Ctx := { t := t, th := th, g := g, l := l }
      let dOk := match dest c 1 (BitVec.ofNat 7 (bitsN w.toNat 20 14)) with
        | .ok d => !d.isUni
        | .error _ => false
      if dOk then
        match a with
        | none => some (t, 0)
        | some f => match src32 c f with
          | .ok v => some (t, v)
          | .error _ => none
      else none
  | _, _, _ => none

/-- The group registers as the members of a new constellation read them (R144). -/
def latchGroup (g : Group) : Group := { g with uniRd := g.uni, nfRd := g.nf, acted := 0 }

/-- Form the constellation of an anchor whose word is `w`: its members issue it one after another, in lane order. -/
def formConstellation (s : State) (order : List Tid) (anchor : Tid) (w : Word) : State :=
  let ks := constellation s anchor order
  let s1 := { s with groups := s.groups.map latchGroup, age := order.filter (fun t => !ks.contains t), cons := ks }
  let s2 := ks.foldl (fun s t => s.modThread t (fun th => { th with fetched := some w })) s1
  let s3 := s2.modThread anchor (fun th => { th with yielded := false })
  { s3 with gather := ks.filterMap (gatherValue s3 w) }

/-- A pick of a quadrant (R140), or of the quadrant whose ready thread comes first in the age order: the constellation, or
the refusal of the anchor's fetch. None where no thread is ready. -/
def pick (s : State) (quad : Option Nat) : Option State :=
  let order := refreshAge s
  let mine := fun (t : Tid) => quad == none || quadOf s t == quad
  match order.find? mine with
  | none => none
  | some t =>
    match s.ofThread t, s.thread? t with
    | some (l, g), some th =>
      let s1 := { s with age := order }
      match th.fetched with
      | some w => some (formConstellation s1 order t w)
      | none =>
        match fetchWord s1 l g.core th with
        | .ok w => some (formConstellation (fetchFill s1 l g.core th.pc) order t w)
        | .error r => some (refuseFetch (countFetch s1 l th.pc r) t th r)
    | _, _ => none

/-- The next member of the constellation issues its word: what runs, and the state it runs in. -/
noncomputable def nextIssue (s : State) : Option (Instr × State) :=
  match s.cons with
  | [] => none
  | t :: r =>
    let s1 := { s with cons := r, cur := some t }
    match (s.thread? t).bind (fun th => th.fetched) with
    | some w => some (instrOf w, s1)
    | none => some (.nop false, { s1 with cur := none })

/-! What follows a step at once. -/

/-- Threads of a discarded version that wait are put back at the restart point once their results are written (R300). -/
def restartWaiting (th : Thread) : Thread :=
  if th.redo && th.wait.isSome && !th.inHandler && !th.parked && th.infl.all (fun p => !p.op.delivers) then th.atRestart else th

/-- A thread is blocked (R300): it waits in a word, or at its horizon for a unit, for other threads or for an EMPTY line. -/
def Thread.blocked (s : State) (l : Launch) (g : Group) (th : Thread) : Bool :=
  !th.exited && (th.wait.isSome || ((th.hz || th.drain.isSome) && th.infl.any (fun p => !p.bound && (p.op.waits || emptyWait s l g p))))

/-- A doomed task with a thread that is blocked is discarded (R300). -/
def discardDoomed (s : State) (g : Group) : State :=
  match s.launch? g.launch with
  | some l => if doomed g && g.threads.any (Thread.blocked s l g) then discardVersion s g.gid else s
  | none => s

/-- A versioned task waits for room for a store (R298). -/
def waitsForRoom (s : State) (g : Group) : Bool := match g.task with
  | some tk => tk.versioned && decide (65536 ≤ dieVersionLines s g.die) && g.threads.any (fun th => th.infl.any (fun p =>
      match p.op, p.loc with
      | .store .., some (.phys die pa _) => !p.bound && p.ver && die == g.die && !(versionLines tk.writes).contains (hbmKey die pa / 128)
      | _, _ => false))
  | none => false

/-- If every versioned task of a die waits for room, the one made versioned last is discarded (R298). -/
def discardFull (s : State) (die : Nat) : State :=
  let vs := s.groups.filter (fun g => g.die == die && match g.task with
    | some tk => tk.versioned
    | none => false)
  match vs with
  | [] => s
  | g :: r =>
    if vs.all (waitsForRoom s) then
      let since := fun (g : Group) => (g.task.map (fun k => k.since)).getD 0
      discardVersion s (r.foldl (fun m x => if since m < since x then x else m) g).gid
    else s

/-- A thread has ended, and nothing that its group's last completion left with it is open (R295). -/
def Thread.over (th : Thread) : Bool := th.exited && !th.parked && th.refused.isEmpty && th.infl.all (fun p => !p.op.late)

/-- A thread that has ended takes what the completion of its group's last task was refused (R295, assumption log 16). -/
def endFault (s : State) (t : Tid) : State := match s.thread? t with
  | some th => if th.exited && !th.parked && !th.refused.isEmpty then takeRefused s t th else s
  | none => s

/-- A group retires when all its threads have ended and it has no task left (R137, R295); it gives up the baton (R274). Its
team retires with its last group. -/
def retireGroup (s : State) (g : Group) : State :=
  if !g.retired && g.resident && g.task.isNone && g.threads.all Thread.over then
    let s1 := dropBaton (s.modGroup g.gid (fun g => { g with retired := true })) g.core g.gid
    let left := s1.groups.any (fun x => x.launch == g.launch && x.team == g.team && !x.retired)
    if left then s1 else s1.modTeam g.launch g.team (fun t => { t with retired := true })
  else s

/-- Go on with one group as far as it can go at once. -/
def wakeGroup (s : State) (gid : Nat) : State :=
  let lanes := (List.range 32).map (fun i => ({ gid := gid, lane := i } : Tid))
  let step1 := match s.group? gid with
    | some g => endJoins (discardDoomed s g) g
    | none => s
  let step2 := lanes.foldl wakeThread step1
  let step3 := lanes.foldl endFault (tryTask step2 gid)
  let s4 := step3.modGroup gid (fun g => { g with threads := g.threads.map restartWaiting })
  match s4.group? gid with
  | some g => retireGroup s4 g
  | none => s4

/-- Everything that follows a step at once. -/
def wake (s : State) : State :=
  let s1 := (s.groups.map (fun g => g.gid)).foldl wakeGroup s
  grantBatons (([0, 1, 2, 3] : List Nat).foldl discardFull s1)

end Sys2Proof.Machine
end

