-- ==== Sys2Proof/Machine/Load.lean ====
section
/-! DEFINITION. Load.lean: the load of one word as a program of its own (assumption log 5): a page that maps it, and a launch of
one team of one group whose one live thread stands at it. -/
namespace Sys2Proof.Machine

/-- A thread at its start (R22): the PC, `n` vector registers, a return stack that is empty. -/
def Thread.start (pc : DWord) (n : Nat) : Thread :=
  let slot : Slot := { busy := false, seq := 0, ended := false, status := 0, route := 0 }
  { pc := pc, regs := List.replicate n 0, vwb := 0, uwb := 0, preds := 0, stack := [], blk := [], trapCause := 0, trapPc := 0,
    trapAddr := 0, trapInfo := 0, inHandler := false,
    ts := { blk := [], resume := 0, horizon := false, toTask := false, refused := [], hz := false, upto := 0 },
    clockCap := none, calCap := none, srseed := 0, yielded := false, parked := false, halted := false, exited := false, hz := false,
    wait := none, drain := none, infl := [], refused := [], fetched := none, fetchFrom := none, rendez := 0, tkRendez := 0,
    arrivals := List.replicate 6 0, cpyFail := 0, cpyFailId := 0, cpyDrops := 0, qseq := 0, qslots := List.replicate 4 slot, cseq := 0,
    cslots := List.replicate 8 slot, rfail := 0, failed := [], stamps := [], restart := none, tkPoints := [], redo := false,
    tag := none, replay := none, why := 0, stepping := false, barsFlush := false }

/-- The format registers of a group at its start (R94). -/
def nfStart : List (BitVec 16) := [0xC61D, 0xD43E, 0xB40C, 0xA604, 0xA204, 0x8E00, 0x8600, 0x461D]

/-- A group at its placement (R22, R94, R134): uniform registers 0 and 1 hold the argument block pointer, the others 0. -/
def Group.start (gid : Nat) (l : LRef) (team idx core quad slot : Nat) (argp : DWord) (ths : List Thread) : Group :=
  let uni := loWord argp :: hiWord argp :: List.replicate 94 0
  { gid := gid, launch := l, team := team, idx := idx, core := core, quad := quad, slot := slot, resident := true, threads := ths,
    uni := uni, uniRd := uni, nf := nfStart, nfRd := nfStart,
    lt := List.replicate 8 (List.replicate 8 0), mFail := 0, mSlot := 0, used := 0, acted := 0, task := none, retired := false,
    saving := false }

/-- The header of that launch: every capability, one team of one group, the word as its entry and its handler. -/
def oneHeader : Header :=
  { features := Config.caps, entry := 0x10000, handler := 0x10000, valloc := 256, uniforms := 96, prio := 0, stackBytes := 4096,
    scratch := 4096, g := 1, lc := 0, maxDepth := 1, widths := [5, 0, 0, 0, 0, 0], share := 0, cluster := false, gang := false,
    idempotent := false, strictTiles := false, speculate := false, argp := 0, parts := List.replicate 8 (0, 0),
    queues := List.replicate 16 0 }

/-- Its one team, on core 0. -/
def oneTeam (now : Nat) : Team :=
  { idx := 0, cores := [0], bases := [0], resident := true, since := now, drainTill := none, noDrain := false, progress := 0,
    retired := false, freed := false, image := [], lineImage := [] }

def oneLaunch (ref : LRef) (now order : Nat) : Launch :=
  { ref := ref, hdr := oneHeader, asid := 1, podKey := 0, argp := 0, T := 1, P := 1, rank := 0, depth := 0, parent := none,
    device := false, state := 2, code := 0, leak := 0, order := order, since := now, teams := [oneTeam now], nextTeam := 1,
    flushed := [], phases := [], stopped := false }

/-- The threads of its group: the first stands at the word, the others have ended. -/
def oneThreads : List Thread :=
  let th := Thread.start 0x10000 256
  th :: List.replicate 31 { th with exited := true }

/-- The state with `w` loaded as such a program (assumption log 5): two page tables of die 0 for address space 1, a 1 GiB page
that may be read, written and fetched, the word at 0x10000 of it, the launch and its group; nothing waits before it. -/
def State.loadWord (s : State) (w : Nat) : State :=
  let top := memWrite s.mem (bytesOf 8 0x200000000001) 0x10000000
  let leaf := memWrite top (bytesOf 8 0x800F) 0x20000000
  let mem := memWrite leaf (bytesOf 4 w) 0x10000
  let ref : LRef := { die := 0, id := (s.launches.map (fun l => l.ref.id)).foldl max 0 + 1 }
  let g := Group.start s.nextGid ref 0 0 0 0 0 0 oneThreads
  let t : Tid := { gid := s.nextGid, lane := 0 }
  let roots := (0, 1, 0x10000000) :: s.roots.filter (fun r => !(r.1 == 0 && r.2.1 == 1))
  let mtlb := s.mtlb.filter (fun m => !(m.die == 0 && m.asid == 1))
  let l1 := s.l1.filter (fun c => !(c.holder == textHolder 0 && c.asid == 1))
  { s with mem := mem, roots := roots, mtlb := mtlb, l1 := l1, poison := [], launches := oneLaunch ref s.ns s.nextId :: s.launches,
           groups := g :: s.groups, nextGid := s.nextGid + 1, age := t :: s.age, agenda := [], flip := false, turn := 0, cur := none, cons := [] }

end Sys2Proof.Machine
end

