-- ==== Sys2Proof/Machine/Sched.lean ====
section
/-! DEFINITION. Sched.lean: the grid scheduler: the kernel header (R129, R130), acceptance (R133), placement (R134, R165,
R251), completion (R137, R286, R303, R444). -/
namespace Sys2Proof.Machine

/-! The kernel header (R129). -/

def hdrN (b : List Byte) (off n : Nat) : Nat := ofBytes ((b.drop off).take n)
def hdrZero (b : List Byte) (off n : Nat) : Bool := ((b.drop off).take n).all (fun x => x == 0)

/-- A code address of the header: tag 0x0, a multiple of 4. Bits [59:50], which R161 asks to be zero in such an address, break the limit of
R129 too, so that a header with one of them set gets FORMAT (DESIGN CHOICE, assumption log 22). -/
def codePtr (a : DWord) : Bool := addrTag a == 0 && tagOk a && a.toNat % 4 == 0

/-- The limits and zero bytes of R129. -/
def headerOk (b : List Byte) : Bool :=
  let entry : DWord := BitVec.ofNat 64 (hdrN b 0x10 8)
  let handler : DWord := BitVec.ofNat 64 (hdrN b 0x18 8)
  let v := hdrN b 0x20 2
  let u := hdrN b 0x22 1
  let ws := (List.range 6).map (fun i => hdrN b (0x30 + i) 1)
  codePtr entry && (handler == 0 || codePtr handler)
    && decide (16 ≤ v) && decide (v ≤ 256) && v % 16 == 0 && decide (40 ≤ u) && decide (u ≤ 96) && u % 8 == 0
    && decide (hdrN b 0x23 1 ≤ 7) && decide (hdrN b 0x24 4 ≤ 65536) && hdrN b 0x24 4 % 8 == 0
    && decide (hdrN b 0x28 4 ≤ 4194304) && hdrN b 0x28 4 % 128 == 0
    && decide (1 ≤ hdrN b 0x2C 2) && decide (hdrN b 0x2C 2 ≤ 512) && decide (hdrN b 0x2E 1 ≤ 5) && decide (hdrN b 0x2F 1 ≤ 24)
    && ws.all (fun w => decide (w ≤ 32)) && decide (ws.sum ≤ 64) && decide (hdrN b 0x36 1 ≤ 8) && decide (hdrN b 0x37 1 < 32)
    && (List.range 8).all (fun i =>
        let x := hdrN b (0x40 + 4 * i) 4
        decide (x < 2 ^ 18) && (x / 2 ^ 16 == 0) == (x % 2 ^ 16 == 0))
    && (List.range 16).all (fun i => decide (hdrN b (0x60 + 4 * i) 4 ≤ 16384))
    && hdrN b 0xA0 2 == 1 && hdrZero b 0xA2 94

def parseHeader (b : List Byte) : Header :=
  let flags := hdrN b 0x37 1
  { features := hdrN b 0x00 16, entry := BitVec.ofNat 64 (hdrN b 0x10 8), handler := BitVec.ofNat 64 (hdrN b 0x18 8),
    valloc := hdrN b 0x20 2, uniforms := hdrN b 0x22 1, prio := hdrN b 0x23 1, stackBytes := hdrN b 0x24 4,
    scratch := hdrN b 0x28 4, g := hdrN b 0x2C 2, lc := hdrN b 0x2E 1, maxDepth := hdrN b 0x2F 1,
    widths := (List.range 6).map (fun i => hdrN b (0x30 + i) 1), share := hdrN b 0x36 1, cluster := flags % 2 == 1,
    gang := flags / 2 % 2 == 1, idempotent := flags / 4 % 2 == 1, strictTiles := flags / 8 % 2 == 1,
    speculate := flags / 16 % 2 == 1, argp := BitVec.ofNat 64 (hdrN b 0x38 8),
    parts := (List.range 8).map (fun i => (hdrN b (0x40 + 4 * i) 2, hdrN b (0x42 + 4 * i) 2)),
    queues := (List.range 16).map (fun i => hdrN b (0x60 + 4 * i) 4) }

/-- Read a header in an address space; none where R133 gives FORMAT for its bytes. -/
def readHeader (s : State) (asid : Nat) (a : DWord) : Option Header :=
  if addrTag a ≠ 0 ∨ tagOk a = false ∨ a.toNat % 256 ≠ 0 then none
  else match translate s (addrDie a) asid (addrOff a) .read with
  | .error _ => none
  | .ok (lvl, e) =>
    let key := hbmKey (addrDie a) (physOf lvl e (addrOff a))
    if poisoned s key 256 then none
    else
      let b := memRead s.mem 256 key
      if headerOk b then some (parseHeader b) else none

/-- Count the uncorrectable error that reading a header meets, if any (R442). -/
def countHeader (s : State) (asid : Nat) (a : DWord) : State :=
  if addrTag a ≠ 0 ∨ tagOk a = false ∨ a.toNat % 256 ≠ 0 then s else countReads s asid 256 1 a

/-! The checks of R133. -/

/-- A launch as it is asked for: from the host, from a gang's rank 0, or from a thread. -/
structure LaunchReq where
  header : DWord
  argp   : DWord
  T      : Nat
  prio   : Option Nat
  asid   : Nat
  podKey : Nat
  P      : Nat
  rank   : Nat
  gang   : Bool
  depth  : Nat
  parent : Option LRef
deriving DecidableEq, Repr

/-- C of R128: the threads of a co-residency set. -/
def coSize (h : Header) : Nat := 2 ^ levelBits h h.lc

/-- The relations of check 1 of R133 between header and launch. -/
def shapeOk (h : Header) (r : LaunchReq) : Bool :=
  let n := 32 * h.g
  let c := coSize h
  r.T != 0 && decide (n * r.T * r.P ≤ 2 ^ levelBits h 5)
    && (if h.cluster then (decide (c ≤ n) && n % c == 0) || (c % n == 0 && r.T % (c / n) == 0) else decide (c ≤ n) && n % c == 0)
    && h.gang == r.gang

/-- The accepted launches of a die that have not completed. -/
def dieLaunches (s : State) (die : Nat) : List Launch := s.launches.filter (fun l => l.ref.die == die && decide (l.state < 3))

/-- Q of R133: how many groups one core can hold. -/
def coreGroups (h : Header) : Nat := 4 * min 32 (2048 / h.valloc)

/-- The core count of a team (R134). -/
def teamCores (h : Header) : Nat := max (cdiv h.g (coreGroups h)) (cdiv h.scratch 1048576)

/-- Stack bytes of one team (R30). -/
def teamStack (h : Header) : Nat := 32 * h.g * h.stackBytes

/-- A die cannot hold `n` more stack bytes beside `m`; nothing needs no room. -/
def noStack (m n : Nat) : Bool := n != 0 && Config.stackFull m n

/-- The first check of R133 that refuses a launch on a die; 0 where it is accepted. -/
def checkLaunch (s : State) (die : Nat) (h : Option Header) (r : LaunchReq) : Nat :=
  match h with
  | none => 5
  | some h =>
    let others := dieLaunches s die
    let c := teamCores h
    let shares := tileShare h + (others.map (fun l => tileShare l.hdr)).sum
    if shapeOk h r = false then 5
    else if 2 ^ 14 ≤ h.features ∨ h.features &&& Config.caps ≠ h.features ∨ (h.gang ∧ h.features / 2 ^ 11 % 2 = 0) then 1
    else if 4194304 < reserveBytes h + (others.map (fun l => reserveBytes l.hdr)).sum then 2
    else if 16384 < h.queues.sum + (others.map (fun l => l.hdr.queues.sum)).sum then 3
    else if 4 < c ∨ 1048576 < sliceBytes h.scratch c + shares ∨ 8 < coTeams h * c ∨ noStack 0 (teamStack h) then 4
    else 0

/-- Accept a launch: it waits for room (R133, R134, R304 STATE 1); its text is fetched as it stands now (R171). -/
def acceptLaunch (s : State) (ref : LRef) (h : Header) (r : LaunchReq) : State :=
  let h1 := match r.prio with
    | some p => { h with prio := p }
    | none => h
  let l : Launch :=
    { ref := ref, hdr := h1, asid := r.asid, podKey := r.podKey, argp := if r.argp = 0 then h.argp else r.argp, T := r.T, P := r.P,
      rank := r.rank, depth := r.depth, parent := r.parent, device := r.parent.isSome, state := 1, code := 0, leak := 0,
      order := s.nextId, since := s.ns, teams := [], nextTeam := 0, flushed := [], phases := [], stopped := false }
  let keep := fun (c : Copy) => !(decide (192 ≤ c.holder) && c.asid == r.asid)
  { s.fresh.2 with launches := s.launches ++ [l], l1 := s.l1.filter keep, ctl := { s.ctl with launched := true } }

/-- PENDING_POOL_CHECK (R302): the child that entered a die's pool first is checked; it is accepted or refused and its entry is
freed. -/
def execPendingPoolCheck (die : Nat) (s : State) : Out :=
  match s.pool.find? (fun p => p.ref.die == die) with
  | none => notNow
  | some p =>
    let s1 := countHeader { s with pool := s.pool.filter (fun x => x.ref != p.ref) } p.asid p.header
    let r : LaunchReq := { header := p.header, argp := p.argp, T := p.T, prio := p.prio, asid := p.asid, podKey := p.podKey, P := 1,
                           rank := 0, gang := false, depth := p.depth, parent := some p.pl }
    let h := readHeader s p.asid p.header
    match checkLaunch s1 die h r, h with
    | 0, some h => .next (acceptLaunch s1 p.ref h r)
    | code, _ => .next { s1 with kept := s1.kept ++ [{ ref := p.ref, parent := p.pl, status := statusWord 0 4 code }] }

/-! Blocked teams (R147, R305). -/

/-- The teams of the co-residency set that a team belongs to, in order (R128). -/
def unitTeams (l : Launch) (team : Nat) : List Team :=
  (List.range (coTeams l.hdr)).filterMap (fun k => l.team? (coFirst l.hdr team + k))

/-- The groups of a team that have not retired. -/
def teamGroups (s : State) (l : Launch) (team : Nat) : List Group :=
  s.groups.filter (fun g => g.launch == l.ref && g.team == team && !g.retired)

/-- The registration of a number has been found reached (R242). -/
def isDue (s : State) (id : Nat) : Bool := s.trigs.any (fun r => r.id == id && r.due)

/-- What a thread still waits for keeps its team blocked: an EMPTY line, a child, a task. The scratch of a saved team is with it: nothing fills
its lines. -/
def stuckEntry (s : State) (l : Launch) (g : Group) (p : Pend) : Bool :=
  match p.op with
  | .lwait id => !statusEnded ((childStatus s l id.toNat).getD unknownStatus)
  | .tknext _ mask => !p.bound && (pickTask s l.ref (bits mask 15 0)).isNone && !exhausted s l
  | _ => if !g.resident && p.loc == some .scratch then p.op.delivers && !p.bound else emptyWait s l g p

/-- A thread is blocked as R147 counts it. One whose waiting word cannot go on for what blocks an earlier instruction of it waits in that
(assumption log 27). -/
def blockedThread (s : State) (l : Launch) (g : Group) (lane : Nat) (th : Thread) : Bool :=
  let count := fun (level : Nat) => phaseCount l level (levelSet l.hdr level (widOf l g lane))
  !th.parked && !th.halted &&
  match th.wait with
  | some w => th.infl.any (fun p => !p.bound && stuckEntry s l g p && waitHeld l g lane w p) || match w.kind with
    | .arrive level bar _ => bar && decide (l.hdr.lc < level) && decide (count level < th.arrivals.getD level 0)
    | .phase level token => decide (l.hdr.lc < level) && !phaseOver (count level) token
    | .tcwait id _ _ => !isDue s id
    | _ => false
  | none => (th.hz || th.drain.isSome) && th.infl.any (stuckEntry s l g) && th.infl.all (fun p => !p.op.delivers || stuckEntry s l g p)

/-- Every live thread of a team waits as R147 counts it. -/
def blockedTeam (s : State) (l : Launch) (team : Nat) : Bool :=
  (teamGroups s l team).all (fun g => g.threads.zipIdx.all (fun x => x.1.exited || blockedThread s l g x.2 x.1))

/-- The saved sets of a launch: the first team of each. -/
def savedUnits (l : Launch) : List Nat :=
  ((l.teams.filter (fun t => !t.resident && !t.retired)).map (fun t => coFirst l.hdr t.idx)).eraseDups

/-- A saved set of a launch is ready to go on (R147). -/
def readyUnit (s : State) (l : Launch) (first : Nat) : Bool := (unitTeams l first).any (fun t => !t.retired && !blockedTeam s l t.idx)

/-! Placement (R134). -/

/-- A launch has not been stopped, and a gang has gone (R444). -/
def Launch.goes (l : Launch) (s : State) : Bool :=
  !l.stopped && (match s.gangs.find? (fun g => g.launch == l.ref) with
    | some g => match g.go with
      | some x => decide (x ≤ s.calCycle.toNat) || x == 0
      | none => false
    | none => true)

/-- A launch has a team to place, or a saved one that is ready to come back: one that is still blocked asks for no room, so that what it waits
for finds room whatever the priorities (R147, R305; assumption log 27). -/
def Launch.waits (l : Launch) (s : State) : Bool :=
  l.goes s && (decide (l.nextTeam < l.T) || !l.flushed.isEmpty || (savedUnits l).any (readyUnit s l))

/-- Blocked teams of a launch have made way for its other teams (R147): these are served before launches of equal priority, so that the room goes to
those in whose favour it was made (assumption log 27). -/
def Launch.favoured (l : Launch) (s : State) : Bool := (savedUnits l).any (fun u => !readyUnit s l u)

/-- No launch of its die is served before it (R134, R147). -/
def Launch.first (l : Launch) (s : State) : Bool :=
  let before := fun (x : Launch) => match x.favoured s, l.favoured s with
    | true, false => true
    | false, true => false
    | _, _ => decide (x.order < l.order)
  (dieLaunches s l.ref.die).all (fun x => x.ref == l.ref || !x.waits s || decide (x.hdr.prio < l.hdr.prio)
    || (x.hdr.prio == l.hdr.prio && !before x))

/-- The groups that lie on a core. -/
def coreResident (s : State) (core : Nat) : List Group := s.groups.filter (fun g => g.core == core && g.resident && !g.retired)

/-- Engine work in a team's windows has ended: its copies, queries and matrix operations (R137). -/
def teamBusy (s : State) (l : Launch) (team : Nat) : Bool :=
  let mine := fun (t : Tid) => s.groups.any (fun g => g.gid == t.gid && g.launch == l.ref && coFirst l.hdr g.team == coFirst l.hdr team)
  let inWin := fun (core : Nat) (a : DWord) => addrTag a == 1 && (windowOn l team (coreCluster core * 8 + addrRank a)).2 != 0
  s.copies.any (fun c => c.launch == l.ref && mine c.t && (c.srcAt 0 :: c.dstsAt 0).any (inWin c.core))
    || s.queries.any (fun q => q.launch == l.ref && mine q.t && inWin q.core (fieldPtr q.desc))
    || s.engines.any (fun e => e.queue.any (fun o => s.groups.any (fun g => g.gid == o.gid && g.launch == l.ref && g.team == team)))
where
  fieldPtr (d : List Byte) : DWord := BitVec.ofNat 64 (ofBytes ((d.drop 8).take 8))

/-- A team holds its scratch until it has retired and its engine work has ended (R137). A slice that is freed so stays in the windows of
the set's other teams, which are fixed (R165): no other team is given it until the whole set has retired (R167; assumption log 23). -/
def holdsScratch (l : Launch) (t : Team) : Bool :=
  t.resident && !(t.freed && (unitTeams l t.idx).all (fun u => u.retired))

/-- Teams whose engine work has ended free their scratch (R137). -/
def freeScratch (s : State) : State :=
  let free := fun (l : Launch) (t : Team) => if t.retired && !t.freed && !teamBusy s l t.idx then { t with freed := true } else t
  { s with launches := s.launches.map (fun l => { l with teams := l.teams.map (free l) }) }

/-- The slices that teams hold on a core: base and length. -/
def coreSlices (s : State) (core : Nat) : List (Nat × Nat) :=
  s.launches.flatMap (fun l => (l.teams.filter (holdsScratch l)).flatMap (fun t => teamSlices l.hdr t core))

/-- The bytes of a core that tile reservations take (R276). -/
def coreShares (s : State) (core : Nat) : Nat := ((dieLaunches s (coreDie core)).map (fun l => tileShare l.hdr)).sum

/-- A range of a core's scratch is free. -/
def rangeFree (s : State) (core base len : Nat) : Bool :=
  decide (base + len ≤ 1048576 - coreShares s core)
    && (coreSlices s core).all (fun x => x.2 == 0 || decide (base + len ≤ x.1) || decide (x.1 + x.2 ≤ base))

/-- The lowest base at which a core has room for `len` bytes: 0, or the end of a slice it holds. -/
def freeBase (s : State) (core len : Nat) : Option Nat :=
  let ends := 0 :: (coreSlices s core).map (fun x => x.1 + x.2)
  (ends.filter (fun b => rangeFree s core b len)).foldl (fun m b => match m with
    | some x => some (min x b)
    | none => some b) none

/-- A group slot of a quadrant with room for a group of `valloc` registers (R13, R134). Which free slot a group takes the spec does not say:
here the lowest (DESIGN CHOICE, assumption log 24). -/
def freeGroupSlot (s : State) (core quad valloc : Nat) : Option Nat :=
  let gs := (coreResident s core).filter (fun g => g.quad == quad)
  let used := (gs.map (fun g => (g.threads.headD (Thread.start 0 0)).regs.length)).sum
  if 2048 < used + valloc then none else (List.range 32).find? (fun k => gs.all (fun g => g.slot != k))

/-- The core of a team and the quadrant that group `i` goes to (R134). -/
def groupPlace (h : Header) (i : Nat) : Nat × Nat := (i / coreGroups h, i % coreGroups h % 4)

/-- The engine of a core may serve a launch (R251): it serves it already, or no team of another launch that sets bit 2 is on the core and no
operation is queued there. -/
def engineOk (s : State) (l : Launch) (core : Nat) : Bool :=
  !l.has 2 || (s.engine core).launch == some l.ref ||
    ((s.engine core).queue.isEmpty
      && s.launches.all (fun x => x.ref == l.ref || !x.has 2 || x.teams.all (fun t => !t.resident || t.freed || !t.cores.contains core)))

/-- The engine of a core as it is when the first team of a launch is placed there (R251). -/
def engineFor (s : State) (l : Launch) (core : Nat) : State :=
  if l.has 2 && (s.engine core).launch != some l.ref then s.putEngine { Engine.fresh core with launch := some l.ref } else s

/-- Scratch given to a team: zero, every line FULL (R166). -/
def clearScratch (s : State) (core base len : Nat) : State :=
  let key := scratchKey core base
  { s with mem := memZero s.mem key len, lines := s.lines.filter (fun x => !(decide (key ≤ 128 * x.1) && decide (128 * x.1 < key + len))) }

/-- Place the groups of a team, from group `i` on; none where a quadrant has no room. -/
def placeGroups (s : State) (l : Launch) (team : Nat) (cores : List Nat) (mk : State → Nat → Nat → Nat → Nat → Group) : List Nat → Option State
  | [] => some s
  | i :: rest =>
    let p := groupPlace l.hdr i
    match cores[p.1]?, cores[p.1]?.bind (fun c => freeGroupSlot s c p.2 l.hdr.valloc) with
    | some core, some slot =>
      let g := mk s i core p.2 slot
      placeGroups { s with groups := s.groups.filter (fun x => x.gid != g.gid) ++ [g], nextGid := max s.nextGid (g.gid + 1) } l team cores mk rest
    | _, _ => none

/-- The part of the chosen cores that falls to the k-th team of a set. -/
def coresOf (h : Header) (cores : List Nat) (k : Nat) : List Nat := (cores.drop (k * teamCores h)).take (teamCores h)

/-- The bytes that the first `k` teams of a set need on a core. -/
def setSpace (h : Header) (cores : List Nat) (core k : Nat) : Nat :=
  ((List.range k).flatMap (fun i => ((coresOf h cores i).zipIdx.filter (fun x => x.1 == core)).map
    (fun x => sliceLen h.scratch (teamCores h) x.2))).sum

/-- The bases of the slices of the i-th of `k` teams of a set: on each core the slices of the set lie side by side (R165); none where
a core has no room. -/
def slicesFor (s : State) (h : Header) (cores : List Nat) (k i : Nat) : Option (List Nat) :=
  ((coresOf h cores i).map (fun c => (freeBase s c (setSpace h cores c k)).map (fun b => b + setSpace h cores c i))).foldr
    (fun b acc => match b, acc with
      | some b, some l => some (b :: l)
      | _, _ => none) (some [])

/-- Stack bytes of the groups of a die that have not retired, resident or saved: a group's stack regions are free for others once it has
retired (R38, R137). -/
def dieStacks (s : State) (die : Nat) : Nat :=
  (s.groups.map (fun g => match s.launch? g.launch with
    | some l => if g.retired || l.ref.die != die then 0 else 32 * l.hdr.stackBytes
    | none => 0)).sum

/-- Put one team on its cores, its slices at their bases, its groups `is` as `mk` makes them (R134); none where there is no room. The caches of its cores
lose their copies, so that a team that returns reads nothing older there than what it has read and written (R182, R202; assumption log 98). -/
def placeTeam (s : State) (l : Launch) (tm : Team) (cores bases is : List Nat) (mk : State → Nat → Nat → Nat → Nat → Group) : Option State :=
  let noRoom := tm.cores.isEmpty && noStack (dieStacks s l.ref.die) (teamStack l.hdr)
  if noRoom ∨ cores.any (fun c => !engineOk s l c) then none
  else
    let t1 := { tm with cores := cores, bases := bases, resident := true, since := s.ns, drainTill := none, noDrain := false }
    let s1 := (cores.zip bases).zipIdx.foldl
      (fun s x => clearScratch s x.1.1 x.1.2 (sliceLen l.hdr.scratch cores.length x.2)) s
    let s2 := cores.foldl (fun s c => acquireCopies (engineFor s l c) c true) s1
    let s3 := s2.modLaunch l.ref (fun l => { l with teams := l.teams.filter (fun t => t.idx != tm.idx) ++ [t1] })
    placeGroups s3 l tm.idx cores mk is

/-- Put the teams `ts` of a set on chosen cores: where the slices go is settled before the first is placed. -/
def placeSet (s : State) (ref : LRef) (ts : List Team) (cores : List Nat) (is : Nat → List Nat)
    (mk : Nat → State → Nat → Nat → Nat → Nat → Group) : Option State :=
  match s.launch? ref with
  | none => none
  | some l =>
    ts.zipIdx.foldl (fun (o : Option State) x =>
      match o, slicesFor s l.hdr cores ts.length x.2 with
      | some s1, some bases =>
        (s1.launch? ref).bind (fun l1 => placeTeam s1 l1 x.1 (coresOf l.hdr cores x.2) bases (is x.1.idx) (mk x.1.idx))
      | _, _ => none) (some s)

/-- A group that starts (R22, R94, R137). -/
def startGroup (l : Launch) (team : Nat) (s : State) (i core quad slot : Nat) : Group :=
  Group.start s.nextGid l.ref team i core quad slot l.argp (List.replicate 32 (Thread.start l.hdr.entry l.hdr.valloc))

/-- A team that has not been placed. -/
def Team.fresh (idx : Nat) : Team :=
  { idx := idx, cores := [], bases := [], resident := false, since := 0, drainTill := none, noDrain := false, progress := 0,
    retired := false, freed := false, image := [], lineImage := [] }

/-- The teams that the next placement of a launch takes: those of one co-residency set, flushed ones first (R128, R134). -/
def nextTeams (l : Launch) : List Nat :=
  let i := match l.flushed with
    | [] => l.nextTeam
    | x :: r => r.foldl min x
  if i < l.T then (List.range (coTeams l.hdr)).map (fun k => coFirst l.hdr i + k) else []

/-- The chosen cores suit a set of teams: as many as they need, on one cluster of the launch's die, no core twice in one team. -/
def coresOk (l : Launch) (cluster : Nat) (cores : List Nat) (k : Nat) : Bool :=
  cores.length == k * teamCores l.hdr && cores.all (fun c => coreCluster c == cluster) && cluster / 6 == l.ref.die && decide (cluster < 24)
    && (List.range k).all (fun i => (coresOf l.hdr cores i).eraseDups.length == teamCores l.hdr)

/-- The teams of a placement as they were: one that has retired beside a flushed one keeps its place in the windows (R165). -/
def freshTeam (l : Launch) (idx : Nat) : Team := match l.team? idx with
  | some t => if t.retired then t else Team.fresh idx
  | none => Team.fresh idx

/-- The groups that a placement starts for a team: all, but for one that has retired. -/
def freshGroups (l : Launch) (idx : Nat) : List Nat := if (freshTeam l idx).retired then [] else List.range l.hdr.g

/-- The next teams of a launch on chosen cores; none where there is no room. -/
def placeFresh (s : State) (l : Launch) (cores : List Nat) : Option State :=
  placeSet s l.ref ((nextTeams l).map (freshTeam l)) cores (freshGroups l) (startGroup l)

/-- TEAM_PLACEMENT (R134): the next teams of the launch that is served first go to chosen cores of a cluster that has room. -/
def execTeamPlacement (ref : LRef) (cluster : Nat) (cores : List Nat) (s : State) : Out :=
  match s.launch? ref with
  | none => notNow
  | some l =>
    let ts := nextTeams l
    if l.waits s = false ∨ l.first s = false ∨ ts = [] ∨ coresOk l cluster cores ts.length = false then notNow
    else
      match placeFresh s l cores with
      | none => notNow
      | some s1 =>
        let done := fun (l : Launch) => { l with state := 2, since := s.ns, nextTeam := max l.nextTeam (ts.foldl max 0 + 1),
                                                 flushed := l.flushed.filter (fun i => !ts.contains i) }
        .next (s1.modLaunch ref done)

/-! Completion (R137, R286, R303, R345, R444). -/

/-- Every team of a launch on this package has retired. -/
def Launch.allRetired (l : Launch) : Bool :=
  decide (l.T ≤ l.nextTeam) && l.flushed.isEmpty && l.teams.all (fun t => t.retired)

/-- Armed commands whose counter has not been reached are dropped when every team has retired (R345). -/
def dropArmed (s : State) (l : Launch) : State :=
  let due := fun (id : Nat) => s.trigs.any (fun r => r.id == id && r.due)
  let idle := fun (st : CmdSt) (id : Nat) => match st with
    | .armed => !due id
    | _ => false
  let drop := (s.copies.filter (fun c => c.launch == l.ref && idle c.st c.id)).map (fun c => c.id)
  let s1 := { s with copies := s.copies.filter (fun c => !drop.contains c.id), trigs := s.trigs.filter (fun r => !drop.contains r.id) }
  (s1.colls.filter (fun c => c.launch == l.ref && idle c.st c.id)).foldl (fun s c => abortColl s c 3) s1

/-- Work of a launch that has not ended: children, commands, queries, collectives, accesses (R137, R303). -/
def launchBusy (s : State) (l : Launch) : Bool :=
  s.pool.any (fun p => p.pl == l.ref) || s.launches.any (fun x => x.parent == some l.ref)
    || s.copies.any (fun c => c.launch == l.ref) || s.queries.any (fun q => q.launch == l.ref) || s.colls.any (fun c => c.launch == l.ref)
    || s.groups.any (fun g => g.launch == l.ref && (!g.retired || g.threads.any (fun th => !th.infl.isEmpty)))
    || s.engines.any (fun e => e.queue.any (fun o => match s.group? o.gid with
        | some g => g.launch == l.ref
        | none => false))

/-- The tiles that completion reclaims (R286). -/
def leakCount (s : State) (l : LRef) : Nat := (s.tiles.filter (fun t => t.live && t.owner == l)).length

/-- A tile goes back to its partition: the generation advances (R277, R278). -/
def Tile.free (t : Tile) : Tile := { t with live := false, spent := false, gen := (t.gen + 1) % 4096, count := 0 }

/-- What the end of a launch leaves: its groups, queue records, route slots, kept statuses and tiles are gone, and, unless another launch of its key runs
on the die, the collective packets and abort records that wait there under its key (R419; assumption log 100). -/
def clearLaunch (s : State) (l : Launch) : State :=
  let tiles := s.tiles.map (fun t => if t.live && t.owner == l.ref then t.free else t)
  let gids := (s.groups.filter (fun g => g.launch == l.ref)).map (fun g => g.gid)
  let alone := !s.launches.any (fun x => x.ref != l.ref && x.ref.die == l.ref.die && x.podKey == l.podKey)
  let mine := fun (die key : Nat) => alone && die == l.ref.die && key == l.podKey
  { s with aborts := s.aborts.filter (fun a => !mine a.die a.key), heldColl := s.heldColl.filter (fun p => !mine p.die p.hdr.key),
           groups := s.groups.filter (fun g => g.launch != l.ref), launches := s.launches.filter (fun x => x.ref != l.ref),
           recs := s.recs.filter (fun r => r.launch != l.ref), routes := s.routes.filter (fun r => r.launch != l.ref),
           kept := s.kept.filter (fun k => k.parent != l.ref), tiles := tiles, age := s.age.filter (fun t => !gids.contains t.gid),
           savedEng := s.savedEng.filter (fun e => e.launch != l.ref) }

/-- The final status of a launch's part on this package: leak, code. -/
def finalStatus (s : State) (l : Launch) : Nat × Nat :=
  let leak := min (leakCount s l.ref) 65535
  (leak, if l.code ≠ 0 then l.code else if l.hdr.strictTiles ∧ leak ≠ 0 then 9 else 0)

end Sys2Proof.Machine
end

