-- ==== Sys2Proof/Machine/Cmd.lean ====
section
/-! DEFINITION. Cmd.lean: host commands (R430–R432): how one starts, when it is turned away, how it completes; the
commands that act on memory, counters and ownership (R432, R434), and the buffers of commands. -/
namespace Sys2Proof.Machine

/-! Starting a command (R430, R431). -/

def CmdSrc.agent : CmdSrc → Agent
  | .queue _ => .host
  | .channel a _ => a

/-- The address of an entry of a queue. -/
def CQueue.entryAt (c : CQueue) (i : Nat) : DWord := c.base + BitVec.ofNat 64 (64 * i)

/-- The memory key of the next entry of a queue. -/
def entryKey (s : State) (src : CmdSrc) : Option Nat := match src with
  | .queue q => (s.queues[q]?).bind (fun c => match hostAddrKey s c.asid.toNat (c.entryAt c.head.toNat) .read with
    | .ok key => some key
    | .error _ => none)
  | .channel _ _ => none

/-- The next entry of a queue holds an uncorrectable error (R442): it is counted, and the command is answered with BAD_COMMAND (DESIGN CHOICE, assumption
log 37: R431 does not say what such an entry does). -/
def entryBad (s : State) (src : CmdSrc) : Bool := match entryKey s src with
  | some key => poisoned s key 64
  | none => false

/-- Count the uncorrectable error that the read of the next entry meets, in its data or in its walk (R442). -/
def countEntry (s0 s : State) (src : CmdSrc) : State := match entryKey s0 src, src with
  | some key, _ => if poisoned s0 key 64 && isHbm key then countErr s key else s
  | none, .queue q => match s0.queues[q]? with
    | some c => countAddr s c.asid.toNat (c.entryAt c.head.toNat)
    | none => s
  | none, .channel _ _ => s

/-- The sixteen words of the next entry of a queue, if it may start: the queue is enabled, the entry is available and can be
read, no WAIT of the queue holds it, and with FENCE every earlier command has completed. One whose walk meets an uncorrectable error starts as an
entry of zeros, which is no command (log 37). -/
def queueEntry (s : State) (q : Nat) : Option (List Word) :=
  match s.queues[q]? with
  | none => none
  | some c =>
    let n := c.size.toNat
    let mine := fun (x : HostCmd) => x.queue == some q
    let waiting := fun (x : HostCmd) => match x.wait with
      | .counter _ => mine x
      | _ => false
    if !c.en || n == 0 || c.avail.toNat % n == c.head.toNat % n || s.cmds.any waiting || (s.ctl.fatal && s.ctl.cause == 3 && addrTag c.base == 0) then none
    else
      match hostAddrKey s c.asid.toNat (c.entryAt c.head.toNat) .read with
      | .error d => if d.cause = dataError then some (List.replicate 16 0) else none
      | .ok key =>
        let ws := wordsOf 16 (readNat s key 64)
        if bit (ws.getD 0 0) 8 && s.cmds.any mine then none else some ws

/-- Take a command whose opcode is `op`, or reserved (R431), from stage 1 of bring-up on (R436), and at any stage in recovery and while FATAL is set
(R432, R437): the command, and the state with the entry started. -/
def takeCmd (s : State) (src : CmdSrc) (op : Nat) : Option (HostCmd × State) :=
  let fits := fun (ws : List Word) => bits (ws.getD 0 0) 7 0 == op || bits (ws.getD 0 0) 7 0 == 0 || decide (12 < bits (ws.getD 0 0) 7 0)
  let f := s.fresh
  if s.ctl.stage = 0 ∧ s.ctl.recovery = false ∧ s.ctl.fatal = false then none
  else match src with
  | .queue q =>
    match queueEntry s q, s.queues[q]? with
    | some ws, some c =>
      if fits ws then
        let h : HostCmd := { id := f.1, queue := some q, agent := Agent.host.code, index := c.head.toNat, words := ws, wait := .counter 0 }
        some (h, { f.2 with queues := s.queues.modify q (fun c => { c with head := BitVec.ofNat 32 ((c.head.toNat + 1) % c.size.toNat) }) })
      else none
    | _, _ => none
  | .channel a ws =>
    if a = .host ∨ ws.length ≠ 16 ∨ fits ws = false ∨ s.cmds.any (fun x => x.queue == none && x.agent == a.code) then none
    else some ({ id := f.1, queue := none, agent := a.code, index := 0, words := ws, wait := .counter 0 }, f.2)

def HostCmd.op (c : HostCmd) : Nat := bits (c.words.getD 0 0) 7 0
def HostCmd.asid (c : HostCmd) : Nat := bits (c.words.getD 0 0) 23 16
/-- The 64-bit operand at an offset. -/
def HostCmd.ptr (c : HostCmd) (off : Nat) : DWord := pairOf (c.words.getD (off / 4) 0) (c.words.getD (off / 4 + 1) 0)
def HostCmd.word (c : HostCmd) (off : Nat) : Word := c.words.getD (off / 4) 0

/-! Completion (R431). -/

/-- A command completes: OUT and RESULT are written, then STATUS with DONE; on a channel they are its answer. -/
def completeCmd (s : State) (c : HostCmd) (out : DWord) (code : Nat) (result : Word) : State :=
  let status : Word := BitVec.ofNat 32 (2 ^ 31 + code)
  let s1 := { s with cmds := s.cmds.filter (fun x => x.id != c.id) }
  match c.queue with
  | none => { s1 with chanOut := s1.chanOut ++ [{ agent := c.agent, out := out, status := status, result := result }] }
  | some q =>
    match s1.queues[q]? with
    | none => s1
    | some cq =>
      match hostAddrKey s1 cq.asid.toNat (cq.entryAt c.index) .write with
      | .error _ => countAddr s1 cq.asid.toNat (cq.entryAt c.index)
      | .ok key =>
        let s2 := pocWrite s1 none (key + 0x30) (bytesOf 8 out.toNat)
        pocWrite (pocWrite s2 none (key + 0x3C) (bytesOf 4 result.toNat)) none (key + 0x38) (bytesOf 4 status.toNat)

/-- A command stays started until what it waits for. -/
def keepCmd (s : State) (c : HostCmd) (w : HWait) : State := { s with cmds := s.cmds ++ [{ c with wait := w }] }

/-! The answers that turn a command away (R431, R432). -/

def notReady : Nat := 0x81
def notOwner : Nat := 7
def badCommand : Nat := 0x80

/-- The code with which a command is turned away, in the order state, ownership, form; none where it runs. -/
def cmdGate (s : State) (c : HostCmd) (form : Bool) : Option Nat :=
  let always := c.op == 10
  let early := always || c.op == 11 || c.op == 12
  if s.ctl.fatal && !always then some notReady
  else if decide (s.ctl.stage < 7) && !early then some notReady
  else if decide (1 ≤ c.op) && decide (c.op ≤ 12) && c.op != 8 && c.op != 10 && c.op != 11 && s.ctl.owner != c.agent then some notOwner
  else if c.op == 0 || decide (12 < c.op) || bits (c.words.getD 0 0) 15 9 != 0 || bits (c.words.getD 0 0) 31 24 != 0 || !form then some badCommand
  else none

/-- Run a command: take it, turn it away, or do what `f` says. -/
def runCmd (s : State) (src : CmdSrc) (op : Nat) (form : HostCmd → Bool) (f : HostCmd → State → Out) : Out :=
  match takeCmd s src op with
  | none => notNow
  | some (c, s0) =>
    let s1 := countEntry s s0 src
    match cmdGate s1 c (form c && !entryBad s src) with
    | some code => .next (completeCmd s1 c 0 code 0)
    | none => f c s1

/-! Memory and counters. -/

/-- The key of a host command's operand of `n` bytes: translated in the command's ASID (R431); the failure code of R247. -/
def cmdKey (s : State) (c : HostCmd) (a : DWord) (n : Nat) (p : Perm) (absent : Nat) : Except Nat Nat :=
  match hostAddrKey s c.asid a p with
  | .error d => .error (if d.cause = notPresent then absent else if d.cause = dataError then 4 else 3)
  | .ok key => if p = .read ∧ poisoned s key n then .error 4 else .ok key

/-- Count the uncorrectable error behind the failure code 4 of an operand of `n` bytes (R442). -/
def countCmd (s : State) (c : HostCmd) (a : DWord) (n code : Nat) : State :=
  if code = 4 ∧ addrTag a ≠ 2 then countReads s c.asid n 1 a else s

def tag02 (a : DWord) : Bool := (addrTag a == 0 || addrTag a == 2) && tagOk a

/-- COPY of the host (R432): started; its units are copied one by one. -/
def execHostCopy (src : CmdSrc) (s : State) : Out :=
  runCmd s src 2 (fun c => tag02 (c.ptr 0x08) && tag02 (c.ptr 0x10) && (c.ptr 0x08).toNat % 16 == 0 && (c.ptr 0x10).toNat % 16 == 0
      && (c.word 0x18).toNat % 16 == 0 && decide ((c.word 0x18).toNat ≤ 2 ^ 28))
    (fun c s => if (c.word 0x18).toNat = 0 then .next (completeCmd s c 0 0 0) else .next (keepCmd s c (.copy [])))

/-- A unit of a host COPY: read and written as a whole; a refused one ends the command with its code of R247. -/
def hostCopyUnit (s : State) (c : HostCmd) (done : List Nat) (u : Nat) : Out :=
  if (c.word 0x18).toNat ≤ 16 * u ∨ done.contains u then notNow
  else
    let off : DWord := BitVec.ofNat 64 (16 * u)
    match cmdKey s c (c.ptr 0x08 + off) 16 .read 1 with
    | .error code => .next (completeCmd (countCmd s c (c.ptr 0x08 + off) 16 code) c 0 0 (BitVec.ofNat 32 code))
    | .ok k =>
      match cmdKey s c (c.ptr 0x10 + off) 16 .write 2 with
      | .error code => .next (completeCmd (countCmd s c (c.ptr 0x10 + off) 16 code) c 0 0 (BitVec.ofNat 32 code))
      | .ok d =>
        let s1 := pocWrite s none d (memRead s.mem 16 k)
        if (c.word 0x18).toNat = 16 * (done.length + 1) then .next (completeCmd s1 c 0 0 0)
        else .next { s1 with cmds := s1.cmds.map (fun x => if x.id = c.id then { x with wait := .copy (u :: done) } else x) }

/-- A counter operand keeps its tag and alignment (R432). -/
def counterForm (a : DWord) : Bool := addrTag a == 0 && tagOk a && a.toNat % 4 == 0

/-- SIGNAL (R432): one atomic at system scope on a counter. -/
def execSignal (src : CmdSrc) (s : State) : Out :=
  runCmd s src 3 (fun c => counterForm (c.ptr 0x08) && decide ((c.word 0x14).toNat ≤ 1)) (fun c s =>
    match cmdKey s c (c.ptr 0x08) 4 .write 2 with
    | .error code => .next (completeCmd (countCmd s c (c.ptr 0x08) 4 code) c 0 0 (BitVec.ofNat 32 code))
    | .ok key =>
      if poisoned s key 4 then .next (completeCmd (countErr s key) c 0 0 4)
      else
        let s1 := (atomicAt s none (if c.word 0x14 = 0 then 1 else 0) key 4 [c.word 0x10]).1
        .next (completeCmd s1 c 0 0 0))

/-- A registration on a counter, with its first evaluation (R242). -/
def register (s : State) (id die key : Nat) (thr : Word) : State :=
  { s with trigs := s.trigs ++ [{ id := id, die := die, key := key, thr := thr, due := reached (readWord s key) thr }] }

/-- A die has a free registration (R242). -/
def regFree (s : State) (die : Nat) : Bool := decide ((s.trigs.filter (fun r => r.die == die)).length < 4096)

/-- WAIT of the host (R432): a registration holds the later commands of its queue. -/
def execHostWait (src : CmdSrc) (s : State) : Out :=
  runCmd s src 4 (fun c => counterForm (c.ptr 0x08)) (fun c s =>
    let die := addrDie (c.ptr 0x08)
    match cmdKey s c (c.ptr 0x08) 4 .read 2 with
    | .error code => .next (completeCmd (countCmd s c (c.ptr 0x08) 4 code) c 0 0 (BitVec.ofNat 32 code))
    | .ok key => if regFree s die then .next (keepCmd (register s c.id die key (c.word 0x10)) c (.counter c.id)) else notNow)

/-! Ownership (R434). -/

/-- OWNER_CLAIM. -/
def execOwnerClaim (src : CmdSrc) (s : State) : Out :=
  runCmd s src 11 (fun _ => true) (fun c s =>
    if s.ctl.owner = 3 then .next (completeCmd { s with ctl := { s.ctl with owner := c.agent } } c 0 0 0)
    else .next (completeCmd s c 0 2 0))

/-- OWNER_YIELD. -/
def execOwnerYield (src : CmdSrc) (s : State) : Out :=
  runCmd s src 12 (fun c => decide ((c.word 0x08).toNat ≤ 3)) (fun c s =>
    .next (completeCmd { s with ctl := { s.ctl with owner := (c.word 0x08).toNat } } c 0 0 0))

/-! Buffers of commands (R431, R439): their pieces lie within 64-byte lines, and each is translated on its own. -/

/-- The pieces of a buffer, with fuel for them. -/
def bufferParts : Nat → DWord → Nat → List (DWord × Nat)
  | 0, _, _ => []
  | fuel + 1, a, n =>
    let m := min n (64 - a.toNat % 64)
    if n = 0 then [] else (a, m) :: bufferParts fuel (a + BitVec.ofNat 64 m) (n - m)

/-- The places of the pieces in memory, or the first piece that is refused. -/
def partKeys (s : State) (asid : Nat) (p : Perm) : List (DWord × Nat) → Except DWord (List (Nat × Nat))
  | [] => .ok []
  | x :: rest => match hostAddrKey s asid x.1 p, partKeys s asid p rest with
    | .error _, _ => .error x.1
    | .ok k, .ok ks => .ok ((k, x.2) :: ks)
    | .ok _, .error a => .error a

def bufferKeys (s : State) (asid : Nat) (p : Perm) (a : DWord) (n : Nat) : Except DWord (List (Nat × Nat)) :=
  partKeys s asid p (bufferParts (cdiv n 64 + 1) a n)

/-- Read a buffer, or count the uncorrectable error that prevents it (R442). -/
def readBuffer (s : State) (asid : Nat) (a : DWord) (n : Nat) : Except State (List Byte) := match bufferKeys s asid .read a n with
  | .error x => .error (countAddr s asid x)
  | .ok ks => match ks.find? (fun k => poisoned s k.1 k.2) with
    | some k => .error (if isHbm k.1 then countErr s k.1 else s)
    | none => .ok (ks.flatMap (fun k => memRead s.mem k.2 k.1))

/-- Put bytes at the pieces of a buffer, in order. -/
def putParts (s : State) : List (Nat × Nat) → List Byte → State
  | [], _ => s
  | k :: rest, bs => putParts (pocWrite s none k.1 (bs.take k.2)) rest (bs.drop k.2)

/-- Write a buffer as a whole, or count the uncorrectable error that prevents it. -/
def writeBuffer (s : State) (asid : Nat) (a : DWord) (bs : List Byte) : Except State State := match bufferKeys s asid .write a bs.length with
  | .error x => .error (countAddr s asid x)
  | .ok ks => .ok (putParts s ks bs)

end Sys2Proof.Machine
end

