-- ==== Sys2Proof/Machine/Sha.lean ====
section
/-! DEFINITION. Sha.lean: the SHAKE256 512-bit digest of a run of bytes, with which the boot ROM measures (R438). The spec names the function; that it is
that of FIPS 202 is PRESUMED (assumption log 38). Its tables are computed here from the rules that give them. -/
namespace Sys2Proof.Machine

/-- Turn a lane of 64 bits left by `n`. -/
def turnLane (x n : Nat) : Nat := (x * 2 ^ (n % 64)) % 2 ^ 64 + x / 2 ^ (64 - n % 64)

/-- The walk over the lanes other than (0, 0): from (1, 0), (x, y) goes on to (y, 2x + 3y); the step of number `k` turns its lane by the sum of
1 to k and moves its content to the next lane. Each entry: the lane it comes from, how far it turns, the lane it comes to. -/
def laneWalk : Nat → Nat → Nat → Nat → List (Nat × Nat × Nat)
  | 0, _, _, _ => []
  | n + 1, k, x, y =>
    let z := (2 * x + 3 * y) % 5
    (x + 5 * y, k * (k + 1) / 2, y + 5 * z) :: laneWalk n (k + 1) y z

/-- The feedback register of the round constants after one step. -/
def rcStep (r : Nat) : Nat := if 128 ≤ r then (2 * r - 256) ^^^ 0x71 else 2 * r

/-- The constant of a round and the register after it: seven bits of the register, at the places 2^j - 1. -/
def roundWord : Nat → Nat → Nat → Nat × Nat
  | 0, _, r => (0, r)
  | n + 1, j, r =>
    let rest := roundWord n (j + 1) (rcStep r)
    (r % 2 * 2 ^ (2 ^ j - 1) + rest.1, rest.2)

/-- The parity of a column of lanes. -/
def column (a : List Nat) (x : Nat) : Nat :=
  a.getD x 0 ^^^ a.getD (x + 5) 0 ^^^ a.getD (x + 10) 0 ^^^ a.getD (x + 15) 0 ^^^ a.getD (x + 20) 0

/-- The columns mixed into the lanes. -/
def mixColumns (a : List Nat) : List Nat :=
  let p := (List.range 5).map (column a)
  a.zipIdx.map (fun v => v.1 ^^^ p.getD ((v.2 + 4) % 5) 0 ^^^ turnLane (p.getD ((v.2 + 1) % 5) 0) 1)

/-- The lanes turned and moved along a walk. -/
def moveLanes (w : List (Nat × Nat × Nat)) (a : List Nat) : List Nat :=
  w.foldl (fun b m => b.set m.2.2 (turnLane (a.getD m.1 0) m.2.1)) a

/-- The rows combined, each lane with the two after it. -/
def combineRows (a : List Nat) : List Nat :=
  a.zipIdx.map (fun v =>
    let row := v.2 / 5 * 5
    let next := a.getD (row + (v.2 + 1) % 5) 0
    v.1 ^^^ (a.getD (row + (v.2 + 2) % 5) 0 &&& (next ^^^ (2 ^ 64 - 1))))

/-- `n` rounds of the permutation on 25 lanes, lane (x, y) at x + 5y. -/
def spongeRounds (w : List (Nat × Nat × Nat)) : Nat → Nat → List Nat → List Nat
  | 0, _, a => a
  | n + 1, r, a =>
    let k := roundWord 7 0 r
    spongeRounds w n k.2 ((combineRows (moveLanes w (mixColumns a))).modify 0 (fun v => v ^^^ k.1))

/-- Absorb one block of 136 bytes. -/
def absorb (w : List (Nat × Nat × Nat)) (a : List Nat) (block : List Byte) : List Nat :=
  spongeRounds w 24 1 (a.zipIdx.map (fun v => if v.2 < 17 then v.1 ^^^ ofBytes ((block.drop (8 * v.2)).take 8) else v.1))

/-- The message with its suffix and padding. -/
def shakePad (bs : List Byte) : List Byte :=
  let n := 135 - bs.length % 136
  if n = 0 then bs ++ [0x9F] else bs ++ [0x1F] ++ List.replicate (n - 1) 0 ++ [0x80]

/-- The SHAKE256 512-bit digest. -/
def shake256 (bs : List Byte) : List Byte :=
  let p := shakePad bs
  let w := laneWalk 24 1 1 0
  let a := (List.range (p.length / 136)).foldl (fun a i => absorb w a ((p.drop (136 * i)).take 136)) (List.replicate 25 0)
  (a.take 8).flatMap (bytesOf 8)

end Sys2Proof.Machine
end

