-- ==== Sys2Proof/Machine/Attest.lean ====
section
/-! DEFINITION. Attest.lean: the SPDM 1.3 responder (R438, R439) and ATTEST. The layouts of its messages are not in the spec: they are those of DMTF
DSP0274 1.3 (PRESUMED, assumption log 43). -/
namespace Sys2Proof.Machine

/-- Byte `i` of a request. -/
def spdmByte (req : List Byte) (i : Nat) : Nat := (req.getD i 0).toNat

/-- A 16-bit field of a request. -/
def spdmHalf (req : List Byte) (i : Nat) : Nat := spdmByte req i + 256 * spdmByte req (i + 1)

/-- The head of a response: version 1.3, its code, its two parameters. -/
def spdmHead (code p1 p2 : Nat) : List Byte := [0x13, BitVec.ofNat 8 code, BitVec.ofNat 8 p1, BitVec.ofNat 8 p2]

/-- ERROR UnsupportedRequest (R439). -/
def spdmRefusal (req : List Byte) : List Byte := spdmHead 0x7F 0x07 (spdmByte req 1)

/-- VERSION: 1.3 only. -/
def spdmVersion : List Byte := [0x10, 0x04, 0, 0, 0, 1, 0x00, 0x13]

/-- CAPABILITIES: certificates, challenges and signed measurements; the timing and the sizes are free. -/
def spdmCapabilities (free : List Byte) : List Byte := spdmHead 0x61 0 0 ++ [0] ++ free.take 1 ++ [0, 0] ++ bytesOf 4 0x16 ++ (free.drop 1).take 8

/-- ALGORITHMS: Ed448 for signatures; DSP0274 numbers no SHAKE256, so the bits that stand for it are free. -/
def spdmAlgorithms (free : List Byte) : List Byte :=
  spdmHead 0x63 0 0 ++ bytesOf 2 36 ++ [1, 0] ++ free.take 4 ++ bytesOf 4 (2 ^ 11) ++ (free.drop 4).take 4 ++ List.replicate 16 0

/-- DIGESTS: the digest of the certificate chain of slot 0. -/
def spdmDigests (c : Ctl) : List Byte := spdmHead 0x01 1 1 ++ shake256 c.chain

/-- CERTIFICATE: a portion of the chain of slot 0, from an offset. -/
def spdmCertificate (c : Ctl) (off n : Nat) : List Byte :=
  let portion := (c.chain.drop off).take (min n 65535)
  spdmHead 0x02 0 0 ++ bytesOf 2 portion.length ++ bytesOf 2 (c.chain.length - off - portion.length) ++ portion

/-- The block of a measurement (R438): its index, its kind, which is free, and its digest. -/
def spdmBlock (free : List Byte) (k : Nat) (digest : List Byte) : List Byte :=
  [BitVec.ofNat 8 k, 1] ++ bytesOf 2 67 ++ [free.getD (32 + k) 0] ++ bytesOf 2 64 ++ digest

/-- The blocks of the measurements taken so far: all, or one by its index. -/
def spdmBlocks (c : Ctl) (free : List Byte) (op : Nat) : List (List Byte) :=
  (c.measured.zipIdx.filter (fun x => op == 0xFF || x.2 + 1 == op)).map (fun x => spdmBlock free (x.2 + 1) x.1)

/-- The signature of a response with the identity key (R439): Ed448 over the request and the response. -/
def spdmSign (c : Ctl) (req body : List Byte) : List Byte := (List.range 114).map (Config.ed448 c.idPriv (req ++ body))

/-- CHALLENGE_AUTH. -/
def spdmChallenge (c : Ctl) (free req : List Byte) : List Byte :=
  let sum := if spdmByte req 3 = 0 then [] else shake256 (spdmBlocks c free 0xFF).flatten
  let body := spdmHead 0x03 0 1 ++ shake256 c.chain ++ free.take 32 ++ sum ++ [0, 0] ++ (req.drop 36).take 8
  body ++ spdmSign c req body

/-- MEASUREMENTS: their number, all of them, or one. -/
def spdmMeasurements (c : Ctl) (free req : List Byte) : List Byte :=
  let op := spdmByte req 3
  let signs := spdmByte req 2 % 2 == 1
  let bs := if op = 0 then [] else spdmBlocks c free op
  let body := spdmHead 0x60 (if op = 0 then c.measured.length else 0) 0 ++ [BitVec.ofNat 8 bs.length] ++ bytesOf 3 bs.flatten.length ++ bs.flatten
    ++ free.take 32 ++ [0, 0] ++ (req.drop (if signs then 37 else 4)).take 8
  if signs then body ++ spdmSign c req body else body

/-- The requests that the device supports (R439), whole: in version 1.3, of slot 0, of a measurement taken. Every other is refused. -/
def spdmSupported (c : Ctl) (req : List Byte) : Bool :=
  let has := fun (n : Nat) => decide (n ≤ req.length)
  let slot0 := fun (i : Nat) => spdmByte req i % 16 == 0
  has 4 && (match spdmByte req 1 with
  | 0x84 => true
  | 0xE1 => spdmByte req 0 == 0x13
  | 0xE3 => spdmByte req 0 == 0x13
  | 0x81 => spdmByte req 0 == 0x13
  | 0x82 => spdmByte req 0 == 0x13 && has 8 && slot0 2 && decide (spdmHalf req 4 ≤ c.chain.length)
  | 0x83 => spdmByte req 0 == 0x13 && has 44 && slot0 2
  | 0xE0 => spdmByte req 0 == 0x13 && has (if spdmByte req 2 % 2 = 1 then 45 else 12) && (spdmByte req 2 % 2 == 0 || slot0 36)
      && (spdmByte req 3 == 0 || spdmByte req 3 == 0xFF || decide (spdmByte req 3 ≤ c.measured.length))
  | _ => false)

/-- The response to a request (R439), given 64 free bytes. -/
def spdmReply (c : Ctl) (free req : List Byte) : List Byte :=
  if spdmSupported c req = false then spdmRefusal req
  else match spdmByte req 1 with
  | 0x84 => spdmVersion
  | 0xE1 => spdmCapabilities free
  | 0xE3 => spdmAlgorithms free
  | 0x81 => spdmDigests c
  | 0x82 => spdmCertificate c (spdmHalf req 4) (spdmHalf req 6)
  | 0x83 => spdmChallenge c free req
  | _ => spdmMeasurements c free req

/-- The response that the responder forms in a state; the bytes that the spec leaves open are drawn. -/
def attestReply (s : State) (req : List Byte) : List Byte := spdmReply s.ctl ((List.range 64).map (fun i => Config.freeByte (s.freeCtr + i))) req

/-- ATTEST (R439): a request is answered, whatever the state of the module; a response longer than the capacity is not written. -/
def execAttest (src : CmdSrc) (s : State) : Out :=
  runCmd s src 10 (fun c => tag02 (c.ptr 0x08) && tag02 (c.ptr 0x18)) (fun c s =>
    match readBuffer s c.asid (c.ptr 0x08) (c.word 0x10).toNat with
    | .error s' => .next (completeCmd s' c 0 badCommand 0)
    | .ok req =>
      let r := attestReply s req
      let s1 := { s with freeCtr := s.freeCtr + 64 }
      if (c.word 0x20).toNat < r.length then .next (completeCmd s1 c 0 0x82 0)
      else match writeBuffer s1 c.asid (c.ptr 0x18) r with
      | .error s' => .next (completeCmd s' c 0 badCommand 0)
      | .ok s' => .next (completeCmd s' c 0 0 (BitVec.ofNat 32 r.length)))

end Sys2Proof.Machine
end

