-- ==== Sys2Proof/Machine/Branch.lean ====
section
/-! DEFINITION. Branch.lean: control transfers and the predicate prefix (R30, R36, R37, R84–R87). -/
namespace Sys2Proof.Machine

/-- A transfer: a word that may not stand in a predicate block (R37). -/
def transfer (h : Bool) (s : State) (f : Ctx → Res (DWord × Thread)) : Out :=
  issue h 9 s (fun c s =>
    match f c with
    | .error r => .trap r
    | .ok (target, th) => .jump (s.modThread c.t (fun _ => th)) target)

/-- A PC-relative target (R84). -/
def relTarget (pc : DWord) {w : Nat} (off : BitVec w) : DWord := pc + BitVec.ofInt 64 (4 * off.toInt)

/-- The greatest depth of a thread's return stack (R30). -/
def maxDepth (c : Ctx) : Nat := 8 + c.l.hdr.stackBytes / 8

/-- Push the address of the following word (R30). -/
def push (c : Ctx) : Res Thread := do
  require (c.th.stack.length != maxDepth c) (trapPlain c.th.pc stackOver 0)
  .ok { c.th with stack := (c.th.pc + 4) :: c.th.stack }

/-- BR (R84). -/
def execBr (h : Bool) (o : BitVec 25) (s : State) : Out :=
  transfer h s (fun c => .ok (relTarget c.th.pc o, c.th))

/-- CALL (R84). -/
def execCall (h : Bool) (o : BitVec 25) (s : State) : Out :=
  transfer h s (fun c => do
    let th ← push c
    .ok (relTarget c.th.pc o, th))

/-- BRP (R84): falls through where the predicate does not hold. -/
def execBrp (h : Bool) (p : BitVec 3) (n : Bool) (o : BitVec 21) (s : State) : Out :=
  issue h 9 s (fun c s =>
    if c.pred p != n then .jump s (relTarget c.th.pc o) else .done s)

/-- JR (R85). -/
def execJr (h : Bool) (a : BitVec 7) (s : State) : Out :=
  transfer h s (fun c => do
    let x ← src64 c a
    .ok (x, c.th))

/-- CALLR (R85). -/
def execCallr (h : Bool) (a : BitVec 7) (s : State) : Out :=
  transfer h s (fun c => do
    let x ← src64 c a
    let th ← push c
    .ok (x, th))

/-- RET (R30, R85). -/
def execRet (h : Bool) (s : State) : Out :=
  transfer h s (fun c =>
    match c.th.stack with
    | [] => .error (trapPlain c.th.pc stackOver 0)
    | x :: r => .ok (x, { c.th with stack := r }))

/-- BRX (R85). -/
def execBrx (h : Bool) (a b : BitVec 7) (s : State) : Out :=
  transfer h s (fun c => do
    let x ← src64 c a
    let y ← src32 c b
    .ok (x + BitVec.ofNat 64 (4 * y.toNat), c.th))

/-- PBLK (R36, R87): the predicate is read once; word i executes where its pattern bit equals it. The block opens after
the word itself. -/
def execPblk (p n : BitVec 3) (t : BitVec 8) (s : State) : Out :=
  issue false 8 s (fun c s =>
    .done (s.modThread c.t (fun th =>
      { th with blk := false :: (List.range (n.toNat + 1)).map (fun i => t.getLsbD i == c.pred p) })))

end Sys2Proof.Machine
end

