-- ==== Sys2Proof/Machine/Queue.lean ====
section
/-! DEFINITION. Queue.lean: packets that are formed as part of engine work: transit (R382), requests and replies (R392, R393),
and the host's fault records for engines (R246, R339). -/
namespace Sys2Proof.Machine

/-- The packages among which transit draws an intermediate for a destination (R382). -/
def transitVia (s : State) (q : Nat) : List Nat :=
  let ps := ((liveEntries s).filter (fun x => !x.2.2.bcast)).map (fun x => x.2.2.peer)
  ps.eraseDups.filter (fun r => r != q && r != s.pkgId.toNat && reachable s r)

/-- A drawn number below `n`, of which the spec says only that it is uniform (R382): a free value. -/
def drawBelow (s : State) (n : Nat) : Nat × State :=
  (((Config.freeByte s.freeCtr).toNat + 256 * (Config.freeByte (s.freeCtr + 1)).toNat) % n, { s with freeCtr := s.freeCtr + 2 })

/-- Form a packet that may travel by transit (R382, R396). -/
def enqueueSpread (s : State) (spread : Bool) (id die : Nat) (launch : Option LRef) (q ddie cls kind : Nat) (body : Body) : State :=
  match spread, transitVia s q with
  | true, v :: vs =>
    let d := drawBelow s (vs.length + 1)
    enqueue d.2 id die launch ((v :: vs).getD d.1 q) q ddie cls kind true body
  | _, _ => enqueue s id die launch q q ddie cls kind false body

/-- A reply to a request of another package, in the request's class (R392); no request names its die, so the final die is 0 and
the tag finds the requester (assumption log 12). -/
def sendReply (s : State) (die : Nat) (p : Packet) (kind cls tag status reason : Nat) (data : List Byte) : State :=
  let f := s.fresh
  enqueue f.2 f.1 die none p.src p.src 0 cls kind false (.reply status reason tag data)

/-- A record is free on a die (R338); an engine whose refusal finds none free tries again later. -/
def recFree (s : State) (die : Nat) : Bool := decide (openRecs s die < 4096)

/-- Post the record of an engine's refused unit, registration or signal (R246, R339, R342). -/
def engineRec (s : State) (die : Nat) (core : Option Group) (asid launch : Nat) (a : DWord) (kind : Nat) (who : FWho) : Nat × State :=
  postRec s die a 0 launch (placeWord asid die core notPresent) 0 kind 1 who true

end Sys2Proof.Machine
end

