-- ==== Sys2Proof/Machine/CopySteps.lean ====
section
/-! DEFINITION. CopySteps.lean: how a running copy goes on, unit by unit (R230–R238, R246, R247), and how it ends (R234, R237,
R243, R247, R248). -/
namespace Sys2Proof.Machine

/-! Combining (R235, R236). -/

/-- One element: `t` at the destination, `x` from the source. -/
def combineElem (rop rtype t x : Nat) : Nat :=
  match rtype with
  | 2 => match rop with
    | 0 => (fpAdd (BitVec.ofNat 32 t) (BitVec.ofNat 32 x)).toNat
    | 1 => minMaxF fp32 false t x
    | _ => minMaxF fp32 true t x
  | 3 => match rop with
    | 0 => hAdd bf16 t x 0
    | 1 => hMin bf16 t x 0
    | _ => hMax bf16 t x 0
  | 4 => match rop with
    | 0 => hAdd fp16 t x 0
    | 1 => hMin fp16 t x 0
    | _ => hMax fp16 t x 0
  | _ => match rop with
    | 0 => (t + x) % 2 ^ 32
    | 1 => if rtype = 0 then (if sextN 32 x < sextN 32 t then x else t) else min t x
    | 2 => if rtype = 0 then (if sextN 32 t < sextN 32 x then x else t) else max t x
    | 3 => t &&& x
    | 4 => t ||| x
    | _ => t ^^^ x

def elemBytes (rtype : Nat) : Nat := if rtype ≤ 2 then 4 else 2

/-- All elements of a run of bytes, with fuel for their number. -/
def combineGo (rop rtype : Nat) : Nat → List Byte → List Byte → List Byte
  | 0, _, _ => []
  | n + 1, t, x =>
    let k := elemBytes rtype
    bytesOf k (combineElem rop rtype (ofBytes (t.take k)) (ofBytes (x.take k))) ++ combineGo rop rtype n (t.drop k) (x.drop k)

/-- combine of R230 on bytes: the left operand is `t`. -/
def combineBytes (rop rtype : Nat) (t x : List Byte) : List Byte := combineGo rop rtype (x.length / elemBytes rtype) t x

/-! One unit. -/

/-- What an access of an engine comes to: not yet, data, a code of R247, a refusal that the host answers, or a request to
another package. -/
inductive URes where
  | wait
  | data (s : State) (bs : List Byte)
  | fail (s : State) (code : Nat)
  | held
  | away

/-- The code of a refusal by translation (R246, R247); `absent` is the code for NOT_PRESENT. -/
def denyUnit (s : State) (d : Deny) (absent : Nat) : URes :=
  if d.cause = notPresent then (if d.detail = 1 then .held else .fail s absent)
  else if d.cause = protection then .fail s 3
  else .fail s 4

/-- The address space in which an engine's tag 0x0 or 0x4 access is translated here: its own, or that of its pod key; none where
the key is not bound, and nothing where another package is the owner (R161, R394). -/
def engineAsid (s : State) (asid key : Nat) (a : DWord) : Option (Option Nat) :=
  if addrTag a = 0 then some (some asid)
  else if addrPkg a = s.pkgId.toNat then some (keyAsid s key)
  else none

/-- The 16 bytes at a translated place. -/
def readPlace (s : State) (asid : Nat) (a : DWord) (k : Nat) : URes := match pocRead s k 16 with
  | .error s' => .fail s' 4
  | .ok bs => .data (fillMtlb s (addrDie a) asid (addrOff a)) bs

/-- Read 16 bytes for an engine (R230). -/
def readUnit (s : State) (l : Launch) (g : Group) (asid key : Nat) (a : DWord) (absent : Nat) : URes :=
  match addrTag a with
  | 2 =>
    let k := hostKey (bits a 47 0)
    if hostGranted s asid (bits a 47 0) 16 = false then .fail s 3
    else if poisoned s k 16 then .fail s 4
    else .data s (memRead s.mem 16 k)
  | 0 => hbm
  | 4 => hbm
  | tag =>
    match localKey l g a with
    | none => .fail s 6
    | some k =>
      if tag = 5 ∧ tileFresh s l g.core (addrHandle a) = false then .fail s 6
      else if lineState s k = 1 then .wait
      else if lineState s k = 2 then .fail s 5
      else .data s (memRead s.mem 16 k)
where
  hbm : URes :=
    match engineAsid s asid key a with
    | none => .away
    | some none => .fail s 3
    | some (some asid) =>
      match translate s (addrDie a) asid (addrOff a) .read with
      | .error d => denyUnit (countWalk s (addrDie a) asid (addrOff a)) d absent
      | .ok (lvl, e) => readPlace s asid a (hbmKey (addrDie a) (physOf lvl e (addrOff a)))

/-- How a unit is put at its destination: as it is, combined under an operator and type, or in the shadow frame. -/
inductive Put where
  | plain
  | combine (rop rtype : Nat)
  | shadow
deriving DecidableEq, Repr

/-- Put 16 bytes at a key. -/
def putUnit (s : State) (how : Put) (k : Nat) (x : List Byte) : State :=
  match how with
  | .combine rop rtype => pocWrite s none k (combineBytes rop rtype (memRead s.mem x.length k) x)
  | _ => pocWrite s none k x

/-- Write a unit in HBM of this package, in an address space (R230, R236, R238); `absent` is the code for NOT_PRESENT. -/
def writeHbm (s : State) (asid : Nat) (how : Put) (a : DWord) (x : List Byte) (absent : Nat) : URes :=
  match translate s (addrDie a) asid (addrOff a) .write with
  | .error d => denyUnit (countWalk s (addrDie a) asid (addrOff a)) d absent
  | .ok (lvl, e) =>
    if how = .shadow ∧ leafSC e = false then .fail s 7
    else
      let k := hbmKey (addrDie a) (if how = .shadow then shadowOf lvl e (addrOff a) else physOf lvl e (addrOff a))
      let combines := match how with
        | .combine .. => true
        | _ => false
      if combines && poisoned s k 16 then .fail (countErr s k) 4
      else .data (fillMtlb (putUnit s how k x) (addrDie a) asid (addrOff a)) []

/-- Write a unit at a scratch or tile place (R230, R266). -/
def writeLocal (s : State) (l : Launch) (g : Group) (how : Put) (a : DWord) (x : List Byte) : URes :=
  match localKey l g a with
  | none => .fail s 6
  | some k =>
    if addrTag a = 5 ∧ tileFresh s l g.core (addrHandle a) = false then .fail s 6
    else if engineHeld s g.core k none then .wait
    else .data (putUnit s how k x) []

/-- Write 16 bytes for an engine. -/
def writeUnit (s : State) (l : Launch) (g : Group) (asid key : Nat) (how : Put) (a : DWord) (x : List Byte) (absent : Nat) : URes :=
  match addrTag a with
  | 2 => if hostGranted s asid (bits a 47 0) 16 then .data (putUnit s how (hostKey (bits a 47 0)) x) [] else .fail s 3
  | 1 => writeLocal s l g how a x
  | 5 => writeLocal s l g how a x
  | _ =>
    match engineAsid s asid key a with
    | none => .away
    | some none => .fail s 3
    | some (some asid) => writeHbm s asid how a x absent

/-! The commands. -/

def CopyCmd.how (c : CopyCmd) : Put := match c.minor with
  | 1 => .combine c.rop c.rtype
  | 3 => .shadow
  | _ => .plain

/-- The launch and group of a command, as it stood when the command was issued. -/
def copyCtx (s : State) (c : CopyCmd) : Option (Launch × Group) := (s.ofThread c.t).map (fun x => (x.1, { x.2 with core := c.core }))

def State.putCopy (s : State) (c : CopyCmd) : State := { s with copies := s.copies.map (fun x => if x.id = c.id then c else x) }

def CopyCmd.flies (c : CopyCmd) (u : Nat) : Option Flight := c.flight.find? (fun f => f.unit == u)
def CopyCmd.land (c : CopyCmd) (u : Nat) : CopyCmd := { c with flight := c.flight.filter (fun f => f.unit != u) }
def CopyCmd.fly (c : CopyCmd) (f : Flight) : CopyCmd := { c with flight := f :: (c.land f.unit).flight }

/-- The command fails at this unit, if it has not failed before (R247). -/
def CopyCmd.failed (c : CopyCmd) (u code : Nat) : CopyCmd := { c.land u with fail := if c.fail = 0 then code else c.fail }

/-- A unit has been written: the lines all of whose units are written become FULL (R232). -/
def unitDone (s : State) (l : Launch) (g : Group) (c : CopyCmd) (u : Nat) : State :=
  let c1 := { c.land u with done := u :: c.done }
  let all := c1.ownLines s l g
  let full := ((all.filter (fun y => y.2 == u)).map (fun y => y.1)).eraseDups.filter (fun x => all.all (fun y => y.1 != x || c1.done.contains y.2))
  State.putCopy { s with lines := full.foldl (fun ls x => setLine ls x 0) s.lines } c1

/-- Write a CPYM unit on the ranks of the mask (R237). -/
def castUnit (s : State) (l : Launch) (g : Group) (c : CopyCmd) (x : List Byte) : List DWord → URes × CopyCmd
  | [] => (.data s [], c)
  | a :: rest =>
    if rankFreed l g a then
      castUnit s l g { c with drops := addrRank a :: c.drops.erase (addrRank a) } x rest
    else match writeLocal s l g .plain a x with
      | .data s' _ => castUnit s' l g c x rest
      | r => (r, c)

/-- The unit's data goes to its destination. -/
def storeUnit (s : State) (l : Launch) (g : Group) (c : CopyCmd) (u : Nat) (x : List Byte) : Out :=
  let r := if c.minor = 2 then castUnit s l g c x (c.dstsAt u) else (writeUnit s l g c.asid c.key c.how (c.dstAt u) x 2, c)
  match r.1 with
  | .wait => notNow
  | .data s' _ => .next (unitDone s' l g r.2 u)
  | .fail s' code => .next (s'.putCopy (r.2.failed u code))
  | .held =>
    let q := engineRec s (coreDie c.core) (some g) c.asid c.launch.id (c.dstAt u) 4 (.copyUnit c.id u)
    if recFree s (coreDie c.core) = false then notNow else .next (q.2.putCopy (c.fly { unit := u, tag := q.1, sent := false, held := true, data := some x }))
  | .away =>
    if voqRoom s (coreDie c.core) = false then notNow
    else
    let f := s.fresh
    let a := c.dstAt u
    let b := match c.how with
      | .combine rop rtype => (11, rop + 16 * rtype)
      | .shadow => (5, 8)
      | .plain => (5, 0)
    let s1 := enqueueSpread f.2 c.spread f.1 (coreDie c.core) (some c.launch) (addrPkg a) (addrDie a) c.cls b.1
      (.req a c.key 1 b.2 f.1 x)
    .next (s1.putCopy (c.fly { unit := u, tag := f.1, sent := true, held := false, data := some x }))

/-- The source of a unit has been read; the last one consumes (R234). -/
def unitRead1 (s : State) (g : Group) (c : CopyCmd) (u : Nat) : State × CopyCmd :=
  let c1 := { c with srcOk := u :: c.srcOk }
  if c1.consumes ∧ c1.consumed = false ∧ c1.srcOk.length = c1.units then
    let h := addrHandle c.src
    (consumeTile s (hCore g.core h) (hSlot h) 1, { c1 with consumed := true })
  else (s, c1)

/-- A unit's source is read, and, where its data comes at once, it goes to its destination. -/
def fetchUnit (s : State) (l : Launch) (g : Group) (c : CopyCmd) (u : Nat) : Out :=
  match s.thread? c.t with
  | none => notNow
  | some th =>
    if ownWrites s l g th c.id (c.srcAt u) 16 then notNow
    else match readUnit s l g c.asid c.key (c.srcAt u) 1 with
    | .wait => notNow
    | .data s1 x =>
      let r := unitRead1 s1 g c u
      storeUnit r.1 l g r.2 u x
    | .fail s' code => .next (s'.putCopy (c.failed u code))
    | .held =>
      let q := engineRec s (coreDie c.core) (some g) c.asid c.launch.id (c.srcAt u) 4 (.copyUnit c.id u)
      if recFree s (coreDie c.core) = false then notNow else .next (q.2.putCopy (c.fly { unit := u, tag := q.1, sent := false, held := true, data := none }))
    | .away =>
      if voqRoom s (coreDie c.core) = false then notNow
      else
      let f := s.fresh
      let a := c.srcAt u
      let s1 := enqueue f.2 f.1 (coreDie c.core) (some c.launch) (addrPkg a) (addrPkg a) (addrDie a) c.cls 0 false
        (.req a c.key 1 8 f.1 [])
      .next (s1.putCopy (c.fly { unit := u, tag := f.1, sent := true, held := false, data := none }))

/-! The end (R243, R247, R248). -/

/-- The command leaves the engine. A failed one leaves its code with the thread, and ERROR in the lines it has not filled. -/
def leaveCopy (s : State) (l : Launch) (g : Group) (c : CopyCmd) : State :=
  let s1 := { s with copies := s.copies.filter (fun x => x.id != c.id), trigs := s.trigs.filter (fun r => r.id != c.id) }
  let note := fun (th : Thread) =>
    let th1 := { th with cpyDrops := min 255 (th.cpyDrops + c.drops.length) }
    if c.fail ≠ 0 ∧ (th.cpyFail = 0 ∨ c.id < th.cpyFailId) then { th1 with cpyFail := c.fail, cpyFailId := c.id } else th1
  let bad := if c.fail = 0 then [] else
    (((c.ownLines s l g).filter (fun y => !c.done.contains y.2)).map (fun y => y.1)).eraseDups
  State.modThread (changeLines s1 bad 2) c.t note

/-- Add to a counter in HBM of this package for an engine (R243); `absent` is not used for a hold. -/
def addCounter (s : State) (asid : Nat) (a : DWord) (v : Word) : URes :=
  match translate s (addrDie a) asid (addrOff a) .write with
  | .error d => denyUnit (countWalk s (addrDie a) asid (addrOff a)) d 0x0A
  | .ok (lvl, e) =>
    let k := hbmKey (addrDie a) (physOf lvl e (addrOff a))
    if poisoned s k 4 then .fail (countErr s k) 0x0A else .data (atomicAt s none 0 k 4 [v]).1 []

/-- The add at G (R243). -/
def signalCopy (s : State) (l : Launch) (g : Group) (c : CopyCmd) : Out :=
  match engineAsid s c.asid c.key c.g with
  | none =>
    if voqRoom s (coreDie c.core) = false then notNow
    else
    let f := s.fresh
    let s1 := enqueue f.2 f.1 (coreDie c.core) (some c.launch) (addrPkg c.g) (addrPkg c.g) (addrDie c.g) 1 3 false
      (.req c.g c.key 0 2 f.1 (bytesOf 4 c.aux.toNat))
    .next (s1.putCopy ({ c with st := .signal }.fly { unit := c.units, tag := f.1, sent := true, held := false, data := none }))
  | some none => .next (leaveCopy s l g { c with fail := 0x0A })
  | some (some asid) =>
    match addCounter s asid c.g c.aux with
    | .data s' _ => .next (leaveCopy s' l g c)
    | .fail s' _ => .next (leaveCopy s' l g { c with fail := 0x0A })
    | .held =>
      let q := engineRec s (coreDie c.core) (some g) c.asid c.launch.id c.g 4 (.copyReg c.id)
      if recFree s (coreDie c.core) = false then notNow else .next (q.2.putCopy { c with st := .held q.1 })
    | _ => notNow

/-- The end of a command, once no unit is on its way: with its failure, or with its signal. -/
def finishCopy (s : State) (l : Launch) (g : Group) (c : CopyCmd) : Out :=
  if c.flight ≠ [] then notNow
  else if c.fail ≠ 0 then .next (leaveCopy s l g c)
  else if c.done.length < c.units then notNow
  else if c.sigs then signalCopy s l g c
  else .next (leaveCopy s l g c)

/-- A data command goes on: a unit, or, at the number after the last unit, its end. One that has failed issues no further unit, but a unit
in flight goes on (R247). -/
def copyStep (s : State) (c : CopyCmd) (u : Nat) : Out :=
  match copyCtx s c with
  | none => notNow
  | some (l, g) =>
    let goes := match c.st with
      | .running => true
      | .signal => true
      | .unregistered => c.fail != 0
      | _ => false
    if goes = false then notNow
    else if u = c.units then finishCopy s l g c
    else if c.units < u ∨ c.done.contains u then notNow
    else match c.flies u with
    | none => if c.fail ≠ 0 then notNow else fetchUnit s l g c u
    | some f =>
      match f.sent || f.held, f.data with
      | false, some x => storeUnit s l g c u x
      | false, none => fetchUnit s l g c u
      | true, _ => notNow

/-- COPY_UNIT (R230, R432): a unit of a data command or of a COPY of the host; `u` one past the last unit ends the command. -/
def execCopyUnit (id u : Nat) (s : State) : Out :=
  match s.copies.find? (fun c => c.id == id), s.cmds.find? (fun c => c.id == id) with
  | some c, _ => copyStep s c u
  | none, some c =>
    match c.wait with
    | .copy done => hostCopyUnit s c done u
    | _ => notNow
  | none, none => notNow

end Sys2Proof.Machine
end

