-- ==== Sys2Proof/Machine/MatSteps.lean ====
section
/-! DEFINITION. MatSteps.lean: the steps of the matrix engine (R261–R270). -/
namespace Sys2Proof.Machine

/-- A group whose live threads are all halted: the engine stops its operations at a step boundary (R264, R356). -/
def Group.haltedWhole (g : Group) : Bool :=
  g.threads.any (fun th => !th.exited) && g.threads.all (fun th => th.exited || th.halted)

/-! Slots (R250). -/

def Engine.slot (e : Engine) (k : Nat) : List Word := ((e.slots.find? (fun x => x.1 == k)).map (fun x => x.2)).getD (List.replicate 4096 0)
def Engine.setSlot (e : Engine) (k : Nat) (v : List Word) : Engine := { e with slots := (k, v) :: e.slots.filter (fun x => x.1 != k) }

/-- Change the operation at the head of a queue. -/
def Engine.setHead (e : Engine) (o : MOp) : Engine := { e with queue := o :: e.queue.drop 1 }
/-- The operation at the head ends. -/
def Engine.pop (e : Engine) : Engine := { e with queue := e.queue.drop 1 }

/-! Reading lines (R265). -/

/-- Every queued operation of a core reads what it can: operand fetch overlaps the operation that runs (R263). -/
def latchQueue (s : State) (core : Nat) : State :=
  (s.engine core).queue.foldl (fun s o => match s.ofThread o.t with
    | some (l, g) => putRead s l g core (latchOp s l g o)
    | none => s) s

/-- How many lines the queued operations of a core have read. -/
def readCount (s : State) (core : Nat) : Nat := ((s.engine core).queue.map (fun o => o.rd.length)).sum

/-! One step of a compute form (R261, R262). -/

/-- Element k of line `la` of a block: its value. -/
def MOp.elem (s : State) (o : MOp) (isA : Bool) (base la k : Nat) : Val :=
  let q := if isA then o.a else o.b
  let cb := o.cb isA
  let at_ := base + elemOff q cb la k
  if cb = 16 then
    decodeF (if o.minor = 4 then fp16 else bf16) ((o.byteAt s at_).toNat + 256 * (o.byteAt s (at_ + 1)).toNat)
  else
    let x := (o.byteAt s at_).toNat
    let pos := if blkDir q then la else k
    decodeNf (nfOf (if isA then o.nfA else o.nfB)) (if cb = 4 then (if pos % 2 = 0 then x % 16 else x / 16) else x)

/-- The value of a scale byte (R100, R101). -/
def scaleVal (q : List Word) (x : Nat) : Val :=
  if bits (blkScale q) 31 30 = 1 then decodeE8M0 x else decodeNf (nfOf 0x461D) (x % 128)

/-- T of a block (R261): the sum of the products times the scales. An exact zero is −0 only if every product is −0 (R262). -/
def macTerm (xs ys : List Val) (scale : Option (Val × Val)) : Val :=
  let t := sumV (List.zipWith mulV xs ys)
  match scale with
  | none => t
  | some (sa, sb) =>
    let u := mulV (mulV t sa) sb
    if u.isZero && !t.isZero then .zero false else u

/-- acc after a block: one rounding (R261). -/
def macBlock (acc : Word) (xs ys : List Val) (scale : Option (Val × Val)) : Word := f32 (addV (v32 acc) (macTerm xs ys scale))

/-- The slot after step `b` of a compute form. -/
def MOp.stepSlot (s : State) (l : Launch) (g : Group) (o : MOp) (slot : List Word) : List Word :=
  let b := o.next
  let k0 := b * o.bs
  let ks := (List.range (min (blkK o.a) (k0 + o.bs) - k0)).map (fun x => k0 + x)
  let ka := (localKey l g (blkPtr o.a)).getD 0
  let kb := (localKey l g (blkPtr o.b)).getD 0
  let row := fun (i : Nat) =>
    let la := o.lineA s l g i
    (ks.map (o.elem s true ka la), scaleVal o.a (o.byteAt s (ka + o.scaleOff o.a la b)).toNat)
  let col := fun (j : Nat) => (ks.map (o.elem s false kb j), scaleVal o.b (o.byteAt s (kb + o.scaleOff o.b j b)).toNat)
  let rows := (List.range 64).map row
  let cols := (List.range 64).map col
  let cells := rows.flatMap (fun r => cols.map (fun c => (r, c)))
  cells.zipIdx.map (fun x =>
    let acc := if b = 0 ∧ o.ovw then 0 else slot.getD x.2 0
    macBlock acc x.1.1.1 x.1.2.1 (if o.scaled then some (x.1.1.2, x.1.2.2) else none))

/-! Failure (R270). -/

/-- The destination lines of an MSTC that are not yet FULL by it. -/
def MOp.badLines (l : Launch) (g : Group) (o : MOp) : List Nat :=
  match o.minor == 8, localKey l g (blkPtr o.a) with
  | true, some k =>
    linesOf (((List.range (64 * o.perRow)).filter (fun u => !o.units.contains u)).map (fun u => k + o.xferOff u))
  | _, _ => []

/-- The operation at the head of a core's queue fails. -/
def failMatrix (s : State) (l : Launch) (g : Group) (core : Nat) (o : MOp) (code : Nat) : State :=
  let e := s.engine core
  let e1 := if o.minor = 8 then e else e.setSlot o.slot (List.replicate 4096 (BitVec.ofNat 32 nan32))
  let s1 := s.putEngine e1.pop
  let s2 := changeLines s1 (o.badLines l g) 2
  s2.modGroup o.gid (fun g => if g.mFail = 0 then { g with mFail := code, mSlot := o.slot } else g)

/-! MLDC and MSTC (R268, R269). -/

/-- The value of an element that MLDC reads. -/
def loadElem (fmt x : Nat) : Word := match fmt with
  | 0 => f32 (decodeF fp32 x)
  | 1 => f32 (decodeF bf16 x)
  | _ => f32 (decodeF fp16 x)

/-- The element that MSTC writes. -/
def storeElem (fmt : Nat) (sat : Bool) (x : Word) : Nat := match fmt with
  | 0 => x.toNat
  | 1 => fitF bf16 .rne sat (v32 x)
  | _ => fitF fp16 .rne sat (v32 x)

def MOp.fmt (o : MOp) : Nat := bits o.xfer 31 30

/-- The elements that a run of bytes holds, with fuel. -/
def elemsOf (n : Nat) : Nat → List Byte → List Nat
  | 0, _ => []
  | fuel + 1, bs => if bs.isEmpty then [] else ofBytes (bs.take n) :: elemsOf n fuel (bs.drop n)

/-- The address of unit `u` of a transfer. -/
def MOp.unitAt (o : MOp) (u : Nat) : DWord := blkPtr o.a + BitVec.ofNat 64 (o.xferOff u)

/-- What the units of a transfer come to so far: all done, with the bytes read; a failure; a refusal that the host answers. -/
inductive XRes where
  | done (s : State) (o : MOp) (bs : List Byte)
  | fail (s : State) (o : MOp) (code : Nat)
  | held (s : State) (o : MOp) (a : DWord)
  | wait

/-- The code of R270 for a failure by translation. -/
def matrixCode (code : Nat) : Nat := if code = 1 then 4 else if code = 3 then 5 else 2

/-- MLDC reads its units. -/
def loadUnits (s : State) (l : Launch) (g : Group) (o : MOp) (acc : List Byte) : List Nat → XRes
  | [] => .done s o acc
  | u :: us =>
    if addrTag (blkPtr o.a) = 0 then
      match readUnit s l g l.asid l.podKey (o.unitAt u) 1 with
      | .data s' bs => loadUnits s' l g o (acc ++ bs) us
      | .fail s' code => .fail s' o (matrixCode code)
      | .held => .held s o (o.unitAt u)
      | _ => .wait
    else
      let k := (localKey l g (blkPtr o.a)).getD 0 + o.xferOff u
      loadUnits s l g o (acc ++ (List.range 16).map (fun i => o.byteAt s (k + i))) us

/-- MSTC writes those of its units that it can: one that falls on a FULL line of which an operation has still to read the old value waits
(R265, R266). -/
def storeUnits (s : State) (l : Launch) (g : Group) (slot : List Word) (o : MOp) : List Nat → XRes
  | [] => .done s o []
  | u :: us =>
    if o.units.contains u then storeUnits s l g slot o us
    else
      let n := 16 / o.eb
      let first := 64 * (u / o.perRow) + n * (u % o.perRow)
      let bs := (List.range n).flatMap (fun i => bytesOf o.eb (storeElem o.fmt (bit o.xfer 29) (slot.getD (first + i) 0)))
      let o1 := { o with units := u :: o.units }
      if addrTag (blkPtr o.a) = 0 then
        match writeHbm s l.asid .plain (o.unitAt u) bs 1 with
        | .data s' _ => storeUnits s' l g slot o1 us
        | .fail s' code => .fail s' o (matrixCode code)
        | .held => .held s o (o.unitAt u)
        | _ => .wait
      else
        let k := (localKey l g (blkPtr o.a)).getD 0 + o.xferOff u
        if engineHeld s g.core k (some o.id) then storeUnits s l g slot o us
        else storeUnits (putUnit s .plain k bs) l g slot o1 us

/-- The scratch and tile lines that an MSTC has just written to the last unit become FULL (R269); `was` are the units written before. -/
def fillLines (s : State) (l : Launch) (g : Group) (o : MOp) (was : List Nat) : State :=
  match localKey l g (blkPtr o.a) with
  | some p =>
    let at_ := fun (u : Nat) => (p + o.xferOff u) / 128
    let whole := fun (us : List Nat) (x : Nat) => (List.range (64 * o.perRow)).all (fun u => at_ u != x || us.contains u)
    let ls := ((o.units.filter (fun u => !was.contains u)).map at_).eraseDups
    { s with lines := (ls.filter (fun x => whole o.units x && !whole was x)).foldl (fun ls x => setLine ls x 0) s.lines }
  | none => s

/-- The transfer of the head operation `o0` has come this far. A refusal waits for a record to be free (R338). -/
def endXfer (l : Launch) (g : Group) (core : Nat) (o0 : MOp) : XRes → Out
  | .wait => notNow
  | .fail s o code => .next (failMatrix (fillLines s l g o o0.units) l g core o code)
  | .held s o a =>
    if recFree s (coreDie core) then
      let q := engineRec s (coreDie core) (some { g with core := core }) l.asid l.ref.id a 5 (.matrix core o.id)
      .next (q.2.putEngine ((q.2.engine core).setHead { o with hold := some q.1 }))
    else notNow
  | .done s o bs =>
    let e := s.engine core
    if o.minor = 7 then
      .next (s.putEngine (e.setSlot o.slot ((elemsOf o.eb (bs.length) bs).map (loadElem o.fmt))).pop)
    else if o.units.length = o0.units.length then notNow
    else
      let s1 := fillLines s l g o o0.units
      if o.units.length = 64 * o.perRow then .next (s1.putEngine e.pop) else .next (s1.putEngine (e.setHead o))

/-- A thread's earlier writes to the source of an MLDC in global memory are performed (R199). -/
def loadHeld (s : State) (l : Launch) (g : Group) (o : MOp) : Bool := match s.thread? o.t with
  | some th => addrTag (blkPtr o.a) == 0 && (List.range (64 * o.perRow)).any (fun u => ownWrites s l g th o.id (o.unitAt u) 16)
  | none => false

/-! The step. -/

/-- The next step of the operation at the head of a core's queue, once what it reads has been read (R263). -/
def headStep (s : State) (l : Launch) (g : Group) (core : Nat) (o : MOp) : Out :=
  let e := s.engine core
  let units := List.range (64 * o.perRow)
  if o.hold.isSome then notNow
  else if o.minor = 6 then .next (s.putEngine (e.setSlot o.slot (List.replicate 4096 0)).pop)
  else if o.minor = 8 then endXfer l g core o (storeUnits s l g (e.slot o.slot) o units)
  else if o.minor = 7 then
    if (o.readLines s l g).all o.hasRead ∧ loadHeld s l g o = false then endXfer l g core o (loadUnits s l g o [] units) else notNow
  else if (linesOf (o.idxKeys l g ++ o.stepKeys s l g o.next)).all o.hasRead then
    let o1 := { o with next := o.next + 1 }
    let e1 := e.setSlot o.slot (o.stepSlot s l g (e.slot o.slot))
    .next (s.putEngine (if o1.next < o.nb then e1.setHead o1 else e1.pop))
  else notNow

/-- MATRIX_STEP (R263, R265): the engine of a core reads the lines it can, and performs the next step of its first operation if that
has what it needs. -/
def execMatrixStep (core : Nat) (s : State) : Out :=
  match (s.engine core).queue with
  | [] => notNow
  | o :: _ =>
    match s.ofThread o.t with
    | none => notNow
    | some (l, g) =>
      let o1 := latch s o (o.idxLines l g)
      if g.haltedWhole then notNow
      else if o.hold.isNone ∧ readsError s l g o1 then .next (failMatrix s l g core o1 1)
      else if o.hold.isNone ∧ gatherBeyond s l g o1 then .next (failMatrix s l g core o1 3)
      else
        let s1 := latchQueue s core
        match headStep s1 l g core (((s1.engine core).queue.head?).getD o) with
        | .next t => .next t
        | _ => if readCount s1 core = readCount s core then notNow else .next s1

end Sys2Proof.Machine
end

