-- ==== Sys2Proof/Machine/PoolSteps.lean ====
section
/-! DEFINITION. PoolSteps.lean: the freeing of tiles (R278) and the starvation trap of the tile pool (R285). -/
namespace Sys2Proof.Machine

/-! Freeing (R278). -/

/-- A pointer names a tile slot from a core. -/
def namesSlot (from_ : Nat) (a : DWord) (core slot : Nat) : Bool :=
  addrTag a == 5 && hCore from_ (addrHandle a) == core && hSlot (addrHandle a) == slot

/-- A matrix operation has still to read a line of a tile slot, or to write a unit there. While its index vector is not read, it may have to read any
line. -/
def MOp.inTile (s : State) (l : Launch) (g : Group) (o : MOp) (core slot : Nat) : Bool :=
  let line0 := tileKey core slot 0 / 128
  o.ptrs.any (fun a => namesSlot g.core a core slot) &&
    (if o.minor = 8 then decide (o.units.length < 64 * o.perRow)
     else !((o.idxLines l g).all o.hasRead)
       || (o.known s l g).any (fun x => decide (line0 ≤ x) && decide (x < line0 + 512) && !o.hasRead x))

/-- An access to a tile slot has been accepted and is neither bound nor performed: a thread's, or a line or unit of an accepted matrix operation. -/
def tileInUse (s : State) (core slot : Nat) : Bool :=
  s.groups.any (fun g => g.threads.any (fun th => th.infl.any (fun p =>
      p.op.isAccess && !p.bound && p.loc.isSome && namesSlot g.core p.addr core slot)))
    || (heldOps s).any (fun x => match s.ofThread x.2.t with
        | some (l, g) => x.2.inTile s l g core slot
        | none => false)

/-- TILE_FREE (R278): a spent tile goes back to its partition once every accepted access to it is done. -/
def execTileFree (cluster rank slot : Nat) (s : State) : Out :=
  let core := cluster * 8 + rank
  match s.tile? core slot with
  | some x =>
    if 8 ≤ rank ∨ x.live = false ∨ x.spent = false ∨ tileInUse s core slot then notNow
    else
      let rest := s.tiles.filter (fun y => !(y.core == core && y.slot == slot))
      let lines := s.lines.filter (fun y => !(decide (tileKey core slot 0 / 128 ≤ y.1) && decide (y.1 < tileKey core slot 0 / 128 + 512)))
      .next { s with tiles := x.free :: rest, lines := lines }
  | none => notNow

/-- A spent tile is free with no delay (R278). -/
def freeTiles (s : State) : State :=
  s.tiles.foldl (fun s t => match execTileFree (coreCluster t.core) (coreRank t.core) t.slot s with
    | .next s1 => s1
    | _ => s) s

/-! Starvation (R285). -/

/-- A result that a blocked thread may wait for. -/
def starvedResult (s : State) (l : Launch) (g : Group) (p : Pend) : Bool :=
  let onEmpty := match p.loc, p.key l g with
    | some .scratch, some k => lineState s k == 1
    | some .tile, some k => lineState s k == 1
    | _, _ => false
  !p.bound && match p.op with
  | .talloc part _ _ => decide (partCount l part ≤ liveTiles s l.ref (coreCluster g.core) part)
  | .load .. => onEmpty
  | .atomic .. => onEmpty
  | .tknext .. => true
  | .macq => true
  | .lwait _ => true
  | .cpyw _ => true
  | .aqwait _ => true
  | _ => false

/-- A wait that R285 does not count as blocked: NAP, JOIN, and one that stands for an outstanding result which is not in its list, nor CLWAIT's, which
R418 adds to it. -/
def WaitKind.idles : WaitKind → Bool
  | .nap => true
  | .join _ => true
  | .launch .. => true
  | .post .. => true
  | .ngen .. => true
  | .ndrain .. => true
  | .arrive _ bar _ => !bar
  | _ => false

/-- A thread is blocked as R285 counts it. -/
def starvedThread (s : State) (l : Launch) (g : Group) (th : Thread) : Bool :=
  let idles := match th.wait with
    | some w => w.kind.idles
    | none => false
  !th.ready s g && !th.halted && !th.parked && !idles
    && th.infl.all (fun p => !p.op.delivers || starvedResult s l g p)
    && (th.wait.isSome || th.infl.any (starvedResult s l g))

/-- A thread waits at its horizon for a TALLOC without room (R281). -/
def inTalloc (th : Thread) : Bool :=
  (th.hz || th.drain.isSome) && th.infl.any (fun p => !p.bound && match p.op with
    | .talloc .. => true
    | _ => false)

/-- A copy can do nothing until a line leaves EMPTY, or is armed and has not fired. -/
def starvedCopy (s : State) (c : CopyCmd) : Bool :=
  match c.st, copyCtx s c with
  | .armed, _ => !(s.trigs.any (fun r => r.id == c.id && r.due))
  | .running, some (l, g) =>
    c.fail == 0 && c.flight.isEmpty && decide (c.done.length < c.units) && (List.range c.units).all (fun u =>
      c.done.contains u || match localKey l g (c.srcAt u) with
        | some k => lineState s k == 1
        | none => false)
  | _, _ => false

/-- The first operation of an engine waits for an EMPTY line, or there is none. -/
def starvedEngine (s : State) (e : Engine) : Bool :=
  match e.queue with
  | [] => true
  | o :: _ => match s.ofThread o.t with
    | some (l, g) =>
      let need := if o.minor = 7 then o.readLines s l g else linesOf (o.idxKeys l g ++ o.stepKeys s l g o.next)
      o.hold.isNone && o.minor != 6 && o.minor != 8 && readCount (latchQueue s e.core) e.core == readCount s e.core
        && need.any (fun x => !o.hasRead x && lineState s (128 * x) == 1)
    | none => false

/-- The state of a line of a team that is swapped out stands in its image; that of any other in place. -/
def savedLine (s : State) (l : Launch) (line : Nat) : Nat :=
  let kept := l.teams.findSome? (fun t => if t.resident then none else
    ((t.slices l.hdr).zip t.lineImage).findSome? (fun x =>
      let line0 := scratchKey x.1.1 x.1.2.1 / 128
      if line0 ≤ line then x.2[line - line0]? else none))
  kept.getD (lineState s (128 * line))

/-- The first operation that a swapped-out team left on an engine waits for an EMPTY line, or there is none. -/
def starvedSaved (s : State) (l : Launch) (e : SavedEngine) : Bool :=
  match e.ops with
  | [] => true
  | o :: _ => match s.group? o.gid with
    | some g => o.hold.isNone && o.minor != 6 && o.minor != 8
        && (o.idxLines l g ++ o.known s l g).any (fun x => !o.hasRead x && savedLine s l x == 1)
    | none => false

/-- The conditions of R285 for a launch on a cluster. -/
def starved (s : State) (l : Launch) (cluster : Nat) : Bool :=
  let gs := s.groups.filter (fun g => g.launch == l.ref && coreCluster g.core == cluster && g.resident && !g.retired)
  gs.all (fun g => g.threads.all (fun th => th.exited || starvedThread s l g th))
    && gs.any (fun g => g.threads.any (fun th => !th.exited && inTalloc th))
    && s.copies.all (fun c => c.launch != l.ref || coreCluster c.core != cluster || starvedCopy s c)
    && s.engines.all (fun e => coreCluster e.core != cluster || e.launch != some l.ref || starvedEngine s e)
    && s.savedEng.all (fun e => e.launch != l.ref || (l.team? e.team).any (fun t => t.cores.all (fun c => coreCluster c != cluster)) || starvedSaved s l e)
    && s.queries.all (fun q => q.launch != l.ref || coreCluster q.core != cluster)
    && s.tiles.all (fun t => !(t.live && t.spent && t.owner == l.ref && coreCluster t.core == cluster))

/-- A thread's unserved TALLOCs are refused; the trap follows at its horizon. -/
def starve (th : Thread) : Thread :=
  if !th.exited && inTalloc th then
    th.infl.foldl (fun th p => match p.op with
      | .talloc part _ _ => if p.bound then th else th.refuse p (p.trap poolStarvation part)
      | _ => th) th
  else th

/-- POOL_STARVATION (R285): every thread of the cluster blocked in TALLOC takes the trap at its horizon. -/
def execPoolStarvation (cluster : Nat) (ref : LRef) (s : State) : Out :=
  match s.launch? ref with
  | none => notNow
  | some l =>
    if starved s l cluster then
      .next { s with groups := s.groups.map (fun g =>
        if g.launch = ref ∧ coreCluster g.core = cluster ∧ g.resident then { g with threads := g.threads.map starve } else g) }
    else notNow

end Sys2Proof.Machine
end

