-- ==== Sys2Proof/Machine/CollSteps.lean ====
section
/-! DEFINITION. CollSteps.lean: how a collective runs at a member (R409–R414): the packets it originates, the hops it serves, its
end. -/
namespace Sys2Proof.Machine

/-! Chunks and routes (R410). -/

def chunkLen (len p : Nat) : Nat := 16 * cdiv len (16 * p)
def chunkRange (len p c : Nat) : Nat × Nat := (min len (c * chunkLen len p), min len ((c + 1) * chunkLen len p))

/-- A route entry: a member of the table and an OP. -/
def hopEntry (t : List Byte) (m op : Nat) : Nat := rtMember t m + 4096 * op

/-- The route of chunk `c` of a collective of a kind. -/
def chunkRoute (t : List Byte) (kind root c : Nat) : List Nat :=
  let p := rtP t
  let ring := fun (from_ op : Nat) => (List.range (p - 2)).map (fun i => hopEntry t ((from_ + i) % p) op)
  match kind with
  | 0 => ring (c + 2) 1 ++ [hopEntry t c 2] ++ ring (c + 1) 3 ++ [hopEntry t ((c + p - 1) % p) 4]
  | 1 => ring (c + 2) 1 ++ [hopEntry t c 5]
  | 2 => ring (c + 1) 3 ++ [hopEntry t ((c + p - 1) % p) 4]
  | _ => ring (root + 1) 3 ++ [hopEntry t ((root + p - 1) % p) 4]

/-- The chunks that a member originates. -/
def ownChunks (p own kind root : Nat) : List Nat := match kind with
  | 0 => [(own + p - 1) % p]
  | 1 => [(own + p - 1) % p]
  | 2 => [own]
  | _ => if own = root then List.range p else []

/-- A chunk in packets of at most 3,968 bytes: offset and length. -/
def splitChunk (lo hi : Nat) : List (Nat × Nat) :=
  (List.range (cdiv (hi - lo) 3968)).map (fun i => (lo + 3968 * i, min 3968 (hi - lo - 3968 * i)))

/-- The packets a member originates: offset, length, route. -/
def Coll.packets (c : Coll) : List (Nat × Nat × List Nat) :=
  let p := rtP c.table
  (ownChunks p (rtOwn c.table) (clKind c.desc) (clRoot c.desc)).flatMap (fun k =>
    let r := chunkRange (clLen c.desc) p k
    (splitChunk r.1 r.2).map (fun x => (x.1, x.2, chunkRoute c.table (clKind c.desc) (clRoot c.desc) k)))

/-- The DST bytes that R410 assigns to the member. -/
def Coll.assigned (c : Coll) : Nat :=
  if clKind c.desc = 1 then
    let r := chunkRange (clLen c.desc) (rtP c.table) (rtOwn c.table)
    r.2 - r.1
  else clLen c.desc

/-- The originator of a kind copies its own bytes to DST (R410). -/
def Coll.copies (c : Coll) : Bool := decide (2 ≤ clKind c.desc)

def Coll.hdr (c : Coll) (off : Nat) (route : List Nat) : CollHdr :=
  { group := rtGroup c.table, rop := clRop c.desc, rtype := clRtype c.desc, cseq := c.cseq, offset := off, sig := clSig c.desc,
    len := clLen c.desc, kind := fieldN c.desc 0x18 1, key := c.key, route := route }

/-- A packet belongs to a member's collective (R413). -/
def Coll.takes (c : Coll) (die : Nat) (h : CollHdr) : Bool :=
  c.die == die && rtGroup c.table == h.group && c.cseq == h.cseq && c.key == h.key

/-- A packet agrees with the member's collective in the fields of R413. -/
def Coll.agrees (c : Coll) (h : CollHdr) : Bool :=
  let o := c.hdr h.offset h.route
  o == h

def State.putColl (s : State) (c : Coll) : State := { s with colls := s.colls.map (fun x => if x.id = c.id then c else x) }

/-! Reading SRC and writing DST. -/

/-- What a run of units comes to. -/
inductive CRes where
  | done (s : State) (bs : List Byte)
  | abort (s : State) (code : Nat)
  | held (s : State) (a : DWord)

/-- The code of R414 for a failure by translation or by an error. -/
def collCode (code : Nat) : Nat := if code = 4 then 5 else 4

/-- Read `n` units from an address. -/
def readRun (s : State) (l : Launch) (g : Group) (c : Coll) (a : DWord) (acc : List Byte) : Nat → CRes
  | 0 => .done s acc
  | n + 1 =>
    match readUnit s l g c.asid c.key a 1 with
    | .data s' bs => readRun s' l g c (a + 16) (acc ++ bs) n
    | .fail s' code => .abort s' (collCode code)
    | _ => .held s a

/-- Write bytes from an address, `n` units of them. -/
def writeRun (s : State) (c : Coll) (a : DWord) (bs : List Byte) : Nat → CRes
  | 0 => .done s []
  | n + 1 =>
    match writeHbm s c.asid .plain a (bs.take 16) 1 with
    | .data s' _ => writeRun s' c (a + 16) (bs.drop 16) n
    | .fail s' code => .abort s' (collCode code)
    | _ => .held s a

/-- A packet waits for the answer to a fault record (R414). -/
def holdColl (s : State) (g : Group) (c : Coll) (a : DWord) (h : CollHdr) (x : List Byte) : State :=
  let q := engineRec s c.die (some g) c.asid c.launch.id a 4 (.collUnit c.id)
  q.2.putColl { c with held := some (q.1, h, x) }

/-- Send a packet to the die that its first route entry names (R409, R412): over the link, or through the calendar. -/
def sendHop (s : State) (c : Coll) (h : CollHdr) (x : List Byte) : State :=
  match h.route with
  | [] => s
  | e :: _ =>
    if mbPkg e = s.pkgId.toNat then
      State.putColl { s with heldColl := s.heldColl ++ [{ die := mbDie e, hdr := h, data := x }] } c
    else
      let f := s.fresh
      let s1 := enqueue f.2 f.1 c.die (some c.launch) (mbPkg e) (mbPkg e) (mbDie e) (clCls c.desc) 7 false (.coll h x)
      s1.putColl { c with out := f.1 :: c.out }

/-! Origination. -/

/-- The members that the broadcast queue reaches through a root entry whose record names each of some packages, of which none has been dropped
(R383, R384, R410). -/
def castSet (s : State) (pkgs : List Nat) : Option (List Nat) :=
  let live := fun (b : Bcast) => (liveEntries s).any (fun e => e.1 == b.slot && e.2.1 == b.port && e.2.2.bcast && e.2.2.peer == s.pkgId.toNat)
  let kept := fun (b : Bcast) => b.members.filter (fun q => !s.net.dropped.contains (b.port, q))
  match s.net.cal with
  | some c => (c.bcasts.find? (fun b => live b && pkgs.all (fun q => (kept b).contains q))).map kept
  | none => none

/-- The packages of the other members. -/
def Coll.others (c : Coll) : List Nat :=
  ((List.range (rtP c.table)).filter (fun m => m != rtOwn c.table)).map (fun m => mbPkg (rtMember c.table m))

/-- A packet of a BROADCAST goes by the ring, or by the broadcast queue where that reaches every member: which of the two is a free choice
(R383, R410; assumption log 44). -/
def sendData (s : State) (c : Coll) (h : CollHdr) (x : List Byte) : State :=
  match (if clKind c.desc = 3 then castSet s c.others else none) with
  | none => sendHop s c h x
  | some ms =>
    let d := drawBelow s 2
    if d.1 = 0 then sendHop d.2 c h x
    else
      let f := d.2.fresh
      let me := s.pkgId.toNat
      let pkt : Packet := { src := me, hop := me, dst := me, die := c.die, transit := false, cls := clCls c.desc,
                            gen := (calGen s).toNat, seq := 0, kind := 7, body := .coll h x }
      let o : OutPkt := { id := f.1, die := c.die, launch := some c.launch, pkt := pkt, bcast := some ms, sent := 0, port := none,
                          fly := false, relayed := false, foreign := false, origin := 0 }
      State.putColl { f.2 with net := { f.2.net with out := f.2.net.out ++ [o] } } { c with out := f.1 :: c.out }

/-- The member's next own packet, once the issuing thread's earlier stores to its source are performed (R199). -/
def originate (s : State) (l : Launch) (g : Group) (c : Coll) : Option State :=
  match c.packets[c.next]?, s.thread? c.t with
  | some (off, n, route), some th =>
    let a := clSrc c.desc + BitVec.ofNat 64 off
    let h := c.hdr off route
    if ownWrites s l g th c.id a n then none
    else
      let c1 := { c with next := c.next + 1 }
      match readRun s l g c a [] (n / 16) with
      | .abort s' code => some (abortColl s' c code)
      | .held s' b => some (holdColl s' g c b h [])
      | .done s1 x =>
        if c.copies then
          match writeRun s1 c (clDst c.desc + BitVec.ofNat 64 off) x (n / 16) with
          | .abort s' code => some (abortColl s' c code)
          | .held s' b => some (holdColl s' g c b h [])
          | .done s2 _ => some (sendData s2 { c1 with written := (off, n) :: c1.written } h x)
        else some (sendHop s1 c1 h x)
  | _, _ => none

/-! One hop (R409). -/

/-- The first route entry may be served on a die: it names it, its OP is one, and one that forwards is not the last. -/
def hopOk (s : State) (c : Coll) (h : CollHdr) (n : Nat) : Bool :=
  match h.route with
  | [] => false
  | e :: rest =>
    let op := bitsN e 15 12
    mbPkg e == s.pkgId.toNat && mbDie e == c.die && decide (1 ≤ op) && decide (op ≤ 5) && (decide (4 ≤ op) || !rest.isEmpty)
      && decide (h.route.length ≤ 48) && n % 16 == 0 && h.offset % 16 == 0 && decide (h.offset + n ≤ clLen c.desc)

/-- The data has been combined and written; it goes on to the next hop, or ends. -/
def passOn (s : State) (c : Coll) (h : CollHdr) (x : List Byte) (op : Nat) : State :=
  let rest := h.route.drop 1
  let c1 := if op = 1 then { c with passed := c.passed + 1 } else c
  if op ≤ 3 then sendHop s c1 { h with route := rest } x else s.putColl c1

/-- A hop writes its data at DST. -/
def hopWrite (s : State) (g : Group) (c : Coll) (h : CollHdr) (x0 x : List Byte) (op : Nat) : State :=
  if op = 1 then passOn s c h x op
  else
    match writeRun s c (clDst c.desc + BitVec.ofNat 64 h.offset) x (x.length / 16) with
    | .abort s' code => abortColl s' c code
    | .held s' a => holdColl s' g c a h x0
    | .done s' _ =>
      let w := (h.offset, x.length)
      passOn s' { c with written := if c.written.contains w then c.written else w :: c.written } h x op

/-- Serve a packet at a member that has fired. -/
def hop (s : State) (l : Launch) (g : Group) (c : Coll) (h : CollHdr) (x : List Byte) : State :=
  if hopOk s c h x.length = false then abortColl s c 3
  else
    let op := bitsN (h.route.headD 0) 15 12
    if op = 3 ∨ op = 4 then hopWrite s g c h x x op
    else
      match readRun s l g c (clSrc c.desc + BitVec.ofNat 64 h.offset) [] (x.length / 16) with
      | .abort s' code => abortColl s' c code
      | .held s' a => holdColl s' g c a h x
      | .done s' t => hopWrite s' g c h x (combineBytes h.rop h.rtype x t) op

/-- A packet has come to a die, where it waits until its member has fired and serves it (R412). -/
def arriveColl (s : State) (die : Nat) (h : CollHdr) (x : List Byte) : State :=
  { s with heldColl := s.heldColl ++ [{ die := die, hdr := h, data := x }] }

/-- The next thing a running collective does: a packet held for it, once the issuing thread's earlier stores to its source are performed
(R199), or one of its own. It goes on only while a fault record is free for a refusal (R338). -/
def runColl (s : State) (c : Coll) : Option State :=
  match s.ofThread c.t, s.thread? c.t with
  | some (l, g), some th =>
    if c.held.isSome ∨ c.code ≠ 0 ∨ recFree s c.die = false ∨ voqRoom s c.die = false then none
    else match s.heldColl.find? (fun p => c.takes p.die p.hdr) with
    | some p =>
      if ownWrites s l g th c.id (clSrc c.desc + BitVec.ofNat 64 p.hdr.offset) p.data.length then none
      else some (hop { s with heldColl := s.heldColl.erase p } l g c p.hdr p.data)
    | none => originate s l g c
  | _, _ => none

/-! Ends (R412–R414). -/

/-- The packets of other chunks that a REDUCESCATTER sends on through the member (R410): without them the chunks of other members
would stay short, so the member does not end before it has forwarded them (R412). -/
def Coll.toPass (c : Coll) : Nat :=
  let p := rtP c.table
  let own := rtOwn c.table
  if clKind c.desc = 1 then
    (((List.range p).filter (fun k => k != own && (k + 1) % p != own)).map (fun k =>
      let r := chunkRange (clLen c.desc) p k
      (splitChunk r.1 r.2).length)).sum
  else 0

/-- Every DST byte is written, every own packet is sent, every packet to forward is sent on, every packet sent is acknowledged. -/
def Coll.complete (c : Coll) : Bool :=
  c.next == c.packets.length && (clKind c.desc != 1 || c.passed == c.toPass) && c.out.isEmpty && c.held.isNone && (c.written.map (fun w => w.2)).sum == c.assigned

/-- The add at G of a collective that is complete (R243, R412). -/
def signalColl (s : State) (g : Group) (c : Coll) : State :=
  let a := clG c.desc
  match engineAsid s c.asid c.key a with
  | none =>
    if voqRoom s c.die = false then s.putColl { c with st := .signal, sigTag := none }
    else
    let f := s.fresh
    let s1 := enqueue f.2 f.1 c.die (some c.launch) (addrPkg a) (addrPkg a) (addrDie a) 1 3 false
      (.req a c.key 0 2 f.1 (bytesOf 4 (clAux c.desc).toNat))
    s1.putColl { c with st := .signal, sigTag := some f.1 }
  | some none => endColl s { c with code := 4 }
  | some (some asid) =>
    match addCounter s asid a (clAux c.desc) with
    | .data s' _ => endColl s' c
    | .fail s' _ => endColl s' { c with code := 4 }
    | _ =>
      let q := engineRec s c.die (some g) c.asid c.launch.id a 4 (.collSig c.id)
      if recFree s c.die then q.2.putColl { c with st := .held q.1 } else s.putColl { c with st := .signal }

/-- A collective that has been aborted ends; what waited for it is gone. -/
def endAborted (s : State) (c : Coll) : State :=
  let shut := fun (r : FRec) =>
    if r.who = .collReg c.id ∨ r.who = .collUnit c.id ∨ r.who = .collSig c.id then { r with open_ := false } else r
  let frecs := (s.frecs.map shut).filter (fun r => r.open_ || !r.inRing)
  endColl { s with frecs := frecs } c

/-- A running collective that is complete goes to its end, an aborted one ends. -/
def settleColl (s : State) (id : Nat) : State :=
  match s.colls.find? (fun c => c.id == id) with
  | none => s
  | some c =>
    if c.code ≠ 0 then endAborted s c
    else
      let runs := match c.st with
        | .running => true
        | .signal => c.sigTag.isNone
        | _ => false
      if runs && c.complete then
        match clSigf c.desc, s.ofThread c.t with
        | true, some (_, g) => signalColl s g c
        | _, _ => endColl s c
      else s

/-- A held packet that differs from the member's collective ends it with ORDER (R413). -/
def orderColl (s : State) (p : HeldColl) : State :=
  match s.colls.find? (fun c => c.takes p.die p.hdr && c.code == 0) with
  | some c => if c.agrees p.hdr then s else abortColl { s with heldColl := s.heldColl.erase p } c 2
  | none => s

/-- A held packet whose collective has ended or is known to be aborted is discarded (R413, R414). -/
def collGone (s : State) (p : HeldColl) : Bool :=
  !(s.colls.any (fun c => c.takes p.die p.hdr))
    && (postedHere s p.die p.hdr.group p.hdr.cseq p.hdr.key
      || s.aborts.any (fun a => a.die == p.die && a.group == p.hdr.group && a.cseq == p.hdr.cseq && a.key == p.hdr.key))

/-- What follows a step at once for the collectives. -/
def settleColls (s : State) : State :=
  let s1 := s.heldColl.foldl orderColl s
  let s2 := (s1.colls.map (fun c => c.id)).foldl settleColl s1
  { s2 with heldColl := s2.heldColl.filter (fun p => !collGone s2 p) }

end Sys2Proof.Machine
end

