-- ==== Sys2Proof/Machine/Fire.lean ====
section
/-! DEFINITION. Fire.lean: armed commands and TCWAIT (R242, R245, R412), and the flip of a published page (R178, R239). -/
namespace Sys2Proof.Machine

/-! Registrations (R242). -/

/-- What an attempt to register on W comes to: registered, wait for a free registration, or refused. -/
inductive Reg where
  | ok (s : State)
  | wait
  | deny (s : State) (d : Deny)

/-- Translate W at its home die and register (R242). -/
def tryRegister (s : State) (id asid : Nat) (w : DWord) (thr : Word) : Reg :=
  match translate s (addrDie w) asid (addrOff w) .read with
  | .error d => .deny (countWalk s (addrDie w) asid (addrOff w)) d
  | .ok (lvl, e) =>
    let k := hbmKey (addrDie w) (physOf lvl e (addrOff w))
    if poisoned s k 4 then .deny (countErr s k) { cause := dataError, detail := 0 }
    else if regFree s (addrDie w) then .ok (register (fillMtlb s (addrDie w) asid (addrOff w)) id (addrDie w) k thr)
    else .wait

def absentPage (d : Deny) : Bool := d.cause == notPresent && d.detail == 1

def dropTrig (s : State) (id : Nat) : State := { s with trigs := s.trigs.filter (fun r => r.id != id) }

/-- An armed copy: registered, fired, or failed before it reads or writes any unit (R242). -/
def fireCopy (s : State) (c : CopyCmd) : Out :=
  match c.st, copyCtx s c, s.thread? c.t with
  | .armed, _, _ => if isDue s c.id then .next ((dropTrig s c.id).putCopy { c with st := .running }) else notNow
  | .unregistered, some (l, g), some th =>
    if c.fail ≠ 0 ∨ ownWrites s l g th c.id c.w 4 then notNow
    else match tryRegister s c.id c.asid c.w c.thr with
    | .ok s' => .next (s'.putCopy { c with st := .armed })
    | .wait => notNow
    | .deny s' d =>
      if absentPage d then
        let q := engineRec s' (coreDie c.core) (some g) c.asid c.launch.id c.w 4 (.copyReg c.id)
        if recFree s (coreDie c.core) = false then notNow else .next (q.2.putCopy { c with st := .held q.1 })
      else .next (s'.putCopy { c with fail := 0x0A })
  | _, _, _ => notNow

/-- A collective: registered, fired, aborted, or one step on (R412). -/
def fireColl (s : State) (c : Coll) : Out :=
  match c.st, s.ofThread c.t, s.thread? c.t with
  | .armed, _, _ => if isDue s c.id then .next ((dropTrig s c.id).putColl { c with st := .running }) else notNow
  | .unregistered, some (l, g), some th =>
    if c.code ≠ 0 ∨ ownWrites s l g th c.id (clW c.desc) 4 then notNow
    else match tryRegister s c.id c.asid (clW c.desc) (clThr c.desc) with
    | .ok s' => .next (s'.putColl { c with st := .armed })
    | .wait => notNow
    | .deny s' d =>
      if absentPage d then
        let q := engineRec s' c.die (some g) c.asid c.launch.id (clW c.desc) 4 (.collReg c.id)
        if recFree s c.die = false then notNow else .next (q.2.putColl { c with st := .held q.1 })
      else .next (abortColl s' c 4)
  | .running, _, _ => match runColl s c with
    | some s' => .next s'
    | none => notNow
  | _, _, _ => notNow

/-- The waits of R242 that a number names: its thread and wait. -/
def tcWaiter (s : State) (id : Nat) : Option (Tid × Waiting) :=
  (s.groups.flatMap (fun g => g.threads.zipIdx.filterMap (fun x => match x.1.wait with
    | some w => match w.kind with
      | .tcwait i _ _ => if i = id then some (({ gid := g.gid, lane := x.2 } : Tid), w) else none
      | .publ i _ _ => if i = id then some (({ gid := g.gid, lane := x.2 } : Tid), w) else none
      | _ => none
    | none => none))).head?

/-- A thread's wait ends with a refusal, taken at its horizon (R35). -/
def refuseWait (s : State) (t : Tid) (w : Waiting) (p : Pend) (r : TrapRec) : State :=
  s.modThread t (fun th =>
    let th1 := { th with wait := none, refused := w.rest.foldl insertRefused th.refused }
    th1.refuse p r)

/-- TCWAIT: registered once the thread's order lets it go, fired, or refused (R242, R245). -/
def fireWait (s : State) (t : Tid) (w : Waiting) (id : Nat) (a : DWord) (thr : Word) : Out :=
  match s.ofThread t, s.thread? t with
  | some (l, g), some th =>
    if g.resident = false ∨ th.halted ∨ th.exited then notNow
    else if s.trigs.any (fun r => r.id == id) then
      (if isDue s id then .next (endWait (acquireCopies (dropTrig s id) g.core false) t w) else notNow)
    else
      let p : Pend := { id := id, pc := w.pc, dst := .none, op := .tcwait thr, addr := a, loc := none, st := .sent }
      if orderOk s l g th p = false ∨ ownWrites s l g th id a 4 then notNow
      else match tryRegister s id l.asid a thr with
      | .ok s' => .next s'
      | .wait => notNow
      | .deny s' d => .next (refuseWait s' t w p (p.trap d.cause d.detail))
  | _, _ => notNow

/-- ARMED_FIRE (R242, R412): what a number names goes on with its registration: it registers, it fires once its counter is
reached; a collective that has fired goes on with its packets. -/
def execArmedFire (id : Nat) (s : State) : Out :=
  match s.copies.find? (fun c => c.id == id), s.colls.find? (fun c => c.id == id), tcWaiter s id, s.cmds.find? (fun c => c.id == id) with
  | some c, _, _, _ => fireCopy s c
  | none, some c, _, _ => fireColl s c
  | none, none, some (t, w), _ => match w.kind with
    | .tcwait i a thr => fireWait s t w i a thr
    | _ => notNow
  | none, none, none, some c => match c.wait with
    | .counter r => if isDue s r then .next (completeCmd (dropTrig s r) c 0 0 0) else notNow
    | _ => notNow
  | none, none, none, none => notNow

/-! Publishing (R178, R239). -/

/-- The memory key of the leaf entry that translates a virtual offset, by a walk (R173), with fuel for the levels. -/
def leafKey (s : State) (die v : Nat) : Nat → Nat → Nat → Option Nat
  | 0, _, _ => none
  | fuel + 1, lvl, tbl =>
    let key := hbmKey die (tbl + 8 * lvlIndex lvl v)
    let e := readNat s key 8
    if e % 2 = 0 then none
    else if leafBit e then some key
    else leafKey s die v fuel (lvl + 1) (bitsN e 52 16)

/-- A page of a query is translated and not read yet (R319, assumption log 21). -/
def QPage.open (p : QPage) : Bool := decide (p.st < 2)

/-- An access already translated for a page, neither bound nor performed, of a thread or of a query (R177, R178, R239). -/
def pageBusy (s : State) (asid die v lvl : Nat) : Bool :=
  let inPage := fun (o : Nat) => o / 2 ^ pageBits lvl == v / 2 ^ pageBits lvl
  s.groups.any (fun g => match s.launch? g.launch with
    | none => false
    | some l => g.threads.any (fun th => th.infl.any (fun p => !p.bound && (match p.loc with
        | some (.phys d _ _) =>
          d == die && inPage (addrOff p.addr)
            && (if addrTag p.addr = 4 then keyAsid s l.podKey == some asid else l.asid == asid)
        | _ => false))))
    || s.queries.any (fun q => q.asid == asid && q.pages.any (fun p => p.open && p.die == die && inPage (addrOff p.ptr)))

/-- What a flip comes to. -/
inductive FlipRes where
  | wait
  | done (s : State)
  | deny (s : State) (cause detail : Nat)

/-- Flip the page that holds a virtual offset of a die (R239). -/
def flipPage (s : State) (asid die v : Nat) : FlipRes :=
  match translate s die asid v .read with
  | .error d => .deny (countWalk s die asid v) d.cause d.detail
  | .ok (lvl, e) =>
    if leafSC e = false then .deny s protection 4
    else if pageBusy s asid die v lvl then .wait
    else
      let e' := if leafSS e then e - 2 ^ 7 else e + 2 ^ 7
      let s1 := match leafKey s die v 4 1 (rootOf s die asid) with
        | some k => pocWrite s none k [BitVec.ofNat 8 (readNat s k 1 % 2 ^ 7 + (if leafSS e then 0 else 2 ^ 7))]
        | none => s
      let fix := fun (m : Mtlb) =>
        if m.die = die ∧ m.asid = asid ∧ m.lvl = lvl ∧ m.page = v / 2 ^ pageBits lvl then { m with leaf := BitVec.ofNat 64 e' } else m
      .done (dropPage { s1 with mtlb := s1.mtlb.map fix } (some asid) die v lvl)

/-- An earlier CPYS of the thread has a unit in the page of a PUBL and has not ended (R239). The size of a page of another package, which only
its owner knows, is open here (assumption log 99). -/
def cpysPending (s : State) (t : Tid) (id asid : Nat) (a : DWord) : Bool :=
  let bits := if remotePeer s a then pageBits (2 + Config.peerLevel a.toNat % 3)
    else match findLeaf s (addrDie a) asid (addrOff a) with
      | .ok (lvl, _) => pageBits lvl
      | .error _ => 30
  s.copies.any (fun c => c.t == t && decide (c.id < id) && c.minor == 3 && (List.range c.units).any (fun u =>
    vaNorm s (c.dstAt u) / 2 ^ bits == vaNorm s a / 2 ^ bits))

/-- A PUBL of a thread: its release (R443), then the flip here or the request to the owner. -/
def publThread (s : State) (t : Tid) (w : Waiting) (id : Nat) (a : DWord) (sent : Bool) : Out :=
  match s.ofThread t, s.thread? t with
  | some (l, g), some th =>
    let asid := (engineAsid s l.asid l.podKey a).bind (fun x => x)
    if sent ∨ g.resident = false ∨ th.halted ∨ th.exited ∨ (remotePeer s a ∧ voqRoom s g.die = false) ∨ cpysPending s t id (asid.getD 0) a ∨ releaseReady s th id 5 false = false then notNow
    else match reportFailed th id 5 w.pc with
    | some (r, th') => .next (trapWait (s.modThread t (fun _ => th')) t w r)
    | none =>
      let p : Pend := { id := id, pc := w.pc, dst := .none, op := .publ, addr := a, loc := none, st := .sent }
      match engineAsid s l.asid l.podKey a with
      | none =>
        let s1 := enqueue s id g.die (some l.ref) (addrPkg a) (addrPkg a) (addrDie a) 1 12 false (.req a l.podKey 0 0 id [])
        .next (s1.modThread t (fun th => { th with wait := some { w with kind := .publ id a true } }))
      | some none => .next (refuseWait s t w p (p.trap protection 6))
      | some (some asid) =>
        match flipPage s asid (addrDie a) (addrOff a) with
        | .wait => notNow
        | .done s' => .next (endWait s' t w)
        | .deny s' cause detail => .next (refuseWait s' t w p (p.trap cause detail))
  | _, _ => notNow

/-- PUBLISH_FLIP (R239): the flip of a PUBL of a thread, or of one that another package asked for. -/
def execPublishFlip (id : Nat) (s : State) : Out :=
  match s.flips.find? (fun f => f.id == id), tcWaiter s id with
  | some f, _ =>
    let rest := s.flips.filter (fun x => x.id != id)
    let reply := fun (s : State) (status reason : Nat) =>
      let n := s.fresh
      enqueue n.2 n.1 f.die none f.src f.src 0 f.cls 4 false (.reply status reason f.tag [])
    match flipPage s f.asid f.die (addrOff f.addr) with
    | .wait => notNow
    | .done s' => .next (reply { s' with flips := rest } 0 0)
    | .deny s' cause detail => .next (reply { s' with flips := rest } cause detail)
  | none, some (t, w) => match w.kind with
    | .publ i a sent => publThread s t w i a sent
    | _ => notNow
  | none, none => notNow

end Sys2Proof.Machine
end

