-- ==== Sys2Proof/Machine/Replay.lean ====
section
/-! DEFINITION. Replay.lean: the answers to fault records: FAULT_REPLAY (R340, R343, R246, R269, R414). -/
namespace Sys2Proof.Machine

/-! Threads (R340, R343). -/

/-- A kept entry is a refused fetch. -/
def Refused.isFetch (x : Refused) : Bool := match x.p.op with
  | .fetch => true
  | _ => false

/-- A parked thread is retried: its refused accesses are performed again in program order, and it goes on after its horizon, in the
instruction that still waited, or at the fetch (R340). A thread of a discarded version resumes at the restart point (R343). -/
def retryParked (s : State) (t : Tid) (th : Thread) : State :=
  let s1 := s.modThread t (fun th => { th with refused := [] })
  if th.redo && !th.inHandler then s1.modThread t Thread.atRestart
  else
    let hz := th.hz || !(th.refused.any (fun x => x.isFetch || x.waits) || th.drain.isSome)
    performAgain (s1.modThread t (fun th => { th with hz := hz })) t th.refused

/-- A parked thread takes NOT_PRESENT as a trap (R340): at a fetch once its results are written, the refused accesses staying with the
segment; else at the horizon where it has parked. -/
def failParked (s : State) (t : Tid) (l : Launch) (g : Group) (th : Thread) : State :=
  match th.refused.find? Refused.isFetch with
  | some x =>
    let s1 := s.modThread t (fun th => { th with refused := th.refused.filter (fun y => !y.isFetch) })
    match x.trap with
    | some r => trapNow s1 t r th.blk
    | none => s1
  | none => match firstRefused th.refused with
    | some (_, r) =>
      enterTrap s t r { blk := th.blk, resume := th.pc, horizon := true, toTask := false, refused := th.kept l g, hz := th.hz, upto := s.nextId }
    | none => s

/-- The trap of an instruction that has completed while its thread was parked at a fetch (R149, R291, R341). -/
def Thread.completed (th : Thread) : Option (Pend × TrapRec) := th.refused.findSome? (fun x => match x.trap with
  | some r => if r.num ≠ 0 then some (x.p, r) else none
  | none => none)

/-- A parked thread gets its answer. A trap at the completion of an earlier instruction comes before the fetch, which is made again after it. -/
def answerParked (s : State) (t : Tid) (retry : Bool) : State :=
  match s.ofThread t, s.thread? t with
  | some (l, g), some th =>
    let s1 := s.modThread t (fun th => { th with parked := false, tag := none, replay := none })
    match th.completed with
    | some (p, r) =>
      trapNow (s1.modThread t (fun th => { th with refused := th.refused.filter (fun x => !x.isFetch && x.p.id != p.id) })) t r p.blk
    | none => if retry then retryParked s1 t th else failParked s1 t l g th
  | _, _ => s

/-- The threads that an answer to a record reaches. -/
def parkedOn (s : State) (gid die tag : Nat) : List Tid :=
  match s.group? gid with
  | some g => if g.die = die then (g.threads.zipIdx.filter (fun x => x.1.parked && x.1.tag == some tag)).map (fun x => ⟨gid, x.2⟩) else []
  | none => []

/-- Answer the threads of a sub-group; one that is saved keeps the answer for its return (R348, R358). -/
def answerGroup (s : State) (gid die tag : Nat) (retry : Bool) : State :=
  let away := match s.group? gid with
    | some g => !g.resident
    | none => false
  (parkedOn s gid die tag).foldl (fun s t =>
    if away then s.modThread t (fun th => { th with replay := some retry }) else answerParked s t retry) s

/-! Engines. -/

/-- Answer a unit of a copy: retried, or failed (R246, R247). -/
def answerUnit (c : CopyCmd) (u : Nat) (retry : Bool) : CopyCmd :=
  match c.flies u with
  | some f =>
    if f.held = false then c
    else match f.data, retry with
    | _, true => c.fly { f with held := false }
    | none, false => c.failed u 1
    | some _, false => c.failed u 2
  | none => c

/-- Answer the registration or the signal of a copy (R242, R243). -/
def answerReg (c : CopyCmd) (retry : Bool) : CopyCmd :=
  match c.st with
  | .held _ =>
    let c1 := { c with st := if c.done.length = c.units then .signal else .unregistered }
    if retry then c1 else { c1 with fail := 0x0A }
  | _ => c

/-- Answer a collective's registration, packet or signal (R242, R243, R414). -/
def answerColl (s : State) (id : Nat) (what : Nat) (retry : Bool) : State :=
  match s.colls.find? (fun c => c.id == id) with
  | none => s
  | some c =>
    match what, retry with
    | 0, true => s.putColl { c with st := .unregistered }
    | 1, true =>
      let back := match c.held with
        | some (_, h, x) => if x.isEmpty then [] else [({ die := c.die, hdr := h, data := x } : HeldColl)]
        | none => []
      State.putColl { s with heldColl := back ++ s.heldColl } { c with held := none }
    | 2, true => s.putColl { c with st := .signal }
    | 2, false => endColl s { c with code := 4 }
    | _, _ => abortColl s c 4

/-- Answer a unit of MLDC or MSTC (R269, R270). -/
def answerMatrix (s : State) (core op : Nat) (retry : Bool) : State :=
  let e := s.engine core
  match e.queue with
  | o :: _ =>
    if o.id ≠ op then s
    else if retry then s.putEngine (e.setHead { o with hold := none })
    else match s.ofThread o.t with
      | some (l, g) => failMatrix s l g core o 4
      | none => s
  | [] => s

/-- Answer an engine's record. -/
def answerEngine (s : State) (r : FRec) (retry : Bool) : State :=
  match r.who with
  | .copyUnit cmd unit => { s with copies := s.copies.map (fun c => if c.id = cmd then answerUnit c unit retry else c) }
  | .copyReg cmd => { s with copies := s.copies.map (fun c => if c.id = cmd then answerReg c retry else c) }
  | .collReg id => answerColl s id 0 retry
  | .collUnit id => answerColl s id 1 retry
  | .collSig id => answerColl s id 2 retry
  | .matrix core op => answerMatrix s core op retry
  | _ => s

/-- Answer a record: it is closed, and what it stands for goes on. -/
def answerRec (s : State) (r : FRec) (retry : Bool) : State :=
  let s1 := closeRec s r.die r.tag
  match r.who with
  | .threads gid => answerGroup s1 gid r.die r.tag retry
  | _ => answerEngine s1 r retry

/-- FAULT_REPLAY (R340, R432): the answer to an open record of a die. -/
def execFaultReplay (src : CmdSrc) (s : State) : Out :=
  runCmd s src 9 (fun c => decide (bits (c.word 0x08) 15 0 < 4) && decide ((c.word 0x0C).toNat ≤ 1)) (fun c s =>
    match s.frecs.find? (fun r => r.die == bits (c.word 0x08) 15 0 && r.tag == bits (c.word 0x08) 31 16 && r.open_) with
    | some r => .next (completeCmd (answerRec s r (c.word 0x0C == 0)) c 0 0 0)
    | none => .next (completeCmd s c 0 1 0))

/-! Records that found none free (R338). -/

/-- The refusal for which a parked thread still has no record: that of the fetch at which it stands, with the address that is absent, else the first
of its segment. -/
def Thread.unposted (th : Thread) : Option TrapRec :=
  if th.parked && th.tag.isNone && th.replay.isNone then
    match th.refused.find? Refused.isFetch with
    | some x => x.trap.map (fun r => { r with addr := x.p.addr })
    | none => (firstRefused th.refused).map (fun x => x.2)
  else none

/-- A parked thread without a record joins one, or posts its own with those of its group that wait as it does, as soon as one is free. -/
def postParked (s : State) (t : Tid) : State :=
  match s.ofThread t, (s.thread? t).bind Thread.unposted with
  | some (l, g), some r =>
    let lanes := g.threads.zipIdx.filterMap (fun x => match x.1.unposted with
      | some y => if region y.addr = region r.addr then some x.2 else none
      | none => none)
    let q := joinRec s l g lanes r
    lanes.foldl (fun s i => s.modThread { gid := g.gid, lane := i } (fun th => { th with tag := q.1 })) q.2
  | _, _ => s

def postWaiting (s : State) : State :=
  (s.groups.flatMap (fun g => (List.range 32).map (fun i => ({ gid := g.gid, lane := i } : Tid)))).foldl postParked s

end Sys2Proof.Machine
end

