-- ==== Sys2Proof/Machine/Failed.lean ====
section
/-! DEFINITION. Failed.lean: what a packet that is failed or acknowledged means to those who formed it (R376, R386, R395, R414,
R443), and the calendar's entries and ports. -/
namespace Sys2Proof.Machine

/-! The calendar (R366–R369). -/

def Entry.none : Entry := { v := false, bcast := false, peer := 0, plan := 0 }

/-- The entry of a port in a slot of an image. -/
def Cal.entry (c : Cal) (slot port : Nat) : Entry := c.entries.getD (64 * slot + port) Entry.none

/-- The entry of a port in the current slot; no entry where no generation is in force. -/
def curEntry (s : State) (port : Nat) : Entry := match s.net.cal with
  | some c => c.entry s.calSlot.toNat port
  | none => Entry.none

/-- The package is the reference (R377). -/
def isRef (s : State) : Bool := match s.net.cal with
  | some c => c.ref == s.pkgId.toNat
  | none => false

def State.modPort (s : State) (p : Nat) (f : Port → Port) : State :=
  { s with net := { s.net with ports := s.net.ports.modify p f } }

/-- One more, saturating at `n` bits (R391). -/
def satInc (n x : Nat) : Nat := min (x + 1) (2 ^ n - 1)

/-- `a` comes no later than `b` in the order mod 2^24 (R376). -/
def seqLe (a b : Nat) : Bool := decide ((b + 2 ^ 24 - a % 2 ^ 24) % 2 ^ 24 < 2 ^ 23)

/-! The requester of a reply (R393). -/

/-- The entry of a thread that a request tag names. -/
def pendOf (s : State) (tag : Nat) : Option (Tid × Pend) :=
  (s.groups.flatMap (fun g => g.threads.zipIdx.filterMap (fun x =>
    (x.1.infl.find? (fun p => p.id == tag && match p.st with
      | .remote _ => true
      | _ => false)).map (fun p => (({ gid := g.gid, lane := x.2 } : Tid), p))))).head?

/-- The command and unit of a copy that a request tag names. -/
def flightOf (s : State) (tag : Nat) : Option (CopyCmd × Flight) :=
  (s.copies.filterMap (fun c => (c.flight.find? (fun f => f.sent && f.tag == tag)).map (fun f => (c, f)))).head?

/-! Failed packets (R376, R386, R395). -/

/-- A thread's request fails: a load or an atomic takes REMOTE_UNREACHABLE at its horizon; a store is counted and waits for a release to report it
(R395, R402, R443). -/
def failEntry (s : State) (t : Tid) (p : Pend) : State := match p.op with
  | .store .. => s.modThread t (fun th => { th with infl := th.infl.filter (fun q => q.id != p.id), rfail := th.rfail + 1,
                                                    failed := th.failed ++ [{ id := p.id, addr := p.addr }] })
  | _ => s.modThread t (fun th => th.refuse p (p.trap remoteUnreachable 0))

/-- A copy's packet fails: its unit, or its signal, ends the command with code 8 (R247). -/
def failFlight (s : State) (c : CopyCmd) (f : Flight) : State :=
  s.putCopy { c.failed f.unit 8 with st := .running }

/-- A request tag's packet has failed. -/
def failTag (s : State) (tag : Nat) : State :=
  match pendOf s tag, flightOf s tag, s.colls.find? (fun c => c.sigTag == some tag), tcWaiter s tag with
  | some (t, p), _, _, _ => failEntry s t p
  | none, some (c, f), _, _ => failFlight s c f
  | none, none, some c, _ =>
    let c1 := { c with sigTag := none }
    abortColl { s with colls := s.colls.map (fun x => if x.id = c.id then c1 else x) } c1 1
  | none, none, none, some (t, w) => match w.kind with
    | .publ i a true =>
      let p : Pend := { id := i, pc := w.pc, dst := .none, op := .publ, addr := a, loc := none, st := .sent }
      refuseWait s t w p (p.trap remoteUnreachable 0)
    | _ => s
  | none, none, none, none => s

/-- A packet is failed: it leaves its queue, and whoever formed it learns of it. -/
def failOut (s : State) (o : OutPkt) : State :=
  let s1 := { s with net := { s.net with out := s.net.out.filter (fun x => x.id != o.id || x.foreign != o.foreign) } }
  if o.foreign then s1
  else match o.pkt.body with
  | .req _ _ _ _ tag _ => failTag s1 tag
  | .coll _ _ => (s1.colls.filter (fun c => c.out.contains o.id)).foldl (fun s c => abortColl s c 1) s1
  | _ => s1

/-- The owner has failed its reply to a request that it has acknowledged (R395): the request fails for its issuer too. -/
def replyLost (s : State) (tag : Nat) : State :=
  let queued := s.net.out.any (fun o => match o.pkt.body with
    | .req _ _ _ _ x _ => x == tag && !o.foreign
    | _ => false)
  if queued then s else failTag s tag

/-- A packet has been acknowledged by its hop destination (R376, R382, R412): of one held in transit, its destination's is reported to the origin. -/
def ackOut (s : State) (o : OutPkt) : State :=
  let rest := s.net.out.filter (fun x => x.id != o.id || x.foreign != o.foreign)
  if o.foreign then
    { s with net := { s.net with out := rest, relays := if o.pkt.hop = o.pkt.dst then s.net.relays ++ [(o.pkt.src, o.origin)] else s.net.relays } }
  else if o.pkt.transit then
    let mark := fun (x : OutPkt) =>
      if x.id = o.id ∧ x.foreign = false then { x with relayed := true, fly := false, port := none, ports := [] } else x
    { s with net := { s.net with out := s.net.out.map mark } }
  else
    { s with net := { s.net with out := rest },
             colls := s.colls.map (fun c => { c with out := c.out.filter (fun i => i != o.id) }) }

end Sys2Proof.Machine
end

