-- ==== Sys2Proof/Machine/Slots.lean ====
section
/-! DEFINITION. Slots.lean: the rotation of the calendar: slot boundaries, tuning, grants, preambles, acknowledgements, steering,
generations, ports (R366–R391). -/
namespace Sys2Proof.Machine

/-! Which image rules a slot. -/

/-- The staged image takes effect at the next boundary (R386). -/
def stagedDue (s : State) : Option Cal := match s.net.cal, s.net.staged with
  | some c, some n => if s.calSlot.toNat + 1 = c.s ∧ n.start ≤ s.calCycle.toNat + 1 then some n else none
  | _, _ => none

/-- The image and slot after the next boundary. -/
def nextSlotOf (s : State) (c : Cal) : Cal × Nat := match stagedDue s with
  | some n => (n, 0)
  | none => (c, (s.calSlot.toNat + 1) % c.s)

/-- A port that sends and receives data, or drains (R390). -/
def PortSt.works : PortSt → Bool
  | .active => true
  | .draining => true
  | _ => false

/-- A port that is lit (R390). -/
def PortSt.lit : PortSt → Bool
  | .drained => false
  | .failed => false
  | _ => true

/-! The start of the data window (R371, R372, R383). -/

/-- The set bits of a plan. -/
def popcount64 (x : Nat) : Nat := ((List.range 64).filter (fun i => x / 2 ^ i % 2 == 1)).length

/-- Bytes queued for a package. -/
def backlog (s : State) (q : Nat) : Nat :=
  ((s.net.out.filter (fun o => o.pkt.hop == q && !o.relayed && o.bcast.isNone)).map (fun o => pktBytes o.pkt)).sum

/-- Bytes that `g` wavelengths carry in a slot: 32 Gb/s each (R13), in the transmit interval of R373. -/
def slotBytes (c : Cal) (g : Nat) : Nat := 4 * g * (c.slotLen - c.flight - 8 - c.guard)

/-- The loop of R371 over the four ports of an engine: `w` and `g` by port, the wants, `q` the next port; with fuel. -/
def grantLoop (w : List Nat) (hungry : Nat → Nat → Bool) : Nat → Nat → Nat → List Nat → List Nat
  | 0, _, _, g => g
  | fuel + 1, spare, q, g =>
    let wants := fun (p : Nat) => decide (g.getD p 0 < w.getD p 0) && hungry p (g.getD p 0)
    if spare = 0 ∨ !((List.range 4).any wants) then g
    else
      let x := if wants q then min 8 (min (w.getD q 0 - g.getD q 0) spare) else 0
      grantLoop w hungry fuel (spare - x) ((q + 1) % 4) (g.set q (g.getD q 0 + x))

/-- The grants of an engine's ports for the next slot (R371). -/
def engineGrants (s : State) (c : Cal) (slot k : Nat) : List Nat :=
  let port := fun (j : Nat) => s.net.ports.getD (4 * k + j) Port.reset
  let e := fun (j : Nat) => c.entry slot (4 * k + j)
  let w := (List.range 4).map (fun j => if (e j).v && (port j).st == .active then popcount64 (c.plans.getD (e j).plan 0) else 0)
  let g := w.map (fun x => min x 48)
  let hungry := fun (j gj : Nat) => decide (slotBytes c gj < backlog s (e j).peer)
  grantLoop w hungry 400 (192 - g.sum) (s.net.ptr.getD k 0) g

/-- The spare bank of a port at the start of a data window (R372). -/
def tuneSpare (c : Cal) (slot : Nat) (p : Port × Nat) : Port :=
  let e := c.entry slot p.2
  if e.v && (p.1.st.works || (p.1.st == .training && p.1.need.isEmpty)) && !(p.1.spare.st == .locked && p.1.spare.plan == e.plan) then
    { p.1 with spare := { st := .tuning, plan := e.plan, tries := 0 } }
  else p.1

/-- A packet comes before another in the order of their numbers, class by class (R376). -/
def OutPkt.before (a b : OutPkt) : Bool := decide (a.pkt.cls < b.pkt.cls) || (a.pkt.cls == b.pkt.cls && seqLe a.pkt.seq b.pkt.seq)

def insertOut (o : OutPkt) : List OutPkt → List OutPkt
  | [] => [o]
  | x :: l => if o.before x then o :: x :: l else x :: insertOut o l

/-- Packets that have been sent, in the order of their numbers. -/
def sortOut (l : List OutPkt) : List OutPkt := l.foldr insertOut []

/-- A queued packet with another in its place. -/
def replaceOut (l : List OutPkt) (o : OutPkt) : List OutPkt := l.map (fun x => if x.id = o.id ∧ x.foreign = o.foreign then o else x)

/-- The member record of a root port in this slot (R383): its entry makes it a root, its bank is not in FAULT (R372). -/
def rootRecord (s : State) (p : Port × Nat) : Option Bcast :=
  let e := curEntry s p.2
  if p.1.st.works && p.1.cur.st != .fault && e.v && e.bcast && e.peer == s.pkgId.toNat then
    s.net.cal.bind (fun c => c.bcasts.find? (fun b => b.slot == s.calSlot.toNat && b.port == p.2))
  else none

/-- In how many broadcast slots a packet has been sent to a member (R384). -/
def OutPkt.castTo (o : OutPkt) (m : Nat) : Nat := countOf o.casts m

/-- A packet has been sent to a member in 8 broadcast slots, the last one over, without its acknowledgement (R384). -/
def OutPkt.castDue (o : OutPkt) (m : Nat) : Bool := (match o.bcast with
  | some ms => ms.contains m
  | none => false) && !o.fly && decide (8 ≤ o.castTo m)

/-- Send a broadcast packet to members in a root's slot: its first sending gives it its number (R376). -/
def castOut (me port : Nat) (n : Net) (o : OutPkt) (ms : List Nat) : Net :=
  let casts := ms.foldl (fun l m => addCount l m 1) o.casts
  let t := takeSeq n.tx me o.pkt.cls true
  let x := { o with sent := o.sent + 1, port := some port, fly := true, ports := port :: o.ports.erase port, casts := casts }
  let y := if o.sent = 0 then { x with pkt := { x.pkt with seq := t.1 } } else x
  let again := if o.sent = 0 then 0 else 1
  { n with tx := if o.sent = 0 then t.2 else n.tx, out := replaceOut n.out y,
           ports := n.ports.modify port (fun p => { p with left := p.left - pktBytes o.pkt, resent := min (p.resent + again) (2 ^ 32 - 1) }) }

/-- Send packets to the members of a record that have not acknowledged them and to which this slot has not sent them yet, in order, up to the first that the
transmit interval does not hold (R373, R384). `seen` are the packets and members that the slot has served. -/
def castList (me port : Nat) (members : List Nat) : List OutPkt → Net × List (Nat × Nat) → Net × List (Nat × Nat)
  | [], r => r
  | o :: rest, (n, seen) =>
    let ms := (o.bcast.getD []).filter (fun m => members.contains m && !seen.contains (o.id, m) && decide (o.castTo m < 8))
    if ms.isEmpty then castList me port members rest (n, seen)
    else if fits n port o = false then (n, seen)
    else castList me port members rest (castOut me port n ((n.out.find? (fun x => x.id == o.id && !x.foreign)).getD o) ms,
      ms.map (fun m => (o.id, m)) ++ seen)

/-- The broadcast queue is sent in the slots of an aligned root (R379, R383, R384): on each root port, to the members of its record that it has not
dropped, from the oldest packet that one of them has not acknowledged; a port that drains starts no new packet (R390). -/
def sendBcast (s : State) : State :=
  if s.net.aligned = false then s
  else
    let me := s.pkgId.toNat
    let r := s.net.ports.zipIdx.foldl (fun (acc : Net × List (Nat × Nat)) p => match rootRecord s p with
      | some b =>
        let queue := acc.1.out.filter (fun o => o.bcast.isSome)
        let old := sortOut (queue.filter (fun o => decide (0 < o.sent)))
        let new := if p.1.st = .draining then [] else queue.filter (fun o => o.sent == 0)
        castList me p.2 (b.members.filter (fun m => !s.net.dropped.contains (p.2, m))) (old ++ new) acc
      | none => acc) (s.net, [])
    { s with net := r.1 }

/-- The port lights the fabric in a slot: it is lit, and its entry is valid and no receiver's of a broadcast (R383, R390). -/
def lights (s : State) (e : Entry) (p : Port) : Bool := p.st.lit && e.v && (!e.bcast || e.peer == s.pkgId.toNat)

/-- The preamble that a lit port sends (R374, R378): its timestamp is the instant of its sending, its CRC holds. -/
def preambleOf (s : State) (port : Nat) (p : Port) : PreambleMsg :=
  { pkg := s.pkgId.toNat, port := port, gen := (calGen s).toNat, cycle := s.calCycle.toNat, slot := s.calSlot.toNat, lit := p.lit,
    offset := s.net.offset.getD 0, hops := if s.net.synced then s.net.hops else none, aligned := s.net.aligned, crcOk := true, delta := 0,
    elapsed := 0, lowest := (lowestOpen s).toNat }

/-- The preambles go out. -/
def sendPreambles (s : State) : State :=
  { s with net := { s.net with ports := s.net.ports.zipIdx.map (fun p =>
      { p.1 with pre := if lights s (curEntry s p.2) p.1 then some (preambleOf s p.2 p.1) else none }) } }

/-- DATA_WINDOW_START (R371, R372, R374): the grants of the next slot are fixed, spare banks start tuning, preambles go out. Ports that
are drained have become dark at the boundary (R390). -/
def execDataWindowStart (s : State) : Out :=
  match s.net.cal with
  | none => notNow
  | some c =>
    let drained := s.net.ports.zipIdx.any (fun p => p.1.st == .draining && s.net.out.all (fun o => !o.ports.contains p.2))
    if s.net.inData ∨ s.net.synced = false ∨ drained then notNow
    else
      let n := nextSlotOf s c
      let gs := (List.range 16).flatMap (engineGrants s n.1 n.2)
      let ports := (s.net.ports.zipIdx.map (tuneSpare n.1 n.2)).zipIdx.map (fun p => { p.1 with grant := gs.getD p.2 0 })
      let net := { s.net with inData := true, ports := ports, ptr := s.net.ptr.map (fun x => (x + 1) % 4) }
      .next (sendBcast (sendPreambles { s with net := net }))

/-! The boundary (R373, R376, R390). -/

/-- A packet whose slot has ended without its acknowledgement is owed (R376). -/
def owe (o : OutPkt) : OutPkt := { o with fly := false }

/-- A port at a boundary: what the ended slot counts, then the swap of its banks. `e` and `e'` are its entries of the ended slot
and of the next. A port that drains, to which R371 grants no wavelength, sends again (R390) as on the 48 that R371 grants first (DESIGN CHOICE, assumption
log 84). -/
def portBoundary (s : State) (c' : Cal) (e e' : Entry) (p : Port) : Port :=
  let bad := e.v && p.st.lit && p.verified.isNone && !(e.bcast && e.peer == s.pkgId.toNat)
  let dark := e.v && (p.cur.st == .fault || p.st == .drained || p.st == .failed)
  let stay := p.st == .training && !p.need.isEmpty
  let next := if e'.v then p.spare else { p.spare with st := .dark }
  let banks := if stay then (p.cur, p.spare) else if p.st.lit then (next, p.cur) else (Bank.dark, Bank.dark)
  let lit := if e'.v && (!e'.bcast || e'.peer == s.pkgId.toNat) && p.st.works then p.grant else 0
  let st := if p.drainReq && p.st == .active then .draining else p.st
  let width := if st = .draining then max lit (min 48 (popcount64 (c'.plans.getD e'.plan 0))) else lit
  { p with cur := banks.1, spare := banks.2, lastLit := p.lit, lit := lit, verified := none, left := slotBytes c' width, due := [],
           pre := none, ack := none, faults := if e'.v && p.spare.st == .fault then p.faults else 0, st := st, drainReq := p.drainReq && st == .active,
           preErr := if bad then satInc 16 p.preErr else p.preErr, noData := if dark then satInc 32 p.noData else p.noData }

/-- Steering toward a peer from which no preamble has been verified in the cycle that ends gives way to any other (R377; which estimate is kept
when the peer of the least hop count falls silent the spec leaves open: DESIGN CHOICE, assumption log 31). -/
def forget (n : Net) (k : Nat) : Net :=
  if k = 0 then { n with via := if n.heard then n.via else none, heard := false } else n

/-- A slot boundary under which `c'` and slot `k` come into force. -/
def boundary (s : State) (c c' : Cal) (k : Nat) : State :=
  let ports := s.net.ports.zipIdx.map (fun p => portBoundary s c' (c.entry s.calSlot.toNat p.2) (c'.entry k p.2) p.1)
  let told := s.net.ports.filterMap (fun p => p.verified)
  let n := forget s.net k
  let net := { n with inData := false, ports := ports, out := s.net.out.map owe,
                      relays := s.net.relays.filter (fun r => !told.contains r.1), steered := s.net.steered && k != 0 }
  { s with net := net, calSlot := BitVec.ofNat 6 k, calCycle := if k = 0 then s.calCycle + 1 else s.calCycle }

/-- A spare bank still moves to the next slot's plan: a tuning locks or fails before the slot ends (R372). -/
def tuningOpen (s : State) : Bool :=
  s.net.ports.any (fun p => (p.st.works || (p.st == .training && p.need.isEmpty)) && p.spare.st == .tuning)

/-- A package to which a packet has been sent 8 times, the last slot over, without acknowledgement is due to be cut off (R376). -/
def cutDue (s : State) (q : Nat) : Bool :=
  s.net.out.any (fun o => o.pkt.hop == q && o.bcast.isNone && !o.relayed && !o.fly && decide (8 ≤ o.sent))

/-- A port that works has had three consecutive FAULT slots (R372). -/
def Port.failDue (p : Port) : Bool := p.st.works && decide (3 ≤ p.faults)

/-- The move of the cycle that ends with this slot has not been made (R377). -/
def steerDue (s : State) (c : Cal) : Bool :=
  s.net.synced && !s.net.steered && !isRef s && s.net.offset.isSome && s.calSlot.toNat + 1 == c.s

/-- A start barrier is due to close, or a member to discard its part (R404). -/
def gangDue (s : State) : Bool :=
  s.gangs.any (fun g => g.go.isNone && decide (g.c0 + (if g.rank = 0 then 8 else 16) ≤ s.calCycle.toNat))

/-- The slot goes on until what is due in it has happened: tunings end (R372), ports fail (R372), packages are cut off (R376), the cycle's move is
made (R377), members are dropped (R384), gangs that have not started end (R404). -/
def slotOpen (s : State) (c : Cal) : Bool :=
  tuningOpen s || s.net.ports.any Port.failDue || steerDue s c || gangDue s
    || s.net.out.any (fun o => cutDue s o.pkt.hop || (o.bcast.getD []).any o.castDue)

/-- SLOT_BOUNDARY (R366, R373). -/
def execSlotBoundary (s : State) : Out :=
  match s.net.cal with
  | none => notNow
  | some c =>
    if s.net.inData = false ∨ s.net.synced = false ∨ slotOpen s c ∨ (stagedDue s).isSome then notNow
    else .next (boundary s c c ((s.calSlot.toNat + 1) % c.s))

/-! Ring banks (R372, R390). -/

/-- The bank of a port that is tuning, the spare one first, and the port with another in its place. -/
def tuningBank (p : Port) : Option (Bank × (Bank → Port)) :=
  if p.spare.st = .tuning then some (p.spare, fun b => { p with spare := b })
  else if p.cur.st = .tuning then some (p.cur, fun b => { p with cur := b })
  else none

/-- RING_LOCKED (R372): a bank reaches its plan; a port in TRAINING goes on to its next one (R390). -/
def execRingLocked (port : Nat) (s : State) : Out :=
  match (s.net.ports[port]?).bind tuningBank with
  | none => notNow
  | some (b, put) =>
    let p := put { b with st := .locked }
    let rest := p.need.filter (fun x => x != b.plan)
    match p.st == .training, rest with
    | true, x :: _ => .next (s.modPort port (fun _ => { p with spare := { st := .tuning, plan := x, tries := 0 }, need := rest }))
    | _, _ => .next (s.modPort port (fun _ => { p with need := rest }))

/-- A PORT_RETRAIN or PORT_DRAIN that waits for a port completes. -/
def portDone (s : State) (port : Nat) (retrain : Bool) (code : Nat) : State :=
  let waits := fun (c : HostCmd) => match c.wait with
    | .retrain p => retrain && p == port
    | .drain p => !retrain && p == port
    | _ => false
  (s.cmds.filter waits).foldl (fun s c => completeCmd s c 0 code 0) s

/-- A port becomes FAILED: dark (R390). -/
def failPort (s : State) (port : Nat) : State :=
  portDone (s.modPort port (fun p => { p with st := .failed, cur := Bank.dark, spare := Bank.dark, verified := none, grant := 0, lit := 0 }))
    port true 6

/-- TUNING_TIMEOUT (R372): a bank that has not locked in time is tuned once more, if that can end before the slot does, or fails;
in TRAINING the third failure on a plan fails the port (R390). -/
def execTuningTimeout (port : Nat) (s : State) : Out :=
  match s.net.ports[port]?, (s.net.ports[port]?).bind tuningBank, s.net.cal with
  | some p, some (b, put), some c =>
    if p.st = .training ∧ p.need ≠ [] then
      (if 2 ≤ b.tries then .next (failPort s port) else .next (s.modPort port (fun _ => put { b with tries := b.tries + 1 })))
    else if b.tries = 0 ∧ c.guard + 2400 ≤ c.slotLen then .next (s.modPort port (fun _ => put { b with tries := 1 }))
    else .next (s.modPort port (fun p => { put { b with st := .fault } with faults := p.faults + 1 }))
  | _, _, _ => notNow

/-- PORT_FAILED (R372, R390): three consecutive FAULT slots. -/
def execPortFailed (port : Nat) (s : State) : Out :=
  match s.net.ports[port]? with
  | some p => if p.failDue then .next (failPort s port) else notNow
  | none => notNow

/-- PORT_DRAINED (R390): at a boundary a DRAINING port on which no packet that was sent there awaits acknowledgement is dark. -/
def execPortDrained (port : Nat) (s : State) : Out :=
  match s.net.ports[port]? with
  | some p =>
    if p.st = .draining ∧ s.net.inData = false ∧ s.net.out.all (fun o => !o.ports.contains port) then
      .next (portDone (s.modPort port (fun p => { p with st := .drained, cur := Bank.dark, spare := Bank.dark, verified := none, grant := 0, lit := 0 }))
        port false 0)
    else notNow
  | none => notNow

/-- The peers that a port's entries in the current generation name. -/
def portPeers (s : State) (port : Nat) : List Nat := match s.net.cal with
  | some c => (((List.range c.s).map (fun k => c.entry k port)).filter (fun e => e.v && e.peer != s.pkgId.toNat)).map (fun e => e.peer)
  | none => []

/-- PORT_TRAINED (R390): every plan has locked and every peer has been verified. -/
def execPortTrained (port : Nat) (s : State) : Out :=
  match s.net.ports[port]? with
  | some p =>
    if p.st = .training ∧ p.need = [] ∧ p.spare.st ≠ .tuning ∧ (portPeers s port).all (fun q => p.seen.contains q) then
      .next (portDone (s.modPort port (fun p => { p with st := .active, faults := 0, seen := [] })) port true 0)
    else notNow
  | none => notNow

/-! Preambles (R374, R377–R379). -/

/-- The package is aligned while its estimate lies within 4 ns, and again once it lies within 3 ns (R379). -/
def align (n : Net) : Net :=
  match n.offset with
  | some x => { n with aligned := decide (x.natAbs ≤ 3000) || (n.aligned && decide (x.natAbs ≤ 4000)) }
  | none => { n with aligned := false }

/-- An estimate through a peer: kept when it comes from the peer of the one in force, or when no peer of fewer hops gave that (R377). -/
def estimate (s : State) (m : PreambleMsg) : State :=
  match m.hops with
  | some h =>
    let better := s.net.via.isNone || s.net.via == some m.pkg || (match s.net.hops with
      | some own => decide (h + 1 ≤ own)
      | none => true)
    if !isRef s && decide (h + 1 ≤ 15) && better then
      { s with net := align { s.net with offset := some (m.offset + m.delta), hops := some (h + 1), via := some m.pkg, heard := true } }
    else s
  | none => s

/-- The preamble verifies the peer of a port in this slot (R374). -/
def verifies (s : State) (port : Nat) (p : Port) (m : PreambleMsg) : Bool :=
  let e := curEntry s port
  e.v && m.crcOk && m.pkg == e.peer && e.peer != s.pkgId.toNat && m.gen == (calGen s).toNat && m.cycle == s.calCycle.toNat
    && m.slot == s.calSlot.toNat && m.aligned && p.st.lit && p.cur.st == .locked && p.cur.plan == e.plan && s.net.synced && s.net.inData

/-- The synchronising check of an unsynchronised package (R378), on a port whose entry for slot 0 is valid and whose bank is on its plan. -/
def synchronises (s : State) (port : Nat) (p : Port) (m : PreambleMsg) : Bool :=
  match s.net.cal with
  | some c =>
    let e := c.entry m.slot port
    let e0 := c.entry 0 port
    e0.v && p.st.lit && p.cur.st == .locked && p.cur.plan == e0.plan && !s.net.synced && m.crcOk && m.hops.isSome && m.aligned && m.gen == c.gen.toNat && decide (m.slot < c.s) && e.v && !e.bcast
      && e.peer == m.pkg
  | none => false

/-- A packet that waits to be sent to a package. -/
def OutPkt.waitsFor (o : OutPkt) (q : Nat) : Bool := o.pkt.hop == q && o.bcast.isNone && !o.fly && !o.relayed

/-- Send packets of a list on a port, in order, up to the first that cannot go; whether all have gone. -/
def sendList (port : Nat) : List OutPkt → Net → Net × Bool
  | [], n => (n, true)
  | o :: rest, n =>
    if fits n port o && granted n port o then
      let r := sendOut n port o
      sendList port rest { r.1 with out := replaceOut r.1.out r.2 }
    else (n, false)

/-! The weights of a window (R381). -/

/-- The class and launch of a packet: those between which the window is shared. -/
def OutPkt.flow (o : OutPkt) : Nat × Option LRef := (o.pkt.cls, o.launch)

/-- New packets that wait for a package. -/
def unsent (n : Net) (q : Nat) : List OutPkt := n.out.filter (fun o => o.waitsFor q && o.sent == 0 && !o.foreign)

/-- The flows of which packets wait for a package, class by class. -/
def flows (n : Net) (q : Nat) : List (Nat × Option LRef) :=
  let all := ((unsent n q).map OutPkt.flow).eraseDups
  (List.range 8).flatMap (fun c => all.filter (fun k => k.1 == c))

/-- The packet of a flow that may go next: its first; one of the direct path only as the first of its class, whatever its launch (R376, R397). -/
def flowHead (n : Net) (port q : Nat) (k : Nat × Option LRef) : Option OutPkt :=
  let new := unsent n q
  let direct := fun (o : OutPkt) => o.pkt.hop == o.pkt.dst
  match new.find? (fun o => o.flow == k) with
  | some o =>
    let first := !direct o || ((new.find? (fun x => direct x && x.pkt.cls == o.pkt.cls)).map (fun x => x.id)) == some o.id
    if first && granted n port o then some o else none
  | none => none

/-- The fabric share of a launch, at least 1 (R129, R381). -/
def fabric (s : State) (l : Option LRef) : Nat := match l.bind s.launch? with
  | some x => max x.hdr.share 1
  | none => 1

/-- What a flow earns in a round: its launch's part, among the flows `go` of its class that may send, of 512 bytes for each unit of the class's weight; a
class of weight 0 earns 512 when no other of the waiting flows `ks` has a weight. -/
def earns (s : State) (ks go : List (Nat × Option LRef)) (k : Nat × Option LRef) : Nat :=
  let w := fun (c : Nat) => bits s.netWeights (4 * c + 3) (4 * c)
  let bytes := if w k.1 ≠ 0 then 512 * w k.1 else if ks.any (fun x => w x.1 != 0) then 0 else 512
  let sum := ((go.filter (fun x => x.1 == k.1)).map (fun x => fabric s x.2)).sum
  if bytes = 0 then 0 else max 1 (bytes * fabric s k.2 / max 1 sum)

/-- What a flow has earned at a port and not spent. -/
def dueOf (p : Port) (k : Nat × Option LRef) : Nat := ((p.due.find? (fun x => (x.1, x.2.1) == k)).map (fun x => x.2.2)).getD 0

/-- A flow sends in order what its earnings hold; with fuel for its packets. The window ends with the first packet that has its turn and does not end
within the transmit interval: then the last part is true. -/
def flowSend (port q : Nat) (k : Nat × Option LRef) : Nat → Net → Nat → Net × Nat × Bool
  | 0, n, d => (n, d, false)
  | fuel + 1, n, d => match flowHead n port q k with
    | some o =>
      if d < pktBytes o.pkt then (n, d, false)
      else if fits n port o = false then (n, d, true)
      else
        let r := sendOut n port o
        flowSend port q k fuel { r.1 with out := replaceOut r.1.out r.2 } (d - pktBytes o.pkt)
    | none => (n, d, false)

/-- A flow's turn in a round: it earns, and sends. -/
def flowTurn (s : State) (port q : Nat) (ks go : List (Nat × Option LRef)) (n : Net) (k : Nat × Option LRef) : Net × Bool :=
  let d0 := ((n.ports[port]?).map (fun p => dueOf p k)).getD 0 + earns s ks go k
  let r := flowSend port q k (n.out.length + 1) n d0
  ({ r.1 with ports := r.1.ports.modify port (fun p => { p with due := (k.1, k.2, r.2.1) :: p.due.filter (fun x => (x.1, x.2.1) != k) }) }, r.2.2)

/-- The turns of a round, up to the end of the window. -/
def roundTurns (s : State) (port q : Nat) (ks go : List (Nat × Option LRef)) : List (Nat × Option LRef) → Net → Net × Bool
  | [], n => (n, false)
  | k :: rest, n =>
    let r := flowTurn s port q ks go n k
    if r.2 then r else roundTurns s port q ks go rest r.1

/-- The rounds of deficit round-robin, until the window ends or no flow can earn and send (R381); with fuel. -/
def rounds (s : State) (port q : Nat) : Nat → Net → Net
  | 0, n => n
  | fuel + 1, n =>
    let ks := flows n q
    let go := ks.filter (fun k => (flowHead n port q k).isSome)
    if go.all (fun k => earns s ks go k == 0) then n
    else
      let r := roundTurns s port q ks go go n
      if r.2 then r.1 else rounds s port q fuel r.1

/-- Send what waits for a package on a port (R381), each kind once all of the kind before it has gone: what is owed, in the order of the numbers (R376),
what is held in transit, then the queues under the weights. -/
def serve (s : State) (port q : Nat) : State :=
  let drains := match s.net.ports[port]? with
    | some p => p.st == .draining
    | none => true
  if cutDue s q then s
  else
  let r1 := sendList port (sortOut (s.net.out.filter (fun o => o.waitsFor q && decide (0 < o.sent)))) s.net
  if drains || !r1.2 then { s with net := r1.1 }
  else
  let r2 := sendList port (r1.1.out.filter (fun o => o.waitsFor q && o.foreign && o.sent == 0)) r1.1
  { s with net := if r2.2 then rounds s port q (4160 * (r2.1.out.length + 1)) r2.1 else r2.1 }

/-- Each port whose window is open sends what waits for its peer: an aligned package's queues move (R379, R381). -/
def serveOpen (s : State) : State :=
  if s.net.aligned = false ∨ s.net.inData = false then s
  else s.net.ports.zipIdx.foldl (fun s p => match p.1.verified, p.1.st.works, (curEntry s p.2).bcast with
    | some q, true, false => serve s p.2 q
    | _, _, _ => s) s

/-- The bytes of transit packets of a package that a die of this one holds. -/
def heldBytes (s : State) (q die : Nat) : Nat :=
  ((s.net.out.filter (fun o => o.foreign && o.die == die && o.pkt.src == q && !o.relayed)).map (fun o => pktBytes o.pkt)).sum

/-- The part of a die's transit partition of 4 MiB that each package may fill (R382; which part the spec leaves open: DESIGN CHOICE, assumption
log 83). -/
def partition (s : State) : Nat := 2 ^ 22 / max 1 ((s.net.cal.map (fun c => c.npkg)).getD 1)

/-- The ack flit for a peer as it stands, on a port (R376, R382, R384): for each class the highest number accepted in order and the send base, which is
the lowest number held, the transit completions, the room of the port's die, and, toward a root, the broadcast numbers accepted. -/
def ackFlit (s : State) (q port : Nat) : AckMsg :=
  let last := fun (bc : Bool) => (s.net.rx.filter (fun h => h.pkg == q && h.bc == bc)).map (fun h => (h.cls, (h.n + 2 ^ 24 - 1) % 2 ^ 24))
  let base := fun (h : HopSeq) =>
    (h.cls, match sortOut (s.net.out.filter (fun o => o.pkt.hop == q && o.pkt.cls == h.cls && o.bcast.isNone && decide (0 < o.sent) && !o.relayed)) with
      | o :: _ => o.pkt.seq
      | [] => h.n)
  let die := port / 16
  { src := s.pkgId.toNat, acked := last false, bases := (s.net.tx.filter (fun h => h.pkg == q && !h.bc)).map base,
    transit := (s.net.relays.filter (fun r => r.1 == q)).map (fun r => r.2),
    credit := partition s + countOf s.net.taken (dieOf q die) - heldBytes s q die, bcast := last true }

/-- The ports joined to a peer in this slot send it ack flits (R376): in a DIRECT slot, by a port that works. The slot's first takes a flit of the transmit
interval (R373; the later ones, which only bring it up to date, none: DESIGN CHOICE, assumption log 84). -/
def sendAcks (s : State) : State :=
  { s with net := { s.net with ports := s.net.ports.zipIdx.map (fun p => match p.1.verified, p.1.st.works, (curEntry s p.2).bcast with
      | some q, true, false => { p.1 with ack := some (ackFlit s q p.2), left := if p.1.ack.isNone then p.1.left - 64 else p.1.left }
      | _, _, _ => p.1) } }

/-- PREAMBLE (R374, R377, R378, R381): a verified preamble opens the port's window; an unsynchronised package takes its time
from one. -/
def execPreamble (port : Nat) (m : PreambleMsg) (s : State) : Out :=
  match s.net.ports[port]? with
  | none => notNow
  | some p =>
    if synchronises s port p m then
      match s.net.cal with
      | some c =>
        let at_ := m.slot + m.elapsed
        let s1 := { s with calSlot := BitVec.ofNat 6 (at_ % c.s), calCycle := BitVec.ofNat 64 (m.cycle + at_ / c.s),
                           net := { s.net with synced := true, inData := true } }
        .next (sendPreambles (estimate s1 m))
      | none => notNow
    else if verifies s port p m then
      let s1 := s.modPort port (fun p => { p with verified := some m.pkg, peerDie := m.port / 16 % 4, seen := if p.seen.contains m.pkg then p.seen else m.pkg :: p.seen })
      .next (serveOpen (sendAcks (estimate s1 m)))
    else .next s

/-! Acknowledgements (R376, R382, R384). -/

/-- The classes' acknowledgements of a peer. -/
def ackClass (s : State) (src : Nat) (a : Nat × Nat) : State :=
  (s.net.out.filter (fun o => o.pkt.hop == src && o.pkt.cls == a.1 && o.bcast.isNone && decide (0 < o.sent) && !o.relayed
    && seqLe o.pkt.seq a.2)).foldl ackOut s

/-- A receiver's expected number moves up to the peer's send base (R376). -/
def raiseBase (l : List HopSeq) (src : Nat) (b : Nat × Nat) : List HopSeq :=
  let is := fun (h : HopSeq) => h.pkg == src && h.cls == b.1 && !h.bc
  if l.any is then l.map (fun h => if is h && seqLe h.n b.2 then { h with n := b.2 } else h)
  else if seqLe 0 b.2 then { pkg := src, cls := b.1, bc := false, n := b.2 } :: l else l

/-- A member's report on the broadcast queue (R384): a packet that every member has reported is released. -/
def ackBcast (s : State) (src : Nat) (a : Nat × Nat) : State :=
  let hit := fun (o : OutPkt) => o.pkt.cls == a.1 && decide (0 < o.sent) && seqLe o.pkt.seq a.2
  let out := s.net.out.map (fun o => match o.bcast with
    | some ms => if hit o then { o with bcast := some (ms.filter (fun m => m != src)) } else o
    | none => o)
  let gone := (out.filter (fun o => o.bcast == some [])).map (fun o => o.id)
  { s with net := { s.net with out := out.filter (fun o => o.bcast != some []) },
           colls := s.colls.map (fun c => { c with out := c.out.filter (fun i => !gone.contains i) }) }

/-- A transit completion (R382): the packet named by its class and number is acknowledged. -/
def ackTransit (s : State) (src code : Nat) : State :=
  { s with net := { s.net with out := s.net.out.filter (fun o => !(o.relayed && o.pkt.hop == src && o.pkt.seq * 8 + o.pkt.cls == code)) } }

/-- ACK_FLIT (R376, R382, R384). -/
def execAckFlit (port : Nat) (m : AckMsg) (s : State) : Out :=
  match s.net.ports[port]? with
  | none => notNow
  | some p =>
    if p.verified ≠ some m.src then .next s
    else
      let s1 := m.acked.foldl (fun s a => ackClass s m.src a) s
      let s2 := { s1 with net := { s1.net with rx := m.bases.foldl (fun l b => raiseBase l m.src b) s1.net.rx } }
      let s3 := m.transit.foldl (fun s c => ackTransit s m.src c) s2
      let s4 := { s3 with net := { s3.net with credit := (dieOf m.src p.peerDie, m.credit) :: s3.net.credit.filter (fun x => x.1 != dieOf m.src p.peerDie) } }
      .next (sendAcks (m.bcast.foldl (fun s a => ackBcast s m.src a) s4))

/-- CUT_OFF (R376): a packet sent 8 times is still not acknowledged: everything queued for its hop destination is failed, and
that package is unreachable until the next generation. -/
def execCutOff (pkg : Nat) (s : State) : Out :=
  let mine := fun (o : OutPkt) => o.pkt.hop == pkg && o.bcast.isNone && !o.relayed
  if cutDue s pkg then
    .next ((s.net.out.filter mine).foldl failOut { s with net := { s.net with cut := pkg :: s.net.cut } })
  else notNow

/-- A broadcast packet is failed for one member (R384): the collective that sent it aborts (R414). -/
def failMember (s : State) (o : OutPkt) : State := match o.pkt.body with
  | .coll _ _ => (s.colls.filter (fun c => c.out.contains o.id)).foldl (fun s c => abortColl s c 1) s
  | _ => s

/-- BROADCAST_MEMBER_DROP (R384): a member that has not acknowledged a packet sent to it on the port over 8 broadcast slots is dropped until the next
generation, and what it has not acknowledged is failed for it alone. -/
def execBroadcastMemberDrop (port member : Nat) (s : State) : Out :=
  let late := fun (o : OutPkt) => o.castDue member && o.ports.contains port
  if s.net.dropped.contains (port, member) = false ∧ s.net.out.any late then
    let out := s.net.out.map (fun o => { o with bcast := o.bcast.map (fun ms => ms.filter (fun m => m != member)) })
    let s1 := { s with net := { s.net with dropped := (port, member) :: s.net.dropped, out := out.filter (fun o => o.bcast != some []) } }
    .next ((s.net.out.filter (fun o => match o.bcast with
      | some ms => ms.contains member
      | none => false)).foldl failMember s1)
  else notNow

/-! Steering and generations (R377, R386). -/

/-- CYCLE_STEER (R377, R379): once a cycle the boundaries move toward the reference by the estimate, at most 250 ps. -/
def execCycleSteer (s : State) : Out :=
  match s.net.cal, s.net.offset with
  | some _, some x =>
    if s.net.synced = false ∨ s.net.steered ∨ isRef s then notNow
    else
      let d := max (-250) (min 250 x)
      .next (serveOpen { s with net := align { s.net with offset := some (x - d), steered := true } })
  | _, _ => notNow

/-- The packages that a generation's DIRECT entries join. -/
def joined (c : Cal) (q : Nat) : Bool := c.entries.any (fun e => e.v && !e.bcast && e.peer == q)

/-- The plans that a port's entries use in a generation (R390). -/
def Cal.plansOf (c : Cal) (port : Nat) : List Nat :=
  ((((List.range c.s).map (fun k => c.entry k port)).filter (fun e => e.v)).map (fun e => e.plan)).eraseDups

/-- A port starts training on some plans (R390). -/
def Port.train (p : Port) (need : List Nat) : Port :=
  { p with st := .training, cur := Bank.dark, need := need, seen := [], faults := 0,
           spare := match need with
             | x :: _ => { st := .tuning, plan := x, tries := 0 }
             | [] => Bank.dark }

/-- A port in TRAINING starts anew on the plans of the generation that comes into force (R390, assumption log 85). -/
def Port.retrain (c : Cal) (p : Port × Nat) : Port := if p.1.st = .training then p.1.train (c.plansOf p.2) else p.1

/-- A generation comes into force (R386): a reference is its own time. -/
def enterGen (s : State) (c : Cal) : State :=
  let ref := c.ref == s.pkgId.toNat
  let moved := match s.net.cal with
    | some o => o.ref != c.ref
    | none => true
  let hops := if ref then some 0 else if moved then none else s.net.hops
  let offset := if ref then some 0 else s.net.offset
  let via := if moved || (s.net.via.any (fun q => !joined c q)) then none else s.net.via
  let n := { s.net with cal := some c, staged := none, cut := [], dropped := [], hops := hops, offset := offset, via := via }
  { s with net := align { n with taken := [], credit := [], used := [], ports := n.ports.zipIdx.map (Port.retrain c) } }

/-- The generation in force has a root entry of the package, on a port that is not dark, whose record names each of some members (R383, R390). -/
def castJoined (s : State) (c : Cal) (ms : List Nat) : Bool :=
  c.bcasts.any (fun b => (liveEntries s).any (fun e => e.1 == b.slot && e.2.1 == b.port && e.2.2.bcast && e.2.2.peer == s.pkgId.toNat)
    && ms.all (fun q => b.members.contains q))

/-- A queued packet whose hop destination the new generation does not join (R382, R386): transit is drawn again, or goes back to its
origin from an intermediate; every other packet is failed, one of the broadcast queue where no record reaches the members that have not
acknowledged it (assumption log 44). -/
def rehome (c : Cal) (s : State) (o : OutPkt) : State :=
  if o.relayed ∨ !(directSlots s o.pkt.hop).isEmpty then s
  else match o.bcast with
  | some ms => if castJoined s c ms then s else failOut s o
  | none =>
    let drop := { s with net := { s.net with out := s.net.out.filter (fun x => x.id != o.id || x.foreign != o.foreign) } }
    let put := fun (s : State) (x : OutPkt) => { s with net := { s.net with out := s.net.out ++ [x] } }
    if o.foreign then
      put drop { o with pkt := { o.pkt with hop := o.pkt.src }, sent := 0, port := none, fly := false, ports := [] }
    else if o.pkt.transit then
      match transitVia s o.pkt.dst with
      | v :: vs =>
        let d := drawBelow drop (vs.length + 1)
        put d.2 { o with pkt := { o.pkt with hop := (v :: vs).getD d.1 o.pkt.dst }, sent := 0, port := none, fly := false, ports := [] }
      | [] =>
        if !(directSlots s o.pkt.dst).isEmpty then
          put drop { o with pkt := { o.pkt with hop := o.pkt.dst, transit := false }, sent := 0, port := none, fly := false, ports := [] }
        else failOut s o
    else failOut s o

/-- GENERATION_CHANGE (R386): at the boundary of slot 0 of cycle START the staged image comes into force. -/
def execGenerationChange (s : State) : Out :=
  match s.net.cal, stagedDue s with
  | some c, some n =>
    if s.net.inData = false ∨ s.net.synced = false ∨ slotOpen s c then notNow
    else
      let s1 := enterGen (boundary s c n 0) n
      .next (s1.net.out.foldl (rehome n) s1)
  | _, _ => notNow

end Sys2Proof.Machine
end

