-- ==== Sys2Proof/Machine/CalCmds.lean ====
section
/-! DEFINITION. CalCmds.lean: the host commands of the Orrery: CAL_LOAD (R368–R370, R378, R383, R385), PORT_DRAIN and PORT_RETRAIN
(R390), CAL_STATUS (R391). -/
namespace Sys2Proof.Machine

/-! The calendar image (R368). -/

/-- The bytes of an image from an offset on, translated 4 KiB at a time in the command's address space; none where a translation is
refused or the data holds an uncorrectable error (R385). -/
def imageBytes (s : State) (asid : Nat) (a : DWord) (n : Nat) : Option (List Byte) :=
  (List.range (cdiv n 4096)).foldr (fun i acc =>
    let m := min 4096 (n - 4096 * i)
    match acc, hostAddrKey s asid (a + BitVec.ofNat 64 (4096 * i)) .read with
    | some bs, .ok key => if poisoned s key m then none else some (memRead s.mem m key ++ bs)
    | _, _ => none) (some [])

def entryOf (x : Nat) : Entry := { v := bitsN x 31 31 == 1, bcast := bitsN x 30 30 == 1, peer := bitsN x 15 6, plan := bitsN x 5 0 }

/-- A broadcast member record (R383). -/
def bcastOf (b : List Byte) : Bcast :=
  { slot := hdrN b 0 1, port := hdrN b 1 1,
    members := (List.range 1024).filter (fun k => ofBytes ((b.drop (8 + k / 8)).take 1) / 2 ^ (k % 8) % 2 == 1) }

/-- The header of an image keeps its limits (R368). -/
def calHeaderOk (h : List Byte) : Bool :=
  let S := hdrN h 0x10 2
  hdrN h 0 4 == 0x5952524F && decide (1 ≤ S) && decide (S ≤ 64) && decide (1500 ≤ hdrN h 0x12 2)
    && decide (64 ≤ hdrN h 0x14 2) && decide (hdrN h 0x14 2 ≤ 1000) && decide (hdrN h 0x16 2 ≤ 1000)
    && decide (1 ≤ hdrN h 0x18 2) && decide (hdrN h 0x18 2 ≤ 1024) && decide (hdrN h 0x1A 2 < hdrN h 0x18 2)
    && decide (hdrN h 0x1C 2 ≤ 64 * S) && hdrZero h 0x1E 34
    && decide (1300 + 8 + hdrN h 0x14 2 + hdrN h 0x16 2 ≤ hdrN h 0x12 2)

/-- The length of an image by its header. -/
def calLen (h : List Byte) : Nat := 0x240 + 256 * hdrN h 0x10 2 + 136 * hdrN h 0x1C 2

def parseCal (b : List Byte) : Cal :=
  let S := hdrN b 0x10 2
  { gen := BitVec.ofNat 32 (hdrN b 4 4), start := hdrN b 8 8, s := S, slotLen := hdrN b 0x12 2, guard := hdrN b 0x14 2,
    flight := hdrN b 0x16 2, npkg := hdrN b 0x18 2, ref := hdrN b 0x1A 2,
    plans := (List.range 64).map (fun i => hdrN b (0x40 + 8 * i) 8),
    entries := (List.range (64 * S)).map (fun i => entryOf (hdrN b (0x240 + 4 * i) 4)),
    bcasts := (List.range (hdrN b 0x1C 2)).map (fun i => bcastOf (b.drop (0x240 + 256 * S + 136 * i))) }

/-- A plan is unused, or has 16 to 64 bits set (R370): one that no entry names too, since only 0 marks an unused index. -/
def planOk (x : Nat) : Bool := x == 0 || decide (16 ≤ popcount64 x)

/-- A word of the entry table is an entry (R369, R370): zero without V; with it a plan of 16 to 64 wavelengths, a peer of the pod, not
the package itself on a DIRECT one. -/
def entryOk (me : Nat) (c : Cal) (x : Nat) : Bool :=
  let e := entryOf x
  if e.v then bitsN x 29 16 == 0 && decide (16 ≤ popcount64 (c.plans.getD e.plan 0)) && decide (e.peer < c.npkg) && (e.bcast || e.peer != me)
  else x == 0

/-- The entries that make a port a root, by slot and port (R383). -/
def rootEntries (me : Nat) (c : Cal) : List (Nat × Nat) :=
  (c.entries.zipIdx.filter (fun e => e.1.v && e.1.bcast && e.1.peer == me)).map (fun e => (e.2 / 64, e.2 % 64))

/-- The member records suit the entries (R383): one for each root entry, every member joined by a DIRECT entry. -/
def bcastsOk (me : Nat) (c : Cal) (b : List Byte) : Bool :=
  let base := 0x240 + 256 * c.s
  (rootEntries me c).all (fun r => (c.bcasts.filter (fun x => (x.slot, x.port) == r)).length == 1)
    && c.bcasts.zipIdx.all (fun x => decide (x.1.slot < c.s) && decide (x.1.port < 64) && hdrZero b (base + 136 * x.2 + 2) 6
        && (!(rootEntries me c).contains (x.1.slot, x.1.port) || x.1.members.all (joined c)))

/-- What reading an image comes to: a status of R385, or the image. -/
def readCal (s : State) (asid : Nat) (a : DWord) : Except Nat Cal :=
  if addrTag a ≠ 0 ∨ tagOk a = false ∨ a.toNat % 4096 ≠ 0 then .error 1
  else match imageBytes s asid a 0x240 with
  | none => .error 8
  | some h =>
    if calHeaderOk h = false then .error 1
    else match imageBytes s asid a (calLen h) with
    | none => .error 8
    | some b =>
      let c := parseCal b
      let words := (List.range (64 * c.s)).map (fun i => hdrN b (0x240 + 4 * i) 4)
      if c.plans.all planOk && words.all (entryOk s.pkgId.toNat c) && bcastsOk s.pkgId.toNat c b then .ok c else .error 1

/-- Count the uncorrectable error that reading an image meets, if any (R442). -/
def countImage (s : State) (asid : Nat) (a : DWord) : State := match imageBytes s asid a 0x240 with
  | none => countReads s asid 8 72 a
  | some h => countReads s asid 8 (calLen h / 8) a

/-- The status of an image that has been read (R385); 0 where it is staged. -/
def calCheck (s : State) (c : Cal) : Nat :=
  let d := (c.gen - calGen s).toNat
  if s.net.cal.isSome ∧ c.start ≤ s.calCycle.toNat + 1 then 2
  else if d = 0 ∨ 2 ^ 31 ≤ d then 3
  else if s.net.staged.isSome then 4
  else 0

/-- A port at the first generation (R378, R390): ACTIVE where it has a valid entry; the bank of its slot 0 entry starts tuning. -/
def firstPort (c : Cal) (p : Port × Nat) : Port :=
  let used := (List.range c.s).any (fun k => (c.entry k p.2).v)
  let e := c.entry 0 p.2
  if used then { p.1 with st := .active, cur := if e.v then { st := .tuning, plan := e.plan, tries := 0 } else p.1.cur } else p.1

/-- The first generation of a package takes effect at once (R378): the reference begins cycle 0, any other package is
unsynchronised. -/
def firstGen (s : State) (c : Cal) : State :=
  let s1 := enterGen s c
  let ports := s1.net.ports.zipIdx.map (firstPort c)
  let s2 := { s1 with calSlot := 0, calCycle := 0, net := { s1.net with synced := c.ref == s.pkgId.toNat, inData := false, steered := false, ports := ports } }
  if s2.net.synced then s2 else sendPreambles s2

/-- CAL_LOAD (R385). -/
def execCalLoad (src : CmdSrc) (s : State) : Out :=
  runCmd s src 5 (fun _ => true) (fun c s =>
    match readCal s c.asid (c.ptr 0x08) with
    | .error code => .next (completeCmd (if code = 8 then countImage s c.asid (c.ptr 0x08) else s) c 0 code 0)
    | .ok cal =>
      let code := calCheck s cal
      if code ≠ 0 then .next (completeCmd s c 0 code 0)
      else
        let s1 := if s.net.cal.isNone then firstGen s cal else { s with net := { s.net with staged := some cal } }
        .next (completeCmd s1 c 0 0 0))

/-! Ports (R390). -/

def HostCmd.port (c : HostCmd) : Nat := (c.word 0x08).toNat

/-- PORT_DRAIN (R390): an ACTIVE port drains from the next boundary on; the command completes when it is DRAINED. -/
def execPortDrain (src : CmdSrc) (s : State) : Out :=
  runCmd s src 6 (fun c => decide (c.port < 64)) (fun c s =>
    match s.net.ports[c.port]? with
    | some p =>
      if p.st = .active then .next (keepCmd (s.modPort c.port (fun p => { p with drainReq := true })) c (.drain c.port))
      else .next (completeCmd s c 0 5 0)
    | none => .next (completeCmd s c 0 5 0))

/-- The plans that a port's entries use in the current generation. -/
def portPlans (s : State) (port : Nat) : List Nat := match s.net.cal with
  | some c => c.plansOf port
  | none => []

/-- PORT_RETRAIN (R390): a DRAINED or FAILED port trains; the command completes when it is ACTIVE or has failed. -/
def execPortRetrain (src : CmdSrc) (s : State) : Out :=
  runCmd s src 7 (fun c => decide (c.port < 64)) (fun c s =>
    match s.net.ports[c.port]? with
    | some p =>
      if p.st = .drained ∨ p.st = .failed then
        .next (keepCmd (s.modPort c.port (fun p => p.train (portPlans s c.port))) c (.retrain c.port))
      else .next (completeCmd s c 0 5 0)
    | none => .next (completeCmd s c 0 5 0))

/-! CAL_STATUS (R391). -/

def PortSt.code : PortSt → Nat
  | .active => 0
  | .draining => 1
  | .drained => 2
  | .training => 3
  | .failed => 4

/-- The lock state of a port: the first of FAULT, TUNING, LOCKED and DARK that its banks hold (R372). -/
def portLock (p : Port) : Nat :=
  let bs := [p.cur.st, p.spare.st]
  if bs.contains .fault then 3 else if bs.contains .tuning then 1 else if bs.contains .locked then 2 else 0

def portRecord (p : Port) : List Byte :=
  bytesOf 1 (p.st.code + 8 * portLock p) ++ bytesOf 1 p.lastLit ++ bytesOf 2 p.preErr ++ bytesOf 4 p.crcErr ++ bytesOf 4 p.resent ++ bytesOf 4 p.noData

/-- The block of R391: 1,088 bytes. -/
def calBlock (s : State) : List Byte :=
  let staged : Word := match s.net.staged with
    | some c => c.gen
    | none => 0
  let state := (if s.net.aligned then 1 else 0) + 2 * (s.net.hops.getD 0 % 16)
  bytesOf 4 (calGen s).toNat ++ bytesOf 4 (lowestOpen s).toNat ++ bytesOf 4 staged.toNat ++ bytesOf 4 (calOffset s).toNat
    ++ bytesOf 8 s.calCycle.toNat ++ bytesOf 4 state ++ bytesOf 36 0 ++ s.net.ports.flatMap portRecord

/-- CAL_STATUS. -/
def execCalStatus (src : CmdSrc) (s : State) : Out :=
  runCmd s src 8 (fun c => tag02 (c.ptr 0x08)) (fun c s =>
    match writeBuffer s c.asid (c.ptr 0x08) (calBlock s) with
    | .ok s' => .next (completeCmd s' c 0 0 0)
    | .error s' => .next (completeCmd s' c 0 badCommand 0))

end Sys2Proof.Machine
end

