-- ==== Sys2Proof/Machine/Fence.lean ====
section
/-! DEFINITION. Fence.lean: FENCE and CCTL (R193, R213–R217). -/
namespace Sys2Proof.Machine

/-- A fence of a kind and scope: the thread waits for its condition. -/
def fence (h : Bool) (kind : Nat) (b : BitVec 7) (s : State) : Out :=
  issueWith h s (fun _ s => .ok (.wait s (.fence kind b.toNat s.nextId)))

/-- FENCE.ACQ (R193). -/
def execFenceAcq (h : Bool) (b : BitVec 7) (s : State) : Out := fence h 0 b s
/-- FENCE.REL (R193). -/
def execFenceRel (h : Bool) (b : BitVec 7) (s : State) : Out := fence h 1 b s
/-- FENCE.AR (R193). -/
def execFenceAr (h : Bool) (b : BitVec 7) (s : State) : Out := fence h 2 b s
/-- FENCE.SC (R193). -/
def execFenceSc (h : Bool) (b : BitVec 7) (s : State) : Out := fence h 3 b s
/-- FENCE.DRAIN (R193). -/
def execFenceDrain (h : Bool) (b : BitVec 7) (s : State) : Out := fence h 4 b s

/-- The copies that a prefetch brings in (R215), none where any check fails: into the RDC of the issuer's die if the line's home is another die, and
with `l1` into the core's L1. It reads the line at its home unless the RDC holds it; an uncorrectable error in that read, or in the walk, is
counted (R324, R442), and the line is brought in nowhere (assumption log 73). -/
def prefetch (s : State) (c : Ctx) (a : DWord) (l1 : Bool) : State :=
  if tagOk a ∧ addrTag a = 0 then
    match translate s (addrDie a) c.l.asid (addrOff a) .read with
    | .error _ => countWalk s (addrDie a) c.l.asid (addrOff a)
    | .ok (lvl, e) =>
      let line := a.toNat / 128
      let k0 := hbmKey (addrDie a) (physOf lvl e (addrOff a)) / 128 * 128
      let far := addrDie a != c.g.die && leafKind e != 0
      let toL1 := fun (s : State) (x : Copy) =>
        if l1 && (findCopy s.l1 c.g.core c.l.asid line).isNone then { s with l1 := putCopyIn l1Lines s.l1 { x with holder := c.g.core } } else s
      let clear := dropNames s c.g.core k0 (some (c.l.asid, line))
      match (if far then findCopy s.rdc c.g.die c.l.asid line else none) with
      | some x => toL1 clear x
      | none =>
        if poisoned s k0 128 then countErr s k0
        else if leafKind e = 0 then s
        else
          let cp : Copy := { holder := c.g.die, asid := c.l.asid, line := line, kind := leafKind e, place := k0 / 128, data := memRead s.mem 128 k0 }
          toL1 (if far then { clear with rdc := putCopyIn rdcLines clear.rdc cp } else clear) cp
  else s

/-- A prefetch never traps (R215). -/
def prefWord (h l1 : Bool) (a : BitVec 7) (s : State) : Out :=
  issue h 0 s (fun c s => match src64 c a with
    | .ok x => .done (prefetch s c x l1)
    | .error _ => .done s)

/-- PREF (R215). -/
def execPref (h : Bool) (a : BitVec 7) (s : State) : Out := prefWord h false a s
/-- PREFL1 (R215). -/
def execPrefl1 (h : Bool) (a : BitVec 7) (s : State) : Out := prefWord h true a s

/-- INVL1 (R216). -/
def execInvl1 (h : Bool) (a : BitVec 7) (l : Bool) (s : State) : Out :=
  issueWith h s (fun c s => do
    let x ← src64 c a
    require (l || tagOk x) (trapAt c.th.pc addressSpace x 0 0)
    if l then .ok (.done { s with l1 := s.l1.filter (fun y => y.holder != c.g.core) })
    else if addrTag x = 0 then .ok (.done { s with l1 := dropCopy s.l1 c.g.core c.l.asid (x.toNat / 128) })
    else .ok (.done s))

/-- RDCINV (R216): it waits until the writes the buffer holds for the line have been sent. -/
def execRdcinv (h : Bool) (a : BitVec 7) (l : Bool) (s : State) : Out :=
  issueWith h s (fun c s => do
    let x ← src64 c a
    require (tagOk x) (trapAt c.th.pc addressSpace x 0 0)
    if l ∨ addrTag x = 0 then .ok (.wait s (.rdcinv x l)) else .ok (.done s))

/-- LEMPTY and LFULL (R217). -/
def lineWord (h full : Bool) (a n : BitVec 7) (s : State) : Out :=
  issueWith h s (fun c s => do
    let x ← src64 c a
    require (tagOk x && (addrTag x == 1 || addrTag x == 5)) (trapAt c.th.pc addressSpace x 0 0)
    require (decide (localOff x / 128 * 128 + 128 * (n.toNat + 1) ≤ localLen c.l c.g x)) (trapAt c.th.pc scratchRange x 0 0)
    .ok (.done (access { s with nextId := s.nextId + n.toNat } c x .none (.lineSet full (n.toNat + 1)))))

/-- LEMPTY (R217). -/
def execLempty (h : Bool) (a n : BitVec 7) (s : State) : Out := lineWord h false a n s
/-- LFULL (R217). -/
def execLfull (h : Bool) (a n : BitVec 7) (s : State) : Out := lineWord h true a n s

end Sys2Proof.Machine
end

