-- ==== Sys2Proof/Machine/Flags.lean ====
section
/-! DEFINITION. Flags.lean: the conditions that compares compute and how they enter a predicate (R82, R83, R112, R121).
The part has no other flags. -/
namespace Sys2Proof.Machine

/-- The 32-bit conditions 0–9 of R82. -/
def icmpCond (code : Nat) (x y : Word) : Bool :=
  match code with
  | 0 => x == y
  | 1 => x != y
  | 2 => decide (x.toInt < y.toInt)
  | 3 => decide (x.toInt ≤ y.toInt)
  | 4 => decide (y.toInt < x.toInt)
  | 5 => decide (y.toInt ≤ x.toInt)
  | 6 => decide (x.toNat < y.toNat)
  | 7 => decide (x.toNat ≤ y.toNat)
  | 8 => decide (y.toNat < x.toNat)
  | _ => decide (y.toNat ≤ x.toNat)

/-- How a condition enters a predicate (R82): the combine code. -/
def combine (code : BitVec 2) (p t : Bool) : Bool :=
  match code.toNat with
  | 0 => t
  | 1 => p && t
  | 2 => p || t
  | _ => !t

/-- Enter a condition into predicate `p` by combine code `code`. -/
def setCond (c : Ctx) (code : BitVec 2) (p : BitVec 3) (t : Bool) : Ctx := c.setPred p (combine code (c.pred p) t)

/-- A compare of two registers. -/
def cmp32 (f : Word → Word → Bool) (code : BitVec 2) (p : BitVec 3) (a b : BitVec 7) (c : Ctx) : Res Ctx := do
  let x ← src32 c a
  let y ← src32 c b
  .ok (setCond c code p (f x y))

/-- A compare of two pairs. -/
def cmp64 (f : DWord → DWord → Bool) (code : BitVec 2) (p : BitVec 3) (a b : BitVec 7) (c : Ctx) : Res Ctx := do
  let x ← src64 c a
  let y ← src64 c b
  .ok (setCond c code p (f x y))

def fcmp32 (minor : Nat) (x y : Word) : Bool := fcmpCond minor (cmpF fp32 x.toNat y.toNat)
def fcmp64 (minor : Nat) (x y : DWord) : Bool := fcmpCond minor (cmpF fp64 x.toNat y.toNat)

end Sys2Proof.Machine
end

