-- ==== Sys2Proof/Machine/Fp.lean ====
section
/-! DEFINITION. Fp.lean: the floating-point and conversion instructions (spec/06_float_instructions.md). -/
namespace Sys2Proof.Machine

/-- fadd (R107): d := a + b. -/
def execFadd (h : Bool) (d a b : BitVec 7) (s : State) : Out :=
  issueReg h s (op2 fpAdd d a b)

/-- fsub (R107): d := a − b. -/
def execFsub (h : Bool) (d a b : BitVec 7) (s : State) : Out :=
  issueReg h s (op2 fpSub d a b)

/-- fmul (R107): d := a × b. -/
def execFmul (h : Bool) (d a b : BitVec 7) (s : State) : Out :=
  issueReg h s (op2 fpMul d a b)

/-- fmin (R108): the lesser, NaN if either is NaN. -/
def execFmin (h : Bool) (d a b : BitVec 7) (s : State) : Out :=
  issueReg h s (op2 fpMin d a b)

/-- fmax (R108): the greater, NaN if either is NaN. -/
def execFmax (h : Bool) (d a b : BitVec 7) (s : State) : Out :=
  issueReg h s (op2 fpMax d a b)

/-- fminn (R108): the lesser, a number if either is one. -/
def execFminn (h : Bool) (d a b : BitVec 7) (s : State) : Out :=
  issueReg h s (op2 fpMinN d a b)

/-- fmaxn (R108): the greater, a number if either is one. -/
def execFmaxn (h : Bool) (d a b : BitVec 7) (s : State) : Out :=
  issueReg h s (op2 fpMaxN d a b)

/-- fabs (R107): a with [31] cleared. -/
def execFabs (h : Bool) (d a : BitVec 7) (s : State) : Out :=
  issueReg h s (op1 fpAbs d a)

/-- fneg (R107): a with [31] inverted. -/
def execFneg (h : Bool) (d a : BitVec 7) (s : State) : Out :=
  issueReg h s (op1 fpNeg d a)

/-- fcpsgn (R107): a with the sign of b. -/
def execFcpsgn (h : Bool) (d a b : BitVec 7) (s : State) : Out :=
  issueReg h s (op2 fpCpsgn d a b)

/-- ffloor (R108): a rounded to an integral value (RD). -/
def execFfloor (h : Bool) (d a : BitVec 7) (s : State) : Out :=
  issueReg h s (op1 (fpIntegral .rd) d a)

/-- fceil (R108): a rounded to an integral value (RU). -/
def execFceil (h : Bool) (d a : BitVec 7) (s : State) : Out :=
  issueReg h s (op1 (fpIntegral .ru) d a)

/-- ftrunc (R108): a rounded to an integral value (RZ). -/
def execFtrunc (h : Bool) (d a : BitVec 7) (s : State) : Out :=
  issueReg h s (op1 (fpIntegral .rz) d a)

/-- frint (R108): a rounded to an integral value (RNE). -/
def execFrint (h : Bool) (d a : BitVec 7) (s : State) : Out :=
  issueReg h s (op1 (fpIntegral .rne) d a)

/-- ffrac (R108): a − FTRUNC(a). -/
def execFfrac (h : Bool) (d a : BitVec 7) (s : State) : Out :=
  issueReg h s (op1 fpFrac d a)

/-- fscale (R108): a × 2^sext(b). -/
def execFscale (h : Bool) (d a b : BitVec 7) (s : State) : Out :=
  issueReg h s (op2 fpScale d a b)

/-- ffma (R109): round(a × b + d). -/
def execFfma (h : Bool) (d a b : BitVec 7) (s : State) : Out :=
  issueReg h s (op3 fpFma d a b)

/-- ffms (R109): round(a × b − d). -/
def execFfms (h : Bool) (d a b : BitVec 7) (s : State) : Out :=
  issueReg h s (op3 fpFms d a b)

/-- fnfma (R109): −round(a × b + d). -/
def execFnfma (h : Bool) (d a b : BitVec 7) (s : State) : Out :=
  issueReg h s (op3 (fun x y z => negRes (fpFma x y z)) d a b)

/-- fnfms (R109): −round(a × b − d). -/
def execFnfms (h : Bool) (d a b : BitVec 7) (s : State) : Out :=
  issueReg h s (op3 (fun x y z => negRes (fpFms x y z)) d a b)

/-- hadd2 (R110): per element of the pair of 16-bit values. -/
def execHadd2 (h : Bool) (d a b : BitVec 7) (s : State) : Out :=
  issueReg h s (op2 (fun x y => pack2 (hAdd fp16) x y 0) d a b)

/-- hsub2 (R110): per element of the pair of 16-bit values. -/
def execHsub2 (h : Bool) (d a b : BitVec 7) (s : State) : Out :=
  issueReg h s (op2 (fun x y => pack2 (hSub fp16) x y 0) d a b)

/-- hmul2 (R110): per element of the pair of 16-bit values. -/
def execHmul2 (h : Bool) (d a b : BitVec 7) (s : State) : Out :=
  issueReg h s (op2 (fun x y => pack2 (hMul fp16) x y 0) d a b)

/-- hfma2 (R110): per element, round(a × b + d). -/
def execHfma2 (h : Bool) (d a b : BitVec 7) (s : State) : Out :=
  issueReg h s (op3 (pack2 (hFma fp16)) d a b)

/-- hmin2 (R110): per element of the pair of 16-bit values. -/
def execHmin2 (h : Bool) (d a b : BitVec 7) (s : State) : Out :=
  issueReg h s (op2 (fun x y => pack2 (hMin fp16) x y 0) d a b)

/-- hmax2 (R110): per element of the pair of 16-bit values. -/
def execHmax2 (h : Bool) (d a b : BitVec 7) (s : State) : Out :=
  issueReg h s (op2 (fun x y => pack2 (hMax fp16) x y 0) d a b)

/-- badd2 (R110): per element of the pair of 16-bit values. -/
def execBadd2 (h : Bool) (d a b : BitVec 7) (s : State) : Out :=
  issueReg h s (op2 (fun x y => pack2 (hAdd bf16) x y 0) d a b)

/-- bsub2 (R110): per element of the pair of 16-bit values. -/
def execBsub2 (h : Bool) (d a b : BitVec 7) (s : State) : Out :=
  issueReg h s (op2 (fun x y => pack2 (hSub bf16) x y 0) d a b)

/-- bmul2 (R110): per element of the pair of 16-bit values. -/
def execBmul2 (h : Bool) (d a b : BitVec 7) (s : State) : Out :=
  issueReg h s (op2 (fun x y => pack2 (hMul bf16) x y 0) d a b)

/-- bfma2 (R110): per element, round(a × b + d). -/
def execBfma2 (h : Bool) (d a b : BitVec 7) (s : State) : Out :=
  issueReg h s (op3 (pack2 (hFma bf16)) d a b)

/-- bmin2 (R110): per element of the pair of 16-bit values. -/
def execBmin2 (h : Bool) (d a b : BitVec 7) (s : State) : Out :=
  issueReg h s (op2 (fun x y => pack2 (hMin bf16) x y 0) d a b)

/-- bmax2 (R110): per element of the pair of 16-bit values. -/
def execBmax2 (h : Bool) (d a b : BitVec 7) (s : State) : Out :=
  issueReg h s (op2 (fun x y => pack2 (hMax bf16) x y 0) d a b)

/-- hdot2 (R111): d := a.0 × b.0 + a.1 × b.1 + d, FP16 elements. -/
def execHdot2 (h : Bool) (d a b : BitVec 7) (s : State) : Out :=
  issueReg h s (op3 (dot2 fp16) d a b)

/-- bdot2 (R111): d := a.0 × b.0 + a.1 × b.1 + d, BF16 elements. -/
def execBdot2 (h : Bool) (d a b : BitVec 7) (s : State) : Out :=
  issueReg h s (op3 (dot2 bf16) d a b)

/-- fcmpOeq (R112): an FP32 condition into a predicate. -/
def execFcmpOeq (h : Bool) (k : BitVec 2) (p : BitVec 3) (a b : BitVec 7) (s : State) : Out :=
  issueReg h s (cmp32 (fcmp32 0) k p a b)

/-- fcmpOne (R112): an FP32 condition into a predicate. -/
def execFcmpOne (h : Bool) (k : BitVec 2) (p : BitVec 3) (a b : BitVec 7) (s : State) : Out :=
  issueReg h s (cmp32 (fcmp32 1) k p a b)

/-- fcmpOlt (R112): an FP32 condition into a predicate. -/
def execFcmpOlt (h : Bool) (k : BitVec 2) (p : BitVec 3) (a b : BitVec 7) (s : State) : Out :=
  issueReg h s (cmp32 (fcmp32 2) k p a b)

/-- fcmpOle (R112): an FP32 condition into a predicate. -/
def execFcmpOle (h : Bool) (k : BitVec 2) (p : BitVec 3) (a b : BitVec 7) (s : State) : Out :=
  issueReg h s (cmp32 (fcmp32 3) k p a b)

/-- fcmpOgt (R112): an FP32 condition into a predicate. -/
def execFcmpOgt (h : Bool) (k : BitVec 2) (p : BitVec 3) (a b : BitVec 7) (s : State) : Out :=
  issueReg h s (cmp32 (fcmp32 4) k p a b)

/-- fcmpOge (R112): an FP32 condition into a predicate. -/
def execFcmpOge (h : Bool) (k : BitVec 2) (p : BitVec 3) (a b : BitVec 7) (s : State) : Out :=
  issueReg h s (cmp32 (fcmp32 5) k p a b)

/-- fcmpUno (R112): an FP32 condition into a predicate. -/
def execFcmpUno (h : Bool) (k : BitVec 2) (p : BitVec 3) (a b : BitVec 7) (s : State) : Out :=
  issueReg h s (cmp32 (fcmp32 6) k p a b)

/-- fcmpOrd (R112): an FP32 condition into a predicate. -/
def execFcmpOrd (h : Bool) (k : BitVec 2) (p : BitVec 3) (a b : BitVec 7) (s : State) : Out :=
  issueReg h s (cmp32 (fcmp32 7) k p a b)

/-- fcmpUeq (R112): an FP32 condition into a predicate. -/
def execFcmpUeq (h : Bool) (k : BitVec 2) (p : BitVec 3) (a b : BitVec 7) (s : State) : Out :=
  issueReg h s (cmp32 (fcmp32 8) k p a b)

/-- fcmpUne (R112): an FP32 condition into a predicate. -/
def execFcmpUne (h : Bool) (k : BitVec 2) (p : BitVec 3) (a b : BitVec 7) (s : State) : Out :=
  issueReg h s (cmp32 (fcmp32 9) k p a b)

/-- fcmpUlt (R112): an FP32 condition into a predicate. -/
def execFcmpUlt (h : Bool) (k : BitVec 2) (p : BitVec 3) (a b : BitVec 7) (s : State) : Out :=
  issueReg h s (cmp32 (fcmp32 10) k p a b)

/-- fcmpUle (R112): an FP32 condition into a predicate. -/
def execFcmpUle (h : Bool) (k : BitVec 2) (p : BitVec 3) (a b : BitVec 7) (s : State) : Out :=
  issueReg h s (cmp32 (fcmp32 11) k p a b)

/-- fcmpUgt (R112): an FP32 condition into a predicate. -/
def execFcmpUgt (h : Bool) (k : BitVec 2) (p : BitVec 3) (a b : BitVec 7) (s : State) : Out :=
  issueReg h s (cmp32 (fcmp32 12) k p a b)

/-- fcmpUge (R112): an FP32 condition into a predicate. -/
def execFcmpUge (h : Bool) (k : BitVec 2) (p : BitVec 3) (a b : BitVec 7) (s : State) : Out :=
  issueReg h s (cmp32 (fcmp32 13) k p a b)

/-- fcmpClass (R113): the bit of b that the class of a names, into a predicate. -/
def execFcmpClass (h : Bool) (k : BitVec 2) (p : BitVec 3) (a b : BitVec 7) (s : State) : Out :=
  issueReg h s (cmp32 (fun x y => bit y (fpClass x)) k p a b)

/-- An XFN of one operand: a variable-latency result (R114, R33). -/
def xfn1 (f : Nat → Nat) (d a : BitVec 7) (c : Ctx) : Res VarRes := do
  let dst ← dest c 1 d
  let x ← src32 c a
  uniRule c dst [a] false
  .ok { c := c, dst := dst, vals := [BitVec.ofNat 32 (f x.toNat)] }

/-- XFN.DIV: a variable-latency result (R114, R33). -/
def xfn2 (f : Nat → Nat → Nat) (d a b : BitVec 7) (c : Ctx) : Res VarRes := do
  let dst ← dest c 1 d
  let x ← src32 c a
  let y ← src32 c b
  uniRule c dst [a, b] false
  .ok { c := c, dst := dst, vals := [BitVec.ofNat 32 (f x.toNat y.toNat)] }

/-- xfnRcp (R114): 1 ÷ a. -/
def execXfnRcp (h : Bool) (d a : BitVec 7) (s : State) : Out :=
  issueVar h s (xfn1 xRcp d a)

/-- xfnRsq (R114): 1 ÷ √a. -/
def execXfnRsq (h : Bool) (d a : BitVec 7) (s : State) : Out :=
  issueVar h s (xfn1 xRsq d a)

/-- xfnSqrt (R114): √a. -/
def execXfnSqrt (h : Bool) (d a : BitVec 7) (s : State) : Out :=
  issueVar h s (xfn1 xSqrt d a)

/-- xfnExp2 (R114): 2^a. -/
def execXfnExp2 (h : Bool) (d a : BitVec 7) (s : State) : Out :=
  issueVar h s (xfn1 xExp2 d a)

/-- xfnLog2 (R114): log2 a. -/
def execXfnLog2 (h : Bool) (d a : BitVec 7) (s : State) : Out :=
  issueVar h s (xfn1 xLog2 d a)

/-- xfnSinpi (R114): sin(π·a). -/
def execXfnSinpi (h : Bool) (d a : BitVec 7) (s : State) : Out :=
  issueVar h s (xfn1 xSinpi d a)

/-- xfnCospi (R114): cos(π·a). -/
def execXfnCospi (h : Bool) (d a : BitVec 7) (s : State) : Out :=
  issueVar h s (xfn1 xCospi d a)

/-- xfnTanh (R114): tanh a. -/
def execXfnTanh (h : Bool) (d a : BitVec 7) (s : State) : Out :=
  issueVar h s (xfn1 xTanh d a)

/-- xfnDiv (R114): a ÷ b. -/
def execXfnDiv (h : Bool) (d a b : BitVec 7) (s : State) : Out :=
  issueVar h s (xfn2 xDiv d a b)

/-- xfnSigm (R114): 1 ÷ (1 + e^−a). -/
def execXfnSigm (h : Bool) (d a : BitVec 7) (s : State) : Out :=
  issueVar h s (xfn1 xSigm d a)

/-- xfnExp (R114): e^a. -/
def execXfnExp (h : Bool) (d a : BitVec 7) (s : State) : Out :=
  issueVar h s (xfn1 xExp d a)

/-- xfnLog (R114): ln a. -/
def execXfnLog (h : Bool) (d a : BitVec 7) (s : State) : Out :=
  issueVar h s (xfn1 xLog d a)

/-! CVT (R116–R119). -/

/-- Capability bits 1 and 13 (R132): FP64, and stochastic rounding. -/
def cvtFeatures (c : Ctx) (fp : Bool) (r : BitVec 3) : Res Unit :=
  require ((!fp || c.l.has 1) && (r != 5 || c.l.has 13)) c.illegal

/-- The rounding mode of element `j` (R102, R104). -/
def cvtRnd (c : Ctx) (r : BitVec 3) (j : Nat) : Rnd := rndOf r.toNat c.th.srseed c.t.lane j

/-- SRSEED after a CVT whose rounding field is read as a mode (R105, R119). -/
def cvtSeed (c : Ctx) (r : BitVec 3) : Ctx :=
  if r = 5 then { c with th := { c.th with srseed := srNext c.th.srseed } } else c

def Ctx.nf (c : Ctx) (k : BitVec 3) : Nf := nfOf (c.g.nfRd.getD k.toNat 0)

/-- A CVT from one register to one register (R117). With SR and a uniform destination the draws of the members differ, and the one issued last stands
(DESIGN CHOICE, assumption log 88). -/
def cvt1 (f : Rnd → Word → Word) (d a : BitVec 7) (r : BitVec 3) (c : Ctx) : Res Ctx := do
  let dst ← dest c 1 d
  let x ← src32 c a
  uniRule c dst [a] false
  cvtFeatures c false r
  .ok (cvtSeed (c.write dst [f (cvtRnd c r 0) x]) r)

/-- A CVT from one register to an FP64 pair (R117). -/
def cvtTo64 (f : Word → DWord) (d a : BitVec 7) (r : BitVec 3) (c : Ctx) : Res Ctx := do
  let dst ← dest c 2 d
  let x ← src32 c a
  uniRule c dst [a] false
  cvtFeatures c true r
  .ok (cvtSeed (c.write64 dst (f x)) r)

/-- A CVT from an FP64 pair to one register (R117). -/
def cvtFrom64 (f : Rnd → DWord → Word) (d a : BitVec 7) (r : BitVec 3) (c : Ctx) : Res Ctx := do
  let dst ← dest c 1 d
  let x ← src64 c a
  uniRule c dst [a] false
  cvtFeatures c true r
  .ok (cvtSeed (c.write dst [f (cvtRnd c r 0) x]) r)

/-- The value of a signed or unsigned integer register. -/
def intVal (x : Int) : Val := .fin (x < 0) x.natAbs 0 false

/-- PACKN on registers (R118). -/
def packRegs (d a : BitVec 7) (k : BitVec 3) (sat : Bool) (r : BitVec 3) (c : Ctx) : Res Ctx := do
  let dst ← dest c 1 d
  let z ← src32 c d
  let xs ← src c 4 a
  uniRule c dst [d, a] false
  cvtFeatures c false r
  let n := c.nf k
  let codes := packCodes n (fun j => cvtRnd c r j) sat xs
  let v := if n.container = 8 then codes else z.toNat / 2 ^ 16 + codes * 2 ^ 16
  .ok (cvtSeed (c.write dst [BitVec.ofNat 32 v]) r)

/-- UNPKN on registers (R118): [2:0] of b selects a half. -/
def unpackRegs (d a : BitVec 7) (k : BitVec 3) (r : BitVec 3) (c : Ctx) : Res Ctx := do
  let dst ← dest c 4 d
  let x ← src32 c a
  uniRule c dst [a] false
  let n := c.nf k
  require (n.container == 8 || decide (r.toNat ≤ 1)) c.illegal
  let base := if n.container = 8 then 0 else 4 * r.toNat
  .ok (c.write dst ((List.range 4).map (fun j => f32 (decodeNf n (nfElem n x.toNat (base + j))))))

/-- f2i (R117): FP32 to a signed integer. -/
def execF2i (h : Bool) (d a : BitVec 7) (_k : BitVec 3) (_sat : Bool) (r : BitVec 3) (s : State) : Out :=
  issueReg h s (cvt1 (fun m x => BitVec.ofNat 32 (fitI true 32 0 m (v32 x))) d a r)

/-- f2u (R117): FP32 to an unsigned integer. -/
def execF2u (h : Bool) (d a : BitVec 7) (_k : BitVec 3) (_sat : Bool) (r : BitVec 3) (s : State) : Out :=
  issueReg h s (cvt1 (fun m x => BitVec.ofNat 32 (fitI false 32 0 m (v32 x))) d a r)

/-- i2f (R117): a signed integer to FP32. -/
def execI2f (h : Bool) (d a : BitVec 7) (_k : BitVec 3) (_sat : Bool) (r : BitVec 3) (s : State) : Out :=
  issueReg h s (cvt1 (fun m x => BitVec.ofNat 32 (fitF fp32 m false (intVal x.toInt))) d a r)

/-- u2f (R117): an unsigned integer to FP32. -/
def execU2f (h : Bool) (d a : BitVec 7) (_k : BitVec 3) (_sat : Bool) (r : BitVec 3) (s : State) : Out :=
  issueReg h s (cvt1 (fun m x => BitVec.ofNat 32 (fitF fp32 m false (intVal x.toNat))) d a r)

/-- f2h (R117): FP32 to FP16. -/
def execF2h (h : Bool) (d a : BitVec 7) (_k : BitVec 3) (sat : Bool) (r : BitVec 3) (s : State) : Out :=
  issueReg h s (cvt1 (fun m x => BitVec.ofNat 32 (fitF fp16 m sat (v32 x))) d a r)

/-- h2f (R117): FP16 to FP32, exact. -/
def execH2f (h : Bool) (d a : BitVec 7) (_k : BitVec 3) (_sat : Bool) (r : BitVec 3) (s : State) : Out :=
  issueReg h s (cvt1 (fun _ x => f32 (decodeF fp16 (lo16 x))) d a r)

/-- f2b (R117): FP32 to BF16. -/
def execF2b (h : Bool) (d a : BitVec 7) (_k : BitVec 3) (sat : Bool) (r : BitVec 3) (s : State) : Out :=
  issueReg h s (cvt1 (fun m x => BitVec.ofNat 32 (fitF bf16 m sat (v32 x))) d a r)

/-- b2f (R117): BF16 to FP32, exact. -/
def execB2f (h : Bool) (d a : BitVec 7) (_k : BitVec 3) (_sat : Bool) (r : BitVec 3) (s : State) : Out :=
  issueReg h s (cvt1 (fun _ x => f32 (decodeF bf16 (lo16 x))) d a r)

/-- f2n (R117): FP32 to the format of nf[k]. -/
def execF2n (h : Bool) (d a : BitVec 7) (k : BitVec 3) (sat : Bool) (r : BitVec 3) (s : State) : Out :=
  issueReg h s (fun c => cvt1 (fun m x => BitVec.ofNat 32 (fitNf (c.nf k) m sat (v32 x))) d a r c)

/-- n2f (R117): element 0 under nf[k] to FP32, exact. -/
def execN2f (h : Bool) (d a : BitVec 7) (k : BitVec 3) (_sat : Bool) (r : BitVec 3) (s : State) : Out :=
  issueReg h s (fun c => cvt1 (fun _ x => f32 (decodeNf (c.nf k) (nfElem (c.nf k) x.toNat 0))) d a r c)

/-- f2d (R117): FP32 to FP64, exact. -/
def execF2d (h : Bool) (d a : BitVec 7) (_k : BitVec 3) (_sat : Bool) (r : BitVec 3) (s : State) : Out :=
  issueReg h s (cvtTo64 (fun x => f64 (v32 x)) d a r)

/-- d2f (R117): FP64 to FP32. -/
def execD2f (h : Bool) (d a : BitVec 7) (_k : BitVec 3) (sat : Bool) (r : BitVec 3) (s : State) : Out :=
  issueReg h s (cvtFrom64 (fun m x => BitVec.ofNat 32 (fitF fp32 m sat (v64 x))) d a r)

/-- i2d (R117): a signed integer to FP64, exact. -/
def execI2d (h : Bool) (d a : BitVec 7) (_k : BitVec 3) (_sat : Bool) (r : BitVec 3) (s : State) : Out :=
  issueReg h s (cvtTo64 (fun x => f64 (intVal x.toInt)) d a r)

/-- d2i (R117): FP64 to a signed integer. -/
def execD2i (h : Bool) (d a : BitVec 7) (_k : BitVec 3) (_sat : Bool) (r : BitVec 3) (s : State) : Out :=
  issueReg h s (cvtFrom64 (fun m x => BitVec.ofNat 32 (fitI true 32 0 m (v64 x))) d a r)

/-- packn (R118): four FP32 values to four nf[k] codes. -/
def execPackn (h : Bool) (d a : BitVec 7) (k : BitVec 3) (sat : Bool) (r : BitVec 3) (s : State) : Out :=
  issueReg h s (packRegs d a k sat r)

/-- unpkn (R118): four nf[k] elements to four FP32 values. -/
def execUnpkn (h : Bool) (d a : BitVec 7) (k : BitVec 3) (_sat : Bool) (r : BitVec 3) (s : State) : Out :=
  issueReg h s (unpackRegs d a k r)

/-! DOP (R120, R121). -/

/-- Capability bit 1 (R132). -/
def dopFeature (c : Ctx) : Res Unit := require (c.l.has 1) c.illegal

/-- An FP64 operation of two pairs. -/
def dop2 (f : DWord → DWord → DWord) (d a b : BitVec 7) (c : Ctx) : Res Ctx := do
  let dst ← dest c 2 d
  let x ← src64 c a
  let y ← src64 c b
  uniRule c dst [a, b] false
  dopFeature c
  .ok (c.write64 dst (f x y))

/-- DFMA on registers. -/
def dop3 (f : DWord → DWord → DWord → DWord) (d a b : BitVec 7) (c : Ctx) : Res Ctx := do
  let dst ← dest c 2 d
  let z ← src64 c d
  let x ← src64 c a
  let y ← src64 c b
  uniRule c dst [d, a, b] false
  dopFeature c
  .ok (c.write64 dst (f x y z))

/-- DDIV: a variable-latency result (R33). -/
def dopVar2 (f : DWord → DWord → DWord) (d a b : BitVec 7) (c : Ctx) : Res VarRes := do
  let dst ← dest c 2 d
  let x ← src64 c a
  let y ← src64 c b
  uniRule c dst [a, b] false
  dopFeature c
  .ok { c := c, dst := dst, vals := [loWord (f x y), hiWord (f x y)] }

/-- DSQRT: a variable-latency result (R33). -/
def dopVar1 (f : DWord → DWord) (d a : BitVec 7) (c : Ctx) : Res VarRes := do
  let dst ← dest c 2 d
  let x ← src64 c a
  uniRule c dst [a] false
  dopFeature c
  .ok { c := c, dst := dst, vals := [loWord (f x), hiWord (f x)] }

/-- An FP64 compare. -/
def dopCmp (minor : Nat) (k : BitVec 2) (p : BitVec 3) (a b : BitVec 7) (c : Ctx) : Res Ctx := do
  let x ← src64 c a
  let y ← src64 c b
  dopFeature c
  .ok (setCond c k p (fcmp64 minor x y))

def dpMin (x y : DWord) : DWord := BitVec.ofNat 64 (minMaxF fp64 false x.toNat y.toNat)
def dpMax (x y : DWord) : DWord := BitVec.ofNat 64 (minMaxF fp64 true x.toNat y.toNat)

/-- dadd (R120): d := a + b. -/
def execDadd (h : Bool) (d a b : BitVec 7) (s : State) : Out :=
  issueReg h s (dop2 (fun x y => f64 (addV (v64 x) (v64 y))) d a b)

/-- dsub (R120): d := a − b. -/
def execDsub (h : Bool) (d a b : BitVec 7) (s : State) : Out :=
  issueReg h s (dop2 (fun x y => f64 (addV (v64 x) (v64 y).neg)) d a b)

/-- dmul (R120): d := a × b. -/
def execDmul (h : Bool) (d a b : BitVec 7) (s : State) : Out :=
  issueReg h s (dop2 (fun x y => f64 (mulV (v64 x) (v64 y))) d a b)

/-- dfma (R120): d := round(a × b + d). -/
def execDfma (h : Bool) (d a b : BitVec 7) (s : State) : Out :=
  issueReg h s (dop3 (fun x y z => f64 (addV (mulV (v64 x) (v64 y)) (v64 z))) d a b)

/-- dmin (R120): as FMIN. -/
def execDmin (h : Bool) (d a b : BitVec 7) (s : State) : Out :=
  issueReg h s (dop2 dpMin d a b)

/-- dmax (R120): as FMAX. -/
def execDmax (h : Bool) (d a b : BitVec 7) (s : State) : Out :=
  issueReg h s (dop2 dpMax d a b)

/-- ddiv (R120): d := a ÷ b. -/
def execDdiv (h : Bool) (d a b : BitVec 7) (s : State) : Out :=
  issueVar h s (dopVar2 (fun x y => f64 (divV (v64 x) (v64 y))) d a b)

/-- dsqrt (R120): d := √a. -/
def execDsqrt (h : Bool) (d a : BitVec 7) (s : State) : Out :=
  issueVar h s (dopVar1 (fun x => f64 (sqrtV (v64 x))) d a)

/-- deq (R121): an FP64 condition into a predicate. -/
def execDeq (h : Bool) (k : BitVec 2) (p : BitVec 3) (a b : BitVec 7) (s : State) : Out :=
  issueReg h s (dopCmp 0 k p a b)

/-- dlt (R121): an FP64 condition into a predicate. -/
def execDlt (h : Bool) (k : BitVec 2) (p : BitVec 3) (a b : BitVec 7) (s : State) : Out :=
  issueReg h s (dopCmp 2 k p a b)

/-- dle (R121): an FP64 condition into a predicate. -/
def execDle (h : Bool) (k : BitVec 2) (p : BitVec 3) (a b : BitVec 7) (s : State) : Out :=
  issueReg h s (dopCmp 3 k p a b)

/-- duno (R121): an FP64 condition into a predicate. -/
def execDuno (h : Bool) (k : BitVec 2) (p : BitVec 3) (a b : BitVec 7) (s : State) : Out :=
  issueReg h s (dopCmp 6 k p a b)

/-! SMX (R122–R124). -/

/-- MLMRG on registers (R123): the quad d is also a source. -/
def mlmrgRegs (d a : BitVec 7) (c : Ctx) : Res Ctx := do
  let dst ← dest c 4 d
  let z ← src c 4 d
  let x ← src c 2 a
  uniRule c dst [d, a] false
  let r := mlMerge (z.getD 0 0) (z.getD 1 0) (x.getD 0 0) (x.getD 1 0)
  .ok (c.write dst [r.1, r.2.1, r.2.2.1, r.2.2.2])

/-- RESCALE on registers (R124). -/
def rescaleRegs (d a b : BitVec 7) (c : Ctx) : Res Ctx := do
  let dst ← dest c 1 d
  let z ← src32 c d
  let x ← src32 c a
  let f ← src c 2 b
  uniRule c dst [d, a, b] false
  .ok (c.write dst [rescale z x (f.getD 0 0) (f.getD 1 0)])

/-- mlmrg (R123): merge two partial maxima and sums. -/
def execMlmrg (h : Bool) (d a : BitVec 7) (s : State) : Out :=
  issueReg h s (mlmrgRegs d a)

/-- expsub (R122): EXP2(round(a − b)). -/
def execExpsub (h : Bool) (d a b : BitVec 7) (s : State) : Out :=
  issueReg h s (op2 expSub d a b)

/-- rescale (R124): d × f0 + a × f1. -/
def execRescale (h : Bool) (d a b : BitVec 7) (s : State) : Out :=
  issueReg h s (rescaleRegs d a b)

end Sys2Proof.Machine
end

