-- ==== Sys2Proof/Machine/Packets.lean ====
section
/-! DEFINITION. Packets.lean: packets from other packages: their acceptance (R375, R376, R382), the requests an owner serves, the
replies a requester takes (R392–R395). -/
namespace Sys2Proof.Machine

/-! Acceptance. -/

/-- The packet is the next of its sender and class on a port whose preamble is verified (R376); the table after it. -/
def nextRx (s : State) (port : Nat) (k : Packet) : Option (List HopSeq) :=
  match s.net.ports[port]? with
  | none => none
  | some p =>
    match p.verified, p.st.works with
    | some q, true =>
      let bc := (curEntry s port).bcast
      let hopOk := if bc then k.hop == q else k.hop == s.pkgId.toNat
      let is := fun (h : HopSeq) => h.pkg == q && h.cls == k.cls && h.bc == bc
      let want := match s.net.rx.find? is with
        | some h => h.n
        | none => 0
      if hopOk && k.seq == want then
        some ({ pkg := q, cls := k.cls, bc := bc, n := (want + 1) % 2 ^ 24 } :: s.net.rx.filter (fun h => !is h))
      else none
    | _, _ => none

/-- A packet accepted in transit for another package is held, ahead of the package's own traffic but behind what is owed (R381, R382); one that has come
back to its origin is queued again on the direct path, its copy that waited for a completion gone; one whose destination no entry joins goes back. -/
def relay (s : State) (port : Nat) (k : Packet) : State :=
  let f := s.fresh
  let base : OutPkt := { id := f.1, die := port / 16, launch := none, pkt := k, bcast := none, sent := 0, port := none, fly := false,
                         relayed := false, foreign := true, origin := k.seq * 8 + k.cls }
  let home := k.src == s.pkgId.toNat
  let o : OutPkt :=
    if home then { base with foreign := false, pkt := { k with hop := k.dst, transit := false } }
    else if (directSlots s k.dst).isEmpty then { base with pkt := { k with hop := k.src } }
    else { base with pkt := { k with hop := k.dst } }
  let from_ := (((s.net.ports[port]?).bind (fun p => p.verified))).getD 0
  let mine := fun (x : OutPkt) => x.relayed && x.pkt.hop == from_ && x.pkt.body == k.body && x.pkt.dst == k.dst
  let out := if home then (match f.2.net.out.find? mine with
    | some x => f.2.net.out.filter (fun y => y.id != x.id || y.foreign)
    | none => f.2.net.out) else f.2.net.out
  let taken := if home then f.2.net.taken else addCount f.2.net.taken (dieOf k.src (port / 16)) (pktBytes k)
  let behind := if home then queuedFor s o.pkt.hop
    else s.net.out.any (fun x => x.pkt.hop == o.pkt.hop && x.bcast.isNone && !x.fly && !x.relayed && (x.foreign || decide (0 < x.sent)))
  sendNew { f.2 with net := { f.2.net with out := out, taken := taken } } (if behind then none else sendPort s o.pkt.hop) o

/-- Receive a packet of a kind (R376), of at most 4,096 bytes (R375): one that is not accepted changes no state but the count of CRC errors; one that
is accepted is acknowledged, and goes on if it is in transit, or is acted on; one in transit that the sender's part of the partition does not hold is not
accepted (R382). A stopped module answers none (R437). -/
def receive (s : State) (rx : Rx) (kind : Nat → Bool) (f : State → Packet → Out) : Out :=
  if kind rx.pkt.kind = false ∨ 256 < bodyUnits rx.pkt then notNow
  else if s.ctl.fatal then .next s
  else if rx.crcOk = false then .next (s.modPort rx.port (fun p => { p with crcErr := satInc 32 p.crcErr }))
  else match nextRx s rx.port rx.pkt with
  | none => .next s
  | some t =>
    let s1 := sendAcks { s with net := { s.net with rx := t } }
    if rx.pkt.transit ∧ (rx.pkt.dst ≠ s.pkgId.toNat ∨ rx.pkt.src = s.pkgId.toNat) then
      (if rx.pkt.src ≠ s.pkgId.toNat ∧ partition s < heldBytes s rx.pkt.src (rx.port / 16) + pktBytes rx.pkt then .next s else .next (relay s1 rx.port rx.pkt))
    else if rx.pkt.dst ≠ s.pkgId.toNat ∧ (curEntry s rx.port).bcast = false then .next s1
    else f s1 rx.pkt

/-! Requests (R393, R394). -/

/-- Receive a request: the owner performs those of one package and class that take the direct path in the order in which they come (R397), so those
behind a PUBLISH wait for its flip. -/
def receiveReq (s : State) (rx : Rx) (kind : Nat) (f : State → Packet → Out) : Out :=
  receive s rx (fun k => k == kind) (fun s k =>
    if k.transit = false ∧ s.flips.any (fun x => x.src == k.src && x.cls == k.cls) then notNow else f s k)

/-- What a request comes to at its owner: a status, a reason, the data of the reply. -/
structure Served where
  s      : State
  status : Nat
  reason : Nat
  data   : List Byte

def Served.ok (s : State) (data : List Byte) : Served := { s := s, status := 0, reason := 0, data := data }
def Served.no (s : State) (cause detail : Nat) : Served := { s := s, status := cause, reason := detail, data := [] }

/-- Translate a request in the address space that its pod key is bound to, and act on the place (R394). -/
def servePlace (s : State) (key : Nat) (a : DWord) (p : Perm) (f : State → Nat → Nat → Nat → Served) : Served :=
  match keyAsid s key with
  | none => Served.no s protection 6
  | some asid =>
    match translate s (addrDie a) asid (addrOff a) p with
    | .error d => Served.no (countWalk s (addrDie a) asid (addrOff a)) d.cause d.detail
    | .ok (lvl, e) => f (fillMtlb s (addrDie a) asid (addrOff a)) lvl e (hbmKey (addrDie a) (physOf lvl e (addrOff a)))

/-- Serve a read: of a size code, or of a run of units for a copy. -/
def serveRead (s : State) (key sub flags : Nat) (a : DWord) : Served :=
  let n := if flags / 8 % 2 = 1 then 16 * sub else sizeBytes sub
  servePlace s key a .read (fun s _ _ k =>
    match pocRead s k n with
    | .error s' => Served.no s' dataError 0
    | .ok bs => Served.ok s bs)

def serveWrite (s : State) (key : Nat) (a : DWord) (data : List Byte) : Served :=
  servePlace s key a .write (fun s _ _ k => Served.ok (pocWrite s none k data) [])

/-- Serve an atomic of a minor: the old value goes back. -/
def serveAtomic (s : State) (key minor : Nat) (a : DWord) (data : List Byte) : Served :=
  let m := minor % 16
  let n := if m = 12 ∨ m = 13 ∨ m = 14 then 8 else 4
  servePlace s key a .write (fun s _ _ k =>
    if poisoned s k n then Served.no (countErr s k) dataError 0
    else
      let r := atomicAt s none m k n (wordsOf (data.length / 4) (ofBytes data))
      Served.ok r.1 (bytesOf n r.2))

/-- Serve copy units, each at the next 16 bytes; the first that fails ends the run. -/
def serveUnits (s : State) (key : Nat) (how : Put) (a : DWord) (data : List Byte) : Nat → Served
  | 0 => Served.ok s []
  | n + 1 =>
    match keyAsid s key with
    | none => Served.no s protection 6
    | some asid =>
      match translate s (addrDie a) asid (addrOff a) .write with
      | .error d => Served.no (countWalk s (addrDie a) asid (addrOff a)) d.cause d.detail
      | .ok _ =>
        match writeHbm s asid how a (data.take 16) 1 with
        | .data s' _ => serveUnits s' key how (a + 16) (data.drop 16) n
        | .fail s' 7 => Served.no s' protection 4
        | .fail s' _ => Served.no s' dataError 0
        | _ => Served.no s notPresent 1

/-- The die that an accepted request is served on, and its reply. -/
def replyServed (k : Packet) (kind tag : Nat) (r : Served) : Out :=
  .next (sendReply r.s k.die k kind k.cls tag r.status r.reason r.data)

/-- READ_REQUEST (R393, R394). -/
def execReadRequest (rx : Rx) (s : State) : Out :=
  receiveReq s rx 0 (fun s k => match k.body with
    | .req a key sub flags tag _ => replyServed k 1 tag (serveRead s key sub flags a)
    | _ => .next s)

/-- WRITE (R393, R394). -/
def execPktWrite (rx : Rx) (s : State) : Out :=
  receiveReq s rx 2 (fun s k => match k.body with
    | .req a key _ _ tag data => replyServed k 4 tag (serveWrite s key a data)
    | _ => .next s)

/-- ATOMIC (R393, R394). -/
def execPktAtomic (rx : Rx) (s : State) : Out :=
  receiveReq s rx 3 (fun s k => match k.body with
    | .req a key sub _ tag data => replyServed k 4 tag (serveAtomic s key sub a data)
    | _ => .next s)

/-- COPY_UNITS (R393). -/
def execCopyUnits (rx : Rx) (s : State) : Out :=
  receiveReq s rx 5 (fun s k => match k.body with
    | .req a key sub flags tag data =>
      replyServed k 6 tag (serveUnits s key (if flags / 8 % 2 = 1 then .shadow else .plain) a data sub)
    | _ => .next s)

/-- REDUCE_COPY_UNITS (R236, R393). -/
def execReduceCopyUnits (rx : Rx) (s : State) : Out :=
  receiveReq s rx 11 (fun s k => match k.body with
    | .req a key sub flags tag data => replyServed k 6 tag (serveUnits s key (.combine (flags % 16) (flags / 16 % 8)) a data sub)
    | _ => .next s)

/-- PUBLISH (R239, R393): the flip that another package asks for; where the page's requests are not done yet, PUBLISH_FLIP does it. -/
def execPublish (rx : Rx) (s : State) : Out :=
  receiveReq s rx 12 (fun s k => match k.body with
    | .req a key _ _ tag _ =>
      match keyAsid s key with
      | none => replyServed k 4 tag (Served.no s protection 6)
      | some asid => match flipPage s asid (addrDie a) (addrOff a) with
        | .done s' => replyServed k 4 tag (Served.ok s' [])
        | .deny s' cause detail => replyServed k 4 tag (Served.no s' cause detail)
        | .wait =>
          let f := s.fresh
          let x : Flip := { id := f.1, die := addrDie a, asid := asid, addr := a, src := k.src, cls := k.cls, tag := tag }
          .next { f.2 with flips := s.flips ++ [x] }
    | _ => .next s)

/-- RESERVED_PACKET (R392): acknowledged and discarded. -/
def execReservedPacket (rx : Rx) (s : State) : Out :=
  receive s rx (fun k => decide (13 ≤ k)) (fun s _ => .next s)

/-! Replies (R393, R395). -/

/-- A copy unit's reply: refused with NOT_PRESENT reason 1, it waits for the host, or is asked for again while the die's records are all
open (R338); any other refusal fails it (R246, R247). -/
def denyFlight (s : State) (c : CopyCmd) (f : Flight) (status reason absent : Nat) : State :=
  let src := f.data.isNone
  if status = notPresent ∧ reason = 1 then
    if recFree s (coreDie c.core) = false then s.putCopy (c.fly { f with sent := false, held := false })
    else match copyCtx s c with
    | some (_, g) =>
      let a := if src then c.srcAt f.unit else c.dstAt f.unit
      let q := engineRec s (coreDie c.core) (some g) c.asid c.launch.id a 4 (.copyUnit c.id f.unit)
      q.2.putCopy (c.fly { f with tag := q.1, sent := false, held := true })
    | none => s
  else
    let code := if status = notPresent then absent else if status = protection then (if reason = 4 then 7 else 3) else 4
    s.putCopy (c.failed f.unit code)

/-- A read's data reaches the thread that asked (R393). -/
def landLoad (s : State) (t : Tid) (p : Pend) (data : List Byte) : State :=
  match p.op, s.group? t.gid with
  | .load size acq _, some g =>
    (if acq then acquireCopies s g.core false else s).modPend t p.id (fun q => { q with st := .ready ((loadWords size data).map some) })
  | _, _ => s.modPend t p.id (fun q => { q with st := .ready ((wordsOf 1 (ofBytes data)).map some) })

/-- READ_REPLY (R393, R395): data for a load, or a source unit of a copy. -/
def execReadReply (rx : Rx) (s : State) : Out :=
  receive s rx (fun k => k == 1) (fun s k => match k.body with
    | .reply status reason tag data =>
      match pendOf s tag, flightOf s tag with
      | some (t, p), _ =>
        if status = 0 then .next (landLoad s t p data)
        else .next (s.modThread t (fun th => th.refuse p (p.trap status reason)))
      | none, some (c, f) =>
        if status ≠ 0 then .next (denyFlight s c f status reason 1)
        else match copyCtx s c with
          | some (_, g) =>
            let r := unitRead1 s g c f.unit
            .next (r.1.putCopy (r.2.fly { f with sent := false, data := some data }))
          | none => .next s
      | none, none => .next s
    | _ => .next s)

/-- The signal of a copy has been answered (R243). -/
def landSignal (s : State) (c : CopyCmd) (status reason : Nat) : State :=
  match copyCtx s c with
  | none => s
  | some (l, g) =>
    let c1 := c.land c.units
    if status = 0 then leaveCopy s l g c1
    else if status = notPresent ∧ reason = 1 then
      if recFree s (coreDie c.core) = false then s.putCopy { c1 with st := .signal }
      else
      let q := engineRec s (coreDie c.core) (some g) c.asid c.launch.id c.g 4 (.copyReg c.id)
      q.2.putCopy { c1 with st := .held q.1 }
    else leaveCopy s l g { c1 with fail := 0x0A }

/-- The signal of a collective has been answered (R243, R412). -/
def landCollSignal (s : State) (c : Coll) (status reason : Nat) : State :=
  if status = 0 then endColl s c
  else if status = notPresent ∧ reason = 1 then
    if recFree s c.die = false then s.putColl { c with st := .signal, sigTag := none }
    else
    let g := (s.ofThread c.t).map (fun x => x.2)
    let q := engineRec s c.die g c.asid c.launch.id (clG c.desc) 4 (.collSig c.id)
    q.2.putColl { c with st := .held q.1, sigTag := none }
  else endColl s { c with code := 4 }

/-- A thread's write is acknowledged: a store's generation counts for the releases after it (R189, R395, R398). -/
def landWrite (s : State) (t : Tid) (p : Pend) (data : List Byte) : State :=
  let s1 := match p.op, p.st with
    | .store .., .remote gen => s.modThread t (fun th => { th with stamps := th.stamps ++ [(p.id, gen)] })
    | _, _ => s
  match p.op, s.group? t.gid with
  | .atomic _ _ acq _, some g =>
    afterWrite (if acq then acquireCopies s1 g.core false else s1) t p (wordsOf (data.length / 4) (ofBytes data))
  | _, _ => dropPend s1 t p.id

/-- COMPLETION (R393, R395): the answer to a write, an atomic, a signal or a PUBL. -/
def execCompletion (rx : Rx) (s : State) : Out :=
  receive s rx (fun k => k == 4) (fun s k => match k.body with
    | .reply status reason tag data =>
      match pendOf s tag, flightOf s tag, s.colls.find? (fun c => c.sigTag == some tag), tcWaiter s tag with
      | some (t, p), _, _, _ =>
        if status = 0 then .next (landWrite s t p data)
        else .next (s.modThread t (fun th => th.refuse p (p.trap status reason)))
      | none, some (c, _), _, _ => .next (landSignal s c status reason)
      | none, none, some c, _ => .next (landCollSignal s c status reason)
      | none, none, none, some (t, w) =>
        match w.kind with
        | .publ i a true =>
          let p : Pend := { id := i, pc := w.pc, dst := .none, op := .publ, addr := a, loc := none, st := .sent }
          if status = 0 then .next (endWait s t w) else .next (refuseWait s t w p (p.trap status reason))
        | _ => .next s
      | none, none, none, none => .next s
    | _ => .next s)

/-- COPY_COMPLETION (R393). -/
def execCopyCompletion (rx : Rx) (s : State) : Out :=
  receive s rx (fun k => k == 6) (fun s k => match k.body with
    | .reply status reason tag _ =>
      match flightOf s tag with
      | some (c, f) =>
        if status ≠ 0 then .next (denyFlight s c f status reason 2)
        else match copyCtx s c with
          | some (l, g) => .next (unitDone s l g c f.unit)
          | none => .next s
      | none => .next s
    | _ => .next s)

/-! Collectives (R409, R414). -/

/-- The dies at which a collective packet has come, with the header that each serves: the die it names, or, from a broadcast slot, each die of this
package on its route, which writes the data (R383, R409, R410; assumption log 44). -/
def collHops (s : State) (port : Nat) (k : Packet) (h : CollHdr) : List (Nat × CollHdr) :=
  if (curEntry s port).bcast then
    (h.route.filter (fun e => mbPkg e == s.pkgId.toNat)).map (fun e => (mbDie e, { h with route := [e % 4096 + 4 * 4096] }))
  else [(k.die, h)]

/-- A collective packet has come to a die: it waits there for its member, which serves it once it has fired (R412). -/
def comeColl (s : State) (die : Nat) (h : CollHdr) (x : List Byte) : State :=
  let s1 := arriveColl s die h x
  match s1.colls.find? (fun c => c.takes die h) with
  | some c =>
    match c.st, c.agrees h with
    | .running, true => (runColl s1 c).getD s1
    | _, _ => s1
  | none => s1

/-- COLLECTIVE_DATA (R409, R412). -/
def execCollectiveData (rx : Rx) (s : State) : Out :=
  receive s rx (fun k => k == 7) (fun s k => match k.body with
    | .coll h x => .next ((collHops s rx.port k h).foldl (fun s y => comeColl s y.1 y.2 x) s)
    | _ => .next s)

/-- COLLECTIVE_ABORT (R414). -/
def execCollectiveAbort (rx : Rx) (s : State) : Out :=
  receive s rx (fun k => k == 8) (fun s k => match k.body with
    | .collAbort group cseq key code => .next (abortAt s k.die group cseq key code)
    | _ => .next s)

/-! Barriers (R405). -/

/-- The gang of a name. -/
def State.gang? (s : State) (g : GangId) : Option Gang := s.gangs.find? (fun x => x.gid == g)

/-- BARRIER_ARRIVE (R405): rank 0 notes a package's arrival in a phase. The sender's rank is that of its package. -/
def execBarrierArrive (rx : Rx) (s : State) : Out :=
  receive s rx (fun k => k == 10 && match rx.pkt.body with
      | .bar m => !m.release
      | _ => false) (fun s k => match k.body with
    | .bar m =>
      match s.gang? m.gang with
      | some g =>
        let a : BarArr := { gang := m.gang, level := m.level, set := m.set, phase := m.phase, rank := g.members.findIdx (fun x => x == k.src) }
        let s1 := if s.barArr.contains a then s else { s with barArr := a :: s.barArr }
        match s.launch? g.launch with
        | some l => .next (barRelease s1 g l m.level m.set m.phase)
        | none => .next s1
      | none => .next s
    | _ => .next s)

/-- BARRIER_RELEASE (R405): the phase completes here. -/
def execBarrierRelease (rx : Rx) (s : State) : Out :=
  receive s rx (fun k => k == 10 && match rx.pkt.body with
      | .bar m => m.release
      | _ => false) (fun s k => match k.body with
    | .bar m =>
      match (s.gang? m.gang).bind (fun g => s.launch? g.launch) with
      | some l =>
        let arr := s.barArr.filter (fun a => !(a.gang == m.gang && a.level == m.level && a.set == m.set && a.phase == m.phase))
        if phaseCount l m.level m.set = m.phase then .next (completePhase { s with barArr := arr } l m.level m.set m.phase) else .next s
      | none => .next s
    | _ => .next s)

end Sys2Proof.Machine
end

