-- ==== Sys2Proof/Machine/Gang.lean ====
section
/-! DEFINITION. Gang.lean: launches from the host (R133, R136, R432), gangs (R403–R406, R444), the completion of launches (R137, R303,
R304). -/
namespace Sys2Proof.Machine

/-! Gang control packets (R403). -/

/-- Send a GANG control packet to a member (R392, R403), if it is reachable. -/
def sendGang (s : State) (die pkg : Nat) (m : GangMsg) : State :=
  if reachable s pkg then
    let f := s.fresh
    enqueueLate f.2 f.1 die none pkg 0 9 (.gang m)
  else s

def gangMsg (what : Nat) (g : GangId) : GangMsg :=
  { what := what, gang := g, header := 0, argp := 0, teams := 0, members := [], rank := 0, key := 0, code := 0, leak := 0, cycle := 0 }

/-- Send a message to every member but this one. -/
def tellGang (s : State) (g : Gang) (m : Nat → GangMsg) : State :=
  (g.members.zipIdx.filter (fun x => x.2 != g.rank)).foldl (fun s x => sendGang s g.launch.die x.1 (m x.2)) s

/-- The launch and gang of a part that never starts are gone (R403, R404). -/
def discardPart (s : State) (ref : LRef) : State :=
  { s with launches := s.launches.filter (fun l => l.ref != ref), gangs := s.gangs.filter (fun g => g.launch != ref) }

/-- The host command that waits for a launch completes with a status (R304, R432). -/
def launchDone (s : State) (ref : LRef) (status : Word) : State :=
  (s.cmds.filter (fun c => c.wait == .launch ref)).foldl (fun s c => completeCmd s c (BitVec.ofNat 64 ref.id) 0 status) s

/-! LAUNCH (R432). -/

/-- The member list of a gang, `n` packages of 2 bytes, in the launch's address space. -/
def readMembers (s : State) (asid : Nat) (a : DWord) (n : Nat) : Option (List Nat) :=
  ((List.range n).map (fun i =>
    let p := a + BitVec.ofNat 64 (2 * i)
    match translate s (addrDie p) asid (addrOff p) .read with
    | .error _ => none
    | .ok (lvl, e) =>
      let k := hbmKey (addrDie p) (physOf lvl e (addrOff p))
      if poisoned s k 2 then none else some (readNat s k 2))).foldr
    (fun x acc => match x, acc with
      | some x, some l => some (x :: l)
      | _, _ => none) (some [])

/-- The zero fields and limits of a LAUNCH command. -/
def launchForm (c : HostCmd) : Bool :=
  c.asid == 0 && bits (c.word 0x1C) 7 4 == 0
    && (c.ptr 0x20 == 0 || (addrTag (c.ptr 0x20) == 0 && tagOk (c.ptr 0x20) && (c.ptr 0x20).toNat % 2 == 0
          && decide (1 ≤ (c.word 0x28).toNat) && decide ((c.word 0x28).toNat ≤ 1024)))

/-- What a LAUNCH command asks for, on `p` packages. -/
def launchReq (c : HostCmd) (p : Nat) : LaunchReq :=
  let w := c.word 0x1C
  { header := c.ptr 0x08, argp := c.ptr 0x10, T := (c.word 0x18).toNat, prio := if bit w 3 then some (bits w 2 0) else none,
    asid := bits w 15 8, podKey := bits w 31 16, P := p, rank := 0, gang := c.ptr 0x20 != 0, depth := 0, parent := none }

/-- START goes to every other member (R403, step 2). -/
def startGang (s : State) (ref : LRef) (r : LaunchReq) (members : List Nat) : State :=
  let gid : GangId := { pkg := s.pkgId.toNat, die := ref.die, id := ref.id }
  let g : Gang := { gid := gid, launch := ref, members := members, rank := 0, c0 := s.calCycle.toNat, accepts := [],
                    go := if members.length = 1 then some 0 else none, dones := [], ended := none }
  tellGang { s with gangs := s.gangs ++ [g] } g (fun k =>
    { gangMsg 0 gid with header := r.header, argp := r.argp, teams := r.T, members := members, rank := k, key := r.podKey, cycle := g.c0 })

/-- A launch or a gang's rank 0 (R133, R403, R404). -/
def beginLaunch (s0 : State) (c : HostCmd) (members : List Nat) : State :=
  let r := launchReq c (max 1 members.length)
  let s := countHeader s0 r.asid r.header
  let die := addrDie r.header
  let h := readHeader s r.asid r.header
  match checkLaunch s die h r, h with
  | 0, some h =>
    let q := takeId s die
    let ref : LRef := { die := die, id := q.1 }
    if 1 < members.length ∧ (calGen s = 0 ∨ s.net.synced = false) then
      completeCmd q.2 c (BitVec.ofNat 64 ref.id) 0 (statusWord 0 3 8)
    else
      let s1 := keepCmd (acceptLaunch q.2 ref h r) c (.launch ref)
      if r.gang then startGang s1 ref r members else s1
  | code, _ => completeCmd s c 0 0 (statusWord 0 4 code)

/-- LAUNCH_COMMAND (R133, R136, R432). -/
def execLaunchCommand (src : CmdSrc) (s : State) : Out :=
  runCmd s src 1 launchForm (fun c s =>
    if c.ptr 0x20 = 0 then .next (beginLaunch s c [])
    else match readMembers s (bits (c.word 0x1C) 15 8) (c.ptr 0x20) (c.word 0x28).toNat with
    | none =>
      let s1 := countReads s (bits (c.word 0x1C) 15 8) 2 (c.word 0x28).toNat (c.ptr 0x20)
      .next (completeCmd s1 c 0 0 (statusWord 0 4 5))
    | some ms =>
      if ms.head? ≠ some s.pkgId.toNat ∨ ms.any (fun x => decide (1024 ≤ x)) ∨ ms.eraseDups.length ≠ ms.length then
        .next (completeCmd s c 0 badCommand 0)
      else .next (beginLaunch s c ms))

/-! The members' steps (R403, R404, R406, R444). -/

/-- A GANG control packet of one kind. -/
def receiveGang (s : State) (rx : Rx) (what : Nat) (f : State → Packet → GangMsg → Out) : Out :=
  receive s rx (fun k => k == 9 && match rx.pkt.body with
      | .gang m => m.what == what
      | _ => false) (fun s k => match k.body with
    | .gang m => f s k m
    | _ => .next s)

/-- GANG_START (R403, step 3): the member checks the launch and answers. -/
def execGangStart (rx : Rx) (s : State) : Out :=
  receiveGang s rx 0 (fun s k m =>
    let die := addrDie m.header
    match keyAsid s m.key with
    | none => .next (sendGang s die k.src { gangMsg 2 m.gang with rank := m.rank, code := 5 })
    | some asid =>
      let r : LaunchReq := { header := m.header, argp := m.argp, T := m.teams, prio := none, asid := asid, podKey := m.key,
                             P := m.members.length, rank := m.rank, gang := true, depth := 0, parent := none }
      let h := readHeader s asid m.header
      match checkLaunch s die h r, h with
      | 0, some h =>
        let q := takeId (countHeader s asid m.header) die
        let ref : LRef := { die := die, id := q.1 }
        let s1 := acceptLaunch q.2 ref h r
        let g : Gang := { gid := m.gang, launch := ref, members := m.members, rank := m.rank, c0 := s.calCycle.toNat, accepts := [],
                          go := none, dones := [], ended := none }
        .next (sendGang { s1 with gangs := s1.gangs ++ [g] } die k.src { gangMsg 1 m.gang with rank := m.rank })
      | code, _ => .next (sendGang (countHeader s asid m.header) die k.src { gangMsg 2 m.gang with rank := m.rank, code := code }))

/-- GANG_ACCEPT (R403, step 4, R404): with the last acceptance rank 0 sends GO; one that comes when the start barrier has closed changes nothing. -/
def execGangAccept (rx : Rx) (s : State) : Out :=
  receiveGang s rx 1 (fun s _ m =>
    match s.gang? m.gang with
    | some g =>
      if g.go.isSome ∨ g.rank ≠ 0 ∨ g.c0 + 8 ≤ s.calCycle.toNat then .next s
      else
        let acc := if g.accepts.contains m.rank then g.accepts else m.rank :: g.accepts
        let all := acc.length + 1 == g.members.length
        let x := s.calCycle.toNat + 2
        let g1 := { g with accepts := acc, go := if all then some x else none }
        let s1 := { s with gangs := s.gangs.map (fun y => if y.gid = g.gid then g1 else y) }
        .next (if all then tellGang s1 g1 (fun k => { gangMsg 3 g.gid with rank := k, cycle := x }) else s1)
    | none => .next s)

/-- GANG_REFUSE (R403, step 5): the gang is refused with the member's code. -/
def execGangRefuse (rx : Rx) (s : State) : Out :=
  receiveGang s rx 2 (fun s _ m =>
    match s.gang? m.gang with
    | some g =>
      if g.go.isSome ∨ g.rank ≠ 0 then .next s
      else
        let s1 := tellGang s g (fun k => { gangMsg 4 g.gid with rank := k, code := m.code })
        .next (launchDone (discardPart s1 g.launch) g.launch (statusWord 0 4 m.code))
    | none => .next s)

/-- GANG_GO (R403, step 4, R404): one that comes after the member's 16 cycles is ignored. -/
def execGangGo (rx : Rx) (s : State) : Out :=
  receiveGang s rx 3 (fun s _ m =>
    .next { s with gangs := s.gangs.map (fun g => if g.gid = m.gang ∧ g.rank ≠ 0 ∧ g.go = none ∧ s.calCycle.toNat < g.c0 + 16 then
        { g with go := some m.cycle } else g) })

/-- GANG_CANCEL (R403, step 5). -/
def execGangCancel (rx : Rx) (s : State) : Out :=
  receiveGang s rx 4 (fun s _ m =>
    match s.gang? m.gang with
    | some g => if g.rank ≠ 0 ∧ g.go = none then .next (discardPart s g.launch) else .next s
    | none => .next s)

/-- GANG_ABORT (R406). Where rank 0's part has ended already, it waits on for the DONE of every member (R444). -/
def execGangAbort (rx : Rx) (s : State) : Out :=
  receiveGang s rx 5 (fun s _ m =>
    match s.gang? m.gang with
    | some g => if g.ended.isSome then .next s else .next (abortLaunch s g.launch)
    | none => .next s)

/-- GANG_START_TIMEOUT (R404): the start barrier closes without an acceptance: CODE 8. -/
def execGangStartTimeout (ref : LRef) (s : State) : Out :=
  match s.gangOf ref with
  | some g =>
    if g.rank ≠ 0 ∨ g.go.isSome ∨ s.calCycle.toNat < g.c0 + 8 then notNow
    else
      let s1 := tellGang s g (fun k => { gangMsg 4 g.gid with rank := k, code := 8 })
      .next (launchDone (discardPart s1 ref) ref (statusWord 0 3 8))
  | none => notNow

/-- GANG_DISCARD_TIMEOUT (R404). -/
def execGangDiscardTimeout (ref : LRef) (s : State) : Out :=
  match s.gangOf ref with
  | some g => if g.rank = 0 ∨ g.go.isSome ∨ s.calCycle.toNat < g.c0 + 16 then notNow else .next (discardPart s ref)
  | none => notNow

/-! Completion (R137, R303, R304, R444). -/

/-- The phases that wait for packages whose part has ended go on (R405). -/
def barSweep (s : State) (gid : GangId) : State :=
  match s.gang? gid with
  | some g => s.barArr.foldl (fun s a => if a.gang = gid then match s.launch? g.launch with
      | some l => barRelease s g l a.level a.set a.phase
      | none => s else s) s
  | none => s

/-- Rank 0 completes the gang once its own part has ended and it holds DONE from every other member (R444). -/
def endGang (s : State) (gid : GangId) : State :=
  match s.gang? gid with
  | none => s
  | some g =>
    let others := (List.range g.members.length).filter (fun k => k != 0)
    let part := fun (k : Nat) => g.dones.find? (fun d => d.1 == k)
    match g.ended with
    | some (code, leak) =>
      if others.all (fun k => (part k).isSome) then
        let codes := code :: others.map (fun k => ((part k).map (fun d => d.2.1)).getD 0)
        let leaks := leak + (others.map (fun k => ((part k).map (fun d => d.2.2)).getD 0)).sum
        let s1 := launchDone s g.launch (statusWord leaks 3 ((codes.find? (fun c => c != 0)).getD 0))
        discardPart { s1 with barArr := s1.barArr.filter (fun a => a.gang != gid) } g.launch
      else s
    | none => s

/-- GANG_DONE (R444). -/
def execGangDone (rx : Rx) (s : State) : Out :=
  receiveGang s rx 6 (fun s _ m =>
    let put := fun (g : Gang) => if g.gid = m.gang ∧ g.rank = 0 ∧ g.dones.any (fun d => d.1 == m.rank) = false then
      { g with dones := g.dones ++ [(m.rank, m.code, m.leak)] } else g
    let s1 := { s with gangs := s.gangs.map put }
    .next (endGang (barSweep s1 m.gang) m.gang))

/-- A part of a gang has ended: a member says DONE, rank 0 waits for the others (R444). -/
def endMember (s : State) (l : Launch) (g : Gang) (code leak : Nat) : State :=
  let s1 := clearLaunch s l
  if g.rank = 0 then
    let keep := { l with state := 3, code := code, leak := leak, teams := [], flushed := [], nextTeam := l.T }
    let s2 := { s1 with launches := s1.launches ++ [keep],
                        gangs := s1.gangs.map (fun x => if x.gid = g.gid then { x with ended := some (code, leak) } else x) }
    endGang (barSweep s2 g.gid) g.gid
  else
    let s2 := sendGang s1 l.ref.die (g.members.headD 0) { gangMsg 6 g.gid with rank := g.rank, code := code, leak := leak }
    { s2 with gangs := s2.gangs.filter (fun x => x.gid != g.gid), barArr := s2.barArr.filter (fun a => a.gang != g.gid) }

/-- LAUNCH_COMPLETE (R137, R286, R303, R304, R344, R444): every team has retired and nothing of the launch is left to end; or an ABORT has ended
a gang's wait for DONE. -/
def execLaunchComplete (ref : LRef) (s : State) : Out :=
  match s.launch? ref with
  | none => notNow
  | some l =>
    if l.state = 3 ∧ l.stopped ∧ (s.gangOf ref).isSome then
      let s1 := (s.gangOf ref).map (fun g => endGang s g.gid)
      if (s1.bind (fun x => x.launch? ref)).isSome then notNow else .next (s1.getD s)
    else if 3 ≤ l.state ∨ l.allRetired = false ∨ launchBusy s l then notNow
    else
      let f := finalStatus s l
      match s.gangOf ref, l.parent with
      | some g, _ => .next (endMember s l g f.2 f.1)
      | none, some p =>
        let s1 := clearLaunch s l
        .next { s1 with kept := s1.kept ++ [{ ref := ref, parent := p, status := statusWord f.1 3 f.2 }] }
      | none, none => .next (launchDone (clearLaunch s l) ref (statusWord f.1 3 f.2))

end Sys2Proof.Machine
end

