-- ==== Sys2Proof/Machine/Preempt.lean ====
section
/-! DEFINITION. Preempt.lean: pre-emption and swapping of teams (R147, R264, R274, R305, R346–R350, R358). -/
namespace Sys2Proof.Machine

/-! Room (R134). -/

/-- The ordered choices of `n` different members of a list. -/
def arrange : Nat → List Nat → List (List Nat)
  | 0, _ => [[]]
  | n + 1, xs => xs.flatMap (fun x => (arrange n (xs.filter (fun y => y != x))).map (fun r => x :: r))

/-- The choices of cores for `k` teams of `c` cores each. -/
def coreLists (c : Nat) (xs : List Nat) : Nat → List (List Nat)
  | 0 => [[]]
  | k + 1 => (arrange c xs).flatMap (fun a => (coreLists c xs k).map (fun r => a ++ r))

def clusterCores (cluster : Nat) : List Nat := (List.range 8).map (fun r => cluster * 8 + r)
def dieClusters (die : Nat) : List Nat := (List.range 6).map (fun k => die * 6 + k)

/-- The cores of a cluster on which the next teams of a launch have room. -/
def freshRoom (s : State) (l : Launch) (cluster : Nat) : Option (List Nat) :=
  match nextTeams l with
  | [] => none
  | ts => (coreLists (teamCores l.hdr) (clusterCores cluster) ts.length).find? (fun cores =>
      (placeFresh s l cores).isSome)

/-- Every group of a team, the retired ones too: what they issued, and what they leave, belongs to the team. -/
def wholeTeam (s : State) (l : Launch) (team : Nat) : List Group := s.groups.filter (fun g => g.launch == l.ref && g.team == team)

/-- A saved group at its new place. -/
def backGroup (l : Launch) (team : Nat) (s : State) (i core quad slot : Nat) : Group :=
  let at_ := fun (g : Group) => { g with core := core, quad := quad, slot := slot, resident := true, saving := false }
  match s.groups.find? (fun g => g.launch == l.ref && g.team == team && g.idx == i) with
  | some g => at_ g
  | none => startGroup l team s i core quad slot

/-- A retired group goes with its team: what it issued refers to the team's places. -/
def followTeam (l : Launch) (unit : List Team) (cluster : Nat) (g : Group) : Group :=
  if g.launch == l.ref && g.retired && unit.any (fun t => t.idx == g.team) then { g with core := cluster * 8 + coreRank g.core, resident := true } else g

/-- Put the teams of a saved set back on cores of a cluster, the retired ones among them too, so that the windows stay as they were; each core keeps
its rank, so that offsets and pointers stay as they were (R165, R348). -/
def placeBack (s : State) (l : Launch) (unit : List Team) (cluster : Nat) (cores : List Nat) : Option State :=
  (placeSet s l.ref unit cores (fun i => (teamGroups s l i).map (fun g => g.idx)) (backGroup l)).map (fun s =>
    { s with groups := s.groups.map (followTeam l unit cluster) })

/-- The cores of a cluster that have the ranks a saved set had. -/
def backCores (unit : List Team) (cluster : Nat) : List Nat := unit.flatMap (fun t => t.cores.map (fun c => cluster * 8 + coreRank c))

/-- A handle names the pool of its thread's cluster (R277): while a launch holds tiles on the cluster that a set left, the set comes back to that
cluster, for no result may depend on where it is placed (R17, R135; assumption log 25). -/
def tilesStay (s : State) (l : Launch) (unit : List Team) (cluster : Nat) : Bool :=
  unit.all (fun t => t.cores.all (fun c => coreCluster c == cluster
    || !(s.tiles.any (fun x => x.live && x.owner == l.ref && coreCluster x.core == coreCluster c))))

def savedRoom (s : State) (l : Launch) (unit : List Team) (cluster : Nat) : Option (List Nat) :=
  if tilesStay s l unit cluster && (placeBack s l unit cluster (backCores unit cluster)).isSome then some (backCores unit cluster) else none

/-- A launch has room on a cluster for a team that it waits to place. -/
def hasRoom (s : State) (l : Launch) (cluster : Nat) : Bool :=
  (freshRoom s l cluster).isSome
    || ((savedUnits l).filter (readyUnit s l)).any (fun u => (savedRoom s l (unitTeams l u) cluster).isSome)

/-- Every live thread of a team waits in LWAIT, or every one in TKNEXT (R305). -/
def allWaitIn (s : State) (l : Launch) (team : Nat) (f : POp → Bool) : Bool :=
  blockedTeam s l team && (teamGroups s l team).all (fun g => g.threads.all (fun th => th.exited || th.infl.any (fun p => f p.op)))

/-! Which teams (R346). -/

/-- A set of teams that is pre-empted together: its launch and its first team. -/
structure TeamSet where
  launch : Launch
  first  : Nat

def TeamSet.teams (u : TeamSet) : List Team := unitTeams u.launch u.first
def TeamSet.groups (s : State) (u : TeamSet) : List Group := u.teams.flatMap (fun t => teamGroups s u.launch t.idx)
def TeamSet.whole (s : State) (u : TeamSet) : List Group := u.teams.flatMap (fun t => wholeTeam s u.launch t.idx)
/-- The teams of a set that have not retired: those that pre-emption moves (R346). -/
def TeamSet.live (u : TeamSet) : List Team := u.teams.filter (fun t => !t.retired)

/-- A set on its way out: it drains or is being saved. -/
def TeamSet.leaving (s : State) (u : TeamSet) : Bool :=
  u.teams.any (fun t => t.drainTill.isSome) || (u.groups s).any (fun g => g.saving)

/-- The resident sets of a die. -/
def dieSets (s : State) (die : Nat) : List TeamSet :=
  (dieLaunches s die).flatMap (fun l =>
    ((l.teams.filter (fun t => t.resident && !t.retired)).map (fun t => coFirst l.hdr t.idx)).eraseDups.map (fun i => { launch := l, first := i }))

/-- The state as if sets of teams had left their cores. -/
def without (s : State) (us : List TeamSet) : State :=
  let gone := fun (l : LRef) (hdr : Header) (team : Nat) => us.any (fun u => u.launch.ref == l && u.first == coFirst hdr team)
  let team := fun (l : Launch) (t : Team) => if gone l.ref l.hdr t.idx then { t with resident := false } else t
  let group := fun (g : Group) => match s.launch? g.launch with
    | some l => if gone l.ref l.hdr g.team then { g with resident := false } else g
    | none => g
  { s with groups := s.groups.map group, launches := s.launches.map (fun l => { l with teams := l.teams.map (team l) }) }

/-- When a set was placed: the earliest of its teams. -/
def TeamSet.since (u : TeamSet) : Nat := match u.teams.map (fun t => t.since) with
  | [] => 0
  | x :: r => r.foldl min x

/-- The quantum of a die, in nanoseconds (R349). -/
def quantumNs (s : State) (die : Nat) : Nat := match s.dies[die]? with
  | some d => d.preQuantum.toNat * 1000
  | none => 0
def drainNs (s : State) (die : Nat) : Nat := match s.dies[die]? with
  | some d => d.preDrain.toNat * 1000
  | none => 0

/-- The launch `w` may have a set pre-empted: by priority, or by time slice (R346). -/
def outranks (s : State) (w : Launch) (u : TeamSet) : Bool :=
  let q := quantumNs s w.ref.die
  decide (u.launch.hdr.prio < w.hdr.prio)
    || (u.launch.hdr.prio == w.hdr.prio && q != 0 && decide (w.since + q ≤ s.ns) && u.teams.all (fun t => decide (t.since + q ≤ s.ns)))

/-! Paths (R347). -/

inductive Path where
  | drain
  | flush
  | save
deriving DecidableEq

/-- A set is flushable (R347): also what its retired groups have issued counts. -/
def flushable (s : State) (u : TeamSet) : Bool :=
  let gids := (u.whole s).map (fun g => g.gid)
  (u.groups s).all (fun g => g.task.isNone || g.task.any (fun t => t.versioned))
    && (u.whole s).all (fun g => g.threads.all (fun th => !th.barsFlush))
    && s.tiles.all (fun t => !(t.live && t.owner == u.launch.ref && u.teams.any (fun m => m.idx == t.team)))
    && s.queries.all (fun q => !gids.contains q.t.gid) && s.colls.all (fun c => !gids.contains c.t.gid)
    && s.copies.all (fun c => !gids.contains c.t.gid) && s.engines.all (fun e => e.queue.all (fun o => !gids.contains o.gid))

/-- The entries that a thread's record holds as pending, in program order (R348, R350, R353): what waits for an event or on an EMPTY line, and what was
refused, the accesses among it that the hidden trap state keeps. -/
def pendingList (th : Thread) : List Pend :=
  let kept := th.refused ++ (th.wait.map (fun w => w.rest)).getD [] ++ th.ts.refused
  ((kept.filter (fun x => x.trap.isSome)).map (fun x => x.p)).foldl insertPend
    (th.infl.filter (fun p => !p.bound && (p.op.waits || (p.op.delivers && (p.loc == some .scratch || p.loc == some .tile)))))

/-- The slots that a team's groups have named since placement, those that have retired since among them (R350). -/
def usedSlots (gs : List Group) : List Nat :=
  let used := gs.foldl (fun m g => m ||| g.used) 0
  (List.range 16).filter (fun k => used / 2 ^ k % 2 == 1)

/-- The bytes that the team record of a set takes (R350): its threads, its scratch, its pending entries and its engine record. -/
def recordSize (s : State) (u : TeamSet) : Nat :=
  let h := u.launch.hdr
  (u.teams.map (fun t =>
    let gs := wholeTeam s u.launch t.idx
    let np := (gs.map (fun g => (g.threads.map (fun th => (pendingList th).length)).sum)).sum
    let mine := fun (o : MOp) => gs.any (fun g => g.gid == o.gid)
    let nq := ((heldOps s).filter (fun x => mine x.2)).length
    0x100 + 0x300 * h.g + 32 * h.g * (0x200 + 4 * h.valloc) + h.scratch + 16 * cdiv h.scratch 8192 + 32 * np
      + 16384 * (usedSlots gs).length + 64 * nq)).sum

/-- The bytes of the save pool of a die that are taken, or promised to a set that is being saved. -/
def poolUsed (s : State) (die : Nat) : Nat :=
  ((dieLaunches s die).flatMap (fun l => (savedUnits l).map (fun i => recordSize s { launch := l, first := i }))).sum
    + (((dieSets s die).filter (fun u => (u.groups s).any (fun g => g.saving))).map (recordSize s)).sum

/-- The save pool of a die has room for the record of a set (R350). -/
def poolRoom (s : State) (u : TeamSet) : Bool :=
  decide (poolUsed s u.launch.ref.die + recordSize s u ≤ s.ctl.config.savePool * 2 ^ 30)

/-- The path of a set for a reason: `blocked` for R147 and R305; drain may be excluded. None where the pool has no room. -/
def pathOf (s : State) (u : TeamSet) (blocked noDrain : Bool) : Option Path :=
  let save := if poolRoom s u then some Path.save else none
  let p := u.live.map (fun t => t.progress.toNat)
  if blocked then save
  else if !noDrain && p.all (fun x => x != 0 && decide (x * 1000 ≤ drainNs s u.launch.ref.die)) then some .drain
  else if u.launch.hdr.idempotent && flushable s u then some .flush
  else save

/-- A set may be pre-empted now: resident, not leaving, no thread halted, and its path is open. -/
def TeamSet.free (s : State) (u : TeamSet) (blocked : Bool) : Bool :=
  !u.teams.isEmpty && u.teams.all (fun t => t.resident || t.retired) && !u.leaving s
    && (u.groups s).all (fun g => g.threads.all (fun th => !th.halted)) && (pathOf s u blocked false).isSome

/-- Order of pre-emption: lower priority first, then the longest resident (R346). -/
def TeamSet.before (u v : TeamSet) : Bool :=
  decide (u.launch.hdr.prio < v.launch.hdr.prio) || (u.launch.hdr.prio == v.launch.hdr.prio && decide (u.since < v.since))

def sortSets (l : List TeamSet) : List TeamSet :=
  l.foldr (fun u acc => acc.filter (fun v => v.before u) ++ u :: acc.filter (fun v => !v.before u)) []

/-- The choices of sets that have `n` live teams together, those with early members first. -/
def combos : Nat → List TeamSet → List (List TeamSet)
  | 0, _ => [[]]
  | _, [] => []
  | n + 1, x :: xs =>
    let w := max 1 x.live.length
    (if w ≤ n + 1 then (combos (n + 1 - w) xs).map (fun r => x :: r) else []) ++ combos (n + 1) xs

/-- How many teams a choice of sets pre-empts. -/
def liveTeams (us : List TeamSet) : Nat := (us.map (fun u => u.live.length)).sum

/-- A set lies on a cluster. -/
def TeamSet.on (u : TeamSet) (cluster : Nat) : Bool := u.teams.any (fun t => t.cores.any (fun c => coreCluster c == cluster))

/-- The fewest teams whose leaving makes room on a cluster for a launch (R346). -/
def victims (s : State) (w : Launch) (ok : TeamSet → Bool) (cluster : Nat) : Option (List TeamSet) :=
  let cand := sortSets ((dieSets s w.ref.die).filter (fun u => u.on cluster && ok u))
  let away := (dieSets s w.ref.die).filter (fun u => u.leaving s)
  (List.range (liveTeams cand + 1)).findSome? (fun n => (combos n cand).find? (fun us =>
    let s1 := without s (away ++ us)
    match s1.launch? w.ref with
    | some w1 => hasRoom s1 w1 cluster
    | none => false))

/-- A choice of sets comes before another (R346): fewer teams, then ascending priority, and among equals the one resident longest. -/
def setsBefore (us vs : List TeamSet) : Bool :=
  decide (liveTeams us < liveTeams vs) || (liveTeams us == liveTeams vs && match (us.zip vs).find? (fun x => x.1.before x.2 || x.2.before x.1) with
    | some x => x.1.before x.2
    | none => false)

/-- The set is one of those to be pre-empted for `w`: on the cluster whose choice comes first, where nothing has to leave if room is coming. -/
def chosen (s : State) (w : Launch) (ok : TeamSet → Bool) (u : TeamSet) : Bool :=
  let all := (dieClusters w.ref.die).filterMap (victims s w ok)
  all.any (fun us => us.any (fun v => v.launch.ref == u.launch.ref && v.first == u.first) && all.all (fun vs => !setsBefore vs us))

/-- The waiting launch that the scheduler of a die serves next. -/
def nextWaiting (s : State) (die : Nat) : Option Launch := (dieLaunches s die).find? (fun l => l.waits s && l.first s)

/-! The steps. -/

def satAdd (x : Word) (n : Nat) : Word := BitVec.ofNat 32 (min (x.toNat + n) (2 ^ 32 - 1))

/-- Change every team of a set. -/
def TeamSet.mod (s : State) (u : TeamSet) (f : Team → Team) : State :=
  u.teams.foldl (fun s t => s.modTeam u.launch.ref t.idx f) s

/-- The versioned tasks of a set are discarded (R300, R347). -/
def discardSet (s : State) (u : TeamSet) : State := (u.groups s).foldl (fun s g => discardVersion s g.gid) s

/-- Flush-and-restart (R347): the threads of the teams that have not retired are discarded, what they hold is freed; the teams wait to be placed
afresh, beside those of their set that have retired. -/
def flushSet (s : State) (u : TeamSet) : State :=
  let gs := u.live.flatMap (fun t => wholeTeam s u.launch t.idx)
  let gids := gs.map (fun g => g.gid)
  let ts := u.live.map (fun t => t.idx)
  let n := 32 * u.launch.hdr.g
  let inside := fun (p : Nat × Nat × Nat) =>
    let r := setRange u.launch p.1 p.2.1
    decide ((u.launch.rank * u.launch.T + u.first) * n ≤ r.1) && decide (r.2 ≤ (u.launch.rank * u.launch.T + u.first + u.teams.length) * n)
  let s1 := gs.foldl (fun s g => dropBaton s g.core g.gid) s
  let shut := fun (r : FRec) => match r.who with
    | .threads g => if gids.contains g then { r with open_ := false } else r
    | _ => r
  let off := fun (t : Team) => if u.teams.any (fun x => x.idx == t.idx) then { t with resident := false } else t
  let fl := fun (l : Launch) => { l with teams := (l.teams.filter (fun t => !ts.contains t.idx)).map off, flushed := l.flushed ++ ts,
                                         since := s.ns, phases := l.phases.filter (fun p => !inside p) }
  let frecs := (s1.frecs.map shut).filter (fun r => r.open_ || !r.inRing)
  let s2 := { s1 with groups := s1.groups.filter (fun g => !(g.launch == u.launch.ref && ts.contains g.team)),
                      age := s1.age.filter (fun t => !gids.contains t.gid), frecs := frecs }
  (s2.modLaunch u.launch.ref fl).modDie u.launch.ref.die (fun d => { d with preFlushes := satAdd d.preFlushes ts.length })

/-- Start on a path for a set (R347, R348). -/
def startPath (s : State) (u : TeamSet) (p : Path) : State :=
  let die := u.launch.ref.die
  match p with
  | .drain =>
    (TeamSet.mod s u (fun t => { t with drainTill := some (s.ns + 2 * drainNs s die) })).modDie die
      (fun d => { d with preDrains := satAdd d.preDrains u.live.length })
  | .flush => flushSet (discardSet s u) u
  | .save =>
    let gids := (u.groups s).map (fun g => g.gid)
    let s1 := discardSet s u
    { s1 with groups := s1.groups.map (fun g => if gids.contains g.gid then { g with saving := true } else g) }

/-- The set that a team of a launch stands first in. -/
def setOf (s : State) (ref : LRef) (team : Nat) : Option TeamSet :=
  match s.launch? ref with
  | some l => if coFirst l.hdr team = team ∧ (l.team? team).isSome ∧ l.stopped = false then some { launch := l, first := team } else none
  | none => none

/-- TIME_SLICE_EXPIRY (R346, R347): a set of teams makes way for the waiting launch that is served first, by priority or by time slice. -/
def execTimeSliceExpiry (ref : LRef) (team : Nat) (s : State) : Out :=
  match setOf s ref team, nextWaiting s ref.die with
  | some u, some w =>
    match pathOf s u false false with
    | some p => if chosen s w (fun v => v.free s false && outranks s w v) u then .next (startPath s u p) else notNow
    | none => notNow
  | _, _ => notNow

/-- BLOCKED_TEAM_SWAP (R147, R305): a set of blocked teams makes way for teams of its launch that have not started or are saved and ready, whichever
launches wait beside it; one that waits for children or tasks, for any launch that waits. -/
def execBlockedTeamSwap (ref : LRef) (team : Nat) (s : State) : Out :=
  let isL := fun (o : POp) => match o with
    | .lwait _ => true
    | _ => false
  let isK := fun (o : POp) => match o with
    | .tknext .. => true
    | _ => false
  let stuck := fun (u : TeamSet) => u.teams.all (fun t => blockedTeam s u.launch t.idx)
  let idle := fun (u : TeamSet) => u.teams.all (fun t => allWaitIn s u.launch t.idx isL) || u.teams.all (fun t => allWaitIn s u.launch t.idx isK)
  let ok := fun (w : Launch) (v : TeamSet) => v.free s true && ((v.launch.ref == w.ref && stuck v) || idle v)
  match setOf s ref team with
  | some u =>
    let own := u.launch.waits s && chosen s u.launch (ok u.launch) u
    let other := match nextWaiting s ref.die with
      | some w => chosen s w (ok w) u
      | none => false
    if own || other then .next (startPath s u .save) else notNow
  | none => notNow

/-- DRAIN_TIMEOUT (R347): a set has not retired in time: the choice is made again with drain excluded. -/
def execDrainTimeout (ref : LRef) (team : Nat) (s : State) : Out :=
  match setOf s ref team with
  | some u =>
    let late := u.teams.any (fun t => !t.retired && match t.drainTill with
      | some x => decide (x ≤ s.ns)
      | none => false)
    let halted := (u.groups s).any (fun g => g.threads.any (fun th => th.halted))
    if late = false ∨ halted then notNow
    else
      let s1 := TeamSet.mod s u (fun t => { t with drainTill := none, noDrain := true })
      match setOf s1 ref team with
      | some v => match pathOf s1 v false true with
        | some p => .next (startPath s1 v p)
        | none => .next s1
      | none => notNow
  | none => notNow

/-! Save and return (R348). -/

/-- What may stay of a saved thread as a pending entry: the waits of R348, an arrived rendezvous (assumption log 17), a wait on an EMPTY line. -/
def keptEntry (s : State) (l : Launch) (g : Group) (p : Pend) : Bool := !p.bound && (p.op.waits || emptyWait s l g p)

/-- Step 2 and step 3 of R348 are done for a set. A team is not pre-empted while a thread of it is halted (R346, R358). -/
def savable (s : State) (u : TeamSet) : Bool :=
  (u.groups s).all (fun g => g.saving && g.threads.all (fun th => !th.halted && th.infl.all (fun p =>
      !p.op.delivers || keptEntry s u.launch g p || (p.loc == some .tile && p.op.isWrite))))
    && u.teams.all (fun t =>
      let gids := (wholeTeam s u.launch t.idx).map (fun g => g.gid)
      let without := { s with engines := s.engines.map (fun e => { e with queue := [] }) }
      !teamBusy without u.launch t.idx
        && s.engines.all (fun e => match e.queue with
          | o :: _ => !gids.contains o.gid || (o.units.isEmpty && o.hold.isNone)
          | [] => true))

/-- What the record of a team keeps of the engines of its cores: the slots that its groups have named, its operations, the baton (R264, R274, R350). -/
def teamEngines (s : State) (l : Launch) (t : Team) (gs : List Group) : List SavedEngine :=
  let mine := fun (gid : Nat) => gs.any (fun g => g.gid == gid)
  t.cores.zipIdx.map (fun x =>
    let e := s.engine x.1
    { launch := l.ref, team := t.idx, pos := x.2, slots := (usedSlots (gs.filter (fun g => g.core == x.1))).map (fun k => (k, e.slot k)),
      ops := e.queue.filter (fun o => mine o.gid), held := (e.holder.toList ++ e.back).filter mine,
      waited := e.fifo.filter (fun g => mine g && !e.back.contains g) })

/-- Write one team to its record and free its cores. -/
def saveTeam (l : Launch) (s : State) (t : Team) : State :=
  let gs := wholeTeam s l t.idx
  let mine := fun (gid : Nat) => gs.any (fun g => g.gid == gid)
  let sl := t.slices l.hdr
  let image := sl.map (fun x => memRead s.mem x.2.2 (scratchKey x.1 x.2.1))
  let states := sl.map (fun x => (List.range (cdiv x.2.2 128)).map (fun k => lineState s (scratchKey x.1 x.2.1 + 128 * k)))
  let s1 := { s with engines := s.engines.map (fun e => { e with queue := e.queue.filter (fun o => !mine o.gid) }),
                     savedEng := s.savedEng ++ teamEngines s l t gs }
  let s2 := gs.foldl (fun s g => dropBaton s g.core g.gid) s1
  let s3 := sl.foldl (fun s x => clearScratch s x.1 x.2.1 x.2.2) s2
  let away := fun (g : Group) => if mine g.gid then
    { g with resident := false, saving := false, threads := g.threads.map (fun th => { th with fetched := none }) } else g
  State.modTeam { s3 with groups := s3.groups.map away } l.ref t.idx
    (fun t => { t with resident := false, drainTill := none, noDrain := false, image := image, lineImage := states })

/-- TEAM_SAVE (R348): the set is written to its team records and leaves its cores; its retired teams, whose slices lie in the windows of the others,
go with it. A set for whose records the pool has no room any more stays where it is (R350). -/
def execTeamSave (ref : LRef) (team : Nat) (s : State) : Out :=
  match setOf s ref team with
  | some u =>
    if (u.groups s).isEmpty ∨ savable s u = false then notNow
    else if s.ctl.config.savePool * 2 ^ 30 < poolUsed s ref.die then
      let gids := (u.groups s).map (fun g => g.gid)
      .next { s with groups := s.groups.map (fun g => if gids.contains g.gid then { g with saving := false } else g) }
    else
      let s1 := (u.teams.filter (fun t => t.resident)).foldl (saveTeam u.launch) s
      let s2 := s1.modLaunch ref (fun l => { l with since := s.ns })
      .next (s2.modDie ref.die (fun d => { d with preSaves := satAdd d.preSaves u.live.length }))
  | none => notNow

/-- Where a scratch line of a saved team lies now. -/
def moveLine (old new : List (Nat × Nat × Nat)) (line : Nat) : Nat :=
  match (old.zip new).find? (fun x => decide (scratchKey x.1.1 x.1.2.1 ≤ 128 * line) && decide (128 * line < scratchKey x.1.1 x.1.2.1 + x.1.2.2)) with
  | some x => (scratchKey x.2.1 x.2.2.1 + (128 * line - scratchKey x.1.1 x.1.2.1)) / 128
  | none => line

/-- An entry that a place or a unit of the new cluster has to take again. -/
def Pend.local (p : Pend) : Bool := !p.bound && (p.loc == some .scratch || p.loc == some .tile || match p.op with
  | .talloc .. => true
  | _ => false)

/-- The threads of a team that has come back enter their pending entries again, and perform their refused accesses again; a parked one stays parked,
and an answer that came meanwhile takes effect (R348, R358). -/
def reenter (s : State) (t : Tid) : State :=
  match s.thread? t with
  | none => s
  | some th =>
    let again := fun (x : Refused) => !th.parked && !th.trapping && !x.isFetch
    let back := (th.infl.filter Pend.local).map (fun p => ({ p := p, trap := none } : Refused))
    let s1 := s.modThread t (fun th => { th with infl := th.infl.filter (fun p => !p.local), refused := th.refused.filter (fun x => !again x) })
    let s2 := performAgain s1 t ((th.refused.filter again).foldl insertRefused back)
    match th.parked, th.replay with
    | true, some retry => answerParked s2 t retry
    | _, _ => s2

/-- The engine of a core takes back what a team's record holds (R274, R350). -/
def restoreEngine (old new : List (Nat × Nat × Nat)) (core : Nat) (s : State) (x : SavedEngine) : State :=
  let e := s.engine core
  let ops := x.ops.map (fun o => { o with rd := o.rd.map (fun r => (moveLine old new r.1, r.2)) })
  let e1 := x.slots.foldl (fun e k => e.setSlot k.1 k.2) e
  grantBaton (s.putEngine { e1 with queue := e.queue ++ ops, fifo := x.held ++ e.fifo ++ x.waited, back := x.held ++ e.back }) core

/-- One team is back on its cores: scratch, engine, threads. -/
def restoreTeam (ref : LRef) (s : State) (old : Team) : State :=
  match s.launch? ref with
  | none => s
  | some l => match l.team? old.idx with
    | none => s
    | some t =>
      let was := old.slices l.hdr
      let now := t.slices l.hdr
      let put := fun (s : State) (x : (Nat × Nat × Nat) × List Byte × List Nat) =>
        let key := scratchKey x.1.1 x.1.2.1
        { s with mem := memWrite s.mem x.2.1 key, lines := x.2.2.zipIdx.foldl (fun ls k => setLine ls (key / 128 + k.2) k.1) s.lines }
      let s1 := (now.zip (old.image.zip old.lineImage)).foldl put s
      let mine := fun (x : SavedEngine) => x.launch == ref && x.team == t.idx
      let s2 := (s1.savedEng.filter mine).foldl (fun s x => restoreEngine was now (t.cores.getD x.pos 0) s x) s1
      let s3 := { s2 with savedEng := s2.savedEng.filter (fun x => !mine x) }
      let s4 := s3.modTeam ref t.idx (fun t => { t with image := [], lineImage := [] })
      ((teamGroups s4 l t.idx).flatMap (fun g => (List.range 32).map (fun i => ({ gid := g.gid, lane := i } : Tid)))).foldl reenter s4

/-- A saved set may come back now: it is ready, and its launch is served first; or it is still blocked, and no launch of the die asks for room. -/
def mayReturn (s : State) (l : Launch) (first : Nat) : Bool :=
  if readyUnit s l first then l.waits s && l.first s
  else l.goes s && (dieLaunches s l.ref.die).all (fun x => !x.waits s)

/-- TEAM_RESTORE (R134, R135, R147, R348): a saved set goes back to cores that have room. -/
def execTeamRestore (ref : LRef) (team cluster : Nat) (cores : List Nat) (s : State) : Out :=
  match setOf s ref team with
  | none => notNow
  | some u =>
    let unit := u.teams
    if u.live.isEmpty ∨ unit.any (fun t => t.resident) ∨ mayReturn s u.launch u.first = false ∨ cores ≠ backCores unit cluster
        ∨ 24 ≤ cluster ∨ cluster / 6 ≠ ref.die ∨ tilesStay s u.launch unit cluster = false then notNow
    else match placeBack s u.launch unit cluster cores with
    | some s1 => .next ((unit.foldl (restoreTeam ref) s1).modLaunch ref (fun l => { l with since := s.ns }))
    | none => notNow

end Sys2Proof.Machine
end

