-- ==== Sys2Proof/Machine/Sys.lean ====
section
/-! DEFINITION. Sys.lean: the SYS instructions (R64–R73, R154–R157). -/
namespace Sys2Proof.Machine

/-- NOP (R48, R65). -/
def execNop (h : Bool) (s : State) : Out := issueReg h s (fun c => .ok c)

/-- EXIT (R38, R65): the thread waits as a horizon does, then ends. -/
def execExit (h : Bool) (s : State) : Out := issueWith h s (fun _ s => .ok (.drain s .exit))

/-- TRAP (R66): USER_TRAP at once. -/
def execTrap (h : Bool) (b : BitVec 7) (s : State) : Out :=
  issueWith h s (fun c _ => .error (trapPlain c.th.pc userTrap b.toNat))

/-- Breakpoints are armed for a launch: it is the one its die's debugger has selected (R66, R355). -/
def brkArmed (s : State) (l : Launch) : Bool := match s.dies[l.ref.die]? with
  | some d => d.dbgBrkArm && d.dbgLaunch.toNat == l.ref.id
  | none => false

/-- BRK (R66, R334, R356): BREAK at once, or a halt while breakpoints are armed. A halting BRK writes the registers that R356 lists; R66 gives TRAP_ADDR 0
for BRK and R356 does not list it: the model leaves it as it is (DESIGN CHOICE, assumption log 32). -/
def execBrk (h : Bool) (b : BitVec 7) (s : State) : Out :=
  issueWith h s (fun c s =>
    let r := trapPlain c.th.pc breakCause b.toNat
    if brkArmed s c.l then
      let back := fun (p : Pend) => if emptyWait s c.l c.g p then { p with loc := none } else p
      .ok (.done (s.modThread c.t (fun th =>
        { th with infl := th.infl.map back, halted := true, why := 2, trapCause := BitVec.ofNat 8 breakCause, trapPc := c.th.pc, trapInfo := infoWord r })))
    else .error r)

/-- SRD (R68–R70). R33 and R366 let a read of CLOCK or of a CAL register return a value in force at any instant between its issue and its delivery: the
model reads at issue (DESIGN CHOICE, assumption log 33). -/
def execSrd (h : Bool) (d a b : BitVec 7) (s : State) : Out :=
  issueWith h s (fun c s => do
    let n := a.toNat * 128 + b.toNat
    let dst ← dest c 1 d
    require (sysMap.contains n) c.illegal
    require (!dst.isUni || sysG n) c.illegal
    let v := sysValue s c n
    let s1 := s.modThread c.t (captures s n)
    if sysVar n then .ok (.done (addResult s1 c.t c.th.pc dst [v]))
    else .ok (.done (putCtx s (c.write dst [v]))))

/-- The system registers all of whose fields are RO (R26, R69). -/
def sysRO (n : Nat) : Bool := !([0x040, 0x041, 0x050, 0x060, 0x110].contains n)

/-- SWR (R26, R68). -/
def execSwr (h : Bool) (d a b : BitVec 7) (s : State) : Out :=
  issueWith h s (fun c s => do
    let n := a.toNat * 128 + b.toNat
    let x ← src32 c d
    require (sysMap.contains n) c.illegal
    require (!sysRO n) c.illegal
    require (n != 0x110) { trapPlain c.th.pc privilege 0 with addr := BitVec.ofNat 64 n }
    match n with
    | 0x040 =>
      require (vwbOk c.th (bits x 7 0)) c.illegal
      .ok (.done (s.modThread c.t (fun th => { th with vwb := BitVec.ofNat 8 x.toNat })))
    | 0x041 =>
      require (uwbOk (bits x 5 0)) c.illegal
      .ok (.done (s.modThread c.t (fun th => { th with uwb := BitVec.ofNat 6 x.toNat })))
    | 0x050 => .ok (.done (s.modTeam c.l.ref c.g.team (fun t => { t with progress := x })))
    | _ => .ok (.done (s.modThread c.t (fun th => { th with srseed := x }))))

/-- WBASE (R72). -/
def execWbase (h : Bool) (b : BitVec 7) (s : State) : Out :=
  issueReg h s (fun c => do
    let nv : Int := c.th.vwb.toNat + 16 * b.toInt
    require (decide (0 ≤ nv) && decide (nv < c.th.regs.length)) c.illegal
    .ok { c with th := { c.th with vwb := BitVec.ofInt 8 nv } })

/-- UBASE (R72). -/
def execUbase (h : Bool) (b : BitVec 7) (s : State) : Out :=
  issueReg h s (fun c => do
    let nu : Int := c.th.uwb.toNat + 8 * b.toInt
    require (decide (0 ≤ nu) && decide (nu ≤ 56)) c.illegal
    .ok { c with th := { c.th with uwb := BitVec.ofInt 6 nu } })

/-- YIELD (R141). -/
def execYield (h : Bool) (s : State) : Out :=
  issueReg h s (fun c => .ok { c with th := { c.th with yielded := true } })

/-- JOIN (R154). -/
def execJoin (h : Bool) (a : BitVec 7) (s : State) : Out :=
  issueWith h s (fun c s => do
    let m ← src32 c a
    .ok (.wait s (.join m)))

/-- The level of a barrier instruction (R156). -/
def barLevel (c : Ctx) (b : BitVec 7) : Res Nat := do
  require (decide (b.toNat < 6)) c.illegal
  .ok b.toNat

/-- BAR (R157): an arrival into a hidden token, then the wait for it. -/
def execBar (h : Bool) (b : BitVec 7) (s : State) : Out :=
  issueWith h s (fun c s => do
    let lv ← barLevel c b
    .ok (.wait (s.modThread c.t (barMark c lv)) (.arrive lv true .none)))

/-- ARRIVE (R157). -/
def execArrive (h : Bool) (d b : BitVec 7) (s : State) : Out :=
  issueWith h s (fun c s => do
    let dst ← dest c 1 d
    require (!dst.isUni) c.illegal
    let lv ← barLevel c b
    .ok (.wait (s.modThread c.t (barMark c lv)) (.arrive lv false dst)))

/-- BWAIT (R157): a token of the thread's own future arrival is illegal. Of a thread that has not arrived at the level yet the spec gives no r: the
model takes −1, so that token 0 is illegal there too (DESIGN CHOICE, assumption log 36). -/
def execBwait (h : Bool) (a b : BitVec 7) (s : State) : Out :=
  issueWith h s (fun c s => do
    let t ← src32 c a
    let lv ← barLevel c b
    let ahead := (t.toNat + 1 + 2 ^ 32 - c.th.arrivals.getD lv 0 % 2 ^ 32) % 2 ^ 32
    require (!(decide (1 ≤ ahead) && decide (ahead ≤ 2 ^ 31 - 1))) c.illegal
    .ok (.wait s (.phase lv t.toNat)))

/-- NAP (R155). -/
def execNap (h : Bool) (a : BitVec 7) (s : State) : Out :=
  issueWith h s (fun c s => do
    let x ← src32 c a
    if bits x 15 0 = 0 then .ok (.done s) else .ok (.wait s .nap))

/-- FMTLD (R73). -/
def execFmtld (h : Bool) (d a : BitVec 7) (s : State) : Out :=
  issueReg h s (fun c => do
    let x ← src32 c a
    require (uniSource a) c.illegal
    require (decide (d.toNat ≤ 7)) c.illegal
    let v : BitVec 16 := BitVec.ofNat 16 x.toNat
    require (nfLegal v) c.illegal
    .ok { c with g := { c.g with nf := c.g.nf.set d.toNat v } })

/-- TRET (R67). -/
def execTret (h : Bool) (b : BitVec 7) (s : State) : Out :=
  issueWith h s (fun c s => do
    require (decide (b.toNat ≤ 1) && c.th.inHandler) c.illegal
    .ok (.drain s (.tret b.toNat)))

end Sys2Proof.Machine
end

