-- ==== Sys2Proof/Machine/Debug.lean ====
section
/-! DEFINITION. Debug.lean: the debugger of each die (R355–R358): halt, go, step, and the items of a halted thread. -/
namespace Sys2Proof.Machine

def State.die (s : State) (d : Nat) : DieRegs := s.dies.getD d DieRegs.reset

/-- RESULT of the last access (R355). -/
def setResult (s : State) (die n : Nat) : State := s.modDie die (fun d => { d with dbgResult := BitVec.ofNat 3 n })

/-! The scope (R355). -/

/-- A thread lies in the selected scope of a die: its launch, team, group or itself. -/
def inScope (s : State) (die : Nat) (g : Group) (lane : Nat) : Bool :=
  let d := s.die die
  let k := d.dbgScope.toNat
  g.launch == ({ die := die, id := d.dbgLaunch.toNat } : LRef)
    && (k == 0 || g.team == d.dbgTeam.toNat) && (decide (k < 2) || g.idx == d.dbgThread.toNat / 32) && (decide (k < 3) || lane == d.dbgThread.toNat % 32)

/-- The live threads of the scope. -/
def scopeThreads (s : State) (die : Nat) : List Tid :=
  s.groups.flatMap (fun g => (g.threads.zipIdx.filter (fun x => !x.1.exited && inScope s die g x.2)).map (fun x => ({ gid := g.gid, lane := x.2 } : Tid)))

/-- The selected thread. -/
def selected (s : State) (die : Nat) : Option Tid :=
  let d := s.die die
  (s.groups.find? (fun g => g.launch == ({ die := die, id := d.dbgLaunch.toNat } : LRef) && g.team == d.dbgTeam.toNat
    && g.idx == d.dbgThread.toNat / 32)).map (fun g => { gid := g.gid, lane := d.dbgThread.toNat % 32 })

/-! Pending entries (R353, R356). -/

/-- An access that a halt has taken back from its line: it waits with the thread until GO. -/
def takenBack (s : State) (p : Pend) : Bool := p.loc.isNone && p.op.isAccess && !p.bound && !remotePeer s p.addr

/-- What stays with a stopped thread as a pending entry; a wait that ended while the thread was halted is one still. -/
def pendingEntry (s : State) (l : Launch) (g : Group) (p : Pend) : Bool := takenBack s p || keptEntry s l g p || p.late

/-- A thread has stopped: it is halted, no trap of it is on its way, and every result but those of its pending entries is written (R356). -/
def stopped (s : State) (t : Tid) : Bool := match s.ofThread t, s.thread? t with
  | some (l, g), some th => th.halted && !th.trapping && th.infl.all (fun p => !p.op.delivers || pendingEntry s l g p)
  | _, _ => true

/-- A register is the destination of a pending entry. -/
def pendingOn (s : State) (l : Launch) (g : Group) (th : Thread) (d : Dst) : Bool :=
  (th.infl.filter (pendingEntry s l g) ++ th.refused.map (fun x => x.p)).any (fun p => match p.dst, d with
    | .vec r n, .vec x _ => decide (r ≤ x) && decide (x < r + n)
    | .uni r n, .uni x _ => decide (r ≤ x) && decide (x < r + n)
    | _, _ => false)

/-! Halt, go, step (R356, R357). -/

/-- Halt a thread at its issue boundary; a wait on an EMPTY line is kept as a pending entry. -/
def haltThread (why : Nat) (s : State) (t : Tid) : State :=
  match s.ofThread t, s.thread? t with
  | some (l, g), some th =>
    if th.exited ∨ th.halted then s
    else
      let back := fun (p : Pend) => if emptyWait s l g p then { p with loc := none } else p
      s.modThread t (fun th => { th with halted := true, why := why, stepping := false, infl := th.infl.map back })
  | _, _ => s

/-- A halted thread goes on: its pending entries resume their waits. -/
def goThread (step : Bool) (s : State) (t : Tid) : State :=
  match s.thread? t with
  | some th =>
    if th.halted = false ∨ th.exited then s
    else
      let back := th.infl.filter (takenBack s)
      let stay := (th.infl.filter (fun p => !takenBack s p)).map (fun p => { p with late := false })
      let s1 := s.modThread t (fun th => { th with halted := false, why := 0, stepping := step, infl := stay })
      performAgain s1 t (back.map (fun p => { p := p, trap := none }))
  | none => s

/-- A thread that was let go for one instruction is halted again once it has issued it (R355). -/
def afterStep (s : State) : State := match s.cur with
  | some t => match s.thread? t with
    | some th => if th.stepping then haltThread 3 s t else s
    | none => s
  | none => s

/-- A write of DBG_CTL: the fields, then GO, STEP and HALT as the bits say (R355). -/
def writeDbgCtl (s : State) (die : Nat) (v : Word) : State :=
  let s1 := s.modDie die (fun d => { d with dbgScope := BitVec.ofNat 2 (bits v 29 28), dbgBrkArm := bit v 27, dbgResult := 0 })
  let s2 := if bit v 31 then (scopeThreads s1 die).foldl (goThread false) s1 else s1
  let s3 := if bit v 26 then (match selected s2 die with
    | some t => goThread true s2 t
    | none => s2) else s2
  if bit v 30 then (scopeThreads s3 die).foldl (haltThread 1) s3 else s3

/-! Items (R355, R357). -/

/-- What a DBG_ITEM number names. -/
inductive Item where
  | vec (r : Nat)
  | uni (r : Nat)
  | nf (k : Nat)
  | pcLo
  | pcHi
  | preds
  | vwb
  | uwb
  | seed
  | trap (k : Nat)
  | progress
deriving DecidableEq

def itemOf (n : Nat) : Option Item :=
  if n < 0x100 then some (.vec n)
  else if n < 0x160 then some (.uni (n - 0x100))
  else if 0x180 ≤ n ∧ n < 0x188 then some (.nf (n - 0x180))
  else match n with
  | 0x200 => some .pcLo
  | 0x201 => some .pcHi
  | 0x202 => some .preds
  | 0x203 => some .vwb
  | 0x204 => some .uwb
  | 0x205 => some .seed
  | 0x20C => some .progress
  | _ => if 0x206 ≤ n ∧ n < 0x20C then some (.trap (n - 0x206)) else none

/-- The two words of a 64-bit item. -/
def setLo (x : DWord) (v : Word) : DWord := pairOf v (hiWord x)
def setHi (x : DWord) (v : Word) : DWord := pairOf (loWord x) v

/-- The value of an item of a thread. -/
def itemValue (l : Launch) (g : Group) (th : Thread) : Item → Word
  | .vec r => th.regs.getD r 0
  | .uni r => g.uni.getD r 0
  | .nf k => BitVec.ofNat 32 (g.nf.getD k 0).toNat
  | .pcLo => loWord th.pc
  | .pcHi => hiWord th.pc
  | .preds => BitVec.ofNat 32 th.preds.toNat
  | .vwb => BitVec.ofNat 32 th.vwb.toNat
  | .uwb => BitVec.ofNat 32 th.uwb.toNat
  | .seed => th.srseed
  | .trap 0 => BitVec.ofNat 32 th.trapCause.toNat
  | .trap 1 => loWord th.trapPc
  | .trap 2 => hiWord th.trapPc
  | .trap 3 => loWord th.trapAddr
  | .trap 4 => hiWord th.trapAddr
  | .trap _ => th.trapInfo
  | .progress => teamProgress l g.team

/-- Set an item of a halted thread; none where R26 or R73 refuses the value or the item does not exist. -/
def setItem (s : State) (t : Tid) (l : Launch) (g : Group) (th : Thread) (v : Word) (i : Item) : Option State :=
  let put := fun (f : Thread → Thread) => some (s.modThread t f)
  match i with
  | .vec r => if r < th.regs.length then put (fun th => { th with regs := th.regs.set r v }) else none
  | .uni r => some (s.modGroup t.gid (fun g => { g with uni := g.uni.set r v }))
  | .nf k =>
    let x := BitVec.ofNat 16 v.toNat
    if nfLegal x then some (s.modGroup t.gid (fun g => { g with nf := g.nf.set k x })) else none
  | .pcLo => put (fun th => { th with pc := setLo th.pc v, fetched := none, fetchFrom := none })
  | .pcHi => put (fun th => { th with pc := setHi th.pc v, fetched := none, fetchFrom := none })
  | .preds => put (fun th => { th with preds := BitVec.ofNat 7 v.toNat })
  | .vwb => if vwbOk th (bits v 7 0) then put (fun th => { th with vwb := BitVec.ofNat 8 v.toNat }) else none
  | .uwb => if uwbOk (bits v 5 0) then put (fun th => { th with uwb := BitVec.ofNat 6 v.toNat }) else none
  | .seed => put (fun th => { th with srseed := v })
  | .trap 0 => put (fun th => { th with trapCause := BitVec.ofNat 8 v.toNat })
  | .trap 1 => put (fun th => { th with trapPc := setLo th.trapPc v })
  | .trap 2 => put (fun th => { th with trapPc := setHi th.trapPc v })
  | .trap 3 => put (fun th => { th with trapAddr := setLo th.trapAddr v })
  | .trap 4 => put (fun th => { th with trapAddr := setHi th.trapAddr v })
  | .trap _ => put (fun th => { th with trapInfo := BitVec.ofNat 32 (bits v 23 0) })
  | .progress => some (s.modTeam l.ref g.team (fun t => { t with progress := v }))

/-- The destination register that an item is. -/
def itemDst : Item → Dst
  | .vec r => .vec r 1
  | .uni r => .uni r 1
  | _ => .none

/-- A write of DBG_DATA (R357). -/
def writeDbgData (s : State) (die : Nat) (v : Word) : State :=
  match (selected s die).bind (fun t => (s.ofThread t).bind (fun x => (s.thread? t).map (fun th => (t, x.1, x.2, th)))) with
  | none => setResult s die 2
  | some (t, l, g, th) =>
    if th.halted = false then setResult s die 2
    else match itemOf (s.die die).dbgItem.toNat with
    | none => setResult s die 3
    | some i =>
      if pendingOn s l g th (itemDst i) then setResult s die 1
      else match setItem s t l g th v i with
      | some s' => setResult s' die 0
      | none => setResult s die 3

/-! Reads. -/

/-- What DBG_DATA reads: the item of the selected thread; 0 where there is none. -/
def readDbgData (s : State) (die : Nat) : Word :=
  match selected s die, itemOf (s.die die).dbgItem.toNat with
  | some t, some i => match s.ofThread t, s.thread? t with
    | some (l, g), some th => itemValue l g th i
    | _, _ => 0
  | _, _ => 0

/-- What a read of a debug register leaves in RESULT (R355, R357): a read of DBG_DATA with an ITEM outside the map fails with BAD_ITEM; a read of
DBG_STATUS, which reports the last access, is none itself. -/
def afterDbgRead (s : State) (die off : Nat) : State :=
  if off = 0x18 then s
  else if off = 0x14 ∧ itemOf (s.die die).dbgItem.toNat = none then setResult s die 3
  else setResult s die 0

/-- DBG_STATUS (R355). -/
def readDbgStatus (s : State) (die : Nat) : Word :=
  let sel := selected s die
  let why := match sel.bind s.thread? with
    | some th => th.why
    | none => 0
  let pend := match sel with
    | some t => match s.ofThread t, s.thread? t with
      | some (l, g), some th => th.infl.any (pendingEntry s l g) || !th.refused.isEmpty
      | _, _ => false
    | none => false
  let ts := scopeThreads s die
  let halted := !ts.isEmpty && ts.all (stopped s)
  BitVec.ofNat 32 (why * 2 ^ 16 + (if pend then 2 ^ 9 else 0) + (if halted then 2 ^ 8 else 0) + (s.die die).dbgResult.toNat)

end Sys2Proof.Machine
end

