-- ==== Sys2Proof/Machine/Regs.lean ====
section
/-! DEFINITION. Regs.lean: the registers of BAR0 (R427): management (R428), scheduler (R349), debug (R355), stack errors (R324),
page-table roots, host windows, pod keys, command queues (R430), fault queues (R433); reads and writes (R5, R6, R427). -/
namespace Sys2Proof.Machine

/-! Where a register lies. -/

/-- A register of BAR0: its block and, in it, its number and offset. -/
inductive Reg0 where
  | mgmt (off : Nat)
  | sched (die off : Nat)
  | dbg (die off : Nat)
  | err (stack : Nat)
  | root (die asid : Nat) (hi : Bool)
  | window (k part : Nat)
  | podKey (k : Nat)
  | queue (q off : Nat)
  | fq (die off : Nat)
  | nothing

/-- The register at a BAR0 offset (R427). -/
def regAt (off : Nat) : Reg0 :=
  let low := off % 0x1000
  let unit := off / 0x1000 % 16
  if off % 4 ≠ 0 then .nothing
  else match off / 0x10000 with
  | 0 => .mgmt (off % 0x10000)
  | 1 => if unit < 4 then .sched unit low else .nothing
  | 2 => if unit < 4 then .dbg unit low else .nothing
  | 3 => if off % 0x10000 < 32 then .err (off % 0x10000 / 4) else .nothing
  | 4 => if unit < 4 ∧ low < 2048 then .root unit (low / 8) (low / 4 % 2 == 1) else .nothing
  | 5 => if off % 0x10000 < 1024 then .window (off % 0x10000 / 16) (off / 4 % 4) else .nothing
  | 6 => if off % 0x10000 < 1024 then .podKey (off % 0x10000 / 4) else .nothing
  | 7 => if off % 0x10000 < 0x1000 then .queue (off % 0x10000 / 0x100) (off % 0x100) else .nothing
  | 8 => if off % 0x10000 < 0x400 then .fq (off % 0x10000 / 0x100) (off % 0x100) else .nothing
  | _ => .nothing

/-! Reads. -/

def flag (b : Bool) (n : Nat) : Nat := if b then 2 ^ n else 0

def readMgmt (s : State) (off : Nat) : Word :=
  let c := s.ctl
  match off with
  | 0x00 => BitVec.ofNat 32 c.owner
  | 0x04 => BitVec.ofNat 32 (flag c.fatal 31 + flag c.recovery 30 + c.cause * 2 ^ 4 + c.stage)
  | 0x08 => c.clkSteps
  | 0x0C => BitVec.ofNat 32 c.clkNow.toNat
  | 0x10 => s.netWeights
  | 0x14 => BitVec.ofNat 32 (c.flow.toNat * 2 ^ 16 + c.inlet.toNat)
  | 0x18 => loWord c.tlbAddr
  | 0x1C => hiWord c.tlbAddr
  | 0x20 => BitVec.ofNat 32 (flag c.tlbBusy 31 + flag c.tlbAll 30 + c.tlbAsid.toNat)
  | 0x28 => BitVec.ofNat 32 s.pkgId.toNat
  | 0x30 => loWord c.bar4Base
  | 0x34 => hiWord c.bar4Base
  | 0x38 => BitVec.ofNat 32 (flag c.bar4En 31 + c.bar4Asid.toNat)
  | 0x3C => c.bar4Faults
  | _ => 0

def readSched (s : State) (die off : Nat) : Word :=
  let d := s.die die
  match off with
  | 0x00 => BitVec.ofNat 32 d.preQuantum.toNat
  | 0x04 => BitVec.ofNat 32 d.preDrain.toNat
  | 0x08 => d.preSaves
  | 0x0C => d.preFlushes
  | 0x10 => d.preDrains
  | _ => 0

def readDbg (s : State) (die off : Nat) : Word :=
  let d := s.die die
  match off with
  | 0x00 => BitVec.ofNat 32 (d.dbgScope.toNat * 2 ^ 28 + flag d.dbgBrkArm 27)
  | 0x04 => d.dbgLaunch
  | 0x08 => d.dbgTeam
  | 0x0C => BitVec.ofNat 32 d.dbgThread.toNat
  | 0x10 => BitVec.ofNat 32 d.dbgItem.toNat
  | 0x14 => readDbgData s die
  | 0x18 => readDbgStatus s die
  | _ => 0

/-- The root of an ASID on a die; 0 where it has no tree (R427). -/
def rootWord (s : State) (die asid : Nat) : DWord := match s.roots.find? (fun r => r.1 == die && r.2.1 == asid) with
  | some r => r.2.2
  | none => 0

/-- The value of a BAR0 register (R5, R427). -/
def readReg (s : State) (off : Nat) : Word :=
  match regAt off with
  | .mgmt o => readMgmt s o
  | .sched d o => readSched s d o
  | .dbg d o => readDbg s d o
  | .err k =>
    let e := s.errs.getD k (0, 0)
    BitVec.ofNat 32 (e.1.toNat * 2 ^ 16 + e.2.toNat)
  | .root d a hi => if hi then hiWord (rootWord s d a) else loWord (rootWord s d a)
  | .window k part =>
    let w := s.windows.getD k (0, 0)
    match part with
    | 0 => loWord w.1
    | 1 => hiWord w.1
    | 2 => loWord w.2
    | _ => hiWord w.2
  | .podKey k => s.podKeys.getD k 0
  | .queue q o =>
    let c := s.queues.getD q CQueue.reset
    match o with
    | 0x00 => loWord c.base
    | 0x08 => hiWord c.base
    | 0x10 => c.size
    | 0x14 => c.head
    | 0x18 => BitVec.ofNat 32 (flag c.en 0)
    | 0x1C => BitVec.ofNat 32 c.asid.toNat
    | _ => 0
  | .fq d o =>
    let r := s.die d
    match o with
    | 0x00 => loWord r.fqBase
    | 0x08 => hiWord r.fqBase
    | 0x10 => r.fqSize
    | 0x14 => r.fqTail
    | 0x18 => if r.fqSize = 0 then r.fqHead else r.fqHead % r.fqSize
    | 0x1C => BitVec.ofNat 32 r.fqAsid.toNat
    | _ => 0
  | .nothing => 0

/-- What a read leaves: only the debug registers note it (R355). -/
def afterRead (s : State) (off : Nat) : State := match regAt off with
  | .dbg d o => afterDbgRead s d o
  | _ => s

/-! Module reset and FATAL (R435, R437). -/

/-- Everything that runs on the cores and engines is gone: every launch has ended, without completions (R435, R437). -/
def endLaunches (s : State) : State :=
  { s with cur := none, cons := [], gather := [], age := [], groups := [], launches := [], tiles := s.tiles.map (fun t => if t.live then t.free else t),
           recs := [], pool := [], kept := [], trigs := [], copies := [], flips := [], engines := [], savedEng := [], queries := [],
           bauq := [], routes := [], colls := [], heldColl := [], aborts := [], gangs := [], barArr := [], frecs := [], cmds := [] }

/-- FATAL is set (R437): the module stops issuing and ends every launch. The first cause stays. -/
def setFatal (s : State) (cause : Nat) : State :=
  let s1 := endLaunches s
  { s1 with ctl := { s1.ctl with fatal := true, cause := cause } }

/-- The module controller at a reset (R20, R435): the firmware, the identity and its chain stay, the flash keeps its record, and that record is the one that this bring-up checks and applies. -/
def resetCtl (c : Ctl) : Ctl :=
  { Ctl.reset with flash := c.flash, config := c.flash, fwSigned := c.fwSigned, idPriv := c.idPriv, idPub := c.idPub, chain := c.chain }

/-- Module reset (R435, R436): every register at its reset value, bring-up at stage 0. Memory keeps its bytes until bring-up scrubs
the stacks; the numbers of hops never start again (R376). -/
def resetModule (s : State) : State :=
  { State.reset with agenda := s.agenda, flip := s.flip, turn := s.turn, nextId := s.nextId, freeCtr := s.freeCtr, nextGid := s.nextGid, mem := s.mem,
                     poison := s.poison, net := { Net.reset with tx := s.net.tx, rx := s.net.rx }, ctl := resetCtl s.ctl, chanOut := s.chanOut, bar4 := s.bar4 }

/-! Writes. -/

/-- Change the management registers. -/
def State.modCtl (s : State) (f : Ctl → Ctl) : State := { s with ctl := f s.ctl }

/-- A write of BAR4_BASE is honoured: bits [35:0] and [59:50] of the address, and its tag, are zero (R428). -/
def bar4BaseOk (a : DWord) : Bool := bits a 35 0 == 0 && bits a 63 50 == 0

def writeMgmt (s : State) (off : Nat) (v : Word) : State :=
  let base := fun (a : DWord) => if bar4BaseOk a then s.modCtl (fun c => { c with bar4Base := a }) else s
  match off with
  | 0x08 => s.modCtl (fun c => { c with clkSteps := c.clkSteps &&& ~~~v })
  | 0x10 => { s with netWeights := v }
  | 0x18 => s.modCtl (fun c => { c with tlbAddr := setLo c.tlbAddr v })
  | 0x1C => s.modCtl (fun c => { c with tlbAddr := setHi c.tlbAddr v })
  | 0x20 =>
    if s.ctl.tlbBusy then s
    else s.modCtl (fun c => { c with tlbBusy := true, tlbAt := c.tlbAddr, tlbAll := bit v 30, tlbAsid := BitVec.ofNat 8 v.toNat })
  | 0x24 => if v = 0x4D525354 then resetModule s else s
  | 0x28 => if s.ctl.launched = false ∧ calGen s = 0 then { s with pkgId := BitVec.ofNat 10 v.toNat } else s
  | 0x30 => base (setLo s.ctl.bar4Base v)
  | 0x34 => base (setHi s.ctl.bar4Base v)
  | 0x38 => s.modCtl (fun c => { c with bar4En := bit v 31, bar4Asid := BitVec.ofNat 8 v.toNat })
  | 0x3C => s.modCtl (fun c => { c with bar4Faults := c.bar4Faults &&& ~~~v })
  | _ => s

def writeSched (s : State) (die off : Nat) (v : Word) : State :=
  match off with
  | 0x00 => s.modDie die (fun d => { d with preQuantum := BitVec.ofNat 20 v.toNat })
  | 0x04 => s.modDie die (fun d => { d with preDrain := BitVec.ofNat 16 v.toNat })
  | 0x08 => s.modDie die (fun d => { d with preSaves := d.preSaves &&& ~~~v })
  | 0x0C => s.modDie die (fun d => { d with preFlushes := d.preFlushes &&& ~~~v })
  | 0x10 => s.modDie die (fun d => { d with preDrains := d.preDrains &&& ~~~v })
  | 0x14 => abortLaunch s { die := die, id := v.toNat }
  | _ => s

def writeDbg (s : State) (die off : Nat) (v : Word) : State :=
  match off with
  | 0x00 => writeDbgCtl s die v
  | 0x04 => s.modDie die (fun d => { d with dbgLaunch := v, dbgResult := 0 })
  | 0x08 => s.modDie die (fun d => { d with dbgTeam := v, dbgResult := 0 })
  | 0x0C => s.modDie die (fun d => { d with dbgThread := BitVec.ofNat 14 v.toNat, dbgResult := 0 })
  | 0x10 => s.modDie die (fun d => { d with dbgItem := BitVec.ofNat 12 v.toNat, dbgResult := 0 })
  | 0x14 => writeDbgData s die v
  | _ => s

def writeRoot (s : State) (die asid : Nat) (hi : Bool) (v : Word) : State :=
  let x := if hi then setHi (rootWord s die asid) v else setLo (rootWord s die asid) v
  let rest := s.roots.filter (fun r => !(r.1 == die && r.2.1 == asid))
  { s with roots := if x = 0 then rest else (die, asid, x) :: rest }

def writeWindow (s : State) (k part : Nat) (v : Word) : State :=
  let put := fun (w : DWord × DWord) => match part with
    | 0 => (setLo w.1 v, w.2)
    | 1 => (setHi w.1 v, w.2)
    | 2 => (w.1, setLo w.2 v)
    | _ => (w.1, setHi w.2 v)
  { s with windows := s.windows.modify k put }

def writeQueue (s : State) (q off : Nat) (v : Word) : State :=
  let put := fun (c : CQueue) => match off with
    | 0x00 => { c with base := setLo c.base v }
    | 0x08 => { c with base := setHi c.base v }
    | 0x10 => { c with size := v }
    | 0x18 => { c with en := bit v 0 }
    | 0x1C => { c with asid := BitVec.ofNat 8 v.toNat }
    | _ => c
  { s with queues := s.queues.modify q put }

/-- A write of a fault queue's registers; records that wait may then go into the ring (R433). -/
def writeFq (s : State) (die off : Nat) (v : Word) : State :=
  let put := fun (d : DieRegs) => match off with
    | 0x00 => { d with fqBase := setLo d.fqBase v }
    | 0x08 => { d with fqBase := setHi d.fqBase v }
    | 0x10 => { d with fqSize := v }
    | 0x18 => { d with fqHead := v }
    | 0x1C => { d with fqAsid := BitVec.ofNat 8 v.toNat }
    | _ => d
  ringPump (s.modDie die put) die

/-- A BAR0 register takes a permitted write (R5, R427). -/
def putReg (s : State) (off : Nat) (v : Word) : State :=
  match regAt off with
  | .mgmt o => writeMgmt s o v
  | .sched d o => writeSched s d o v
  | .dbg d o => writeDbg s d o v
  | .err k => { s with errs := s.errs.set k (BitVec.ofNat 16 (bits v 31 16), BitVec.ofNat 16 v.toNat) }
  | .root d a hi => writeRoot s d a hi v
  | .window k part => writeWindow s k part v
  | .podKey k => { s with podKeys := s.podKeys.set k (BitVec.ofNat 32 (bits v 31 16 * 2 ^ 16 + flag (bit v 8) 8 + bits v 7 0)) }
  | .queue q o => writeQueue s q o v
  | .fq d o => writeFq s d o v
  | .nothing => s

/-- Who may write a register (R427): the owner; host function 0 the registers of queue 0 while there is no owner. -/
def mayWrite (s : State) (a : Agent) (off : Nat) : Bool :=
  s.ctl.owner == a.code || (s.ctl.owner == 3 && a == .host && (match regAt off with
    | .queue 0 _ => true
    | _ => false))

/-- A write of a BAR0 register by an agent (R5, R427, R436, R437): one that is not permitted is ignored, but that a debug register
answers with RESULT 4; before stage 1 only the management block answers; a stopped module takes only the RESET key. -/
def writeReg (s : State) (a : Agent) (off : Nat) (v : Word) : State :=
  let isMgmt := match regAt off with
    | .mgmt _ => true
    | _ => false
  if (s.ctl.stage = 0 ∧ s.ctl.recovery = false ∧ isMgmt = false) ∨ (s.ctl.fatal ∧ off ≠ 0x24) then s
  else if mayWrite s a off then putReg s off v
  else match regAt off with
    | .dbg d _ => setResult s d 4
    | _ => s

end Sys2Proof.Machine
end

