-- ==== Sys2Proof/Machine/Host.lean ====
section
/-! DEFINITION. Host.lean: what reaches the part from outside: doorbells and register writes (R426–R430), BAR4 (R429), module reset
and bring-up (R435, R436), the clock, the coolant, the links (R16, R437, R440), host memory that does not answer (R162), stack
memory that fails (R442). -/
namespace Sys2Proof.Machine

/-- DOORBELL (R426, R430): host function 0 makes entries of a queue available. -/
def execDoorbell (q : Nat) (x : Word) (s : State) : Out :=
  if q < 16 then .next { s with queues := s.queues.modify q (fun c => { c with avail := x }) } else notNow

/-- REGISTER_WRITE (R5, R427). -/
def execRegisterWrite (a : Agent) (off : Nat) (v : Word) (s : State) : Out :=
  if off < 2 ^ 24 ∧ off % 4 = 0 then .next (writeReg s a off v) else notNow

/-- TLBINV (R428): a write of TLBINV starts an invalidation. -/
def execTlbinv (a : Agent) (v : Word) (s : State) : Out := .next (writeReg s a 0x20 v)

/-- An access of an ASID translated for a page, of which only the largest size is known, has not been performed (R177). -/
def asidBusy (s : State) (asid : Nat) : Bool :=
  s.groups.any (fun g => match s.launch? g.launch with
    | none => false
    | some l => g.threads.any (fun th => th.infl.any (fun p => !p.bound && (match p.loc with
        | some (.phys ..) => if addrTag p.addr = 4 then keyAsid s l.podKey == some asid else l.asid == asid
        | _ => false))))
    || s.queries.any (fun q => q.asid == asid && q.pages.any QPage.open)

/-- TLBINV_COMPLETE (R177, R428), of the page that the write of TLBINV found in TLBINV_ADDR: no entry and no line of the page is left, every request translated with the old entry is done. -/
def execTlbinvComplete (s : State) : Out :=
  let c := s.ctl
  let asid := c.tlbAsid.toNat
  let die := addrDie c.tlbAt
  let v := addrOff c.tlbAt
  let done := fun (s : State) => s.modCtl (fun c => { c with tlbBusy := false })
  if c.tlbBusy = false then notNow
  else if c.tlbAll then
    if asidBusy s asid then notNow
    else
      let keep := fun (x : Copy) => x.asid != asid
      .next (done { s with mtlb := s.mtlb.filter (fun m => m.asid != asid), l1 := s.l1.filter keep, rdc := s.rdc.filter keep })
  else if pageBusy s asid die v 2 then notNow
  else
    let mine := fun (m : Mtlb) => m.die == die && m.asid == asid && m.page == v / 2 ^ pageBits m.lvl
    .next (done (dropPage { s with mtlb := s.mtlb.filter (fun m => !mine m) } (some asid) die v 2))

/-- RESET (R428, R435): a write of the key resets the module. -/
def execResetWrite (a : Agent) (v : Word) (s : State) : Out := .next (writeReg s a 0x24 v)

/-- ABORT (R344, R349): a write of a launch's identity. -/
def execAbortWrite (a : Agent) (die : Nat) (v : Word) (s : State) : Out :=
  if die < 4 then .next (writeReg s a (0x10014 + 0x1000 * die) v) else notNow

/-- DBG_HALT (R355, R356): a write of DBG_CTL with HALT. -/
def execDbgHalt (a : Agent) (die : Nat) (v : Word) (s : State) : Out :=
  if die < 4 ∧ bit v 30 then .next (writeReg s a (0x20000 + 0x1000 * die) v) else notNow

/-- DBG_GO (R355, R357): a write of DBG_CTL with GO. -/
def execDbgGo (a : Agent) (die : Nat) (v : Word) (s : State) : Out :=
  if die < 4 ∧ bit v 31 then .next (writeReg s a (0x20000 + 0x1000 * die) v) else notNow

/-- DBG_STEP (R355): a write of DBG_CTL with STEP. -/
def execDbgStep (a : Agent) (die : Nat) (v : Word) (s : State) : Out :=
  if die < 4 ∧ bit v 26 then .next (writeReg s a (0x20000 + 0x1000 * die) v) else notNow

/-- DBG_DATA (R355, R357): a write of the selected item. -/
def execDbgData (a : Agent) (die : Nat) (v : Word) (s : State) : Out :=
  if die < 4 then .next (writeReg s a (0x20014 + 0x1000 * die) v) else notNow

/-! BAR4 (R429). -/

/-- A BAR4 access that PCIe can carry: within the window and one 4 KiB block. -/
def bar4Form (off n : Nat) : Bool := n != 0 && decide (off % 4096 + n ≤ 4096) && decide (off + n ≤ 2 ^ 36)

/-- The address that an offset reaches, and its memory key if the access is not refused. -/
def bar4Key (s : State) (off : Nat) (p : Perm) : Option (DWord × Nat) :=
  let a := s.ctl.bar4Base + BitVec.ofNat 64 off
  if s.ctl.bar4En = false then none
  else match translate s (addrDie a) s.ctl.bar4Asid.toNat (addrOff a) p with
  | .ok (lvl, e) => some (a, hbmKey (addrDie a) (physOf lvl e (addrOff a)))
  | .error _ => none

/-- Count the uncorrectable error that its walk met, if any (R442). -/
def bar4Count (s : State) (off : Nat) : State :=
  let a := s.ctl.bar4Base + BitVec.ofNat 64 off
  if s.ctl.bar4En then countWalk s (addrDie a) s.ctl.bar4Asid.toNat (addrOff a) else s

/-- A refused BAR4 access is counted. -/
def bar4Refused (s : State) : State := s.modCtl (fun c => { c with bar4Faults := satAdd c.bar4Faults 1 })

/-- The window is not served: a stopped module answers nothing but what R437 lists, one in recovery only commands (R19). -/
def bar4Dead (s : State) : Bool := s.ctl.fatal || s.ctl.recovery

/-- BAR4_READ (R429): data, poisoned data, or Completer Abort. -/
def execBar4Read (off n : Nat) (s : State) : Out :=
  if bar4Form off n = false then notNow
  else if bar4Dead s then .next { s with bar4 := { status := 0, data := [] } }
  else match bar4Key s off .read with
  | none => .next { bar4Refused (bar4Count s off) with bar4 := { status := 2, data := [] } }
  | some (a, k) =>
    let s1 := fillMtlb s (addrDie a) s.ctl.bar4Asid.toNat (addrOff a)
    let bs := memRead s.mem n k
    if poisoned s k n then .next { countErr s1 k with bar4 := { status := 3, data := bs } }
    else .next { s1 with bar4 := { status := 1, data := bs } }

/-- BAR4_WRITE (R429): performed, or dropped and counted. -/
def execBar4Write (off : Nat) (data : List Byte) (s : State) : Out :=
  if bar4Form off data.length = false then notNow
  else if bar4Dead s then .next s
  else match bar4Key s off .write with
  | none => .next (bar4Refused (bar4Count s off))
  | some (a, k) => .next (pocWrite (fillMtlb s (addrDie a) s.ctl.bar4Asid.toNat (addrOff a)) none k data)

/-! Reset and bring-up (R435, R436). -/

/-- MODULE_RESET (R435). -/
def execModuleReset (s : State) : Out := .next (resetModule s)

/-- The check of the configuration record (R18, R19, R350): its signature verifies, it maps the 48 cores of each die onto different ones of its 50
sites, and its save pool lies within its limits. It is applied as a whole or not at all. -/
def recordOk (r : Record) : Bool :=
  r.signed && r.sites.length == 4 && r.sites.all (fun d => d.length == 48 && d.eraseDups.length == 48 && d.all (fun x => decide (x < 50)))
    && decide (1 ≤ r.savePool) && decide (r.savePool ≤ 16)

/-- The physical site of a logical core of a die under the record in force (R14, R18): no register and no result shows it. -/
def coreSite (s : State) (core : Nat) : Option Nat := (s.ctl.config.sites[coreDie core]?).bind (fun d => d[coreLocal core]?)

/-- What the work of a stage adds to the measurements (R438): the ROM and the stage-1 firmware, the record, the stage-2 firmware. -/
def stageDigests (s : State) (k : Nat) : List (List Byte) := match k with
  | 0 => [shake256 (Config.image 1), shake256 (Config.image 2)]
  | 1 => [shake256 s.ctl.config.bytes]
  | 5 => [shake256 (Config.image 4)]
  | _ => []

/-- What the check of a stage says (R19, R438): of the signature of the stage-1 firmware, of the record, of the signature of the stage-2 firmware. -/
def stageCheck (s : State) (k : Nat) : Option Bool := match k with
  | 0 => some s.ctl.fwSigned.1
  | 1 => some (recordOk s.ctl.config)
  | 5 => some s.ctl.fwSigned.2
  | _ => none

/-- BRING_UP_STAGE (R19, R436, R438): the work of the current stage has finished, or failed: a firmware image or the record that does not verify
leads to recovery, a stack or a link that does not train to FATAL. Stages 0, 1 and 5 end as the checks of the images and of the record say. What a die does that has fewer than
48 good sites the spec does not say, nor how the trimming of stage 6 may fail: here those stages do not fail (DESIGN CHOICE, assumption log 28). -/
def execBringUpStage (ok : Bool) (s : State) : Out :=
  let k := s.ctl.stage
  let s0 := s.modCtl (fun c => { c with measured := c.measured ++ stageDigests s k })
  if 7 ≤ k ∨ s.ctl.fatal ∨ s.ctl.recovery ∨ (stageCheck s k).any (fun x => x != ok) then notNow
  else if ok then
    let s1 := s0.modCtl (fun c => { c with stage := k + 1 })
    .next (if k = 3 then { s1 with mem := s1.mem.filter (fun c => !isHbm c.1), poison := s1.poison.filter (fun u => !isHbm (u.1 * 64)) } else s1)
  else match k with
  | 0 => .next (s0.modCtl (fun c => { c with recovery := true }))
  | 1 => .next (s0.modCtl (fun c => { c with recovery := true }))
  | 2 => .next (setFatal s0 1)
  | 3 => .next (setFatal s0 3)
  | 5 => .next (s0.modCtl (fun c => { c with recovery := true }))
  | _ => notNow

/-! Clock, coolant, links (R16, R437, R440). -/

/-- The measured coolant keeps the limits that the module needs (R440): the inlet at most 40 °C, in tenths, the flow at least 3.0 L/min, in hundredths. -/
def coolantGood (c : Ctl) : Bool := decide (c.inlet.toNat ≤ 400) && decide (300 ≤ c.flow.toNat)

/-- CLOCK_STEP (R16, R428, R440): the core clock moves by 100 MHz between 900 and 1,800 MHz, and the change is counted; it does not rise while the
coolant is outside its limits. -/
def execClockStep (up : Bool) (s : State) : Out :=
  let f := s.ctl.clkNow.toNat
  let g := if up then f + 100 else f - 100
  if 900 ≤ g ∧ g ≤ 1800 ∧ (up → coolantGood s.ctl) then .next (s.modCtl (fun c => { c with clkNow := BitVec.ofNat 16 g, clkSteps := satAdd c.clkSteps 1 })) else notNow

/-- The measured coolant is such that R440 stops the module: the inlet above 50 °C, in tenths, or the flow for one second below 1.5 L/min, in hundredths. -/
def coolantBad (s : State) : Bool := decide (500 < s.ctl.inlet.toNat) || s.ctl.lowSince.any (fun t => decide (t + 10 ^ 9 ≤ s.ns))

/-- COOLANT_FATAL (R437, R440). -/
def execCoolantFatal (s : State) : Out := if s.ctl.fatal ∨ coolantBad s = false then notNow else .next (setFatal s 2)

/-- A measurement of the coolant (R428): one outside the limits of R440 lowers the clock by a step, down to 900 MHz. -/
def measureCoolant (s : State) (flow inlet : BitVec 16) : State :=
  let low := if flow.toNat < 150 then some (s.ctl.lowSince.getD s.ns) else none
  let s1 := s.modCtl (fun c => { c with flow := flow, inlet := inlet, lowSince := low })
  if coolantGood s1.ctl then s1 else match execClockStep false s1 with
    | .next s2 => s2
    | _ => s1

/-- LINK_FAILURE (R363, R437). -/
def execLinkFailure (s : State) : Out := if s.ctl.fatal then notNow else .next (setFatal s 1)

/-! Host memory and stack memory. -/

/-- A copy has still to read a source unit in host memory, or to write a destination unit there. -/
def CopyCmd.toHost (c : CopyCmd) : Bool :=
  (addrTag c.src == 2 && decide (c.srcOk.length < c.units)) || (addrTag c.dst == 2 && decide (c.done.length < c.units))

/-- COMPLETION_TIMEOUT (R162): a host access of a thread is refused with NOT_PRESENT reason 3; a copy of a thread or of the host that has still
a unit in host memory to do fails with code 9 (R247, R432). -/
def execCompletionTimeout (t : Tid) (id : Nat) (s : State) : Out :=
  match s.pend? t id, s.copies.find? (fun c => c.id == id && c.t == t) with
  | some p, _ =>
    if p.bound = false ∧ p.loc = some .host then .next (s.modThread t (fun th => th.refuse p (p.trap notPresent 3))) else notNow
  | none, some c =>
    if c.st = .running ∧ c.fail = 0 ∧ c.toHost then
      .next { s with copies := s.copies.map (fun x => if x.id = id then { x with fail := 9 } else x) }
    else notNow
  | none, none => match s.cmds.find? (fun c => c.id == id) with
    | some c => match c.wait with
      | .copy _ => if addrTag (c.ptr 0x08) = 2 ∨ addrTag (c.ptr 0x10) = 2 then .next (completeCmd s c 0 0 9) else notNow
      | _ => notNow
    | none => notNow

/-- UNIT_POISONED (R442): the 64-byte unit of stack memory that holds a key becomes poisoned; of host memory, one that host memory
answers as poisoned from then on (R162). -/
def execUnitPoisoned (key : Nat) (s : State) : Out :=
  if isHbm key || isHost key then .next { s with poison := (key / 64, 0) :: s.poison.filter (fun u => u.1 != key / 64) } else notNow

end Sys2Proof.Machine
end

