-- ==== Sys2Proof/Machine/Alu.lean ====
section
/-! DEFINITION. Alu.lean: what the integer instructions compute from the bits of their operands (R74–R81). -/
namespace Sys2Proof.Machine

/-- The low five bits of a shift operand (R74). -/
def amt (b : Word) : Nat := b.toNat % 32

def iMulh (a b : Word) : Word := BitVec.ofInt 32 ((a.toInt * b.toInt) / 2 ^ 32)
def iMulhu (a b : Word) : Word := BitVec.ofNat 32 (a.toNat * b.toNat / 2 ^ 32)
def iSar (a : Word) (k : Nat) : Word := BitVec.sshiftRight a k
def iMin (a b : Word) : Word := if b.toInt < a.toInt then b else a
def iMax (a b : Word) : Word := if a.toInt < b.toInt then b else a
def iMinU (a b : Word) : Word := if b.toNat < a.toNat then b else a
def iMaxU (a b : Word) : Word := if a.toNat < b.toNat then b else a
def iRol (a : Word) (k : Nat) : Word := a.rotateLeft (k % 32)

/-- sext(a) × sext(b) + d (R75). -/
def iMadw (a b : Word) (d : DWord) : DWord := BitVec.ofInt 64 (a.toInt * b.toInt) + d

def iClz (a : Word) : Word := if a = 0 then 32 else BitVec.ofNat 32 (31 - Nat.log2 a.toNat)

def popGo : Nat → Nat → Nat
  | 0, _ => 0
  | n + 1, x => x % 2 + popGo n (x / 2)
/-- Set bits of the low `n` bits of a number. -/
def popCount (n x : Nat) : Nat := popGo n x
def iPopc (a : Word) : Word := BitVec.ofNat 32 (popCount 32 a.toNat)

def brevGo : Nat → Nat → Nat → Nat
  | 0, _, acc => acc
  | n + 1, x, acc => brevGo n (x / 2) (2 * acc + x % 2)
def iBrev (a : Word) : Word := BitVec.ofNat 32 (brevGo 32 a.toNat 0)

/-- BFE (R76). -/
def iBfe (a b : Word) : Word :=
  let pos := bits b 4 0
  let len := min (bits b 13 8) 32
  let f := a.toNat / 2 ^ pos % 2 ^ len
  if bit b 16 = true ∧ 0 < len ∧ f / 2 ^ (len - 1) % 2 = 1 then BitVec.ofInt 32 ((f : Int) - 2 ^ len)
  else BitVec.ofNat 32 f

/-- BFI (R76). -/
def iBfi (a b d : Word) : Word :=
  let pos := bits b 4 0
  let len := min (bits b 13 8) 32
  let mask : Word := BitVec.ofNat 32 ((2 ^ len - 1) * 2 ^ pos)
  (d &&& ~~~ mask) ||| (BitVec.ofNat 32 (a.toNat * 2 ^ pos) &&& mask)

/-- The byte of a PRMT selector (R76). -/
def prmtByte (a : DWord) (b : Word) (i : Nat) : Nat :=
  let y := bits a (8 * bits b (4 * i + 2) (4 * i) + 7) (8 * bits b (4 * i + 2) (4 * i))
  if bits b (4 * i + 3) (4 * i + 3) = 1 then 0xFF * (y / 2 ^ 7) else y

/-- PRMT (R76). -/
def iPrmt (a : DWord) (b : Word) : Word :=
  BitVec.ofNat 32 (prmtByte a b 0 + 2 ^ 8 * prmtByte a b 1 + 2 ^ 16 * prmtByte a b 2 + 2 ^ 24 * prmtByte a b 3)

/-- Signed quotient and remainder (R77). -/
def iDivRem (a b : Word) : Word × Word :=
  if b = 0 then (0xFFFFFFFF, a)
  else (BitVec.ofInt 32 (Int.tdiv a.toInt b.toInt), BitVec.ofInt 32 (Int.tmod a.toInt b.toInt))

/-- Unsigned quotient and remainder (R77). -/
def iDivRemU (a b : Word) : Word × Word :=
  if b = 0 then (0xFFFFFFFF, a) else (BitVec.ofNat 32 (a.toNat / b.toNat), BitVec.ofNat 32 (a.toNat % b.toNat))

/-- MOVH (R78). -/
def iMovh (i : BitVec 18) (d : Word) : Word := BitVec.ofNat 32 (i.toNat * 2 ^ 14 + d.toNat % 2 ^ 14)

/-- The low `w` bits, sign-extended or zero-extended (R81). -/
def iSextW (a : Word) (w : Nat) : Word := BitVec.ofInt 32 (sextN w a.toNat)
def iZextW (a : Word) (w : Nat) : Word := BitVec.ofNat 32 (a.toNat % 2 ^ w)

end Sys2Proof.Machine
end

