-- ==== Sys2Proof/Machine/Int.lean ====
section
/-! DEFINITION. Int.lean: the integer instructions: IOP, IOPX, ICMP, the immediate forms, SEL, LEA and MOVX
(spec/04_integer_control.md). -/
namespace Sys2Proof.Machine

/-- add (R74): d := a + b. -/
def execAdd (h : Bool) (d a b : BitVec 7) (s : State) : Out :=
  issueReg h s (op2 (fun x y => x + y) d a b)

/-- sub (R74): d := a − b. -/
def execSub (h : Bool) (d a b : BitVec 7) (s : State) : Out :=
  issueReg h s (op2 (fun x y => x - y) d a b)

/-- mul (R74): d := a × b, low 32 bits. -/
def execMul (h : Bool) (d a b : BitVec 7) (s : State) : Out :=
  issueReg h s (op2 (fun x y => x * y) d a b)

/-- mulh (R74): the high word of the signed product. -/
def execMulh (h : Bool) (d a b : BitVec 7) (s : State) : Out :=
  issueReg h s (op2 iMulh d a b)

/-- mulhu (R74): the high word of the unsigned product. -/
def execMulhu (h : Bool) (d a b : BitVec 7) (s : State) : Out :=
  issueReg h s (op2 iMulhu d a b)

/-- and (R74): d := a AND b. -/
def execAnd (h : Bool) (d a b : BitVec 7) (s : State) : Out :=
  issueReg h s (op2 (fun x y => x &&& y) d a b)

/-- or (R74): d := a OR b. -/
def execOr (h : Bool) (d a b : BitVec 7) (s : State) : Out :=
  issueReg h s (op2 (fun x y => x ||| y) d a b)

/-- xor (R74): d := a XOR b. -/
def execXor (h : Bool) (d a b : BitVec 7) (s : State) : Out :=
  issueReg h s (op2 (fun x y => x ^^^ y) d a b)

/-- andn (R74): d := a AND NOT b. -/
def execAndn (h : Bool) (d a b : BitVec 7) (s : State) : Out :=
  issueReg h s (op2 (fun x y => x &&& ~~~ y) d a b)

/-- shl (R74): d := a << b[4:0]. -/
def execShl (h : Bool) (d a b : BitVec 7) (s : State) : Out :=
  issueReg h s (op2 (fun x y => x <<< amt y) d a b)

/-- shr (R74): d := a >> b[4:0], filling with 0. -/
def execShr (h : Bool) (d a b : BitVec 7) (s : State) : Out :=
  issueReg h s (op2 (fun x y => x >>> amt y) d a b)

/-- sar (R74): d := a >> b[4:0], filling with a[31]. -/
def execSar (h : Bool) (d a b : BitVec 7) (s : State) : Out :=
  issueReg h s (op2 (fun x y => iSar x (amt y)) d a b)

/-- min (R74): signed lesser. -/
def execMin (h : Bool) (d a b : BitVec 7) (s : State) : Out :=
  issueReg h s (op2 iMin d a b)

/-- max (R74): signed greater. -/
def execMax (h : Bool) (d a b : BitVec 7) (s : State) : Out :=
  issueReg h s (op2 iMax d a b)

/-- minu (R74): unsigned lesser. -/
def execMinu (h : Bool) (d a b : BitVec 7) (s : State) : Out :=
  issueReg h s (op2 iMinU d a b)

/-- maxu (R74): unsigned greater. -/
def execMaxu (h : Bool) (d a b : BitVec 7) (s : State) : Out :=
  issueReg h s (op2 iMaxU d a b)

/-- add64 (R75): pairs, d := a + b. -/
def execAdd64 (h : Bool) (d a b : BitVec 7) (s : State) : Out :=
  issueReg h s (op2p (fun x y => x + y) d a b)

/-- sub64 (R75): pairs, d := a − b. -/
def execSub64 (h : Bool) (d a b : BitVec 7) (s : State) : Out :=
  issueReg h s (op2p (fun x y => x - y) d a b)

/-- mul64 (R75): pairs, d := a × b, low 64 bits. -/
def execMul64 (h : Bool) (d a b : BitVec 7) (s : State) : Out :=
  issueReg h s (op2p (fun x y => x * y) d a b)

/-- mad (R75): d := a × b + d, low 32 bits. -/
def execMad (h : Bool) (d a b : BitVec 7) (s : State) : Out :=
  issueReg h s (op3 (fun x y z => x * y + z) d a b)

/-- MADW on registers (R75): the pair d is also the accumulator. -/
def madwRegs (d a b : BitVec 7) (c : Ctx) : Res Ctx := do
  let dst ← dest c 2 d
  let z ← src64 c d
  let x ← src32 c a
  let y ← src32 c b
  uniRule c dst [d, a, b] false
  .ok (c.write64 dst (iMadw x y z))

/-- madw (R75): d := sext(a) × sext(b) + d, low 64 bits. -/
def execMadw (h : Bool) (d a b : BitVec 7) (s : State) : Out :=
  issueReg h s (madwRegs d a b)

/-- clz (R75): leading zeros of a. -/
def execClz (h : Bool) (d a : BitVec 7) (s : State) : Out :=
  issueReg h s (op1 iClz d a)

/-- popc (R75): set bits of a. -/
def execPopc (h : Bool) (d a : BitVec 7) (s : State) : Out :=
  issueReg h s (op1 iPopc d a)

/-- brev (R75): a with bit i moved to bit 31 − i. -/
def execBrev (h : Bool) (d a : BitVec 7) (s : State) : Out :=
  issueReg h s (op1 iBrev d a)

/-- bfe (R76): field extract. -/
def execBfe (h : Bool) (d a b : BitVec 7) (s : State) : Out :=
  issueReg h s (op2 iBfe d a b)

/-- bfi (R76): field insert into d. -/
def execBfi (h : Bool) (d a b : BitVec 7) (s : State) : Out :=
  issueReg h s (op3 iBfi d a b)

/-- PRMT on registers (R76). -/
def prmtRegs (d a b : BitVec 7) (c : Ctx) : Res Ctx := do
  let dst ← dest c 1 d
  let x ← src64 c a
  let y ← src32 c b
  uniRule c dst [a, b] false
  .ok (c.write dst [iPrmt x y])

/-- prmt (R76): byte permute of the pair a. -/
def execPrmt (h : Bool) (d a b : BitVec 7) (s : State) : Out :=
  issueReg h s (prmtRegs d a b)

/-- rol (R75): a rotated left by b[4:0]. -/
def execRol (h : Bool) (d a b : BitVec 7) (s : State) : Out :=
  issueReg h s (op2 (fun x y => iRol x (amt y)) d a b)

/-- A division: a variable-latency result (R77, R33). -/
def divRegs (f : Word → Word → Word) (d a b : BitVec 7) (c : Ctx) : Res VarRes := do
  let dst ← dest c 1 d
  let x ← src32 c a
  let y ← src32 c b
  uniRule c dst [a, b] false
  .ok { c := c, dst := dst, vals := [f x y] }

/-- div (R77): signed quotient. -/
def execDiv (h : Bool) (d a b : BitVec 7) (s : State) : Out :=
  issueVar h s (divRegs (fun x y => (iDivRem x y).1) d a b)

/-- divu (R77): unsigned quotient. -/
def execDivu (h : Bool) (d a b : BitVec 7) (s : State) : Out :=
  issueVar h s (divRegs (fun x y => (iDivRemU x y).1) d a b)

/-- rem (R77): signed remainder. -/
def execRem (h : Bool) (d a b : BitVec 7) (s : State) : Out :=
  issueVar h s (divRegs (fun x y => (iDivRem x y).2) d a b)

/-- remu (R77): unsigned remainder. -/
def execRemu (h : Bool) (d a b : BitVec 7) (s : State) : Out :=
  issueVar h s (divRegs (fun x y => (iDivRemU x y).2) d a b)

/-- icmpEq (R82): condition 0 into a predicate. -/
def execIcmpEq (h : Bool) (k : BitVec 2) (p : BitVec 3) (a b : BitVec 7) (s : State) : Out :=
  issueReg h s (cmp32 (icmpCond 0) k p a b)

/-- icmpNe (R82): condition 1 into a predicate. -/
def execIcmpNe (h : Bool) (k : BitVec 2) (p : BitVec 3) (a b : BitVec 7) (s : State) : Out :=
  issueReg h s (cmp32 (icmpCond 1) k p a b)

/-- icmpLt (R82): condition 2 into a predicate. -/
def execIcmpLt (h : Bool) (k : BitVec 2) (p : BitVec 3) (a b : BitVec 7) (s : State) : Out :=
  issueReg h s (cmp32 (icmpCond 2) k p a b)

/-- icmpLe (R82): condition 3 into a predicate. -/
def execIcmpLe (h : Bool) (k : BitVec 2) (p : BitVec 3) (a b : BitVec 7) (s : State) : Out :=
  issueReg h s (cmp32 (icmpCond 3) k p a b)

/-- icmpGt (R82): condition 4 into a predicate. -/
def execIcmpGt (h : Bool) (k : BitVec 2) (p : BitVec 3) (a b : BitVec 7) (s : State) : Out :=
  issueReg h s (cmp32 (icmpCond 4) k p a b)

/-- icmpGe (R82): condition 5 into a predicate. -/
def execIcmpGe (h : Bool) (k : BitVec 2) (p : BitVec 3) (a b : BitVec 7) (s : State) : Out :=
  issueReg h s (cmp32 (icmpCond 5) k p a b)

/-- icmpLtu (R82): condition 6 into a predicate. -/
def execIcmpLtu (h : Bool) (k : BitVec 2) (p : BitVec 3) (a b : BitVec 7) (s : State) : Out :=
  issueReg h s (cmp32 (icmpCond 6) k p a b)

/-- icmpLeu (R82): condition 7 into a predicate. -/
def execIcmpLeu (h : Bool) (k : BitVec 2) (p : BitVec 3) (a b : BitVec 7) (s : State) : Out :=
  issueReg h s (cmp32 (icmpCond 7) k p a b)

/-- icmpGtu (R82): condition 8 into a predicate. -/
def execIcmpGtu (h : Bool) (k : BitVec 2) (p : BitVec 3) (a b : BitVec 7) (s : State) : Out :=
  issueReg h s (cmp32 (icmpCond 8) k p a b)

/-- icmpGeu (R82): condition 9 into a predicate. -/
def execIcmpGeu (h : Bool) (k : BitVec 2) (p : BitVec 3) (a b : BitVec 7) (s : State) : Out :=
  issueReg h s (cmp32 (icmpCond 9) k p a b)

/-- icmpEq64 (R82): a 64-bit condition into a predicate. -/
def execIcmpEq64 (h : Bool) (k : BitVec 2) (p : BitVec 3) (a b : BitVec 7) (s : State) : Out :=
  issueReg h s (cmp64 (fun x y => x == y) k p a b)

/-- icmpNe64 (R82): a 64-bit condition into a predicate. -/
def execIcmpNe64 (h : Bool) (k : BitVec 2) (p : BitVec 3) (a b : BitVec 7) (s : State) : Out :=
  issueReg h s (cmp64 (fun x y => x != y) k p a b)

/-- icmpLt64 (R82): a 64-bit condition into a predicate. -/
def execIcmpLt64 (h : Bool) (k : BitVec 2) (p : BitVec 3) (a b : BitVec 7) (s : State) : Out :=
  issueReg h s (cmp64 (fun x y => decide (x.toInt < y.toInt)) k p a b)

/-- icmpLtu64 (R82): a 64-bit condition into a predicate. -/
def execIcmpLtu64 (h : Bool) (k : BitVec 2) (p : BitVec 3) (a b : BitVec 7) (s : State) : Out :=
  issueReg h s (cmp64 (fun x y => decide (x.toNat < y.toNat)) k p a b)

/-- icmpBtst (R82): bit b[4:0] of a into a predicate. -/
def execIcmpBtst (h : Bool) (k : BitVec 2) (p : BitVec 3) (a b : BitVec 7) (s : State) : Out :=
  issueReg h s (cmp32 (fun x y => bit x (amt y)) k p a b)

/-- addi (R78): d := a + sext(imm). -/
def execAddi (h : Bool) (d a : BitVec 7) (i : BitVec 11) (s : State) : Out :=
  issueReg h s (op1 (fun x => x + i.signExtend 32) d a)

/-- andi (R78): d := a AND zext(imm). -/
def execAndi (h : Bool) (d a : BitVec 7) (i : BitVec 11) (s : State) : Out :=
  issueReg h s (op1 (fun x => x &&& i.zeroExtend 32) d a)

/-- ori (R78): d := a OR zext(imm). -/
def execOri (h : Bool) (d a : BitVec 7) (i : BitVec 11) (s : State) : Out :=
  issueReg h s (op1 (fun x => x ||| i.zeroExtend 32) d a)

/-- xori (R78): d := a XOR zext(imm). -/
def execXori (h : Bool) (d a : BitVec 7) (i : BitVec 11) (s : State) : Out :=
  issueReg h s (op1 (fun x => x ^^^ i.zeroExtend 32) d a)

/-- shli (R78): d := a << n. -/
def execShli (h : Bool) (d a : BitVec 7) (n : BitVec 6) (s : State) : Out :=
  issueReg h s (op1 (fun x => x <<< n.toNat) d a)

/-- shri (R78): d := a >> n, filling with 0. -/
def execShri (h : Bool) (d a : BitVec 7) (n : BitVec 6) (s : State) : Out :=
  issueReg h s (op1 (fun x => x >>> n.toNat) d a)

/-- sari (R78): d := a >> n, filling with a[31]. -/
def execSari (h : Bool) (d a : BitVec 7) (n : BitVec 6) (s : State) : Out :=
  issueReg h s (op1 (fun x => iSar x n.toNat) d a)

/-- roli (R78): a rotated left by n. -/
def execRoli (h : Bool) (d a : BitVec 7) (n : BitVec 6) (s : State) : Out :=
  issueReg h s (op1 (fun x => iRol x n.toNat) d a)

/-- shli64 (R78): pairs, d := a << n. -/
def execShli64 (h : Bool) (d a : BitVec 7) (n : BitVec 6) (s : State) : Out :=
  issueReg h s (op1p (fun x => x <<< n.toNat) d a)

/-- shri64 (R78): pairs, d := a >> n, filling with 0. -/
def execShri64 (h : Bool) (d a : BitVec 7) (n : BitVec 6) (s : State) : Out :=
  issueReg h s (op1p (fun x => x >>> n.toNat) d a)

/-- sari64 (R78): pairs, d := a >> n, filling with a[63]. -/
def execSari64 (h : Bool) (d a : BitVec 7) (n : BitVec 6) (s : State) : Out :=
  issueReg h s (op1p (fun x => BitVec.sshiftRight x n.toNat) d a)

/-- muli (R78): d := a × sext(imm), low 32 bits. -/
def execMuli (h : Bool) (d a : BitVec 7) (i : BitVec 11) (s : State) : Out :=
  issueReg h s (op1 (fun x => x * i.signExtend 32) d a)

/-- CMPI on registers (R83). -/
def cmpiRegs (k : BitVec 4) (p : BitVec 3) (a : BitVec 7) (i : BitVec 11) (c : Ctx) : Res Ctx := do
  let x ← src32 c a
  .ok (setCond c 0 p (icmpCond k.toNat x (i.signExtend 32)))

/-- cmpi (R83): a condition of a and sext(imm) into a predicate. -/
def execCmpi (h : Bool) (k : BitVec 4) (p : BitVec 3) (a : BitVec 7) (i : BitVec 11) (s : State) : Out :=
  issueReg h s (cmpiRegs k p a i)

/-- MOVW on registers (R78). -/
def movwRegs (d : BitVec 7) (i : BitVec 18) (c : Ctx) : Res Ctx := do
  let dst ← dest c 1 d
  .ok (c.write dst [i.signExtend 32])

/-- movw (R78): d := sext(imm18). -/
def execMovw (h : Bool) (d : BitVec 7) (i : BitVec 18) (s : State) : Out :=
  issueReg h s (movwRegs d i)

/-- movh (R78): the high 18 bits of d := imm18. -/
def execMovh (h : Bool) (d : BitVec 7) (i : BitVec 18) (s : State) : Out :=
  issueReg h s (op1 (fun x => iMovh i x) d d)

/-- SEL on registers (R79). It reads a predicate, so it may not write a uniform register (R63). -/
def selRegs (n : Bool) (p : BitVec 3) (d a b : BitVec 7) (c : Ctx) : Res Ctx := do
  let dst ← dest c 1 d
  let x ← src32 c a
  let y ← src32 c b
  uniRule c dst [a, b] true
  .ok (c.write dst [if (c.pred p != n) then x else y])

/-- sel (R79): a or b, by a predicate. -/
def execSel (h : Bool) (n : Bool) (p : BitVec 3) (d a b : BitVec 7) (s : State) : Out :=
  issueReg h s (selRegs n p d a b)

/-- LEA on registers (R80). -/
def leaRegs (sh : BitVec 4) (d a b : BitVec 7) (c : Ctx) : Res Ctx := do
  let dst ← dest c 2 d
  let x ← src64 c a
  let y ← src32 c b
  uniRule c dst [a, b] false
  .ok (c.write64 dst (x + BitVec.ofNat 64 (y.toNat * 2 ^ sh.toNat)))

/-- lea (R80): pair d := pair a + (zext(b) << sh). -/
def execLea (h : Bool) (sh : BitVec 4) (d a b : BitVec 7) (s : State) : Out :=
  issueReg h s (leaRegs sh d a b)

/-- mov (R81): d := a. -/
def execMov (h : Bool) (d a : BitVec 7) (s : State) : Out :=
  issueReg h s (op1 (fun x => x) d a)

/-- mov64 (R81): pair d := pair a. -/
def execMov64 (h : Bool) (d a : BitVec 7) (s : State) : Out :=
  issueReg h s (op1p (fun x => x) d a)

/-- PMOV on registers (R81, R63). -/
def pmovRegs (d : BitVec 7) (c : Ctx) : Res Ctx := do
  let dst ← dest c 1 d
  uniRule c dst [] true
  .ok (c.write dst [BitVec.ofNat 32 (128 + c.th.preds.toNat)])

/-- pmov (R81): the predicates as a number; bit 7 reads 1. -/
def execPmov (h : Bool) (d : BitVec 7) (s : State) : Out :=
  issueReg h s (pmovRegs d)

/-- Set the predicates 0–6 that `m` selects to the bits of `v` (R81). -/
def psetBits (p : BitVec 7) (v m : Word) : BitVec 7 :=
  (List.range 7).foldl (fun q k => if bit m k then setPred q k (bit v k) else q) p

/-- PSET on registers (R81). -/
def psetRegs (a b : BitVec 7) (c : Ctx) : Res Ctx := do
  let x ← src32 c a
  let y ← src32 c b
  .ok { c with th := { c.th with preds := psetBits c.th.preds x y } }

/-- pset (R81): the predicates that b selects := bits of a. -/
def execPset (h : Bool) (a b : BitVec 7) (s : State) : Out :=
  issueReg h s (psetRegs a b)

/-- SEXT and ZEXT on registers (R81): a width of 0 or above 32 raises ILLEGAL_OPERAND. -/
def extRegs (f : Word → Nat → Word) (d a w : BitVec 7) (c : Ctx) : Res Ctx := do
  let dst ← dest c 1 d
  let x ← src32 c a
  uniRule c dst [a] false
  require (decide (1 ≤ w.toNat) && decide (w.toNat ≤ 32)) c.illegal
  .ok (c.write dst [f x w.toNat])

/-- sext (R81): the low w bits of a, sign-extended. -/
def execSext (h : Bool) (d a w : BitVec 7) (s : State) : Out :=
  issueReg h s (extRegs iSextW d a w)

/-- zext (R81): the low w bits of a, zero-extended. -/
def execZext (h : Bool) (d a w : BitVec 7) (s : State) : Out :=
  issueReg h s (extRegs iZextW d a w)

end Sys2Proof.Machine
end

