-- ==== Sys2Proof/Machine/LdSt.lean ====
section
/-! DEFINITION. LdSt.lean: the loads and stores (R204–R209). -/
namespace Sys2Proof.Machine

/-- The address of the IM forms (R204). -/
def imAddr (c : Ctx) (a : BitVec 7) (s : BitVec 3) (o : BitVec 8) : Res DWord := do
  let x ← src64 c a
  .ok (x + BitVec.ofInt 64 (o.toInt * sizeBytes s.toNat))

/-- The address of LDX and STX (R204). -/
def ixAddr (c : Ctx) (a b : BitVec 7) : Res DWord := do
  let x ← src64 c a
  let y ← src32 c b
  .ok (x + BitVec.ofInt 64 y.toInt)

/-- The registers of a size code (R43). -/
def sizeRegs (s : BitVec 3) : Nat := if s.toNat = 5 then 2 else if s.toNat = 6 then 4 else 1

/-- A load of size code `s` from the address that `f` forms (R205–R209): `srcs` are the names that form the address. -/
def load (h : Bool) (acq consume : Bool) (s : BitVec 3) (d : BitVec 7) (srcs : List (BitVec 7))
    (f : Ctx → Res DWord) (st : State) : Out :=
  issueWith h st (fun c st => do
    let dst ← dest c (sizeRegs s) d
    let a ← f c
    uniRule c dst srcs false
    require (!consume || addrTag a == 5) (c.illegalK 1)
    checkThat (accessCheck st c a (sizeBytes s.toNat) 1)
    .ok (.done (access st c a dst (.load s.toNat acq consume))))

/-- The bytes a store of size code `s` writes (R207). -/
def storeBytes (s : BitVec 3) (ws : List Word) : List Byte := bytesOf (sizeBytes s.toNat) (ofWords ws)

/-- A versioned task may store to its own die's memory and to scratch only (R297). A tile store counts as any other store and is refused (DESIGN CHOICE,
assumption log 93). -/
def versionStoreOk (c : Ctx) (a : DWord) : Bool :=
  (addrTag a == 0 && addrDie a == c.g.die) || addrTag a == 1

/-- A store of size code `s` to the address that `f` forms (R205–R208). -/
def store (h : Bool) (rel : Bool) (s : BitVec 3) (d : BitVec 7) (f : Ctx → Res DWord) (st : State) : Out :=
  issueWith h st (fun c st => do
    let v ← src c (sizeRegs s) d
    let a ← f c
    versionCheck c 2 (!rel && versionStoreOk c a)
    checkThat (accessCheck st c a (sizeBytes s.toNat) 2)
    require (!versionFull st c a) (c.illegalK 2)
    let st1 := if rel then st.modThread c.t (fun th => { th with barsFlush := true }) else st
    .ok (.done (access st1 c a .none (.store (storeBytes s v) rel))))

/-- LD (R207). -/
def execLd (h : Bool) (d a : BitVec 7) (s : BitVec 3) (o : BitVec 8) (st : State) : Out :=
  load h false false s d [a] (fun c => imAddr c a s o) st

/-- LD.ACQ (R207): an acquire. -/
def execLdAcq (h : Bool) (d a : BitVec 7) (s : BitVec 3) (o : BitVec 8) (st : State) : Out :=
  load h true false s d [a] (fun c => imAddr c a s o) st

/-- ST (R207). -/
def execSt (h : Bool) (d a : BitVec 7) (s : BitVec 3) (o : BitVec 8) (st : State) : Out :=
  store h false s d (fun c => imAddr c a s o) st

/-- ST.REL (R207): a release. -/
def execStRel (h : Bool) (d a : BitVec 7) (s : BitVec 3) (o : BitVec 8) (st : State) : Out :=
  store h true s d (fun c => imAddr c a s o) st

/-- LDX (R208). -/
def execLdx (h : Bool) (s : BitVec 3) (d a b : BitVec 7) (st : State) : Out :=
  load h false false s d [a, b] (fun c => ixAddr c a b) st

/-- LDX.C (R209): a consuming read of a tile. -/
def execLdxC (h : Bool) (s : BitVec 3) (d a b : BitVec 7) (st : State) : Out :=
  load h false true s d [a, b] (fun c => ixAddr c a b) st

/-- STX (R208). -/
def execStx (h : Bool) (s : BitVec 3) (d a b : BitVec 7) (st : State) : Out :=
  store h false s d (fun c => ixAddr c a b) st

end Sys2Proof.Machine
end

