-- ==== Sys2Proof/Machine/Trig.lean ====
section
/-! DEFINITION. Trig.lean: the trigger counter instructions (R241, R242, R245). -/
namespace Sys2Proof.Machine

/-- The counter at pair(a), checked as a 4-byte access (R205, R245). -/
def counterAt (s : State) (c : Ctx) (a : BitVec 7) (peer : Bool) : Res DWord := do
  let p ← src64 c a
  require (addrTag p == 0 || (peer && addrTag p == 4)) (c.illegalK 3)
  checkThat (accessCheck s c p 4 3)
  .ok p

/-- TCSET and TCADD: a release, performed as the atomic of a minor. -/
def trigWrite (h : Bool) (minor : Nat) (a b : BitVec 7) (s : State) : Out :=
  issueWith h s (fun c s => do
    let v ← src32 c b
    versionCheck c 3 false
    let p ← counterAt s c a true
    let s1 := s.modThread c.t (fun th => { th with barsFlush := true })
    .ok (.done (access s1 c p .none (.atomic minor [v] false true))))

/-- TCSET (R245). -/
def execTcset (h : Bool) (a b : BitVec 7) (s : State) : Out := trigWrite h 1 a b s

/-- TCADD (R245). -/
def execTcadd (h : Bool) (a b : BitVec 7) (s : State) : Out := trigWrite h 0 a b s

/-- TCWAIT (R245): the thread waits until a registration on the counter fires (R242). -/
def execTcwait (h : Bool) (a b : BitVec 7) (s : State) : Out :=
  issueWith h s (fun c s => do
    let v ← src32 c b
    let p ← counterAt s c a false
    let f := s.fresh
    .ok (.wait (f.2.modThread c.t (fun th => { th with barsFlush := true })) (.tcwait f.1 p v)))

/-- TCREAD (R245): an atomic access that writes nothing; the thread waits for its value. -/
def execTcread (h : Bool) (d a : BitVec 7) (s : State) : Out :=
  issueWith h s (fun c s => do
    let dst ← dest c 1 d
    require (!dst.isUni) (c.illegalK 3)
    let p ← counterAt s c a true
    let s1 := s.modThread c.t (fun th => { th with barsFlush := true })
    .ok (.wait (access s1 c p dst (.atomic 16 [] false false)) (.result s1.nextId)))

end Sys2Proof.Machine
end

