-- ==== Sys2Proof/Machine/Dispatch.lean ====
section
/-! DEFINITION. Dispatch.lean: one arm per constructor of Instr, each a direct call of the meaning. -/
namespace Sys2Proof.Machine

/-- What an instruction does in a state. -/
def exec (i : Instr) (s : State) : Host.Outcome State Fault Refusal :=
  match i with
  | .nop h => Sys2Proof.Machine.execNop h s
  | .exit h => Sys2Proof.Machine.execExit h s
  | .trap h b => Sys2Proof.Machine.execTrap h b s
  | .brk h b => Sys2Proof.Machine.execBrk h b s
  | .srd h d a b => Sys2Proof.Machine.execSrd h d a b s
  | .swr h d a b => Sys2Proof.Machine.execSwr h d a b s
  | .wbase h b => Sys2Proof.Machine.execWbase h b s
  | .ubase h b => Sys2Proof.Machine.execUbase h b s
  | .yield h => Sys2Proof.Machine.execYield h s
  | .join h a => Sys2Proof.Machine.execJoin h a s
  | .bar h b => Sys2Proof.Machine.execBar h b s
  | .arrive h d b => Sys2Proof.Machine.execArrive h d b s
  | .bwait h a b => Sys2Proof.Machine.execBwait h a b s
  | .nap h a => Sys2Proof.Machine.execNap h a s
  | .fmtld h d a => Sys2Proof.Machine.execFmtld h d a s
  | .tret h b => Sys2Proof.Machine.execTret h b s
  | .add h d a b => Sys2Proof.Machine.execAdd h d a b s
  | .sub h d a b => Sys2Proof.Machine.execSub h d a b s
  | .mul h d a b => Sys2Proof.Machine.execMul h d a b s
  | .mulh h d a b => Sys2Proof.Machine.execMulh h d a b s
  | .mulhu h d a b => Sys2Proof.Machine.execMulhu h d a b s
  | .and h d a b => Sys2Proof.Machine.execAnd h d a b s
  | .or h d a b => Sys2Proof.Machine.execOr h d a b s
  | .xor h d a b => Sys2Proof.Machine.execXor h d a b s
  | .andn h d a b => Sys2Proof.Machine.execAndn h d a b s
  | .shl h d a b => Sys2Proof.Machine.execShl h d a b s
  | .shr h d a b => Sys2Proof.Machine.execShr h d a b s
  | .sar h d a b => Sys2Proof.Machine.execSar h d a b s
  | .min h d a b => Sys2Proof.Machine.execMin h d a b s
  | .max h d a b => Sys2Proof.Machine.execMax h d a b s
  | .minu h d a b => Sys2Proof.Machine.execMinu h d a b s
  | .maxu h d a b => Sys2Proof.Machine.execMaxu h d a b s
  | .add64 h d a b => Sys2Proof.Machine.execAdd64 h d a b s
  | .sub64 h d a b => Sys2Proof.Machine.execSub64 h d a b s
  | .mul64 h d a b => Sys2Proof.Machine.execMul64 h d a b s
  | .mad h d a b => Sys2Proof.Machine.execMad h d a b s
  | .madw h d a b => Sys2Proof.Machine.execMadw h d a b s
  | .clz h d a => Sys2Proof.Machine.execClz h d a s
  | .popc h d a => Sys2Proof.Machine.execPopc h d a s
  | .brev h d a => Sys2Proof.Machine.execBrev h d a s
  | .bfe h d a b => Sys2Proof.Machine.execBfe h d a b s
  | .bfi h d a b => Sys2Proof.Machine.execBfi h d a b s
  | .prmt h d a b => Sys2Proof.Machine.execPrmt h d a b s
  | .rol h d a b => Sys2Proof.Machine.execRol h d a b s
  | .div h d a b => Sys2Proof.Machine.execDiv h d a b s
  | .divu h d a b => Sys2Proof.Machine.execDivu h d a b s
  | .rem h d a b => Sys2Proof.Machine.execRem h d a b s
  | .remu h d a b => Sys2Proof.Machine.execRemu h d a b s
  | .icmpEq h c p a b => Sys2Proof.Machine.execIcmpEq h c p a b s
  | .icmpNe h c p a b => Sys2Proof.Machine.execIcmpNe h c p a b s
  | .icmpLt h c p a b => Sys2Proof.Machine.execIcmpLt h c p a b s
  | .icmpLe h c p a b => Sys2Proof.Machine.execIcmpLe h c p a b s
  | .icmpGt h c p a b => Sys2Proof.Machine.execIcmpGt h c p a b s
  | .icmpGe h c p a b => Sys2Proof.Machine.execIcmpGe h c p a b s
  | .icmpLtu h c p a b => Sys2Proof.Machine.execIcmpLtu h c p a b s
  | .icmpLeu h c p a b => Sys2Proof.Machine.execIcmpLeu h c p a b s
  | .icmpGtu h c p a b => Sys2Proof.Machine.execIcmpGtu h c p a b s
  | .icmpGeu h c p a b => Sys2Proof.Machine.execIcmpGeu h c p a b s
  | .icmpEq64 h c p a b => Sys2Proof.Machine.execIcmpEq64 h c p a b s
  | .icmpNe64 h c p a b => Sys2Proof.Machine.execIcmpNe64 h c p a b s
  | .icmpLt64 h c p a b => Sys2Proof.Machine.execIcmpLt64 h c p a b s
  | .icmpLtu64 h c p a b => Sys2Proof.Machine.execIcmpLtu64 h c p a b s
  | .icmpBtst h c p a b => Sys2Proof.Machine.execIcmpBtst h c p a b s
  | .addi h d a k => Sys2Proof.Machine.execAddi h d a k s
  | .andi h d a k => Sys2Proof.Machine.execAndi h d a k s
  | .ori h d a k => Sys2Proof.Machine.execOri h d a k s
  | .xori h d a k => Sys2Proof.Machine.execXori h d a k s
  | .shli h d a n => Sys2Proof.Machine.execShli h d a n s
  | .shri h d a n => Sys2Proof.Machine.execShri h d a n s
  | .sari h d a n => Sys2Proof.Machine.execSari h d a n s
  | .roli h d a n => Sys2Proof.Machine.execRoli h d a n s
  | .shli64 h d a n => Sys2Proof.Machine.execShli64 h d a n s
  | .shri64 h d a n => Sys2Proof.Machine.execShri64 h d a n s
  | .sari64 h d a n => Sys2Proof.Machine.execSari64 h d a n s
  | .muli h d a k => Sys2Proof.Machine.execMuli h d a k s
  | .cmpi h c p a k => Sys2Proof.Machine.execCmpi h c p a k s
  | .movw h d k => Sys2Proof.Machine.execMovw h d k s
  | .movh h d k => Sys2Proof.Machine.execMovh h d k s
  | .sel h n p d a b => Sys2Proof.Machine.execSel h n p d a b s
  | .lea h sz d a b => Sys2Proof.Machine.execLea h sz d a b s
  | .mov h d a => Sys2Proof.Machine.execMov h d a s
  | .mov64 h d a => Sys2Proof.Machine.execMov64 h d a s
  | .pmov h d => Sys2Proof.Machine.execPmov h d s
  | .pset h a b => Sys2Proof.Machine.execPset h a b s
  | .sext h d a w => Sys2Proof.Machine.execSext h d a w s
  | .zext h d a w => Sys2Proof.Machine.execZext h d a w s
  | .fadd h d a b => Sys2Proof.Machine.execFadd h d a b s
  | .fsub h d a b => Sys2Proof.Machine.execFsub h d a b s
  | .fmul h d a b => Sys2Proof.Machine.execFmul h d a b s
  | .fmin h d a b => Sys2Proof.Machine.execFmin h d a b s
  | .fmax h d a b => Sys2Proof.Machine.execFmax h d a b s
  | .fminn h d a b => Sys2Proof.Machine.execFminn h d a b s
  | .fmaxn h d a b => Sys2Proof.Machine.execFmaxn h d a b s
  | .fabs h d a => Sys2Proof.Machine.execFabs h d a s
  | .fneg h d a => Sys2Proof.Machine.execFneg h d a s
  | .fcpsgn h d a b => Sys2Proof.Machine.execFcpsgn h d a b s
  | .ffloor h d a => Sys2Proof.Machine.execFfloor h d a s
  | .fceil h d a => Sys2Proof.Machine.execFceil h d a s
  | .ftrunc h d a => Sys2Proof.Machine.execFtrunc h d a s
  | .frint h d a => Sys2Proof.Machine.execFrint h d a s
  | .ffrac h d a => Sys2Proof.Machine.execFfrac h d a s
  | .fscale h d a b => Sys2Proof.Machine.execFscale h d a b s
  | .ffma h d a b => Sys2Proof.Machine.execFfma h d a b s
  | .ffms h d a b => Sys2Proof.Machine.execFfms h d a b s
  | .fnfma h d a b => Sys2Proof.Machine.execFnfma h d a b s
  | .fnfms h d a b => Sys2Proof.Machine.execFnfms h d a b s
  | .hadd2 h d a b => Sys2Proof.Machine.execHadd2 h d a b s
  | .hsub2 h d a b => Sys2Proof.Machine.execHsub2 h d a b s
  | .hmul2 h d a b => Sys2Proof.Machine.execHmul2 h d a b s
  | .hfma2 h d a b => Sys2Proof.Machine.execHfma2 h d a b s
  | .hmin2 h d a b => Sys2Proof.Machine.execHmin2 h d a b s
  | .hmax2 h d a b => Sys2Proof.Machine.execHmax2 h d a b s
  | .badd2 h d a b => Sys2Proof.Machine.execBadd2 h d a b s
  | .bsub2 h d a b => Sys2Proof.Machine.execBsub2 h d a b s
  | .bmul2 h d a b => Sys2Proof.Machine.execBmul2 h d a b s
  | .bfma2 h d a b => Sys2Proof.Machine.execBfma2 h d a b s
  | .bmin2 h d a b => Sys2Proof.Machine.execBmin2 h d a b s
  | .bmax2 h d a b => Sys2Proof.Machine.execBmax2 h d a b s
  | .hdot2 h d a b => Sys2Proof.Machine.execHdot2 h d a b s
  | .bdot2 h d a b => Sys2Proof.Machine.execBdot2 h d a b s
  | .fcmpOeq h c p a b => Sys2Proof.Machine.execFcmpOeq h c p a b s
  | .fcmpOne h c p a b => Sys2Proof.Machine.execFcmpOne h c p a b s
  | .fcmpOlt h c p a b => Sys2Proof.Machine.execFcmpOlt h c p a b s
  | .fcmpOle h c p a b => Sys2Proof.Machine.execFcmpOle h c p a b s
  | .fcmpOgt h c p a b => Sys2Proof.Machine.execFcmpOgt h c p a b s
  | .fcmpOge h c p a b => Sys2Proof.Machine.execFcmpOge h c p a b s
  | .fcmpUno h c p a b => Sys2Proof.Machine.execFcmpUno h c p a b s
  | .fcmpOrd h c p a b => Sys2Proof.Machine.execFcmpOrd h c p a b s
  | .fcmpUeq h c p a b => Sys2Proof.Machine.execFcmpUeq h c p a b s
  | .fcmpUne h c p a b => Sys2Proof.Machine.execFcmpUne h c p a b s
  | .fcmpUlt h c p a b => Sys2Proof.Machine.execFcmpUlt h c p a b s
  | .fcmpUle h c p a b => Sys2Proof.Machine.execFcmpUle h c p a b s
  | .fcmpUgt h c p a b => Sys2Proof.Machine.execFcmpUgt h c p a b s
  | .fcmpUge h c p a b => Sys2Proof.Machine.execFcmpUge h c p a b s
  | .fcmpClass h c p a b => Sys2Proof.Machine.execFcmpClass h c p a b s
  | .xfnRcp h d a => Sys2Proof.Machine.execXfnRcp h d a s
  | .xfnRsq h d a => Sys2Proof.Machine.execXfnRsq h d a s
  | .xfnSqrt h d a => Sys2Proof.Machine.execXfnSqrt h d a s
  | .xfnExp2 h d a => Sys2Proof.Machine.execXfnExp2 h d a s
  | .xfnLog2 h d a => Sys2Proof.Machine.execXfnLog2 h d a s
  | .xfnSinpi h d a => Sys2Proof.Machine.execXfnSinpi h d a s
  | .xfnCospi h d a => Sys2Proof.Machine.execXfnCospi h d a s
  | .xfnTanh h d a => Sys2Proof.Machine.execXfnTanh h d a s
  | .xfnDiv h d a b => Sys2Proof.Machine.execXfnDiv h d a b s
  | .xfnSigm h d a => Sys2Proof.Machine.execXfnSigm h d a s
  | .xfnExp h d a => Sys2Proof.Machine.execXfnExp h d a s
  | .xfnLog h d a => Sys2Proof.Machine.execXfnLog h d a s
  | .f2i h d a k sz r => Sys2Proof.Machine.execF2i h d a k sz r s
  | .f2u h d a k sz r => Sys2Proof.Machine.execF2u h d a k sz r s
  | .i2f h d a k sz r => Sys2Proof.Machine.execI2f h d a k sz r s
  | .u2f h d a k sz r => Sys2Proof.Machine.execU2f h d a k sz r s
  | .f2h h d a k sz r => Sys2Proof.Machine.execF2h h d a k sz r s
  | .h2f h d a k sz r => Sys2Proof.Machine.execH2f h d a k sz r s
  | .f2b h d a k sz r => Sys2Proof.Machine.execF2b h d a k sz r s
  | .b2f h d a k sz r => Sys2Proof.Machine.execB2f h d a k sz r s
  | .f2n h d a k sz r => Sys2Proof.Machine.execF2n h d a k sz r s
  | .n2f h d a k sz r => Sys2Proof.Machine.execN2f h d a k sz r s
  | .f2d h d a k sz r => Sys2Proof.Machine.execF2d h d a k sz r s
  | .d2f h d a k sz r => Sys2Proof.Machine.execD2f h d a k sz r s
  | .i2d h d a k sz r => Sys2Proof.Machine.execI2d h d a k sz r s
  | .d2i h d a k sz r => Sys2Proof.Machine.execD2i h d a k sz r s
  | .packn h d a k sz r => Sys2Proof.Machine.execPackn h d a k sz r s
  | .unpkn h d a k sz r => Sys2Proof.Machine.execUnpkn h d a k sz r s
  | .dadd h d a b => Sys2Proof.Machine.execDadd h d a b s
  | .dsub h d a b => Sys2Proof.Machine.execDsub h d a b s
  | .dmul h d a b => Sys2Proof.Machine.execDmul h d a b s
  | .dfma h d a b => Sys2Proof.Machine.execDfma h d a b s
  | .dmin h d a b => Sys2Proof.Machine.execDmin h d a b s
  | .dmax h d a b => Sys2Proof.Machine.execDmax h d a b s
  | .ddiv h d a b => Sys2Proof.Machine.execDdiv h d a b s
  | .dsqrt h d a => Sys2Proof.Machine.execDsqrt h d a s
  | .deq h c p a b => Sys2Proof.Machine.execDeq h c p a b s
  | .dlt h c p a b => Sys2Proof.Machine.execDlt h c p a b s
  | .dle h c p a b => Sys2Proof.Machine.execDle h c p a b s
  | .duno h c p a b => Sys2Proof.Machine.execDuno h c p a b s
  | .mlmrg h d a => Sys2Proof.Machine.execMlmrg h d a s
  | .expsub h d a b => Sys2Proof.Machine.execExpsub h d a b s
  | .rescale h d a b => Sys2Proof.Machine.execRescale h d a b s
  | .br h o => Sys2Proof.Machine.execBr h o s
  | .call h o => Sys2Proof.Machine.execCall h o s
  | .brp h p n o => Sys2Proof.Machine.execBrp h p n o s
  | .jr h a => Sys2Proof.Machine.execJr h a s
  | .callr h a => Sys2Proof.Machine.execCallr h a s
  | .ret h => Sys2Proof.Machine.execRet h s
  | .brx h a b => Sys2Proof.Machine.execBrx h a b s
  | .pblk p n t => Sys2Proof.Machine.execPblk p n t s
  | .vany h d a => Sys2Proof.Machine.execVany h d a s
  | .vall h d a => Sys2Proof.Machine.execVall h d a s
  | .ballot h d a => Sys2Proof.Machine.execBallot h d a s
  | .shfidx h d a b => Sys2Proof.Machine.execShfidx h d a b s
  | .shfup h d a b => Sys2Proof.Machine.execShfup h d a b s
  | .shfdn h d a b => Sys2Proof.Machine.execShfdn h d a b s
  | .shfxor h d a b => Sys2Proof.Machine.execShfxor h d a b s
  | .gradd h d a => Sys2Proof.Machine.execGradd h d a s
  | .grfadd h d a => Sys2Proof.Machine.execGrfadd h d a s
  | .grmin h d a u => Sys2Proof.Machine.execGrmin h d a u s
  | .grmax h d a u => Sys2Proof.Machine.execGrmax h d a u s
  | .gmatch h d a => Sys2Proof.Machine.execGmatch h d a s
  | .elect h d => Sys2Proof.Machine.execElect h d s
  | .active h d => Sys2Proof.Machine.execActive h d s
  | .ld h d a sz o => Sys2Proof.Machine.execLd h d a sz o s
  | .st h d a sz o => Sys2Proof.Machine.execSt h d a sz o s
  | .ldx h sz d a b => Sys2Proof.Machine.execLdx h sz d a b s
  | .ldxC h sz d a b => Sys2Proof.Machine.execLdxC h sz d a b s
  | .stx h sz d a b => Sys2Proof.Machine.execStx h sz d a b s
  | .ldAcq h d a sz o => Sys2Proof.Machine.execLdAcq h d a sz o s
  | .stRel h d a sz o => Sys2Proof.Machine.execStRel h d a sz o s
  | .aadd h d a b => Sys2Proof.Machine.execAadd h d a b s
  | .axch h d a b => Sys2Proof.Machine.execAxch h d a b s
  | .acas h d a b => Sys2Proof.Machine.execAcas h d a b s
  | .amin h d a b => Sys2Proof.Machine.execAmin h d a b s
  | .amax h d a b => Sys2Proof.Machine.execAmax h d a b s
  | .aminu h d a b => Sys2Proof.Machine.execAminu h d a b s
  | .amaxu h d a b => Sys2Proof.Machine.execAmaxu h d a b s
  | .aand h d a b => Sys2Proof.Machine.execAand h d a b s
  | .aor h d a b => Sys2Proof.Machine.execAor h d a b s
  | .axor h d a b => Sys2Proof.Machine.execAxor h d a b s
  | .aincw h d a b => Sys2Proof.Machine.execAincw h d a b s
  | .afadd h d a b => Sys2Proof.Machine.execAfadd h d a b s
  | .aadd64 h d a b => Sys2Proof.Machine.execAadd64 h d a b s
  | .acas64 h d a b => Sys2Proof.Machine.execAcas64 h d a b s
  | .axch64 h d a b => Sys2Proof.Machine.execAxch64 h d a b s
  | .afmax h d a b => Sys2Proof.Machine.execAfmax h d a b s
  | .aaddAr h d a b => Sys2Proof.Machine.execAaddAr h d a b s
  | .axchAr h d a b => Sys2Proof.Machine.execAxchAr h d a b s
  | .acasAr h d a b => Sys2Proof.Machine.execAcasAr h d a b s
  | .aminAr h d a b => Sys2Proof.Machine.execAminAr h d a b s
  | .amaxAr h d a b => Sys2Proof.Machine.execAmaxAr h d a b s
  | .aminuAr h d a b => Sys2Proof.Machine.execAminuAr h d a b s
  | .amaxuAr h d a b => Sys2Proof.Machine.execAmaxuAr h d a b s
  | .aandAr h d a b => Sys2Proof.Machine.execAandAr h d a b s
  | .aorAr h d a b => Sys2Proof.Machine.execAorAr h d a b s
  | .axorAr h d a b => Sys2Proof.Machine.execAxorAr h d a b s
  | .aincwAr h d a b => Sys2Proof.Machine.execAincwAr h d a b s
  | .afaddAr h d a b => Sys2Proof.Machine.execAfaddAr h d a b s
  | .aadd64Ar h d a b => Sys2Proof.Machine.execAadd64Ar h d a b s
  | .acas64Ar h d a b => Sys2Proof.Machine.execAcas64Ar h d a b s
  | .axch64Ar h d a b => Sys2Proof.Machine.execAxch64Ar h d a b s
  | .afmaxAr h d a b => Sys2Proof.Machine.execAfmaxAr h d a b s
  | .fenceAcq h b => Sys2Proof.Machine.execFenceAcq h b s
  | .fenceRel h b => Sys2Proof.Machine.execFenceRel h b s
  | .fenceAr h b => Sys2Proof.Machine.execFenceAr h b s
  | .fenceSc h b => Sys2Proof.Machine.execFenceSc h b s
  | .fenceDrain h b => Sys2Proof.Machine.execFenceDrain h b s
  | .pref h a => Sys2Proof.Machine.execPref h a s
  | .prefl1 h a => Sys2Proof.Machine.execPrefl1 h a s
  | .invl1 h a l => Sys2Proof.Machine.execInvl1 h a l s
  | .rdcinv h a l => Sys2Proof.Machine.execRdcinv h a l s
  | .lempty h a n => Sys2Proof.Machine.execLempty h a n s
  | .lfull h a n => Sys2Proof.Machine.execLfull h a n s
  | .talloc h d a b => Sys2Proof.Machine.execTalloc h d a b s
  | .trel h a => Sys2Proof.Machine.execTrel h a s
  | .tdrop h a b => Sys2Proof.Machine.execTdrop h a b s
  | .taddr h d a b => Sys2Proof.Machine.execTaddr h d a b s
  | .tstat h d a => Sys2Proof.Machine.execTstat h d a s
  | .tcset h a b => Sys2Proof.Machine.execTcset h a b s
  | .tcadd h a b => Sys2Proof.Machine.execTcadd h a b s
  | .tcwait h a b => Sys2Proof.Machine.execTcwait h a b s
  | .tcread h d a => Sys2Proof.Machine.execTcread h d a s
  | .cpy h d a b => Sys2Proof.Machine.execCpy h d a b s
  | .cpyr h d a b => Sys2Proof.Machine.execCpyr h d a b s
  | .cpym h d a b => Sys2Proof.Machine.execCpym h d a b s
  | .cpys h d a b => Sys2Proof.Machine.execCpys h d a b s
  | .publ h a => Sys2Proof.Machine.execPubl h a s
  | .cpyt h k a b => Sys2Proof.Machine.execCpyt h k a b s
  | .cpyw h d a => Sys2Proof.Machine.execCpyw h d a s
  | .cpyq h d => Sys2Proof.Machine.execCpyq h d s
  | .mma8 h d a b => Sys2Proof.Machine.execMma8 h d a b s
  | .mma8s h d a b => Sys2Proof.Machine.execMma8s h d a b s
  | .mma8g h d a b => Sys2Proof.Machine.execMma8g h d a b s
  | .mma8gs h d a b => Sys2Proof.Machine.execMma8gs h d a b s
  | .mmah h d a b => Sys2Proof.Machine.execMmah h d a b s
  | .mmab h d a b => Sys2Proof.Machine.execMmab h d a b s
  | .mzero h d => Sys2Proof.Machine.execMzero h d s
  | .mldc h d a b => Sys2Proof.Machine.execMldc h d a b s
  | .mstc h d a b => Sys2Proof.Machine.execMstc h d a b s
  | .mwait h d a => Sys2Proof.Machine.execMwait h d a s
  | .mstat h d => Sys2Proof.Machine.execMstat h d s
  | .macq h d => Sys2Proof.Machine.execMacq h d s
  | .mpass h a => Sys2Proof.Machine.execMpass h a s
  | .mrel h => Sys2Proof.Machine.execMrel h s
  | .mwho h d => Sys2Proof.Machine.execMwho h d s
  | .tknext h d a => Sys2Proof.Machine.execTknext h d a s
  | .tkdone h => Sys2Proof.Machine.execTkdone h s
  | .tkpost h a => Sys2Proof.Machine.execTkpost h a s
  | .tkspec h => Sys2Proof.Machine.execTkspec h s
  | .tkabort h => Sys2Proof.Machine.execTkabort h s
  | .tksucc h a => Sys2Proof.Machine.execTksucc h a s
  | .launch h d a b => Sys2Proof.Machine.execLaunch h d a b s
  | .lwait h d a => Sys2Proof.Machine.execLwait h d a s
  | .lstat h d a => Sys2Proof.Machine.execLstat h d a s
  | .role h d a b => Sys2Proof.Machine.execRole h d a b s
  | .aqpost h d a => Sys2Proof.Machine.execAqpost h d a s
  | .aqwait h d a => Sys2Proof.Machine.execAqwait h d a s
  | .aqstat h d a => Sys2Proof.Machine.execAqstat h d a s
  | .aqcancel h a => Sys2Proof.Machine.execAqcancel h a s
  | .ndrain h d => Sys2Proof.Machine.execNdrain h d s
  | .ngen h d a w => Sys2Proof.Machine.execNgen h d a w s
  | .npath h d a => Sys2Proof.Machine.execNpath h d a s
  | .clpost h d a => Sys2Proof.Machine.execClpost h d a s
  | .clwait h d a => Sys2Proof.Machine.execClwait h d a s
  | .clstat h d a => Sys2Proof.Machine.execClstat h d a s
  | .clroute h a l n => Sys2Proof.Machine.execClroute h a l n s
  | .resultDelivery t id part => Sys2Proof.Machine.execResultDelivery t id part s
  | .segmentHorizon t => Sys2Proof.Machine.execSegmentHorizon t s
  | .joinTimeout t => Sys2Proof.Machine.execJoinTimeout t s
  | .napExpiry t => Sys2Proof.Machine.execNapExpiry t s
  | .barPhaseComplete l level set => Sys2Proof.Machine.execBarPhaseComplete l level set s
  | .launchCommand src => Sys2Proof.Machine.execLaunchCommand src s
  | .pendingPoolCheck die => Sys2Proof.Machine.execPendingPoolCheck die s
  | .teamPlacement l cluster cores => Sys2Proof.Machine.execTeamPlacement l cluster cores s
  | .launchComplete l => Sys2Proof.Machine.execLaunchComplete l s
  | .blockedTeamSwap l team => Sys2Proof.Machine.execBlockedTeamSwap l team s
  | .timeSliceExpiry l team => Sys2Proof.Machine.execTimeSliceExpiry l team s
  | .drainTimeout l team => Sys2Proof.Machine.execDrainTimeout l team s
  | .teamSave l team => Sys2Proof.Machine.execTeamSave l team s
  | .teamRestore l team cluster cores => Sys2Proof.Machine.execTeamRestore l team cluster cores s
  | .armedFire id => Sys2Proof.Machine.execArmedFire id s
  | .copyUnit id u => Sys2Proof.Machine.execCopyUnit id u s
  | .publishFlip id => Sys2Proof.Machine.execPublishFlip id s
  | .matrixStep core => Sys2Proof.Machine.execMatrixStep core s
  | .tallocGrant t id rank slot => Sys2Proof.Machine.execTallocGrant t id rank slot s
  | .poolStarvation cluster l => Sys2Proof.Machine.execPoolStarvation cluster l s
  | .tileFree cluster rank slot => Sys2Proof.Machine.execTileFree cluster rank slot s
  | .taskDelivery gid => Sys2Proof.Machine.execTaskDelivery gid s
  | .qry qid page => Sys2Proof.Machine.execQry qid page s
  | .bauScan bau => Sys2Proof.Machine.execBauScan bau s
  | .refresh bau => Sys2Proof.Machine.execRefresh bau s
  | .rpl qid page => Sys2Proof.Machine.execRpl qid page s
  | .cxl qid page => Sys2Proof.Machine.execCxl qid page s
  | .wcbFlush die asid line => Sys2Proof.Machine.execWcbFlush die asid line s
  | .tlbinvComplete => Sys2Proof.Machine.execTlbinvComplete s
  | .slotBoundary => Sys2Proof.Machine.execSlotBoundary s
  | .dataWindowStart => Sys2Proof.Machine.execDataWindowStart s
  | .tuningTimeout port => Sys2Proof.Machine.execTuningTimeout port s
  | .portFailed port => Sys2Proof.Machine.execPortFailed port s
  | .preamble port msg => Sys2Proof.Machine.execPreamble port msg s
  | .ackFlit port msg => Sys2Proof.Machine.execAckFlit port msg s
  | .cutOff pkg => Sys2Proof.Machine.execCutOff pkg s
  | .broadcastMemberDrop port member => Sys2Proof.Machine.execBroadcastMemberDrop port member s
  | .cycleSteer => Sys2Proof.Machine.execCycleSteer s
  | .generationChange => Sys2Proof.Machine.execGenerationChange s
  | .portDrained port => Sys2Proof.Machine.execPortDrained port s
  | .portTrained port => Sys2Proof.Machine.execPortTrained port s
  | .readRequest rx => Sys2Proof.Machine.execReadRequest rx s
  | .readReply rx => Sys2Proof.Machine.execReadReply rx s
  | .pktWrite rx => Sys2Proof.Machine.execPktWrite rx s
  | .pktAtomic rx => Sys2Proof.Machine.execPktAtomic rx s
  | .completion rx => Sys2Proof.Machine.execCompletion rx s
  | .copyUnits rx => Sys2Proof.Machine.execCopyUnits rx s
  | .copyCompletion rx => Sys2Proof.Machine.execCopyCompletion rx s
  | .reduceCopyUnits rx => Sys2Proof.Machine.execReduceCopyUnits rx s
  | .publish rx => Sys2Proof.Machine.execPublish rx s
  | .reservedPacket rx => Sys2Proof.Machine.execReservedPacket rx s
  | .collectiveData rx => Sys2Proof.Machine.execCollectiveData rx s
  | .collectiveAbort rx => Sys2Proof.Machine.execCollectiveAbort rx s
  | .gangStart rx => Sys2Proof.Machine.execGangStart rx s
  | .gangAccept rx => Sys2Proof.Machine.execGangAccept rx s
  | .gangRefuse rx => Sys2Proof.Machine.execGangRefuse rx s
  | .gangGo rx => Sys2Proof.Machine.execGangGo rx s
  | .gangCancel rx => Sys2Proof.Machine.execGangCancel rx s
  | .gangAbort rx => Sys2Proof.Machine.execGangAbort rx s
  | .gangDone rx => Sys2Proof.Machine.execGangDone rx s
  | .gangStartTimeout l => Sys2Proof.Machine.execGangStartTimeout l s
  | .gangDiscardTimeout l => Sys2Proof.Machine.execGangDiscardTimeout l s
  | .barrierArrive rx => Sys2Proof.Machine.execBarrierArrive rx s
  | .barrierRelease rx => Sys2Proof.Machine.execBarrierRelease rx s
  | .hostCopy src => Sys2Proof.Machine.execHostCopy src s
  | .signal src => Sys2Proof.Machine.execSignal src s
  | .hostWait src => Sys2Proof.Machine.execHostWait src s
  | .calLoad src => Sys2Proof.Machine.execCalLoad src s
  | .portDrain src => Sys2Proof.Machine.execPortDrain src s
  | .portRetrain src => Sys2Proof.Machine.execPortRetrain src s
  | .calStatus src => Sys2Proof.Machine.execCalStatus src s
  | .faultReplay src => Sys2Proof.Machine.execFaultReplay src s
  | .attest src => Sys2Proof.Machine.execAttest src s
  | .ownerClaim src => Sys2Proof.Machine.execOwnerClaim src s
  | .ownerYield src => Sys2Proof.Machine.execOwnerYield src s
  | .doorbell q x => Sys2Proof.Machine.execDoorbell q x s
  | .tlbinv a v => Sys2Proof.Machine.execTlbinv a v s
  | .resetWrite a v => Sys2Proof.Machine.execResetWrite a v s
  | .abortWrite a die v => Sys2Proof.Machine.execAbortWrite a die v s
  | .dbgHalt a die v => Sys2Proof.Machine.execDbgHalt a die v s
  | .dbgGo a die v => Sys2Proof.Machine.execDbgGo a die v s
  | .dbgStep a die v => Sys2Proof.Machine.execDbgStep a die v s
  | .dbgData a die v => Sys2Proof.Machine.execDbgData a die v s
  | .bar4Read off n => Sys2Proof.Machine.execBar4Read off n s
  | .bar4Write off data => Sys2Proof.Machine.execBar4Write off data s
  | .registerWrite a off v => Sys2Proof.Machine.execRegisterWrite a off v s
  | .moduleReset => Sys2Proof.Machine.execModuleReset s
  | .bringUpStage ok => Sys2Proof.Machine.execBringUpStage ok s
  | .clockStep up => Sys2Proof.Machine.execClockStep up s
  | .coolantFatal => Sys2Proof.Machine.execCoolantFatal s
  | .linkFailure => Sys2Proof.Machine.execLinkFailure s
  | .writePerformed t id => Sys2Proof.Machine.execWritePerformed t id s
  | .instructionFetch t => Sys2Proof.Machine.execInstructionFetch t s
  | .notAnInstruction w reason => Sys2Proof.Machine.execNotAnInstruction w reason s
  | .ringLocked port => Sys2Proof.Machine.execRingLocked port s
  | .completionTimeout t id => Sys2Proof.Machine.execCompletionTimeout t id s
  | .unitPoisoned key => Sys2Proof.Machine.execUnitPoisoned key s

end Sys2Proof.Machine
end

