-- ==== Sys2Proof/Machine/Auto.lean ====
section
/-! DEFINITION. Auto.lean: the steps of the part's own that the default order tries, in turn (assumption log 6), and what follows a
step at once. -/
namespace Sys2Proof.Machine

/-! Candidates. -/

/-- The threads of the part, with their entries. -/
def allThreads (s : State) : List (Tid × Thread) :=
  s.groups.flatMap (fun g => g.threads.zipIdx.map (fun x => (({ gid := g.gid, lane := x.2 } : Tid), x.1)))

/-- A list from its `k`-th element on, and around. -/
def rotate {α : Type} (k : Nat) (l : List α) : List α := l.drop (k % l.length) ++ l.take (k % l.length)

/-- The outstanding entries of the threads, the one issued first first. -/
def entriesInOrder (s : State) : List (Tid × Nat) :=
  ((allThreads s).flatMap (fun x => x.2.infl.map (fun p => (x.1, p.id)))).foldl
    (fun acc x => acc.filter (fun y => decide (y.2 ≤ x.2)) ++ x :: acc.filter (fun y => decide (x.2 < y.2))) []

/-- Results and writes of the threads. -/
noncomputable def entryEvents (s : State) : List Instr :=
  (entriesInOrder s).flatMap (fun x => [Instr.writePerformed x.1 x.2, Instr.resultDelivery x.1 x.2 none])
    ++ ([0, 1, 2, 3] : List Nat).flatMap (fun d => (wcbEntries s d).filterMap (fun x => (asidOf s x.1).map (fun a => Instr.wcbFlush d a (x.2.addr.toNat / 128))))

/-- Horizons of the threads. -/
noncomputable def horizonEvents (s : State) : List Instr :=
  ((allThreads s).filter (fun x => x.2.hz || x.2.drain.isSome || (x.2.wait.isSome && !x.2.refused.isEmpty))).map (fun x => Instr.segmentHorizon x.1)

/-- The sets of a thread whose next phase it has arrived in, or, where they span packages, has left by its exit (R157, R405). -/
def openSets (l : Launch) (g : Group) (lane : Nat) (th : Thread) : List (LRef × Nat × Nat) :=
  (List.range 6).filterMap (fun level =>
    let set := levelSet l.hdr level (widOf l g lane)
    if (if th.exited then setSpans l level set else decide (phaseCount l level set < th.arrivals.getD level 0)) then some (l.ref, level, set) else none)

noncomputable def barEvents (s : State) : List Instr :=
  let sets := s.groups.flatMap (fun g => match s.launch? g.launch with
    | some l => g.threads.zipIdx.flatMap (fun x => openSets l g x.2 x.1)
    | none => [])
  sets.eraseDups.map (fun x => Instr.barPhaseComplete x.1 x.2.1 x.2.2)

/-- The first slot of a cluster that may take a tile of a partition: rank and slot. -/
def freeTile (s : State) (l : Launch) (cluster part : Nat) : Option (Nat × Nat) :=
  (List.range 2048).findSome? (fun k => if placeFree s l cluster part (k / 256) then
    (match s.tile? (cluster * 8 + k / 256) (k % 256) with
      | some x => if x.live then none else some (k / 256, k % 256)
      | none => some (k / 256, k % 256)) else none)

/-- Tiles: the requests that wait, the tiles that are spent. -/
noncomputable def tileEvents (s : State) : List Instr :=
  (s.tiles.filter (fun t => t.live && t.spent)).map (fun t => Instr.tileFree (coreCluster t.core) (coreRank t.core) t.slot)
    ++ (allThreads s).flatMap (fun x => x.2.infl.filterMap (fun p => match p.bound, p.op, s.ofThread x.1 with
        | false, .talloc part _ _, some (l, g) => (freeTile s l (coreCluster g.core) part).map (fun k => Instr.tallocGrant x.1 p.id k.1 k.2)
        | _, _, _ => none))

/-- Copies, matrix operations, registrations, flips, queries. -/
noncomputable def unitEvents (s : State) : List Instr :=
  let pages := s.queries.flatMap (fun q => (List.range q.pages.length).map (fun i => (q.id, i)))
  let host := s.cmds.filterMap (fun c => match c.wait with
    | .copy _ => some (c.id, cdiv (c.word 0x18).toNat 16)
    | _ => none)
  s.trigs.map (fun r => Instr.armedFire r.id)
    ++ (s.copies.map (fun c => Instr.armedFire c.id) ++ s.colls.map (fun c => Instr.armedFire c.id) ++ s.cmds.map (fun c => Instr.armedFire c.id))
    ++ (allThreads s).filterMap (fun x => match x.2.wait with
      | some w => match w.kind with
        | .tcwait i _ _ => some (Instr.armedFire i)
        | .publ i _ _ => some (Instr.publishFlip i)
        | _ => none
      | none => none)
    ++ s.flips.map (fun f => Instr.publishFlip f.id)
    ++ s.copies.flatMap (fun c => ((List.range (c.units + 1)).filter (fun u => !c.done.contains u)).map (fun u => Instr.copyUnit c.id u))
    ++ host.flatMap (fun c => (List.range c.2).map (fun u => Instr.copyUnit c.1 u))
    ++ (s.engines.filter (fun e => !e.queue.isEmpty)).map (fun e => Instr.matrixStep e.core)
    ++ pages.flatMap (fun p => [Instr.cxl p.1 p.2, Instr.qry p.1 p.2, Instr.rpl p.1 p.2])
    ++ s.bauq.map (fun b => Instr.bauScan b.1)

/-- The scheduler: children, placement, return, save, completion. -/
noncomputable def schedEvents (s : State) : List Instr :=
  let waiting := s.launches.filter (fun l => l.waits s && l.first s)
  let place := waiting.flatMap (fun l => (dieClusters l.ref.die).filterMap (fun c => (freshRoom s l c).map (fun cs => Instr.teamPlacement l.ref c cs)))
  let back := s.launches.flatMap (fun l => ((savedUnits l).filter (mayReturn s l)).flatMap (fun u => (dieClusters l.ref.die).filterMap (fun c =>
    (savedRoom s l (unitTeams l u) c).map (fun cs => Instr.teamRestore l.ref u c cs))))
  let teams := s.launches.flatMap (fun l => (l.teams.filter (fun t => t.resident && coFirst l.hdr t.idx == t.idx)).map (fun t => (l.ref, t.idx)))
  (s.groups.filter (fun g => g.threads.any (fun th => th.infl.any (fun p => match p.op with
      | .tknext .. => true
      | _ => false)))).map (fun g => Instr.taskDelivery g.gid)
    ++ (if s.pool.isEmpty then [] else [0, 1, 2, 3].map Instr.pendingPoolCheck)
    ++ place ++ back
    ++ s.launches.map (fun l => Instr.launchComplete l.ref)
    ++ (if s.groups.any (fun g => g.saving) then teams.map (fun t => Instr.teamSave t.1 t.2) else [])
    ++ (if waiting.isEmpty then [] else teams.flatMap (fun t => [Instr.blockedTeamSwap t.1 t.2, Instr.timeSliceExpiry t.1 t.2]))
    ++ teams.map (fun t => Instr.drainTimeout t.1 t.2)
    ++ s.launches.flatMap (fun l => [Instr.gangStartTimeout l.ref, Instr.gangDiscardTimeout l.ref])

/-- The host's queues, bring-up, invalidations. -/
noncomputable def hostEvents (s : State) : List Instr :=
  (if s.ctl.stage < 7 then [Instr.bringUpStage true, Instr.bringUpStage false] else [])
    ++ (if s.ctl.tlbBusy then [Instr.tlbinvComplete] else []) ++ [Instr.coolantFatal]
    ++ ((s.queues.zipIdx.filter (fun q => q.1.en)).map (fun q => CmdSrc.queue q.2)).flatMap (fun q =>
      [Instr.launchCommand q, Instr.hostCopy q, Instr.signal q, Instr.hostWait q, Instr.calLoad q, Instr.portDrain q, Instr.portRetrain q,
       Instr.calStatus q, Instr.faultReplay q, Instr.attest q, Instr.ownerClaim q, Instr.ownerYield q])

/-- The calendar: rings, ports, cut-offs, steering, the slot. -/
noncomputable def slotEvents (s : State) : List Instr :=
  let ports := (s.net.ports.zipIdx.filter (fun p => p.1.st != .drained || p.1.cur.st == .tuning)).map (fun p => p.2)
  ports.map Instr.ringLocked ++ ports.map Instr.portFailed ++ ports.map Instr.portDrained ++ ports.map Instr.portTrained
    ++ ((s.net.out.map (fun o => o.pkt.hop)).eraseDups).map Instr.cutOff
    ++ s.net.out.flatMap (fun o => (o.bcast.getD []).flatMap (fun m => o.ports.map (fun p => Instr.broadcastMemberDrop p m)))
    ++ (if s.net.cal.isSome then [Instr.cycleSteer, Instr.generationChange, Instr.dataWindowStart, Instr.slotBoundary] else [])

/-- The ends of timed waits. -/
noncomputable def timedEvents (s : State) : List Instr :=
  (allThreads s).flatMap (fun x => match x.2.wait with
    | some w => match w.kind with
      | .nap => [Instr.napExpiry x.1]
      | .join _ => [Instr.joinTimeout x.1]
      | _ => []
    | none => [])

/-- Every step that the default order tries. Each kind of the part's own work comes first in its turn, and within a kind each thread or unit
does, so that none waits for ever behind others that can always go on (R202, R218). The starvation trap, the ends of timed waits and the calendar come when
nothing else of the part can happen, and first once in 1,024 turns (assumption log 6). -/
noncomputable def autoEvents (s : State) : List Instr :=
  let k := s.turn / 6
  let work := rotate s.turn [entryEvents s, rotate k (horizonEvents s), barEvents s ++ tileEvents s, rotate k (unitEvents s), schedEvents s, hostEvents s]
  let late := s.launches.flatMap (fun l => (dieClusters l.ref.die).map (fun c => Instr.poolStarvation c l.ref)) ++ rotate k (timedEvents s) ++ slotEvents s
  if s.turn % 1024 = 1023 then late ++ work.flatten else work.flatten ++ late

/-! What follows a step at once. -/

/-- Every launch all of whose teams have retired drops its armed commands (R345). -/
def dropAllArmed (s : State) : State := (s.launches.filter (fun l => l.allRetired && decide (l.state < 3))).foldl dropArmed s

/-- A request to another package leaves once the earlier accesses of its thread let it (R189, R190), in the step that issued it if they do at once. -/
def sendAll (s : State) : State :=
  ((allThreads s).filter (fun x => x.2.infl.any (fun p => p.loc.isNone && p.op.isAccess && p.st == .sent && remotePeer s p.addr))).foldl
    (fun s x => sendReady s x.1) s

/-- The age order as the step leaves it, but while a constellation is being issued (R139). -/
def ageNow (s : State) : State := if s.cons.isEmpty then { s with age := refreshAge s } else s

/-- What follows a step at once: control packets that find room are formed; write-combining buffers send what is asked of them; a thread let go for one instruction halts again; waits that are over
end; collectives go on; armed commands of launches whose teams have retired are dropped; parked threads find a record; requests that waited leave;
tiles that are spent and scratch that nothing uses are free; threads join the age order. -/
def settleState (s : State) : State :=
  let s0 := ([0, 1, 2, 3] : List Nat).foldl sendLines s
  let s1 := wake { afterStep s0 with cur := none }
  let s2 := dropAllArmed (settleColls s1)
  let s3 := sendAll (wake (postWaiting s2))
  ageNow (freeScratch (freeTiles (formLate s3)))

end Sys2Proof.Machine
end

