-- ==== Sys2Proof/Machine/Run.lean ====
section
/-! DEFINITION. Run.lean: what one step runs: a word of the constellation being issued, the next happening of the agenda, or,
with the agenda empty, the default order (assumption log 6). -/
namespace Sys2Proof.Machine

/-- What a step comes to once what it runs has answered: everything that follows at once. -/
def settle (o : Out) : Out := match o with
  | .next s => .next (settleState s)
  | .fault r => .fault r
  | .refused r => .refused r

/-- Issue the word of the next member of the constellation, if there is one. -/
noncomputable def runIssue (run : Instr → State → Out) (s : State) : Out := match nextIssue s with
  | some x => settle (run x.1 x.2)
  | none => settle (.next s)

/-- A pick, and the issue of the constellation's first member. -/
noncomputable def runPick (run : Instr → State → Out) (s : State) (quad : Option Nat) : Option Out :=
  (pick s quad).map (runIssue run)

/-- One happening of the agenda. -/
noncomputable def runNext (run : Instr → State → Out) (s : State) (n : Next) : Out := match n with
  | .event i => settle (run i { s with cur := none })
  | .pick quad => (runPick run s (some quad)).getD notNow
  | .elapse ns => settle (.next { s with ns := (s.ns + ns) % 2 ^ 64 })
  | .evictL1 core asid line => .next { s with l1 := dropCopy s.l1 core asid line }
  | .evictRdc die asid line => .next { s with rdc := dropCopy s.rdc die asid line }
  | .evictMtlb die asid lvl page =>
    .next { s with mtlb := match s.mtlb.find? (fun m => !m.victim && m.at_ die asid lvl page) with
      | some m => toVictim s.mtlb m
      | none => s.mtlb }
  | .writeFlash r => .next { s with ctl := { s.ctl with flash := r } }
  | .readReg off => .next (afterRead s off)
  | .corrected key => .next (countCorrected s key)
  | .replyLost tag => settle (.next (replyLost s tag))
  | .coolant flow inlet => .next (measureCoolant s flow inlet)
  | .dropVictim die asid lvl page => .next { s with mtlb := s.mtlb.filter (fun m => !(m.victim && m.at_ die asid lvl page)) }

/-- The first step of the part's own, in the order of the turn, that the state lets happen. -/
noncomputable def firstAuto (run : Instr → State → Out) (s : State) : Option State :=
  (autoEvents s).findSome? (fun i => match run i { s with cur := none } with
    | .next s' => some { s' with turn := s.turn + 1 }
    | _ => none)

/-- The default order: a pick and a step of the part's own in turn, where both can happen; an idle machine stays as it is. -/
noncomputable def runDefault (run : Instr → State → Out) (s : State) : Out :=
  if s.flip then
    match firstAuto run s with
    | some s1 => settle (.next { s1 with flip := false })
    | none => (runPick run { s with flip := false } none).getD (.next s)
  else
    match runPick run { s with flip := true } none with
    | some o => o
    | none => match firstAuto run s with
      | some s1 => settle (.next s1)
      | none => .next s

/-- One step of the part. -/
noncomputable def runStep (run : Instr → State → Out) (s : State) : Out :=
  match s.cons with
  | _ :: _ => runIssue run s
  | [] =>
    match s.agenda with
    | n :: rest => runNext run { s with agenda := rest } n
    | [] => runDefault run s

end Sys2Proof.Machine
end

