-- ==== Sys2Proof/Machine/Step.lean ====
section
/-! DEFINITION. Step.lean: one step of the machine, and the state that runs one given word next. -/
namespace Sys2Proof.Machine

noncomputable section

/-- One step: a word of the constellation being issued, the next happening of the agenda, or the default order. -/
def step : State → Host.Outcome State Fault Refusal := runStep exec

end

/-- `s` with a program of the one word `w` loaded, so that the next step fetches and runs it (assumption log 5). -/
def State.withFetchWord (s : State) (_nbits w : Nat) : State := s.loadWord w

end Sys2Proof.Machine
end

