-- ==== Sys2Proof/Safety.lean ====
section
/-! DEFINITION. Safety.lean: what a run of the part is called safe by: the invariant that every step keeps, and what it is for a
step to stop. -/
namespace Sys2Proof.Safety
open Sys2Proof.Machine

/-- Every bank of registers has the size that the spec gives it: four dies (R14), eight stacks (R324), sixteen queues (R430), 64 host
windows and 256 pod keys (R427), 64 ports (R371). -/
def Banks (s : State) : Prop :=
  s.dies.length = 4 ∧ s.errs.length = 8 ∧ s.queues.length = 16 ∧ s.windows.length = 64 ∧ s.podKeys.length = 256 ∧ s.net.ports.length = 64

/-- The invariant of the machine: memory stands in its canonical form and every bank of registers keeps its size. -/
def MachineInv (s : State) : Prop := Memory.wf s.mem = true ∧ Banks s

/-- A step goes on. -/
def Goes (o : Host.Outcome State Fault Refusal) : Prop := ∃ s', o = .next s'

/-! The terms in which the statements speak of a word that is issued. -/

/-- The thread of `c` executes the word being issued: it is the thread that issues, `c` is what the machine holds of it, and no
predicate block skips the word (R36). -/
structure Executes (s : State) (c : Ctx) : Prop where
  cur    : s.cur = some c.t
  owner  : s.ofThread c.t = some (c.l, c.g)
  thread : s.thread? c.t = some c.th
  on     : c.th.blk.head? ≠ some false

/-- The thread of `c` issues a word that its predicate block skips (R36). -/
structure Skips (s : State) (c : Ctx) : Prop where
  cur    : s.cur = some c.t
  owner  : s.ofThread c.t = some (c.l, c.g)
  thread : s.thread? c.t = some c.th
  off    : c.th.blk.head? = some false

/-- `s` with a word's thread past it: the PC at the following word, the predicate block one word on, HZ as the word has it. -/
def past (s : State) (t : Tid) (h : Bool) : State := s.modThread t (fun th => th.past h (th.pc + 4))

/-- `s` after a register word: the thread and the group as `c` has them, and the thread past the word. -/
def retired (s : State) (c : Ctx) (h : Bool) : State := past (putCtx s c) c.t h

/-- `s` after a word whose result comes later (R33): the result waits for its delivery, and the thread is past the word. -/
def retiredVar (s : State) (c : Ctx) (h : Bool) (dst : Dst) (vals : List Word) : State :=
  past (addResult (putCtx s c) c.t c.th.pc dst vals) c.t h

/-- `s` after a word that waits, of number `n`: the thread is past the word and blocked for what it waits for. -/
def waiting (n : Nat) (s : State) (c : Ctx) (h : Bool) (k : WaitKind) : State :=
  s.modThread c.t (fun x => { x.past h (x.pc + 4) with wait := some { id := n, kind := k, pc := c.th.pc, blk := c.th.blk, rest := [] } })

/-- `s` after a transfer of control. -/
def jumped (s : State) (c : Ctx) (h : Bool) (target : DWord) : State :=
  s.modThread c.t (fun x => { x.past h target with fetchFrom := some c.th.pc })

/-- A register word may write `d` from the names in `srcs` (R23–R25, R27). -/
def Writes (c : Ctx) (w : Nat) (d : BitVec 7) (dst : Dst) (srcs : List (BitVec 7)) (readsPred : Bool) : Prop :=
  dest c w d = .ok dst ∧ uniRule c dst srcs readsPred = .ok ()

/-- A name reads as one register, or as a pair (R23–R25). -/
def Reads (c : Ctx) (a : BitVec 7) (x : Word) : Prop := src32 c a = .ok x
def Reads64 (c : Ctx) (a : BitVec 7) (x : DWord) : Prop := src64 c a = .ok x

end Sys2Proof.Safety
end

