-- ==== Sys2Proof/Certificates/Slice0/Obligations.lean ====
section
/-! DEFINITION. Obligations.lean: the statements about the model. First the shapes that many instructions share; then the statements,
from the encoding to the units, the host and the pod. -/
namespace Sys2Proof.Claims
open Sys2Proof.Machine Sys2Proof.Safety

/-! The shapes of the register words (R23–R25, R27): from the sources that are read and the destination that is named to the state
after the word. -/

/-- d := f a b, registers of 32 bits. -/
def Word2 (mk : Bool → BitVec 7 → BitVec 7 → BitVec 7 → Instr) (f : Word → Word → Word) : Prop :=
  ∀ (s : State) (c : Ctx) (h : Bool) (d a b : BitVec 7) (dst : Dst) (x y : Word),
    Executes s c → Writes c 1 d dst [a, b] false → Reads c a x → Reads c b y →
    exec (mk h d a b) s = .next (retired s (c.write dst [f x y]) h)

/-- d := some value that stands in a relation to a and b. -/
def Word2Rel (mk : Bool → BitVec 7 → BitVec 7 → BitVec 7 → Instr) (R : Word → Word → Word → Prop) : Prop :=
  ∀ (s : State) (c : Ctx) (h : Bool) (d a b : BitVec 7) (dst : Dst) (x y : Word),
    Executes s c → Writes c 1 d dst [a, b] false → Reads c a x → Reads c b y →
    ∃ v, R x y v ∧ exec (mk h d a b) s = .next (retired s (c.write dst [v]) h)

/-- d := f a. -/
def Word1 (mk : Bool → BitVec 7 → BitVec 7 → Instr) (f : Word → Word) : Prop :=
  ∀ (s : State) (c : Ctx) (h : Bool) (d a : BitVec 7) (dst : Dst) (x : Word),
    Executes s c → Writes c 1 d dst [a] false → Reads c a x →
    exec (mk h d a) s = .next (retired s (c.write dst [f x]) h)

/-- d := some value that stands in a relation to a. -/
def Word1Rel (mk : Bool → BitVec 7 → BitVec 7 → Instr) (R : Word → Word → Prop) : Prop :=
  ∀ (s : State) (c : Ctx) (h : Bool) (d a : BitVec 7) (dst : Dst) (x : Word),
    Executes s c → Writes c 1 d dst [a] false → Reads c a x →
    ∃ v, R x v ∧ exec (mk h d a) s = .next (retired s (c.write dst [v]) h)

/-- d := f a b d: the destination is a source too. -/
def Word3 (mk : Bool → BitVec 7 → BitVec 7 → BitVec 7 → Instr) (f : Word → Word → Word → Word) : Prop :=
  ∀ (s : State) (c : Ctx) (h : Bool) (d a b : BitVec 7) (dst : Dst) (x y z : Word),
    Executes s c → Writes c 1 d dst [d, a, b] false → Reads c a x → Reads c b y → Reads c d z →
    exec (mk h d a b) s = .next (retired s (c.write dst [f x y z]) h)

/-- Pairs: d := f a b. -/
def Pair2 (mk : Bool → BitVec 7 → BitVec 7 → BitVec 7 → Instr) (f : DWord → DWord → DWord) : Prop :=
  ∀ (s : State) (c : Ctx) (h : Bool) (d a b : BitVec 7) (dst : Dst) (x y : DWord),
    Executes s c → Writes c 2 d dst [a, b] false → Reads64 c a x → Reads64 c b y →
    exec (mk h d a b) s = .next (retired s (c.write64 dst (f x y)) h)

/-- d := f a b, a result of variable latency: it waits for its delivery (R33). -/
def Var2 (mk : Bool → BitVec 7 → BitVec 7 → BitVec 7 → Instr) (f : Word → Word → Word) : Prop :=
  ∀ (s : State) (c : Ctx) (h : Bool) (d a b : BitVec 7) (dst : Dst) (x y : Word),
    Executes s c → Writes c 1 d dst [a, b] false → Reads c a x → Reads c b y →
    exec (mk h d a b) s = .next (retiredVar s c h dst [f x y])

/-- d := f a, a result of variable latency. -/
def Var1 (mk : Bool → BitVec 7 → BitVec 7 → Instr) (f : Word → Word) : Prop :=
  ∀ (s : State) (c : Ctx) (h : Bool) (d a : BitVec 7) (dst : Dst) (x : Word),
    Executes s c → Writes c 1 d dst [a] false → Reads c a x →
    exec (mk h d a) s = .next (retiredVar s c h dst [f x])

/-- d := f a i, with an immediate. -/
def Imm1 {w : Nat} (mk : Bool → BitVec 7 → BitVec 7 → BitVec w → Instr) (f : Word → BitVec w → Word) : Prop :=
  ∀ (s : State) (c : Ctx) (h : Bool) (d a : BitVec 7) (i : BitVec w) (dst : Dst) (x : Word),
    Executes s c → Writes c 1 d dst [a] false → Reads c a x →
    exec (mk h d a i) s = .next (retired s (c.write dst [f x i]) h)

/-- Pairs: d := f a i, with an immediate. -/
def ImmPair {w : Nat} (mk : Bool → BitVec 7 → BitVec 7 → BitVec w → Instr) (f : DWord → BitVec w → DWord) : Prop :=
  ∀ (s : State) (c : Ctx) (h : Bool) (d a : BitVec 7) (i : BitVec w) (dst : Dst) (x : DWord),
    Executes s c → Writes c 2 d dst [a] false → Reads64 c a x →
    exec (mk h d a i) s = .next (retired s (c.write64 dst (f x i)) h)

/-- How a condition enters a predicate by its combine code (R82). -/
def Combined (code : BitVec 2) (p t : Bool) : Bool :=
  if code = 0 then t else if code = 1 then p && t else if code = 2 then p || t else !t

/-- A compare of two registers: the condition enters predicate p by combine code k (R82). -/
def Cond32 (mk : Bool → BitVec 2 → BitVec 3 → BitVec 7 → BitVec 7 → Instr) (t : Word → Word → Bool) : Prop :=
  ∀ (s : State) (c : Ctx) (h : Bool) (k : BitVec 2) (p : BitVec 3) (a b : BitVec 7) (x y : Word),
    Executes s c → Reads c a x → Reads c b y →
    exec (mk h k p a b) s = .next (retired s (c.setPred p (Combined k (c.pred p) (t x y))) h)

/-- A compare of two pairs. -/
def Cond64 (mk : Bool → BitVec 2 → BitVec 3 → BitVec 7 → BitVec 7 → Instr) (t : DWord → DWord → Bool) : Prop :=
  ∀ (s : State) (c : Ctx) (h : Bool) (k : BitVec 2) (p : BitVec 3) (a b : BitVec 7) (x y : DWord),
    Executes s c → Reads64 c a x → Reads64 c b y →
    exec (mk h k p a b) s = .next (retired s (c.setPred p (Combined k (c.pred p) (t x y))) h)

end Sys2Proof.Claims

namespace Sys2Proof.Claims
open Sys2Proof.Machine Sys2Proof.Safety

/-- How two FP32 values compare (R112): none where either is NaN; the two zeros are equal. -/
def rel32 (a b : Word) : Option Ordering := cmpF fp32 a.toNat b.toNat
/-- How two FP64 values compare. -/
def rel64 (a b : DWord) : Option Ordering := cmpF fp64 a.toNat b.toNat

/-- SRSEED after a CVT (R105, R119): it advances once where the rounding field is SR. -/
def seeded (c : Ctx) (r : BitVec 3) : Ctx :=
  if r = 5 then { c with th := { c.th with srseed := c.th.srseed + 0x9E3779B9 } } else c

/-- A CVT from a register to a register (R116, R117): the mode is that of the rounding field, drawn for element 0; SR needs capability
bit 13 (R132). -/
def Cvt32 (mk : Bool → BitVec 7 → BitVec 7 → BitVec 3 → Bool → BitVec 3 → Instr) (f : (BitVec 3 → Nf) → BitVec 3 → Bool → Rnd → Word → Word) : Prop :=
  ∀ (s : State) (c : Ctx) (h : Bool) (d a : BitVec 7) (k : BitVec 3) (sat : Bool) (r : BitVec 3) (dst : Dst) (x : Word),
    Executes s c → Writes c 1 d dst [a] false → Reads c a x → (r = 5 → c.l.has 13 = true) →
    exec (mk h d a k sat r) s =
      .next (retired s (seeded (c.write dst [f c.nf k sat (rndOf r.toNat c.th.srseed c.t.lane 0) x]) r) h)

/-- A CVT from an FP64 pair to a register: it needs capability bit 1 too. -/
def CvtFrom64 (mk : Bool → BitVec 7 → BitVec 7 → BitVec 3 → Bool → BitVec 3 → Instr) (f : Bool → Rnd → DWord → Word) : Prop :=
  ∀ (s : State) (c : Ctx) (h : Bool) (d a : BitVec 7) (k : BitVec 3) (sat : Bool) (r : BitVec 3) (dst : Dst) (x : DWord),
    Executes s c → Writes c 1 d dst [a] false → Reads64 c a x → c.l.has 1 = true → (r = 5 → c.l.has 13 = true) →
    exec (mk h d a k sat r) s =
      .next (retired s (seeded (c.write dst [f sat (rndOf r.toNat c.th.srseed c.t.lane 0) x]) r) h)

/-- A CVT from a register to an FP64 pair. -/
def CvtTo64 (mk : Bool → BitVec 7 → BitVec 7 → BitVec 3 → Bool → BitVec 3 → Instr) (f : Word → DWord) : Prop :=
  ∀ (s : State) (c : Ctx) (h : Bool) (d a : BitVec 7) (k : BitVec 3) (sat : Bool) (r : BitVec 3) (dst : Dst) (x : Word),
    Executes s c → Writes c 2 d dst [a] false → Reads c a x → c.l.has 1 = true → (r = 5 → c.l.has 13 = true) →
    exec (mk h d a k sat r) s = .next (retired s (seeded (c.write64 dst (f x)) r) h)

/-- FP64: d := f a b, with capability bit 1 (R120, R132). -/
def Dbl2 (mk : Bool → BitVec 7 → BitVec 7 → BitVec 7 → Instr) (f : DWord → DWord → DWord) : Prop :=
  ∀ (s : State) (c : Ctx) (h : Bool) (d a b : BitVec 7) (dst : Dst) (x y : DWord),
    Executes s c → Writes c 2 d dst [a, b] false → Reads64 c a x → Reads64 c b y → c.l.has 1 = true →
    exec (mk h d a b) s = .next (retired s (c.write64 dst (f x y)) h)

/-- An FP64 compare (R121). -/
def DblCond (mk : Bool → BitVec 2 → BitVec 3 → BitVec 7 → BitVec 7 → Instr) (t : DWord → DWord → Bool) : Prop :=
  ∀ (s : State) (c : Ctx) (h : Bool) (k : BitVec 2) (p : BitVec 3) (a b : BitVec 7) (x y : DWord),
    Executes s c → Reads64 c a x → Reads64 c b y → c.l.has 1 = true →
    exec (mk h k p a b) s = .next (retired s (c.setPred p (Combined k (c.pred p) (t x y))) h)

/-- An XFN minor gives `v` for the operand `x`. -/
def Gives (mk : Bool → BitVec 7 → BitVec 7 → Instr) (x v : Word) : Prop :=
  ∀ (s : State) (c : Ctx) (h : Bool) (d a : BitVec 7) (dst : Dst),
    Executes s c → Writes c 1 d dst [a] false → Reads c a x → exec (mk h d a) s = .next (retiredVar s c h dst [v])

end Sys2Proof.Claims

namespace Sys2Proof.Claims
open Sys2Proof.Machine Sys2Proof.Safety

/-- `s` after a word that sends a result on its way (R33) and is past. -/
def later (s : State) (c : Ctx) (h : Bool) (dst : Dst) (vals : List Word) : State := past (addResult s c.t c.th.pc dst vals) c.t h

/-- `s` after a word whose access has been put to its owner (R161, R205), and which is past. -/
def sent (s : State) (c : Ctx) (h : Bool) (a : DWord) (dst : Dst) (op : POp) : State := past (access s c a dst op) c.t h

/-- The registers that a load of a size code writes from the bytes it finds (R43, R207). -/
def loaded (z : Nat) (b : Nat → Byte) : List Word :=
  let word := fun (k : Nat) => b (4 * k + 3) ++ b (4 * k + 2) ++ b (4 * k + 1) ++ b (4 * k)
  match z with
  | 0 => [(b 0).zeroExtend 32]
  | 1 => [(b 0).signExtend 32]
  | 2 => [(b 1 ++ b 0).zeroExtend 32]
  | 3 => [(b 1 ++ b 0).signExtend 32]
  | 4 => [word 0]
  | 5 => [word 0, word 1]
  | _ => [word 0, word 1, word 2, word 3]

/-- `s` with the team of `c`'s thread marked as having reached beyond itself since it was placed (R347). -/
def marked (s : State) (c : Ctx) : State := s.modThread c.t (fun th => { th with barsFlush := true })

/-- `s` after a thread's arrival at its next rendezvous (R149). -/
def arrived (s : State) (c : Ctx) (h : Bool) (minor : Nat) (u : Bool) (dst : Dst) (x y : Word) : State :=
  let s1 := s.modThread c.t (fun th => { th with rendez := th.rendez + 1 })
  tryRendez (past (addPend s1 c.t c.th.pc dst (.rendez minor u (c.th.rendez + 1).toNat x y) 0 none .sent) c.t h) c.t.gid

/-- A node of the tree of GRFADD (R152): the sum that stands at position `i` after `k` levels; absent where no participant lies below it. -/
def treeNode (ps : List Part) : Nat → Nat → Option Word
  | 0, i => (ps.find? (fun y => y.lane == i)).map (fun y => y.a)
  | k + 1, i => match treeNode ps k i, treeNode ps k (i + 2 ^ k) with
    | none, v => v
    | u, none => u
    | some u, some v => some (f32 (addV (v32 u) (v32 v)))

/-- A minor of ATOM and of ATOM.AR with registers of 32 bits (R210): what it sends, and what it writes over x. -/
def Atomic (rlx ar : Bool → BitVec 7 → BitVec 7 → BitVec 7 → Instr) (minor : Nat) (f : Word → Word → Word) : Prop :=
  (∀ (s : State) (c : Ctx) (h : Bool) (d a b : BitVec 7) (dst : Dst) (p : DWord) (y : Word),
    Executes s c → dest c 1 d = .ok dst → Reads64 c a p → Reads c b y → dst.isUni = false → versionCheck c 3 false = .ok () →
    (addrTag p = 2 → minor ≤ 1) → accessCheck s c p 4 3 = none →
    exec (rlx h d a b) s = .next (sent (marked s c) c h p dst (.atomic minor [y] false false)) ∧
    exec (ar h d a b) s = .next (sent (marked s c) c h p dst (.atomic minor [y] true true))) ∧
  ∀ x y : Word, atomicNew minor x.toNat [y] = some (f x y).toNat

/-- An atomic whose operand is of several registers, or whose destination is a pair (R210). -/
def WideAtomic (rlx ar : Bool → BitVec 7 → BitVec 7 → BitVec 7 → Instr) (minor w n : Nat) (f : Nat → List Word → Option Nat) : Prop :=
  (∀ (s : State) (c : Ctx) (h : Bool) (d a b : BitVec 7) (dst : Dst) (p : DWord) (ys : List Word),
    Executes s c → dest c w d = .ok dst → Reads64 c a p → src c n b = .ok ys → dst.isUni = false → versionCheck c 3 false = .ok () →
    accessCheck s c p (4 * w) 3 = none →
    exec (rlx h d a b) s = .next (sent (marked s c) c h p dst (.atomic minor ys false false)) ∧
    exec (ar h d a b) s = .next (sent (marked s c) c h p dst (.atomic minor ys true true))) ∧
  ∀ (x : Nat) (ys : List Word), atomicNew minor x ys = f x ys

end Sys2Proof.Claims

namespace Sys2Proof.Claims
open Sys2Proof.Machine Sys2Proof.Safety

/-- The command of a data word of the copy engine (R223): TRIG, ADDR and CMD are its three quads. -/
def command (s : State) (c : Ctx) (minor : Nat) (tr ad cm : List Word) : CopyCmd :=
  let quad := fun (l : List Word) (i : Nat) => pairOf (l.getD i 0) (l.getD (i + 1) 0)
  let ctl := cm.getD 0 0
  { id := s.nextId, t := c.t, launch := c.l.ref, core := c.g.core, asid := c.l.asid, key := c.l.podKey, minor := minor, ctl := ctl,
    len := (cm.getD 1 0).toNat, lay := c.g.lt.getD (ctl.toNat / 2 ^ 12 % 8) [], src := quad ad 0, dst := quad ad 2, w := quad tr 0, g := quad tr 2,
    thr := cm.getD 2 0, aux := cm.getD 3 0, st := .unregistered, srcOk := [], done := [], flight := [], fail := 0, consumed := false, drops := [] }

/-- `s` after a command that passes its checks: it takes its entries, or its thread waits until it may (R222, R230). -/
def commanded (s : State) (c : Ctx) (h : Bool) (k : CopyCmd) : State :=
  let s0 := { s with nextId := s.nextId + 1 }
  let s1 := if k.sigs = true ∨ addrTag k.dst = 2 ∨ addrTag k.dst = 4 then marked s0 c else s0
  if copyReady s1 c.l c.g c.th k = true then past (startCopy s1 c.l c.g k) c.t h else waiting s.nextId s1 c h (.copy k)

/-- An engine keeps its accumulators, its baton and its operations; these may have read more of their lines. -/
def Unmoved (e e' : Engine) : Prop :=
  e'.core = e.core ∧ e'.launch = e.launch ∧ e'.slots = e.slots ∧ e'.holder = e.holder ∧ e'.fifo = e.fifo ∧ e'.back = e.back ∧ e'.epoch = e.epoch ∧
    e'.queue.map (fun o => o.id) = e.queue.map (fun o => o.id)

/-- The matrix operation of a word (R253): the format registers are the group's as the constellation reads them (R144). -/
def operation (c : Ctx) (minor : Nat) (sw : Word) (a b : List Word) : MOp :=
  let nf := fun (q : List Word) => if minor < 4 then c.g.nfRd.getD ((q.getD 2 0).toNat / 2 ^ 29) 0 else 0
  { id := 0, gid := c.t.gid, t := c.t, minor := minor, slotw := sw, a := a, b := b, nfA := nf a, nfB := nf b, next := 0, rd := [], units := [],
    hold := none }

/-- `s` after an operation that passes its checks: it enters the engine's queue, or its thread waits for room (R252). -/
def entered (s : State) (c : Ctx) (h : Bool) (o : MOp) : State :=
  let s1 := s.modGroup c.t.gid (fun g => { g with used := g.used ||| 2 ^ (o.slotw.toNat % 16) })
  if matrixReady s1 c.g.core o = true then past (enterMatrix s1 c.t c.l c.g c.th.pc o) c.t h else waiting s.nextId s1 c h (.mma o)

/-- A compute form of the matrix engine, with the capability bits it needs besides bit 2 (R132). -/
def Operation (minor : Nat) (caps : List Nat) (mk : Bool → BitVec 7 → BitVec 7 → BitVec 7 → Instr) : Prop :=
  ∀ (s : State) (c : Ctx) (h : Bool) (d a b : BitVec 7) (sw : Word) (x y : List Word), Executes s c → Reads c d sw → src c 4 a = .ok x → src c 4 b = .ok y →
    [d, a, b].all uniName = true → c.l.has 2 = true → caps.all c.l.has = true → c.g.task = none → holds s c.g = true →
    matrixCheck c (operation c minor sw x y) = .ok () → exec (mk h d a b) s = .next (entered s c h (operation c minor sw x y))

end Sys2Proof.Claims

section
open Sys2Proof Sys2Proof.Machine Sys2Proof.Safety Sys2Proof.Claims

/-- Register names (R23–R25, R27): what each name reads and what a write to it does; REG_RANGE, and ILLEGAL_OPERAND for a name that cannot be
written. A word whose operands are refused raises that trap and has no other effect, the destination's before that of a, and a's before that of
b (the model's choice: assumption log 9); so does one that would write a uniform register from
a source that is not the group's, or from a predicate (R63). -/
def Obligations.NamesResolve : Prop :=
  (∀ (c : Ctx) (f : BitVec 7),
    let n := f.toNat
    let p := c.th.vwb.toNat + n
    let q := c.th.uwb.toNat + (n - 80)
    let range : TrapRec := { cause := 0x03, pc := c.th.pc, addr := 0, detail := n, kind := 0, at_ := 0, further := 0 }
    (n < 80 →
      (p < c.th.regs.length → Reads c f (c.th.regs.getD p 0) ∧ dest c 1 f = .ok (.vec p 1)) ∧
      (c.th.regs.length ≤ p → src32 c f = .error range ∧ dest c 1 f = .error range) ∧
      (p + 1 < c.th.regs.length → Reads64 c f (pairOf (c.th.regs.getD p 0) (c.th.regs.getD (p + 1) 0)) ∧ dest c 2 f = .ok (.vec p 2)) ∧
      (c.th.regs.length ≤ p + 1 → src64 c f = .error range ∧ dest c 2 f = .error range)) ∧
    (80 ≤ n → n < 120 → Reads c f (c.g.uniRd.getD q 0) ∧ dest c 1 f = .ok (.uni q 1) ∧
      Reads64 c f (pairOf (c.g.uniRd.getD q 0) (c.g.uniRd.getD (q + 1) 0)) ∧ dest c 2 f = .ok (.uni q 2)) ∧
    (n = 120 ∨ n = 127 → Reads c f 0) ∧ (n = 121 → Reads c f (BitVec.ofNat 32 c.t.lane)) ∧
    (n = 122 → Reads c f (BitVec.ofNat 32 (widOf c.l c.g c.t.lane))) ∧ (n = 123 → Reads c f (BitVec.ofNat 32 (widOf c.l c.g c.t.lane / 2 ^ 32))) ∧
    (n = 124 → Reads c f (BitVec.ofNat 32 c.g.idx)) ∧ (n = 125 → Reads c f (BitVec.ofNat 32 (c.g.core % 48))) ∧
    (n = 126 → Reads c f (c.th.vwb.zeroExtend 32)) ∧
    (n = 120 → Reads64 c f 0) ∧ (n = 122 → Reads64 c f (BitVec.ofNat 64 (widOf c.l c.g c.t.lane))) ∧ (n = 124 ∨ n = 126 → src64 c f = .error c.illegal) ∧
    (n = 127 → dest c 1 f = .ok .none) ∧ (120 ≤ n → n < 127 → dest c 1 f = .error c.illegal) ∧ (120 ≤ n → dest c 2 f = .error c.illegal)) ∧
  (∀ (c : Ctx) (r : Nat) (v : Word), c.write .none [v] = c ∧ c.write (.vec r 1) [v] = { c with th := { c.th with regs := c.th.regs.set r v } } ∧
    c.write (.uni r 1) [v] = { c with g := { c.g with uni := c.g.uni.set r v } }) ∧
  (∀ (s : State) (c : Ctx) (h k : Bool) (m : BitVec 3) (d a b : BitVec 7), Executes s c →
    let traps := fun (i : Instr) (r : TrapRec) => exec i s = .next (trapNow s c.t r c.th.blk)
    let two : List Instr := [.add h d a b, .sub h d a b, .mul h d a b, .mulh h d a b, .mulhu h d a b, .and h d a b, .or h d a b, .xor h d a b,
      .andn h d a b, .shl h d a b, .shr h d a b, .sar h d a b, .min h d a b, .max h d a b, .minu h d a b, .maxu h d a b, .bfe h d a b, .rol h d a b,
      .div h d a b, .rem h d a b, .divu h d a b, .remu h d a b, .fadd h d a b, .fsub h d a b, .fmul h d a b, .fmin h d a b, .fmax h d a b, .fminn h d a b,
      .fmaxn h d a b, .fcpsgn h d a b, .fscale h d a b, .hadd2 h d a b, .hsub2 h d a b, .hmul2 h d a b, .hmin2 h d a b, .hmax2 h d a b, .badd2 h d a b,
      .bsub2 h d a b, .bmul2 h d a b, .bmin2 h d a b, .bmax2 h d a b, .expsub h d a b, .xfnDiv h d a b]
    (∀ i ∈ two, ∀ r, dest c 1 d = .error r → traps i r) ∧
    (∀ i ∈ two, ∀ dst r, dest c 1 d = .ok dst → src32 c a = .error r → traps i r) ∧
    (∀ i ∈ two, ∀ dst x r, dest c 1 d = .ok dst → Reads c a x → src32 c b = .error r → traps i r) ∧
    (∀ q x y, dest c 1 d = .ok (.uni q 1) → Reads c a x → Reads c b y →
      let group := fun (f : BitVec 7) => (80 ≤ f ∧ f < 120) ∨ f = 120 ∨ f = 124 ∨ f = 125 ∨ f = 127
      (¬ (group a ∧ group b) → ∀ i ∈ two, traps i c.illegal) ∧ traps (.sel h k m d a b) c.illegal ∧ traps (.pmov h d) c.illegal))

/-- IOP (R74): what each minor writes. -/
def Obligations.IopMinorsCompute : Prop :=
  Word2 .add (fun a b => a + b) ∧ Word2 .sub (fun a b => a - b) ∧ Word2 .mul (fun a b => a * b) ∧
  Word2 .mulh (fun a b => (a.signExtend 64 * b.signExtend 64).extractLsb' 32 32) ∧
  Word2 .mulhu (fun a b => (a.zeroExtend 64 * b.zeroExtend 64).extractLsb' 32 32) ∧
  Word2 .and (fun a b => a &&& b) ∧ Word2 .or (fun a b => a ||| b) ∧ Word2 .xor (fun a b => a ^^^ b) ∧
  Word2 .andn (fun a b => a &&& ~~~ b) ∧
  Word2 .shl (fun a b => a <<< (b.toNat % 32)) ∧ Word2 .shr (fun a b => a >>> (b.toNat % 32)) ∧
  Word2 .sar (fun a b => a.sshiftRight (b.toNat % 32)) ∧
  Word2 .min (fun a b => if a.sle b then a else b) ∧ Word2 .max (fun a b => if a.sle b then b else a) ∧
  Word2 .minu (fun a b => if a ≤ b then a else b) ∧ Word2 .maxu (fun a b => if a ≤ b then b else a)

/-- IOPX (R75) without the field and division minors: what each minor writes. -/
def Obligations.IopxMinorsCompute : Prop :=
  Pair2 .add64 (fun a b => a + b) ∧ Pair2 .sub64 (fun a b => a - b) ∧ Pair2 .mul64 (fun a b => a * b) ∧
  Word3 .mad (fun a b d => a * b + d) ∧
  (∀ (s : State) (c : Ctx) (h : Bool) (d a b : BitVec 7) (dst : Dst) (x y : Word) (z : DWord),
    Executes s c → Writes c 2 d dst [d, a, b] false → Reads c a x → Reads c b y → Reads64 c d z →
    exec (.madw h d a b) s = .next (retired s (c.write64 dst (x.signExtend 64 * y.signExtend 64 + z)) h)) ∧
  Word1Rel .clz (fun a v => v.toNat ≤ 32 ∧ (∀ i, i < v.toNat → a.getMsbD i = false) ∧ (v.toNat < 32 → a.getMsbD v.toNat = true)) ∧
  Word1 .popc (fun a => BitVec.ofNat 32 ((List.range 32).countP (fun i => a.getLsbD i))) ∧
  Word1Rel .brev (fun a v => ∀ i, i < 32 → v.getLsbD (31 - i) = a.getLsbD i) ∧
  Word2 .rol (fun a b => a.rotateLeft (b.toNat % 32))

/-- BFE, BFI and PRMT (R76). -/
def Obligations.FieldMinorsCompute : Prop :=
  Word2 .bfe (fun a b =>
    let pos := b.toNat % 32
    let len := min (b.toNat / 2 ^ 8 % 64) 32
    let f : Nat := a.toNat / 2 ^ pos % 2 ^ len
    if b.getLsbD 16 = true ∧ 0 < len ∧ f.testBit (len - 1) = true then BitVec.ofInt 32 ((f : Int) - (2 ^ len : Nat)) else BitVec.ofNat 32 f) ∧
  Word3 .bfi (fun a b d =>
    let pos := b.toNat % 32
    let len := min (b.toNat / 2 ^ 8 % 64) 32
    let mask : Word := BitVec.ofNat 32 ((2 ^ len - 1) * 2 ^ pos)
    (d &&& ~~~ mask) ||| ((a <<< pos) &&& mask)) ∧
  (∀ (s : State) (c : Ctx) (h : Bool) (d a b : BitVec 7) (dst : Dst) (x : DWord) (y : Word),
    Executes s c → Writes c 1 d dst [a, b] false → Reads64 c a x → Reads c b y →
    ∃ v : Word, (∀ i, i < 4 →
        let byte := x.extractLsb' (8 * (y.toNat / 2 ^ (4 * i) % 8)) 8
        v.extractLsb' (8 * i) 8 = if y.getLsbD (4 * i + 3) then (if byte.msb then 0xFF else 0) else byte) ∧
      exec (.prmt h d a b) s = .next (retired s (c.write dst [v]) h))

/-- The division minors (R77): every corner has a value, none traps, and the result waits for its delivery. -/
def Obligations.DivisionMinorsCompute : Prop :=
  let corner := fun (a b : Word) => a = 0x80000000 ∧ b = 0xFFFFFFFF
  Var2 .div (fun a b => if b = 0 then 0xFFFFFFFF else if corner a b then 0x80000000 else BitVec.ofInt 32 (a.toInt.tdiv b.toInt)) ∧
  Var2 .rem (fun a b => if b = 0 then a else if corner a b then 0 else BitVec.ofInt 32 (a.toInt - a.toInt.tdiv b.toInt * b.toInt)) ∧
  Var2 .divu (fun a b => if b = 0 then 0xFFFFFFFF else BitVec.ofNat 32 (a.toNat / b.toNat)) ∧
  Var2 .remu (fun a b => if b = 0 then a else BitVec.ofNat 32 (a.toNat - a.toNat / b.toNat * b.toNat))

/-- The immediate forms (R78), MOV, MOV64, SEXT and ZEXT (R81), LEA (R80). -/
def Obligations.ImmediateFormsCompute : Prop :=
  Imm1 .addi (fun a i => a + i.signExtend 32) ∧ Imm1 .andi (fun a i => a &&& i.zeroExtend 32) ∧
  Imm1 .ori (fun a i => a ||| i.zeroExtend 32) ∧ Imm1 .xori (fun a i => a ^^^ i.zeroExtend 32) ∧
  Imm1 .muli (fun a i => a * i.signExtend 32) ∧
  Imm1 .shli (fun a k => a <<< k.toNat) ∧ Imm1 .shri (fun a k => a >>> k.toNat) ∧ Imm1 .sari (fun a k => a.sshiftRight k.toNat) ∧
  Imm1 .roli (fun a k => a.rotateLeft (k.toNat % 32)) ∧
  ImmPair .shli64 (fun a k => a <<< k.toNat) ∧ ImmPair .shri64 (fun a k => a >>> k.toNat) ∧ ImmPair .sari64 (fun a k => a.sshiftRight k.toNat) ∧
  (∀ (s : State) (c : Ctx) (h : Bool) (d : BitVec 7) (i : BitVec 18) (dst : Dst), Executes s c → dest c 1 d = .ok dst →
    exec (.movw h d i) s = .next (retired s (c.write dst [i.signExtend 32]) h)) ∧
  (∀ (s : State) (c : Ctx) (h : Bool) (d : BitVec 7) (i : BitVec 18) (dst : Dst) (z : Word),
    Executes s c → Writes c 1 d dst [d] false → Reads c d z →
    exec (.movh h d i) s = .next (retired s (c.write dst [(i.zeroExtend 32 <<< 14) ||| (z &&& 0x3FFF)]) h)) ∧
  Word1 .mov (fun a => a) ∧
  (∀ (s : State) (c : Ctx) (h : Bool) (d a : BitVec 7) (dst : Dst) (x : DWord),
    Executes s c → Writes c 2 d dst [a] false → Reads64 c a x → exec (.mov64 h d a) s = .next (retired s (c.write64 dst x) h)) ∧
  (∀ (s : State) (c : Ctx) (h : Bool) (sh : BitVec 4) (d a b : BitVec 7) (dst : Dst) (x : DWord) (y : Word),
    Executes s c → Writes c 2 d dst [a, b] false → Reads64 c a x → Reads c b y →
    exec (.lea h sh d a b) s = .next (retired s (c.write64 dst (x + (y.zeroExtend 64 <<< sh.toNat))) h)) ∧
  (∀ (s : State) (c : Ctx) (h : Bool) (d a w : BitVec 7) (dst : Dst) (x : Word),
    Executes s c → Writes c 1 d dst [a] false → Reads c a x →
    (1 ≤ w.toNat ∧ w.toNat ≤ 32 →
      exec (.zext h d a w) s = .next (retired s (c.write dst [BitVec.ofNat 32 (x.toNat % 2 ^ w.toNat)]) h) ∧
      exec (.sext h d a w) s = .next (retired s (c.write dst [(x <<< (32 - w.toNat)).sshiftRight (32 - w.toNat)]) h)) ∧
    (¬ (1 ≤ w.toNat ∧ w.toNat ≤ 32) →
      exec (.zext h d a w) s = .next (trapNow s c.t c.illegal c.th.blk) ∧ exec (.sext h d a w) s = .next (trapNow s c.t c.illegal c.th.blk)))

/-- ICMP and CMPI (R82, R83), and SEL, PMOV and PSET (R79, R81). -/
def Obligations.ComparesSetPredicates : Prop :=
  Cond32 .icmpEq (fun a b => a == b) ∧ Cond32 .icmpNe (fun a b => !(a == b)) ∧
  Cond32 .icmpLt (fun a b => a.slt b) ∧ Cond32 .icmpLe (fun a b => a.sle b) ∧ Cond32 .icmpGt (fun a b => b.slt a) ∧ Cond32 .icmpGe (fun a b => b.sle a) ∧
  Cond32 .icmpLtu (fun a b => a.ult b) ∧ Cond32 .icmpLeu (fun a b => a.ule b) ∧ Cond32 .icmpGtu (fun a b => b.ult a) ∧ Cond32 .icmpGeu (fun a b => b.ule a) ∧
  Cond64 .icmpEq64 (fun a b => a == b) ∧ Cond64 .icmpNe64 (fun a b => !(a == b)) ∧ Cond64 .icmpLt64 (fun a b => a.slt b) ∧
  Cond64 .icmpLtu64 (fun a b => a.ult b) ∧
  Cond32 .icmpBtst (fun a b => a.getLsbD (b.toNat % 32)) ∧
  (∀ (s : State) (c : Ctx) (h : Bool) (k : BitVec 4) (p : BitVec 3) (a : BitVec 7) (i : BitVec 11) (x : Word), Executes s c → Reads c a x → k ≤ 9 →
    exec (.cmpi h k p a i) s = .next (retired s (c.setPred p
      (let y := i.signExtend 32
       [x == y, !(x == y), x.slt y, x.sle y, y.slt x, y.sle x, x.ult y, x.ule y, y.ult x, y.ule x].getD k.toNat false)) h)) ∧
  (∀ (s : State) (c : Ctx) (h n : Bool) (p : BitVec 3) (d a b : BitVec 7) (dst : Dst) (x y : Word),
    Executes s c → Writes c 1 d dst [a, b] true → Reads c a x → Reads c b y →
    exec (.sel h n p d a b) s = .next (retired s (c.write dst [if (c.pred p ^^ n) = true then x else y]) h)) ∧
  (∀ (s : State) (c : Ctx) (h : Bool) (d : BitVec 7) (dst : Dst), Executes s c → Writes c 1 d dst [] true →
    ∃ v : Word, (∀ k : BitVec 3, v.getLsbD k.toNat = c.pred k) ∧ v.toNat < 256 ∧ exec (.pmov h d) s = .next (retired s (c.write dst [v]) h)) ∧
  (∀ (s : State) (c : Ctx) (h : Bool) (a b : BitVec 7) (x y : Word), Executes s c → Reads c a x → Reads c b y →
    ∃ c' : Ctx, (∀ k : BitVec 3, c'.pred k = if k ≠ 7 ∧ y.getLsbD k.toNat = true then x.getLsbD k.toNat else c.pred k) ∧
      c' = { c with th := { c.th with preds := c'.th.preds } } ∧ exec (.pset h a b) s = .next (retired s c' h))

/-- FOP and FMA (R107–R109): each result is the exact one, rounded once to FP32 by RNE; the sign and selection minors move bits. -/
def Obligations.Fp32ArithmeticRoundsOnce : Prop :=
  Word2 .fadd (fun a b => f32 (addV (v32 a) (v32 b))) ∧ Word2 .fsub (fun a b => f32 (addV (v32 a) (v32 b).neg)) ∧
  Word2 .fmul (fun a b => f32 (mulV (v32 a) (v32 b))) ∧
  Word3 .ffma (fun a b d => f32 (addV (mulV (v32 a) (v32 b)) (v32 d))) ∧ Word3 .ffms (fun a b d => f32 (addV (mulV (v32 a) (v32 b)) (v32 d).neg)) ∧
  Word3 .fnfma (fun a b d => let r := f32 (addV (mulV (v32 a) (v32 b)) (v32 d)); if (v32 r).isNan then r else r ^^^ 0x80000000) ∧
  Word3 .fnfms (fun a b d => let r := f32 (addV (mulV (v32 a) (v32 b)) (v32 d).neg); if (v32 r).isNan then r else r ^^^ 0x80000000) ∧
  Word1 .fabs (fun a => a &&& 0x7FFFFFFF) ∧ Word1 .fneg (fun a => a ^^^ 0x80000000) ∧
  Word2 .fcpsgn (fun a b => (a &&& 0x7FFFFFFF) ||| (b &&& 0x80000000)) ∧
  Word1 .ffloor (fpIntegral .rd) ∧ Word1 .fceil (fpIntegral .ru) ∧ Word1 .ftrunc (fpIntegral .rz) ∧ Word1 .frint (fpIntegral .rne) ∧
  Word1 .ffrac fpFrac ∧ Word2 .fscale fpScale

/-- A result that is NaN is the canonical NaN (R91, R106), whichever operand was NaN; a code is NaN where its exponent is all ones and its
mantissa is not zero (R88). FMIN, FMAX, FMINN and FMAXN (R108): the NaN rules, −0 below +0, and the bits of the operand that is chosen. -/
def Obligations.NanAndMinMaxResults : Prop :=
  (∀ x : Word, (v32 x).isNan = (x.extractLsb' 23 8 == 255 && x.extractLsb' 0 23 != 0)) ∧
  (∀ (s : State) (c : Ctx) (h : Bool) (d a b : BitVec 7) (dst : Dst) (x y : Word),
    Executes s c → Writes c 1 d dst [a, b] false → Reads c a x → Reads c b y → (v32 x).isNan = true ∨ (v32 y).isNan = true →
    ∀ i ∈ ([.fadd h d a b, .fsub h d a b, .fmul h d a b, .fmin h d a b, .fmax h d a b] : List Instr),
      exec i s = .next (retired s (c.write dst [0x7FC00000]) h)) ∧
  (∀ (s : State) (c : Ctx) (h : Bool) (d a b : BitVec 7) (dst : Dst) (x y z : Word),
    Executes s c → Writes c 1 d dst [d, a, b] false → Reads c a x → Reads c b y → Reads c d z →
    (v32 x).isNan = true ∨ (v32 y).isNan = true ∨ (v32 z).isNan = true →
    ∀ i ∈ ([.ffma h d a b, .ffms h d a b, .fnfma h d a b, .fnfms h d a b] : List Instr),
      exec i s = .next (retired s (c.write dst [0x7FC00000]) h)) ∧
  Word2Rel .fmin (fun a b v => ((v32 a).isNan = true ∨ (v32 b).isNan = true → v = 0x7FC00000) ∧
    ((v32 a).isNan = false → (v32 b).isNan = false → (v = a ∨ v = b) ∧ rel32 v a ≠ some .gt ∧ rel32 v b ≠ some .gt ∧
      (a = 0x80000000 ∨ b = 0x80000000 → v ≠ 0))) ∧
  Word2Rel .fmax (fun a b v => ((v32 a).isNan = true ∨ (v32 b).isNan = true → v = 0x7FC00000) ∧
    ((v32 a).isNan = false → (v32 b).isNan = false → (v = a ∨ v = b) ∧ rel32 v a ≠ some .lt ∧ rel32 v b ≠ some .lt ∧
      (a = 0 ∨ b = 0 → v ≠ 0x80000000))) ∧
  Word2Rel .fminn (fun a b v => ((v32 a).isNan = true → (v32 b).isNan = true → v = 0x7FC00000) ∧
    ((v32 a).isNan = true → (v32 b).isNan = false → v = b) ∧ ((v32 a).isNan = false → (v32 b).isNan = true → v = a) ∧
    ((v32 a).isNan = false → (v32 b).isNan = false → v = fpMin a b)) ∧
  Word2Rel .fmaxn (fun a b v => ((v32 a).isNan = true → (v32 b).isNan = true → v = 0x7FC00000) ∧
    ((v32 a).isNan = true → (v32 b).isNan = false → v = b) ∧ ((v32 a).isNan = false → (v32 b).isNan = true → v = a) ∧
    ((v32 a).isNan = false → (v32 b).isNan = false → v = fpMax a b))

/-- HOP (R110, R111): the two elements are computed apart, each rounded once to its format. -/
def Obligations.PackedHalvesComputeApart : Prop :=
  let halves := fun (g : Nat → Nat → Nat) (a b : Word) =>
    BitVec.ofNat 32 (g (a.toNat % 2 ^ 16) (b.toNat % 2 ^ 16) + 2 ^ 16 * g (a.toNat / 2 ^ 16) (b.toNat / 2 ^ 16))
  let fit := fun (f : Flt) (v : Val) => fitF f .rne false v
  Word2 .hadd2 (halves (fun a b => fit fp16 (addV (decodeF fp16 a) (decodeF fp16 b)))) ∧
  Word2 .hsub2 (halves (fun a b => fit fp16 (addV (decodeF fp16 a) (decodeF fp16 b).neg))) ∧
  Word2 .hmul2 (halves (fun a b => fit fp16 (mulV (decodeF fp16 a) (decodeF fp16 b)))) ∧
  Word2 .hmin2 (halves (minMaxF fp16 false)) ∧ Word2 .hmax2 (halves (minMaxF fp16 true)) ∧
  Word2 .badd2 (halves (fun a b => fit bf16 (addV (decodeF bf16 a) (decodeF bf16 b)))) ∧
  Word2 .bsub2 (halves (fun a b => fit bf16 (addV (decodeF bf16 a) (decodeF bf16 b).neg))) ∧
  Word2 .bmul2 (halves (fun a b => fit bf16 (mulV (decodeF bf16 a) (decodeF bf16 b)))) ∧
  Word2 .bmin2 (halves (minMaxF bf16 false)) ∧ Word2 .bmax2 (halves (minMaxF bf16 true)) ∧
  Word3 .hfma2 (fun a b d => BitVec.ofNat 32 (hFma fp16 (lo16 a) (lo16 b) (lo16 d) + 2 ^ 16 * hFma fp16 (hi16 a) (hi16 b) (hi16 d))) ∧
  Word3 .bfma2 (fun a b d => BitVec.ofNat 32 (hFma bf16 (lo16 a) (lo16 b) (lo16 d) + 2 ^ 16 * hFma bf16 (hi16 a) (hi16 b) (hi16 d))) ∧
  Word3 .hdot2 (fun a b d => f32 (addV (mulV (decodeF fp16 (lo16 a)) (decodeF fp16 (lo16 b)))
    (addV (mulV (decodeF fp16 (hi16 a)) (decodeF fp16 (hi16 b))) (v32 d)))) ∧
  Word3 .bdot2 (fun a b d => f32 (addV (mulV (decodeF bf16 (lo16 a)) (decodeF bf16 (lo16 b)))
    (addV (mulV (decodeF bf16 (hi16 a)) (decodeF bf16 (hi16 b))) (v32 d))))

/-- FCMP (R112, R113): the ordered and the unordered conditions, and the class. -/
def Obligations.FcmpConditions : Prop :=
  Cond32 .fcmpOeq (fun a b => rel32 a b == some .eq) ∧ Cond32 .fcmpOne (fun a b => rel32 a b == some .lt || rel32 a b == some .gt) ∧
  Cond32 .fcmpOlt (fun a b => rel32 a b == some .lt) ∧ Cond32 .fcmpOle (fun a b => rel32 a b == some .lt || rel32 a b == some .eq) ∧
  Cond32 .fcmpOgt (fun a b => rel32 a b == some .gt) ∧ Cond32 .fcmpOge (fun a b => rel32 a b == some .gt || rel32 a b == some .eq) ∧
  Cond32 .fcmpUno (fun a b => rel32 a b == none) ∧ Cond32 .fcmpOrd (fun a b => rel32 a b != none) ∧
  Cond32 .fcmpUeq (fun a b => rel32 a b == none || rel32 a b == some .eq) ∧ Cond32 .fcmpUne (fun a b => rel32 a b != some .eq) ∧
  Cond32 .fcmpUlt (fun a b => rel32 a b == none || rel32 a b == some .lt) ∧ Cond32 .fcmpUle (fun a b => rel32 a b != some .gt) ∧
  Cond32 .fcmpUgt (fun a b => rel32 a b == none || rel32 a b == some .gt) ∧ Cond32 .fcmpUge (fun a b => rel32 a b != some .lt) ∧
  Cond32 .fcmpClass (fun a b =>
    let ex := a.toNat / 2 ^ 23 % 2 ^ 8
    let m := a.toNat % 2 ^ 23
    b.getLsbD (if ex = 255 then (if m ≠ 0 then 8 else if a.msb then 0 else 7)
      else if ex = 0 then (if m = 0 then (if a.msb then 3 else 4) else if a.msb then 2 else 5)
      else if a.msb then 1 else 6))

/-- CVT (R116–R119): the single-value minors, PACKN and UNPKN, and the seed after them (R105). -/
def Obligations.ConversionsFit : Prop :=
  Cvt32 .f2i (fun _ _ _ m x => BitVec.ofNat 32 (fitI true 32 0 m (v32 x))) ∧
  Cvt32 .f2u (fun _ _ _ m x => BitVec.ofNat 32 (fitI false 32 0 m (v32 x))) ∧
  Cvt32 .i2f (fun _ _ _ m x => BitVec.ofNat 32 (fitF fp32 m false (.fin (x.toInt < 0) x.toInt.natAbs 0 false))) ∧
  Cvt32 .u2f (fun _ _ _ m x => BitVec.ofNat 32 (fitF fp32 m false (.fin false x.toNat 0 false))) ∧
  Cvt32 .f2h (fun _ _ sat m x => BitVec.ofNat 32 (fitF fp16 m sat (v32 x))) ∧
  Cvt32 .h2f (fun _ _ _ _ x => f32 (decodeF fp16 (x.toNat % 2 ^ 16))) ∧
  Cvt32 .f2b (fun _ _ sat m x => BitVec.ofNat 32 (fitF bf16 m sat (v32 x))) ∧
  Cvt32 .b2f (fun _ _ _ _ x => f32 (decodeF bf16 (x.toNat % 2 ^ 16))) ∧
  Cvt32 .f2n (fun nf k sat m x => BitVec.ofNat 32 (fitNf (nf k) m sat (v32 x))) ∧
  Cvt32 .n2f (fun nf k _ _ x => f32 (decodeNf (nf k) (nfElem (nf k) x.toNat 0))) ∧
  CvtTo64 .f2d (fun x => f64 (v32 x)) ∧ CvtTo64 .i2d (fun x => f64 (.fin (x.toInt < 0) x.toInt.natAbs 0 false)) ∧
  CvtFrom64 .d2f (fun sat m x => BitVec.ofNat 32 (fitF fp32 m sat (v64 x))) ∧
  CvtFrom64 .d2i (fun _ m x => BitVec.ofNat 32 (fitI true 32 0 m (v64 x))) ∧
  (∀ (s : State) (c : Ctx) (h : Bool) (d a : BitVec 7) (k : BitVec 3) (sat : Bool) (r : BitVec 3) (dst : Dst) (z : Word) (xs : List Word),
    Executes s c → Writes c 1 d dst [d, a] false → Reads c d z → src c 4 a = .ok xs → (r = 5 → c.l.has 13 = true) →
    exec (.packn h d a k sat r) s = .next (retired s (seeded (c.write dst [
      let codes := packCodes (c.nf k) (fun j => rndOf r.toNat c.th.srseed c.t.lane j) sat xs
      BitVec.ofNat 32 (if (c.nf k).container = 8 then codes else z.toNat / 2 ^ 16 + codes * 2 ^ 16)]) r) h)) ∧
  (∀ (s : State) (c : Ctx) (h : Bool) (d a : BitVec 7) (k : BitVec 3) (sat : Bool) (r : BitVec 3) (dst : Dst) (x : Word),
    Executes s c → Writes c 4 d dst [a] false → Reads c a x → (c.nf k).container = 8 ∨ r.toNat ≤ 1 →
    exec (.unpkn h d a k sat r) s = .next (retired s (c.write dst ((List.range 4).map (fun j =>
      f32 (decodeNf (c.nf k) (nfElem (c.nf k) x.toNat ((if (c.nf k).container = 8 then 0 else 4 * r.toNat) + j)))))) h)) ∧
  (∀ (s : State) (c : Ctx) (h : Bool) (d a : BitVec 7) (k : BitVec 3) (sat : Bool) (r : BitVec 3) (dst : Dst) (x : Word),
    Executes s c → Writes c 4 d dst [a] false → Reads c a x → ¬ ((c.nf k).container = 8 ∨ r.toNat ≤ 1) →
    exec (.unpkn h d a k sat r) s = .next (trapNow s c.t c.illegal c.th.blk))

/-- DOP (R120, R121): FP64 with capability bit 1; without it every minor raises ILLEGAL_OPERAND (R132). -/
def Obligations.Fp64Arithmetic : Prop :=
  Dbl2 .dadd (fun a b => f64 (addV (v64 a) (v64 b))) ∧ Dbl2 .dsub (fun a b => f64 (addV (v64 a) (v64 b).neg)) ∧
  Dbl2 .dmul (fun a b => f64 (mulV (v64 a) (v64 b))) ∧
  Dbl2 .dmin (fun a b => BitVec.ofNat 64 (minMaxF fp64 false a.toNat b.toNat)) ∧ Dbl2 .dmax (fun a b => BitVec.ofNat 64 (minMaxF fp64 true a.toNat b.toNat)) ∧
  (∀ (s : State) (c : Ctx) (h : Bool) (d a b : BitVec 7) (dst : Dst) (x y z : DWord),
    Executes s c → Writes c 2 d dst [d, a, b] false → Reads64 c a x → Reads64 c b y → Reads64 c d z → c.l.has 1 = true →
    exec (.dfma h d a b) s = .next (retired s (c.write64 dst (f64 (addV (mulV (v64 x) (v64 y)) (v64 z)))) h)) ∧
  (∀ (s : State) (c : Ctx) (h : Bool) (d a b : BitVec 7) (dst : Dst) (x y : DWord),
    Executes s c → Writes c 2 d dst [a, b] false → Reads64 c a x → Reads64 c b y → c.l.has 1 = true →
    exec (.ddiv h d a b) s = .next (retiredVar s c h dst [loWord (f64 (divV (v64 x) (v64 y))), hiWord (f64 (divV (v64 x) (v64 y)))])) ∧
  (∀ (s : State) (c : Ctx) (h : Bool) (d a : BitVec 7) (dst : Dst) (x : DWord),
    Executes s c → Writes c 2 d dst [a] false → Reads64 c a x → c.l.has 1 = true →
    exec (.dsqrt h d a) s = .next (retiredVar s c h dst [loWord (f64 (sqrtV (v64 x))), hiWord (f64 (sqrtV (v64 x)))])) ∧
  DblCond .deq (fun a b => rel64 a b == some .eq) ∧ DblCond .dlt (fun a b => rel64 a b == some .lt) ∧
  DblCond .dle (fun a b => rel64 a b == some .lt || rel64 a b == some .eq) ∧ DblCond .duno (fun a b => rel64 a b == none) ∧
  (∀ (s : State) (c : Ctx) (h : Bool) (d a b : BitVec 7) (dst : Dst) (x y : DWord),
    Executes s c → Writes c 2 d dst [a, b] false → Reads64 c a x → Reads64 c b y → c.l.has 1 = false →
    ∀ i ∈ ([.dadd h d a b, .dsub h d a b, .dmul h d a b, .dmin h d a b, .dmax h d a b, .ddiv h d a b, .dsqrt h d a] : List Instr),
      exec i s = .next (trapNow s c.t c.illegal c.th.blk)) ∧
  (∀ (s : State) (c : Ctx) (h : Bool) (d a b : BitVec 7) (dst : Dst) (x y z : DWord),
    Executes s c → Writes c 2 d dst [d, a, b] false → Reads64 c a x → Reads64 c b y → Reads64 c d z → c.l.has 1 = false →
    exec (.dfma h d a b) s = .next (trapNow s c.t c.illegal c.th.blk)) ∧
  (∀ (s : State) (c : Ctx) (h : Bool) (k : BitVec 2) (p : BitVec 3) (a b : BitVec 7) (x y : DWord),
    Executes s c → Reads64 c a x → Reads64 c b y → c.l.has 1 = false →
    ∀ i ∈ ([.deq h k p a b, .dlt h k p a b, .dle h k p a b, .duno h k p a b] : List Instr), exec i s = .next (trapNow s c.t c.illegal c.th.blk))

/-- XFN (R114, R115): each minor gives its function's value as a result of variable latency; the special inputs of the table. -/
def Obligations.XfnResults : Prop :=
  let code := fun (f : Nat → Nat) (x : Word) => BitVec.ofNat 32 (f x.toNat)
  Var1 .xfnRcp (fun x => f32 (divV (.fin false 1 0 false) (v32 x))) ∧ Var1 .xfnSqrt (fun x => f32 (sqrtV (v32 x))) ∧ Var1 .xfnRsq (code xRsq) ∧
  Var1 .xfnExp2 (code xExp2) ∧ Var1 .xfnLog2 (code xLog2) ∧ Var1 .xfnSinpi (code xSinpi) ∧ Var1 .xfnCospi (code xCospi) ∧
  Var1 .xfnTanh (code xTanh) ∧ Var1 .xfnSigm (code xSigm) ∧ Var1 .xfnExp (code xExp) ∧ Var1 .xfnLog (code xLog) ∧
  Var2 .xfnDiv (fun x y => f32 (divV (v32 x) (v32 y))) ∧
  (∀ r ∈ ([(0xFF800000, 0x80000000), (0x80000000, 0xFF800000), (0, 0x7F800000), (0x3F800000, 0x3F800000), (0x7F800000, 0)] : List (Word × Word)), Gives .xfnRcp r.1 r.2) ∧
  (∀ r ∈ ([(0xFF800000, 0x7FC00000), (0xBF800000, 0x7FC00000), (0x80000000, 0xFF800000), (0, 0x7F800000), (0x3F800000, 0x3F800000), (0x7F800000, 0)] : List (Word × Word)), Gives .xfnRsq r.1 r.2) ∧
  (∀ r ∈ ([(0xFF800000, 0x7FC00000), (0xBF800000, 0x7FC00000), (0x80000000, 0x80000000), (0, 0), (0x3F800000, 0x3F800000), (0x7F800000, 0x7F800000)] : List (Word × Word)), Gives .xfnSqrt r.1 r.2) ∧
  (∀ r ∈ ([(0xFF800000, 0), (0x80000000, 0x3F800000), (0, 0x3F800000), (0x3F800000, 0x40000000), (0x7F800000, 0x7F800000)] : List (Word × Word)), Gives .xfnExp2 r.1 r.2) ∧
  (∀ r ∈ ([(0xFF800000, 0), (0x80000000, 0x3F800000), (0, 0x3F800000), (0x7F800000, 0x7F800000)] : List (Word × Word)), Gives .xfnExp r.1 r.2) ∧
  (∀ r ∈ ([(0xFF800000, 0x7FC00000), (0xBF800000, 0x7FC00000), (0x80000000, 0xFF800000), (0, 0xFF800000), (0x3F800000, 0), (0x7F800000, 0x7F800000)] : List (Word × Word)), Gives .xfnLog2 r.1 r.2) ∧
  (∀ r ∈ ([(0xFF800000, 0x7FC00000), (0xBF800000, 0x7FC00000), (0x80000000, 0xFF800000), (0, 0xFF800000), (0x3F800000, 0), (0x7F800000, 0x7F800000)] : List (Word × Word)), Gives .xfnLog r.1 r.2) ∧
  (∀ r ∈ ([(0xFF800000, 0x7FC00000), (0x80000000, 0x80000000), (0, 0), (0x3F800000, 0), (0xBF800000, 0x80000000), (0x7F800000, 0x7FC00000)] : List (Word × Word)), Gives .xfnSinpi r.1 r.2) ∧
  (∀ r ∈ ([(0xFF800000, 0x7FC00000), (0x80000000, 0x3F800000), (0, 0x3F800000), (0x3F000000, 0), (0x3F800000, 0xBF800000), (0x7F800000, 0x7FC00000)] : List (Word × Word)), Gives .xfnCospi r.1 r.2) ∧
  (∀ r ∈ ([(0xFF800000, 0xBF800000), (0x80000000, 0x80000000), (0, 0), (0x7F800000, 0x3F800000)] : List (Word × Word)), Gives .xfnTanh r.1 r.2) ∧
  (∀ r ∈ ([(0xFF800000, 0), (0x80000000, 0x3F000000), (0, 0x3F000000), (0x7F800000, 0x3F800000)] : List (Word × Word)), Gives .xfnSigm r.1 r.2) ∧
  (∀ x : Word, (v32 x).isNan = true → Gives .xfnRcp x 0x7FC00000 ∧ Gives .xfnRsq x 0x7FC00000 ∧ Gives .xfnSqrt x 0x7FC00000 ∧ Gives .xfnExp2 x 0x7FC00000 ∧
    Gives .xfnLog2 x 0x7FC00000 ∧ Gives .xfnSinpi x 0x7FC00000 ∧ Gives .xfnCospi x 0x7FC00000 ∧ Gives .xfnTanh x 0x7FC00000 ∧
    Gives .xfnSigm x 0x7FC00000 ∧ Gives .xfnExp x 0x7FC00000 ∧ Gives .xfnLog x 0x7FC00000)

/-- SMX (R122–R124): EXPSUB is FSUB followed by EXP2; MLMRG and RESCALE. That the greater maximum of two zeros of opposite sign is +0, as `fpMax`
has it, is the model's choice (assumption log 34). -/
def Obligations.SoftmaxPieces : Prop :=
  Word2 .expsub (fun a b => BitVec.ofNat 32 (xExp2 (f32 (addV (v32 a) (v32 b).neg)).toNat)) ∧
  (∀ (s : State) (c : Ctx) (h : Bool) (d a : BitVec 7) (dst : Dst) (m0 l0 z2 z3 m1 l1 : Word),
    Executes s c → Writes c 4 d dst [d, a] false → src c 4 d = .ok [m0, l0, z2, z3] → src c 2 a = .ok [m1, l1] →
    let bad := [m0, l0, m1, l1].any (fun x => (v32 x).isNan) = true ∨ m0 = 0x7F800000 ∨ m1 = 0x7F800000
    let mn := fpMax m0 m1
    let factor := fun (m : Word) => if m = 0xFF800000 then 0 else BitVec.ofNat 32 (xExp2 (fpSub m mn).toNat)
    let term := fun (l f : Word) => if f = 0 then Val.zero false else mulV (v32 l) (v32 f)
    (bad → exec (.mlmrg h d a) s = .next (retired s (c.write dst [0x7FC00000, 0x7FC00000, 0x7FC00000, 0x7FC00000]) h)) ∧
    (¬ bad → exec (.mlmrg h d a) s =
      .next (retired s (c.write dst [mn, f32 (addV (term l0 (factor m0)) (term l1 (factor m1))), factor m0, factor m1]) h))) ∧
  (∀ (s : State) (c : Ctx) (h : Bool) (d a b : BitVec 7) (dst : Dst) (z x f0 f1 : Word),
    Executes s c → Writes c 1 d dst [d, a, b] false → Reads c d z → Reads c a x → src c 2 b = .ok [f0, f1] →
    let term := fun (l f : Word) => if f = 0 then Val.zero false else mulV (v32 l) (v32 f)
    exec (.rescale h d a b) s = .next (retired s (c.write dst [f32 (addV (term z f0) (term x f1))]) h))

/-- NOP, YIELD, FMTLD (R65, R73), WBASE and UBASE (R72). -/
def Obligations.WindowsAndFormats : Prop :=
  ∀ (s : State) (c : Ctx) (h : Bool), Executes s c →
    exec (.nop h) s = .next (retired s c h) ∧
    exec (.yield h) s = .next (retired s { c with th := { c.th with yielded := true } } h) ∧
    (∀ b : BitVec 7,
      let nv : Int := c.th.vwb.toNat + 16 * b.toInt
      let nu : Int := c.th.uwb.toNat + 8 * b.toInt
      (0 ≤ nv ∧ nv < c.th.regs.length → exec (.wbase h b) s = .next (retired s { c with th := { c.th with vwb := BitVec.ofInt 8 nv } } h)) ∧
      (¬ (0 ≤ nv ∧ nv < c.th.regs.length) → exec (.wbase h b) s = .next (trapNow s c.t c.illegal c.th.blk)) ∧
      (0 ≤ nu ∧ nu ≤ 56 → exec (.ubase h b) s = .next (retired s { c with th := { c.th with uwb := BitVec.ofInt 6 nu } } h)) ∧
      (¬ (0 ≤ nu ∧ nu ≤ 56) → exec (.ubase h b) s = .next (trapNow s c.t c.illegal c.th.blk))) ∧
    (∀ (k a : BitVec 7) (y : Word), Reads c a y →
      let x : BitVec 16 := y.truncate 16
      let sg := (x.extractLsb' 15 1).toNat
      let e := (x.extractLsb' 12 3).toNat
      let m := (x.extractLsb' 9 3).toNat
      let pol := (x.extractLsb' 0 2).toNat
      let bad := sg + e + m = 0 ∨ sg + e + m > 8 ∨ e = 7 ∨ pol = 3 ∨ (e = 0 ∧ pol ≠ 0) ∨ (pol = 2 ∧ e < 2) ∨ (pol = 1 ∧ sg + e + m < 2)
      let legal := uniSource a = true ∧ k ≤ 7 ∧ ¬ bad
      (legal → exec (.fmtld h k a) s = .next (retired s { c with g := { c.g with nf := c.g.nf.set k.toNat x } } h)) ∧
      (¬ legal → exec (.fmtld h k a) s = .next (trapNow s c.t c.illegal c.th.blk)))

/-- SRD (R26, R68–R70): the registers that read at once; CLOCK, CAL_CYCLE and the calendar's registers, which deliver later; the captures of
the two counters; a number outside the map, or a register that is not the group's into a uniform register. That a register that delivers later
gives the value it has at the issue is the model's choice (assumption log 33). -/
def Obligations.SrdReadsTheMap : Prop :=
  ∀ (s : State) (c : Ctx) (h : Bool) (d a b : BitVec 7) (dst : Dst), Executes s c → dest c 1 d = .ok dst →
    let n := a.toNat * 128 + b.toNat
    (∀ v : Word, (n, v) ∈ ([(0x010, BitVec.ofNat 32 s.pkgId.toNat), (0x011, BitVec.ofNat 32 c.g.die), (0x012, BitVec.ofNat 32 (c.g.core % 48)),
        (0x013, BitVec.ofNat 32 c.g.quad), (0x014, BitVec.ofNat 32 (c.g.core % 48 / 8)), (0x018, BitVec.ofNat 32 c.l.ref.id),
        (0x020, 0x3FFF), (0x021, 0), (0x022, 0), (0x023, 0), (0x110, s.netWeights)] : List (Nat × Word)) →
      exec (.srd h d a b) s = .next (retired s (c.write dst [v]) h)) ∧
    (∀ v : Word, (n, v) ∈ ([(0x040, c.th.vwb.zeroExtend 32), (0x041, c.th.uwb.zeroExtend 32), (0x042, BitVec.ofNat 32 c.th.regs.length),
        (0x044, BitVec.ofNat 32 (min 8 c.th.stack.length * 2 ^ 24 + c.th.stack.length)), (0x048, c.th.trapCause.zeroExtend 32),
        (0x049, c.th.trapPc.extractLsb' 0 32), (0x04A, c.th.trapPc.extractLsb' 32 32), (0x04B, c.th.trapAddr.extractLsb' 0 32),
        (0x04C, c.th.trapAddr.extractLsb' 32 32), (0x04D, c.th.trapInfo), (0x050, ((c.l.team? c.g.team).map (fun t => t.progress)).getD 0),
        (0x060, c.th.srseed)] : List (Nat × Word)) →
      (dst.isUni = false → exec (.srd h d a b) s = .next (retired s (c.write dst [v]) h)) ∧
      (dst.isUni = true → exec (.srd h d a b) s = .next (trapNow s c.t c.illegal c.th.blk))) ∧
    (n = 0x000 → dst.isUni = false → exec (.srd h d a b) s =
      .next (past (addResult (s.modThread c.t (fun th => { th with clockCap := some (BitVec.ofNat 32 (s.ns / 2 ^ 32)) })) c.t c.th.pc dst [BitVec.ofNat 32 s.ns]) c.t h)) ∧
    (n = 0x001 → dst.isUni = false → exec (.srd h d a b) s =
      .next (past (addResult (s.modThread c.t (fun th => { th with clockCap := none })) c.t c.th.pc dst [c.th.clockCap.getD (BitVec.ofNat 32 (s.ns / 2 ^ 32))]) c.t h)) ∧
    (n = 0x101 → exec (.srd h d a b) s =
      .next (past (addResult (s.modThread c.t (fun th => { th with calCap := some (s.calCycle.extractLsb' 32 32) })) c.t c.th.pc dst [s.calCycle.extractLsb' 0 32]) c.t h)) ∧
    (n = 0x102 → exec (.srd h d a b) s =
      .next (past (addResult (s.modThread c.t (fun th => { th with calCap := none })) c.t c.th.pc dst [c.th.calCap.getD (s.calCycle.extractLsb' 32 32)]) c.t h)) ∧
    (∀ v : Word, (n, v) ∈ ([(0x100, BitVec.ofNat 32 s.calSlot.toNat), (0x103, (s.net.cal.map (fun x => x.gen)).getD 0),
        (0x104, BitVec.ofNat 32 ((s.net.cal.map (fun x => x.s)).getD 1)), (0x105, BitVec.ofNat 32 ((s.net.cal.map (fun x => x.slotLen)).getD 4000)),
        (0x106, BitVec.ofNat 32 ((s.net.cal.map (fun x => x.guard)).getD 96)),
        (0x107, (s.net.offset.map (BitVec.ofInt 32)).getD 0x80000000)] : List (Nat × Word)) →
      exec (.srd h d a b) s = .next (later s c h dst [v])) ∧
    (n = 0x108 → ∃ v : Word, exec (.srd h d a b) s = .next (later s c h dst [v]) ∧ ∀ k, k < 16 → v.toNat / 4 ^ k % 4 =
      let banks := fun (st : BankSt) => (List.range 4).any (fun j => (s.net.ports[4 * k + j]?).any (fun p => p.cur.st == st || p.spare.st == st))
      if banks .fault = true then 3 else if banks .tuning = true then 1 else if banks .locked = true then 2 else 0) ∧
    (n ∉ sysMap → exec (.srd h d a b) s = .next (trapNow s c.t c.illegal c.th.blk))

/-- SWR (R26, R68): the four registers that a thread may write, PRIVILEGE for NET_WEIGHTS, ILLEGAL_OPERAND for every other number. -/
def Obligations.SwrWritesOrTraps : Prop :=
  ∀ (s : State) (c : Ctx) (h : Bool) (d a b : BitVec 7) (x : Word), Executes s c → Reads c d x →
    let n := a.toNat * 128 + b.toNat
    let wrote := fun (f : Thread → Thread) => past (s.modThread c.t f) c.t h
    let illegal : State := trapNow s c.t c.illegal c.th.blk
    let v := x.toNat % 256
    let u := x.toNat % 64
    (n = 0x040 → v % 16 = 0 ∧ v < c.th.regs.length → exec (.swr h d a b) s = .next (wrote (fun th => { th with vwb := BitVec.ofNat 8 v }))) ∧
    (n = 0x040 → ¬ (v % 16 = 0 ∧ v < c.th.regs.length) → exec (.swr h d a b) s = .next illegal) ∧
    (n = 0x041 → u % 8 = 0 ∧ u ≤ 56 → exec (.swr h d a b) s = .next (wrote (fun th => { th with uwb := BitVec.ofNat 6 u }))) ∧
    (n = 0x041 → ¬ (u % 8 = 0 ∧ u ≤ 56) → exec (.swr h d a b) s = .next illegal) ∧
    (n = 0x050 → exec (.swr h d a b) s = .next (past (s.modTeam c.l.ref c.g.team (fun t => { t with progress := x })) c.t h)) ∧
    (n = 0x060 → exec (.swr h d a b) s = .next (wrote (fun th => { th with srseed := x }))) ∧
    (n = 0x110 → exec (.swr h d a b) s = .next (trapNow s c.t
      { cause := 0x09, pc := c.th.pc, addr := 0x110, detail := 0, kind := 0, at_ := 0, further := 0 } c.th.blk)) ∧
    (n ≠ 0x040 → n ≠ 0x041 → n ≠ 0x050 → n ≠ 0x060 → n ≠ 0x110 → exec (.swr h d a b) s = .next illegal)

/-- TRAP, BRK, EXIT and TRET (R38, R66, R67): TRAP raises USER_TRAP at once; BRK raises BREAK, or halts the thread where the die's debugger
has armed breakpoints for its launch; EXIT and TRET wait as a horizon does. -/
def Obligations.TrapBrkExitTret : Prop :=
  ∀ (s : State) (c : Ctx) (h : Bool) (b : BitVec 7), Executes s c →
    let after := fun (d : Drain) => s.modThread c.t (fun th => { th with drain := some d, fetched := none, fetchFrom := none })
    exec (.trap h b) s = .next (trapNow s c.t { cause := 0x30, pc := c.th.pc, addr := 0, detail := b.toNat, kind := 0, at_ := 0, further := 0 } c.th.blk) ∧
    (brkArmed s c.l = false →
      exec (.brk h b) s = .next (trapNow s c.t { cause := 0x31, pc := c.th.pc, addr := 0, detail := b.toNat, kind := 0, at_ := 0, further := 0 } c.th.blk)) ∧
    (brkArmed s c.l = true → ∃ t th, exec (.brk h b) s = .next t ∧ t.thread? c.t = some th ∧ th.halted = true ∧ th.why = 2 ∧ th.trapCause = 0x31 ∧
      th.trapPc = c.th.pc ∧ th.pc = c.th.pc + 4 ∧ th.regs = c.th.regs ∧ t.mem = s.mem) ∧
    exec (.exit h) s = .next (after .exit) ∧
    (b ≤ 1 → c.th.inHandler = true → exec (.tret h b) s = .next (after (.tret b.toNat))) ∧
    (1 < b ∨ c.th.inHandler = false → exec (.tret h b) s = .next (trapNow s c.t c.illegal c.th.blk))

/-- JOIN, NAP, BAR, ARRIVE and BWAIT (R154–R157): the thread blocks for what the word names; what raises ILLEGAL_OPERAND. That the latest arrival of
a thread that has not arrived at a level counts as -1 is the model's choice (assumption log 36). -/
def Obligations.BarrierWordsWait : Prop :=
  ∀ (s : State) (c : Ctx) (h : Bool) (d a b : BitVec 7) (x : Word) (dst : Dst), Executes s c → Reads c a x → dest c 1 d = .ok dst →
    let illegal : State := trapNow s c.t c.illegal c.th.blk
    let marked := s.modThread c.t (barMark c b.toNat)
    let latest : Int := (c.th.arrivals.getD b.toNat 0 : Int) - 1
    let ahead := ((x.toNat : Int) - latest) % 2 ^ 32
    exec (.join h a) s = .next (waiting s.nextId s c h (.join x)) ∧
    (x.toNat % 2 ^ 16 = 0 → exec (.nap h a) s = .next (past s c.t h)) ∧
    (x.toNat % 2 ^ 16 ≠ 0 → exec (.nap h a) s = .next (waiting s.nextId s c h .nap)) ∧
    (b < 6 → exec (.bar h b) s = .next (waiting s.nextId marked c h (.arrive b.toNat true .none))) ∧
    (b < 6 → dst.isUni = false → exec (.arrive h d b) s = .next (waiting s.nextId marked c h (.arrive b.toNat false dst))) ∧
    (b < 6 → ahead = 0 ∨ 2 ^ 31 ≤ ahead → exec (.bwait h a b) s = .next (waiting s.nextId s c h (.phase b.toNat x.toNat))) ∧
    (b < 6 → 1 ≤ ahead → ahead < 2 ^ 31 → exec (.bwait h a b) s = .next illegal) ∧
    (dst.isUni = true → exec (.arrive h d b) s = .next illegal) ∧
    (6 ≤ b → exec (.bar h b) s = .next illegal ∧ exec (.arrive h d b) s = .next illegal ∧ exec (.bwait h a b) s = .next illegal)

/-- BR, CALL, BRP (R84), JR, CALLR, RET, BRX (R85) and the return stack (R30): the thread goes on at the target with its return stack as the
word leaves it; STACK_OVER has no other effect. -/
def Obligations.TransfersJump : Prop :=
  ∀ (s : State) (c : Ctx) (h : Bool), Executes s c → c.th.blk = [] →
    let goes := fun (stack : List DWord) (target : DWord) => jumped (s.modThread c.t (fun _ => { c.th with stack := stack })) c h target
    let called := goes ((c.th.pc + 4) :: c.th.stack)
    let full := c.th.stack.length = 8 + c.l.hdr.stackBytes / 8
    let overflow : State := trapNow s c.t { cause := 0x0A, pc := c.th.pc, addr := 0, detail := 0, kind := 0, at_ := 0, further := 0 } []
    (∀ o : BitVec 25,
      let target := c.th.pc + 4 * o.signExtend 64
      exec (.br h o) s = .next (goes c.th.stack target) ∧ (¬ full → exec (.call h o) s = .next (called target)) ∧
      (full → exec (.call h o) s = .next overflow)) ∧
    (∀ (p : BitVec 3) (n : Bool) (o : BitVec 21),
      ((c.pred p ^^ n) = true → exec (.brp h p n o) s = .next (jumped s c h (c.th.pc + 4 * o.signExtend 64))) ∧
      ((c.pred p ^^ n) = false → exec (.brp h p n o) s = .next (past s c.t h))) ∧
    (∀ (a b : BitVec 7) (x : DWord) (y : Word), Reads64 c a x →
      exec (.jr h a) s = .next (goes c.th.stack x) ∧ (¬ full → exec (.callr h a) s = .next (called x)) ∧ (full → exec (.callr h a) s = .next overflow) ∧
      (Reads c b y → exec (.brx h a b) s = .next (goes c.th.stack (x + 4 * y.zeroExtend 64)))) ∧
    (∀ x rest, c.th.stack = x :: rest → exec (.ret h) s = .next (goes rest x)) ∧ (c.th.stack = [] → exec (.ret h) s = .next overflow)

/-- PBLK (R36, R87): word i of the block executes where its pattern bit equals the predicate at the issue of the PBLK; no PBLK and no transfer
may stand in an open block (R37). -/
def Obligations.PredicateBlocks : Prop :=
  (∀ (s : State) (c : Ctx) (p n : BitVec 3) (t : BitVec 8), Executes s c → c.th.blk = [] →
    ∃ s' th, exec (.pblk p n t) s = .next s' ∧ s'.thread? c.t = some th ∧ th.pc = c.th.pc + 4 ∧ th.hz = false ∧ th.preds = c.th.preds ∧
      th.regs = c.th.regs ∧ th.blk.length = n.toNat + 1 ∧ ∀ i, i ≤ n.toNat → th.blk[i]? = some (t.getLsbD i == c.pred p)) ∧
  (∀ (s : State) (c : Ctx), s.cur = some c.t → s.ofThread c.t = some (c.l, c.g) → s.thread? c.t = some c.th → c.th.blk ≠ [] →
    ∀ (h : Bool) (p n : BitVec 3) (t : BitVec 8) (o : BitVec 25) (q : Bool) (u : BitVec 21) (a b : BitVec 7),
    let illegal := fun (reason : Nat) => trapNow s c.t { cause := 0x01, pc := c.th.pc, addr := 0, detail := reason, kind := 0, at_ := 0, further := 0 } c.th.blk
    exec (.pblk p n t) s = .next (illegal 8) ∧
    ∀ i ∈ ([.br h o, .call h o, .brp h p q u, .jr h a, .callr h a, .ret h, .brx h a b] : List Instr), exec i s = .next (illegal 9))

/-- The gathered minors (R148, R150): VANY, VALL, BALLOT, MATCH and ACTIVE over the members of the constellation, of the issuer's group,
that execute the word. -/
def Obligations.GatheredMinorsVote : Prop :=
  ∀ (s : State) (c : Ctx) (h : Bool) (d a : BitVec 7) (dst : Dst) (x : Word), Executes s c → dest c 1 d = .ok dst → dst.isUni = false → Reads c a x →
    let others := (s.gather.filter (fun y => y.1.gid == c.t.gid && y.1.lane != c.t.lane)).map (fun y => (y.1.lane, y.2))
    let ps := (c.t.lane, x) :: others
    let gives := fun (i : Instr) (bit : Nat → Bool) => ∃ v : Word, (∀ q, q < 32 → v.getLsbD q = bit q) ∧ exec i s = .next (later s c h dst [v])
    exec (.vany h d a) s = .next (later s c h dst [if ps.any (fun y => y.2 != 0) then 1 else 0]) ∧
    exec (.vall h d a) s = .next (later s c h dst [if ps.all (fun y => y.2 != 0) then 1 else 0]) ∧
    gives (.ballot h d a) (fun q => ps.any (fun y => y.1 == q && y.2 != 0)) ∧
    gives (.gmatch h d a) (fun q => ps.any (fun y => y.1 == q && y.2 == x)) ∧
    gives (.active h d) (fun q => ((c.t.lane, 0) :: others).any (fun y => y.1 == q))

/-- The rendezvous minors (R149): the thread arrives at its next rendezvous; a uniform destination is illegal (R150). -/
def Obligations.RendezvousArrive : Prop :=
  ∀ (s : State) (c : Ctx) (h : Bool) (d a b : BitVec 7) (u : Bool) (dst : Dst) (x y : Word), Executes s c → dest c 1 d = .ok dst → Reads c a x → Reads c b y →
    (dst.isUni = false →
      exec (.shfidx h d a b) s = .next (arrived s c h 3 false dst x y) ∧ exec (.shfup h d a b) s = .next (arrived s c h 4 false dst x y) ∧
      exec (.shfdn h d a b) s = .next (arrived s c h 5 false dst x y) ∧ exec (.shfxor h d a b) s = .next (arrived s c h 6 false dst x y) ∧
      exec (.gradd h d a) s = .next (arrived s c h 7 false dst x 0) ∧ exec (.grfadd h d a) s = .next (arrived s c h 8 false dst x 0) ∧
      exec (.grmin h d a u) s = .next (arrived s c h 9 u dst x 0) ∧ exec (.grmax h d a u) s = .next (arrived s c h 10 u dst x 0) ∧
      exec (.elect h d) s = .next (arrived s c h 12 false dst 0 0)) ∧
    (dst.isUni = true → ∀ i ∈ ([.shfidx h d a b, .shfup h d a b, .shfdn h d a b, .shfxor h d a b, .gradd h d a, .grfadd h d a, .grmin h d a u, .grmax h d a u,
        .elect h d, .vany h d a, .vall h d a, .ballot h d a, .gmatch h d a, .active h d] : List Instr),
      exec i s = .next (trapNow s c.t c.illegal c.th.blk))

/-- What a participant of a rendezvous receives (R150–R152): a shuffle the value of the lane that its own b names, its own where that lane is
out of range or has exited; GRADD the sum; GRFADD the root of its tree of lane positions; GRMIN and GRMAX a participant's value with none beyond it; ELECT one for the first to arrive. -/
def Obligations.RendezvousResults : Prop :=
  ∀ (ps : List Part) (x : Part), x.lane < 32 → x ∈ ps →
    let k := x.b.toNat % 32
    let from_ := fun (q : Nat) => ((ps.find? (fun y => y.lane == q)).map (fun y => y.a)).getD x.a
    (x.minor = 3 → rendezResult ps x = from_ k) ∧
    (x.minor = 4 → rendezResult ps x = if x.lane < k then x.a else from_ (x.lane - k)) ∧
    (x.minor = 5 → rendezResult ps x = if 31 < x.lane + k then x.a else from_ (x.lane + k)) ∧
    (x.minor = 6 → rendezResult ps x = from_ (x.lane ^^^ k)) ∧
    (x.minor = 7 → rendezResult ps x = BitVec.ofNat 32 (ps.map (fun y => y.a.toNat)).sum) ∧
    (x.minor = 8 → treeNode ps 5 0 = some (rendezResult ps x)) ∧
    (x.minor = 9 → x.u = false → rendezResult ps x ∈ ps.map (fun y => y.a) ∧ ∀ y ∈ ps, (rendezResult ps x).sle y.a = true) ∧
    (x.minor = 9 → x.u = true → rendezResult ps x ∈ ps.map (fun y => y.a) ∧ ∀ y ∈ ps, rendezResult ps x ≤ y.a) ∧
    (x.minor = 10 → x.u = false → rendezResult ps x ∈ ps.map (fun y => y.a) ∧ ∀ y ∈ ps, y.a.sle (rendezResult ps x) = true) ∧
    (x.minor = 10 → x.u = true → rendezResult ps x ∈ ps.map (fun y => y.a) ∧ ∀ y ∈ ps, y.a ≤ rendezResult ps x) ∧
    (x.minor = 12 → rendezResult ps x = if ∀ y ∈ ps, x.p.id ≤ y.p.id then 1 else 0)

/-- LD, LD.ACQ, LDX, LDX.C, ST, ST.REL and STX (R204–R209): the address, the check at issue that fails first or the access that is sent; the
bytes that a store carries. That the ILLEGAL_OPERAND of an LDX.C outside tag 0x5 has KIND 1 is the model's choice (assumption log 74). -/
def Obligations.LoadsAndStoresIssue : Prop :=
  ∀ (s : State) (c : Ctx) (h : Bool) (d a b : BitVec 7) (z : BitVec 3) (o : BitVec 8) (p : DWord) (y : Word),
    Executes s c → Reads64 c a p → Reads c b y →
    let n := ([1, 1, 2, 2, 4, 8, 16, 16] : List Nat).getD z.toNat 16
    let regs := ([1, 1, 1, 1, 1, 2, 4, 1] : List Nat).getD z.toNat 1
    let im := p + BitVec.ofInt 64 (o.toInt * n)
    let ix := p + y.signExtend 64
    let trap := fun (r : TrapRec) => trapNow s c.t r c.th.blk
    (∀ dst : Dst, dest c regs d = .ok dst →
      (uniRule c dst [a] false = .ok () →
        (accessCheck s c im n 1 = none → exec (.ld h d a z o) s = .next (sent s c h im dst (.load z.toNat false false)) ∧
          exec (.ldAcq h d a z o) s = .next (sent s c h im dst (.load z.toNat true false))) ∧
        (∀ r, accessCheck s c im n 1 = some r → exec (.ld h d a z o) s = .next (trap r) ∧ exec (.ldAcq h d a z o) s = .next (trap r))) ∧
      (uniRule c dst [a, b] false = .ok () →
        (accessCheck s c ix n 1 = none → exec (.ldx h z d a b) s = .next (sent s c h ix dst (.load z.toNat false false)) ∧
          (addrTag ix = 5 → exec (.ldxC h z d a b) s = .next (sent s c h ix dst (.load z.toNat false true)))) ∧
        (∀ r, accessCheck s c ix n 1 = some r → exec (.ldx h z d a b) s = .next (trap r) ∧
          (addrTag ix = 5 → exec (.ldxC h z d a b) s = .next (trap r))) ∧
        (addrTag ix ≠ 5 → exec (.ldxC h z d a b) s = .next (trap (c.illegalK 1))))) ∧
    (∀ (vs : List Word) (bytes : List Byte), src c regs d = .ok vs → c.g.task = none → bytes.length = n →
      (∀ i, i < n → bytes[i]? = some ((vs.getD (i / 4) 0).extractLsb' (8 * (i % 4)) 8)) →
      (accessCheck s c im n 2 = none → exec (.st h d a z o) s = .next (sent s c h im .none (.store bytes false)) ∧
        exec (.stRel h d a z o) s = .next (sent (marked s c) c h im .none (.store bytes true))) ∧
      (∀ r, accessCheck s c im n 2 = some r → exec (.st h d a z o) s = .next (trap r) ∧ exec (.stRel h d a z o) s = .next (trap r)) ∧
      (accessCheck s c ix n 2 = none → exec (.stx h z d a b) s = .next (sent s c h ix .none (.store bytes false))) ∧
      (∀ r, accessCheck s c ix n 2 = some r → exec (.stx h z d a b) s = .next (trap r)))

/-- The checks at issue of an access (R161, R162, R205): a malformed address, MISALIGNED, the tag 0x4 capability, REMOTE_UNREACHABLE and PROTECTION
reason 5. That the ILLEGAL_OPERAND of the capability keeps the access's KIND is the model's choice (assumption log 74). -/
def Obligations.AccessChecksAtIssue : Prop :=
  ∀ (s : State) (c : Ctx) (a : DWord) (n kind : Nat), 0 < n →
    let trap := fun (cause detail : Nat) => some (trapAt c.th.pc cause a detail kind)
    (tagOk a = false → (addrTag a = 4 → c.l.has 9 = true) → accessCheck s c a n kind = trap 0x05 0) ∧
    (addrTag a = 4 → c.l.has 9 = false → accessCheck s c a n kind = some (trapAt c.th.pc 0x02 0 0 kind)) ∧
    (tagOk a = true → (addrTag a = 4 → c.l.has 9 = true) → a.toNat % n ≠ 0 → accessCheck s c a n kind = trap 0x04 0) ∧
    (tagOk a = true → addrTag a = 4 → c.l.has 9 = true → a.toNat % n = 0 → reachable s (addrPkg a) = false → accessCheck s c a n kind = trap 0x2A 0) ∧
    (tagOk a = true → addrTag a = 1 ∨ addrTag a = 5 → a.toNat % n = 0 → localLen c.l c.g a < localOff a + n → accessCheck s c a n kind = trap 0x08 0) ∧
    (tagOk a = true → addrTag a = 2 → a.toNat % n = 0 → hostGranted s c.l.asid (a.toNat % 2 ^ 48) n = false → accessCheck s c a n kind = trap 0x07 5) ∧
    (tagOk a = true → addrTag a = 0 → a.toNat % n = 0 → accessCheck s c a n kind = none)

/-- ATOM and ATOM.AR (R210–R212): the access that each minor sends, and the value that it writes at the point of coherence. -/
def Obligations.AtomicsSendAndCompute : Prop :=
  Atomic .aadd .aaddAr 0 (fun x b => x + b) ∧ Atomic .axch .axchAr 1 (fun _ b => b) ∧
  Atomic .amin .aminAr 3 (fun x b => if b.slt x then b else x) ∧ Atomic .amax .amaxAr 4 (fun x b => if x.slt b then b else x) ∧
  Atomic .aminu .aminuAr 5 (fun x b => if x ≤ b then x else b) ∧ Atomic .amaxu .amaxuAr 6 (fun x b => if x ≤ b then b else x) ∧
  Atomic .aand .aandAr 7 (fun x b => x &&& b) ∧ Atomic .aor .aorAr 8 (fun x b => x ||| b) ∧ Atomic .axor .axorAr 9 (fun x b => x ^^^ b) ∧
  Atomic .aincw .aincwAr 10 (fun x b => if b ≤ x then 0 else x + 1) ∧ Atomic .afadd .afaddAr 11 fpAdd ∧ Atomic .afmax .afmaxAr 15 fpMax ∧
  WideAtomic .acas .acasAr 2 1 2 (fun x ys => if BitVec.ofNat 32 x = ys.getD 0 0 then some (ys.getD 1 0).toNat else none) ∧
  WideAtomic .aadd64 .aadd64Ar 12 2 2 (fun x ys => some ((x + ofWords (ys.take 2)) % 2 ^ 64)) ∧
  WideAtomic .acas64 .acas64Ar 13 2 4 (fun x ys => if x = ofWords (ys.take 2) then some (ofWords (ys.drop 2)) else none) ∧
  WideAtomic .axch64 .axch64Ar 14 2 2 (fun _ ys => some (ofWords (ys.take 2)))

/-- TCSET, TCADD, TCREAD and TCWAIT (R245): what each sends to the counter, and what the thread waits for. That the ILLEGAL_OPERAND of a TCWAIT
outside tag 0x0 has KIND 3 is the model's choice (assumption log 74). -/
def Obligations.CounterWords : Prop :=
  ∀ (s : State) (c : Ctx) (h : Bool) (d a b : BitVec 7) (dst : Dst) (p : DWord) (y : Word),
    Executes s c → Reads64 c a p → Reads c b y → dest c 1 d = .ok dst → c.g.task = none → accessCheck s c p 4 3 = none →
    (addrTag p = 0 ∨ addrTag p = 4 →
      exec (.tcset h a b) s = .next (sent (marked s c) c h p .none (.atomic 1 [y] false true)) ∧
      exec (.tcadd h a b) s = .next (sent (marked s c) c h p .none (.atomic 0 [y] false true)) ∧
      (dst.isUni = false →
        exec (.tcread h d a) s = .next (waiting s.nextId (access (marked s c) c p dst (.atomic 16 [] false false)) c h (.result s.nextId)))) ∧
    (addrTag p = 0 → exec (.tcwait h a b) s = .next (waiting s.nextId (marked { s with nextId := s.nextId + 1 } c) c h (.tcwait s.nextId p y))) ∧
    (addrTag p ≠ 0 → exec (.tcwait h a b) s = .next (trapNow s c.t (c.illegalK 3) c.th.blk))

/-- FENCE and CCTL (R193, R213–R217): a fence waits for the accesses before it; a prefetch and an invalidation change only cached copies, and a
prefetch never traps: where its line or a page table it reads is poisoned it only counts the error (R324; that it does so is the model's choice:
assumption log 73); LEMPTY and LFULL send a change of lines. -/
def Obligations.FencesAndCacheWords : Prop :=
  ∀ (s : State) (c : Ctx) (h : Bool), Executes s c →
    (∀ b : BitVec 7, exec (.fenceAcq h b) s = .next (waiting s.nextId s c h (.fence 0 b.toNat s.nextId)) ∧ exec (.fenceRel h b) s = .next (waiting s.nextId s c h (.fence 1 b.toNat s.nextId)) ∧
      exec (.fenceAr h b) s = .next (waiting s.nextId s c h (.fence 2 b.toNat s.nextId)) ∧ exec (.fenceSc h b) s = .next (waiting s.nextId s c h (.fence 3 b.toNat s.nextId)) ∧
      exec (.fenceDrain h b) s = .next (waiting s.nextId s c h (.fence 4 b.toNat s.nextId))) ∧
    (∀ a : BitVec 7,
      (∀ p, Reads64 c a p → tagOk p = false ∨ addrTag p ≠ 0 → exec (.pref h a) s = .next (past s c.t h) ∧ exec (.prefl1 h a) s = .next (past s c.t h)) ∧
      (∃ rdc l1 errs, exec (.pref h a) s = .next (past { s with rdc := rdc, l1 := l1, errs := errs } c.t h) ∧ (s.poison = [] → errs = s.errs)) ∧
      (∃ rdc l1 errs, exec (.prefl1 h a) s = .next (past { s with rdc := rdc, l1 := l1, errs := errs } c.t h) ∧ (s.poison = [] → errs = s.errs))) ∧
    (∀ (a : BitVec 7) (p : DWord), Reads64 c a p →
      let line := p.toNat / 128
      exec (.invl1 h a true) s = .next (past { s with l1 := s.l1.filter (fun y => y.holder != c.g.core) } c.t h) ∧
      (tagOk p = true → addrTag p = 0 → exec (.invl1 h a false) s = .next (past { s with l1 := dropCopy s.l1 c.g.core c.l.asid line } c.t h) ∧
        exec (.rdcinv h a false) s = .next (waiting s.nextId s c h (.rdcinv p false))) ∧
      (tagOk p = true → addrTag p ≠ 0 → exec (.invl1 h a false) s = .next (past s c.t h) ∧ exec (.rdcinv h a false) s = .next (past s c.t h)) ∧
      (tagOk p = true → exec (.rdcinv h a true) s = .next (waiting s.nextId s c h (.rdcinv p true))) ∧
      (tagOk p = false → let bad : State := trapNow s c.t (trapAt c.th.pc 0x05 p 0 0) c.th.blk
        exec (.invl1 h a false) s = .next bad ∧ ∀ l, exec (.rdcinv h a l) s = .next bad) ∧
      ∀ n : BitVec 7, tagOk p = true → addrTag p = 1 ∨ addrTag p = 5 → localOff p / 128 * 128 + 128 * (n.toNat + 1) ≤ localLen c.l c.g p →
        let s0 : State := { s with nextId := s.nextId + n.toNat }
        exec (.lempty h a n) s = .next (sent s0 c h p .none (.lineSet false (n.toNat + 1))) ∧
        exec (.lfull h a n) s = .next (sent s0 c h p .none (.lineSet true (n.toNat + 1))))

/-- CPY, CPYR, CPYM and CPYS (R222–R232): a command that passes the checks of R225 takes its entries, or waits for them; a plain copy within
the package's memory passes them. CPYT sets a layout slot (R228), PUBL waits for its page (R239), CPYQ and CPYW give the status (R249). -/
def Obligations.CopyWords : Prop :=
  ∀ (s : State) (c : Ctx) (h : Bool), Executes s c →
    (∀ (d a b : BitVec 7) (tr ad cm : List Word), src c 4 d = .ok tr → src c 4 a = .ok ad → src c 4 b = .ok cm →
      let k := fun (minor : Nat) => command s c minor tr ad cm
      (copyCheck s c (k 0) = .ok () → exec (.cpy h d a b) s = .next (commanded s c h (k 0))) ∧
      (copyCheck s c (k 1) = .ok () → exec (.cpyr h d a b) s = .next (commanded s c h (k 1))) ∧
      (copyCheck s c (k 2) = .ok () → exec (.cpym h d a b) s = .next (commanded s c h (k 2))) ∧
      (copyCheck s c (k 3) = .ok () → exec (.cpys h d a b) s = .next (commanded s c h (k 3))) ∧
      (∀ r, copyCheck s c (k 0) = .error r → exec (.cpy h d a b) s = .next (trapNow s c.t r c.th.blk)) ∧
      (let p := (k 0).src
       let q := (k 0).dst
       let n := (k 0).len
       (k 0).ctl = 0 → c.g.task = none → tagOk p = true → tagOk q = true → addrTag p = 0 → addrTag q = 0 → p.toNat % 16 = 0 → q.toNat % 16 = 0 →
       16 ≤ n → n ≤ 2 ^ 24 → n % 16 = 0 → p.toNat % 2 ^ 48 + n ≤ 2 ^ 48 → q.toNat % 2 ^ 48 + n ≤ 2 ^ 48 → copyCheck s c (k 0) = .ok ())) ∧
    (∀ (k : BitVec 3) (a b : BitVec 7) (x y : List Word), src c 4 a = .ok x → src c 4 b = .ok y →
      let legal := uniSource a = true ∧ uniSource b = true ∧ layoutOk (x ++ y) = true
      (legal → exec (.cpyt h k a b) s = .next (retired s { c with g := { c.g with lt := c.g.lt.set k.toNat (x ++ y) } } h)) ∧
      (¬ legal → exec (.cpyt h k a b) s = .next (trapNow s c.t c.illegal c.th.blk))) ∧
    (∀ (a : BitVec 7) (p : DWord), Reads64 c a p → c.l.has 12 = true → c.g.task = none → addrTag p = 0 ∨ addrTag p = 4 → accessCheck s c p 1 5 = none →
      exec (.publ h a) s = .next (waiting s.nextId (marked { s with nextId := s.nextId + 1 } c) c h (.publ s.nextId p false))) ∧
    (∀ (d a : BitVec 7) (dst : Dst) (n : Word), dest c 1 d = .ok dst → Reads c a n →
      let out := (s.copies.filter (fun k => k.t == c.t)).length
      let status : Word := BitVec.ofNat 32 (min c.th.cpyDrops 255 * 2 ^ 24 + c.th.cpyFail * 2 ^ 16 + out)
      (dst.isVec = true → exec (.cpyq h d) s = .next (past (s.modThread c.t (fun _ => (c.write dst [status]).th)) c.t h) ∧
        exec (.cpyw h d a) s = .next (past (addPend s c.t c.th.pc dst (.cpyw n.toNat) 0 none .sent) c.t h)) ∧
      (dst.isVec = false → exec (.cpyq h d) s = .next (trapNow s c.t c.illegal c.th.blk) ∧ exec (.cpyw h d a) s = .next (trapNow s c.t c.illegal c.th.blk)))

/-- The tile pool's words (R281–R284): TALLOC asks the pool, TREL and TDROP send their counts, TADDR forms an address, TSTAT reads the pool;
each needs capability bit 4. -/
def Obligations.TileWords : Prop :=
  ∀ (s : State) (c : Ctx) (h : Bool) (d a b : BitVec 7), Executes s c → c.l.has 4 = true →
    (∀ (dst : Dst) (p n : Word), dest c 2 d = .ok dst → dst.isUni = false → Reads c a p → Reads c b n → p.toNat ≤ 7 →
      (partClass c.l p.toNat ≠ 0 → 1 ≤ n.toNat → n.toNat ≤ 65535 →
        exec (.talloc h d a b) s = .next (past (addPend { s with nextId := s.nextId + 1 } c.t c.th.pc dst (.talloc p.toNat n.toNat s.nextId) 0 none .sent) c.t h)) ∧
      (partClass c.l p.toNat = 0 → exec (.talloc h d a b) s = .next (trapNow s c.t
        { cause := 0x13, pc := c.th.pc, addr := 0, detail := p.toNat, kind := 0, at_ := 0, further := 0 } c.th.blk))) ∧
    (∀ (p : DWord) (n : Word), Reads64 c a p → Reads c b n → addrTag p = 5 → accessCheck s c (p - BitVec.ofNat 64 (p.toNat % 2 ^ 16)) 1 0 = none →
      exec (.trel h a) s = .next (past (addPend s c.t c.th.pc .none (.tileCount 0 true) p (some .tile) .sent) c.t h) ∧
      exec (.tdrop h a b) s = .next (past (addPend s c.t c.th.pc .none (.tileCount n.toNat false) p (some .tile) .sent) c.t h)) ∧
    (∀ (dst : Dst) (x y : Word), Writes c 2 d dst [a, b] false → Reads c a x → Reads c b y →
      exec (.taddr h d a b) s = .next (retired s (c.write64 dst (0x5000000000000000 ||| (x.zeroExtend 64 <<< 24) ||| (y.zeroExtend 64 &&& 0xFFFF))) h)) ∧
    (∀ (dst : Dst) (p : DWord), dest c 1 d = .ok dst → dst.isUni = false → Reads64 c a p → addrTag p = 5 → tagOk p = true →
      let live := liveTiles s c.l.ref (coreCluster c.g.core) (hPart (addrHandle p))
      let t := s.tile? (hCore c.g.core (addrHandle p)) (hSlot (addrHandle p))
      let reads := if tileFresh s c.l c.g.core (addrHandle p) = true then (t.map (fun x => x.count)).getD 0 else 0
      exec (.tstat h d a) s = .next (past (s.modThread c.t (fun _ => (c.write dst [BitVec.ofNat 32 (live * 2 ^ 16 + reads)]).th)) c.t h))

/-- The matrix engine's words (R251–R271): an operation of the group that holds the baton enters the queue, or waits for room; without the
baton a word raises BATON; MWAIT and MSTAT give the status word. -/
def Obligations.MatrixWords : Prop :=
  (Operation 0 [] (fun h d a b => .mma8 h d a b) ∧ Operation 1 [3] (fun h d a b => .mma8s h d a b) ∧ Operation 2 [] (fun h d a b => .mma8g h d a b) ∧
    Operation 3 [3] (fun h d a b => .mma8gs h d a b) ∧ Operation 4 [] (fun h d a b => .mmah h d a b) ∧ Operation 5 [] (fun h d a b => .mmab h d a b)) ∧
  (∀ (s : State) (c : Ctx) (h : Bool) (d : BitVec 7) (sw : Word), Executes s c → Reads c d sw → uniName d = true → c.l.has 2 = true → c.g.task = none →
    holds s c.g = true → let o := operation c 6 sw [] []
    matrixCheck c o = .ok () → exec (.mzero h d) s = .next (entered s c h o)) ∧
  (∀ (s : State) (c : Ctx) (h : Bool) (d a b : BitVec 7) (sw x : Word) (p : List Word), Executes s c → Reads c d sw → src c 2 a = .ok p → src c 1 b = .ok [x] →
    [d, a, b].all uniName = true → c.l.has 2 = true → c.g.task = none → holds s c.g = true →
    (matrixCheck c (operation c 7 sw p [x]) = .ok () → exec (.mldc h d a b) s = .next (entered s c h (operation c 7 sw p [x]))) ∧
    (matrixCheck c (operation c 8 sw p [x]) = .ok () → exec (.mstc h d a b) s = .next (entered s c h (operation c 8 sw p [x])))) ∧
  (∀ (s : State) (c : Ctx) (h : Bool) (d a b : BitVec 7) (sw : Word) (x y : List Word), Executes s c → Reads c d sw → src c 4 a = .ok x → src c 4 b = .ok y →
    [d, a, b].all uniName = true → c.l.has 2 = true → c.g.task = none → holds s c.g = false →
    let none_ := fun (i : Instr) => exec i s = .next (trapNow s c.t { cause := 0x1B, pc := c.th.pc, addr := 0, detail := 0, kind := 0, at_ := 0, further := 0 } c.th.blk)
    (∀ i ∈ ([.mma8 h d a b, .mma8g h d a b, .mmah h d a b, .mmab h d a b] : List Instr), none_ i) ∧
    (c.l.has 3 = true → ∀ i ∈ ([.mma8s h d a b, .mma8gs h d a b] : List Instr), none_ i)) ∧
  (∀ (s : State) (c : Ctx) (h : Bool) (d a b : BitVec 7) (sw x : Word) (p : List Word), Executes s c → Reads c d sw → uniName d = true → c.l.has 2 = true →
    c.g.task = none → holds s c.g = false →
    let none_ := fun (i : Instr) => exec i s = .next (trapNow s c.t { cause := 0x1B, pc := c.th.pc, addr := 0, detail := 0, kind := 0, at_ := 0, further := 0 } c.th.blk)
    none_ (.mzero h d) ∧ (uniName a = true → uniName b = true → src c 2 a = .ok p → src c 1 b = .ok [x] → none_ (.mldc h d a b) ∧ none_ (.mstc h d a b))) ∧
  (∀ (s : State) (c : Ctx) (h : Bool) (d a : BitVec 7) (m : Word) (dst : Dst), Executes s c → Writes c 1 d dst [a] false → Reads c a m →
    (c.l.has 2 = true → exec (.mwait h d a) s = .next (waiting s.nextId s c h (.mwait (m.toNat % 2 ^ 16) s.nextId dst)) ∧
      exec (.mstat h d) s = .next (retired s (c.write dst [matrixStatus s c.g]) h)) ∧
    (c.l.has 2 = false → exec (.mwait h d a) s = .next (retired s (c.write dst [0]) h) ∧ exec (.mstat h d) s = .next (retired s (c.write dst [0]) h)))

/-- The baton (R272, R273, R341): MACQ joins the FIFO and a free baton goes to its head with the next EPOCH, unless every thread of that group that
asks for it is parked or the group is being saved; MPASS gives it to a group of the team on the core; MREL frees it to the head of the FIFO;
MWHO tells who holds it, in every launch. -/
def Obligations.BatonWords : Prop :=
  ∀ (s : State) (c : Ctx) (h : Bool) (d a : BitVec 7) (x : Word) (dst : Dst), Executes s c → dest c 1 d = .ok dst → Reads c a x →
    let e := s.engine c.g.core
    let own := c.g.gid
    let others := e.fifo.filter (fun g => g != own)
    let joined := if e.fifo.contains own then e.fifo else e.fifo ++ [own]
    let asked := addPend s c.t c.th.pc dst .macq 0 none .sent
    (c.l.has 2 = true →
      (e.holder = some own → exec (.macq h d) s = .next (past (addPend s c.t c.th.pc dst .macq 0 none (.ready [some e.epoch])) c.t h)) ∧
      (∀ g, e.holder = some g → g ≠ own → ∃ t, exec (.macq h d) s = .next t ∧ t.engine c.g.core = { e with fifo := joined }) ∧
      (∀ g, e.holder = none → joined.head? = some g → grantWaits asked g = false → ∃ t, exec (.macq h d) s = .next t ∧
        (t.engine c.g.core).holder = some g ∧ (t.engine c.g.core).epoch = e.epoch + 1) ∧
      (∀ g, e.holder = none → joined.head? = some g → grantWaits asked g = true → ∃ t, exec (.macq h d) s = .next t ∧
        t.engine c.g.core = { e with fifo := joined }) ∧
      (c.g.acted = 0 → e.holder = some own → (∀ g, others.head? = some g → grantWaits s g = false) → ∃ t, exec (.mrel h) s = .next t ∧
        (t.engine c.g.core).holder = others.head? ∧ (t.engine c.g.core).fifo = others.filter (fun g => others.head? != some g) ∧
        (t.engine c.g.core).epoch = if others = [] then e.epoch else e.epoch + 1) ∧
      (c.g.acted = 0 → e.holder ≠ some own → exec (.mrel h) s = .next (trapNow s c.t
        { cause := 0x1B, pc := c.th.pc, addr := 0, detail := 0, kind := 0, at_ := 0, further := 0 } c.th.blk)) ∧
      (∀ g, s.groups.find? (fun g => g.launch == c.g.launch && g.team == c.g.team && g.idx == x.toNat) = some g → g.resident = true → g.retired = false →
        g.core = c.g.core → g.gid ≠ own → c.g.acted = 0 → e.holder = some own →
        ∃ t, exec (.mpass h a) s = .next t ∧ (t.engine c.g.core).holder = some g.gid ∧ (t.engine c.g.core).epoch = e.epoch + 1)) ∧
    ((∀ y ∈ s.groups, y.idx < 512) → ∃ v : Word, (v.getLsbD 31 = e.holder.isSome ∧ v.getLsbD 30 = (e.holder == some own) ∧
        (∀ g y, c.l.has 2 = true → e.holder = some g → s.group? g = some y → y.launch = c.g.launch → v.toNat % 2 ^ 16 = y.idx) ∧
        (c.l.has 2 = false ∨ e.holder = none → v.toNat % 2 ^ 16 = 0xFFFF)) ∧
      exec (.mwho h d) s = .next (retired s (c.write dst [v]) h))

/-- The task unit's words (R275, R291–R296, R300): TKNEXT arrives with its mask and keeps the restart point, TKDONE and TKSPEC wait for their
group, TKPOST and TKSUCC send their accesses, TKABORT gives back a versioned task's record to the tail of its queue. -/
def Obligations.TaskWords : Prop :=
  (∀ (s : State) (c : Ctx) (h : Bool) (d a : BitVec 7), Executes s c → c.l.has 5 = true →
    let k := (c.th.tkRendez + 1).toNat
    let counted := s.modThread c.t (fun th => { th with tkRendez := th.tkRendez + 1 })
    let here : Restart := { pc := c.th.pc, vwb := c.th.vwb, uwb := c.th.uwb, preds := c.th.preds, blk := c.th.blk, stack := c.th.stack }
    (∀ (m : Word) (dst : Dst), Reads c a m → dest c 16 d = .ok dst → d.toNat ∈ [80, 88, 96, 104] → 80 ≤ a.toNat → a.toNat < 120 →
      exec (.tknext h d a) s = .next (tryTask (past (addPend (s.modThread c.t (fun th =>
        { th with tkRendez := th.tkRendez + 1, tkPoints := (k, here) :: th.tkPoints, barsFlush := true })) c.t c.th.pc dst (.tknext k m) 0 none .sent) c.t h) c.t.gid)) ∧
    (∀ m : Word, Reads c a m → ¬ (d.toNat ∈ [80, 88, 96, 104] ∧ 80 ≤ a.toNat ∧ a.toNat < 120) →
      exec (.tknext h d a) s = .next (trapNow s c.t c.illegal c.th.blk)) ∧
    exec (.tkdone h) s = .next (waiting s.nextId counted c h (.tkdone k)) ∧
    (c.l.has 8 = true ∧ c.l.hdr.speculate = true → exec (.tkspec h) s = .next (waiting s.nextId counted c h (.tkspec k))) ∧
    (¬ (c.l.has 8 = true ∧ c.l.hdr.speculate = true) → exec (.tkspec h) s = .next (trapNow s c.t c.illegal c.th.blk)) ∧
    (∀ p : DWord, Reads64 c a p →
      (addrTag p = 0 ∨ addrTag p = 1 → accessCheck s c p 64 1 = none → exec (.tkpost h a) s = .next (sent (marked s c) c h p .none .taskPost)) ∧
      (addrTag p = 0 → p.toNat % 16 = 0 → accessCheck s c p 16 3 = none → exec (.tksucc h a) s = .next (sent (marked s c) c h p .none .taskSucc))) ∧
    (inVersion s c.t = true → c.th.redo = false → exec (.tkabort h) s = .next (past (discardVersion s c.t.gid) c.t true)) ∧
    (c.th.redo = true → ∃ hz, exec (.tkabort h) s = .next (past s c.t hz)) ∧
    (inVersion s c.t = false → c.th.redo = false → exec (.tkabort h) s = .next (trapNow s c.t c.illegal c.th.blk))) ∧
  ∀ (s : State) (l : Launch) (g : Group) (tk : Task), s.group? g.gid = some g → s.ofThread { gid := g.gid, lane := 0 } = some (l, g) → g.task = some tk →
    tk.versioned = true →
    let s' := discardVersion s g.gid
    s'.mem = s.mem ∧ (∀ g', s'.group? g.gid = some g' → g'.task = none) ∧
    s'.recs = s.recs.filter (fun r => r.held != some g.gid) ++ (s.recs.filter (fun r => r.held == some g.gid)).map (fun r => { r with held := none })

/-- LAUNCH, LWAIT, LSTAT and ROLE (R302–R306): what the thread waits for, the status of a child, the role after the group's arrivals. -/
def Obligations.LaunchWords : Prop :=
  ∀ (s : State) (c : Ctx) (h : Bool) (d a b : BitVec 7) (dst : Dst), Executes s c → dest c 1 d = .ok dst → dst.isUni = false →
    (∀ (hd : DWord) (q0 q1 q2 q3 : Word), Reads64 c a hd → src c 4 b = .ok [q0, q1, q2, q3] → c.l.has 6 = true → c.g.task = none → q3.toNat < 16 →
      addrTag hd = 0 → accessCheck s c hd 1 1 = none →
      exec (.launch h d a b) s =
        .next (waiting s.nextId (marked s c) c h (.launch hd (pairOf q0 q1) q2 (if q3.getLsbD 3 = true then some (q3.toNat % 8) else none) dst))) ∧
    (∀ x : Word, Reads c a x →
      (c.l.has 6 = true → exec (.lwait h d a) s = .next (past (addPend s c.t c.th.pc dst (.lwait x) 0 none .sent) c.t h) ∧
        exec (.lstat h d a) s = .next (retired s (c.write dst [(childStatus s c.l x.toNat).getD (statusWord 0 3 7)]) h)) ∧
      (b ≤ 5 → x ≠ 0 → exec (.role h d a b) s =
        .next (retired s (c.write dst [BitVec.ofNat 32 ((c.g.idx + c.th.arrivals.getD b.toNat 0 % 2 ^ 32) % x.toNat)]) h)) ∧
      (5 < b ∨ x = 0 → exec (.role h d a b) s = .next (trapNow s c.t c.illegal c.th.blk)) ∧
      (c.l.has 6 = false → exec (.lwait h d a) s = .next (trapNow s c.t c.illegal c.th.blk) ∧
        exec (.lstat h d a) s = .next (trapNow s c.t c.illegal c.th.blk)))

/-- The AQ and COLL words (R326–R328, R416–R419): a post waits until its descriptor is read; AQCANCEL asks for the pages whose triples are not
formed, and no other; the statuses. -/
def Obligations.QueryAndCollectiveWords : Prop :=
  ∀ (s : State) (c : Ctx) (h : Bool) (d a : BitVec 7) (dst : Dst), Executes s c → dest c 1 d = .ok dst → dst.isUni = false → c.g.task = none →
    (∀ p : DWord, Reads64 c a p → addrTag p = 0 ∨ addrTag p = 1 → accessCheck s c p 64 1 = none →
      (c.l.has 7 = true → exec (.aqpost h d a) s = .next (waiting s.nextId (marked s c) c h (.post 0 p 0 dst []))) ∧
      (c.l.has 10 = true → exec (.clpost h d a) s = .next (waiting s.nextId (marked s c) c h (.post 1 p 0 dst []))) ∧
      (∀ (l : BitVec 3) (n : BitVec 4), c.l.has 10 = true → l ≤ 5 →
        exec (.clroute h a l n) s = .next (waiting s.nextId (marked s c) c h (.post 2 p (n.toNat + 16 * l.toNat) .none [])))) ∧
    (∀ x : Word, Reads c a x →
      (c.l.has 7 = true →
        exec (.aqwait h d a) s = .next (past (addPend s c.t c.th.pc dst (.aqwait x.toNat) 0 none .sent) c.t h) ∧
        exec (.aqstat h d a) s = .next (retired s (c.write dst [queryStatus s c.t c.g c.th x]) h) ∧
        ∃ f : Query → Query, exec (.aqcancel h a) s = .next (past { s with queries := s.queries.map f } c.t h) ∧
          ∀ q : Query, (q.t = c.t ∧ q.slot = x.toNat % 4 ∧ x.toNat / 4 = q.seq ∧ x.toNat < 2 ^ 16 →
              f q = { q with pages := q.pages.map (fun p => { p with cxl := p.cxl || decide (p.st < 2) }) }) ∧
            (¬ (q.t = c.t ∧ q.slot = x.toNat % 4 ∧ x.toNat / 4 = q.seq ∧ x.toNat < 2 ^ 16) → f q = q)) ∧
      (c.l.has 10 = true → exec (.clwait h d a) s = .next (waiting s.nextId s c h (.clwait x dst)) ∧
        exec (.clstat h d a) s = .next (retired s (c.write dst [collStatus s c.g c.th x]) h)))

/-- NDRAIN, NGEN and NPATH (R402): the waits, the lowest open generation, the word of a path; a uniform destination is illegal (R401). -/
def Obligations.NetWords : Prop :=
  ∀ (s : State) (c : Ctx) (h : Bool) (d a : BitVec 7) (dst : Dst) (x : Word), Executes s c → dest c 1 d = .ok dst → Reads c a x →
    (dst.isUni = false →
      exec (.ndrain h d) s = .next (waiting s.nextId s c h (.ndrain s.nextId dst)) ∧
      exec (.ngen h d a true) s = .next (waiting s.nextId s c h (.ngen x dst)) ∧
      exec (.ngen h d a false) s = .next (retired s (c.write dst [lowestOpen s]) h) ∧
      let q := x.toNat % 1024
      let slots := directSlots s q
      (calSlots s ≤ 64 → ∃ v : Word, v.getLsbD 31 = reachable s q ∧ v.toNat / 2 ^ 16 % 2 ^ 15 = min slots.length 255 ∧ v.toNat % 2 ^ 16 = nextSlot s q ∧
        exec (.npath h d a) s = .next (retired s (c.write dst [v]) h))) ∧
    (dst.isUni = true → ∀ i ∈ ([.ndrain h d, .ngen h d a true, .ngen h d a false, .npath h d a] : List Instr),
      exec i s = .next (trapNow s c.t c.illegal c.th.blk))

/-- RESULT_DELIVERY (R33, R34): the values that are on their way reach their registers, and the entry leaves the thread. A load that the order of its
thread's accesses lets go (R43, R161, R171, R207): one of a line of SO memory, with an acquire or by tag 0x4, and one of RC or UO memory of whose line
neither the core's L1 nor, for another die, its RDC holds a copy, delivers the bytes at its point of coherence; one whose line such a cache holds
delivers the copy's bytes; one of a FULL line of scratchpad or of a tile, or of host memory, the bytes there. -/
def Obligations.ResultsReachTheirRegisters : Prop :=
  ∀ (s : State) (t : Tid) (l : Launch) (g : Group) (th : Thread) (p : Pend) (r w : Nat), s.ofThread t = some (l, g) → s.thread? t = some th →
    s.pend? t p.id = some p → p.dst = .vec r w → g.resident = true → th.halted = false →
    let delivers := fun (vs : List Word) => ∃ s' th', exec (.resultDelivery t p.id none) s = .next s' ∧ s'.thread? t = some th' ∧ s'.mem = s.mem ∧
      th'.regs = vs.zipIdx.foldl (fun rs v => rs.set (r + v.2) v.1) th.regs ∧ th'.pc = th.pc ∧ th'.preds = th.preds ∧
      th'.infl = th.infl.filter (fun q => q.id != p.id)
    (∀ vs, p.op.delivers = true → p.st = .ready (vs.map some) → delivers vs) ∧
    (∀ (z : Nat) (acq consume : Bool), z ≤ 6 → p.op = .load z acq consume → p.st = .sent → orderOk s l g th p = true →
      (∀ die pa kind, p.loc = some (.phys die pa kind) → g.task = none → heldAhead s g p (hbmKey die pa) = false →
        let key := hbmKey die pa
        let line := p.addr.toNat / 128
        let cached := kind ≠ 0 ∧ addrTag p.addr ≠ 4 ∧ acq = false
        let inL1 := if p.bypass = true then none else findCopy s.l1 g.core l.asid line
        let inRdc := if addrDie p.addr = g.die then none else findCopy s.rdc g.die l.asid line
        (¬ cached ∨ inL1 = none ∧ inRdc = none → poisoned s key (sizeBytes z) = false → delivers (loaded z (fun i => memByte s.mem (key + i)))) ∧
        (∀ x, cached → inL1 = some x ∨ inL1 = none ∧ inRdc = some x → x.data.length = 128 → p.addr.toNat % sizeBytes z = 0 →
          delivers (loaded z (fun i => x.data.getD (p.addr.toNat % 128 + i) 0)))) ∧
      (∀ key, p.loc = some .scratch ∨ p.loc = some .tile → p.key l g = some key → lineState s key = 0 →
        delivers (loaded z (fun i => memByte s.mem (key + i)))) ∧
      (∀ key, p.loc = some .host → p.key l g = some key → poisoned s key (sizeBytes z) = false →
        delivers (loaded z (fun i => memByte s.mem (key + i)))))

/-- WRITE_PERFORMED and WCB_FLUSH (R181, R211, R365): a store changes the bytes it names at its point of coherence and no other; an atomic writes
what its minor computes from the old value and delivers that; the combining buffer's stores of a line are performed in order. -/
def Obligations.WritesArePerformed : Prop :=
  (∀ (s : State) (t : Tid) (l : Launch) (g : Group) (th : Thread) (p : Pend) (die pa kind : Nat), Memory.wf s.mem = true → s.ofThread t = some (l, g) →
    s.thread? t = some th → s.pend? t p.id = some p → p.st = .sent → p.loc = some (.phys die pa kind) → g.task = none → orderOk s l g th p = true →
    unreported th p.id (if p.op.isRel then p.relScope else 0) = [] → scoreHeld s t l.asid g.core p.id p.addr (hbmKey die pa) p.op.size = false →
    wcbWaits s g p = false →
    let key := hbmKey die pa
    let wrote := fun (s' : State) (bytes : List Byte) => ∀ a, memByte s'.mem a =
      if key ≤ a ∧ a < key + bytes.length then bytes.getD (a - key) 0 else memByte s.mem a
    (∀ d rel, p.op = .store d rel → ∃ s', exec (.writePerformed t p.id) s = .next s' ∧ wrote s' d ∧ s'.launches = s.launches ∧ s'.pend? t p.id = none) ∧
    (∀ m ops acq rel, p.op = .atomic m ops acq rel → poisoned s key p.op.size = false →
      let n := p.op.size
      let old := ofBytes (memRead s.mem n key)
      ∃ s', exec (.writePerformed t p.id) s = .next s' ∧
        (∀ y, atomicNew m old ops = some y → wrote s' (bytesOf n y)) ∧ (atomicNew m old ops = none → ∀ a, memByte s'.mem a = memByte s.mem a) ∧
        (p.dst ≠ .none → acq = true ∨ rel = false → ∃ q, s'.pend? t p.id = some q ∧ q.st = .ready ((wordsOf (n / 4) old).map some)))) ∧
  (∀ (s : State) (die asid line : Nat), wcbStores s die asid line ≠ [] →
    exec (.wcbFlush die asid line) s =
    .next ((wcbStores s die asid line).foldl flushOne ((wcbStores s die asid line).foldl sendHeld s)))

/-- SEGMENT_HORIZON (R32, R35, R38, R67): once every result is written and every access answered the thread goes on, ends or returns from its
handler; before that it does not; a refused access traps, or parks its thread. That an EXIT whose own wait ends in a trap is executed again after it
is the model's choice (assumption log 29), and so is what of the segment is kept behind the refused access (assumption log 13). -/
def Obligations.HorizonsWait : Prop :=
  ∀ (s : State) (t : Tid) (l : Launch) (g : Group) (th : Thread), s.ofThread t = some (l, g) → s.thread? t = some th → th.exited = false → th.wait = none →
    th.parked = false → th.halted = false → g.resident = true → g.task = none → th.redo = false → refuseReleases th = th → th.infl.any (relHeld th) = false →
    let s0 := s.modThread t (fun _ => th)
    let ready := th.settled l g = true ∧ (th.hz = true ∨ th.drain ≠ none)
    (ready → th.refused = [] → th.drain = none → ∃ s', exec (.segmentHorizon t) s = .next s' ∧ s'.thread? t = some { th with hz := false } ∧ s'.mem = s.mem) ∧
    (ready → th.refused = [] → th.drain = some .exit → exec (.segmentHorizon t) s = .next (tryTask (tryRendez ((dropStaged s0 t th).modThread t (fun x =>
      { x with exited := true, hz := false, drain := none, blk := [], fetched := none, fetchFrom := none })) t.gid) t.gid)) ∧
    (∀ mode, ready → th.refused = [] → th.drain = some (.tret mode) → exec (.segmentHorizon t) s = .next (leaveTrap s0 t mode)) ∧
    (∀ x rest y, ready → th.refused = x :: rest → x.trap = some y → (∀ r b, th.drain ≠ some (.trap r b)) → ¬ (y.cause = 0x06 ∧ y.detail = 1) →
      exec (.segmentHorizon t) s = .next (enterTrap (s0.modThread t (fun th =>
        { th with failed := th.failed.filter (fun f => f.by_ != some x.p.id) })) t { y with further := y.further + (rest.filter (fun z => z.trap.isSome)).length }
        { blk := th.blk, resume := th.pc, horizon := true, toTask := false, refused := th.kept l g, hz := th.hz, upto := s.nextId })) ∧
    (th.settled l g = false → (∀ r ts, th.drain ≠ some (.trap r ts)) → exec (.segmentHorizon t) s = .fault .notEnabled)

/-- The ends of timed waits (R154, R155), the completion of a barrier phase within a package (R157, R158), a fetch and a word that is no
instruction (R29, R46). -/
def Obligations.ThreadEventsHappen : Prop :=
  (∀ (s : State) (t : Tid) (g : Group) (th : Thread) (w : Waiting), s.group? t.gid = some g → s.thread? t = some th → g.resident = true → th.halted = false →
    th.exited = false → th.wait = some w → w.rest = [] →
    let freed := fun (i : Instr) => ∃ s', exec i s = .next s' ∧ s'.thread? t = some { th with wait := none } ∧ s'.mem = s.mem
    (∀ m, w.kind = .join m → freed (.joinTimeout t)) ∧ (w.kind = .nap → freed (.napExpiry t))) ∧
  (∀ (s : State) (l : Launch) (level set : Nat), s.launch? l.ref = some l → level < 6 → setSpans l level set = false → setMembers s l level set ≠ [] →
    let k := phaseCount l level set
    (setArrived s l level set k = true → exec (.barPhaseComplete l.ref level set) s = .next (completePhase s l level set k)) ∧
    (setArrived s l level set k = false → exec (.barPhaseComplete l.ref level set) s = .fault .notEnabled)) ∧
  (∀ (s : State) (t : Tid) (l : Launch) (g : Group) (th : Thread), s.ofThread t = some (l, g) → s.thread? t = some th → g.resident = true → th.exited = false →
    th.hz = false → th.wait = none → th.drain = none → th.parked = false → th.halted = false → th.fetched = none →
    (∀ w, fetchWord s l g.core th = .ok w → ∃ s', exec (.instructionFetch t) s = .next s' ∧ s'.mem = s.mem ∧ s'.thread? t = some { th with fetched := some w }) ∧
    (∀ lvl e, tagOk th.pc = true → addrTag th.pc = 0 → th.pc.toNat % 4 = 0 →
      translate s (addrDie th.pc) l.asid (addrOff th.pc) .fetch = .ok (lvl, e) → findCopy s.l1 (192 + g.core) l.asid (th.pc.toNat / 128) = none →
      let key := hbmKey (addrDie th.pc) (physOf lvl e (addrOff th.pc))
      poisoned s key 4 = false → fetchWord s l g.core th = .ok (BitVec.ofNat 32 (ofBytes (memRead s.mem 4 key))))) ∧
  (∀ (s : State) (t : Tid) (th : Thread) (w : Word) (reason : Nat), s.cur = some t → s.thread? t = some th →
    exec (.notAnInstruction w reason) s = .next (trapNow s t { cause := 0x01, pc := th.pc, addr := 0, detail := reason, kind := 0, at_ := 0, further := 0 } th.blk))

/-- Taking a trap (R66, R333, R335): the trap registers, the hidden state, the handler's address; no register, predicate, window or return stack
changes, no other thread and no memory. Without a handler, or in one, a trap ends the launch (R334).
Returning from one (R67, R36): after one taken at once mode 0 executes the trapping word again and mode 1 goes on at the word after it, each under
the block state that was kept; after one taken at a horizon both go on after the H instruction. Which accesses are kept with the trap is the
model's choice (assumption log 13); that a trap of a thread that has exited ends the launch, too (assumption log 16). -/
def Obligations.TrapsEnterAndReturn : Prop :=
  (∀ (s : State) (t : Tid) (l : Launch) (g : Group) (th : Thread) (r : TrapRec) (blk : List Bool), s.ofThread t = some (l, g) → s.thread? t = some th →
    l.hdr.handler ≠ 0 → th.inHandler = false → th.exited = false → th.wait = none → inVersion s t = false → th.redo = false →
    th.infl.all (fun p => !p.op.delivers) = true →
    ∃ th', (trapNow s t r blk).thread? t = some th' ∧ th'.pc = l.hdr.handler ∧ th'.inHandler = true ∧ th'.blk = [] ∧ th'.hz = false ∧ th'.wait = none ∧
      th'.drain = none ∧ th'.trapCause = BitVec.ofNat 8 r.cause ∧ th'.trapPc = r.pc ∧ th'.trapAddr = r.addr ∧
      th'.trapInfo = BitVec.ofNat 32 (min r.further 255 * 2 ^ 16 + r.kind * 2 ^ 12 + r.at_ * 2 ^ 8 + r.detail % 2 ^ 8) ∧
      th'.ts = { blk := blk, resume := r.pc, horizon := false, toTask := false, refused := th.kept l g, hz := false, upto := s.nextId } ∧ th'.refused = [] ∧
      th'.regs = th.regs ∧ th'.preds = th.preds ∧ th'.vwb = th.vwb ∧ th'.uwb = th.uwb ∧ th'.stack = th.stack ∧ th'.clockCap = th.clockCap ∧
      th'.srseed = th.srseed ∧ th'.infl = th.infl.filter (fun p => !(th.kept l g).any (fun x => x.p.id == p.id)) ∧
      (trapNow s t r blk).mem = s.mem ∧ (trapNow s t r blk).launches = s.launches ∧ ∀ u, u ≠ t → (trapNow s t r blk).thread? u = s.thread? u) ∧
  (∀ (s : State) (t : Tid) (l : Launch) (g : Group) (th : Thread) (r : TrapRec) (ts : Ts), s.ofThread t = some (l, g) → s.thread? t = some th →
    l.hdr.handler = 0 ∨ th.inHandler = true ∨ th.exited = true →
    ∃ s1 : State, s1.launches = s.launches ∧ (∀ u, s1.thread? u = s.thread? u) ∧ enterTrap s t r ts = abortLaunch s1 l.ref) ∧
  ∀ (s : State) (t : Tid) (th : Thread) (mode : Nat), s.thread? t = some th → th.ts.toTask = false → th.ts.refused = [] → mode ≤ 1 →
    ∃ th', (leaveTrap s t mode).thread? t = some th' ∧ (leaveTrap s t mode).mem = s.mem ∧ th'.inHandler = false ∧ th'.drain = none ∧ th'.regs = th.regs ∧
      th'.preds = th.preds ∧ th'.stack = th.stack ∧ th'.vwb = th.vwb ∧
      (th.ts.horizon = true → th'.pc = th.ts.resume ∧ th'.blk = th.ts.blk) ∧
      (th.ts.horizon = false → mode = 0 → th'.pc = th.ts.resume ∧ th'.blk = th.ts.blk) ∧
      (th.ts.horizon = false → mode = 1 → th'.pc = th.ts.resume + 4 ∧ th'.blk = th.ts.blk.drop 1)

/-- TALLOC_GRANT, TILE_FREE and POOL_STARVATION (R277, R278, R281, R285): the tile a waiting TALLOC receives, its handle, its EMPTY lines and no
other byte; the generation advances when a spent tile is freed; a starved cluster's blocked TALLOCs are refused with 0x12 and their partition.
TASK_DELIVERY (R290, R292): the record that is picked, or zeros once the launch is exhausted. -/
def Obligations.PoolsServeWaitingThreads : Prop :=
  (∀ (s : State) (t : Tid) (l : Launch) (g : Group) (p : Pend) (part count ord rank slot gen : Nat), s.ofThread t = some (l, g) →
    s.pend? t p.id = some p → p.op = .talloc part count ord → p.bound = false → g.resident = true → rank < 8 → slot < 256 → part < 128 → gen < 4096 →
    partClass l part < 4 → Memory.wf s.mem = true →
    let cluster := coreCluster g.core
    let core := cluster * 8 + rank
    (∀ x, s.tile? core slot = some x → x.live = false) → gen = ((s.tile? core slot).map (fun x => x.gen)).getD 0 →
    liveTiles s l.ref cluster part < partCount l part → placeFree s l cluster part rank = true → (∀ o ∈ tallocWaiting s l.ref cluster part, ord ≤ o) →
    let key := tileKey core slot 0
    let n := classSize (partClass l part)
    ∃ (s' : State) (ptr : DWord), exec (.tallocGrant t p.id rank slot) s = .next s' ∧ addrTag ptr = 5 ∧ localOff ptr = 0 ∧
      hCore g.core (addrHandle ptr) = core ∧ hSlot (addrHandle ptr) = slot ∧ hGen (addrHandle ptr) = gen ∧
      hClass (addrHandle ptr) = partClass l part ∧ hPart (addrHandle ptr) = part ∧
      s'.pend? t p.id = some { p with st := .ready [some (loWord ptr), some (hiWord ptr)] } ∧
      s'.tile? core slot = some { core := core, slot := slot, gen := gen, live := true, spent := false, part := part, cls := partClass l part,
                                  count := count, owner := l.ref, team := g.team } ∧
      (∀ a, key ≤ a → a < key + n → lineState s' a = 1) ∧ (∀ a, a < key ∨ key + n ≤ a → memByte s'.mem a = memByte s.mem a) ∧
      s'.launches = s.launches ∧ ∀ u, u ≠ t → s'.thread? u = s.thread? u) ∧
  (∀ (s : State) (cluster rank slot : Nat) (x : Tile), rank < 8 → s.tile? (cluster * 8 + rank) slot = some x → x.live = true →
    (x.spent = true → tileInUse s (cluster * 8 + rank) slot = false → ∃ s', exec (.tileFree cluster rank slot) s = .next s' ∧
      (s'.tile? (cluster * 8 + rank) slot = some { x with live := false, spent := false, gen := (x.gen + 1) % 4096, count := 0 }) ∧ s'.mem = s.mem ∧
      s'.groups = s.groups ∧ s'.launches = s.launches) ∧
    (x.spent = false ∨ tileInUse s (cluster * 8 + rank) slot = true → exec (.tileFree cluster rank slot) s = .fault .notEnabled)) ∧
  (∀ (s : State) (ref : LRef) (l : Launch) (cluster : Nat), s.launch? ref = some l →
    (starved s l cluster = false → exec (.poolStarvation cluster ref) s = .fault .notEnabled) ∧
    (starved s l cluster = true → ∃ s', exec (.poolStarvation cluster ref) s = .next s' ∧ s'.mem = s.mem ∧ s'.launches = s.launches ∧ s'.tiles = s.tiles ∧
      ∀ u g th, s.group? u.gid = some g → s.thread? u = some th →
        let blocked := g.launch = ref ∧ coreCluster g.core = cluster ∧ g.resident = true ∧ th.exited = false ∧ inTalloc th = true
        (¬ blocked → s'.thread? u = some th) ∧
        (blocked → (th.infl.map (fun p => p.id)).Nodup → ∃ th', s'.thread? u = some th' ∧ th'.regs = th.regs ∧ th'.pc = th.pc ∧
          ∀ p part n o, p ∈ th.infl → p.op = .talloc part n o → p.bound = false →
            (∃ x ∈ th'.refused ++ th'.ts.refused, ∃ y, x.trap = some y ∧ x.p.id = p.id ∧ y.cause = 0x12 ∧ y.detail = part) ∧ ∀ q ∈ th'.infl, q.id ≠ p.id))) ∧
  (∀ (s : State) (gid : Nat) (l : Launch) (g : Group) (x : TaskArr) (xs : List TaskArr) (p0 : Pend) (k : Nat) (m : Word),
    s.ofThread { gid := gid, lane := 0 } = some (l, g) → inTknext g = some (x :: xs) → x.p = some p0 → p0.op = .tknext k m → g.resident = true → g.saving = false →
    let waits := fun (u : Tid) (th : Thread) (p : Pend) => u.gid = gid ∧ s.thread? u = some th ∧ th.exited = false ∧ s.pend? u p.id = some p ∧
      p.bound = false ∧ ∃ m', p.op = .tknext k m'
    (∀ r, pickTask s l.ref (m.toNat % 2 ^ 16) = some r → ∃ s', exec (.taskDelivery gid) s = .next s' ∧ s'.mem = s.mem ∧
      (taskV r.bytes = false → s'.recs = s.recs.erase r) ∧
      (∀ u th p, waits u th p → s'.pend? u p.id = some { p with st := .ready ((wordsOf 16 (ofBytes r.bytes)).map some), late := th.halted })) ∧
    (pickTask s l.ref (m.toNat % 2 ^ 16) = none → exhausted s l = true → ∃ s', exec (.taskDelivery gid) s = .next s' ∧ s'.mem = s.mem ∧ s'.recs = s.recs ∧
      (∀ u th p, waits u th p → s'.pend? u p.id = some { p with st := .ready (List.replicate 16 (some 0)), late := th.halted })) ∧
    (pickTask s l.ref (m.toNat % 2 ^ 16) = none → exhausted s l = false → exec (.taskDelivery gid) s = .fault .notEnabled))

/-- MATRIX_STEP (R258, R261, R264, R270), COPY_UNIT (R230, R247), ARMED_FIRE (R242) and PUBLISH_FLIP (R178, R239): what a step of an engine writes, and
that it writes nothing else. -/
def Obligations.EnginesGoOn : Prop :=
  (∀ (s : State) (core : Nat) (o0 o : MOp) (rest0 rest : List MOp) (l : Launch) (g : Group), (s.engine core).queue = o0 :: rest0 →
    s.ofThread o0.t = some (l, g) → g.haltedWhole = false →
    let e := s.engine core
    let s1 := latchQueue s core
    let first := latch s o0 (o0.idxLines l g)
    let goes := fun (k : Nat) (s' : State) (v : List Word) => exec (.matrixStep core) s = .next s' ∧ s'.mem = s.mem ∧ s'.launches = s.launches ∧
      (s'.engine core).slot k = v ∧ (∀ j, j ≠ k → (s'.engine core).slot j = e.slot j) ∧ ∀ x, x ≠ core → Unmoved (s.engine x) (s'.engine x)
    (o0.hold = none → o0.minor ≠ 8 → readsError s l g first = true → ∃ s', goes o0.slot s' (List.replicate 4096 0x7FC00000#32) ∧ (s'.engine core).queue = rest0 ∧
      (∀ g', s.group? o0.gid = some g' → g'.mFail = 0 → ∃ g'', s'.group? o0.gid = some g'' ∧ g''.mFail = 1 ∧ g''.mSlot = o0.slot)) ∧
    (o0.hold = none → o0.minor ≠ 8 → readsError s l g first = false → gatherBeyond s l g first = true → ∃ s',
      goes o0.slot s' (List.replicate 4096 0x7FC00000#32) ∧ (s'.engine core).queue = rest0 ∧
      (∀ g', s.group? o0.gid = some g' → g'.mFail = 0 → ∃ g'', s'.group? o0.gid = some g'' ∧ g''.mFail = 3 ∧ g''.mSlot = o0.slot)) ∧
    (o0.hold = none → readsError s l g first = false → gatherBeyond s l g first = false → (s1.engine core).queue = o :: rest → o.hold = none →
      (o.minor = 6 → ∃ s', goes o.slot s' (List.replicate 4096 0) ∧ (s'.engine core).queue = rest ∧ s'.groups = s.groups) ∧
      (o.minor ≤ 5 → (linesOf (o.idxKeys l g ++ o.stepKeys s1 l g o.next)).all o.hasRead = true →
        let k0 := o.next * o.bs
        let ks := (List.range (min (blkK o.a) (k0 + o.bs) - k0)).map (fun x => k0 + x)
        let ka := (localKey l g (blkPtr o.a)).getD 0
        let kb := (localKey l g (blkPtr o.b)).getD 0
        ∃ s' v, goes o.slot s' v ∧ v.length = 4096 ∧ (s'.engine core).queue = (if o.next + 1 < o.nb then { o with next := o.next + 1 } :: rest else rest) ∧
          ∀ i j, i < 64 → j < 64 →
            let la := o.lineA s1 l g i
            v[64 * i + j]? = some (macBlock (if o.next = 0 ∧ o.ovw = true then 0 else (e.slot o.slot).getD (64 * i + j) 0)
              (ks.map (o.elem s1 true ka la)) (ks.map (o.elem s1 false kb j))
              (if o.scaled = true then some (scaleVal o.a (o.byteAt s1 (ka + o.scaleOff o.a la o.next)).toNat,
                scaleVal o.b (o.byteAt s1 (kb + o.scaleOff o.b j o.next)).toNat) else none))))) ∧
  (∀ (s : State) (c : CopyCmd) (l : Launch) (g : Group) (th : Thread), s.copies.find? (fun x => x.id == c.id) = some c → copyCtx s c = some (l, g) →
    s.thread? c.t = some th → c.st = .running →
    (∀ u k1 e1 k2 e2, u < c.units → c.fail = 0 → c.minor = 0 → c.done.contains u = false → c.flies u = none → ownWrites s l g th c.id (c.srcAt u) 16 = false →
      addrTag (c.srcAt u) = 0 → addrTag (c.dstAt u) = 0 → Memory.wf s.mem = true →
      translate s (addrDie (c.srcAt u)) c.asid (addrOff (c.srcAt u)) .read = .ok (k1, e1) →
      translate (fillMtlb s (addrDie (c.srcAt u)) c.asid (addrOff (c.srcAt u))) (addrDie (c.dstAt u)) c.asid (addrOff (c.dstAt u)) .write = .ok (k2, e2) →
      let src := hbmKey (addrDie (c.srcAt u)) (physOf k1 e1 (addrOff (c.srcAt u)))
      let dst := hbmKey (addrDie (c.dstAt u)) (physOf k2 e2 (addrOff (c.dstAt u)))
      poisoned s src 16 = false →
      ∃ s' c', exec (.copyUnit c.id u) s = .next s' ∧ s'.copies.find? (fun x => x.id == c.id) = some c' ∧ c'.done = u :: c.done ∧ c'.fail = 0 ∧
        s'.launches = s.launches ∧
        ∀ a, memByte s'.mem a = if dst ≤ a ∧ a < dst + 16 then memByte s.mem (src + (a - dst)) else memByte s.mem a) ∧
    (c.flight = [] → c.fail = 0 → c.units ≤ c.done.length → c.sigs = false → ∃ s', exec (.copyUnit c.id c.units) s = .next s' ∧ s'.mem = s.mem ∧
      s'.lines = s.lines ∧ s'.copies = s.copies.filter (fun x => x.id != c.id)) ∧
    (c.flight = [] → c.fail ≠ 0 → th.cpyFail = 0 → ∃ s' th', exec (.copyUnit c.id c.units) s = .next s' ∧ s'.mem = s.mem ∧
      s'.copies = s.copies.filter (fun x => x.id != c.id) ∧ s'.thread? c.t = some th' ∧ th'.cpyFail = c.fail)) ∧
  (∀ (s : State) (c : CopyCmd), s.copies.find? (fun x => x.id == c.id) = some c →
    let due := s.trigs.any (fun r => r.id == c.id && r.due)
    (c.st = .armed → due = true → ∃ s', exec (.armedFire c.id) s = .next s' ∧ s'.mem = s.mem ∧ s'.groups = s.groups ∧
      s'.trigs = s.trigs.filter (fun r => r.id != c.id) ∧ s'.copies.find? (fun x => x.id == c.id) = some { c with st := .running }) ∧
    (c.st = .armed → due = false → exec (.armedFire c.id) s = .fault .notEnabled) ∧
    (∀ l g th lvl e, c.st = .unregistered → copyCtx s c = some (l, g) → s.thread? c.t = some th → c.fail = 0 → ownWrites s l g th c.id c.w 4 = false →
      translate s (addrDie c.w) c.asid (addrOff c.w) .read = .ok (lvl, e) →
      let key := hbmKey (addrDie c.w) (physOf lvl e (addrOff c.w))
      poisoned s key 4 = false → (s.trigs.filter (fun r => r.die == addrDie c.w)).length < 4096 →
      ∃ s', exec (.armedFire c.id) s = .next s' ∧ s'.mem = s.mem ∧ s'.groups = s.groups ∧
        s'.trigs = s.trigs ++ [{ id := c.id, die := addrDie c.w, key := key, thr := c.thr, due := reached (readWord s key) c.thr }] ∧
        s'.copies.find? (fun x => x.id == c.id) = some { c with st := .armed })) ∧
  (∀ (s s1 : State) (t : Tid) (w : Waiting) (id asid : Nat) (a : DWord) (l : Launch) (g : Group) (th : Thread), s.flips.all (fun f => f.id != id) = true →
    tcWaiter s id = some (t, w) → w.kind = .publ id a false → s.ofThread t = some (l, g) → s.thread? t = some th → g.resident = true → th.halted = false →
    th.exited = false → cpysPending s t id asid a = false → releaseReady s th id 5 false = true → reportFailed th id 5 w.pc = none →
    engineAsid s l.asid l.podKey a = some (some asid) → flipPage s asid (addrDie a) (addrOff a) = .done s1 →
    exec (.publishFlip id) s = .next (endWait s1 t w)) ∧
  (∀ (s : State) (asid die v lvl e k : Nat), translate s die asid v .read = .ok (lvl, e) → pageBusy s asid die v lvl = false →
    leafKey s die v 4 1 (rootOf s die asid) = some k → Memory.wf s.mem = true →
    (leafSC e = true → ∃ s1, flipPage s asid die v = .done s1 ∧
      ∀ a, memByte s1.mem a = if a = k then (memByte s.mem k &&& 0x7F) ||| (if leafSS e = true then 0 else 0x80) else memByte s.mem a) ∧
    (leafSC e = false → ∃ s1, flipPage s asid die v = .deny s1 0x07 4 ∧ s1.mem = s.mem))

/-- QRY, BAU_SCAN, REFRESH, RPL and CXL (R307, R310, R313–R316, R320, R321, R327): a page's way through its unit; the reply slot that is written and
no other byte. That a scan reads the page as it stood when its query was posted is the model's choice (assumption log 21). -/
def Obligations.QueriesAreAnswered : Prop :=
  (∀ (s : State) (qid page : Nat) (q : Query) (x : QPage), s.qpage? qid page = some (q, x) →
    let becomes := fun (i : Instr) (y : QPage) => ∃ s' q', exec i s = .next s' ∧ s'.qpage? qid page = some (q', y) ∧ s'.mem = s.mem ∧ s'.groups = s.groups
    let neutral := fun (n : Nat) => (0xFF800000#32) :: 0 :: List.replicate n 0
    (x.st = 0 →
      (x.code ≠ 0 → becomes (.qry qid page) { x with st := 2, triple := neutral (aqD q.desc) }) ∧
      (x.code = 0 → (s.bauq.filter (fun y => y.1 == x.bau)).length < 16 → becomes (.qry qid page) { x with st := 1 } ∧
        ∃ s', exec (.qry qid page) s = .next s' ∧ s'.bauq = s.bauq ++ [(x.bau, qid, page)]) ∧
      (x.code = 0 → 16 ≤ (s.bauq.filter (fun y => y.1 == x.bau)).length → exec (.qry qid page) s = .fault .notEnabled)) ∧
    (∀ bau, s.bauq.find? (fun y => y.1 == bau) = some (bau, qid, page) →
      let base := hbmKey x.die (x.frame * 65536)
      let seen : State := { s with mem := x.cells, poison := x.bad ++ s.poison }
      (∀ tr, aqScan seen q.desc q.qv base x.n = some tr → becomes (.bauScan bau) { x with st := 2, code := 0, triple := tr }) ∧
      (aqScan seen q.desc q.qv base x.n = none → becomes (.bauScan bau) { x with st := 2, code := 1, triple := neutral (aqD q.desc) }) ∧
      ∃ s', exec (.bauScan bau) s = .next s' ∧ s'.bauq = s.bauq.erase (bau, qid, page)) ∧
    (x.st < 2 → x.cxl = true → becomes (.cxl qid page) { x with st := 2, code := 4, triple := neutral (aqD q.desc) }) ∧
    (x.cxl = false ∨ 2 ≤ x.st → exec (.cxl qid page) s = .fault .notEnabled) ∧
    (x.st = 2 → ∀ l g key, s.ofThread q.t = some (l, g) →
      let a := aqReply q.desc + BitVec.ofNat 64 (page * aqSlot q.desc)
      addrTag a = 1 → localKey l g a = some key → (∀ i, i < (replyBytes q x).length / 128 → engineHeld s q.core (key + 128 * i) none = false) →
      Memory.wf s.mem = true →
      ∃ s', exec (.rpl qid page) s = .next s' ∧ (∀ b, memByte s'.mem b = if key ≤ b ∧ b < key + (replyBytes q x).length then (replyBytes q x).getD (b - key) 0
          else memByte s.mem b) ∧
        s'.launches = s.launches ∧
        (q.pages.zipIdx.all (fun y => y.2 == page || y.1.st == 3) = true → (s.queries.filter (fun y => y.id == qid)).length = 1 →
          s'.queries = s.queries.filter (fun y => y.id != qid) ∧ ∀ th, s.thread? q.t = some th → q.slot < th.qslots.length →
            ∃ th' y, s'.thread? q.t = some th' ∧ th'.qslots[q.slot]? = some y ∧ y.busy = false ∧ y.ended = true ∧ y.seq = q.seq)) ∧
    (x.st ≠ 2 → exec (.rpl qid page) s = .fault .notEnabled)) ∧
  (∀ (s : State) (asid i : Nat) (d : List Byte) (a : DWord),
    let x := pageAt s asid d a i
    let at_ := translate s (addrDie a) asid (addrOff a) .read
    (aqCount d i = 0 → x.st = 2 ∧ x.code = 0 ∧ x.triple = (0xFF800000#32) :: 0 :: List.replicate (aqD d) 0) ∧
    (∀ e, aqCount d i ≠ 0 → at_ = .error e → x.st = 0 ∧ x.code = if e.cause = 0x0C then 1 else 2) ∧
    (∀ lvl e, aqCount d i ≠ 0 → at_ = .ok (lvl, e) →
      let pa := physOf lvl e (addrOff a)
      (leafBR e = false → x.st = 0 ∧ x.code = 3) ∧
      (leafBR e = true → x.st = 0 ∧ x.code = 0 ∧ x.n = aqCount d i ∧ x.frame = pa / 65536 ∧ x.bau = 256 * stackOf (addrDie a) pa + pa / 2 ^ 16 % 256 ∧
        ∀ k, k < 65536 → memByte x.cells (hbmKey (addrDie a) (x.frame * 65536) + k) = memByte s.mem (hbmKey (addrDie a) (x.frame * 65536) + k)))) ∧
  (∀ (s : State) (bau : Nat), exec (.refresh bau) s = .next s) ∧
  (∀ (s : State) (d : List Byte) (qv : List Word) (base n : Nat),
    (aqScan s d qv base 0 = some ((0xFF800000#32) :: 0 :: List.replicate (aqD d) 0)) ∧
    ((List.range n).any (fun t => poisoned s (base + aqKoff d + aqRstr d * t) (aqD d * aqEb d)) = true → aqScan s d qv base n = none))

/-- The scheduler's steps (R133, R134, R137, R286, R302, R303, R346–R348): how a child is accepted or refused, what a placement gives a team, what is
left of a completed launch, and the paths of pre-emption. -/
def Obligations.SchedulerSteps : Prop :=
  (∀ (s : State) (die : Nat) (p : Pending), s.pool.find? (fun x => x.ref.die == die) = some p →
    let s1 := countHeader { s with pool := s.pool.filter (fun x => x.ref != p.ref) } p.asid p.header
    let r : LaunchReq := { header := p.header, argp := p.argp, T := p.T, prio := p.prio, asid := p.asid, podKey := p.podKey, P := 1, rank := 0,
                           gang := false, depth := p.depth, parent := some p.pl }
    let code := checkLaunch s1 die (readHeader s p.asid p.header) r
    ∃ s', exec (.pendingPoolCheck die) s = .next s' ∧ s'.pool = s.pool.filter (fun x => x.ref != p.ref) ∧ s'.mem = s.mem ∧ s'.groups = s.groups ∧
      (code ≠ 0 → s'.launches = s.launches ∧ s'.kept = s.kept ++ [{ ref := p.ref, parent := p.pl, status := BitVec.ofNat 32 (4 * 256 + code) }]) ∧
      (code = 0 → s'.kept = s.kept ∧ ∃ l, s'.launches = s.launches ++ [l] ∧ l.ref = p.ref ∧ l.state = 1 ∧ l.parent = some p.pl ∧ l.T = p.T ∧ l.P = 1 ∧
        l.asid = p.asid ∧ l.podKey = p.podKey ∧ l.depth = p.depth ∧ l.teams = [] ∧ l.nextTeam = 0)) ∧
  (∀ (s s1 : State) (ref : LRef) (l : Launch) (cluster : Nat) (cores : List Nat), s.launch? ref = some l → l.waits s = true → l.first s = true →
    nextTeams l ≠ [] → coresOk l cluster cores (nextTeams l).length = true →
    placeFresh s l cores = some s1 →
    ∃ s', exec (.teamPlacement ref cluster cores) s = .next s' ∧
      (Memory.wf s.mem = true → ∀ a, isHbm a = true → memByte s'.mem a = memByte s.mem a) ∧
      ∀ i ∈ nextTeams l, (∀ t, l.team? i = some t → t.retired = false) → ∀ k, k < l.hdr.g → ∃ g ∈ s'.groups, g.launch = l.ref ∧ g.team = i ∧ g.idx = k ∧ g.resident = true ∧ g.core ∈ cores ∧
        g.threads = List.replicate 32 (Thread.start l.hdr.entry l.hdr.valloc) ∧ g.uni = loWord l.argp :: hiWord l.argp :: List.replicate 94 0 ∧
        g.nf = [0xC61D, 0xD43E, 0xB40C, 0xA604, 0xA204, 0x8E00, 0x8600, 0x461D]) ∧
  (∀ (s : State) (ref : LRef) (l : Launch), s.launch? ref = some l →
    (l.waits s = false ∨ l.first s = false → ∀ cluster cores, exec (.teamPlacement ref cluster cores) s = .fault .notEnabled) ∧
    (l.state < 3 → l.allRetired = true → launchBusy s l = false → s.gangOf ref = none →
      let leak := min (leakCount s ref) 65535
      let code := if l.code ≠ 0 then l.code else if l.hdr.strictTiles = true ∧ leak ≠ 0 then 9 else 0
      let status : Word := BitVec.ofNat 32 (leak * 2 ^ 16 + 3 * 2 ^ 8 + code)
      ∃ s', exec (.launchComplete ref) s = .next s' ∧ s'.launch? ref = none ∧ (∀ g ∈ s'.groups, g.launch ≠ ref) ∧
        (∀ x ∈ s'.tiles, x.live = true → x.owner ≠ ref) ∧ (∀ r ∈ s'.recs, r.launch ≠ ref) ∧
        (∀ p, l.parent = some p → s'.mem = s.mem ∧ s'.kept = s.kept.filter (fun k => k.parent != ref) ++ [{ ref := ref, parent := p, status := status }]) ∧
        (l.parent = none → s' = launchDone (clearLaunch s l) ref status)) ∧
    (l.state < 3 → launchBusy s l = true ∨ l.allRetired = false → exec (.launchComplete ref) s = .fault .notEnabled)) ∧
  (∀ (s : State) (ref : LRef) (team : Nat) (u : TeamSet), setOf s ref team = some u →
    (∀ w p, nextWaiting s ref.die = some w → pathOf s u false false = some p →
      chosen s w (fun v => v.free s false && outranks s w v) u = true → exec (.timeSliceExpiry ref team) s = .next (startPath s u p)) ∧
    (let isL := fun (o : POp) => match o with
        | .lwait _ => true
        | _ => false
      let isK := fun (o : POp) => match o with
        | .tknext .. => true
        | _ => false
      let ok := fun (w : Launch) (v : TeamSet) => v.free s true && ((v.launch.ref == w.ref && v.teams.all (fun t => blockedTeam s v.launch t.idx))
        || (v.teams.all (fun t => allWaitIn s v.launch t.idx isL) || v.teams.all (fun t => allWaitIn s v.launch t.idx isK)))
      let own := u.launch.waits s = true ∧ chosen s u.launch (ok u.launch) u = true
      (own → exec (.blockedTeamSwap ref team) s = .next (startPath s u .save)) ∧
      (∀ w, nextWaiting s ref.die = some w → chosen s w (ok w) u = true → exec (.blockedTeamSwap ref team) s = .next (startPath s u .save)) ∧
      (¬ own → (∀ w, nextWaiting s ref.die = some w → chosen s w (ok w) u = false) → exec (.blockedTeamSwap ref team) s = .fault .notEnabled)) ∧
    (nextWaiting s ref.die = none → exec (.timeSliceExpiry ref team) s = .fault .notEnabled) ∧
    (u.teams.all (fun t => t.drainTill.isNone) = true → exec (.drainTimeout ref team) s = .fault .notEnabled) ∧
    (∀ v p, u.teams.any (fun t => !t.retired && t.drainTill.any (fun x => decide (x ≤ s.ns))) = true →
      (u.groups s).all (fun g => g.threads.all (fun th => !th.halted)) = true →
      let s1 := TeamSet.mod s u (fun t => { t with drainTill := none, noDrain := true })
      setOf s1 ref team = some v →
        (pathOf s1 v false true = some p → p ≠ .drain ∧ exec (.drainTimeout ref team) s = .next (startPath s1 v p)) ∧
        (pathOf s1 v false true = none → exec (.drainTimeout ref team) s = .next s1)) ∧
    (u.groups s ≠ [] → savable s u = true → s.ctl.config.savePool * 2 ^ 30 < poolUsed s ref.die → ∃ s', exec (.teamSave ref team) s = .next s' ∧
      s'.mem = s.mem ∧ s'.launches = s.launches ∧ ∀ g ∈ s'.groups, (u.groups s).any (fun x => x.gid == g.gid) = true → g.saving = false) ∧
    (∀ g t, u.groups s = g → g ≠ [] → savable s u = true → poolUsed s ref.die ≤ s.ctl.config.savePool * 2 ^ 30 →
      u.teams.filter (fun x => x.resident) = [t] →
      ∃ s' l' t', exec (.teamSave ref team) s = .next s' ∧ s'.launch? ref = some l' ∧ l'.team? t.idx = some t' ∧ t'.resident = false ∧
        t'.image = (t.slices u.launch.hdr).map (fun x => memRead s.mem x.2.2 (scratchKey x.1 x.2.1)) ∧
        (∀ x ∈ teamGroups s' u.launch t.idx, x.resident = false) ∧
        (Memory.wf s.mem = true → ∀ a, isHbm a = true → memByte s'.mem a = memByte s.mem a)) ∧
    (∀ s1 cluster, let unit := u.teams
      u.live ≠ [] → unit.all (fun t => !t.resident) = true → mayReturn s u.launch u.first = true → cluster < 24 → cluster / 6 = ref.die →
      tilesStay s u.launch unit cluster = true → placeBack s u.launch unit cluster (backCores unit cluster) = some s1 → exec (.teamRestore ref team cluster (backCores unit cluster)) s =
        .next ((unit.foldl (restoreTeam ref) s1).modLaunch ref (fun l => { l with since := s.ns }))) ∧
    (u.teams.any (fun t => t.resident) = true → ∀ cluster cores, exec (.teamRestore ref team cluster cores) s = .fault .notEnabled)) ∧
  (∀ (s : State) (u : TeamSet), (startPath s u .save).mem = s.mem ∧ (startPath s u .drain).mem = s.mem ∧ (startPath s u .drain).groups = s.groups ∧
    (∀ g ∈ (startPath s u .save).groups, (u.groups s).any (fun x => x.gid == g.gid) = true → g.saving = true))

/-- A host command of an opcode is taken from its queue or channel, its entry is not poisoned, and neither the part's state, its owner nor its
form turns it away (R162, R431, R432): each a condition on the state and the source alone. -/
def Started (s s1 : State) (src : CmdSrc) (op : Nat) (c : HostCmd) : Prop :=
  takeCmd s src op = some (c, s1) ∧ entryBad s src = false ∧ cmdGate s1 c true = none

/-- Host commands (R162, R431, R432, R434): how one is taken from a channel or a queue, when it is turned away and with which code, what a poisoned
entry does, and where its completion is written. The order of the gates 0x81, 7, 0x80 is the model's choice (assumption log 57), and so is the answer to
a poisoned entry (assumption log 37). -/
def Obligations.HostCommandsRun : Prop :=
  (∀ (s : State) (a : Agent) (ws : List Word) (op : Nat), 1 ≤ s.ctl.stage → a ≠ .host → ws.length = 16 → (ws.getD 0 0).toNat % 256 = op →
    s.cmds.all (fun x => x.queue.isSome || x.agent != a.code) = true →
    takeCmd s (.channel a ws) op = some ({ id := s.nextId, queue := none, agent := a.code, index := 0, words := ws, wait := .counter 0 },
      { s with nextId := s.nextId + 1 })) ∧
  (∀ (s : State) (c : HostCmd) (form : Bool),
    (s.ctl.fatal = true → c.op ≠ 10 → cmdGate s c form = some 0x81) ∧
    (s.ctl.stage < 7 → c.op < 10 → cmdGate s c form = some 0x81) ∧
    (s.ctl.fatal = false → 7 ≤ s.ctl.stage → s.ctl.owner ≠ c.agent → (1 ≤ c.op ∧ c.op ≤ 7) ∨ c.op = 9 ∨ c.op = 12 → cmdGate s c form = some 7) ∧
    (s.ctl.fatal = false → 7 ≤ s.ctl.stage → s.ctl.owner = c.agent → c.op = 0 ∨ 12 < c.op ∨ form = false → cmdGate s c form = some 0x80) ∧
    (s.ctl.fatal = false → 7 ≤ s.ctl.stage → s.ctl.owner = c.agent → 1 ≤ c.op → c.op ≤ 12 → bits (c.words.getD 0 0) 15 9 = 0 →
      bits (c.words.getD 0 0) 31 24 = 0 → cmdGate s c true = none)) ∧
  (∀ (s : State) (c : HostCmd) (out : DWord) (code : Nat) (result : Word),
    (c.queue = none → completeCmd s c out code result = { s with
      cmds := s.cmds.filter (fun x => x.id != c.id),
      chanOut := s.chanOut ++ [{ agent := c.agent, out := out, status := BitVec.ofNat 32 (2 ^ 31 + code), result := result }] }) ∧
    (∀ q cq key, c.queue = some q → s.queues[q]? = some cq → Memory.wf s.mem = true →
      hostAddrKey s cq.asid.toNat (cq.base + BitVec.ofNat 64 (64 * c.index)) .write = .ok key →
      let s' := completeCmd s c out code result
      readNat s' (key + 0x30) 8 = out.toNat ∧ readNat s' (key + 0x38) 4 = (2 ^ 31 + code) % 2 ^ 32 ∧ readNat s' (key + 0x3C) 4 = result.toNat ∧
        ∀ a, a < key + 0x30 ∨ key + 0x40 ≤ a → memByte s'.mem a = memByte s.mem a)) ∧
  (∀ (s : State) (a : Agent) (ws : List Word) (op : Nat), 7 ≤ s.ctl.stage → s.ctl.fatal = false → a ≠ .host → s.ctl.owner = a.code → ws.length = 16 →
    (ws.getD 0 0).toNat = op → 1 ≤ op → op ≤ 12 → s.cmds.all (fun x => x.queue.isSome || x.agent != a.code) = true →
    Started s { s with nextId := s.nextId + 1 } (.channel a ws) op
      { id := s.nextId, queue := none, agent := a.code, index := 0, words := ws, wait := .counter 0 }) ∧
  (∀ (s : State) (q op : Nat) (ws : List Word) (cq : CQueue), 7 ≤ s.ctl.stage → s.ctl.fatal = false → s.ctl.owner = Agent.host.code → s.queues[q]? = some cq →
    queueEntry s q = some ws → (ws.getD 0 0).toNat % 2 ^ 8 = op → bits (ws.getD 0 0) 15 9 = 0 → bits (ws.getD 0 0) 31 24 = 0 → 1 ≤ op → op ≤ 12 →
    entryBad s (.queue q) = false → ∃ s1, Started s s1 (.queue q) op
      { id := s.nextId, queue := some q, agent := Agent.host.code, index := cq.head.toNat, words := ws, wait := .counter 0 } ∧
      s1.mem = s.mem ∧ s1.groups = s.groups ∧ s1.queues[q]? = some { cq with head := BitVec.ofNat 32 ((cq.head.toNat + 1) % cq.size.toNat) }) ∧
  (∀ (s s1 : State) (src : CmdSrc) (c : HostCmd), takeCmd s src 3 = some (c, s1) → s1.ctl.fatal = false → 7 ≤ s1.ctl.stage → s1.ctl.owner = c.agent →
    entryBad s src = true → ∃ s2, exec (.signal src) s = .next (completeCmd s2 c 0 0x80 0) ∧ s2.mem = s1.mem)

/-- What each of the twelve host commands does when it is taken (R372, R380, R431–R434, R339, R438): LAUNCH accepts its launch or completes with the
refusal, COPY begins its units, SIGNAL writes its counter, WAIT registers, CAL_LOAD stages its generation, PORT_DRAIN and PORT_RETRAIN begin, and the
others complete. ATTEST writes the response that its request asks for: VERSION, an error for a request that is not supported, the digest of a
measurement. The layout of the responses (assumption log 43), the order of CAL_LOAD's checks (assumption log 62), the code of a buffer that cannot be
read or written (assumption log 63) and what a drain or a training does that begins again (assumption log 85) are the model's choice. -/
def Obligations.HostCommandsComplete : Prop :=
  (∀ (s s1 : State) (src : CmdSrc) (c : HostCmd), Started s s1 src 1 c → launchForm c = true → c.ptr 0x20 = 0 →
    let r := launchReq c 1
    let s2 := countHeader s1 r.asid r.header
    let h := readHeader s2 r.asid r.header
    (∀ code, checkLaunch s2 (addrDie r.header) h r = code → code ≠ 0 → exec (.launchCommand src) s = .next (completeCmd s2 c 0 0 (BitVec.ofNat 32 (4 * 2 ^ 8 + code)))) ∧
    (∀ hd, checkLaunch s2 (addrDie r.header) h r = 0 → h = some hd → ∃ s' l x, exec (.launchCommand src) s = .next s' ∧
      s'.launches = s1.launches ++ [l] ∧ s'.mem = s1.mem ∧ s'.groups = s1.groups ∧ l.state = 1 ∧ l.ref.die = addrDie (c.ptr 0x08) ∧ l.hdr.entry = hd.entry ∧
      l.T = (c.word 0x18).toNat ∧ l.P = 1 ∧ l.asid = bits (c.word 0x1C) 15 8 ∧ l.parent = none ∧ x ∈ s'.cmds ∧ x.id = c.id ∧ x.wait = .launch l.ref)) ∧
  (∀ (s s1 : State) (src : CmdSrc) (c : HostCmd), Started s s1 src 2 c → tag02 (c.ptr 0x08) = true → tag02 (c.ptr 0x10) = true → (c.ptr 0x08).toNat % 16 = 0 →
    (c.ptr 0x10).toNat % 16 = 0 → (c.word 0x18).toNat % 16 = 0 → (c.word 0x18).toNat ≤ 2 ^ 28 →
    (c.word 0x18 = 0 → exec (.hostCopy src) s = .next (completeCmd s1 c 0 0 0)) ∧
    (c.word 0x18 ≠ 0 → exec (.hostCopy src) s = .next { s1 with cmds := s1.cmds ++ [{ c with wait := .copy [] }] })) ∧
  (∀ (s s1 : State) (src : CmdSrc) (c : HostCmd) (key : Nat), Started s s1 src 3 c → counterForm (c.ptr 0x08) = true → (c.word 0x14).toNat ≤ 1 →
    cmdKey s1 c (c.ptr 0x08) 4 .write 2 = .ok key → poisoned s1 key 4 = false →
    let v := if c.word 0x14 = 0 then c.word 0x10 else BitVec.ofNat 32 (readNat s1 key 4) + c.word 0x10
    exec (.signal src) s = .next (completeCmd (pocWrite s1 none key (bytesOf 4 v.toNat)) c 0 0 0)) ∧
  (∀ (s s1 : State) (src : CmdSrc) (c : HostCmd) (d : Deny), Started s s1 src 3 c → counterForm (c.ptr 0x08) = true → (c.word 0x14).toNat ≤ 1 →
    hostAddrKey s1 c.asid (c.ptr 0x08) .write = .error d → d.cause = 0x06 ∨ d.cause = 0x07 →
    exec (.signal src) s = .next (completeCmd s1 c 0 0 (if d.cause = 0x06 then 2 else 3))) ∧
  (∀ (s s1 : State) (src : CmdSrc) (c : HostCmd) (key : Nat), Started s s1 src 4 c → counterForm (c.ptr 0x08) = true → cmdKey s1 c (c.ptr 0x08) 4 .read 2 = .ok key →
    (s1.trigs.filter (fun r => r.die == addrDie (c.ptr 0x08))).length < 4096 →
    exec (.hostWait src) s = .next { s1 with
      trigs := s1.trigs ++ [{ id := c.id, die := addrDie (c.ptr 0x08), key := key, thr := c.word 0x10, due := reached (readWord s1 key) (c.word 0x10) }],
      cmds := s1.cmds ++ [{ c with wait := .counter c.id }] }) ∧
  (∀ (s s1 : State) (src : CmdSrc) (c : HostCmd),
    (Started s s1 src 11 c → s1.ctl.owner = 3 → exec (.ownerClaim src) s = .next (completeCmd { s1 with ctl := { s1.ctl with owner := c.agent } } c 0 0 0)) ∧
    (Started s s1 src 11 c → s1.ctl.owner ≠ 3 → exec (.ownerClaim src) s = .next (completeCmd s1 c 0 2 0)) ∧
    (Started s s1 src 12 c → (c.word 0x08).toNat ≤ 3 → exec (.ownerYield src) s = .next (completeCmd { s1 with ctl := { s1.ctl with owner := (c.word 0x08).toNat } } c 0 0 0)) ∧
    (Started s s1 src 10 c → tag02 (c.ptr 0x08) = true → tag02 (c.ptr 0x18) = true →
      let request := readBuffer s1 c.asid (c.ptr 0x08) (c.word 0x10).toNat
      (∀ s2, request = .error s2 → exec (.attest src) s = .next (completeCmd s2 c 0 0x80 0)) ∧
      (∀ req, request = .ok req →
        let r := attestReply s1 req
        let s2 := { s1 with freeCtr := s1.freeCtr + 64 }
        ((c.word 0x20).toNat < r.length → exec (.attest src) s = .next (completeCmd s2 c 0 0x82 0)) ∧
        (r.length ≤ (c.word 0x20).toNat →
          (∀ s3, writeBuffer s2 c.asid (c.ptr 0x18) r = .ok s3 → exec (.attest src) s = .next (completeCmd s3 c 0 0 (BitVec.ofNat 32 r.length))) ∧
          (∀ s3, writeBuffer s2 c.asid (c.ptr 0x18) r = .error s3 → exec (.attest src) s = .next (completeCmd s3 c 0 0x80 0))))) ∧
    (Started s s1 src 5 c →
      (∀ code, readCal s1 c.asid (c.ptr 0x08) = .error code → code ≠ 8 → exec (.calLoad src) s = .next (completeCmd s1 c 0 code 0)) ∧
      (readCal s1 c.asid (c.ptr 0x08) = .error 8 → exec (.calLoad src) s = .next (completeCmd (countImage s1 c.asid (c.ptr 0x08)) c 0 8 0)) ∧
      (∀ cal, readCal s1 c.asid (c.ptr 0x08) = .ok cal →
        (calCheck s1 cal ≠ 0 → exec (.calLoad src) s = .next (completeCmd s1 c 0 (calCheck s1 cal) 0)) ∧
        (calCheck s1 cal = 0 → s1.net.cal.isSome = true → exec (.calLoad src) s = .next (completeCmd { s1 with net := { s1.net with staged := some cal } } c 0 0 0)) ∧
        (calCheck s1 cal = 0 → s1.net.cal = none → ∃ s2, exec (.calLoad src) s = .next (completeCmd s2 c 0 0 0) ∧ s2.net.cal = some cal ∧ s2.calSlot = 0 ∧ s2.calCycle = 0))) ∧
    (∀ p, Started s s1 src 6 c → (c.word 0x08).toNat < 64 → s1.net.ports[(c.word 0x08).toNat]? = some p →
      (p.st = .active → ∃ s', exec (.portDrain src) s = .next s' ∧ s'.mem = s1.mem ∧ s'.cmds = s1.cmds ++ [{ c with wait := .drain (c.word 0x08).toNat }] ∧
        s'.net.ports[(c.word 0x08).toNat]? = some { p with drainReq := true }) ∧
      (p.st ≠ .active → exec (.portDrain src) s = .next (completeCmd s1 c 0 5 0))) ∧
    (∀ p, Started s s1 src 7 c → (c.word 0x08).toNat < 64 → s1.net.ports[(c.word 0x08).toNat]? = some p →
      (p.st = .drained ∨ p.st = .failed → ∃ s' p', exec (.portRetrain src) s = .next s' ∧ s'.mem = s1.mem ∧
        s'.cmds = s1.cmds ++ [{ c with wait := .retrain (c.word 0x08).toNat }] ∧ s'.net.ports[(c.word 0x08).toNat]? = some p' ∧ p'.st = .training) ∧
      (p.st ≠ .drained ∧ p.st ≠ .failed → exec (.portRetrain src) s = .next (completeCmd s1 c 0 5 0))) ∧
    (Started s s1 src 8 c → tag02 (c.ptr 0x08) = true →
      (∀ s2, writeBuffer s1 c.asid (c.ptr 0x08) (calBlock s1) = .ok s2 → exec (.calStatus src) s = .next (completeCmd s2 c 0 0 0)) ∧
      (∀ s2, writeBuffer s1 c.asid (c.ptr 0x08) (calBlock s1) = .error s2 → exec (.calStatus src) s = .next (completeCmd s2 c 0 0x80 0))) ∧
    (Started s s1 src 9 c → bits (c.word 0x08) 15 0 < 4 → (c.word 0x0C).toNat ≤ 1 →
      let found := s1.frecs.find? (fun r => r.die == bits (c.word 0x08) 15 0 && r.tag == bits (c.word 0x08) 31 16 && r.open_)
      (found = none → exec (.faultReplay src) s = .next (completeCmd s1 c 0 1 0)) ∧
      (∀ r, found = some r → exec (.faultReplay src) s = .next (completeCmd (answerRec s1 r (c.word 0x0C == 0)) c 0 0 0)))) ∧
  (∀ (s : State) (req : List Byte), 4 ≤ req.length →
    let code := (req.getD 1 0).toNat
    (code = 0x84 → attestReply s req = [0x10, 0x04, 0, 0, 0, 1, 0x00, 0x13]) ∧
    (code ∉ [0x81, 0x82, 0x83, 0x84, 0xE0, 0xE1, 0xE3] → attestReply s req = [0x13, 0x7F, 0x07, req.getD 1 0]) ∧
    (∀ k d, code = 0xE0 → req.getD 0 0 = 0x13 → req.getD 2 0 = 0 → req.getD 3 0 = BitVec.ofNat 8 (k + 1) → k < 254 → 12 ≤ req.length → s.ctl.measured[k]? = some d →
      (attestReply s req).take 5 = [0x13, 0x60, 0, 0, 1] ∧ ((attestReply s req).drop 15).take d.length = d))

/-- The rotation of the calendar (R366, R371–R379, R384, R386, R390): what a slot boundary, a data window, a generation and a steering change;
how rings tune and ports drain, train and fail; preambles, acknowledgements and the packets that are given up. That the estimate falls by the correction
that a steering makes is the model's choice (log 46); that a boundary waits until what is due in its slot has happened (`slotOpen`) is the model's form of
the order that R372, R376, R377, R384 and R404 give. -/
def Obligations.CalendarTurns : Prop :=
  (∀ (s : State) (c : Cal), s.net.cal = some c → s.net.synced = true →
    let k := (s.calSlot.toNat + 1) % c.s
    (s.net.inData = true → slotOpen s c = false → stagedDue s = none → ∃ s', exec .slotBoundary s = .next s' ∧ s'.mem = s.mem ∧ s'.groups = s.groups ∧ s'.net.inData = false ∧
      s'.calSlot = BitVec.ofNat 6 k ∧ s'.calCycle = (if k = 0 then s.calCycle + 1 else s.calCycle) ∧ s'.net.cal = some c ∧ (k = 0 → s'.net.steered = false) ∧ (∀ o ∈ s'.net.out, o.fly = false) ∧
      ∀ j p, s.net.ports[j]? = some p → p.st = .active → p.drainReq = false → ∃ p', s'.net.ports[j]? = some p' ∧ p'.st = .active ∧ p'.verified = none ∧
        p'.spare = p.cur ∧ p'.lastLit = p.lit ∧
        p'.cur = (if (c.entry k j).v = true then p.spare else { p.spare with st := .dark })) ∧
    (s.net.inData = false ∨ slotOpen s c = true ∨ (stagedDue s).isSome = true → exec .slotBoundary s = .fault .notEnabled) ∧
    (tuningOpen s = true ∨ gangDue s = true ∨ (∃ p ∈ s.net.ports, p.st.works = true ∧ 3 ≤ p.faults) ∨
      (isRef s = false ∧ s.net.offset.isSome = true ∧ s.net.steered = false ∧ s.calSlot.toNat + 1 = c.s) ∨
      (∃ o ∈ s.net.out, o.fly = false ∧ ((o.bcast = none ∧ o.relayed = false ∧ 8 ≤ o.sent) ∨
        ∃ ms q, o.bcast = some ms ∧ q ∈ ms ∧ 8 ≤ countOf o.casts q)) → slotOpen s c = true) ∧
    (s.net.inData = false → (∀ q (o : Port), s.net.ports[q]? = some o → o.st = .draining → ∃ x ∈ s.net.out, q ∈ x.ports) → ∃ s', exec .dataWindowStart s = .next s' ∧ s'.mem = s.mem ∧ s'.groups = s.groups ∧ s'.net.inData = true ∧ s'.calSlot = s.calSlot ∧
      s'.net.ptr = s.net.ptr.map (fun x => (x + 1) % 4) ∧
      (s.net.ports.length = 64 → ∀ e, e < 16 → ((List.range 4).map (fun j => (s'.net.ports.getD (4 * e + j) Port.reset).grant)).sum ≤ 192)) ∧
    (s.net.inData = true ∨ (∃ q o, s.net.ports[q]? = some o ∧ o.st = .draining ∧ ∀ x ∈ s.net.out, q ∉ x.ports) →
      exec .dataWindowStart s = .fault .notEnabled) ∧
    (∀ n, s.net.inData = true → slotOpen s c = false → stagedDue s = some n → ∃ s', exec .generationChange s = .next s' ∧ s'.net.cal = some n ∧ s'.net.staged = none ∧ s'.calSlot = 0 ∧
      s'.calCycle = s.calCycle + 1 ∧ s'.mem = s.mem) ∧
    (s.net.inData = false ∨ slotOpen s c = true ∨ stagedDue s = none → exec .generationChange s = .fault .notEnabled) ∧
    (∀ x, s.net.offset = some x → s.net.steered = false → isRef s = false → ∃ s' y, exec .cycleSteer s = .next s' ∧ s'.net.offset = some y ∧
      s'.net.steered = true ∧ (x - y).natAbs ≤ 250 ∧ (x.natAbs ≤ 250 → y = 0) ∧ s'.mem = s.mem ∧ s'.groups = s.groups) ∧
    (s.net.steered = true ∨ isRef s = true → exec .cycleSteer s = .fault .notEnabled)) ∧
  (∀ (s : State) (port : Nat) (p : Port), s.net.ports[port]? = some p →
    let sets := fun (i : Instr) (p' : Port) => ∃ s', exec i s = .next s' ∧ s'.net.ports[port]? = some p' ∧ s'.groups = s.groups ∧ s'.mem = s.mem
    let comes := fun (i : Instr) (st : PortSt) => ∃ s' p', exec i s = .next s' ∧ s'.net.ports[port]? = some p' ∧ p'.st = st
    let rest := p.need.filter (fun x => x != p.spare.plan)
    (p.spare.st = .tuning → p.st ≠ .training ∨ rest = [] → sets (.ringLocked port) { p with spare := { p.spare with st := .locked }, need := rest }) ∧
    (∀ x xs, p.spare.st = .tuning → p.st = .training → rest = x :: xs →
      sets (.ringLocked port) { p with spare := { st := .tuning, plan := x, tries := 0 }, need := rest }) ∧
    (p.spare.st ≠ .tuning → p.cur.st = .tuning → p.st ≠ .training →
      sets (.ringLocked port) { p with cur := { p.cur with st := .locked }, need := p.need.filter (fun x => x != p.cur.plan) }) ∧
    (p.spare.st ≠ .tuning → p.cur.st ≠ .tuning → exec (.ringLocked port) s = .fault .notEnabled ∧ exec (.tuningTimeout port) s = .fault .notEnabled) ∧
    (∀ c, s.net.cal = some c → p.spare.st = .tuning →
      (p.st = .training → p.need ≠ [] → p.spare.tries < 2 → sets (.tuningTimeout port) { p with spare := { p.spare with tries := p.spare.tries + 1 } }) ∧
      (p.st = .training → p.need ≠ [] → 2 ≤ p.spare.tries → comes (.tuningTimeout port) .failed) ∧
      (p.st ≠ .training → p.spare.tries = 0 → c.guard + 2400 ≤ c.slotLen → sets (.tuningTimeout port) { p with spare := { p.spare with tries := 1 } }) ∧
      (p.st ≠ .training → 0 < p.spare.tries ∨ c.slotLen < c.guard + 2400 →
        sets (.tuningTimeout port) { p with spare := { p.spare with st := .fault }, faults := p.faults + 1 })) ∧
    (p.st.works = true → 3 ≤ p.faults → comes (.portFailed port) .failed) ∧
    (p.faults < 3 ∨ p.st.works = false → exec (.portFailed port) s = .fault .notEnabled) ∧
    (p.st = .draining → s.net.inData = false → (∀ o ∈ s.net.out, port ∉ o.ports) → comes (.portDrained port) .drained) ∧
    (p.st ≠ .draining ∨ s.net.inData = true ∨ (∃ o ∈ s.net.out, port ∈ o.ports) → exec (.portDrained port) s = .fault .notEnabled) ∧
    (p.st = .training → p.need = [] → p.spare.st ≠ .tuning → (portPeers s port).all (fun q => p.seen.contains q) = true → comes (.portTrained port) .active) ∧
    (p.st ≠ .training ∨ p.need ≠ [] → exec (.portTrained port) s = .fault .notEnabled) ∧
    (∀ m, synchronises s port p m = false → verifies s port p m = false → exec (.preamble port m) s = .next s) ∧
    (∀ m c, synchronises s port p m = true → s.net.cal = some c → ∃ s', exec (.preamble port m) s = .next s' ∧ s'.net.synced = true ∧ s'.net.inData = true ∧
      s'.calSlot = BitVec.ofNat 6 ((m.slot + m.elapsed) % c.s) ∧ s'.calCycle = BitVec.ofNat 64 (m.cycle + (m.slot + m.elapsed) / c.s) ∧ s'.mem = s.mem ∧
      s'.groups = s.groups) ∧
    (∀ m, synchronises s port p m = false → verifies s port p m = true → ∃ s' p', exec (.preamble port m) s = .next s' ∧ s'.net.ports[port]? = some p' ∧
      p'.verified = some m.pkg ∧ p'.peerDie = m.port / 16 % 4 ∧ m.pkg ∈ p'.seen ∧ s'.mem = s.mem ∧ s'.groups = s.groups) ∧
    (∀ m, p.verified ≠ some m.src → exec (.ackFlit port m) s = .next s) ∧
    (∀ m, p.verified = some m.src → ∃ s', exec (.ackFlit port m) s = .next s' ∧ s'.mem = s.mem ∧ s'.groups = s.groups ∧
      ∀ o a, o ∈ s.net.out → (∀ x ∈ s.net.out, x.id = o.id → x = o) → o.pkt.hop = m.src → o.bcast = none → 0 < o.sent → o.relayed = false → o.foreign = false →
        o.pkt.transit = false → a ∈ m.acked → o.pkt.cls = a.1 → seqLe o.pkt.seq a.2 = true → ∀ x ∈ s'.net.out, x.id ≠ o.id)) ∧
  (∀ (s : State) (pkg : Nat),
    let late := s.net.out.any (fun o => o.pkt.hop == pkg && o.bcast.isNone && !o.relayed && !o.fly && decide (8 ≤ o.sent))
    (late = true → ∃ s', exec (.cutOff pkg) s = .next s' ∧ pkg ∈ s'.net.cut ∧ s'.mem = s.mem) ∧
    (late = false → exec (.cutOff pkg) s = .fault .notEnabled)) ∧
  (∀ (s : State) (port member : Nat),
    let late := s.net.out.any (fun o => o.bcast.any (fun ms => ms.contains member) && !o.fly && decide (8 ≤ countOf o.casts member)
      && o.ports.contains port)
    (late = true → (port, member) ∉ s.net.dropped → ∃ s', exec (.broadcastMemberDrop port member) s = .next s' ∧ (port, member) ∈ s'.net.dropped ∧
      (∀ o ∈ s'.net.out, ∀ ms, o.bcast = some ms → member ∉ ms ∧ ms ≠ []) ∧ s'.mem = s.mem ∧ s'.groups = s.groups) ∧
    (late = false ∨ (port, member) ∈ s.net.dropped → exec (.broadcastMemberDrop port member) s = .fault .notEnabled))

/-- A packet is accepted by the package it is for: its CRC-32C is right, its body has at most 4,096 bytes, the table of hop sequences takes it in,
and the acknowledgement that is due says so (R375, R376). -/
def Accepted (s : State) (rx : Rx) (s1 : State) : Prop :=
  s.ctl.fatal = false ∧ bodyUnits rx.pkt ≤ 256 ∧ rx.crcOk = true ∧
    (rx.pkt.dst = s.pkgId.toNat ∧ (rx.pkt.transit = true → rx.pkt.src ≠ s.pkgId.toNat) ∨ rx.pkt.transit = false ∧ (curEntry s rx.port).bcast = true) ∧
    ∃ t, nextRx s rx.port rx.pkt = some t ∧ s1 = sendAcks { s with net := { s.net with rx := t } }

/-- Packets (R376, R382, R392–R395, R405, R412, R414): a packet that is not the next of its sender changes nothing but a count; what an owner does
for each request and what it replies, those of one sender and class in the order in which they come (R397); what each reply brings to whoever asked.
That a stopped module ignores packets (log 67), and that a package serves a collective packet of a broadcast slot at each of its dies on the route (log 44),
is the model's choice. -/
def Obligations.PacketsAreServed : Prop :=
  (∀ (s : State) (rx : Rx) (i : Instr) (k : Nat), (i, k) ∈ [(Instr.readRequest rx, 0), (.readReply rx, 1), (.pktWrite rx, 2), (.pktAtomic rx, 3), (.completion rx, 4),
      (.copyUnits rx, 5), (.copyCompletion rx, 6), (.collectiveData rx, 7), (.collectiveAbort rx, 8), (.reduceCopyUnits rx, 11), (.publish rx, 12)] →
    (rx.pkt.kind ≠ k → exec i s = .fault .notEnabled) ∧
    (256 < bodyUnits rx.pkt → exec i s = .fault .notEnabled) ∧
    (rx.pkt.kind = k → bodyUnits rx.pkt ≤ 256 → s.ctl.fatal = true ∨ rx.crcOk = true ∧ nextRx s rx.port rx.pkt = none → exec i s = .next s) ∧
    (rx.pkt.kind = k → bodyUnits rx.pkt ≤ 256 → s.ctl.fatal = false → rx.crcOk = false → ∃ s', exec i s = .next s' ∧ s'.mem = s.mem ∧ s'.groups = s.groups ∧ s'.net.rx = s.net.rx ∧
      ∀ p, s.net.ports[rx.port]? = some p → s'.net.ports[rx.port]? = some { p with crcErr := min (p.crcErr + 1) (2 ^ 32 - 1) })) ∧
  (∀ (s : State) (die : Nat) (p : Packet) (kind cls tag status reason : Nat) (data : List Byte), ∃ o,
    (sendReply s die p kind cls tag status reason data).net.out = s.net.out ++ [o] ∧ o.pkt.src = s.pkgId.toNat ∧ o.pkt.hop = p.src ∧ o.pkt.dst = p.src ∧
      o.pkt.kind = kind ∧ o.pkt.cls = cls ∧ o.pkt.body = .reply status reason tag data ∧ (sendReply s die p kind cls tag status reason data).mem = s.mem ∧
      (sendReply s die p kind cls tag status reason data).groups = s.groups) ∧
  (∀ (s s1 : State) (rx : Rx) (a : DWord) (key sub flags tag : Nat) (data : List Byte), Accepted s rx s1 → rx.pkt.body = .req a key sub flags tag data →
    Memory.wf s.mem = true →
    let k := rx.pkt
    let answers := fun (i : Instr) (s2 : State) (kind status reason : Nat) (bs : List Byte) =>
      exec i s = .next (sendReply s2 k.die k kind k.cls tag status reason bs)
    let place := fun (p : Perm) => (keyAsid s1 key).map (fun asid => (asid, translate s1 (addrDie a) asid (addrOff a) p))
    let wrote := fun (s2 : State) (at_ : Nat) (bs : List Byte) => ∀ b, memByte s2.mem b =
      if at_ ≤ b ∧ b < at_ + bs.length then bs.getD (b - at_) 0 else memByte s.mem b
    (k.transit = false → (∃ x ∈ s1.flips, x.src = k.src ∧ x.cls = k.cls) → ∀ i n, (i, n) ∈ [(Instr.readRequest rx, 0), (.pktWrite rx, 2), (.pktAtomic rx, 3),
      (.copyUnits rx, 5), (.reduceCopyUnits rx, 11), (.publish rx, 12)] → k.kind = n → exec i s = .fault .notEnabled) ∧
    (k.transit = true ∨ (∀ x ∈ s1.flips, x.src ≠ k.src ∨ x.cls ≠ k.cls) →
    (keyAsid s1 key = none → (k.kind = 0 → answers (.readRequest rx) s1 1 7 6 []) ∧ (k.kind = 2 → answers (.pktWrite rx) s1 4 7 6 []) ∧
      (k.kind = 3 → answers (.pktAtomic rx) s1 4 7 6 []) ∧ (k.kind = 12 → answers (.publish rx) s1 4 7 6 [])) ∧
    (∀ asid d, place .read = some (asid, .error d) → k.kind = 0 → ∃ s2, answers (.readRequest rx) s2 1 d.cause d.detail [] ∧ s2.mem = s.mem) ∧
    (∀ asid d, place .write = some (asid, .error d) → k.kind = 2 → ∃ s2, answers (.pktWrite rx) s2 4 d.cause d.detail [] ∧ s2.mem = s.mem) ∧
    (∀ asid lvl e, place .read = some (asid, .ok (lvl, e)) → k.kind = 0 →
      let n := if flags / 8 % 2 = 1 then 16 * sub else sizeBytes sub
      let at_ := hbmKey (addrDie a) (physOf lvl e (addrOff a))
      (poisoned s at_ n = false → ∃ s2, answers (.readRequest rx) s2 1 0 0 (memRead s.mem n at_) ∧ s2.mem = s.mem) ∧
      (poisoned s at_ n = true → ∃ s2, answers (.readRequest rx) s2 1 0x0C 0 [] ∧ s2.mem = s.mem)) ∧
    (∀ asid lvl e, place .write = some (asid, .ok (lvl, e)) →
      let at_ := hbmKey (addrDie a) (physOf lvl e (addrOff a))
      (k.kind = 2 → ∃ s2, answers (.pktWrite rx) s2 4 0 0 [] ∧ wrote s2 at_ data) ∧
      (k.kind = 3 →
        let m := sub % 16
        let n := if m = 12 ∨ m = 13 ∨ m = 14 then 8 else 4
        let old := readNat s at_ n
        poisoned s at_ n = false → ∃ s2, answers (.pktAtomic rx) s2 4 0 0 (bytesOf n old) ∧
          (∀ y, atomicNew m old (wordsOf (data.length / 4) (ofBytes data)) = some y → wrote s2 at_ (bytesOf n y)) ∧
          (atomicNew m old (wordsOf (data.length / 4) (ofBytes data)) = none → s2.mem = s.mem)) ∧
      (k.kind = 5 → sub = 1 → flags / 8 % 2 = 0 → data.length = 16 → ∃ s2, answers (.copyUnits rx) s2 6 0 0 [] ∧ wrote s2 at_ data) ∧
      (k.kind = 11 → sub = 1 → data.length = 16 → poisoned s at_ 16 = false → ∃ s2, answers (.reduceCopyUnits rx) s2 6 0 0 [] ∧
        wrote s2 at_ (combineBytes (flags % 16) (flags / 16 % 8) (memRead s.mem 16 at_) data))) ∧
    (∀ asid d, place .read = some (asid, .error d) → k.kind = 12 → ∃ s2, answers (.publish rx) s2 4 d.cause d.detail [] ∧ s2.mem = s.mem) ∧
    (∀ asid lvl e, place .read = some (asid, .ok (lvl, e)) → k.kind = 12 →
      (leafSC e = false → answers (.publish rx) s1 4 7 4 []) ∧
      (leafSC e = true → pageBusy s1 asid (addrDie a) (addrOff a) lvl = true → exec (.publish rx) s = .next { s1 with
        nextId := s1.nextId + 1, flips := s1.flips ++ [{ id := s1.nextId, die := addrDie a, asid := asid, addr := a, src := k.src, cls := k.cls, tag := tag }] }) ∧
      (leafSC e = true → pageBusy s1 asid (addrDie a) (addrOff a) lvl = false → ∃ s2, answers (.publish rx) s2 4 0 0 [] ∧ s2.flips = s.flips ∧
        ∀ at_, leafKey s1 (addrDie a) (addrOff a) 4 1 (rootOf s1 (addrDie a) asid) = some at_ →
          wrote s2 at_ [BitVec.ofNat 8 (readNat s at_ 1 % 2 ^ 7 + if leafSS e = true then 0 else 2 ^ 7)])))) ∧
  (∀ (s s1 : State) (rx : Rx), Accepted s rx s1 → 13 ≤ rx.pkt.kind → exec (.reservedPacket rx) s = .next s1) ∧
  (∀ (s s1 : State) (rx : Rx) (status reason tag : Nat) (data : List Byte), Accepted s rx s1 → rx.pkt.body = .reply status reason tag data →
    (pendOf s1 tag = none → flightOf s1 tag = none → (rx.pkt.kind = 1 → exec (.readReply rx) s = .next s1) ∧ (rx.pkt.kind = 6 → exec (.copyCompletion rx) s = .next s1)) ∧
    (∀ t p, pendOf s1 tag = some (t, p) →
      (status ≠ 0 → let refused := s1.modThread t (fun th => th.refuse p (p.trap status reason))
        (rx.pkt.kind = 1 → exec (.readReply rx) s = .next refused) ∧ (rx.pkt.kind = 4 → exec (.completion rx) s = .next refused)) ∧
      (∀ z c, status = 0 → rx.pkt.kind = 1 → p.op = .load z false c → ∃ s', exec (.readReply rx) s = .next s' ∧ s'.mem = s.mem ∧
        ∀ q, s.pend? t p.id = some q → s'.pend? t p.id = some { q with st := .ready ((loadWords z data).map some) }) ∧
      (∀ d rel, status = 0 → rx.pkt.kind = 4 → p.op = .store d rel → ∃ s', exec (.completion rx) s = .next s' ∧ s'.mem = s.mem ∧ s'.pend? t p.id = none)) ∧
    (∀ c f l g, pendOf s1 tag = none → flightOf s1 tag = some (c, f) → status = 0 → copyCtx s1 c = some (l, g) →
      (rx.pkt.kind = 6 → exec (.copyCompletion rx) s = .next (unitDone s1 l g c f.unit)) ∧
      (rx.pkt.kind = 1 → c.consumes = false → exec (.readReply rx) s = .next (s1.putCopy
        ({ c with srcOk := f.unit :: c.srcOk }.fly { f with sent := false, data := some data }))))) ∧
  (∀ (s s1 : State) (rx : Rx) (h : CollHdr) (x : List Byte), Accepted s rx s1 → rx.pkt.kind = 7 → rx.pkt.body = .coll h x →
    let s2 := { s1 with heldColl := s1.heldColl ++ [{ die := rx.pkt.die, hdr := h, data := x }] }
    ((curEntry s1 rx.port).bcast = false →
      (s1.colls.find? (fun c => c.takes rx.pkt.die h) = none → exec (.collectiveData rx) s = .next s2) ∧
      (∀ c, s1.colls.find? (fun c => c.takes rx.pkt.die h) = some c →
        (c.st ≠ .running ∨ c.agrees h = false → exec (.collectiveData rx) s = .next s2) ∧
        (c.st = .running → c.agrees h = true → exec (.collectiveData rx) s = .next ((runColl s2 c).getD s2)))) ∧
    ((curEntry s1 rx.port).bcast = true →
      ((∀ e ∈ h.route, mbPkg e ≠ s.pkgId.toNat) → exec (.collectiveData rx) s = .next s1) ∧
      (∀ e, h.route.filter (fun e => mbPkg e == s.pkgId.toNat) = [e] →
        let h1 := { h with route := [e % 4096 + 4 * 4096] }
        s1.colls.find? (fun c => c.takes (mbDie e) h1) = none →
          exec (.collectiveData rx) s = .next { s1 with heldColl := s1.heldColl ++ [{ die := mbDie e, hdr := h1, data := x }] }))) ∧
  (∀ (s s1 : State) (rx : Rx) (group cseq key code : Nat), Accepted s rx s1 → rx.pkt.kind = 8 → rx.pkt.body = .collAbort group cseq key code →
    exec (.collectiveAbort rx) s = .next (abortAt s1 rx.pkt.die group cseq key code)) ∧
  (∀ (s s1 : State) (rx : Rx) (m : BarMsg), Accepted s rx s1 → rx.pkt.kind = 10 → rx.pkt.body = .bar m →
    (m.release = false →
      exec (.barrierRelease rx) s = .fault .notEnabled ∧ (s1.gang? m.gang = none → exec (.barrierArrive rx) s = .next s1) ∧
      (∀ g l, s1.gang? m.gang = some g → s1.launch? g.launch = some l →
        let a : BarArr := { gang := m.gang, level := m.level, set := m.set, phase := m.phase, rank := g.members.findIdx (fun x => x == rx.pkt.src) }
        exec (.barrierArrive rx) s = .next (barRelease (if s1.barArr.contains a = true then s1 else { s1 with barArr := a :: s1.barArr }) g l m.level m.set m.phase))) ∧
    (m.release = true →
      exec (.barrierArrive rx) s = .fault .notEnabled ∧
      (∀ l, (s1.gang? m.gang).bind (fun g => s1.launch? g.launch) = some l →
        (phaseCount l m.level m.set ≠ m.phase → exec (.barrierRelease rx) s = .next s1) ∧
        (phaseCount l m.level m.set = m.phase → exec (.barrierRelease rx) s = .next (completePhase { s1 with
          barArr := s1.barArr.filter (fun a => !(a.gang == m.gang && a.level == m.level && a.set == m.set && a.phase == m.phase)) } l m.level m.set m.phase)))))

/-- Gangs (R403–R406, R444): the member's check and answer, GO from rank 0 with the last acceptance, refusal, cancellation, abort, the two
timeouts, the ACCEPT and the GO that come after them, and what DONE leaves at rank 0. -/
def Obligations.GangsAgree : Prop :=
  (∀ (s s1 : State) (rx : Rx) (m : GangMsg), Accepted s rx s1 → rx.pkt.kind = 9 → rx.pkt.body = .gang m →
    (∀ i w, (i, w) ∈ [(Instr.gangStart rx, 0), (.gangAccept rx, 1), (.gangRefuse rx, 2), (.gangGo rx, 3), (.gangCancel rx, 4), (.gangAbort rx, 5), (.gangDone rx, 6)] →
      (m.what ≠ w → exec i s = .fault .notEnabled) ∧ (m.what = w → w ∈ [1, 2, 4, 5] → s1.gang? m.gang = none → exec i s = .next s1)) ∧
    (m.what = 0 →
      let die := addrDie m.header
      let refuses := fun (s2 : State) (code : Nat) => exec (.gangStart rx) s = .next (sendGang s2 die rx.pkt.src { gangMsg 2 m.gang with
        rank := m.rank, code := code })
      (keyAsid s1 m.key = none → refuses s1 5) ∧
      (∀ asid, keyAsid s1 m.key = some asid →
        let r : LaunchReq := { header := m.header, argp := m.argp, T := m.teams, prio := none, asid := asid, podKey := m.key, P := m.members.length,
                               rank := m.rank, gang := true, depth := 0, parent := none }
        let code := checkLaunch s1 die (readHeader s1 asid m.header) r
        (code ≠ 0 → refuses (countHeader s1 asid m.header) code) ∧
        (code = 0 → ∃ s' l g, exec (.gangStart rx) s = .next s' ∧ s'.launches = s1.launches ++ [l] ∧ s'.gangs = s1.gangs ++ [g] ∧ s'.mem = s1.mem ∧
          l.ref = g.launch ∧ l.ref.die = die ∧ l.T = m.teams ∧ l.P = m.members.length ∧ l.rank = m.rank ∧ l.podKey = m.key ∧ l.asid = asid ∧ l.state = 1 ∧
          g.gid = m.gang ∧ g.members = m.members ∧ g.rank = m.rank ∧ g.go = none ∧ g.c0 = s1.calCycle.toNat))) ∧
    (∀ g, s1.gang? m.gang = some g →
      (m.what = 1 → g.go = none → g.rank = 0 → s1.calCycle.toNat < g.c0 + 8 →
        let acc := if g.accepts.contains m.rank = true then g.accepts else m.rank :: g.accepts
        let all := acc.length + 1 = g.members.length
        ∃ s', exec (.gangAccept rx) s = .next s' ∧ s'.mem = s1.mem ∧ s'.launches = s1.launches ∧
          s'.gang? m.gang = some { g with accepts := acc, go := if all then some (s1.calCycle.toNat + 2) else none } ∧
          (all → ∀ k pkg, g.members[k]? = some pkg → k ≠ g.rank → reachable s1 pkg = true → ∃ o ∈ s'.net.late, o.pkt.dst = pkg ∧
            o.pkt.body = .gang { gangMsg 3 g.gid with rank := k, cycle := s1.calCycle.toNat + 2 })) ∧
      (m.what = 1 → g.c0 + 8 ≤ s1.calCycle.toNat → exec (.gangAccept rx) s = .next s1) ∧
      (m.what = 1 ∨ m.what = 2 → g.go.isSome = true ∨ g.rank ≠ 0 → ∀ i ∈ [if m.what = 1 then Instr.gangAccept rx else .gangRefuse rx], exec i s = .next s1) ∧
      (m.what = 2 → g.go = none → g.rank = 0 → ∃ s2, exec (.gangRefuse rx) s = .next (launchDone s2 g.launch (BitVec.ofNat 32 (4 * 2 ^ 8 + m.code))) ∧
        s2.launches = s1.launches.filter (fun l => l.ref != g.launch) ∧ s2.gangs = s1.gangs.filter (fun x => x.launch != g.launch) ∧ s2.mem = s1.mem) ∧
      (m.what = 3 → g.rank ≠ 0 → g.go = none → s1.calCycle.toNat < g.c0 + 16 → ∃ s', exec (.gangGo rx) s = .next s' ∧ s'.gang? m.gang = some { g with go := some m.cycle } ∧ s'.mem = s1.mem ∧
        s'.launches = s1.launches) ∧
      (m.what = 3 → g.rank = 0 ∨ g.go.isSome = true ∨ g.c0 + 16 ≤ s1.calCycle.toNat → ∃ s', exec (.gangGo rx) s = .next s' ∧ s'.gang? m.gang = some g ∧
        s'.mem = s1.mem ∧ s'.launches = s1.launches) ∧
      (m.what = 4 → g.rank ≠ 0 → g.go = none → ∃ s', exec (.gangCancel rx) s = .next s' ∧ s'.launches = s1.launches.filter (fun l => l.ref != g.launch) ∧
        s'.gangs = s1.gangs.filter (fun x => x.launch != g.launch) ∧ s'.mem = s1.mem) ∧
      (m.what = 4 → g.rank = 0 ∨ g.go.isSome = true → exec (.gangCancel rx) s = .next s1) ∧
      (m.what = 5 → exec (.gangAbort rx) s = .next (if g.ended.isSome = true then s1 else abortLaunch s1 g.launch)) ∧
      (m.what = 6 → g.rank = 0 → g.ended = none → g.dones.all (fun d => d.1 != m.rank) = true → s1.barArr = [] → ∃ s', exec (.gangDone rx) s = .next s' ∧
        s'.gang? m.gang = some { g with dones := g.dones ++ [(m.rank, m.code, m.leak)] } ∧ s'.mem = s1.mem ∧ s'.launches = s1.launches))) ∧
  (∀ (s : State) (gid : GangId) (g : Gang) (code leak : Nat), s.gang? gid = some g → g.ended = some (code, leak) →
    let others := (List.range g.members.length).filter (fun k => k != 0)
    let part := fun (k : Nat) => g.dones.find? (fun d => d.1 == k)
    (others.any (fun k => (part k).isNone) = true → endGang s gid = s) ∧
    (others.all (fun k => (part k).isSome) = true → ∃ s1, endGang s gid = discardPart s1 g.launch ∧
      ({ s1 with barArr := s.barArr } : State) = launchDone s g.launch (BitVec.ofNat 32 (
        min (leak + (others.map (fun k => ((part k).map (fun d => d.2.2)).getD 0)).sum) 65535 * 2 ^ 16 + 3 * 2 ^ 8 +
        ((code :: others.map (fun k => ((part k).map (fun d => d.2.1)).getD 0)).find? (fun c => c != 0)).getD 0)))) ∧
  (∀ (s : State) (ref : LRef) (g : Gang), s.gangOf ref = some g →
    (g.rank = 0 → g.go = none → g.c0 + 8 ≤ s.calCycle.toNat → ∃ s2, exec (.gangStartTimeout ref) s = .next (launchDone s2 ref (BitVec.ofNat 32 (3 * 2 ^ 8 + 8))) ∧
      s2.launches = s.launches.filter (fun l => l.ref != ref) ∧ s2.gangs = s.gangs.filter (fun x => x.launch != ref) ∧ s2.mem = s.mem) ∧
    (g.rank ≠ 0 ∨ g.go.isSome = true ∨ s.calCycle.toNat < g.c0 + 8 → exec (.gangStartTimeout ref) s = .fault .notEnabled) ∧
    (g.rank ≠ 0 → g.go = none → g.c0 + 16 ≤ s.calCycle.toNat → ∃ s', exec (.gangDiscardTimeout ref) s = .next s' ∧ s'.mem = s.mem ∧
      s'.launches = s.launches.filter (fun l => l.ref != ref) ∧ s'.gangs = s.gangs.filter (fun x => x.launch != ref)) ∧
    (g.rank = 0 ∨ g.go.isSome = true ∨ s.calCycle.toNat < g.c0 + 16 → exec (.gangDiscardTimeout ref) s = .fault .notEnabled))

/-- What reaches the part from outside (R5, R16, R162, R177, R344, R355–R357, R363, R427–R430, R435–R437, R440, R442): doorbells, register
writes and who may make them, BAR4, module reset and bring-up, the clock, coolant, links, host memory that does not answer, errors. The model's choices
among them: what RESULT is after an access (log 65), what a register write does in a stopped module and before stage 1 (log 67), that a failed measurement
of firmware enters recovery (log 68), and what a module reset keeps (log 69). -/
def Obligations.TheOutsideActs : Prop :=
  (∀ (s : State) (q : Nat) (x : Word) (c : CQueue), s.queues[q]? = some c → q < 16 → ∃ s', exec (.doorbell q x) s = .next s' ∧
    s'.queues[q]? = some { c with avail := x } ∧ (∀ j, j ≠ q → s'.queues[j]? = s.queues[j]?) ∧ s'.mem = s.mem ∧ s'.groups = s.groups) ∧
  (∀ (s : State) (a : Agent) (off : Nat) (v : Word), off < 2 ^ 24 → off % 4 = 0 → exec (.registerWrite a off v) s = .next (writeReg s a off v)) ∧
  (∀ (s : State) (a : Agent) (v : Word), exec (.tlbinv a v) s = .next (writeReg s a 0x20 v) ∧ exec (.resetWrite a v) s = .next (writeReg s a 0x24 v) ∧
    ∀ die, die < 4 → exec (.abortWrite a die v) s = .next (writeReg s a (0x10014 + 0x1000 * die) v) ∧
      exec (.dbgData a die v) s = .next (writeReg s a (0x20014 + 0x1000 * die) v) ∧
      (bit v 30 = true → exec (.dbgHalt a die v) s = .next (writeReg s a (0x20000 + 0x1000 * die) v)) ∧
      (bit v 31 = true → exec (.dbgGo a die v) s = .next (writeReg s a (0x20000 + 0x1000 * die) v)) ∧
      (bit v 26 = true → exec (.dbgStep a die v) s = .next (writeReg s a (0x20000 + 0x1000 * die) v))) ∧
  (∀ (s : State) (a : Agent) (die : Nat) (v : Word) (d : DieRegs), die < 4 → s.dies[die]? = some d → s.ctl.fatal = false → 1 ≤ s.ctl.stage →
    (s.ctl.owner = a.code →
      (writeReg s a (0x10000 + 0x1000 * die) v).dies[die]? = some { d with preQuantum := BitVec.ofNat 20 v.toNat } ∧
      (writeReg s a (0x10008 + 0x1000 * die) v).dies[die]? = some { d with preSaves := d.preSaves &&& ~~~v } ∧
      writeReg s a (0x10014 + 0x1000 * die) v = abortLaunch s { die := die, id := v.toNat } ∧
      (s.ctl.tlbBusy = false → (writeReg s a 0x20 v).ctl = { s.ctl with tlbBusy := true, tlbAt := s.ctl.tlbAddr, tlbAll := bit v 30, tlbAsid := BitVec.ofNat 8 v.toNat }) ∧
      (s.ctl.tlbBusy = true → writeReg s a 0x20 v = s) ∧
      (v = 0x4D525354 → writeReg s a 0x24 v = resetModule s) ∧ (v ≠ 0x4D525354 → writeReg s a 0x24 v = s)) ∧
    (s.ctl.owner ≠ a.code → s.ctl.owner ≠ 3 ∨ a ≠ .host → (∀ off, off < 0x20000 ∨ 0x24000 ≤ off → writeReg s a off v = s) ∧
      (writeReg s a (0x20004 + 0x1000 * die) v).dies[die]? = some { d with dbgResult := 4 })) ∧
  (∀ (s : State) (a : Agent) (off : Nat) (v : Word), s.ctl.fatal = true → off ≠ 0x24 → writeReg s a off v = s) ∧
  (∀ (s : State) (die : Nat) (v : Word), bit v 31 = false → bit v 26 = false → bit v 30 = true →
    let s1 := s.modDie die (fun d => { d with dbgScope := BitVec.ofNat 2 (bits v 29 28), dbgBrkArm := bit v 27, dbgResult := 0 })
    ∀ t th, t ∈ scopeThreads s1 die → s.thread? t = some th → th.halted = false → th.exited = false → (s.ofThread t).isSome = true → ∃ th', (writeDbgCtl s die v).thread? t = some th' ∧
      th'.halted = true ∧ th'.why = 1 ∧ th'.pc = th.pc ∧ th'.regs = th.regs ∧ th'.preds = th.preds) ∧
  (∀ (s : State), (s.ctl.tlbBusy = false → exec .tlbinvComplete s = .fault .notEnabled) ∧
    (s.ctl.tlbBusy = true → s.ctl.tlbAll = true → asidBusy s s.ctl.tlbAsid.toNat = false → ∃ s', exec .tlbinvComplete s = .next s' ∧ s'.ctl.tlbBusy = false ∧
      (∀ m, m ∈ s'.mtlb ↔ m ∈ s.mtlb ∧ m.asid ≠ s.ctl.tlbAsid.toNat) ∧ (∀ x ∈ s'.l1 ++ s'.rdc, x.asid ≠ s.ctl.tlbAsid.toNat) ∧ s'.mem = s.mem ∧
      s'.groups = s.groups) ∧
    (s.ctl.tlbBusy = true → s.ctl.tlbAll = false → pageBusy s s.ctl.tlbAsid.toNat (addrDie s.ctl.tlbAt) (addrOff s.ctl.tlbAt) 2 = false →
      ∃ s', exec .tlbinvComplete s = .next s' ∧ s'.ctl.tlbBusy = false ∧ s'.mem = s.mem ∧ s'.groups = s.groups ∧
      ∀ m ∈ s'.mtlb, ¬ (m.die = addrDie s.ctl.tlbAt ∧ m.asid = s.ctl.tlbAsid.toNat ∧ m.page = addrOff s.ctl.tlbAt / 2 ^ pageBits m.lvl))) ∧
  (∀ (s : State) (off n : Nat) (data : List Byte), bar4Form off n = true → data.length = n → s.ctl.fatal = false → s.ctl.recovery = false →
    let a := s.ctl.bar4Base + BitVec.ofNat 64 off
    let asid := s.ctl.bar4Asid.toNat
    (s.ctl.bar4En = false → ∃ s', exec (.bar4Read off n) s = .next s' ∧ s'.bar4 = { status := 2, data := [] } ∧ s'.mem = s.mem ∧
      exec (.bar4Write off data) s = .next (s.modCtl (fun c => { c with bar4Faults := satAdd c.bar4Faults 1 }))) ∧
    (s.ctl.bar4En = true →
      (∀ lvl e, translate s (addrDie a) asid (addrOff a) .read = .ok (lvl, e) →
        let k := hbmKey (addrDie a) (physOf lvl e (addrOff a))
        ∃ s', exec (.bar4Read off n) s = .next s' ∧ s'.bar4 = { status := if poisoned s k n = true then 3 else 1, data := memRead s.mem n k } ∧ s'.mem = s.mem ∧
          s'.groups = s.groups) ∧
      (∀ lvl e, translate s (addrDie a) asid (addrOff a) .write = .ok (lvl, e) → Memory.wf s.mem = true →
        let k := hbmKey (addrDie a) (physOf lvl e (addrOff a))
        ∃ s', exec (.bar4Write off data) s = .next s' ∧ (∀ b, memByte s'.mem b = if k ≤ b ∧ b < k + n then data.getD (b - k) 0 else memByte s.mem b)))) ∧
  (∀ (s : State), exec .moduleReset s = .next (resetModule s) ∧ (resetModule s).mem = s.mem ∧ (resetModule s).groups = [] ∧ (resetModule s).launches = [] ∧
    let c := s.ctl
    (resetModule s).ctl = { State.reset.ctl with flash := c.flash, config := c.flash, fwSigned := c.fwSigned, idPriv := c.idPriv, idPub := c.idPub, chain := c.chain } ∧
    (resetModule s).queues = State.reset.queues ∧ (resetModule s).net.tx = s.net.tx ∧ (resetModule s).net.rx = s.net.rx) ∧
  (∀ (s : State), s.ctl.stage < 7 → s.ctl.fatal = false → s.ctl.recovery = false →
    let told := s.ctl.measured ++ stageDigests s s.ctl.stage
    let checked := s.ctl.stage = 0 ∨ s.ctl.stage = 1 ∨ s.ctl.stage = 5
    let good := if s.ctl.stage = 0 then s.ctl.fwSigned.1 else if s.ctl.stage = 1 then recordOk s.ctl.config else s.ctl.fwSigned.2
    (¬ checked ∨ good = true → ∃ s', exec (.bringUpStage true) s = .next s' ∧
      s'.ctl = { s.ctl with stage := s.ctl.stage + 1, measured := told } ∧ (s.ctl.stage ≠ 3 → s'.mem = s.mem) ∧
      (s.ctl.stage = 3 → Memory.wf s.mem = true → ∀ a, memByte s'.mem a = if isHbm a = true then 0 else memByte s.mem a)) ∧
    (checked → good = false → ∃ s', exec (.bringUpStage false) s = .next s' ∧ s'.ctl = { s.ctl with recovery := true, measured := told } ∧ s'.mem = s.mem) ∧
    (∀ ok, checked → ok ≠ good → exec (.bringUpStage ok) s = .fault .notEnabled) ∧
    (∀ k cause, (k, cause) ∈ [(2, 1), (3, 3)] → s.ctl.stage = k → ∃ s0, exec (.bringUpStage false) s = .next (setFatal s0 cause) ∧ s0.mem = s.mem ∧
      s0.ctl = { s.ctl with measured := told })) ∧
  (∀ (s : State), s.ctl.fatal = false → exec .linkFailure s = .next (setFatal s 1) ∧
    let bad := 500 < s.ctl.inlet.toNat ∨ ∃ t, s.ctl.lowSince = some t ∧ t + 10 ^ 9 ≤ s.ns
    (bad → exec .coolantFatal s = .next (setFatal s 2)) ∧ (¬ bad → exec .coolantFatal s = .fault .notEnabled)) ∧
  (∀ (s : State), s.ctl.fatal = true → exec .coolantFatal s = .fault .notEnabled ∧ exec .linkFailure s = .fault .notEnabled ∧
    ∀ ok, exec (.bringUpStage ok) s = .fault .notEnabled) ∧
  (∀ (s : State) (cause : Nat), (setFatal s cause).ctl = { s.ctl with fatal := true, cause := cause } ∧ (setFatal s cause).mem = s.mem ∧
    (setFatal s cause).groups = [] ∧ (setFatal s cause).launches = [] ∧ (setFatal s cause).cmds = []) ∧
  (∀ (s : State) (up : Bool),
    let f := if up = true then s.ctl.clkNow.toNat + 100 else s.ctl.clkNow.toNat - 100
    let good := s.ctl.inlet.toNat ≤ 400 ∧ 300 ≤ s.ctl.flow.toNat
    (900 ≤ f → f ≤ 1800 → (up = true → good) → ∃ s', exec (.clockStep up) s = .next s' ∧ s'.ctl.clkNow.toNat = f ∧
      s'.ctl.clkSteps.toNat = min (s.ctl.clkSteps.toNat + 1) (2 ^ 32 - 1) ∧ s'.mem = s.mem ∧ s'.groups = s.groups) ∧
    (f < 900 ∨ 1800 < f ∨ (up = true ∧ ¬ good) → exec (.clockStep up) s = .fault .notEnabled)) ∧
  (∀ (s : State) (t : Tid) (id : Nat) (p : Pend), s.pend? t id = some p → p.bound = false →
    (p.loc = some .host → exec (.completionTimeout t id) s = .next (s.modThread t (fun th => th.refuse p (p.trap 0x06 3)))) ∧
    (p.loc ≠ some .host → exec (.completionTimeout t id) s = .fault .notEnabled)) ∧
  (∀ (s : State) (t : Tid) (id : Nat), s.pend? t id = none →
    (∀ c, s.copies.find? (fun c => c.id == id && c.t == t) = some c →
      let waits := c.st = .running ∧ c.fail = 0 ∧ (addrTag c.src = 2 ∧ c.srcOk.length < c.units ∨ addrTag c.dst = 2 ∧ c.done.length < c.units)
      (waits → exec (.completionTimeout t id) s = .next { s with copies := s.copies.map (fun x => if x.id = id then { x with fail := 9 } else x) }) ∧
      (¬ waits → exec (.completionTimeout t id) s = .fault .notEnabled)) ∧
    (∀ c done, s.copies.find? (fun c => c.id == id && c.t == t) = none → s.cmds.find? (fun c => c.id == id) = some c → c.wait = .copy done →
      (addrTag (c.ptr 0x08) = 2 ∨ addrTag (c.ptr 0x10) = 2 → exec (.completionTimeout t id) s = .next (completeCmd s c 0 0 9)) ∧
      (addrTag (c.ptr 0x08) ≠ 2 → addrTag (c.ptr 0x10) ≠ 2 → exec (.completionTimeout t id) s = .fault .notEnabled))) ∧
  (∀ (s : State) (key : Nat), key < 2 ^ 39 ∨ isHost key = true → ∃ s', exec (.unitPoisoned key) s = .next s' ∧ poisoned s' key 1 = true ∧ s'.mem = s.mem ∧ s'.groups = s.groups ∧
    ∀ a, a / 64 ≠ key / 64 → poisoned s' a 1 = poisoned s a 1)

/-- Encode, then decode (R39–R46): the word of every well-formed instruction decodes to that instruction, with every operand at every value. -/
def Obligations.DecodeEncodeAgree : Prop :=
  ∀ (i : Instr) (w : Word) (rest : List Byte), i.wf = true → encode i = some w →
    decodeWord w = .ok i ∧ decodeBytes (wordBytes w ++ rest) = .ok (i, rest) ∧ decodeTableWord 32 w.toNat = some i

/-- Decode, then encode (R42, R46): a word that decodes is the word of what it decodes to, so that no bit of an instruction is ignored and no two
words are one instruction; what it decodes to is well-formed. -/
def Obligations.NoBitIsIgnored : Prop :=
  ∀ (w : Word) (i : Instr), decodeWord w = .ok i → i.wf = true ∧ encode i = some w

/-- Words written out from the encodings of the spec (R40–R48) decode to their instructions; reserved words are rejected under the reason that
R46 gives them. -/
def Obligations.DecodedWords : Prop :=
  (∀ p ∈ ([(0x00000000, .nop false), (0x80000000, .nop true), (0x06508205, .icmpLt false 2 2 4 5), (0xC0229404, .ld true 8 82 4 4),
      (0x02028408, .add false 10 8 8), (0x38D01800, .pblk 3 2 3), (0x08285001, .addi false 10 10 1), (0x16280000, .movw false 10 0),
      (0x31FFFFFA, .br false 0x1FFFFFA)] : List (Word × Instr)), decodeWord p.1 = .ok p.2) ∧
  decodeWord 0xFFFFFFFF = .error { reason := 1 } ∧ decodeWord 0x40000700 = .error { reason := 3 } ∧
  (∀ w : Word, w.toNat / 2 ^ 25 % 2 ^ 6 ∈ [0x1E, 0x1F, 0x2C, 0x2D, 0x2E, 0x2F, 0x38, 0x39, 0x3A, 0x3B, 0x3C, 0x3D, 0x3E, 0x3F] →
    decodeWord w = .error { reason := 1 }) ∧
  (∀ w : Word, w.toNat / 2 ^ 21 % 2 ^ 10 = 0 → w.toNat % 2 ^ 21 ≠ 0 → decodeWord w = .error { reason := 5 }) ∧
  (∀ w : Word, w.toNat / 2 ^ 25 % 2 ^ 6 = 0x03 → w.toNat / 2 ^ 21 % 2 ^ 4 = 15 → decodeWord w = .error { reason := 2 }) ∧
  (∀ w : Word, w.toNat / 2 ^ 25 % 2 ^ 6 = 0x1C → w.toNat % 2 ^ 11 ≠ 0 → decodeWord w = .error { reason := 5 }) ∧
  (∀ w : Word, w.toNat / 2 ^ 25 % 2 ^ 6 = 0x0A → 10 ≤ w.toNat / 2 ^ 21 % 2 ^ 4 → decodeWord w = .error { reason := 4 })

/-- A step runs the decoded instruction (R29, R140–R143): the next member of the constellation issues the word that was fetched for it; a
constellation forms from the word at the anchor's PC and holds only threads at that PC; an event of the agenda is its own step. That the members of a constellation issue one a step is the model's choice (log 56). -/
def Obligations.StepRunsDecoded : Prop :=
  (∀ (s : State) (t : Tid) (rest : List Tid) (th : Thread) (w : Word), s.cons = t :: rest → s.thread? t = some th → th.fetched = some w →
    (∀ i, decodeWord w = .ok i → step s = settle (exec i { s with cons := rest, cur := some t })) ∧
    (∀ r, decodeWord w = .error r → step s = settle (exec (.notAnInstruction w r.reason) { s with cons := rest, cur := some t }))) ∧
  (∀ (s : State) (i : Instr) (rest : List Next), s.cons = [] → s.agenda = .event i :: rest → step s = settle (exec i { s with agenda := rest, cur := none })) ∧
  (∀ (s : State) (quad : Nat) (rest : List Next) (t : Tid) (l : Launch) (g : Group) (th : Thread) (w : Word), s.cons = [] → s.agenda = .pick quad :: rest →
    let s0 : State := { s with agenda := rest }
    let order := refreshAge s0
    let s1 : State := { s0 with age := order }
    order.find? (fun u => quadOf s0 u == some quad) = some t → s0.ofThread t = some (l, g) → s0.thread? t = some th → th.fetched = none →
    fetchWord s1 l g.core th = .ok w →
    let s2 := formConstellation (fetchFill s1 l g.core th.pc) order t w
    step s = runIssue exec s2 ∧ (∀ u, u ∈ s2.cons → u = t ∨ gathers (fetchFill s1 l g.core th.pc) t u = true) ∧
      ∀ u x, u ∈ s2.cons → s2.thread? u = some x → x.fetched = some w) ∧
  (∀ (s : State) (quad : Nat) (rest : List Next), s.cons = [] → s.agenda = .pick quad :: rest → pick { s with agenda := rest } (some quad) = none →
    step s = .fault .notEnabled)

/-- Every instruction word goes on (R35, R36, R47): it has its effect, traps or waits; a word that its predicate block skips only moves its thread past
it, and no other thread, group or byte changes. -/
def Obligations.WordsGoOn : Prop :=
  (∀ (s : State) (i : Instr) (w : Word), encode i = some w → ∃ s', exec i s = .next s') ∧
  (∀ (s : State) (c : Ctx) (i : Instr) (w : Word), Skips s c → encode i = some w → w.toNat / 2 ^ 25 % 2 ^ 6 ∉ [0x18, 0x19, 0x1A, 0x1B, 0x1C] →
    exec i s = .next (past s c.t (w.getLsbD 31)))

/-- The module right after reset (R26, R94, R367, R426–R436): no owner, stage 0, no launch, no thread, no address space; every queue disabled; every
port dark; nothing in memory has been written. Where the spec gives a register no reset value, 0 is the model's choice (log 4), as is that memory reads 0
before anything has been written (log 1). -/
def Obligations.ResetState : Prop :=
  MachineInv State.reset ∧ State.reset.ctl.owner = 3 ∧ State.reset.ctl.stage = 0 ∧ State.reset.ctl.fatal = false ∧ State.reset.ctl.recovery = false ∧
  State.reset.launches = [] ∧ State.reset.groups = [] ∧ State.reset.roots = [] ∧ State.reset.mem = [] ∧ State.reset.net.cal = none ∧
  (∀ q ∈ State.reset.queues, q.en = false ∧ q.asid = 0) ∧ (∀ p ∈ State.reset.net.ports, p.cur.st = .dark ∧ p.spare.st = .dark) ∧
  (∀ d ∈ State.reset.dies, d.preQuantum = 1000 ∧ d.preDrain = 50 ∧ d.preSaves = 0 ∧ d.preFlushes = 0 ∧ d.preDrains = 0) ∧
  (∀ w : Word, readReg State.reset 0 = 3 ∧ readReg State.reset 4 = 0 ∧ readReg State.reset 0x70018 = 0 ∧ writeReg State.reset .host 0x28 w = State.reset)

/-- The invariant of the machine is kept by every step from every state: memory stays in its canonical form and no bank of registers
changes its size. -/
def Obligations.StepKeepsMachineInv : Prop :=
  ∀ (s s' : State), MachineInv s → step s = .next s' → MachineInv s'

end
end

