-- ==== Sys2Proof/Laws/Codec.lean ====
section
/-! SUPPORT. Codec.lean: the fields of an encoded word (R40–R44), and what the decoder does with a word of each major opcode. -/
namespace Sys2Proof.Laws
open Sys2Proof

theorem encR_toNat (h : Bool) (mj mn d a b : Nat) (hj : mj < 64) (hn : mn < 16) (hd : d < 128) (ha : a < 128) (hb : b < 128) :
    (encR h mj mn d a b).toNat = hbit h * 2 ^ 31 + mj * 2 ^ 25 + mn * 2 ^ 21 + d * 2 ^ 14 + a * 2 ^ 7 + b := by
  have : hbit h ≤ 1 := by cases h <;> decide
  simp only [encR, BitVec.toNat_ofNat]; omega

theorem encX_toNat (h : Bool) (mj x : Nat) (hj : mj < 64) (hx : x < 2 ^ 25) :
    (encX h mj x).toNat = hbit h * 2 ^ 31 + mj * 2 ^ 25 + x := by
  have : hbit h ≤ 1 := by cases h <;> decide
  simp only [encX, BitVec.toNat_ofNat]; omega

/-- A field of a word, from the number that the word is. -/
theorem fld_eq (w : Word) (lo n x : Nat) (h : w.toNat / 2 ^ lo % 2 ^ n = x) : fld w lo n = BitVec.ofNat n x := by
  apply BitVec.eq_of_toNat_eq
  simp only [fld, BitVec.toNat_ofNat, ← h, Nat.mod_mod]

theorem flag_eq (w : Word) (n : Nat) (h : Bool) (e : w.toNat / 2 ^ n % 2 = hbit h) : flag w n = h := by
  simp only [flag, e]; cases h <;> rfl

theorem encR_fields (h : Bool) (mj mn d a b : Nat) (hj : mj < 64) (hn : mn < 16) (hd : d < 128) (ha : a < 128) (hb : b < 128) :
    fld (encR h mj mn d a b) 25 6 = BitVec.ofNat 6 mj ∧ fld (encR h mj mn d a b) 21 4 = BitVec.ofNat 4 mn
      ∧ fld (encR h mj mn d a b) 14 7 = BitVec.ofNat 7 d ∧ fld (encR h mj mn d a b) 7 7 = BitVec.ofNat 7 a
      ∧ fld (encR h mj mn d a b) 0 7 = BitVec.ofNat 7 b ∧ flag (encR h mj mn d a b) 31 = h := by
  have e := encR_toNat h mj mn d a b hj hn hd ha hb
  have : hbit h ≤ 1 := by cases h <;> decide
  refine ⟨fld_eq _ _ _ _ ?_, fld_eq _ _ _ _ ?_, fld_eq _ _ _ _ ?_, fld_eq _ _ _ _ ?_, fld_eq _ _ _ _ ?_, flag_eq _ _ _ ?_⟩ <;> rw [e] <;> omega

theorem encX_fields (h : Bool) (mj x : Nat) (hj : mj < 64) (hx : x < 2 ^ 25) :
    fld (encX h mj x) 25 6 = BitVec.ofNat 6 mj ∧ flag (encX h mj x) 31 = h := by
  have e := encX_toNat h mj x hj hx
  have : hbit h ≤ 1 := by cases h <;> decide
  refine ⟨fld_eq _ _ _ _ ?_, flag_eq _ _ _ ?_⟩ <;> rw [e] <;> omega

/-- A field of the low 25 bits. -/
theorem encX_fld (h : Bool) (mj x lo n y : Nat) (hj : mj < 64) (hx : x < 2 ^ 25) (hl : lo + n ≤ 25) (hy : x / 2 ^ lo % 2 ^ n = y) :
    fld (encX h mj x) lo n = BitVec.ofNat n y := by
  apply fld_eq
  rw [encX_toNat h mj x hj hx, ← hy]
  have k : hbit h * 2 ^ 31 + mj * 2 ^ 25 + x = x + 2 ^ lo * (2 ^ n * ((hbit h * 2 ^ 6 + mj) * 2 ^ (25 - lo - n))) := by
    have e : 2 ^ lo * (2 ^ n * ((hbit h * 2 ^ 6 + mj) * 2 ^ (25 - lo - n))) = (hbit h * 2 ^ 6 + mj) * 2 ^ (lo + n + (25 - lo - n)) := by
      rw [Nat.pow_add, Nat.pow_add]; ac_rfl
    rw [e, show lo + n + (25 - lo - n) = 25 by omega]; omega
  rw [k, Nat.add_mul_div_left _ _ (Nat.two_pow_pos lo), Nat.add_mul_mod_self_left]

theorem encX_flag (h : Bool) (mj x n : Nat) (y : Bool) (hj : mj < 64) (hx : x < 2 ^ 25) (hl : n < 25) (hy : x / 2 ^ n % 2 = hbit y) :
    flag (encX h mj x) n = y := by
  have e := encX_fld h mj x n 1 (hbit y) hj hx (by omega) (by simpa using hy)
  have : (fld (encX h mj x) n 1).toNat = hbit y := by rw [e]; cases y <;> rfl
  apply flag_eq
  simpa [fld] using this

theorem part_eq (f : BitVec 7) (lo n x : Nat) (h : f.toNat / 2 ^ lo % 2 ^ n = x) : part f lo n = BitVec.ofNat n x := by
  apply BitVec.eq_of_toNat_eq
  simp only [part, BitVec.toNat_ofNat, ← h, Nat.mod_mod]

theorem checked_of_wf {i : Instr} (h : i.wf = true) : checked i = .ok i := by
  have : (Machine.formChecks i).find? (fun c => ! c.2) = none := by
    rw [List.find?_eq_none]
    intro c hc
    have := List.all_eq_true.mp h c hc
    simp [this]
  simp only [checked, this]

theorem hbit_le (h : Bool) : hbit h ≤ 1 := by cases h <;> decide
theorem hbit_beq (h : Bool) : (BitVec.ofNat 1 (hbit h) == 1) = h := by cases h <;> rfl

/-! What the decoder does with each major opcode. -/

theorem decode_0x00 (w : Word) (e : fld w 25 6 = 0x00#6) : decodeWord w = decSys (fld w 21 4).toNat (flag w 31) (fld w 14 7) (fld w 7 7) (fld w 0 7) := by
  unfold decodeWord; rw [e]; rfl

theorem decode_0x01 (w : Word) (e : fld w 25 6 = 0x01#6) : decodeWord w = decIop (fld w 21 4).toNat (flag w 31) (fld w 14 7) (fld w 7 7) (fld w 0 7) := by
  unfold decodeWord; rw [e]; rfl

theorem decode_0x02 (w : Word) (e : fld w 25 6 = 0x02#6) : decodeWord w = decIopx (fld w 21 4).toNat (flag w 31) (fld w 14 7) (fld w 7 7) (fld w 0 7) := by
  unfold decodeWord; rw [e]; rfl

theorem decode_0x03 (w : Word) (e : fld w 25 6 = 0x03#6) : decodeWord w = decIcmp (fld w 21 4).toNat (flag w 31) (fld w 14 7) (fld w 7 7) (fld w 0 7) := by
  unfold decodeWord; rw [e]; rfl

theorem decode_0x04 (w : Word) (e : fld w 25 6 = 0x04#6) : decodeWord w = checked (.addi (flag w 31) (fld w 18 7) (fld w 11 7) (fld w 0 11)) := by
  unfold decodeWord; rw [e]; rfl

theorem decode_0x05 (w : Word) (e : fld w 25 6 = 0x05#6) : decodeWord w = checked (.andi (flag w 31) (fld w 18 7) (fld w 11 7) (fld w 0 11)) := by
  unfold decodeWord; rw [e]; rfl

theorem decode_0x06 (w : Word) (e : fld w 25 6 = 0x06#6) : decodeWord w = checked (.ori (flag w 31) (fld w 18 7) (fld w 11 7) (fld w 0 11)) := by
  unfold decodeWord; rw [e]; rfl

theorem decode_0x07 (w : Word) (e : fld w 25 6 = 0x07#6) : decodeWord w = checked (.xori (flag w 31) (fld w 18 7) (fld w 11 7) (fld w 0 11)) := by
  unfold decodeWord; rw [e]; rfl

theorem decode_0x08 (w : Word) (e : fld w 25 6 = 0x08#6) : decodeWord w = decShfi (fld w 8 3).toNat (flag w 31) (fld w 18 7) (fld w 11 7) (fld w 6 2) (fld w 0 6) := by
  unfold decodeWord; rw [e]; rfl

theorem decode_0x09 (w : Word) (e : fld w 25 6 = 0x09#6) : decodeWord w = checked (.muli (flag w 31) (fld w 18 7) (fld w 11 7) (fld w 0 11)) := by
  unfold decodeWord; rw [e]; rfl

theorem decode_0x0A (w : Word) (e : fld w 25 6 = 0x0A#6) : decodeWord w = checked (.cmpi (flag w 31) (fld w 21 4) (fld w 18 3) (fld w 11 7) (fld w 0 11)) := by
  unfold decodeWord; rw [e]; rfl

theorem decode_0x0B (w : Word) (e : fld w 25 6 = 0x0B#6) : decodeWord w = checked (.movw (flag w 31) (fld w 18 7) (fld w 0 18)) := by
  unfold decodeWord; rw [e]; rfl

theorem decode_0x0C (w : Word) (e : fld w 25 6 = 0x0C#6) : decodeWord w = checked (.movh (flag w 31) (fld w 18 7) (fld w 0 18)) := by
  unfold decodeWord; rw [e]; rfl

theorem decode_0x0D (w : Word) (e : fld w 25 6 = 0x0D#6) : decodeWord w = checked (.sel (flag w 31) (flag w 24) (fld w 21 3) (fld w 14 7) (fld w 7 7) (fld w 0 7)) := by
  unfold decodeWord; rw [e]; rfl

theorem decode_0x0E (w : Word) (e : fld w 25 6 = 0x0E#6) : decodeWord w = checked (.lea (flag w 31) (fld w 21 4) (fld w 14 7) (fld w 7 7) (fld w 0 7)) := by
  unfold decodeWord; rw [e]; rfl

theorem decode_0x0F (w : Word) (e : fld w 25 6 = 0x0F#6) : decodeWord w = decMovx (fld w 21 4).toNat (flag w 31) (fld w 14 7) (fld w 7 7) (fld w 0 7) := by
  unfold decodeWord; rw [e]; rfl

theorem decode_0x10 (w : Word) (e : fld w 25 6 = 0x10#6) : decodeWord w = decFop (fld w 21 4).toNat (flag w 31) (fld w 14 7) (fld w 7 7) (fld w 0 7) := by
  unfold decodeWord; rw [e]; rfl

theorem decode_0x11 (w : Word) (e : fld w 25 6 = 0x11#6) : decodeWord w = decFma (fld w 21 4).toNat (flag w 31) (fld w 14 7) (fld w 7 7) (fld w 0 7) := by
  unfold decodeWord; rw [e]; rfl

theorem decode_0x12 (w : Word) (e : fld w 25 6 = 0x12#6) : decodeWord w = decHop (fld w 21 4).toNat (flag w 31) (fld w 14 7) (fld w 7 7) (fld w 0 7) := by
  unfold decodeWord; rw [e]; rfl

theorem decode_0x13 (w : Word) (e : fld w 25 6 = 0x13#6) : decodeWord w = decFcmp (fld w 21 4).toNat (flag w 31) (fld w 14 7) (fld w 7 7) (fld w 0 7) := by
  unfold decodeWord; rw [e]; rfl

theorem decode_0x14 (w : Word) (e : fld w 25 6 = 0x14#6) : decodeWord w = decXfn (fld w 21 4).toNat (flag w 31) (fld w 14 7) (fld w 7 7) (fld w 0 7) := by
  unfold decodeWord; rw [e]; rfl

theorem decode_0x15 (w : Word) (e : fld w 25 6 = 0x15#6) : decodeWord w = decCvt (fld w 21 4).toNat (flag w 31) (fld w 14 7) (fld w 7 7) (fld w 0 7) := by
  unfold decodeWord; rw [e]; rfl

theorem decode_0x16 (w : Word) (e : fld w 25 6 = 0x16#6) : decodeWord w = decDop (fld w 21 4).toNat (flag w 31) (fld w 14 7) (fld w 7 7) (fld w 0 7) := by
  unfold decodeWord; rw [e]; rfl

theorem decode_0x17 (w : Word) (e : fld w 25 6 = 0x17#6) : decodeWord w = decSmx (fld w 21 4).toNat (flag w 31) (fld w 14 7) (fld w 7 7) (fld w 0 7) := by
  unfold decodeWord; rw [e]; rfl

theorem decode_0x18 (w : Word) (e : fld w 25 6 = 0x18#6) : decodeWord w = checked (.br (flag w 31) (fld w 0 25)) := by
  unfold decodeWord; rw [e]; rfl

theorem decode_0x19 (w : Word) (e : fld w 25 6 = 0x19#6) : decodeWord w = checked (.call (flag w 31) (fld w 0 25)) := by
  unfold decodeWord; rw [e]; rfl

theorem decode_0x1A (w : Word) (e : fld w 25 6 = 0x1A#6) : decodeWord w = checked (.brp (flag w 31) (fld w 22 3) (flag w 21) (fld w 0 21)) := by
  unfold decodeWord; rw [e]; rfl

theorem decode_0x1B (w : Word) (e : fld w 25 6 = 0x1B#6) : decodeWord w = decJx (fld w 21 4).toNat (flag w 31) (fld w 14 7) (fld w 7 7) (fld w 0 7) := by
  unfold decodeWord; rw [e]; rfl

theorem decode_0x1C (w : Word) (e : fld w 25 6 = 0x1C#6) : decodeWord w = decPblk (flag w 31) (fld w 22 3) (fld w 19 3) (fld w 11 8) (fld w 0 11) := by
  unfold decodeWord; rw [e]; rfl

theorem decode_0x1D (w : Word) (e : fld w 25 6 = 0x1D#6) : decodeWord w = decGrp (fld w 21 4).toNat (flag w 31) (fld w 14 7) (fld w 7 7) (fld w 0 7) := by
  unfold decodeWord; rw [e]; rfl

theorem decode_0x20 (w : Word) (e : fld w 25 6 = 0x20#6) : decodeWord w = checked (.ld (flag w 31) (fld w 18 7) (fld w 11 7) (fld w 8 3) (fld w 0 8)) := by
  unfold decodeWord; rw [e]; rfl

theorem decode_0x21 (w : Word) (e : fld w 25 6 = 0x21#6) : decodeWord w = checked (.st (flag w 31) (fld w 18 7) (fld w 11 7) (fld w 8 3) (fld w 0 8)) := by
  unfold decodeWord; rw [e]; rfl

theorem decode_0x22 (w : Word) (e : fld w 25 6 = 0x22#6) : decodeWord w = if flag w 24 then checked (.ldxC (flag w 31) (fld w 21 3) (fld w 14 7) (fld w 7 7) (fld w 0 7)) else checked (.ldx (flag w 31) (fld w 21 3) (fld w 14 7) (fld w 7 7) (fld w 0 7)) := by
  unfold decodeWord; rw [e]; rfl

theorem decode_0x23 (w : Word) (e : fld w 25 6 = 0x23#6) : decodeWord w = need (fld w 21 3 != 7) 3 (need (!flag w 24) 5 (checked (.stx (flag w 31) (fld w 21 3) (fld w 14 7) (fld w 7 7) (fld w 0 7)))) := by
  unfold decodeWord; rw [e]; rfl

theorem decode_0x24 (w : Word) (e : fld w 25 6 = 0x24#6) : decodeWord w = checked (.ldAcq (flag w 31) (fld w 18 7) (fld w 11 7) (fld w 8 3) (fld w 0 8)) := by
  unfold decodeWord; rw [e]; rfl

theorem decode_0x25 (w : Word) (e : fld w 25 6 = 0x25#6) : decodeWord w = checked (.stRel (flag w 31) (fld w 18 7) (fld w 11 7) (fld w 8 3) (fld w 0 8)) := by
  unfold decodeWord; rw [e]; rfl

theorem decode_0x26 (w : Word) (e : fld w 25 6 = 0x26#6) : decodeWord w = decAtom (fld w 21 4).toNat (flag w 31) (fld w 14 7) (fld w 7 7) (fld w 0 7) := by
  unfold decodeWord; rw [e]; rfl

theorem decode_0x27 (w : Word) (e : fld w 25 6 = 0x27#6) : decodeWord w = decAtomAr (fld w 21 4).toNat (flag w 31) (fld w 14 7) (fld w 7 7) (fld w 0 7) := by
  unfold decodeWord; rw [e]; rfl

theorem decode_0x28 (w : Word) (e : fld w 25 6 = 0x28#6) : decodeWord w = decFence (fld w 21 4).toNat (flag w 31) (fld w 14 7) (fld w 7 7) (fld w 0 7) := by
  unfold decodeWord; rw [e]; rfl

theorem decode_0x29 (w : Word) (e : fld w 25 6 = 0x29#6) : decodeWord w = decCctl (fld w 21 4).toNat (flag w 31) (fld w 14 7) (fld w 7 7) (fld w 0 7) := by
  unfold decodeWord; rw [e]; rfl

theorem decode_0x2A (w : Word) (e : fld w 25 6 = 0x2A#6) : decodeWord w = decTile (fld w 21 4).toNat (flag w 31) (fld w 14 7) (fld w 7 7) (fld w 0 7) := by
  unfold decodeWord; rw [e]; rfl

theorem decode_0x2B (w : Word) (e : fld w 25 6 = 0x2B#6) : decodeWord w = decTrig (fld w 21 4).toNat (flag w 31) (fld w 14 7) (fld w 7 7) (fld w 0 7) := by
  unfold decodeWord; rw [e]; rfl

theorem decode_0x30 (w : Word) (e : fld w 25 6 = 0x30#6) : decodeWord w = decCopy (fld w 21 4).toNat (flag w 31) (fld w 14 7) (fld w 7 7) (fld w 0 7) := by
  unfold decodeWord; rw [e]; rfl

theorem decode_0x31 (w : Word) (e : fld w 25 6 = 0x31#6) : decodeWord w = decMma (fld w 21 4).toNat (flag w 31) (fld w 14 7) (fld w 7 7) (fld w 0 7) := by
  unfold decodeWord; rw [e]; rfl

theorem decode_0x32 (w : Word) (e : fld w 25 6 = 0x32#6) : decodeWord w = decBaton (fld w 21 4).toNat (flag w 31) (fld w 14 7) (fld w 7 7) (fld w 0 7) := by
  unfold decodeWord; rw [e]; rfl

theorem decode_0x33 (w : Word) (e : fld w 25 6 = 0x33#6) : decodeWord w = decTask (fld w 21 4).toNat (flag w 31) (fld w 14 7) (fld w 7 7) (fld w 0 7) := by
  unfold decodeWord; rw [e]; rfl

theorem decode_0x34 (w : Word) (e : fld w 25 6 = 0x34#6) : decodeWord w = decLnch (fld w 21 4).toNat (flag w 31) (fld w 14 7) (fld w 7 7) (fld w 0 7) := by
  unfold decodeWord; rw [e]; rfl

theorem decode_0x35 (w : Word) (e : fld w 25 6 = 0x35#6) : decodeWord w = decAq (fld w 21 4).toNat (flag w 31) (fld w 14 7) (fld w 7 7) (fld w 0 7) := by
  unfold decodeWord; rw [e]; rfl

theorem decode_0x36 (w : Word) (e : fld w 25 6 = 0x36#6) : decodeWord w = decNet (fld w 21 4).toNat (flag w 31) (fld w 14 7) (fld w 7 7) (fld w 0 7) := by
  unfold decodeWord; rw [e]; rfl

theorem decode_0x37 (w : Word) (e : fld w 25 6 = 0x37#6) : decodeWord w = decColl (fld w 21 4).toNat (flag w 31) (fld w 14 7) (fld w 7 7) (fld w 0 7) := by
  unfold decodeWord; rw [e]; rfl

end Sys2Proof.Laws
end

