-- ==== Sys2Proof/Laws/Exec.lean ====
section
/-! SUPPORT. Exec.lean: what exec calls for each instruction. -/
namespace Sys2Proof.Laws
open Sys2Proof.Machine

theorem exec_nop (h : Bool) (σ : State) : exec (.nop h) σ = execNop h σ := rfl
theorem exec_exit (h : Bool) (σ : State) : exec (.exit h) σ = execExit h σ := rfl
theorem exec_trap (h : Bool) (b : BitVec 7) (σ : State) : exec (.trap h b) σ = execTrap h b σ := rfl
theorem exec_brk (h : Bool) (b : BitVec 7) (σ : State) : exec (.brk h b) σ = execBrk h b σ := rfl
theorem exec_srd (h : Bool) (d a b : BitVec 7) (σ : State) : exec (.srd h d a b) σ = execSrd h d a b σ := rfl
theorem exec_swr (h : Bool) (d a b : BitVec 7) (σ : State) : exec (.swr h d a b) σ = execSwr h d a b σ := rfl
theorem exec_wbase (h : Bool) (b : BitVec 7) (σ : State) : exec (.wbase h b) σ = execWbase h b σ := rfl
theorem exec_ubase (h : Bool) (b : BitVec 7) (σ : State) : exec (.ubase h b) σ = execUbase h b σ := rfl
theorem exec_yield (h : Bool) (σ : State) : exec (.yield h) σ = execYield h σ := rfl
theorem exec_join (h : Bool) (a : BitVec 7) (σ : State) : exec (.join h a) σ = execJoin h a σ := rfl
theorem exec_bar (h : Bool) (b : BitVec 7) (σ : State) : exec (.bar h b) σ = execBar h b σ := rfl
theorem exec_arrive (h : Bool) (d b : BitVec 7) (σ : State) : exec (.arrive h d b) σ = execArrive h d b σ := rfl
theorem exec_bwait (h : Bool) (a b : BitVec 7) (σ : State) : exec (.bwait h a b) σ = execBwait h a b σ := rfl
theorem exec_nap (h : Bool) (a : BitVec 7) (σ : State) : exec (.nap h a) σ = execNap h a σ := rfl
theorem exec_fmtld (h : Bool) (d a : BitVec 7) (σ : State) : exec (.fmtld h d a) σ = execFmtld h d a σ := rfl
theorem exec_tret (h : Bool) (b : BitVec 7) (σ : State) : exec (.tret h b) σ = execTret h b σ := rfl
theorem exec_add (h : Bool) (d a b : BitVec 7) (σ : State) : exec (.add h d a b) σ = execAdd h d a b σ := rfl
theorem exec_sub (h : Bool) (d a b : BitVec 7) (σ : State) : exec (.sub h d a b) σ = execSub h d a b σ := rfl
theorem exec_mul (h : Bool) (d a b : BitVec 7) (σ : State) : exec (.mul h d a b) σ = execMul h d a b σ := rfl
theorem exec_mulh (h : Bool) (d a b : BitVec 7) (σ : State) : exec (.mulh h d a b) σ = execMulh h d a b σ := rfl
theorem exec_mulhu (h : Bool) (d a b : BitVec 7) (σ : State) : exec (.mulhu h d a b) σ = execMulhu h d a b σ := rfl
theorem exec_and (h : Bool) (d a b : BitVec 7) (σ : State) : exec (.and h d a b) σ = execAnd h d a b σ := rfl
theorem exec_or (h : Bool) (d a b : BitVec 7) (σ : State) : exec (.or h d a b) σ = execOr h d a b σ := rfl
theorem exec_xor (h : Bool) (d a b : BitVec 7) (σ : State) : exec (.xor h d a b) σ = execXor h d a b σ := rfl
theorem exec_andn (h : Bool) (d a b : BitVec 7) (σ : State) : exec (.andn h d a b) σ = execAndn h d a b σ := rfl
theorem exec_shl (h : Bool) (d a b : BitVec 7) (σ : State) : exec (.shl h d a b) σ = execShl h d a b σ := rfl
theorem exec_shr (h : Bool) (d a b : BitVec 7) (σ : State) : exec (.shr h d a b) σ = execShr h d a b σ := rfl
theorem exec_sar (h : Bool) (d a b : BitVec 7) (σ : State) : exec (.sar h d a b) σ = execSar h d a b σ := rfl
theorem exec_min (h : Bool) (d a b : BitVec 7) (σ : State) : exec (.min h d a b) σ = execMin h d a b σ := rfl
theorem exec_max (h : Bool) (d a b : BitVec 7) (σ : State) : exec (.max h d a b) σ = execMax h d a b σ := rfl
theorem exec_minu (h : Bool) (d a b : BitVec 7) (σ : State) : exec (.minu h d a b) σ = execMinu h d a b σ := rfl
theorem exec_maxu (h : Bool) (d a b : BitVec 7) (σ : State) : exec (.maxu h d a b) σ = execMaxu h d a b σ := rfl
theorem exec_add64 (h : Bool) (d a b : BitVec 7) (σ : State) : exec (.add64 h d a b) σ = execAdd64 h d a b σ := rfl
theorem exec_sub64 (h : Bool) (d a b : BitVec 7) (σ : State) : exec (.sub64 h d a b) σ = execSub64 h d a b σ := rfl
theorem exec_mul64 (h : Bool) (d a b : BitVec 7) (σ : State) : exec (.mul64 h d a b) σ = execMul64 h d a b σ := rfl
theorem exec_mad (h : Bool) (d a b : BitVec 7) (σ : State) : exec (.mad h d a b) σ = execMad h d a b σ := rfl
theorem exec_madw (h : Bool) (d a b : BitVec 7) (σ : State) : exec (.madw h d a b) σ = execMadw h d a b σ := rfl
theorem exec_clz (h : Bool) (d a : BitVec 7) (σ : State) : exec (.clz h d a) σ = execClz h d a σ := rfl
theorem exec_popc (h : Bool) (d a : BitVec 7) (σ : State) : exec (.popc h d a) σ = execPopc h d a σ := rfl
theorem exec_brev (h : Bool) (d a : BitVec 7) (σ : State) : exec (.brev h d a) σ = execBrev h d a σ := rfl
theorem exec_bfe (h : Bool) (d a b : BitVec 7) (σ : State) : exec (.bfe h d a b) σ = execBfe h d a b σ := rfl
theorem exec_bfi (h : Bool) (d a b : BitVec 7) (σ : State) : exec (.bfi h d a b) σ = execBfi h d a b σ := rfl
theorem exec_prmt (h : Bool) (d a b : BitVec 7) (σ : State) : exec (.prmt h d a b) σ = execPrmt h d a b σ := rfl
theorem exec_rol (h : Bool) (d a b : BitVec 7) (σ : State) : exec (.rol h d a b) σ = execRol h d a b σ := rfl
theorem exec_div (h : Bool) (d a b : BitVec 7) (σ : State) : exec (.div h d a b) σ = execDiv h d a b σ := rfl
theorem exec_divu (h : Bool) (d a b : BitVec 7) (σ : State) : exec (.divu h d a b) σ = execDivu h d a b σ := rfl
theorem exec_rem (h : Bool) (d a b : BitVec 7) (σ : State) : exec (.rem h d a b) σ = execRem h d a b σ := rfl
theorem exec_remu (h : Bool) (d a b : BitVec 7) (σ : State) : exec (.remu h d a b) σ = execRemu h d a b σ := rfl
theorem exec_icmpEq (h : Bool) (c : BitVec 2) (p : BitVec 3) (a b : BitVec 7) (σ : State) : exec (.icmpEq h c p a b) σ = execIcmpEq h c p a b σ := rfl
theorem exec_icmpNe (h : Bool) (c : BitVec 2) (p : BitVec 3) (a b : BitVec 7) (σ : State) : exec (.icmpNe h c p a b) σ = execIcmpNe h c p a b σ := rfl
theorem exec_icmpLt (h : Bool) (c : BitVec 2) (p : BitVec 3) (a b : BitVec 7) (σ : State) : exec (.icmpLt h c p a b) σ = execIcmpLt h c p a b σ := rfl
theorem exec_icmpLe (h : Bool) (c : BitVec 2) (p : BitVec 3) (a b : BitVec 7) (σ : State) : exec (.icmpLe h c p a b) σ = execIcmpLe h c p a b σ := rfl
theorem exec_icmpGt (h : Bool) (c : BitVec 2) (p : BitVec 3) (a b : BitVec 7) (σ : State) : exec (.icmpGt h c p a b) σ = execIcmpGt h c p a b σ := rfl
theorem exec_icmpGe (h : Bool) (c : BitVec 2) (p : BitVec 3) (a b : BitVec 7) (σ : State) : exec (.icmpGe h c p a b) σ = execIcmpGe h c p a b σ := rfl
theorem exec_icmpLtu (h : Bool) (c : BitVec 2) (p : BitVec 3) (a b : BitVec 7) (σ : State) : exec (.icmpLtu h c p a b) σ = execIcmpLtu h c p a b σ := rfl
theorem exec_icmpLeu (h : Bool) (c : BitVec 2) (p : BitVec 3) (a b : BitVec 7) (σ : State) : exec (.icmpLeu h c p a b) σ = execIcmpLeu h c p a b σ := rfl
theorem exec_icmpGtu (h : Bool) (c : BitVec 2) (p : BitVec 3) (a b : BitVec 7) (σ : State) : exec (.icmpGtu h c p a b) σ = execIcmpGtu h c p a b σ := rfl
theorem exec_icmpGeu (h : Bool) (c : BitVec 2) (p : BitVec 3) (a b : BitVec 7) (σ : State) : exec (.icmpGeu h c p a b) σ = execIcmpGeu h c p a b σ := rfl
theorem exec_icmpEq64 (h : Bool) (c : BitVec 2) (p : BitVec 3) (a b : BitVec 7) (σ : State) : exec (.icmpEq64 h c p a b) σ = execIcmpEq64 h c p a b σ := rfl
theorem exec_icmpNe64 (h : Bool) (c : BitVec 2) (p : BitVec 3) (a b : BitVec 7) (σ : State) : exec (.icmpNe64 h c p a b) σ = execIcmpNe64 h c p a b σ := rfl
theorem exec_icmpLt64 (h : Bool) (c : BitVec 2) (p : BitVec 3) (a b : BitVec 7) (σ : State) : exec (.icmpLt64 h c p a b) σ = execIcmpLt64 h c p a b σ := rfl
theorem exec_icmpLtu64 (h : Bool) (c : BitVec 2) (p : BitVec 3) (a b : BitVec 7) (σ : State) : exec (.icmpLtu64 h c p a b) σ = execIcmpLtu64 h c p a b σ := rfl
theorem exec_icmpBtst (h : Bool) (c : BitVec 2) (p : BitVec 3) (a b : BitVec 7) (σ : State) : exec (.icmpBtst h c p a b) σ = execIcmpBtst h c p a b σ := rfl
theorem exec_addi (h : Bool) (d a : BitVec 7) (i : BitVec 11) (σ : State) : exec (.addi h d a i) σ = execAddi h d a i σ := rfl
theorem exec_andi (h : Bool) (d a : BitVec 7) (i : BitVec 11) (σ : State) : exec (.andi h d a i) σ = execAndi h d a i σ := rfl
theorem exec_ori (h : Bool) (d a : BitVec 7) (i : BitVec 11) (σ : State) : exec (.ori h d a i) σ = execOri h d a i σ := rfl
theorem exec_xori (h : Bool) (d a : BitVec 7) (i : BitVec 11) (σ : State) : exec (.xori h d a i) σ = execXori h d a i σ := rfl
theorem exec_shli (h : Bool) (d a : BitVec 7) (n : BitVec 6) (σ : State) : exec (.shli h d a n) σ = execShli h d a n σ := rfl
theorem exec_shri (h : Bool) (d a : BitVec 7) (n : BitVec 6) (σ : State) : exec (.shri h d a n) σ = execShri h d a n σ := rfl
theorem exec_sari (h : Bool) (d a : BitVec 7) (n : BitVec 6) (σ : State) : exec (.sari h d a n) σ = execSari h d a n σ := rfl
theorem exec_roli (h : Bool) (d a : BitVec 7) (n : BitVec 6) (σ : State) : exec (.roli h d a n) σ = execRoli h d a n σ := rfl
theorem exec_shli64 (h : Bool) (d a : BitVec 7) (n : BitVec 6) (σ : State) : exec (.shli64 h d a n) σ = execShli64 h d a n σ := rfl
theorem exec_shri64 (h : Bool) (d a : BitVec 7) (n : BitVec 6) (σ : State) : exec (.shri64 h d a n) σ = execShri64 h d a n σ := rfl
theorem exec_sari64 (h : Bool) (d a : BitVec 7) (n : BitVec 6) (σ : State) : exec (.sari64 h d a n) σ = execSari64 h d a n σ := rfl
theorem exec_muli (h : Bool) (d a : BitVec 7) (i : BitVec 11) (σ : State) : exec (.muli h d a i) σ = execMuli h d a i σ := rfl
theorem exec_cmpi (h : Bool) (c : BitVec 4) (p : BitVec 3) (a : BitVec 7) (i : BitVec 11) (σ : State) : exec (.cmpi h c p a i) σ = execCmpi h c p a i σ := rfl
theorem exec_movw (h : Bool) (d : BitVec 7) (i : BitVec 18) (σ : State) : exec (.movw h d i) σ = execMovw h d i σ := rfl
theorem exec_movh (h : Bool) (d : BitVec 7) (i : BitVec 18) (σ : State) : exec (.movh h d i) σ = execMovh h d i σ := rfl
theorem exec_sel (h n : Bool) (p : BitVec 3) (d a b : BitVec 7) (σ : State) : exec (.sel h n p d a b) σ = execSel h n p d a b σ := rfl
theorem exec_lea (h : Bool) (s : BitVec 4) (d a b : BitVec 7) (σ : State) : exec (.lea h s d a b) σ = execLea h s d a b σ := rfl
theorem exec_mov (h : Bool) (d a : BitVec 7) (σ : State) : exec (.mov h d a) σ = execMov h d a σ := rfl
theorem exec_mov64 (h : Bool) (d a : BitVec 7) (σ : State) : exec (.mov64 h d a) σ = execMov64 h d a σ := rfl
theorem exec_pmov (h : Bool) (d : BitVec 7) (σ : State) : exec (.pmov h d) σ = execPmov h d σ := rfl
theorem exec_pset (h : Bool) (a b : BitVec 7) (σ : State) : exec (.pset h a b) σ = execPset h a b σ := rfl
theorem exec_sext (h : Bool) (d a w : BitVec 7) (σ : State) : exec (.sext h d a w) σ = execSext h d a w σ := rfl
theorem exec_zext (h : Bool) (d a w : BitVec 7) (σ : State) : exec (.zext h d a w) σ = execZext h d a w σ := rfl
theorem exec_fadd (h : Bool) (d a b : BitVec 7) (σ : State) : exec (.fadd h d a b) σ = execFadd h d a b σ := rfl
theorem exec_fsub (h : Bool) (d a b : BitVec 7) (σ : State) : exec (.fsub h d a b) σ = execFsub h d a b σ := rfl
theorem exec_fmul (h : Bool) (d a b : BitVec 7) (σ : State) : exec (.fmul h d a b) σ = execFmul h d a b σ := rfl
theorem exec_fmin (h : Bool) (d a b : BitVec 7) (σ : State) : exec (.fmin h d a b) σ = execFmin h d a b σ := rfl
theorem exec_fmax (h : Bool) (d a b : BitVec 7) (σ : State) : exec (.fmax h d a b) σ = execFmax h d a b σ := rfl
theorem exec_fminn (h : Bool) (d a b : BitVec 7) (σ : State) : exec (.fminn h d a b) σ = execFminn h d a b σ := rfl
theorem exec_fmaxn (h : Bool) (d a b : BitVec 7) (σ : State) : exec (.fmaxn h d a b) σ = execFmaxn h d a b σ := rfl
theorem exec_fabs (h : Bool) (d a : BitVec 7) (σ : State) : exec (.fabs h d a) σ = execFabs h d a σ := rfl
theorem exec_fneg (h : Bool) (d a : BitVec 7) (σ : State) : exec (.fneg h d a) σ = execFneg h d a σ := rfl
theorem exec_fcpsgn (h : Bool) (d a b : BitVec 7) (σ : State) : exec (.fcpsgn h d a b) σ = execFcpsgn h d a b σ := rfl
theorem exec_ffloor (h : Bool) (d a : BitVec 7) (σ : State) : exec (.ffloor h d a) σ = execFfloor h d a σ := rfl
theorem exec_fceil (h : Bool) (d a : BitVec 7) (σ : State) : exec (.fceil h d a) σ = execFceil h d a σ := rfl
theorem exec_ftrunc (h : Bool) (d a : BitVec 7) (σ : State) : exec (.ftrunc h d a) σ = execFtrunc h d a σ := rfl
theorem exec_frint (h : Bool) (d a : BitVec 7) (σ : State) : exec (.frint h d a) σ = execFrint h d a σ := rfl
theorem exec_ffrac (h : Bool) (d a : BitVec 7) (σ : State) : exec (.ffrac h d a) σ = execFfrac h d a σ := rfl
theorem exec_fscale (h : Bool) (d a b : BitVec 7) (σ : State) : exec (.fscale h d a b) σ = execFscale h d a b σ := rfl
theorem exec_ffma (h : Bool) (d a b : BitVec 7) (σ : State) : exec (.ffma h d a b) σ = execFfma h d a b σ := rfl
theorem exec_ffms (h : Bool) (d a b : BitVec 7) (σ : State) : exec (.ffms h d a b) σ = execFfms h d a b σ := rfl
theorem exec_fnfma (h : Bool) (d a b : BitVec 7) (σ : State) : exec (.fnfma h d a b) σ = execFnfma h d a b σ := rfl
theorem exec_fnfms (h : Bool) (d a b : BitVec 7) (σ : State) : exec (.fnfms h d a b) σ = execFnfms h d a b σ := rfl
theorem exec_hadd2 (h : Bool) (d a b : BitVec 7) (σ : State) : exec (.hadd2 h d a b) σ = execHadd2 h d a b σ := rfl
theorem exec_hsub2 (h : Bool) (d a b : BitVec 7) (σ : State) : exec (.hsub2 h d a b) σ = execHsub2 h d a b σ := rfl
theorem exec_hmul2 (h : Bool) (d a b : BitVec 7) (σ : State) : exec (.hmul2 h d a b) σ = execHmul2 h d a b σ := rfl
theorem exec_hfma2 (h : Bool) (d a b : BitVec 7) (σ : State) : exec (.hfma2 h d a b) σ = execHfma2 h d a b σ := rfl
theorem exec_hmin2 (h : Bool) (d a b : BitVec 7) (σ : State) : exec (.hmin2 h d a b) σ = execHmin2 h d a b σ := rfl
theorem exec_hmax2 (h : Bool) (d a b : BitVec 7) (σ : State) : exec (.hmax2 h d a b) σ = execHmax2 h d a b σ := rfl
theorem exec_badd2 (h : Bool) (d a b : BitVec 7) (σ : State) : exec (.badd2 h d a b) σ = execBadd2 h d a b σ := rfl
theorem exec_bsub2 (h : Bool) (d a b : BitVec 7) (σ : State) : exec (.bsub2 h d a b) σ = execBsub2 h d a b σ := rfl
theorem exec_bmul2 (h : Bool) (d a b : BitVec 7) (σ : State) : exec (.bmul2 h d a b) σ = execBmul2 h d a b σ := rfl
theorem exec_bfma2 (h : Bool) (d a b : BitVec 7) (σ : State) : exec (.bfma2 h d a b) σ = execBfma2 h d a b σ := rfl
theorem exec_bmin2 (h : Bool) (d a b : BitVec 7) (σ : State) : exec (.bmin2 h d a b) σ = execBmin2 h d a b σ := rfl
theorem exec_bmax2 (h : Bool) (d a b : BitVec 7) (σ : State) : exec (.bmax2 h d a b) σ = execBmax2 h d a b σ := rfl
theorem exec_hdot2 (h : Bool) (d a b : BitVec 7) (σ : State) : exec (.hdot2 h d a b) σ = execHdot2 h d a b σ := rfl
theorem exec_bdot2 (h : Bool) (d a b : BitVec 7) (σ : State) : exec (.bdot2 h d a b) σ = execBdot2 h d a b σ := rfl
theorem exec_fcmpOeq (h : Bool) (c : BitVec 2) (p : BitVec 3) (a b : BitVec 7) (σ : State) : exec (.fcmpOeq h c p a b) σ = execFcmpOeq h c p a b σ := rfl
theorem exec_fcmpOne (h : Bool) (c : BitVec 2) (p : BitVec 3) (a b : BitVec 7) (σ : State) : exec (.fcmpOne h c p a b) σ = execFcmpOne h c p a b σ := rfl
theorem exec_fcmpOlt (h : Bool) (c : BitVec 2) (p : BitVec 3) (a b : BitVec 7) (σ : State) : exec (.fcmpOlt h c p a b) σ = execFcmpOlt h c p a b σ := rfl
theorem exec_fcmpOle (h : Bool) (c : BitVec 2) (p : BitVec 3) (a b : BitVec 7) (σ : State) : exec (.fcmpOle h c p a b) σ = execFcmpOle h c p a b σ := rfl
theorem exec_fcmpOgt (h : Bool) (c : BitVec 2) (p : BitVec 3) (a b : BitVec 7) (σ : State) : exec (.fcmpOgt h c p a b) σ = execFcmpOgt h c p a b σ := rfl
theorem exec_fcmpOge (h : Bool) (c : BitVec 2) (p : BitVec 3) (a b : BitVec 7) (σ : State) : exec (.fcmpOge h c p a b) σ = execFcmpOge h c p a b σ := rfl
theorem exec_fcmpUno (h : Bool) (c : BitVec 2) (p : BitVec 3) (a b : BitVec 7) (σ : State) : exec (.fcmpUno h c p a b) σ = execFcmpUno h c p a b σ := rfl
theorem exec_fcmpOrd (h : Bool) (c : BitVec 2) (p : BitVec 3) (a b : BitVec 7) (σ : State) : exec (.fcmpOrd h c p a b) σ = execFcmpOrd h c p a b σ := rfl
theorem exec_fcmpUeq (h : Bool) (c : BitVec 2) (p : BitVec 3) (a b : BitVec 7) (σ : State) : exec (.fcmpUeq h c p a b) σ = execFcmpUeq h c p a b σ := rfl
theorem exec_fcmpUne (h : Bool) (c : BitVec 2) (p : BitVec 3) (a b : BitVec 7) (σ : State) : exec (.fcmpUne h c p a b) σ = execFcmpUne h c p a b σ := rfl
theorem exec_fcmpUlt (h : Bool) (c : BitVec 2) (p : BitVec 3) (a b : BitVec 7) (σ : State) : exec (.fcmpUlt h c p a b) σ = execFcmpUlt h c p a b σ := rfl
theorem exec_fcmpUle (h : Bool) (c : BitVec 2) (p : BitVec 3) (a b : BitVec 7) (σ : State) : exec (.fcmpUle h c p a b) σ = execFcmpUle h c p a b σ := rfl
theorem exec_fcmpUgt (h : Bool) (c : BitVec 2) (p : BitVec 3) (a b : BitVec 7) (σ : State) : exec (.fcmpUgt h c p a b) σ = execFcmpUgt h c p a b σ := rfl
theorem exec_fcmpUge (h : Bool) (c : BitVec 2) (p : BitVec 3) (a b : BitVec 7) (σ : State) : exec (.fcmpUge h c p a b) σ = execFcmpUge h c p a b σ := rfl
theorem exec_fcmpClass (h : Bool) (c : BitVec 2) (p : BitVec 3) (a b : BitVec 7) (σ : State) : exec (.fcmpClass h c p a b) σ = execFcmpClass h c p a b σ := rfl
theorem exec_xfnRcp (h : Bool) (d a : BitVec 7) (σ : State) : exec (.xfnRcp h d a) σ = execXfnRcp h d a σ := rfl
theorem exec_xfnRsq (h : Bool) (d a : BitVec 7) (σ : State) : exec (.xfnRsq h d a) σ = execXfnRsq h d a σ := rfl
theorem exec_xfnSqrt (h : Bool) (d a : BitVec 7) (σ : State) : exec (.xfnSqrt h d a) σ = execXfnSqrt h d a σ := rfl
theorem exec_xfnExp2 (h : Bool) (d a : BitVec 7) (σ : State) : exec (.xfnExp2 h d a) σ = execXfnExp2 h d a σ := rfl
theorem exec_xfnLog2 (h : Bool) (d a : BitVec 7) (σ : State) : exec (.xfnLog2 h d a) σ = execXfnLog2 h d a σ := rfl
theorem exec_xfnSinpi (h : Bool) (d a : BitVec 7) (σ : State) : exec (.xfnSinpi h d a) σ = execXfnSinpi h d a σ := rfl
theorem exec_xfnCospi (h : Bool) (d a : BitVec 7) (σ : State) : exec (.xfnCospi h d a) σ = execXfnCospi h d a σ := rfl
theorem exec_xfnTanh (h : Bool) (d a : BitVec 7) (σ : State) : exec (.xfnTanh h d a) σ = execXfnTanh h d a σ := rfl
theorem exec_xfnDiv (h : Bool) (d a b : BitVec 7) (σ : State) : exec (.xfnDiv h d a b) σ = execXfnDiv h d a b σ := rfl
theorem exec_xfnSigm (h : Bool) (d a : BitVec 7) (σ : State) : exec (.xfnSigm h d a) σ = execXfnSigm h d a σ := rfl
theorem exec_xfnExp (h : Bool) (d a : BitVec 7) (σ : State) : exec (.xfnExp h d a) σ = execXfnExp h d a σ := rfl
theorem exec_xfnLog (h : Bool) (d a : BitVec 7) (σ : State) : exec (.xfnLog h d a) σ = execXfnLog h d a σ := rfl
theorem exec_f2i (h : Bool) (d a : BitVec 7) (k : BitVec 3) (s : Bool) (r : BitVec 3) (σ : State) : exec (.f2i h d a k s r) σ = execF2i h d a k s r σ := rfl
theorem exec_f2u (h : Bool) (d a : BitVec 7) (k : BitVec 3) (s : Bool) (r : BitVec 3) (σ : State) : exec (.f2u h d a k s r) σ = execF2u h d a k s r σ := rfl
theorem exec_i2f (h : Bool) (d a : BitVec 7) (k : BitVec 3) (s : Bool) (r : BitVec 3) (σ : State) : exec (.i2f h d a k s r) σ = execI2f h d a k s r σ := rfl
theorem exec_u2f (h : Bool) (d a : BitVec 7) (k : BitVec 3) (s : Bool) (r : BitVec 3) (σ : State) : exec (.u2f h d a k s r) σ = execU2f h d a k s r σ := rfl
theorem exec_f2h (h : Bool) (d a : BitVec 7) (k : BitVec 3) (s : Bool) (r : BitVec 3) (σ : State) : exec (.f2h h d a k s r) σ = execF2h h d a k s r σ := rfl
theorem exec_h2f (h : Bool) (d a : BitVec 7) (k : BitVec 3) (s : Bool) (r : BitVec 3) (σ : State) : exec (.h2f h d a k s r) σ = execH2f h d a k s r σ := rfl
theorem exec_f2b (h : Bool) (d a : BitVec 7) (k : BitVec 3) (s : Bool) (r : BitVec 3) (σ : State) : exec (.f2b h d a k s r) σ = execF2b h d a k s r σ := rfl
theorem exec_b2f (h : Bool) (d a : BitVec 7) (k : BitVec 3) (s : Bool) (r : BitVec 3) (σ : State) : exec (.b2f h d a k s r) σ = execB2f h d a k s r σ := rfl
theorem exec_f2n (h : Bool) (d a : BitVec 7) (k : BitVec 3) (s : Bool) (r : BitVec 3) (σ : State) : exec (.f2n h d a k s r) σ = execF2n h d a k s r σ := rfl
theorem exec_n2f (h : Bool) (d a : BitVec 7) (k : BitVec 3) (s : Bool) (r : BitVec 3) (σ : State) : exec (.n2f h d a k s r) σ = execN2f h d a k s r σ := rfl
theorem exec_f2d (h : Bool) (d a : BitVec 7) (k : BitVec 3) (s : Bool) (r : BitVec 3) (σ : State) : exec (.f2d h d a k s r) σ = execF2d h d a k s r σ := rfl
theorem exec_d2f (h : Bool) (d a : BitVec 7) (k : BitVec 3) (s : Bool) (r : BitVec 3) (σ : State) : exec (.d2f h d a k s r) σ = execD2f h d a k s r σ := rfl
theorem exec_i2d (h : Bool) (d a : BitVec 7) (k : BitVec 3) (s : Bool) (r : BitVec 3) (σ : State) : exec (.i2d h d a k s r) σ = execI2d h d a k s r σ := rfl
theorem exec_d2i (h : Bool) (d a : BitVec 7) (k : BitVec 3) (s : Bool) (r : BitVec 3) (σ : State) : exec (.d2i h d a k s r) σ = execD2i h d a k s r σ := rfl
theorem exec_packn (h : Bool) (d a : BitVec 7) (k : BitVec 3) (s : Bool) (r : BitVec 3) (σ : State) : exec (.packn h d a k s r) σ = execPackn h d a k s r σ := rfl
theorem exec_unpkn (h : Bool) (d a : BitVec 7) (k : BitVec 3) (s : Bool) (r : BitVec 3) (σ : State) : exec (.unpkn h d a k s r) σ = execUnpkn h d a k s r σ := rfl
theorem exec_dadd (h : Bool) (d a b : BitVec 7) (σ : State) : exec (.dadd h d a b) σ = execDadd h d a b σ := rfl
theorem exec_dsub (h : Bool) (d a b : BitVec 7) (σ : State) : exec (.dsub h d a b) σ = execDsub h d a b σ := rfl
theorem exec_dmul (h : Bool) (d a b : BitVec 7) (σ : State) : exec (.dmul h d a b) σ = execDmul h d a b σ := rfl
theorem exec_dfma (h : Bool) (d a b : BitVec 7) (σ : State) : exec (.dfma h d a b) σ = execDfma h d a b σ := rfl
theorem exec_dmin (h : Bool) (d a b : BitVec 7) (σ : State) : exec (.dmin h d a b) σ = execDmin h d a b σ := rfl
theorem exec_dmax (h : Bool) (d a b : BitVec 7) (σ : State) : exec (.dmax h d a b) σ = execDmax h d a b σ := rfl
theorem exec_ddiv (h : Bool) (d a b : BitVec 7) (σ : State) : exec (.ddiv h d a b) σ = execDdiv h d a b σ := rfl
theorem exec_dsqrt (h : Bool) (d a : BitVec 7) (σ : State) : exec (.dsqrt h d a) σ = execDsqrt h d a σ := rfl
theorem exec_deq (h : Bool) (c : BitVec 2) (p : BitVec 3) (a b : BitVec 7) (σ : State) : exec (.deq h c p a b) σ = execDeq h c p a b σ := rfl
theorem exec_dlt (h : Bool) (c : BitVec 2) (p : BitVec 3) (a b : BitVec 7) (σ : State) : exec (.dlt h c p a b) σ = execDlt h c p a b σ := rfl
theorem exec_dle (h : Bool) (c : BitVec 2) (p : BitVec 3) (a b : BitVec 7) (σ : State) : exec (.dle h c p a b) σ = execDle h c p a b σ := rfl
theorem exec_duno (h : Bool) (c : BitVec 2) (p : BitVec 3) (a b : BitVec 7) (σ : State) : exec (.duno h c p a b) σ = execDuno h c p a b σ := rfl
theorem exec_mlmrg (h : Bool) (d a : BitVec 7) (σ : State) : exec (.mlmrg h d a) σ = execMlmrg h d a σ := rfl
theorem exec_expsub (h : Bool) (d a b : BitVec 7) (σ : State) : exec (.expsub h d a b) σ = execExpsub h d a b σ := rfl
theorem exec_rescale (h : Bool) (d a b : BitVec 7) (σ : State) : exec (.rescale h d a b) σ = execRescale h d a b σ := rfl
theorem exec_br (h : Bool) (o : BitVec 25) (σ : State) : exec (.br h o) σ = execBr h o σ := rfl
theorem exec_call (h : Bool) (o : BitVec 25) (σ : State) : exec (.call h o) σ = execCall h o σ := rfl
theorem exec_brp (h : Bool) (p : BitVec 3) (n : Bool) (o : BitVec 21) (σ : State) : exec (.brp h p n o) σ = execBrp h p n o σ := rfl
theorem exec_jr (h : Bool) (a : BitVec 7) (σ : State) : exec (.jr h a) σ = execJr h a σ := rfl
theorem exec_callr (h : Bool) (a : BitVec 7) (σ : State) : exec (.callr h a) σ = execCallr h a σ := rfl
theorem exec_ret (h : Bool) (σ : State) : exec (.ret h) σ = execRet h σ := rfl
theorem exec_brx (h : Bool) (a b : BitVec 7) (σ : State) : exec (.brx h a b) σ = execBrx h a b σ := rfl
theorem exec_pblk (p n : BitVec 3) (t : BitVec 8) (σ : State) : exec (.pblk p n t) σ = execPblk p n t σ := rfl
theorem exec_vany (h : Bool) (d a : BitVec 7) (σ : State) : exec (.vany h d a) σ = execVany h d a σ := rfl
theorem exec_vall (h : Bool) (d a : BitVec 7) (σ : State) : exec (.vall h d a) σ = execVall h d a σ := rfl
theorem exec_ballot (h : Bool) (d a : BitVec 7) (σ : State) : exec (.ballot h d a) σ = execBallot h d a σ := rfl
theorem exec_shfidx (h : Bool) (d a b : BitVec 7) (σ : State) : exec (.shfidx h d a b) σ = execShfidx h d a b σ := rfl
theorem exec_shfup (h : Bool) (d a b : BitVec 7) (σ : State) : exec (.shfup h d a b) σ = execShfup h d a b σ := rfl
theorem exec_shfdn (h : Bool) (d a b : BitVec 7) (σ : State) : exec (.shfdn h d a b) σ = execShfdn h d a b σ := rfl
theorem exec_shfxor (h : Bool) (d a b : BitVec 7) (σ : State) : exec (.shfxor h d a b) σ = execShfxor h d a b σ := rfl
theorem exec_gradd (h : Bool) (d a : BitVec 7) (σ : State) : exec (.gradd h d a) σ = execGradd h d a σ := rfl
theorem exec_grfadd (h : Bool) (d a : BitVec 7) (σ : State) : exec (.grfadd h d a) σ = execGrfadd h d a σ := rfl
theorem exec_grmin (h : Bool) (d a : BitVec 7) (u : Bool) (σ : State) : exec (.grmin h d a u) σ = execGrmin h d a u σ := rfl
theorem exec_grmax (h : Bool) (d a : BitVec 7) (u : Bool) (σ : State) : exec (.grmax h d a u) σ = execGrmax h d a u σ := rfl
theorem exec_gmatch (h : Bool) (d a : BitVec 7) (σ : State) : exec (.gmatch h d a) σ = execGmatch h d a σ := rfl
theorem exec_elect (h : Bool) (d : BitVec 7) (σ : State) : exec (.elect h d) σ = execElect h d σ := rfl
theorem exec_active (h : Bool) (d : BitVec 7) (σ : State) : exec (.active h d) σ = execActive h d σ := rfl
theorem exec_ld (h : Bool) (d a : BitVec 7) (s : BitVec 3) (o : BitVec 8) (σ : State) : exec (.ld h d a s o) σ = execLd h d a s o σ := rfl
theorem exec_st (h : Bool) (d a : BitVec 7) (s : BitVec 3) (o : BitVec 8) (σ : State) : exec (.st h d a s o) σ = execSt h d a s o σ := rfl
theorem exec_ldx (h : Bool) (s : BitVec 3) (d a b : BitVec 7) (σ : State) : exec (.ldx h s d a b) σ = execLdx h s d a b σ := rfl
theorem exec_ldxC (h : Bool) (s : BitVec 3) (d a b : BitVec 7) (σ : State) : exec (.ldxC h s d a b) σ = execLdxC h s d a b σ := rfl
theorem exec_stx (h : Bool) (s : BitVec 3) (d a b : BitVec 7) (σ : State) : exec (.stx h s d a b) σ = execStx h s d a b σ := rfl
theorem exec_ldAcq (h : Bool) (d a : BitVec 7) (s : BitVec 3) (o : BitVec 8) (σ : State) : exec (.ldAcq h d a s o) σ = execLdAcq h d a s o σ := rfl
theorem exec_stRel (h : Bool) (d a : BitVec 7) (s : BitVec 3) (o : BitVec 8) (σ : State) : exec (.stRel h d a s o) σ = execStRel h d a s o σ := rfl
theorem exec_aadd (h : Bool) (d a b : BitVec 7) (σ : State) : exec (.aadd h d a b) σ = execAadd h d a b σ := rfl
theorem exec_axch (h : Bool) (d a b : BitVec 7) (σ : State) : exec (.axch h d a b) σ = execAxch h d a b σ := rfl
theorem exec_acas (h : Bool) (d a b : BitVec 7) (σ : State) : exec (.acas h d a b) σ = execAcas h d a b σ := rfl
theorem exec_amin (h : Bool) (d a b : BitVec 7) (σ : State) : exec (.amin h d a b) σ = execAmin h d a b σ := rfl
theorem exec_amax (h : Bool) (d a b : BitVec 7) (σ : State) : exec (.amax h d a b) σ = execAmax h d a b σ := rfl
theorem exec_aminu (h : Bool) (d a b : BitVec 7) (σ : State) : exec (.aminu h d a b) σ = execAminu h d a b σ := rfl
theorem exec_amaxu (h : Bool) (d a b : BitVec 7) (σ : State) : exec (.amaxu h d a b) σ = execAmaxu h d a b σ := rfl
theorem exec_aand (h : Bool) (d a b : BitVec 7) (σ : State) : exec (.aand h d a b) σ = execAand h d a b σ := rfl
theorem exec_aor (h : Bool) (d a b : BitVec 7) (σ : State) : exec (.aor h d a b) σ = execAor h d a b σ := rfl
theorem exec_axor (h : Bool) (d a b : BitVec 7) (σ : State) : exec (.axor h d a b) σ = execAxor h d a b σ := rfl
theorem exec_aincw (h : Bool) (d a b : BitVec 7) (σ : State) : exec (.aincw h d a b) σ = execAincw h d a b σ := rfl
theorem exec_afadd (h : Bool) (d a b : BitVec 7) (σ : State) : exec (.afadd h d a b) σ = execAfadd h d a b σ := rfl
theorem exec_aadd64 (h : Bool) (d a b : BitVec 7) (σ : State) : exec (.aadd64 h d a b) σ = execAadd64 h d a b σ := rfl
theorem exec_acas64 (h : Bool) (d a b : BitVec 7) (σ : State) : exec (.acas64 h d a b) σ = execAcas64 h d a b σ := rfl
theorem exec_axch64 (h : Bool) (d a b : BitVec 7) (σ : State) : exec (.axch64 h d a b) σ = execAxch64 h d a b σ := rfl
theorem exec_afmax (h : Bool) (d a b : BitVec 7) (σ : State) : exec (.afmax h d a b) σ = execAfmax h d a b σ := rfl
theorem exec_aaddAr (h : Bool) (d a b : BitVec 7) (σ : State) : exec (.aaddAr h d a b) σ = execAaddAr h d a b σ := rfl
theorem exec_axchAr (h : Bool) (d a b : BitVec 7) (σ : State) : exec (.axchAr h d a b) σ = execAxchAr h d a b σ := rfl
theorem exec_acasAr (h : Bool) (d a b : BitVec 7) (σ : State) : exec (.acasAr h d a b) σ = execAcasAr h d a b σ := rfl
theorem exec_aminAr (h : Bool) (d a b : BitVec 7) (σ : State) : exec (.aminAr h d a b) σ = execAminAr h d a b σ := rfl
theorem exec_amaxAr (h : Bool) (d a b : BitVec 7) (σ : State) : exec (.amaxAr h d a b) σ = execAmaxAr h d a b σ := rfl
theorem exec_aminuAr (h : Bool) (d a b : BitVec 7) (σ : State) : exec (.aminuAr h d a b) σ = execAminuAr h d a b σ := rfl
theorem exec_amaxuAr (h : Bool) (d a b : BitVec 7) (σ : State) : exec (.amaxuAr h d a b) σ = execAmaxuAr h d a b σ := rfl
theorem exec_aandAr (h : Bool) (d a b : BitVec 7) (σ : State) : exec (.aandAr h d a b) σ = execAandAr h d a b σ := rfl
theorem exec_aorAr (h : Bool) (d a b : BitVec 7) (σ : State) : exec (.aorAr h d a b) σ = execAorAr h d a b σ := rfl
theorem exec_axorAr (h : Bool) (d a b : BitVec 7) (σ : State) : exec (.axorAr h d a b) σ = execAxorAr h d a b σ := rfl
theorem exec_aincwAr (h : Bool) (d a b : BitVec 7) (σ : State) : exec (.aincwAr h d a b) σ = execAincwAr h d a b σ := rfl
theorem exec_afaddAr (h : Bool) (d a b : BitVec 7) (σ : State) : exec (.afaddAr h d a b) σ = execAfaddAr h d a b σ := rfl
theorem exec_aadd64Ar (h : Bool) (d a b : BitVec 7) (σ : State) : exec (.aadd64Ar h d a b) σ = execAadd64Ar h d a b σ := rfl
theorem exec_acas64Ar (h : Bool) (d a b : BitVec 7) (σ : State) : exec (.acas64Ar h d a b) σ = execAcas64Ar h d a b σ := rfl
theorem exec_axch64Ar (h : Bool) (d a b : BitVec 7) (σ : State) : exec (.axch64Ar h d a b) σ = execAxch64Ar h d a b σ := rfl
theorem exec_afmaxAr (h : Bool) (d a b : BitVec 7) (σ : State) : exec (.afmaxAr h d a b) σ = execAfmaxAr h d a b σ := rfl
theorem exec_fenceAcq (h : Bool) (b : BitVec 7) (σ : State) : exec (.fenceAcq h b) σ = execFenceAcq h b σ := rfl
theorem exec_fenceRel (h : Bool) (b : BitVec 7) (σ : State) : exec (.fenceRel h b) σ = execFenceRel h b σ := rfl
theorem exec_fenceAr (h : Bool) (b : BitVec 7) (σ : State) : exec (.fenceAr h b) σ = execFenceAr h b σ := rfl
theorem exec_fenceSc (h : Bool) (b : BitVec 7) (σ : State) : exec (.fenceSc h b) σ = execFenceSc h b σ := rfl
theorem exec_fenceDrain (h : Bool) (b : BitVec 7) (σ : State) : exec (.fenceDrain h b) σ = execFenceDrain h b σ := rfl
theorem exec_pref (h : Bool) (a : BitVec 7) (σ : State) : exec (.pref h a) σ = execPref h a σ := rfl
theorem exec_prefl1 (h : Bool) (a : BitVec 7) (σ : State) : exec (.prefl1 h a) σ = execPrefl1 h a σ := rfl
theorem exec_invl1 (h : Bool) (a : BitVec 7) (l : Bool) (σ : State) : exec (.invl1 h a l) σ = execInvl1 h a l σ := rfl
theorem exec_rdcinv (h : Bool) (a : BitVec 7) (l : Bool) (σ : State) : exec (.rdcinv h a l) σ = execRdcinv h a l σ := rfl
theorem exec_lempty (h : Bool) (a n : BitVec 7) (σ : State) : exec (.lempty h a n) σ = execLempty h a n σ := rfl
theorem exec_lfull (h : Bool) (a n : BitVec 7) (σ : State) : exec (.lfull h a n) σ = execLfull h a n σ := rfl
theorem exec_talloc (h : Bool) (d a b : BitVec 7) (σ : State) : exec (.talloc h d a b) σ = execTalloc h d a b σ := rfl
theorem exec_trel (h : Bool) (a : BitVec 7) (σ : State) : exec (.trel h a) σ = execTrel h a σ := rfl
theorem exec_tdrop (h : Bool) (a b : BitVec 7) (σ : State) : exec (.tdrop h a b) σ = execTdrop h a b σ := rfl
theorem exec_taddr (h : Bool) (d a b : BitVec 7) (σ : State) : exec (.taddr h d a b) σ = execTaddr h d a b σ := rfl
theorem exec_tstat (h : Bool) (d a : BitVec 7) (σ : State) : exec (.tstat h d a) σ = execTstat h d a σ := rfl
theorem exec_tcset (h : Bool) (a b : BitVec 7) (σ : State) : exec (.tcset h a b) σ = execTcset h a b σ := rfl
theorem exec_tcadd (h : Bool) (a b : BitVec 7) (σ : State) : exec (.tcadd h a b) σ = execTcadd h a b σ := rfl
theorem exec_tcwait (h : Bool) (a b : BitVec 7) (σ : State) : exec (.tcwait h a b) σ = execTcwait h a b σ := rfl
theorem exec_tcread (h : Bool) (d a : BitVec 7) (σ : State) : exec (.tcread h d a) σ = execTcread h d a σ := rfl
theorem exec_cpy (h : Bool) (d a b : BitVec 7) (σ : State) : exec (.cpy h d a b) σ = execCpy h d a b σ := rfl
theorem exec_cpyr (h : Bool) (d a b : BitVec 7) (σ : State) : exec (.cpyr h d a b) σ = execCpyr h d a b σ := rfl
theorem exec_cpym (h : Bool) (d a b : BitVec 7) (σ : State) : exec (.cpym h d a b) σ = execCpym h d a b σ := rfl
theorem exec_cpys (h : Bool) (d a b : BitVec 7) (σ : State) : exec (.cpys h d a b) σ = execCpys h d a b σ := rfl
theorem exec_publ (h : Bool) (a : BitVec 7) (σ : State) : exec (.publ h a) σ = execPubl h a σ := rfl
theorem exec_cpyt (h : Bool) (k : BitVec 3) (a b : BitVec 7) (σ : State) : exec (.cpyt h k a b) σ = execCpyt h k a b σ := rfl
theorem exec_cpyw (h : Bool) (d a : BitVec 7) (σ : State) : exec (.cpyw h d a) σ = execCpyw h d a σ := rfl
theorem exec_cpyq (h : Bool) (d : BitVec 7) (σ : State) : exec (.cpyq h d) σ = execCpyq h d σ := rfl
theorem exec_mma8 (h : Bool) (d a b : BitVec 7) (σ : State) : exec (.mma8 h d a b) σ = execMma8 h d a b σ := rfl
theorem exec_mma8s (h : Bool) (d a b : BitVec 7) (σ : State) : exec (.mma8s h d a b) σ = execMma8s h d a b σ := rfl
theorem exec_mma8g (h : Bool) (d a b : BitVec 7) (σ : State) : exec (.mma8g h d a b) σ = execMma8g h d a b σ := rfl
theorem exec_mma8gs (h : Bool) (d a b : BitVec 7) (σ : State) : exec (.mma8gs h d a b) σ = execMma8gs h d a b σ := rfl
theorem exec_mmah (h : Bool) (d a b : BitVec 7) (σ : State) : exec (.mmah h d a b) σ = execMmah h d a b σ := rfl
theorem exec_mmab (h : Bool) (d a b : BitVec 7) (σ : State) : exec (.mmab h d a b) σ = execMmab h d a b σ := rfl
theorem exec_mzero (h : Bool) (d : BitVec 7) (σ : State) : exec (.mzero h d) σ = execMzero h d σ := rfl
theorem exec_mldc (h : Bool) (d a b : BitVec 7) (σ : State) : exec (.mldc h d a b) σ = execMldc h d a b σ := rfl
theorem exec_mstc (h : Bool) (d a b : BitVec 7) (σ : State) : exec (.mstc h d a b) σ = execMstc h d a b σ := rfl
theorem exec_mwait (h : Bool) (d a : BitVec 7) (σ : State) : exec (.mwait h d a) σ = execMwait h d a σ := rfl
theorem exec_mstat (h : Bool) (d : BitVec 7) (σ : State) : exec (.mstat h d) σ = execMstat h d σ := rfl
theorem exec_macq (h : Bool) (d : BitVec 7) (σ : State) : exec (.macq h d) σ = execMacq h d σ := rfl
theorem exec_mpass (h : Bool) (a : BitVec 7) (σ : State) : exec (.mpass h a) σ = execMpass h a σ := rfl
theorem exec_mrel (h : Bool) (σ : State) : exec (.mrel h) σ = execMrel h σ := rfl
theorem exec_mwho (h : Bool) (d : BitVec 7) (σ : State) : exec (.mwho h d) σ = execMwho h d σ := rfl
theorem exec_tknext (h : Bool) (d a : BitVec 7) (σ : State) : exec (.tknext h d a) σ = execTknext h d a σ := rfl
theorem exec_tkdone (h : Bool) (σ : State) : exec (.tkdone h) σ = execTkdone h σ := rfl
theorem exec_tkpost (h : Bool) (a : BitVec 7) (σ : State) : exec (.tkpost h a) σ = execTkpost h a σ := rfl
theorem exec_tkspec (h : Bool) (σ : State) : exec (.tkspec h) σ = execTkspec h σ := rfl
theorem exec_tkabort (h : Bool) (σ : State) : exec (.tkabort h) σ = execTkabort h σ := rfl
theorem exec_tksucc (h : Bool) (a : BitVec 7) (σ : State) : exec (.tksucc h a) σ = execTksucc h a σ := rfl
theorem exec_launch (h : Bool) (d a b : BitVec 7) (σ : State) : exec (.launch h d a b) σ = execLaunch h d a b σ := rfl
theorem exec_lwait (h : Bool) (d a : BitVec 7) (σ : State) : exec (.lwait h d a) σ = execLwait h d a σ := rfl
theorem exec_lstat (h : Bool) (d a : BitVec 7) (σ : State) : exec (.lstat h d a) σ = execLstat h d a σ := rfl
theorem exec_role (h : Bool) (d a b : BitVec 7) (σ : State) : exec (.role h d a b) σ = execRole h d a b σ := rfl
theorem exec_aqpost (h : Bool) (d a : BitVec 7) (σ : State) : exec (.aqpost h d a) σ = execAqpost h d a σ := rfl
theorem exec_aqwait (h : Bool) (d a : BitVec 7) (σ : State) : exec (.aqwait h d a) σ = execAqwait h d a σ := rfl
theorem exec_aqstat (h : Bool) (d a : BitVec 7) (σ : State) : exec (.aqstat h d a) σ = execAqstat h d a σ := rfl
theorem exec_aqcancel (h : Bool) (a : BitVec 7) (σ : State) : exec (.aqcancel h a) σ = execAqcancel h a σ := rfl
theorem exec_ndrain (h : Bool) (d : BitVec 7) (σ : State) : exec (.ndrain h d) σ = execNdrain h d σ := rfl
theorem exec_ngen (h : Bool) (d a : BitVec 7) (w : Bool) (σ : State) : exec (.ngen h d a w) σ = execNgen h d a w σ := rfl
theorem exec_npath (h : Bool) (d a : BitVec 7) (σ : State) : exec (.npath h d a) σ = execNpath h d a σ := rfl
theorem exec_clpost (h : Bool) (d a : BitVec 7) (σ : State) : exec (.clpost h d a) σ = execClpost h d a σ := rfl
theorem exec_clwait (h : Bool) (d a : BitVec 7) (σ : State) : exec (.clwait h d a) σ = execClwait h d a σ := rfl
theorem exec_clstat (h : Bool) (d a : BitVec 7) (σ : State) : exec (.clstat h d a) σ = execClstat h d a σ := rfl
theorem exec_clroute (h : Bool) (a : BitVec 7) (l : BitVec 3) (n : BitVec 4) (σ : State) : exec (.clroute h a l n) σ = execClroute h a l n σ := rfl
theorem exec_resultDelivery (t : Tid) (id : Nat) (part : Option Nat) (σ : State) : exec (.resultDelivery t id part) σ = execResultDelivery t id part σ := rfl
theorem exec_segmentHorizon (t : Tid) (σ : State) : exec (.segmentHorizon t) σ = execSegmentHorizon t σ := rfl
theorem exec_joinTimeout (t : Tid) (σ : State) : exec (.joinTimeout t) σ = execJoinTimeout t σ := rfl
theorem exec_napExpiry (t : Tid) (σ : State) : exec (.napExpiry t) σ = execNapExpiry t σ := rfl
theorem exec_barPhaseComplete (l : LRef) (level set : Nat) (σ : State) : exec (.barPhaseComplete l level set) σ = execBarPhaseComplete l level set σ := rfl
theorem exec_launchCommand (src : CmdSrc) (σ : State) : exec (.launchCommand src) σ = execLaunchCommand src σ := rfl
theorem exec_pendingPoolCheck (die : Nat) (σ : State) : exec (.pendingPoolCheck die) σ = execPendingPoolCheck die σ := rfl
theorem exec_teamPlacement (l : LRef) (cluster : Nat) (cores : List Nat) (σ : State) : exec (.teamPlacement l cluster cores) σ = execTeamPlacement l cluster cores σ := rfl
theorem exec_launchComplete (l : LRef) (σ : State) : exec (.launchComplete l) σ = execLaunchComplete l σ := rfl
theorem exec_blockedTeamSwap (l : LRef) (team : Nat) (σ : State) : exec (.blockedTeamSwap l team) σ = execBlockedTeamSwap l team σ := rfl
theorem exec_timeSliceExpiry (l : LRef) (team : Nat) (σ : State) : exec (.timeSliceExpiry l team) σ = execTimeSliceExpiry l team σ := rfl
theorem exec_drainTimeout (l : LRef) (team : Nat) (σ : State) : exec (.drainTimeout l team) σ = execDrainTimeout l team σ := rfl
theorem exec_teamSave (l : LRef) (team : Nat) (σ : State) : exec (.teamSave l team) σ = execTeamSave l team σ := rfl
theorem exec_teamRestore (l : LRef) (team cluster : Nat) (cores : List Nat) (σ : State) : exec (.teamRestore l team cluster cores) σ = execTeamRestore l team cluster cores σ := rfl
theorem exec_armedFire (id : Nat) (σ : State) : exec (.armedFire id) σ = execArmedFire id σ := rfl
theorem exec_copyUnit (id u : Nat) (σ : State) : exec (.copyUnit id u) σ = execCopyUnit id u σ := rfl
theorem exec_publishFlip (id : Nat) (σ : State) : exec (.publishFlip id) σ = execPublishFlip id σ := rfl
theorem exec_matrixStep (core : Nat) (σ : State) : exec (.matrixStep core) σ = execMatrixStep core σ := rfl
theorem exec_tallocGrant (t : Tid) (id rank slot : Nat) (σ : State) : exec (.tallocGrant t id rank slot) σ = execTallocGrant t id rank slot σ := rfl
theorem exec_poolStarvation (cluster : Nat) (l : LRef) (σ : State) : exec (.poolStarvation cluster l) σ = execPoolStarvation cluster l σ := rfl
theorem exec_tileFree (cluster rank slot : Nat) (σ : State) : exec (.tileFree cluster rank slot) σ = execTileFree cluster rank slot σ := rfl
theorem exec_taskDelivery (gid : Nat) (σ : State) : exec (.taskDelivery gid) σ = execTaskDelivery gid σ := rfl
theorem exec_qry (qid page : Nat) (σ : State) : exec (.qry qid page) σ = execQry qid page σ := rfl
theorem exec_bauScan (bau : Nat) (σ : State) : exec (.bauScan bau) σ = execBauScan bau σ := rfl
theorem exec_refresh (bau : Nat) (σ : State) : exec (.refresh bau) σ = execRefresh bau σ := rfl
theorem exec_rpl (qid page : Nat) (σ : State) : exec (.rpl qid page) σ = execRpl qid page σ := rfl
theorem exec_cxl (qid page : Nat) (σ : State) : exec (.cxl qid page) σ = execCxl qid page σ := rfl
theorem exec_wcbFlush (die asid line : Nat) (σ : State) : exec (.wcbFlush die asid line) σ = execWcbFlush die asid line σ := rfl
theorem exec_tlbinvComplete (σ : State) : exec (.tlbinvComplete) σ = execTlbinvComplete σ := rfl
theorem exec_slotBoundary (σ : State) : exec (.slotBoundary) σ = execSlotBoundary σ := rfl
theorem exec_dataWindowStart (σ : State) : exec (.dataWindowStart) σ = execDataWindowStart σ := rfl
theorem exec_tuningTimeout (port : Nat) (σ : State) : exec (.tuningTimeout port) σ = execTuningTimeout port σ := rfl
theorem exec_portFailed (port : Nat) (σ : State) : exec (.portFailed port) σ = execPortFailed port σ := rfl
theorem exec_preamble (port : Nat) (msg : PreambleMsg) (σ : State) : exec (.preamble port msg) σ = execPreamble port msg σ := rfl
theorem exec_ackFlit (port : Nat) (msg : AckMsg) (σ : State) : exec (.ackFlit port msg) σ = execAckFlit port msg σ := rfl
theorem exec_cutOff (pkg : Nat) (σ : State) : exec (.cutOff pkg) σ = execCutOff pkg σ := rfl
theorem exec_broadcastMemberDrop (port member : Nat) (σ : State) : exec (.broadcastMemberDrop port member) σ = execBroadcastMemberDrop port member σ := rfl
theorem exec_cycleSteer (σ : State) : exec (.cycleSteer) σ = execCycleSteer σ := rfl
theorem exec_generationChange (σ : State) : exec (.generationChange) σ = execGenerationChange σ := rfl
theorem exec_portDrained (port : Nat) (σ : State) : exec (.portDrained port) σ = execPortDrained port σ := rfl
theorem exec_portTrained (port : Nat) (σ : State) : exec (.portTrained port) σ = execPortTrained port σ := rfl
theorem exec_readRequest (rx : Rx) (σ : State) : exec (.readRequest rx) σ = execReadRequest rx σ := rfl
theorem exec_readReply (rx : Rx) (σ : State) : exec (.readReply rx) σ = execReadReply rx σ := rfl
theorem exec_pktWrite (rx : Rx) (σ : State) : exec (.pktWrite rx) σ = execPktWrite rx σ := rfl
theorem exec_pktAtomic (rx : Rx) (σ : State) : exec (.pktAtomic rx) σ = execPktAtomic rx σ := rfl
theorem exec_completion (rx : Rx) (σ : State) : exec (.completion rx) σ = execCompletion rx σ := rfl
theorem exec_copyUnits (rx : Rx) (σ : State) : exec (.copyUnits rx) σ = execCopyUnits rx σ := rfl
theorem exec_copyCompletion (rx : Rx) (σ : State) : exec (.copyCompletion rx) σ = execCopyCompletion rx σ := rfl
theorem exec_reduceCopyUnits (rx : Rx) (σ : State) : exec (.reduceCopyUnits rx) σ = execReduceCopyUnits rx σ := rfl
theorem exec_publish (rx : Rx) (σ : State) : exec (.publish rx) σ = execPublish rx σ := rfl
theorem exec_reservedPacket (rx : Rx) (σ : State) : exec (.reservedPacket rx) σ = execReservedPacket rx σ := rfl
theorem exec_collectiveData (rx : Rx) (σ : State) : exec (.collectiveData rx) σ = execCollectiveData rx σ := rfl
theorem exec_collectiveAbort (rx : Rx) (σ : State) : exec (.collectiveAbort rx) σ = execCollectiveAbort rx σ := rfl
theorem exec_gangStart (rx : Rx) (σ : State) : exec (.gangStart rx) σ = execGangStart rx σ := rfl
theorem exec_gangAccept (rx : Rx) (σ : State) : exec (.gangAccept rx) σ = execGangAccept rx σ := rfl
theorem exec_gangRefuse (rx : Rx) (σ : State) : exec (.gangRefuse rx) σ = execGangRefuse rx σ := rfl
theorem exec_gangGo (rx : Rx) (σ : State) : exec (.gangGo rx) σ = execGangGo rx σ := rfl
theorem exec_gangCancel (rx : Rx) (σ : State) : exec (.gangCancel rx) σ = execGangCancel rx σ := rfl
theorem exec_gangAbort (rx : Rx) (σ : State) : exec (.gangAbort rx) σ = execGangAbort rx σ := rfl
theorem exec_gangDone (rx : Rx) (σ : State) : exec (.gangDone rx) σ = execGangDone rx σ := rfl
theorem exec_gangStartTimeout (l : LRef) (σ : State) : exec (.gangStartTimeout l) σ = execGangStartTimeout l σ := rfl
theorem exec_gangDiscardTimeout (l : LRef) (σ : State) : exec (.gangDiscardTimeout l) σ = execGangDiscardTimeout l σ := rfl
theorem exec_barrierArrive (rx : Rx) (σ : State) : exec (.barrierArrive rx) σ = execBarrierArrive rx σ := rfl
theorem exec_barrierRelease (rx : Rx) (σ : State) : exec (.barrierRelease rx) σ = execBarrierRelease rx σ := rfl
theorem exec_hostCopy (src : CmdSrc) (σ : State) : exec (.hostCopy src) σ = execHostCopy src σ := rfl
theorem exec_signal (src : CmdSrc) (σ : State) : exec (.signal src) σ = execSignal src σ := rfl
theorem exec_hostWait (src : CmdSrc) (σ : State) : exec (.hostWait src) σ = execHostWait src σ := rfl
theorem exec_calLoad (src : CmdSrc) (σ : State) : exec (.calLoad src) σ = execCalLoad src σ := rfl
theorem exec_portDrain (src : CmdSrc) (σ : State) : exec (.portDrain src) σ = execPortDrain src σ := rfl
theorem exec_portRetrain (src : CmdSrc) (σ : State) : exec (.portRetrain src) σ = execPortRetrain src σ := rfl
theorem exec_calStatus (src : CmdSrc) (σ : State) : exec (.calStatus src) σ = execCalStatus src σ := rfl
theorem exec_faultReplay (src : CmdSrc) (σ : State) : exec (.faultReplay src) σ = execFaultReplay src σ := rfl
theorem exec_attest (src : CmdSrc) (σ : State) : exec (.attest src) σ = execAttest src σ := rfl
theorem exec_ownerClaim (src : CmdSrc) (σ : State) : exec (.ownerClaim src) σ = execOwnerClaim src σ := rfl
theorem exec_ownerYield (src : CmdSrc) (σ : State) : exec (.ownerYield src) σ = execOwnerYield src σ := rfl
theorem exec_doorbell (q : Nat) (x : Word) (σ : State) : exec (.doorbell q x) σ = execDoorbell q x σ := rfl
theorem exec_tlbinv (a : Agent) (v : Word) (σ : State) : exec (.tlbinv a v) σ = execTlbinv a v σ := rfl
theorem exec_resetWrite (a : Agent) (v : Word) (σ : State) : exec (.resetWrite a v) σ = execResetWrite a v σ := rfl
theorem exec_abortWrite (a : Agent) (die : Nat) (v : Word) (σ : State) : exec (.abortWrite a die v) σ = execAbortWrite a die v σ := rfl
theorem exec_dbgHalt (a : Agent) (die : Nat) (v : Word) (σ : State) : exec (.dbgHalt a die v) σ = execDbgHalt a die v σ := rfl
theorem exec_dbgGo (a : Agent) (die : Nat) (v : Word) (σ : State) : exec (.dbgGo a die v) σ = execDbgGo a die v σ := rfl
theorem exec_dbgStep (a : Agent) (die : Nat) (v : Word) (σ : State) : exec (.dbgStep a die v) σ = execDbgStep a die v σ := rfl
theorem exec_dbgData (a : Agent) (die : Nat) (v : Word) (σ : State) : exec (.dbgData a die v) σ = execDbgData a die v σ := rfl
theorem exec_bar4Read (off n : Nat) (σ : State) : exec (.bar4Read off n) σ = execBar4Read off n σ := rfl
theorem exec_bar4Write (off : Nat) (data : List Byte) (σ : State) : exec (.bar4Write off data) σ = execBar4Write off data σ := rfl
theorem exec_registerWrite (a : Agent) (off : Nat) (v : Word) (σ : State) : exec (.registerWrite a off v) σ = execRegisterWrite a off v σ := rfl
theorem exec_moduleReset (σ : State) : exec (.moduleReset) σ = execModuleReset σ := rfl
theorem exec_bringUpStage (ok : Bool) (σ : State) : exec (.bringUpStage ok) σ = execBringUpStage ok σ := rfl
theorem exec_clockStep (up : Bool) (σ : State) : exec (.clockStep up) σ = execClockStep up σ := rfl
theorem exec_coolantFatal (σ : State) : exec (.coolantFatal) σ = execCoolantFatal σ := rfl
theorem exec_linkFailure (σ : State) : exec (.linkFailure) σ = execLinkFailure σ := rfl
theorem exec_writePerformed (t : Tid) (id : Nat) (σ : State) : exec (.writePerformed t id) σ = execWritePerformed t id σ := rfl
theorem exec_instructionFetch (t : Tid) (σ : State) : exec (.instructionFetch t) σ = execInstructionFetch t σ := rfl
theorem exec_notAnInstruction (w : Word) (reason : Nat) (σ : State) : exec (.notAnInstruction w reason) σ = execNotAnInstruction w reason σ := rfl
theorem exec_ringLocked (port : Nat) (σ : State) : exec (.ringLocked port) σ = execRingLocked port σ := rfl
theorem exec_completionTimeout (t : Tid) (id : Nat) (σ : State) : exec (.completionTimeout t id) σ = execCompletionTimeout t id σ := rfl
theorem exec_unitPoisoned (key : Nat) (σ : State) : exec (.unitPoisoned key) σ = execUnitPoisoned key σ := rfl

end Sys2Proof.Laws
end

