-- ==== Sys2Proof/Laws/Memory.lean ====
section
/-! SUPPORT. Memory.lean: the laws of memory: every operation keeps the canonical form, and what a byte reads as after one. -/
namespace Sys2Proof.Laws
open Sys2Proof.Machine

/-- The canonical form, said of the list as a whole. -/
theorem memWfFrom_iff (lo : Nat) (m : List Host.Cell) :
    memWfFrom lo m = true ↔ m.Pairwise (fun x y => x.1 < y.1) ∧ ∀ c ∈ m, lo ≤ c.1 ∧ c.2 ≠ 0 := by
  induction m generalizing lo with
  | nil => simp [memWfFrom]
  | cons c l ih =>
    simp only [memWfFrom, Bool.and_eq_true, decide_eq_true_eq, bne_iff_ne, ne_eq, ih, List.pairwise_cons, List.mem_cons, forall_eq_or_imp]
    constructor
    · rintro ⟨⟨h1, h2⟩, h3, h4⟩
      exact ⟨⟨fun x hx => (h4 x hx).1, h3⟩, ⟨h1, h2⟩, fun x hx => ⟨by have := (h4 x hx).1; omega, (h4 x hx).2⟩⟩
    · rintro ⟨⟨h1, h2⟩, ⟨h3, h4⟩, h5⟩
      exact ⟨⟨h3, h4⟩, h2, fun x hx => ⟨h1 x hx, (h5 x hx).2⟩⟩

theorem wf_iff (m : List Host.Cell) :
    Memory.wf m = true ↔ m.Pairwise (fun x y => x.1 < y.1) ∧ ∀ c ∈ m, c.2 ≠ 0 := by
  simp [Memory.wf, memWfFrom_iff]

/-- Removing cells keeps the canonical form. -/
@[simp] theorem wf_filter {m : List Host.Cell} (p : Host.Cell → Bool) (h : Memory.wf m = true) : Memory.wf (m.filter p) = true := by
  rw [wf_iff] at *
  exact ⟨h.1.filter p, fun c hc => h.2 c ((List.mem_filter.mp hc).1)⟩

@[simp] theorem wf_memZero {m : List Host.Cell} (a n : Nat) (h : Memory.wf m = true) : Memory.wf (memZero m a n) = true := wf_filter _ h

/-- The cells that a run of bytes lists. -/
theorem mem_memCells (bs : List Byte) (a : Nat) (c : Host.Cell) :
    c ∈ memCells bs a ↔ a ≤ c.1 ∧ bs[c.1 - a]? = some c.2 ∧ c.2 ≠ 0 := by
  induction bs generalizing a with
  | nil => simp [memCells]
  | cons b l ih =>
    have key : (c.1 = a ∧ c.2 = b ∧ c.2 ≠ 0) ∨ (a + 1 ≤ c.1 ∧ l[c.1 - (a + 1)]? = some c.2 ∧ c.2 ≠ 0) ↔
        a ≤ c.1 ∧ (b :: l)[c.1 - a]? = some c.2 ∧ c.2 ≠ 0 := by
      by_cases e : c.1 = a
      · subst e
        simp only [Nat.sub_self, List.getElem?_cons_zero, Option.some.injEq, Nat.le_refl, true_and]
        constructor
        · rintro (⟨h, k⟩ | ⟨h, -⟩)
          · exact ⟨h.symm, k⟩
          · omega
        · rintro ⟨h, k⟩; exact .inl ⟨h.symm, k⟩
      · by_cases g : a < c.1
        · rw [show c.1 - a = (c.1 - (a + 1)) + 1 by omega, List.getElem?_cons_succ]
          constructor
          · rintro (⟨h, -⟩ | ⟨-, h⟩)
            · omega
            · exact ⟨by omega, h⟩
          · rintro ⟨-, h⟩; exact .inr ⟨g, h⟩
        · constructor
          · rintro (⟨h, -⟩ | ⟨h, -⟩) <;> omega
          · rintro ⟨h, -⟩; omega
    by_cases z : b = 0
    · simp only [memCells, z, if_true, ih]
      rw [z] at key; rw [← key]
      constructor
      · exact .inr
      · rintro (⟨-, h, k⟩ | h)
        · exact absurd h k
        · exact h
    · simp only [memCells, z, if_false, List.mem_cons, ih]
      rw [← key]
      constructor
      · rintro (h | h)
        · exact .inl (by subst h; exact ⟨rfl, rfl, z⟩)
        · exact .inr h
      · rintro (⟨h1, h2, -⟩ | h)
        · exact .inl (Prod.ext h1 h2)
        · exact .inr h

theorem memCells_sorted (bs : List Byte) (a : Nat) : (memCells bs a).Pairwise (fun x y => x.1 < y.1) := by
  induction bs generalizing a with
  | nil => exact List.Pairwise.nil
  | cons b l ih =>
    by_cases z : b = 0
    · simpa [memCells, z] using ih (a + 1)
    · simp only [memCells, z, if_false]
      exact List.Pairwise.cons (fun c hc => ((mem_memCells l (a + 1) c).mp hc).1) (ih (a + 1))

/-- Which cells stand after a write. -/
theorem mem_memWrite (m : List Host.Cell) (bs : List Byte) (a : Nat) (c : Host.Cell) :
    c ∈ memWrite m bs a ↔ (c ∈ m ∧ (c.1 < a ∨ a + bs.length ≤ c.1)) ∨ (a ≤ c.1 ∧ bs[c.1 - a]? = some c.2 ∧ c.2 ≠ 0) := by
  simp only [memWrite, List.mem_append, List.mem_filter, mem_memCells, decide_eq_true_eq]
  grind

/-- A write keeps the canonical form. -/
@[simp] theorem wf_memWrite {m : List Host.Cell} (bs : List Byte) (a : Nat) (h : Memory.wf m = true) : Memory.wf (memWrite m bs a) = true := by
  rw [wf_iff] at *
  refine ⟨?_, ?_⟩
  · simp only [memWrite, List.pairwise_append, List.mem_append, List.mem_filter, decide_eq_true_eq, mem_memCells]
    refine ⟨h.1.filter _, ⟨memCells_sorted bs a, h.1.filter _, ?_⟩, ?_⟩
    · rintro x ⟨-, hx, -⟩ y ⟨-, hy⟩
      have := (List.getElem?_eq_some_iff.mp hx).1; omega
    · rintro x ⟨-, hx⟩ y (⟨hy, -⟩ | ⟨-, hy⟩) <;> omega
  · intro c hc
    rcases (mem_memWrite m bs a c).mp hc with ⟨k, -⟩ | ⟨-, -, k⟩
    · exact h.2 c k
    · exact k

/-- A listed byte reads as listed. -/
theorem memByte_of_mem {m : List Host.Cell} {a : Nat} {b : Byte} (h : Memory.wf m = true) (hm : (a, b) ∈ m) : memByte m a = b := by
  rw [wf_iff] at h
  obtain ⟨hp, -⟩ := h
  induction m with
  | nil => cases hm
  | cons c l ih =>
    rw [List.pairwise_cons] at hp
    rcases List.mem_cons.mp hm with e | e
    · subst e; simp [memByte]
    · have lt : c.1 < a := hp.1 _ e
      simp only [memByte, show c.1 ≠ a by omega, if_false, show ¬ a < c.1 by omega, ih e hp.2]

/-- An unlisted byte reads as 0. -/
theorem memByte_of_not_mem {m : List Host.Cell} {a : Nat} (hm : ∀ b, (a, b) ∉ m) : memByte m a = 0 := by
  induction m with
  | nil => rfl
  | cons c l ih =>
    have ne : c.1 ≠ a := by rintro rfl; exact hm c.2 (List.mem_cons_self ..)
    simp only [memByte, ne, if_false]
    split
    · rfl
    · exact ih (fun b hb => hm b (List.mem_cons_of_mem _ hb))

/-- What a byte reads as, as a search. -/
theorem memByte_eq {m : List Host.Cell} (h : Memory.wf m = true) (a : Nat) (b : Byte) :
    memByte m a = b ↔ (a, b) ∈ m ∨ (b = 0 ∧ ∀ x, (a, x) ∉ m) := by
  constructor
  · intro e
    by_cases k : ∃ x, (a, x) ∈ m
    · obtain ⟨x, hx⟩ := k
      rw [memByte_of_mem h hx] at e
      exact .inl (e ▸ hx)
    · have k' : ∀ x, (a, x) ∉ m := fun x hx => k ⟨x, hx⟩
      rw [memByte_of_not_mem k'] at e
      exact .inr ⟨e.symm, k'⟩
  · rintro (e | ⟨e, k⟩)
    · exact memByte_of_mem h e
    · rw [memByte_of_not_mem k, e]

/-- After a write, the bytes written read as written and every other byte as before. -/
theorem memByte_memWrite {m : List Host.Cell} (h : Memory.wf m = true) (bs : List Byte) (a x : Nat) :
    memByte (memWrite m bs a) x = if a ≤ x ∧ x < a + bs.length then bs.getD (x - a) 0 else memByte m x := by
  have w := wf_memWrite bs a h
  split
  · rename_i k
    rw [memByte_eq w]
    have hb : bs[x - a]? = some (bs.getD (x - a) 0) := by
      rw [List.getD_eq_getElem?_getD, List.getElem?_eq_getElem (by omega)]; rfl
    by_cases z : bs.getD (x - a) 0 = 0
    · refine .inr ⟨z, fun y hy => ?_⟩
      rcases (mem_memWrite m bs a (x, y)).mp hy with ⟨-, e⟩ | ⟨-, e, n⟩
      · simp only at e; omega
      · simp only at e n; rw [hb] at e; exact n (by rw [← Option.some.inj e]; exact z)
    · exact .inl ((mem_memWrite m bs a _).mpr (.inr ⟨k.1, hb, z⟩))
  · rename_i k
    rw [memByte_eq w]
    rcases (memByte_eq h x _).mp rfl with e | ⟨e, n⟩
    · exact .inl ((mem_memWrite m bs a _).mpr (.inl ⟨e, by simp only; omega⟩))
    · refine .inr ⟨e, fun y hy => ?_⟩
      rcases (mem_memWrite m bs a (x, y)).mp hy with ⟨g, -⟩ | ⟨g1, g2, -⟩
      · exact n y g
      · simp only at g1 g2
        have := (List.getElem?_eq_some_iff.mp g2).1; omega

/-- After a range is cleared it reads as 0, and every other byte as before. -/
theorem memByte_memZero {m : List Host.Cell} (h : Memory.wf m = true) (a n x : Nat) :
    memByte (memZero m a n) x = if a ≤ x ∧ x < a + n then 0 else memByte m x := by
  have w := wf_memZero a n h
  split
  · rename_i k
    apply memByte_of_not_mem
    intro b hb
    simp only [memZero, List.mem_filter, Bool.or_eq_true, decide_eq_true_eq] at hb
    omega
  · rename_i k
    rw [memByte_eq w]
    rcases (memByte_eq h x _).mp rfl with e | ⟨e, g⟩
    · exact .inl (by simp only [memZero, List.mem_filter, Bool.or_eq_true, decide_eq_true_eq]; exact ⟨e, by omega⟩)
    · exact .inr ⟨e, fun y hy => g y ((List.mem_filter.mp hy).1)⟩

theorem memRead_length (m : List Host.Cell) (n a : Nat) : (memRead m n a).length = n := by
  induction n generalizing a with
  | zero => rfl
  | succ n ih => simp [memRead, ih]

/-- Reading `n` bytes is reading each of them. -/
theorem memRead_getD (m : List Host.Cell) (n a i : Nat) (h : i < n) : (memRead m n a).getD i 0 = memByte m (a + i) := by
  induction n generalizing a i with
  | zero => omega
  | succ n ih =>
    cases i with
    | zero => rfl
    | succ i =>
      simp only [memRead, List.getD_cons_succ]
      rw [ih (a + 1) i (by omega), show a + 1 + i = a + (i + 1) by omega]

theorem reset_memory : Memory.wf State.reset.mem = true := rfl

end Sys2Proof.Laws
end

