-- ==== Sys2Proof/Laws/Inv.lean ====
section
/-! SUPPORT. Inv.lean: the invariant of the machine through record updates, folds and the types of answers. -/
namespace Sys2Proof.Laws
open Sys2Proof.Machine Sys2Proof.Safety

theorem inv_iff (s : State) : MachineInv s ↔ Memory.wf s.mem = true ∧ s.dies.length = 4 ∧ s.errs.length = 8 ∧ s.queues.length = 16
    ∧ s.windows.length = 64 ∧ s.podKeys.length = 256 ∧ s.net.ports.length = 64 := Iff.rfl

/-- The invariant of a record is about seven of its parts. -/
@[simp] theorem inv_mk
    (agenda : List Next) (flip : Bool) (turn : Nat) (cur : Option Tid) (cons : List Tid) (gather : List (Tid × Word)) (age : List Tid) (nextId : Nat)
    (freeCtr : Nat) (mem : List Host.Cell) (poison : List (Nat × Nat)) (lines : List (Nat × Nat)) (l1 : List Copy) (rdc : List Copy)
    (mtlb : List Mtlb) (roots : List (Nat × Nat × DWord)) (groups : List Group) (launches : List Launch) (nextGid : Nat) (ns : Nat)
    (pkgId : BitVec 10) (netWeights : Word) (tiles : List Tile) (recs : List QRec) (pool : List Pending) (kept : List Kept)
    (trigs : List Trig) (copies : List CopyCmd) (flips : List Flip) (engines : List Engine) (savedEng : List SavedEngine)
    (queries : List Query) (bauq : List (Nat × Nat × Nat)) (routes : List RouteSlot) (colls : List Coll) (heldColl : List HeldColl)
    (aborts : List AbortRec) (gangs : List Gang) (barArr : List BarArr) (frecs : List FRec) (dies : List DieRegs)
    (errs : List (BitVec 16 × BitVec 16)) (calSlot : BitVec 6) (calCycle : DWord) (net : Net) (ctl : Ctl) (windows : List (DWord × DWord))
    (podKeys : List Word) (queues : List CQueue) (cmds : List HostCmd) (chanOut : List ChanDone) (bar4 : Bar4Done) :
    MachineInv (State.mk
      agenda flip turn cur cons gather age nextId freeCtr mem poison lines l1 rdc mtlb roots groups launches nextGid ns pkgId netWeights
        tiles recs pool kept trigs copies flips engines savedEng queries bauq routes colls heldColl aborts gangs barArr frecs dies errs
        calSlot calCycle net ctl windows podKeys queues cmds chanOut bar4) ↔
      Memory.wf mem = true ∧ dies.length = 4 ∧ errs.length = 8 ∧ queues.length = 16 ∧ windows.length = 64 ∧ podKeys.length = 256
        ∧ net.ports.length = 64 := Iff.rfl

@[simp] theorem inv_mem {s : State} (h : MachineInv s) : Memory.wf s.mem = true := h.1
@[simp] theorem inv_dies {s : State} (h : MachineInv s) : s.dies.length = 4 := h.2.1
@[simp] theorem inv_errs {s : State} (h : MachineInv s) : s.errs.length = 8 := h.2.2.1
@[simp] theorem inv_queues {s : State} (h : MachineInv s) : s.queues.length = 16 := h.2.2.2.1
@[simp] theorem inv_windows {s : State} (h : MachineInv s) : s.windows.length = 64 := h.2.2.2.2.1
@[simp] theorem inv_podKeys {s : State} (h : MachineInv s) : s.podKeys.length = 256 := h.2.2.2.2.2.1
@[simp] theorem inv_ports {s : State} (h : MachineInv s) : s.net.ports.length = 64 := h.2.2.2.2.2.2

/-- A fold of steps that keep the invariant keeps it. -/
theorem inv_foldl {α : Type} {f : State → α → State} (hf : ∀ s x, MachineInv s → MachineInv (f s x)) (l : List α) {s : State} (h : MachineInv s) :
    MachineInv (l.foldl f s) := by
  induction l generalizing s with
  | nil => exact h
  | cons x l ih => exact ih (hf s x h)

/-- The invariant of a choice. -/
theorem inv_ite {c : Prop} [Decidable c] {a b : State} : MachineInv (if c then a else b) ↔ (c → MachineInv a) ∧ (¬ c → MachineInv b) := by
  split <;> simp_all

/-- What an answer that may be absent leaves. -/
def OptInv (o : Option State) : Prop := ∀ s, o = some s → MachineInv s
/-- What an instruction leaves when it answers a next state. -/
def OutInv (o : Out) : Prop := ∀ s, o = .next s → MachineInv s

@[simp] theorem optInv_none : OptInv none := fun _ h => by cases h
@[simp] theorem optInv_some (s : State) : OptInv (some s) ↔ MachineInv s := ⟨fun h => h s rfl, fun h _ e => by cases e; exact h⟩
@[simp] theorem outInv_next (s : State) : OutInv (.next s) ↔ MachineInv s := ⟨fun h => h s rfl, fun h _ e => by cases e; exact h⟩
@[simp] theorem outInv_fault (r : Fault) : OutInv (.fault r) := fun _ h => by cases h
@[simp] theorem outInv_notNow : OutInv notNow := fun _ h => by cases h

/-- What an answer with an error leaves. -/
def ExcInv {ε : Type} : Except ε State → Prop
  | .ok s => MachineInv s
  | .error _ => True

/-- What a read leaves: the error counts, or the bytes. -/
def ErrInv {α : Type} : Except State α → Prop
  | .ok _ => True
  | .error s => MachineInv s

def ReadInv {α : Type} : Except State (State × α) → Prop
  | .ok r => MachineInv r.1
  | .error s => MachineInv s

/-- What a write to a buffer leaves: the error counts, or the bytes written. -/
def BothInv : Except State State → Prop
  | .ok s => MachineInv s
  | .error s => MachineInv s

@[simp] theorem bothInv_ok (s : State) : BothInv (.ok s) ↔ MachineInv s := Iff.rfl
@[simp] theorem bothInv_error (s : State) : BothInv (.error s) ↔ MachineInv s := Iff.rfl
@[simp] theorem excInv_ok {ε : Type} (s : State) : ExcInv (ε := ε) (.ok s) ↔ MachineInv s := Iff.rfl
@[simp] theorem excInv_error {ε : Type} (e : ε) : ExcInv (.error e) := trivial
@[simp] theorem errInv_ok {α : Type} (a : α) : ErrInv (.ok a) := trivial
@[simp] theorem errInv_error {α : Type} (s : State) : ErrInv (α := α) (.error s) ↔ MachineInv s := Iff.rfl
@[simp] theorem readInv_ok {α : Type} (s : State) (a : α) : ReadInv (.ok (s, a)) ↔ MachineInv s := Iff.rfl
@[simp] theorem readInv_error {α : Type} (s : State) : ReadInv (α := α) (.error s) ↔ MachineInv s := Iff.rfl

theorem excInv_bind {ε α : Type} (r : Except ε α) (f : α → Except ε State) (h : ∀ x, ExcInv (f x)) : ExcInv (r >>= f) := by
  cases r
  · trivial
  · exact h _

end Sys2Proof.Laws
end

