-- ==== Sys2Proof/Laws/KeepOps.lean ====
section
/-! SUPPORT. KeepOps.lean: the invariant of the machine is kept: the parts of the state, memory, faults and the shared operations. -/
namespace Sys2Proof.Laws
open Sys2Proof.Machine Sys2Proof.Safety

@[simp] theorem countErr_inv (s : State) (key : Nat) (hs : MachineInv s) : MachineInv (countErr s key) := by
  unfold countErr
  (repeat' split) <;> first
    | (simp (maxDischargeDepth := 9) [hs]; done)
    | (simp +contextual (maxDischargeDepth := 9) [hs, inv_foldl, inv_ite]; done)
    | (refine inv_foldl (fun s x h => ?_) _ (by simp (maxDischargeDepth := 9) [hs]); dsimp only; (repeat' split) <;> simp (maxDischargeDepth := 9) [h])

@[simp] theorem countCorrected_inv (s : State) (key : Nat) (hs : MachineInv s) : MachineInv (countCorrected s key) := by
  unfold countCorrected
  (repeat' split) <;> first
    | (simp (maxDischargeDepth := 9) [hs]; done)
    | (simp +contextual (maxDischargeDepth := 9) [hs, inv_foldl, inv_ite]; done)
    | (refine inv_foldl (fun s x h => ?_) _ (by simp (maxDischargeDepth := 9) [hs]); dsimp only; (repeat' split) <;> simp (maxDischargeDepth := 9) [h])

@[simp] theorem countWalk_inv (s : State) (die asid v : Nat) (hs : MachineInv s) : MachineInv (countWalk s die asid v) := by
  unfold countWalk
  (repeat' split) <;> first
    | (simp (maxDischargeDepth := 9) [hs]; done)
    | (simp +contextual (maxDischargeDepth := 9) [hs, inv_foldl, inv_ite]; done)
    | (refine inv_foldl (fun s x h => ?_) _ (by simp (maxDischargeDepth := 9) [hs]); dsimp only; (repeat' split) <;> simp (maxDischargeDepth := 9) [h])

@[simp] theorem countReads_inv (s : State) (asid w n : Nat) (a : DWord) (hs : MachineInv s) : MachineInv (countReads s asid w n a) := by
  unfold countReads
  (repeat' split) <;> first
    | (simp (maxDischargeDepth := 9) [hs]; done)
    | (simp +contextual (maxDischargeDepth := 9) [hs, inv_foldl, inv_ite]; done)
    | (refine inv_foldl (fun s x h => ?_) _ (by simp (maxDischargeDepth := 9) [hs]); dsimp only; (repeat' split) <;> simp (maxDischargeDepth := 9) [h])

@[simp] theorem fillMtlb_inv (s : State) (die asid v : Nat) (hs : MachineInv s) : MachineInv (fillMtlb s die asid v) := by
  unfold fillMtlb
  (repeat' split) <;> first
    | (simp (maxDischargeDepth := 9) [hs]; done)
    | (simp +contextual (maxDischargeDepth := 9) [hs, inv_foldl, inv_ite]; done)
    | (refine inv_foldl (fun s x h => ?_) _ (by simp (maxDischargeDepth := 9) [hs]); dsimp only; (repeat' split) <;> simp (maxDischargeDepth := 9) [h])

@[simp] theorem modGroup_inv (s : State) (gid : Nat) (f : Group → Group) (hs : MachineInv s) : MachineInv (State.modGroup s gid f) := by
  unfold State.modGroup
  (repeat' split) <;> first
    | (simp (maxDischargeDepth := 9) [hs]; done)
    | (simp +contextual (maxDischargeDepth := 9) [hs, inv_foldl, inv_ite]; done)
    | (refine inv_foldl (fun s x h => ?_) _ (by simp (maxDischargeDepth := 9) [hs]); dsimp only; (repeat' split) <;> simp (maxDischargeDepth := 9) [h])

@[simp] theorem modThread_inv (s : State) (t : Tid) (f : Thread → Thread) (hs : MachineInv s) : MachineInv (State.modThread s t f) := by
  unfold State.modThread
  (repeat' split) <;> first
    | (simp (maxDischargeDepth := 9) [hs]; done)
    | (simp +contextual (maxDischargeDepth := 9) [hs, inv_foldl, inv_ite]; done)
    | (refine inv_foldl (fun s x h => ?_) _ (by simp (maxDischargeDepth := 9) [hs]); dsimp only; (repeat' split) <;> simp (maxDischargeDepth := 9) [h])

@[simp] theorem modLaunch_inv (s : State) (l : LRef) (f : Launch → Launch) (hs : MachineInv s) : MachineInv (State.modLaunch s l f) := by
  unfold State.modLaunch
  (repeat' split) <;> first
    | (simp (maxDischargeDepth := 9) [hs]; done)
    | (simp +contextual (maxDischargeDepth := 9) [hs, inv_foldl, inv_ite]; done)
    | (refine inv_foldl (fun s x h => ?_) _ (by simp (maxDischargeDepth := 9) [hs]); dsimp only; (repeat' split) <;> simp (maxDischargeDepth := 9) [h])

@[simp] theorem modTeam_inv (s : State) (l : LRef) (team : Nat) (f : Team → Team) (hs : MachineInv s) : MachineInv (State.modTeam s l team f) := by
  unfold State.modTeam
  (repeat' split) <;> first
    | (simp (maxDischargeDepth := 9) [hs]; done)
    | (simp +contextual (maxDischargeDepth := 9) [hs, inv_foldl, inv_ite]; done)
    | (refine inv_foldl (fun s x h => ?_) _ (by simp (maxDischargeDepth := 9) [hs]); dsimp only; (repeat' split) <;> simp (maxDischargeDepth := 9) [h])

@[simp] theorem fresh_inv (s : State) (hs : MachineInv s) : MachineInv (State.fresh s).2 := by
  unfold State.fresh
  (repeat' split) <;> first
    | (simp (maxDischargeDepth := 9) [hs]; done)
    | (simp +contextual (maxDischargeDepth := 9) [hs, inv_foldl, inv_ite]; done)
    | (refine inv_foldl (fun s x h => ?_) _ (by simp (maxDischargeDepth := 9) [hs]); dsimp only; (repeat' split) <;> simp (maxDischargeDepth := 9) [h])

@[simp] theorem pocWrite_inv (s : State) (byGid : Option Nat) (key : Nat) (bs : List Byte) (hs : MachineInv s) : MachineInv (pocWrite s byGid key bs) := by
  simp (maxDischargeDepth := 9) [pocWrite, hs]

@[simp] theorem dropNames_inv (s : State) (core key : Nat) (kept : Option (Nat × Nat)) (hs : MachineInv s) : MachineInv (dropNames s core key kept) := by
  unfold dropNames
  (repeat' split) <;> first
    | (simp (maxDischargeDepth := 9) [hs]; done)
    | (simp +contextual (maxDischargeDepth := 9) [hs, inv_foldl, inv_ite]; done)
    | (refine inv_foldl (fun s x h => ?_) _ (by simp (maxDischargeDepth := 9) [hs]); dsimp only; (repeat' split) <;> simp (maxDischargeDepth := 9) [h])

@[simp] theorem acquireCopies_inv (s : State) (core : Nat) (uo : Bool) (hs : MachineInv s) : MachineInv (acquireCopies s core uo) := by
  unfold acquireCopies
  (repeat' split) <;> first
    | (simp (maxDischargeDepth := 9) [hs]; done)
    | (simp +contextual (maxDischargeDepth := 9) [hs, inv_foldl, inv_ite]; done)
    | (refine inv_foldl (fun s x h => ?_) _ (by simp (maxDischargeDepth := 9) [hs]); dsimp only; (repeat' split) <;> simp (maxDischargeDepth := 9) [h])

@[simp] theorem dropPage_inv (s : State) (asid : Option Nat) (die v lvl : Nat) (hs : MachineInv s) : MachineInv (dropPage s asid die v lvl) := by
  unfold dropPage
  (repeat' split) <;> first
    | (simp (maxDischargeDepth := 9) [hs]; done)
    | (simp +contextual (maxDischargeDepth := 9) [hs, inv_foldl, inv_ite]; done)
    | (refine inv_foldl (fun s x h => ?_) _ (by simp (maxDischargeDepth := 9) [hs]); dsimp only; (repeat' split) <;> simp (maxDischargeDepth := 9) [h])

theorem sendOut_ports (n : Net) (p : Nat) (o : OutPkt) : (sendOut n p o).1.ports.length = n.ports.length := by
  unfold sendOut; dsimp only; (repeat' split) <;> simp

@[simp] theorem sendNew_inv (s : State) (port : Option Nat) (o : OutPkt) (hs : MachineInv s) : MachineInv (sendNew s port o) := by
  unfold sendNew; dsimp only; (repeat' split) <;> simp (maxDischargeDepth := 9) [hs, sendOut_ports]

@[simp] theorem enqueueLate_inv (s : State) (id die : Nat) (launch : Option LRef) (hop ddie kind : Nat) (body : Body) (hs : MachineInv s) : MachineInv (enqueueLate s id die launch hop ddie kind body) := by
  unfold enqueueLate
  (repeat' split) <;> first
    | (simp (maxDischargeDepth := 9) [hs]; done)
    | (simp +contextual (maxDischargeDepth := 9) [hs, inv_foldl, inv_ite]; done)
    | (refine inv_foldl (fun s x h => ?_) _ (by simp (maxDischargeDepth := 9) [hs]); dsimp only; (repeat' split) <;> simp (maxDischargeDepth := 9) [h])

@[simp] theorem formLate_inv (s : State) (hs : MachineInv s) : MachineInv (formLate s) := by
  unfold formLate
  (repeat' split) <;> first
    | (simp (maxDischargeDepth := 9) [hs]; done)
    | (simp +contextual (maxDischargeDepth := 9) [hs, inv_foldl, inv_ite]; done)
    | (refine inv_foldl (fun s x h => ?_) _ (by simp (maxDischargeDepth := 9) [hs]); dsimp only; (repeat' split) <;> simp (maxDischargeDepth := 9) [h])

@[simp] theorem enqueue_inv (s : State) (id die : Nat) (launch : Option LRef) (hop dst ddie cls kind : Nat) (transit : Bool) (body : Body) (hs : MachineInv s) :
    MachineInv (enqueue s id die launch hop dst ddie cls kind transit body) :=
  sendNew_inv _ _ _ hs

@[simp] theorem countAdmit_inv (s : State) (l : Launch) (a : DWord) (hs : MachineInv s) : MachineInv (countAdmit s l a) := by
  unfold countAdmit
  (repeat' split) <;> first
    | (simp (maxDischargeDepth := 9) [hs]; done)
    | (simp +contextual (maxDischargeDepth := 9) [hs, inv_foldl, inv_ite]; done)
    | (refine inv_foldl (fun s x h => ?_) _ (by simp (maxDischargeDepth := 9) [hs]); dsimp only; (repeat' split) <;> simp (maxDischargeDepth := 9) [h])

@[simp] theorem pocRead_inv (s : State) (key n : Nat) (hs : MachineInv s) : ErrInv (pocRead s key n) := by
  unfold pocRead; split <;> simp (maxDischargeDepth := 9) [hs]

@[simp] theorem fillCopies_inv (s : State) (g : Group) (asid : Nat) (a : DWord) (kind key : Nat) (hs : MachineInv s) : MachineInv (fillCopies s g asid a kind key) := by
  unfold fillCopies
  (repeat' split) <;> first
    | (simp (maxDischargeDepth := 9) [hs]; done)
    | (simp +contextual (maxDischargeDepth := 9) [hs, inv_foldl, inv_ite]; done)
    | (refine inv_foldl (fun s x h => ?_) _ (by simp (maxDischargeDepth := 9) [hs]); dsimp only; (repeat' split) <;> simp (maxDischargeDepth := 9) [h])

@[simp] theorem cachedRead_inv (s : State) (g : Group) (past : Bool) (asid : Nat) (a : DWord) (kind key n : Nat) (hs : MachineInv s) : ReadInv (cachedRead s g past asid a kind key n) := by
  unfold cachedRead
  have k := pocRead_inv s key n hs
  dsimp only
  (repeat' split) <;> simp_all (maxDischargeDepth := 9)

@[simp] theorem versionedRead_inv (s : State) (g : Group) (tk : Task) (key n : Nat) (hs : MachineInv s) : MachineInv (versionedRead s g tk key n).1 := by
  unfold versionedRead
  (repeat' split) <;> first
    | (simp (maxDischargeDepth := 9) [hs]; done)
    | (simp +contextual (maxDischargeDepth := 9) [hs, inv_foldl, inv_ite]; done)
    | (refine inv_foldl (fun s x h => ?_) _ (by simp (maxDischargeDepth := 9) [hs]); dsimp only; (repeat' split) <;> simp (maxDischargeDepth := 9) [h])

@[simp] theorem consumeTile_inv (s : State) (core slot n : Nat) (hs : MachineInv s) : MachineInv (consumeTile s core slot n) := by
  unfold consumeTile
  (repeat' split) <;> first
    | (simp (maxDischargeDepth := 9) [hs]; done)
    | (simp +contextual (maxDischargeDepth := 9) [hs, inv_foldl, inv_ite]; done)
    | (refine inv_foldl (fun s x h => ?_) _ (by simp (maxDischargeDepth := 9) [hs]); dsimp only; (repeat' split) <;> simp (maxDischargeDepth := 9) [h])

/-- What the answer to an access leaves. -/
def ActInv : Act → Prop
  | .wait => True
  | .done s _ => MachineInv s
  | .refuse s _ _ => MachineInv s

@[simp] theorem actInv_wait : ActInv .wait := trivial
@[simp] theorem actInv_done (s : State) (v : List Word) : ActInv (.done s v) ↔ MachineInv s := Iff.rfl
@[simp] theorem actInv_refuse (s : State) (c d : Nat) : ActInv (.refuse s c d) ↔ MachineInv s := Iff.rfl

@[simp] theorem bindLoad_inv (s : State) (l : Launch) (g : Group) (p : Pend) (size : Nat) (acq consume : Bool) (key : Nat) (hs : MachineInv s) :
    ActInv (bindLoad s l g p size acq consume key) := by
  have k1 := pocRead_inv s key (sizeBytes size) hs
  have k2 := fun kd => cachedRead_inv s g p.bypass l.asid p.addr kd key (sizeBytes size) hs
  unfold bindLoad
  dsimp only
  split
  · split
    · trivial
    · split
      · split <;> simp (maxDischargeDepth := 9) [hs, inv_ite]
      · split
        · split <;> rename_i e <;> rw [e] at k1 <;> simp_all (maxDischargeDepth := 9) [inv_ite]
        · rename_i x _ _ _ _ _
          have k := k2 x
          split <;> rename_i e <;> rw [e] at k <;> simp_all
  · split <;> simp (maxDischargeDepth := 9) [hs, inv_ite]
  · (repeat' split) <;> simp (maxDischargeDepth := 9) [hs, inv_ite]
  · trivial

@[simp] theorem atomicAt_inv (s : State) (byGid : Option Nat) (minor key n : Nat) (ops : List Word) (hs : MachineInv s) :
    MachineInv (atomicAt s byGid minor key n ops).1 := by
  unfold atomicAt; dsimp only; split <;> simp (maxDischargeDepth := 9) [hs]

@[simp] theorem performStore_inv (s : State) (l : Launch) (g : Group) (p : Pend) (key : Nat) (d : List Byte) (hs : MachineInv s) : ActInv (performStore s l g p key d) := by
  unfold performStore
  (repeat' split) <;> first
    | (simp (maxDischargeDepth := 9) [hs]; done)
    | (simp +contextual (maxDischargeDepth := 9) [hs, inv_foldl, inv_ite]; done)
    | (refine inv_foldl (fun s x h => ?_) _ (by simp (maxDischargeDepth := 9) [hs]); dsimp only; (repeat' split) <;> simp (maxDischargeDepth := 9) [h])

@[simp] theorem performAtomic_inv (s : State) (l : Launch) (g : Group) (p : Pend) (key minor : Nat) (ops : List Word) (acq : Bool) (hs : MachineInv s) : ActInv (performAtomic s l g p key minor ops acq) := by
  unfold performAtomic
  dsimp only
  (repeat' split) <;> simp (maxDischargeDepth := 9) [hs, inv_ite]

@[simp] theorem eatBlock_inv (s : State) (l : Launch) (g : Group) (core : Nat) (o : MOp) (isA : Bool) (hs : MachineInv s) : MachineInv (eatBlock s l g core o isA).1 := by
  unfold eatBlock; extract_lets q; split <;> simp (maxDischargeDepth := 9) [hs]

@[simp] theorem putRead_inv (s : State) (l : Launch) (g : Group) (core : Nat) (o : MOp) (hs : MachineInv s) : MachineInv (putRead s l g core o) := by
  unfold putRead
  (repeat' split) <;> first
    | (simp (maxDischargeDepth := 9) [hs]; done)
    | (simp +contextual (maxDischargeDepth := 9) [hs, inv_foldl, inv_ite]; done)
    | (refine inv_foldl (fun s x h => ?_) _ (by simp (maxDischargeDepth := 9) [hs]); dsimp only; (repeat' split) <;> simp (maxDischargeDepth := 9) [h])

@[simp] theorem readHeld_inv (s : State) (lines : List Nat) (hs : MachineInv s) : MachineInv (readHeld s lines) := by
  unfold readHeld
  (repeat' split) <;> first
    | (simp (maxDischargeDepth := 9) [hs]; done)
    | (simp +contextual (maxDischargeDepth := 9) [hs, inv_foldl, inv_ite]; done)
    | (refine inv_foldl (fun s x h => ?_) _ (by simp (maxDischargeDepth := 9) [hs]); dsimp only; (repeat' split) <;> simp (maxDischargeDepth := 9) [h])

@[simp] theorem changeLines_inv (s : State) (lines : List Nat) (st : Nat) (hs : MachineInv s) : MachineInv (changeLines s lines st) := by
  unfold changeLines
  (repeat' split) <;> first
    | (simp (maxDischargeDepth := 9) [hs]; done)
    | (simp +contextual (maxDischargeDepth := 9) [hs, inv_foldl, inv_ite]; done)
    | (refine inv_foldl (fun s x h => ?_) _ (by simp (maxDischargeDepth := 9) [hs]); dsimp only; (repeat' split) <;> simp (maxDischargeDepth := 9) [h])

@[simp] theorem modDie_inv (s : State) (d : Nat) (f : DieRegs → DieRegs) (hs : MachineInv s) : MachineInv (State.modDie s d f) := by
  unfold State.modDie
  (repeat' split) <;> first
    | (simp (maxDischargeDepth := 9) [hs]; done)
    | (simp +contextual (maxDischargeDepth := 9) [hs, inv_foldl, inv_ite]; done)
    | (refine inv_foldl (fun s x h => ?_) _ (by simp (maxDischargeDepth := 9) [hs]); dsimp only; (repeat' split) <;> simp (maxDischargeDepth := 9) [h])

@[simp] theorem countAddr_inv (s : State) (asid : Nat) (a : DWord) (hs : MachineInv s) : MachineInv (countAddr s asid a) := by
  unfold countAddr
  (repeat' split) <;> first
    | (simp (maxDischargeDepth := 9) [hs]; done)
    | (simp +contextual (maxDischargeDepth := 9) [hs, inv_foldl, inv_ite]; done)
    | (refine inv_foldl (fun s x h => ?_) _ (by simp (maxDischargeDepth := 9) [hs]); dsimp only; (repeat' split) <;> simp (maxDischargeDepth := 9) [h])

@[simp] theorem pumpRing_inv (s : State) (die : Nat) (fuel : Nat) (hs : MachineInv s) : MachineInv (pumpRing s die fuel) := by
  induction fuel generalizing s with
  | zero => exact hs
  | succ fuel ih =>
    unfold pumpRing
    dsimp only
    (repeat' split) <;> first | exact hs | exact countAddr_inv _ _ _ hs | exact ih _ (by simp (maxDischargeDepth := 9) [hs])

@[simp] theorem ringPump_inv (s : State) (die : Nat) (hs : MachineInv s) : MachineInv (ringPump s die) := by
  unfold ringPump
  (repeat' split) <;> first
    | (simp (maxDischargeDepth := 9) [hs]; done)
    | (simp +contextual (maxDischargeDepth := 9) [hs, inv_foldl, inv_ite]; done)
    | (refine inv_foldl (fun s x h => ?_) _ (by simp (maxDischargeDepth := 9) [hs]); dsimp only; (repeat' split) <;> simp (maxDischargeDepth := 9) [h])

@[simp] theorem postRec_inv (s : State) (die : Nat) (addr pc : DWord) (launch : Nat) (place mask : Word) (kind reason : Nat) (who : FWho) (open_ : Bool)
    (hs : MachineInv s) : MachineInv (postRec s die addr pc launch place mask kind reason who open_).2 := by
  simp (maxDischargeDepth := 9) [postRec, hs]

@[simp] theorem joinRec_inv (s : State) (l : Launch) (g : Group) (lanes : List Nat) (r : TrapRec) (hs : MachineInv s) : MachineInv (joinRec s l g lanes r).2 := by
  unfold joinRec; (repeat' split) <;> simp (maxDischargeDepth := 9) [hs]

@[simp] theorem closeRec_inv (s : State) (die tag : Nat) (hs : MachineInv s) : MachineInv (closeRec s die tag) := by
  unfold closeRec
  (repeat' split) <;> first
    | (simp (maxDischargeDepth := 9) [hs]; done)
    | (simp +contextual (maxDischargeDepth := 9) [hs, inv_foldl, inv_ite]; done)
    | (refine inv_foldl (fun s x h => ?_) _ (by simp (maxDischargeDepth := 9) [hs]); dsimp only; (repeat' split) <;> simp (maxDischargeDepth := 9) [h])

@[simp] theorem abortAt_inv (s : State) (die group cseq key code : Nat) (hs : MachineInv s) : MachineInv (abortAt s die group cseq key code) := by
  unfold abortAt
  (repeat' split) <;> first
    | (simp (maxDischargeDepth := 9) [hs]; done)
    | (simp +contextual (maxDischargeDepth := 9) [hs, inv_foldl, inv_ite]; done)
    | (refine inv_foldl (fun s x h => ?_) _ (by simp (maxDischargeDepth := 9) [hs]); dsimp only; (repeat' split) <;> simp (maxDischargeDepth := 9) [h])

@[simp] theorem tellMembers_inv (s : State) (c : Coll) (code : Nat) (hs : MachineInv s) : MachineInv (tellMembers s c code) := by
  unfold tellMembers
  (repeat' split) <;> first
    | (simp (maxDischargeDepth := 9) [hs]; done)
    | (simp +contextual (maxDischargeDepth := 9) [hs, inv_foldl, inv_ite]; done)
    | (refine inv_foldl (fun s x h => ?_) _ (by simp (maxDischargeDepth := 9) [hs]); dsimp only; (repeat' split) <;> simp (maxDischargeDepth := 9) [h])

@[simp] theorem abortColl_inv (s : State) (c : Coll) (code : Nat) (hs : MachineInv s) : MachineInv (abortColl s c code) := by
  unfold abortColl
  (repeat' split) <;> first
    | (simp (maxDischargeDepth := 9) [hs]; done)
    | (simp +contextual (maxDischargeDepth := 9) [hs, inv_foldl, inv_ite]; done)
    | (refine inv_foldl (fun s x h => ?_) _ (by simp (maxDischargeDepth := 9) [hs]); dsimp only; (repeat' split) <;> simp (maxDischargeDepth := 9) [h])

@[simp] theorem tellGangAbort_inv (s : State) (ref : LRef) (hs : MachineInv s) : MachineInv (tellGangAbort s ref) := by
  unfold tellGangAbort
  split
  · refine inv_foldl (fun s m h => ?_) _ hs
    simp (maxDischargeDepth := 9) [h]
  · exact hs

@[simp] theorem stopLaunch_inv (s : State) (l : Launch) (hs : MachineInv s) : MachineInv (stopLaunch s l) := by
  unfold stopLaunch
  extract_lets
  refine tellGangAbort_inv _ _ (postRec_inv _ _ _ _ _ _ _ _ _ _ _ (inv_foldl (fun s c h => abortColl_inv _ _ _ h) _ ?_))
  simp +zetaDelta [hs]

@[simp] theorem dropPooled_inv (s : State) (p : Pending) (hs : MachineInv s) : MachineInv (dropPooled s p) := by
  unfold dropPooled
  (repeat' split) <;> first
    | (simp (maxDischargeDepth := 9) [hs]; done)
    | (simp +contextual (maxDischargeDepth := 9) [hs, inv_foldl, inv_ite]; done)
    | (refine inv_foldl (fun s x h => ?_) _ (by simp (maxDischargeDepth := 9) [hs]); dsimp only; (repeat' split) <;> simp (maxDischargeDepth := 9) [h])

@[simp] theorem endGangWait_inv (s : State) (l : Launch) (hs : MachineInv s) : MachineInv (endGangWait s l) := by
  unfold endGangWait
  (repeat' split) <;> first
    | (simp (maxDischargeDepth := 9) [hs]; done)
    | (simp +contextual (maxDischargeDepth := 9) [hs, inv_foldl, inv_ite]; done)
    | (refine inv_foldl (fun s x h => ?_) _ (by simp (maxDischargeDepth := 9) [hs]); dsimp only; (repeat' split) <;> simp (maxDischargeDepth := 9) [h])

@[simp] theorem abortTree_inv (s : State) (ref : LRef) (fuel : Nat) (hs : MachineInv s) : MachineInv (abortTree s ref fuel) := by
  induction fuel generalizing s ref with
  | zero => exact hs
  | succ fuel ih =>
    unfold abortTree
    split
    · exact hs
    · split
      · exact endGangWait_inv _ _ hs
      · split
        · exact hs
        · exact inv_foldl (fun s x h => ih s x.ref h) _ (inv_foldl (fun s p h => dropPooled_inv s p h) _ (stopLaunch_inv _ _ hs))

@[simp] theorem abortLaunch_inv (s : State) (ref : LRef) (hs : MachineInv s) : MachineInv (abortLaunch s ref) := by
  unfold abortLaunch
  (repeat' split) <;> first
    | (simp (maxDischargeDepth := 9) [hs]; done)
    | (simp +contextual (maxDischargeDepth := 9) [hs, inv_foldl, inv_ite]; done)
    | (refine inv_foldl (fun s x h => ?_) _ (by simp (maxDischargeDepth := 9) [hs]); dsimp only; (repeat' split) <;> simp (maxDischargeDepth := 9) [h])

@[simp] theorem discardVersion_inv (s : State) (gid : Nat) (hs : MachineInv s) : MachineInv (discardVersion s gid) := by
  unfold discardVersion
  (repeat' split) <;> first
    | (simp (maxDischargeDepth := 9) [hs]; done)
    | (simp +contextual (maxDischargeDepth := 9) [hs, inv_foldl, inv_ite]; done)
    | (refine inv_foldl (fun s x h => ?_) _ (by simp (maxDischargeDepth := 9) [hs]); dsimp only; (repeat' split) <;> simp (maxDischargeDepth := 9) [h])

@[simp] theorem putCtx_inv (s : State) (c : Ctx) (hs : MachineInv s) : MachineInv (putCtx s c) := by
  unfold putCtx
  (repeat' split) <;> first
    | (simp (maxDischargeDepth := 9) [hs]; done)
    | (simp +contextual (maxDischargeDepth := 9) [hs, inv_foldl, inv_ite]; done)
    | (refine inv_foldl (fun s x h => ?_) _ (by simp (maxDischargeDepth := 9) [hs]); dsimp only; (repeat' split) <;> simp (maxDischargeDepth := 9) [h])

@[simp] theorem enterTrap_inv (s : State) (t : Tid) (r : TrapRec) (ts : Ts) (hs : MachineInv s) : MachineInv (enterTrap s t r ts) := by
  unfold enterTrap
  (repeat' split) <;> first
    | (simp (maxDischargeDepth := 9) [hs]; done)
    | (simp +contextual (maxDischargeDepth := 9) [hs, inv_foldl, inv_ite]; done)
    | (refine inv_foldl (fun s x h => ?_) _ (by simp (maxDischargeDepth := 9) [hs]); dsimp only; (repeat' split) <;> simp (maxDischargeDepth := 9) [h])

@[simp] theorem enterAtOnce_inv (s : State) (t : Tid) (r : TrapRec) (blk : List Bool) (hs : MachineInv s) : MachineInv (enterAtOnce s t r blk) := by
  unfold enterAtOnce
  (repeat' split) <;> first
    | (simp (maxDischargeDepth := 9) [hs]; done)
    | (simp +contextual (maxDischargeDepth := 9) [hs, inv_foldl, inv_ite]; done)
    | (refine inv_foldl (fun s x h => ?_) _ (by simp (maxDischargeDepth := 9) [hs]); dsimp only; (repeat' split) <;> simp (maxDischargeDepth := 9) [h])

@[simp] theorem trapNow_inv (s : State) (t : Tid) (r : TrapRec) (blk : List Bool) (hs : MachineInv s) : MachineInv (trapNow s t r blk) := by
  unfold trapNow
  extract_lets s1
  have h1 : MachineInv s1 := by simp [s1, hs]
  (repeat' split) <;> simp (maxDischargeDepth := 9) [h1]

@[simp] theorem trapEntry_inv (s : State) (t : Tid) (p : Pend) (r : TrapRec) (hs : MachineInv s) : MachineInv (trapEntry s t p r) := by
  have ha : ∀ s : State, MachineInv s → MachineInv (trapEntry.trapAgain s t) := fun s h => by
    unfold trapEntry.trapAgain
    (repeat' split) <;> simp (maxDischargeDepth := 9) [h]
  unfold trapEntry
  extract_lets s1 r
  have h1 : MachineInv s1 := by simp [s1, hs]
  (repeat' split) <;> simp (maxDischargeDepth := 9) [h1, ha]

@[simp] theorem parkLanes_inv (s : State) (l : Launch) (g : Group) (lanes : List Nat) (r : TrapRec) (hs : MachineInv s) : MachineInv (parkLanes s l g lanes r) := by
  unfold parkLanes
  extract_lets q v s1 park
  have hq : MachineInv q.2 := by simp [q, hs]
  have h1 : MachineInv s1 := by
    simp only [s1]
    split <;> simp [hq]
  exact inv_foldl (fun s i h => by simp [h]) _ h1

@[simp] theorem takeRefused_inv (s : State) (t : Tid) (th0 : Thread) (hs : MachineInv s) : MachineInv (takeRefused s t th0) := by
  unfold takeRefused
  extract_lets th s1
  have h1 : MachineInv s1 := by simp [s1, hs]
  split
  · split
    · exact parkLanes_inv _ _ _ _ _ (inv_foldl (fun s i h => by simp [h]) _ h1)
    · simp (maxDischargeDepth := 9) [h1]
  · exact h1

@[simp] theorem modPend_inv (s : State) (t : Tid) (id : Nat) (f : Pend → Pend) (hs : MachineInv s) : MachineInv (State.modPend s t id f) := by
  unfold State.modPend
  (repeat' split) <;> first
    | (simp (maxDischargeDepth := 9) [hs]; done)
    | (simp +contextual (maxDischargeDepth := 9) [hs, inv_foldl, inv_ite]; done)
    | (refine inv_foldl (fun s x h => ?_) _ (by simp (maxDischargeDepth := 9) [hs]); dsimp only; (repeat' split) <;> simp (maxDischargeDepth := 9) [h])

@[simp] theorem submit_inv (s : State) (t : Tid) (l : Launch) (g : Group) (p : Pend) (hs : MachineInv s) : MachineInv (submit s t l g p) := by
  unfold submit
  (repeat' split) <;> first
    | (simp (maxDischargeDepth := 9) [hs]; done)
    | (simp +contextual (maxDischargeDepth := 9) [hs, inv_foldl, inv_ite]; done)
    | (refine inv_foldl (fun s x h => ?_) _ (by simp (maxDischargeDepth := 9) [hs]); dsimp only; (repeat' split) <;> simp (maxDischargeDepth := 9) [h])

@[simp] theorem sendPeer_inv (s : State) (t : Tid) (l : Launch) (g : Group) (p : Pend) (hs : MachineInv s) : MachineInv (sendPeer s t l g p) := by
  unfold sendPeer
  (repeat' split) <;> first
    | (simp (maxDischargeDepth := 9) [hs]; done)
    | (simp +contextual (maxDischargeDepth := 9) [hs, inv_foldl, inv_ite]; done)
    | (refine inv_foldl (fun s x h => ?_) _ (by simp (maxDischargeDepth := 9) [hs]); dsimp only; (repeat' split) <;> simp (maxDischargeDepth := 9) [h])

@[simp] theorem sendReady_inv (s : State) (t : Tid) (hs : MachineInv s) : MachineInv (sendReady s t) := by
  unfold sendReady
  split
  · refine inv_foldl (fun s x h => ?_) _ hs
    (repeat' split) <;> simp (maxDischargeDepth := 9) [h]
  · exact hs

@[simp] theorem waitAgain_inv (s : State) (t : Tid) (k : WaitKind) (x : Refused) (rest : List Refused) (hs : MachineInv s) : MachineInv (waitAgain s t k x rest) := by
  unfold waitAgain
  (repeat' split) <;> first
    | (simp (maxDischargeDepth := 9) [hs]; done)
    | (simp +contextual (maxDischargeDepth := 9) [hs, inv_foldl, inv_ite]; done)
    | (refine inv_foldl (fun s x h => ?_) _ (by simp (maxDischargeDepth := 9) [hs]); dsimp only; (repeat' split) <;> simp (maxDischargeDepth := 9) [h])

@[simp] theorem enterAgain_inv (s : State) (t : Tid) (p : Pend) (hs : MachineInv s) : MachineInv (enterAgain s t p) := by
  unfold enterAgain
  (repeat' split) <;> first
    | (simp (maxDischargeDepth := 9) [hs]; done)
    | (simp +contextual (maxDischargeDepth := 9) [hs, inv_foldl, inv_ite]; done)
    | (refine inv_foldl (fun s x h => ?_) _ (by simp (maxDischargeDepth := 9) [hs]); dsimp only; (repeat' split) <;> simp (maxDischargeDepth := 9) [h])

@[simp] theorem performOne_inv (s : State) (t : Tid) (x : Refused) (rest : List Refused) (hs : MachineInv s) : MachineInv (performOne s t x rest).1 := by
  unfold performOne
  generalize x.p.op = o
  cases o <;> dsimp only <;> (try split) <;> simp (maxDischargeDepth := 9) [hs]

@[simp] theorem performAgain_inv (s : State) (t : Tid) (x : List Refused) (hs : MachineInv s) : MachineInv (performAgain s t x) := by
  induction x generalizing s with
  | nil => exact hs
  | cons x rest ih =>
    simp only [performAgain]
    split
    · exact ih _ (performOne_inv s t x rest hs)
    · exact performOne_inv s t x rest hs

@[simp] theorem leaveTrap_inv (s : State) (t : Tid) (mode : Nat) (hs : MachineInv s) : MachineInv (leaveTrap s t mode) := by
  unfold leaveTrap
  (repeat' split) <;> first
    | (simp (maxDischargeDepth := 9) [hs]; done)
    | (simp +contextual (maxDischargeDepth := 9) [hs, inv_foldl, inv_ite]; done)
    | (refine inv_foldl (fun s x h => ?_) _ (by simp (maxDischargeDepth := 9) [hs]); dsimp only; (repeat' split) <;> simp (maxDischargeDepth := 9) [h])

/-- What a word leaves when each outcome of it keeps the invariant. -/
def IssInv : Iss → Prop
  | .fail s _ => MachineInv s
  | .done s => MachineInv s
  | .jump s _ => MachineInv s
  | .wait s _ => MachineInv s
  | .drain s _ => MachineInv s
  | .trap _ => True
  | .met s f => MachineInv s ∧ ∀ s, MachineInv s → MachineInv (f s)

@[simp] theorem issInv_met (s : State) (f : State → State) : IssInv (.met s f) ↔ MachineInv s ∧ ∀ s, MachineInv s → MachineInv (f s) := Iff.rfl
@[simp] theorem issInv_trap (r : TrapRec) : IssInv (.trap r) := trivial
@[simp] theorem issInv_fail (s : State) (r : TrapRec) : IssInv (.fail s r) ↔ MachineInv s := Iff.rfl
@[simp] theorem issInv_done (s : State) : IssInv (.done s) ↔ MachineInv s := Iff.rfl
@[simp] theorem issInv_jump (s : State) (a : DWord) : IssInv (.jump s a) ↔ MachineInv s := Iff.rfl
@[simp] theorem issInv_wait (s : State) (k : WaitKind) : IssInv (.wait s k) ↔ MachineInv s := Iff.rfl
@[simp] theorem issInv_drain (s : State) (d : Drain) : IssInv (.drain s d) ↔ MachineInv s := Iff.rfl

theorem issue_inv (h : Bool) (bk : Nat) (s : State) (f : Ctx → State → Iss) (hs : MachineInv s) (hf : ∀ c, IssInv (f c s)) : OutInv (issue h bk s f) := by
  unfold issue
  split
  · simpa using hs
  · split
    · dsimp only
      split
      · simp (maxDischargeDepth := 9) [hs]
      · split
        · simp (maxDischargeDepth := 9) [hs]
        · rename_i t _ _ _ l g th _ _ _ _
          have k := hf { t := t, th := th, g := g, l := l }
          revert k
          cases f { t := t, th := th, g := g, l := l } s <;> intro k <;> simp only [IssInv] at k <;>
            first | exact (outInv_next _).2 (k.2 _ (modThread_inv _ _ _ k.1)) | simp (maxDischargeDepth := 9) [hs, k]
    · simpa using hs

theorem issueReg_inv (h : Bool) (s : State) (f : Ctx → Res Ctx) (hs : MachineInv s) : OutInv (issueReg h s f) := by
  refine issue_inv h 0 s _ hs (fun c => ?_)
  split <;> simp (maxDischargeDepth := 9) [hs]

@[simp] theorem addPend_inv (s : State) (t : Tid) (pc : DWord) (dst : Dst) (op : POp) (addr : DWord) (loc : Option Loc) (st : PSt) (hs : MachineInv s) : MachineInv (addPend s t pc dst op addr loc st) := by
  unfold addPend
  (repeat' split) <;> first
    | (simp (maxDischargeDepth := 9) [hs]; done)
    | (simp +contextual (maxDischargeDepth := 9) [hs, inv_foldl, inv_ite]; done)
    | (refine inv_foldl (fun s x h => ?_) _ (by simp (maxDischargeDepth := 9) [hs]); dsimp only; (repeat' split) <;> simp (maxDischargeDepth := 9) [h])

@[simp] theorem addResult_inv (s : State) (t : Tid) (pc : DWord) (dst : Dst) (vals : List Word) (hs : MachineInv s) : MachineInv (addResult s t pc dst vals) := by
  unfold addResult
  (repeat' split) <;> first
    | (simp (maxDischargeDepth := 9) [hs]; done)
    | (simp +contextual (maxDischargeDepth := 9) [hs, inv_foldl, inv_ite]; done)
    | (refine inv_foldl (fun s x h => ?_) _ (by simp (maxDischargeDepth := 9) [hs]); dsimp only; (repeat' split) <;> simp (maxDischargeDepth := 9) [h])

theorem issueVar_inv (h : Bool) (s : State) (f : Ctx → Res VarRes) (hs : MachineInv s) : OutInv (issueVar h s f) := by
  refine issue_inv h 0 s _ hs (fun c => ?_)
  split <;> simp (maxDischargeDepth := 9) [hs]

/-- What a checked word leaves. -/
def ResInv : Res Iss → Prop
  | .ok i => IssInv i
  | .error _ => True

@[simp] theorem resInv_ok (i : Iss) : ResInv (.ok i) ↔ IssInv i := Iff.rfl
@[simp] theorem resInv_error (r : TrapRec) : ResInv (.error r) := trivial
theorem resInv_bind {α : Type} (r : Res α) (f : α → Res Iss) (h : ∀ x, ResInv (f x)) : ResInv (r >>= f) := by
  cases r
  · trivial
  · exact h _

theorem issueWith_inv (h : Bool) (s : State) (f : Ctx → State → Res Iss) (hs : MachineInv s) (hf : ∀ c, ResInv (f c s)) : OutInv (issueWith h s f) := by
  refine issue_inv h 0 s _ hs (fun c => ?_)
  have k := hf c
  revert k
  cases f c s <;> intro k
  · trivial
  · exact k

@[simp] theorem access_inv (s : State) (c : Ctx) (a : DWord) (dst : Dst) (op : POp) (hs : MachineInv s) : MachineInv (access s c a dst op) := by
  unfold access
  (repeat' split) <;> first
    | (simp (maxDischargeDepth := 9) [hs]; done)
    | (simp +contextual (maxDischargeDepth := 9) [hs, inv_foldl, inv_ite]; done)
    | (refine inv_foldl (fun s x h => ?_) _ (by simp (maxDischargeDepth := 9) [hs]); dsimp only; (repeat' split) <;> simp (maxDischargeDepth := 9) [h])

end Sys2Proof.Laws
end

