-- ==== Sys2Proof/Laws/KeepThreads.lean ====
section
/-! SUPPORT. KeepThreads.lean: the invariant of the machine is kept: what threads do and wait for. -/
namespace Sys2Proof.Laws
open Sys2Proof.Machine Sys2Proof.Safety

@[simp] theorem grantTile_inv (s : State) (t : Tid) (id : Nat) (l : Launch) (g : Group) (part count rank slot : Nat) (hs : MachineInv s) : MachineInv (grantTile s t id l g part count rank slot) := by
  unfold grantTile
  (repeat' split) <;> first
    | (simp (maxDischargeDepth := 9) [hs]; done)
    | (simp +contextual (maxDischargeDepth := 9) [hs, inv_foldl, inv_ite]; done)
    | (refine inv_foldl (fun s x h => ?_) _ (by simp (maxDischargeDepth := 9) [hs]); dsimp only; (repeat' split) <;> simp (maxDischargeDepth := 9) [h])

@[simp] theorem startCopy_inv (s : State) (l : Launch) (g : Group) (c : CopyCmd) (hs : MachineInv s) : MachineInv (startCopy s l g c) := by
  unfold startCopy
  (repeat' split) <;> first
    | (simp (maxDischargeDepth := 9) [hs]; done)
    | (simp +contextual (maxDischargeDepth := 9) [hs, inv_foldl, inv_ite]; done)
    | (refine inv_foldl (fun s x h => ?_) _ (by simp (maxDischargeDepth := 9) [hs]); dsimp only; (repeat' split) <;> simp (maxDischargeDepth := 9) [h])

@[simp] theorem copyWord_inv (h : Bool) (minor : Nat) (d a b : BitVec 7) (s : State) (hs : MachineInv s) : OutInv (copyWord h minor d a b s) := by
  unfold copyWord
  refine issueWith_inv _ _ _ hs (fun c => ?_)
  repeat (first | refine resInv_bind _ _ (fun _ => ?_) | split)
  all_goals (try dsimp only)
  all_goals (repeat' split)
  all_goals simp (maxDischargeDepth := 9) [hs, inv_ite]

@[simp] theorem putEngine_inv (s : State) (e : Engine) (hs : MachineInv s) : MachineInv (State.putEngine s e) := by
  unfold State.putEngine
  (repeat' split) <;> first
    | (simp (maxDischargeDepth := 9) [hs]; done)
    | (simp +contextual (maxDischargeDepth := 9) [hs, inv_foldl, inv_ite]; done)
    | (refine inv_foldl (fun s x h => ?_) _ (by simp (maxDischargeDepth := 9) [hs]); dsimp only; (repeat' split) <;> simp (maxDischargeDepth := 9) [h])

@[simp] theorem deliverMacq_inv (s : State) (gid : Nat) (epoch : Word) (hs : MachineInv s) : MachineInv (deliverMacq s gid epoch) := by
  unfold deliverMacq
  (repeat' split) <;> first
    | (simp (maxDischargeDepth := 9) [hs]; done)
    | (simp +contextual (maxDischargeDepth := 9) [hs, inv_foldl, inv_ite]; done)
    | (refine inv_foldl (fun s x h => ?_) _ (by simp (maxDischargeDepth := 9) [hs]); dsimp only; (repeat' split) <;> simp (maxDischargeDepth := 9) [h])

@[simp] theorem giveBaton_inv (s : State) (core gid : Nat) (hs : MachineInv s) : MachineInv (giveBaton s core gid) := by
  unfold giveBaton
  (repeat' split) <;> first
    | (simp (maxDischargeDepth := 9) [hs]; done)
    | (simp +contextual (maxDischargeDepth := 9) [hs, inv_foldl, inv_ite]; done)
    | (refine inv_foldl (fun s x h => ?_) _ (by simp (maxDischargeDepth := 9) [hs]); dsimp only; (repeat' split) <;> simp (maxDischargeDepth := 9) [h])

@[simp] theorem grantBaton_inv (s : State) (core : Nat) (hs : MachineInv s) : MachineInv (grantBaton s core) := by
  unfold grantBaton; dsimp only; (repeat' split) <;> first | exact hs | simp (maxDischargeDepth := 9) [hs]

@[simp] theorem grantBatons_inv (s : State) (hs : MachineInv s) : MachineInv (grantBatons s) := by
  unfold grantBatons
  (repeat' split) <;> first
    | (simp (maxDischargeDepth := 9) [hs]; done)
    | (simp +contextual (maxDischargeDepth := 9) [hs, inv_foldl, inv_ite]; done)
    | (refine inv_foldl (fun s x h => ?_) _ (by simp (maxDischargeDepth := 9) [hs]); dsimp only; (repeat' split) <;> simp (maxDischargeDepth := 9) [h])

@[simp] theorem dropBaton_inv (s : State) (core gid : Nat) (hs : MachineInv s) : MachineInv (dropBaton s core gid) := by
  unfold dropBaton
  (repeat' split) <;> first
    | (simp (maxDischargeDepth := 9) [hs]; done)
    | (simp +contextual (maxDischargeDepth := 9) [hs, inv_foldl, inv_ite]; done)
    | (refine inv_foldl (fun s x h => ?_) _ (by simp (maxDischargeDepth := 9) [hs]); dsimp only; (repeat' split) <;> simp (maxDischargeDepth := 9) [h])

@[simp] theorem markActed_inv (s : State) (gid n : Nat) (hs : MachineInv s) : MachineInv (markActed s gid n) := by
  unfold markActed
  (repeat' split) <;> first
    | (simp (maxDischargeDepth := 9) [hs]; done)
    | (simp +contextual (maxDischargeDepth := 9) [hs, inv_foldl, inv_ite]; done)
    | (refine inv_foldl (fun s x h => ?_) _ (by simp (maxDischargeDepth := 9) [hs]); dsimp only; (repeat' split) <;> simp (maxDischargeDepth := 9) [h])

@[simp] theorem postTask_inv (s : State) (l : Launch) (die : Nat) (r : List Byte) (hs : MachineInv s) : ExcInv (postTask s l die r) := by
  unfold postTask; (repeat' split) <;> simp (maxDischargeDepth := 9) [hs]

@[simp] theorem cellDecrement_inv (s : State) (l : Launch) (g : Group) (a : DWord) (hs : MachineInv s) : ExcInv (cellDecrement s l g a) := by
  unfold cellDecrement
  refine excInv_bind _ _ (fun key => ?_)
  dsimp only
  split
  · trivial
  · split
    · simp (maxDischargeDepth := 9) [hs]
    · split
      · trivial
      · exact excInv_bind _ _ (fun rk => postTask_inv _ _ _ _ (by simp (maxDischargeDepth := 9) [hs]))

theorem wf_foldl_memWrite (ws : List (Nat × Byte)) (m : List Host.Cell) (h : Memory.wf m = true) :
    Memory.wf (ws.foldl (fun m (w : Nat × Byte) => memWrite m [w.2] w.1) m) = true := by
  induction ws generalizing m with
  | nil => exact h
  | cons w ws ih => exact ih _ (wf_memWrite _ _ h)

@[simp] theorem commitVersion_inv (s : State) (gid : Nat) (tk : Task) (hs : MachineInv s) : MachineInv (commitVersion s gid tk) := by
  simp (maxDischargeDepth := 9) [commitVersion, hs, wf_foldl_memWrite]

@[simp] theorem countPost_inv (s : State) (l : Launch) (g : Group) (p : Pend) (hs : MachineInv s) : MachineInv (countPost s l g p) := by
  unfold countPost
  (repeat' split) <;> first
    | (simp (maxDischargeDepth := 9) [hs]; done)
    | (simp +contextual (maxDischargeDepth := 9) [hs, inv_foldl, inv_ite]; done)
    | (refine inv_foldl (fun s x h => ?_) _ (by simp (maxDischargeDepth := 9) [hs]); dsimp only; (repeat' split) <;> simp (maxDischargeDepth := 9) [h])

@[simp] theorem performPost_inv (s : State) (t : Tid) (l : Launch) (g : Group) (p : Pend) (hs : MachineInv s) : MachineInv (performPost s t l g p) := by
  unfold performPost
  have k1 := cellDecrement_inv s l g p.addr hs
  have k2 := fun r => postTask_inv s l g.die r hs
  have k3 : ExcInv (match p.op with
    | .taskSucc => cellDecrement s l g p.addr
    | _ =>
      match p.key l g with
      | some key =>
        if postLine s l g p = 2 then .error (copyFault, 0)
        else if poisoned s key 64 then .error (dataError, 0) else postTask s l g.die (memRead s.mem 64 key)
      | none => .error (illegalOperand, 0)) := by
    split
    · exact k1
    · split
      · split
        · trivial
        · split
          · trivial
          · exact k2 _
      · trivial
  have aux : ∀ r : Except (Nat × Nat) State, ExcInv r → MachineInv (match r with
    | .ok s1 => s1.modThread t (fun th => { th with infl := th.infl.filter (fun q => q.id != p.id) })
    | .error (cause, detail) => (if cause = dataError then countPost s l g p else s).modThread t (fun th => th.refuse p (if cause = queueOver then { p.trap cause detail with kind := 0 } else p.trap cause detail))) := by
    intro r hr
    cases r
    · simp (maxDischargeDepth := 9) [hs, inv_ite]
    · exact modThread_inv _ _ _ hr
  exact aux _ k3

@[simp] theorem endTaskWaits_inv (s : State) (gid : Nat) (hs : MachineInv s) : MachineInv (endTaskWaits s gid) := by
  unfold endTaskWaits
  (repeat' split) <;> first
    | (simp (maxDischargeDepth := 9) [hs]; done)
    | (simp +contextual (maxDischargeDepth := 9) [hs, inv_foldl, inv_ite]; done)
    | (refine inv_foldl (fun s x h => ?_) _ (by simp (maxDischargeDepth := 9) [hs]); dsimp only; (repeat' split) <;> simp (maxDischargeDepth := 9) [h])

@[simp] theorem completeTask_inv (s : State) (gid : Nat) (lane : Nat) (pc : DWord) (hs : MachineInv s) : MachineInv (completeTask s gid lane pc) := by
  unfold completeTask
  split
  · exact hs
  · split
    · exact hs
    · split
      · simp (maxDischargeDepth := 9) [hs]
      · have k : ∀ (l : Launch) (g : Group) (hl : List (Nat × Pend)) (s : State), MachineInv s →
            MachineInv (hl.foldl (fun s h => performPost s { gid := gid, lane := h.1 } l g h.2) s) :=
          fun l g hl s h => inv_foldl (fun s x h => performPost_inv _ _ _ _ _ h) hl h
        dsimp only
        split
        · exact k _ _ _ _ (by split <;> simp (maxDischargeDepth := 9) [hs])
        · refine performPost_inv _ _ _ _ _ (fresh_inv _ (k _ _ _ _ ?_))
          split <;> simp (maxDischargeDepth := 9) [hs]

@[simp] theorem trapTaskArr_inv (s : State) (gid : Nat) (x : TaskArr) (hs : MachineInv s) : MachineInv (trapTaskArr s gid x) := by
  unfold trapTaskArr; dsimp only; split
  · simp (maxDischargeDepth := 9) [hs]
  · split <;> simp (maxDischargeDepth := 9) [hs]

@[simp] theorem makeVersioned_inv (s : State) (g : Group) (tk : Task) (hs : MachineInv s) : MachineInv (makeVersioned s g tk) := by
  unfold makeVersioned
  (repeat' split) <;> first
    | (simp (maxDischargeDepth := 9) [hs]; done)
    | (simp +contextual (maxDischargeDepth := 9) [hs, inv_foldl, inv_ite]; done)
    | (refine inv_foldl (fun s x h => ?_) _ (by simp (maxDischargeDepth := 9) [hs]); dsimp only; (repeat' split) <;> simp (maxDischargeDepth := 9) [h])

@[simp] theorem tryTask_inv (s : State) (gid : Nat) (hs : MachineInv s) : MachineInv (tryTask s gid) := by
  unfold tryTask
  have k : ∀ xs : List TaskArr, MachineInv (xs.foldl (fun s x => trapTaskArr s gid x) s) :=
    fun xs => inv_foldl (fun s x h => trapTaskArr_inv _ _ _ h) xs hs
  dsimp only
  (repeat' split) <;> first | exact k _ | exact hs | simp (maxDischargeDepth := 9) [hs]

@[simp] theorem giveTask_inv (s : State) (g : Group) (k : Nat) (ws : List Word) (hs : MachineInv s) : MachineInv (giveTask s g k ws) := by
  unfold giveTask
  (repeat' split) <;> first
    | (simp (maxDischargeDepth := 9) [hs]; done)
    | (simp +contextual (maxDischargeDepth := 9) [hs, inv_foldl, inv_ite]; done)
    | (refine inv_foldl (fun s x h => ?_) _ (by simp (maxDischargeDepth := 9) [hs]); dsimp only; (repeat' split) <;> simp (maxDischargeDepth := 9) [h])

@[simp] theorem takeId_inv (s : State) (die : Nat) (hs : MachineInv s) : MachineInv (takeId s die).2 := by
  unfold takeId
  (repeat' split) <;> first
    | (simp (maxDischargeDepth := 9) [hs]; done)
    | (simp +contextual (maxDischargeDepth := 9) [hs, inv_foldl, inv_ite]; done)
    | (refine inv_foldl (fun s x h => ?_) _ (by simp (maxDischargeDepth := 9) [hs]); dsimp only; (repeat' split) <;> simp (maxDischargeDepth := 9) [h])

@[simp] theorem startChild_inv (s : State) (l : Launch) (hd argp : DWord) (T : Word) (prio : Option Nat) (hs : MachineInv s) : MachineInv (startChild s l hd argp T prio).2 := by
  unfold startChild
  (repeat' split) <;> first
    | (simp (maxDischargeDepth := 9) [hs]; done)
    | (simp +contextual (maxDischargeDepth := 9) [hs, inv_foldl, inv_ite]; done)
    | (refine inv_foldl (fun s x h => ?_) _ (by simp (maxDischargeDepth := 9) [hs]); dsimp only; (repeat' split) <;> simp (maxDischargeDepth := 9) [h])

@[simp] theorem countUnit_inv (s : State) (l : Launch) (a : DWord) (n : Nat) (hs : MachineInv s) : MachineInv (countUnit s l a n) := by
  unfold countUnit
  (repeat' split) <;> first
    | (simp (maxDischargeDepth := 9) [hs]; done)
    | (simp +contextual (maxDischargeDepth := 9) [hs, inv_foldl, inv_ite]; done)
    | (refine inv_foldl (fun s x h => ?_) _ (by simp (maxDischargeDepth := 9) [hs]); dsimp only; (repeat' split) <;> simp (maxDischargeDepth := 9) [h])

@[simp] theorem postQuery_inv (s : State) (t : Tid) (l : Launch) (g : Group) (th : Thread) (k : Nat) (d : List Byte) (qv : List Word) (ps : List DWord) (hs : MachineInv s) : MachineInv (postQuery s t l g th k d qv ps).1 := by
  unfold postQuery; dsimp only; simp (maxDischargeDepth := 9) [hs]

/-- What trying to post leaves. -/
def PostResInv : PostRes → Prop
  | .wait => True
  | .hold _ => True
  | .trap s _ => MachineInv s
  | .done s _ => MachineInv s

@[simp] theorem postResInv_wait : PostResInv .wait := trivial
@[simp] theorem postResInv_hold (got : List Byte) : PostResInv (.hold got) := trivial
@[simp] theorem postResInv_trap (s : State) (r : TrapRec) : PostResInv (.trap s r) ↔ MachineInv s := Iff.rfl
@[simp] theorem postResInv_done (s : State) (w : Word) : PostResInv (.done s w) ↔ MachineInv s := Iff.rfl

@[simp] theorem slotQuery_inv (s : State) (t : Tid) (l : Launch) (g : Group) (th : Thread) (d pl qb : List Byte) (hs : MachineInv s) :
    PostResInv (slotQuery s t l g th d pl qb) := by
  unfold slotQuery; dsimp only; (repeat' split) <;> simp (maxDischargeDepth := 9) [hs]

@[simp] theorem tryQuery_inv (s : State) (t : Tid) (l : Launch) (g : Group) (th : Thread) (pc p : DWord) (got : List Byte) (hs : MachineInv s) : PostResInv (tryQuery s t l g th pc p got) := by
  unfold tryQuery; dsimp only; (repeat' split) <;> simp (maxDischargeDepth := 9) [hs]

@[simp] theorem modQuery_inv (s : State) (id : Nat) (f : Query → Query) (hs : MachineInv s) : MachineInv (State.modQuery s id f) := by
  unfold State.modQuery
  (repeat' split) <;> first
    | (simp (maxDischargeDepth := 9) [hs]; done)
    | (simp +contextual (maxDischargeDepth := 9) [hs, inv_foldl, inv_ite]; done)
    | (refine inv_foldl (fun s x h => ?_) _ (by simp (maxDischargeDepth := 9) [hs]); dsimp only; (repeat' split) <;> simp (maxDischargeDepth := 9) [h])

@[simp] theorem setPage_inv (s : State) (id p : Nat) (f : QPage → QPage) (hs : MachineInv s) : MachineInv (State.setPage s id p f) := by
  unfold State.setPage
  (repeat' split) <;> first
    | (simp (maxDischargeDepth := 9) [hs]; done)
    | (simp +contextual (maxDischargeDepth := 9) [hs, inv_foldl, inv_ite]; done)
    | (refine inv_foldl (fun s x h => ?_) _ (by simp (maxDischargeDepth := 9) [hs]); dsimp only; (repeat' split) <;> simp (maxDischargeDepth := 9) [h])

@[simp] theorem endQuery_inv (s : State) (qid : Nat) (hs : MachineInv s) : MachineInv (endQuery s qid) := by
  unfold endQuery
  (repeat' split) <;> first
    | (simp (maxDischargeDepth := 9) [hs]; done)
    | (simp +contextual (maxDischargeDepth := 9) [hs, inv_foldl, inv_ite]; done)
    | (refine inv_foldl (fun s x h => ?_) _ (by simp (maxDischargeDepth := 9) [hs]); dsimp only; (repeat' split) <;> simp (maxDischargeDepth := 9) [h])

@[simp] theorem atom_inv (h : Bool) (minor : Nat) (ar : Bool) (d a b : BitVec 7) (s : State) (hs : MachineInv s) : OutInv (atom h minor ar d a b s) := by
  unfold atom
  refine issueWith_inv _ _ _ hs (fun c => ?_)
  repeat (first | refine resInv_bind _ _ (fun _ => ?_) | split)
  all_goals (try dsimp only)
  all_goals (repeat' split)
  all_goals simp (maxDischargeDepth := 9) [hs, inv_ite]

@[simp] theorem putRoute_inv (s : State) (r : RouteSlot) (hs : MachineInv s) : MachineInv (State.putRoute s r) := by
  unfold State.putRoute
  (repeat' split) <;> first
    | (simp (maxDischargeDepth := 9) [hs]; done)
    | (simp +contextual (maxDischargeDepth := 9) [hs, inv_foldl, inv_ite]; done)
    | (refine inv_foldl (fun s x h => ?_) _ (by simp (maxDischargeDepth := 9) [hs]); dsimp only; (repeat' split) <;> simp (maxDischargeDepth := 9) [h])

@[simp] theorem activateRoute_inv (s : State) (r : RouteSlot) (hs : MachineInv s) : MachineInv (activateRoute s r) := by
  unfold activateRoute
  (repeat' split) <;> first
    | (simp (maxDischargeDepth := 9) [hs]; done)
    | (simp +contextual (maxDischargeDepth := 9) [hs, inv_foldl, inv_ite]; done)
    | (refine inv_foldl (fun s x h => ?_) _ (by simp (maxDischargeDepth := 9) [hs]); dsimp only; (repeat' split) <;> simp (maxDischargeDepth := 9) [h])

@[simp] theorem dropStaged_inv (s : State) (t : Tid) (th : Thread) (hs : MachineInv s) : MachineInv (dropStaged s t th) := by
  unfold dropStaged
  (repeat' split) <;> first
    | (simp (maxDischargeDepth := 9) [hs]; done)
    | (simp +contextual (maxDischargeDepth := 9) [hs, inv_foldl, inv_ite]; done)
    | (refine inv_foldl (fun s x h => ?_) _ (by simp (maxDischargeDepth := 9) [hs]); dsimp only; (repeat' split) <;> simp (maxDischargeDepth := 9) [h])

@[simp] theorem activateRoutes_inv (s : State) (hs : MachineInv s) : MachineInv (activateRoutes s) := by
  unfold activateRoutes
  (repeat' split) <;> first
    | (simp (maxDischargeDepth := 9) [hs]; done)
    | (simp +contextual (maxDischargeDepth := 9) [hs, inv_foldl, inv_ite]; done)
    | (refine inv_foldl (fun s x h => ?_) _ (by simp (maxDischargeDepth := 9) [hs]); dsimp only; (repeat' split) <;> simp (maxDischargeDepth := 9) [h])

@[simp] theorem endColl_inv (s : State) (c : Coll) (hs : MachineInv s) : MachineInv (endColl s c) := by
  unfold endColl
  (repeat' split) <;> first
    | (simp (maxDischargeDepth := 9) [hs]; done)
    | (simp +contextual (maxDischargeDepth := 9) [hs, inv_foldl, inv_ite]; done)
    | (refine inv_foldl (fun s x h => ?_) _ (by simp (maxDischargeDepth := 9) [hs]); dsimp only; (repeat' split) <;> simp (maxDischargeDepth := 9) [h])

@[simp] theorem postColl_inv (s : State) (t : Tid) (l : Launch) (g : Group) (th : Thread) (k : Nat) (d : List Byte) (r : RouteSlot) (table : List Byte) (hs : MachineInv s) : MachineInv (postColl s t l g th k d r table).1 := by
  unfold postColl; dsimp only; split <;> simp (maxDischargeDepth := 9) [hs]

@[simp] theorem slotColl_inv (s : State) (t : Tid) (l : Launch) (g : Group) (th : Thread) (d : List Byte) (hs : MachineInv s) : PostResInv (slotColl s t l g th d) := by
  unfold slotColl; dsimp only; split <;> simp (maxDischargeDepth := 9) [hs]

@[simp] theorem tryColl_inv (s : State) (t : Tid) (l : Launch) (g : Group) (th : Thread) (pc p : DWord) (got : List Byte) (hs : MachineInv s) : PostResInv (tryColl s t l g th pc p got) := by
  unfold tryColl; (repeat' split) <;> simp (maxDischargeDepth := 9) [hs]

@[simp] theorem tryRoute_inv (s : State) (t : Tid) (l : Launch) (g : Group) (th : Thread) (pc p : DWord) (arg : Nat) (hs : MachineInv s) : PostResInv (tryRoute s t l g th pc p arg) := by
  unfold tryRoute; dsimp only; (repeat' split) <;> simp (maxDischargeDepth := 9) [hs]

@[simp] theorem enterMatrix_inv (s : State) (t : Tid) (l : Launch) (g : Group) (pc : DWord) (o : MOp) (hs : MachineInv s) : MachineInv (enterMatrix s t l g pc o) := by
  unfold enterMatrix
  (repeat' split) <;> first
    | (simp (maxDischargeDepth := 9) [hs]; done)
    | (simp +contextual (maxDischargeDepth := 9) [hs, inv_foldl, inv_ite]; done)
    | (refine inv_foldl (fun s x h => ?_) _ (by simp (maxDischargeDepth := 9) [hs]); dsimp only; (repeat' split) <;> simp (maxDischargeDepth := 9) [h])

@[simp] theorem matrixWord_inv (h : Bool) (minor : Nat) (names : List (BitVec 7)) (d : BitVec 7) (opA opB : Ctx → Res (List Word)) (s : State) (hs : MachineInv s) : OutInv (matrixWord h minor names d opA opB s) := by
  unfold matrixWord
  refine issueWith_inv _ _ _ hs (fun c => ?_)
  repeat (first | refine resInv_bind _ _ (fun _ => ?_) | split)
  all_goals (try dsimp only)
  all_goals (repeat' split)
  all_goals simp (maxDischargeDepth := 9) [hs, inv_ite]

@[simp] theorem compute_inv (h : Bool) (minor : Nat) (d a b : BitVec 7) (s : State) (hs : MachineInv s) : OutInv (compute h minor d a b s) := by
  unfold compute
  (repeat' split) <;> first
    | (simp (maxDischargeDepth := 9) [hs]; done)
    | (simp +contextual (maxDischargeDepth := 9) [hs, inv_foldl, inv_ite]; done)
    | (refine inv_foldl (fun s x h => ?_) _ (by simp (maxDischargeDepth := 9) [hs]); dsimp only; (repeat' split) <;> simp (maxDischargeDepth := 9) [h])

@[simp] theorem writeDst_inv (s : State) (t : Tid) (d : Dst) (vs : List Word) (hs : MachineInv s) : MachineInv (writeDst s t d vs) := by
  unfold writeDst
  (repeat' split) <;> first
    | (simp (maxDischargeDepth := 9) [hs]; done)
    | (simp +contextual (maxDischargeDepth := 9) [hs, inv_foldl, inv_ite]; done)
    | (refine inv_foldl (fun s x h => ?_) _ (by simp (maxDischargeDepth := 9) [hs]); dsimp only; (repeat' split) <;> simp (maxDischargeDepth := 9) [h])

@[simp] theorem endWait_inv (s : State) (t : Tid) (w : Waiting) (hs : MachineInv s) : MachineInv (endWait s t w) := by
  unfold endWait
  (repeat' split) <;> first
    | (simp (maxDischargeDepth := 9) [hs]; done)
    | (simp +contextual (maxDischargeDepth := 9) [hs, inv_foldl, inv_ite]; done)
    | (refine inv_foldl (fun s x h => ?_) _ (by simp (maxDischargeDepth := 9) [hs]); dsimp only; (repeat' split) <;> simp (maxDischargeDepth := 9) [h])

@[simp] theorem trapWait_inv (s : State) (t : Tid) (w : Waiting) (r : TrapRec) (hs : MachineInv s) : MachineInv (trapWait s t w r) := by
  unfold trapWait
  (repeat' split) <;> first
    | (simp (maxDischargeDepth := 9) [hs]; done)
    | (simp +contextual (maxDischargeDepth := 9) [hs, inv_foldl, inv_ite]; done)
    | (refine inv_foldl (fun s x h => ?_) _ (by simp (maxDischargeDepth := 9) [hs]); dsimp only; (repeat' split) <;> simp (maxDischargeDepth := 9) [h])

@[simp] theorem tryArrive_inv (s : State) (t : Tid) (l : Launch) (g : Group) (th : Thread) (w : Waiting) (level : Nat) (bar : Bool) (dst : Dst) (hs : MachineInv s) : MachineInv (tryArrive s t l g th w level bar dst) := by
  unfold tryArrive; dsimp only; (repeat' split) <;> simp (maxDischargeDepth := 9) [hs]

@[simp] theorem endJoins_inv (s : State) (g : Group) (hs : MachineInv s) : MachineInv (endJoins s g) := by
  unfold endJoins
  (repeat' split) <;> first
    | (simp (maxDischargeDepth := 9) [hs]; done)
    | (simp +contextual (maxDischargeDepth := 9) [hs, inv_foldl, inv_ite]; done)
    | (refine inv_foldl (fun s x h => ?_) _ (by simp (maxDischargeDepth := 9) [hs]); dsimp only; (repeat' split) <;> simp (maxDischargeDepth := 9) [h])

@[simp] theorem endPost_inv (s : State) (t : Tid) (w : Waiting) (dst : Dst) (x : PostRes) (hs : MachineInv s) (hx : PostResInv x) :
    MachineInv (endPost s t w dst x) := by
  cases x <;> simp only [endPost]
  · exact hs
  · exact modThread_inv _ _ _ hs
  · exact trapWait_inv _ _ _ _ hx
  · exact endWait_inv _ _ _ (writeDst_inv _ _ _ _ hx)

@[simp] theorem finishWait_inv (s : State) (t : Tid) (l : Launch) (g : Group) (th : Thread) (w : Waiting) (hs : MachineInv s) : MachineInv (finishWait s t l g th w) := by
  unfold finishWait
  (repeat' split) <;> simp (maxDischargeDepth := 9) [hs, inv_ite] <;> split <;> simp (maxDischargeDepth := 9) [hs]

@[simp] theorem wakeThread_inv (s : State) (t : Tid) (hs : MachineInv s) : MachineInv (wakeThread s t) := by
  unfold wakeThread
  (repeat' split) <;> first
    | (simp (maxDischargeDepth := 9) [hs]; done)
    | (simp +contextual (maxDischargeDepth := 9) [hs, inv_foldl, inv_ite]; done)
    | (refine inv_foldl (fun s x h => ?_) _ (by simp (maxDischargeDepth := 9) [hs]); dsimp only; (repeat' split) <;> simp (maxDischargeDepth := 9) [h])

@[simp] theorem answer_inv (s : State) (t : Tid) (l : Launch) (g : Group) (th : Thread) (p : Pend) (hs : MachineInv s) : ActInv (answer s t l g th p) := by
  unfold answer; dsimp only; (repeat' split) <;> simp (maxDischargeDepth := 9) [hs, inv_ite]

@[simp] theorem gathered_inv (h : Bool) (d : BitVec 7) (a : Option (BitVec 7)) (f : Word → List (Nat × Word) → Word) (s : State) (hs : MachineInv s) : OutInv (gathered h d a f s) := by
  unfold gathered
  refine issueWith_inv _ _ _ hs (fun c => ?_)
  repeat (first | refine resInv_bind _ _ (fun _ => ?_) | split)
  all_goals (try dsimp only)
  all_goals (repeat' split)
  all_goals simp (maxDischargeDepth := 9) [hs, inv_ite]

@[simp] theorem endPart_inv (bad : Bool) (ps : List Part) (gid : Nat) (s : State) (x : Part) (hs : MachineInv s) : MachineInv (endPart bad ps gid s x) := by
  unfold endPart; dsimp only; (repeat' split) <;> simp (maxDischargeDepth := 9) [hs]

@[simp] theorem finishRendez_inv (s : State) (gid fuel : Nat) (hs : MachineInv s) : MachineInv (finishRendez s gid fuel) := by
  induction fuel generalizing s with
  | zero => exact hs
  | succ fuel ih =>
    simp only [finishRendez]
    split
    · exact hs
    · split
      · exact hs
      · split
        · exact ih _ (inv_foldl (fun s x h => endPart_inv _ _ _ _ _ h) _ hs)
        · exact hs

@[simp] theorem tryRendez_inv (s : State) (gid : Nat) (hs : MachineInv s) : MachineInv (tryRendez s gid) := by
  unfold tryRendez
  (repeat' split) <;> first
    | (simp (maxDischargeDepth := 9) [hs]; done)
    | (simp +contextual (maxDischargeDepth := 9) [hs, inv_foldl, inv_ite]; done)
    | (refine inv_foldl (fun s x h => ?_) _ (by simp (maxDischargeDepth := 9) [hs]); dsimp only; (repeat' split) <;> simp (maxDischargeDepth := 9) [h])

@[simp] theorem rendezvous_inv (h : Bool) (minor : Nat) (u : Bool) (d : BitVec 7) (a b : Option (BitVec 7)) (s : State) (hs : MachineInv s) : OutInv (rendezvous h minor u d a b s) := by
  unfold rendezvous
  refine issueWith_inv _ _ _ hs (fun c => ?_)
  repeat (first | refine resInv_bind _ _ (fun _ => ?_) | split)
  all_goals (try dsimp only)
  all_goals (repeat' split)
  all_goals simp +contextual (maxDischargeDepth := 9) [hs, inv_ite, tryRendez_inv]

@[simp] theorem refuseFetch_inv (s : State) (t : Tid) (th : Thread) (r : TrapRec) (hs : MachineInv s) : MachineInv (refuseFetch s t th r) := by
  unfold refuseFetch
  (repeat' split) <;> first
    | (simp (maxDischargeDepth := 9) [hs]; done)
    | (simp +contextual (maxDischargeDepth := 9) [hs, inv_foldl, inv_ite]; done)
    | (refine inv_foldl (fun s x h => ?_) _ (by simp (maxDischargeDepth := 9) [hs]); dsimp only; (repeat' split) <;> simp (maxDischargeDepth := 9) [h])

@[simp] theorem countFetch_inv (s : State) (l : Launch) (a : DWord) (r : TrapRec) (hs : MachineInv s) : MachineInv (countFetch s l a r) := by
  unfold countFetch
  (repeat' split) <;> first
    | (simp (maxDischargeDepth := 9) [hs]; done)
    | (simp +contextual (maxDischargeDepth := 9) [hs, inv_foldl, inv_ite]; done)
    | (refine inv_foldl (fun s x h => ?_) _ (by simp (maxDischargeDepth := 9) [hs]); dsimp only; (repeat' split) <;> simp (maxDischargeDepth := 9) [h])

@[simp] theorem fetchFill_inv (s : State) (l : Launch) (core : Nat) (a : DWord) (hs : MachineInv s) : MachineInv (fetchFill s l core a) := by
  unfold fetchFill; dsimp only; split
  · split <;> simp (maxDischargeDepth := 9) [hs]
  · simp (maxDischargeDepth := 9) [hs]

@[simp] theorem bindEntry_inv (s : State) (t : Tid) (l : Launch) (g : Group) (th : Thread) (p : Pend) (hs : MachineInv s) : ActInv (bindEntry s t l g th p) := by
  unfold bindEntry; (repeat' split) <;> simp (maxDischargeDepth := 9) [hs]

@[simp] theorem deliver_inv (s : State) (t : Tid) (p : Pend) (vals : List (Option Word)) (part : Option Nat) (hs : MachineInv s) : MachineInv (deliver s t p vals part) := by
  have k : ∀ (xs : List (Option Word × Nat)), MachineInv (xs.foldl (fun s (x : Option Word × Nat) =>
      match x.1, (part == none || part == some x.2) with
      | some v, true =>
        match p.dst with
        | .none => s
        | .vec r _ => writeDst s t (.vec (r + x.2) 1) [v]
        | .uni r _ => writeDst s t (.uni (r + x.2) 1) [v]
      | _, _ => s) s) := fun xs => inv_foldl (fun s x h => by (repeat' split) <;> simp (maxDischargeDepth := 9) [h]) xs hs
  unfold deliver
  dsimp only
  split
  · exact modThread_inv _ _ _ (k _)
  · exact modPend_inv _ _ _ _ (k _)

@[simp] theorem dropPend_inv (s : State) (t : Tid) (id : Nat) (hs : MachineInv s) : MachineInv (dropPend s t id) := by
  unfold dropPend
  (repeat' split) <;> first
    | (simp (maxDischargeDepth := 9) [hs]; done)
    | (simp +contextual (maxDischargeDepth := 9) [hs, inv_foldl, inv_ite]; done)
    | (refine inv_foldl (fun s x h => ?_) _ (by simp (maxDischargeDepth := 9) [hs]); dsimp only; (repeat' split) <;> simp (maxDischargeDepth := 9) [h])

@[simp] theorem performTile_inv (s : State) (l : Launch) (g : Group) (th : Thread) (p : Pend) (k : Nat) (all : Bool) (hs : MachineInv s) : ActInv (performTile s l g th p k all) := by
  unfold performTile; dsimp only; (repeat' split) <;> simp (maxDischargeDepth := 9) [hs]

@[simp] theorem performTask_inv (s : State) (t : Tid) (l : Launch) (g : Group) (th : Thread) (p : Pend) (hs : MachineInv s) : ActInv (performTask s t l g th p) := by
  have k : ActInv (performTask.tryPost s t l g th p) := by
    unfold performTask.tryPost; (repeat' split) <;> simp (maxDischargeDepth := 9) [hs]
  unfold performTask
  (repeat' split) <;> first | exact k | simp (maxDischargeDepth := 9) [hs]

@[simp] theorem performEntry_inv (s : State) (t : Tid) (l : Launch) (g : Group) (th : Thread) (p : Pend) (hs : MachineInv s) : ActInv (performEntry s t l g th p) := by
  unfold performEntry
  dsimp only
  (repeat' split) <;> simp (maxDischargeDepth := 9) [hs]

@[simp] theorem afterWrite_inv (s : State) (t : Tid) (p : Pend) (vals : List Word) (hs : MachineInv s) : MachineInv (afterWrite s t p vals) := by
  unfold afterWrite
  (repeat' split) <;> first
    | (simp (maxDischargeDepth := 9) [hs]; done)
    | (simp +contextual (maxDischargeDepth := 9) [hs, inv_foldl, inv_ite]; done)
    | (refine inv_foldl (fun s x h => ?_) _ (by simp (maxDischargeDepth := 9) [hs]); dsimp only; (repeat' split) <;> simp (maxDischargeDepth := 9) [h])

@[simp] theorem sendHeld_inv (s : State) (x : Tid × Pend) (hs : MachineInv s) : MachineInv (sendHeld s x) := by
  unfold sendHeld
  (repeat' split) <;> first
    | (simp (maxDischargeDepth := 9) [hs]; done)
    | (simp +contextual (maxDischargeDepth := 9) [hs, inv_foldl, inv_ite]; done)
    | (refine inv_foldl (fun s x h => ?_) _ (by simp (maxDischargeDepth := 9) [hs]); dsimp only; (repeat' split) <;> simp (maxDischargeDepth := 9) [h])

@[simp] theorem flushOne_inv (s : State) (x : Tid × Pend) (hs : MachineInv s) : MachineInv (flushOne s x) := by
  unfold flushOne
  split
  · rename_i l g th _ _
    have k := performEntry_inv s x.1 l g th x.2 hs
    split
    · exact hs
    · split
      · rename_i e; rw [e] at k; exact dropPend_inv _ _ _ k
      · exact hs
  · exact hs

@[simp] theorem sendLines_inv (s : State) (die : Nat) (hs : MachineInv s) : MachineInv (sendLines s die) := by
  unfold sendLines
  (repeat' split) <;> first
    | (simp (maxDischargeDepth := 9) [hs]; done)
    | (simp +contextual (maxDischargeDepth := 9) [hs, inv_foldl, inv_ite]; done)
    | (refine inv_foldl (fun s x h => ?_) _ (by simp (maxDischargeDepth := 9) [hs]); dsimp only; (repeat' split) <;> simp (maxDischargeDepth := 9) [h])

@[simp] theorem endThread_inv (s0 : State) (t : Tid) (hs : MachineInv s0) : MachineInv (endThread s0 t) := by
  unfold endThread
  (repeat' split) <;> first
    | (simp (maxDischargeDepth := 9) [hs]; done)
    | (simp +contextual (maxDischargeDepth := 9) [hs, inv_foldl, inv_ite]; done)
    | (refine inv_foldl (fun s x h => ?_) _ (by simp (maxDischargeDepth := 9) [hs]); dsimp only; (repeat' split) <;> simp (maxDischargeDepth := 9) [h])

@[simp] theorem passHorizon_inv (s : State) (t : Tid) (g : Group) (th : Thread) (hs : MachineInv s) : MachineInv (passHorizon s t g th) := by
  unfold passHorizon
  (repeat' split) <;> first
    | (simp (maxDischargeDepth := 9) [hs]; done)
    | (simp +contextual (maxDischargeDepth := 9) [hs, inv_foldl, inv_ite]; done)
    | (refine inv_foldl (fun s x h => ?_) _ (by simp (maxDischargeDepth := 9) [hs]); dsimp only; (repeat' split) <;> simp (maxDischargeDepth := 9) [h])

@[simp] theorem completePhase_inv (s : State) (l : Launch) (level set k : Nat) (hs : MachineInv s) : MachineInv (completePhase s l level set k) := by
  unfold completePhase
  refine inv_foldl (fun s x h => ?_) _ (by simp (maxDischargeDepth := 9) [hs])
  (repeat' split) <;> simp (maxDischargeDepth := 9) [h]

@[simp] theorem sendBar_inv (s : State) (g : Gang) (rank : Nat) (m : BarMsg) (hs : MachineInv s) : MachineInv (sendBar s g rank m) := by
  unfold sendBar
  (repeat' split) <;> first
    | (simp (maxDischargeDepth := 9) [hs]; done)
    | (simp +contextual (maxDischargeDepth := 9) [hs, inv_foldl, inv_ite]; done)
    | (refine inv_foldl (fun s x h => ?_) _ (by simp (maxDischargeDepth := 9) [hs]); dsimp only; (repeat' split) <;> simp (maxDischargeDepth := 9) [h])

@[simp] theorem barRelease_inv (s : State) (g : Gang) (l : Launch) (level set k : Nat) (hs : MachineInv s) : MachineInv (barRelease s g l level set k) := by
  unfold barRelease
  (repeat' split) <;> first
    | (simp (maxDischargeDepth := 9) [hs]; done)
    | (simp +contextual (maxDischargeDepth := 9) [hs, inv_foldl, inv_ite]; done)
    | (refine inv_foldl (fun s x h => ?_) _ (by simp (maxDischargeDepth := 9) [hs]); dsimp only; (repeat' split) <;> simp (maxDischargeDepth := 9) [h])

@[simp] theorem formConstellation_inv (s : State) (order : List Tid) (anchor : Tid) (w : Word) (hs : MachineInv s) : MachineInv (formConstellation s order anchor w) := by
  unfold formConstellation
  (repeat' split) <;> first
    | (simp (maxDischargeDepth := 9) [hs]; done)
    | (simp +contextual (maxDischargeDepth := 9) [hs, inv_foldl, inv_ite]; done)
    | (refine inv_foldl (fun s x h => ?_) _ (by simp (maxDischargeDepth := 9) [hs]); dsimp only; (repeat' split) <;> simp (maxDischargeDepth := 9) [h])

@[simp] theorem pick_inv (s : State) (quad : Option Nat) (hs : MachineInv s) : OptInv (pick s quad) := by
  unfold pick; dsimp only; (repeat' split) <;> simp (maxDischargeDepth := 9) [hs]

@[simp] theorem discardDoomed_inv (s : State) (g : Group) (hs : MachineInv s) : MachineInv (discardDoomed s g) := by
  unfold discardDoomed
  (repeat' split) <;> first
    | (simp (maxDischargeDepth := 9) [hs]; done)
    | (simp +contextual (maxDischargeDepth := 9) [hs, inv_foldl, inv_ite]; done)
    | (refine inv_foldl (fun s x h => ?_) _ (by simp (maxDischargeDepth := 9) [hs]); dsimp only; (repeat' split) <;> simp (maxDischargeDepth := 9) [h])

@[simp] theorem discardFull_inv (s : State) (die : Nat) (hs : MachineInv s) : MachineInv (discardFull s die) := by
  unfold discardFull; dsimp only; (repeat' split) <;> simp (maxDischargeDepth := 9) [hs]

@[simp] theorem endFault_inv (s : State) (t : Tid) (hs : MachineInv s) : MachineInv (endFault s t) := by
  unfold endFault
  (repeat' split) <;> first
    | (simp (maxDischargeDepth := 9) [hs]; done)
    | (simp +contextual (maxDischargeDepth := 9) [hs, inv_foldl, inv_ite]; done)
    | (refine inv_foldl (fun s x h => ?_) _ (by simp (maxDischargeDepth := 9) [hs]); dsimp only; (repeat' split) <;> simp (maxDischargeDepth := 9) [h])

@[simp] theorem retireGroup_inv (s : State) (g : Group) (hs : MachineInv s) : MachineInv (retireGroup s g) := by
  unfold retireGroup
  (repeat' split) <;> first
    | (simp (maxDischargeDepth := 9) [hs]; done)
    | (simp +contextual (maxDischargeDepth := 9) [hs, inv_foldl, inv_ite]; done)
    | (refine inv_foldl (fun s x h => ?_) _ (by simp (maxDischargeDepth := 9) [hs]); dsimp only; (repeat' split) <;> simp (maxDischargeDepth := 9) [h])

@[simp] theorem wakeGroup_inv (s : State) (gid : Nat) (hs : MachineInv s) : MachineInv (wakeGroup s gid) := by
  have k : ∀ (ts : List Tid) (s : State), MachineInv s → MachineInv (ts.foldl wakeThread s) :=
    fun ts s h => inv_foldl (fun s x h => wakeThread_inv _ _ h) ts h
  have kf : ∀ (ts : List Tid) (s : State), MachineInv s → MachineInv (ts.foldl endFault s) :=
    fun ts s h => inv_foldl (fun s x h => endFault_inv _ _ h) ts h
  have k1 : MachineInv (match s.group? gid with
    | some g => endJoins (discardDoomed s g) g
    | none => s) := by split <;> simp (maxDischargeDepth := 9) [hs]
  unfold wakeGroup
  dsimp only
  split
  · exact retireGroup_inv _ _ (modGroup_inv _ _ _ (kf _ _ (tryTask_inv _ _ (k _ _ k1))))
  · exact modGroup_inv _ _ _ (kf _ _ (tryTask_inv _ _ (k _ _ k1)))

@[simp] theorem wake_inv (s : State) (hs : MachineInv s) : MachineInv (wake s) := by
  unfold wake
  (repeat' split) <;> first
    | (simp (maxDischargeDepth := 9) [hs]; done)
    | (simp +contextual (maxDischargeDepth := 9) [hs, inv_foldl, inv_ite]; done)
    | (refine inv_foldl (fun s x h => ?_) _ (by simp (maxDischargeDepth := 9) [hs]); dsimp only; (repeat' split) <;> simp (maxDischargeDepth := 9) [h])

@[simp] theorem transfer_inv (h : Bool) (s : State) (f : Ctx → Res (DWord × Thread)) (hs : MachineInv s) : OutInv (transfer h s f) := by
  unfold transfer
  refine issue_inv _ _ _ _ hs (fun c => ?_)
  split <;> simp (maxDischargeDepth := 9) [hs]

end Sys2Proof.Laws
end

