-- ==== Sys2Proof/Laws/KeepUnits.lean ====
section
/-! SUPPORT. KeepUnits.lean: the invariant of the machine is kept: the scheduler, commands, copies, the matrix engine, collectives. -/
namespace Sys2Proof.Laws
open Sys2Proof.Machine Sys2Proof.Safety

@[simp] theorem countHeader_inv (s : State) (asid : Nat) (a : DWord) (hs : MachineInv s) : MachineInv (countHeader s asid a) := by
  unfold countHeader
  (repeat' split) <;> first
    | (simp (maxDischargeDepth := 9) [hs]; done)
    | (simp +contextual (maxDischargeDepth := 9) [hs, inv_foldl, inv_ite]; done)
    | (refine inv_foldl (fun s x h => ?_) _ (by simp (maxDischargeDepth := 9) [hs]); dsimp only; (repeat' split) <;> simp (maxDischargeDepth := 9) [h])

@[simp] theorem acceptLaunch_inv (s : State) (ref : LRef) (h : Header) (r : LaunchReq) (hs : MachineInv s) : MachineInv (acceptLaunch s ref h r) := by
  unfold acceptLaunch
  (repeat' split) <;> first
    | (simp (maxDischargeDepth := 9) [hs]; done)
    | (simp +contextual (maxDischargeDepth := 9) [hs, inv_foldl, inv_ite]; done)
    | (refine inv_foldl (fun s x h => ?_) _ (by simp (maxDischargeDepth := 9) [hs]); dsimp only; (repeat' split) <;> simp (maxDischargeDepth := 9) [h])

@[simp] theorem freeScratch_inv (s : State) (hs : MachineInv s) : MachineInv (freeScratch s) := by
  unfold freeScratch
  (repeat' split) <;> first
    | (simp (maxDischargeDepth := 9) [hs]; done)
    | (simp +contextual (maxDischargeDepth := 9) [hs, inv_foldl, inv_ite]; done)
    | (refine inv_foldl (fun s x h => ?_) _ (by simp (maxDischargeDepth := 9) [hs]); dsimp only; (repeat' split) <;> simp (maxDischargeDepth := 9) [h])

@[simp] theorem engineFor_inv (s : State) (l : Launch) (core : Nat) (hs : MachineInv s) : MachineInv (engineFor s l core) := by
  unfold engineFor
  (repeat' split) <;> first
    | (simp (maxDischargeDepth := 9) [hs]; done)
    | (simp +contextual (maxDischargeDepth := 9) [hs, inv_foldl, inv_ite]; done)
    | (refine inv_foldl (fun s x h => ?_) _ (by simp (maxDischargeDepth := 9) [hs]); dsimp only; (repeat' split) <;> simp (maxDischargeDepth := 9) [h])

@[simp] theorem clearScratch_inv (s : State) (core base len : Nat) (hs : MachineInv s) : MachineInv (clearScratch s core base len) := by
  unfold clearScratch
  (repeat' split) <;> first
    | (simp (maxDischargeDepth := 9) [hs]; done)
    | (simp +contextual (maxDischargeDepth := 9) [hs, inv_foldl, inv_ite]; done)
    | (refine inv_foldl (fun s x h => ?_) _ (by simp (maxDischargeDepth := 9) [hs]); dsimp only; (repeat' split) <;> simp (maxDischargeDepth := 9) [h])

@[simp] theorem placeGroups_inv (s : State) (l : Launch) (team : Nat) (cores : List Nat) (mk : State → Nat → Nat → Nat → Nat → Group) (is : List Nat)
    (hs : MachineInv s) : OptInv (placeGroups s l team cores mk is) := by
  induction is generalizing s with
  | nil => simpa [placeGroups] using hs
  | cons i rest ih =>
    simp only [placeGroups]
    split
    · exact ih _ (by simp (maxDischargeDepth := 9) [hs])
    · simp

@[simp] theorem placeTeam_inv (s : State) (l : Launch) (tm : Team) (cores bases is : List Nat) (mk : State → Nat → Nat → Nat → Nat → Group) (hs : MachineInv s) : OptInv (placeTeam s l tm cores bases is mk) := by
  unfold placeTeam
  dsimp only
  split
  · simp
  · refine placeGroups_inv _ _ _ _ _ _ (modLaunch_inv _ _ _ (inv_foldl (fun s x h => ?_) _ (inv_foldl (fun s x h => ?_) _ hs))) <;>
      simp (maxDischargeDepth := 9) [h]

@[simp] theorem placeSet_inv (s : State) (ref : LRef) (ts : List Team) (cores : List Nat) (is : Nat → List Nat) (mk : Nat → State → Nat → Nat → Nat → Nat → Group) (hs : MachineInv s) : OptInv (placeSet s ref ts cores is mk) := by
  unfold placeSet
  split
  · simp
  · have k : ∀ (xs : List (Team × Nat)) (f : Option State → (Team × Nat) → Option State) (o : Option State),
        (∀ o x, OptInv o → OptInv (f o x)) → OptInv o → OptInv (xs.foldl f o) := by
      intro xs f o hf ho
      induction xs generalizing o with
      | nil => exact ho
      | cons x xs ih => exact ih _ (hf _ _ ho)
    refine k _ _ _ (fun o x ho => ?_) (by simpa using hs)
    split
    · rename_i s1 _ _
      have h1 : MachineInv s1 := ho s1 rfl
      cases s1.launch? ref with
      | none => simp
      | some l1 => simp only [Option.bind_some]; exact placeTeam_inv _ _ _ _ _ _ _ h1
    · simp

@[simp] theorem placeFresh_inv (s : State) (l : Launch) (cores : List Nat) (hs : MachineInv s) : OptInv (placeFresh s l cores) := by
  unfold placeFresh
  (repeat' split) <;> first
    | (simp (maxDischargeDepth := 9) [hs]; done)
    | (simp +contextual (maxDischargeDepth := 9) [hs, inv_foldl, inv_ite]; done)
    | (refine inv_foldl (fun s x h => ?_) _ (by simp (maxDischargeDepth := 9) [hs]); dsimp only; (repeat' split) <;> simp (maxDischargeDepth := 9) [h])

@[simp] theorem dropArmed_inv (s : State) (l : Launch) (hs : MachineInv s) : MachineInv (dropArmed s l) := by
  unfold dropArmed
  (repeat' split) <;> first
    | (simp (maxDischargeDepth := 9) [hs]; done)
    | (simp +contextual (maxDischargeDepth := 9) [hs, inv_foldl, inv_ite]; done)
    | (refine inv_foldl (fun s x h => ?_) _ (by simp (maxDischargeDepth := 9) [hs]); dsimp only; (repeat' split) <;> simp (maxDischargeDepth := 9) [h])

@[simp] theorem clearLaunch_inv (s : State) (l : Launch) (hs : MachineInv s) : MachineInv (clearLaunch s l) := by
  unfold clearLaunch
  (repeat' split) <;> first
    | (simp (maxDischargeDepth := 9) [hs]; done)
    | (simp +contextual (maxDischargeDepth := 9) [hs, inv_foldl, inv_ite]; done)
    | (refine inv_foldl (fun s x h => ?_) _ (by simp (maxDischargeDepth := 9) [hs]); dsimp only; (repeat' split) <;> simp (maxDischargeDepth := 9) [h])

@[simp] theorem countEntry_inv (s0 s : State) (src : CmdSrc) (hs : MachineInv s) : MachineInv (countEntry s0 s src) := by
  unfold countEntry; (repeat' split) <;> first | exact hs | simp (maxDischargeDepth := 9) [hs]

theorem takeCmd_inv {s : State} {src : CmdSrc} {op : Nat} {c : HostCmd} {s1 : State} (hs : MachineInv s) (h : takeCmd s src op = some (c, s1)) :
    MachineInv s1 := by
  unfold takeCmd at h
  dsimp only at h
  (repeat' split at h) <;> simp_all <;> obtain ⟨-, rfl⟩ := h <;> simp (maxDischargeDepth := 9) [hs]

@[simp] theorem completeCmd_inv (s : State) (c : HostCmd) (out : DWord) (code : Nat) (result : Word) (hs : MachineInv s) : MachineInv (completeCmd s c out code result) := by
  unfold completeCmd; dsimp only; (repeat' split) <;> simp (maxDischargeDepth := 9) [hs]

@[simp] theorem keepCmd_inv (s : State) (c : HostCmd) (w : HWait) (hs : MachineInv s) : MachineInv (keepCmd s c w) := by
  unfold keepCmd
  (repeat' split) <;> first
    | (simp (maxDischargeDepth := 9) [hs]; done)
    | (simp +contextual (maxDischargeDepth := 9) [hs, inv_foldl, inv_ite]; done)
    | (refine inv_foldl (fun s x h => ?_) _ (by simp (maxDischargeDepth := 9) [hs]); dsimp only; (repeat' split) <;> simp (maxDischargeDepth := 9) [h])

theorem runCmd_inv (s : State) (src : CmdSrc) (op : Nat) (form : HostCmd → Bool) (f : HostCmd → State → Out) (hs : MachineInv s)
    (hf : ∀ c s, MachineInv s → OutInv (f c s)) : OutInv (runCmd s src op form f) := by
  unfold runCmd
  split
  · simp
  · rename_i e
    have k := countEntry_inv s _ src (takeCmd_inv hs e)
    dsimp only
    split
    · simp (maxDischargeDepth := 9) [k]
    · exact hf _ _ k

@[simp] theorem countCmd_inv (s : State) (c : HostCmd) (a : DWord) (n code : Nat) (hs : MachineInv s) : MachineInv (countCmd s c a n code) := by
  unfold countCmd
  (repeat' split) <;> first
    | (simp (maxDischargeDepth := 9) [hs]; done)
    | (simp +contextual (maxDischargeDepth := 9) [hs, inv_foldl, inv_ite]; done)
    | (refine inv_foldl (fun s x h => ?_) _ (by simp (maxDischargeDepth := 9) [hs]); dsimp only; (repeat' split) <;> simp (maxDischargeDepth := 9) [h])

@[simp] theorem hostCopyUnit_inv (s : State) (c : HostCmd) (done : List Nat) (u : Nat) (hs : MachineInv s) : OutInv (hostCopyUnit s c done u) := by
  unfold hostCopyUnit; dsimp only; (repeat' split) <;> simp (maxDischargeDepth := 9) [hs]

@[simp] theorem register_inv (s : State) (id die key : Nat) (thr : Word) (hs : MachineInv s) : MachineInv (register s id die key thr) := by
  unfold register
  (repeat' split) <;> first
    | (simp (maxDischargeDepth := 9) [hs]; done)
    | (simp +contextual (maxDischargeDepth := 9) [hs, inv_foldl, inv_ite]; done)
    | (refine inv_foldl (fun s x h => ?_) _ (by simp (maxDischargeDepth := 9) [hs]); dsimp only; (repeat' split) <;> simp (maxDischargeDepth := 9) [h])

@[simp] theorem readBuffer_inv (s : State) (asid : Nat) (a : DWord) (n : Nat) (hs : MachineInv s) : ErrInv (readBuffer s asid a n) := by
  unfold readBuffer
  (repeat' split) <;> first
    | (simp (maxDischargeDepth := 9) [hs]; done)
    | (simp +contextual (maxDischargeDepth := 9) [hs, inv_foldl, inv_ite]; done)
    | (refine inv_foldl (fun s x h => ?_) _ (by simp (maxDischargeDepth := 9) [hs]); dsimp only; (repeat' split) <;> simp (maxDischargeDepth := 9) [h])

@[simp] theorem putParts_inv (s : State) (ks : List (Nat × Nat)) (bs : List Byte) (hs : MachineInv s) : MachineInv (putParts s ks bs) := by
  induction ks generalizing s bs with
  | nil => exact hs
  | cons k ks ih => exact ih _ _ (pocWrite_inv _ _ _ _ hs)

@[simp] theorem writeBuffer_inv (s : State) (asid : Nat) (a : DWord) (bs : List Byte) (hs : MachineInv s) : BothInv (writeBuffer s asid a bs) := by
  unfold writeBuffer
  (repeat' split) <;> first
    | (simp (maxDischargeDepth := 9) [hs]; done)
    | (simp +contextual (maxDischargeDepth := 9) [hs, inv_foldl, inv_ite]; done)
    | (refine inv_foldl (fun s x h => ?_) _ (by simp (maxDischargeDepth := 9) [hs]); dsimp only; (repeat' split) <;> simp (maxDischargeDepth := 9) [h])

@[simp] theorem drawBelow_inv (s : State) (n : Nat) (hs : MachineInv s) : MachineInv (drawBelow s n).2 := by
  unfold drawBelow
  (repeat' split) <;> first
    | (simp (maxDischargeDepth := 9) [hs]; done)
    | (simp +contextual (maxDischargeDepth := 9) [hs, inv_foldl, inv_ite]; done)
    | (refine inv_foldl (fun s x h => ?_) _ (by simp (maxDischargeDepth := 9) [hs]); dsimp only; (repeat' split) <;> simp (maxDischargeDepth := 9) [h])

@[simp] theorem enqueueSpread_inv (s : State) (spread : Bool) (id die : Nat) (launch : Option LRef) (q ddie cls kind : Nat) (body : Body) (hs : MachineInv s) : MachineInv (enqueueSpread s spread id die launch q ddie cls kind body) := by
  unfold enqueueSpread
  (repeat' split) <;> first
    | (simp (maxDischargeDepth := 9) [hs]; done)
    | (simp +contextual (maxDischargeDepth := 9) [hs, inv_foldl, inv_ite]; done)
    | (refine inv_foldl (fun s x h => ?_) _ (by simp (maxDischargeDepth := 9) [hs]); dsimp only; (repeat' split) <;> simp (maxDischargeDepth := 9) [h])

@[simp] theorem sendReply_inv (s : State) (die : Nat) (p : Packet) (kind cls tag status reason : Nat) (data : List Byte) (hs : MachineInv s) : MachineInv (sendReply s die p kind cls tag status reason data) := by
  unfold sendReply
  (repeat' split) <;> first
    | (simp (maxDischargeDepth := 9) [hs]; done)
    | (simp +contextual (maxDischargeDepth := 9) [hs, inv_foldl, inv_ite]; done)
    | (refine inv_foldl (fun s x h => ?_) _ (by simp (maxDischargeDepth := 9) [hs]); dsimp only; (repeat' split) <;> simp (maxDischargeDepth := 9) [h])

@[simp] theorem engineRec_inv (s : State) (die : Nat) (core : Option Group) (asid launch : Nat) (a : DWord) (kind : Nat) (who : FWho) (hs : MachineInv s) : MachineInv (engineRec s die core asid launch a kind who).2 := by
  unfold engineRec
  (repeat' split) <;> first
    | (simp (maxDischargeDepth := 9) [hs]; done)
    | (simp +contextual (maxDischargeDepth := 9) [hs, inv_foldl, inv_ite]; done)
    | (refine inv_foldl (fun s x h => ?_) _ (by simp (maxDischargeDepth := 9) [hs]); dsimp only; (repeat' split) <;> simp (maxDischargeDepth := 9) [h])

/-- What a unit of a copy leaves. -/
def UResInv : URes → Prop
  | .wait => True
  | .data s _ => MachineInv s
  | .fail s _ => MachineInv s
  | .held => True
  | .away => True

@[simp] theorem uResInv_wait  : UResInv (.wait) := trivial
@[simp] theorem uResInv_data (s : State) (x1 : List Byte) : UResInv (.data s x1) ↔ MachineInv s := Iff.rfl
@[simp] theorem uResInv_fail (s : State) (x1 : Nat) : UResInv (.fail s x1) ↔ MachineInv s := Iff.rfl
@[simp] theorem uResInv_held  : UResInv (.held) := trivial
@[simp] theorem uResInv_away  : UResInv (.away) := trivial

@[simp] theorem denyUnit_inv (s : State) (d : Deny) (absent : Nat) (hs : MachineInv s) : UResInv (denyUnit s d absent) := by
  unfold denyUnit; (repeat' split) <;> simp (maxDischargeDepth := 9) [hs]

@[simp] theorem readPlace_inv (s : State) (asid : Nat) (a : DWord) (k : Nat) (hs : MachineInv s) : UResInv (readPlace s asid a k) := by
  have k0 := pocRead_inv s k 16 hs
  unfold readPlace
  split <;> rename_i e <;> rw [e] at k0
  · exact k0
  · simp (maxDischargeDepth := 9) [hs]

@[simp] theorem readUnit_inv (s : State) (l : Launch) (g : Group) (asid key : Nat) (a : DWord) (absent : Nat) (hs : MachineInv s) : UResInv (readUnit s l g asid key a absent) := by
  have k : UResInv (readUnit.hbm s asid key a absent) := by
    unfold readUnit.hbm
    split
    · simp
    · simp (maxDischargeDepth := 9) [hs]
    · split <;> simp (maxDischargeDepth := 9) [hs]
  unfold readUnit
  dsimp only
  (repeat' split) <;> first | exact k | simp (maxDischargeDepth := 9) [hs]

@[simp] theorem putUnit_inv (s : State) (how : Put) (k : Nat) (x : List Byte) (hs : MachineInv s) : MachineInv (putUnit s how k x) := by
  unfold putUnit; (repeat' split) <;> simp (maxDischargeDepth := 9) [hs]

@[simp] theorem writeHbm_inv (s : State) (asid : Nat) (how : Put) (a : DWord) (x : List Byte) (absent : Nat) (hs : MachineInv s) : UResInv (writeHbm s asid how a x absent) := by
  unfold writeHbm; dsimp only; (repeat' split) <;> simp (maxDischargeDepth := 9) [hs]

@[simp] theorem writeLocal_inv (s : State) (l : Launch) (g : Group) (how : Put) (a : DWord) (x : List Byte) (hs : MachineInv s) : UResInv (writeLocal s l g how a x) := by
  unfold writeLocal; (try dsimp only); (repeat' split) <;> simp (maxDischargeDepth := 9) [hs]

@[simp] theorem writeUnit_inv (s : State) (l : Launch) (g : Group) (asid key : Nat) (how : Put) (a : DWord) (x : List Byte) (absent : Nat) (hs : MachineInv s) : UResInv (writeUnit s l g asid key how a x absent) := by
  unfold writeUnit; (try dsimp only); (repeat' split) <;> simp (maxDischargeDepth := 9) [hs]

@[simp] theorem putCopy_inv (s : State) (c : CopyCmd) (hs : MachineInv s) : MachineInv (State.putCopy s c) := by
  unfold State.putCopy
  (repeat' split) <;> first
    | (simp (maxDischargeDepth := 9) [hs]; done)
    | (simp +contextual (maxDischargeDepth := 9) [hs, inv_foldl, inv_ite]; done)
    | (refine inv_foldl (fun s x h => ?_) _ (by simp (maxDischargeDepth := 9) [hs]); dsimp only; (repeat' split) <;> simp (maxDischargeDepth := 9) [h])

@[simp] theorem unitDone_inv (s : State) (l : Launch) (g : Group) (c : CopyCmd) (u : Nat) (hs : MachineInv s) : MachineInv (unitDone s l g c u) := by
  unfold unitDone
  (repeat' split) <;> first
    | (simp (maxDischargeDepth := 9) [hs]; done)
    | (simp +contextual (maxDischargeDepth := 9) [hs, inv_foldl, inv_ite]; done)
    | (refine inv_foldl (fun s x h => ?_) _ (by simp (maxDischargeDepth := 9) [hs]); dsimp only; (repeat' split) <;> simp (maxDischargeDepth := 9) [h])

@[simp] theorem castUnit_inv (s : State) (l : Launch) (g : Group) (c : CopyCmd) (x : List Byte) (as : List DWord) (hs : MachineInv s) :
    UResInv (castUnit s l g c x as).1 := by
  induction as generalizing s c with
  | nil => simpa [castUnit] using hs
  | cons a rest ih =>
    simp only [castUnit]
    split
    · exact ih _ _ hs
    · have k := writeLocal_inv s l g .plain a x hs
      split
      · rename_i e; rw [e] at k; exact ih _ _ k
      · exact k

@[simp] theorem storeUnit_inv (s : State) (l : Launch) (g : Group) (c : CopyCmd) (u : Nat) (x : List Byte) (hs : MachineInv s) : OutInv (storeUnit s l g c u x) := by
  have k1 := castUnit_inv s l g c x (c.dstsAt u) hs
  have k2 := writeUnit_inv s l g c.asid c.key c.how (c.dstAt u) x 2 hs
  unfold storeUnit
  dsimp only
  have k : UResInv (if c.minor = 2 then castUnit s l g c x (c.dstsAt u) else (writeUnit s l g c.asid c.key c.how (c.dstAt u) x 2, c)).1 := by
    split
    · exact k1
    · exact k2
  split <;> (rename_i e; try rw [e] at k) <;> (try simp only [uResInv_data, uResInv_fail] at k) <;> (try split) <;>
    simp (maxDischargeDepth := 9) [hs, k]

@[simp] theorem unitRead1_inv (s : State) (g : Group) (c : CopyCmd) (u : Nat) (hs : MachineInv s) : MachineInv (unitRead1 s g c u).1 := by
  unfold unitRead1; dsimp only; split <;> simp (maxDischargeDepth := 9) [hs]

@[simp] theorem fetchUnit_inv (s : State) (l : Launch) (g : Group) (c : CopyCmd) (u : Nat) (hs : MachineInv s) : OutInv (fetchUnit s l g c u) := by
  have k := readUnit_inv s l g c.asid c.key (c.srcAt u) 1 hs
  unfold fetchUnit
  split
  · simp
  · split
    · simp
    · split <;> (rename_i e; try rw [e] at k) <;> (try simp only [uResInv_data, uResInv_fail] at k) <;> (try dsimp only) <;>
        (repeat' split) <;> simp (maxDischargeDepth := 9) [hs, k]

@[simp] theorem leaveCopy_inv (s : State) (l : Launch) (g : Group) (c : CopyCmd) (hs : MachineInv s) : MachineInv (leaveCopy s l g c) := by
  unfold leaveCopy
  (repeat' split) <;> first
    | (simp (maxDischargeDepth := 9) [hs]; done)
    | (simp +contextual (maxDischargeDepth := 9) [hs, inv_foldl, inv_ite]; done)
    | (refine inv_foldl (fun s x h => ?_) _ (by simp (maxDischargeDepth := 9) [hs]); dsimp only; (repeat' split) <;> simp (maxDischargeDepth := 9) [h])

@[simp] theorem addCounter_inv (s : State) (asid : Nat) (a : DWord) (v : Word) (hs : MachineInv s) : UResInv (addCounter s asid a v) := by
  unfold addCounter; dsimp only; (repeat' split) <;> simp (maxDischargeDepth := 9) [hs]

@[simp] theorem signalCopy_inv (s : State) (l : Launch) (g : Group) (c : CopyCmd) (hs : MachineInv s) : OutInv (signalCopy s l g c) := by
  have k := fun asid => addCounter_inv s asid c.g c.aux hs
  unfold signalCopy
  split
  · dsimp only; split <;> simp (maxDischargeDepth := 9) [hs]
  · simp (maxDischargeDepth := 9) [hs]
  · rename_i asid _
    have k := k asid
    split <;> (rename_i e; try rw [e] at k) <;> (try simp only [uResInv_data, uResInv_fail] at k) <;> (try dsimp only) <;>
      (repeat' split) <;> simp (maxDischargeDepth := 9) [hs, k]

@[simp] theorem finishCopy_inv (s : State) (l : Launch) (g : Group) (c : CopyCmd) (hs : MachineInv s) : OutInv (finishCopy s l g c) := by
  unfold finishCopy; (repeat' split) <;> simp (maxDischargeDepth := 9) [hs]

@[simp] theorem copyStep_inv (s : State) (c : CopyCmd) (u : Nat) (hs : MachineInv s) : OutInv (copyStep s c u) := by
  unfold copyStep; dsimp only; (repeat' split) <;> simp (maxDischargeDepth := 9) [hs]

@[simp] theorem latchQueue_inv (s : State) (core : Nat) (hs : MachineInv s) : MachineInv (latchQueue s core) := by
  unfold latchQueue
  refine inv_foldl (fun s o h => ?_) _ hs
  split <;> simp (maxDischargeDepth := 9) [h]

@[simp] theorem failMatrix_inv (s : State) (l : Launch) (g : Group) (core : Nat) (o : MOp) (code : Nat) (hs : MachineInv s) : MachineInv (failMatrix s l g core o code) := by
  unfold failMatrix; dsimp only; refine modGroup_inv _ _ _ ?_; simp (maxDischargeDepth := 9) [hs, -List.reduceReplicate]

/-- What a transfer of the matrix engine leaves. -/
def XResInv : XRes → Prop
  | .done s _ _ => MachineInv s
  | .fail s _ _ => MachineInv s
  | .held s _ _ => MachineInv s
  | .wait => True

@[simp] theorem xResInv_done (s : State) (x1 : MOp) (x2 : List Byte) : XResInv (.done s x1 x2) ↔ MachineInv s := Iff.rfl
@[simp] theorem xResInv_fail (s : State) (x1 : MOp) (x2 : Nat) : XResInv (.fail s x1 x2) ↔ MachineInv s := Iff.rfl
@[simp] theorem xResInv_held (s : State) (x1 : MOp) (x2 : DWord) : XResInv (.held s x1 x2) ↔ MachineInv s := Iff.rfl
@[simp] theorem xResInv_wait  : XResInv (.wait) := trivial

@[simp] theorem loadUnits_inv (s : State) (l : Launch) (g : Group) (o : MOp) (acc : List Byte) (us : List Nat) (hs : MachineInv s) :
    XResInv (loadUnits s l g o acc us) := by
  induction us generalizing s acc with
  | nil => simpa [loadUnits] using hs
  | cons u us ih =>
    have k := readUnit_inv s l g l.asid l.podKey (o.unitAt u) 1 hs
    simp only [loadUnits]
    split
    · split <;> (rename_i e; try rw [e] at k) <;> (try simp only [uResInv_data, uResInv_fail] at k) <;> simp (maxDischargeDepth := 9) [hs, k, ih]
    · exact ih _ _ hs

@[simp] theorem storeUnits_inv (s : State) (l : Launch) (g : Group) (slot : List Word) (o : MOp) (us : List Nat) (hs : MachineInv s) :
    XResInv (storeUnits s l g slot o us) := by
  induction us generalizing s o with
  | nil => simpa [storeUnits] using hs
  | cons u us ih =>
    simp only [storeUnits]
    split
    · exact ih _ _ hs
    · split
      · split <;> (rename_i e; first | have k := Eq.mp (congrArg UResInv e) (writeHbm_inv _ _ _ _ _ _ hs) | have k := hs) <;> (try simp only [uResInv_data, uResInv_fail] at k) <;>
          simp (maxDischargeDepth := 9) [hs, k, ih]
      · split
        · exact ih _ _ hs
        · exact ih _ _ (by simp (maxDischargeDepth := 9) [hs])

@[simp] theorem fillLines_inv (s : State) (l : Launch) (g : Group) (o : MOp) (was : List Nat) (hs : MachineInv s) : MachineInv (fillLines s l g o was) := by
  unfold fillLines
  (repeat' split) <;> first
    | (simp (maxDischargeDepth := 9) [hs]; done)
    | (simp +contextual (maxDischargeDepth := 9) [hs, inv_foldl, inv_ite]; done)
    | (refine inv_foldl (fun s x h => ?_) _ (by simp (maxDischargeDepth := 9) [hs]); dsimp only; (repeat' split) <;> simp (maxDischargeDepth := 9) [h])

theorem endXfer_inv (l : Launch) (g : Group) (core : Nat) (o0 : MOp) (r : XRes) (hr : XResInv r) : OutInv (endXfer l g core o0 r) := by
  cases r <;> simp only [endXfer]
  · simp only [xResInv_done] at hr
    (repeat' split) <;> simp (maxDischargeDepth := 9) [hr]
  · simp only [xResInv_fail] at hr; simp (maxDischargeDepth := 9) [hr]
  · simp only [xResInv_held] at hr; split <;> simp (maxDischargeDepth := 9) [hr]
  · simp

@[simp] theorem headStep_inv (s : State) (l : Launch) (g : Group) (core : Nat) (o : MOp) (hs : MachineInv s) : OutInv (headStep s l g core o) := by
  unfold headStep
  dsimp only
  split
  · simp
  · split
    · simp (maxDischargeDepth := 9) [hs, -List.reduceReplicate]
    · split
      · exact endXfer_inv _ _ _ _ _ (storeUnits_inv _ _ _ _ _ _ hs)
      · split
        · split
          · exact endXfer_inv _ _ _ _ _ (loadUnits_inv _ _ _ _ _ _ hs)
          · simp
        · split
          · simp (maxDischargeDepth := 9) [hs]
          · simp

theorem tileFree_inv (cluster rank slot : Nat) (s : State) (hs : MachineInv s) : OutInv (execTileFree cluster rank slot s) := by
  unfold execTileFree
  dsimp only
  (repeat' split) <;> simp (maxDischargeDepth := 9) [hs]

@[simp] theorem freeTiles_inv (s : State) (hs : MachineInv s) : MachineInv (freeTiles s) := by
  unfold freeTiles
  refine inv_foldl (fun s t h => ?_) _ hs
  split
  · rename_i e
    exact tileFree_inv _ _ _ _ h _ e
  · exact h

@[simp] theorem putColl_inv (s : State) (c : Coll) (hs : MachineInv s) : MachineInv (State.putColl s c) := by
  unfold State.putColl
  (repeat' split) <;> first
    | (simp (maxDischargeDepth := 9) [hs]; done)
    | (simp +contextual (maxDischargeDepth := 9) [hs, inv_foldl, inv_ite]; done)
    | (refine inv_foldl (fun s x h => ?_) _ (by simp (maxDischargeDepth := 9) [hs]); dsimp only; (repeat' split) <;> simp (maxDischargeDepth := 9) [h])

/-- What a run of units of a collective leaves. -/
def CResInv : CRes → Prop
  | .done s _ => MachineInv s
  | .abort s _ => MachineInv s
  | .held s _ => MachineInv s

@[simp] theorem cResInv_done (s : State) (x1 : List Byte) : CResInv (.done s x1) ↔ MachineInv s := Iff.rfl
@[simp] theorem cResInv_abort (s : State) (x1 : Nat) : CResInv (.abort s x1) ↔ MachineInv s := Iff.rfl
@[simp] theorem cResInv_held (s : State) (x1 : DWord) : CResInv (.held s x1) ↔ MachineInv s := Iff.rfl

@[simp] theorem readRun_inv (s : State) (l : Launch) (g : Group) (c : Coll) (a : DWord) (acc : List Byte) (n : Nat) (hs : MachineInv s) :
    CResInv (readRun s l g c a acc n) := by
  induction n generalizing s a acc with
  | zero => simpa [readRun] using hs
  | succ n ih =>
    have k := readUnit_inv s l g c.asid c.key a 1 hs
    simp only [readRun]
    split <;> (rename_i e; try rw [e] at k) <;> (try simp only [uResInv_data, uResInv_fail] at k) <;> simp (maxDischargeDepth := 9) [hs, k, ih]

@[simp] theorem writeRun_inv (s : State) (c : Coll) (a : DWord) (bs : List Byte) (n : Nat) (hs : MachineInv s) : CResInv (writeRun s c a bs n) := by
  induction n generalizing s a bs with
  | zero => simpa [writeRun] using hs
  | succ n ih =>
    have k := writeHbm_inv s c.asid .plain a (bs.take 16) 1 hs
    simp only [writeRun]
    split <;> (rename_i e; try rw [e] at k) <;> (try simp only [uResInv_data, uResInv_fail] at k) <;> simp (maxDischargeDepth := 9) [hs, k, ih]

@[simp] theorem holdColl_inv (s : State) (g : Group) (c : Coll) (a : DWord) (h : CollHdr) (x : List Byte) (hs : MachineInv s) : MachineInv (holdColl s g c a h x) := by
  unfold holdColl
  (repeat' split) <;> first
    | (simp (maxDischargeDepth := 9) [hs]; done)
    | (simp +contextual (maxDischargeDepth := 9) [hs, inv_foldl, inv_ite]; done)
    | (refine inv_foldl (fun s x h => ?_) _ (by simp (maxDischargeDepth := 9) [hs]); dsimp only; (repeat' split) <;> simp (maxDischargeDepth := 9) [h])

@[simp] theorem sendHop_inv (s : State) (c : Coll) (h : CollHdr) (x : List Byte) (hs : MachineInv s) : MachineInv (sendHop s c h x) := by
  unfold sendHop
  (repeat' split) <;> first
    | (simp (maxDischargeDepth := 9) [hs]; done)
    | (simp +contextual (maxDischargeDepth := 9) [hs, inv_foldl, inv_ite]; done)
    | (refine inv_foldl (fun s x h => ?_) _ (by simp (maxDischargeDepth := 9) [hs]); dsimp only; (repeat' split) <;> simp (maxDischargeDepth := 9) [h])

@[simp] theorem sendData_inv (s : State) (c : Coll) (h : CollHdr) (x : List Byte) (hs : MachineInv s) : MachineInv (sendData s c h x) := by
  unfold sendData
  (repeat' split) <;> first
    | (simp (maxDischargeDepth := 9) [hs]; done)
    | (simp +contextual (maxDischargeDepth := 9) [hs, inv_foldl, inv_ite]; done)
    | (refine inv_foldl (fun s x h => ?_) _ (by simp (maxDischargeDepth := 9) [hs]); dsimp only; (repeat' split) <;> simp (maxDischargeDepth := 9) [h])

@[simp] theorem originate_inv (s : State) (l : Launch) (g : Group) (c : Coll) (hs : MachineInv s) : OptInv (originate s l g c) := by
  unfold originate
  split
  · rename_i off n route th _ _
    dsimp only
    split
    · simp
    · have k := readRun_inv s l g c (clSrc c.desc + BitVec.ofNat 64 off) [] (n / 16) hs
      split <;> rename_i e <;> rw [e] at k <;> simp only [cResInv_done, cResInv_abort, cResInv_held] at k
      · simp (maxDischargeDepth := 9) [k]
      · simp (maxDischargeDepth := 9) [k]
      · rename_i s1 x
        split
        · split <;> rename_i e <;> have k := Eq.mp (congrArg CResInv e) (writeRun_inv _ _ _ _ _ k) <;> simp only [cResInv_done, cResInv_abort, cResInv_held] at k <;> simp (maxDischargeDepth := 9) [k]
        · simp (maxDischargeDepth := 9) [k]
  · simp

@[simp] theorem passOn_inv (s : State) (c : Coll) (h : CollHdr) (x : List Byte) (op : Nat) (hs : MachineInv s) : MachineInv (passOn s c h x op) := by
  unfold passOn
  (repeat' split) <;> first
    | (simp (maxDischargeDepth := 9) [hs]; done)
    | (simp +contextual (maxDischargeDepth := 9) [hs, inv_foldl, inv_ite]; done)
    | (refine inv_foldl (fun s x h => ?_) _ (by simp (maxDischargeDepth := 9) [hs]); dsimp only; (repeat' split) <;> simp (maxDischargeDepth := 9) [h])

@[simp] theorem hopWrite_inv (s : State) (g : Group) (c : Coll) (h : CollHdr) (x0 x : List Byte) (op : Nat) (hs : MachineInv s) : MachineInv (hopWrite s g c h x0 x op) := by
  unfold hopWrite
  split
  · simp (maxDischargeDepth := 9) [hs]
  · have k := writeRun_inv s c (clDst c.desc + BitVec.ofNat 64 h.offset) x (x.length / 16) hs
    split <;> rename_i e <;> rw [e] at k <;> simp only [cResInv_done, cResInv_abort, cResInv_held] at k <;> (try dsimp only) <;>
      simp (maxDischargeDepth := 9) [k]

@[simp] theorem hop_inv (s : State) (l : Launch) (g : Group) (c : Coll) (h : CollHdr) (x : List Byte) (hs : MachineInv s) : MachineInv (hop s l g c h x) := by
  unfold hop
  split
  · simp (maxDischargeDepth := 9) [hs]
  · dsimp only
    split
    · simp (maxDischargeDepth := 9) [hs]
    · have k := readRun_inv s l g c (clSrc c.desc + BitVec.ofNat 64 h.offset) [] (x.length / 16) hs
      split <;> rename_i e <;> rw [e] at k <;> simp only [cResInv_done, cResInv_abort, cResInv_held] at k <;> simp (maxDischargeDepth := 9) [k]

@[simp] theorem arriveColl_inv (s : State) (die : Nat) (h : CollHdr) (x : List Byte) (hs : MachineInv s) : MachineInv (arriveColl s die h x) := by
  unfold arriveColl
  (repeat' split) <;> first
    | (simp (maxDischargeDepth := 9) [hs]; done)
    | (simp +contextual (maxDischargeDepth := 9) [hs, inv_foldl, inv_ite]; done)
    | (refine inv_foldl (fun s x h => ?_) _ (by simp (maxDischargeDepth := 9) [hs]); dsimp only; (repeat' split) <;> simp (maxDischargeDepth := 9) [h])

@[simp] theorem runColl_inv (s : State) (c : Coll) (hs : MachineInv s) : OptInv (runColl s c) := by
  unfold runColl; (repeat' split) <;> simp (maxDischargeDepth := 9) [hs]

@[simp] theorem signalColl_inv (s : State) (g : Group) (c : Coll) (hs : MachineInv s) : MachineInv (signalColl s g c) := by
  have k := fun asid => addCounter_inv s asid (clG c.desc) (clAux c.desc) hs
  unfold signalColl
  dsimp only
  split
  · split <;> simp (maxDischargeDepth := 9) [hs]
  · simp (maxDischargeDepth := 9) [hs]
  · rename_i asid _
    have k := k asid
    split <;> (rename_i e; try rw [e] at k) <;> (try simp only [uResInv_data, uResInv_fail] at k) <;> (repeat' split) <;> simp (maxDischargeDepth := 9) [hs, k]

@[simp] theorem endAborted_inv (s : State) (c : Coll) (hs : MachineInv s) : MachineInv (endAborted s c) := by
  unfold endAborted
  (repeat' split) <;> first
    | (simp (maxDischargeDepth := 9) [hs]; done)
    | (simp +contextual (maxDischargeDepth := 9) [hs, inv_foldl, inv_ite]; done)
    | (refine inv_foldl (fun s x h => ?_) _ (by simp (maxDischargeDepth := 9) [hs]); dsimp only; (repeat' split) <;> simp (maxDischargeDepth := 9) [h])

@[simp] theorem settleColl_inv (s : State) (id : Nat) (hs : MachineInv s) : MachineInv (settleColl s id) := by
  unfold settleColl
  (repeat' split) <;> first
    | (simp (maxDischargeDepth := 9) [hs]; done)
    | (simp +contextual (maxDischargeDepth := 9) [hs, inv_foldl, inv_ite]; done)
    | (refine inv_foldl (fun s x h => ?_) _ (by simp (maxDischargeDepth := 9) [hs]); dsimp only; (repeat' split) <;> simp (maxDischargeDepth := 9) [h])

@[simp] theorem orderColl_inv (s : State) (p : HeldColl) (hs : MachineInv s) : MachineInv (orderColl s p) := by
  unfold orderColl
  (repeat' split) <;> first
    | (simp (maxDischargeDepth := 9) [hs]; done)
    | (simp +contextual (maxDischargeDepth := 9) [hs, inv_foldl, inv_ite]; done)
    | (refine inv_foldl (fun s x h => ?_) _ (by simp (maxDischargeDepth := 9) [hs]); dsimp only; (repeat' split) <;> simp (maxDischargeDepth := 9) [h])

@[simp] theorem settleColls_inv (s : State) (hs : MachineInv s) : MachineInv (settleColls s) := by
  unfold settleColls
  (repeat' split) <;> first
    | (simp (maxDischargeDepth := 9) [hs]; done)
    | (simp +contextual (maxDischargeDepth := 9) [hs, inv_foldl, inv_ite]; done)
    | (refine inv_foldl (fun s x h => ?_) _ (by simp (maxDischargeDepth := 9) [hs]); dsimp only; (repeat' split) <;> simp (maxDischargeDepth := 9) [h])

/-- What a registration leaves. -/
def RegInv : Reg → Prop
  | .ok s => MachineInv s
  | .wait => True
  | .deny s _ => MachineInv s

@[simp] theorem regInv_ok (s : State) : RegInv (.ok s) ↔ MachineInv s := Iff.rfl
@[simp] theorem regInv_wait  : RegInv (.wait) := trivial
@[simp] theorem regInv_deny (s : State) (x1 : Deny) : RegInv (.deny s x1) ↔ MachineInv s := Iff.rfl

@[simp] theorem tryRegister_inv (s : State) (id asid : Nat) (w : DWord) (thr : Word) (hs : MachineInv s) : RegInv (tryRegister s id asid w thr) := by
  unfold tryRegister; dsimp only; (repeat' split) <;> simp (maxDischargeDepth := 9) [hs]

@[simp] theorem dropTrig_inv (s : State) (id : Nat) (hs : MachineInv s) : MachineInv (dropTrig s id) := by
  unfold dropTrig
  (repeat' split) <;> first
    | (simp (maxDischargeDepth := 9) [hs]; done)
    | (simp +contextual (maxDischargeDepth := 9) [hs, inv_foldl, inv_ite]; done)
    | (refine inv_foldl (fun s x h => ?_) _ (by simp (maxDischargeDepth := 9) [hs]); dsimp only; (repeat' split) <;> simp (maxDischargeDepth := 9) [h])

@[simp] theorem fireCopy_inv (s : State) (c : CopyCmd) (hs : MachineInv s) : OutInv (fireCopy s c) := by
  have k := tryRegister_inv s c.id c.asid c.w c.thr hs
  unfold fireCopy
  split
  · split <;> simp (maxDischargeDepth := 9) [hs]
  · split
    · simp
    · split <;> (rename_i e; rw [e] at k) <;> (try simp only [regInv_ok, regInv_deny] at k) <;> (try dsimp only) <;> (repeat' split) <;>
        simp (maxDischargeDepth := 9) [k]
  · simp

@[simp] theorem fireColl_inv (s : State) (c : Coll) (hs : MachineInv s) : OutInv (fireColl s c) := by
  have k := tryRegister_inv s c.id c.asid (clW c.desc) (clThr c.desc) hs
  unfold fireColl
  split
  · split <;> simp (maxDischargeDepth := 9) [hs]
  · split
    · simp
    · split <;> (rename_i e; rw [e] at k) <;> (try simp only [regInv_ok, regInv_deny] at k) <;> (try dsimp only) <;> (repeat' split) <;>
        simp (maxDischargeDepth := 9) [k]
  · have k1 := runColl_inv s c hs
    split
    · rename_i e; rw [e] at k1; simpa using k1
    · simp
  · simp

@[simp] theorem refuseWait_inv (s : State) (t : Tid) (w : Waiting) (p : Pend) (r : TrapRec) (hs : MachineInv s) : MachineInv (refuseWait s t w p r) := by
  unfold refuseWait
  (repeat' split) <;> first
    | (simp (maxDischargeDepth := 9) [hs]; done)
    | (simp +contextual (maxDischargeDepth := 9) [hs, inv_foldl, inv_ite]; done)
    | (refine inv_foldl (fun s x h => ?_) _ (by simp (maxDischargeDepth := 9) [hs]); dsimp only; (repeat' split) <;> simp (maxDischargeDepth := 9) [h])

@[simp] theorem fireWait_inv (s : State) (t : Tid) (w : Waiting) (id : Nat) (a : DWord) (thr : Word) (hs : MachineInv s) : OutInv (fireWait s t w id a thr) := by
  unfold fireWait
  split
  · rename_i l g th _ _
    have k := tryRegister_inv s id l.asid a thr hs
    dsimp only
    split
    · simp
    · split
      · split <;> simp (maxDischargeDepth := 9) [hs]
      · split
        · simp
        · split <;> (rename_i e; rw [e] at k) <;> (try simp only [regInv_ok, regInv_deny] at k) <;> simp (maxDischargeDepth := 9) [k]
  · simp

/-- What a flip leaves. -/
def FlipResInv : FlipRes → Prop
  | .wait => True
  | .done s => MachineInv s
  | .deny s _ _ => MachineInv s

@[simp] theorem flipResInv_wait  : FlipResInv (.wait) := trivial
@[simp] theorem flipResInv_done (s : State) : FlipResInv (.done s) ↔ MachineInv s := Iff.rfl
@[simp] theorem flipResInv_deny (s : State) (x1 : Nat) (x2 : Nat) : FlipResInv (.deny s x1 x2) ↔ MachineInv s := Iff.rfl

@[simp] theorem flipPage_inv (s : State) (asid die v : Nat) (hs : MachineInv s) : FlipResInv (flipPage s asid die v) := by
  unfold flipPage
  dsimp only
  split
  · simp (maxDischargeDepth := 9) [hs]
  · split
    · simp (maxDischargeDepth := 9) [hs]
    · split
      · simp
      · simp only [flipResInv_done]
        refine dropPage_inv _ _ _ _ _ ?_
        split <;> simp (maxDischargeDepth := 9) [hs]

@[simp] theorem publThread_inv (s : State) (t : Tid) (w : Waiting) (id : Nat) (a : DWord) (sent : Bool) (hs : MachineInv s) : OutInv (publThread s t w id a sent) := by
  unfold publThread
  split
  · dsimp only
    split
    · simp
    · split
      · simp (maxDischargeDepth := 9) [hs]
      · split
        · simp (maxDischargeDepth := 9) [hs]
        · simp (maxDischargeDepth := 9) [hs]
        · rename_i asid _
          have k := flipPage_inv s asid (addrDie a) (addrOff a) hs
          split <;> (rename_i e; rw [e] at k) <;> (try simp only [flipResInv_done, flipResInv_deny] at k) <;> simp (maxDischargeDepth := 9) [k]
  · simp

end Sys2Proof.Laws
end

