-- ==== Sys2Proof/Laws/KeepNet.lean ====
section
/-! SUPPORT. KeepNet.lean: the invariant of the machine is kept: faults answered, the calendar, packets, gangs. -/
namespace Sys2Proof.Laws
open Sys2Proof.Machine Sys2Proof.Safety

@[simp] theorem retryParked_inv (s : State) (t : Tid) (th : Thread) (hs : MachineInv s) : MachineInv (retryParked s t th) := by
  unfold retryParked
  (repeat' split) <;> first
    | (simp (maxDischargeDepth := 9) [hs]; done)
    | (simp +contextual (maxDischargeDepth := 9) [hs, inv_foldl, inv_ite]; done)
    | (refine inv_foldl (fun s x h => ?_) _ (by simp (maxDischargeDepth := 9) [hs]); dsimp only; (repeat' split) <;> simp (maxDischargeDepth := 9) [h])

@[simp] theorem failParked_inv (s : State) (t : Tid) (l : Launch) (g : Group) (th : Thread) (hs : MachineInv s) : MachineInv (failParked s t l g th) := by
  unfold failParked
  (repeat' split) <;> first
    | (simp (maxDischargeDepth := 9) [hs]; done)
    | (simp +contextual (maxDischargeDepth := 9) [hs, inv_foldl, inv_ite]; done)
    | (refine inv_foldl (fun s x h => ?_) _ (by simp (maxDischargeDepth := 9) [hs]); dsimp only; (repeat' split) <;> simp (maxDischargeDepth := 9) [h])

@[simp] theorem answerParked_inv (s : State) (t : Tid) (retry : Bool) (hs : MachineInv s) : MachineInv (answerParked s t retry) := by
  unfold answerParked; dsimp only; (repeat' split) <;> simp (maxDischargeDepth := 9) [hs]

@[simp] theorem answerGroup_inv (s : State) (gid die tag : Nat) (retry : Bool) (hs : MachineInv s) : MachineInv (answerGroup s gid die tag retry) := by
  unfold answerGroup
  (repeat' split) <;> first
    | (simp (maxDischargeDepth := 9) [hs]; done)
    | (simp +contextual (maxDischargeDepth := 9) [hs, inv_foldl, inv_ite]; done)
    | (refine inv_foldl (fun s x h => ?_) _ (by simp (maxDischargeDepth := 9) [hs]); dsimp only; (repeat' split) <;> simp (maxDischargeDepth := 9) [h])

@[simp] theorem answerColl_inv (s : State) (id : Nat) (what : Nat) (retry : Bool) (hs : MachineInv s) : MachineInv (answerColl s id what retry) := by
  unfold answerColl
  (repeat' split) <;> first
    | (simp (maxDischargeDepth := 9) [hs]; done)
    | (simp +contextual (maxDischargeDepth := 9) [hs, inv_foldl, inv_ite]; done)
    | (refine inv_foldl (fun s x h => ?_) _ (by simp (maxDischargeDepth := 9) [hs]); dsimp only; (repeat' split) <;> simp (maxDischargeDepth := 9) [h])

@[simp] theorem answerMatrix_inv (s : State) (core op : Nat) (retry : Bool) (hs : MachineInv s) : MachineInv (answerMatrix s core op retry) := by
  unfold answerMatrix; dsimp only; (repeat' split) <;> simp (maxDischargeDepth := 9) [hs]

@[simp] theorem answerEngine_inv (s : State) (r : FRec) (retry : Bool) (hs : MachineInv s) : MachineInv (answerEngine s r retry) := by
  unfold answerEngine
  (repeat' split) <;> first
    | (simp (maxDischargeDepth := 9) [hs]; done)
    | (simp +contextual (maxDischargeDepth := 9) [hs, inv_foldl, inv_ite]; done)
    | (refine inv_foldl (fun s x h => ?_) _ (by simp (maxDischargeDepth := 9) [hs]); dsimp only; (repeat' split) <;> simp (maxDischargeDepth := 9) [h])

@[simp] theorem answerRec_inv (s : State) (r : FRec) (retry : Bool) (hs : MachineInv s) : MachineInv (answerRec s r retry) := by
  unfold answerRec
  (repeat' split) <;> first
    | (simp (maxDischargeDepth := 9) [hs]; done)
    | (simp +contextual (maxDischargeDepth := 9) [hs, inv_foldl, inv_ite]; done)
    | (refine inv_foldl (fun s x h => ?_) _ (by simp (maxDischargeDepth := 9) [hs]); dsimp only; (repeat' split) <;> simp (maxDischargeDepth := 9) [h])

@[simp] theorem postParked_inv (s : State) (t : Tid) (hs : MachineInv s) : MachineInv (postParked s t) := by
  unfold postParked
  (repeat' split) <;> first
    | (simp (maxDischargeDepth := 9) [hs]; done)
    | (simp +contextual (maxDischargeDepth := 9) [hs, inv_foldl, inv_ite]; done)
    | (refine inv_foldl (fun s x h => ?_) _ (by simp (maxDischargeDepth := 9) [hs]); dsimp only; (repeat' split) <;> simp (maxDischargeDepth := 9) [h])

@[simp] theorem postWaiting_inv (s : State) (hs : MachineInv s) : MachineInv (postWaiting s) := by
  unfold postWaiting
  (repeat' split) <;> first
    | (simp (maxDischargeDepth := 9) [hs]; done)
    | (simp +contextual (maxDischargeDepth := 9) [hs, inv_foldl, inv_ite]; done)
    | (refine inv_foldl (fun s x h => ?_) _ (by simp (maxDischargeDepth := 9) [hs]); dsimp only; (repeat' split) <;> simp (maxDischargeDepth := 9) [h])

@[simp] theorem modPort_inv (s : State) (p : Nat) (f : Port → Port) (hs : MachineInv s) : MachineInv (State.modPort s p f) := by
  unfold State.modPort
  (repeat' split) <;> first
    | (simp (maxDischargeDepth := 9) [hs]; done)
    | (simp +contextual (maxDischargeDepth := 9) [hs, inv_foldl, inv_ite]; done)
    | (refine inv_foldl (fun s x h => ?_) _ (by simp (maxDischargeDepth := 9) [hs]); dsimp only; (repeat' split) <;> simp (maxDischargeDepth := 9) [h])

@[simp] theorem failEntry_inv (s : State) (t : Tid) (p : Pend) (hs : MachineInv s) : MachineInv (failEntry s t p) := by
  unfold failEntry
  (repeat' split) <;> first
    | (simp (maxDischargeDepth := 9) [hs]; done)
    | (simp +contextual (maxDischargeDepth := 9) [hs, inv_foldl, inv_ite]; done)
    | (refine inv_foldl (fun s x h => ?_) _ (by simp (maxDischargeDepth := 9) [hs]); dsimp only; (repeat' split) <;> simp (maxDischargeDepth := 9) [h])

@[simp] theorem failFlight_inv (s : State) (c : CopyCmd) (f : Flight) (hs : MachineInv s) : MachineInv (failFlight s c f) := by
  unfold failFlight
  (repeat' split) <;> first
    | (simp (maxDischargeDepth := 9) [hs]; done)
    | (simp +contextual (maxDischargeDepth := 9) [hs, inv_foldl, inv_ite]; done)
    | (refine inv_foldl (fun s x h => ?_) _ (by simp (maxDischargeDepth := 9) [hs]); dsimp only; (repeat' split) <;> simp (maxDischargeDepth := 9) [h])

@[simp] theorem failTag_inv (s : State) (tag : Nat) (hs : MachineInv s) : MachineInv (failTag s tag) := by
  unfold failTag
  (repeat' split) <;> first
    | (simp (maxDischargeDepth := 9) [hs]; done)
    | (simp +contextual (maxDischargeDepth := 9) [hs, inv_foldl, inv_ite]; done)
    | (refine inv_foldl (fun s x h => ?_) _ (by simp (maxDischargeDepth := 9) [hs]); dsimp only; (repeat' split) <;> simp (maxDischargeDepth := 9) [h])

@[simp] theorem failOut_inv (s : State) (o : OutPkt) (hs : MachineInv s) : MachineInv (failOut s o) := by
  unfold failOut
  (repeat' split) <;> first
    | (simp (maxDischargeDepth := 9) [hs]; done)
    | (simp +contextual (maxDischargeDepth := 9) [hs, inv_foldl, inv_ite]; done)
    | (refine inv_foldl (fun s x h => ?_) _ (by simp (maxDischargeDepth := 9) [hs]); dsimp only; (repeat' split) <;> simp (maxDischargeDepth := 9) [h])

@[simp] theorem replyLost_inv (s : State) (tag : Nat) (hs : MachineInv s) : MachineInv (replyLost s tag) := by
  unfold replyLost
  (repeat' split) <;> first
    | (simp (maxDischargeDepth := 9) [hs]; done)
    | (simp +contextual (maxDischargeDepth := 9) [hs, inv_foldl, inv_ite]; done)
    | (refine inv_foldl (fun s x h => ?_) _ (by simp (maxDischargeDepth := 9) [hs]); dsimp only; (repeat' split) <;> simp (maxDischargeDepth := 9) [h])

@[simp] theorem ackOut_inv (s : State) (o : OutPkt) (hs : MachineInv s) : MachineInv (ackOut s o) := by
  unfold ackOut
  (repeat' split) <;> first
    | (simp (maxDischargeDepth := 9) [hs]; done)
    | (simp +contextual (maxDischargeDepth := 9) [hs, inv_foldl, inv_ite]; done)
    | (refine inv_foldl (fun s x h => ?_) _ (by simp (maxDischargeDepth := 9) [hs]); dsimp only; (repeat' split) <;> simp (maxDischargeDepth := 9) [h])

theorem net_foldl {α β : Type} (p : β → Net) (f : β → α → β) (hf : ∀ b x, (p (f b x)).ports.length = (p b).ports.length) (l : List α) (b : β) :
    (p (l.foldl f b)).ports.length = (p b).ports.length := by
  induction l generalizing b with
  | nil => rfl
  | cons x l ih => exact (ih _).trans (hf _ _)

theorem castOut_ports (me port : Nat) (n : Net) (o : OutPkt) (ms : List Nat) : (castOut me port n o ms).ports.length = n.ports.length := by
  simp [castOut]

theorem castList_ports (me port : Nat) (members : List Nat) (l : List OutPkt) (r : Net × List (Nat × Nat)) :
    (castList me port members l r).1.ports.length = r.1.ports.length := by
  induction l generalizing r with
  | nil => rfl
  | cons o l ih =>
    unfold castList
    dsimp only
    split
    · rw [ih]
    · split
      · rfl
      · rw [ih]; simp [castOut_ports]

@[simp] theorem sendBcast_inv (s : State) (hs : MachineInv s) : MachineInv (sendBcast s) := by
  unfold sendBcast
  split
  · exact hs
  · dsimp only
    refine (inv_mk ..).2 ⟨hs.1, hs.2.1, hs.2.2.1, hs.2.2.2.1, hs.2.2.2.2.1, hs.2.2.2.2.2.1, ?_⟩
    refine Eq.trans (net_foldl (p := Prod.fst) _ (fun b x => ?_) _ _) (inv_ports hs)
    split <;> simp [castList_ports]

@[simp] theorem sendPreambles_inv (s : State) (hs : MachineInv s) : MachineInv (sendPreambles s) := by
  unfold sendPreambles
  (repeat' split) <;> first
    | (simp (maxDischargeDepth := 9) [hs]; done)
    | (simp +contextual (maxDischargeDepth := 9) [hs, inv_foldl, inv_ite]; done)
    | (refine inv_foldl (fun s x h => ?_) _ (by simp (maxDischargeDepth := 9) [hs]); dsimp only; (repeat' split) <;> simp (maxDischargeDepth := 9) [h])

@[simp] theorem boundary_inv (s : State) (c c' : Cal) (k : Nat) (hs : MachineInv s) : MachineInv (boundary s c c' k) := by
  unfold boundary
  (repeat' split) <;> first
    | (simp (maxDischargeDepth := 9) [hs]; done)
    | (simp +contextual (maxDischargeDepth := 9) [hs, inv_foldl, inv_ite]; done)
    | (refine inv_foldl (fun s x h => ?_) _ (by simp (maxDischargeDepth := 9) [hs]); dsimp only; (repeat' split) <;> simp (maxDischargeDepth := 9) [h])

@[simp] theorem portDone_inv (s : State) (port : Nat) (retrain : Bool) (code : Nat) (hs : MachineInv s) : MachineInv (portDone s port retrain code) := by
  unfold portDone
  (repeat' split) <;> first
    | (simp (maxDischargeDepth := 9) [hs]; done)
    | (simp +contextual (maxDischargeDepth := 9) [hs, inv_foldl, inv_ite]; done)
    | (refine inv_foldl (fun s x h => ?_) _ (by simp (maxDischargeDepth := 9) [hs]); dsimp only; (repeat' split) <;> simp (maxDischargeDepth := 9) [h])

@[simp] theorem failPort_inv (s : State) (port : Nat) (hs : MachineInv s) : MachineInv (failPort s port) := by
  unfold failPort
  (repeat' split) <;> first
    | (simp (maxDischargeDepth := 9) [hs]; done)
    | (simp +contextual (maxDischargeDepth := 9) [hs, inv_foldl, inv_ite]; done)
    | (refine inv_foldl (fun s x h => ?_) _ (by simp (maxDischargeDepth := 9) [hs]); dsimp only; (repeat' split) <;> simp (maxDischargeDepth := 9) [h])

theorem align_ports (n : Net) : (align n).ports = n.ports := by unfold align; split <;> rfl

@[simp] theorem estimate_inv (s : State) (m : PreambleMsg) (hs : MachineInv s) : MachineInv (estimate s m) := by
  unfold estimate; dsimp only; (repeat' split) <;> simp (maxDischargeDepth := 9) [hs, align_ports]

theorem sendList_ports (port : Nat) (l : List OutPkt) (n : Net) : (sendList port l n).1.ports.length = n.ports.length := by
  induction l generalizing n with
  | nil => rfl
  | cons o l ih =>
    unfold sendList
    split
    · rw [ih]; simp [sendOut_ports]
    · rfl

theorem flowSend_ports (port q : Nat) (k : Nat × Option LRef) (fuel : Nat) (n : Net) (d : Nat) :
    (flowSend port q k fuel n d).1.ports.length = n.ports.length := by
  induction fuel generalizing n d with
  | zero => rfl
  | succ fuel ih =>
    unfold flowSend
    split
    · split
      · rfl
      · split
        · rfl
        · dsimp only; rw [ih]; simp [sendOut_ports]
    · rfl

theorem flowTurn_ports (s : State) (port q : Nat) (ks go : List (Nat × Option LRef)) (n : Net) (k : Nat × Option LRef) :
    (flowTurn s port q ks go n k).1.ports.length = n.ports.length := by
  simp [flowTurn, flowSend_ports]

theorem roundTurns_ports (s : State) (port q : Nat) (ks go l : List (Nat × Option LRef)) (n : Net) :
    (roundTurns s port q ks go l n).1.ports.length = n.ports.length := by
  induction l generalizing n with
  | nil => rfl
  | cons k l ih =>
    unfold roundTurns
    dsimp only
    split
    · simp [flowTurn_ports]
    · rw [ih]; simp [flowTurn_ports]

theorem rounds_ports (s : State) (port q fuel : Nat) (n : Net) : (rounds s port q fuel n).ports.length = n.ports.length := by
  induction fuel generalizing n with
  | zero => rfl
  | succ k ih =>
    unfold rounds
    dsimp only
    split
    · rfl
    · split
      · simp [roundTurns_ports]
      · rw [ih]; simp [roundTurns_ports]

@[simp] theorem serve_inv (s : State) (port q : Nat) (hs : MachineInv s) : MachineInv (serve s port q) := by
  unfold serve
  dsimp only
  rw [inv_ite]
  refine ⟨fun _ => hs, fun _ => ?_⟩
  rw [inv_ite]
  constructor <;> intro _ <;> simp only [inv_mk] <;>
    refine ⟨inv_mem hs, inv_dies hs, inv_errs hs, inv_queues hs, inv_windows hs, inv_podKeys hs, ?_⟩ <;>
    (try split) <;> simp only [rounds_ports, sendList_ports] <;> exact inv_ports hs

@[simp] theorem serveOpen_inv (s : State) (hs : MachineInv s) : MachineInv (serveOpen s) := by
  unfold serveOpen
  split
  · exact hs
  · refine inv_foldl (fun s p h => ?_) _ hs
    split
    · exact serve_inv _ _ _ h
    · exact h

@[simp] theorem sendAcks_inv (s : State) (hs : MachineInv s) : MachineInv (sendAcks s) := by
  unfold sendAcks
  (repeat' split) <;> first
    | (simp (maxDischargeDepth := 9) [hs]; done)
    | (simp +contextual (maxDischargeDepth := 9) [hs, inv_foldl, inv_ite]; done)
    | (refine inv_foldl (fun s x h => ?_) _ (by simp (maxDischargeDepth := 9) [hs]); dsimp only; (repeat' split) <;> simp (maxDischargeDepth := 9) [h])

@[simp] theorem ackClass_inv (s : State) (src : Nat) (a : Nat × Nat) (hs : MachineInv s) : MachineInv (ackClass s src a) := by
  unfold ackClass
  (repeat' split) <;> first
    | (simp (maxDischargeDepth := 9) [hs]; done)
    | (simp +contextual (maxDischargeDepth := 9) [hs, inv_foldl, inv_ite]; done)
    | (refine inv_foldl (fun s x h => ?_) _ (by simp (maxDischargeDepth := 9) [hs]); dsimp only; (repeat' split) <;> simp (maxDischargeDepth := 9) [h])

@[simp] theorem ackBcast_inv (s : State) (src : Nat) (a : Nat × Nat) (hs : MachineInv s) : MachineInv (ackBcast s src a) := by
  unfold ackBcast
  (repeat' split) <;> first
    | (simp (maxDischargeDepth := 9) [hs]; done)
    | (simp +contextual (maxDischargeDepth := 9) [hs, inv_foldl, inv_ite]; done)
    | (refine inv_foldl (fun s x h => ?_) _ (by simp (maxDischargeDepth := 9) [hs]); dsimp only; (repeat' split) <;> simp (maxDischargeDepth := 9) [h])

@[simp] theorem ackTransit_inv (s : State) (src code : Nat) (hs : MachineInv s) : MachineInv (ackTransit s src code) := by
  unfold ackTransit
  (repeat' split) <;> first
    | (simp (maxDischargeDepth := 9) [hs]; done)
    | (simp +contextual (maxDischargeDepth := 9) [hs, inv_foldl, inv_ite]; done)
    | (refine inv_foldl (fun s x h => ?_) _ (by simp (maxDischargeDepth := 9) [hs]); dsimp only; (repeat' split) <;> simp (maxDischargeDepth := 9) [h])

@[simp] theorem failMember_inv (s : State) (o : OutPkt) (hs : MachineInv s) : MachineInv (failMember s o) := by
  unfold failMember
  (repeat' split) <;> first
    | (simp (maxDischargeDepth := 9) [hs]; done)
    | (simp +contextual (maxDischargeDepth := 9) [hs, inv_foldl, inv_ite]; done)
    | (refine inv_foldl (fun s x h => ?_) _ (by simp (maxDischargeDepth := 9) [hs]); dsimp only; (repeat' split) <;> simp (maxDischargeDepth := 9) [h])

@[simp] theorem enterGen_inv (s : State) (c : Cal) (hs : MachineInv s) : MachineInv (enterGen s c) := by
  simp (maxDischargeDepth := 9) [enterGen, hs, align_ports]

@[simp] theorem rehome_inv (c : Cal) (s : State) (o : OutPkt) (hs : MachineInv s) : MachineInv (rehome c s o) := by
  unfold rehome
  (repeat' split) <;> first
    | (simp (maxDischargeDepth := 9) [hs]; done)
    | (simp +contextual (maxDischargeDepth := 9) [hs, inv_foldl, inv_ite]; done)
    | (refine inv_foldl (fun s x h => ?_) _ (by simp (maxDischargeDepth := 9) [hs]); dsimp only; (repeat' split) <;> simp (maxDischargeDepth := 9) [h])

@[simp] theorem countImage_inv (s : State) (asid : Nat) (a : DWord) (hs : MachineInv s) : MachineInv (countImage s asid a) := by
  unfold countImage
  (repeat' split) <;> first
    | (simp (maxDischargeDepth := 9) [hs]; done)
    | (simp +contextual (maxDischargeDepth := 9) [hs, inv_foldl, inv_ite]; done)
    | (refine inv_foldl (fun s x h => ?_) _ (by simp (maxDischargeDepth := 9) [hs]); dsimp only; (repeat' split) <;> simp (maxDischargeDepth := 9) [h])

@[simp] theorem firstGen_inv (s : State) (c : Cal) (hs : MachineInv s) : MachineInv (firstGen s c) := by
  unfold firstGen
  (repeat' split) <;> first
    | (simp (maxDischargeDepth := 9) [hs]; done)
    | (simp +contextual (maxDischargeDepth := 9) [hs, inv_foldl, inv_ite]; done)
    | (refine inv_foldl (fun s x h => ?_) _ (by simp (maxDischargeDepth := 9) [hs]); dsimp only; (repeat' split) <;> simp (maxDischargeDepth := 9) [h])

@[simp] theorem fence_inv (h : Bool) (kind : Nat) (b : BitVec 7) (s : State) (hs : MachineInv s) : OutInv (fence h kind b s) := by
  unfold fence; refine issueWith_inv _ _ _ hs (fun c => ?_); simpa using hs

@[simp] theorem prefetch_inv (s : State) (c : Ctx) (a : DWord) (l1 : Bool) (hs : MachineInv s) : MachineInv (prefetch s c a l1) := by
  unfold prefetch; dsimp only; (repeat' split) <;> simp (maxDischargeDepth := 9) [hs]

@[simp] theorem prefWord_inv (h l1 : Bool) (a : BitVec 7) (s : State) (hs : MachineInv s) : OutInv (prefWord h l1 a s) := by
  unfold prefWord; refine issue_inv _ _ _ _ hs (fun c => ?_); split <;> simp (maxDischargeDepth := 9) [hs]

@[simp] theorem lineWord_inv (h full : Bool) (a n : BitVec 7) (s : State) (hs : MachineInv s) : OutInv (lineWord h full a n s) := by
  unfold lineWord
  refine issueWith_inv _ _ _ hs (fun c => ?_)
  repeat (first | refine resInv_bind _ _ (fun _ => ?_) | split)
  all_goals (try dsimp only)
  all_goals (repeat' split)
  all_goals simp (maxDischargeDepth := 9) [hs, inv_ite]

@[simp] theorem relay_inv (s : State) (port : Nat) (k : Packet) (hs : MachineInv s) : MachineInv (relay s port k) := by
  unfold relay
  (repeat' split) <;> first
    | (simp (maxDischargeDepth := 9) [hs]; done)
    | (simp +contextual (maxDischargeDepth := 9) [hs, inv_foldl, inv_ite]; done)
    | (refine inv_foldl (fun s x h => ?_) _ (by simp (maxDischargeDepth := 9) [hs]); dsimp only; (repeat' split) <;> simp (maxDischargeDepth := 9) [h])

theorem receive_inv (s : State) (rx : Rx) (kind : Nat → Bool) (f : State → Packet → Out) (hs : MachineInv s) (hf : ∀ s k, MachineInv s → OutInv (f s k)) :
    OutInv (receive s rx kind f) := by
  unfold receive
  split
  · simp
  · split
    · simpa using hs
    · split
      · simp (maxDischargeDepth := 9) [hs]
      · split
        · simpa using hs
        · dsimp only
          split
          · split <;> simp (maxDischargeDepth := 9) [hs]
          · split
            · simp (maxDischargeDepth := 9) [hs]
            · exact hf _ _ (by simp (maxDischargeDepth := 9) [hs])

theorem receiveReq_inv (s : State) (rx : Rx) (kind : Nat) (f : State → Packet → Out) (hs : MachineInv s) (hf : ∀ s k, MachineInv s → OutInv (f s k)) :
    OutInv (receiveReq s rx kind f) := by
  unfold receiveReq
  refine receive_inv _ _ _ _ hs (fun s k h => ?_)
  split
  · simp
  · exact hf _ _ h

theorem servePlace_inv (s : State) (key : Nat) (a : DWord) (p : Perm) (f : State → Nat → Nat → Nat → Served) (hs : MachineInv s)
    (hf : ∀ s x y z, MachineInv s → MachineInv (f s x y z).s) : MachineInv (servePlace s key a p f).s := by
  unfold servePlace
  split
  · simpa [Served.no] using hs
  · split
    · simp (maxDischargeDepth := 9) [Served.no, hs]
    · exact hf _ _ _ _ (fillMtlb_inv _ _ _ _ hs)

@[simp] theorem serveRead_inv (s : State) (key sub flags : Nat) (a : DWord) (hs : MachineInv s) : MachineInv (serveRead s key sub flags a).s := by
  unfold serveRead
  refine servePlace_inv _ _ _ _ _ hs (fun s _ _ k h => ?_)
  have k0 := fun n => pocRead_inv s k n h
  split
  · rename_i e; have k1 := Eq.mp (congrArg ErrInv e) (k0 _); exact k1
  · exact h

@[simp] theorem serveWrite_inv (s : State) (key : Nat) (a : DWord) (data : List Byte) (hs : MachineInv s) : MachineInv (serveWrite s key a data).s := by
  unfold serveWrite; exact servePlace_inv _ _ _ _ _ hs (fun s _ _ k h => pocWrite_inv _ _ _ _ h)

@[simp] theorem serveAtomic_inv (s : State) (key minor : Nat) (a : DWord) (data : List Byte) (hs : MachineInv s) : MachineInv (serveAtomic s key minor a data).s := by
  unfold serveAtomic
  refine servePlace_inv _ _ _ _ _ hs (fun s _ _ k h => ?_)
  (repeat' split) <;> simp (maxDischargeDepth := 9) [Served.no, Served.ok, h]

@[simp] theorem serveUnits_inv (s : State) (key : Nat) (how : Put) (a : DWord) (data : List Byte) (n : Nat) (hs : MachineInv s) :
    MachineInv (serveUnits s key how a data n).s := by
  induction n generalizing s a data with
  | zero => exact hs
  | succ n ih =>
    simp only [serveUnits]
    split
    · exact hs
    · split
      · simp (maxDischargeDepth := 9) [Served.no, hs]
      · rename_i asid _ _ _ _
        have k := writeHbm_inv s asid how a (data.take 16) 1 hs
        split <;> (rename_i e; try rw [e] at k) <;> (try simp only [uResInv_data, uResInv_fail] at k)
        · exact ih _ _ _ k
        · exact k
        · exact k
        · exact hs

@[simp] theorem denyFlight_inv (s : State) (c : CopyCmd) (f : Flight) (status reason absent : Nat) (hs : MachineInv s) : MachineInv (denyFlight s c f status reason absent) := by
  unfold denyFlight
  (repeat' split) <;> first
    | (simp (maxDischargeDepth := 9) [hs]; done)
    | (simp +contextual (maxDischargeDepth := 9) [hs, inv_foldl, inv_ite]; done)
    | (refine inv_foldl (fun s x h => ?_) _ (by simp (maxDischargeDepth := 9) [hs]); dsimp only; (repeat' split) <;> simp (maxDischargeDepth := 9) [h])

@[simp] theorem landLoad_inv (s : State) (t : Tid) (p : Pend) (data : List Byte) (hs : MachineInv s) : MachineInv (landLoad s t p data) := by
  unfold landLoad
  (repeat' split) <;> first
    | (simp (maxDischargeDepth := 9) [hs]; done)
    | (simp +contextual (maxDischargeDepth := 9) [hs, inv_foldl, inv_ite]; done)
    | (refine inv_foldl (fun s x h => ?_) _ (by simp (maxDischargeDepth := 9) [hs]); dsimp only; (repeat' split) <;> simp (maxDischargeDepth := 9) [h])

@[simp] theorem landSignal_inv (s : State) (c : CopyCmd) (status reason : Nat) (hs : MachineInv s) : MachineInv (landSignal s c status reason) := by
  unfold landSignal
  (repeat' split) <;> first
    | (simp (maxDischargeDepth := 9) [hs]; done)
    | (simp +contextual (maxDischargeDepth := 9) [hs, inv_foldl, inv_ite]; done)
    | (refine inv_foldl (fun s x h => ?_) _ (by simp (maxDischargeDepth := 9) [hs]); dsimp only; (repeat' split) <;> simp (maxDischargeDepth := 9) [h])

@[simp] theorem landCollSignal_inv (s : State) (c : Coll) (status reason : Nat) (hs : MachineInv s) : MachineInv (landCollSignal s c status reason) := by
  unfold landCollSignal
  (repeat' split) <;> first
    | (simp (maxDischargeDepth := 9) [hs]; done)
    | (simp +contextual (maxDischargeDepth := 9) [hs, inv_foldl, inv_ite]; done)
    | (refine inv_foldl (fun s x h => ?_) _ (by simp (maxDischargeDepth := 9) [hs]); dsimp only; (repeat' split) <;> simp (maxDischargeDepth := 9) [h])

@[simp] theorem landWrite_inv (s : State) (t : Tid) (p : Pend) (data : List Byte) (hs : MachineInv s) : MachineInv (landWrite s t p data) := by
  unfold landWrite
  (repeat' split) <;> first
    | (simp (maxDischargeDepth := 9) [hs]; done)
    | (simp +contextual (maxDischargeDepth := 9) [hs, inv_foldl, inv_ite]; done)
    | (refine inv_foldl (fun s x h => ?_) _ (by simp (maxDischargeDepth := 9) [hs]); dsimp only; (repeat' split) <;> simp (maxDischargeDepth := 9) [h])

@[simp] theorem comeColl_inv (s : State) (die : Nat) (h : CollHdr) (x : List Byte) (hs : MachineInv s) : MachineInv (comeColl s die h x) := by
  unfold comeColl
  have k0 := arriveColl_inv s die h x hs
  dsimp only
  split
  · rename_i c _
    split
    · have k1 := runColl_inv _ c k0
      cases e : runColl (arriveColl s die h x) c with
      | none => exact k0
      | some s2 => exact k1 _ e
    · exact k0
  · exact k0

@[simp] theorem sendGang_inv (s : State) (die pkg : Nat) (m : GangMsg) (hs : MachineInv s) : MachineInv (sendGang s die pkg m) := by
  unfold sendGang
  (repeat' split) <;> first
    | (simp (maxDischargeDepth := 9) [hs]; done)
    | (simp +contextual (maxDischargeDepth := 9) [hs, inv_foldl, inv_ite]; done)
    | (refine inv_foldl (fun s x h => ?_) _ (by simp (maxDischargeDepth := 9) [hs]); dsimp only; (repeat' split) <;> simp (maxDischargeDepth := 9) [h])

@[simp] theorem tellGang_inv (s : State) (g : Gang) (m : Nat → GangMsg) (hs : MachineInv s) : MachineInv (tellGang s g m) := by
  unfold tellGang
  (repeat' split) <;> first
    | (simp (maxDischargeDepth := 9) [hs]; done)
    | (simp +contextual (maxDischargeDepth := 9) [hs, inv_foldl, inv_ite]; done)
    | (refine inv_foldl (fun s x h => ?_) _ (by simp (maxDischargeDepth := 9) [hs]); dsimp only; (repeat' split) <;> simp (maxDischargeDepth := 9) [h])

@[simp] theorem discardPart_inv (s : State) (ref : LRef) (hs : MachineInv s) : MachineInv (discardPart s ref) := by
  unfold discardPart
  (repeat' split) <;> first
    | (simp (maxDischargeDepth := 9) [hs]; done)
    | (simp +contextual (maxDischargeDepth := 9) [hs, inv_foldl, inv_ite]; done)
    | (refine inv_foldl (fun s x h => ?_) _ (by simp (maxDischargeDepth := 9) [hs]); dsimp only; (repeat' split) <;> simp (maxDischargeDepth := 9) [h])

@[simp] theorem launchDone_inv (s : State) (ref : LRef) (status : Word) (hs : MachineInv s) : MachineInv (launchDone s ref status) := by
  unfold launchDone
  (repeat' split) <;> first
    | (simp (maxDischargeDepth := 9) [hs]; done)
    | (simp +contextual (maxDischargeDepth := 9) [hs, inv_foldl, inv_ite]; done)
    | (refine inv_foldl (fun s x h => ?_) _ (by simp (maxDischargeDepth := 9) [hs]); dsimp only; (repeat' split) <;> simp (maxDischargeDepth := 9) [h])

@[simp] theorem startGang_inv (s : State) (ref : LRef) (r : LaunchReq) (members : List Nat) (hs : MachineInv s) : MachineInv (startGang s ref r members) := by
  unfold startGang
  (repeat' split) <;> first
    | (simp (maxDischargeDepth := 9) [hs]; done)
    | (simp +contextual (maxDischargeDepth := 9) [hs, inv_foldl, inv_ite]; done)
    | (refine inv_foldl (fun s x h => ?_) _ (by simp (maxDischargeDepth := 9) [hs]); dsimp only; (repeat' split) <;> simp (maxDischargeDepth := 9) [h])

@[simp] theorem beginLaunch_inv (s0 : State) (c : HostCmd) (members : List Nat) (hs : MachineInv s0) : MachineInv (beginLaunch s0 c members) := by
  unfold beginLaunch; dsimp only; (repeat' split) <;> simp (maxDischargeDepth := 9) [hs, inv_ite]

theorem receiveGang_inv (s : State) (rx : Rx) (what : Nat) (f : State → Packet → GangMsg → Out) (hs : MachineInv s)
    (hf : ∀ s k m, MachineInv s → OutInv (f s k m)) : OutInv (receiveGang s rx what f) := by
  unfold receiveGang
  refine receive_inv _ _ _ _ hs (fun s k h => ?_)
  (repeat' split) <;> first | exact hf _ _ _ h | simp (maxDischargeDepth := 9) [h]

@[simp] theorem barSweep_inv (s : State) (gid : GangId) (hs : MachineInv s) : MachineInv (barSweep s gid) := by
  unfold barSweep
  split
  · refine inv_foldl (fun s x h => ?_) _ hs
    (repeat' split) <;> simp (maxDischargeDepth := 9) [h]
  · exact hs

@[simp] theorem endGang_inv (s : State) (gid : GangId) (hs : MachineInv s) : MachineInv (endGang s gid) := by
  unfold endGang
  (repeat' split) <;> first
    | (simp (maxDischargeDepth := 9) [hs]; done)
    | (simp +contextual (maxDischargeDepth := 9) [hs, inv_foldl, inv_ite]; done)
    | (refine inv_foldl (fun s x h => ?_) _ (by simp (maxDischargeDepth := 9) [hs]); dsimp only; (repeat' split) <;> simp (maxDischargeDepth := 9) [h])

@[simp] theorem endMember_inv (s : State) (l : Launch) (g : Gang) (code leak : Nat) (hs : MachineInv s) : MachineInv (endMember s l g code leak) := by
  unfold endMember
  (repeat' split) <;> first
    | (simp (maxDischargeDepth := 9) [hs]; done)
    | (simp +contextual (maxDischargeDepth := 9) [hs, inv_foldl, inv_ite]; done)
    | (refine inv_foldl (fun s x h => ?_) _ (by simp (maxDischargeDepth := 9) [hs]); dsimp only; (repeat' split) <;> simp (maxDischargeDepth := 9) [h])

end Sys2Proof.Laws
end

