-- ==== Sys2Proof/Laws/KeepPart.lean ====
section
/-! SUPPORT. KeepPart.lean: the invariant of the machine is kept: swaps, the debugger, registers, the host, the default order. -/
namespace Sys2Proof.Laws
open Sys2Proof.Machine Sys2Proof.Safety

@[simp] theorem placeBack_inv (s : State) (l : Launch) (unit : List Team) (cluster : Nat) (cores : List Nat) (hs : MachineInv s) : OptInv (placeBack s l unit cluster cores) := by
  intro s1 h
  unfold placeBack at h
  obtain ⟨x, hx, rfl⟩ := Option.map_eq_some_iff.1 h
  have k : MachineInv x := placeSet_inv _ _ _ _ _ _ hs x hx
  exact k

@[simp] theorem without_inv (s : State) (us : List TeamSet) (hs : MachineInv s) : MachineInv (without s us) := by
  unfold without
  (repeat' split) <;> first
    | (simp (maxDischargeDepth := 9) [hs]; done)
    | (simp +contextual (maxDischargeDepth := 9) [hs, inv_foldl, inv_ite]; done)
    | (refine inv_foldl (fun s x h => ?_) _ (by simp (maxDischargeDepth := 9) [hs]); dsimp only; (repeat' split) <;> simp (maxDischargeDepth := 9) [h])

@[simp] theorem teamSet_mod_inv (s : State) (u : TeamSet) (f : Team → Team) (hs : MachineInv s) : MachineInv (TeamSet.mod s u f) := by
  unfold TeamSet.mod
  (repeat' split) <;> first
    | (simp (maxDischargeDepth := 9) [hs]; done)
    | (simp +contextual (maxDischargeDepth := 9) [hs, inv_foldl, inv_ite]; done)
    | (refine inv_foldl (fun s x h => ?_) _ (by simp (maxDischargeDepth := 9) [hs]); dsimp only; (repeat' split) <;> simp (maxDischargeDepth := 9) [h])

@[simp] theorem discardSet_inv (s : State) (u : TeamSet) (hs : MachineInv s) : MachineInv (discardSet s u) := by
  unfold discardSet
  (repeat' split) <;> first
    | (simp (maxDischargeDepth := 9) [hs]; done)
    | (simp +contextual (maxDischargeDepth := 9) [hs, inv_foldl, inv_ite]; done)
    | (refine inv_foldl (fun s x h => ?_) _ (by simp (maxDischargeDepth := 9) [hs]); dsimp only; (repeat' split) <;> simp (maxDischargeDepth := 9) [h])

@[simp] theorem flushSet_inv (s : State) (u : TeamSet) (hs : MachineInv s) : MachineInv (flushSet s u) := by
  unfold flushSet
  (repeat' split) <;> first
    | (simp (maxDischargeDepth := 9) [hs]; done)
    | (simp +contextual (maxDischargeDepth := 9) [hs, inv_foldl, inv_ite]; done)
    | (refine inv_foldl (fun s x h => ?_) _ (by simp (maxDischargeDepth := 9) [hs]); dsimp only; (repeat' split) <;> simp (maxDischargeDepth := 9) [h])

@[simp] theorem startPath_inv (s : State) (u : TeamSet) (p : Path) (hs : MachineInv s) : MachineInv (startPath s u p) := by
  unfold startPath
  (repeat' split) <;> first
    | (simp (maxDischargeDepth := 9) [hs]; done)
    | (simp +contextual (maxDischargeDepth := 9) [hs, inv_foldl, inv_ite]; done)
    | (refine inv_foldl (fun s x h => ?_) _ (by simp (maxDischargeDepth := 9) [hs]); dsimp only; (repeat' split) <;> simp (maxDischargeDepth := 9) [h])

@[simp] theorem saveTeam_inv (l : Launch) (s : State) (t : Team) (hs : MachineInv s) : MachineInv (saveTeam l s t) := by
  unfold saveTeam
  (repeat' split) <;> first
    | (simp (maxDischargeDepth := 9) [hs]; done)
    | (simp +contextual (maxDischargeDepth := 9) [hs, inv_foldl, inv_ite]; done)
    | (refine inv_foldl (fun s x h => ?_) _ (by simp (maxDischargeDepth := 9) [hs]); dsimp only; (repeat' split) <;> simp (maxDischargeDepth := 9) [h])

@[simp] theorem reenter_inv (s : State) (t : Tid) (hs : MachineInv s) : MachineInv (reenter s t) := by
  unfold reenter
  split
  · exact hs
  · dsimp only
    split
    · exact answerParked_inv _ _ _ (performAgain_inv _ _ _ (modThread_inv _ _ _ hs))
    · exact performAgain_inv _ _ _ (modThread_inv _ _ _ hs)

@[simp] theorem restoreEngine_inv (old new : List (Nat × Nat × Nat)) (core : Nat) (s : State) (x : SavedEngine) (hs : MachineInv s) : MachineInv (restoreEngine old new core s x) := by
  unfold restoreEngine
  (repeat' split) <;> first
    | (simp (maxDischargeDepth := 9) [hs]; done)
    | (simp +contextual (maxDischargeDepth := 9) [hs, inv_foldl, inv_ite]; done)
    | (refine inv_foldl (fun s x h => ?_) _ (by simp (maxDischargeDepth := 9) [hs]); dsimp only; (repeat' split) <;> simp (maxDischargeDepth := 9) [h])

@[simp] theorem restoreTeam_inv (ref : LRef) (s : State) (old : Team) (hs : MachineInv s) : MachineInv (restoreTeam ref s old) := by
  unfold restoreTeam
  (repeat' split) <;> first
    | (simp (maxDischargeDepth := 9) [hs]; done)
    | (simp +contextual (maxDischargeDepth := 9) [hs, inv_foldl, inv_ite]; done)
    | (refine inv_foldl (fun s x h => ?_) _ (by simp (maxDischargeDepth := 9) [hs]); dsimp only; (repeat' split) <;> simp (maxDischargeDepth := 9) [h])

@[simp] theorem setResult_inv (s : State) (die n : Nat) (hs : MachineInv s) : MachineInv (setResult s die n) := by
  unfold setResult
  (repeat' split) <;> first
    | (simp (maxDischargeDepth := 9) [hs]; done)
    | (simp +contextual (maxDischargeDepth := 9) [hs, inv_foldl, inv_ite]; done)
    | (refine inv_foldl (fun s x h => ?_) _ (by simp (maxDischargeDepth := 9) [hs]); dsimp only; (repeat' split) <;> simp (maxDischargeDepth := 9) [h])

@[simp] theorem haltThread_inv (why : Nat) (s : State) (t : Tid) (hs : MachineInv s) : MachineInv (haltThread why s t) := by
  unfold haltThread
  (repeat' split) <;> first
    | (simp (maxDischargeDepth := 9) [hs]; done)
    | (simp +contextual (maxDischargeDepth := 9) [hs, inv_foldl, inv_ite]; done)
    | (refine inv_foldl (fun s x h => ?_) _ (by simp (maxDischargeDepth := 9) [hs]); dsimp only; (repeat' split) <;> simp (maxDischargeDepth := 9) [h])

@[simp] theorem goThread_inv (step : Bool) (s : State) (t : Tid) (hs : MachineInv s) : MachineInv (goThread step s t) := by
  unfold goThread
  (repeat' split) <;> first
    | (simp (maxDischargeDepth := 9) [hs]; done)
    | (simp +contextual (maxDischargeDepth := 9) [hs, inv_foldl, inv_ite]; done)
    | (refine inv_foldl (fun s x h => ?_) _ (by simp (maxDischargeDepth := 9) [hs]); dsimp only; (repeat' split) <;> simp (maxDischargeDepth := 9) [h])

@[simp] theorem afterStep_inv (s : State) (hs : MachineInv s) : MachineInv (afterStep s) := by
  unfold afterStep
  (repeat' split) <;> first
    | (simp (maxDischargeDepth := 9) [hs]; done)
    | (simp +contextual (maxDischargeDepth := 9) [hs, inv_foldl, inv_ite]; done)
    | (refine inv_foldl (fun s x h => ?_) _ (by simp (maxDischargeDepth := 9) [hs]); dsimp only; (repeat' split) <;> simp (maxDischargeDepth := 9) [h])

@[simp] theorem writeDbgCtl_inv (s : State) (die : Nat) (v : Word) (hs : MachineInv s) : MachineInv (writeDbgCtl s die v) := by
  have go : ∀ (b : Bool) (l : List Tid) (s : State), MachineInv s → MachineInv (l.foldl (goThread b) s) := fun b l s h => inv_foldl (fun s x h => goThread_inv b s x h) l h
  have halt : ∀ (n : Nat) (l : List Tid) (s : State), MachineInv s → MachineInv (l.foldl (haltThread n) s) := fun n l s h => inv_foldl (fun s x h => haltThread_inv n s x h) l h
  unfold writeDbgCtl
  dsimp only
  (repeat' split) <;> simp (maxDischargeDepth := 9) [hs, go, halt]

@[simp] theorem setItem_inv (s : State) (t : Tid) (l : Launch) (g : Group) (th : Thread) (v : Word) (i : Item) (hs : MachineInv s) : OptInv (setItem s t l g th v i) := by
  unfold setItem
  dsimp only
  split <;> (try split) <;> simp (maxDischargeDepth := 9) [hs]

@[simp] theorem writeDbgData_inv (s : State) (die : Nat) (v : Word) (hs : MachineInv s) : MachineInv (writeDbgData s die v) := by
  unfold writeDbgData
  (repeat' split) <;> (try (rename_i e; have k := setItem_inv s _ _ _ _ v _ hs _ e)) <;> simp_all (maxDischargeDepth := 9)

@[simp] theorem afterDbgRead_inv (s : State) (die off : Nat) (hs : MachineInv s) : MachineInv (afterDbgRead s die off) := by
  unfold afterDbgRead
  (repeat' split) <;> first
    | (simp (maxDischargeDepth := 9) [hs]; done)
    | (simp +contextual (maxDischargeDepth := 9) [hs, inv_foldl, inv_ite]; done)
    | (refine inv_foldl (fun s x h => ?_) _ (by simp (maxDischargeDepth := 9) [hs]); dsimp only; (repeat' split) <;> simp (maxDischargeDepth := 9) [h])

@[simp] theorem afterRead_inv (s : State) (off : Nat) (hs : MachineInv s) : MachineInv (afterRead s off) := by
  unfold afterRead
  (repeat' split) <;> first
    | (simp (maxDischargeDepth := 9) [hs]; done)
    | (simp +contextual (maxDischargeDepth := 9) [hs, inv_foldl, inv_ite]; done)
    | (refine inv_foldl (fun s x h => ?_) _ (by simp (maxDischargeDepth := 9) [hs]); dsimp only; (repeat' split) <;> simp (maxDischargeDepth := 9) [h])

@[simp] theorem endLaunches_inv (s : State) (hs : MachineInv s) : MachineInv (endLaunches s) := by
  unfold endLaunches
  (repeat' split) <;> first
    | (simp (maxDischargeDepth := 9) [hs]; done)
    | (simp +contextual (maxDischargeDepth := 9) [hs, inv_foldl, inv_ite]; done)
    | (refine inv_foldl (fun s x h => ?_) _ (by simp (maxDischargeDepth := 9) [hs]); dsimp only; (repeat' split) <;> simp (maxDischargeDepth := 9) [h])

@[simp] theorem setFatal_inv (s : State) (cause : Nat) (hs : MachineInv s) : MachineInv (setFatal s cause) := by
  unfold setFatal
  (repeat' split) <;> first
    | (simp (maxDischargeDepth := 9) [hs]; done)
    | (simp +contextual (maxDischargeDepth := 9) [hs, inv_foldl, inv_ite]; done)
    | (refine inv_foldl (fun s x h => ?_) _ (by simp (maxDischargeDepth := 9) [hs]); dsimp only; (repeat' split) <;> simp (maxDischargeDepth := 9) [h])

@[simp] theorem resetModule_inv (s : State) (hs : MachineInv s) : MachineInv (resetModule s) := by
  unfold resetModule
  have k : Memory.wf s.mem = true := inv_mem hs
  refine (inv_iff _).2 ⟨k, ?_⟩
  simp [State.reset, Net.reset, -List.reduceReplicate]

@[simp] theorem modCtl_inv (s : State) (f : Ctl → Ctl) (hs : MachineInv s) : MachineInv (State.modCtl s f) := by
  unfold State.modCtl
  (repeat' split) <;> first
    | (simp (maxDischargeDepth := 9) [hs]; done)
    | (simp +contextual (maxDischargeDepth := 9) [hs, inv_foldl, inv_ite]; done)
    | (refine inv_foldl (fun s x h => ?_) _ (by simp (maxDischargeDepth := 9) [hs]); dsimp only; (repeat' split) <;> simp (maxDischargeDepth := 9) [h])

@[simp] theorem writeMgmt_inv (s : State) (off : Nat) (v : Word) (hs : MachineInv s) : MachineInv (writeMgmt s off v) := by
  unfold writeMgmt
  (repeat' split) <;> first
    | (simp (maxDischargeDepth := 9) [hs]; done)
    | (simp +contextual (maxDischargeDepth := 9) [hs, inv_foldl, inv_ite]; done)
    | (refine inv_foldl (fun s x h => ?_) _ (by simp (maxDischargeDepth := 9) [hs]); dsimp only; (repeat' split) <;> simp (maxDischargeDepth := 9) [h])

@[simp] theorem writeSched_inv (s : State) (die off : Nat) (v : Word) (hs : MachineInv s) : MachineInv (writeSched s die off v) := by
  unfold writeSched
  (repeat' split) <;> first
    | (simp (maxDischargeDepth := 9) [hs]; done)
    | (simp +contextual (maxDischargeDepth := 9) [hs, inv_foldl, inv_ite]; done)
    | (refine inv_foldl (fun s x h => ?_) _ (by simp (maxDischargeDepth := 9) [hs]); dsimp only; (repeat' split) <;> simp (maxDischargeDepth := 9) [h])

@[simp] theorem writeDbg_inv (s : State) (die off : Nat) (v : Word) (hs : MachineInv s) : MachineInv (writeDbg s die off v) := by
  unfold writeDbg
  (repeat' split) <;> first
    | (simp (maxDischargeDepth := 9) [hs]; done)
    | (simp +contextual (maxDischargeDepth := 9) [hs, inv_foldl, inv_ite]; done)
    | (refine inv_foldl (fun s x h => ?_) _ (by simp (maxDischargeDepth := 9) [hs]); dsimp only; (repeat' split) <;> simp (maxDischargeDepth := 9) [h])

@[simp] theorem writeRoot_inv (s : State) (die asid : Nat) (hi : Bool) (v : Word) (hs : MachineInv s) : MachineInv (writeRoot s die asid hi v) := by
  unfold writeRoot
  (repeat' split) <;> first
    | (simp (maxDischargeDepth := 9) [hs]; done)
    | (simp +contextual (maxDischargeDepth := 9) [hs, inv_foldl, inv_ite]; done)
    | (refine inv_foldl (fun s x h => ?_) _ (by simp (maxDischargeDepth := 9) [hs]); dsimp only; (repeat' split) <;> simp (maxDischargeDepth := 9) [h])

@[simp] theorem writeWindow_inv (s : State) (k part : Nat) (v : Word) (hs : MachineInv s) : MachineInv (writeWindow s k part v) := by
  unfold writeWindow
  (repeat' split) <;> first
    | (simp (maxDischargeDepth := 9) [hs]; done)
    | (simp +contextual (maxDischargeDepth := 9) [hs, inv_foldl, inv_ite]; done)
    | (refine inv_foldl (fun s x h => ?_) _ (by simp (maxDischargeDepth := 9) [hs]); dsimp only; (repeat' split) <;> simp (maxDischargeDepth := 9) [h])

@[simp] theorem writeQueue_inv (s : State) (q off : Nat) (v : Word) (hs : MachineInv s) : MachineInv (writeQueue s q off v) := by
  unfold writeQueue
  (repeat' split) <;> first
    | (simp (maxDischargeDepth := 9) [hs]; done)
    | (simp +contextual (maxDischargeDepth := 9) [hs, inv_foldl, inv_ite]; done)
    | (refine inv_foldl (fun s x h => ?_) _ (by simp (maxDischargeDepth := 9) [hs]); dsimp only; (repeat' split) <;> simp (maxDischargeDepth := 9) [h])

@[simp] theorem writeFq_inv (s : State) (die off : Nat) (v : Word) (hs : MachineInv s) : MachineInv (writeFq s die off v) := by
  unfold writeFq
  (repeat' split) <;> first
    | (simp (maxDischargeDepth := 9) [hs]; done)
    | (simp +contextual (maxDischargeDepth := 9) [hs, inv_foldl, inv_ite]; done)
    | (refine inv_foldl (fun s x h => ?_) _ (by simp (maxDischargeDepth := 9) [hs]); dsimp only; (repeat' split) <;> simp (maxDischargeDepth := 9) [h])

@[simp] theorem putReg_inv (s : State) (off : Nat) (v : Word) (hs : MachineInv s) : MachineInv (putReg s off v) := by
  unfold putReg
  (repeat' split) <;> first
    | (simp (maxDischargeDepth := 9) [hs]; done)
    | (simp +contextual (maxDischargeDepth := 9) [hs, inv_foldl, inv_ite]; done)
    | (refine inv_foldl (fun s x h => ?_) _ (by simp (maxDischargeDepth := 9) [hs]); dsimp only; (repeat' split) <;> simp (maxDischargeDepth := 9) [h])

@[simp] theorem writeReg_inv (s : State) (a : Agent) (off : Nat) (v : Word) (hs : MachineInv s) : MachineInv (writeReg s a off v) := by
  unfold writeReg
  (repeat' split) <;> first
    | (simp (maxDischargeDepth := 9) [hs]; done)
    | (simp +contextual (maxDischargeDepth := 9) [hs, inv_foldl, inv_ite]; done)
    | (refine inv_foldl (fun s x h => ?_) _ (by simp (maxDischargeDepth := 9) [hs]); dsimp only; (repeat' split) <;> simp (maxDischargeDepth := 9) [h])

@[simp] theorem bar4Count_inv (s : State) (off : Nat) (hs : MachineInv s) : MachineInv (bar4Count s off) := by
  unfold bar4Count
  (repeat' split) <;> first
    | (simp (maxDischargeDepth := 9) [hs]; done)
    | (simp +contextual (maxDischargeDepth := 9) [hs, inv_foldl, inv_ite]; done)
    | (refine inv_foldl (fun s x h => ?_) _ (by simp (maxDischargeDepth := 9) [hs]); dsimp only; (repeat' split) <;> simp (maxDischargeDepth := 9) [h])

@[simp] theorem bar4Refused_inv (s : State) (hs : MachineInv s) : MachineInv (bar4Refused s) := by
  unfold bar4Refused
  (repeat' split) <;> first
    | (simp (maxDischargeDepth := 9) [hs]; done)
    | (simp +contextual (maxDischargeDepth := 9) [hs, inv_foldl, inv_ite]; done)
    | (refine inv_foldl (fun s x h => ?_) _ (by simp (maxDischargeDepth := 9) [hs]); dsimp only; (repeat' split) <;> simp (maxDischargeDepth := 9) [h])

theorem clockStep_inv (up : Bool) (s : State) (hs : MachineInv s) : OutInv (execClockStep up s) := by
  unfold execClockStep
  dsimp only
  (repeat' split) <;> simp (maxDischargeDepth := 9) [hs]

@[simp] theorem measureCoolant_inv (s : State) (flow inlet : BitVec 16) (hs : MachineInv s) : MachineInv (measureCoolant s flow inlet) := by
  unfold measureCoolant
  extract_lets low s1
  have h1 : MachineInv s1 := by simp [s1, hs]
  split
  · exact h1
  · split
    · rename_i e; exact clockStep_inv _ _ h1 _ e
    · exact h1

@[simp] theorem load_inv (h : Bool) (acq consume : Bool) (s : BitVec 3) (d : BitVec 7) (srcs : List (BitVec 7)) (f : Ctx → Res DWord) (st : State) (hs : MachineInv st) : OutInv (load h acq consume s d srcs f st) := by
  unfold load
  refine issueWith_inv _ _ _ hs (fun c => ?_)
  repeat (first | refine resInv_bind _ _ (fun _ => ?_) | split)
  all_goals (try dsimp only)
  all_goals (repeat' split)
  all_goals simp (maxDischargeDepth := 9) [hs, inv_ite]

@[simp] theorem store_inv (h : Bool) (rel : Bool) (s : BitVec 3) (d : BitVec 7) (f : Ctx → Res DWord) (st : State) (hs : MachineInv st) : OutInv (store h rel s d f st) := by
  unfold store
  refine issueWith_inv _ _ _ hs (fun c => ?_)
  repeat (first | refine resInv_bind _ _ (fun _ => ?_) | split)
  all_goals (try dsimp only)
  all_goals (repeat' split)
  all_goals simp (maxDischargeDepth := 9) [hs, inv_ite]

@[simp] theorem trigWrite_inv (h : Bool) (minor : Nat) (a b : BitVec 7) (s : State) (hs : MachineInv s) : OutInv (trigWrite h minor a b s) := by
  unfold trigWrite
  refine issueWith_inv _ _ _ hs (fun c => ?_)
  repeat (first | refine resInv_bind _ _ (fun _ => ?_) | split)
  all_goals (try dsimp only)
  all_goals (repeat' split)
  all_goals simp (maxDischargeDepth := 9) [hs, inv_ite]

@[simp] theorem dropAllArmed_inv (s : State) (hs : MachineInv s) : MachineInv (dropAllArmed s) := by
  unfold dropAllArmed
  (repeat' split) <;> first
    | (simp (maxDischargeDepth := 9) [hs]; done)
    | (simp +contextual (maxDischargeDepth := 9) [hs, inv_foldl, inv_ite]; done)
    | (refine inv_foldl (fun s x h => ?_) _ (by simp (maxDischargeDepth := 9) [hs]); dsimp only; (repeat' split) <;> simp (maxDischargeDepth := 9) [h])

@[simp] theorem sendAll_inv (s : State) (hs : MachineInv s) : MachineInv (sendAll s) := by
  unfold sendAll
  (repeat' split) <;> first
    | (simp (maxDischargeDepth := 9) [hs]; done)
    | (simp +contextual (maxDischargeDepth := 9) [hs, inv_foldl, inv_ite]; done)
    | (refine inv_foldl (fun s x h => ?_) _ (by simp (maxDischargeDepth := 9) [hs]); dsimp only; (repeat' split) <;> simp (maxDischargeDepth := 9) [h])

@[simp] theorem ageNow_inv (s : State) (hs : MachineInv s) : MachineInv (ageNow s) := by
  unfold ageNow
  (repeat' split) <;> first
    | (simp (maxDischargeDepth := 9) [hs]; done)
    | (simp +contextual (maxDischargeDepth := 9) [hs, inv_foldl, inv_ite]; done)
    | (refine inv_foldl (fun s x h => ?_) _ (by simp (maxDischargeDepth := 9) [hs]); dsimp only; (repeat' split) <;> simp (maxDischargeDepth := 9) [h])

theorem noCur_inv (s : State) (hs : MachineInv s) : MachineInv { s with cur := none } := hs

theorem allLines_inv (s : State) (hs : MachineInv s) : MachineInv (([0, 1, 2, 3] : List Nat).foldl sendLines s) :=
  inv_foldl (fun s d h => sendLines_inv s d h) _ hs

@[simp] theorem settleState_inv (s : State) (hs : MachineInv s) : MachineInv (settleState s) := by
  unfold settleState
  have k1 := wake_inv _ (noCur_inv _ (afterStep_inv _ (allLines_inv s hs)))
  have k2 := dropAllArmed_inv _ (settleColls_inv _ k1)
  have k3 := sendAll_inv _ (wake_inv _ (postWaiting_inv _ k2))
  exact ageNow_inv _ (freeScratch_inv _ (freeTiles_inv _ (formLate_inv _ k3)))

/-- What a run of instructions must keep for a step to keep it. -/
def RunInv (run : Instr → State → Out) : Prop := ∀ i s, MachineInv s → OutInv (run i s)

@[simp] theorem settle_inv (o : Out) (ho : OutInv o) : OutInv (settle o) := by
  cases o with
  | next s => exact (outInv_next _).2 (settleState_inv s (ho s rfl))
  | fault r => simp [settle]
  | refused r => exact fun _ h => by cases h

theorem nextIssue_keeps (s : State) (x : Instr × State) (hs : MachineInv s) (h : nextIssue s = some x) : MachineInv x.2 := by
  unfold nextIssue at h
  split at h
  · cases h
  · dsimp only at h
    split at h <;> cases h <;> exact hs

theorem runIssue_inv (run : Instr → State → Out) (s : State) (hr : RunInv run) (hs : MachineInv s) : OutInv (runIssue run s) := by
  unfold runIssue
  split
  · rename_i x e
    exact settle_inv _ (hr _ _ (nextIssue_keeps s x hs e))
  · exact settle_inv _ ((outInv_next _).2 hs)

theorem runPick_inv (run : Instr → State → Out) (s : State) (quad : Option Nat) (o : Out) (hr : RunInv run) (hs : MachineInv s)
    (h : runPick run s quad = some o) : OutInv o := by
  unfold runPick at h
  obtain ⟨s1, h1, rfl⟩ := Option.map_eq_some_iff.1 h
  exact runIssue_inv run s1 hr (pick_inv s quad hs s1 h1)

theorem runNext_inv (run : Instr → State → Out) (s : State) (n : Next) (hr : RunInv run) (hs : MachineInv s) : OutInv (runNext run s n) := by
  unfold runNext
  split
  · exact settle_inv _ (hr _ _ hs)
  · rename_i quad
    cases h : runPick run s (some quad) with
    | none => simp
    | some o => exact runPick_inv run s _ o hr hs h
  · exact settle_inv _ ((outInv_next _).2 hs)
  all_goals first
    | with_reducible exact settle_inv _ ((outInv_next _).2 (replyLost_inv _ _ hs))
    | with_reducible exact (outInv_next _).2 (measureCoolant_inv _ _ _ hs)
    | with_reducible exact (outInv_next _).2 (afterRead_inv _ _ hs)
    | with_reducible exact (outInv_next _).2 (countCorrected_inv _ _ hs)
    | exact (outInv_next _).2 hs

theorem firstAuto_inv (run : Instr → State → Out) (s : State) (hr : RunInv run) (hs : MachineInv s) : OptInv (firstAuto run s) := by
  intro s1 h
  unfold firstAuto at h
  obtain ⟨i, -, hi⟩ := List.exists_of_findSome?_eq_some h
  split at hi
  · rename_i s2 e
    cases hi
    exact (inv_iff _).2 ((inv_iff _).1 (hr i { s with cur := none } hs s2 e))
  · cases hi

theorem runDefault_inv (run : Instr → State → Out) (s : State) (hr : RunInv run) (hs : MachineInv s) : OutInv (runDefault run s) := by
  unfold runDefault
  split
  · split
    · rename_i s1 e
      exact settle_inv _ ((outInv_next _).2 (firstAuto_inv run s hr hs s1 e))
    · cases h : runPick run { s with flip := false } none with
      | none => exact (outInv_next _).2 hs
      | some o => exact runPick_inv run { s with flip := false } none o hr hs h
  · split
    · rename_i o h
      exact runPick_inv run { s with flip := true } none o hr hs h
    · split
      · rename_i s1 e
        exact settle_inv _ ((outInv_next _).2 (firstAuto_inv run _ hr hs s1 e))
      · exact (outInv_next _).2 hs

/-- A step keeps the invariant where every instruction does. -/
theorem runStep_inv (run : Instr → State → Out) (s : State) (hr : RunInv run) (hs : MachineInv s) : OutInv (runStep run s) := by
  unfold runStep
  split
  · exact runIssue_inv run s hr hs
  · split
    · exact runNext_inv run _ _ hr hs
    · exact runDefault_inv run s hr hs

end Sys2Proof.Laws
end

