-- ==== Sys2Proof/Laws/KeepExec.lean ====
section
/-! SUPPORT. KeepExec.lean: every instruction keeps the invariant of the machine. -/
namespace Sys2Proof.Laws
open Sys2Proof.Machine Sys2Proof.Safety

/-- The act of a group on the baton keeps what the act keeps. -/
theorem batonOnce_inv (c : Ctx) (s : State) (r : Res Iss) (hs : MachineInv s) (hr : ResInv r) : ResInv (batonOnce c s r) := by
  unfold batonOnce
  (repeat' split) <;> first | exact hr | simp [hs]

theorem batonOnce_iss (c : Ctx) (s : State) (r : Res Iss) (hs : MachineInv s) (hr : ResInv r) :
    IssInv (match batonOnce c s r with
      | .error e => .trap e
      | .ok i => i) := by
  have k := batonOnce_inv c s r hs hr
  revert k
  cases batonOnce c s r <;> intro k
  · trivial
  · exact k

theorem outInv_of_next {o : Out} {t : State} (h : o = .next t) (k : OutInv o) : OutInv (.next t) := h ▸ k

theorem execTalloc_inv (h : Bool) (d a b : BitVec 7) (s : State) (hs : MachineInv s) : OutInv (execTalloc h d a b s) := by
  unfold execTalloc
  refine issueWith_inv _ _ _ hs (fun c => ?_)
  repeat (first | refine resInv_bind _ _ (fun _ => ?_) | split)
  all_goals (try dsimp only)
  all_goals (repeat' split)
  all_goals simp (maxDischargeDepth := 9) [hs, inv_ite]

theorem execTrel_inv (h : Bool) (a : BitVec 7) (s : State) (hs : MachineInv s) : OutInv (execTrel h a s) := by
  unfold execTrel
  refine issueWith_inv _ _ _ hs (fun c => ?_)
  repeat (first | refine resInv_bind _ _ (fun _ => ?_) | split)
  all_goals (try dsimp only)
  all_goals (repeat' split)
  all_goals simp (maxDischargeDepth := 9) [hs, inv_ite]

theorem execTdrop_inv (h : Bool) (a b : BitVec 7) (s : State) (hs : MachineInv s) : OutInv (execTdrop h a b s) := by
  unfold execTdrop
  refine issueWith_inv _ _ _ hs (fun c => ?_)
  repeat (first | refine resInv_bind _ _ (fun _ => ?_) | split)
  all_goals (try dsimp only)
  all_goals (repeat' split)
  all_goals simp (maxDischargeDepth := 9) [hs, inv_ite]

theorem execTaddr_inv (h : Bool) (d a b : BitVec 7) (s : State) (hs : MachineInv s) : OutInv (execTaddr h d a b s) :=
  issueReg_inv _ _ _ hs

theorem execTstat_inv (h : Bool) (d a : BitVec 7) (s : State) (hs : MachineInv s) : OutInv (execTstat h d a s) := by
  unfold execTstat
  refine issueWith_inv _ _ _ hs (fun c => ?_)
  repeat (first | refine resInv_bind _ _ (fun _ => ?_) | split)
  all_goals (try dsimp only)
  all_goals (repeat' split)
  all_goals simp (maxDischargeDepth := 9) [hs, inv_ite]

theorem execTallocGrant_inv (t : Tid) (id rank slot : Nat) (s : State) (hs : MachineInv s) : OutInv (execTallocGrant t id rank slot s) := by
  unfold execTallocGrant
  split
  · split
    · dsimp only
      (repeat' split) <;> first | exact outInv_notNow | exact (outInv_next _).2 (grantTile_inv _ _ _ _ _ _ _ _ _ hs)
    · simp
  · simp

theorem execCpyt_inv (h : Bool) (k : BitVec 3) (a b : BitVec 7) (s : State) (hs : MachineInv s) : OutInv (execCpyt h k a b s) :=
  issueReg_inv _ _ _ hs

theorem execCpy_inv (h : Bool) (d a b : BitVec 7) (s : State) (hs : MachineInv s) : OutInv (execCpy h d a b s) := by
  unfold execCpy
  first
    | (simp (maxDischargeDepth := 9) [hs]; done)
    | (simp +contextual (maxDischargeDepth := 9) [hs, inv_foldl, inv_ite]; done)
    | ((try dsimp only); (repeat' split) <;> (try dsimp only) <;> first | (simp (maxDischargeDepth := 9) [hs, inv_ite]; done) | (simp_all (maxDischargeDepth := 9) [inv_ite]; done))

theorem execCpyr_inv (h : Bool) (d a b : BitVec 7) (s : State) (hs : MachineInv s) : OutInv (execCpyr h d a b s) := by
  unfold execCpyr
  first
    | (simp (maxDischargeDepth := 9) [hs]; done)
    | (simp +contextual (maxDischargeDepth := 9) [hs, inv_foldl, inv_ite]; done)
    | ((try dsimp only); (repeat' split) <;> (try dsimp only) <;> first | (simp (maxDischargeDepth := 9) [hs, inv_ite]; done) | (simp_all (maxDischargeDepth := 9) [inv_ite]; done))

theorem execCpym_inv (h : Bool) (d a b : BitVec 7) (s : State) (hs : MachineInv s) : OutInv (execCpym h d a b s) := by
  unfold execCpym
  first
    | (simp (maxDischargeDepth := 9) [hs]; done)
    | (simp +contextual (maxDischargeDepth := 9) [hs, inv_foldl, inv_ite]; done)
    | ((try dsimp only); (repeat' split) <;> (try dsimp only) <;> first | (simp (maxDischargeDepth := 9) [hs, inv_ite]; done) | (simp_all (maxDischargeDepth := 9) [inv_ite]; done))

theorem execCpys_inv (h : Bool) (d a b : BitVec 7) (s : State) (hs : MachineInv s) : OutInv (execCpys h d a b s) := by
  unfold execCpys
  first
    | (simp (maxDischargeDepth := 9) [hs]; done)
    | (simp +contextual (maxDischargeDepth := 9) [hs, inv_foldl, inv_ite]; done)
    | ((try dsimp only); (repeat' split) <;> (try dsimp only) <;> first | (simp (maxDischargeDepth := 9) [hs, inv_ite]; done) | (simp_all (maxDischargeDepth := 9) [inv_ite]; done))

theorem execPubl_inv (h : Bool) (a : BitVec 7) (s : State) (hs : MachineInv s) : OutInv (execPubl h a s) := by
  unfold execPubl
  refine issueWith_inv _ _ _ hs (fun c => ?_)
  repeat (first | refine resInv_bind _ _ (fun _ => ?_) | split)
  all_goals (try dsimp only)
  all_goals (repeat' split)
  all_goals simp (maxDischargeDepth := 9) [hs, inv_ite]

theorem execCpyq_inv (h : Bool) (d : BitVec 7) (s : State) (hs : MachineInv s) : OutInv (execCpyq h d s) := by
  unfold execCpyq
  refine issueWith_inv _ _ _ hs (fun c => ?_)
  repeat (first | refine resInv_bind _ _ (fun _ => ?_) | split)
  all_goals (try dsimp only)
  all_goals (repeat' split)
  all_goals simp (maxDischargeDepth := 9) [hs, inv_ite]

theorem execCpyw_inv (h : Bool) (d a : BitVec 7) (s : State) (hs : MachineInv s) : OutInv (execCpyw h d a s) := by
  unfold execCpyw
  refine issueWith_inv _ _ _ hs (fun c => ?_)
  repeat (first | refine resInv_bind _ _ (fun _ => ?_) | split)
  all_goals (try dsimp only)
  all_goals (repeat' split)
  all_goals simp (maxDischargeDepth := 9) [hs, inv_ite]

theorem execMacq_inv (h : Bool) (d : BitVec 7) (s : State) (hs : MachineInv s) : OutInv (execMacq h d s) := by
  unfold execMacq
  refine issueWith_inv _ _ _ hs (fun c => ?_)
  repeat (first | refine resInv_bind _ _ (fun _ => ?_) | split)
  all_goals (try dsimp only)
  all_goals (repeat' split)
  all_goals simp (maxDischargeDepth := 9) [hs, inv_ite]

theorem execMpass_inv (h : Bool) (a : BitVec 7) (s : State) (hs : MachineInv s) : OutInv (execMpass h a s) := by
  unfold execMpass
  refine issue_inv _ _ _ _ hs (fun c => ?_)
  split
  · trivial
  · split
    · trivial
    · dsimp only
      have k : ∀ (b : Bool) (r : Res Iss), ResInv r → IssInv (if c.g.acted = 0 ∧ holds s c.g = true ∧ b = false then
          Iss.fail (markActed s c.g.gid 2) c.illegal else match batonOnce c s r with
            | .error r => .trap r
            | .ok i => i) := by
        intro b r hr
        split
        · simp [hs]
        · exact batonOnce_iss _ _ _ hs hr
      refine k _ _ ?_
      split
      · split <;> simp [hs]
      · trivial

theorem execMrel_inv (h : Bool) (s : State) (hs : MachineInv s) : OutInv (execMrel h s) := by
  unfold execMrel
  exact issueWith_inv _ _ _ hs (fun c => resInv_bind _ _ (fun _ => batonOnce_inv _ _ _ hs (by simp [hs])))

theorem execMwho_inv (h : Bool) (d : BitVec 7) (s : State) (hs : MachineInv s) : OutInv (execMwho h d s) := by
  unfold execMwho
  exact issueWith_inv _ _ _ hs (fun c => resInv_bind _ _ (fun _ => (issInv_done _).2 (putCtx_inv _ _ hs)))

theorem execTaskDelivery_inv (gid : Nat) (s : State) (hs : MachineInv s) : OutInv (execTaskDelivery gid s) := by
  unfold execTaskDelivery
  (repeat' split) <;> (try dsimp only) <;> (repeat' split) <;> first
    | (simp (maxDischargeDepth := 9) [hs]; done)
    | exact (outInv_next _).2 (inv_foldl (fun s x h => by split <;> first | exact giveTask_inv _ _ _ _ h | exact h) _ hs)

theorem execTknext_inv (h : Bool) (d a : BitVec 7) (s : State) (hs : MachineInv s) : OutInv (execTknext h d a s) := by
  unfold execTknext
  refine issueWith_inv _ _ _ hs (fun c => ?_)
  repeat (first | refine resInv_bind _ _ (fun _ => ?_) | split)
  simp +contextual (maxDischargeDepth := 9) [hs, tryTask_inv]

theorem execTkdone_inv (h : Bool) (s : State) (hs : MachineInv s) : OutInv (execTkdone h s) := by
  unfold execTkdone
  refine issueWith_inv _ _ _ hs (fun c => ?_)
  repeat (first | refine resInv_bind _ _ (fun _ => ?_) | split)
  all_goals (try dsimp only)
  all_goals (repeat' split)
  all_goals simp (maxDischargeDepth := 9) [hs, inv_ite]

theorem execTkspec_inv (h : Bool) (s : State) (hs : MachineInv s) : OutInv (execTkspec h s) := by
  unfold execTkspec
  refine issueWith_inv _ _ _ hs (fun c => ?_)
  repeat (first | refine resInv_bind _ _ (fun _ => ?_) | split)
  all_goals (try dsimp only)
  all_goals (repeat' split)
  all_goals simp (maxDischargeDepth := 9) [hs, inv_ite]

theorem execTkpost_inv (h : Bool) (a : BitVec 7) (s : State) (hs : MachineInv s) : OutInv (execTkpost h a s) := by
  unfold execTkpost
  refine issueWith_inv _ _ _ hs (fun c => ?_)
  repeat (first | refine resInv_bind _ _ (fun _ => ?_) | split)
  all_goals (try dsimp only)
  all_goals (repeat' split)
  all_goals simp (maxDischargeDepth := 9) [hs, inv_ite]

theorem execTksucc_inv (h : Bool) (a : BitVec 7) (s : State) (hs : MachineInv s) : OutInv (execTksucc h a s) := by
  unfold execTksucc
  refine issueWith_inv _ _ _ hs (fun c => ?_)
  repeat (first | refine resInv_bind _ _ (fun _ => ?_) | split)
  all_goals (try dsimp only)
  all_goals (repeat' split)
  all_goals simp (maxDischargeDepth := 9) [hs, inv_ite]

theorem execTkabort_inv (h : Bool) (s : State) (hs : MachineInv s) : OutInv (execTkabort h s) := by
  unfold execTkabort
  refine issueWith_inv _ _ _ hs (fun c => resInv_bind _ _ (fun _ => ?_))
  split
  · simpa using hs
  · exact resInv_bind _ _ (fun _ => (resInv_ok _).2 ((issInv_done _).2 (discardVersion_inv _ _ hs)))

theorem execLaunch_inv (h : Bool) (d a b : BitVec 7) (s : State) (hs : MachineInv s) : OutInv (execLaunch h d a b s) := by
  unfold execLaunch
  refine issueWith_inv _ _ _ hs (fun c => ?_)
  repeat (first | refine resInv_bind _ _ (fun _ => ?_) | split)
  all_goals (try dsimp only)
  all_goals (repeat' split)
  all_goals simp (maxDischargeDepth := 9) [hs, inv_ite]

theorem execLwait_inv (h : Bool) (d a : BitVec 7) (s : State) (hs : MachineInv s) : OutInv (execLwait h d a s) := by
  unfold execLwait
  refine issueWith_inv _ _ _ hs (fun c => ?_)
  repeat (first | refine resInv_bind _ _ (fun _ => ?_) | split)
  all_goals (try dsimp only)
  all_goals (repeat' split)
  all_goals simp (maxDischargeDepth := 9) [hs, inv_ite]

theorem execLstat_inv (h : Bool) (d a : BitVec 7) (s : State) (hs : MachineInv s) : OutInv (execLstat h d a s) := by
  unfold execLstat
  refine issueWith_inv _ _ _ hs (fun c => ?_)
  repeat (first | refine resInv_bind _ _ (fun _ => ?_) | split)
  all_goals (try dsimp only)
  all_goals (repeat' split)
  all_goals simp (maxDischargeDepth := 9) [hs, inv_ite]

theorem execRole_inv (h : Bool) (d a b : BitVec 7) (s : State) (hs : MachineInv s) : OutInv (execRole h d a b s) :=
  issueReg_inv _ _ _ hs

theorem execAqpost_inv (h : Bool) (d a : BitVec 7) (s : State) (hs : MachineInv s) : OutInv (execAqpost h d a s) := by
  unfold execAqpost
  refine issueWith_inv _ _ _ hs (fun c => ?_)
  repeat (first | refine resInv_bind _ _ (fun _ => ?_) | split)
  all_goals (try dsimp only)
  all_goals (repeat' split)
  all_goals simp (maxDischargeDepth := 9) [hs, inv_ite]

theorem execAqwait_inv (h : Bool) (d a : BitVec 7) (s : State) (hs : MachineInv s) : OutInv (execAqwait h d a s) := by
  unfold execAqwait
  refine issueWith_inv _ _ _ hs (fun c => ?_)
  repeat (first | refine resInv_bind _ _ (fun _ => ?_) | split)
  all_goals (try dsimp only)
  all_goals (repeat' split)
  all_goals simp (maxDischargeDepth := 9) [hs, inv_ite]

theorem execAqstat_inv (h : Bool) (d a : BitVec 7) (s : State) (hs : MachineInv s) : OutInv (execAqstat h d a s) := by
  unfold execAqstat
  refine issueWith_inv _ _ _ hs (fun c => ?_)
  repeat (first | refine resInv_bind _ _ (fun _ => ?_) | split)
  all_goals (try dsimp only)
  all_goals (repeat' split)
  all_goals simp (maxDischargeDepth := 9) [hs, inv_ite]

theorem execAqcancel_inv (h : Bool) (a : BitVec 7) (s : State) (hs : MachineInv s) : OutInv (execAqcancel h a s) := by
  unfold execAqcancel
  refine issueWith_inv _ _ _ hs (fun c => ?_)
  repeat (first | refine resInv_bind _ _ (fun _ => ?_) | split)
  all_goals (try dsimp only)
  all_goals (repeat' split)
  all_goals simp (maxDischargeDepth := 9) [hs, inv_ite]

theorem execQry_inv (qid page : Nat) (s : State) (hs : MachineInv s) : OutInv (execQry qid page s) := by
  unfold execQry
  first
    | (simp (maxDischargeDepth := 9) [hs]; done)
    | (simp +contextual (maxDischargeDepth := 9) [hs, inv_foldl, inv_ite]; done)
    | ((try dsimp only); (repeat' split) <;> (try dsimp only) <;> first | (simp (maxDischargeDepth := 9) [hs, inv_ite]; done) | (simp_all (maxDischargeDepth := 9) [inv_ite]; done))

theorem execBauScan_inv (bau : Nat) (s : State) (hs : MachineInv s) : OutInv (execBauScan bau s) := by
  unfold execBauScan
  first
    | (simp (maxDischargeDepth := 9) [hs]; done)
    | (simp +contextual (maxDischargeDepth := 9) [hs, inv_foldl, inv_ite]; done)
    | ((try dsimp only); (repeat' split) <;> (try dsimp only) <;> first | (simp (maxDischargeDepth := 9) [hs, inv_ite]; done) | (simp_all (maxDischargeDepth := 9) [inv_ite]; done))

theorem execRefresh_inv (_bau : Nat) (s : State) (hs : MachineInv s) : OutInv (execRefresh _bau s) := by
  unfold execRefresh
  first
    | (simp (maxDischargeDepth := 9) [hs]; done)
    | (simp +contextual (maxDischargeDepth := 9) [hs, inv_foldl, inv_ite]; done)
    | ((try dsimp only); (repeat' split) <;> (try dsimp only) <;> first | (simp (maxDischargeDepth := 9) [hs, inv_ite]; done) | (simp_all (maxDischargeDepth := 9) [inv_ite]; done))

theorem execCxl_inv (qid page : Nat) (s : State) (hs : MachineInv s) : OutInv (execCxl qid page s) := by
  unfold execCxl
  first
    | (simp (maxDischargeDepth := 9) [hs]; done)
    | (simp +contextual (maxDischargeDepth := 9) [hs, inv_foldl, inv_ite]; done)
    | ((try dsimp only); (repeat' split) <;> (try dsimp only) <;> first | (simp (maxDischargeDepth := 9) [hs, inv_ite]; done) | (simp_all (maxDischargeDepth := 9) [inv_ite]; done))

theorem execRpl_inv (qid page : Nat) (s : State) (hs : MachineInv s) : OutInv (execRpl qid page s) := by
  have k : ∀ (xs : List (Nat × Nat)) (bs : List Byte) (s : State), MachineInv s →
      MachineInv (xs.foldl (fun s k => pocWrite s none k.1 ((bs.drop (128 * k.2)).take 128)) s) :=
    fun xs bs s h => inv_foldl (fun s x h => pocWrite_inv _ _ _ _ h) xs h
  unfold execRpl
  (repeat' split) <;> (try dsimp only) <;> (repeat' split) <;> simp (maxDischargeDepth := 9) [hs, k]

theorem execAadd_inv (h : Bool) (d a b : BitVec 7) (s : State) (hs : MachineInv s) : OutInv (execAadd h d a b s) := by
  unfold execAadd
  first
    | (simp (maxDischargeDepth := 9) [hs]; done)
    | (simp +contextual (maxDischargeDepth := 9) [hs, inv_foldl, inv_ite]; done)
    | ((try dsimp only); (repeat' split) <;> (try dsimp only) <;> first | (simp (maxDischargeDepth := 9) [hs, inv_ite]; done) | (simp_all (maxDischargeDepth := 9) [inv_ite]; done))

theorem execAxch_inv (h : Bool) (d a b : BitVec 7) (s : State) (hs : MachineInv s) : OutInv (execAxch h d a b s) := by
  unfold execAxch
  first
    | (simp (maxDischargeDepth := 9) [hs]; done)
    | (simp +contextual (maxDischargeDepth := 9) [hs, inv_foldl, inv_ite]; done)
    | ((try dsimp only); (repeat' split) <;> (try dsimp only) <;> first | (simp (maxDischargeDepth := 9) [hs, inv_ite]; done) | (simp_all (maxDischargeDepth := 9) [inv_ite]; done))

theorem execAcas_inv (h : Bool) (d a b : BitVec 7) (s : State) (hs : MachineInv s) : OutInv (execAcas h d a b s) := by
  unfold execAcas
  first
    | (simp (maxDischargeDepth := 9) [hs]; done)
    | (simp +contextual (maxDischargeDepth := 9) [hs, inv_foldl, inv_ite]; done)
    | ((try dsimp only); (repeat' split) <;> (try dsimp only) <;> first | (simp (maxDischargeDepth := 9) [hs, inv_ite]; done) | (simp_all (maxDischargeDepth := 9) [inv_ite]; done))

theorem execAmin_inv (h : Bool) (d a b : BitVec 7) (s : State) (hs : MachineInv s) : OutInv (execAmin h d a b s) := by
  unfold execAmin
  first
    | (simp (maxDischargeDepth := 9) [hs]; done)
    | (simp +contextual (maxDischargeDepth := 9) [hs, inv_foldl, inv_ite]; done)
    | ((try dsimp only); (repeat' split) <;> (try dsimp only) <;> first | (simp (maxDischargeDepth := 9) [hs, inv_ite]; done) | (simp_all (maxDischargeDepth := 9) [inv_ite]; done))

theorem execAmax_inv (h : Bool) (d a b : BitVec 7) (s : State) (hs : MachineInv s) : OutInv (execAmax h d a b s) := by
  unfold execAmax
  first
    | (simp (maxDischargeDepth := 9) [hs]; done)
    | (simp +contextual (maxDischargeDepth := 9) [hs, inv_foldl, inv_ite]; done)
    | ((try dsimp only); (repeat' split) <;> (try dsimp only) <;> first | (simp (maxDischargeDepth := 9) [hs, inv_ite]; done) | (simp_all (maxDischargeDepth := 9) [inv_ite]; done))

theorem execAminu_inv (h : Bool) (d a b : BitVec 7) (s : State) (hs : MachineInv s) : OutInv (execAminu h d a b s) := by
  unfold execAminu
  first
    | (simp (maxDischargeDepth := 9) [hs]; done)
    | (simp +contextual (maxDischargeDepth := 9) [hs, inv_foldl, inv_ite]; done)
    | ((try dsimp only); (repeat' split) <;> (try dsimp only) <;> first | (simp (maxDischargeDepth := 9) [hs, inv_ite]; done) | (simp_all (maxDischargeDepth := 9) [inv_ite]; done))

theorem execAmaxu_inv (h : Bool) (d a b : BitVec 7) (s : State) (hs : MachineInv s) : OutInv (execAmaxu h d a b s) := by
  unfold execAmaxu
  first
    | (simp (maxDischargeDepth := 9) [hs]; done)
    | (simp +contextual (maxDischargeDepth := 9) [hs, inv_foldl, inv_ite]; done)
    | ((try dsimp only); (repeat' split) <;> (try dsimp only) <;> first | (simp (maxDischargeDepth := 9) [hs, inv_ite]; done) | (simp_all (maxDischargeDepth := 9) [inv_ite]; done))

theorem execAand_inv (h : Bool) (d a b : BitVec 7) (s : State) (hs : MachineInv s) : OutInv (execAand h d a b s) := by
  unfold execAand
  first
    | (simp (maxDischargeDepth := 9) [hs]; done)
    | (simp +contextual (maxDischargeDepth := 9) [hs, inv_foldl, inv_ite]; done)
    | ((try dsimp only); (repeat' split) <;> (try dsimp only) <;> first | (simp (maxDischargeDepth := 9) [hs, inv_ite]; done) | (simp_all (maxDischargeDepth := 9) [inv_ite]; done))

theorem execAor_inv (h : Bool) (d a b : BitVec 7) (s : State) (hs : MachineInv s) : OutInv (execAor h d a b s) := by
  unfold execAor
  first
    | (simp (maxDischargeDepth := 9) [hs]; done)
    | (simp +contextual (maxDischargeDepth := 9) [hs, inv_foldl, inv_ite]; done)
    | ((try dsimp only); (repeat' split) <;> (try dsimp only) <;> first | (simp (maxDischargeDepth := 9) [hs, inv_ite]; done) | (simp_all (maxDischargeDepth := 9) [inv_ite]; done))

theorem execAxor_inv (h : Bool) (d a b : BitVec 7) (s : State) (hs : MachineInv s) : OutInv (execAxor h d a b s) := by
  unfold execAxor
  first
    | (simp (maxDischargeDepth := 9) [hs]; done)
    | (simp +contextual (maxDischargeDepth := 9) [hs, inv_foldl, inv_ite]; done)
    | ((try dsimp only); (repeat' split) <;> (try dsimp only) <;> first | (simp (maxDischargeDepth := 9) [hs, inv_ite]; done) | (simp_all (maxDischargeDepth := 9) [inv_ite]; done))

theorem execAincw_inv (h : Bool) (d a b : BitVec 7) (s : State) (hs : MachineInv s) : OutInv (execAincw h d a b s) := by
  unfold execAincw
  first
    | (simp (maxDischargeDepth := 9) [hs]; done)
    | (simp +contextual (maxDischargeDepth := 9) [hs, inv_foldl, inv_ite]; done)
    | ((try dsimp only); (repeat' split) <;> (try dsimp only) <;> first | (simp (maxDischargeDepth := 9) [hs, inv_ite]; done) | (simp_all (maxDischargeDepth := 9) [inv_ite]; done))

theorem execAfadd_inv (h : Bool) (d a b : BitVec 7) (s : State) (hs : MachineInv s) : OutInv (execAfadd h d a b s) := by
  unfold execAfadd
  first
    | (simp (maxDischargeDepth := 9) [hs]; done)
    | (simp +contextual (maxDischargeDepth := 9) [hs, inv_foldl, inv_ite]; done)
    | ((try dsimp only); (repeat' split) <;> (try dsimp only) <;> first | (simp (maxDischargeDepth := 9) [hs, inv_ite]; done) | (simp_all (maxDischargeDepth := 9) [inv_ite]; done))

theorem execAadd64_inv (h : Bool) (d a b : BitVec 7) (s : State) (hs : MachineInv s) : OutInv (execAadd64 h d a b s) := by
  unfold execAadd64
  first
    | (simp (maxDischargeDepth := 9) [hs]; done)
    | (simp +contextual (maxDischargeDepth := 9) [hs, inv_foldl, inv_ite]; done)
    | ((try dsimp only); (repeat' split) <;> (try dsimp only) <;> first | (simp (maxDischargeDepth := 9) [hs, inv_ite]; done) | (simp_all (maxDischargeDepth := 9) [inv_ite]; done))

theorem execAcas64_inv (h : Bool) (d a b : BitVec 7) (s : State) (hs : MachineInv s) : OutInv (execAcas64 h d a b s) := by
  unfold execAcas64
  first
    | (simp (maxDischargeDepth := 9) [hs]; done)
    | (simp +contextual (maxDischargeDepth := 9) [hs, inv_foldl, inv_ite]; done)
    | ((try dsimp only); (repeat' split) <;> (try dsimp only) <;> first | (simp (maxDischargeDepth := 9) [hs, inv_ite]; done) | (simp_all (maxDischargeDepth := 9) [inv_ite]; done))

theorem execAxch64_inv (h : Bool) (d a b : BitVec 7) (s : State) (hs : MachineInv s) : OutInv (execAxch64 h d a b s) := by
  unfold execAxch64
  first
    | (simp (maxDischargeDepth := 9) [hs]; done)
    | (simp +contextual (maxDischargeDepth := 9) [hs, inv_foldl, inv_ite]; done)
    | ((try dsimp only); (repeat' split) <;> (try dsimp only) <;> first | (simp (maxDischargeDepth := 9) [hs, inv_ite]; done) | (simp_all (maxDischargeDepth := 9) [inv_ite]; done))

theorem execAfmax_inv (h : Bool) (d a b : BitVec 7) (s : State) (hs : MachineInv s) : OutInv (execAfmax h d a b s) := by
  unfold execAfmax
  first
    | (simp (maxDischargeDepth := 9) [hs]; done)
    | (simp +contextual (maxDischargeDepth := 9) [hs, inv_foldl, inv_ite]; done)
    | ((try dsimp only); (repeat' split) <;> (try dsimp only) <;> first | (simp (maxDischargeDepth := 9) [hs, inv_ite]; done) | (simp_all (maxDischargeDepth := 9) [inv_ite]; done))

theorem execAaddAr_inv (h : Bool) (d a b : BitVec 7) (s : State) (hs : MachineInv s) : OutInv (execAaddAr h d a b s) := by
  unfold execAaddAr
  first
    | (simp (maxDischargeDepth := 9) [hs]; done)
    | (simp +contextual (maxDischargeDepth := 9) [hs, inv_foldl, inv_ite]; done)
    | ((try dsimp only); (repeat' split) <;> (try dsimp only) <;> first | (simp (maxDischargeDepth := 9) [hs, inv_ite]; done) | (simp_all (maxDischargeDepth := 9) [inv_ite]; done))

theorem execAxchAr_inv (h : Bool) (d a b : BitVec 7) (s : State) (hs : MachineInv s) : OutInv (execAxchAr h d a b s) := by
  unfold execAxchAr
  first
    | (simp (maxDischargeDepth := 9) [hs]; done)
    | (simp +contextual (maxDischargeDepth := 9) [hs, inv_foldl, inv_ite]; done)
    | ((try dsimp only); (repeat' split) <;> (try dsimp only) <;> first | (simp (maxDischargeDepth := 9) [hs, inv_ite]; done) | (simp_all (maxDischargeDepth := 9) [inv_ite]; done))

theorem execAcasAr_inv (h : Bool) (d a b : BitVec 7) (s : State) (hs : MachineInv s) : OutInv (execAcasAr h d a b s) := by
  unfold execAcasAr
  first
    | (simp (maxDischargeDepth := 9) [hs]; done)
    | (simp +contextual (maxDischargeDepth := 9) [hs, inv_foldl, inv_ite]; done)
    | ((try dsimp only); (repeat' split) <;> (try dsimp only) <;> first | (simp (maxDischargeDepth := 9) [hs, inv_ite]; done) | (simp_all (maxDischargeDepth := 9) [inv_ite]; done))

theorem execAminAr_inv (h : Bool) (d a b : BitVec 7) (s : State) (hs : MachineInv s) : OutInv (execAminAr h d a b s) := by
  unfold execAminAr
  first
    | (simp (maxDischargeDepth := 9) [hs]; done)
    | (simp +contextual (maxDischargeDepth := 9) [hs, inv_foldl, inv_ite]; done)
    | ((try dsimp only); (repeat' split) <;> (try dsimp only) <;> first | (simp (maxDischargeDepth := 9) [hs, inv_ite]; done) | (simp_all (maxDischargeDepth := 9) [inv_ite]; done))

theorem execAmaxAr_inv (h : Bool) (d a b : BitVec 7) (s : State) (hs : MachineInv s) : OutInv (execAmaxAr h d a b s) := by
  unfold execAmaxAr
  first
    | (simp (maxDischargeDepth := 9) [hs]; done)
    | (simp +contextual (maxDischargeDepth := 9) [hs, inv_foldl, inv_ite]; done)
    | ((try dsimp only); (repeat' split) <;> (try dsimp only) <;> first | (simp (maxDischargeDepth := 9) [hs, inv_ite]; done) | (simp_all (maxDischargeDepth := 9) [inv_ite]; done))

theorem execAminuAr_inv (h : Bool) (d a b : BitVec 7) (s : State) (hs : MachineInv s) : OutInv (execAminuAr h d a b s) := by
  unfold execAminuAr
  first
    | (simp (maxDischargeDepth := 9) [hs]; done)
    | (simp +contextual (maxDischargeDepth := 9) [hs, inv_foldl, inv_ite]; done)
    | ((try dsimp only); (repeat' split) <;> (try dsimp only) <;> first | (simp (maxDischargeDepth := 9) [hs, inv_ite]; done) | (simp_all (maxDischargeDepth := 9) [inv_ite]; done))

theorem execAmaxuAr_inv (h : Bool) (d a b : BitVec 7) (s : State) (hs : MachineInv s) : OutInv (execAmaxuAr h d a b s) := by
  unfold execAmaxuAr
  first
    | (simp (maxDischargeDepth := 9) [hs]; done)
    | (simp +contextual (maxDischargeDepth := 9) [hs, inv_foldl, inv_ite]; done)
    | ((try dsimp only); (repeat' split) <;> (try dsimp only) <;> first | (simp (maxDischargeDepth := 9) [hs, inv_ite]; done) | (simp_all (maxDischargeDepth := 9) [inv_ite]; done))

theorem execAandAr_inv (h : Bool) (d a b : BitVec 7) (s : State) (hs : MachineInv s) : OutInv (execAandAr h d a b s) := by
  unfold execAandAr
  first
    | (simp (maxDischargeDepth := 9) [hs]; done)
    | (simp +contextual (maxDischargeDepth := 9) [hs, inv_foldl, inv_ite]; done)
    | ((try dsimp only); (repeat' split) <;> (try dsimp only) <;> first | (simp (maxDischargeDepth := 9) [hs, inv_ite]; done) | (simp_all (maxDischargeDepth := 9) [inv_ite]; done))

theorem execAorAr_inv (h : Bool) (d a b : BitVec 7) (s : State) (hs : MachineInv s) : OutInv (execAorAr h d a b s) := by
  unfold execAorAr
  first
    | (simp (maxDischargeDepth := 9) [hs]; done)
    | (simp +contextual (maxDischargeDepth := 9) [hs, inv_foldl, inv_ite]; done)
    | ((try dsimp only); (repeat' split) <;> (try dsimp only) <;> first | (simp (maxDischargeDepth := 9) [hs, inv_ite]; done) | (simp_all (maxDischargeDepth := 9) [inv_ite]; done))

theorem execAxorAr_inv (h : Bool) (d a b : BitVec 7) (s : State) (hs : MachineInv s) : OutInv (execAxorAr h d a b s) := by
  unfold execAxorAr
  first
    | (simp (maxDischargeDepth := 9) [hs]; done)
    | (simp +contextual (maxDischargeDepth := 9) [hs, inv_foldl, inv_ite]; done)
    | ((try dsimp only); (repeat' split) <;> (try dsimp only) <;> first | (simp (maxDischargeDepth := 9) [hs, inv_ite]; done) | (simp_all (maxDischargeDepth := 9) [inv_ite]; done))

theorem execAincwAr_inv (h : Bool) (d a b : BitVec 7) (s : State) (hs : MachineInv s) : OutInv (execAincwAr h d a b s) := by
  unfold execAincwAr
  first
    | (simp (maxDischargeDepth := 9) [hs]; done)
    | (simp +contextual (maxDischargeDepth := 9) [hs, inv_foldl, inv_ite]; done)
    | ((try dsimp only); (repeat' split) <;> (try dsimp only) <;> first | (simp (maxDischargeDepth := 9) [hs, inv_ite]; done) | (simp_all (maxDischargeDepth := 9) [inv_ite]; done))

theorem execAfaddAr_inv (h : Bool) (d a b : BitVec 7) (s : State) (hs : MachineInv s) : OutInv (execAfaddAr h d a b s) := by
  unfold execAfaddAr
  first
    | (simp (maxDischargeDepth := 9) [hs]; done)
    | (simp +contextual (maxDischargeDepth := 9) [hs, inv_foldl, inv_ite]; done)
    | ((try dsimp only); (repeat' split) <;> (try dsimp only) <;> first | (simp (maxDischargeDepth := 9) [hs, inv_ite]; done) | (simp_all (maxDischargeDepth := 9) [inv_ite]; done))

theorem execAadd64Ar_inv (h : Bool) (d a b : BitVec 7) (s : State) (hs : MachineInv s) : OutInv (execAadd64Ar h d a b s) := by
  unfold execAadd64Ar
  first
    | (simp (maxDischargeDepth := 9) [hs]; done)
    | (simp +contextual (maxDischargeDepth := 9) [hs, inv_foldl, inv_ite]; done)
    | ((try dsimp only); (repeat' split) <;> (try dsimp only) <;> first | (simp (maxDischargeDepth := 9) [hs, inv_ite]; done) | (simp_all (maxDischargeDepth := 9) [inv_ite]; done))

theorem execAcas64Ar_inv (h : Bool) (d a b : BitVec 7) (s : State) (hs : MachineInv s) : OutInv (execAcas64Ar h d a b s) := by
  unfold execAcas64Ar
  first
    | (simp (maxDischargeDepth := 9) [hs]; done)
    | (simp +contextual (maxDischargeDepth := 9) [hs, inv_foldl, inv_ite]; done)
    | ((try dsimp only); (repeat' split) <;> (try dsimp only) <;> first | (simp (maxDischargeDepth := 9) [hs, inv_ite]; done) | (simp_all (maxDischargeDepth := 9) [inv_ite]; done))

theorem execAxch64Ar_inv (h : Bool) (d a b : BitVec 7) (s : State) (hs : MachineInv s) : OutInv (execAxch64Ar h d a b s) := by
  unfold execAxch64Ar
  first
    | (simp (maxDischargeDepth := 9) [hs]; done)
    | (simp +contextual (maxDischargeDepth := 9) [hs, inv_foldl, inv_ite]; done)
    | ((try dsimp only); (repeat' split) <;> (try dsimp only) <;> first | (simp (maxDischargeDepth := 9) [hs, inv_ite]; done) | (simp_all (maxDischargeDepth := 9) [inv_ite]; done))

theorem execAfmaxAr_inv (h : Bool) (d a b : BitVec 7) (s : State) (hs : MachineInv s) : OutInv (execAfmaxAr h d a b s) := by
  unfold execAfmaxAr
  first
    | (simp (maxDischargeDepth := 9) [hs]; done)
    | (simp +contextual (maxDischargeDepth := 9) [hs, inv_foldl, inv_ite]; done)
    | ((try dsimp only); (repeat' split) <;> (try dsimp only) <;> first | (simp (maxDischargeDepth := 9) [hs, inv_ite]; done) | (simp_all (maxDischargeDepth := 9) [inv_ite]; done))

theorem execNdrain_inv (h : Bool) (d : BitVec 7) (s : State) (hs : MachineInv s) : OutInv (execNdrain h d s) := by
  unfold execNdrain
  refine issueWith_inv _ _ _ hs (fun c => ?_)
  repeat (first | refine resInv_bind _ _ (fun _ => ?_) | split)
  all_goals (try dsimp only)
  all_goals (repeat' split)
  all_goals simp (maxDischargeDepth := 9) [hs, inv_ite]

theorem execNgen_inv (h : Bool) (d a : BitVec 7) (w : Bool) (s : State) (hs : MachineInv s) : OutInv (execNgen h d a w s) := by
  unfold execNgen
  refine issueWith_inv _ _ _ hs (fun c => ?_)
  repeat (first | refine resInv_bind _ _ (fun _ => ?_) | split)
  all_goals (try dsimp only)
  all_goals (repeat' split)
  all_goals simp (maxDischargeDepth := 9) [hs, inv_ite]

theorem execNpath_inv (h : Bool) (d a : BitVec 7) (s : State) (hs : MachineInv s) : OutInv (execNpath h d a s) := by
  unfold execNpath
  refine issueWith_inv _ _ _ hs (fun c => ?_)
  repeat (first | refine resInv_bind _ _ (fun _ => ?_) | split)
  all_goals (try dsimp only)
  all_goals (repeat' split)
  all_goals simp (maxDischargeDepth := 9) [hs, inv_ite]

theorem execClpost_inv (h : Bool) (d a : BitVec 7) (s : State) (hs : MachineInv s) : OutInv (execClpost h d a s) := by
  unfold execClpost
  refine issueWith_inv _ _ _ hs (fun c => ?_)
  repeat (first | refine resInv_bind _ _ (fun _ => ?_) | split)
  all_goals (try dsimp only)
  all_goals (repeat' split)
  all_goals simp (maxDischargeDepth := 9) [hs, inv_ite]

theorem execClwait_inv (h : Bool) (d a : BitVec 7) (s : State) (hs : MachineInv s) : OutInv (execClwait h d a s) := by
  unfold execClwait
  refine issueWith_inv _ _ _ hs (fun c => ?_)
  repeat (first | refine resInv_bind _ _ (fun _ => ?_) | split)
  all_goals (try dsimp only)
  all_goals (repeat' split)
  all_goals simp (maxDischargeDepth := 9) [hs, inv_ite]

theorem execClstat_inv (h : Bool) (d a : BitVec 7) (s : State) (hs : MachineInv s) : OutInv (execClstat h d a s) := by
  unfold execClstat
  refine issueWith_inv _ _ _ hs (fun c => ?_)
  repeat (first | refine resInv_bind _ _ (fun _ => ?_) | split)
  all_goals (try dsimp only)
  all_goals (repeat' split)
  all_goals simp (maxDischargeDepth := 9) [hs, inv_ite]

theorem execClroute_inv (h : Bool) (a : BitVec 7) (l : BitVec 3) (n : BitVec 4) (s : State) (hs : MachineInv s) : OutInv (execClroute h a l n s) := by
  unfold execClroute
  refine issueWith_inv _ _ _ hs (fun c => ?_)
  repeat (first | refine resInv_bind _ _ (fun _ => ?_) | split)
  all_goals (try dsimp only)
  all_goals (repeat' split)
  all_goals simp (maxDischargeDepth := 9) [hs, inv_ite]

theorem execMma8_inv (h : Bool) (d a b : BitVec 7) (s : State) (hs : MachineInv s) : OutInv (execMma8 h d a b s) := by
  unfold execMma8
  first
    | (simp (maxDischargeDepth := 9) [hs]; done)
    | (simp +contextual (maxDischargeDepth := 9) [hs, inv_foldl, inv_ite]; done)
    | ((try dsimp only); (repeat' split) <;> (try dsimp only) <;> first | (simp (maxDischargeDepth := 9) [hs, inv_ite]; done) | (simp_all (maxDischargeDepth := 9) [inv_ite]; done))

theorem execMma8s_inv (h : Bool) (d a b : BitVec 7) (s : State) (hs : MachineInv s) : OutInv (execMma8s h d a b s) := by
  unfold execMma8s
  first
    | (simp (maxDischargeDepth := 9) [hs]; done)
    | (simp +contextual (maxDischargeDepth := 9) [hs, inv_foldl, inv_ite]; done)
    | ((try dsimp only); (repeat' split) <;> (try dsimp only) <;> first | (simp (maxDischargeDepth := 9) [hs, inv_ite]; done) | (simp_all (maxDischargeDepth := 9) [inv_ite]; done))

theorem execMma8g_inv (h : Bool) (d a b : BitVec 7) (s : State) (hs : MachineInv s) : OutInv (execMma8g h d a b s) := by
  unfold execMma8g
  first
    | (simp (maxDischargeDepth := 9) [hs]; done)
    | (simp +contextual (maxDischargeDepth := 9) [hs, inv_foldl, inv_ite]; done)
    | ((try dsimp only); (repeat' split) <;> (try dsimp only) <;> first | (simp (maxDischargeDepth := 9) [hs, inv_ite]; done) | (simp_all (maxDischargeDepth := 9) [inv_ite]; done))

theorem execMma8gs_inv (h : Bool) (d a b : BitVec 7) (s : State) (hs : MachineInv s) : OutInv (execMma8gs h d a b s) := by
  unfold execMma8gs
  first
    | (simp (maxDischargeDepth := 9) [hs]; done)
    | (simp +contextual (maxDischargeDepth := 9) [hs, inv_foldl, inv_ite]; done)
    | ((try dsimp only); (repeat' split) <;> (try dsimp only) <;> first | (simp (maxDischargeDepth := 9) [hs, inv_ite]; done) | (simp_all (maxDischargeDepth := 9) [inv_ite]; done))

theorem execMmah_inv (h : Bool) (d a b : BitVec 7) (s : State) (hs : MachineInv s) : OutInv (execMmah h d a b s) := by
  unfold execMmah
  first
    | (simp (maxDischargeDepth := 9) [hs]; done)
    | (simp +contextual (maxDischargeDepth := 9) [hs, inv_foldl, inv_ite]; done)
    | ((try dsimp only); (repeat' split) <;> (try dsimp only) <;> first | (simp (maxDischargeDepth := 9) [hs, inv_ite]; done) | (simp_all (maxDischargeDepth := 9) [inv_ite]; done))

theorem execMmab_inv (h : Bool) (d a b : BitVec 7) (s : State) (hs : MachineInv s) : OutInv (execMmab h d a b s) := by
  unfold execMmab
  first
    | (simp (maxDischargeDepth := 9) [hs]; done)
    | (simp +contextual (maxDischargeDepth := 9) [hs, inv_foldl, inv_ite]; done)
    | ((try dsimp only); (repeat' split) <;> (try dsimp only) <;> first | (simp (maxDischargeDepth := 9) [hs, inv_ite]; done) | (simp_all (maxDischargeDepth := 9) [inv_ite]; done))

theorem execMzero_inv (h : Bool) (d : BitVec 7) (s : State) (hs : MachineInv s) : OutInv (execMzero h d s) := by
  unfold execMzero
  first
    | (simp (maxDischargeDepth := 9) [hs]; done)
    | (simp +contextual (maxDischargeDepth := 9) [hs, inv_foldl, inv_ite]; done)
    | ((try dsimp only); (repeat' split) <;> (try dsimp only) <;> first | (simp (maxDischargeDepth := 9) [hs, inv_ite]; done) | (simp_all (maxDischargeDepth := 9) [inv_ite]; done))

theorem execMldc_inv (h : Bool) (d a b : BitVec 7) (s : State) (hs : MachineInv s) : OutInv (execMldc h d a b s) := by
  unfold execMldc
  first
    | (simp (maxDischargeDepth := 9) [hs]; done)
    | (simp +contextual (maxDischargeDepth := 9) [hs, inv_foldl, inv_ite]; done)
    | ((try dsimp only); (repeat' split) <;> (try dsimp only) <;> first | (simp (maxDischargeDepth := 9) [hs, inv_ite]; done) | (simp_all (maxDischargeDepth := 9) [inv_ite]; done))

theorem execMstc_inv (h : Bool) (d a b : BitVec 7) (s : State) (hs : MachineInv s) : OutInv (execMstc h d a b s) := by
  unfold execMstc
  first
    | (simp (maxDischargeDepth := 9) [hs]; done)
    | (simp +contextual (maxDischargeDepth := 9) [hs, inv_foldl, inv_ite]; done)
    | ((try dsimp only); (repeat' split) <;> (try dsimp only) <;> first | (simp (maxDischargeDepth := 9) [hs, inv_ite]; done) | (simp_all (maxDischargeDepth := 9) [inv_ite]; done))

theorem execMwait_inv (h : Bool) (d a : BitVec 7) (s : State) (hs : MachineInv s) : OutInv (execMwait h d a s) := by
  unfold execMwait
  refine issueWith_inv _ _ _ hs (fun c => ?_)
  repeat (first | refine resInv_bind _ _ (fun _ => ?_) | split)
  all_goals (try dsimp only)
  all_goals (repeat' split)
  all_goals simp (maxDischargeDepth := 9) [hs, inv_ite]

theorem execMstat_inv (h : Bool) (d : BitVec 7) (s : State) (hs : MachineInv s) : OutInv (execMstat h d s) := by
  unfold execMstat
  refine issueWith_inv _ _ _ hs (fun c => ?_)
  repeat (first | refine resInv_bind _ _ (fun _ => ?_) | split)
  all_goals (try dsimp only)
  all_goals (repeat' split)
  all_goals simp (maxDischargeDepth := 9) [hs, inv_ite]

theorem execVany_inv (h : Bool) (d a : BitVec 7) (s : State) (hs : MachineInv s) : OutInv (execVany h d a s) := by
  unfold execVany
  first
    | (simp (maxDischargeDepth := 9) [hs]; done)
    | (simp +contextual (maxDischargeDepth := 9) [hs, inv_foldl, inv_ite]; done)
    | ((try dsimp only); (repeat' split) <;> (try dsimp only) <;> first | (simp (maxDischargeDepth := 9) [hs, inv_ite]; done) | (simp_all (maxDischargeDepth := 9) [inv_ite]; done))

theorem execVall_inv (h : Bool) (d a : BitVec 7) (s : State) (hs : MachineInv s) : OutInv (execVall h d a s) := by
  unfold execVall
  first
    | (simp (maxDischargeDepth := 9) [hs]; done)
    | (simp +contextual (maxDischargeDepth := 9) [hs, inv_foldl, inv_ite]; done)
    | ((try dsimp only); (repeat' split) <;> (try dsimp only) <;> first | (simp (maxDischargeDepth := 9) [hs, inv_ite]; done) | (simp_all (maxDischargeDepth := 9) [inv_ite]; done))

theorem execBallot_inv (h : Bool) (d a : BitVec 7) (s : State) (hs : MachineInv s) : OutInv (execBallot h d a s) := by
  unfold execBallot
  first
    | (simp (maxDischargeDepth := 9) [hs]; done)
    | (simp +contextual (maxDischargeDepth := 9) [hs, inv_foldl, inv_ite]; done)
    | ((try dsimp only); (repeat' split) <;> (try dsimp only) <;> first | (simp (maxDischargeDepth := 9) [hs, inv_ite]; done) | (simp_all (maxDischargeDepth := 9) [inv_ite]; done))

theorem execGmatch_inv (h : Bool) (d a : BitVec 7) (s : State) (hs : MachineInv s) : OutInv (execGmatch h d a s) := by
  unfold execGmatch
  first
    | (simp (maxDischargeDepth := 9) [hs]; done)
    | (simp +contextual (maxDischargeDepth := 9) [hs, inv_foldl, inv_ite]; done)
    | ((try dsimp only); (repeat' split) <;> (try dsimp only) <;> first | (simp (maxDischargeDepth := 9) [hs, inv_ite]; done) | (simp_all (maxDischargeDepth := 9) [inv_ite]; done))

theorem execActive_inv (h : Bool) (d : BitVec 7) (s : State) (hs : MachineInv s) : OutInv (execActive h d s) := by
  unfold execActive
  first
    | (simp (maxDischargeDepth := 9) [hs]; done)
    | (simp +contextual (maxDischargeDepth := 9) [hs, inv_foldl, inv_ite]; done)
    | ((try dsimp only); (repeat' split) <;> (try dsimp only) <;> first | (simp (maxDischargeDepth := 9) [hs, inv_ite]; done) | (simp_all (maxDischargeDepth := 9) [inv_ite]; done))

theorem execShfidx_inv (h : Bool) (d a b : BitVec 7) (s : State) (hs : MachineInv s) : OutInv (execShfidx h d a b s) := by
  unfold execShfidx
  first
    | (simp (maxDischargeDepth := 9) [hs]; done)
    | (simp +contextual (maxDischargeDepth := 9) [hs, inv_foldl, inv_ite]; done)
    | ((try dsimp only); (repeat' split) <;> (try dsimp only) <;> first | (simp (maxDischargeDepth := 9) [hs, inv_ite]; done) | (simp_all (maxDischargeDepth := 9) [inv_ite]; done))

theorem execShfup_inv (h : Bool) (d a b : BitVec 7) (s : State) (hs : MachineInv s) : OutInv (execShfup h d a b s) := by
  unfold execShfup
  first
    | (simp (maxDischargeDepth := 9) [hs]; done)
    | (simp +contextual (maxDischargeDepth := 9) [hs, inv_foldl, inv_ite]; done)
    | ((try dsimp only); (repeat' split) <;> (try dsimp only) <;> first | (simp (maxDischargeDepth := 9) [hs, inv_ite]; done) | (simp_all (maxDischargeDepth := 9) [inv_ite]; done))

theorem execShfdn_inv (h : Bool) (d a b : BitVec 7) (s : State) (hs : MachineInv s) : OutInv (execShfdn h d a b s) := by
  unfold execShfdn
  first
    | (simp (maxDischargeDepth := 9) [hs]; done)
    | (simp +contextual (maxDischargeDepth := 9) [hs, inv_foldl, inv_ite]; done)
    | ((try dsimp only); (repeat' split) <;> (try dsimp only) <;> first | (simp (maxDischargeDepth := 9) [hs, inv_ite]; done) | (simp_all (maxDischargeDepth := 9) [inv_ite]; done))

theorem execShfxor_inv (h : Bool) (d a b : BitVec 7) (s : State) (hs : MachineInv s) : OutInv (execShfxor h d a b s) := by
  unfold execShfxor
  first
    | (simp (maxDischargeDepth := 9) [hs]; done)
    | (simp +contextual (maxDischargeDepth := 9) [hs, inv_foldl, inv_ite]; done)
    | ((try dsimp only); (repeat' split) <;> (try dsimp only) <;> first | (simp (maxDischargeDepth := 9) [hs, inv_ite]; done) | (simp_all (maxDischargeDepth := 9) [inv_ite]; done))

theorem execGradd_inv (h : Bool) (d a : BitVec 7) (s : State) (hs : MachineInv s) : OutInv (execGradd h d a s) := by
  unfold execGradd
  first
    | (simp (maxDischargeDepth := 9) [hs]; done)
    | (simp +contextual (maxDischargeDepth := 9) [hs, inv_foldl, inv_ite]; done)
    | ((try dsimp only); (repeat' split) <;> (try dsimp only) <;> first | (simp (maxDischargeDepth := 9) [hs, inv_ite]; done) | (simp_all (maxDischargeDepth := 9) [inv_ite]; done))

theorem execGrfadd_inv (h : Bool) (d a : BitVec 7) (s : State) (hs : MachineInv s) : OutInv (execGrfadd h d a s) := by
  unfold execGrfadd
  first
    | (simp (maxDischargeDepth := 9) [hs]; done)
    | (simp +contextual (maxDischargeDepth := 9) [hs, inv_foldl, inv_ite]; done)
    | ((try dsimp only); (repeat' split) <;> (try dsimp only) <;> first | (simp (maxDischargeDepth := 9) [hs, inv_ite]; done) | (simp_all (maxDischargeDepth := 9) [inv_ite]; done))

theorem execGrmin_inv (h : Bool) (d a : BitVec 7) (u : Bool) (s : State) (hs : MachineInv s) : OutInv (execGrmin h d a u s) := by
  unfold execGrmin
  first
    | (simp (maxDischargeDepth := 9) [hs]; done)
    | (simp +contextual (maxDischargeDepth := 9) [hs, inv_foldl, inv_ite]; done)
    | ((try dsimp only); (repeat' split) <;> (try dsimp only) <;> first | (simp (maxDischargeDepth := 9) [hs, inv_ite]; done) | (simp_all (maxDischargeDepth := 9) [inv_ite]; done))

theorem execGrmax_inv (h : Bool) (d a : BitVec 7) (u : Bool) (s : State) (hs : MachineInv s) : OutInv (execGrmax h d a u s) := by
  unfold execGrmax
  first
    | (simp (maxDischargeDepth := 9) [hs]; done)
    | (simp +contextual (maxDischargeDepth := 9) [hs, inv_foldl, inv_ite]; done)
    | ((try dsimp only); (repeat' split) <;> (try dsimp only) <;> first | (simp (maxDischargeDepth := 9) [hs, inv_ite]; done) | (simp_all (maxDischargeDepth := 9) [inv_ite]; done))

theorem execElect_inv (h : Bool) (d : BitVec 7) (s : State) (hs : MachineInv s) : OutInv (execElect h d s) := by
  unfold execElect
  first
    | (simp (maxDischargeDepth := 9) [hs]; done)
    | (simp +contextual (maxDischargeDepth := 9) [hs, inv_foldl, inv_ite]; done)
    | ((try dsimp only); (repeat' split) <;> (try dsimp only) <;> first | (simp (maxDischargeDepth := 9) [hs, inv_ite]; done) | (simp_all (maxDischargeDepth := 9) [inv_ite]; done))

theorem execInstructionFetch_inv (t : Tid) (s : State) (hs : MachineInv s) : OutInv (execInstructionFetch t s) := by
  unfold execInstructionFetch
  first
    | (simp (maxDischargeDepth := 9) [hs]; done)
    | (simp +contextual (maxDischargeDepth := 9) [hs, inv_foldl, inv_ite]; done)
    | ((try dsimp only); (repeat' split) <;> (try dsimp only) <;> first | (simp (maxDischargeDepth := 9) [hs, inv_ite]; done) | (simp_all (maxDischargeDepth := 9) [inv_ite]; done))

theorem execNotAnInstruction_inv (_w : Word) (reason : Nat) (s : State) (hs : MachineInv s) : OutInv (execNotAnInstruction _w reason s) := by
  unfold execNotAnInstruction
  first
    | (simp (maxDischargeDepth := 9) [hs]; done)
    | (simp +contextual (maxDischargeDepth := 9) [hs, inv_foldl, inv_ite]; done)
    | ((try dsimp only); (repeat' split) <;> (try dsimp only) <;> first | (simp (maxDischargeDepth := 9) [hs, inv_ite]; done) | (simp_all (maxDischargeDepth := 9) [inv_ite]; done))

theorem execResultDelivery_inv (t : Tid) (id : Nat) (part : Option Nat) (s : State) (hs : MachineInv s) : OutInv (execResultDelivery t id part s) := by
  unfold execResultDelivery
  split
  · rename_i l g th p _ _ _
    split
    · simp
    · split
      · simp [hs]
      · have k := bindEntry_inv s t l g th p hs
        split <;> (rename_i e; rw [e] at k) <;> simp_all [ActInv]
  · simp

theorem execWritePerformed_inv (t : Tid) (id : Nat) (s : State) (hs : MachineInv s) : OutInv (execWritePerformed t id s) := by
  unfold execWritePerformed
  split
  · rename_i l g th p _ _ _
    split
    · simp
    · have k := performEntry_inv s t l g th p hs
      split <;> (rename_i e; rw [e] at k) <;> simp_all [ActInv]
  · simp

theorem execWcbFlush_inv (die asid line : Nat) (s : State) (hs : MachineInv s) : OutInv (execWcbFlush die asid line s) := by
  unfold execWcbFlush
  split
  · simp
  · exact (outInv_next _).2 (inv_foldl (fun s x h => flushOne_inv s x h) _ (inv_foldl (fun s x h => sendHeld_inv s x h) _ hs))

theorem execSegmentHorizon_inv (t : Tid) (s : State) (hs : MachineInv s) : OutInv (execSegmentHorizon t s) := by
  unfold execSegmentHorizon
  first
    | (simp (maxDischargeDepth := 9) [hs]; done)
    | (simp +contextual (maxDischargeDepth := 9) [hs, inv_foldl, inv_ite]; done)
    | ((try dsimp only); (repeat' split) <;> (try dsimp only) <;> first | (simp (maxDischargeDepth := 9) [hs, inv_ite]; done) | (simp_all (maxDischargeDepth := 9) [inv_ite]; done))

theorem execJoinTimeout_inv (t : Tid) (s : State) (hs : MachineInv s) : OutInv (execJoinTimeout t s) := by
  unfold execJoinTimeout
  first
    | (simp (maxDischargeDepth := 9) [hs]; done)
    | (simp +contextual (maxDischargeDepth := 9) [hs, inv_foldl, inv_ite]; done)
    | ((try dsimp only); (repeat' split) <;> (try dsimp only) <;> first | (simp (maxDischargeDepth := 9) [hs, inv_ite]; done) | (simp_all (maxDischargeDepth := 9) [inv_ite]; done))

theorem execNapExpiry_inv (t : Tid) (s : State) (hs : MachineInv s) : OutInv (execNapExpiry t s) := by
  unfold execNapExpiry
  first
    | (simp (maxDischargeDepth := 9) [hs]; done)
    | (simp +contextual (maxDischargeDepth := 9) [hs, inv_foldl, inv_ite]; done)
    | ((try dsimp only); (repeat' split) <;> (try dsimp only) <;> first | (simp (maxDischargeDepth := 9) [hs, inv_ite]; done) | (simp_all (maxDischargeDepth := 9) [inv_ite]; done))

theorem execBarPhaseComplete_inv (ref : LRef) (level set : Nat) (s : State) (hs : MachineInv s) : OutInv (execBarPhaseComplete ref level set s) := by
  unfold execBarPhaseComplete
  first
    | (simp (maxDischargeDepth := 9) [hs]; done)
    | (simp +contextual (maxDischargeDepth := 9) [hs, inv_foldl, inv_ite]; done)
    | ((try dsimp only); (repeat' split) <;> (try dsimp only) <;> first | (simp (maxDischargeDepth := 9) [hs, inv_ite]; done) | (simp_all (maxDischargeDepth := 9) [inv_ite]; done))

theorem execPendingPoolCheck_inv (die : Nat) (s : State) (hs : MachineInv s) : OutInv (execPendingPoolCheck die s) := by
  unfold execPendingPoolCheck
  first
    | (simp (maxDischargeDepth := 9) [hs]; done)
    | (simp +contextual (maxDischargeDepth := 9) [hs, inv_foldl, inv_ite]; done)
    | ((try dsimp only); (repeat' split) <;> (try dsimp only) <;> first | (simp (maxDischargeDepth := 9) [hs, inv_ite]; done) | (simp_all (maxDischargeDepth := 9) [inv_ite]; done))

theorem execTeamPlacement_inv (ref : LRef) (cluster : Nat) (cores : List Nat) (s : State) (hs : MachineInv s) : OutInv (execTeamPlacement ref cluster cores s) := by
  unfold execTeamPlacement
  split
  · simp
  · dsimp only
    split
    · simp
    · split
      · simp
      · rename_i e
        exact (outInv_next _).2 (modLaunch_inv _ _ _ (placeSet_inv _ _ _ _ _ _ hs _ e))

theorem execHostCopy_inv (src : CmdSrc) (s : State) (hs : MachineInv s) : OutInv (execHostCopy src s) := by
  unfold execHostCopy
  refine runCmd_inv _ _ _ _ _ hs (fun c s hs => ?_)
  (try dsimp only)
  (repeat' split) <;> simp (maxDischargeDepth := 9) [hs, inv_ite]

theorem execSignal_inv (src : CmdSrc) (s : State) (hs : MachineInv s) : OutInv (execSignal src s) := by
  unfold execSignal
  refine runCmd_inv _ _ _ _ _ hs (fun c s hs => ?_)
  (try dsimp only)
  (repeat' split) <;> simp (maxDischargeDepth := 9) [hs, inv_ite]

theorem execHostWait_inv (src : CmdSrc) (s : State) (hs : MachineInv s) : OutInv (execHostWait src s) := by
  unfold execHostWait
  refine runCmd_inv _ _ _ _ _ hs (fun c s hs => ?_)
  (try dsimp only)
  (repeat' split) <;> simp (maxDischargeDepth := 9) [hs, inv_ite]

theorem execOwnerClaim_inv (src : CmdSrc) (s : State) (hs : MachineInv s) : OutInv (execOwnerClaim src s) := by
  unfold execOwnerClaim
  refine runCmd_inv _ _ _ _ _ hs (fun c s hs => ?_)
  (try dsimp only)
  (repeat' split) <;> simp (maxDischargeDepth := 9) [hs, inv_ite]

theorem execOwnerYield_inv (src : CmdSrc) (s : State) (hs : MachineInv s) : OutInv (execOwnerYield src s) := by
  unfold execOwnerYield
  refine runCmd_inv _ _ _ _ _ hs (fun c s hs => ?_)
  (try dsimp only)
  (repeat' split) <;> simp (maxDischargeDepth := 9) [hs, inv_ite]

theorem execAttest_inv (src : CmdSrc) (s : State) (hs : MachineInv s) : OutInv (execAttest src s) := by
  unfold execAttest
  refine runCmd_inv _ _ _ _ _ hs (fun c s hs => ?_)
  have k1 := readBuffer_inv s c.asid (c.ptr 0x08) (c.word 0x10).toNat hs
  split
  · rename_i e; rw [e] at k1; simp_all (maxDischargeDepth := 9)
  · dsimp only
    split
    · simp (maxDischargeDepth := 9) [hs]
    · split <;> rename_i e <;> have k2 := Eq.mp (congrArg BothInv e) (writeBuffer_inv _ _ _ _ (by exact hs)) <;>
        simp only [bothInv_ok, bothInv_error] at k2 <;> simp (maxDischargeDepth := 9) [k2]

theorem execBr_inv (h : Bool) (o : BitVec 25) (s : State) (hs : MachineInv s) : OutInv (execBr h o s) := by
  unfold execBr
  first
    | (simp (maxDischargeDepth := 9) [hs]; done)
    | (simp +contextual (maxDischargeDepth := 9) [hs, inv_foldl, inv_ite]; done)
    | ((try dsimp only); (repeat' split) <;> (try dsimp only) <;> first | (simp (maxDischargeDepth := 9) [hs, inv_ite]; done) | (simp_all (maxDischargeDepth := 9) [inv_ite]; done))

theorem execCall_inv (h : Bool) (o : BitVec 25) (s : State) (hs : MachineInv s) : OutInv (execCall h o s) := by
  unfold execCall
  first
    | (simp (maxDischargeDepth := 9) [hs]; done)
    | (simp +contextual (maxDischargeDepth := 9) [hs, inv_foldl, inv_ite]; done)
    | ((try dsimp only); (repeat' split) <;> (try dsimp only) <;> first | (simp (maxDischargeDepth := 9) [hs, inv_ite]; done) | (simp_all (maxDischargeDepth := 9) [inv_ite]; done))

theorem execBrp_inv (h : Bool) (p : BitVec 3) (n : Bool) (o : BitVec 21) (s : State) (hs : MachineInv s) : OutInv (execBrp h p n o s) := by
  unfold execBrp
  refine issue_inv _ _ _ _ hs (fun c => ?_)
  split <;> simpa using hs

theorem execJr_inv (h : Bool) (a : BitVec 7) (s : State) (hs : MachineInv s) : OutInv (execJr h a s) := by
  unfold execJr
  first
    | (simp (maxDischargeDepth := 9) [hs]; done)
    | (simp +contextual (maxDischargeDepth := 9) [hs, inv_foldl, inv_ite]; done)
    | ((try dsimp only); (repeat' split) <;> (try dsimp only) <;> first | (simp (maxDischargeDepth := 9) [hs, inv_ite]; done) | (simp_all (maxDischargeDepth := 9) [inv_ite]; done))

theorem execCallr_inv (h : Bool) (a : BitVec 7) (s : State) (hs : MachineInv s) : OutInv (execCallr h a s) := by
  unfold execCallr
  first
    | (simp (maxDischargeDepth := 9) [hs]; done)
    | (simp +contextual (maxDischargeDepth := 9) [hs, inv_foldl, inv_ite]; done)
    | ((try dsimp only); (repeat' split) <;> (try dsimp only) <;> first | (simp (maxDischargeDepth := 9) [hs, inv_ite]; done) | (simp_all (maxDischargeDepth := 9) [inv_ite]; done))

theorem execRet_inv (h : Bool) (s : State) (hs : MachineInv s) : OutInv (execRet h s) := by
  unfold execRet
  first
    | (simp (maxDischargeDepth := 9) [hs]; done)
    | (simp +contextual (maxDischargeDepth := 9) [hs, inv_foldl, inv_ite]; done)
    | ((try dsimp only); (repeat' split) <;> (try dsimp only) <;> first | (simp (maxDischargeDepth := 9) [hs, inv_ite]; done) | (simp_all (maxDischargeDepth := 9) [inv_ite]; done))

theorem execBrx_inv (h : Bool) (a b : BitVec 7) (s : State) (hs : MachineInv s) : OutInv (execBrx h a b s) := by
  unfold execBrx
  first
    | (simp (maxDischargeDepth := 9) [hs]; done)
    | (simp +contextual (maxDischargeDepth := 9) [hs, inv_foldl, inv_ite]; done)
    | ((try dsimp only); (repeat' split) <;> (try dsimp only) <;> first | (simp (maxDischargeDepth := 9) [hs, inv_ite]; done) | (simp_all (maxDischargeDepth := 9) [inv_ite]; done))

theorem execPblk_inv (p n : BitVec 3) (t : BitVec 8) (s : State) (hs : MachineInv s) : OutInv (execPblk p n t s) := by
  unfold execPblk
  exact issue_inv _ _ _ _ hs (fun c => (issInv_done _).2 (modThread_inv _ _ _ hs))

theorem execCopyUnit_inv (id u : Nat) (s : State) (hs : MachineInv s) : OutInv (execCopyUnit id u s) := by
  unfold execCopyUnit
  first
    | (simp (maxDischargeDepth := 9) [hs]; done)
    | (simp +contextual (maxDischargeDepth := 9) [hs, inv_foldl, inv_ite]; done)
    | ((try dsimp only); (repeat' split) <;> (try dsimp only) <;> first | (simp (maxDischargeDepth := 9) [hs, inv_ite]; done) | (simp_all (maxDischargeDepth := 9) [inv_ite]; done))

theorem execMatrixStep_inv (core : Nat) (s : State) (hs : MachineInv s) : OutInv (execMatrixStep core s) := by
  unfold execMatrixStep
  split
  · simp
  · split
    · simp
    · dsimp only
      split
      · simp
      · split
        · exact (outInv_next _).2 (failMatrix_inv _ _ _ _ _ _ hs)
        · split
          · exact (outInv_next _).2 (failMatrix_inv _ _ _ _ _ _ hs)
          · have k := latchQueue_inv s core hs
            split
            · rename_i e
              exact outInv_of_next e (headStep_inv _ _ _ _ _ k)
            · split
              · simp
              · exact (outInv_next _).2 k

theorem execTileFree_inv (cluster rank slot : Nat) (s : State) (hs : MachineInv s) : OutInv (execTileFree cluster rank slot s) := by
  unfold execTileFree
  first
    | (simp (maxDischargeDepth := 9) [hs]; done)
    | (simp +contextual (maxDischargeDepth := 9) [hs, inv_foldl, inv_ite]; done)
    | ((try dsimp only); (repeat' split) <;> (try dsimp only) <;> first | (simp (maxDischargeDepth := 9) [hs, inv_ite]; done) | (simp_all (maxDischargeDepth := 9) [inv_ite]; done))

theorem execPoolStarvation_inv (cluster : Nat) (ref : LRef) (s : State) (hs : MachineInv s) : OutInv (execPoolStarvation cluster ref s) := by
  unfold execPoolStarvation
  first
    | (simp (maxDischargeDepth := 9) [hs]; done)
    | (simp +contextual (maxDischargeDepth := 9) [hs, inv_foldl, inv_ite]; done)
    | ((try dsimp only); (repeat' split) <;> (try dsimp only) <;> first | (simp (maxDischargeDepth := 9) [hs, inv_ite]; done) | (simp_all (maxDischargeDepth := 9) [inv_ite]; done))

theorem execArmedFire_inv (id : Nat) (s : State) (hs : MachineInv s) : OutInv (execArmedFire id s) := by
  unfold execArmedFire
  first
    | (simp (maxDischargeDepth := 9) [hs]; done)
    | (simp +contextual (maxDischargeDepth := 9) [hs, inv_foldl, inv_ite]; done)
    | ((try dsimp only); (repeat' split) <;> (try dsimp only) <;> first | (simp (maxDischargeDepth := 9) [hs, inv_ite]; done) | (simp_all (maxDischargeDepth := 9) [inv_ite]; done))

theorem execPublishFlip_inv (id : Nat) (s : State) (hs : MachineInv s) : OutInv (execPublishFlip id s) := by
  unfold execPublishFlip
  split
  · rename_i f _
    have k := flipPage_inv s f.asid f.die (addrOff f.addr) hs
    dsimp only
    split <;> (rename_i e; rw [e] at k)
    · simp
    · exact (outInv_next _).2 (enqueue_inv _ _ _ _ _ _ _ _ _ _ _ (fresh_inv _ k))
    · exact (outInv_next _).2 (enqueue_inv _ _ _ _ _ _ _ _ _ _ _ (fresh_inv _ k))
  · split <;> simp [hs]
  · simp

theorem execFaultReplay_inv (src : CmdSrc) (s : State) (hs : MachineInv s) : OutInv (execFaultReplay src s) := by
  unfold execFaultReplay
  refine runCmd_inv _ _ _ _ _ hs (fun c s hs => ?_)
  (try dsimp only)
  (repeat' split) <;> simp (maxDischargeDepth := 9) [hs, inv_ite]

theorem execDataWindowStart_inv (s : State) (hs : MachineInv s) : OutInv (execDataWindowStart s) := by
  unfold execDataWindowStart
  first
    | (simp (maxDischargeDepth := 9) [hs]; done)
    | (simp +contextual (maxDischargeDepth := 9) [hs, inv_foldl, inv_ite]; done)
    | ((try dsimp only); (repeat' split) <;> (try dsimp only) <;> first | (simp (maxDischargeDepth := 9) [hs, inv_ite]; done) | (simp_all (maxDischargeDepth := 9) [inv_ite]; done))

theorem execSlotBoundary_inv (s : State) (hs : MachineInv s) : OutInv (execSlotBoundary s) := by
  unfold execSlotBoundary
  first
    | (simp (maxDischargeDepth := 9) [hs]; done)
    | (simp +contextual (maxDischargeDepth := 9) [hs, inv_foldl, inv_ite]; done)
    | ((try dsimp only); (repeat' split) <;> (try dsimp only) <;> first | (simp (maxDischargeDepth := 9) [hs, inv_ite]; done) | (simp_all (maxDischargeDepth := 9) [inv_ite]; done))

theorem execRingLocked_inv (port : Nat) (s : State) (hs : MachineInv s) : OutInv (execRingLocked port s) := by
  unfold execRingLocked
  first
    | (simp (maxDischargeDepth := 9) [hs]; done)
    | (simp +contextual (maxDischargeDepth := 9) [hs, inv_foldl, inv_ite]; done)
    | ((try dsimp only); (repeat' split) <;> (try dsimp only) <;> first | (simp (maxDischargeDepth := 9) [hs, inv_ite]; done) | (simp_all (maxDischargeDepth := 9) [inv_ite]; done))

theorem execTuningTimeout_inv (port : Nat) (s : State) (hs : MachineInv s) : OutInv (execTuningTimeout port s) := by
  unfold execTuningTimeout
  first
    | (simp (maxDischargeDepth := 9) [hs]; done)
    | (simp +contextual (maxDischargeDepth := 9) [hs, inv_foldl, inv_ite]; done)
    | ((try dsimp only); (repeat' split) <;> (try dsimp only) <;> first | (simp (maxDischargeDepth := 9) [hs, inv_ite]; done) | (simp_all (maxDischargeDepth := 9) [inv_ite]; done))

theorem execPortFailed_inv (port : Nat) (s : State) (hs : MachineInv s) : OutInv (execPortFailed port s) := by
  unfold execPortFailed
  first
    | (simp (maxDischargeDepth := 9) [hs]; done)
    | (simp +contextual (maxDischargeDepth := 9) [hs, inv_foldl, inv_ite]; done)
    | ((try dsimp only); (repeat' split) <;> (try dsimp only) <;> first | (simp (maxDischargeDepth := 9) [hs, inv_ite]; done) | (simp_all (maxDischargeDepth := 9) [inv_ite]; done))

theorem execPortDrained_inv (port : Nat) (s : State) (hs : MachineInv s) : OutInv (execPortDrained port s) := by
  unfold execPortDrained
  first
    | (simp (maxDischargeDepth := 9) [hs]; done)
    | (simp +contextual (maxDischargeDepth := 9) [hs, inv_foldl, inv_ite]; done)
    | ((try dsimp only); (repeat' split) <;> (try dsimp only) <;> first | (simp (maxDischargeDepth := 9) [hs, inv_ite]; done) | (simp_all (maxDischargeDepth := 9) [inv_ite]; done))

theorem execPortTrained_inv (port : Nat) (s : State) (hs : MachineInv s) : OutInv (execPortTrained port s) := by
  unfold execPortTrained
  first
    | (simp (maxDischargeDepth := 9) [hs]; done)
    | (simp +contextual (maxDischargeDepth := 9) [hs, inv_foldl, inv_ite]; done)
    | ((try dsimp only); (repeat' split) <;> (try dsimp only) <;> first | (simp (maxDischargeDepth := 9) [hs, inv_ite]; done) | (simp_all (maxDischargeDepth := 9) [inv_ite]; done))

theorem execPreamble_inv (port : Nat) (m : PreambleMsg) (s : State) (hs : MachineInv s) : OutInv (execPreamble port m s) := by
  unfold execPreamble
  first
    | (simp (maxDischargeDepth := 9) [hs]; done)
    | (simp +contextual (maxDischargeDepth := 9) [hs, inv_foldl, inv_ite]; done)
    | ((try dsimp only); (repeat' split) <;> (try dsimp only) <;> first | (simp (maxDischargeDepth := 9) [hs, inv_ite]; done) | (simp_all (maxDischargeDepth := 9) [inv_ite]; done))

theorem execAckFlit_inv (port : Nat) (m : AckMsg) (s : State) (hs : MachineInv s) : OutInv (execAckFlit port m s) := by
  unfold execAckFlit
  split
  · simp
  · split
    · simpa using hs
    · have k := inv_foldl (fun s a h => ackClass_inv s m.src a h) m.acked hs
      exact (outInv_next _).2 (sendAcks_inv _ (inv_foldl (fun s a h => ackBcast_inv s m.src a h) _
        (inv_foldl (fun s a h => ackTransit_inv s m.src a h) _ ⟨k.1, k.2⟩)))

theorem execCutOff_inv (pkg : Nat) (s : State) (hs : MachineInv s) : OutInv (execCutOff pkg s) := by
  unfold execCutOff
  dsimp only
  split
  · exact (outInv_next _).2 (inv_foldl (fun s o h => failOut_inv s o h) _ hs)
  · simp

theorem execBroadcastMemberDrop_inv (port member : Nat) (s : State) (hs : MachineInv s) : OutInv (execBroadcastMemberDrop port member s) := by
  unfold execBroadcastMemberDrop
  dsimp only
  split
  · exact (outInv_next _).2 (inv_foldl (fun s o h => failMember_inv s o h) _ hs)
  · simp

theorem execCycleSteer_inv (s : State) (hs : MachineInv s) : OutInv (execCycleSteer s) := by
  unfold execCycleSteer
  split
  · split
    · simp
    · simp [hs, align_ports]
  · simp

theorem execGenerationChange_inv (s : State) (hs : MachineInv s) : OutInv (execGenerationChange s) := by
  unfold execGenerationChange
  split
  · split
    · simp
    · exact (outInv_next _).2 (inv_foldl (fun s o h => rehome_inv _ s o h) _ (enterGen_inv _ _ (boundary_inv _ _ _ _ hs)))
  · simp

theorem execCalLoad_inv (src : CmdSrc) (s : State) (hs : MachineInv s) : OutInv (execCalLoad src s) := by
  unfold execCalLoad
  refine runCmd_inv _ _ _ _ _ hs (fun c s hs => ?_)
  (try dsimp only)
  (repeat' split) <;> simp (maxDischargeDepth := 9) [hs, inv_ite]

theorem execPortDrain_inv (src : CmdSrc) (s : State) (hs : MachineInv s) : OutInv (execPortDrain src s) := by
  unfold execPortDrain
  refine runCmd_inv _ _ _ _ _ hs (fun c s hs => ?_)
  (try dsimp only)
  (repeat' split) <;> simp (maxDischargeDepth := 9) [hs, inv_ite]

theorem execPortRetrain_inv (src : CmdSrc) (s : State) (hs : MachineInv s) : OutInv (execPortRetrain src s) := by
  unfold execPortRetrain
  refine runCmd_inv _ _ _ _ _ hs (fun c s hs => ?_)
  (try dsimp only)
  (repeat' split) <;> simp (maxDischargeDepth := 9) [hs, inv_ite]

theorem execCalStatus_inv (src : CmdSrc) (s : State) (hs : MachineInv s) : OutInv (execCalStatus src s) := by
  unfold execCalStatus
  refine runCmd_inv _ _ _ _ _ hs (fun c s hs => ?_)
  (try dsimp only)
  split <;> rename_i e <;> have k2 := Eq.mp (congrArg BothInv e) (writeBuffer_inv _ _ _ _ (by exact hs)) <;>
    simp only [bothInv_ok, bothInv_error] at k2 <;> simp (maxDischargeDepth := 9) [k2]

theorem execFenceAcq_inv (h : Bool) (b : BitVec 7) (s : State) (hs : MachineInv s) : OutInv (execFenceAcq h b s) := by
  unfold execFenceAcq
  first
    | (simp (maxDischargeDepth := 9) [hs]; done)
    | (simp +contextual (maxDischargeDepth := 9) [hs, inv_foldl, inv_ite]; done)
    | ((try dsimp only); (repeat' split) <;> (try dsimp only) <;> first | (simp (maxDischargeDepth := 9) [hs, inv_ite]; done) | (simp_all (maxDischargeDepth := 9) [inv_ite]; done))

theorem execFenceRel_inv (h : Bool) (b : BitVec 7) (s : State) (hs : MachineInv s) : OutInv (execFenceRel h b s) := by
  unfold execFenceRel
  first
    | (simp (maxDischargeDepth := 9) [hs]; done)
    | (simp +contextual (maxDischargeDepth := 9) [hs, inv_foldl, inv_ite]; done)
    | ((try dsimp only); (repeat' split) <;> (try dsimp only) <;> first | (simp (maxDischargeDepth := 9) [hs, inv_ite]; done) | (simp_all (maxDischargeDepth := 9) [inv_ite]; done))

theorem execFenceAr_inv (h : Bool) (b : BitVec 7) (s : State) (hs : MachineInv s) : OutInv (execFenceAr h b s) := by
  unfold execFenceAr
  first
    | (simp (maxDischargeDepth := 9) [hs]; done)
    | (simp +contextual (maxDischargeDepth := 9) [hs, inv_foldl, inv_ite]; done)
    | ((try dsimp only); (repeat' split) <;> (try dsimp only) <;> first | (simp (maxDischargeDepth := 9) [hs, inv_ite]; done) | (simp_all (maxDischargeDepth := 9) [inv_ite]; done))

theorem execFenceSc_inv (h : Bool) (b : BitVec 7) (s : State) (hs : MachineInv s) : OutInv (execFenceSc h b s) := by
  unfold execFenceSc
  first
    | (simp (maxDischargeDepth := 9) [hs]; done)
    | (simp +contextual (maxDischargeDepth := 9) [hs, inv_foldl, inv_ite]; done)
    | ((try dsimp only); (repeat' split) <;> (try dsimp only) <;> first | (simp (maxDischargeDepth := 9) [hs, inv_ite]; done) | (simp_all (maxDischargeDepth := 9) [inv_ite]; done))

theorem execFenceDrain_inv (h : Bool) (b : BitVec 7) (s : State) (hs : MachineInv s) : OutInv (execFenceDrain h b s) := by
  unfold execFenceDrain
  first
    | (simp (maxDischargeDepth := 9) [hs]; done)
    | (simp +contextual (maxDischargeDepth := 9) [hs, inv_foldl, inv_ite]; done)
    | ((try dsimp only); (repeat' split) <;> (try dsimp only) <;> first | (simp (maxDischargeDepth := 9) [hs, inv_ite]; done) | (simp_all (maxDischargeDepth := 9) [inv_ite]; done))

theorem execPref_inv (h : Bool) (a : BitVec 7) (s : State) (hs : MachineInv s) : OutInv (execPref h a s) := by
  unfold execPref
  first
    | (simp (maxDischargeDepth := 9) [hs]; done)
    | (simp +contextual (maxDischargeDepth := 9) [hs, inv_foldl, inv_ite]; done)
    | ((try dsimp only); (repeat' split) <;> (try dsimp only) <;> first | (simp (maxDischargeDepth := 9) [hs, inv_ite]; done) | (simp_all (maxDischargeDepth := 9) [inv_ite]; done))

theorem execPrefl1_inv (h : Bool) (a : BitVec 7) (s : State) (hs : MachineInv s) : OutInv (execPrefl1 h a s) := by
  unfold execPrefl1
  first
    | (simp (maxDischargeDepth := 9) [hs]; done)
    | (simp +contextual (maxDischargeDepth := 9) [hs, inv_foldl, inv_ite]; done)
    | ((try dsimp only); (repeat' split) <;> (try dsimp only) <;> first | (simp (maxDischargeDepth := 9) [hs, inv_ite]; done) | (simp_all (maxDischargeDepth := 9) [inv_ite]; done))

theorem execInvl1_inv (h : Bool) (a : BitVec 7) (l : Bool) (s : State) (hs : MachineInv s) : OutInv (execInvl1 h a l s) := by
  unfold execInvl1
  refine issueWith_inv _ _ _ hs (fun c => ?_)
  repeat (first | refine resInv_bind _ _ (fun _ => ?_) | split)
  all_goals (try dsimp only)
  all_goals (repeat' split)
  all_goals simp (maxDischargeDepth := 9) [hs, inv_ite]

theorem execRdcinv_inv (h : Bool) (a : BitVec 7) (l : Bool) (s : State) (hs : MachineInv s) : OutInv (execRdcinv h a l s) := by
  unfold execRdcinv
  refine issueWith_inv _ _ _ hs (fun c => ?_)
  repeat (first | refine resInv_bind _ _ (fun _ => ?_) | split)
  all_goals (try dsimp only)
  all_goals (repeat' split)
  all_goals simp (maxDischargeDepth := 9) [hs, inv_ite]

theorem execLempty_inv (h : Bool) (a n : BitVec 7) (s : State) (hs : MachineInv s) : OutInv (execLempty h a n s) := by
  unfold execLempty
  first
    | (simp (maxDischargeDepth := 9) [hs]; done)
    | (simp +contextual (maxDischargeDepth := 9) [hs, inv_foldl, inv_ite]; done)
    | ((try dsimp only); (repeat' split) <;> (try dsimp only) <;> first | (simp (maxDischargeDepth := 9) [hs, inv_ite]; done) | (simp_all (maxDischargeDepth := 9) [inv_ite]; done))

theorem execLfull_inv (h : Bool) (a n : BitVec 7) (s : State) (hs : MachineInv s) : OutInv (execLfull h a n s) := by
  unfold execLfull
  first
    | (simp (maxDischargeDepth := 9) [hs]; done)
    | (simp +contextual (maxDischargeDepth := 9) [hs, inv_foldl, inv_ite]; done)
    | ((try dsimp only); (repeat' split) <;> (try dsimp only) <;> first | (simp (maxDischargeDepth := 9) [hs, inv_ite]; done) | (simp_all (maxDischargeDepth := 9) [inv_ite]; done))

theorem execFadd_inv (h : Bool) (d a b : BitVec 7) (s : State) (hs : MachineInv s) : OutInv (execFadd h d a b s) :=
  issueReg_inv _ _ _ hs

theorem execFsub_inv (h : Bool) (d a b : BitVec 7) (s : State) (hs : MachineInv s) : OutInv (execFsub h d a b s) :=
  issueReg_inv _ _ _ hs

theorem execFmul_inv (h : Bool) (d a b : BitVec 7) (s : State) (hs : MachineInv s) : OutInv (execFmul h d a b s) :=
  issueReg_inv _ _ _ hs

theorem execFmin_inv (h : Bool) (d a b : BitVec 7) (s : State) (hs : MachineInv s) : OutInv (execFmin h d a b s) :=
  issueReg_inv _ _ _ hs

theorem execFmax_inv (h : Bool) (d a b : BitVec 7) (s : State) (hs : MachineInv s) : OutInv (execFmax h d a b s) :=
  issueReg_inv _ _ _ hs

theorem execFminn_inv (h : Bool) (d a b : BitVec 7) (s : State) (hs : MachineInv s) : OutInv (execFminn h d a b s) :=
  issueReg_inv _ _ _ hs

theorem execFmaxn_inv (h : Bool) (d a b : BitVec 7) (s : State) (hs : MachineInv s) : OutInv (execFmaxn h d a b s) :=
  issueReg_inv _ _ _ hs

theorem execFabs_inv (h : Bool) (d a : BitVec 7) (s : State) (hs : MachineInv s) : OutInv (execFabs h d a s) :=
  issueReg_inv _ _ _ hs

theorem execFneg_inv (h : Bool) (d a : BitVec 7) (s : State) (hs : MachineInv s) : OutInv (execFneg h d a s) :=
  issueReg_inv _ _ _ hs

theorem execFcpsgn_inv (h : Bool) (d a b : BitVec 7) (s : State) (hs : MachineInv s) : OutInv (execFcpsgn h d a b s) :=
  issueReg_inv _ _ _ hs

theorem execFfloor_inv (h : Bool) (d a : BitVec 7) (s : State) (hs : MachineInv s) : OutInv (execFfloor h d a s) :=
  issueReg_inv _ _ _ hs

theorem execFceil_inv (h : Bool) (d a : BitVec 7) (s : State) (hs : MachineInv s) : OutInv (execFceil h d a s) :=
  issueReg_inv _ _ _ hs

theorem execFtrunc_inv (h : Bool) (d a : BitVec 7) (s : State) (hs : MachineInv s) : OutInv (execFtrunc h d a s) :=
  issueReg_inv _ _ _ hs

theorem execFrint_inv (h : Bool) (d a : BitVec 7) (s : State) (hs : MachineInv s) : OutInv (execFrint h d a s) :=
  issueReg_inv _ _ _ hs

theorem execFfrac_inv (h : Bool) (d a : BitVec 7) (s : State) (hs : MachineInv s) : OutInv (execFfrac h d a s) :=
  issueReg_inv _ _ _ hs

theorem execFscale_inv (h : Bool) (d a b : BitVec 7) (s : State) (hs : MachineInv s) : OutInv (execFscale h d a b s) :=
  issueReg_inv _ _ _ hs

theorem execFfma_inv (h : Bool) (d a b : BitVec 7) (s : State) (hs : MachineInv s) : OutInv (execFfma h d a b s) :=
  issueReg_inv _ _ _ hs

theorem execFfms_inv (h : Bool) (d a b : BitVec 7) (s : State) (hs : MachineInv s) : OutInv (execFfms h d a b s) :=
  issueReg_inv _ _ _ hs

theorem execFnfma_inv (h : Bool) (d a b : BitVec 7) (s : State) (hs : MachineInv s) : OutInv (execFnfma h d a b s) :=
  issueReg_inv _ _ _ hs

theorem execFnfms_inv (h : Bool) (d a b : BitVec 7) (s : State) (hs : MachineInv s) : OutInv (execFnfms h d a b s) :=
  issueReg_inv _ _ _ hs

theorem execHadd2_inv (h : Bool) (d a b : BitVec 7) (s : State) (hs : MachineInv s) : OutInv (execHadd2 h d a b s) :=
  issueReg_inv _ _ _ hs

theorem execHsub2_inv (h : Bool) (d a b : BitVec 7) (s : State) (hs : MachineInv s) : OutInv (execHsub2 h d a b s) :=
  issueReg_inv _ _ _ hs

theorem execHmul2_inv (h : Bool) (d a b : BitVec 7) (s : State) (hs : MachineInv s) : OutInv (execHmul2 h d a b s) :=
  issueReg_inv _ _ _ hs

theorem execHfma2_inv (h : Bool) (d a b : BitVec 7) (s : State) (hs : MachineInv s) : OutInv (execHfma2 h d a b s) :=
  issueReg_inv _ _ _ hs

theorem execHmin2_inv (h : Bool) (d a b : BitVec 7) (s : State) (hs : MachineInv s) : OutInv (execHmin2 h d a b s) :=
  issueReg_inv _ _ _ hs

theorem execHmax2_inv (h : Bool) (d a b : BitVec 7) (s : State) (hs : MachineInv s) : OutInv (execHmax2 h d a b s) :=
  issueReg_inv _ _ _ hs

theorem execBadd2_inv (h : Bool) (d a b : BitVec 7) (s : State) (hs : MachineInv s) : OutInv (execBadd2 h d a b s) :=
  issueReg_inv _ _ _ hs

theorem execBsub2_inv (h : Bool) (d a b : BitVec 7) (s : State) (hs : MachineInv s) : OutInv (execBsub2 h d a b s) :=
  issueReg_inv _ _ _ hs

theorem execBmul2_inv (h : Bool) (d a b : BitVec 7) (s : State) (hs : MachineInv s) : OutInv (execBmul2 h d a b s) :=
  issueReg_inv _ _ _ hs

theorem execBfma2_inv (h : Bool) (d a b : BitVec 7) (s : State) (hs : MachineInv s) : OutInv (execBfma2 h d a b s) :=
  issueReg_inv _ _ _ hs

theorem execBmin2_inv (h : Bool) (d a b : BitVec 7) (s : State) (hs : MachineInv s) : OutInv (execBmin2 h d a b s) :=
  issueReg_inv _ _ _ hs

theorem execBmax2_inv (h : Bool) (d a b : BitVec 7) (s : State) (hs : MachineInv s) : OutInv (execBmax2 h d a b s) :=
  issueReg_inv _ _ _ hs

theorem execHdot2_inv (h : Bool) (d a b : BitVec 7) (s : State) (hs : MachineInv s) : OutInv (execHdot2 h d a b s) :=
  issueReg_inv _ _ _ hs

theorem execBdot2_inv (h : Bool) (d a b : BitVec 7) (s : State) (hs : MachineInv s) : OutInv (execBdot2 h d a b s) :=
  issueReg_inv _ _ _ hs

theorem execFcmpOeq_inv (h : Bool) (k : BitVec 2) (p : BitVec 3) (a b : BitVec 7) (s : State) (hs : MachineInv s) : OutInv (execFcmpOeq h k p a b s) :=
  issueReg_inv _ _ _ hs

theorem execFcmpOne_inv (h : Bool) (k : BitVec 2) (p : BitVec 3) (a b : BitVec 7) (s : State) (hs : MachineInv s) : OutInv (execFcmpOne h k p a b s) :=
  issueReg_inv _ _ _ hs

theorem execFcmpOlt_inv (h : Bool) (k : BitVec 2) (p : BitVec 3) (a b : BitVec 7) (s : State) (hs : MachineInv s) : OutInv (execFcmpOlt h k p a b s) :=
  issueReg_inv _ _ _ hs

theorem execFcmpOle_inv (h : Bool) (k : BitVec 2) (p : BitVec 3) (a b : BitVec 7) (s : State) (hs : MachineInv s) : OutInv (execFcmpOle h k p a b s) :=
  issueReg_inv _ _ _ hs

theorem execFcmpOgt_inv (h : Bool) (k : BitVec 2) (p : BitVec 3) (a b : BitVec 7) (s : State) (hs : MachineInv s) : OutInv (execFcmpOgt h k p a b s) :=
  issueReg_inv _ _ _ hs

theorem execFcmpOge_inv (h : Bool) (k : BitVec 2) (p : BitVec 3) (a b : BitVec 7) (s : State) (hs : MachineInv s) : OutInv (execFcmpOge h k p a b s) :=
  issueReg_inv _ _ _ hs

theorem execFcmpUno_inv (h : Bool) (k : BitVec 2) (p : BitVec 3) (a b : BitVec 7) (s : State) (hs : MachineInv s) : OutInv (execFcmpUno h k p a b s) :=
  issueReg_inv _ _ _ hs

theorem execFcmpOrd_inv (h : Bool) (k : BitVec 2) (p : BitVec 3) (a b : BitVec 7) (s : State) (hs : MachineInv s) : OutInv (execFcmpOrd h k p a b s) :=
  issueReg_inv _ _ _ hs

theorem execFcmpUeq_inv (h : Bool) (k : BitVec 2) (p : BitVec 3) (a b : BitVec 7) (s : State) (hs : MachineInv s) : OutInv (execFcmpUeq h k p a b s) :=
  issueReg_inv _ _ _ hs

theorem execFcmpUne_inv (h : Bool) (k : BitVec 2) (p : BitVec 3) (a b : BitVec 7) (s : State) (hs : MachineInv s) : OutInv (execFcmpUne h k p a b s) :=
  issueReg_inv _ _ _ hs

theorem execFcmpUlt_inv (h : Bool) (k : BitVec 2) (p : BitVec 3) (a b : BitVec 7) (s : State) (hs : MachineInv s) : OutInv (execFcmpUlt h k p a b s) :=
  issueReg_inv _ _ _ hs

theorem execFcmpUle_inv (h : Bool) (k : BitVec 2) (p : BitVec 3) (a b : BitVec 7) (s : State) (hs : MachineInv s) : OutInv (execFcmpUle h k p a b s) :=
  issueReg_inv _ _ _ hs

theorem execFcmpUgt_inv (h : Bool) (k : BitVec 2) (p : BitVec 3) (a b : BitVec 7) (s : State) (hs : MachineInv s) : OutInv (execFcmpUgt h k p a b s) :=
  issueReg_inv _ _ _ hs

theorem execFcmpUge_inv (h : Bool) (k : BitVec 2) (p : BitVec 3) (a b : BitVec 7) (s : State) (hs : MachineInv s) : OutInv (execFcmpUge h k p a b s) :=
  issueReg_inv _ _ _ hs

theorem execFcmpClass_inv (h : Bool) (k : BitVec 2) (p : BitVec 3) (a b : BitVec 7) (s : State) (hs : MachineInv s) : OutInv (execFcmpClass h k p a b s) :=
  issueReg_inv _ _ _ hs

theorem execXfnRcp_inv (h : Bool) (d a : BitVec 7) (s : State) (hs : MachineInv s) : OutInv (execXfnRcp h d a s) :=
  issueVar_inv _ _ _ hs

theorem execXfnRsq_inv (h : Bool) (d a : BitVec 7) (s : State) (hs : MachineInv s) : OutInv (execXfnRsq h d a s) :=
  issueVar_inv _ _ _ hs

theorem execXfnSqrt_inv (h : Bool) (d a : BitVec 7) (s : State) (hs : MachineInv s) : OutInv (execXfnSqrt h d a s) :=
  issueVar_inv _ _ _ hs

theorem execXfnExp2_inv (h : Bool) (d a : BitVec 7) (s : State) (hs : MachineInv s) : OutInv (execXfnExp2 h d a s) :=
  issueVar_inv _ _ _ hs

theorem execXfnLog2_inv (h : Bool) (d a : BitVec 7) (s : State) (hs : MachineInv s) : OutInv (execXfnLog2 h d a s) :=
  issueVar_inv _ _ _ hs

theorem execXfnSinpi_inv (h : Bool) (d a : BitVec 7) (s : State) (hs : MachineInv s) : OutInv (execXfnSinpi h d a s) :=
  issueVar_inv _ _ _ hs

theorem execXfnCospi_inv (h : Bool) (d a : BitVec 7) (s : State) (hs : MachineInv s) : OutInv (execXfnCospi h d a s) :=
  issueVar_inv _ _ _ hs

theorem execXfnTanh_inv (h : Bool) (d a : BitVec 7) (s : State) (hs : MachineInv s) : OutInv (execXfnTanh h d a s) :=
  issueVar_inv _ _ _ hs

theorem execXfnDiv_inv (h : Bool) (d a b : BitVec 7) (s : State) (hs : MachineInv s) : OutInv (execXfnDiv h d a b s) :=
  issueVar_inv _ _ _ hs

theorem execXfnSigm_inv (h : Bool) (d a : BitVec 7) (s : State) (hs : MachineInv s) : OutInv (execXfnSigm h d a s) :=
  issueVar_inv _ _ _ hs

theorem execXfnExp_inv (h : Bool) (d a : BitVec 7) (s : State) (hs : MachineInv s) : OutInv (execXfnExp h d a s) :=
  issueVar_inv _ _ _ hs

theorem execXfnLog_inv (h : Bool) (d a : BitVec 7) (s : State) (hs : MachineInv s) : OutInv (execXfnLog h d a s) :=
  issueVar_inv _ _ _ hs

theorem execF2i_inv (h : Bool) (d a : BitVec 7) (_k : BitVec 3) (_sat : Bool) (r : BitVec 3) (s : State) (hs : MachineInv s) : OutInv (execF2i h d a _k _sat r s) :=
  issueReg_inv _ _ _ hs

theorem execF2u_inv (h : Bool) (d a : BitVec 7) (_k : BitVec 3) (_sat : Bool) (r : BitVec 3) (s : State) (hs : MachineInv s) : OutInv (execF2u h d a _k _sat r s) :=
  issueReg_inv _ _ _ hs

theorem execI2f_inv (h : Bool) (d a : BitVec 7) (_k : BitVec 3) (_sat : Bool) (r : BitVec 3) (s : State) (hs : MachineInv s) : OutInv (execI2f h d a _k _sat r s) :=
  issueReg_inv _ _ _ hs

theorem execU2f_inv (h : Bool) (d a : BitVec 7) (_k : BitVec 3) (_sat : Bool) (r : BitVec 3) (s : State) (hs : MachineInv s) : OutInv (execU2f h d a _k _sat r s) :=
  issueReg_inv _ _ _ hs

theorem execF2h_inv (h : Bool) (d a : BitVec 7) (_k : BitVec 3) (sat : Bool) (r : BitVec 3) (s : State) (hs : MachineInv s) : OutInv (execF2h h d a _k sat r s) :=
  issueReg_inv _ _ _ hs

theorem execH2f_inv (h : Bool) (d a : BitVec 7) (_k : BitVec 3) (_sat : Bool) (r : BitVec 3) (s : State) (hs : MachineInv s) : OutInv (execH2f h d a _k _sat r s) :=
  issueReg_inv _ _ _ hs

theorem execF2b_inv (h : Bool) (d a : BitVec 7) (_k : BitVec 3) (sat : Bool) (r : BitVec 3) (s : State) (hs : MachineInv s) : OutInv (execF2b h d a _k sat r s) :=
  issueReg_inv _ _ _ hs

theorem execB2f_inv (h : Bool) (d a : BitVec 7) (_k : BitVec 3) (_sat : Bool) (r : BitVec 3) (s : State) (hs : MachineInv s) : OutInv (execB2f h d a _k _sat r s) :=
  issueReg_inv _ _ _ hs

theorem execF2n_inv (h : Bool) (d a : BitVec 7) (k : BitVec 3) (sat : Bool) (r : BitVec 3) (s : State) (hs : MachineInv s) : OutInv (execF2n h d a k sat r s) :=
  issueReg_inv _ _ _ hs

theorem execN2f_inv (h : Bool) (d a : BitVec 7) (k : BitVec 3) (_sat : Bool) (r : BitVec 3) (s : State) (hs : MachineInv s) : OutInv (execN2f h d a k _sat r s) :=
  issueReg_inv _ _ _ hs

theorem execF2d_inv (h : Bool) (d a : BitVec 7) (_k : BitVec 3) (_sat : Bool) (r : BitVec 3) (s : State) (hs : MachineInv s) : OutInv (execF2d h d a _k _sat r s) :=
  issueReg_inv _ _ _ hs

theorem execD2f_inv (h : Bool) (d a : BitVec 7) (_k : BitVec 3) (sat : Bool) (r : BitVec 3) (s : State) (hs : MachineInv s) : OutInv (execD2f h d a _k sat r s) :=
  issueReg_inv _ _ _ hs

theorem execI2d_inv (h : Bool) (d a : BitVec 7) (_k : BitVec 3) (_sat : Bool) (r : BitVec 3) (s : State) (hs : MachineInv s) : OutInv (execI2d h d a _k _sat r s) :=
  issueReg_inv _ _ _ hs

theorem execD2i_inv (h : Bool) (d a : BitVec 7) (_k : BitVec 3) (_sat : Bool) (r : BitVec 3) (s : State) (hs : MachineInv s) : OutInv (execD2i h d a _k _sat r s) :=
  issueReg_inv _ _ _ hs

theorem execPackn_inv (h : Bool) (d a : BitVec 7) (k : BitVec 3) (sat : Bool) (r : BitVec 3) (s : State) (hs : MachineInv s) : OutInv (execPackn h d a k sat r s) :=
  issueReg_inv _ _ _ hs

theorem execUnpkn_inv (h : Bool) (d a : BitVec 7) (k : BitVec 3) (_sat : Bool) (r : BitVec 3) (s : State) (hs : MachineInv s) : OutInv (execUnpkn h d a k _sat r s) :=
  issueReg_inv _ _ _ hs

theorem execDadd_inv (h : Bool) (d a b : BitVec 7) (s : State) (hs : MachineInv s) : OutInv (execDadd h d a b s) :=
  issueReg_inv _ _ _ hs

theorem execDsub_inv (h : Bool) (d a b : BitVec 7) (s : State) (hs : MachineInv s) : OutInv (execDsub h d a b s) :=
  issueReg_inv _ _ _ hs

theorem execDmul_inv (h : Bool) (d a b : BitVec 7) (s : State) (hs : MachineInv s) : OutInv (execDmul h d a b s) :=
  issueReg_inv _ _ _ hs

theorem execDfma_inv (h : Bool) (d a b : BitVec 7) (s : State) (hs : MachineInv s) : OutInv (execDfma h d a b s) :=
  issueReg_inv _ _ _ hs

theorem execDmin_inv (h : Bool) (d a b : BitVec 7) (s : State) (hs : MachineInv s) : OutInv (execDmin h d a b s) :=
  issueReg_inv _ _ _ hs

theorem execDmax_inv (h : Bool) (d a b : BitVec 7) (s : State) (hs : MachineInv s) : OutInv (execDmax h d a b s) :=
  issueReg_inv _ _ _ hs

theorem execDdiv_inv (h : Bool) (d a b : BitVec 7) (s : State) (hs : MachineInv s) : OutInv (execDdiv h d a b s) :=
  issueVar_inv _ _ _ hs

theorem execDsqrt_inv (h : Bool) (d a : BitVec 7) (s : State) (hs : MachineInv s) : OutInv (execDsqrt h d a s) :=
  issueVar_inv _ _ _ hs

theorem execDeq_inv (h : Bool) (k : BitVec 2) (p : BitVec 3) (a b : BitVec 7) (s : State) (hs : MachineInv s) : OutInv (execDeq h k p a b s) :=
  issueReg_inv _ _ _ hs

theorem execDlt_inv (h : Bool) (k : BitVec 2) (p : BitVec 3) (a b : BitVec 7) (s : State) (hs : MachineInv s) : OutInv (execDlt h k p a b s) :=
  issueReg_inv _ _ _ hs

theorem execDle_inv (h : Bool) (k : BitVec 2) (p : BitVec 3) (a b : BitVec 7) (s : State) (hs : MachineInv s) : OutInv (execDle h k p a b s) :=
  issueReg_inv _ _ _ hs

theorem execDuno_inv (h : Bool) (k : BitVec 2) (p : BitVec 3) (a b : BitVec 7) (s : State) (hs : MachineInv s) : OutInv (execDuno h k p a b s) :=
  issueReg_inv _ _ _ hs

theorem execMlmrg_inv (h : Bool) (d a : BitVec 7) (s : State) (hs : MachineInv s) : OutInv (execMlmrg h d a s) :=
  issueReg_inv _ _ _ hs

theorem execExpsub_inv (h : Bool) (d a b : BitVec 7) (s : State) (hs : MachineInv s) : OutInv (execExpsub h d a b s) :=
  issueReg_inv _ _ _ hs

theorem execRescale_inv (h : Bool) (d a b : BitVec 7) (s : State) (hs : MachineInv s) : OutInv (execRescale h d a b s) :=
  issueReg_inv _ _ _ hs

theorem execReadRequest_inv (rx : Rx) (s : State) (hs : MachineInv s) : OutInv (execReadRequest rx s) := by
  unfold execReadRequest
  refine receiveReq_inv _ _ _ _ hs (fun s k hs => ?_)
  (repeat' split) <;> simp (maxDischargeDepth := 9) [replyServed, hs]

theorem execPktWrite_inv (rx : Rx) (s : State) (hs : MachineInv s) : OutInv (execPktWrite rx s) := by
  unfold execPktWrite
  refine receiveReq_inv _ _ _ _ hs (fun s k hs => ?_)
  (repeat' split) <;> simp (maxDischargeDepth := 9) [replyServed, hs]

theorem execPktAtomic_inv (rx : Rx) (s : State) (hs : MachineInv s) : OutInv (execPktAtomic rx s) := by
  unfold execPktAtomic
  refine receiveReq_inv _ _ _ _ hs (fun s k hs => ?_)
  (repeat' split) <;> simp (maxDischargeDepth := 9) [replyServed, hs]

theorem execCopyUnits_inv (rx : Rx) (s : State) (hs : MachineInv s) : OutInv (execCopyUnits rx s) := by
  unfold execCopyUnits
  refine receiveReq_inv _ _ _ _ hs (fun s k hs => ?_)
  (repeat' split) <;> simp (maxDischargeDepth := 9) [replyServed, hs]

theorem execReduceCopyUnits_inv (rx : Rx) (s : State) (hs : MachineInv s) : OutInv (execReduceCopyUnits rx s) := by
  unfold execReduceCopyUnits
  refine receiveReq_inv _ _ _ _ hs (fun s k hs => ?_)
  (repeat' split) <;> simp (maxDischargeDepth := 9) [replyServed, hs]

theorem execPublish_inv (rx : Rx) (s : State) (hs : MachineInv s) : OutInv (execPublish rx s) := by
  unfold execPublish
  refine receiveReq_inv _ _ _ _ hs (fun s k hs => ?_)
  split
  · split
    · simp (maxDischargeDepth := 9) [replyServed, Served.no, hs]
    · split <;> rename_i e <;> have kf := Eq.mp (congrArg FlipResInv e) (flipPage_inv s _ _ _ hs) <;>
        (try simp only [flipResInv_done, flipResInv_deny] at kf) <;> simp (maxDischargeDepth := 9) [replyServed, Served.no, Served.ok, kf, hs]
  · simpa using hs

theorem execReservedPacket_inv (rx : Rx) (s : State) (hs : MachineInv s) : OutInv (execReservedPacket rx s) := by
  unfold execReservedPacket
  refine receive_inv _ _ _ _ hs (fun s k hs => ?_)
  (try dsimp only)
  (repeat' split) <;> simp (maxDischargeDepth := 9) [hs, inv_ite]

theorem execReadReply_inv (rx : Rx) (s : State) (hs : MachineInv s) : OutInv (execReadReply rx s) := by
  unfold execReadReply
  refine receive_inv _ _ _ _ hs (fun s k hs => ?_)
  (try dsimp only)
  (repeat' split) <;> simp (maxDischargeDepth := 9) [hs, inv_ite]

theorem execCompletion_inv (rx : Rx) (s : State) (hs : MachineInv s) : OutInv (execCompletion rx s) := by
  unfold execCompletion
  refine receive_inv _ _ _ _ hs (fun s k hs => ?_)
  (try dsimp only)
  (repeat' split) <;> simp (maxDischargeDepth := 9) [hs, inv_ite]

theorem execCopyCompletion_inv (rx : Rx) (s : State) (hs : MachineInv s) : OutInv (execCopyCompletion rx s) := by
  unfold execCopyCompletion
  refine receive_inv _ _ _ _ hs (fun s k hs => ?_)
  (try dsimp only)
  (repeat' split) <;> simp (maxDischargeDepth := 9) [hs, inv_ite]

theorem execCollectiveData_inv (rx : Rx) (s : State) (hs : MachineInv s) : OutInv (execCollectiveData rx s) := by
  unfold execCollectiveData
  refine receive_inv _ _ _ _ hs (fun s k hs => ?_)
  split
  · rename_i h x _
    exact (outInv_next _).2 (inv_foldl (fun s y k => comeColl_inv s y.1 y.2 x k) _ hs)
  · exact (outInv_next _).2 hs

theorem execCollectiveAbort_inv (rx : Rx) (s : State) (hs : MachineInv s) : OutInv (execCollectiveAbort rx s) := by
  unfold execCollectiveAbort
  refine receive_inv _ _ _ _ hs (fun s k hs => ?_)
  (try dsimp only)
  (repeat' split) <;> simp (maxDischargeDepth := 9) [hs, inv_ite]

theorem execBarrierArrive_inv (rx : Rx) (s : State) (hs : MachineInv s) : OutInv (execBarrierArrive rx s) := by
  unfold execBarrierArrive
  refine receive_inv _ _ _ _ hs (fun s k hs => ?_)
  (try dsimp only)
  (repeat' split) <;> simp (maxDischargeDepth := 9) [hs, inv_ite]

theorem execBarrierRelease_inv (rx : Rx) (s : State) (hs : MachineInv s) : OutInv (execBarrierRelease rx s) := by
  unfold execBarrierRelease
  refine receive_inv _ _ _ _ hs (fun s k hs => ?_)
  (try dsimp only)
  (repeat' split) <;> simp (maxDischargeDepth := 9) [hs, inv_ite]

theorem execLaunchCommand_inv (src : CmdSrc) (s : State) (hs : MachineInv s) : OutInv (execLaunchCommand src s) := by
  unfold execLaunchCommand
  refine runCmd_inv _ _ _ _ _ hs (fun c s hs => ?_)
  (try dsimp only)
  (repeat' split) <;> simp (maxDischargeDepth := 9) [hs, inv_ite]

theorem execGangStart_inv (rx : Rx) (s : State) (hs : MachineInv s) : OutInv (execGangStart rx s) := by
  unfold execGangStart
  refine receiveGang_inv _ _ _ _ hs (fun s k m hs => ?_)
  (try dsimp only)
  (repeat' split) <;> simp (maxDischargeDepth := 9) [hs, inv_ite]

theorem execGangAccept_inv (rx : Rx) (s : State) (hs : MachineInv s) : OutInv (execGangAccept rx s) := by
  unfold execGangAccept
  refine receiveGang_inv _ _ _ _ hs (fun s k m hs => ?_)
  (try dsimp only)
  (repeat' split) <;> simp (maxDischargeDepth := 9) [hs, inv_ite]

theorem execGangRefuse_inv (rx : Rx) (s : State) (hs : MachineInv s) : OutInv (execGangRefuse rx s) := by
  unfold execGangRefuse
  refine receiveGang_inv _ _ _ _ hs (fun s k m hs => ?_)
  (try dsimp only)
  (repeat' split) <;> simp (maxDischargeDepth := 9) [hs, inv_ite]

theorem execGangGo_inv (rx : Rx) (s : State) (hs : MachineInv s) : OutInv (execGangGo rx s) := by
  unfold execGangGo
  refine receiveGang_inv _ _ _ _ hs (fun s k m hs => ?_)
  (try dsimp only)
  (repeat' split) <;> simp (maxDischargeDepth := 9) [hs, inv_ite]

theorem execGangCancel_inv (rx : Rx) (s : State) (hs : MachineInv s) : OutInv (execGangCancel rx s) := by
  unfold execGangCancel
  refine receiveGang_inv _ _ _ _ hs (fun s k m hs => ?_)
  (try dsimp only)
  (repeat' split) <;> simp (maxDischargeDepth := 9) [hs, inv_ite]

theorem execGangAbort_inv (rx : Rx) (s : State) (hs : MachineInv s) : OutInv (execGangAbort rx s) := by
  unfold execGangAbort
  refine receiveGang_inv _ _ _ _ hs (fun s k m hs => ?_)
  (try dsimp only)
  (repeat' split) <;> simp (maxDischargeDepth := 9) [hs, inv_ite]

theorem execGangStartTimeout_inv (ref : LRef) (s : State) (hs : MachineInv s) : OutInv (execGangStartTimeout ref s) := by
  unfold execGangStartTimeout
  first
    | (simp (maxDischargeDepth := 9) [hs]; done)
    | (simp +contextual (maxDischargeDepth := 9) [hs, inv_foldl, inv_ite]; done)
    | ((try dsimp only); (repeat' split) <;> (try dsimp only) <;> first | (simp (maxDischargeDepth := 9) [hs, inv_ite]; done) | (simp_all (maxDischargeDepth := 9) [inv_ite]; done))

theorem execGangDiscardTimeout_inv (ref : LRef) (s : State) (hs : MachineInv s) : OutInv (execGangDiscardTimeout ref s) := by
  unfold execGangDiscardTimeout
  first
    | (simp (maxDischargeDepth := 9) [hs]; done)
    | (simp +contextual (maxDischargeDepth := 9) [hs, inv_foldl, inv_ite]; done)
    | ((try dsimp only); (repeat' split) <;> (try dsimp only) <;> first | (simp (maxDischargeDepth := 9) [hs, inv_ite]; done) | (simp_all (maxDischargeDepth := 9) [inv_ite]; done))

theorem execGangDone_inv (rx : Rx) (s : State) (hs : MachineInv s) : OutInv (execGangDone rx s) := by
  unfold execGangDone
  refine receiveGang_inv _ _ _ _ hs (fun s k m hs => ?_)
  (try dsimp only)
  (repeat' split) <;> simp (maxDischargeDepth := 9) [hs, inv_ite]

theorem execLaunchComplete_inv (ref : LRef) (s : State) (hs : MachineInv s) : OutInv (execLaunchComplete ref s) := by
  unfold execLaunchComplete
  split
  · simp
  · split
    · dsimp only
      split
      · simp
      · cases s.gangOf ref with
        | none => exact (outInv_next _).2 hs
        | some g => exact (outInv_next _).2 (endGang_inv _ _ hs)
    · (repeat' split) <;> (try dsimp only) <;> (repeat' split) <;> simp (maxDischargeDepth := 9) [hs]

theorem execTimeSliceExpiry_inv (ref : LRef) (team : Nat) (s : State) (hs : MachineInv s) : OutInv (execTimeSliceExpiry ref team s) := by
  unfold execTimeSliceExpiry
  first
    | (simp (maxDischargeDepth := 9) [hs]; done)
    | (simp +contextual (maxDischargeDepth := 9) [hs, inv_foldl, inv_ite]; done)
    | ((try dsimp only); (repeat' split) <;> (try dsimp only) <;> first | (simp (maxDischargeDepth := 9) [hs, inv_ite]; done) | (simp_all (maxDischargeDepth := 9) [inv_ite]; done))

theorem execBlockedTeamSwap_inv (ref : LRef) (team : Nat) (s : State) (hs : MachineInv s) : OutInv (execBlockedTeamSwap ref team s) := by
  unfold execBlockedTeamSwap
  first
    | (simp (maxDischargeDepth := 9) [hs]; done)
    | (simp +contextual (maxDischargeDepth := 9) [hs, inv_foldl, inv_ite]; done)
    | ((try dsimp only); (repeat' split) <;> (try dsimp only) <;> first | (simp (maxDischargeDepth := 9) [hs, inv_ite]; done) | (simp_all (maxDischargeDepth := 9) [inv_ite]; done))

theorem execDrainTimeout_inv (ref : LRef) (team : Nat) (s : State) (hs : MachineInv s) : OutInv (execDrainTimeout ref team s) := by
  unfold execDrainTimeout
  first
    | (simp (maxDischargeDepth := 9) [hs]; done)
    | (simp +contextual (maxDischargeDepth := 9) [hs, inv_foldl, inv_ite]; done)
    | ((try dsimp only); (repeat' split) <;> (try dsimp only) <;> first | (simp (maxDischargeDepth := 9) [hs, inv_ite]; done) | (simp_all (maxDischargeDepth := 9) [inv_ite]; done))

theorem execTeamSave_inv (ref : LRef) (team : Nat) (s : State) (hs : MachineInv s) : OutInv (execTeamSave ref team s) := by
  unfold execTeamSave
  split
  · dsimp only
    split
    · simp
    · split
      · exact (outInv_next _).2 hs
      · exact (outInv_next _).2 (modDie_inv _ _ _ (modLaunch_inv _ _ _ (inv_foldl (fun s x h => saveTeam_inv _ s x h) _ hs)))
  · simp

theorem execTeamRestore_inv (ref : LRef) (team cluster : Nat) (cores : List Nat) (s : State) (hs : MachineInv s) : OutInv (execTeamRestore ref team cluster cores s) := by
  unfold execTeamRestore
  split
  · simp
  · dsimp only
    split
    · simp
    · split
      · rename_i e
        exact (outInv_next _).2 (modLaunch_inv _ _ _ (inv_foldl (fun s x h => restoreTeam_inv _ s x h) _ (placeBack_inv _ _ _ _ _ hs _ e)))
      · simp

theorem execNop_inv (h : Bool) (s : State) (hs : MachineInv s) : OutInv (execNop h s) :=
  issueReg_inv _ _ _ hs

theorem execExit_inv (h : Bool) (s : State) (hs : MachineInv s) : OutInv (execExit h s) := by
  unfold execExit
  refine issueWith_inv _ _ _ hs (fun c => ?_)
  repeat (first | refine resInv_bind _ _ (fun _ => ?_) | split)
  all_goals (try dsimp only)
  all_goals (repeat' split)
  all_goals simp (maxDischargeDepth := 9) [hs, inv_ite]

theorem execTrap_inv (h : Bool) (b : BitVec 7) (s : State) (hs : MachineInv s) : OutInv (execTrap h b s) := by
  unfold execTrap
  refine issueWith_inv _ _ _ hs (fun c => ?_)
  repeat (first | refine resInv_bind _ _ (fun _ => ?_) | split)
  all_goals (try dsimp only)
  all_goals (repeat' split)
  all_goals simp (maxDischargeDepth := 9) [hs, inv_ite]

theorem execBrk_inv (h : Bool) (b : BitVec 7) (s : State) (hs : MachineInv s) : OutInv (execBrk h b s) := by
  unfold execBrk
  refine issueWith_inv _ _ _ hs (fun c => ?_)
  repeat (first | refine resInv_bind _ _ (fun _ => ?_) | split)
  all_goals (try dsimp only)
  all_goals (repeat' split)
  all_goals simp (maxDischargeDepth := 9) [hs, inv_ite]

theorem execSrd_inv (h : Bool) (d a b : BitVec 7) (s : State) (hs : MachineInv s) : OutInv (execSrd h d a b s) := by
  unfold execSrd
  refine issueWith_inv _ _ _ hs (fun c => ?_)
  repeat (first | refine resInv_bind _ _ (fun _ => ?_) | split)
  all_goals (try dsimp only)
  all_goals (repeat' split)
  all_goals simp (maxDischargeDepth := 9) [hs, inv_ite]

theorem execSwr_inv (h : Bool) (d a b : BitVec 7) (s : State) (hs : MachineInv s) : OutInv (execSwr h d a b s) := by
  unfold execSwr
  refine issueWith_inv _ _ _ hs (fun c => ?_)
  dsimp only
  refine resInv_bind _ _ (fun _ => resInv_bind _ _ (fun _ => resInv_bind _ _ (fun _ => resInv_bind _ _ (fun _ => ?_))))
  split
  · exact resInv_bind _ _ (fun _ => modThread_inv _ _ _ hs)
  · exact resInv_bind _ _ (fun _ => modThread_inv _ _ _ hs)
  · exact modTeam_inv _ _ _ _ hs
  · exact modThread_inv _ _ _ hs

theorem execWbase_inv (h : Bool) (b : BitVec 7) (s : State) (hs : MachineInv s) : OutInv (execWbase h b s) :=
  issueReg_inv _ _ _ hs

theorem execUbase_inv (h : Bool) (b : BitVec 7) (s : State) (hs : MachineInv s) : OutInv (execUbase h b s) :=
  issueReg_inv _ _ _ hs

theorem execYield_inv (h : Bool) (s : State) (hs : MachineInv s) : OutInv (execYield h s) :=
  issueReg_inv _ _ _ hs

theorem execJoin_inv (h : Bool) (a : BitVec 7) (s : State) (hs : MachineInv s) : OutInv (execJoin h a s) := by
  unfold execJoin
  refine issueWith_inv _ _ _ hs (fun c => ?_)
  repeat (first | refine resInv_bind _ _ (fun _ => ?_) | split)
  all_goals (try dsimp only)
  all_goals (repeat' split)
  all_goals simp (maxDischargeDepth := 9) [hs, inv_ite]

theorem execBar_inv (h : Bool) (b : BitVec 7) (s : State) (hs : MachineInv s) : OutInv (execBar h b s) := by
  unfold execBar
  refine issueWith_inv _ _ _ hs (fun c => ?_)
  repeat (first | refine resInv_bind _ _ (fun _ => ?_) | split)
  all_goals (try dsimp only)
  all_goals (repeat' split)
  all_goals simp (maxDischargeDepth := 9) [hs, inv_ite]

theorem execArrive_inv (h : Bool) (d b : BitVec 7) (s : State) (hs : MachineInv s) : OutInv (execArrive h d b s) := by
  unfold execArrive
  refine issueWith_inv _ _ _ hs (fun c => ?_)
  repeat (first | refine resInv_bind _ _ (fun _ => ?_) | split)
  all_goals (try dsimp only)
  all_goals (repeat' split)
  all_goals simp (maxDischargeDepth := 9) [hs, inv_ite]

theorem execBwait_inv (h : Bool) (a b : BitVec 7) (s : State) (hs : MachineInv s) : OutInv (execBwait h a b s) := by
  unfold execBwait
  refine issueWith_inv _ _ _ hs (fun c => ?_)
  repeat (first | refine resInv_bind _ _ (fun _ => ?_) | split)
  all_goals (try dsimp only)
  all_goals (repeat' split)
  all_goals simp (maxDischargeDepth := 9) [hs, inv_ite]

theorem execNap_inv (h : Bool) (a : BitVec 7) (s : State) (hs : MachineInv s) : OutInv (execNap h a s) := by
  unfold execNap
  refine issueWith_inv _ _ _ hs (fun c => ?_)
  repeat (first | refine resInv_bind _ _ (fun _ => ?_) | split)
  all_goals (try dsimp only)
  all_goals (repeat' split)
  all_goals simp (maxDischargeDepth := 9) [hs, inv_ite]

theorem execFmtld_inv (h : Bool) (d a : BitVec 7) (s : State) (hs : MachineInv s) : OutInv (execFmtld h d a s) :=
  issueReg_inv _ _ _ hs

theorem execTret_inv (h : Bool) (b : BitVec 7) (s : State) (hs : MachineInv s) : OutInv (execTret h b s) := by
  unfold execTret
  refine issueWith_inv _ _ _ hs (fun c => ?_)
  repeat (first | refine resInv_bind _ _ (fun _ => ?_) | split)
  all_goals (try dsimp only)
  all_goals (repeat' split)
  all_goals simp (maxDischargeDepth := 9) [hs, inv_ite]

theorem execDoorbell_inv (q : Nat) (x : Word) (s : State) (hs : MachineInv s) : OutInv (execDoorbell q x s) := by
  unfold execDoorbell
  first
    | (simp (maxDischargeDepth := 9) [hs]; done)
    | (simp +contextual (maxDischargeDepth := 9) [hs, inv_foldl, inv_ite]; done)
    | ((try dsimp only); (repeat' split) <;> (try dsimp only) <;> first | (simp (maxDischargeDepth := 9) [hs, inv_ite]; done) | (simp_all (maxDischargeDepth := 9) [inv_ite]; done))

theorem execRegisterWrite_inv (a : Agent) (off : Nat) (v : Word) (s : State) (hs : MachineInv s) : OutInv (execRegisterWrite a off v s) := by
  unfold execRegisterWrite
  first
    | (simp (maxDischargeDepth := 9) [hs]; done)
    | (simp +contextual (maxDischargeDepth := 9) [hs, inv_foldl, inv_ite]; done)
    | ((try dsimp only); (repeat' split) <;> (try dsimp only) <;> first | (simp (maxDischargeDepth := 9) [hs, inv_ite]; done) | (simp_all (maxDischargeDepth := 9) [inv_ite]; done))

theorem execTlbinv_inv (a : Agent) (v : Word) (s : State) (hs : MachineInv s) : OutInv (execTlbinv a v s) := by
  unfold execTlbinv
  first
    | (simp (maxDischargeDepth := 9) [hs]; done)
    | (simp +contextual (maxDischargeDepth := 9) [hs, inv_foldl, inv_ite]; done)
    | ((try dsimp only); (repeat' split) <;> (try dsimp only) <;> first | (simp (maxDischargeDepth := 9) [hs, inv_ite]; done) | (simp_all (maxDischargeDepth := 9) [inv_ite]; done))

theorem execTlbinvComplete_inv (s : State) (hs : MachineInv s) : OutInv (execTlbinvComplete s) := by
  unfold execTlbinvComplete
  first
    | (simp (maxDischargeDepth := 9) [hs]; done)
    | (simp +contextual (maxDischargeDepth := 9) [hs, inv_foldl, inv_ite]; done)
    | ((try dsimp only); (repeat' split) <;> (try dsimp only) <;> first | (simp (maxDischargeDepth := 9) [hs, inv_ite]; done) | (simp_all (maxDischargeDepth := 9) [inv_ite]; done))

theorem execResetWrite_inv (a : Agent) (v : Word) (s : State) (hs : MachineInv s) : OutInv (execResetWrite a v s) := by
  unfold execResetWrite
  first
    | (simp (maxDischargeDepth := 9) [hs]; done)
    | (simp +contextual (maxDischargeDepth := 9) [hs, inv_foldl, inv_ite]; done)
    | ((try dsimp only); (repeat' split) <;> (try dsimp only) <;> first | (simp (maxDischargeDepth := 9) [hs, inv_ite]; done) | (simp_all (maxDischargeDepth := 9) [inv_ite]; done))

theorem execAbortWrite_inv (a : Agent) (die : Nat) (v : Word) (s : State) (hs : MachineInv s) : OutInv (execAbortWrite a die v s) := by
  unfold execAbortWrite
  first
    | (simp (maxDischargeDepth := 9) [hs]; done)
    | (simp +contextual (maxDischargeDepth := 9) [hs, inv_foldl, inv_ite]; done)
    | ((try dsimp only); (repeat' split) <;> (try dsimp only) <;> first | (simp (maxDischargeDepth := 9) [hs, inv_ite]; done) | (simp_all (maxDischargeDepth := 9) [inv_ite]; done))

theorem execDbgHalt_inv (a : Agent) (die : Nat) (v : Word) (s : State) (hs : MachineInv s) : OutInv (execDbgHalt a die v s) := by
  unfold execDbgHalt
  first
    | (simp (maxDischargeDepth := 9) [hs]; done)
    | (simp +contextual (maxDischargeDepth := 9) [hs, inv_foldl, inv_ite]; done)
    | ((try dsimp only); (repeat' split) <;> (try dsimp only) <;> first | (simp (maxDischargeDepth := 9) [hs, inv_ite]; done) | (simp_all (maxDischargeDepth := 9) [inv_ite]; done))

theorem execDbgGo_inv (a : Agent) (die : Nat) (v : Word) (s : State) (hs : MachineInv s) : OutInv (execDbgGo a die v s) := by
  unfold execDbgGo
  first
    | (simp (maxDischargeDepth := 9) [hs]; done)
    | (simp +contextual (maxDischargeDepth := 9) [hs, inv_foldl, inv_ite]; done)
    | ((try dsimp only); (repeat' split) <;> (try dsimp only) <;> first | (simp (maxDischargeDepth := 9) [hs, inv_ite]; done) | (simp_all (maxDischargeDepth := 9) [inv_ite]; done))

theorem execDbgStep_inv (a : Agent) (die : Nat) (v : Word) (s : State) (hs : MachineInv s) : OutInv (execDbgStep a die v s) := by
  unfold execDbgStep
  first
    | (simp (maxDischargeDepth := 9) [hs]; done)
    | (simp +contextual (maxDischargeDepth := 9) [hs, inv_foldl, inv_ite]; done)
    | ((try dsimp only); (repeat' split) <;> (try dsimp only) <;> first | (simp (maxDischargeDepth := 9) [hs, inv_ite]; done) | (simp_all (maxDischargeDepth := 9) [inv_ite]; done))

theorem execDbgData_inv (a : Agent) (die : Nat) (v : Word) (s : State) (hs : MachineInv s) : OutInv (execDbgData a die v s) := by
  unfold execDbgData
  first
    | (simp (maxDischargeDepth := 9) [hs]; done)
    | (simp +contextual (maxDischargeDepth := 9) [hs, inv_foldl, inv_ite]; done)
    | ((try dsimp only); (repeat' split) <;> (try dsimp only) <;> first | (simp (maxDischargeDepth := 9) [hs, inv_ite]; done) | (simp_all (maxDischargeDepth := 9) [inv_ite]; done))

theorem execBar4Read_inv (off n : Nat) (s : State) (hs : MachineInv s) : OutInv (execBar4Read off n s) := by
  unfold execBar4Read
  first
    | (simp (maxDischargeDepth := 9) [hs]; done)
    | (simp +contextual (maxDischargeDepth := 9) [hs, inv_foldl, inv_ite]; done)
    | ((try dsimp only); (repeat' split) <;> (try dsimp only) <;> first | (simp (maxDischargeDepth := 9) [hs, inv_ite]; done) | (simp_all (maxDischargeDepth := 9) [inv_ite]; done))

theorem execBar4Write_inv (off : Nat) (data : List Byte) (s : State) (hs : MachineInv s) : OutInv (execBar4Write off data s) := by
  unfold execBar4Write
  first
    | (simp (maxDischargeDepth := 9) [hs]; done)
    | (simp +contextual (maxDischargeDepth := 9) [hs, inv_foldl, inv_ite]; done)
    | ((try dsimp only); (repeat' split) <;> (try dsimp only) <;> first | (simp (maxDischargeDepth := 9) [hs, inv_ite]; done) | (simp_all (maxDischargeDepth := 9) [inv_ite]; done))

theorem execModuleReset_inv (s : State) (hs : MachineInv s) : OutInv (execModuleReset s) := by
  unfold execModuleReset
  first
    | (simp (maxDischargeDepth := 9) [hs]; done)
    | (simp +contextual (maxDischargeDepth := 9) [hs, inv_foldl, inv_ite]; done)
    | ((try dsimp only); (repeat' split) <;> (try dsimp only) <;> first | (simp (maxDischargeDepth := 9) [hs, inv_ite]; done) | (simp_all (maxDischargeDepth := 9) [inv_ite]; done))

theorem execBringUpStage_inv (ok : Bool) (s : State) (hs : MachineInv s) : OutInv (execBringUpStage ok s) := by
  unfold execBringUpStage
  first
    | (simp (maxDischargeDepth := 9) [hs]; done)
    | (simp +contextual (maxDischargeDepth := 9) [hs, inv_foldl, inv_ite]; done)
    | ((try dsimp only); (repeat' split) <;> (try dsimp only) <;> first | (simp (maxDischargeDepth := 9) [hs, inv_ite]; done) | (simp_all (maxDischargeDepth := 9) [inv_ite]; done))

theorem execClockStep_inv (up : Bool) (s : State) (hs : MachineInv s) : OutInv (execClockStep up s) := by
  unfold execClockStep
  first
    | (simp (maxDischargeDepth := 9) [hs]; done)
    | (simp +contextual (maxDischargeDepth := 9) [hs, inv_foldl, inv_ite]; done)
    | ((try dsimp only); (repeat' split) <;> (try dsimp only) <;> first | (simp (maxDischargeDepth := 9) [hs, inv_ite]; done) | (simp_all (maxDischargeDepth := 9) [inv_ite]; done))

theorem execCoolantFatal_inv (s : State) (hs : MachineInv s) : OutInv (execCoolantFatal s) := by
  unfold execCoolantFatal
  first
    | (simp (maxDischargeDepth := 9) [hs]; done)
    | (simp +contextual (maxDischargeDepth := 9) [hs, inv_foldl, inv_ite]; done)
    | ((try dsimp only); (repeat' split) <;> (try dsimp only) <;> first | (simp (maxDischargeDepth := 9) [hs, inv_ite]; done) | (simp_all (maxDischargeDepth := 9) [inv_ite]; done))

theorem execLinkFailure_inv (s : State) (hs : MachineInv s) : OutInv (execLinkFailure s) := by
  unfold execLinkFailure
  first
    | (simp (maxDischargeDepth := 9) [hs]; done)
    | (simp +contextual (maxDischargeDepth := 9) [hs, inv_foldl, inv_ite]; done)
    | ((try dsimp only); (repeat' split) <;> (try dsimp only) <;> first | (simp (maxDischargeDepth := 9) [hs, inv_ite]; done) | (simp_all (maxDischargeDepth := 9) [inv_ite]; done))

theorem execCompletionTimeout_inv (t : Tid) (id : Nat) (s : State) (hs : MachineInv s) : OutInv (execCompletionTimeout t id s) := by
  unfold execCompletionTimeout
  first
    | (simp (maxDischargeDepth := 9) [hs]; done)
    | (simp +contextual (maxDischargeDepth := 9) [hs, inv_foldl, inv_ite]; done)
    | ((try dsimp only); (repeat' split) <;> (try dsimp only) <;> first | (simp (maxDischargeDepth := 9) [hs, inv_ite]; done) | (simp_all (maxDischargeDepth := 9) [inv_ite]; done))

theorem execUnitPoisoned_inv (key : Nat) (s : State) (hs : MachineInv s) : OutInv (execUnitPoisoned key s) := by
  unfold execUnitPoisoned
  first
    | (simp (maxDischargeDepth := 9) [hs]; done)
    | (simp +contextual (maxDischargeDepth := 9) [hs, inv_foldl, inv_ite]; done)
    | ((try dsimp only); (repeat' split) <;> (try dsimp only) <;> first | (simp (maxDischargeDepth := 9) [hs, inv_ite]; done) | (simp_all (maxDischargeDepth := 9) [inv_ite]; done))

theorem execAdd_inv (h : Bool) (d a b : BitVec 7) (s : State) (hs : MachineInv s) : OutInv (execAdd h d a b s) :=
  issueReg_inv _ _ _ hs

theorem execSub_inv (h : Bool) (d a b : BitVec 7) (s : State) (hs : MachineInv s) : OutInv (execSub h d a b s) :=
  issueReg_inv _ _ _ hs

theorem execMul_inv (h : Bool) (d a b : BitVec 7) (s : State) (hs : MachineInv s) : OutInv (execMul h d a b s) :=
  issueReg_inv _ _ _ hs

theorem execMulh_inv (h : Bool) (d a b : BitVec 7) (s : State) (hs : MachineInv s) : OutInv (execMulh h d a b s) :=
  issueReg_inv _ _ _ hs

theorem execMulhu_inv (h : Bool) (d a b : BitVec 7) (s : State) (hs : MachineInv s) : OutInv (execMulhu h d a b s) :=
  issueReg_inv _ _ _ hs

theorem execAnd_inv (h : Bool) (d a b : BitVec 7) (s : State) (hs : MachineInv s) : OutInv (execAnd h d a b s) :=
  issueReg_inv _ _ _ hs

theorem execOr_inv (h : Bool) (d a b : BitVec 7) (s : State) (hs : MachineInv s) : OutInv (execOr h d a b s) :=
  issueReg_inv _ _ _ hs

theorem execXor_inv (h : Bool) (d a b : BitVec 7) (s : State) (hs : MachineInv s) : OutInv (execXor h d a b s) :=
  issueReg_inv _ _ _ hs

theorem execAndn_inv (h : Bool) (d a b : BitVec 7) (s : State) (hs : MachineInv s) : OutInv (execAndn h d a b s) :=
  issueReg_inv _ _ _ hs

theorem execShl_inv (h : Bool) (d a b : BitVec 7) (s : State) (hs : MachineInv s) : OutInv (execShl h d a b s) :=
  issueReg_inv _ _ _ hs

theorem execShr_inv (h : Bool) (d a b : BitVec 7) (s : State) (hs : MachineInv s) : OutInv (execShr h d a b s) :=
  issueReg_inv _ _ _ hs

theorem execSar_inv (h : Bool) (d a b : BitVec 7) (s : State) (hs : MachineInv s) : OutInv (execSar h d a b s) :=
  issueReg_inv _ _ _ hs

theorem execMin_inv (h : Bool) (d a b : BitVec 7) (s : State) (hs : MachineInv s) : OutInv (execMin h d a b s) :=
  issueReg_inv _ _ _ hs

theorem execMax_inv (h : Bool) (d a b : BitVec 7) (s : State) (hs : MachineInv s) : OutInv (execMax h d a b s) :=
  issueReg_inv _ _ _ hs

theorem execMinu_inv (h : Bool) (d a b : BitVec 7) (s : State) (hs : MachineInv s) : OutInv (execMinu h d a b s) :=
  issueReg_inv _ _ _ hs

theorem execMaxu_inv (h : Bool) (d a b : BitVec 7) (s : State) (hs : MachineInv s) : OutInv (execMaxu h d a b s) :=
  issueReg_inv _ _ _ hs

theorem execAdd64_inv (h : Bool) (d a b : BitVec 7) (s : State) (hs : MachineInv s) : OutInv (execAdd64 h d a b s) :=
  issueReg_inv _ _ _ hs

theorem execSub64_inv (h : Bool) (d a b : BitVec 7) (s : State) (hs : MachineInv s) : OutInv (execSub64 h d a b s) :=
  issueReg_inv _ _ _ hs

theorem execMul64_inv (h : Bool) (d a b : BitVec 7) (s : State) (hs : MachineInv s) : OutInv (execMul64 h d a b s) :=
  issueReg_inv _ _ _ hs

theorem execMad_inv (h : Bool) (d a b : BitVec 7) (s : State) (hs : MachineInv s) : OutInv (execMad h d a b s) :=
  issueReg_inv _ _ _ hs

theorem execMadw_inv (h : Bool) (d a b : BitVec 7) (s : State) (hs : MachineInv s) : OutInv (execMadw h d a b s) :=
  issueReg_inv _ _ _ hs

theorem execClz_inv (h : Bool) (d a : BitVec 7) (s : State) (hs : MachineInv s) : OutInv (execClz h d a s) :=
  issueReg_inv _ _ _ hs

theorem execPopc_inv (h : Bool) (d a : BitVec 7) (s : State) (hs : MachineInv s) : OutInv (execPopc h d a s) :=
  issueReg_inv _ _ _ hs

theorem execBrev_inv (h : Bool) (d a : BitVec 7) (s : State) (hs : MachineInv s) : OutInv (execBrev h d a s) :=
  issueReg_inv _ _ _ hs

theorem execBfe_inv (h : Bool) (d a b : BitVec 7) (s : State) (hs : MachineInv s) : OutInv (execBfe h d a b s) :=
  issueReg_inv _ _ _ hs

theorem execBfi_inv (h : Bool) (d a b : BitVec 7) (s : State) (hs : MachineInv s) : OutInv (execBfi h d a b s) :=
  issueReg_inv _ _ _ hs

theorem execPrmt_inv (h : Bool) (d a b : BitVec 7) (s : State) (hs : MachineInv s) : OutInv (execPrmt h d a b s) :=
  issueReg_inv _ _ _ hs

theorem execRol_inv (h : Bool) (d a b : BitVec 7) (s : State) (hs : MachineInv s) : OutInv (execRol h d a b s) :=
  issueReg_inv _ _ _ hs

theorem execDiv_inv (h : Bool) (d a b : BitVec 7) (s : State) (hs : MachineInv s) : OutInv (execDiv h d a b s) :=
  issueVar_inv _ _ _ hs

theorem execDivu_inv (h : Bool) (d a b : BitVec 7) (s : State) (hs : MachineInv s) : OutInv (execDivu h d a b s) :=
  issueVar_inv _ _ _ hs

theorem execRem_inv (h : Bool) (d a b : BitVec 7) (s : State) (hs : MachineInv s) : OutInv (execRem h d a b s) :=
  issueVar_inv _ _ _ hs

theorem execRemu_inv (h : Bool) (d a b : BitVec 7) (s : State) (hs : MachineInv s) : OutInv (execRemu h d a b s) :=
  issueVar_inv _ _ _ hs

theorem execIcmpEq_inv (h : Bool) (k : BitVec 2) (p : BitVec 3) (a b : BitVec 7) (s : State) (hs : MachineInv s) : OutInv (execIcmpEq h k p a b s) :=
  issueReg_inv _ _ _ hs

theorem execIcmpNe_inv (h : Bool) (k : BitVec 2) (p : BitVec 3) (a b : BitVec 7) (s : State) (hs : MachineInv s) : OutInv (execIcmpNe h k p a b s) :=
  issueReg_inv _ _ _ hs

theorem execIcmpLt_inv (h : Bool) (k : BitVec 2) (p : BitVec 3) (a b : BitVec 7) (s : State) (hs : MachineInv s) : OutInv (execIcmpLt h k p a b s) :=
  issueReg_inv _ _ _ hs

theorem execIcmpLe_inv (h : Bool) (k : BitVec 2) (p : BitVec 3) (a b : BitVec 7) (s : State) (hs : MachineInv s) : OutInv (execIcmpLe h k p a b s) :=
  issueReg_inv _ _ _ hs

theorem execIcmpGt_inv (h : Bool) (k : BitVec 2) (p : BitVec 3) (a b : BitVec 7) (s : State) (hs : MachineInv s) : OutInv (execIcmpGt h k p a b s) :=
  issueReg_inv _ _ _ hs

theorem execIcmpGe_inv (h : Bool) (k : BitVec 2) (p : BitVec 3) (a b : BitVec 7) (s : State) (hs : MachineInv s) : OutInv (execIcmpGe h k p a b s) :=
  issueReg_inv _ _ _ hs

theorem execIcmpLtu_inv (h : Bool) (k : BitVec 2) (p : BitVec 3) (a b : BitVec 7) (s : State) (hs : MachineInv s) : OutInv (execIcmpLtu h k p a b s) :=
  issueReg_inv _ _ _ hs

theorem execIcmpLeu_inv (h : Bool) (k : BitVec 2) (p : BitVec 3) (a b : BitVec 7) (s : State) (hs : MachineInv s) : OutInv (execIcmpLeu h k p a b s) :=
  issueReg_inv _ _ _ hs

theorem execIcmpGtu_inv (h : Bool) (k : BitVec 2) (p : BitVec 3) (a b : BitVec 7) (s : State) (hs : MachineInv s) : OutInv (execIcmpGtu h k p a b s) :=
  issueReg_inv _ _ _ hs

theorem execIcmpGeu_inv (h : Bool) (k : BitVec 2) (p : BitVec 3) (a b : BitVec 7) (s : State) (hs : MachineInv s) : OutInv (execIcmpGeu h k p a b s) :=
  issueReg_inv _ _ _ hs

theorem execIcmpEq64_inv (h : Bool) (k : BitVec 2) (p : BitVec 3) (a b : BitVec 7) (s : State) (hs : MachineInv s) : OutInv (execIcmpEq64 h k p a b s) :=
  issueReg_inv _ _ _ hs

theorem execIcmpNe64_inv (h : Bool) (k : BitVec 2) (p : BitVec 3) (a b : BitVec 7) (s : State) (hs : MachineInv s) : OutInv (execIcmpNe64 h k p a b s) :=
  issueReg_inv _ _ _ hs

theorem execIcmpLt64_inv (h : Bool) (k : BitVec 2) (p : BitVec 3) (a b : BitVec 7) (s : State) (hs : MachineInv s) : OutInv (execIcmpLt64 h k p a b s) :=
  issueReg_inv _ _ _ hs

theorem execIcmpLtu64_inv (h : Bool) (k : BitVec 2) (p : BitVec 3) (a b : BitVec 7) (s : State) (hs : MachineInv s) : OutInv (execIcmpLtu64 h k p a b s) :=
  issueReg_inv _ _ _ hs

theorem execIcmpBtst_inv (h : Bool) (k : BitVec 2) (p : BitVec 3) (a b : BitVec 7) (s : State) (hs : MachineInv s) : OutInv (execIcmpBtst h k p a b s) :=
  issueReg_inv _ _ _ hs

theorem execAddi_inv (h : Bool) (d a : BitVec 7) (i : BitVec 11) (s : State) (hs : MachineInv s) : OutInv (execAddi h d a i s) :=
  issueReg_inv _ _ _ hs

theorem execAndi_inv (h : Bool) (d a : BitVec 7) (i : BitVec 11) (s : State) (hs : MachineInv s) : OutInv (execAndi h d a i s) :=
  issueReg_inv _ _ _ hs

theorem execOri_inv (h : Bool) (d a : BitVec 7) (i : BitVec 11) (s : State) (hs : MachineInv s) : OutInv (execOri h d a i s) :=
  issueReg_inv _ _ _ hs

theorem execXori_inv (h : Bool) (d a : BitVec 7) (i : BitVec 11) (s : State) (hs : MachineInv s) : OutInv (execXori h d a i s) :=
  issueReg_inv _ _ _ hs

theorem execShli_inv (h : Bool) (d a : BitVec 7) (n : BitVec 6) (s : State) (hs : MachineInv s) : OutInv (execShli h d a n s) :=
  issueReg_inv _ _ _ hs

theorem execShri_inv (h : Bool) (d a : BitVec 7) (n : BitVec 6) (s : State) (hs : MachineInv s) : OutInv (execShri h d a n s) :=
  issueReg_inv _ _ _ hs

theorem execSari_inv (h : Bool) (d a : BitVec 7) (n : BitVec 6) (s : State) (hs : MachineInv s) : OutInv (execSari h d a n s) :=
  issueReg_inv _ _ _ hs

theorem execRoli_inv (h : Bool) (d a : BitVec 7) (n : BitVec 6) (s : State) (hs : MachineInv s) : OutInv (execRoli h d a n s) :=
  issueReg_inv _ _ _ hs

theorem execShli64_inv (h : Bool) (d a : BitVec 7) (n : BitVec 6) (s : State) (hs : MachineInv s) : OutInv (execShli64 h d a n s) :=
  issueReg_inv _ _ _ hs

theorem execShri64_inv (h : Bool) (d a : BitVec 7) (n : BitVec 6) (s : State) (hs : MachineInv s) : OutInv (execShri64 h d a n s) :=
  issueReg_inv _ _ _ hs

theorem execSari64_inv (h : Bool) (d a : BitVec 7) (n : BitVec 6) (s : State) (hs : MachineInv s) : OutInv (execSari64 h d a n s) :=
  issueReg_inv _ _ _ hs

theorem execMuli_inv (h : Bool) (d a : BitVec 7) (i : BitVec 11) (s : State) (hs : MachineInv s) : OutInv (execMuli h d a i s) :=
  issueReg_inv _ _ _ hs

theorem execCmpi_inv (h : Bool) (k : BitVec 4) (p : BitVec 3) (a : BitVec 7) (i : BitVec 11) (s : State) (hs : MachineInv s) : OutInv (execCmpi h k p a i s) :=
  issueReg_inv _ _ _ hs

theorem execMovw_inv (h : Bool) (d : BitVec 7) (i : BitVec 18) (s : State) (hs : MachineInv s) : OutInv (execMovw h d i s) :=
  issueReg_inv _ _ _ hs

theorem execMovh_inv (h : Bool) (d : BitVec 7) (i : BitVec 18) (s : State) (hs : MachineInv s) : OutInv (execMovh h d i s) :=
  issueReg_inv _ _ _ hs

theorem execSel_inv (h : Bool) (n : Bool) (p : BitVec 3) (d a b : BitVec 7) (s : State) (hs : MachineInv s) : OutInv (execSel h n p d a b s) :=
  issueReg_inv _ _ _ hs

theorem execLea_inv (h : Bool) (sh : BitVec 4) (d a b : BitVec 7) (s : State) (hs : MachineInv s) : OutInv (execLea h sh d a b s) :=
  issueReg_inv _ _ _ hs

theorem execMov_inv (h : Bool) (d a : BitVec 7) (s : State) (hs : MachineInv s) : OutInv (execMov h d a s) :=
  issueReg_inv _ _ _ hs

theorem execMov64_inv (h : Bool) (d a : BitVec 7) (s : State) (hs : MachineInv s) : OutInv (execMov64 h d a s) :=
  issueReg_inv _ _ _ hs

theorem execPmov_inv (h : Bool) (d : BitVec 7) (s : State) (hs : MachineInv s) : OutInv (execPmov h d s) :=
  issueReg_inv _ _ _ hs

theorem execPset_inv (h : Bool) (a b : BitVec 7) (s : State) (hs : MachineInv s) : OutInv (execPset h a b s) :=
  issueReg_inv _ _ _ hs

theorem execSext_inv (h : Bool) (d a w : BitVec 7) (s : State) (hs : MachineInv s) : OutInv (execSext h d a w s) :=
  issueReg_inv _ _ _ hs

theorem execZext_inv (h : Bool) (d a w : BitVec 7) (s : State) (hs : MachineInv s) : OutInv (execZext h d a w s) :=
  issueReg_inv _ _ _ hs

theorem execLd_inv (h : Bool) (d a : BitVec 7) (s : BitVec 3) (o : BitVec 8) (st : State) (hs : MachineInv st) : OutInv (execLd h d a s o st) := by
  unfold execLd
  first
    | (simp (maxDischargeDepth := 9) [hs]; done)
    | (simp +contextual (maxDischargeDepth := 9) [hs, inv_foldl, inv_ite]; done)
    | ((try dsimp only); (repeat' split) <;> (try dsimp only) <;> first | (simp (maxDischargeDepth := 9) [hs, inv_ite]; done) | (simp_all (maxDischargeDepth := 9) [inv_ite]; done))

theorem execLdAcq_inv (h : Bool) (d a : BitVec 7) (s : BitVec 3) (o : BitVec 8) (st : State) (hs : MachineInv st) : OutInv (execLdAcq h d a s o st) := by
  unfold execLdAcq
  first
    | (simp (maxDischargeDepth := 9) [hs]; done)
    | (simp +contextual (maxDischargeDepth := 9) [hs, inv_foldl, inv_ite]; done)
    | ((try dsimp only); (repeat' split) <;> (try dsimp only) <;> first | (simp (maxDischargeDepth := 9) [hs, inv_ite]; done) | (simp_all (maxDischargeDepth := 9) [inv_ite]; done))

theorem execSt_inv (h : Bool) (d a : BitVec 7) (s : BitVec 3) (o : BitVec 8) (st : State) (hs : MachineInv st) : OutInv (execSt h d a s o st) := by
  unfold execSt
  first
    | (simp (maxDischargeDepth := 9) [hs]; done)
    | (simp +contextual (maxDischargeDepth := 9) [hs, inv_foldl, inv_ite]; done)
    | ((try dsimp only); (repeat' split) <;> (try dsimp only) <;> first | (simp (maxDischargeDepth := 9) [hs, inv_ite]; done) | (simp_all (maxDischargeDepth := 9) [inv_ite]; done))

theorem execStRel_inv (h : Bool) (d a : BitVec 7) (s : BitVec 3) (o : BitVec 8) (st : State) (hs : MachineInv st) : OutInv (execStRel h d a s o st) := by
  unfold execStRel
  first
    | (simp (maxDischargeDepth := 9) [hs]; done)
    | (simp +contextual (maxDischargeDepth := 9) [hs, inv_foldl, inv_ite]; done)
    | ((try dsimp only); (repeat' split) <;> (try dsimp only) <;> first | (simp (maxDischargeDepth := 9) [hs, inv_ite]; done) | (simp_all (maxDischargeDepth := 9) [inv_ite]; done))

theorem execLdx_inv (h : Bool) (s : BitVec 3) (d a b : BitVec 7) (st : State) (hs : MachineInv st) : OutInv (execLdx h s d a b st) := by
  unfold execLdx
  first
    | (simp (maxDischargeDepth := 9) [hs]; done)
    | (simp +contextual (maxDischargeDepth := 9) [hs, inv_foldl, inv_ite]; done)
    | ((try dsimp only); (repeat' split) <;> (try dsimp only) <;> first | (simp (maxDischargeDepth := 9) [hs, inv_ite]; done) | (simp_all (maxDischargeDepth := 9) [inv_ite]; done))

theorem execLdxC_inv (h : Bool) (s : BitVec 3) (d a b : BitVec 7) (st : State) (hs : MachineInv st) : OutInv (execLdxC h s d a b st) := by
  unfold execLdxC
  first
    | (simp (maxDischargeDepth := 9) [hs]; done)
    | (simp +contextual (maxDischargeDepth := 9) [hs, inv_foldl, inv_ite]; done)
    | ((try dsimp only); (repeat' split) <;> (try dsimp only) <;> first | (simp (maxDischargeDepth := 9) [hs, inv_ite]; done) | (simp_all (maxDischargeDepth := 9) [inv_ite]; done))

theorem execStx_inv (h : Bool) (s : BitVec 3) (d a b : BitVec 7) (st : State) (hs : MachineInv st) : OutInv (execStx h s d a b st) := by
  unfold execStx
  first
    | (simp (maxDischargeDepth := 9) [hs]; done)
    | (simp +contextual (maxDischargeDepth := 9) [hs, inv_foldl, inv_ite]; done)
    | ((try dsimp only); (repeat' split) <;> (try dsimp only) <;> first | (simp (maxDischargeDepth := 9) [hs, inv_ite]; done) | (simp_all (maxDischargeDepth := 9) [inv_ite]; done))

theorem execTcset_inv (h : Bool) (a b : BitVec 7) (s : State) (hs : MachineInv s) : OutInv (execTcset h a b s) := by
  unfold execTcset
  first
    | (simp (maxDischargeDepth := 9) [hs]; done)
    | (simp +contextual (maxDischargeDepth := 9) [hs, inv_foldl, inv_ite]; done)
    | ((try dsimp only); (repeat' split) <;> (try dsimp only) <;> first | (simp (maxDischargeDepth := 9) [hs, inv_ite]; done) | (simp_all (maxDischargeDepth := 9) [inv_ite]; done))

theorem execTcadd_inv (h : Bool) (a b : BitVec 7) (s : State) (hs : MachineInv s) : OutInv (execTcadd h a b s) := by
  unfold execTcadd
  first
    | (simp (maxDischargeDepth := 9) [hs]; done)
    | (simp +contextual (maxDischargeDepth := 9) [hs, inv_foldl, inv_ite]; done)
    | ((try dsimp only); (repeat' split) <;> (try dsimp only) <;> first | (simp (maxDischargeDepth := 9) [hs, inv_ite]; done) | (simp_all (maxDischargeDepth := 9) [inv_ite]; done))

theorem execTcwait_inv (h : Bool) (a b : BitVec 7) (s : State) (hs : MachineInv s) : OutInv (execTcwait h a b s) := by
  unfold execTcwait
  refine issueWith_inv _ _ _ hs (fun c => ?_)
  repeat (first | refine resInv_bind _ _ (fun _ => ?_) | split)
  all_goals (try dsimp only)
  all_goals (repeat' split)
  all_goals simp (maxDischargeDepth := 9) [hs, inv_ite]

theorem execTcread_inv (h : Bool) (d a : BitVec 7) (s : State) (hs : MachineInv s) : OutInv (execTcread h d a s) := by
  unfold execTcread
  refine issueWith_inv _ _ _ hs (fun c => ?_)
  repeat (first | refine resInv_bind _ _ (fun _ => ?_) | split)
  all_goals (try dsimp only)
  all_goals (repeat' split)
  all_goals simp (maxDischargeDepth := 9) [hs, inv_ite]

end Sys2Proof.Laws
end

