-- ==== Sys2Proof/Laws/Ops.lean ====
section
/-! SUPPORT. Ops.lean: what the shared operations that issue a word answer. -/
namespace Sys2Proof.Laws
open Sys2Proof.Machine Sys2Proof.Safety

/-- What an outcome of a word's meaning makes of the state. -/
def issued (s0 : State) (h : Bool) (c : Ctx) : Iss → State
  | .trap r => trapNow s0 c.t r c.th.blk
  | .fail s r => trapNow s c.t r c.th.blk
  | .done s => past s c.t h
  | .met s f => f (past s c.t h)
  | .jump s target => jumped s c h target
  | .wait s k => waiting s0.nextId s c h k
  | .drain s d => s.modThread c.t (fun th => { th with drain := some d, fetched := none, fetchFrom := none })

@[simp] theorem issued_done (s0 s : State) (h : Bool) (c : Ctx) : issued s0 h c (.done s) = past s c.t h := rfl
@[simp] theorem issued_met (s0 s : State) (h : Bool) (c : Ctx) (f : State → State) : issued s0 h c (.met s f) = f (past s c.t h) := rfl
@[simp] theorem issued_trap (s0 : State) (h : Bool) (c : Ctx) (r : TrapRec) : issued s0 h c (.trap r) = trapNow s0 c.t r c.th.blk := rfl
@[simp] theorem issued_wait (s0 s : State) (h : Bool) (c : Ctx) (k : WaitKind) : issued s0 h c (.wait s k) = waiting s0.nextId s c h k := rfl
@[simp] theorem issued_jump (s0 s : State) (h : Bool) (c : Ctx) (a : DWord) : issued s0 h c (.jump s a) = jumped s c h a := rfl

/-- A word that is executed answers the next state that its meaning gives. -/
theorem issue_executes {s : State} {c : Ctx} (hx : Executes s c) (h : Bool) (bk : Nat) (f : Ctx → State → Iss) (hb : bk = 0 ∨ c.th.blk = []) :
    issue h bk s f = .next (issued s h c (f c s)) := by
  obtain ⟨h1, h2, h3, h4⟩ := hx
  have e : ¬ (bk ≠ 0 ∧ c.th.blk ≠ []) := by
    intro ⟨a, b⟩
    exact hb.elim a b
  unfold issue
  simp only [h1, h2, h3, if_neg e, if_neg h4]
  cases f c s <;> rfl

/-- A word that may not stand in a predicate block traps in one (R37). -/
theorem issue_blocked {s : State} {c : Ctx} (h1 : s.cur = some c.t) (h2 : s.ofThread c.t = some (c.l, c.g)) (h3 : s.thread? c.t = some c.th)
    (h : Bool) (bk : Nat) (f : Ctx → State → Iss) (hk : bk ≠ 0) (hb : c.th.blk ≠ []) :
    issue h bk s f = .next (trapNow s c.t (trapPlain c.th.pc illegalInstr bk) c.th.blk) := by
  unfold issue
  simp only [h1, h2, h3, if_pos (And.intro hk hb)]

/-- A word that a predicate block skips only advances the PC (R36). -/
theorem issue_skips {s : State} {c : Ctx} (hx : Skips s c) (h : Bool) (f : Ctx → State → Iss) : issue h 0 s f = .next (past s c.t h) := by
  obtain ⟨h1, h2, h3, h4⟩ := hx
  unfold issue
  simp only [h1, h2, h3, if_pos h4, ne_eq, not_true_eq_false, false_and, if_false]
  rfl

/-- What a register word, a word of the variable-latency class and a word that acts on the whole state answer, whatever they compute. -/
theorem issueReg_eval {s : State} {c : Ctx} (hx : Executes s c) (h : Bool) (f : Ctx → Res Ctx) :
    issueReg h s f = .next (match f c with
      | .error r => trapNow s c.t r c.th.blk
      | .ok c' => past (putCtx s { c' with t := c.t }) c.t h) := by
  refine (issue_executes hx h 0 _ (.inl rfl)).trans ?_
  cases f c <;> rfl

theorem issueVar_eval {s : State} {c : Ctx} (hx : Executes s c) (h : Bool) (f : Ctx → Res VarRes) :
    issueVar h s f = .next (match f c with
      | .error r => trapNow s c.t r c.th.blk
      | .ok v => past (addResult (putCtx s { v.c with t := c.t }) c.t c.th.pc v.dst v.vals) c.t h) := by
  refine (issue_executes hx h 0 _ (.inl rfl)).trans ?_
  cases f c <;> rfl

theorem issueWith_eval {s : State} {c : Ctx} (hx : Executes s c) (h : Bool) (f : Ctx → State → Res Iss) :
    issueWith h s f = .next (match f c s with
      | .error r => trapNow s c.t r c.th.blk
      | .ok i => issued s h c i) := by
  refine (issue_executes hx h 0 _ (.inl rfl)).trans ?_
  cases f c s <;> rfl

theorem issueReg_ok {s : State} {c c' : Ctx} (hx : Executes s c) (h : Bool) {f : Ctx → Res Ctx} (hf : f c = .ok c') (ht : c'.t = c.t) :
    issueReg h s f = .next (retired s c' h) := by
  refine (issue_executes hx h 0 _ (.inl rfl)).trans ?_
  simp only [hf, issued, retired, putCtx, ht]

theorem issueReg_trap {s : State} {c : Ctx} (hx : Executes s c) (h : Bool) {f : Ctx → Res Ctx} {r : TrapRec} (hf : f c = .error r) :
    issueReg h s f = .next (trapNow s c.t r c.th.blk) := by
  refine (issue_executes hx h 0 _ (.inl rfl)).trans ?_
  simp only [hf, issued]

theorem issueVar_ok {s : State} {c : Ctx} {dst : Dst} {vals : List Word} (hx : Executes s c) (h : Bool) {f : Ctx → Res VarRes}
    (hf : f c = .ok { c := c, dst := dst, vals := vals }) : issueVar h s f = .next (retiredVar s c h dst vals) := by
  refine (issue_executes hx h 0 _ (.inl rfl)).trans ?_
  simp only [hf, issued, retiredVar, putCtx]

theorem issueVar_trap {s : State} {c : Ctx} (hx : Executes s c) (h : Bool) {f : Ctx → Res VarRes} {r : TrapRec} (hf : f c = .error r) :
    issueVar h s f = .next (trapNow s c.t r c.th.blk) := by
  refine (issue_executes hx h 0 _ (.inl rfl)).trans ?_
  simp only [hf, issued]

theorem issueWith_ok {s : State} {c : Ctx} (hx : Executes s c) (h : Bool) {f : Ctx → State → Res Iss} {i : Iss} (hf : f c s = .ok i) :
    issueWith h s f = .next (issued s h c i) := by
  refine (issue_executes hx h 0 _ (.inl rfl)).trans ?_
  simp only [hf]

theorem issueWith_trap {s : State} {c : Ctx} (hx : Executes s c) (h : Bool) {f : Ctx → State → Res Iss} {r : TrapRec} (hf : f c s = .error r) :
    issueWith h s f = .next (trapNow s c.t r c.th.blk) := by
  refine (issue_executes hx h 0 _ (.inl rfl)).trans ?_
  simp only [hf, issued]

@[simp] theorem require_true (r : TrapRec) : require true r = .ok () := rfl
theorem require_ok {b : Bool} (h : b = true) (r : TrapRec) : require b r = .ok () := by rw [h]; rfl
theorem require_error {b : Bool} (h : b = false) (r : TrapRec) : require b r = .error r := by rw [h]; rfl
@[simp] theorem checkThat_none : checkThat none = .ok () := rfl

@[simp] theorem res_ok_bind {α β : Type} (a : α) (f : α → Res β) : ((Except.ok a : Res α) >>= f) = f a := rfl
@[simp] theorem res_error_bind {α β : Type} (r : TrapRec) (f : α → Res β) : ((Except.error r : Res α) >>= f) = .error r := rfl

@[simp] theorem write_t (c : Ctx) (d : Dst) (vs : List Word) : (c.write d vs).t = c.t := by cases d <;> rfl
@[simp] theorem write64_t (c : Ctx) (d : Dst) (v : DWord) : (c.write64 d v).t = c.t := write_t _ _ _
@[simp] theorem setPred_t (c : Ctx) (k : BitVec 3) (v : Bool) : (c.setPred k v).t = c.t := rfl
@[simp] theorem setCond_t (c : Ctx) (code : BitVec 2) (p : BitVec 3) (t : Bool) : (setCond c code p t).t = c.t := rfl

/-- The state after a register word is the state before, but for the groups. -/
theorem retired_groups (s : State) (c : Ctx) (h : Bool) : retired s c h = { s with groups := (retired s c h).groups } := rfl
theorem past_groups (s : State) (t : Tid) (h : Bool) : past s t h = { s with groups := (past s t h).groups } := rfl

end Sys2Proof.Laws
end

