-- ==== Sys2Proof/Laws/PerInstr.lean ====
section
/-! SUPPORT. PerInstr.lean: statements about every instruction as syntax, one lemma for each. RoundTrip: the word of a well-formed
instruction decodes to it (R39–R46); a step that no word encodes has no word. -/
namespace Sys2Proof.Laws
open Sys2Proof

/-! An R word, by its major opcode. -/

theorem decR_0x00 (h : Bool) (mn D A B : Nat) (hn : mn < 16) (hd : D < 128) (ha : A < 128) (hb : B < 128) :
    decodeWord (encR h 0x00 mn D A B) = decSys mn h (BitVec.ofNat 7 D) (BitVec.ofNat 7 A) (BitVec.ofNat 7 B) := by
  obtain ⟨f1, f2, f3, f4, f5, f6⟩ := encR_fields h 0x00 mn D A B (by omega) hn hd ha hb
  rw [decode_0x00 _ f1, f2, f3, f4, f5, f6, BitVec.toNat_ofNat, Nat.mod_eq_of_lt (by omega)]

theorem decB_0x00 (h : Bool) (mn : Nat) (d a b : BitVec 7) (hn : mn < 16) :
    decodeWord (encR h 0x00 mn d.toNat a.toNat b.toNat) = decSys mn h d a b := by
  rw [decR_0x00 h mn _ _ _ hn d.isLt a.isLt b.isLt]; simp

theorem decR_0x01 (h : Bool) (mn D A B : Nat) (hn : mn < 16) (hd : D < 128) (ha : A < 128) (hb : B < 128) :
    decodeWord (encR h 0x01 mn D A B) = decIop mn h (BitVec.ofNat 7 D) (BitVec.ofNat 7 A) (BitVec.ofNat 7 B) := by
  obtain ⟨f1, f2, f3, f4, f5, f6⟩ := encR_fields h 0x01 mn D A B (by omega) hn hd ha hb
  rw [decode_0x01 _ f1, f2, f3, f4, f5, f6, BitVec.toNat_ofNat, Nat.mod_eq_of_lt (by omega)]

theorem decB_0x01 (h : Bool) (mn : Nat) (d a b : BitVec 7) (hn : mn < 16) :
    decodeWord (encR h 0x01 mn d.toNat a.toNat b.toNat) = decIop mn h d a b := by
  rw [decR_0x01 h mn _ _ _ hn d.isLt a.isLt b.isLt]; simp

theorem decR_0x02 (h : Bool) (mn D A B : Nat) (hn : mn < 16) (hd : D < 128) (ha : A < 128) (hb : B < 128) :
    decodeWord (encR h 0x02 mn D A B) = decIopx mn h (BitVec.ofNat 7 D) (BitVec.ofNat 7 A) (BitVec.ofNat 7 B) := by
  obtain ⟨f1, f2, f3, f4, f5, f6⟩ := encR_fields h 0x02 mn D A B (by omega) hn hd ha hb
  rw [decode_0x02 _ f1, f2, f3, f4, f5, f6, BitVec.toNat_ofNat, Nat.mod_eq_of_lt (by omega)]

theorem decB_0x02 (h : Bool) (mn : Nat) (d a b : BitVec 7) (hn : mn < 16) :
    decodeWord (encR h 0x02 mn d.toNat a.toNat b.toNat) = decIopx mn h d a b := by
  rw [decR_0x02 h mn _ _ _ hn d.isLt a.isLt b.isLt]; simp

theorem decR_0x03 (h : Bool) (mn D A B : Nat) (hn : mn < 16) (hd : D < 128) (ha : A < 128) (hb : B < 128) :
    decodeWord (encR h 0x03 mn D A B) = decIcmp mn h (BitVec.ofNat 7 D) (BitVec.ofNat 7 A) (BitVec.ofNat 7 B) := by
  obtain ⟨f1, f2, f3, f4, f5, f6⟩ := encR_fields h 0x03 mn D A B (by omega) hn hd ha hb
  rw [decode_0x03 _ f1, f2, f3, f4, f5, f6, BitVec.toNat_ofNat, Nat.mod_eq_of_lt (by omega)]

theorem decB_0x03 (h : Bool) (mn : Nat) (d a b : BitVec 7) (hn : mn < 16) :
    decodeWord (encR h 0x03 mn d.toNat a.toNat b.toNat) = decIcmp mn h d a b := by
  rw [decR_0x03 h mn _ _ _ hn d.isLt a.isLt b.isLt]; simp

theorem decR_0x0F (h : Bool) (mn D A B : Nat) (hn : mn < 16) (hd : D < 128) (ha : A < 128) (hb : B < 128) :
    decodeWord (encR h 0x0F mn D A B) = decMovx mn h (BitVec.ofNat 7 D) (BitVec.ofNat 7 A) (BitVec.ofNat 7 B) := by
  obtain ⟨f1, f2, f3, f4, f5, f6⟩ := encR_fields h 0x0F mn D A B (by omega) hn hd ha hb
  rw [decode_0x0F _ f1, f2, f3, f4, f5, f6, BitVec.toNat_ofNat, Nat.mod_eq_of_lt (by omega)]

theorem decB_0x0F (h : Bool) (mn : Nat) (d a b : BitVec 7) (hn : mn < 16) :
    decodeWord (encR h 0x0F mn d.toNat a.toNat b.toNat) = decMovx mn h d a b := by
  rw [decR_0x0F h mn _ _ _ hn d.isLt a.isLt b.isLt]; simp

theorem decR_0x10 (h : Bool) (mn D A B : Nat) (hn : mn < 16) (hd : D < 128) (ha : A < 128) (hb : B < 128) :
    decodeWord (encR h 0x10 mn D A B) = decFop mn h (BitVec.ofNat 7 D) (BitVec.ofNat 7 A) (BitVec.ofNat 7 B) := by
  obtain ⟨f1, f2, f3, f4, f5, f6⟩ := encR_fields h 0x10 mn D A B (by omega) hn hd ha hb
  rw [decode_0x10 _ f1, f2, f3, f4, f5, f6, BitVec.toNat_ofNat, Nat.mod_eq_of_lt (by omega)]

theorem decB_0x10 (h : Bool) (mn : Nat) (d a b : BitVec 7) (hn : mn < 16) :
    decodeWord (encR h 0x10 mn d.toNat a.toNat b.toNat) = decFop mn h d a b := by
  rw [decR_0x10 h mn _ _ _ hn d.isLt a.isLt b.isLt]; simp

theorem decR_0x11 (h : Bool) (mn D A B : Nat) (hn : mn < 16) (hd : D < 128) (ha : A < 128) (hb : B < 128) :
    decodeWord (encR h 0x11 mn D A B) = decFma mn h (BitVec.ofNat 7 D) (BitVec.ofNat 7 A) (BitVec.ofNat 7 B) := by
  obtain ⟨f1, f2, f3, f4, f5, f6⟩ := encR_fields h 0x11 mn D A B (by omega) hn hd ha hb
  rw [decode_0x11 _ f1, f2, f3, f4, f5, f6, BitVec.toNat_ofNat, Nat.mod_eq_of_lt (by omega)]

theorem decB_0x11 (h : Bool) (mn : Nat) (d a b : BitVec 7) (hn : mn < 16) :
    decodeWord (encR h 0x11 mn d.toNat a.toNat b.toNat) = decFma mn h d a b := by
  rw [decR_0x11 h mn _ _ _ hn d.isLt a.isLt b.isLt]; simp

theorem decR_0x12 (h : Bool) (mn D A B : Nat) (hn : mn < 16) (hd : D < 128) (ha : A < 128) (hb : B < 128) :
    decodeWord (encR h 0x12 mn D A B) = decHop mn h (BitVec.ofNat 7 D) (BitVec.ofNat 7 A) (BitVec.ofNat 7 B) := by
  obtain ⟨f1, f2, f3, f4, f5, f6⟩ := encR_fields h 0x12 mn D A B (by omega) hn hd ha hb
  rw [decode_0x12 _ f1, f2, f3, f4, f5, f6, BitVec.toNat_ofNat, Nat.mod_eq_of_lt (by omega)]

theorem decB_0x12 (h : Bool) (mn : Nat) (d a b : BitVec 7) (hn : mn < 16) :
    decodeWord (encR h 0x12 mn d.toNat a.toNat b.toNat) = decHop mn h d a b := by
  rw [decR_0x12 h mn _ _ _ hn d.isLt a.isLt b.isLt]; simp

theorem decR_0x13 (h : Bool) (mn D A B : Nat) (hn : mn < 16) (hd : D < 128) (ha : A < 128) (hb : B < 128) :
    decodeWord (encR h 0x13 mn D A B) = decFcmp mn h (BitVec.ofNat 7 D) (BitVec.ofNat 7 A) (BitVec.ofNat 7 B) := by
  obtain ⟨f1, f2, f3, f4, f5, f6⟩ := encR_fields h 0x13 mn D A B (by omega) hn hd ha hb
  rw [decode_0x13 _ f1, f2, f3, f4, f5, f6, BitVec.toNat_ofNat, Nat.mod_eq_of_lt (by omega)]

theorem decB_0x13 (h : Bool) (mn : Nat) (d a b : BitVec 7) (hn : mn < 16) :
    decodeWord (encR h 0x13 mn d.toNat a.toNat b.toNat) = decFcmp mn h d a b := by
  rw [decR_0x13 h mn _ _ _ hn d.isLt a.isLt b.isLt]; simp

theorem decR_0x14 (h : Bool) (mn D A B : Nat) (hn : mn < 16) (hd : D < 128) (ha : A < 128) (hb : B < 128) :
    decodeWord (encR h 0x14 mn D A B) = decXfn mn h (BitVec.ofNat 7 D) (BitVec.ofNat 7 A) (BitVec.ofNat 7 B) := by
  obtain ⟨f1, f2, f3, f4, f5, f6⟩ := encR_fields h 0x14 mn D A B (by omega) hn hd ha hb
  rw [decode_0x14 _ f1, f2, f3, f4, f5, f6, BitVec.toNat_ofNat, Nat.mod_eq_of_lt (by omega)]

theorem decB_0x14 (h : Bool) (mn : Nat) (d a b : BitVec 7) (hn : mn < 16) :
    decodeWord (encR h 0x14 mn d.toNat a.toNat b.toNat) = decXfn mn h d a b := by
  rw [decR_0x14 h mn _ _ _ hn d.isLt a.isLt b.isLt]; simp

theorem decR_0x15 (h : Bool) (mn D A B : Nat) (hn : mn < 16) (hd : D < 128) (ha : A < 128) (hb : B < 128) :
    decodeWord (encR h 0x15 mn D A B) = decCvt mn h (BitVec.ofNat 7 D) (BitVec.ofNat 7 A) (BitVec.ofNat 7 B) := by
  obtain ⟨f1, f2, f3, f4, f5, f6⟩ := encR_fields h 0x15 mn D A B (by omega) hn hd ha hb
  rw [decode_0x15 _ f1, f2, f3, f4, f5, f6, BitVec.toNat_ofNat, Nat.mod_eq_of_lt (by omega)]

theorem decB_0x15 (h : Bool) (mn : Nat) (d a b : BitVec 7) (hn : mn < 16) :
    decodeWord (encR h 0x15 mn d.toNat a.toNat b.toNat) = decCvt mn h d a b := by
  rw [decR_0x15 h mn _ _ _ hn d.isLt a.isLt b.isLt]; simp

theorem decR_0x16 (h : Bool) (mn D A B : Nat) (hn : mn < 16) (hd : D < 128) (ha : A < 128) (hb : B < 128) :
    decodeWord (encR h 0x16 mn D A B) = decDop mn h (BitVec.ofNat 7 D) (BitVec.ofNat 7 A) (BitVec.ofNat 7 B) := by
  obtain ⟨f1, f2, f3, f4, f5, f6⟩ := encR_fields h 0x16 mn D A B (by omega) hn hd ha hb
  rw [decode_0x16 _ f1, f2, f3, f4, f5, f6, BitVec.toNat_ofNat, Nat.mod_eq_of_lt (by omega)]

theorem decB_0x16 (h : Bool) (mn : Nat) (d a b : BitVec 7) (hn : mn < 16) :
    decodeWord (encR h 0x16 mn d.toNat a.toNat b.toNat) = decDop mn h d a b := by
  rw [decR_0x16 h mn _ _ _ hn d.isLt a.isLt b.isLt]; simp

theorem decR_0x17 (h : Bool) (mn D A B : Nat) (hn : mn < 16) (hd : D < 128) (ha : A < 128) (hb : B < 128) :
    decodeWord (encR h 0x17 mn D A B) = decSmx mn h (BitVec.ofNat 7 D) (BitVec.ofNat 7 A) (BitVec.ofNat 7 B) := by
  obtain ⟨f1, f2, f3, f4, f5, f6⟩ := encR_fields h 0x17 mn D A B (by omega) hn hd ha hb
  rw [decode_0x17 _ f1, f2, f3, f4, f5, f6, BitVec.toNat_ofNat, Nat.mod_eq_of_lt (by omega)]

theorem decB_0x17 (h : Bool) (mn : Nat) (d a b : BitVec 7) (hn : mn < 16) :
    decodeWord (encR h 0x17 mn d.toNat a.toNat b.toNat) = decSmx mn h d a b := by
  rw [decR_0x17 h mn _ _ _ hn d.isLt a.isLt b.isLt]; simp

theorem decR_0x1B (h : Bool) (mn D A B : Nat) (hn : mn < 16) (hd : D < 128) (ha : A < 128) (hb : B < 128) :
    decodeWord (encR h 0x1B mn D A B) = decJx mn h (BitVec.ofNat 7 D) (BitVec.ofNat 7 A) (BitVec.ofNat 7 B) := by
  obtain ⟨f1, f2, f3, f4, f5, f6⟩ := encR_fields h 0x1B mn D A B (by omega) hn hd ha hb
  rw [decode_0x1B _ f1, f2, f3, f4, f5, f6, BitVec.toNat_ofNat, Nat.mod_eq_of_lt (by omega)]

theorem decB_0x1B (h : Bool) (mn : Nat) (d a b : BitVec 7) (hn : mn < 16) :
    decodeWord (encR h 0x1B mn d.toNat a.toNat b.toNat) = decJx mn h d a b := by
  rw [decR_0x1B h mn _ _ _ hn d.isLt a.isLt b.isLt]; simp

theorem decR_0x1D (h : Bool) (mn D A B : Nat) (hn : mn < 16) (hd : D < 128) (ha : A < 128) (hb : B < 128) :
    decodeWord (encR h 0x1D mn D A B) = decGrp mn h (BitVec.ofNat 7 D) (BitVec.ofNat 7 A) (BitVec.ofNat 7 B) := by
  obtain ⟨f1, f2, f3, f4, f5, f6⟩ := encR_fields h 0x1D mn D A B (by omega) hn hd ha hb
  rw [decode_0x1D _ f1, f2, f3, f4, f5, f6, BitVec.toNat_ofNat, Nat.mod_eq_of_lt (by omega)]

theorem decB_0x1D (h : Bool) (mn : Nat) (d a b : BitVec 7) (hn : mn < 16) :
    decodeWord (encR h 0x1D mn d.toNat a.toNat b.toNat) = decGrp mn h d a b := by
  rw [decR_0x1D h mn _ _ _ hn d.isLt a.isLt b.isLt]; simp

theorem decR_0x26 (h : Bool) (mn D A B : Nat) (hn : mn < 16) (hd : D < 128) (ha : A < 128) (hb : B < 128) :
    decodeWord (encR h 0x26 mn D A B) = decAtom mn h (BitVec.ofNat 7 D) (BitVec.ofNat 7 A) (BitVec.ofNat 7 B) := by
  obtain ⟨f1, f2, f3, f4, f5, f6⟩ := encR_fields h 0x26 mn D A B (by omega) hn hd ha hb
  rw [decode_0x26 _ f1, f2, f3, f4, f5, f6, BitVec.toNat_ofNat, Nat.mod_eq_of_lt (by omega)]

theorem decB_0x26 (h : Bool) (mn : Nat) (d a b : BitVec 7) (hn : mn < 16) :
    decodeWord (encR h 0x26 mn d.toNat a.toNat b.toNat) = decAtom mn h d a b := by
  rw [decR_0x26 h mn _ _ _ hn d.isLt a.isLt b.isLt]; simp

theorem decR_0x27 (h : Bool) (mn D A B : Nat) (hn : mn < 16) (hd : D < 128) (ha : A < 128) (hb : B < 128) :
    decodeWord (encR h 0x27 mn D A B) = decAtomAr mn h (BitVec.ofNat 7 D) (BitVec.ofNat 7 A) (BitVec.ofNat 7 B) := by
  obtain ⟨f1, f2, f3, f4, f5, f6⟩ := encR_fields h 0x27 mn D A B (by omega) hn hd ha hb
  rw [decode_0x27 _ f1, f2, f3, f4, f5, f6, BitVec.toNat_ofNat, Nat.mod_eq_of_lt (by omega)]

theorem decB_0x27 (h : Bool) (mn : Nat) (d a b : BitVec 7) (hn : mn < 16) :
    decodeWord (encR h 0x27 mn d.toNat a.toNat b.toNat) = decAtomAr mn h d a b := by
  rw [decR_0x27 h mn _ _ _ hn d.isLt a.isLt b.isLt]; simp

theorem decR_0x28 (h : Bool) (mn D A B : Nat) (hn : mn < 16) (hd : D < 128) (ha : A < 128) (hb : B < 128) :
    decodeWord (encR h 0x28 mn D A B) = decFence mn h (BitVec.ofNat 7 D) (BitVec.ofNat 7 A) (BitVec.ofNat 7 B) := by
  obtain ⟨f1, f2, f3, f4, f5, f6⟩ := encR_fields h 0x28 mn D A B (by omega) hn hd ha hb
  rw [decode_0x28 _ f1, f2, f3, f4, f5, f6, BitVec.toNat_ofNat, Nat.mod_eq_of_lt (by omega)]

theorem decB_0x28 (h : Bool) (mn : Nat) (d a b : BitVec 7) (hn : mn < 16) :
    decodeWord (encR h 0x28 mn d.toNat a.toNat b.toNat) = decFence mn h d a b := by
  rw [decR_0x28 h mn _ _ _ hn d.isLt a.isLt b.isLt]; simp

theorem decR_0x29 (h : Bool) (mn D A B : Nat) (hn : mn < 16) (hd : D < 128) (ha : A < 128) (hb : B < 128) :
    decodeWord (encR h 0x29 mn D A B) = decCctl mn h (BitVec.ofNat 7 D) (BitVec.ofNat 7 A) (BitVec.ofNat 7 B) := by
  obtain ⟨f1, f2, f3, f4, f5, f6⟩ := encR_fields h 0x29 mn D A B (by omega) hn hd ha hb
  rw [decode_0x29 _ f1, f2, f3, f4, f5, f6, BitVec.toNat_ofNat, Nat.mod_eq_of_lt (by omega)]

theorem decB_0x29 (h : Bool) (mn : Nat) (d a b : BitVec 7) (hn : mn < 16) :
    decodeWord (encR h 0x29 mn d.toNat a.toNat b.toNat) = decCctl mn h d a b := by
  rw [decR_0x29 h mn _ _ _ hn d.isLt a.isLt b.isLt]; simp

theorem decR_0x2A (h : Bool) (mn D A B : Nat) (hn : mn < 16) (hd : D < 128) (ha : A < 128) (hb : B < 128) :
    decodeWord (encR h 0x2A mn D A B) = decTile mn h (BitVec.ofNat 7 D) (BitVec.ofNat 7 A) (BitVec.ofNat 7 B) := by
  obtain ⟨f1, f2, f3, f4, f5, f6⟩ := encR_fields h 0x2A mn D A B (by omega) hn hd ha hb
  rw [decode_0x2A _ f1, f2, f3, f4, f5, f6, BitVec.toNat_ofNat, Nat.mod_eq_of_lt (by omega)]

theorem decB_0x2A (h : Bool) (mn : Nat) (d a b : BitVec 7) (hn : mn < 16) :
    decodeWord (encR h 0x2A mn d.toNat a.toNat b.toNat) = decTile mn h d a b := by
  rw [decR_0x2A h mn _ _ _ hn d.isLt a.isLt b.isLt]; simp

theorem decR_0x2B (h : Bool) (mn D A B : Nat) (hn : mn < 16) (hd : D < 128) (ha : A < 128) (hb : B < 128) :
    decodeWord (encR h 0x2B mn D A B) = decTrig mn h (BitVec.ofNat 7 D) (BitVec.ofNat 7 A) (BitVec.ofNat 7 B) := by
  obtain ⟨f1, f2, f3, f4, f5, f6⟩ := encR_fields h 0x2B mn D A B (by omega) hn hd ha hb
  rw [decode_0x2B _ f1, f2, f3, f4, f5, f6, BitVec.toNat_ofNat, Nat.mod_eq_of_lt (by omega)]

theorem decB_0x2B (h : Bool) (mn : Nat) (d a b : BitVec 7) (hn : mn < 16) :
    decodeWord (encR h 0x2B mn d.toNat a.toNat b.toNat) = decTrig mn h d a b := by
  rw [decR_0x2B h mn _ _ _ hn d.isLt a.isLt b.isLt]; simp

theorem decR_0x30 (h : Bool) (mn D A B : Nat) (hn : mn < 16) (hd : D < 128) (ha : A < 128) (hb : B < 128) :
    decodeWord (encR h 0x30 mn D A B) = decCopy mn h (BitVec.ofNat 7 D) (BitVec.ofNat 7 A) (BitVec.ofNat 7 B) := by
  obtain ⟨f1, f2, f3, f4, f5, f6⟩ := encR_fields h 0x30 mn D A B (by omega) hn hd ha hb
  rw [decode_0x30 _ f1, f2, f3, f4, f5, f6, BitVec.toNat_ofNat, Nat.mod_eq_of_lt (by omega)]

theorem decB_0x30 (h : Bool) (mn : Nat) (d a b : BitVec 7) (hn : mn < 16) :
    decodeWord (encR h 0x30 mn d.toNat a.toNat b.toNat) = decCopy mn h d a b := by
  rw [decR_0x30 h mn _ _ _ hn d.isLt a.isLt b.isLt]; simp

theorem decR_0x31 (h : Bool) (mn D A B : Nat) (hn : mn < 16) (hd : D < 128) (ha : A < 128) (hb : B < 128) :
    decodeWord (encR h 0x31 mn D A B) = decMma mn h (BitVec.ofNat 7 D) (BitVec.ofNat 7 A) (BitVec.ofNat 7 B) := by
  obtain ⟨f1, f2, f3, f4, f5, f6⟩ := encR_fields h 0x31 mn D A B (by omega) hn hd ha hb
  rw [decode_0x31 _ f1, f2, f3, f4, f5, f6, BitVec.toNat_ofNat, Nat.mod_eq_of_lt (by omega)]

theorem decB_0x31 (h : Bool) (mn : Nat) (d a b : BitVec 7) (hn : mn < 16) :
    decodeWord (encR h 0x31 mn d.toNat a.toNat b.toNat) = decMma mn h d a b := by
  rw [decR_0x31 h mn _ _ _ hn d.isLt a.isLt b.isLt]; simp

theorem decR_0x32 (h : Bool) (mn D A B : Nat) (hn : mn < 16) (hd : D < 128) (ha : A < 128) (hb : B < 128) :
    decodeWord (encR h 0x32 mn D A B) = decBaton mn h (BitVec.ofNat 7 D) (BitVec.ofNat 7 A) (BitVec.ofNat 7 B) := by
  obtain ⟨f1, f2, f3, f4, f5, f6⟩ := encR_fields h 0x32 mn D A B (by omega) hn hd ha hb
  rw [decode_0x32 _ f1, f2, f3, f4, f5, f6, BitVec.toNat_ofNat, Nat.mod_eq_of_lt (by omega)]

theorem decB_0x32 (h : Bool) (mn : Nat) (d a b : BitVec 7) (hn : mn < 16) :
    decodeWord (encR h 0x32 mn d.toNat a.toNat b.toNat) = decBaton mn h d a b := by
  rw [decR_0x32 h mn _ _ _ hn d.isLt a.isLt b.isLt]; simp

theorem decR_0x33 (h : Bool) (mn D A B : Nat) (hn : mn < 16) (hd : D < 128) (ha : A < 128) (hb : B < 128) :
    decodeWord (encR h 0x33 mn D A B) = decTask mn h (BitVec.ofNat 7 D) (BitVec.ofNat 7 A) (BitVec.ofNat 7 B) := by
  obtain ⟨f1, f2, f3, f4, f5, f6⟩ := encR_fields h 0x33 mn D A B (by omega) hn hd ha hb
  rw [decode_0x33 _ f1, f2, f3, f4, f5, f6, BitVec.toNat_ofNat, Nat.mod_eq_of_lt (by omega)]

theorem decB_0x33 (h : Bool) (mn : Nat) (d a b : BitVec 7) (hn : mn < 16) :
    decodeWord (encR h 0x33 mn d.toNat a.toNat b.toNat) = decTask mn h d a b := by
  rw [decR_0x33 h mn _ _ _ hn d.isLt a.isLt b.isLt]; simp

theorem decR_0x34 (h : Bool) (mn D A B : Nat) (hn : mn < 16) (hd : D < 128) (ha : A < 128) (hb : B < 128) :
    decodeWord (encR h 0x34 mn D A B) = decLnch mn h (BitVec.ofNat 7 D) (BitVec.ofNat 7 A) (BitVec.ofNat 7 B) := by
  obtain ⟨f1, f2, f3, f4, f5, f6⟩ := encR_fields h 0x34 mn D A B (by omega) hn hd ha hb
  rw [decode_0x34 _ f1, f2, f3, f4, f5, f6, BitVec.toNat_ofNat, Nat.mod_eq_of_lt (by omega)]

theorem decB_0x34 (h : Bool) (mn : Nat) (d a b : BitVec 7) (hn : mn < 16) :
    decodeWord (encR h 0x34 mn d.toNat a.toNat b.toNat) = decLnch mn h d a b := by
  rw [decR_0x34 h mn _ _ _ hn d.isLt a.isLt b.isLt]; simp

theorem decR_0x35 (h : Bool) (mn D A B : Nat) (hn : mn < 16) (hd : D < 128) (ha : A < 128) (hb : B < 128) :
    decodeWord (encR h 0x35 mn D A B) = decAq mn h (BitVec.ofNat 7 D) (BitVec.ofNat 7 A) (BitVec.ofNat 7 B) := by
  obtain ⟨f1, f2, f3, f4, f5, f6⟩ := encR_fields h 0x35 mn D A B (by omega) hn hd ha hb
  rw [decode_0x35 _ f1, f2, f3, f4, f5, f6, BitVec.toNat_ofNat, Nat.mod_eq_of_lt (by omega)]

theorem decB_0x35 (h : Bool) (mn : Nat) (d a b : BitVec 7) (hn : mn < 16) :
    decodeWord (encR h 0x35 mn d.toNat a.toNat b.toNat) = decAq mn h d a b := by
  rw [decR_0x35 h mn _ _ _ hn d.isLt a.isLt b.isLt]; simp

theorem decR_0x36 (h : Bool) (mn D A B : Nat) (hn : mn < 16) (hd : D < 128) (ha : A < 128) (hb : B < 128) :
    decodeWord (encR h 0x36 mn D A B) = decNet mn h (BitVec.ofNat 7 D) (BitVec.ofNat 7 A) (BitVec.ofNat 7 B) := by
  obtain ⟨f1, f2, f3, f4, f5, f6⟩ := encR_fields h 0x36 mn D A B (by omega) hn hd ha hb
  rw [decode_0x36 _ f1, f2, f3, f4, f5, f6, BitVec.toNat_ofNat, Nat.mod_eq_of_lt (by omega)]

theorem decB_0x36 (h : Bool) (mn : Nat) (d a b : BitVec 7) (hn : mn < 16) :
    decodeWord (encR h 0x36 mn d.toNat a.toNat b.toNat) = decNet mn h d a b := by
  rw [decR_0x36 h mn _ _ _ hn d.isLt a.isLt b.isLt]; simp

theorem decR_0x37 (h : Bool) (mn D A B : Nat) (hn : mn < 16) (hd : D < 128) (ha : A < 128) (hb : B < 128) :
    decodeWord (encR h 0x37 mn D A B) = decColl mn h (BitVec.ofNat 7 D) (BitVec.ofNat 7 A) (BitVec.ofNat 7 B) := by
  obtain ⟨f1, f2, f3, f4, f5, f6⟩ := encR_fields h 0x37 mn D A B (by omega) hn hd ha hb
  rw [decode_0x37 _ f1, f2, f3, f4, f5, f6, BitVec.toNat_ofNat, Nat.mod_eq_of_lt (by omega)]

theorem decB_0x37 (h : Bool) (mn : Nat) (d a b : BitVec 7) (hn : mn < 16) :
    decodeWord (encR h 0x37 mn d.toNat a.toNat b.toNat) = decColl mn h d a b := by
  rw [decR_0x37 h mn _ _ _ hn d.isLt a.isLt b.isLt]; simp

/-! Fields inside a 7-bit field. -/

theorem part_pred (c : BitVec 2) (p : BitVec 3) :
    part (BitVec.ofNat 7 (c.toNat * 2 ^ 5 + p.toNat)) 5 2 = c ∧ part (BitVec.ofNat 7 (c.toNat * 2 ^ 5 + p.toNat)) 0 3 = p
      ∧ part (BitVec.ofNat 7 (c.toNat * 2 ^ 5 + p.toNat)) 3 2 = 0 ∧ c.toNat * 2 ^ 5 + p.toNat < 128 := by
  have := c.isLt; have := p.isLt
  refine ⟨?_, ?_, ?_, by omega⟩ <;> (apply BitVec.eq_of_toNat_eq; simp only [part, BitVec.toNat_ofNat, BitVec.reduceToNat]; omega)

theorem part_cvt (k : BitVec 3) (s : Bool) (r : BitVec 3) :
    part (BitVec.ofNat 7 (k.toNat * 2 ^ 4 + hbit s * 2 ^ 3 + r.toNat)) 4 3 = k
      ∧ (part (BitVec.ofNat 7 (k.toNat * 2 ^ 4 + hbit s * 2 ^ 3 + r.toNat)) 3 1 == 1) = s
      ∧ part (BitVec.ofNat 7 (k.toNat * 2 ^ 4 + hbit s * 2 ^ 3 + r.toNat)) 0 3 = r
      ∧ k.toNat * 2 ^ 4 + hbit s * 2 ^ 3 + r.toNat < 128 := by
  have := k.isLt; have := r.isLt; have := hbit_le s
  refine ⟨?_, ?_, ?_, by omega⟩
  · apply BitVec.eq_of_toNat_eq; simp only [part, BitVec.toNat_ofNat]; omega
  · have : part (BitVec.ofNat 7 (k.toNat * 2 ^ 4 + hbit s * 2 ^ 3 + r.toNat)) 3 1 = BitVec.ofNat 1 (hbit s) := by
      apply BitVec.eq_of_toNat_eq; simp only [part, BitVec.toNat_ofNat]; omega
    rw [this, hbit_beq]
  · apply BitVec.eq_of_toNat_eq; simp only [part, BitVec.toNat_ofNat]; omega

theorem part_route (l : BitVec 3) (n : BitVec 4) :
    part (BitVec.ofNat 7 (l.toNat * 2 ^ 4 + n.toNat)) 4 3 = l ∧ part (BitVec.ofNat 7 (l.toNat * 2 ^ 4 + n.toNat)) 0 4 = n
      ∧ l.toNat * 2 ^ 4 + n.toNat < 128 := by
  have := l.isLt; have := n.isLt
  refine ⟨?_, ?_, by omega⟩ <;> (apply BitVec.eq_of_toNat_eq; simp only [part, BitVec.toNat_ofNat]; omega)

theorem part_bit (u : Bool) :
    (part (BitVec.ofNat 7 (hbit u)) 0 1 == 1) = u ∧ part (BitVec.ofNat 7 (hbit u)) 1 6 = 0 ∧ hbit u < 128 := by
  cases u <;> decide

theorem part_low (k : BitVec 3) :
    part (BitVec.setWidth 7 k) 0 3 = k ∧ part (BitVec.setWidth 7 k) 3 4 = 0 ∧ k.toNat < 128 := by
  have := k.isLt
  refine ⟨?_, ?_, by omega⟩ <;> (apply BitVec.eq_of_toNat_eq; simp only [part, BitVec.toNat_setWidth, BitVec.toNat_ofNat, BitVec.reduceToNat]; omega)

theorem need_true (r : Nat) (k : Except Reject Instr) : need true r k = k := rfl

/-- The one check of an instruction that has one. -/
theorem wf_single {i : Instr} {r : Nat} {c : Bool} (e : Machine.formChecks i = [(r, c)]) (h : i.wf = true) : c = true := by
  have := List.all_eq_true.mp h (r, c) (by rw [e]; exact List.mem_singleton_self _)
  simpa using this

namespace RoundTrip

/-- The word of a well-formed instruction decodes to it. -/
def Statement (i : Instr) : Prop := ∀ w, i.wf = true → encode i = some w → decodeWord w = .ok i

theorem nop (h : Bool) : Statement (.nop h) := fun x hw he => by
  rw [← Option.some.inj he]; exact (decB_0x00 h 0 0 0 0 (by decide)).trans (checked_of_wf hw)
theorem exit (h : Bool) : Statement (.exit h) := fun x hw he => by
  rw [← Option.some.inj he]; exact (decB_0x00 h 1 0 0 0 (by decide)).trans (checked_of_wf hw)
theorem trap (h : Bool) (b : BitVec 7) : Statement (.trap h b) := fun x hw he => by
  rw [← Option.some.inj he]; exact (decB_0x00 h 2 0 0 b (by decide)).trans (checked_of_wf hw)
theorem brk (h : Bool) (b : BitVec 7) : Statement (.brk h b) := fun x hw he => by
  rw [← Option.some.inj he]; exact (decB_0x00 h 3 0 0 b (by decide)).trans (checked_of_wf hw)
theorem srd (h : Bool) (d a b : BitVec 7) : Statement (.srd h d a b) := fun x hw he => by
  rw [← Option.some.inj he]; exact (decB_0x00 h 4 d a b (by decide)).trans (checked_of_wf hw)
theorem swr (h : Bool) (d a b : BitVec 7) : Statement (.swr h d a b) := fun x hw he => by
  rw [← Option.some.inj he]; exact (decB_0x00 h 5 d a b (by decide)).trans (checked_of_wf hw)
theorem wbase (h : Bool) (b : BitVec 7) : Statement (.wbase h b) := fun x hw he => by
  rw [← Option.some.inj he]; exact (decB_0x00 h 6 0 0 b (by decide)).trans (checked_of_wf hw)
theorem ubase (h : Bool) (b : BitVec 7) : Statement (.ubase h b) := fun x hw he => by
  rw [← Option.some.inj he]; exact (decB_0x00 h 7 0 0 b (by decide)).trans (checked_of_wf hw)
theorem yield (h : Bool) : Statement (.yield h) := fun x hw he => by
  rw [← Option.some.inj he]; exact (decB_0x00 h 8 0 0 0 (by decide)).trans (checked_of_wf hw)
theorem join (h : Bool) (a : BitVec 7) : Statement (.join h a) := fun x hw he => by
  rw [← Option.some.inj he]; exact (decB_0x00 h 9 0 a 0 (by decide)).trans (checked_of_wf hw)
theorem bar (h : Bool) (b : BitVec 7) : Statement (.bar h b) := fun x hw he => by
  rw [← Option.some.inj he]; exact (decB_0x00 h 10 0 0 b (by decide)).trans (checked_of_wf hw)
theorem arrive (h : Bool) (d b : BitVec 7) : Statement (.arrive h d b) := fun x hw he => by
  rw [← Option.some.inj he]; exact (decB_0x00 h 11 d 0 b (by decide)).trans (checked_of_wf hw)
theorem bwait (h : Bool) (a b : BitVec 7) : Statement (.bwait h a b) := fun x hw he => by
  rw [← Option.some.inj he]; exact (decB_0x00 h 12 0 a b (by decide)).trans (checked_of_wf hw)
theorem nap (h : Bool) (a : BitVec 7) : Statement (.nap h a) := fun x hw he => by
  rw [← Option.some.inj he]; exact (decB_0x00 h 13 0 a 0 (by decide)).trans (checked_of_wf hw)
theorem fmtld (h : Bool) (d a : BitVec 7) : Statement (.fmtld h d a) := fun x hw he => by
  rw [← Option.some.inj he]; exact (decB_0x00 h 14 d a 0 (by decide)).trans (checked_of_wf hw)
theorem tret (h : Bool) (b : BitVec 7) : Statement (.tret h b) := fun x hw he => by
  rw [← Option.some.inj he]; exact (decB_0x00 h 15 0 0 b (by decide)).trans (checked_of_wf hw)
theorem add (h : Bool) (d a b : BitVec 7) : Statement (.add h d a b) := fun x hw he => by
  rw [← Option.some.inj he]; exact (decB_0x01 h 0 d a b (by decide)).trans (checked_of_wf hw)
theorem sub (h : Bool) (d a b : BitVec 7) : Statement (.sub h d a b) := fun x hw he => by
  rw [← Option.some.inj he]; exact (decB_0x01 h 1 d a b (by decide)).trans (checked_of_wf hw)
theorem mul (h : Bool) (d a b : BitVec 7) : Statement (.mul h d a b) := fun x hw he => by
  rw [← Option.some.inj he]; exact (decB_0x01 h 2 d a b (by decide)).trans (checked_of_wf hw)
theorem mulh (h : Bool) (d a b : BitVec 7) : Statement (.mulh h d a b) := fun x hw he => by
  rw [← Option.some.inj he]; exact (decB_0x01 h 3 d a b (by decide)).trans (checked_of_wf hw)
theorem mulhu (h : Bool) (d a b : BitVec 7) : Statement (.mulhu h d a b) := fun x hw he => by
  rw [← Option.some.inj he]; exact (decB_0x01 h 4 d a b (by decide)).trans (checked_of_wf hw)
theorem and (h : Bool) (d a b : BitVec 7) : Statement (.and h d a b) := fun x hw he => by
  rw [← Option.some.inj he]; exact (decB_0x01 h 5 d a b (by decide)).trans (checked_of_wf hw)
theorem or (h : Bool) (d a b : BitVec 7) : Statement (.or h d a b) := fun x hw he => by
  rw [← Option.some.inj he]; exact (decB_0x01 h 6 d a b (by decide)).trans (checked_of_wf hw)
theorem xor (h : Bool) (d a b : BitVec 7) : Statement (.xor h d a b) := fun x hw he => by
  rw [← Option.some.inj he]; exact (decB_0x01 h 7 d a b (by decide)).trans (checked_of_wf hw)
theorem andn (h : Bool) (d a b : BitVec 7) : Statement (.andn h d a b) := fun x hw he => by
  rw [← Option.some.inj he]; exact (decB_0x01 h 8 d a b (by decide)).trans (checked_of_wf hw)
theorem shl (h : Bool) (d a b : BitVec 7) : Statement (.shl h d a b) := fun x hw he => by
  rw [← Option.some.inj he]; exact (decB_0x01 h 9 d a b (by decide)).trans (checked_of_wf hw)
theorem shr (h : Bool) (d a b : BitVec 7) : Statement (.shr h d a b) := fun x hw he => by
  rw [← Option.some.inj he]; exact (decB_0x01 h 10 d a b (by decide)).trans (checked_of_wf hw)
theorem sar (h : Bool) (d a b : BitVec 7) : Statement (.sar h d a b) := fun x hw he => by
  rw [← Option.some.inj he]; exact (decB_0x01 h 11 d a b (by decide)).trans (checked_of_wf hw)
theorem min (h : Bool) (d a b : BitVec 7) : Statement (.min h d a b) := fun x hw he => by
  rw [← Option.some.inj he]; exact (decB_0x01 h 12 d a b (by decide)).trans (checked_of_wf hw)
theorem max (h : Bool) (d a b : BitVec 7) : Statement (.max h d a b) := fun x hw he => by
  rw [← Option.some.inj he]; exact (decB_0x01 h 13 d a b (by decide)).trans (checked_of_wf hw)
theorem minu (h : Bool) (d a b : BitVec 7) : Statement (.minu h d a b) := fun x hw he => by
  rw [← Option.some.inj he]; exact (decB_0x01 h 14 d a b (by decide)).trans (checked_of_wf hw)
theorem maxu (h : Bool) (d a b : BitVec 7) : Statement (.maxu h d a b) := fun x hw he => by
  rw [← Option.some.inj he]; exact (decB_0x01 h 15 d a b (by decide)).trans (checked_of_wf hw)
theorem add64 (h : Bool) (d a b : BitVec 7) : Statement (.add64 h d a b) := fun x hw he => by
  rw [← Option.some.inj he]; exact (decB_0x02 h 0 d a b (by decide)).trans (checked_of_wf hw)
theorem sub64 (h : Bool) (d a b : BitVec 7) : Statement (.sub64 h d a b) := fun x hw he => by
  rw [← Option.some.inj he]; exact (decB_0x02 h 1 d a b (by decide)).trans (checked_of_wf hw)
theorem mul64 (h : Bool) (d a b : BitVec 7) : Statement (.mul64 h d a b) := fun x hw he => by
  rw [← Option.some.inj he]; exact (decB_0x02 h 2 d a b (by decide)).trans (checked_of_wf hw)
theorem mad (h : Bool) (d a b : BitVec 7) : Statement (.mad h d a b) := fun x hw he => by
  rw [← Option.some.inj he]; exact (decB_0x02 h 3 d a b (by decide)).trans (checked_of_wf hw)
theorem madw (h : Bool) (d a b : BitVec 7) : Statement (.madw h d a b) := fun x hw he => by
  rw [← Option.some.inj he]; exact (decB_0x02 h 4 d a b (by decide)).trans (checked_of_wf hw)
theorem clz (h : Bool) (d a : BitVec 7) : Statement (.clz h d a) := fun x hw he => by
  rw [← Option.some.inj he]; exact (decB_0x02 h 5 d a 0 (by decide)).trans (checked_of_wf hw)
theorem popc (h : Bool) (d a : BitVec 7) : Statement (.popc h d a) := fun x hw he => by
  rw [← Option.some.inj he]; exact (decB_0x02 h 6 d a 0 (by decide)).trans (checked_of_wf hw)
theorem brev (h : Bool) (d a : BitVec 7) : Statement (.brev h d a) := fun x hw he => by
  rw [← Option.some.inj he]; exact (decB_0x02 h 7 d a 0 (by decide)).trans (checked_of_wf hw)
theorem bfe (h : Bool) (d a b : BitVec 7) : Statement (.bfe h d a b) := fun x hw he => by
  rw [← Option.some.inj he]; exact (decB_0x02 h 8 d a b (by decide)).trans (checked_of_wf hw)
theorem bfi (h : Bool) (d a b : BitVec 7) : Statement (.bfi h d a b) := fun x hw he => by
  rw [← Option.some.inj he]; exact (decB_0x02 h 9 d a b (by decide)).trans (checked_of_wf hw)
theorem prmt (h : Bool) (d a b : BitVec 7) : Statement (.prmt h d a b) := fun x hw he => by
  rw [← Option.some.inj he]; exact (decB_0x02 h 10 d a b (by decide)).trans (checked_of_wf hw)
theorem rol (h : Bool) (d a b : BitVec 7) : Statement (.rol h d a b) := fun x hw he => by
  rw [← Option.some.inj he]; exact (decB_0x02 h 11 d a b (by decide)).trans (checked_of_wf hw)
theorem div (h : Bool) (d a b : BitVec 7) : Statement (.div h d a b) := fun x hw he => by
  rw [← Option.some.inj he]; exact (decB_0x02 h 12 d a b (by decide)).trans (checked_of_wf hw)
theorem divu (h : Bool) (d a b : BitVec 7) : Statement (.divu h d a b) := fun x hw he => by
  rw [← Option.some.inj he]; exact (decB_0x02 h 13 d a b (by decide)).trans (checked_of_wf hw)
theorem rem (h : Bool) (d a b : BitVec 7) : Statement (.rem h d a b) := fun x hw he => by
  rw [← Option.some.inj he]; exact (decB_0x02 h 14 d a b (by decide)).trans (checked_of_wf hw)
theorem remu (h : Bool) (d a b : BitVec 7) : Statement (.remu h d a b) := fun x hw he => by
  rw [← Option.some.inj he]; exact (decB_0x02 h 15 d a b (by decide)).trans (checked_of_wf hw)
theorem icmpEq (h : Bool) (c : BitVec 2) (p : BitVec 3) (a b : BitVec 7) : Statement (.icmpEq h c p a b) := fun x hw he => by
  obtain ⟨e1, e2, e3, e4⟩ := part_pred c p
  rw [← Option.some.inj he]
  refine (decR_0x03 h 0 _ _ _ (by decide) e4 a.isLt b.isLt).trans ?_
  simp only [decIcmp, e1, e2, e3, BitVec.ofNat_toNat, BitVec.setWidth_eq]
  exact checked_of_wf hw
theorem icmpNe (h : Bool) (c : BitVec 2) (p : BitVec 3) (a b : BitVec 7) : Statement (.icmpNe h c p a b) := fun x hw he => by
  obtain ⟨e1, e2, e3, e4⟩ := part_pred c p
  rw [← Option.some.inj he]
  refine (decR_0x03 h 1 _ _ _ (by decide) e4 a.isLt b.isLt).trans ?_
  simp only [decIcmp, e1, e2, e3, BitVec.ofNat_toNat, BitVec.setWidth_eq]
  exact checked_of_wf hw
theorem icmpLt (h : Bool) (c : BitVec 2) (p : BitVec 3) (a b : BitVec 7) : Statement (.icmpLt h c p a b) := fun x hw he => by
  obtain ⟨e1, e2, e3, e4⟩ := part_pred c p
  rw [← Option.some.inj he]
  refine (decR_0x03 h 2 _ _ _ (by decide) e4 a.isLt b.isLt).trans ?_
  simp only [decIcmp, e1, e2, e3, BitVec.ofNat_toNat, BitVec.setWidth_eq]
  exact checked_of_wf hw
theorem icmpLe (h : Bool) (c : BitVec 2) (p : BitVec 3) (a b : BitVec 7) : Statement (.icmpLe h c p a b) := fun x hw he => by
  obtain ⟨e1, e2, e3, e4⟩ := part_pred c p
  rw [← Option.some.inj he]
  refine (decR_0x03 h 3 _ _ _ (by decide) e4 a.isLt b.isLt).trans ?_
  simp only [decIcmp, e1, e2, e3, BitVec.ofNat_toNat, BitVec.setWidth_eq]
  exact checked_of_wf hw
theorem icmpGt (h : Bool) (c : BitVec 2) (p : BitVec 3) (a b : BitVec 7) : Statement (.icmpGt h c p a b) := fun x hw he => by
  obtain ⟨e1, e2, e3, e4⟩ := part_pred c p
  rw [← Option.some.inj he]
  refine (decR_0x03 h 4 _ _ _ (by decide) e4 a.isLt b.isLt).trans ?_
  simp only [decIcmp, e1, e2, e3, BitVec.ofNat_toNat, BitVec.setWidth_eq]
  exact checked_of_wf hw
theorem icmpGe (h : Bool) (c : BitVec 2) (p : BitVec 3) (a b : BitVec 7) : Statement (.icmpGe h c p a b) := fun x hw he => by
  obtain ⟨e1, e2, e3, e4⟩ := part_pred c p
  rw [← Option.some.inj he]
  refine (decR_0x03 h 5 _ _ _ (by decide) e4 a.isLt b.isLt).trans ?_
  simp only [decIcmp, e1, e2, e3, BitVec.ofNat_toNat, BitVec.setWidth_eq]
  exact checked_of_wf hw
theorem icmpLtu (h : Bool) (c : BitVec 2) (p : BitVec 3) (a b : BitVec 7) : Statement (.icmpLtu h c p a b) := fun x hw he => by
  obtain ⟨e1, e2, e3, e4⟩ := part_pred c p
  rw [← Option.some.inj he]
  refine (decR_0x03 h 6 _ _ _ (by decide) e4 a.isLt b.isLt).trans ?_
  simp only [decIcmp, e1, e2, e3, BitVec.ofNat_toNat, BitVec.setWidth_eq]
  exact checked_of_wf hw
theorem icmpLeu (h : Bool) (c : BitVec 2) (p : BitVec 3) (a b : BitVec 7) : Statement (.icmpLeu h c p a b) := fun x hw he => by
  obtain ⟨e1, e2, e3, e4⟩ := part_pred c p
  rw [← Option.some.inj he]
  refine (decR_0x03 h 7 _ _ _ (by decide) e4 a.isLt b.isLt).trans ?_
  simp only [decIcmp, e1, e2, e3, BitVec.ofNat_toNat, BitVec.setWidth_eq]
  exact checked_of_wf hw
theorem icmpGtu (h : Bool) (c : BitVec 2) (p : BitVec 3) (a b : BitVec 7) : Statement (.icmpGtu h c p a b) := fun x hw he => by
  obtain ⟨e1, e2, e3, e4⟩ := part_pred c p
  rw [← Option.some.inj he]
  refine (decR_0x03 h 8 _ _ _ (by decide) e4 a.isLt b.isLt).trans ?_
  simp only [decIcmp, e1, e2, e3, BitVec.ofNat_toNat, BitVec.setWidth_eq]
  exact checked_of_wf hw
theorem icmpGeu (h : Bool) (c : BitVec 2) (p : BitVec 3) (a b : BitVec 7) : Statement (.icmpGeu h c p a b) := fun x hw he => by
  obtain ⟨e1, e2, e3, e4⟩ := part_pred c p
  rw [← Option.some.inj he]
  refine (decR_0x03 h 9 _ _ _ (by decide) e4 a.isLt b.isLt).trans ?_
  simp only [decIcmp, e1, e2, e3, BitVec.ofNat_toNat, BitVec.setWidth_eq]
  exact checked_of_wf hw
theorem icmpEq64 (h : Bool) (c : BitVec 2) (p : BitVec 3) (a b : BitVec 7) : Statement (.icmpEq64 h c p a b) := fun x hw he => by
  obtain ⟨e1, e2, e3, e4⟩ := part_pred c p
  rw [← Option.some.inj he]
  refine (decR_0x03 h 10 _ _ _ (by decide) e4 a.isLt b.isLt).trans ?_
  simp only [decIcmp, e1, e2, e3, BitVec.ofNat_toNat, BitVec.setWidth_eq]
  exact checked_of_wf hw
theorem icmpNe64 (h : Bool) (c : BitVec 2) (p : BitVec 3) (a b : BitVec 7) : Statement (.icmpNe64 h c p a b) := fun x hw he => by
  obtain ⟨e1, e2, e3, e4⟩ := part_pred c p
  rw [← Option.some.inj he]
  refine (decR_0x03 h 11 _ _ _ (by decide) e4 a.isLt b.isLt).trans ?_
  simp only [decIcmp, e1, e2, e3, BitVec.ofNat_toNat, BitVec.setWidth_eq]
  exact checked_of_wf hw
theorem icmpLt64 (h : Bool) (c : BitVec 2) (p : BitVec 3) (a b : BitVec 7) : Statement (.icmpLt64 h c p a b) := fun x hw he => by
  obtain ⟨e1, e2, e3, e4⟩ := part_pred c p
  rw [← Option.some.inj he]
  refine (decR_0x03 h 12 _ _ _ (by decide) e4 a.isLt b.isLt).trans ?_
  simp only [decIcmp, e1, e2, e3, BitVec.ofNat_toNat, BitVec.setWidth_eq]
  exact checked_of_wf hw
theorem icmpLtu64 (h : Bool) (c : BitVec 2) (p : BitVec 3) (a b : BitVec 7) : Statement (.icmpLtu64 h c p a b) := fun x hw he => by
  obtain ⟨e1, e2, e3, e4⟩ := part_pred c p
  rw [← Option.some.inj he]
  refine (decR_0x03 h 13 _ _ _ (by decide) e4 a.isLt b.isLt).trans ?_
  simp only [decIcmp, e1, e2, e3, BitVec.ofNat_toNat, BitVec.setWidth_eq]
  exact checked_of_wf hw
theorem icmpBtst (h : Bool) (c : BitVec 2) (p : BitVec 3) (a b : BitVec 7) : Statement (.icmpBtst h c p a b) := fun x hw he => by
  obtain ⟨e1, e2, e3, e4⟩ := part_pred c p
  rw [← Option.some.inj he]
  refine (decR_0x03 h 14 _ _ _ (by decide) e4 a.isLt b.isLt).trans ?_
  simp only [decIcmp, e1, e2, e3, BitVec.ofNat_toNat, BitVec.setWidth_eq]
  exact checked_of_wf hw
theorem addi (h : Bool) (d a : BitVec 7) (i : BitVec 11) : Statement (.addi h d a i) := fun x hw he => by
  rw [← Option.some.inj he]
  have := d.isLt; have := a.isLt; have := i.isLt;
  have hx : d.toNat * 2 ^ 18 + a.toNat * 2 ^ 11 + i.toNat < 2 ^ 25 := by omega
  obtain ⟨e25, g31⟩ := encX_fields h 0x04 (d.toNat * 2 ^ 18 + a.toNat * 2 ^ 11 + i.toNat) (by decide) hx
  have e0 := encX_fld h 0x04 (d.toNat * 2 ^ 18 + a.toNat * 2 ^ 11 + i.toNat) 0 11 (i.toNat) (by decide) hx (by decide) (by omega)
  have e11 := encX_fld h 0x04 (d.toNat * 2 ^ 18 + a.toNat * 2 ^ 11 + i.toNat) 11 7 (a.toNat) (by decide) hx (by decide) (by omega)
  have e18 := encX_fld h 0x04 (d.toNat * 2 ^ 18 + a.toNat * 2 ^ 11 + i.toNat) 18 7 (d.toNat) (by decide) hx (by decide) (by omega)
  rw [decode_0x04 _ e25]
  simp only [g31, e0, e11, e18, BitVec.ofNat_toNat, BitVec.setWidth_eq]
  exact checked_of_wf hw
theorem andi (h : Bool) (d a : BitVec 7) (i : BitVec 11) : Statement (.andi h d a i) := fun x hw he => by
  rw [← Option.some.inj he]
  have := d.isLt; have := a.isLt; have := i.isLt;
  have hx : d.toNat * 2 ^ 18 + a.toNat * 2 ^ 11 + i.toNat < 2 ^ 25 := by omega
  obtain ⟨e25, g31⟩ := encX_fields h 0x05 (d.toNat * 2 ^ 18 + a.toNat * 2 ^ 11 + i.toNat) (by decide) hx
  have e0 := encX_fld h 0x05 (d.toNat * 2 ^ 18 + a.toNat * 2 ^ 11 + i.toNat) 0 11 (i.toNat) (by decide) hx (by decide) (by omega)
  have e11 := encX_fld h 0x05 (d.toNat * 2 ^ 18 + a.toNat * 2 ^ 11 + i.toNat) 11 7 (a.toNat) (by decide) hx (by decide) (by omega)
  have e18 := encX_fld h 0x05 (d.toNat * 2 ^ 18 + a.toNat * 2 ^ 11 + i.toNat) 18 7 (d.toNat) (by decide) hx (by decide) (by omega)
  rw [decode_0x05 _ e25]
  simp only [g31, e0, e11, e18, BitVec.ofNat_toNat, BitVec.setWidth_eq]
  exact checked_of_wf hw
theorem ori (h : Bool) (d a : BitVec 7) (i : BitVec 11) : Statement (.ori h d a i) := fun x hw he => by
  rw [← Option.some.inj he]
  have := d.isLt; have := a.isLt; have := i.isLt;
  have hx : d.toNat * 2 ^ 18 + a.toNat * 2 ^ 11 + i.toNat < 2 ^ 25 := by omega
  obtain ⟨e25, g31⟩ := encX_fields h 0x06 (d.toNat * 2 ^ 18 + a.toNat * 2 ^ 11 + i.toNat) (by decide) hx
  have e0 := encX_fld h 0x06 (d.toNat * 2 ^ 18 + a.toNat * 2 ^ 11 + i.toNat) 0 11 (i.toNat) (by decide) hx (by decide) (by omega)
  have e11 := encX_fld h 0x06 (d.toNat * 2 ^ 18 + a.toNat * 2 ^ 11 + i.toNat) 11 7 (a.toNat) (by decide) hx (by decide) (by omega)
  have e18 := encX_fld h 0x06 (d.toNat * 2 ^ 18 + a.toNat * 2 ^ 11 + i.toNat) 18 7 (d.toNat) (by decide) hx (by decide) (by omega)
  rw [decode_0x06 _ e25]
  simp only [g31, e0, e11, e18, BitVec.ofNat_toNat, BitVec.setWidth_eq]
  exact checked_of_wf hw
theorem xori (h : Bool) (d a : BitVec 7) (i : BitVec 11) : Statement (.xori h d a i) := fun x hw he => by
  rw [← Option.some.inj he]
  have := d.isLt; have := a.isLt; have := i.isLt;
  have hx : d.toNat * 2 ^ 18 + a.toNat * 2 ^ 11 + i.toNat < 2 ^ 25 := by omega
  obtain ⟨e25, g31⟩ := encX_fields h 0x07 (d.toNat * 2 ^ 18 + a.toNat * 2 ^ 11 + i.toNat) (by decide) hx
  have e0 := encX_fld h 0x07 (d.toNat * 2 ^ 18 + a.toNat * 2 ^ 11 + i.toNat) 0 11 (i.toNat) (by decide) hx (by decide) (by omega)
  have e11 := encX_fld h 0x07 (d.toNat * 2 ^ 18 + a.toNat * 2 ^ 11 + i.toNat) 11 7 (a.toNat) (by decide) hx (by decide) (by omega)
  have e18 := encX_fld h 0x07 (d.toNat * 2 ^ 18 + a.toNat * 2 ^ 11 + i.toNat) 18 7 (d.toNat) (by decide) hx (by decide) (by omega)
  rw [decode_0x07 _ e25]
  simp only [g31, e0, e11, e18, BitVec.ofNat_toNat, BitVec.setWidth_eq]
  exact checked_of_wf hw
theorem shli (h : Bool) (d a : BitVec 7) (n : BitVec 6) : Statement (.shli h d a n) := fun x hw he => by
  rw [← Option.some.inj he]
  have := d.isLt; have := a.isLt; have := n.isLt;
  have hx : d.toNat * 2 ^ 18 + a.toNat * 2 ^ 11 + n.toNat < 2 ^ 25 := by omega
  obtain ⟨e25, g31⟩ := encX_fields h 0x08 (d.toNat * 2 ^ 18 + a.toNat * 2 ^ 11 + n.toNat) (by decide) hx
  have e0 := encX_fld h 0x08 (d.toNat * 2 ^ 18 + a.toNat * 2 ^ 11 + n.toNat) 0 6 (n.toNat) (by decide) hx (by decide) (by omega)
  have e6 := encX_fld h 0x08 (d.toNat * 2 ^ 18 + a.toNat * 2 ^ 11 + n.toNat) 6 2 (0) (by decide) hx (by decide) (by omega)
  have e8 := encX_fld h 0x08 (d.toNat * 2 ^ 18 + a.toNat * 2 ^ 11 + n.toNat) 8 3 (0) (by decide) hx (by decide) (by omega)
  have e11 := encX_fld h 0x08 (d.toNat * 2 ^ 18 + a.toNat * 2 ^ 11 + n.toNat) 11 7 (a.toNat) (by decide) hx (by decide) (by omega)
  have e18 := encX_fld h 0x08 (d.toNat * 2 ^ 18 + a.toNat * 2 ^ 11 + n.toNat) 18 7 (d.toNat) (by decide) hx (by decide) (by omega)
  rw [decode_0x08 _ e25]
  simp only [decShfi, g31, e0, e6, e8, e11, e18, BitVec.ofNat_toNat, BitVec.setWidth_eq]
  have hn : n.toNat < 32 := of_decide_eq_true (wf_single rfl hw)
  simp only [hn, decide_true, need_true]
  exact checked_of_wf hw
theorem shri (h : Bool) (d a : BitVec 7) (n : BitVec 6) : Statement (.shri h d a n) := fun x hw he => by
  rw [← Option.some.inj he]
  have := d.isLt; have := a.isLt; have := n.isLt;
  have hx : d.toNat * 2 ^ 18 + a.toNat * 2 ^ 11 + 1 * 2 ^ 8 + n.toNat < 2 ^ 25 := by omega
  obtain ⟨e25, g31⟩ := encX_fields h 0x08 (d.toNat * 2 ^ 18 + a.toNat * 2 ^ 11 + 1 * 2 ^ 8 + n.toNat) (by decide) hx
  have e0 := encX_fld h 0x08 (d.toNat * 2 ^ 18 + a.toNat * 2 ^ 11 + 1 * 2 ^ 8 + n.toNat) 0 6 (n.toNat) (by decide) hx (by decide) (by omega)
  have e6 := encX_fld h 0x08 (d.toNat * 2 ^ 18 + a.toNat * 2 ^ 11 + 1 * 2 ^ 8 + n.toNat) 6 2 (0) (by decide) hx (by decide) (by omega)
  have e8 := encX_fld h 0x08 (d.toNat * 2 ^ 18 + a.toNat * 2 ^ 11 + 1 * 2 ^ 8 + n.toNat) 8 3 (1) (by decide) hx (by decide) (by omega)
  have e11 := encX_fld h 0x08 (d.toNat * 2 ^ 18 + a.toNat * 2 ^ 11 + 1 * 2 ^ 8 + n.toNat) 11 7 (a.toNat) (by decide) hx (by decide) (by omega)
  have e18 := encX_fld h 0x08 (d.toNat * 2 ^ 18 + a.toNat * 2 ^ 11 + 1 * 2 ^ 8 + n.toNat) 18 7 (d.toNat) (by decide) hx (by decide) (by omega)
  rw [decode_0x08 _ e25]
  simp only [decShfi, g31, e0, e6, e8, e11, e18, BitVec.ofNat_toNat, BitVec.setWidth_eq]
  have hn : n.toNat < 32 := of_decide_eq_true (wf_single rfl hw)
  simp only [hn, decide_true, need_true]
  exact checked_of_wf hw
theorem sari (h : Bool) (d a : BitVec 7) (n : BitVec 6) : Statement (.sari h d a n) := fun x hw he => by
  rw [← Option.some.inj he]
  have := d.isLt; have := a.isLt; have := n.isLt;
  have hx : d.toNat * 2 ^ 18 + a.toNat * 2 ^ 11 + 2 * 2 ^ 8 + n.toNat < 2 ^ 25 := by omega
  obtain ⟨e25, g31⟩ := encX_fields h 0x08 (d.toNat * 2 ^ 18 + a.toNat * 2 ^ 11 + 2 * 2 ^ 8 + n.toNat) (by decide) hx
  have e0 := encX_fld h 0x08 (d.toNat * 2 ^ 18 + a.toNat * 2 ^ 11 + 2 * 2 ^ 8 + n.toNat) 0 6 (n.toNat) (by decide) hx (by decide) (by omega)
  have e6 := encX_fld h 0x08 (d.toNat * 2 ^ 18 + a.toNat * 2 ^ 11 + 2 * 2 ^ 8 + n.toNat) 6 2 (0) (by decide) hx (by decide) (by omega)
  have e8 := encX_fld h 0x08 (d.toNat * 2 ^ 18 + a.toNat * 2 ^ 11 + 2 * 2 ^ 8 + n.toNat) 8 3 (2) (by decide) hx (by decide) (by omega)
  have e11 := encX_fld h 0x08 (d.toNat * 2 ^ 18 + a.toNat * 2 ^ 11 + 2 * 2 ^ 8 + n.toNat) 11 7 (a.toNat) (by decide) hx (by decide) (by omega)
  have e18 := encX_fld h 0x08 (d.toNat * 2 ^ 18 + a.toNat * 2 ^ 11 + 2 * 2 ^ 8 + n.toNat) 18 7 (d.toNat) (by decide) hx (by decide) (by omega)
  rw [decode_0x08 _ e25]
  simp only [decShfi, g31, e0, e6, e8, e11, e18, BitVec.ofNat_toNat, BitVec.setWidth_eq]
  have hn : n.toNat < 32 := of_decide_eq_true (wf_single rfl hw)
  simp only [hn, decide_true, need_true]
  exact checked_of_wf hw
theorem roli (h : Bool) (d a : BitVec 7) (n : BitVec 6) : Statement (.roli h d a n) := fun x hw he => by
  rw [← Option.some.inj he]
  have := d.isLt; have := a.isLt; have := n.isLt;
  have hx : d.toNat * 2 ^ 18 + a.toNat * 2 ^ 11 + 3 * 2 ^ 8 + n.toNat < 2 ^ 25 := by omega
  obtain ⟨e25, g31⟩ := encX_fields h 0x08 (d.toNat * 2 ^ 18 + a.toNat * 2 ^ 11 + 3 * 2 ^ 8 + n.toNat) (by decide) hx
  have e0 := encX_fld h 0x08 (d.toNat * 2 ^ 18 + a.toNat * 2 ^ 11 + 3 * 2 ^ 8 + n.toNat) 0 6 (n.toNat) (by decide) hx (by decide) (by omega)
  have e6 := encX_fld h 0x08 (d.toNat * 2 ^ 18 + a.toNat * 2 ^ 11 + 3 * 2 ^ 8 + n.toNat) 6 2 (0) (by decide) hx (by decide) (by omega)
  have e8 := encX_fld h 0x08 (d.toNat * 2 ^ 18 + a.toNat * 2 ^ 11 + 3 * 2 ^ 8 + n.toNat) 8 3 (3) (by decide) hx (by decide) (by omega)
  have e11 := encX_fld h 0x08 (d.toNat * 2 ^ 18 + a.toNat * 2 ^ 11 + 3 * 2 ^ 8 + n.toNat) 11 7 (a.toNat) (by decide) hx (by decide) (by omega)
  have e18 := encX_fld h 0x08 (d.toNat * 2 ^ 18 + a.toNat * 2 ^ 11 + 3 * 2 ^ 8 + n.toNat) 18 7 (d.toNat) (by decide) hx (by decide) (by omega)
  rw [decode_0x08 _ e25]
  simp only [decShfi, g31, e0, e6, e8, e11, e18, BitVec.ofNat_toNat, BitVec.setWidth_eq]
  have hn : n.toNat < 32 := of_decide_eq_true (wf_single rfl hw)
  simp only [hn, decide_true, need_true]
  exact checked_of_wf hw
theorem shli64 (h : Bool) (d a : BitVec 7) (n : BitVec 6) : Statement (.shli64 h d a n) := fun x hw he => by
  rw [← Option.some.inj he]
  have := d.isLt; have := a.isLt; have := n.isLt;
  have hx : d.toNat * 2 ^ 18 + a.toNat * 2 ^ 11 + 4 * 2 ^ 8 + n.toNat < 2 ^ 25 := by omega
  obtain ⟨e25, g31⟩ := encX_fields h 0x08 (d.toNat * 2 ^ 18 + a.toNat * 2 ^ 11 + 4 * 2 ^ 8 + n.toNat) (by decide) hx
  have e0 := encX_fld h 0x08 (d.toNat * 2 ^ 18 + a.toNat * 2 ^ 11 + 4 * 2 ^ 8 + n.toNat) 0 6 (n.toNat) (by decide) hx (by decide) (by omega)
  have e6 := encX_fld h 0x08 (d.toNat * 2 ^ 18 + a.toNat * 2 ^ 11 + 4 * 2 ^ 8 + n.toNat) 6 2 (0) (by decide) hx (by decide) (by omega)
  have e8 := encX_fld h 0x08 (d.toNat * 2 ^ 18 + a.toNat * 2 ^ 11 + 4 * 2 ^ 8 + n.toNat) 8 3 (4) (by decide) hx (by decide) (by omega)
  have e11 := encX_fld h 0x08 (d.toNat * 2 ^ 18 + a.toNat * 2 ^ 11 + 4 * 2 ^ 8 + n.toNat) 11 7 (a.toNat) (by decide) hx (by decide) (by omega)
  have e18 := encX_fld h 0x08 (d.toNat * 2 ^ 18 + a.toNat * 2 ^ 11 + 4 * 2 ^ 8 + n.toNat) 18 7 (d.toNat) (by decide) hx (by decide) (by omega)
  rw [decode_0x08 _ e25]
  simp only [decShfi, g31, e0, e6, e8, e11, e18, BitVec.ofNat_toNat, BitVec.setWidth_eq]
  exact checked_of_wf hw
theorem shri64 (h : Bool) (d a : BitVec 7) (n : BitVec 6) : Statement (.shri64 h d a n) := fun x hw he => by
  rw [← Option.some.inj he]
  have := d.isLt; have := a.isLt; have := n.isLt;
  have hx : d.toNat * 2 ^ 18 + a.toNat * 2 ^ 11 + 5 * 2 ^ 8 + n.toNat < 2 ^ 25 := by omega
  obtain ⟨e25, g31⟩ := encX_fields h 0x08 (d.toNat * 2 ^ 18 + a.toNat * 2 ^ 11 + 5 * 2 ^ 8 + n.toNat) (by decide) hx
  have e0 := encX_fld h 0x08 (d.toNat * 2 ^ 18 + a.toNat * 2 ^ 11 + 5 * 2 ^ 8 + n.toNat) 0 6 (n.toNat) (by decide) hx (by decide) (by omega)
  have e6 := encX_fld h 0x08 (d.toNat * 2 ^ 18 + a.toNat * 2 ^ 11 + 5 * 2 ^ 8 + n.toNat) 6 2 (0) (by decide) hx (by decide) (by omega)
  have e8 := encX_fld h 0x08 (d.toNat * 2 ^ 18 + a.toNat * 2 ^ 11 + 5 * 2 ^ 8 + n.toNat) 8 3 (5) (by decide) hx (by decide) (by omega)
  have e11 := encX_fld h 0x08 (d.toNat * 2 ^ 18 + a.toNat * 2 ^ 11 + 5 * 2 ^ 8 + n.toNat) 11 7 (a.toNat) (by decide) hx (by decide) (by omega)
  have e18 := encX_fld h 0x08 (d.toNat * 2 ^ 18 + a.toNat * 2 ^ 11 + 5 * 2 ^ 8 + n.toNat) 18 7 (d.toNat) (by decide) hx (by decide) (by omega)
  rw [decode_0x08 _ e25]
  simp only [decShfi, g31, e0, e6, e8, e11, e18, BitVec.ofNat_toNat, BitVec.setWidth_eq]
  exact checked_of_wf hw
theorem sari64 (h : Bool) (d a : BitVec 7) (n : BitVec 6) : Statement (.sari64 h d a n) := fun x hw he => by
  rw [← Option.some.inj he]
  have := d.isLt; have := a.isLt; have := n.isLt;
  have hx : d.toNat * 2 ^ 18 + a.toNat * 2 ^ 11 + 6 * 2 ^ 8 + n.toNat < 2 ^ 25 := by omega
  obtain ⟨e25, g31⟩ := encX_fields h 0x08 (d.toNat * 2 ^ 18 + a.toNat * 2 ^ 11 + 6 * 2 ^ 8 + n.toNat) (by decide) hx
  have e0 := encX_fld h 0x08 (d.toNat * 2 ^ 18 + a.toNat * 2 ^ 11 + 6 * 2 ^ 8 + n.toNat) 0 6 (n.toNat) (by decide) hx (by decide) (by omega)
  have e6 := encX_fld h 0x08 (d.toNat * 2 ^ 18 + a.toNat * 2 ^ 11 + 6 * 2 ^ 8 + n.toNat) 6 2 (0) (by decide) hx (by decide) (by omega)
  have e8 := encX_fld h 0x08 (d.toNat * 2 ^ 18 + a.toNat * 2 ^ 11 + 6 * 2 ^ 8 + n.toNat) 8 3 (6) (by decide) hx (by decide) (by omega)
  have e11 := encX_fld h 0x08 (d.toNat * 2 ^ 18 + a.toNat * 2 ^ 11 + 6 * 2 ^ 8 + n.toNat) 11 7 (a.toNat) (by decide) hx (by decide) (by omega)
  have e18 := encX_fld h 0x08 (d.toNat * 2 ^ 18 + a.toNat * 2 ^ 11 + 6 * 2 ^ 8 + n.toNat) 18 7 (d.toNat) (by decide) hx (by decide) (by omega)
  rw [decode_0x08 _ e25]
  simp only [decShfi, g31, e0, e6, e8, e11, e18, BitVec.ofNat_toNat, BitVec.setWidth_eq]
  exact checked_of_wf hw
theorem muli (h : Bool) (d a : BitVec 7) (i : BitVec 11) : Statement (.muli h d a i) := fun x hw he => by
  rw [← Option.some.inj he]
  have := d.isLt; have := a.isLt; have := i.isLt;
  have hx : d.toNat * 2 ^ 18 + a.toNat * 2 ^ 11 + i.toNat < 2 ^ 25 := by omega
  obtain ⟨e25, g31⟩ := encX_fields h 0x09 (d.toNat * 2 ^ 18 + a.toNat * 2 ^ 11 + i.toNat) (by decide) hx
  have e0 := encX_fld h 0x09 (d.toNat * 2 ^ 18 + a.toNat * 2 ^ 11 + i.toNat) 0 11 (i.toNat) (by decide) hx (by decide) (by omega)
  have e11 := encX_fld h 0x09 (d.toNat * 2 ^ 18 + a.toNat * 2 ^ 11 + i.toNat) 11 7 (a.toNat) (by decide) hx (by decide) (by omega)
  have e18 := encX_fld h 0x09 (d.toNat * 2 ^ 18 + a.toNat * 2 ^ 11 + i.toNat) 18 7 (d.toNat) (by decide) hx (by decide) (by omega)
  rw [decode_0x09 _ e25]
  simp only [g31, e0, e11, e18, BitVec.ofNat_toNat, BitVec.setWidth_eq]
  exact checked_of_wf hw
theorem cmpi (h : Bool) (c : BitVec 4) (p : BitVec 3) (a : BitVec 7) (i : BitVec 11) : Statement (.cmpi h c p a i) := fun x hw he => by
  rw [← Option.some.inj he]
  have := c.isLt; have := p.isLt; have := a.isLt; have := i.isLt;
  have hx : c.toNat * 2 ^ 21 + p.toNat * 2 ^ 18 + a.toNat * 2 ^ 11 + i.toNat < 2 ^ 25 := by omega
  obtain ⟨e25, g31⟩ := encX_fields h 0x0A (c.toNat * 2 ^ 21 + p.toNat * 2 ^ 18 + a.toNat * 2 ^ 11 + i.toNat) (by decide) hx
  have e0 := encX_fld h 0x0A (c.toNat * 2 ^ 21 + p.toNat * 2 ^ 18 + a.toNat * 2 ^ 11 + i.toNat) 0 11 (i.toNat) (by decide) hx (by decide) (by omega)
  have e11 := encX_fld h 0x0A (c.toNat * 2 ^ 21 + p.toNat * 2 ^ 18 + a.toNat * 2 ^ 11 + i.toNat) 11 7 (a.toNat) (by decide) hx (by decide) (by omega)
  have e18 := encX_fld h 0x0A (c.toNat * 2 ^ 21 + p.toNat * 2 ^ 18 + a.toNat * 2 ^ 11 + i.toNat) 18 3 (p.toNat) (by decide) hx (by decide) (by omega)
  have e21 := encX_fld h 0x0A (c.toNat * 2 ^ 21 + p.toNat * 2 ^ 18 + a.toNat * 2 ^ 11 + i.toNat) 21 4 (c.toNat) (by decide) hx (by decide) (by omega)
  rw [decode_0x0A _ e25]
  simp only [g31, e0, e11, e18, e21, BitVec.ofNat_toNat, BitVec.setWidth_eq]
  exact checked_of_wf hw
theorem movw (h : Bool) (d : BitVec 7) (i : BitVec 18) : Statement (.movw h d i) := fun x hw he => by
  rw [← Option.some.inj he]
  have := d.isLt; have := i.isLt;
  have hx : d.toNat * 2 ^ 18 + i.toNat < 2 ^ 25 := by omega
  obtain ⟨e25, g31⟩ := encX_fields h 0x0B (d.toNat * 2 ^ 18 + i.toNat) (by decide) hx
  have e0 := encX_fld h 0x0B (d.toNat * 2 ^ 18 + i.toNat) 0 18 (i.toNat) (by decide) hx (by decide) (by omega)
  have e18 := encX_fld h 0x0B (d.toNat * 2 ^ 18 + i.toNat) 18 7 (d.toNat) (by decide) hx (by decide) (by omega)
  rw [decode_0x0B _ e25]
  simp only [g31, e0, e18, BitVec.ofNat_toNat, BitVec.setWidth_eq]
  exact checked_of_wf hw
theorem movh (h : Bool) (d : BitVec 7) (i : BitVec 18) : Statement (.movh h d i) := fun x hw he => by
  rw [← Option.some.inj he]
  have := d.isLt; have := i.isLt;
  have hx : d.toNat * 2 ^ 18 + i.toNat < 2 ^ 25 := by omega
  obtain ⟨e25, g31⟩ := encX_fields h 0x0C (d.toNat * 2 ^ 18 + i.toNat) (by decide) hx
  have e0 := encX_fld h 0x0C (d.toNat * 2 ^ 18 + i.toNat) 0 18 (i.toNat) (by decide) hx (by decide) (by omega)
  have e18 := encX_fld h 0x0C (d.toNat * 2 ^ 18 + i.toNat) 18 7 (d.toNat) (by decide) hx (by decide) (by omega)
  rw [decode_0x0C _ e25]
  simp only [g31, e0, e18, BitVec.ofNat_toNat, BitVec.setWidth_eq]
  exact checked_of_wf hw
theorem sel (h n : Bool) (p : BitVec 3) (d a b : BitVec 7) : Statement (.sel h n p d a b) := fun x hw he => by
  rw [← Option.some.inj he]
  have := hbit_le n; have := p.isLt; have := d.isLt; have := a.isLt; have := b.isLt;
  have hx : hbit n * 2 ^ 24 + p.toNat * 2 ^ 21 + d.toNat * 2 ^ 14 + a.toNat * 2 ^ 7 + b.toNat < 2 ^ 25 := by omega
  obtain ⟨e25, g31⟩ := encX_fields h 0x0D (hbit n * 2 ^ 24 + p.toNat * 2 ^ 21 + d.toNat * 2 ^ 14 + a.toNat * 2 ^ 7 + b.toNat) (by decide) hx
  have e0 := encX_fld h 0x0D (hbit n * 2 ^ 24 + p.toNat * 2 ^ 21 + d.toNat * 2 ^ 14 + a.toNat * 2 ^ 7 + b.toNat) 0 7 (b.toNat) (by decide) hx (by decide) (by omega)
  have e7 := encX_fld h 0x0D (hbit n * 2 ^ 24 + p.toNat * 2 ^ 21 + d.toNat * 2 ^ 14 + a.toNat * 2 ^ 7 + b.toNat) 7 7 (a.toNat) (by decide) hx (by decide) (by omega)
  have e14 := encX_fld h 0x0D (hbit n * 2 ^ 24 + p.toNat * 2 ^ 21 + d.toNat * 2 ^ 14 + a.toNat * 2 ^ 7 + b.toNat) 14 7 (d.toNat) (by decide) hx (by decide) (by omega)
  have e21 := encX_fld h 0x0D (hbit n * 2 ^ 24 + p.toNat * 2 ^ 21 + d.toNat * 2 ^ 14 + a.toNat * 2 ^ 7 + b.toNat) 21 3 (p.toNat) (by decide) hx (by decide) (by omega)
  have g24 := encX_flag h 0x0D (hbit n * 2 ^ 24 + p.toNat * 2 ^ 21 + d.toNat * 2 ^ 14 + a.toNat * 2 ^ 7 + b.toNat) 24 n (by decide) hx (by decide) (by omega)
  rw [decode_0x0D _ e25]
  simp only [g31, e0, e7, e14, e21, g24, BitVec.ofNat_toNat, BitVec.setWidth_eq]
  exact checked_of_wf hw
theorem lea (h : Bool) (s : BitVec 4) (d a b : BitVec 7) : Statement (.lea h s d a b) := fun x hw he => by
  rw [← Option.some.inj he]
  have := s.isLt; have := d.isLt; have := a.isLt; have := b.isLt;
  have hx : s.toNat * 2 ^ 21 + d.toNat * 2 ^ 14 + a.toNat * 2 ^ 7 + b.toNat < 2 ^ 25 := by omega
  obtain ⟨e25, g31⟩ := encX_fields h 0x0E (s.toNat * 2 ^ 21 + d.toNat * 2 ^ 14 + a.toNat * 2 ^ 7 + b.toNat) (by decide) hx
  have e0 := encX_fld h 0x0E (s.toNat * 2 ^ 21 + d.toNat * 2 ^ 14 + a.toNat * 2 ^ 7 + b.toNat) 0 7 (b.toNat) (by decide) hx (by decide) (by omega)
  have e7 := encX_fld h 0x0E (s.toNat * 2 ^ 21 + d.toNat * 2 ^ 14 + a.toNat * 2 ^ 7 + b.toNat) 7 7 (a.toNat) (by decide) hx (by decide) (by omega)
  have e14 := encX_fld h 0x0E (s.toNat * 2 ^ 21 + d.toNat * 2 ^ 14 + a.toNat * 2 ^ 7 + b.toNat) 14 7 (d.toNat) (by decide) hx (by decide) (by omega)
  have e21 := encX_fld h 0x0E (s.toNat * 2 ^ 21 + d.toNat * 2 ^ 14 + a.toNat * 2 ^ 7 + b.toNat) 21 4 (s.toNat) (by decide) hx (by decide) (by omega)
  rw [decode_0x0E _ e25]
  simp only [g31, e0, e7, e14, e21, BitVec.ofNat_toNat, BitVec.setWidth_eq]
  exact checked_of_wf hw
theorem mov (h : Bool) (d a : BitVec 7) : Statement (.mov h d a) := fun x hw he => by
  rw [← Option.some.inj he]; exact (decB_0x0F h 0 d a 0 (by decide)).trans (checked_of_wf hw)
theorem mov64 (h : Bool) (d a : BitVec 7) : Statement (.mov64 h d a) := fun x hw he => by
  rw [← Option.some.inj he]; exact (decB_0x0F h 1 d a 0 (by decide)).trans (checked_of_wf hw)
theorem pmov (h : Bool) (d : BitVec 7) : Statement (.pmov h d) := fun x hw he => by
  rw [← Option.some.inj he]; exact (decB_0x0F h 2 d 0 0 (by decide)).trans (checked_of_wf hw)
theorem pset (h : Bool) (a b : BitVec 7) : Statement (.pset h a b) := fun x hw he => by
  rw [← Option.some.inj he]; exact (decB_0x0F h 3 0 a b (by decide)).trans (checked_of_wf hw)
theorem sext (h : Bool) (d a w : BitVec 7) : Statement (.sext h d a w) := fun x hw he => by
  rw [← Option.some.inj he]; exact (decB_0x0F h 4 d a w (by decide)).trans (checked_of_wf hw)
theorem zext (h : Bool) (d a w : BitVec 7) : Statement (.zext h d a w) := fun x hw he => by
  rw [← Option.some.inj he]; exact (decB_0x0F h 5 d a w (by decide)).trans (checked_of_wf hw)
theorem fadd (h : Bool) (d a b : BitVec 7) : Statement (.fadd h d a b) := fun x hw he => by
  rw [← Option.some.inj he]; exact (decB_0x10 h 0 d a b (by decide)).trans (checked_of_wf hw)
theorem fsub (h : Bool) (d a b : BitVec 7) : Statement (.fsub h d a b) := fun x hw he => by
  rw [← Option.some.inj he]; exact (decB_0x10 h 1 d a b (by decide)).trans (checked_of_wf hw)
theorem fmul (h : Bool) (d a b : BitVec 7) : Statement (.fmul h d a b) := fun x hw he => by
  rw [← Option.some.inj he]; exact (decB_0x10 h 2 d a b (by decide)).trans (checked_of_wf hw)
theorem fmin (h : Bool) (d a b : BitVec 7) : Statement (.fmin h d a b) := fun x hw he => by
  rw [← Option.some.inj he]; exact (decB_0x10 h 3 d a b (by decide)).trans (checked_of_wf hw)
theorem fmax (h : Bool) (d a b : BitVec 7) : Statement (.fmax h d a b) := fun x hw he => by
  rw [← Option.some.inj he]; exact (decB_0x10 h 4 d a b (by decide)).trans (checked_of_wf hw)
theorem fminn (h : Bool) (d a b : BitVec 7) : Statement (.fminn h d a b) := fun x hw he => by
  rw [← Option.some.inj he]; exact (decB_0x10 h 5 d a b (by decide)).trans (checked_of_wf hw)
theorem fmaxn (h : Bool) (d a b : BitVec 7) : Statement (.fmaxn h d a b) := fun x hw he => by
  rw [← Option.some.inj he]; exact (decB_0x10 h 6 d a b (by decide)).trans (checked_of_wf hw)
theorem fabs (h : Bool) (d a : BitVec 7) : Statement (.fabs h d a) := fun x hw he => by
  rw [← Option.some.inj he]; exact (decB_0x10 h 7 d a 0 (by decide)).trans (checked_of_wf hw)
theorem fneg (h : Bool) (d a : BitVec 7) : Statement (.fneg h d a) := fun x hw he => by
  rw [← Option.some.inj he]; exact (decB_0x10 h 8 d a 0 (by decide)).trans (checked_of_wf hw)
theorem fcpsgn (h : Bool) (d a b : BitVec 7) : Statement (.fcpsgn h d a b) := fun x hw he => by
  rw [← Option.some.inj he]; exact (decB_0x10 h 9 d a b (by decide)).trans (checked_of_wf hw)
theorem ffloor (h : Bool) (d a : BitVec 7) : Statement (.ffloor h d a) := fun x hw he => by
  rw [← Option.some.inj he]; exact (decB_0x10 h 10 d a 0 (by decide)).trans (checked_of_wf hw)
theorem fceil (h : Bool) (d a : BitVec 7) : Statement (.fceil h d a) := fun x hw he => by
  rw [← Option.some.inj he]; exact (decB_0x10 h 11 d a 0 (by decide)).trans (checked_of_wf hw)
theorem ftrunc (h : Bool) (d a : BitVec 7) : Statement (.ftrunc h d a) := fun x hw he => by
  rw [← Option.some.inj he]; exact (decB_0x10 h 12 d a 0 (by decide)).trans (checked_of_wf hw)
theorem frint (h : Bool) (d a : BitVec 7) : Statement (.frint h d a) := fun x hw he => by
  rw [← Option.some.inj he]; exact (decB_0x10 h 13 d a 0 (by decide)).trans (checked_of_wf hw)
theorem ffrac (h : Bool) (d a : BitVec 7) : Statement (.ffrac h d a) := fun x hw he => by
  rw [← Option.some.inj he]; exact (decB_0x10 h 14 d a 0 (by decide)).trans (checked_of_wf hw)
theorem fscale (h : Bool) (d a b : BitVec 7) : Statement (.fscale h d a b) := fun x hw he => by
  rw [← Option.some.inj he]; exact (decB_0x10 h 15 d a b (by decide)).trans (checked_of_wf hw)
theorem ffma (h : Bool) (d a b : BitVec 7) : Statement (.ffma h d a b) := fun x hw he => by
  rw [← Option.some.inj he]; exact (decB_0x11 h 0 d a b (by decide)).trans (checked_of_wf hw)
theorem ffms (h : Bool) (d a b : BitVec 7) : Statement (.ffms h d a b) := fun x hw he => by
  rw [← Option.some.inj he]; exact (decB_0x11 h 1 d a b (by decide)).trans (checked_of_wf hw)
theorem fnfma (h : Bool) (d a b : BitVec 7) : Statement (.fnfma h d a b) := fun x hw he => by
  rw [← Option.some.inj he]; exact (decB_0x11 h 2 d a b (by decide)).trans (checked_of_wf hw)
theorem fnfms (h : Bool) (d a b : BitVec 7) : Statement (.fnfms h d a b) := fun x hw he => by
  rw [← Option.some.inj he]; exact (decB_0x11 h 3 d a b (by decide)).trans (checked_of_wf hw)
theorem hadd2 (h : Bool) (d a b : BitVec 7) : Statement (.hadd2 h d a b) := fun x hw he => by
  rw [← Option.some.inj he]; exact (decB_0x12 h 0 d a b (by decide)).trans (checked_of_wf hw)
theorem hsub2 (h : Bool) (d a b : BitVec 7) : Statement (.hsub2 h d a b) := fun x hw he => by
  rw [← Option.some.inj he]; exact (decB_0x12 h 1 d a b (by decide)).trans (checked_of_wf hw)
theorem hmul2 (h : Bool) (d a b : BitVec 7) : Statement (.hmul2 h d a b) := fun x hw he => by
  rw [← Option.some.inj he]; exact (decB_0x12 h 2 d a b (by decide)).trans (checked_of_wf hw)
theorem hfma2 (h : Bool) (d a b : BitVec 7) : Statement (.hfma2 h d a b) := fun x hw he => by
  rw [← Option.some.inj he]; exact (decB_0x12 h 3 d a b (by decide)).trans (checked_of_wf hw)
theorem hmin2 (h : Bool) (d a b : BitVec 7) : Statement (.hmin2 h d a b) := fun x hw he => by
  rw [← Option.some.inj he]; exact (decB_0x12 h 4 d a b (by decide)).trans (checked_of_wf hw)
theorem hmax2 (h : Bool) (d a b : BitVec 7) : Statement (.hmax2 h d a b) := fun x hw he => by
  rw [← Option.some.inj he]; exact (decB_0x12 h 5 d a b (by decide)).trans (checked_of_wf hw)
theorem badd2 (h : Bool) (d a b : BitVec 7) : Statement (.badd2 h d a b) := fun x hw he => by
  rw [← Option.some.inj he]; exact (decB_0x12 h 6 d a b (by decide)).trans (checked_of_wf hw)
theorem bsub2 (h : Bool) (d a b : BitVec 7) : Statement (.bsub2 h d a b) := fun x hw he => by
  rw [← Option.some.inj he]; exact (decB_0x12 h 7 d a b (by decide)).trans (checked_of_wf hw)
theorem bmul2 (h : Bool) (d a b : BitVec 7) : Statement (.bmul2 h d a b) := fun x hw he => by
  rw [← Option.some.inj he]; exact (decB_0x12 h 8 d a b (by decide)).trans (checked_of_wf hw)
theorem bfma2 (h : Bool) (d a b : BitVec 7) : Statement (.bfma2 h d a b) := fun x hw he => by
  rw [← Option.some.inj he]; exact (decB_0x12 h 9 d a b (by decide)).trans (checked_of_wf hw)
theorem bmin2 (h : Bool) (d a b : BitVec 7) : Statement (.bmin2 h d a b) := fun x hw he => by
  rw [← Option.some.inj he]; exact (decB_0x12 h 10 d a b (by decide)).trans (checked_of_wf hw)
theorem bmax2 (h : Bool) (d a b : BitVec 7) : Statement (.bmax2 h d a b) := fun x hw he => by
  rw [← Option.some.inj he]; exact (decB_0x12 h 11 d a b (by decide)).trans (checked_of_wf hw)
theorem hdot2 (h : Bool) (d a b : BitVec 7) : Statement (.hdot2 h d a b) := fun x hw he => by
  rw [← Option.some.inj he]; exact (decB_0x12 h 12 d a b (by decide)).trans (checked_of_wf hw)
theorem bdot2 (h : Bool) (d a b : BitVec 7) : Statement (.bdot2 h d a b) := fun x hw he => by
  rw [← Option.some.inj he]; exact (decB_0x12 h 13 d a b (by decide)).trans (checked_of_wf hw)
theorem fcmpOeq (h : Bool) (c : BitVec 2) (p : BitVec 3) (a b : BitVec 7) : Statement (.fcmpOeq h c p a b) := fun x hw he => by
  obtain ⟨e1, e2, e3, e4⟩ := part_pred c p
  rw [← Option.some.inj he]
  refine (decR_0x13 h 0 _ _ _ (by decide) e4 a.isLt b.isLt).trans ?_
  simp only [decFcmp, e1, e2, e3, BitVec.ofNat_toNat, BitVec.setWidth_eq]
  exact checked_of_wf hw
theorem fcmpOne (h : Bool) (c : BitVec 2) (p : BitVec 3) (a b : BitVec 7) : Statement (.fcmpOne h c p a b) := fun x hw he => by
  obtain ⟨e1, e2, e3, e4⟩ := part_pred c p
  rw [← Option.some.inj he]
  refine (decR_0x13 h 1 _ _ _ (by decide) e4 a.isLt b.isLt).trans ?_
  simp only [decFcmp, e1, e2, e3, BitVec.ofNat_toNat, BitVec.setWidth_eq]
  exact checked_of_wf hw
theorem fcmpOlt (h : Bool) (c : BitVec 2) (p : BitVec 3) (a b : BitVec 7) : Statement (.fcmpOlt h c p a b) := fun x hw he => by
  obtain ⟨e1, e2, e3, e4⟩ := part_pred c p
  rw [← Option.some.inj he]
  refine (decR_0x13 h 2 _ _ _ (by decide) e4 a.isLt b.isLt).trans ?_
  simp only [decFcmp, e1, e2, e3, BitVec.ofNat_toNat, BitVec.setWidth_eq]
  exact checked_of_wf hw
theorem fcmpOle (h : Bool) (c : BitVec 2) (p : BitVec 3) (a b : BitVec 7) : Statement (.fcmpOle h c p a b) := fun x hw he => by
  obtain ⟨e1, e2, e3, e4⟩ := part_pred c p
  rw [← Option.some.inj he]
  refine (decR_0x13 h 3 _ _ _ (by decide) e4 a.isLt b.isLt).trans ?_
  simp only [decFcmp, e1, e2, e3, BitVec.ofNat_toNat, BitVec.setWidth_eq]
  exact checked_of_wf hw
theorem fcmpOgt (h : Bool) (c : BitVec 2) (p : BitVec 3) (a b : BitVec 7) : Statement (.fcmpOgt h c p a b) := fun x hw he => by
  obtain ⟨e1, e2, e3, e4⟩ := part_pred c p
  rw [← Option.some.inj he]
  refine (decR_0x13 h 4 _ _ _ (by decide) e4 a.isLt b.isLt).trans ?_
  simp only [decFcmp, e1, e2, e3, BitVec.ofNat_toNat, BitVec.setWidth_eq]
  exact checked_of_wf hw
theorem fcmpOge (h : Bool) (c : BitVec 2) (p : BitVec 3) (a b : BitVec 7) : Statement (.fcmpOge h c p a b) := fun x hw he => by
  obtain ⟨e1, e2, e3, e4⟩ := part_pred c p
  rw [← Option.some.inj he]
  refine (decR_0x13 h 5 _ _ _ (by decide) e4 a.isLt b.isLt).trans ?_
  simp only [decFcmp, e1, e2, e3, BitVec.ofNat_toNat, BitVec.setWidth_eq]
  exact checked_of_wf hw
theorem fcmpUno (h : Bool) (c : BitVec 2) (p : BitVec 3) (a b : BitVec 7) : Statement (.fcmpUno h c p a b) := fun x hw he => by
  obtain ⟨e1, e2, e3, e4⟩ := part_pred c p
  rw [← Option.some.inj he]
  refine (decR_0x13 h 6 _ _ _ (by decide) e4 a.isLt b.isLt).trans ?_
  simp only [decFcmp, e1, e2, e3, BitVec.ofNat_toNat, BitVec.setWidth_eq]
  exact checked_of_wf hw
theorem fcmpOrd (h : Bool) (c : BitVec 2) (p : BitVec 3) (a b : BitVec 7) : Statement (.fcmpOrd h c p a b) := fun x hw he => by
  obtain ⟨e1, e2, e3, e4⟩ := part_pred c p
  rw [← Option.some.inj he]
  refine (decR_0x13 h 7 _ _ _ (by decide) e4 a.isLt b.isLt).trans ?_
  simp only [decFcmp, e1, e2, e3, BitVec.ofNat_toNat, BitVec.setWidth_eq]
  exact checked_of_wf hw
theorem fcmpUeq (h : Bool) (c : BitVec 2) (p : BitVec 3) (a b : BitVec 7) : Statement (.fcmpUeq h c p a b) := fun x hw he => by
  obtain ⟨e1, e2, e3, e4⟩ := part_pred c p
  rw [← Option.some.inj he]
  refine (decR_0x13 h 8 _ _ _ (by decide) e4 a.isLt b.isLt).trans ?_
  simp only [decFcmp, e1, e2, e3, BitVec.ofNat_toNat, BitVec.setWidth_eq]
  exact checked_of_wf hw
theorem fcmpUne (h : Bool) (c : BitVec 2) (p : BitVec 3) (a b : BitVec 7) : Statement (.fcmpUne h c p a b) := fun x hw he => by
  obtain ⟨e1, e2, e3, e4⟩ := part_pred c p
  rw [← Option.some.inj he]
  refine (decR_0x13 h 9 _ _ _ (by decide) e4 a.isLt b.isLt).trans ?_
  simp only [decFcmp, e1, e2, e3, BitVec.ofNat_toNat, BitVec.setWidth_eq]
  exact checked_of_wf hw
theorem fcmpUlt (h : Bool) (c : BitVec 2) (p : BitVec 3) (a b : BitVec 7) : Statement (.fcmpUlt h c p a b) := fun x hw he => by
  obtain ⟨e1, e2, e3, e4⟩ := part_pred c p
  rw [← Option.some.inj he]
  refine (decR_0x13 h 10 _ _ _ (by decide) e4 a.isLt b.isLt).trans ?_
  simp only [decFcmp, e1, e2, e3, BitVec.ofNat_toNat, BitVec.setWidth_eq]
  exact checked_of_wf hw
theorem fcmpUle (h : Bool) (c : BitVec 2) (p : BitVec 3) (a b : BitVec 7) : Statement (.fcmpUle h c p a b) := fun x hw he => by
  obtain ⟨e1, e2, e3, e4⟩ := part_pred c p
  rw [← Option.some.inj he]
  refine (decR_0x13 h 11 _ _ _ (by decide) e4 a.isLt b.isLt).trans ?_
  simp only [decFcmp, e1, e2, e3, BitVec.ofNat_toNat, BitVec.setWidth_eq]
  exact checked_of_wf hw
theorem fcmpUgt (h : Bool) (c : BitVec 2) (p : BitVec 3) (a b : BitVec 7) : Statement (.fcmpUgt h c p a b) := fun x hw he => by
  obtain ⟨e1, e2, e3, e4⟩ := part_pred c p
  rw [← Option.some.inj he]
  refine (decR_0x13 h 12 _ _ _ (by decide) e4 a.isLt b.isLt).trans ?_
  simp only [decFcmp, e1, e2, e3, BitVec.ofNat_toNat, BitVec.setWidth_eq]
  exact checked_of_wf hw
theorem fcmpUge (h : Bool) (c : BitVec 2) (p : BitVec 3) (a b : BitVec 7) : Statement (.fcmpUge h c p a b) := fun x hw he => by
  obtain ⟨e1, e2, e3, e4⟩ := part_pred c p
  rw [← Option.some.inj he]
  refine (decR_0x13 h 13 _ _ _ (by decide) e4 a.isLt b.isLt).trans ?_
  simp only [decFcmp, e1, e2, e3, BitVec.ofNat_toNat, BitVec.setWidth_eq]
  exact checked_of_wf hw
theorem fcmpClass (h : Bool) (c : BitVec 2) (p : BitVec 3) (a b : BitVec 7) : Statement (.fcmpClass h c p a b) := fun x hw he => by
  obtain ⟨e1, e2, e3, e4⟩ := part_pred c p
  rw [← Option.some.inj he]
  refine (decR_0x13 h 14 _ _ _ (by decide) e4 a.isLt b.isLt).trans ?_
  simp only [decFcmp, e1, e2, e3, BitVec.ofNat_toNat, BitVec.setWidth_eq]
  exact checked_of_wf hw
theorem xfnRcp (h : Bool) (d a : BitVec 7) : Statement (.xfnRcp h d a) := fun x hw he => by
  rw [← Option.some.inj he]; exact (decB_0x14 h 0 d a 0 (by decide)).trans (checked_of_wf hw)
theorem xfnRsq (h : Bool) (d a : BitVec 7) : Statement (.xfnRsq h d a) := fun x hw he => by
  rw [← Option.some.inj he]; exact (decB_0x14 h 1 d a 0 (by decide)).trans (checked_of_wf hw)
theorem xfnSqrt (h : Bool) (d a : BitVec 7) : Statement (.xfnSqrt h d a) := fun x hw he => by
  rw [← Option.some.inj he]; exact (decB_0x14 h 2 d a 0 (by decide)).trans (checked_of_wf hw)
theorem xfnExp2 (h : Bool) (d a : BitVec 7) : Statement (.xfnExp2 h d a) := fun x hw he => by
  rw [← Option.some.inj he]; exact (decB_0x14 h 3 d a 0 (by decide)).trans (checked_of_wf hw)
theorem xfnLog2 (h : Bool) (d a : BitVec 7) : Statement (.xfnLog2 h d a) := fun x hw he => by
  rw [← Option.some.inj he]; exact (decB_0x14 h 4 d a 0 (by decide)).trans (checked_of_wf hw)
theorem xfnSinpi (h : Bool) (d a : BitVec 7) : Statement (.xfnSinpi h d a) := fun x hw he => by
  rw [← Option.some.inj he]; exact (decB_0x14 h 5 d a 0 (by decide)).trans (checked_of_wf hw)
theorem xfnCospi (h : Bool) (d a : BitVec 7) : Statement (.xfnCospi h d a) := fun x hw he => by
  rw [← Option.some.inj he]; exact (decB_0x14 h 6 d a 0 (by decide)).trans (checked_of_wf hw)
theorem xfnTanh (h : Bool) (d a : BitVec 7) : Statement (.xfnTanh h d a) := fun x hw he => by
  rw [← Option.some.inj he]; exact (decB_0x14 h 7 d a 0 (by decide)).trans (checked_of_wf hw)
theorem xfnDiv (h : Bool) (d a b : BitVec 7) : Statement (.xfnDiv h d a b) := fun x hw he => by
  rw [← Option.some.inj he]; exact (decB_0x14 h 8 d a b (by decide)).trans (checked_of_wf hw)
theorem xfnSigm (h : Bool) (d a : BitVec 7) : Statement (.xfnSigm h d a) := fun x hw he => by
  rw [← Option.some.inj he]; exact (decB_0x14 h 9 d a 0 (by decide)).trans (checked_of_wf hw)
theorem xfnExp (h : Bool) (d a : BitVec 7) : Statement (.xfnExp h d a) := fun x hw he => by
  rw [← Option.some.inj he]; exact (decB_0x14 h 10 d a 0 (by decide)).trans (checked_of_wf hw)
theorem xfnLog (h : Bool) (d a : BitVec 7) : Statement (.xfnLog h d a) := fun x hw he => by
  rw [← Option.some.inj he]; exact (decB_0x14 h 11 d a 0 (by decide)).trans (checked_of_wf hw)
theorem f2i (h : Bool) (d a : BitVec 7) (k : BitVec 3) (s : Bool) (r : BitVec 3) : Statement (.f2i h d a k s r) := fun x hw he => by
  obtain ⟨e1, e2, e3, e4⟩ := part_cvt k s r
  rw [← Option.some.inj he]
  refine (decR_0x15 h 0 _ _ _ (by decide) d.isLt a.isLt e4).trans ?_
  simp only [decCvt, e1, e2, e3, BitVec.ofNat_toNat, BitVec.setWidth_eq]
  exact checked_of_wf hw
theorem f2u (h : Bool) (d a : BitVec 7) (k : BitVec 3) (s : Bool) (r : BitVec 3) : Statement (.f2u h d a k s r) := fun x hw he => by
  obtain ⟨e1, e2, e3, e4⟩ := part_cvt k s r
  rw [← Option.some.inj he]
  refine (decR_0x15 h 1 _ _ _ (by decide) d.isLt a.isLt e4).trans ?_
  simp only [decCvt, e1, e2, e3, BitVec.ofNat_toNat, BitVec.setWidth_eq]
  exact checked_of_wf hw
theorem i2f (h : Bool) (d a : BitVec 7) (k : BitVec 3) (s : Bool) (r : BitVec 3) : Statement (.i2f h d a k s r) := fun x hw he => by
  obtain ⟨e1, e2, e3, e4⟩ := part_cvt k s r
  rw [← Option.some.inj he]
  refine (decR_0x15 h 2 _ _ _ (by decide) d.isLt a.isLt e4).trans ?_
  simp only [decCvt, e1, e2, e3, BitVec.ofNat_toNat, BitVec.setWidth_eq]
  exact checked_of_wf hw
theorem u2f (h : Bool) (d a : BitVec 7) (k : BitVec 3) (s : Bool) (r : BitVec 3) : Statement (.u2f h d a k s r) := fun x hw he => by
  obtain ⟨e1, e2, e3, e4⟩ := part_cvt k s r
  rw [← Option.some.inj he]
  refine (decR_0x15 h 3 _ _ _ (by decide) d.isLt a.isLt e4).trans ?_
  simp only [decCvt, e1, e2, e3, BitVec.ofNat_toNat, BitVec.setWidth_eq]
  exact checked_of_wf hw
theorem f2h (h : Bool) (d a : BitVec 7) (k : BitVec 3) (s : Bool) (r : BitVec 3) : Statement (.f2h h d a k s r) := fun x hw he => by
  obtain ⟨e1, e2, e3, e4⟩ := part_cvt k s r
  rw [← Option.some.inj he]
  refine (decR_0x15 h 4 _ _ _ (by decide) d.isLt a.isLt e4).trans ?_
  simp only [decCvt, e1, e2, e3, BitVec.ofNat_toNat, BitVec.setWidth_eq]
  exact checked_of_wf hw
theorem h2f (h : Bool) (d a : BitVec 7) (k : BitVec 3) (s : Bool) (r : BitVec 3) : Statement (.h2f h d a k s r) := fun x hw he => by
  obtain ⟨e1, e2, e3, e4⟩ := part_cvt k s r
  rw [← Option.some.inj he]
  refine (decR_0x15 h 5 _ _ _ (by decide) d.isLt a.isLt e4).trans ?_
  simp only [decCvt, e1, e2, e3, BitVec.ofNat_toNat, BitVec.setWidth_eq]
  exact checked_of_wf hw
theorem f2b (h : Bool) (d a : BitVec 7) (k : BitVec 3) (s : Bool) (r : BitVec 3) : Statement (.f2b h d a k s r) := fun x hw he => by
  obtain ⟨e1, e2, e3, e4⟩ := part_cvt k s r
  rw [← Option.some.inj he]
  refine (decR_0x15 h 6 _ _ _ (by decide) d.isLt a.isLt e4).trans ?_
  simp only [decCvt, e1, e2, e3, BitVec.ofNat_toNat, BitVec.setWidth_eq]
  exact checked_of_wf hw
theorem b2f (h : Bool) (d a : BitVec 7) (k : BitVec 3) (s : Bool) (r : BitVec 3) : Statement (.b2f h d a k s r) := fun x hw he => by
  obtain ⟨e1, e2, e3, e4⟩ := part_cvt k s r
  rw [← Option.some.inj he]
  refine (decR_0x15 h 7 _ _ _ (by decide) d.isLt a.isLt e4).trans ?_
  simp only [decCvt, e1, e2, e3, BitVec.ofNat_toNat, BitVec.setWidth_eq]
  exact checked_of_wf hw
theorem f2n (h : Bool) (d a : BitVec 7) (k : BitVec 3) (s : Bool) (r : BitVec 3) : Statement (.f2n h d a k s r) := fun x hw he => by
  obtain ⟨e1, e2, e3, e4⟩ := part_cvt k s r
  rw [← Option.some.inj he]
  refine (decR_0x15 h 8 _ _ _ (by decide) d.isLt a.isLt e4).trans ?_
  simp only [decCvt, e1, e2, e3, BitVec.ofNat_toNat, BitVec.setWidth_eq]
  exact checked_of_wf hw
theorem n2f (h : Bool) (d a : BitVec 7) (k : BitVec 3) (s : Bool) (r : BitVec 3) : Statement (.n2f h d a k s r) := fun x hw he => by
  obtain ⟨e1, e2, e3, e4⟩ := part_cvt k s r
  rw [← Option.some.inj he]
  refine (decR_0x15 h 9 _ _ _ (by decide) d.isLt a.isLt e4).trans ?_
  simp only [decCvt, e1, e2, e3, BitVec.ofNat_toNat, BitVec.setWidth_eq]
  exact checked_of_wf hw
theorem f2d (h : Bool) (d a : BitVec 7) (k : BitVec 3) (s : Bool) (r : BitVec 3) : Statement (.f2d h d a k s r) := fun x hw he => by
  obtain ⟨e1, e2, e3, e4⟩ := part_cvt k s r
  rw [← Option.some.inj he]
  refine (decR_0x15 h 10 _ _ _ (by decide) d.isLt a.isLt e4).trans ?_
  simp only [decCvt, e1, e2, e3, BitVec.ofNat_toNat, BitVec.setWidth_eq]
  exact checked_of_wf hw
theorem d2f (h : Bool) (d a : BitVec 7) (k : BitVec 3) (s : Bool) (r : BitVec 3) : Statement (.d2f h d a k s r) := fun x hw he => by
  obtain ⟨e1, e2, e3, e4⟩ := part_cvt k s r
  rw [← Option.some.inj he]
  refine (decR_0x15 h 11 _ _ _ (by decide) d.isLt a.isLt e4).trans ?_
  simp only [decCvt, e1, e2, e3, BitVec.ofNat_toNat, BitVec.setWidth_eq]
  exact checked_of_wf hw
theorem i2d (h : Bool) (d a : BitVec 7) (k : BitVec 3) (s : Bool) (r : BitVec 3) : Statement (.i2d h d a k s r) := fun x hw he => by
  obtain ⟨e1, e2, e3, e4⟩ := part_cvt k s r
  rw [← Option.some.inj he]
  refine (decR_0x15 h 12 _ _ _ (by decide) d.isLt a.isLt e4).trans ?_
  simp only [decCvt, e1, e2, e3, BitVec.ofNat_toNat, BitVec.setWidth_eq]
  exact checked_of_wf hw
theorem d2i (h : Bool) (d a : BitVec 7) (k : BitVec 3) (s : Bool) (r : BitVec 3) : Statement (.d2i h d a k s r) := fun x hw he => by
  obtain ⟨e1, e2, e3, e4⟩ := part_cvt k s r
  rw [← Option.some.inj he]
  refine (decR_0x15 h 13 _ _ _ (by decide) d.isLt a.isLt e4).trans ?_
  simp only [decCvt, e1, e2, e3, BitVec.ofNat_toNat, BitVec.setWidth_eq]
  exact checked_of_wf hw
theorem packn (h : Bool) (d a : BitVec 7) (k : BitVec 3) (s : Bool) (r : BitVec 3) : Statement (.packn h d a k s r) := fun x hw he => by
  obtain ⟨e1, e2, e3, e4⟩ := part_cvt k s r
  rw [← Option.some.inj he]
  refine (decR_0x15 h 14 _ _ _ (by decide) d.isLt a.isLt e4).trans ?_
  simp only [decCvt, e1, e2, e3, BitVec.ofNat_toNat, BitVec.setWidth_eq]
  exact checked_of_wf hw
theorem unpkn (h : Bool) (d a : BitVec 7) (k : BitVec 3) (s : Bool) (r : BitVec 3) : Statement (.unpkn h d a k s r) := fun x hw he => by
  obtain ⟨e1, e2, e3, e4⟩ := part_cvt k s r
  rw [← Option.some.inj he]
  refine (decR_0x15 h 15 _ _ _ (by decide) d.isLt a.isLt e4).trans ?_
  simp only [decCvt, e1, e2, e3, BitVec.ofNat_toNat, BitVec.setWidth_eq]
  exact checked_of_wf hw
theorem dadd (h : Bool) (d a b : BitVec 7) : Statement (.dadd h d a b) := fun x hw he => by
  rw [← Option.some.inj he]; exact (decB_0x16 h 0 d a b (by decide)).trans (checked_of_wf hw)
theorem dsub (h : Bool) (d a b : BitVec 7) : Statement (.dsub h d a b) := fun x hw he => by
  rw [← Option.some.inj he]; exact (decB_0x16 h 1 d a b (by decide)).trans (checked_of_wf hw)
theorem dmul (h : Bool) (d a b : BitVec 7) : Statement (.dmul h d a b) := fun x hw he => by
  rw [← Option.some.inj he]; exact (decB_0x16 h 2 d a b (by decide)).trans (checked_of_wf hw)
theorem dfma (h : Bool) (d a b : BitVec 7) : Statement (.dfma h d a b) := fun x hw he => by
  rw [← Option.some.inj he]; exact (decB_0x16 h 3 d a b (by decide)).trans (checked_of_wf hw)
theorem dmin (h : Bool) (d a b : BitVec 7) : Statement (.dmin h d a b) := fun x hw he => by
  rw [← Option.some.inj he]; exact (decB_0x16 h 4 d a b (by decide)).trans (checked_of_wf hw)
theorem dmax (h : Bool) (d a b : BitVec 7) : Statement (.dmax h d a b) := fun x hw he => by
  rw [← Option.some.inj he]; exact (decB_0x16 h 5 d a b (by decide)).trans (checked_of_wf hw)
theorem ddiv (h : Bool) (d a b : BitVec 7) : Statement (.ddiv h d a b) := fun x hw he => by
  rw [← Option.some.inj he]; exact (decB_0x16 h 6 d a b (by decide)).trans (checked_of_wf hw)
theorem dsqrt (h : Bool) (d a : BitVec 7) : Statement (.dsqrt h d a) := fun x hw he => by
  rw [← Option.some.inj he]; exact (decB_0x16 h 7 d a 0 (by decide)).trans (checked_of_wf hw)
theorem deq (h : Bool) (c : BitVec 2) (p : BitVec 3) (a b : BitVec 7) : Statement (.deq h c p a b) := fun x hw he => by
  obtain ⟨e1, e2, e3, e4⟩ := part_pred c p
  rw [← Option.some.inj he]
  refine (decR_0x16 h 8 _ _ _ (by decide) e4 a.isLt b.isLt).trans ?_
  simp only [decDop, e1, e2, e3, BitVec.ofNat_toNat, BitVec.setWidth_eq]
  exact checked_of_wf hw
theorem dlt (h : Bool) (c : BitVec 2) (p : BitVec 3) (a b : BitVec 7) : Statement (.dlt h c p a b) := fun x hw he => by
  obtain ⟨e1, e2, e3, e4⟩ := part_pred c p
  rw [← Option.some.inj he]
  refine (decR_0x16 h 9 _ _ _ (by decide) e4 a.isLt b.isLt).trans ?_
  simp only [decDop, e1, e2, e3, BitVec.ofNat_toNat, BitVec.setWidth_eq]
  exact checked_of_wf hw
theorem dle (h : Bool) (c : BitVec 2) (p : BitVec 3) (a b : BitVec 7) : Statement (.dle h c p a b) := fun x hw he => by
  obtain ⟨e1, e2, e3, e4⟩ := part_pred c p
  rw [← Option.some.inj he]
  refine (decR_0x16 h 10 _ _ _ (by decide) e4 a.isLt b.isLt).trans ?_
  simp only [decDop, e1, e2, e3, BitVec.ofNat_toNat, BitVec.setWidth_eq]
  exact checked_of_wf hw
theorem duno (h : Bool) (c : BitVec 2) (p : BitVec 3) (a b : BitVec 7) : Statement (.duno h c p a b) := fun x hw he => by
  obtain ⟨e1, e2, e3, e4⟩ := part_pred c p
  rw [← Option.some.inj he]
  refine (decR_0x16 h 11 _ _ _ (by decide) e4 a.isLt b.isLt).trans ?_
  simp only [decDop, e1, e2, e3, BitVec.ofNat_toNat, BitVec.setWidth_eq]
  exact checked_of_wf hw
theorem mlmrg (h : Bool) (d a : BitVec 7) : Statement (.mlmrg h d a) := fun x hw he => by
  rw [← Option.some.inj he]; exact (decB_0x17 h 0 d a 0 (by decide)).trans (checked_of_wf hw)
theorem expsub (h : Bool) (d a b : BitVec 7) : Statement (.expsub h d a b) := fun x hw he => by
  rw [← Option.some.inj he]; exact (decB_0x17 h 1 d a b (by decide)).trans (checked_of_wf hw)
theorem rescale (h : Bool) (d a b : BitVec 7) : Statement (.rescale h d a b) := fun x hw he => by
  rw [← Option.some.inj he]; exact (decB_0x17 h 2 d a b (by decide)).trans (checked_of_wf hw)
theorem br (h : Bool) (o : BitVec 25) : Statement (.br h o) := fun x hw he => by
  rw [← Option.some.inj he]
  have := o.isLt;
  have hx : o.toNat < 2 ^ 25 := by omega
  obtain ⟨e25, g31⟩ := encX_fields h 0x18 (o.toNat) (by decide) hx
  have e0 := encX_fld h 0x18 (o.toNat) 0 25 (o.toNat) (by decide) hx (by decide) (by omega)
  rw [decode_0x18 _ e25]
  simp only [g31, e0, BitVec.ofNat_toNat, BitVec.setWidth_eq]
  exact checked_of_wf hw
theorem call (h : Bool) (o : BitVec 25) : Statement (.call h o) := fun x hw he => by
  rw [← Option.some.inj he]
  have := o.isLt;
  have hx : o.toNat < 2 ^ 25 := by omega
  obtain ⟨e25, g31⟩ := encX_fields h 0x19 (o.toNat) (by decide) hx
  have e0 := encX_fld h 0x19 (o.toNat) 0 25 (o.toNat) (by decide) hx (by decide) (by omega)
  rw [decode_0x19 _ e25]
  simp only [g31, e0, BitVec.ofNat_toNat, BitVec.setWidth_eq]
  exact checked_of_wf hw
theorem brp (h : Bool) (p : BitVec 3) (n : Bool) (o : BitVec 21) : Statement (.brp h p n o) := fun x hw he => by
  rw [← Option.some.inj he]
  have := p.isLt; have := hbit_le n; have := o.isLt;
  have hx : p.toNat * 2 ^ 22 + hbit n * 2 ^ 21 + o.toNat < 2 ^ 25 := by omega
  obtain ⟨e25, g31⟩ := encX_fields h 0x1A (p.toNat * 2 ^ 22 + hbit n * 2 ^ 21 + o.toNat) (by decide) hx
  have e0 := encX_fld h 0x1A (p.toNat * 2 ^ 22 + hbit n * 2 ^ 21 + o.toNat) 0 21 (o.toNat) (by decide) hx (by decide) (by omega)
  have e22 := encX_fld h 0x1A (p.toNat * 2 ^ 22 + hbit n * 2 ^ 21 + o.toNat) 22 3 (p.toNat) (by decide) hx (by decide) (by omega)
  have g21 := encX_flag h 0x1A (p.toNat * 2 ^ 22 + hbit n * 2 ^ 21 + o.toNat) 21 n (by decide) hx (by decide) (by omega)
  rw [decode_0x1A _ e25]
  simp only [g31, e0, e22, g21, BitVec.ofNat_toNat, BitVec.setWidth_eq]
  exact checked_of_wf hw
theorem jr (h : Bool) (a : BitVec 7) : Statement (.jr h a) := fun x hw he => by
  rw [← Option.some.inj he]; exact (decB_0x1B h 0 0 a 0 (by decide)).trans (checked_of_wf hw)
theorem callr (h : Bool) (a : BitVec 7) : Statement (.callr h a) := fun x hw he => by
  rw [← Option.some.inj he]; exact (decB_0x1B h 1 0 a 0 (by decide)).trans (checked_of_wf hw)
theorem ret (h : Bool) : Statement (.ret h) := fun x hw he => by
  rw [← Option.some.inj he]; exact (decB_0x1B h 2 0 0 0 (by decide)).trans (checked_of_wf hw)
theorem brx (h : Bool) (a b : BitVec 7) : Statement (.brx h a b) := fun x hw he => by
  rw [← Option.some.inj he]; exact (decB_0x1B h 3 0 a b (by decide)).trans (checked_of_wf hw)
theorem pblk (p n : BitVec 3) (t : BitVec 8) : Statement (.pblk p n t) := fun x hw he => by
  rw [← Option.some.inj he]
  have := p.isLt; have := n.isLt; have := t.isLt;
  have hx : p.toNat * 2 ^ 22 + n.toNat * 2 ^ 19 + t.toNat * 2 ^ 11 < 2 ^ 25 := by omega
  obtain ⟨e25, g31⟩ := encX_fields false 0x1C (p.toNat * 2 ^ 22 + n.toNat * 2 ^ 19 + t.toNat * 2 ^ 11) (by decide) hx
  have e0 := encX_fld false 0x1C (p.toNat * 2 ^ 22 + n.toNat * 2 ^ 19 + t.toNat * 2 ^ 11) 0 11 (0) (by decide) hx (by decide) (by omega)
  have e11 := encX_fld false 0x1C (p.toNat * 2 ^ 22 + n.toNat * 2 ^ 19 + t.toNat * 2 ^ 11) 11 8 (t.toNat) (by decide) hx (by decide) (by omega)
  have e19 := encX_fld false 0x1C (p.toNat * 2 ^ 22 + n.toNat * 2 ^ 19 + t.toNat * 2 ^ 11) 19 3 (n.toNat) (by decide) hx (by decide) (by omega)
  have e22 := encX_fld false 0x1C (p.toNat * 2 ^ 22 + n.toNat * 2 ^ 19 + t.toNat * 2 ^ 11) 22 3 (p.toNat) (by decide) hx (by decide) (by omega)
  rw [decode_0x1C _ e25]
  simp only [decPblk, g31, e0, e11, e19, e22, BitVec.ofNat_toNat, BitVec.setWidth_eq]
  have hn : t.toNat < 2 ^ (n.toNat + 1) := of_decide_eq_true (wf_single rfl hw)
  simp [need, hn]
theorem vany (h : Bool) (d a : BitVec 7) : Statement (.vany h d a) := fun x hw he => by
  rw [← Option.some.inj he]; exact (decB_0x1D h 0 d a 0 (by decide)).trans (checked_of_wf hw)
theorem vall (h : Bool) (d a : BitVec 7) : Statement (.vall h d a) := fun x hw he => by
  rw [← Option.some.inj he]; exact (decB_0x1D h 1 d a 0 (by decide)).trans (checked_of_wf hw)
theorem ballot (h : Bool) (d a : BitVec 7) : Statement (.ballot h d a) := fun x hw he => by
  rw [← Option.some.inj he]; exact (decB_0x1D h 2 d a 0 (by decide)).trans (checked_of_wf hw)
theorem shfidx (h : Bool) (d a b : BitVec 7) : Statement (.shfidx h d a b) := fun x hw he => by
  rw [← Option.some.inj he]; exact (decB_0x1D h 3 d a b (by decide)).trans (checked_of_wf hw)
theorem shfup (h : Bool) (d a b : BitVec 7) : Statement (.shfup h d a b) := fun x hw he => by
  rw [← Option.some.inj he]; exact (decB_0x1D h 4 d a b (by decide)).trans (checked_of_wf hw)
theorem shfdn (h : Bool) (d a b : BitVec 7) : Statement (.shfdn h d a b) := fun x hw he => by
  rw [← Option.some.inj he]; exact (decB_0x1D h 5 d a b (by decide)).trans (checked_of_wf hw)
theorem shfxor (h : Bool) (d a b : BitVec 7) : Statement (.shfxor h d a b) := fun x hw he => by
  rw [← Option.some.inj he]; exact (decB_0x1D h 6 d a b (by decide)).trans (checked_of_wf hw)
theorem gradd (h : Bool) (d a : BitVec 7) : Statement (.gradd h d a) := fun x hw he => by
  rw [← Option.some.inj he]; exact (decB_0x1D h 7 d a 0 (by decide)).trans (checked_of_wf hw)
theorem grfadd (h : Bool) (d a : BitVec 7) : Statement (.grfadd h d a) := fun x hw he => by
  rw [← Option.some.inj he]; exact (decB_0x1D h 8 d a 0 (by decide)).trans (checked_of_wf hw)
theorem grmin (h : Bool) (d a : BitVec 7) (u : Bool) : Statement (.grmin h d a u) := fun x hw he => by
  obtain ⟨e1, e2, e3⟩ := part_bit u
  rw [← Option.some.inj he]
  refine (decR_0x1D h 9 _ _ _ (by decide) d.isLt a.isLt e3).trans ?_
  simp only [decGrp, e1, e2, BitVec.ofNat_toNat, BitVec.setWidth_eq]
  exact checked_of_wf hw
theorem grmax (h : Bool) (d a : BitVec 7) (u : Bool) : Statement (.grmax h d a u) := fun x hw he => by
  obtain ⟨e1, e2, e3⟩ := part_bit u
  rw [← Option.some.inj he]
  refine (decR_0x1D h 10 _ _ _ (by decide) d.isLt a.isLt e3).trans ?_
  simp only [decGrp, e1, e2, BitVec.ofNat_toNat, BitVec.setWidth_eq]
  exact checked_of_wf hw
theorem gmatch (h : Bool) (d a : BitVec 7) : Statement (.gmatch h d a) := fun x hw he => by
  rw [← Option.some.inj he]; exact (decB_0x1D h 11 d a 0 (by decide)).trans (checked_of_wf hw)
theorem elect (h : Bool) (d : BitVec 7) : Statement (.elect h d) := fun x hw he => by
  rw [← Option.some.inj he]; exact (decB_0x1D h 12 d 0 0 (by decide)).trans (checked_of_wf hw)
theorem active (h : Bool) (d : BitVec 7) : Statement (.active h d) := fun x hw he => by
  rw [← Option.some.inj he]; exact (decB_0x1D h 13 d 0 0 (by decide)).trans (checked_of_wf hw)
theorem ld (h : Bool) (d a : BitVec 7) (s : BitVec 3) (o : BitVec 8) : Statement (.ld h d a s o) := fun x hw he => by
  rw [← Option.some.inj he]
  have := d.isLt; have := a.isLt; have := s.isLt; have := o.isLt;
  have hx : d.toNat * 2 ^ 18 + a.toNat * 2 ^ 11 + s.toNat * 2 ^ 8 + o.toNat < 2 ^ 25 := by omega
  obtain ⟨e25, g31⟩ := encX_fields h 0x20 (d.toNat * 2 ^ 18 + a.toNat * 2 ^ 11 + s.toNat * 2 ^ 8 + o.toNat) (by decide) hx
  have e0 := encX_fld h 0x20 (d.toNat * 2 ^ 18 + a.toNat * 2 ^ 11 + s.toNat * 2 ^ 8 + o.toNat) 0 8 (o.toNat) (by decide) hx (by decide) (by omega)
  have e8 := encX_fld h 0x20 (d.toNat * 2 ^ 18 + a.toNat * 2 ^ 11 + s.toNat * 2 ^ 8 + o.toNat) 8 3 (s.toNat) (by decide) hx (by decide) (by omega)
  have e11 := encX_fld h 0x20 (d.toNat * 2 ^ 18 + a.toNat * 2 ^ 11 + s.toNat * 2 ^ 8 + o.toNat) 11 7 (a.toNat) (by decide) hx (by decide) (by omega)
  have e18 := encX_fld h 0x20 (d.toNat * 2 ^ 18 + a.toNat * 2 ^ 11 + s.toNat * 2 ^ 8 + o.toNat) 18 7 (d.toNat) (by decide) hx (by decide) (by omega)
  rw [decode_0x20 _ e25]
  simp only [g31, e0, e8, e11, e18, BitVec.ofNat_toNat, BitVec.setWidth_eq]
  exact checked_of_wf hw
theorem st (h : Bool) (d a : BitVec 7) (s : BitVec 3) (o : BitVec 8) : Statement (.st h d a s o) := fun x hw he => by
  rw [← Option.some.inj he]
  have := d.isLt; have := a.isLt; have := s.isLt; have := o.isLt;
  have hx : d.toNat * 2 ^ 18 + a.toNat * 2 ^ 11 + s.toNat * 2 ^ 8 + o.toNat < 2 ^ 25 := by omega
  obtain ⟨e25, g31⟩ := encX_fields h 0x21 (d.toNat * 2 ^ 18 + a.toNat * 2 ^ 11 + s.toNat * 2 ^ 8 + o.toNat) (by decide) hx
  have e0 := encX_fld h 0x21 (d.toNat * 2 ^ 18 + a.toNat * 2 ^ 11 + s.toNat * 2 ^ 8 + o.toNat) 0 8 (o.toNat) (by decide) hx (by decide) (by omega)
  have e8 := encX_fld h 0x21 (d.toNat * 2 ^ 18 + a.toNat * 2 ^ 11 + s.toNat * 2 ^ 8 + o.toNat) 8 3 (s.toNat) (by decide) hx (by decide) (by omega)
  have e11 := encX_fld h 0x21 (d.toNat * 2 ^ 18 + a.toNat * 2 ^ 11 + s.toNat * 2 ^ 8 + o.toNat) 11 7 (a.toNat) (by decide) hx (by decide) (by omega)
  have e18 := encX_fld h 0x21 (d.toNat * 2 ^ 18 + a.toNat * 2 ^ 11 + s.toNat * 2 ^ 8 + o.toNat) 18 7 (d.toNat) (by decide) hx (by decide) (by omega)
  rw [decode_0x21 _ e25]
  simp only [g31, e0, e8, e11, e18, BitVec.ofNat_toNat, BitVec.setWidth_eq]
  exact checked_of_wf hw
theorem ldx (h : Bool) (s : BitVec 3) (d a b : BitVec 7) : Statement (.ldx h s d a b) := fun x hw he => by
  rw [← Option.some.inj he]
  have := s.isLt; have := d.isLt; have := a.isLt; have := b.isLt;
  have hx : s.toNat * 2 ^ 21 + d.toNat * 2 ^ 14 + a.toNat * 2 ^ 7 + b.toNat < 2 ^ 25 := by omega
  obtain ⟨e25, g31⟩ := encX_fields h 0x22 (s.toNat * 2 ^ 21 + d.toNat * 2 ^ 14 + a.toNat * 2 ^ 7 + b.toNat) (by decide) hx
  have e0 := encX_fld h 0x22 (s.toNat * 2 ^ 21 + d.toNat * 2 ^ 14 + a.toNat * 2 ^ 7 + b.toNat) 0 7 (b.toNat) (by decide) hx (by decide) (by omega)
  have e7 := encX_fld h 0x22 (s.toNat * 2 ^ 21 + d.toNat * 2 ^ 14 + a.toNat * 2 ^ 7 + b.toNat) 7 7 (a.toNat) (by decide) hx (by decide) (by omega)
  have e14 := encX_fld h 0x22 (s.toNat * 2 ^ 21 + d.toNat * 2 ^ 14 + a.toNat * 2 ^ 7 + b.toNat) 14 7 (d.toNat) (by decide) hx (by decide) (by omega)
  have e21 := encX_fld h 0x22 (s.toNat * 2 ^ 21 + d.toNat * 2 ^ 14 + a.toNat * 2 ^ 7 + b.toNat) 21 3 (s.toNat) (by decide) hx (by decide) (by omega)
  have g24 := encX_flag h 0x22 (s.toNat * 2 ^ 21 + d.toNat * 2 ^ 14 + a.toNat * 2 ^ 7 + b.toNat) 24 false (by decide) hx (by decide) (by show _ = 0; omega)
  rw [decode_0x22 _ e25]
  simp only [g31, e0, e7, e14, e21, g24, BitVec.ofNat_toNat, BitVec.setWidth_eq]
  exact checked_of_wf hw
theorem ldxC (h : Bool) (s : BitVec 3) (d a b : BitVec 7) : Statement (.ldxC h s d a b) := fun x hw he => by
  rw [← Option.some.inj he]
  have := s.isLt; have := d.isLt; have := a.isLt; have := b.isLt;
  have hx : 1 * 2 ^ 24 + s.toNat * 2 ^ 21 + d.toNat * 2 ^ 14 + a.toNat * 2 ^ 7 + b.toNat < 2 ^ 25 := by omega
  obtain ⟨e25, g31⟩ := encX_fields h 0x22 (1 * 2 ^ 24 + s.toNat * 2 ^ 21 + d.toNat * 2 ^ 14 + a.toNat * 2 ^ 7 + b.toNat) (by decide) hx
  have e0 := encX_fld h 0x22 (1 * 2 ^ 24 + s.toNat * 2 ^ 21 + d.toNat * 2 ^ 14 + a.toNat * 2 ^ 7 + b.toNat) 0 7 (b.toNat) (by decide) hx (by decide) (by omega)
  have e7 := encX_fld h 0x22 (1 * 2 ^ 24 + s.toNat * 2 ^ 21 + d.toNat * 2 ^ 14 + a.toNat * 2 ^ 7 + b.toNat) 7 7 (a.toNat) (by decide) hx (by decide) (by omega)
  have e14 := encX_fld h 0x22 (1 * 2 ^ 24 + s.toNat * 2 ^ 21 + d.toNat * 2 ^ 14 + a.toNat * 2 ^ 7 + b.toNat) 14 7 (d.toNat) (by decide) hx (by decide) (by omega)
  have e21 := encX_fld h 0x22 (1 * 2 ^ 24 + s.toNat * 2 ^ 21 + d.toNat * 2 ^ 14 + a.toNat * 2 ^ 7 + b.toNat) 21 3 (s.toNat) (by decide) hx (by decide) (by omega)
  have g24 := encX_flag h 0x22 (1 * 2 ^ 24 + s.toNat * 2 ^ 21 + d.toNat * 2 ^ 14 + a.toNat * 2 ^ 7 + b.toNat) 24 true (by decide) hx (by decide) (by show _ = 1; omega)
  rw [decode_0x22 _ e25]
  simp only [g31, e0, e7, e14, e21, g24, BitVec.ofNat_toNat, BitVec.setWidth_eq]
  exact checked_of_wf hw
theorem stx (h : Bool) (s : BitVec 3) (d a b : BitVec 7) : Statement (.stx h s d a b) := fun x hw he => by
  rw [← Option.some.inj he]
  have := s.isLt; have := d.isLt; have := a.isLt; have := b.isLt;
  have hx : s.toNat * 2 ^ 21 + d.toNat * 2 ^ 14 + a.toNat * 2 ^ 7 + b.toNat < 2 ^ 25 := by omega
  obtain ⟨e25, g31⟩ := encX_fields h 0x23 (s.toNat * 2 ^ 21 + d.toNat * 2 ^ 14 + a.toNat * 2 ^ 7 + b.toNat) (by decide) hx
  have e0 := encX_fld h 0x23 (s.toNat * 2 ^ 21 + d.toNat * 2 ^ 14 + a.toNat * 2 ^ 7 + b.toNat) 0 7 (b.toNat) (by decide) hx (by decide) (by omega)
  have e7 := encX_fld h 0x23 (s.toNat * 2 ^ 21 + d.toNat * 2 ^ 14 + a.toNat * 2 ^ 7 + b.toNat) 7 7 (a.toNat) (by decide) hx (by decide) (by omega)
  have e14 := encX_fld h 0x23 (s.toNat * 2 ^ 21 + d.toNat * 2 ^ 14 + a.toNat * 2 ^ 7 + b.toNat) 14 7 (d.toNat) (by decide) hx (by decide) (by omega)
  have e21 := encX_fld h 0x23 (s.toNat * 2 ^ 21 + d.toNat * 2 ^ 14 + a.toNat * 2 ^ 7 + b.toNat) 21 3 (s.toNat) (by decide) hx (by decide) (by omega)
  have g24 := encX_flag h 0x23 (s.toNat * 2 ^ 21 + d.toNat * 2 ^ 14 + a.toNat * 2 ^ 7 + b.toNat) 24 false (by decide) hx (by decide) (by show _ = 0; omega)
  rw [decode_0x23 _ e25]
  simp only [g31, e0, e7, e14, e21, g24, BitVec.ofNat_toNat, BitVec.setWidth_eq]
  have hs : (s != 7) = true := by
    have := List.all_eq_true.mp hw (3, s != 7) (List.mem_cons_self ..)
    exact this
  rw [hs]; exact checked_of_wf hw
theorem ldAcq (h : Bool) (d a : BitVec 7) (s : BitVec 3) (o : BitVec 8) : Statement (.ldAcq h d a s o) := fun x hw he => by
  rw [← Option.some.inj he]
  have := d.isLt; have := a.isLt; have := s.isLt; have := o.isLt;
  have hx : d.toNat * 2 ^ 18 + a.toNat * 2 ^ 11 + s.toNat * 2 ^ 8 + o.toNat < 2 ^ 25 := by omega
  obtain ⟨e25, g31⟩ := encX_fields h 0x24 (d.toNat * 2 ^ 18 + a.toNat * 2 ^ 11 + s.toNat * 2 ^ 8 + o.toNat) (by decide) hx
  have e0 := encX_fld h 0x24 (d.toNat * 2 ^ 18 + a.toNat * 2 ^ 11 + s.toNat * 2 ^ 8 + o.toNat) 0 8 (o.toNat) (by decide) hx (by decide) (by omega)
  have e8 := encX_fld h 0x24 (d.toNat * 2 ^ 18 + a.toNat * 2 ^ 11 + s.toNat * 2 ^ 8 + o.toNat) 8 3 (s.toNat) (by decide) hx (by decide) (by omega)
  have e11 := encX_fld h 0x24 (d.toNat * 2 ^ 18 + a.toNat * 2 ^ 11 + s.toNat * 2 ^ 8 + o.toNat) 11 7 (a.toNat) (by decide) hx (by decide) (by omega)
  have e18 := encX_fld h 0x24 (d.toNat * 2 ^ 18 + a.toNat * 2 ^ 11 + s.toNat * 2 ^ 8 + o.toNat) 18 7 (d.toNat) (by decide) hx (by decide) (by omega)
  rw [decode_0x24 _ e25]
  simp only [g31, e0, e8, e11, e18, BitVec.ofNat_toNat, BitVec.setWidth_eq]
  exact checked_of_wf hw
theorem stRel (h : Bool) (d a : BitVec 7) (s : BitVec 3) (o : BitVec 8) : Statement (.stRel h d a s o) := fun x hw he => by
  rw [← Option.some.inj he]
  have := d.isLt; have := a.isLt; have := s.isLt; have := o.isLt;
  have hx : d.toNat * 2 ^ 18 + a.toNat * 2 ^ 11 + s.toNat * 2 ^ 8 + o.toNat < 2 ^ 25 := by omega
  obtain ⟨e25, g31⟩ := encX_fields h 0x25 (d.toNat * 2 ^ 18 + a.toNat * 2 ^ 11 + s.toNat * 2 ^ 8 + o.toNat) (by decide) hx
  have e0 := encX_fld h 0x25 (d.toNat * 2 ^ 18 + a.toNat * 2 ^ 11 + s.toNat * 2 ^ 8 + o.toNat) 0 8 (o.toNat) (by decide) hx (by decide) (by omega)
  have e8 := encX_fld h 0x25 (d.toNat * 2 ^ 18 + a.toNat * 2 ^ 11 + s.toNat * 2 ^ 8 + o.toNat) 8 3 (s.toNat) (by decide) hx (by decide) (by omega)
  have e11 := encX_fld h 0x25 (d.toNat * 2 ^ 18 + a.toNat * 2 ^ 11 + s.toNat * 2 ^ 8 + o.toNat) 11 7 (a.toNat) (by decide) hx (by decide) (by omega)
  have e18 := encX_fld h 0x25 (d.toNat * 2 ^ 18 + a.toNat * 2 ^ 11 + s.toNat * 2 ^ 8 + o.toNat) 18 7 (d.toNat) (by decide) hx (by decide) (by omega)
  rw [decode_0x25 _ e25]
  simp only [g31, e0, e8, e11, e18, BitVec.ofNat_toNat, BitVec.setWidth_eq]
  exact checked_of_wf hw
theorem aadd (h : Bool) (d a b : BitVec 7) : Statement (.aadd h d a b) := fun x hw he => by
  rw [← Option.some.inj he]; exact (decB_0x26 h 0 d a b (by decide)).trans (checked_of_wf hw)
theorem axch (h : Bool) (d a b : BitVec 7) : Statement (.axch h d a b) := fun x hw he => by
  rw [← Option.some.inj he]; exact (decB_0x26 h 1 d a b (by decide)).trans (checked_of_wf hw)
theorem acas (h : Bool) (d a b : BitVec 7) : Statement (.acas h d a b) := fun x hw he => by
  rw [← Option.some.inj he]; exact (decB_0x26 h 2 d a b (by decide)).trans (checked_of_wf hw)
theorem amin (h : Bool) (d a b : BitVec 7) : Statement (.amin h d a b) := fun x hw he => by
  rw [← Option.some.inj he]; exact (decB_0x26 h 3 d a b (by decide)).trans (checked_of_wf hw)
theorem amax (h : Bool) (d a b : BitVec 7) : Statement (.amax h d a b) := fun x hw he => by
  rw [← Option.some.inj he]; exact (decB_0x26 h 4 d a b (by decide)).trans (checked_of_wf hw)
theorem aminu (h : Bool) (d a b : BitVec 7) : Statement (.aminu h d a b) := fun x hw he => by
  rw [← Option.some.inj he]; exact (decB_0x26 h 5 d a b (by decide)).trans (checked_of_wf hw)
theorem amaxu (h : Bool) (d a b : BitVec 7) : Statement (.amaxu h d a b) := fun x hw he => by
  rw [← Option.some.inj he]; exact (decB_0x26 h 6 d a b (by decide)).trans (checked_of_wf hw)
theorem aand (h : Bool) (d a b : BitVec 7) : Statement (.aand h d a b) := fun x hw he => by
  rw [← Option.some.inj he]; exact (decB_0x26 h 7 d a b (by decide)).trans (checked_of_wf hw)
theorem aor (h : Bool) (d a b : BitVec 7) : Statement (.aor h d a b) := fun x hw he => by
  rw [← Option.some.inj he]; exact (decB_0x26 h 8 d a b (by decide)).trans (checked_of_wf hw)
theorem axor (h : Bool) (d a b : BitVec 7) : Statement (.axor h d a b) := fun x hw he => by
  rw [← Option.some.inj he]; exact (decB_0x26 h 9 d a b (by decide)).trans (checked_of_wf hw)
theorem aincw (h : Bool) (d a b : BitVec 7) : Statement (.aincw h d a b) := fun x hw he => by
  rw [← Option.some.inj he]; exact (decB_0x26 h 10 d a b (by decide)).trans (checked_of_wf hw)
theorem afadd (h : Bool) (d a b : BitVec 7) : Statement (.afadd h d a b) := fun x hw he => by
  rw [← Option.some.inj he]; exact (decB_0x26 h 11 d a b (by decide)).trans (checked_of_wf hw)
theorem aadd64 (h : Bool) (d a b : BitVec 7) : Statement (.aadd64 h d a b) := fun x hw he => by
  rw [← Option.some.inj he]; exact (decB_0x26 h 12 d a b (by decide)).trans (checked_of_wf hw)
theorem acas64 (h : Bool) (d a b : BitVec 7) : Statement (.acas64 h d a b) := fun x hw he => by
  rw [← Option.some.inj he]; exact (decB_0x26 h 13 d a b (by decide)).trans (checked_of_wf hw)
theorem axch64 (h : Bool) (d a b : BitVec 7) : Statement (.axch64 h d a b) := fun x hw he => by
  rw [← Option.some.inj he]; exact (decB_0x26 h 14 d a b (by decide)).trans (checked_of_wf hw)
theorem afmax (h : Bool) (d a b : BitVec 7) : Statement (.afmax h d a b) := fun x hw he => by
  rw [← Option.some.inj he]; exact (decB_0x26 h 15 d a b (by decide)).trans (checked_of_wf hw)
theorem aaddAr (h : Bool) (d a b : BitVec 7) : Statement (.aaddAr h d a b) := fun x hw he => by
  rw [← Option.some.inj he]; exact (decB_0x27 h 0 d a b (by decide)).trans (checked_of_wf hw)
theorem axchAr (h : Bool) (d a b : BitVec 7) : Statement (.axchAr h d a b) := fun x hw he => by
  rw [← Option.some.inj he]; exact (decB_0x27 h 1 d a b (by decide)).trans (checked_of_wf hw)
theorem acasAr (h : Bool) (d a b : BitVec 7) : Statement (.acasAr h d a b) := fun x hw he => by
  rw [← Option.some.inj he]; exact (decB_0x27 h 2 d a b (by decide)).trans (checked_of_wf hw)
theorem aminAr (h : Bool) (d a b : BitVec 7) : Statement (.aminAr h d a b) := fun x hw he => by
  rw [← Option.some.inj he]; exact (decB_0x27 h 3 d a b (by decide)).trans (checked_of_wf hw)
theorem amaxAr (h : Bool) (d a b : BitVec 7) : Statement (.amaxAr h d a b) := fun x hw he => by
  rw [← Option.some.inj he]; exact (decB_0x27 h 4 d a b (by decide)).trans (checked_of_wf hw)
theorem aminuAr (h : Bool) (d a b : BitVec 7) : Statement (.aminuAr h d a b) := fun x hw he => by
  rw [← Option.some.inj he]; exact (decB_0x27 h 5 d a b (by decide)).trans (checked_of_wf hw)
theorem amaxuAr (h : Bool) (d a b : BitVec 7) : Statement (.amaxuAr h d a b) := fun x hw he => by
  rw [← Option.some.inj he]; exact (decB_0x27 h 6 d a b (by decide)).trans (checked_of_wf hw)
theorem aandAr (h : Bool) (d a b : BitVec 7) : Statement (.aandAr h d a b) := fun x hw he => by
  rw [← Option.some.inj he]; exact (decB_0x27 h 7 d a b (by decide)).trans (checked_of_wf hw)
theorem aorAr (h : Bool) (d a b : BitVec 7) : Statement (.aorAr h d a b) := fun x hw he => by
  rw [← Option.some.inj he]; exact (decB_0x27 h 8 d a b (by decide)).trans (checked_of_wf hw)
theorem axorAr (h : Bool) (d a b : BitVec 7) : Statement (.axorAr h d a b) := fun x hw he => by
  rw [← Option.some.inj he]; exact (decB_0x27 h 9 d a b (by decide)).trans (checked_of_wf hw)
theorem aincwAr (h : Bool) (d a b : BitVec 7) : Statement (.aincwAr h d a b) := fun x hw he => by
  rw [← Option.some.inj he]; exact (decB_0x27 h 10 d a b (by decide)).trans (checked_of_wf hw)
theorem afaddAr (h : Bool) (d a b : BitVec 7) : Statement (.afaddAr h d a b) := fun x hw he => by
  rw [← Option.some.inj he]; exact (decB_0x27 h 11 d a b (by decide)).trans (checked_of_wf hw)
theorem aadd64Ar (h : Bool) (d a b : BitVec 7) : Statement (.aadd64Ar h d a b) := fun x hw he => by
  rw [← Option.some.inj he]; exact (decB_0x27 h 12 d a b (by decide)).trans (checked_of_wf hw)
theorem acas64Ar (h : Bool) (d a b : BitVec 7) : Statement (.acas64Ar h d a b) := fun x hw he => by
  rw [← Option.some.inj he]; exact (decB_0x27 h 13 d a b (by decide)).trans (checked_of_wf hw)
theorem axch64Ar (h : Bool) (d a b : BitVec 7) : Statement (.axch64Ar h d a b) := fun x hw he => by
  rw [← Option.some.inj he]; exact (decB_0x27 h 14 d a b (by decide)).trans (checked_of_wf hw)
theorem afmaxAr (h : Bool) (d a b : BitVec 7) : Statement (.afmaxAr h d a b) := fun x hw he => by
  rw [← Option.some.inj he]; exact (decB_0x27 h 15 d a b (by decide)).trans (checked_of_wf hw)
theorem fenceAcq (h : Bool) (b : BitVec 7) : Statement (.fenceAcq h b) := fun x hw he => by
  rw [← Option.some.inj he]; refine (decB_0x28 h 0 0 0 b (by decide)).trans ?_
  have hb := wf_single rfl hw
  show need (decide (b.toNat < 7)) 4 (checked _) = _
  rw [hb]; exact checked_of_wf hw
theorem fenceRel (h : Bool) (b : BitVec 7) : Statement (.fenceRel h b) := fun x hw he => by
  rw [← Option.some.inj he]; refine (decB_0x28 h 1 0 0 b (by decide)).trans ?_
  have hb := wf_single rfl hw
  show need (decide (b.toNat < 7)) 4 (checked _) = _
  rw [hb]; exact checked_of_wf hw
theorem fenceAr (h : Bool) (b : BitVec 7) : Statement (.fenceAr h b) := fun x hw he => by
  rw [← Option.some.inj he]; refine (decB_0x28 h 2 0 0 b (by decide)).trans ?_
  have hb := wf_single rfl hw
  show need (decide (b.toNat < 7)) 4 (checked _) = _
  rw [hb]; exact checked_of_wf hw
theorem fenceSc (h : Bool) (b : BitVec 7) : Statement (.fenceSc h b) := fun x hw he => by
  rw [← Option.some.inj he]; refine (decB_0x28 h 3 0 0 b (by decide)).trans ?_
  have hb := wf_single rfl hw
  show need (decide (b.toNat < 7)) 4 (checked _) = _
  rw [hb]; exact checked_of_wf hw
theorem fenceDrain (h : Bool) (b : BitVec 7) : Statement (.fenceDrain h b) := fun x hw he => by
  rw [← Option.some.inj he]; refine (decB_0x28 h 4 0 0 b (by decide)).trans ?_
  have hb := wf_single rfl hw
  show need (decide (b.toNat < 7)) 4 (checked _) = _
  rw [hb]; exact checked_of_wf hw
theorem pref (h : Bool) (a : BitVec 7) : Statement (.pref h a) := fun x hw he => by
  rw [← Option.some.inj he]; exact (decB_0x29 h 0 0 a 0 (by decide)).trans (checked_of_wf hw)
theorem prefl1 (h : Bool) (a : BitVec 7) : Statement (.prefl1 h a) := fun x hw he => by
  rw [← Option.some.inj he]; exact (decB_0x29 h 1 0 a 0 (by decide)).trans (checked_of_wf hw)
theorem invl1 (h : Bool) (a : BitVec 7) (l : Bool) : Statement (.invl1 h a l) := fun x hw he => by
  obtain ⟨e1, e2, e3⟩ := part_bit l
  rw [← Option.some.inj he]
  refine (decR_0x29 h 2 _ _ _ (by decide) (by decide) a.isLt e3).trans ?_
  simp only [decCctl, e1, e2, BitVec.ofNat_toNat, BitVec.setWidth_eq]
  exact checked_of_wf hw
theorem rdcinv (h : Bool) (a : BitVec 7) (l : Bool) : Statement (.rdcinv h a l) := fun x hw he => by
  obtain ⟨e1, e2, e3⟩ := part_bit l
  rw [← Option.some.inj he]
  refine (decR_0x29 h 3 _ _ _ (by decide) (by decide) a.isLt e3).trans ?_
  simp only [decCctl, e1, e2, BitVec.ofNat_toNat, BitVec.setWidth_eq]
  exact checked_of_wf hw
theorem lempty (h : Bool) (a n : BitVec 7) : Statement (.lempty h a n) := fun x hw he => by
  rw [← Option.some.inj he]; exact (decB_0x29 h 4 0 a n (by decide)).trans (checked_of_wf hw)
theorem lfull (h : Bool) (a n : BitVec 7) : Statement (.lfull h a n) := fun x hw he => by
  rw [← Option.some.inj he]; exact (decB_0x29 h 5 0 a n (by decide)).trans (checked_of_wf hw)
theorem talloc (h : Bool) (d a b : BitVec 7) : Statement (.talloc h d a b) := fun x hw he => by
  rw [← Option.some.inj he]; exact (decB_0x2A h 0 d a b (by decide)).trans (checked_of_wf hw)
theorem trel (h : Bool) (a : BitVec 7) : Statement (.trel h a) := fun x hw he => by
  rw [← Option.some.inj he]; exact (decB_0x2A h 1 0 a 0 (by decide)).trans (checked_of_wf hw)
theorem tdrop (h : Bool) (a b : BitVec 7) : Statement (.tdrop h a b) := fun x hw he => by
  rw [← Option.some.inj he]; exact (decB_0x2A h 2 0 a b (by decide)).trans (checked_of_wf hw)
theorem taddr (h : Bool) (d a b : BitVec 7) : Statement (.taddr h d a b) := fun x hw he => by
  rw [← Option.some.inj he]; exact (decB_0x2A h 3 d a b (by decide)).trans (checked_of_wf hw)
theorem tstat (h : Bool) (d a : BitVec 7) : Statement (.tstat h d a) := fun x hw he => by
  rw [← Option.some.inj he]; exact (decB_0x2A h 4 d a 0 (by decide)).trans (checked_of_wf hw)
theorem tcset (h : Bool) (a b : BitVec 7) : Statement (.tcset h a b) := fun x hw he => by
  rw [← Option.some.inj he]; exact (decB_0x2B h 0 0 a b (by decide)).trans (checked_of_wf hw)
theorem tcadd (h : Bool) (a b : BitVec 7) : Statement (.tcadd h a b) := fun x hw he => by
  rw [← Option.some.inj he]; exact (decB_0x2B h 1 0 a b (by decide)).trans (checked_of_wf hw)
theorem tcwait (h : Bool) (a b : BitVec 7) : Statement (.tcwait h a b) := fun x hw he => by
  rw [← Option.some.inj he]; exact (decB_0x2B h 2 0 a b (by decide)).trans (checked_of_wf hw)
theorem tcread (h : Bool) (d a : BitVec 7) : Statement (.tcread h d a) := fun x hw he => by
  rw [← Option.some.inj he]; exact (decB_0x2B h 3 d a 0 (by decide)).trans (checked_of_wf hw)
theorem cpy (h : Bool) (d a b : BitVec 7) : Statement (.cpy h d a b) := fun x hw he => by
  rw [← Option.some.inj he]; exact (decB_0x30 h 0 d a b (by decide)).trans (checked_of_wf hw)
theorem cpyr (h : Bool) (d a b : BitVec 7) : Statement (.cpyr h d a b) := fun x hw he => by
  rw [← Option.some.inj he]; exact (decB_0x30 h 1 d a b (by decide)).trans (checked_of_wf hw)
theorem cpym (h : Bool) (d a b : BitVec 7) : Statement (.cpym h d a b) := fun x hw he => by
  rw [← Option.some.inj he]; exact (decB_0x30 h 2 d a b (by decide)).trans (checked_of_wf hw)
theorem cpys (h : Bool) (d a b : BitVec 7) : Statement (.cpys h d a b) := fun x hw he => by
  rw [← Option.some.inj he]; exact (decB_0x30 h 3 d a b (by decide)).trans (checked_of_wf hw)
theorem publ (h : Bool) (a : BitVec 7) : Statement (.publ h a) := fun x hw he => by
  rw [← Option.some.inj he]; exact (decB_0x30 h 4 0 a 0 (by decide)).trans (checked_of_wf hw)
theorem cpyt (h : Bool) (k : BitVec 3) (a b : BitVec 7) : Statement (.cpyt h k a b) := fun x hw he => by
  obtain ⟨e1, e2, e3⟩ := part_low k
  rw [← Option.some.inj he]
  refine (decR_0x30 h 5 _ _ _ (by decide) e3 a.isLt b.isLt).trans ?_
  simp only [decCopy, e1, e2, BitVec.ofNat_toNat, BitVec.setWidth_eq]
  exact checked_of_wf hw
theorem cpyw (h : Bool) (d a : BitVec 7) : Statement (.cpyw h d a) := fun x hw he => by
  rw [← Option.some.inj he]; exact (decB_0x30 h 6 d a 0 (by decide)).trans (checked_of_wf hw)
theorem cpyq (h : Bool) (d : BitVec 7) : Statement (.cpyq h d) := fun x hw he => by
  rw [← Option.some.inj he]; exact (decB_0x30 h 7 d 0 0 (by decide)).trans (checked_of_wf hw)
theorem mma8 (h : Bool) (d a b : BitVec 7) : Statement (.mma8 h d a b) := fun x hw he => by
  rw [← Option.some.inj he]; exact (decB_0x31 h 0 d a b (by decide)).trans (checked_of_wf hw)
theorem mma8s (h : Bool) (d a b : BitVec 7) : Statement (.mma8s h d a b) := fun x hw he => by
  rw [← Option.some.inj he]; exact (decB_0x31 h 1 d a b (by decide)).trans (checked_of_wf hw)
theorem mma8g (h : Bool) (d a b : BitVec 7) : Statement (.mma8g h d a b) := fun x hw he => by
  rw [← Option.some.inj he]; exact (decB_0x31 h 2 d a b (by decide)).trans (checked_of_wf hw)
theorem mma8gs (h : Bool) (d a b : BitVec 7) : Statement (.mma8gs h d a b) := fun x hw he => by
  rw [← Option.some.inj he]; exact (decB_0x31 h 3 d a b (by decide)).trans (checked_of_wf hw)
theorem mmah (h : Bool) (d a b : BitVec 7) : Statement (.mmah h d a b) := fun x hw he => by
  rw [← Option.some.inj he]; exact (decB_0x31 h 4 d a b (by decide)).trans (checked_of_wf hw)
theorem mmab (h : Bool) (d a b : BitVec 7) : Statement (.mmab h d a b) := fun x hw he => by
  rw [← Option.some.inj he]; exact (decB_0x31 h 5 d a b (by decide)).trans (checked_of_wf hw)
theorem mzero (h : Bool) (d : BitVec 7) : Statement (.mzero h d) := fun x hw he => by
  rw [← Option.some.inj he]; exact (decB_0x31 h 6 d 0 0 (by decide)).trans (checked_of_wf hw)
theorem mldc (h : Bool) (d a b : BitVec 7) : Statement (.mldc h d a b) := fun x hw he => by
  rw [← Option.some.inj he]; exact (decB_0x31 h 7 d a b (by decide)).trans (checked_of_wf hw)
theorem mstc (h : Bool) (d a b : BitVec 7) : Statement (.mstc h d a b) := fun x hw he => by
  rw [← Option.some.inj he]; exact (decB_0x31 h 8 d a b (by decide)).trans (checked_of_wf hw)
theorem mwait (h : Bool) (d a : BitVec 7) : Statement (.mwait h d a) := fun x hw he => by
  rw [← Option.some.inj he]; exact (decB_0x31 h 9 d a 0 (by decide)).trans (checked_of_wf hw)
theorem mstat (h : Bool) (d : BitVec 7) : Statement (.mstat h d) := fun x hw he => by
  rw [← Option.some.inj he]; exact (decB_0x31 h 10 d 0 0 (by decide)).trans (checked_of_wf hw)
theorem macq (h : Bool) (d : BitVec 7) : Statement (.macq h d) := fun x hw he => by
  rw [← Option.some.inj he]; exact (decB_0x32 h 0 d 0 0 (by decide)).trans (checked_of_wf hw)
theorem mpass (h : Bool) (a : BitVec 7) : Statement (.mpass h a) := fun x hw he => by
  rw [← Option.some.inj he]; exact (decB_0x32 h 1 0 a 0 (by decide)).trans (checked_of_wf hw)
theorem mrel (h : Bool) : Statement (.mrel h) := fun x hw he => by
  rw [← Option.some.inj he]; exact (decB_0x32 h 2 0 0 0 (by decide)).trans (checked_of_wf hw)
theorem mwho (h : Bool) (d : BitVec 7) : Statement (.mwho h d) := fun x hw he => by
  rw [← Option.some.inj he]; exact (decB_0x32 h 3 d 0 0 (by decide)).trans (checked_of_wf hw)
theorem tknext (h : Bool) (d a : BitVec 7) : Statement (.tknext h d a) := fun x hw he => by
  rw [← Option.some.inj he]; exact (decB_0x33 h 0 d a 0 (by decide)).trans (checked_of_wf hw)
theorem tkdone (h : Bool) : Statement (.tkdone h) := fun x hw he => by
  rw [← Option.some.inj he]; exact (decB_0x33 h 1 0 0 0 (by decide)).trans (checked_of_wf hw)
theorem tkpost (h : Bool) (a : BitVec 7) : Statement (.tkpost h a) := fun x hw he => by
  rw [← Option.some.inj he]; exact (decB_0x33 h 2 0 a 0 (by decide)).trans (checked_of_wf hw)
theorem tkspec (h : Bool) : Statement (.tkspec h) := fun x hw he => by
  rw [← Option.some.inj he]; exact (decB_0x33 h 3 0 0 0 (by decide)).trans (checked_of_wf hw)
theorem tkabort (h : Bool) : Statement (.tkabort h) := fun x hw he => by
  rw [← Option.some.inj he]; exact (decB_0x33 h 4 0 0 0 (by decide)).trans (checked_of_wf hw)
theorem tksucc (h : Bool) (a : BitVec 7) : Statement (.tksucc h a) := fun x hw he => by
  rw [← Option.some.inj he]; exact (decB_0x33 h 5 0 a 0 (by decide)).trans (checked_of_wf hw)
theorem launch (h : Bool) (d a b : BitVec 7) : Statement (.launch h d a b) := fun x hw he => by
  rw [← Option.some.inj he]; exact (decB_0x34 h 0 d a b (by decide)).trans (checked_of_wf hw)
theorem lwait (h : Bool) (d a : BitVec 7) : Statement (.lwait h d a) := fun x hw he => by
  rw [← Option.some.inj he]; exact (decB_0x34 h 1 d a 0 (by decide)).trans (checked_of_wf hw)
theorem lstat (h : Bool) (d a : BitVec 7) : Statement (.lstat h d a) := fun x hw he => by
  rw [← Option.some.inj he]; exact (decB_0x34 h 2 d a 0 (by decide)).trans (checked_of_wf hw)
theorem role (h : Bool) (d a b : BitVec 7) : Statement (.role h d a b) := fun x hw he => by
  rw [← Option.some.inj he]; exact (decB_0x34 h 3 d a b (by decide)).trans (checked_of_wf hw)
theorem aqpost (h : Bool) (d a : BitVec 7) : Statement (.aqpost h d a) := fun x hw he => by
  rw [← Option.some.inj he]; exact (decB_0x35 h 0 d a 0 (by decide)).trans (checked_of_wf hw)
theorem aqwait (h : Bool) (d a : BitVec 7) : Statement (.aqwait h d a) := fun x hw he => by
  rw [← Option.some.inj he]; exact (decB_0x35 h 1 d a 0 (by decide)).trans (checked_of_wf hw)
theorem aqstat (h : Bool) (d a : BitVec 7) : Statement (.aqstat h d a) := fun x hw he => by
  rw [← Option.some.inj he]; exact (decB_0x35 h 2 d a 0 (by decide)).trans (checked_of_wf hw)
theorem aqcancel (h : Bool) (a : BitVec 7) : Statement (.aqcancel h a) := fun x hw he => by
  rw [← Option.some.inj he]; exact (decB_0x35 h 3 0 a 0 (by decide)).trans (checked_of_wf hw)
theorem ndrain (h : Bool) (d : BitVec 7) : Statement (.ndrain h d) := fun x hw he => by
  rw [← Option.some.inj he]; exact (decB_0x36 h 0 d 0 0 (by decide)).trans (checked_of_wf hw)
theorem ngen (h : Bool) (d a : BitVec 7) (w : Bool) : Statement (.ngen h d a w) := fun x hw he => by
  obtain ⟨e1, e2, e3⟩ := part_bit w
  rw [← Option.some.inj he]
  refine (decR_0x36 h 1 _ _ _ (by decide) d.isLt a.isLt e3).trans ?_
  simp only [decNet, e1, e2, BitVec.ofNat_toNat, BitVec.setWidth_eq]
  exact checked_of_wf hw
theorem npath (h : Bool) (d a : BitVec 7) : Statement (.npath h d a) := fun x hw he => by
  rw [← Option.some.inj he]; exact (decB_0x36 h 2 d a 0 (by decide)).trans (checked_of_wf hw)
theorem clpost (h : Bool) (d a : BitVec 7) : Statement (.clpost h d a) := fun x hw he => by
  rw [← Option.some.inj he]; exact (decB_0x37 h 0 d a 0 (by decide)).trans (checked_of_wf hw)
theorem clwait (h : Bool) (d a : BitVec 7) : Statement (.clwait h d a) := fun x hw he => by
  rw [← Option.some.inj he]; exact (decB_0x37 h 1 d a 0 (by decide)).trans (checked_of_wf hw)
theorem clstat (h : Bool) (d a : BitVec 7) : Statement (.clstat h d a) := fun x hw he => by
  rw [← Option.some.inj he]; exact (decB_0x37 h 2 d a 0 (by decide)).trans (checked_of_wf hw)
theorem clroute (h : Bool) (a : BitVec 7) (l : BitVec 3) (n : BitVec 4) : Statement (.clroute h a l n) := fun x hw he => by
  obtain ⟨e1, e2, e3⟩ := part_route l n
  rw [← Option.some.inj he]
  refine (decR_0x37 h 3 _ _ _ (by decide) (by decide) a.isLt e3).trans ?_
  simp only [decColl, e1, e2, BitVec.ofNat_toNat, BitVec.setWidth_eq]
  exact checked_of_wf hw
theorem resultDelivery (t : Tid) (id : Nat) (part : Option Nat) : Statement (.resultDelivery t id part) := fun _ _ he => by cases he
theorem segmentHorizon (t : Tid) : Statement (.segmentHorizon t) := fun _ _ he => by cases he
theorem joinTimeout (t : Tid) : Statement (.joinTimeout t) := fun _ _ he => by cases he
theorem napExpiry (t : Tid) : Statement (.napExpiry t) := fun _ _ he => by cases he
theorem barPhaseComplete (l : LRef) (level set : Nat) : Statement (.barPhaseComplete l level set) := fun _ _ he => by cases he
theorem launchCommand (src : CmdSrc) : Statement (.launchCommand src) := fun _ _ he => by cases he
theorem pendingPoolCheck (die : Nat) : Statement (.pendingPoolCheck die) := fun _ _ he => by cases he
theorem teamPlacement (l : LRef) (cluster : Nat) (cores : List Nat) : Statement (.teamPlacement l cluster cores) := fun _ _ he => by cases he
theorem launchComplete (l : LRef) : Statement (.launchComplete l) := fun _ _ he => by cases he
theorem blockedTeamSwap (l : LRef) (team : Nat) : Statement (.blockedTeamSwap l team) := fun _ _ he => by cases he
theorem timeSliceExpiry (l : LRef) (team : Nat) : Statement (.timeSliceExpiry l team) := fun _ _ he => by cases he
theorem drainTimeout (l : LRef) (team : Nat) : Statement (.drainTimeout l team) := fun _ _ he => by cases he
theorem teamSave (l : LRef) (team : Nat) : Statement (.teamSave l team) := fun _ _ he => by cases he
theorem teamRestore (l : LRef) (team cluster : Nat) (cores : List Nat) : Statement (.teamRestore l team cluster cores) := fun _ _ he => by cases he
theorem armedFire (id : Nat) : Statement (.armedFire id) := fun _ _ he => by cases he
theorem copyUnit (id u : Nat) : Statement (.copyUnit id u) := fun _ _ he => by cases he
theorem publishFlip (id : Nat) : Statement (.publishFlip id) := fun _ _ he => by cases he
theorem matrixStep (core : Nat) : Statement (.matrixStep core) := fun _ _ he => by cases he
theorem tallocGrant (t : Tid) (id rank slot : Nat) : Statement (.tallocGrant t id rank slot) := fun _ _ he => by cases he
theorem poolStarvation (cluster : Nat) (l : LRef) : Statement (.poolStarvation cluster l) := fun _ _ he => by cases he
theorem tileFree (cluster rank slot : Nat) : Statement (.tileFree cluster rank slot) := fun _ _ he => by cases he
theorem taskDelivery (gid : Nat) : Statement (.taskDelivery gid) := fun _ _ he => by cases he
theorem qry (qid page : Nat) : Statement (.qry qid page) := fun _ _ he => by cases he
theorem bauScan (bau : Nat) : Statement (.bauScan bau) := fun _ _ he => by cases he
theorem refresh (bau : Nat) : Statement (.refresh bau) := fun _ _ he => by cases he
theorem rpl (qid page : Nat) : Statement (.rpl qid page) := fun _ _ he => by cases he
theorem cxl (qid page : Nat) : Statement (.cxl qid page) := fun _ _ he => by cases he
theorem wcbFlush (die asid line : Nat) : Statement (.wcbFlush die asid line) := fun _ _ he => by cases he
theorem tlbinvComplete : Statement (.tlbinvComplete) := fun _ _ he => by cases he
theorem slotBoundary : Statement (.slotBoundary) := fun _ _ he => by cases he
theorem dataWindowStart : Statement (.dataWindowStart) := fun _ _ he => by cases he
theorem tuningTimeout (port : Nat) : Statement (.tuningTimeout port) := fun _ _ he => by cases he
theorem portFailed (port : Nat) : Statement (.portFailed port) := fun _ _ he => by cases he
theorem preamble (port : Nat) (msg : PreambleMsg) : Statement (.preamble port msg) := fun _ _ he => by cases he
theorem ackFlit (port : Nat) (msg : AckMsg) : Statement (.ackFlit port msg) := fun _ _ he => by cases he
theorem cutOff (pkg : Nat) : Statement (.cutOff pkg) := fun _ _ he => by cases he
theorem broadcastMemberDrop (port member : Nat) : Statement (.broadcastMemberDrop port member) := fun _ _ he => by cases he
theorem cycleSteer : Statement (.cycleSteer) := fun _ _ he => by cases he
theorem generationChange : Statement (.generationChange) := fun _ _ he => by cases he
theorem portDrained (port : Nat) : Statement (.portDrained port) := fun _ _ he => by cases he
theorem portTrained (port : Nat) : Statement (.portTrained port) := fun _ _ he => by cases he
theorem readRequest (rx : Rx) : Statement (.readRequest rx) := fun _ _ he => by cases he
theorem readReply (rx : Rx) : Statement (.readReply rx) := fun _ _ he => by cases he
theorem pktWrite (rx : Rx) : Statement (.pktWrite rx) := fun _ _ he => by cases he
theorem pktAtomic (rx : Rx) : Statement (.pktAtomic rx) := fun _ _ he => by cases he
theorem completion (rx : Rx) : Statement (.completion rx) := fun _ _ he => by cases he
theorem copyUnits (rx : Rx) : Statement (.copyUnits rx) := fun _ _ he => by cases he
theorem copyCompletion (rx : Rx) : Statement (.copyCompletion rx) := fun _ _ he => by cases he
theorem reduceCopyUnits (rx : Rx) : Statement (.reduceCopyUnits rx) := fun _ _ he => by cases he
theorem publish (rx : Rx) : Statement (.publish rx) := fun _ _ he => by cases he
theorem reservedPacket (rx : Rx) : Statement (.reservedPacket rx) := fun _ _ he => by cases he
theorem collectiveData (rx : Rx) : Statement (.collectiveData rx) := fun _ _ he => by cases he
theorem collectiveAbort (rx : Rx) : Statement (.collectiveAbort rx) := fun _ _ he => by cases he
theorem gangStart (rx : Rx) : Statement (.gangStart rx) := fun _ _ he => by cases he
theorem gangAccept (rx : Rx) : Statement (.gangAccept rx) := fun _ _ he => by cases he
theorem gangRefuse (rx : Rx) : Statement (.gangRefuse rx) := fun _ _ he => by cases he
theorem gangGo (rx : Rx) : Statement (.gangGo rx) := fun _ _ he => by cases he
theorem gangCancel (rx : Rx) : Statement (.gangCancel rx) := fun _ _ he => by cases he
theorem gangAbort (rx : Rx) : Statement (.gangAbort rx) := fun _ _ he => by cases he
theorem gangDone (rx : Rx) : Statement (.gangDone rx) := fun _ _ he => by cases he
theorem gangStartTimeout (l : LRef) : Statement (.gangStartTimeout l) := fun _ _ he => by cases he
theorem gangDiscardTimeout (l : LRef) : Statement (.gangDiscardTimeout l) := fun _ _ he => by cases he
theorem barrierArrive (rx : Rx) : Statement (.barrierArrive rx) := fun _ _ he => by cases he
theorem barrierRelease (rx : Rx) : Statement (.barrierRelease rx) := fun _ _ he => by cases he
theorem hostCopy (src : CmdSrc) : Statement (.hostCopy src) := fun _ _ he => by cases he
theorem signal (src : CmdSrc) : Statement (.signal src) := fun _ _ he => by cases he
theorem hostWait (src : CmdSrc) : Statement (.hostWait src) := fun _ _ he => by cases he
theorem calLoad (src : CmdSrc) : Statement (.calLoad src) := fun _ _ he => by cases he
theorem portDrain (src : CmdSrc) : Statement (.portDrain src) := fun _ _ he => by cases he
theorem portRetrain (src : CmdSrc) : Statement (.portRetrain src) := fun _ _ he => by cases he
theorem calStatus (src : CmdSrc) : Statement (.calStatus src) := fun _ _ he => by cases he
theorem faultReplay (src : CmdSrc) : Statement (.faultReplay src) := fun _ _ he => by cases he
theorem attest (src : CmdSrc) : Statement (.attest src) := fun _ _ he => by cases he
theorem ownerClaim (src : CmdSrc) : Statement (.ownerClaim src) := fun _ _ he => by cases he
theorem ownerYield (src : CmdSrc) : Statement (.ownerYield src) := fun _ _ he => by cases he
theorem doorbell (q : Nat) (x : Word) : Statement (.doorbell q x) := fun _ _ he => by cases he
theorem tlbinv (a : Agent) (v : Word) : Statement (.tlbinv a v) := fun _ _ he => by cases he
theorem resetWrite (a : Agent) (v : Word) : Statement (.resetWrite a v) := fun _ _ he => by cases he
theorem abortWrite (a : Agent) (die : Nat) (v : Word) : Statement (.abortWrite a die v) := fun _ _ he => by cases he
theorem dbgHalt (a : Agent) (die : Nat) (v : Word) : Statement (.dbgHalt a die v) := fun _ _ he => by cases he
theorem dbgGo (a : Agent) (die : Nat) (v : Word) : Statement (.dbgGo a die v) := fun _ _ he => by cases he
theorem dbgStep (a : Agent) (die : Nat) (v : Word) : Statement (.dbgStep a die v) := fun _ _ he => by cases he
theorem dbgData (a : Agent) (die : Nat) (v : Word) : Statement (.dbgData a die v) := fun _ _ he => by cases he
theorem bar4Read (off n : Nat) : Statement (.bar4Read off n) := fun _ _ he => by cases he
theorem bar4Write (off : Nat) (data : List Byte) : Statement (.bar4Write off data) := fun _ _ he => by cases he
theorem registerWrite (a : Agent) (off : Nat) (v : Word) : Statement (.registerWrite a off v) := fun _ _ he => by cases he
theorem moduleReset : Statement (.moduleReset) := fun _ _ he => by cases he
theorem bringUpStage (ok : Bool) : Statement (.bringUpStage ok) := fun _ _ he => by cases he
theorem clockStep (up : Bool) : Statement (.clockStep up) := fun _ _ he => by cases he
theorem coolantFatal : Statement (.coolantFatal) := fun _ _ he => by cases he
theorem linkFailure : Statement (.linkFailure) := fun _ _ he => by cases he
theorem writePerformed (t : Tid) (id : Nat) : Statement (.writePerformed t id) := fun _ _ he => by cases he
theorem instructionFetch (t : Tid) : Statement (.instructionFetch t) := fun _ _ he => by cases he
theorem notAnInstruction (w : Word) (reason : Nat) : Statement (.notAnInstruction w reason) := fun _ _ he => by cases he
theorem ringLocked (port : Nat) : Statement (.ringLocked port) := fun _ _ he => by cases he
theorem completionTimeout (t : Tid) (id : Nat) : Statement (.completionTimeout t id) := fun _ _ he => by cases he
theorem unitPoisoned (key : Nat) : Statement (.unitPoisoned key) := fun _ _ he => by cases he

end RoundTrip
end Sys2Proof.Laws
end

