-- ==== Sys2Proof/Laws/State.lean ====
section
/-! SUPPORT. State.lean: what the updates of the state leave as it was, one lemma for each field; and what a thread is after a change. -/
namespace Sys2Proof.Laws
open Sys2Proof.Machine Sys2Proof.Safety

/-! A change of a group, of a thread, of a launch, of a team, and the state past a word. -/

@[simp] theorem modGroup_agenda (s : State) (n : Nat) (f : Group → Group) : (s.modGroup n f).agenda = s.agenda := rfl
@[simp] theorem modGroup_flip (s : State) (n : Nat) (f : Group → Group) : (s.modGroup n f).flip = s.flip := rfl
@[simp] theorem modGroup_turn (s : State) (n : Nat) (f : Group → Group) : (s.modGroup n f).turn = s.turn := rfl
@[simp] theorem modGroup_cur (s : State) (n : Nat) (f : Group → Group) : (s.modGroup n f).cur = s.cur := rfl
@[simp] theorem modGroup_cons (s : State) (n : Nat) (f : Group → Group) : (s.modGroup n f).cons = s.cons := rfl
@[simp] theorem modGroup_gather (s : State) (n : Nat) (f : Group → Group) : (s.modGroup n f).gather = s.gather := rfl
@[simp] theorem modGroup_age (s : State) (n : Nat) (f : Group → Group) : (s.modGroup n f).age = s.age := rfl
@[simp] theorem modGroup_nextId (s : State) (n : Nat) (f : Group → Group) : (s.modGroup n f).nextId = s.nextId := rfl
@[simp] theorem modGroup_freeCtr (s : State) (n : Nat) (f : Group → Group) : (s.modGroup n f).freeCtr = s.freeCtr := rfl
@[simp] theorem modGroup_mem (s : State) (n : Nat) (f : Group → Group) : (s.modGroup n f).mem = s.mem := rfl
@[simp] theorem modGroup_poison (s : State) (n : Nat) (f : Group → Group) : (s.modGroup n f).poison = s.poison := rfl
@[simp] theorem modGroup_lines (s : State) (n : Nat) (f : Group → Group) : (s.modGroup n f).lines = s.lines := rfl
@[simp] theorem modGroup_l1 (s : State) (n : Nat) (f : Group → Group) : (s.modGroup n f).l1 = s.l1 := rfl
@[simp] theorem modGroup_rdc (s : State) (n : Nat) (f : Group → Group) : (s.modGroup n f).rdc = s.rdc := rfl
@[simp] theorem modGroup_mtlb (s : State) (n : Nat) (f : Group → Group) : (s.modGroup n f).mtlb = s.mtlb := rfl
@[simp] theorem modGroup_roots (s : State) (n : Nat) (f : Group → Group) : (s.modGroup n f).roots = s.roots := rfl
@[simp] theorem modGroup_launches (s : State) (n : Nat) (f : Group → Group) : (s.modGroup n f).launches = s.launches := rfl
@[simp] theorem modGroup_nextGid (s : State) (n : Nat) (f : Group → Group) : (s.modGroup n f).nextGid = s.nextGid := rfl
@[simp] theorem modGroup_ns (s : State) (n : Nat) (f : Group → Group) : (s.modGroup n f).ns = s.ns := rfl
@[simp] theorem modGroup_pkgId (s : State) (n : Nat) (f : Group → Group) : (s.modGroup n f).pkgId = s.pkgId := rfl
@[simp] theorem modGroup_netWeights (s : State) (n : Nat) (f : Group → Group) : (s.modGroup n f).netWeights = s.netWeights := rfl
@[simp] theorem modGroup_tiles (s : State) (n : Nat) (f : Group → Group) : (s.modGroup n f).tiles = s.tiles := rfl
@[simp] theorem modGroup_recs (s : State) (n : Nat) (f : Group → Group) : (s.modGroup n f).recs = s.recs := rfl
@[simp] theorem modGroup_pool (s : State) (n : Nat) (f : Group → Group) : (s.modGroup n f).pool = s.pool := rfl
@[simp] theorem modGroup_kept (s : State) (n : Nat) (f : Group → Group) : (s.modGroup n f).kept = s.kept := rfl
@[simp] theorem modGroup_trigs (s : State) (n : Nat) (f : Group → Group) : (s.modGroup n f).trigs = s.trigs := rfl
@[simp] theorem modGroup_copies (s : State) (n : Nat) (f : Group → Group) : (s.modGroup n f).copies = s.copies := rfl
@[simp] theorem modGroup_flips (s : State) (n : Nat) (f : Group → Group) : (s.modGroup n f).flips = s.flips := rfl
@[simp] theorem modGroup_engines (s : State) (n : Nat) (f : Group → Group) : (s.modGroup n f).engines = s.engines := rfl
@[simp] theorem modGroup_savedEng (s : State) (n : Nat) (f : Group → Group) : (s.modGroup n f).savedEng = s.savedEng := rfl
@[simp] theorem modGroup_queries (s : State) (n : Nat) (f : Group → Group) : (s.modGroup n f).queries = s.queries := rfl
@[simp] theorem modGroup_bauq (s : State) (n : Nat) (f : Group → Group) : (s.modGroup n f).bauq = s.bauq := rfl
@[simp] theorem modGroup_routes (s : State) (n : Nat) (f : Group → Group) : (s.modGroup n f).routes = s.routes := rfl
@[simp] theorem modGroup_colls (s : State) (n : Nat) (f : Group → Group) : (s.modGroup n f).colls = s.colls := rfl
@[simp] theorem modGroup_heldColl (s : State) (n : Nat) (f : Group → Group) : (s.modGroup n f).heldColl = s.heldColl := rfl
@[simp] theorem modGroup_aborts (s : State) (n : Nat) (f : Group → Group) : (s.modGroup n f).aborts = s.aborts := rfl
@[simp] theorem modGroup_gangs (s : State) (n : Nat) (f : Group → Group) : (s.modGroup n f).gangs = s.gangs := rfl
@[simp] theorem modGroup_barArr (s : State) (n : Nat) (f : Group → Group) : (s.modGroup n f).barArr = s.barArr := rfl
@[simp] theorem modGroup_frecs (s : State) (n : Nat) (f : Group → Group) : (s.modGroup n f).frecs = s.frecs := rfl
@[simp] theorem modGroup_dies (s : State) (n : Nat) (f : Group → Group) : (s.modGroup n f).dies = s.dies := rfl
@[simp] theorem modGroup_errs (s : State) (n : Nat) (f : Group → Group) : (s.modGroup n f).errs = s.errs := rfl
@[simp] theorem modGroup_calSlot (s : State) (n : Nat) (f : Group → Group) : (s.modGroup n f).calSlot = s.calSlot := rfl
@[simp] theorem modGroup_calCycle (s : State) (n : Nat) (f : Group → Group) : (s.modGroup n f).calCycle = s.calCycle := rfl
@[simp] theorem modGroup_net (s : State) (n : Nat) (f : Group → Group) : (s.modGroup n f).net = s.net := rfl
@[simp] theorem modGroup_ctl (s : State) (n : Nat) (f : Group → Group) : (s.modGroup n f).ctl = s.ctl := rfl
@[simp] theorem modGroup_windows (s : State) (n : Nat) (f : Group → Group) : (s.modGroup n f).windows = s.windows := rfl
@[simp] theorem modGroup_podKeys (s : State) (n : Nat) (f : Group → Group) : (s.modGroup n f).podKeys = s.podKeys := rfl
@[simp] theorem modGroup_queues (s : State) (n : Nat) (f : Group → Group) : (s.modGroup n f).queues = s.queues := rfl
@[simp] theorem modGroup_cmds (s : State) (n : Nat) (f : Group → Group) : (s.modGroup n f).cmds = s.cmds := rfl
@[simp] theorem modGroup_chanOut (s : State) (n : Nat) (f : Group → Group) : (s.modGroup n f).chanOut = s.chanOut := rfl
@[simp] theorem modGroup_bar4 (s : State) (n : Nat) (f : Group → Group) : (s.modGroup n f).bar4 = s.bar4 := rfl

@[simp] theorem modThread_agenda (s : State) (t : Tid) (f : Thread → Thread) : (s.modThread t f).agenda = s.agenda := rfl
@[simp] theorem modThread_flip (s : State) (t : Tid) (f : Thread → Thread) : (s.modThread t f).flip = s.flip := rfl
@[simp] theorem modThread_turn (s : State) (t : Tid) (f : Thread → Thread) : (s.modThread t f).turn = s.turn := rfl
@[simp] theorem modThread_cur (s : State) (t : Tid) (f : Thread → Thread) : (s.modThread t f).cur = s.cur := rfl
@[simp] theorem modThread_cons (s : State) (t : Tid) (f : Thread → Thread) : (s.modThread t f).cons = s.cons := rfl
@[simp] theorem modThread_gather (s : State) (t : Tid) (f : Thread → Thread) : (s.modThread t f).gather = s.gather := rfl
@[simp] theorem modThread_age (s : State) (t : Tid) (f : Thread → Thread) : (s.modThread t f).age = s.age := rfl
@[simp] theorem modThread_nextId (s : State) (t : Tid) (f : Thread → Thread) : (s.modThread t f).nextId = s.nextId := rfl
@[simp] theorem modThread_freeCtr (s : State) (t : Tid) (f : Thread → Thread) : (s.modThread t f).freeCtr = s.freeCtr := rfl
@[simp] theorem modThread_mem (s : State) (t : Tid) (f : Thread → Thread) : (s.modThread t f).mem = s.mem := rfl
@[simp] theorem modThread_poison (s : State) (t : Tid) (f : Thread → Thread) : (s.modThread t f).poison = s.poison := rfl
@[simp] theorem modThread_lines (s : State) (t : Tid) (f : Thread → Thread) : (s.modThread t f).lines = s.lines := rfl
@[simp] theorem modThread_l1 (s : State) (t : Tid) (f : Thread → Thread) : (s.modThread t f).l1 = s.l1 := rfl
@[simp] theorem modThread_rdc (s : State) (t : Tid) (f : Thread → Thread) : (s.modThread t f).rdc = s.rdc := rfl
@[simp] theorem modThread_mtlb (s : State) (t : Tid) (f : Thread → Thread) : (s.modThread t f).mtlb = s.mtlb := rfl
@[simp] theorem modThread_roots (s : State) (t : Tid) (f : Thread → Thread) : (s.modThread t f).roots = s.roots := rfl
@[simp] theorem modThread_launches (s : State) (t : Tid) (f : Thread → Thread) : (s.modThread t f).launches = s.launches := rfl
@[simp] theorem modThread_nextGid (s : State) (t : Tid) (f : Thread → Thread) : (s.modThread t f).nextGid = s.nextGid := rfl
@[simp] theorem modThread_ns (s : State) (t : Tid) (f : Thread → Thread) : (s.modThread t f).ns = s.ns := rfl
@[simp] theorem modThread_pkgId (s : State) (t : Tid) (f : Thread → Thread) : (s.modThread t f).pkgId = s.pkgId := rfl
@[simp] theorem modThread_netWeights (s : State) (t : Tid) (f : Thread → Thread) : (s.modThread t f).netWeights = s.netWeights := rfl
@[simp] theorem modThread_tiles (s : State) (t : Tid) (f : Thread → Thread) : (s.modThread t f).tiles = s.tiles := rfl
@[simp] theorem modThread_recs (s : State) (t : Tid) (f : Thread → Thread) : (s.modThread t f).recs = s.recs := rfl
@[simp] theorem modThread_pool (s : State) (t : Tid) (f : Thread → Thread) : (s.modThread t f).pool = s.pool := rfl
@[simp] theorem modThread_kept (s : State) (t : Tid) (f : Thread → Thread) : (s.modThread t f).kept = s.kept := rfl
@[simp] theorem modThread_trigs (s : State) (t : Tid) (f : Thread → Thread) : (s.modThread t f).trigs = s.trigs := rfl
@[simp] theorem modThread_copies (s : State) (t : Tid) (f : Thread → Thread) : (s.modThread t f).copies = s.copies := rfl
@[simp] theorem modThread_flips (s : State) (t : Tid) (f : Thread → Thread) : (s.modThread t f).flips = s.flips := rfl
@[simp] theorem modThread_engines (s : State) (t : Tid) (f : Thread → Thread) : (s.modThread t f).engines = s.engines := rfl
@[simp] theorem modThread_savedEng (s : State) (t : Tid) (f : Thread → Thread) : (s.modThread t f).savedEng = s.savedEng := rfl
@[simp] theorem modThread_queries (s : State) (t : Tid) (f : Thread → Thread) : (s.modThread t f).queries = s.queries := rfl
@[simp] theorem modThread_bauq (s : State) (t : Tid) (f : Thread → Thread) : (s.modThread t f).bauq = s.bauq := rfl
@[simp] theorem modThread_routes (s : State) (t : Tid) (f : Thread → Thread) : (s.modThread t f).routes = s.routes := rfl
@[simp] theorem modThread_colls (s : State) (t : Tid) (f : Thread → Thread) : (s.modThread t f).colls = s.colls := rfl
@[simp] theorem modThread_heldColl (s : State) (t : Tid) (f : Thread → Thread) : (s.modThread t f).heldColl = s.heldColl := rfl
@[simp] theorem modThread_aborts (s : State) (t : Tid) (f : Thread → Thread) : (s.modThread t f).aborts = s.aborts := rfl
@[simp] theorem modThread_gangs (s : State) (t : Tid) (f : Thread → Thread) : (s.modThread t f).gangs = s.gangs := rfl
@[simp] theorem modThread_barArr (s : State) (t : Tid) (f : Thread → Thread) : (s.modThread t f).barArr = s.barArr := rfl
@[simp] theorem modThread_frecs (s : State) (t : Tid) (f : Thread → Thread) : (s.modThread t f).frecs = s.frecs := rfl
@[simp] theorem modThread_dies (s : State) (t : Tid) (f : Thread → Thread) : (s.modThread t f).dies = s.dies := rfl
@[simp] theorem modThread_errs (s : State) (t : Tid) (f : Thread → Thread) : (s.modThread t f).errs = s.errs := rfl
@[simp] theorem modThread_calSlot (s : State) (t : Tid) (f : Thread → Thread) : (s.modThread t f).calSlot = s.calSlot := rfl
@[simp] theorem modThread_calCycle (s : State) (t : Tid) (f : Thread → Thread) : (s.modThread t f).calCycle = s.calCycle := rfl
@[simp] theorem modThread_net (s : State) (t : Tid) (f : Thread → Thread) : (s.modThread t f).net = s.net := rfl
@[simp] theorem modThread_ctl (s : State) (t : Tid) (f : Thread → Thread) : (s.modThread t f).ctl = s.ctl := rfl
@[simp] theorem modThread_windows (s : State) (t : Tid) (f : Thread → Thread) : (s.modThread t f).windows = s.windows := rfl
@[simp] theorem modThread_podKeys (s : State) (t : Tid) (f : Thread → Thread) : (s.modThread t f).podKeys = s.podKeys := rfl
@[simp] theorem modThread_queues (s : State) (t : Tid) (f : Thread → Thread) : (s.modThread t f).queues = s.queues := rfl
@[simp] theorem modThread_cmds (s : State) (t : Tid) (f : Thread → Thread) : (s.modThread t f).cmds = s.cmds := rfl
@[simp] theorem modThread_chanOut (s : State) (t : Tid) (f : Thread → Thread) : (s.modThread t f).chanOut = s.chanOut := rfl
@[simp] theorem modThread_bar4 (s : State) (t : Tid) (f : Thread → Thread) : (s.modThread t f).bar4 = s.bar4 := rfl

@[simp] theorem modLaunch_agenda (s : State) (l : LRef) (f : Launch → Launch) : (s.modLaunch l f).agenda = s.agenda := rfl
@[simp] theorem modLaunch_flip (s : State) (l : LRef) (f : Launch → Launch) : (s.modLaunch l f).flip = s.flip := rfl
@[simp] theorem modLaunch_turn (s : State) (l : LRef) (f : Launch → Launch) : (s.modLaunch l f).turn = s.turn := rfl
@[simp] theorem modLaunch_cur (s : State) (l : LRef) (f : Launch → Launch) : (s.modLaunch l f).cur = s.cur := rfl
@[simp] theorem modLaunch_cons (s : State) (l : LRef) (f : Launch → Launch) : (s.modLaunch l f).cons = s.cons := rfl
@[simp] theorem modLaunch_gather (s : State) (l : LRef) (f : Launch → Launch) : (s.modLaunch l f).gather = s.gather := rfl
@[simp] theorem modLaunch_age (s : State) (l : LRef) (f : Launch → Launch) : (s.modLaunch l f).age = s.age := rfl
@[simp] theorem modLaunch_nextId (s : State) (l : LRef) (f : Launch → Launch) : (s.modLaunch l f).nextId = s.nextId := rfl
@[simp] theorem modLaunch_freeCtr (s : State) (l : LRef) (f : Launch → Launch) : (s.modLaunch l f).freeCtr = s.freeCtr := rfl
@[simp] theorem modLaunch_mem (s : State) (l : LRef) (f : Launch → Launch) : (s.modLaunch l f).mem = s.mem := rfl
@[simp] theorem modLaunch_poison (s : State) (l : LRef) (f : Launch → Launch) : (s.modLaunch l f).poison = s.poison := rfl
@[simp] theorem modLaunch_lines (s : State) (l : LRef) (f : Launch → Launch) : (s.modLaunch l f).lines = s.lines := rfl
@[simp] theorem modLaunch_l1 (s : State) (l : LRef) (f : Launch → Launch) : (s.modLaunch l f).l1 = s.l1 := rfl
@[simp] theorem modLaunch_rdc (s : State) (l : LRef) (f : Launch → Launch) : (s.modLaunch l f).rdc = s.rdc := rfl
@[simp] theorem modLaunch_mtlb (s : State) (l : LRef) (f : Launch → Launch) : (s.modLaunch l f).mtlb = s.mtlb := rfl
@[simp] theorem modLaunch_roots (s : State) (l : LRef) (f : Launch → Launch) : (s.modLaunch l f).roots = s.roots := rfl
@[simp] theorem modLaunch_groups (s : State) (l : LRef) (f : Launch → Launch) : (s.modLaunch l f).groups = s.groups := rfl
@[simp] theorem modLaunch_nextGid (s : State) (l : LRef) (f : Launch → Launch) : (s.modLaunch l f).nextGid = s.nextGid := rfl
@[simp] theorem modLaunch_ns (s : State) (l : LRef) (f : Launch → Launch) : (s.modLaunch l f).ns = s.ns := rfl
@[simp] theorem modLaunch_pkgId (s : State) (l : LRef) (f : Launch → Launch) : (s.modLaunch l f).pkgId = s.pkgId := rfl
@[simp] theorem modLaunch_netWeights (s : State) (l : LRef) (f : Launch → Launch) : (s.modLaunch l f).netWeights = s.netWeights := rfl
@[simp] theorem modLaunch_tiles (s : State) (l : LRef) (f : Launch → Launch) : (s.modLaunch l f).tiles = s.tiles := rfl
@[simp] theorem modLaunch_recs (s : State) (l : LRef) (f : Launch → Launch) : (s.modLaunch l f).recs = s.recs := rfl
@[simp] theorem modLaunch_pool (s : State) (l : LRef) (f : Launch → Launch) : (s.modLaunch l f).pool = s.pool := rfl
@[simp] theorem modLaunch_kept (s : State) (l : LRef) (f : Launch → Launch) : (s.modLaunch l f).kept = s.kept := rfl
@[simp] theorem modLaunch_trigs (s : State) (l : LRef) (f : Launch → Launch) : (s.modLaunch l f).trigs = s.trigs := rfl
@[simp] theorem modLaunch_copies (s : State) (l : LRef) (f : Launch → Launch) : (s.modLaunch l f).copies = s.copies := rfl
@[simp] theorem modLaunch_flips (s : State) (l : LRef) (f : Launch → Launch) : (s.modLaunch l f).flips = s.flips := rfl
@[simp] theorem modLaunch_engines (s : State) (l : LRef) (f : Launch → Launch) : (s.modLaunch l f).engines = s.engines := rfl
@[simp] theorem modLaunch_savedEng (s : State) (l : LRef) (f : Launch → Launch) : (s.modLaunch l f).savedEng = s.savedEng := rfl
@[simp] theorem modLaunch_queries (s : State) (l : LRef) (f : Launch → Launch) : (s.modLaunch l f).queries = s.queries := rfl
@[simp] theorem modLaunch_bauq (s : State) (l : LRef) (f : Launch → Launch) : (s.modLaunch l f).bauq = s.bauq := rfl
@[simp] theorem modLaunch_routes (s : State) (l : LRef) (f : Launch → Launch) : (s.modLaunch l f).routes = s.routes := rfl
@[simp] theorem modLaunch_colls (s : State) (l : LRef) (f : Launch → Launch) : (s.modLaunch l f).colls = s.colls := rfl
@[simp] theorem modLaunch_heldColl (s : State) (l : LRef) (f : Launch → Launch) : (s.modLaunch l f).heldColl = s.heldColl := rfl
@[simp] theorem modLaunch_aborts (s : State) (l : LRef) (f : Launch → Launch) : (s.modLaunch l f).aborts = s.aborts := rfl
@[simp] theorem modLaunch_gangs (s : State) (l : LRef) (f : Launch → Launch) : (s.modLaunch l f).gangs = s.gangs := rfl
@[simp] theorem modLaunch_barArr (s : State) (l : LRef) (f : Launch → Launch) : (s.modLaunch l f).barArr = s.barArr := rfl
@[simp] theorem modLaunch_frecs (s : State) (l : LRef) (f : Launch → Launch) : (s.modLaunch l f).frecs = s.frecs := rfl
@[simp] theorem modLaunch_dies (s : State) (l : LRef) (f : Launch → Launch) : (s.modLaunch l f).dies = s.dies := rfl
@[simp] theorem modLaunch_errs (s : State) (l : LRef) (f : Launch → Launch) : (s.modLaunch l f).errs = s.errs := rfl
@[simp] theorem modLaunch_calSlot (s : State) (l : LRef) (f : Launch → Launch) : (s.modLaunch l f).calSlot = s.calSlot := rfl
@[simp] theorem modLaunch_calCycle (s : State) (l : LRef) (f : Launch → Launch) : (s.modLaunch l f).calCycle = s.calCycle := rfl
@[simp] theorem modLaunch_net (s : State) (l : LRef) (f : Launch → Launch) : (s.modLaunch l f).net = s.net := rfl
@[simp] theorem modLaunch_ctl (s : State) (l : LRef) (f : Launch → Launch) : (s.modLaunch l f).ctl = s.ctl := rfl
@[simp] theorem modLaunch_windows (s : State) (l : LRef) (f : Launch → Launch) : (s.modLaunch l f).windows = s.windows := rfl
@[simp] theorem modLaunch_podKeys (s : State) (l : LRef) (f : Launch → Launch) : (s.modLaunch l f).podKeys = s.podKeys := rfl
@[simp] theorem modLaunch_queues (s : State) (l : LRef) (f : Launch → Launch) : (s.modLaunch l f).queues = s.queues := rfl
@[simp] theorem modLaunch_cmds (s : State) (l : LRef) (f : Launch → Launch) : (s.modLaunch l f).cmds = s.cmds := rfl
@[simp] theorem modLaunch_chanOut (s : State) (l : LRef) (f : Launch → Launch) : (s.modLaunch l f).chanOut = s.chanOut := rfl
@[simp] theorem modLaunch_bar4 (s : State) (l : LRef) (f : Launch → Launch) : (s.modLaunch l f).bar4 = s.bar4 := rfl

@[simp] theorem modTeam_agenda (s : State) (l : LRef) (n : Nat) (f : Team → Team) : (s.modTeam l n f).agenda = s.agenda := rfl
@[simp] theorem modTeam_flip (s : State) (l : LRef) (n : Nat) (f : Team → Team) : (s.modTeam l n f).flip = s.flip := rfl
@[simp] theorem modTeam_turn (s : State) (l : LRef) (n : Nat) (f : Team → Team) : (s.modTeam l n f).turn = s.turn := rfl
@[simp] theorem modTeam_cur (s : State) (l : LRef) (n : Nat) (f : Team → Team) : (s.modTeam l n f).cur = s.cur := rfl
@[simp] theorem modTeam_cons (s : State) (l : LRef) (n : Nat) (f : Team → Team) : (s.modTeam l n f).cons = s.cons := rfl
@[simp] theorem modTeam_gather (s : State) (l : LRef) (n : Nat) (f : Team → Team) : (s.modTeam l n f).gather = s.gather := rfl
@[simp] theorem modTeam_age (s : State) (l : LRef) (n : Nat) (f : Team → Team) : (s.modTeam l n f).age = s.age := rfl
@[simp] theorem modTeam_nextId (s : State) (l : LRef) (n : Nat) (f : Team → Team) : (s.modTeam l n f).nextId = s.nextId := rfl
@[simp] theorem modTeam_freeCtr (s : State) (l : LRef) (n : Nat) (f : Team → Team) : (s.modTeam l n f).freeCtr = s.freeCtr := rfl
@[simp] theorem modTeam_mem (s : State) (l : LRef) (n : Nat) (f : Team → Team) : (s.modTeam l n f).mem = s.mem := rfl
@[simp] theorem modTeam_poison (s : State) (l : LRef) (n : Nat) (f : Team → Team) : (s.modTeam l n f).poison = s.poison := rfl
@[simp] theorem modTeam_lines (s : State) (l : LRef) (n : Nat) (f : Team → Team) : (s.modTeam l n f).lines = s.lines := rfl
@[simp] theorem modTeam_l1 (s : State) (l : LRef) (n : Nat) (f : Team → Team) : (s.modTeam l n f).l1 = s.l1 := rfl
@[simp] theorem modTeam_rdc (s : State) (l : LRef) (n : Nat) (f : Team → Team) : (s.modTeam l n f).rdc = s.rdc := rfl
@[simp] theorem modTeam_mtlb (s : State) (l : LRef) (n : Nat) (f : Team → Team) : (s.modTeam l n f).mtlb = s.mtlb := rfl
@[simp] theorem modTeam_roots (s : State) (l : LRef) (n : Nat) (f : Team → Team) : (s.modTeam l n f).roots = s.roots := rfl
@[simp] theorem modTeam_groups (s : State) (l : LRef) (n : Nat) (f : Team → Team) : (s.modTeam l n f).groups = s.groups := rfl
@[simp] theorem modTeam_nextGid (s : State) (l : LRef) (n : Nat) (f : Team → Team) : (s.modTeam l n f).nextGid = s.nextGid := rfl
@[simp] theorem modTeam_ns (s : State) (l : LRef) (n : Nat) (f : Team → Team) : (s.modTeam l n f).ns = s.ns := rfl
@[simp] theorem modTeam_pkgId (s : State) (l : LRef) (n : Nat) (f : Team → Team) : (s.modTeam l n f).pkgId = s.pkgId := rfl
@[simp] theorem modTeam_netWeights (s : State) (l : LRef) (n : Nat) (f : Team → Team) : (s.modTeam l n f).netWeights = s.netWeights := rfl
@[simp] theorem modTeam_tiles (s : State) (l : LRef) (n : Nat) (f : Team → Team) : (s.modTeam l n f).tiles = s.tiles := rfl
@[simp] theorem modTeam_recs (s : State) (l : LRef) (n : Nat) (f : Team → Team) : (s.modTeam l n f).recs = s.recs := rfl
@[simp] theorem modTeam_pool (s : State) (l : LRef) (n : Nat) (f : Team → Team) : (s.modTeam l n f).pool = s.pool := rfl
@[simp] theorem modTeam_kept (s : State) (l : LRef) (n : Nat) (f : Team → Team) : (s.modTeam l n f).kept = s.kept := rfl
@[simp] theorem modTeam_trigs (s : State) (l : LRef) (n : Nat) (f : Team → Team) : (s.modTeam l n f).trigs = s.trigs := rfl
@[simp] theorem modTeam_copies (s : State) (l : LRef) (n : Nat) (f : Team → Team) : (s.modTeam l n f).copies = s.copies := rfl
@[simp] theorem modTeam_flips (s : State) (l : LRef) (n : Nat) (f : Team → Team) : (s.modTeam l n f).flips = s.flips := rfl
@[simp] theorem modTeam_engines (s : State) (l : LRef) (n : Nat) (f : Team → Team) : (s.modTeam l n f).engines = s.engines := rfl
@[simp] theorem modTeam_savedEng (s : State) (l : LRef) (n : Nat) (f : Team → Team) : (s.modTeam l n f).savedEng = s.savedEng := rfl
@[simp] theorem modTeam_queries (s : State) (l : LRef) (n : Nat) (f : Team → Team) : (s.modTeam l n f).queries = s.queries := rfl
@[simp] theorem modTeam_bauq (s : State) (l : LRef) (n : Nat) (f : Team → Team) : (s.modTeam l n f).bauq = s.bauq := rfl
@[simp] theorem modTeam_routes (s : State) (l : LRef) (n : Nat) (f : Team → Team) : (s.modTeam l n f).routes = s.routes := rfl
@[simp] theorem modTeam_colls (s : State) (l : LRef) (n : Nat) (f : Team → Team) : (s.modTeam l n f).colls = s.colls := rfl
@[simp] theorem modTeam_heldColl (s : State) (l : LRef) (n : Nat) (f : Team → Team) : (s.modTeam l n f).heldColl = s.heldColl := rfl
@[simp] theorem modTeam_aborts (s : State) (l : LRef) (n : Nat) (f : Team → Team) : (s.modTeam l n f).aborts = s.aborts := rfl
@[simp] theorem modTeam_gangs (s : State) (l : LRef) (n : Nat) (f : Team → Team) : (s.modTeam l n f).gangs = s.gangs := rfl
@[simp] theorem modTeam_barArr (s : State) (l : LRef) (n : Nat) (f : Team → Team) : (s.modTeam l n f).barArr = s.barArr := rfl
@[simp] theorem modTeam_frecs (s : State) (l : LRef) (n : Nat) (f : Team → Team) : (s.modTeam l n f).frecs = s.frecs := rfl
@[simp] theorem modTeam_dies (s : State) (l : LRef) (n : Nat) (f : Team → Team) : (s.modTeam l n f).dies = s.dies := rfl
@[simp] theorem modTeam_errs (s : State) (l : LRef) (n : Nat) (f : Team → Team) : (s.modTeam l n f).errs = s.errs := rfl
@[simp] theorem modTeam_calSlot (s : State) (l : LRef) (n : Nat) (f : Team → Team) : (s.modTeam l n f).calSlot = s.calSlot := rfl
@[simp] theorem modTeam_calCycle (s : State) (l : LRef) (n : Nat) (f : Team → Team) : (s.modTeam l n f).calCycle = s.calCycle := rfl
@[simp] theorem modTeam_net (s : State) (l : LRef) (n : Nat) (f : Team → Team) : (s.modTeam l n f).net = s.net := rfl
@[simp] theorem modTeam_ctl (s : State) (l : LRef) (n : Nat) (f : Team → Team) : (s.modTeam l n f).ctl = s.ctl := rfl
@[simp] theorem modTeam_windows (s : State) (l : LRef) (n : Nat) (f : Team → Team) : (s.modTeam l n f).windows = s.windows := rfl
@[simp] theorem modTeam_podKeys (s : State) (l : LRef) (n : Nat) (f : Team → Team) : (s.modTeam l n f).podKeys = s.podKeys := rfl
@[simp] theorem modTeam_queues (s : State) (l : LRef) (n : Nat) (f : Team → Team) : (s.modTeam l n f).queues = s.queues := rfl
@[simp] theorem modTeam_cmds (s : State) (l : LRef) (n : Nat) (f : Team → Team) : (s.modTeam l n f).cmds = s.cmds := rfl
@[simp] theorem modTeam_chanOut (s : State) (l : LRef) (n : Nat) (f : Team → Team) : (s.modTeam l n f).chanOut = s.chanOut := rfl
@[simp] theorem modTeam_bar4 (s : State) (l : LRef) (n : Nat) (f : Team → Team) : (s.modTeam l n f).bar4 = s.bar4 := rfl

@[simp] theorem putCtx_agenda (s : State) (c : Ctx) : (putCtx s c).agenda = s.agenda := rfl
@[simp] theorem putCtx_flip (s : State) (c : Ctx) : (putCtx s c).flip = s.flip := rfl
@[simp] theorem putCtx_turn (s : State) (c : Ctx) : (putCtx s c).turn = s.turn := rfl
@[simp] theorem putCtx_cur (s : State) (c : Ctx) : (putCtx s c).cur = s.cur := rfl
@[simp] theorem putCtx_cons (s : State) (c : Ctx) : (putCtx s c).cons = s.cons := rfl
@[simp] theorem putCtx_gather (s : State) (c : Ctx) : (putCtx s c).gather = s.gather := rfl
@[simp] theorem putCtx_age (s : State) (c : Ctx) : (putCtx s c).age = s.age := rfl
@[simp] theorem putCtx_nextId (s : State) (c : Ctx) : (putCtx s c).nextId = s.nextId := rfl
@[simp] theorem putCtx_freeCtr (s : State) (c : Ctx) : (putCtx s c).freeCtr = s.freeCtr := rfl
@[simp] theorem putCtx_mem (s : State) (c : Ctx) : (putCtx s c).mem = s.mem := rfl
@[simp] theorem putCtx_poison (s : State) (c : Ctx) : (putCtx s c).poison = s.poison := rfl
@[simp] theorem putCtx_lines (s : State) (c : Ctx) : (putCtx s c).lines = s.lines := rfl
@[simp] theorem putCtx_l1 (s : State) (c : Ctx) : (putCtx s c).l1 = s.l1 := rfl
@[simp] theorem putCtx_rdc (s : State) (c : Ctx) : (putCtx s c).rdc = s.rdc := rfl
@[simp] theorem putCtx_mtlb (s : State) (c : Ctx) : (putCtx s c).mtlb = s.mtlb := rfl
@[simp] theorem putCtx_roots (s : State) (c : Ctx) : (putCtx s c).roots = s.roots := rfl
@[simp] theorem putCtx_launches (s : State) (c : Ctx) : (putCtx s c).launches = s.launches := rfl
@[simp] theorem putCtx_nextGid (s : State) (c : Ctx) : (putCtx s c).nextGid = s.nextGid := rfl
@[simp] theorem putCtx_ns (s : State) (c : Ctx) : (putCtx s c).ns = s.ns := rfl
@[simp] theorem putCtx_pkgId (s : State) (c : Ctx) : (putCtx s c).pkgId = s.pkgId := rfl
@[simp] theorem putCtx_netWeights (s : State) (c : Ctx) : (putCtx s c).netWeights = s.netWeights := rfl
@[simp] theorem putCtx_tiles (s : State) (c : Ctx) : (putCtx s c).tiles = s.tiles := rfl
@[simp] theorem putCtx_recs (s : State) (c : Ctx) : (putCtx s c).recs = s.recs := rfl
@[simp] theorem putCtx_pool (s : State) (c : Ctx) : (putCtx s c).pool = s.pool := rfl
@[simp] theorem putCtx_kept (s : State) (c : Ctx) : (putCtx s c).kept = s.kept := rfl
@[simp] theorem putCtx_trigs (s : State) (c : Ctx) : (putCtx s c).trigs = s.trigs := rfl
@[simp] theorem putCtx_copies (s : State) (c : Ctx) : (putCtx s c).copies = s.copies := rfl
@[simp] theorem putCtx_flips (s : State) (c : Ctx) : (putCtx s c).flips = s.flips := rfl
@[simp] theorem putCtx_engines (s : State) (c : Ctx) : (putCtx s c).engines = s.engines := rfl
@[simp] theorem putCtx_savedEng (s : State) (c : Ctx) : (putCtx s c).savedEng = s.savedEng := rfl
@[simp] theorem putCtx_queries (s : State) (c : Ctx) : (putCtx s c).queries = s.queries := rfl
@[simp] theorem putCtx_bauq (s : State) (c : Ctx) : (putCtx s c).bauq = s.bauq := rfl
@[simp] theorem putCtx_routes (s : State) (c : Ctx) : (putCtx s c).routes = s.routes := rfl
@[simp] theorem putCtx_colls (s : State) (c : Ctx) : (putCtx s c).colls = s.colls := rfl
@[simp] theorem putCtx_heldColl (s : State) (c : Ctx) : (putCtx s c).heldColl = s.heldColl := rfl
@[simp] theorem putCtx_aborts (s : State) (c : Ctx) : (putCtx s c).aborts = s.aborts := rfl
@[simp] theorem putCtx_gangs (s : State) (c : Ctx) : (putCtx s c).gangs = s.gangs := rfl
@[simp] theorem putCtx_barArr (s : State) (c : Ctx) : (putCtx s c).barArr = s.barArr := rfl
@[simp] theorem putCtx_frecs (s : State) (c : Ctx) : (putCtx s c).frecs = s.frecs := rfl
@[simp] theorem putCtx_dies (s : State) (c : Ctx) : (putCtx s c).dies = s.dies := rfl
@[simp] theorem putCtx_errs (s : State) (c : Ctx) : (putCtx s c).errs = s.errs := rfl
@[simp] theorem putCtx_calSlot (s : State) (c : Ctx) : (putCtx s c).calSlot = s.calSlot := rfl
@[simp] theorem putCtx_calCycle (s : State) (c : Ctx) : (putCtx s c).calCycle = s.calCycle := rfl
@[simp] theorem putCtx_net (s : State) (c : Ctx) : (putCtx s c).net = s.net := rfl
@[simp] theorem putCtx_ctl (s : State) (c : Ctx) : (putCtx s c).ctl = s.ctl := rfl
@[simp] theorem putCtx_windows (s : State) (c : Ctx) : (putCtx s c).windows = s.windows := rfl
@[simp] theorem putCtx_podKeys (s : State) (c : Ctx) : (putCtx s c).podKeys = s.podKeys := rfl
@[simp] theorem putCtx_queues (s : State) (c : Ctx) : (putCtx s c).queues = s.queues := rfl
@[simp] theorem putCtx_cmds (s : State) (c : Ctx) : (putCtx s c).cmds = s.cmds := rfl
@[simp] theorem putCtx_chanOut (s : State) (c : Ctx) : (putCtx s c).chanOut = s.chanOut := rfl
@[simp] theorem putCtx_bar4 (s : State) (c : Ctx) : (putCtx s c).bar4 = s.bar4 := rfl

@[simp] theorem past_agenda (s : State) (t : Tid) (h : Bool) : (past s t h).agenda = s.agenda := rfl
@[simp] theorem past_flip (s : State) (t : Tid) (h : Bool) : (past s t h).flip = s.flip := rfl
@[simp] theorem past_turn (s : State) (t : Tid) (h : Bool) : (past s t h).turn = s.turn := rfl
@[simp] theorem past_cur (s : State) (t : Tid) (h : Bool) : (past s t h).cur = s.cur := rfl
@[simp] theorem past_cons (s : State) (t : Tid) (h : Bool) : (past s t h).cons = s.cons := rfl
@[simp] theorem past_gather (s : State) (t : Tid) (h : Bool) : (past s t h).gather = s.gather := rfl
@[simp] theorem past_age (s : State) (t : Tid) (h : Bool) : (past s t h).age = s.age := rfl
@[simp] theorem past_nextId (s : State) (t : Tid) (h : Bool) : (past s t h).nextId = s.nextId := rfl
@[simp] theorem past_freeCtr (s : State) (t : Tid) (h : Bool) : (past s t h).freeCtr = s.freeCtr := rfl
@[simp] theorem past_mem (s : State) (t : Tid) (h : Bool) : (past s t h).mem = s.mem := rfl
@[simp] theorem past_poison (s : State) (t : Tid) (h : Bool) : (past s t h).poison = s.poison := rfl
@[simp] theorem past_lines (s : State) (t : Tid) (h : Bool) : (past s t h).lines = s.lines := rfl
@[simp] theorem past_l1 (s : State) (t : Tid) (h : Bool) : (past s t h).l1 = s.l1 := rfl
@[simp] theorem past_rdc (s : State) (t : Tid) (h : Bool) : (past s t h).rdc = s.rdc := rfl
@[simp] theorem past_mtlb (s : State) (t : Tid) (h : Bool) : (past s t h).mtlb = s.mtlb := rfl
@[simp] theorem past_roots (s : State) (t : Tid) (h : Bool) : (past s t h).roots = s.roots := rfl
@[simp] theorem past_launches (s : State) (t : Tid) (h : Bool) : (past s t h).launches = s.launches := rfl
@[simp] theorem past_nextGid (s : State) (t : Tid) (h : Bool) : (past s t h).nextGid = s.nextGid := rfl
@[simp] theorem past_ns (s : State) (t : Tid) (h : Bool) : (past s t h).ns = s.ns := rfl
@[simp] theorem past_pkgId (s : State) (t : Tid) (h : Bool) : (past s t h).pkgId = s.pkgId := rfl
@[simp] theorem past_netWeights (s : State) (t : Tid) (h : Bool) : (past s t h).netWeights = s.netWeights := rfl
@[simp] theorem past_tiles (s : State) (t : Tid) (h : Bool) : (past s t h).tiles = s.tiles := rfl
@[simp] theorem past_recs (s : State) (t : Tid) (h : Bool) : (past s t h).recs = s.recs := rfl
@[simp] theorem past_pool (s : State) (t : Tid) (h : Bool) : (past s t h).pool = s.pool := rfl
@[simp] theorem past_kept (s : State) (t : Tid) (h : Bool) : (past s t h).kept = s.kept := rfl
@[simp] theorem past_trigs (s : State) (t : Tid) (h : Bool) : (past s t h).trigs = s.trigs := rfl
@[simp] theorem past_copies (s : State) (t : Tid) (h : Bool) : (past s t h).copies = s.copies := rfl
@[simp] theorem past_flips (s : State) (t : Tid) (h : Bool) : (past s t h).flips = s.flips := rfl
@[simp] theorem past_engines (s : State) (t : Tid) (h : Bool) : (past s t h).engines = s.engines := rfl
@[simp] theorem past_savedEng (s : State) (t : Tid) (h : Bool) : (past s t h).savedEng = s.savedEng := rfl
@[simp] theorem past_queries (s : State) (t : Tid) (h : Bool) : (past s t h).queries = s.queries := rfl
@[simp] theorem past_bauq (s : State) (t : Tid) (h : Bool) : (past s t h).bauq = s.bauq := rfl
@[simp] theorem past_routes (s : State) (t : Tid) (h : Bool) : (past s t h).routes = s.routes := rfl
@[simp] theorem past_colls (s : State) (t : Tid) (h : Bool) : (past s t h).colls = s.colls := rfl
@[simp] theorem past_heldColl (s : State) (t : Tid) (h : Bool) : (past s t h).heldColl = s.heldColl := rfl
@[simp] theorem past_aborts (s : State) (t : Tid) (h : Bool) : (past s t h).aborts = s.aborts := rfl
@[simp] theorem past_gangs (s : State) (t : Tid) (h : Bool) : (past s t h).gangs = s.gangs := rfl
@[simp] theorem past_barArr (s : State) (t : Tid) (h : Bool) : (past s t h).barArr = s.barArr := rfl
@[simp] theorem past_frecs (s : State) (t : Tid) (h : Bool) : (past s t h).frecs = s.frecs := rfl
@[simp] theorem past_dies (s : State) (t : Tid) (h : Bool) : (past s t h).dies = s.dies := rfl
@[simp] theorem past_errs (s : State) (t : Tid) (h : Bool) : (past s t h).errs = s.errs := rfl
@[simp] theorem past_calSlot (s : State) (t : Tid) (h : Bool) : (past s t h).calSlot = s.calSlot := rfl
@[simp] theorem past_calCycle (s : State) (t : Tid) (h : Bool) : (past s t h).calCycle = s.calCycle := rfl
@[simp] theorem past_net (s : State) (t : Tid) (h : Bool) : (past s t h).net = s.net := rfl
@[simp] theorem past_ctl (s : State) (t : Tid) (h : Bool) : (past s t h).ctl = s.ctl := rfl
@[simp] theorem past_windows (s : State) (t : Tid) (h : Bool) : (past s t h).windows = s.windows := rfl
@[simp] theorem past_podKeys (s : State) (t : Tid) (h : Bool) : (past s t h).podKeys = s.podKeys := rfl
@[simp] theorem past_queues (s : State) (t : Tid) (h : Bool) : (past s t h).queues = s.queues := rfl
@[simp] theorem past_cmds (s : State) (t : Tid) (h : Bool) : (past s t h).cmds = s.cmds := rfl
@[simp] theorem past_chanOut (s : State) (t : Tid) (h : Bool) : (past s t h).chanOut = s.chanOut := rfl
@[simp] theorem past_bar4 (s : State) (t : Tid) (h : Bool) : (past s t h).bar4 = s.bar4 := rfl

/-! Groups and threads after a change. -/

theorem group?_modGroup (s : State) (n m : Nat) (f : Group → Group) (hf : ∀ g, (f g).gid = g.gid) :
    (s.modGroup n f).group? m = (s.group? m).map (fun g => if g.gid = n then f g else g) := by
  unfold State.group? State.modGroup
  simp only
  generalize s.groups = gs
  induction gs with
  | nil => rfl
  | cons g gs ih =>
    have e : (if g.gid = n then f g else g).gid = g.gid := by
      split
      · exact hf g
      · rfl
    rw [List.map_cons, List.find?_cons, List.find?_cons, e]
    cases g.gid == m with
    | true => rfl
    | false => exact ih

/-- A thread after its own change. -/
theorem thread?_modThread (s : State) (t : Tid) (f : Thread → Thread) : (s.modThread t f).thread? t = (s.thread? t).map f := by
  unfold State.thread? State.modThread
  rw [group?_modGroup s t.gid t.gid (fun g => { g with threads := g.threads.modify t.lane f }) (fun _ => rfl)]
  cases h : s.group? t.gid with
  | none => rfl
  | some g =>
    have hg : g.gid = t.gid := by
      have := List.find?_some h
      simpa using this
    simp [hg]

/-- Another thread keeps what it was. -/
theorem thread?_modThread_other (s : State) (t u : Tid) (f : Thread → Thread) (h : u ≠ t) : (s.modThread t f).thread? u = s.thread? u := by
  unfold State.thread? State.modThread
  rw [group?_modGroup s t.gid u.gid (fun g => { g with threads := g.threads.modify t.lane f }) (fun _ => rfl)]
  cases hg : s.group? u.gid with
  | none => rfl
  | some g =>
    have hu : g.gid = u.gid := by
      have := List.find?_some hg
      simpa using this
    simp only [Option.map_some]
    split
    · rename_i e
      have hl : t.lane ≠ u.lane := by
        intro hl
        apply h
        cases t; cases u
        simp_all
      simp [hl]
    · rfl

end Sys2Proof.Laws
end

