-- ==== Sys2Proof/Machine/Record.lean ====
section
/-! DEFINITION. Record.lean: the bytes of the team record that a save writes to the save pool (R350–R354), as a view of a saved team:
the pool lies where no address that a program forms reaches it. -/
namespace Sys2Proof.Machine

/-! Thread records (R352). -/

/-- A block state: the instructions that remain and which of them execute. -/
def blkWord (b : List Bool) : Nat :=
  min b.length 15 + (b.zipIdx.map (fun x => if x.1 then 2 ^ (4 + x.2) else 0)).sum % 2 ^ 12

/-- Window bases and predicates, in the layout of 0x020. -/
def winWord (vwb : BitVec 8) (uwb : BitVec 6) (preds : BitVec 7) : Nat := vwb.toNat + uwb.toNat * 2 ^ 8 + preds.toNat * 2 ^ 16

/-- STK of a return stack (R26). -/
def stkNat (stack : List DWord) : Nat := min 8 stack.length * 2 ^ 24 + stack.length

def flags (l : List Bool) : Nat := (l.zipIdx.map (fun x => if x.1 then 2 ^ x.2 else 0)).sum

/-- A query or collective slot: sequence, busy, ended; the status once ended. -/
def slotBytes8 (x : Slot) : List Byte :=
  bytesOf 4 (x.seq + flag16 x.busy + 2 * flag16 x.ended) ++ bytesOf 4 (if x.ended then x.status.toNat else 0)
where
  flag16 (b : Bool) : Nat := if b then 2 ^ 16 else 0

def threadRecord (s : State) (t : Tid) (v : Nat) (th : Thread) : List Byte :=
  let rp := th.restart.getD { pc := 0, vwb := 0, uwb := 0, preds := 0, blk := [], stack := [] }
  let cap := fun (c : Option Word) => (c.getD 0).toNat
  let st := flags [th.clockCap.isSome, th.calCap.isSome, th.inHandler, th.yielded, th.parked, th.exited, th.halted, th.replay.isSome]
  let busy := flags (th.qslots.map (fun x => x.busy))
  bytesOf 8 th.pc.toNat ++ bytesOf 8 th.trapPc.toNat ++ bytesOf 8 th.trapAddr.toNat ++ bytesOf 4 th.trapCause.toNat
    ++ bytesOf 4 th.trapInfo.toNat ++ bytesOf 4 (winWord th.vwb th.uwb th.preds) ++ bytesOf 4 (blkWord th.blk)
    ++ bytesOf 4 (stkNat th.stack) ++ bytesOf 4 th.srseed.toNat ++ bytesOf 4 (cap th.clockCap) ++ bytesOf 4 (cap th.calCap)
    ++ bytesOf 4 st ++ bytesOf 4 th.rendez.toNat ++ bytesOf 4 th.tkRendez.toNat ++ bytesOf 4 (copyStatus s t th).toNat
    ++ bytesOf 4 (th.qseq % 2 ^ 14 + busy * 2 ^ 16) ++ bytesOf 4 (pendingList th).length
    ++ (List.range 8).flatMap (fun i => bytesOf 8 (th.stack.getD i 0).toNat)
    ++ th.arrivals.flatMap (fun a => bytesOf 4 ((a + 2 ^ 32 - 1) % 2 ^ 32))
    ++ bytesOf 4 (blkWord th.ts.blk) ++ bytesOf 4 (th.tag.getD 0) ++ bytesOf 8 th.ts.resume.toNat
    ++ bytesOf 8 rp.pc.toNat ++ bytesOf 4 (winWord rp.vwb rp.uwb rp.preds) ++ bytesOf 4 (blkWord rp.blk) ++ bytesOf 4 (stkNat rp.stack)
    ++ bytesOf 4 (min th.rfail 255) ++ th.qslots.flatMap slotBytes8 ++ bytesOf 4 (th.cseq % 2 ^ 13) ++ bytesOf 4 0
    ++ th.cslots.flatMap slotBytes8 ++ bytesOf 200 0 ++ (List.range v).flatMap (fun i => bytesOf 4 (th.regs.getD i 0).toNat)

/-! Group records (R351). -/

def groupRecord (g : Group) (held waited : Bool) : List Byte :=
  let tk := match g.task with
    | some k => k.bytes
    | none => bytesOf 64 0
  g.uni.flatMap (fun w => bytesOf 4 w.toNat) ++ g.nf.flatMap (fun x => bytesOf 2 x.toNat)
    ++ bytesOf 4 (g.mFail * 2 ^ 24 + g.mSlot * 2 ^ 20) ++ bytesOf 4 (flags [held, waited]) ++ bytesOf 4 g.idx ++ bytesOf 4 0
    ++ g.lt.flatMap (fun r => r.flatMap (fun w => bytesOf 4 w.toNat)) ++ tk ++ bytesOf 4 (flags [g.task.isSome]) ++ bytesOf 28 0

/-! Pending entries (R353). -/

/-- The kind of an entry. -/
def entryKind (refused : Bool) : POp → Nat
  | .load .. => if refused then 1 else 0
  | .store .. => 2
  | .taskPost => 2
  | .tileCount .. => 2
  | .atomic .. => 3
  | .taskSucc => 3
  | _ => 4

/-- Major, minor and size code of an entry's word (R39, R43, R45); the word of a wait that was refused is known by its kind. -/
def entryWord (p : Pend) : Nat × Nat × Nat := match p.word, p.op with
  | some w, _ =>
    let m := bits w 30 25
    if m = 0x22 ∨ m = 0x23 then (m, bits w 24 21, bits w 23 21)
    else if m = 0x20 ∨ m = 0x21 ∨ m = 0x24 ∨ m = 0x25 then (m, 0, bits w 10 8)
    else (m, bits w 24 21, 0)
  | none, .tcwait _ => (0x2B, 2, 0)
  | none, .publ => (0x30, 4, 0)
  | none, .mma o => (0x31, o.minor, 0)
  | none, .taskSucc => (0x33, 5, 0)
  | none, _ => (0, 0, 0)

/-- The operands that an entry holds. -/
def entryData : POp → List Byte
  | .store d _ => d
  | .atomic _ ops _ _ => ops.flatMap (fun w => bytesOf 4 w.toNat)
  | .lwait id => bytesOf 4 id.toNat
  | .aqwait q => bytesOf 4 q
  | .cpyw n => bytesOf 4 n
  | .tcwait thr => bytesOf 4 thr.toNat
  | .talloc part count _ => bytesOf 4 part ++ bytesOf 4 count
  | .tknext _ m => bytesOf 4 m.toNat
  | .tileCount k _ => bytesOf 4 k
  | .rendez _ _ _ a b => bytesOf 4 a.toNat ++ bytesOf 4 b.toNat
  | _ => []

def entryRecord (t : Nat) (refused : Bool) (p : Pend) : List Byte :=
  let d := match p.dst with
    | .none => 0
    | .vec r _ => r
    | .uni r _ => 2 ^ 9 + r
  let w := entryWord p
  let consume := match p.op with
    | .load _ _ c => c
    | _ => false
  let data := entryData p.op
  bytesOf 8 p.addr.toNat
    ++ bytesOf 4 (d + w.2.2 * 2 ^ 10 + entryKind refused p.op * 2 ^ 13 + w.1 * 2 ^ 16 + w.2.1 * 2 ^ 22 + (if consume then 2 ^ 26 else 0))
    ++ bytesOf 2 t ++ bytesOf 2 0 ++ (data ++ List.replicate (16 - data.length) 0).take 16

def threadEntries (t : Nat) (th : Thread) : List Byte :=
  (pendingList th).flatMap (fun p => entryRecord t (th.refused.any (fun x => x.p.id == p.id)) p)

/-! Saved matrix operations (R354). -/

def opRecord (s : State) (o : MOp) : List Byte :=
  let idx := match s.group? o.gid with
    | some g => g.idx
    | none => 0
  let quad := fun (l : List Word) => (List.range 4).flatMap (fun i => bytesOf 4 (l.getD i 0).toNat)
  let a := if o.compute then quad o.a
    else if o.minor = 6 then bytesOf 16 0
    else bytesOf 8 (blkPtr o.a).toNat ++ bytesOf 4 o.xfer.toNat ++ bytesOf 4 0
  let b := if o.compute then quad o.b else bytesOf 16 0
  let nf := if o.compute && decide (o.minor < 4) then o.nfA.toNat + o.nfB.toNat * 2 ^ 16 else 0
  bytesOf 4 (o.minor + idx * 2 ^ 4 + o.next * 2 ^ 16) ++ bytesOf 4 o.slotw.toNat ++ a ++ b ++ bytesOf 4 nf ++ bytesOf 20 0

/-! The record (R350). -/

/-- Two bits to a line, packed. -/
def lineBytes (n : Nat) (st : List Nat) : List Byte :=
  (List.range n).map (fun i => BitVec.ofNat 8 ((List.range 4).map (fun k => st.getD (4 * i + k) 0 * 4 ^ k)).sum)

/-- The record of a saved team. -/
def teamRecord (s : State) (l : Launch) (t : Team) : List Byte :=
  let gs := wholeTeam s l t.idx
  let eng := s.savedEng.filter (fun e => e.launch == l.ref && e.team == t.idx)
  let used := gs.foldl (fun m g => m ||| g.used) 0
  let grp := fun (i : Nat) => gs.find? (fun g => g.idx == i)
  let v := l.hdr.valloc
  let lanes := (List.range (32 * l.hdr.g)).map (fun k => (k, (grp (k / 32)).bind (fun g => (g.threads[k % 32]?).map (fun th => (g, th)))))
  let entries := lanes.flatMap (fun x => match x.2 with
    | some (_, th) => threadEntries x.1 th
    | none => [])
  let ops := eng.flatMap (fun e => e.ops)
  let slot := fun (k : Nat) => match eng.findSome? (fun e => e.slots.find? (fun y => y.1 == k)) with
    | some y => y.2.flatMap (fun w => bytesOf 4 w.toNat)
    | none => bytesOf 16384 0
  bytesOf 4 l.ref.id ++ bytesOf 4 t.idx ++ bytesOf 2 l.hdr.g ++ bytesOf 2 v ++ bytesOf 4 t.progress.toNat ++ bytesOf 4 l.hdr.scratch
    ++ bytesOf 4 (entries.length / 32) ++ bytesOf 4 ops.length ++ bytesOf 4 used ++ bytesOf 224 0
    ++ (List.range l.hdr.g).flatMap (fun i => match grp i with
        | some g => groupRecord g (eng.any (fun e => e.held.contains g.gid)) (eng.any (fun e => e.waited.contains g.gid))
        | none => bytesOf 0x300 0)
    ++ lanes.flatMap (fun x => match x.2 with
        | some (g, th) => threadRecord s { gid := g.gid, lane := x.1 % 32 } v th
        | none => bytesOf (0x200 + 4 * v) 0)
    ++ t.image.flatMap (fun b => b) ++ lineBytes (16 * cdiv l.hdr.scratch 8192) (t.lineImage.flatMap (fun b => b)) ++ entries
    ++ (usedSlots gs).flatMap slot ++ ops.flatMap (opRecord s)

end Sys2Proof.Machine
end

