-- ==== Sys2Proof/Tests/Slice0.lean ====
section
/-! SUPPORT. Slice0.lean: small tests of the model, and for every statement with hypotheses a state and operands that meet them.
The words of the tests are laid out from the encodings of the spec; the values come from its rules and worked examples. -/
namespace Sys2Proof.Tests
set_option Elab.async false
open Sys2Proof.Machine Sys2Proof.Safety Sys2Proof.Claims

/-! Helpers: a machine whose one thread issues a word, and what an outcome leaves. -/

/-- The state after an outcome, if it goes on. -/
def after (o : Host.Outcome State Fault Refusal) : Option State := match o with
  | .next s => some s
  | _ => none

/-- The happening was turned away because the state does not let it happen. -/
def early (o : Host.Outcome State Fault Refusal) : Bool := match o with
  | .fault .notEnabled => true
  | _ => false

theorem okOf {ε α : Type} [DecidableEq α] {r : Except ε α} {x : α} (h : r.toOption = some x) : r = .ok x := by
  cases r with
  | ok y => exact congrArg Except.ok (Option.some.inj h)
  | error e => exact absurd h (by simp [Except.toOption])

/-- The error of a result. -/
def errorIn {ε α : Type} : Except ε α → Option ε
  | .ok _ => none
  | .error e => some e

theorem errorOf {ε α : Type} {r : Except ε α} {e : ε} (h : errorIn r = some e) : r = .error e := by
  cases r with
  | ok y => exact absurd h (by simp [errorIn])
  | error d => exact congrArg Except.error (Option.some.inj h)

theorem nextOf {o : Host.Outcome State Fault Refusal} {s : State} (h : after o = some s) : o = .next s := by
  cases o <;> simp_all [after]

def t0 : Tid := { gid := 0, lane := 0 }

/-- Register r holds r. -/
def regs0 : List Word := (List.range 256).map (BitVec.ofNat 32)

/-- The machine with a program loaded whose one live thread issues a word, changed as the arguments say. -/
def rig (th : Thread → Thread) (g : Group → Group) (l : Launch → Launch) (f : State → State) : State :=
  let z := State.reset.loadWord 0
  f { z with cur := some t0, launches := z.launches.map l,
             groups := z.groups.map (fun x => g { x with threads := x.threads.modify 0 (fun y => th { y with regs := regs0 }) }) }

def plain : State := rig id id id id
/-- With changed thread, group, launch or state. -/
def withThread (th : Thread → Thread) : State := rig th id id id
def withRegs (vs : List (Nat × Word)) : State := withThread (fun th => { th with regs := vs.foldl (fun r v => r.set v.1 v.2) th.regs })

/-- What the machine holds of that thread. -/
def ctx (s : State) : Ctx :=
  { t := t0, th := (s.thread? t0).getD (Thread.start 0 0), g := (s.groups.head?).getD (Group.start 0 ⟨0, 0⟩ 0 0 0 0 0 0 []),
    l := (s.launches.head?).getD (oneLaunch ⟨0, 0⟩ 0 0) }

def issues (s : State) : Bool :=
  s.cur == some t0 && decide (s.ofThread t0 = some ((ctx s).l, (ctx s).g)) && s.thread? t0 == some (ctx s).th

theorem executes {s : State} (h : issues s = true) (hb : (ctx s).th.blk.head? ≠ some false) : Executes s (ctx s) := by
  simp only [issues, Bool.and_eq_true, decide_eq_true_eq, beq_iff_eq] at h
  exact ⟨h.1.1, h.1.2, h.2, hb⟩

/-- The thread after an outcome. -/
def thAfter (o : Host.Outcome State Fault Refusal) : Option Thread := (after o).bind (fun s => s.thread? t0)
/-- A register of the thread after an outcome. -/
def regAfter (o : Host.Outcome State Fault Refusal) (r : Nat) : Option Word := (thAfter o).bind (fun th => th.regs[r]?)
/-- Why the thread trapped, and its PC. -/
def trapAfter (o : Host.Outcome State Fault Refusal) : Option (Nat × DWord) := (thAfter o).map (fun th => (th.trapCause.toNat, th.pc))

theorem plain_executes : Executes plain (ctx plain) := executes (by decide +kernel) (by decide +kernel)

/-- Words of the majors with one or two minors, laid out as R40, R44 and R45 give their fields. -/
theorem test_decode_single_minor_majors : ∀ p ∈ ([
    (0x88206001, .addi true 8 12 1), (0x0A206001, .andi false 8 12 1), (0x8C206001, .ori true 8 12 1),
    (0x0E206001, .xori false 8 12 1), (0x12206001, .muli false 8 12 1), (0x94546001, .cmpi true 2 5 12 1),
    (0x16200001, .movw false 8 1), (0x98200001, .movh true 8 1), (0x1BA20610, .sel false true 5 8 12 16),
    (0x9C220610, .lea true 1 8 12 16), (0x30000001, .br false 1), (0xB2000001, .call true 1),
    (0x35600001, .brp false 5 true 1), (0x39480800, .pblk 5 1 1), (0x40206101, .ld false 8 12 1 1),
    (0xC2206101, .st true 8 12 1 1), (0x44220610, .ldx false 1 8 12 16), (0xC5220610, .ldxC true 1 8 12 16),
    (0x46220610, .stx false 1 8 12 16), (0xC8206101, .ldAcq true 8 12 1 1), (0x4A206101, .stRel false 8 12 1 1)] : List (Word × Instr)), (decodeWord p.1).toOption = some p.2 := by decide +kernel

/-- Words of major 0x00, laid out as R40, R44 and R45 give their fields. -/
theorem test_decode_major_00 : ∀ p ∈ ([
    (0x00000000, .nop false), (0x80200000, .exit true), (0x00400010, .trap false 16),
    (0x80600010, .brk true 16), (0x00820610, .srd false 8 12 16), (0x80A20610, .swr true 8 12 16),
    (0x00C00010, .wbase false 16), (0x80E00010, .ubase true 16), (0x01000000, .yield false),
    (0x81200600, .join true 12), (0x01400010, .bar false 16), (0x81620010, .arrive true 8 16),
    (0x01800610, .bwait false 12 16), (0x81A00600, .nap true 12), (0x01C20600, .fmtld false 8 12),
    (0x81E00010, .tret true 16)] : List (Word × Instr)), (decodeWord p.1).toOption = some p.2 := by decide +kernel

/-- Words of major 0x01, laid out as R40, R44 and R45 give their fields. -/
theorem test_decode_major_01 : ∀ p ∈ ([
    (0x02020610, .add false 8 12 16), (0x82220610, .sub true 8 12 16), (0x02420610, .mul false 8 12 16),
    (0x82620610, .mulh true 8 12 16), (0x02820610, .mulhu false 8 12 16), (0x82A20610, .and true 8 12 16),
    (0x02C20610, .or false 8 12 16), (0x82E20610, .xor true 8 12 16), (0x03020610, .andn false 8 12 16),
    (0x83220610, .shl true 8 12 16), (0x03420610, .shr false 8 12 16), (0x83620610, .sar true 8 12 16),
    (0x03820610, .min false 8 12 16), (0x83A20610, .max true 8 12 16), (0x03C20610, .minu false 8 12 16),
    (0x83E20610, .maxu true 8 12 16)] : List (Word × Instr)), (decodeWord p.1).toOption = some p.2 := by decide +kernel

/-- Words of major 0x02, laid out as R40, R44 and R45 give their fields. -/
theorem test_decode_major_02 : ∀ p ∈ ([
    (0x04020610, .add64 false 8 12 16), (0x84220610, .sub64 true 8 12 16), (0x04420610, .mul64 false 8 12 16),
    (0x84620610, .mad true 8 12 16), (0x04820610, .madw false 8 12 16), (0x84A20600, .clz true 8 12),
    (0x04C20600, .popc false 8 12), (0x84E20600, .brev true 8 12), (0x05020610, .bfe false 8 12 16),
    (0x85220610, .bfi true 8 12 16), (0x05420610, .prmt false 8 12 16), (0x85620610, .rol true 8 12 16),
    (0x05820610, .div false 8 12 16), (0x85A20610, .divu true 8 12 16), (0x05C20610, .rem false 8 12 16),
    (0x85E20610, .remu true 8 12 16)] : List (Word × Instr)), (decodeWord p.1).toOption = some p.2 := by decide +kernel

/-- Words of major 0x03, laid out as R40, R44 and R45 give their fields. -/
theorem test_decode_major_03 : ∀ p ∈ ([
    (0x06114610, .icmpEq false 2 5 12 16), (0x86314610, .icmpNe true 2 5 12 16), (0x06514610, .icmpLt false 2 5 12 16),
    (0x86714610, .icmpLe true 2 5 12 16), (0x06914610, .icmpGt false 2 5 12 16), (0x86B14610, .icmpGe true 2 5 12 16),
    (0x06D14610, .icmpLtu false 2 5 12 16), (0x86F14610, .icmpLeu true 2 5 12 16), (0x07114610, .icmpGtu false 2 5 12 16),
    (0x87314610, .icmpGeu true 2 5 12 16), (0x07514610, .icmpEq64 false 2 5 12 16), (0x87714610, .icmpNe64 true 2 5 12 16),
    (0x07914610, .icmpLt64 false 2 5 12 16), (0x87B14610, .icmpLtu64 true 2 5 12 16), (0x07D14610, .icmpBtst false 2 5 12 16)] : List (Word × Instr)), (decodeWord p.1).toOption = some p.2 := by decide +kernel

/-- Words of major 0x08, laid out as R40, R44 and R45 give their fields. -/
theorem test_decode_major_08 : ∀ p ∈ ([
    (0x90206001, .shli true 8 12 1), (0x10206101, .shri false 8 12 1), (0x90206201, .sari true 8 12 1),
    (0x10206301, .roli false 8 12 1), (0x90206401, .shli64 true 8 12 1), (0x10206501, .shri64 false 8 12 1),
    (0x90206601, .sari64 true 8 12 1)] : List (Word × Instr)), (decodeWord p.1).toOption = some p.2 := by decide +kernel

/-- Words of major 0x0F, laid out as R40, R44 and R45 give their fields. -/
theorem test_decode_major_0f : ∀ p ∈ ([
    (0x1E020600, .mov false 8 12), (0x9E220600, .mov64 true 8 12), (0x1E420000, .pmov false 8),
    (0x9E600610, .pset true 12 16), (0x1E820601, .sext false 8 12 1), (0x9EA20601, .zext true 8 12 1)] : List (Word × Instr)), (decodeWord p.1).toOption = some p.2 := by decide +kernel

/-- Words of major 0x10, laid out as R40, R44 and R45 give their fields. -/
theorem test_decode_major_10 : ∀ p ∈ ([
    (0x20020610, .fadd false 8 12 16), (0xA0220610, .fsub true 8 12 16), (0x20420610, .fmul false 8 12 16),
    (0xA0620610, .fmin true 8 12 16), (0x20820610, .fmax false 8 12 16), (0xA0A20610, .fminn true 8 12 16),
    (0x20C20610, .fmaxn false 8 12 16), (0xA0E20600, .fabs true 8 12), (0x21020600, .fneg false 8 12),
    (0xA1220610, .fcpsgn true 8 12 16), (0x21420600, .ffloor false 8 12), (0xA1620600, .fceil true 8 12),
    (0x21820600, .ftrunc false 8 12), (0xA1A20600, .frint true 8 12), (0x21C20600, .ffrac false 8 12),
    (0xA1E20610, .fscale true 8 12 16)] : List (Word × Instr)), (decodeWord p.1).toOption = some p.2 := by decide +kernel

/-- Words of major 0x11, laid out as R40, R44 and R45 give their fields. -/
theorem test_decode_major_11 : ∀ p ∈ ([
    (0x22020610, .ffma false 8 12 16), (0xA2220610, .ffms true 8 12 16), (0x22420610, .fnfma false 8 12 16),
    (0xA2620610, .fnfms true 8 12 16)] : List (Word × Instr)), (decodeWord p.1).toOption = some p.2 := by decide +kernel

/-- Words of major 0x12, laid out as R40, R44 and R45 give their fields. -/
theorem test_decode_major_12 : ∀ p ∈ ([
    (0x24020610, .hadd2 false 8 12 16), (0xA4220610, .hsub2 true 8 12 16), (0x24420610, .hmul2 false 8 12 16),
    (0xA4620610, .hfma2 true 8 12 16), (0x24820610, .hmin2 false 8 12 16), (0xA4A20610, .hmax2 true 8 12 16),
    (0x24C20610, .badd2 false 8 12 16), (0xA4E20610, .bsub2 true 8 12 16), (0x25020610, .bmul2 false 8 12 16),
    (0xA5220610, .bfma2 true 8 12 16), (0x25420610, .bmin2 false 8 12 16), (0xA5620610, .bmax2 true 8 12 16),
    (0x25820610, .hdot2 false 8 12 16), (0xA5A20610, .bdot2 true 8 12 16)] : List (Word × Instr)), (decodeWord p.1).toOption = some p.2 := by decide +kernel

/-- Words of major 0x13, laid out as R40, R44 and R45 give their fields. -/
theorem test_decode_major_13 : ∀ p ∈ ([
    (0x26114610, .fcmpOeq false 2 5 12 16), (0xA6314610, .fcmpOne true 2 5 12 16), (0x26514610, .fcmpOlt false 2 5 12 16),
    (0xA6714610, .fcmpOle true 2 5 12 16), (0x26914610, .fcmpOgt false 2 5 12 16), (0xA6B14610, .fcmpOge true 2 5 12 16),
    (0x26D14610, .fcmpUno false 2 5 12 16), (0xA6F14610, .fcmpOrd true 2 5 12 16), (0x27114610, .fcmpUeq false 2 5 12 16),
    (0xA7314610, .fcmpUne true 2 5 12 16), (0x27514610, .fcmpUlt false 2 5 12 16), (0xA7714610, .fcmpUle true 2 5 12 16),
    (0x27914610, .fcmpUgt false 2 5 12 16), (0xA7B14610, .fcmpUge true 2 5 12 16), (0x27D14610, .fcmpClass false 2 5 12 16)] : List (Word × Instr)), (decodeWord p.1).toOption = some p.2 := by decide +kernel

/-- Words of major 0x14, laid out as R40, R44 and R45 give their fields. -/
theorem test_decode_major_14 : ∀ p ∈ ([
    (0xA8020600, .xfnRcp true 8 12), (0x28220600, .xfnRsq false 8 12), (0xA8420600, .xfnSqrt true 8 12),
    (0x28620600, .xfnExp2 false 8 12), (0xA8820600, .xfnLog2 true 8 12), (0x28A20600, .xfnSinpi false 8 12),
    (0xA8C20600, .xfnCospi true 8 12), (0x28E20600, .xfnTanh false 8 12), (0xA9020610, .xfnDiv true 8 12 16),
    (0x29220600, .xfnSigm false 8 12), (0xA9420600, .xfnExp true 8 12), (0x29620600, .xfnLog false 8 12)] : List (Word × Instr)), (decodeWord p.1).toOption = some p.2 := by decide +kernel

/-- Words of major 0x15, laid out as R40, R44 and R45 give their fields. -/
theorem test_decode_major_15 : ∀ p ∈ ([
    (0xAA020619, .f2i true 8 12 1 true 1), (0x2A220619, .f2u false 8 12 1 true 1), (0xAA420619, .i2f true 8 12 1 true 1),
    (0x2A620619, .u2f false 8 12 1 true 1), (0xAA820619, .f2h true 8 12 1 true 1), (0x2AA20619, .h2f false 8 12 1 true 1),
    (0xAAC20619, .f2b true 8 12 1 true 1), (0x2AE20619, .b2f false 8 12 1 true 1), (0xAB020619, .f2n true 8 12 1 true 1),
    (0x2B220619, .n2f false 8 12 1 true 1), (0xAB420619, .f2d true 8 12 1 true 1), (0x2B620619, .d2f false 8 12 1 true 1),
    (0xAB820619, .i2d true 8 12 1 true 1), (0x2BA20619, .d2i false 8 12 1 true 1), (0xABC20619, .packn true 8 12 1 true 1),
    (0x2BE20619, .unpkn false 8 12 1 true 1)] : List (Word × Instr)), (decodeWord p.1).toOption = some p.2 := by decide +kernel

/-- Words of major 0x16, laid out as R40, R44 and R45 give their fields. -/
theorem test_decode_major_16 : ∀ p ∈ ([
    (0xAC020610, .dadd true 8 12 16), (0x2C220610, .dsub false 8 12 16), (0xAC420610, .dmul true 8 12 16),
    (0x2C620610, .dfma false 8 12 16), (0xAC820610, .dmin true 8 12 16), (0x2CA20610, .dmax false 8 12 16),
    (0xACC20610, .ddiv true 8 12 16), (0x2CE20600, .dsqrt false 8 12), (0xAD114610, .deq true 2 5 12 16),
    (0x2D314610, .dlt false 2 5 12 16), (0xAD514610, .dle true 2 5 12 16), (0x2D714610, .duno false 2 5 12 16)] : List (Word × Instr)), (decodeWord p.1).toOption = some p.2 := by decide +kernel

/-- Words of major 0x17, laid out as R40, R44 and R45 give their fields. -/
theorem test_decode_major_17 : ∀ p ∈ ([
    (0xAE020600, .mlmrg true 8 12), (0x2E220610, .expsub false 8 12 16), (0xAE420610, .rescale true 8 12 16)] : List (Word × Instr)), (decodeWord p.1).toOption = some p.2 := by decide +kernel

/-- Words of major 0x1B, laid out as R40, R44 and R45 give their fields. -/
theorem test_decode_major_1b : ∀ p ∈ ([
    (0xB6000600, .jr true 12), (0x36200600, .callr false 12), (0xB6400000, .ret true),
    (0x36600610, .brx false 12 16)] : List (Word × Instr)), (decodeWord p.1).toOption = some p.2 := by decide +kernel

/-- Words of major 0x1D, laid out as R40, R44 and R45 give their fields. -/
theorem test_decode_major_1d : ∀ p ∈ ([
    (0x3A020600, .vany false 8 12), (0xBA220600, .vall true 8 12), (0x3A420600, .ballot false 8 12),
    (0xBA620610, .shfidx true 8 12 16), (0x3A820610, .shfup false 8 12 16), (0xBAA20610, .shfdn true 8 12 16),
    (0x3AC20610, .shfxor false 8 12 16), (0xBAE20600, .gradd true 8 12), (0x3B020600, .grfadd false 8 12),
    (0xBB220601, .grmin true 8 12 true), (0x3B420601, .grmax false 8 12 true), (0xBB620600, .gmatch true 8 12),
    (0x3B820000, .elect false 8), (0xBBA20000, .active true 8)] : List (Word × Instr)), (decodeWord p.1).toOption = some p.2 := by decide +kernel

/-- Words of major 0x26, laid out as R40, R44 and R45 give their fields. -/
theorem test_decode_major_26 : ∀ p ∈ ([
    (0xCC020610, .aadd true 8 12 16), (0x4C220610, .axch false 8 12 16), (0xCC420610, .acas true 8 12 16),
    (0x4C620610, .amin false 8 12 16), (0xCC820610, .amax true 8 12 16), (0x4CA20610, .aminu false 8 12 16),
    (0xCCC20610, .amaxu true 8 12 16), (0x4CE20610, .aand false 8 12 16), (0xCD020610, .aor true 8 12 16),
    (0x4D220610, .axor false 8 12 16), (0xCD420610, .aincw true 8 12 16), (0x4D620610, .afadd false 8 12 16),
    (0xCD820610, .aadd64 true 8 12 16), (0x4DA20610, .acas64 false 8 12 16), (0xCDC20610, .axch64 true 8 12 16),
    (0x4DE20610, .afmax false 8 12 16)] : List (Word × Instr)), (decodeWord p.1).toOption = some p.2 := by decide +kernel

/-- Words of major 0x27, laid out as R40, R44 and R45 give their fields. -/
theorem test_decode_major_27 : ∀ p ∈ ([
    (0xCE020610, .aaddAr true 8 12 16), (0x4E220610, .axchAr false 8 12 16), (0xCE420610, .acasAr true 8 12 16),
    (0x4E620610, .aminAr false 8 12 16), (0xCE820610, .amaxAr true 8 12 16), (0x4EA20610, .aminuAr false 8 12 16),
    (0xCEC20610, .amaxuAr true 8 12 16), (0x4EE20610, .aandAr false 8 12 16), (0xCF020610, .aorAr true 8 12 16),
    (0x4F220610, .axorAr false 8 12 16), (0xCF420610, .aincwAr true 8 12 16), (0x4F620610, .afaddAr false 8 12 16),
    (0xCF820610, .aadd64Ar true 8 12 16), (0x4FA20610, .acas64Ar false 8 12 16), (0xCFC20610, .axch64Ar true 8 12 16),
    (0x4FE20610, .afmaxAr false 8 12 16)] : List (Word × Instr)), (decodeWord p.1).toOption = some p.2 := by decide +kernel

/-- Words of major 0x28, laid out as R40, R44 and R45 give their fields. -/
theorem test_decode_major_28 : ∀ p ∈ ([
    (0xD0000003, .fenceAcq true 3), (0x50200003, .fenceRel false 3), (0xD0400003, .fenceAr true 3),
    (0x50600003, .fenceSc false 3), (0xD0800003, .fenceDrain true 3)] : List (Word × Instr)), (decodeWord p.1).toOption = some p.2 := by decide +kernel

/-- Words of major 0x29, laid out as R40, R44 and R45 give their fields. -/
theorem test_decode_major_29 : ∀ p ∈ ([
    (0x52000600, .pref false 12), (0xD2200600, .prefl1 true 12), (0x52400601, .invl1 false 12 true),
    (0xD2600601, .rdcinv true 12 true), (0x52800601, .lempty false 12 1), (0xD2A00601, .lfull true 12 1)] : List (Word × Instr)), (decodeWord p.1).toOption = some p.2 := by decide +kernel

/-- Words of major 0x2A, laid out as R40, R44 and R45 give their fields. -/
theorem test_decode_major_2a : ∀ p ∈ ([
    (0x54020610, .talloc false 8 12 16), (0xD4200600, .trel true 12), (0x54400610, .tdrop false 12 16),
    (0xD4620610, .taddr true 8 12 16), (0x54820600, .tstat false 8 12)] : List (Word × Instr)), (decodeWord p.1).toOption = some p.2 := by decide +kernel

/-- Words of major 0x2B, laid out as R40, R44 and R45 give their fields. -/
theorem test_decode_major_2b : ∀ p ∈ ([
    (0xD6000610, .tcset true 12 16), (0x56200610, .tcadd false 12 16), (0xD6400610, .tcwait true 12 16),
    (0x56620600, .tcread false 8 12)] : List (Word × Instr)), (decodeWord p.1).toOption = some p.2 := by decide +kernel

/-- Words of major 0x30, laid out as R40, R44 and R45 give their fields. -/
theorem test_decode_major_30 : ∀ p ∈ ([
    (0xE0020610, .cpy true 8 12 16), (0x60220610, .cpyr false 8 12 16), (0xE0420610, .cpym true 8 12 16),
    (0x60620610, .cpys false 8 12 16), (0xE0800600, .publ true 12), (0x60A04610, .cpyt false 1 12 16),
    (0xE0C20600, .cpyw true 8 12), (0x60E20000, .cpyq false 8)] : List (Word × Instr)), (decodeWord p.1).toOption = some p.2 := by decide +kernel

/-- Words of major 0x31, laid out as R40, R44 and R45 give their fields. -/
theorem test_decode_major_31 : ∀ p ∈ ([
    (0xE2020610, .mma8 true 8 12 16), (0x62220610, .mma8s false 8 12 16), (0xE2420610, .mma8g true 8 12 16),
    (0x62620610, .mma8gs false 8 12 16), (0xE2820610, .mmah true 8 12 16), (0x62A20610, .mmab false 8 12 16),
    (0xE2C20000, .mzero true 8), (0x62E20610, .mldc false 8 12 16), (0xE3020610, .mstc true 8 12 16),
    (0x63220600, .mwait false 8 12), (0xE3420000, .mstat true 8)] : List (Word × Instr)), (decodeWord p.1).toOption = some p.2 := by decide +kernel

/-- Words of major 0x32, laid out as R40, R44 and R45 give their fields. -/
theorem test_decode_major_32 : ∀ p ∈ ([
    (0x64020000, .macq false 8), (0xE4200600, .mpass true 12), (0x64400000, .mrel false),
    (0xE4620000, .mwho true 8)] : List (Word × Instr)), (decodeWord p.1).toOption = some p.2 := by decide +kernel

/-- Words of major 0x33, laid out as R40, R44 and R45 give their fields. -/
theorem test_decode_major_33 : ∀ p ∈ ([
    (0x66162A00, .tknext false 88 84), (0xE6200000, .tkdone true), (0x66400600, .tkpost false 12),
    (0xE6600000, .tkspec true), (0x66800000, .tkabort false), (0xE6A00600, .tksucc true 12)] : List (Word × Instr)), (decodeWord p.1).toOption = some p.2 := by decide +kernel

/-- Words of major 0x34, laid out as R40, R44 and R45 give their fields. -/
theorem test_decode_major_34 : ∀ p ∈ ([
    (0x68020610, .launch false 8 12 16), (0xE8220600, .lwait true 8 12), (0x68420600, .lstat false 8 12),
    (0xE8620610, .role true 8 12 16)] : List (Word × Instr)), (decodeWord p.1).toOption = some p.2 := by decide +kernel

/-- Words of major 0x35, laid out as R40, R44 and R45 give their fields. -/
theorem test_decode_major_35 : ∀ p ∈ ([
    (0x6A020600, .aqpost false 8 12), (0xEA220600, .aqwait true 8 12), (0x6A420600, .aqstat false 8 12),
    (0xEA600600, .aqcancel true 12)] : List (Word × Instr)), (decodeWord p.1).toOption = some p.2 := by decide +kernel

/-- Words of major 0x36, laid out as R40, R44 and R45 give their fields. -/
theorem test_decode_major_36 : ∀ p ∈ ([
    (0x6C020000, .ndrain false 8), (0xEC220601, .ngen true 8 12 true), (0x6C420600, .npath false 8 12)] : List (Word × Instr)), (decodeWord p.1).toOption = some p.2 := by decide +kernel

/-- Words of major 0x37, laid out as R40, R44 and R45 give their fields. -/
theorem test_decode_major_37 : ∀ p ∈ ([
    (0xEE020600, .clpost true 8 12), (0x6E220600, .clwait false 8 12), (0xEE420600, .clstat true 8 12),
    (0x6E600611, .clroute false 12 1 1)] : List (Word × Instr)), (decodeWord p.1).toOption = some p.2 := by decide +kernel

/-- Every check of every instruction refuses a term that breaks it alone (R42, R43, R46). -/
theorem test_ill_formed : ∀ i ∈ ([
    .add64 false 9 12 16, .add64 false 8 9 16, .add64 false 8 12 9, .sub64 true 9 12 16, .sub64 true 8 9 16,
    .sub64 true 8 12 9, .mul64 false 9 12 16, .mul64 false 8 9 16, .mul64 false 8 12 9, .madw false 9 12 16,
    .prmt false 8 9 16, .icmpEq64 false 2 5 9 16, .icmpEq64 false 2 5 12 9, .icmpNe64 true 2 5 9 16, .icmpNe64 true 2 5 12 9,
    .icmpLt64 false 2 5 9 16, .icmpLt64 false 2 5 12 9, .icmpLtu64 true 2 5 9 16, .icmpLtu64 true 2 5 12 9, .shli true 8 12 32,
    .shri false 8 12 32, .sari true 8 12 32, .roli false 8 12 32, .shli64 true 9 12 1, .shli64 true 8 9 1,
    .shri64 false 9 12 1, .shri64 false 8 9 1, .sari64 true 9 12 1, .sari64 true 8 9 1, .cmpi true 10 5 12 1,
    .lea true 1 9 12 16, .lea true 1 8 9 16, .mov64 true 9 12, .mov64 true 8 9, .f2i true 8 12 1 true 6,
    .f2u false 8 12 1 true 6, .i2f true 8 12 1 true 6, .u2f false 8 12 1 true 6, .f2h true 8 12 1 true 6, .h2f false 8 12 1 true 6,
    .f2b true 8 12 1 true 6, .b2f false 8 12 1 true 6, .f2n true 8 12 1 true 6, .n2f false 8 12 1 true 6, .f2d true 8 12 1 true 6,
    .f2d true 9 12 1 true 1, .d2f false 8 12 1 true 6, .d2f false 8 9 1 true 1, .i2d true 8 12 1 true 6, .i2d true 9 12 1 true 1,
    .d2i false 8 12 1 true 6, .d2i false 8 9 1 true 1, .packn true 8 12 1 true 6, .packn true 8 10 1 true 1, .unpkn false 8 12 1 true 6,
    .unpkn false 10 12 1 true 1, .dadd true 9 12 16, .dadd true 8 9 16, .dadd true 8 12 9, .dsub false 9 12 16,
    .dsub false 8 9 16, .dsub false 8 12 9, .dmul true 9 12 16, .dmul true 8 9 16, .dmul true 8 12 9,
    .dfma false 9 12 16, .dfma false 8 9 16, .dfma false 8 12 9, .dmin true 9 12 16, .dmin true 8 9 16,
    .dmin true 8 12 9, .dmax false 9 12 16, .dmax false 8 9 16, .dmax false 8 12 9, .ddiv true 9 12 16,
    .ddiv true 8 9 16, .ddiv true 8 12 9, .dsqrt false 9 12, .dsqrt false 8 9, .deq true 2 5 9 16,
    .deq true 2 5 12 9, .dlt false 2 5 9 16, .dlt false 2 5 12 9, .dle true 2 5 9 16, .dle true 2 5 12 9,
    .duno false 2 5 9 16, .duno false 2 5 12 9, .mlmrg true 10 12, .mlmrg true 8 9, .rescale true 8 12 9,
    .jr true 9, .callr false 9, .brx false 9 16, .pblk 5 1 4, .ld false 8 12 7 1,
    .ld false 9 12 5 1, .ld false 10 12 6 1, .ld false 8 9 1 1, .st true 8 12 7 1, .st true 9 12 5 1,
    .st true 10 12 6 1, .st true 8 9 1 1, .ldx false 7 8 12 16, .ldx false 5 9 12 16, .ldx false 6 10 12 16,
    .ldx false 1 8 9 16, .ldxC true 7 8 12 16, .ldxC true 5 9 12 16, .ldxC true 6 10 12 16, .ldxC true 1 8 9 16,
    .stx false 7 8 12 16, .stx false 5 9 12 16, .stx false 6 10 12 16, .stx false 1 8 9 16, .ldAcq true 8 12 7 1,
    .ldAcq true 9 12 5 1, .ldAcq true 10 12 6 1, .ldAcq true 8 9 1 1, .stRel false 8 12 7 1, .stRel false 9 12 5 1,
    .stRel false 10 12 6 1, .stRel false 8 9 1 1, .aadd true 8 9 16, .axch false 8 9 16, .acas true 8 9 16,
    .acas true 8 12 9, .amin false 8 9 16, .amax true 8 9 16, .aminu false 8 9 16, .amaxu true 8 9 16,
    .aand false 8 9 16, .aor true 8 9 16, .axor false 8 9 16, .aincw true 8 9 16, .afadd false 8 9 16,
    .aadd64 true 9 12 16, .aadd64 true 8 9 16, .aadd64 true 8 12 9, .acas64 false 8 12 10, .acas64 false 9 12 16,
    .acas64 false 8 9 16, .axch64 true 9 12 16, .axch64 true 8 9 16, .axch64 true 8 12 9, .afmax false 8 9 16,
    .aaddAr true 8 9 16, .axchAr false 8 9 16, .acasAr true 8 9 16, .acasAr true 8 12 9, .aminAr false 8 9 16,
    .amaxAr true 8 9 16, .aminuAr false 8 9 16, .amaxuAr true 8 9 16, .aandAr false 8 9 16, .aorAr true 8 9 16,
    .axorAr false 8 9 16, .aincwAr true 8 9 16, .afaddAr false 8 9 16, .aadd64Ar true 9 12 16, .aadd64Ar true 8 9 16,
    .aadd64Ar true 8 12 9, .acas64Ar false 8 12 10, .acas64Ar false 9 12 16, .acas64Ar false 8 9 16, .axch64Ar true 9 12 16,
    .axch64Ar true 8 9 16, .axch64Ar true 8 12 9, .afmaxAr false 8 9 16, .fenceAcq true 7, .fenceRel false 7,
    .fenceAr true 7, .fenceSc false 7, .fenceDrain true 7, .pref false 9, .prefl1 true 9,
    .invl1 false 9 true, .rdcinv true 9 true, .lempty false 9 1, .lfull true 9 1, .talloc false 9 12 16,
    .trel true 9, .tdrop false 9 16, .taddr true 9 12 16, .tstat false 8 9, .tcset true 9 16,
    .tcadd false 9 16, .tcwait true 9 16, .tcread false 8 9, .cpy true 10 12 16, .cpy true 8 10 16,
    .cpy true 8 12 10, .cpyr false 10 12 16, .cpyr false 8 10 16, .cpyr false 8 12 10, .cpym true 10 12 16,
    .cpym true 8 10 16, .cpym true 8 12 10, .cpys false 10 12 16, .cpys false 8 10 16, .cpys false 8 12 10,
    .publ true 9, .cpyt false 1 10 16, .cpyt false 1 12 10, .mma8 true 8 10 16, .mma8 true 8 12 10,
    .mma8s false 8 10 16, .mma8s false 8 12 10, .mma8g true 8 10 16, .mma8g true 8 12 10, .mma8gs false 8 10 16,
    .mma8gs false 8 12 10, .mmah true 8 10 16, .mmah true 8 12 10, .mmab false 8 10 16, .mmab false 8 12 10,
    .mldc false 8 9 16, .mstc true 8 9 16, .tkpost false 9, .tksucc true 9, .launch false 8 12 10,
    .launch false 8 9 16, .aqpost false 8 9, .clpost true 8 9, .clroute false 9 1 1] : List Instr), i.wf = false := by decide +kernel

/-! The register words. -/

theorem test_step_runs_a_loaded_word :
    (after (step (State.reset.withFetchWord 32 0x08285001))).bind (fun s => (s.thread? t0).map (fun th => (th.pc, th.regs[10]?))) =
      some (0x10004, some 1) := by decide +kernel

theorem witness_NamesResolve : Executes plain (ctx plain) ∧
    dest (ctx (withThread (fun th => { th with vwb := 240 }))) 1 15 = .ok (.vec 255 1) ∧
    errorIn (src32 (ctx (withThread (fun th => { th with vwb := 240 }))) 16) = some (trapPlain 0x10000 0x03 16) ∧
    dest (ctx plain) 1 80 = .ok (.uni 0 1) ∧ dest (ctx plain) 1 119 = .ok (.uni 39 1) ∧ dest (ctx plain) 1 127 = .ok .none ∧
    errorIn (dest (ctx plain) 1 126) = some (ctx plain).illegal ∧ trapAfter (exec (.add false 80 4 81) plain) = some (0x02, 0x10000) :=
  ⟨plain_executes, okOf (by decide +kernel), by decide +kernel, okOf (by decide +kernel), okOf (by decide +kernel), okOf (by decide +kernel),
    by decide +kernel, by decide +kernel⟩

/-- The usual operands: d is v8, a is v12, b is v16. -/
theorem plain_writes : Writes (ctx plain) 1 8 (.vec 8 1) [12, 16] false := ⟨okOf (by decide +kernel), okOf (by decide +kernel)⟩
theorem plain_writes3 : Writes (ctx plain) 1 8 (.vec 8 1) [8, 12, 16] false := ⟨okOf (by decide +kernel), okOf (by decide +kernel)⟩
theorem plain_writes1 : Writes (ctx plain) 1 8 (.vec 8 1) [12] false := ⟨okOf (by decide +kernel), okOf (by decide +kernel)⟩
theorem plain_writes_pair : Writes (ctx plain) 2 8 (.vec 8 2) [12, 16] false := ⟨okOf (by decide +kernel), okOf (by decide +kernel)⟩
theorem plain_writes_quad : Writes (ctx plain) 4 8 (.vec 8 4) [12] false := ⟨okOf (by decide +kernel), okOf (by decide +kernel)⟩
theorem plain_a : Reads (ctx plain) 12 12 := okOf (by decide +kernel)
theorem plain_b : Reads (ctx plain) 16 16 := okOf (by decide +kernel)
theorem plain_d : Reads (ctx plain) 8 8 := okOf (by decide +kernel)
theorem plain_a64 : Reads64 (ctx plain) 12 0x0000000D0000000C := okOf (by decide +kernel)
theorem plain_b64 : Reads64 (ctx plain) 16 0x0000001100000010 := okOf (by decide +kernel)
theorem plain_d64 : Reads64 (ctx plain) 8 0x0000000900000008 := okOf (by decide +kernel)

/-- A write of v8 from v12 and v16 meets the hypotheses of every two-source statement. -/
theorem witness_IopMinorsCompute : Executes plain (ctx plain) ∧ Writes (ctx plain) 1 8 (.vec 8 1) [12, 16] false ∧ Reads (ctx plain) 12 12 ∧
    Reads (ctx plain) 16 16 := ⟨plain_executes, plain_writes, plain_a, plain_b⟩

theorem test_iop : (let s := withRegs [(12, 0xFFFFFFFE), (16, 0x00000023)]
    [regAfter (exec (.add false 8 12 16) s) 8, regAfter (exec (.sub false 8 16 12) s) 8, regAfter (exec (.mulh false 8 12 16) s) 8,
     regAfter (exec (.mulhu false 8 12 16) s) 8, regAfter (exec (.andn false 8 12 16) s) 8, regAfter (exec (.shl false 8 12 16) s) 8,
     regAfter (exec (.shr false 8 12 16) s) 8, regAfter (exec (.sar false 8 12 16) s) 8, regAfter (exec (.min false 8 12 16) s) 8,
     regAfter (exec (.maxu false 8 12 16) s) 8]) =
    [some 0x21, some 0x25, some 0xFFFFFFFF, some 0x22, some 0xFFFFFFDC, some 0xFFFFFFF0, some 0x1FFFFFFF, some 0xFFFFFFFF, some 0xFFFFFFFE,
     some 0xFFFFFFFE] := by decide +kernel

theorem witness_IopxMinorsCompute : Executes plain (ctx plain) ∧ Writes (ctx plain) 2 8 (.vec 8 2) [12, 16] false ∧
    Reads64 (ctx plain) 12 0x0000000D0000000C ∧ Reads64 (ctx plain) 16 0x0000001100000010 ∧ Reads64 (ctx plain) 8 0x0000000900000008 ∧
    Writes (ctx plain) 1 8 (.vec 8 1) [8, 12, 16] false ∧ Writes (ctx plain) 1 8 (.vec 8 1) [12] false :=
  ⟨plain_executes, plain_writes_pair, plain_a64, plain_b64, plain_d64, plain_writes3, plain_writes1⟩

theorem test_iopx : (let s := withRegs [(12, 0xFFFFFFFF), (13, 0), (16, 1), (17, 0), (20, 0)]
    [regAfter (exec (.add64 false 8 12 16) s) 9, regAfter (exec (.madw false 8 12 16) s) 9, regAfter (exec (.clz false 8 20) s) 8,
     regAfter (exec (.popc false 8 12) s) 8, regAfter (exec (.brev false 8 16) s) 8, regAfter (exec (.rol false 8 16 12) s) 8]) =
    [some 1, some 9, some 32, some 32, some 0x80000000, some 0x80000000] := by decide +kernel

theorem witness_FieldMinorsCompute : Executes plain (ctx plain) ∧ Writes (ctx plain) 1 8 (.vec 8 1) [8, 12, 16] false ∧
    Reads64 (ctx plain) 12 0x0000000D0000000C ∧ Reads (ctx plain) 16 16 ∧ Reads (ctx plain) 8 8 :=
  ⟨plain_executes, plain_writes3, plain_a64, plain_b, plain_d⟩

/-- A signed field at the top, a field of no bits, an insert past bit 31, a replicated sign. -/
theorem test_fields :
    regAfter (exec (.bfe false 8 12 16) (withRegs [(12, 0xA0000000), (16, 0x1081C)])) 8 = some 0xA ∧
    regAfter (exec (.bfe false 8 12 16) (withRegs [(12, 0xA0000000), (16, 0x1041C)])) 8 = some 0xFFFFFFFA ∧
    regAfter (exec (.bfe false 8 12 16) (withRegs [(12, 0xFFFFFFFF), (16, 0x10000)])) 8 = some 0 ∧
    regAfter (exec (.bfi false 8 12 16) (withRegs [(8, 0), (12, 0xFF), (16, 0x0081C)])) 8 = some 0xF0000000 ∧
    regAfter (exec (.prmt false 8 12 16) (withRegs [(12, 0x00000080), (13, 0x44000000), (16, 0x0807)])) 8 = some 0x80FF8044 := by decide +kernel

/-- The corners of the division minors: a divisor of zero, the most negative dividend. -/
theorem witness_DivisionMinorsCompute : Executes plain (ctx plain) ∧ Writes (ctx plain) 1 8 (.vec 8 1) [12, 16] false ∧ Reads (ctx plain) 12 12 ∧
    Reads (ctx plain) 16 16 ∧
    (let sent := fun (i : Instr) (x y : Word) => (thAfter (exec i (withRegs [(12, x), (16, y)]))).map (fun th => th.infl.map (fun p => p.st))
     sent (.div false 8 12 16) 5 0 = some [.ready [some 0xFFFFFFFF]] ∧ sent (.rem false 8 12 16) 5 0 = some [.ready [some 5]] ∧
     sent (.div false 8 12 16) 0x80000000 0xFFFFFFFF = some [.ready [some 0x80000000]] ∧
     sent (.rem false 8 12 16) 0xFFFFFFF9 2 = some [.ready [some 0xFFFFFFFF]] ∧ sent (.divu false 8 12 16) 0xFFFFFFF9 2 = some [.ready [some 0x7FFFFFFC]]) :=
  ⟨plain_executes, plain_writes, plain_a, plain_b, by decide +kernel⟩

/-- Widths 1 and 32 are legal, 0 and 33 are not. -/
theorem witness_ImmediateFormsCompute : Executes plain (ctx plain) ∧ Writes (ctx plain) 1 8 (.vec 8 1) [12] false ∧ dest (ctx plain) 1 8 = .ok (.vec 8 1) ∧
    Writes (ctx plain) 1 8 (.vec 8 1) [8] false ∧ Writes (ctx plain) 2 8 (.vec 8 2) [12, 16] false ∧
    regAfter (exec (.sext false 8 12 1) (withRegs [(12, 1)])) 8 = some 0xFFFFFFFF ∧ regAfter (exec (.zext false 8 12 32) (withRegs [(12, 0x80000000)])) 8 = some 0x80000000 ∧
    (trapAfter (exec (.sext false 8 12 0) plain)).map Prod.fst = some 0x02 ∧ (trapAfter (exec (.zext false 8 12 33) plain)).map Prod.fst = some 0x02 ∧
    regAfter (exec (.addi false 8 12 0x7FF) plain) 8 = some 11 ∧ regAfter (exec (.movh false 8 0x3FFFF) plain) 8 = some 0xFFFFC008 ∧
    regAfter (exec (.lea false 15 8 12 16) plain) 8 = some 0x0008000C :=
  ⟨plain_executes, plain_writes1, okOf (by decide +kernel), ⟨okOf (by decide +kernel), okOf (by decide +kernel)⟩, plain_writes_pair, by decide +kernel, by decide +kernel,
    by decide +kernel, by decide +kernel, by decide +kernel, by decide +kernel, by decide +kernel⟩

/-- The example of R83: CMPI.LTU with −1 is true of every value but 0xFFFFFFFF; SEL, PMOV and PSET. -/
theorem witness_ComparesSetPredicates : Executes plain (ctx plain) ∧ Reads (ctx plain) 12 12 ∧ Reads (ctx plain) 16 16 ∧ Reads64 (ctx plain) 12 0x0000000D0000000C ∧
    Reads64 (ctx plain) 16 0x0000001100000010 ∧ Writes (ctx plain) 1 8 (.vec 8 1) [12, 16] true ∧ Writes (ctx plain) 1 8 (.vec 8 1) [] true ∧
    (let preds := fun (i : Instr) (x : Word) => (thAfter (exec i (withRegs [(12, x)]))).map (fun th => th.preds)
     preds (.cmpi false 6 1 12 0x7FF) 0xFFFFFFFE = some 2 ∧ preds (.cmpi false 6 1 12 0x7FF) 0xFFFFFFFF = some 0 ∧
     preds (.icmpLt false 3 0 12 16) 0x80000000 = some 0 ∧ preds (.icmpGeu false 2 7 12 16) 0x80000000 = some 0 ∧
     preds (.pset false 12 16) 0x10 = some 0x10) ∧
    regAfter (exec (.sel false true 7 8 12 16) plain) 8 = some 16 ∧ regAfter (exec (.pmov false 8) plain) 8 = some 0x80 :=
  ⟨plain_executes, plain_a, plain_b, plain_a64, plain_b64, ⟨okOf (by decide +kernel), okOf (by decide +kernel)⟩, ⟨okOf (by decide +kernel), okOf (by decide +kernel)⟩,
    by decide +kernel, by decide +kernel, by decide +kernel⟩

/-! Floating point. -/

theorem witness_Fp32ArithmeticRoundsOnce : Executes plain (ctx plain) ∧ Writes (ctx plain) 1 8 (.vec 8 1) [8, 12, 16] false ∧
    Writes (ctx plain) 1 8 (.vec 8 1) [12, 16] false ∧ Writes (ctx plain) 1 8 (.vec 8 1) [12] false ∧ Reads (ctx plain) 12 12 ∧ Reads (ctx plain) 16 16 ∧
    Reads (ctx plain) 8 8 := ⟨plain_executes, plain_writes3, plain_writes, plain_writes1, plain_a, plain_b, plain_d⟩

/-- The signed zeros and the rounding examples of R108. -/
theorem test_fop : (let s := fun (x y : Word) => withRegs [(12, x), (16, y)]
    [regAfter (exec (.fceil false 8 12) (s 0xBF000000 0)) 8, regAfter (exec (.frint false 8 12) (s 0x3F000000 0)) 8, regAfter (exec (.frint false 8 12) (s 0xBF000000 0)) 8,
     regAfter (exec (.ffrac false 8 12) (s 0xC0400000 0)) 8, regAfter (exec (.ffrac false 8 12) (s 0xC0300000 0)) 8,
     regAfter (exec (.fadd false 8 12 16) (s 0x3F800000 0x33800000)) 8, regAfter (exec (.fmul false 8 12 16) (s 0x7F000000 0x40000000)) 8,
     regAfter (exec (.fscale false 8 12 16) (s 0x7F000000 0xFFFFFED4)) 8]) =
    [some 0x80000000, some 0, some 0x80000000, some 0x80000000, some 0xBF400000, some 0x3F800000, some 0x7F800000, some 0] := by decide +kernel

/-- A NaN operand, alone and beside a number; the two zeros. -/
theorem witness_NanAndMinMaxResults : Executes plain (ctx plain) ∧ Writes (ctx plain) 1 8 (.vec 8 1) [12, 16] false ∧
    Writes (ctx plain) 1 8 (.vec 8 1) [8, 12, 16] false ∧ Reads (ctx plain) 12 12 ∧ Reads (ctx plain) 16 16 ∧ (v32 0x7F800001).isNan = true ∧
    (v32 12).isNan = false ∧
    (let s := fun (x y : Word) => withRegs [(12, x), (16, y)]
     [regAfter (exec (.fmin false 8 12 16) (s 0xFF800001 0)) 8, regAfter (exec (.fminn false 8 12 16) (s 0xFF800001 5)) 8,
      regAfter (exec (.fmin false 8 12 16) (s 0 0x80000000)) 8, regAfter (exec (.fmax false 8 12 16) (s 0x80000000 0)) 8] =
       [some 0x7FC00000, some 5, some 0x80000000, some 0]) :=
  ⟨plain_executes, plain_writes, plain_writes3, plain_a, plain_b, by decide +kernel, by decide +kernel, by decide +kernel⟩

/-- The two halves of 1 + 1 and of 65,504 + 65,504; a dot product of ones. -/
theorem witness_PackedHalvesComputeApart : Executes plain (ctx plain) ∧ Writes (ctx plain) 1 8 (.vec 8 1) [12, 16] false ∧
    Writes (ctx plain) 1 8 (.vec 8 1) [8, 12, 16] false ∧ Reads (ctx plain) 12 12 ∧ Reads (ctx plain) 16 16 ∧ Reads (ctx plain) 8 8 ∧
    regAfter (exec (.hadd2 false 8 12 16) (withRegs [(12, 0x7BFF3C00), (16, 0x7BFF3C00)])) 8 = some 0x7C004000 ∧
    regAfter (exec (.hdot2 false 8 12 16) (withRegs [(8, 0x3F800000), (12, 0x3C003C00), (16, 0x3C003C00)])) 8 = some 0x40400000 :=
  ⟨plain_executes, plain_writes, plain_writes3, plain_a, plain_b, plain_d, by decide +kernel, by decide +kernel⟩

/-- The example of R113: the mask 0x24 names the subnormals of either sign; NaN against a number. -/
theorem witness_FcmpConditions : Executes plain (ctx plain) ∧ Reads (ctx plain) 12 12 ∧ Reads (ctx plain) 16 16 ∧
    (let p := fun (i : Instr) (x y : Word) => (thAfter (exec i (withRegs [(12, x), (16, y)]))).map (fun th => th.preds)
     [p (.fcmpClass false 0 1 12 16) 0x80000001 0x24, p (.fcmpClass false 0 1 12 16) 0x00800000 0x24, p (.fcmpOlt false 0 1 12 16) 0x7FC00000 0,
      p (.fcmpUlt false 0 1 12 16) 0x7FC00000 0, p (.fcmpOeq false 0 1 12 16) 0x80000000 0]) = [some 2, some 0, some 0, some 2, some 2] :=
  ⟨plain_executes, plain_a, plain_b, by decide +kernel⟩

/-- Rounding field 5 needs capability bit 13; UNPKN of a 16-bit container takes element group 0 and 1, and no group 2. -/
theorem witness_ConversionsFit : Executes plain (ctx plain) ∧ Writes (ctx plain) 1 8 (.vec 8 1) [12] false ∧ Reads (ctx plain) 12 12 ∧ (ctx plain).l.has 13 = true ∧
    (ctx plain).l.has 1 = true ∧ Writes (ctx plain) 2 8 (.vec 8 2) [12] false ∧ Writes (ctx plain) 4 8 (.vec 8 4) [12] false ∧
    Writes (ctx plain) 1 8 (.vec 8 1) [8, 12] false ∧ src (ctx plain) 4 12 = .ok [12, 13, 14, 15] ∧ Reads64 (ctx plain) 12 0x0000000D0000000C ∧
    ((ctx plain).nf 0).container = 8 ∧ ((ctx plain).nf 4).container ≠ 8 ∧ (trapAfter (exec (.unpkn false 8 12 4 false 2) plain)).map Prod.fst = some 0x02 ∧
    regAfter (exec (.i2f false 8 12 0 false 0) (withRegs [(12, 0xFFFFFFFF)])) 8 = some 0xBF800000 ∧
    regAfter (exec (.f2h false 8 12 0 true 0) (withRegs [(12, 0x47C35000)])) 8 = some 0x7BFF :=
  ⟨plain_executes, plain_writes1, plain_a, by decide +kernel, by decide +kernel, ⟨okOf (by decide +kernel), okOf (by decide +kernel)⟩, plain_writes_quad,
    ⟨okOf (by decide +kernel), okOf (by decide +kernel)⟩, okOf (by decide +kernel), plain_a64, by decide +kernel, by decide +kernel, by decide +kernel, by decide +kernel,
    by decide +kernel⟩

def noCaps : State := rig id id (fun l => { l with hdr := { l.hdr with features := 0 } }) id
theorem noCaps_executes : Executes noCaps (ctx noCaps) := executes (by decide +kernel) (by decide +kernel)

theorem witness_Fp64Arithmetic : Executes plain (ctx plain) ∧ Writes (ctx plain) 2 8 (.vec 8 2) [8, 12, 16] false ∧ Writes (ctx plain) 2 8 (.vec 8 2) [12, 16] false ∧
    Reads64 (ctx plain) 12 0x0000000D0000000C ∧ Reads64 (ctx plain) 16 0x0000001100000010 ∧ (ctx plain).l.has 1 = true ∧
    Executes noCaps (ctx noCaps) ∧ Writes (ctx noCaps) 2 8 (.vec 8 2) [12, 16] false ∧ Reads64 (ctx noCaps) 12 0x0000000D0000000C ∧
    Reads64 (ctx noCaps) 16 0x0000001100000010 ∧ (ctx noCaps).l.has 1 = false ∧
    regAfter (exec (.dadd false 8 12 16) (withRegs [(12, 0), (13, 0x3FF00000), (16, 0), (17, 0x3FF00000)])) 9 = some 0x40000000 :=
  ⟨plain_executes, ⟨okOf (by decide +kernel), okOf (by decide +kernel)⟩, plain_writes_pair, plain_a64, plain_b64, by decide +kernel, noCaps_executes,
    ⟨okOf (by decide +kernel), okOf (by decide +kernel)⟩, okOf (by decide +kernel), okOf (by decide +kernel), by decide +kernel, by decide +kernel⟩

theorem witness_XfnResults : Executes plain (ctx plain) ∧ Writes (ctx plain) 1 8 (.vec 8 1) [12] false ∧ Writes (ctx plain) 1 8 (.vec 8 1) [12, 16] false ∧
    Reads (ctx plain) 12 12 ∧ Reads (ctx plain) 16 16 ∧ Reads (ctx (withRegs [(12, 0xFF800000)])) 12 0xFF800000 ∧ (v32 0x7F800001).isNan = true ∧
    (thAfter (exec (.xfnLog2 false 8 12) (withRegs [(12, 0x00000001)]))).map (fun th => th.infl.map (fun p => p.st)) = some [.ready [some 0xC3150000]] :=
  ⟨plain_executes, plain_writes1, plain_writes, plain_a, plain_b, okOf (by decide +kernel), by decide +kernel, by decide +kernel⟩

/-- The MLMRG and RESCALE of the example of R124. -/
theorem witness_SoftmaxPieces : Executes plain (ctx plain) ∧ Writes (ctx plain) 1 8 (.vec 8 1) [12, 16] false ∧ Writes (ctx plain) 4 8 (.vec 8 4) [8, 12] false ∧
    Writes (ctx plain) 1 8 (.vec 8 1) [8, 12, 16] false ∧ src (ctx plain) 4 8 = .ok [8, 9, 10, 11] ∧ src (ctx plain) 2 12 = .ok [12, 13] ∧
    (let s := withRegs [(12, 0x40400000), (13, 0x40000000), (8, 0x40A00000), (9, 0x3F800000), (20, 0x41000000), (21, 0x40800000)]
     [12, 13, 14, 15].map (regAfter (exec (.mlmrg false 12 8) s)) = [some 0x40A00000, some 0x3FC00000, some 0x3E800000, some 0x3F800000]) ∧
    regAfter (exec (.rescale false 20 21 14) (withRegs [(14, 0x3E800000), (15, 0x3F800000), (20, 0x41000000), (21, 0x40800000)])) 20 = some 0x40C00000 :=
  ⟨plain_executes, plain_writes, ⟨okOf (by decide +kernel), okOf (by decide +kernel)⟩, plain_writes3, okOf (by decide +kernel), okOf (by decide +kernel),
    by decide +kernel, by decide +kernel⟩
/-! System words, barriers and transfers. -/

/-- Window moves at the edges of their ranges; FMTLD of a legal word, into nf7 and into nf8. -/
theorem witness_WindowsAndFormats : Executes plain (ctx plain) ∧ Reads (ctx plain) 80 0 ∧
    (let vwb := fun (b : BitVec 7) => (thAfter (exec (.wbase false b) plain)).map (fun th => (th.vwb, th.trapCause))
     [vwb 15, vwb 16, vwb 127, vwb 0] = [some (240, 0), some (0, 2), some (0, 2), some (0, 0)]) ∧
    (let uwb := fun (b : BitVec 7) => (thAfter (exec (.ubase false b) plain)).map (fun th => (th.uwb, th.trapCause))
     [uwb 7, uwb 8, uwb 127] = [some (56, 0), some (0, 2), some (0, 2)]) ∧
    (let s := rig id (fun g => { g with uni := g.uni.set 1 0xA604, uniRd := g.uniRd.set 1 0xA604 }) id id
     let nf := fun (k a : BitVec 7) => (after (exec (.fmtld false k a) s)).bind (fun s => s.groups.head?.map (fun g => g.nf.getD 7 0))
     nf 7 81 = some 0xA604 ∧ nf 8 81 = some 0x461D ∧ nf 7 80 = some 0x461D) :=
  ⟨plain_executes, okOf (by decide +kernel), by decide +kernel, by decide +kernel, by decide +kernel⟩

/-- CAPS, VALLOC, the halves of CLOCK, and a number outside the map. -/
theorem witness_SrdReadsTheMap : Executes plain (ctx plain) ∧ dest (ctx plain) 1 8 = .ok (.vec 8 1) ∧ dest (ctx plain) 1 80 = .ok (.uni 0 1) ∧
    (0x7F * 128 + 0 ∉ sysMap) ∧ regAfter (exec (.srd false 8 0 0x20) plain) 8 = some 0x3FFF ∧ regAfter (exec (.srd false 8 0 0x42) plain) 8 = some 256 ∧
    trapAfter (exec (.srd false 80 0 0x42) plain) = some (2, 0x10000) ∧
    (let s := rig id id id (fun s => { s with ns := 0x500000007 })
     (thAfter (exec (.srd false 8 0 0) s)).map (fun th => (th.clockCap, th.infl.map (fun p => p.st))) = some (some 5, [.ready [some 7]])) ∧
    trapAfter (exec (.srd false 8 0x7F 0) plain) = some (2, 0x10000) :=
  ⟨plain_executes, okOf (by decide +kernel), okOf (by decide +kernel), by decide +kernel, by decide +kernel, by decide +kernel, by decide +kernel, by decide +kernel,
    by decide +kernel⟩

/-- VWB takes 240 and neither 8 nor a base at VALLOC; UWB takes 56 and not 60; NET_WEIGHTS raises PRIVILEGE. -/
theorem witness_SwrWritesOrTraps : Executes plain (ctx plain) ∧ Reads (ctx plain) 8 8 ∧
    (let vwb := fun (x : Word) => (thAfter (exec (.swr false 8 0 0x40) (withRegs [(8, x)]))).map (fun th => (th.vwb, th.trapCause))
     [vwb 0x1F0, vwb 8] = [some (0xF0, 0), some (0, 2)]) ∧
    (let s := rig (fun th => { th with regs := (regs0.take 64).set 8 64 }) id id id
     (thAfter (exec (.swr false 8 0 0x40) { s with groups := s.groups.map (fun g => { g with threads := g.threads.modify 0 (fun th => { th with regs := (regs0.take 64).set 8 64 }) }) })).map
       (fun th => th.trapCause) = some 2) ∧
    (let uwb := fun (x : Word) => (thAfter (exec (.swr false 8 0 0x41) (withRegs [(8, x)]))).map (fun th => (th.uwb, th.trapCause))
     [uwb 0x78, uwb 60] = [some (56, 0), some (0, 2)]) ∧
    (thAfter (exec (.swr false 8 2 0x10) plain)).map (fun th => (th.trapCause, th.trapAddr)) = some (0x09, 0x110) ∧
    trapAfter (exec (.swr false 8 0 0x10) plain) = some (2, 0x10000) :=
  ⟨plain_executes, okOf (by decide +kernel), by decide +kernel, by decide +kernel, by decide +kernel, by decide +kernel, by decide +kernel⟩

/-- The die's debugger has armed breakpoints for the launch. -/
def armed : State := rig id id id (fun s => { s with dies := s.dies.map (fun d => { d with dbgBrkArm := true, dbgLaunch := 1 }) })
def inHandler : State := withThread (fun th => { th with inHandler := true })

theorem witness_TrapBrkExitTret : Executes plain (ctx plain) ∧ brkArmed plain (ctx plain).l = false ∧ Executes armed (ctx armed) ∧ brkArmed armed (ctx armed).l = true ∧
    Executes inHandler (ctx inHandler) ∧ (ctx inHandler).th.inHandler = true ∧
    (thAfter (exec (.trap false 127) plain)).map (fun th => (th.trapCause, th.trapPc, th.trapInfo, th.pc)) = some (0x30, 0x10000, 127, 0x10000) ∧
    (thAfter (exec (.tret false 1) inHandler)).map (fun th => th.drain) = some (some (.tret 1)) ∧ trapAfter (exec (.tret false 2) plain) = some (2, 0x10000) :=
  ⟨plain_executes, by decide +kernel, executes (by decide +kernel) (by decide +kernel), by decide +kernel, executes (by decide +kernel) (by decide +kernel), by decide +kernel,
    by decide +kernel, by decide +kernel, by decide +kernel⟩

/-- BWAIT of the latest phase and of one half the range beyond wait; of the next phase and of the last before that half are illegal. -/
theorem witness_BarrierWordsWait : Executes plain (ctx plain) ∧ Reads (ctx plain) 12 12 ∧ dest (ctx plain) 1 8 = .ok (.vec 8 1) ∧ dest (ctx plain) 1 80 = .ok (.uni 0 1) ∧
    (let s := fun (x : Word) => rig (fun th => { th with arrivals := [3, 0, 0, 0, 0, 0] }) id id (fun z => z.modThread t0 (fun th => { th with regs := th.regs.set 12 x }))
     let w := fun (x : Word) => (thAfter (exec (.bwait false 12 0) (s x))).map (fun th => (th.wait.isSome, th.trapCause))
     [w 2, w 3, w 0x80000001, w 0x80000002] = [some (true, 0), some (false, 2), some (false, 2), some (true, 0)]) ∧
    (thAfter (exec (.nap false 12) (withRegs [(12, 0x10000)]))).map (fun th => th.wait.isSome) = some false ∧
    (thAfter (exec (.nap false 12) (withRegs [(12, 1)]))).map (fun th => th.wait.isSome) = some true ∧
    (thAfter (exec (.bar false 5) plain)).map (fun th => th.wait.isSome) = some true ∧ trapAfter (exec (.bar false 6) plain) = some (2, 0x10000) :=
  ⟨plain_executes, plain_a, okOf (by decide +kernel), okOf (by decide +kernel), by decide +kernel, by decide +kernel, by decide +kernel, by decide +kernel, by decide +kernel⟩

def fullStack : State := withThread (fun th => { th with stack := List.replicate 520 0x40 })
def oneEntry : State := withThread (fun th => { th with stack := [0x40] })

theorem witness_TransfersJump : Executes plain (ctx plain) ∧ (ctx plain).th.blk = [] ∧ Reads64 (ctx plain) 12 0x0000000D0000000C ∧ Reads (ctx plain) 16 16 ∧
    (ctx plain).th.stack = [] ∧ Executes oneEntry (ctx oneEntry) ∧ (ctx oneEntry).th.stack = [0x40] ∧ Executes fullStack (ctx fullStack) ∧
    (ctx fullStack).th.stack.length = 8 + (ctx fullStack).l.hdr.stackBytes / 8 ∧
    (thAfter (exec (.call false 0x1FFFFFF) plain)).map (fun th => (th.pc, th.stack)) = some (0xFFFC, [0x10004]) ∧
    (thAfter (exec (.ret false) oneEntry)).map (fun th => (th.pc, th.stack)) = some (0x40, []) ∧
    (trapAfter (exec (.call false 1) fullStack)).map Prod.fst = some 0x0A ∧ (trapAfter (exec (.ret false) plain)).map Prod.fst = some 0x0A ∧
    (thAfter (exec (.brp false 7 true 5) plain)).map (fun th => th.pc) = some 0x10004 ∧
    (thAfter (exec (.brx false 12 16) plain)).map (fun th => th.pc) = some 0x0000000D0000004C :=
  ⟨plain_executes, by decide +kernel, plain_a64, plain_b, by decide +kernel, executes (by decide +kernel) (by decide +kernel), by decide +kernel,
    executes (by decide +kernel) (by decide +kernel), by decide +kernel, by decide +kernel, by decide +kernel, by decide +kernel, by decide +kernel, by decide +kernel,
    by decide +kernel⟩

def inBlock : State := withThread (fun th => { th with blk := [true, false] })

theorem witness_PredicateBlocks : Executes plain (ctx plain) ∧ (ctx plain).th.blk = [] ∧ issues inBlock = true ∧ (ctx inBlock).th.blk ≠ [] ∧
    (thAfter (exec (.pblk 7 2 5) plain)).map (fun th => th.blk) = some [true, false, true] ∧
    (thAfter (exec (.pblk 0 0 0) plain)).map (fun th => th.blk) = some [true] ∧ (trapAfter (exec (.br false 1) inBlock)).map Prod.fst = some 0x01 ∧
    (thAfter (exec (.add false 8 12 16) (withThread (fun th => { th with blk := [false, true] })))).map (fun th => (th.pc, th.blk, th.regs[8]?)) =
      some (0x10004, [true], some 8) :=
  ⟨plain_executes, by decide +kernel, by decide +kernel, by decide +kernel, by decide +kernel, by decide +kernel, by decide +kernel, by decide +kernel⟩

/-! Groups. -/

def gathering : State := rig id id id (fun s => { s with gather := [(t0, 12), ({ gid := 0, lane := 3 }, 12), ({ gid := 0, lane := 4 }, 0), ({ gid := 9, lane := 5 }, 1)] })

theorem witness_GatheredMinorsVote : Executes gathering (ctx gathering) ∧ dest (ctx gathering) 1 8 = .ok (.vec 8 1) ∧ Reads (ctx gathering) 12 12 ∧
    (let sent := fun (i : Instr) => (thAfter (exec i gathering)).map (fun th => th.infl.map (fun p => p.st))
     [sent (.vany false 8 12), sent (.vall false 8 12), sent (.ballot false 8 12), sent (.gmatch false 8 12), sent (.active false 8)] =
     [some [.ready [some 1]], some [.ready [some 0]], some [.ready [some 0x09]], some [.ready [some 0x09]], some [.ready [some 0x19]]]) :=
  ⟨executes (by decide +kernel) (by decide +kernel), okOf (by decide +kernel), okOf (by decide +kernel), by decide +kernel⟩

theorem witness_RendezvousArrive : Executes plain (ctx plain) ∧ dest (ctx plain) 1 8 = .ok (.vec 8 1) ∧ dest (ctx plain) 1 80 = .ok (.uni 0 1) ∧ Reads (ctx plain) 12 12 ∧
    Reads (ctx plain) 16 16 ∧ (thAfter (exec (.gradd false 8 12) plain)).map (fun th => th.infl.map (fun p => p.st)) = some [.ready [some 12]] ∧
    trapAfter (exec (.elect false 80) plain) = some (2, 0x10000) :=
  ⟨plain_executes, okOf (by decide +kernel), okOf (by decide +kernel), plain_a, plain_b, by decide +kernel, by decide +kernel⟩

/-- Two participants, lanes 1 and 31. -/
def part (lane minor : Nat) (u : Bool) (a b : Word) (id : Nat) : Part :=
  { lane := lane, minor := minor, u := u, a := a, b := b, p := { id := id, pc := 0, dst := .none, op := .result, addr := 0, loc := none, st := .sent } }

theorem witness_RendezvousResults : (part 1 3 false 5 31 7).lane < 32 ∧ part 1 3 false 5 31 7 ∈ [part 1 3 false 5 31 7, part 31 3 false 0xFFFFFFFF 1 6] ∧
    [3, 4, 5, 6, 7, 9, 10, 12].map (fun m => rendezResult [part 1 m false 5 31 7, part 31 m false 0xFFFFFFFF 1 6] (part 1 m false 5 31 7)) =
      [0xFFFFFFFF, 5, 5, 5, 4, 0xFFFFFFFF, 5, 0] ∧
    rendezResult [part 1 5 false 5 30 7, part 31 5 false 9 1 6] (part 1 5 false 5 30 7) = 9 ∧
    rendezResult [part 1 9 true 5 0 7, part 31 9 true 0xFFFFFFFF 1 6] (part 1 9 true 5 0 7) = 5 :=
  ⟨by decide, .head _, by decide +kernel, by decide +kernel, by decide +kernel⟩

/-! Memory. -/

theorem test_addresses : (let s := withRegs [(12, 0x10000), (13, 0), (16, 0xFFFFFFF8)]
    ([exec (.ld false 8 12 4 0xFF) s, exec (.ldx false 4 8 12 16) s].map (fun o => (thAfter o).map (fun th => th.infl.map (fun p => p.addr)))) =
      [some [0xFFFC], some [0xFFF8]]) := by decide +kernel

def pointers : State := withRegs [(12, 0x20000), (13, 0), (16, 0)]

theorem witness_LoadsAndStoresIssue : Executes pointers (ctx pointers) ∧ Reads64 (ctx pointers) 12 0x20000 ∧ Reads (ctx pointers) 16 0 ∧
    dest (ctx pointers) 1 8 = .ok (.vec 8 1) ∧ uniRule (ctx pointers) (.vec 8 1) [12] false = .ok () ∧ uniRule (ctx pointers) (.vec 8 1) [12, 16] false = .ok () ∧
    accessCheck pointers (ctx pointers) 0x20004 4 1 = none ∧ accessCheck pointers (ctx pointers) 0x20000 4 2 = none ∧
    src (ctx pointers) 1 8 = .ok [8] ∧ (ctx pointers).g.task = none ∧
    (let tile := withRegs [(12, 0x80000000), (13, 0x50000000), (16, 0)]
     Executes tile (ctx tile) ∧ addrTag 0x5000000080000000 = 5 ∧ accessCheck tile (ctx tile) 0x5000000080000000 4 1 = none) ∧
    (let odd := withRegs [(12, 0x20002), (13, 0)]
     Executes odd (ctx odd) ∧ (accessCheck odd (ctx odd) 0x20002 4 1).map (fun r => r.cause) = some 0x04) :=
  ⟨executes (by decide +kernel) (by decide +kernel), okOf (by decide +kernel), okOf (by decide +kernel), okOf (by decide +kernel), okOf (by decide +kernel),
    okOf (by decide +kernel), by decide +kernel, by decide +kernel, okOf (by decide +kernel), by decide +kernel,
    ⟨executes (by decide +kernel) (by decide +kernel), by decide +kernel, by decide +kernel⟩, executes (by decide +kernel) (by decide +kernel), by decide +kernel⟩

/-- Each check on its own: a reserved tag, tag 0x4 without and with capability bit 9, alignment, the end of a slice, a host range. -/
theorem witness_AccessChecksAtIssue : (0 : Nat) < 4 ∧
    (let check := fun (s : State) (a : DWord) => (accessCheck s (ctx s) a 4 1).map (fun r => (r.cause, r.detail))
     [check plain 0x3000000000000000, check noCaps 0x4000000000000000, check plain 0x20002, check plain 0x4000000000000002, check plain 0x4004000000000000,
      check plain 0x1000000000000FFC, check plain 0x1000000000001000, check plain 0x2000000000000000, check plain 0x20000] =
     [some (0x05, 0), some (0x02, 0), some (0x04, 0), some (0x04, 0), some (0x2A, 0), none, some (0x08, 0), some (0x07, 5), none]) ∧
    tagOk 0x4004000000000000 = true ∧ addrTag 0x4004000000000000 = 4 ∧ reachable plain (addrPkg 0x4004000000000000) = false := by decide +kernel

theorem witness_AtomicsSendAndCompute : Executes pointers (ctx pointers) ∧ dest (ctx pointers) 1 8 = .ok (.vec 8 1) ∧ Reads64 (ctx pointers) 12 0x20000 ∧
    Reads (ctx pointers) 16 0 ∧ versionCheck (ctx pointers) 3 false = .ok () ∧ addrTag 0x20000 = 0 ∧ accessCheck pointers (ctx pointers) 0x20000 4 3 = none ∧
    dest (ctx pointers) 2 8 = .ok (.vec 8 2) ∧ src (ctx pointers) 2 16 = .ok [0, 17] ∧ src (ctx pointers) 4 16 = .ok [0, 17, 18, 19] ∧
    accessCheck pointers (ctx pointers) 0x20000 8 3 = none ∧ atomicNew 10 5 [5] = some 0 ∧ atomicNew 2 5 [5, 9] = some 9 ∧ atomicNew 2 5 [6, 9] = none :=
  ⟨executes (by decide +kernel) (by decide +kernel), okOf (by decide +kernel), okOf (by decide +kernel), okOf (by decide +kernel), okOf (by decide +kernel), by decide +kernel,
    by decide +kernel, okOf (by decide +kernel), okOf (by decide +kernel), okOf (by decide +kernel), by decide +kernel, by decide +kernel, by decide +kernel, by decide +kernel⟩

def scratchPointer : State := withRegs [(12, 0x40), (13, 0x10000000), (16, 0)]

theorem witness_CounterWords : Executes pointers (ctx pointers) ∧ Reads64 (ctx pointers) 12 0x20000 ∧ Reads (ctx pointers) 16 0 ∧ dest (ctx pointers) 1 8 = .ok (.vec 8 1) ∧
    (ctx pointers).g.task = none ∧ accessCheck pointers (ctx pointers) 0x20000 4 3 = none ∧ addrTag 0x20000 = 0 ∧
    Executes scratchPointer (ctx scratchPointer) ∧ Reads64 (ctx scratchPointer) 12 0x1000000000000040 ∧
    accessCheck scratchPointer (ctx scratchPointer) 0x1000000000000040 4 3 = none ∧ addrTag 0x1000000000000040 ≠ 0 ∧
    trapAfter (exec (.tcwait false 12 16) scratchPointer) = some (2, 0x10000) :=
  ⟨executes (by decide +kernel) (by decide +kernel), okOf (by decide +kernel), okOf (by decide +kernel), okOf (by decide +kernel), by decide +kernel, by decide +kernel,
    by decide +kernel, executes (by decide +kernel) (by decide +kernel), okOf (by decide +kernel), by decide +kernel, by decide +kernel, by decide +kernel⟩

/-- The last line of a slice takes LEMPTY of one line and not of two. -/
theorem witness_FencesAndCacheWords : Executes pointers (ctx pointers) ∧ Reads64 (ctx pointers) 12 0x20000 ∧ tagOk 0x20000 = true ∧ addrTag 0x20000 = 0 ∧
    Executes scratchPointer (ctx scratchPointer) ∧ Reads64 (ctx scratchPointer) 12 0x1000000000000040 ∧ tagOk 0x1000000000000040 = true ∧ addrTag 0x1000000000000040 = 1 ∧
    localOff 0x1000000000000FC0 / 128 * 128 + 128 * 1 ≤ localLen (ctx plain).l (ctx plain).g 0x1000000000000FC0 ∧
    ¬ (localOff 0x1000000000000FC0 / 128 * 128 + 128 * 2 ≤ localLen (ctx plain).l (ctx plain).g 0x1000000000000FC0) ∧
    (let s := withRegs [(12, 0xFC0), (13, 0x10000000)]
     (thAfter (exec (.lempty false 12 0) s)).map (fun th => th.infl.map (fun p => p.addr)) = some [0x1000000000000FC0] ∧
     (trapAfter (exec (.lempty false 12 1) s)).map Prod.fst = some 0x08) :=
  ⟨executes (by decide +kernel) (by decide +kernel), okOf (by decide +kernel), by decide +kernel, by decide +kernel, executes (by decide +kernel) (by decide +kernel),
    okOf (by decide +kernel), by decide +kernel, by decide +kernel, by decide +kernel, by decide +kernel, by decide +kernel⟩
/-! The words of the units. -/

def copying : State := withRegs [(8, 0), (9, 0), (10, 0), (11, 0), (12, 0x20000), (13, 0), (14, 0x30000), (15, 0), (16, 0), (17, 16), (18, 0), (19, 0)]
def withUni (vs : List (Nat × Word)) : State :=
  rig id (fun g => { g with uni := vs.foldl (fun r v => r.set v.1 v.2) g.uni, uniRd := vs.foldl (fun r v => r.set v.1 v.2) g.uniRd }) id id
def layoutWords : State := withUni [(4, 1), (5, 1)]

/-- A copy of 16 bytes, the least, passes; of 8 bytes it does not. -/
theorem witness_CopyWords : Executes copying (ctx copying) ∧ src (ctx copying) 4 8 = .ok [0, 0, 0, 0] ∧ src (ctx copying) 4 12 = .ok [0x20000, 0, 0x30000, 0] ∧
    src (ctx copying) 4 16 = .ok [0, 16, 0, 0] ∧
    (let k := command copying (ctx copying) 0 [0, 0, 0, 0] [0x20000, 0, 0x30000, 0] [0, 16, 0, 0]
     k.ctl = 0 ∧ (ctx copying).g.task = none ∧ tagOk k.src = true ∧ tagOk k.dst = true ∧ addrTag k.src = 0 ∧ addrTag k.dst = 0 ∧ k.src.toNat % 16 = 0 ∧ k.dst.toNat % 16 = 0 ∧
     16 ≤ k.len ∧ k.len ≤ 2 ^ 24 ∧ k.len % 16 = 0 ∧ k.src.toNat % 2 ^ 48 + k.len ≤ 2 ^ 48 ∧ k.dst.toNat % 2 ^ 48 + k.len ≤ 2 ^ 48) ∧
    copyCheck copying (ctx copying) (command copying (ctx copying) 0 [0, 0, 0, 0] [0x20000, 0, 0x30000, 0] [0, 16, 0, 0]) = .ok () ∧
    (errorIn (copyCheck copying (ctx copying) (command copying (ctx copying) 0 [0, 0, 0, 0] [0x20000, 0, 0x30000, 0] [0, 8, 0, 0]))).map (fun r => r.cause) = some 2 ∧
    copyCheck copying (ctx copying) (command copying (ctx copying) 3 [0, 0, 0, 0] [0x20000, 0, 0x30000, 0] [0, 16, 0, 0]) = .ok () ∧
    copyCheck copying (ctx copying) (command copying (ctx copying) 1 [0, 0, 0, 0] [0x20000, 0, 0x30000, 0] [0x0, 16, 0, 0]) = .ok () ∧
    copyCheck copying (ctx copying) (command copying (ctx copying) 2 [0, 0, 0, 0] [0x20000, 0, 0, 0x10000000] [0x10000, 16, 0, 0]) = .ok () ∧
    Executes layoutWords (ctx layoutWords) ∧ src (ctx layoutWords) 4 84 = .ok [1, 1, 0, 0] ∧ src (ctx layoutWords) 4 88 = .ok [0, 0, 0, 0] ∧ uniSource 84 = true ∧
    uniSource 88 = true ∧ layoutOk [1, 1, 0, 0, 0, 0, 0, 0] = true ∧ layoutOk [0, 1, 0, 0, 0, 0, 0, 0] = false ∧
    Executes pointers (ctx pointers) ∧ Reads64 (ctx pointers) 12 0x20000 ∧ (ctx pointers).l.has 12 = true ∧ accessCheck pointers (ctx pointers) 0x20000 1 5 = none ∧
    dest (ctx pointers) 1 8 = .ok (.vec 8 1) ∧ Reads (ctx pointers) 16 0 :=
  ⟨executes (by decide +kernel) (by decide +kernel), okOf (by decide +kernel), okOf (by decide +kernel), okOf (by decide +kernel), by decide +kernel, okOf (by decide +kernel),
    by decide +kernel, okOf (by decide +kernel), okOf (by decide +kernel), okOf (by decide +kernel), executes (by decide +kernel) (by decide +kernel), okOf (by decide +kernel),
    okOf (by decide +kernel), by decide +kernel, by decide +kernel, by decide +kernel, by decide +kernel, executes (by decide +kernel) (by decide +kernel), okOf (by decide +kernel),
    by decide +kernel, by decide +kernel, okOf (by decide +kernel), okOf (by decide +kernel)⟩

/-- A launch with a partition of one tile of class 1, and none else; TALLOC of 1 and of 65,535 reads. -/
def tiling (n p : Word) : State := rig id id (fun l => { l with hdr := { l.hdr with parts := (List.replicate 8 (0, 0)).set 7 (1, 1) } })
  (fun s => s.modThread t0 (fun th => { th with regs := ((th.regs.set 12 p).set 16 n).set 13 0x50000000 }))

theorem witness_TileWords : Executes (tiling 1 7) (ctx (tiling 1 7)) ∧ (ctx (tiling 1 7)).l.has 4 = true ∧ dest (ctx (tiling 1 7)) 2 8 = .ok (.vec 8 2) ∧
    Reads (ctx (tiling 1 7)) 12 7 ∧ Reads (ctx (tiling 1 7)) 16 1 ∧ Reads (ctx (tiling 65535 7)) 16 65535 ∧ partClass (ctx (tiling 1 7)).l 7 ≠ 0 ∧ partClass (ctx (tiling 1 7)).l 0 = 0 ∧
    (let s := tiling 1 0x80000007
     Executes s (ctx s) ∧ Reads64 (ctx s) 12 0x5000000080000007 ∧ addrTag 0x5000000080000007 = 5 ∧ tagOk 0x5000000080000007 = true ∧
     accessCheck s (ctx s) 0x5000000080000007 1 0 = none ∧ Writes (ctx s) 2 8 (.vec 8 2) [12, 16] false ∧ dest (ctx s) 1 8 = .ok (.vec 8 1)) ∧
    [tiling 0 7, tiling 1 7, tiling 65535 7, tiling 65536 7, tiling 1 6, tiling 1 8].map (fun s => (thAfter (exec (.talloc false 8 12 16) s)).map (fun th => th.trapCause)) =
      [some 2, some 0, some 0, some 2, some 0x13, some 2] ∧
    regAfter (exec (.taddr false 8 12 16) (tiling 0x12345 0x80000007)) 8 = some 0x07002345 :=
  ⟨executes (by decide +kernel) (by decide +kernel), by decide +kernel, okOf (by decide +kernel), okOf (by decide +kernel), okOf (by decide +kernel), okOf (by decide +kernel),
    by decide +kernel, by decide +kernel,
    ⟨executes (by decide +kernel) (by decide +kernel), okOf (by decide +kernel), by decide +kernel, by decide +kernel, by decide +kernel,
      ⟨okOf (by decide +kernel), okOf (by decide +kernel)⟩, okOf (by decide +kernel)⟩, by decide +kernel, by decide +kernel⟩

/-- A group that holds the baton of its core, with two operand blocks in its slice. -/
def baton (s : State) : State := s.putEngine { Engine.fresh 0 with launch := some { die := 0, id := 1 }, holder := some 0, epoch := 1 }
def multiplying : State := baton (withUni [(4, 0), (5, 0x10000000), (6, 1), (7, 0), (8, 0), (9, 0x10000000), (10, 1), (11, 0)])
def xferring : State := baton (withUni [(4, 0x20000), (8, 16)])
def block : List Word := [0, 0x10000000, 1, 0]
def scaledBlock : List Word := [0, 0x10000000, 1, 0x40000400]

theorem witness_MatrixWords : Executes multiplying (ctx multiplying) ∧ Reads (ctx multiplying) 80 0 ∧ src (ctx multiplying) 4 84 = .ok block ∧ src (ctx multiplying) 4 88 = .ok block ∧
    [80, 84, 88].all uniName = true ∧ (ctx multiplying).l.has 2 = true ∧ (ctx multiplying).l.has 3 = true ∧ (ctx multiplying).g.task = none ∧
    holds multiplying (ctx multiplying).g = true ∧
    [0, 2, 4, 5, 6].all (fun m => (matrixCheck (ctx multiplying) (operation (ctx multiplying) m 0 block block)).toOption.isSome) = true ∧
    [1, 3].all (fun m => (matrixCheck (ctx multiplying) (operation (ctx multiplying) m 0 scaledBlock scaledBlock)).toOption.isSome) = true ∧
    Executes xferring (ctx xferring) ∧ src (ctx xferring) 2 84 = .ok [0x20000, 0] ∧ src (ctx xferring) 1 88 = .ok [16] ∧
    [7, 8].all (fun m => (matrixCheck (ctx xferring) (operation (ctx xferring) m 0 [0x20000, 0] [16])).toOption.isSome) = true ∧
    holds plain (ctx plain).g = false ∧ (trapAfter (exec (.mmah false 80 84 88) (withUni [(5, 0x10000000), (6, 1), (9, 0x10000000), (10, 1)]))).map Prod.fst = some 0x1B ∧
    Writes (ctx plain) 1 8 (.vec 8 1) [12] false ∧ Reads (ctx plain) 12 12 ∧ Executes noCaps (ctx noCaps) ∧ (ctx noCaps).l.has 2 = false :=
  ⟨executes (by decide +kernel) (by decide +kernel), okOf (by decide +kernel), okOf (by decide +kernel), okOf (by decide +kernel), by decide +kernel, by decide +kernel, by decide +kernel,
    by decide +kernel, by decide +kernel, by decide +kernel, by decide +kernel, executes (by decide +kernel) (by decide +kernel), okOf (by decide +kernel), okOf (by decide +kernel),
    by decide +kernel, by decide +kernel, by decide +kernel, plain_writes1, plain_a, noCaps_executes, by decide +kernel⟩
/-- Two groups of one team on core 0: the second has index 5. -/
def pair (holder : Option Nat) (fifo : List Nat) : State :=
  let z := rig id id id (fun s => { s with groups := s.groups ++ s.groups.map (fun g => { g with gid := 7, idx := 5 }) })
  z.putEngine { Engine.fresh 0 with launch := some { die := 0, id := 1 }, holder := holder, fifo := fifo, epoch := 4 }

def engineAfter (i : Instr) (s : State) : Option (Option Nat × List Nat × Word) :=
  (after (exec i s)).map (fun t => ((t.engine 0).holder, (t.engine 0).fifo, (t.engine 0).epoch))

/-- Every clause of MACQ, MREL, MPASS and MWHO: the holder, another's baton, a free baton with and without others waiting. -/
theorem witness_BatonWords : Executes (pair (some 0) []) (ctx (pair (some 0) [])) ∧ Executes (pair (some 7) []) (ctx (pair (some 7) [])) ∧
    Executes (pair none [7]) (ctx (pair none [7])) ∧ (ctx (pair none [7])).l.has 2 = true ∧ dest (ctx (pair none [7])) 1 8 = .ok (.vec 8 1) ∧
    Reads (ctx (rig id id id (fun _ => (pair (some 0) []).modThread t0 (fun th => { th with regs := th.regs.set 12 5 })))) 12 5 ∧
    (ctx (pair none [])).g.acted = 0 ∧ (pair none []).groups.all (fun g => decide (g.idx < 512)) = true ∧
    ((pair (some 0) []).groups.find? (fun g => g.launch == (ctx plain).g.launch && g.team == 0 && g.idx == 5)).map (fun g => (g.resident, g.retired, g.core, g.gid)) =
      some (true, false, 0, 7) ∧
    [engineAfter (.macq false 8) (pair (some 7) []), engineAfter (.macq false 8) (pair none [7]), engineAfter (.macq false 8) (pair none []),
     engineAfter (.mrel false) (pair (some 0) [7]), engineAfter (.mrel false) (pair (some 0) []),
     engineAfter (.mpass false 12) ((pair (some 0) []).modThread t0 (fun th => { th with regs := th.regs.set 12 5 }))] =
    [some (some 7, [0], 4), some (some 7, [0], 5), some (some 0, [], 5), some (some 7, [], 5), some (none, [], 4), some (some 7, [], 5)] ∧
    (trapAfter (exec (.mrel false) (pair (some 7) []))).map Prod.fst = some 0x1B ∧ regAfter (exec (.mwho false 8) (pair (some 7) [])) 8 = some 0x80000005 ∧
    regAfter (exec (.mwho false 8) (pair none [])) 8 = some 0xFFFF :=
  ⟨executes (by decide +kernel) (by decide +kernel), executes (by decide +kernel) (by decide +kernel), executes (by decide +kernel) (by decide +kernel), by decide +kernel,
    okOf (by decide +kernel), okOf (by decide +kernel), by decide +kernel, by decide +kernel, by decide +kernel, by decide +kernel, by decide +kernel, by decide +kernel,
    by decide +kernel⟩

def aTask : Task := { bytes := List.replicate 64 0, queue := 3, versioned := true, writes := [], reads := [], doomed := false, since := 0, held := [] }
/-- A group that runs a versioned task whose record it holds at the head of its queue. -/
def versioned : State := rig id (fun g => { g with task := some aTask }) id
  (fun s => { s with recs := [{ launch := { die := 0, id := 1 }, queue := 3, bytes := List.replicate 64 0, held := some 0 },
                              { launch := { die := 0, id := 1 }, queue := 3, bytes := List.replicate 64 1, held := none }] })
def speculative : State := rig id id (fun l => { l with hdr := { l.hdr with speculate := true } }) id
def restarting : State := withThread (fun th => { th with redo := true })
def postPointer : State := withRegs [(12, 0x20000), (13, 0)]

theorem witness_TaskWords : Executes plain (ctx plain) ∧ (ctx plain).l.has 5 = true ∧ Reads (ctx plain) 84 0 ∧ dest (ctx plain) 16 80 = .ok (.uni 0 16) ∧
    (80#7).toNat ∈ [80, 88, 96, 104] ∧ (80#7) ≤ 84 ∧ Executes speculative (ctx speculative) ∧ ((ctx speculative).l.has 8 = true ∧ (ctx speculative).l.hdr.speculate = true) ∧
    ¬ ((ctx plain).l.has 8 = true ∧ (ctx plain).l.hdr.speculate = true) ∧ Executes postPointer (ctx postPointer) ∧ Reads64 (ctx postPointer) 12 0x20000 ∧
    addrTag 0x20000 = 0 ∧ accessCheck postPointer (ctx postPointer) 0x20000 64 1 = none ∧ accessCheck postPointer (ctx postPointer) 0x20000 16 3 = none ∧
    Executes versioned (ctx versioned) ∧ inVersion versioned t0 = true ∧ (ctx versioned).th.redo = false ∧ Executes restarting (ctx restarting) ∧ (ctx restarting).th.redo = true ∧
    inVersion plain t0 = false ∧ versioned.group? 0 = some (ctx versioned).g ∧ versioned.ofThread t0 = some ((ctx versioned).l, (ctx versioned).g) ∧
    (ctx versioned).g.task = some aTask ∧ aTask.versioned = true ∧
    (after (exec (.tkabort false) versioned)).map (fun s => s.recs.map (fun r => (r.bytes.getD 0 9, r.held))) = some [(1, none), (0, none)] ∧
    trapAfter (exec (.tknext false 112 84) plain) = some (2, 0x10000) ∧ trapAfter (exec (.tknext false 80 120) plain) = some (2, 0x10000) ∧
    trapAfter (exec (.tknext false 104 119) plain) = some (0, 0x10004) :=
  ⟨plain_executes, by decide +kernel, okOf (by decide +kernel), okOf (by decide +kernel), by decide, by decide, executes (by decide +kernel) (by decide +kernel), by decide +kernel,
    by decide +kernel, executes (by decide +kernel) (by decide +kernel), okOf (by decide +kernel), by decide +kernel, by decide +kernel, by decide +kernel,
    executes (by decide +kernel) (by decide +kernel), by decide +kernel, by decide +kernel, executes (by decide +kernel) (by decide +kernel), by decide +kernel, by decide +kernel,
    by decide +kernel, by decide +kernel, by decide +kernel, by decide +kernel, by decide +kernel, by decide +kernel, by decide +kernel, by decide +kernel⟩

def launching (prio : Word) : State := withRegs [(12, 0x20000), (13, 0), (16, 0x30000), (17, 0), (18, 1), (19, prio)]

/-- The role of a group after two arrivals; levels 5 and 6, a divisor of 0; a priority word of 15 and of 16. -/
theorem witness_LaunchWords : Executes (launching 15) (ctx (launching 15)) ∧ dest (ctx (launching 15)) 1 8 = .ok (.vec 8 1) ∧ Reads64 (ctx (launching 15)) 12 0x20000 ∧
    src (ctx (launching 15)) 4 16 = .ok [0x30000, 0, 1, 15] ∧ (ctx (launching 15)).l.has 6 = true ∧ (ctx (launching 15)).g.task = none ∧ addrTag 0x20000 = 0 ∧
    accessCheck (launching 15) (ctx (launching 15)) 0x20000 1 1 = none ∧ Reads (ctx plain) 12 12 ∧ Executes noCaps (ctx noCaps) ∧ (ctx noCaps).l.has 6 = false ∧
    [launching 15, launching 16].map (fun s => (thAfter (exec (.launch false 8 12 16) s)).map (fun th => (th.wait.isSome, th.trapCause))) = [some (true, 0), some (false, 2)] ∧
    regAfter (exec (.role false 8 12 5) (withThread (fun th => { th with arrivals := [0, 0, 0, 0, 0, 14] }))) 8 = some 2 ∧
    trapAfter (exec (.role false 8 12 6) plain) = some (2, 0x10000) ∧ trapAfter (exec (.role false 8 0 0) plain) = some (2, 0x10000) :=
  ⟨executes (by decide +kernel) (by decide +kernel), okOf (by decide +kernel), okOf (by decide +kernel), okOf (by decide +kernel), by decide +kernel, by decide +kernel,
    by decide +kernel, by decide +kernel, plain_a, noCaps_executes, by decide +kernel, by decide +kernel, by decide +kernel, by decide +kernel, by decide +kernel⟩

/-- Two queries of the thread: one in slot 1 with sequence 3, and another. -/
def aPage (st : Nat) : QPage := { ptr := 0x20000, n := 1, frame := 0, die := 0, bau := 0, st := st, code := 0, triple := [], cxl := false, cells := [], bad := [] }
def aQuery (id slot seq : Nat) (pages : List QPage) : Query :=
  { id := id, t := t0, slot := slot, seq := seq, core := 0, launch := { die := 0, id := 1 }, asid := 1, desc := List.replicate 64 0, qv := [], pages := pages }
def querying : State := rig id id id (fun s => { (s.modThread t0 (fun th => { th with regs := th.regs.set 12 13 })) with
  queries := [aQuery 1 1 3 [aPage 1, aPage 2], aQuery 2 2 3 [aPage 0]] })

theorem witness_QueryAndCollectiveWords : Executes postPointer (ctx postPointer) ∧ dest (ctx postPointer) 1 8 = .ok (.vec 8 1) ∧ (ctx postPointer).g.task = none ∧
    Reads64 (ctx postPointer) 12 0x20000 ∧ addrTag 0x20000 = 0 ∧ accessCheck postPointer (ctx postPointer) 0x20000 64 1 = none ∧ (ctx postPointer).l.has 7 = true ∧
    (ctx postPointer).l.has 10 = true ∧ Executes querying (ctx querying) ∧ Reads (ctx querying) 12 13 ∧
    (after (exec (.aqcancel false 12) querying)).map (fun s => s.queries.map (fun q => q.pages.map (fun p => p.cxl))) = some [[true, false], [false]] ∧
    (thAfter (exec (.clroute false 12 5 15) postPointer)).map (fun th => th.wait.isSome) = some true ∧ trapAfter (exec (.clroute false 12 6 15) postPointer) = some (2, 0x10000) :=
  ⟨executes (by decide +kernel) (by decide +kernel), okOf (by decide +kernel), by decide +kernel, okOf (by decide +kernel), by decide +kernel, by decide +kernel, by decide +kernel,
    by decide +kernel, executes (by decide +kernel) (by decide +kernel), okOf (by decide +kernel), by decide +kernel, by decide +kernel, by decide +kernel⟩

/-- A calendar of two slots among three packages: port 0 is alone with package 1 in slot 1. -/
def aCal : Cal :=
  { gen := 1, start := 0, s := 2, slotLen := 4000, guard := 96, flight := 0, npkg := 3, ref := 1, plans := [0], entries :=
      (List.replicate 64 { v := false, bcast := false, peer := 0, plan := 0 }) ++ { v := true, bcast := false, peer := 1, plan := 0 } ::
      List.replicate 63 { v := false, bcast := false, peer := 0, plan := 0 }, bcasts := [] }
def rotating : State := rig id id id (fun s => { s with net := { s.net with cal := some aCal, synced := true, ports := s.net.ports.set 0 { Port.reset with st := .active } } })

theorem witness_NetWords : Executes rotating (ctx rotating) ∧ dest (ctx rotating) 1 8 = .ok (.vec 8 1) ∧ Reads (ctx rotating) 12 12 ∧ calSlots rotating ≤ 64 ∧
    dest (ctx plain) 1 80 = .ok (.uni 0 1) ∧ regAfter (exec (.npath false 8 12) (rotating.modThread t0 (fun th => { th with regs := th.regs.set 12 1 }))) 8 = some 0x80010001 ∧
    regAfter (exec (.npath false 8 12) (rotating.modThread t0 (fun th => { th with regs := th.regs.set 12 2 }))) 8 = some 0x7F ∧
    trapAfter (exec (.ndrain false 80) plain) = some (2, 0x10000) :=
  ⟨executes (by decide +kernel) (by decide +kernel), okOf (by decide +kernel), okOf (by decide +kernel), by decide +kernel, okOf (by decide +kernel), by decide +kernel,
    by decide +kernel, by decide +kernel⟩
/-! What happens to threads. -/

def pend (id : Nat) (dst : Dst) (op : POp) (addr : DWord) (loc : Option Loc) (st : PSt) : Pend :=
  { id := id, pc := 0x10000, dst := dst, op := op, addr := addr, loc := loc, st := st }
def holding (ps : List Pend) : State := rig (fun th => { th with infl := ps }) id id (fun s => { s with nextId := 100, cur := none })

def resultIn : Pend := pend 5 (.vec 8 1) .result 0 none (.ready [some 77])
def loadIn (z : Nat) : Pend := pend 5 (.vec 8 1) (.load z false false) 0x20000000 (some (.phys 0 0x20000000 1)) .sent

/-- The leaf entry 0x800F of the loaded page table, read by each size code at its address or at the byte after it. -/
theorem witness_ResultsReachTheirRegisters : (holding [resultIn]).ofThread t0 = some ((ctx (holding [resultIn])).l, (ctx (holding [resultIn])).g) ∧
    (holding [resultIn]).thread? t0 = some (ctx (holding [resultIn])).th ∧ (holding [resultIn]).pend? t0 5 = some resultIn ∧ resultIn.dst = .vec 8 1 ∧
    resultIn.op.delivers = true ∧ resultIn.st = .ready [some 77] ∧
    (∀ z ∈ [0, 1, 2, 3, 4], let s := holding [loadIn z]
      s.pend? t0 5 = some (loadIn z) ∧ (ctx s).g.resident = true ∧ (ctx s).g.task = none ∧ orderOk s (ctx s).l (ctx s).g (ctx s).th (loadIn z) = true ∧
      heldAhead s (ctx s).g (loadIn z) (hbmKey 0 0x20000000) = false ∧ poisoned s (hbmKey 0 0x20000000) (sizeBytes z) = false) ∧
    regAfter (exec (.resultDelivery t0 5 none) (holding [resultIn])) 8 = some 77 ∧
    [0, 1, 2, 3, 4].map (fun z => regAfter (exec (.resultDelivery t0 5 none) (holding [loadIn z])) 8) =
      [some 0x0F, some 0x0F, some 0x800F, some 0xFFFF800F, some 0x800F] := by decide +kernel

def storeIn : Pend := pend 5 .none (.store [0xAA, 0xBB] false) 0x30000 (some (.phys 0 0x30000 1)) .sent
def atomicIn : Pend := pend 5 (.vec 8 1) (.atomic 0 [0x10] true false) 0x20000000 (some (.phys 0 0x20000000 1)) .sent
def buffered : Pend := pend 5 .none (.store [0xAA, 0xBB] false) 0x0001000000030000 (some (.phys 1 0x30000 1)) .held

theorem witness_WritesArePerformed : Memory.wf (holding [storeIn]).mem = true ∧ (holding [storeIn]).pend? t0 5 = some storeIn ∧
    orderOk (holding [storeIn]) (ctx (holding [storeIn])).l (ctx (holding [storeIn])).g (ctx (holding [storeIn])).th storeIn = true ∧
    (holding [storeIn]).thread? t0 = some (ctx (holding [storeIn])).th ∧ unreported (ctx (holding [storeIn])).th 5 0 = [] ∧
    scoreHeld (holding [storeIn]) t0 1 0 5 0x30000 0x30000 2 = false ∧ (ctx (holding [storeIn])).g.task = none ∧
    (holding [atomicIn]).pend? t0 5 = some atomicIn ∧ orderOk (holding [atomicIn]) (ctx (holding [atomicIn])).l (ctx (holding [atomicIn])).g (ctx (holding [atomicIn])).th atomicIn = true ∧
    poisoned (holding [atomicIn]) 0x20000000 4 = false ∧ scoreHeld (holding [atomicIn]) t0 1 0 5 0x20000000 0x20000000 4 = false ∧
    (after (exec (.writePerformed t0 5) (holding [storeIn]))).map (fun s => [0x2FFFF, 0x30000, 0x30001, 0x30002].map (memByte s.mem)) = some [0, 0xAA, 0xBB, 0] ∧
    (after (exec (.writePerformed t0 5) (holding [atomicIn]))).map (fun s => (readNat s 0x20000000 4, (s.pend? t0 5).map (fun p => p.st))) =
      some (0x801F, some (.ready [some 0x800F])) ∧
    (wcbStores (holding [buffered]) 0 1 (0x0001000000030000 / 128)).length = 1 ∧
    (after (exec (.wcbFlush 0 1 (0x0001000000030000 / 128)) (holding [buffered]))).map (fun s => memByte s.mem (hbmKey 1 0x30001)) = some 0xBB := by decide +kernel

def ending (d : Option Drain) (r : List Refused) : State := rig (fun th => { th with hz := true, drain := d, refused := r }) id id (fun s => { s with cur := none })
def misalignedLoad : Refused := { p := loadIn 4, trap := some { cause := 0x04, pc := 0x10000, addr := 0x20002, detail := 0, kind := 1, at_ := 1, further := 0 } }

theorem witness_HorizonsWait : (let s := ending none []
      s.ofThread t0 = some ((ctx s).l, (ctx s).g) ∧ s.thread? t0 = some (ctx s).th ∧ (ctx s).th.exited = false ∧ (ctx s).th.wait = none ∧ (ctx s).th.parked = false ∧
      (ctx s).g.resident = true ∧ (ctx s).g.task = none ∧ (ctx s).th.redo = false ∧ refuseReleases (ctx s).th = (ctx s).th ∧
      (ctx s).th.infl.any (relHeld (ctx s).th) = false ∧ (ctx s).th.settled (ctx s).l (ctx s).g = true ∧ (ctx s).th.halted = false ∧ (ctx s).th.hz = true ∧ (ctx s).th.refused = []) ∧
    (thAfter (exec (.segmentHorizon t0) (ending none []))).map (fun th => th.hz) = some false ∧
    (thAfter (exec (.segmentHorizon t0) (ending (some .exit) []))).map (fun th => th.exited) = some true ∧
    (thAfter (exec (.segmentHorizon t0) (ending (some (.tret 0)) []))).map (fun th => th.drain) = some none ∧
    (ctx (ending none [misalignedLoad])).th.refused = [misalignedLoad] ∧
    (thAfter (exec (.segmentHorizon t0) (ending none [misalignedLoad, misalignedLoad]))).map (fun th => (th.trapCause, th.trapAddr, th.trapInfo)) =
      some (0x04, 0x20002, 0x00011100) ∧
    (ctx (holding [resultIn])).th.settled (ctx (holding [resultIn])).l (ctx (holding [resultIn])).g = false ∧ early (exec (.segmentHorizon t0) (holding [resultIn])) = true := by decide +kernel

def blocked (k : WaitKind) (arr : Nat) : State :=
  rig (fun th => { th with arrivals := List.replicate 6 arr, wait := some { id := 9, kind := k, pc := 0x10000, blk := [], rest := [] } }) id id (fun s => { s with cur := none })
def idle : State := rig id id id (fun s => { s with cur := none })

theorem witness_ThreadEventsHappen : (let s := blocked (.join 1) 0;
      s.group? 0 = some (ctx s).g ∧ s.thread? t0 = some (ctx s).th ∧ (ctx s).g.resident = true ∧ (ctx s).th.halted = false ∧ (ctx s).th.exited = false) ∧
    (thAfter (exec (.joinTimeout t0) (blocked (.join 1) 0))).map (fun th => th.wait) = some none ∧ (thAfter (exec (.napExpiry t0) (blocked .nap 0))).map (fun th => th.wait) = some none ∧
    (let s := blocked (.phase 0 0) 1;
      s.launch? { die := 0, id := 1 } = some (ctx s).l ∧ setSpans (ctx s).l 0 0 = false ∧ (setMembers s (ctx s).l 0 0).length = 1 ∧ setArrived s (ctx s).l 0 0 0 = true) ∧
    setArrived (blocked (.phase 0 0) 0) (ctx (blocked (.phase 0 0) 0)).l 0 0 0 = false ∧
    (thAfter (exec (.barPhaseComplete { die := 0, id := 1 } 0 0) (blocked (.phase 0 0) 1))).map (fun th => th.wait) = some none ∧
    (let s := idle;
      (ctx s).th.fetched = none ∧ (ctx s).th.hz = false ∧ (ctx s).th.drain = none ∧ tagOk (ctx s).th.pc = true ∧ addrTag (ctx s).th.pc = 0 ∧ (ctx s).th.pc.toNat % 4 = 0 ∧
      (translate s 0 1 0x10000 .fetch).toOption.map (fun x => physOf x.1 x.2 0x10000) = some 0x10000 ∧ poisoned s (hbmKey 0 0x10000) 4 = false ∧ findCopy s.l1 192 1 (0x10000 / 128) = none) ∧
    (thAfter (exec (.instructionFetch t0) idle)).map (fun th => th.fetched) = some (some 0) ∧
    (thAfter (exec (.notAnInstruction 0xFFFFFFFF 1) plain)).map (fun th => (th.trapCause, th.trapInfo)) = some (0x01, 1) := by decide +kernel

def handlerless : State := rig id id (fun l => { l with hdr := { l.hdr with handler := 0 } }) id
def aTrap : TrapRec := { cause := 0x04, pc := 0x10000, addr := 0x20002, detail := 3, kind := 1, at_ := 1, further := 2 }

theorem witness_TrapsEnter : plain.ofThread t0 = some ((ctx plain).l, (ctx plain).g) ∧ plain.thread? t0 = some (ctx plain).th ∧ (ctx plain).l.hdr.handler ≠ 0 ∧
    (ctx plain).th.inHandler = false ∧ inVersion plain t0 = false ∧ (ctx plain).th.redo = false ∧ (ctx plain).th.infl.all (fun p => !p.op.delivers) = true ∧
    ((trapNow plain t0 aTrap [true]).thread? t0).map (fun th => (th.trapInfo, th.ts.blk, th.pc)) = some (0x00021103, [true], 0x10000) ∧
    (ctx handlerless).l.hdr.handler = 0 ∧ handlerless.ofThread t0 = some ((ctx handlerless).l, (ctx handlerless).g) ∧ handlerless.thread? t0 = some (ctx handlerless).th ∧
    (ctx inHandler).th.inHandler = true := by decide +kernel

def leaving (h : Bool) : State :=
  withThread (fun th => { th with pc := 0x50000, inHandler := true, ts := { blk := [true, false], resume := 0x20000, horizon := h, toTask := false, refused := [], hz := false, upto := 0 } })

theorem witness_TrapsReturn : (ctx (leaving false)).th.ts.toTask = false ∧ (ctx (leaving false)).th.ts.refused = [] ∧ (leaving false).thread? t0 = some (ctx (leaving false)).th ∧
    [(false, 0), (false, 1), (true, 0), (true, 1)].map (fun x => ((leaveTrap (leaving x.1) t0 x.2).thread? t0).map (fun th => (th.pc, th.blk))) =
      [some (0x20000, [true, false]), some (0x20004, [false]), some (0x20000, [true, false]), some (0x20000, [true, false])] := by decide +kernel
/-! The whole machine: encoding, steps, the invariant. -/

theorem witness_DecodeEncodeAgree : (Instr.icmpLt false 2 2 4 5).wf = true ∧ encode (.icmpLt false 2 2 4 5) = some 0x06508205 := by decide +kernel

theorem witness_NoBitIsIgnored : (decodeWord 0x06508205).toOption = some (.icmpLt false 2 2 4 5) := by decide +kernel

/-- The loaded machine about to pick, and about to issue the NOP of the loaded program. -/
def picking : State := { State.reset.loadWord 0 with agenda := [.pick 0] }
def fetching : State := rig (fun th => { th with fetched := some 0 }) id id (fun s => { s with cons := [t0] })

theorem witness_StepRunsDecoded : fetching.cons = t0 :: [] ∧ (fetching.thread? t0).bind (fun th => th.fetched) = some 0 ∧
    (decodeWord 0).toOption = some (.nop false) ∧ errorIn (decodeWord 0xFFFFFFFF) = some { reason := 1 } ∧ picking.cons = [] ∧
    (refreshAge { picking with agenda := [] }).find? (fun u => quadOf { picking with agenda := [] } u == some 0) = some t0 ∧
    (picking.thread? t0).map (fun th => th.fetched) = some none ∧
    (picking.ofThread t0).bind (fun x => (picking.thread? t0).bind (fun th => (fetchWord picking x.1 x.2.core th).toOption)) = some 0 ∧
    (pick { picking with agenda := [] } (some 1)).isNone = true := by decide +kernel

theorem test_step_nop : (after (step (State.reset.withFetchWord 32 0))).bind (fun s => (s.thread? t0).map (fun th => th.pc)) = some 0x10004 := by decide +kernel

theorem witness_WordsGoOn : encode (.nop false) = some 0 ∧
    issues (withThread (fun th => { th with blk := [false] })) = true ∧ (ctx (withThread (fun th => { th with blk := [false] }))).th.blk.head? = some false := by decide +kernel

theorem reset_inv : MachineInv State.reset := by unfold MachineInv Banks; decide +kernel

theorem witness_StepKeepsMachineInv : MachineInv (State.reset.withFetchWord 32 0) ∧ (after (step (State.reset.withFetchWord 32 0))).isSome = true := by unfold MachineInv Banks; decide +kernel

/-- The check value of CRC-32C: that of the nine bytes "123456789". -/
theorem test_crc32c : crc32c [0x31, 0x32, 0x33, 0x34, 0x35, 0x36, 0x37, 0x38, 0x39] = 0xE3069283 := by decide +kernel
/-! What engines, pools and the scheduler do. -/

/-- A launch with one partition of two tiles of the smallest class, and a TALLOC of the thread that waits for it. -/
def pooled (ps : List Pend) : State :=
  rig (fun th => { th with infl := ps, hz := true }) id (fun l => { l with hdr := { l.hdr with parts := (2, 1) :: List.replicate 7 (0, 0) } })
    (fun s => { s with nextId := 100, cur := none })
def tallocIn : Pend := pend 5 (.vec 8 2) (.talloc 0 1 0) 0 none .sent
def tknextIn : Pend := pend 5 (.vec 8 16) (.tknext 1 1) 0 none .sent
def aTile (live spent : Bool) (part : Nat) : Tile :=
  { core := 0, slot := 3, gen := 7, live := live, spent := spent, part := part, cls := 1, count := 1, owner := { die := 0, id := 1 }, team := 0 }
def taken : State := { pooled [tallocIn] with tiles := [aTile true false 0, { aTile true false 0 with slot := 4 }] }
def freeable (spent : Bool) : State := { pooled [] with tiles := [aTile true spent 0] }
def asking : State := rig (fun th => { th with infl := [tknextIn], hz := true, tkRendez := 1 })
  (fun g => { g with threads := g.threads.mapIdx (fun k th => if k = 0 then th else { th with exited := true }) }) id (fun s => { s with nextId := 100, cur := none })
def aRec : QRec := { launch := { die := 0, id := 1 }, queue := 0, bytes := List.replicate 64 9, held := none }

theorem witness_PoolsServeWaitingThreads : (let s := pooled [tallocIn];
      s.ofThread t0 = some ((ctx s).l, (ctx s).g) ∧ s.pend? t0 5 = some tallocIn ∧ (ctx s).g.resident = true ∧ partClass (ctx s).l 0 < 4 ∧ Memory.wf s.mem = true ∧
      (s.tile? 0 0).isNone = true ∧ liveTiles s (ctx s).l.ref 0 0 < partCount (ctx s).l 0 ∧ placeFree s (ctx s).l 0 0 0 = true ∧
      (∀ o ∈ tallocWaiting s (ctx s).l.ref 0 0, 0 ≤ o) ∧ (after (exec (.tallocGrant t0 5 0 0) s)).isSome = true) ∧
    (freeable true).tile? 0 3 = some (aTile true true 0) ∧ tileInUse (freeable true) 0 3 = false ∧
    (after (exec (.tileFree 0 0 3) (freeable true))).map (fun s => (s.tile? 0 3).map (fun x => (x.live, x.gen))) = some (some (false, 8)) ∧
    early (exec (.tileFree 0 0 3) (freeable false)) = true ∧ starved taken (ctx taken).l 0 = true ∧ inTalloc (ctx taken).th = true ∧
    taken.launch? { die := 0, id := 1 } = some (ctx taken).l ∧ starved (freeable true) (ctx (freeable true)).l 0 = false ∧
    (after (exec (.poolStarvation 0 { die := 0, id := 1 }) taken)).bind (fun s => (s.thread? t0).map (fun th => th.refused.map (fun x => x.trap.map (fun y => (y.cause, y.detail))))) =
      some [some (0x12, 0)] ∧
    (inTknext (ctx asking).g).map (fun xs => xs.map (fun x => x.p)) = some [some tknextIn] ∧ asking.ofThread t0 = some ((ctx asking).l, (ctx asking).g) ∧
    pickTask { asking with recs := [aRec] } { die := 0, id := 1 } 1 = some aRec ∧ pickTask asking { die := 0, id := 1 } 1 = none ∧ exhausted asking (ctx asking).l = true ∧
    exhausted { asking with recs := [{ aRec with queue := 1 }] } (ctx asking).l = false := by decide +kernel
/-- An operation of the thread: A and B at the start of the scratchpad slice, K = 1, the accumulator of slot 2. -/
def anOp (minor : Nat) : MOp :=
  { id := 20, gid := 0, t := t0, minor := minor, slotw := 2, a := [0, 0x10000000, 0, 0], b := [0, 0x10000000, 0, 0], nfA := 0xA604, nfB := 0xA604, next := 0, rd := [],
    units := [], hold := none }
def engaged (minor : Nat) (lines : List (Nat × Nat)) : State := rig id id id (fun s => { s with
  cur := none, nextId := 100, lines := lines, engines := [{ Engine.fresh 0 with launch := some { die := 0, id := 1 }, queue := [anOp minor], holder := some 0 }] })
def sliceLine : Nat := scratchKey 0 0 / 128

theorem witness_EnginesGoOn_matrix : (engaged 6 []).ofThread t0 = some ((ctx (engaged 6 [])).l, (ctx (engaged 6 [])).g) ∧ (ctx (engaged 6 [])).g.haltedWhole = false ∧
    (let s := engaged 6 []; let o := anOp 6
      readsError s (ctx s).l (ctx s).g (latch s o (o.idxLines (ctx s).l (ctx s).g)) = false ∧ gatherBeyond s (ctx s).l (ctx s).g (latch s o (o.idxLines (ctx s).l (ctx s).g)) = false ∧
      ((latchQueue s 0).engine 0).queue.map (fun x => (x.minor, x.hold)) = [(6, none)] ∧ (after (exec (.matrixStep 0) s)).map (fun s => (s.engine 0).queue) = some []) ∧
    (let s := engaged 0 [(sliceLine, 2)]; let o := anOp 0
      readsError s (ctx s).l (ctx s).g (latch s o (o.idxLines (ctx s).l (ctx s).g)) = true ∧
      (after (exec (.matrixStep 0) s)).map (fun s => (s.groups.map (fun g => (g.mFail, g.mSlot)), (s.engine 0).queue)) = some ([(1, 2)], [])) := by decide +kernel

theorem witness_EnginesGoOn_step : (let s := engaged 0 []; let s1 := latchQueue s 0
      (s1.engine 0).queue.map (fun o => (linesOf (o.idxKeys (ctx s).l (ctx s).g ++ o.stepKeys s1 (ctx s).l (ctx s).g o.next)).all o.hasRead) = [true]) ∧
    (after (exec (.matrixStep 0) (engaged 0 []))).map (fun s => ((s.engine 0).slot 2).getD 4095 1) = some 0 := by decide +kernel

/-- A copy of one unit within the die, and one that is armed at a counter. -/
def aCopy : CopyCmd :=
  { id := 30, t := t0, launch := { die := 0, id := 1 }, core := 0, asid := 1, key := 0, minor := 0, ctl := 0, len := 16, lay := [], src := 0x20000000, dst := 0x30000, w := 0x40000,
    g := 0, thr := 0, aux := 0, st := .running, srcOk := [], done := [], flight := [], fail := 0, consumed := false, drops := [] }
def copies (c : CopyCmd) (due : Bool) : State := rig id id id (fun s => { s with
  cur := none, nextId := 100, copies := [c], trigs := if c.st = .armed then [{ id := 30, die := 0, key := 0x40000, thr := 0, due := due }] else [] })
def waitsToPublish : State := { blocked (.publ 40 0x5000 false) 0 with nextId := 100 }

theorem witness_EnginesGoOn_copy : (copyCtx (copies aCopy false) aCopy).isSome = true ∧ aCopy.units = 1 ∧
    (copyCtx (copies aCopy false) aCopy).any (fun x => ownWrites (copies aCopy false) x.1 x.2 (ctx (copies aCopy false)).th 30 (aCopy.srcAt 0) 16 == false) = true ∧
    (translate (copies aCopy false) 0 1 0x20000000 .read).toOption.isSome = true ∧ (translate (copies aCopy false) 0 1 0x30000 .write).toOption.isSome = true ∧
    (after (exec (.copyUnit 30 0) (copies aCopy false))).map (fun s => (memByte s.mem 0x30000, s.copies.map (fun c => c.done))) = some (0x0F, [[0]]) ∧
    (after (exec (.copyUnit 30 1) (copies { aCopy with done := [0] } false))).map (fun s => s.copies) = some [] ∧
    (after (exec (.copyUnit 30 1) (copies { aCopy with fail := 4 } false))).map (fun s => (s.copies, (s.thread? t0).map (fun th => th.cpyFail))) = some ([], some 4) ∧
    (after (exec (.armedFire 30) (copies { aCopy with st := .armed } true))).map (fun s => s.copies.map (fun c => c.st)) = some [.running] ∧
    early (exec (.armedFire 30) (copies { aCopy with st := .armed } false)) = true ∧
    (after (exec (.armedFire 30) (copies { aCopy with st := .unregistered } false))).map (fun s => s.trigs.map (fun r => (r.key, r.due))) = some [(0x40000, true)] := by decide +kernel

theorem witness_EnginesGoOn_publish : (tcWaiter waitsToPublish 40).map (fun x => x.1) = some t0 ∧ cpysPending waitsToPublish t0 40 1 0x5000 = false ∧
    releaseReady waitsToPublish (ctx waitsToPublish).th 40 5 false = true ∧ reportFailed (ctx waitsToPublish).th 40 5 0x10000 = none ∧
    engineAsid waitsToPublish 1 0 0x5000 = some (some 1) ∧ (translate waitsToPublish 0 1 0x5000 .read).toOption.isSome = true := by decide +kernel
/-- The descriptor of a query whose replies go to the scratchpad slice: a width of 0, 1 token, no other field set. -/
def aDesc : List Byte := List.replicate 15 0 ++ 0x10 :: List.replicate 48 0
def querier (st code : Nat) (cxl : Bool) (q : List (Nat × Nat × Nat)) : State := rig (fun th => { th with qslots := th.qslots.modify 1 (fun x => { x with busy := true }) }) id id (fun s =>
  { s with cur := none, nextId := 100, bauq := q, queries := [{ aQuery 1 1 3 [{ aPage st with code := code, cxl := cxl }] with desc := aDesc }] })

theorem witness_QueriesAreAnswered : ([0, 1, 2, 3].all (fun st => ((querier st 0 false []).qpage? 1 0).any (fun x => x.2.st == st)) = true) ∧
    ((after (exec (.qry 1 0) (querier 0 3 false []))).bind (fun s => s.qpage? 1 0)).map (fun x => (x.2.st, x.2.triple)) = some (2, [0xFF800000, 0]) ∧
    (after (exec (.qry 1 0) (querier 0 0 false []))).map (fun s => s.bauq) = some [(0, 1, 0)] ∧
    early (exec (.qry 1 0) (querier 0 0 false (List.replicate 16 (0, 2, 0)))) = true ∧
    (querier 1 0 false [(0, 1, 0)]).bauq.find? (fun y => y.1 == 0) = some (0, 1, 0) ∧ (after (exec (.bauScan 0) (querier 1 0 false [(0, 1, 0)]))).map (fun s => s.bauq) = some [] ∧
    ((after (exec (.cxl 1 0) (querier 1 0 true []))).bind (fun s => s.qpage? 1 0)).map (fun x => (x.2.st, x.2.code)) = some (2, 4) ∧
    early (exec (.cxl 1 0) (querier 1 0 false [])) = true ∧ early (exec (.rpl 1 0) (querier 1 0 false [])) = true := by decide +kernel

theorem witness_QueriesAreAnswered_reply : (let s := querier 2 4 false []; s.ofThread t0 = some ((ctx s).l, (ctx s).g) ∧ addrTag (aqReply aDesc) = 1 ∧ localKey (ctx s).l (ctx s).g (aqReply aDesc) = some (scratchKey 0 0)) ∧
    (after (exec (.rpl 1 0) (querier 2 4 false []))).map (fun s => (memRead s.mem 4 (scratchKey 0 8), s.queries, (s.thread? t0).bind (fun th => th.qslots[1]?.map (fun y => (y.busy, y.seq))))) =
      some ([4, 0, 0, 0], [], some (false, 3)) ∧
    aqCount aDesc 0 = 0 ∧ aqCount (List.replicate 64 1) 0 ≠ 0 ∧ (translate plain 0 1 0x20000 .read).toOption.isSome = true ∧ (errorIn (translate plain 1 1 0x20000 .read)).isSome = true ∧
    poisoned { plain with poison := [(0x20000 / 64, 0)] } 0x20000 4 = true := by decide +kernel

/-- A die on which a launch waits for its team: nothing of it has started. -/
def waitingLaunch : Launch := { oneLaunch { die := 0, id := 2 } 0 50 with teams := [], nextTeam := 0, state := 1, hdr := { oneHeader with prio := 5, stackBytes := 0 } }
def crowded (f : State → State) : State := rig id id id (fun s => f { s with cur := none, nextId := 100, ns := 5, launches := s.launches ++ [waitingLaunch] })
/-- Every core of the die's six clusters is taken by a team of launch 1. -/
def fullDie : State := crowded (fun s => { s with launches := s.launches.map (fun l => if l.ref.id = 1 then { l with
  hdr := { l.hdr with scratch := 1048576 }, T := 6, nextTeam := 6, teams := (List.range 6).map (fun c =>
    { oneTeam 0 with idx := c, cores := (List.range 8).map (fun k => 8 * c + k), bases := List.replicate 8 0 }) } else l) })
def theSet (s : State) : Option TeamSet := setOf s { die := 0, id := 1 } 0
def aChild : Pending := { ref := { die := 0, id := 9 }, pl := { die := 0, id := 1 }, depth := 1, header := 0, argp := 0, T := 1, prio := none, asid := 1, podKey := 0 }
def draining (n : Nat) : State := rig id id (fun l => { l with teams := l.teams.map (fun t => { t with drainTill := some n }) }) (fun s => { s with cur := none, ns := 5 })
def setSaving : State := rig id (fun g => { g with saving := true }) id (fun s => { s with cur := none })
def swappedOut : State := rig id (fun g => { g with resident := false }) (fun l => { l with teams := l.teams.map (fun t => { t with resident := false, image := [[]], lineImage := [[]] }) })
  (fun s => { s with cur := none })
def ended : State := rig id (fun g => { g with retired := true, threads := g.threads.map (fun th => { th with exited := true }) })
  (fun l => { l with teams := l.teams.map (fun t => { t with retired := true }) }) (fun s => { s with cur := none })

theorem witness_SchedulerSteps_start : { plain with pool := [aChild] }.pool.find? (fun x => x.ref.die == 0) = some aChild ∧
    ((after (exec (.pendingPoolCheck 0) { plain with pool := [aChild] })).map (fun s => s.kept.map (fun k => k.status))) = some [0x405] ∧
    (let s := crowded id;
      s.launch? { die := 0, id := 2 } = some waitingLaunch ∧ waitingLaunch.waits s = true ∧ waitingLaunch.first s = true ∧ nextTeams waitingLaunch = [0] ∧
      coresOk waitingLaunch 1 [8] 1 = true ∧ (placeFresh s waitingLaunch [8]).isSome = true ∧
      (after (exec (.teamPlacement { die := 0, id := 2 } 1 [8]) s)).map (fun s => (s.groups.filter (fun g => g.launch.id == 2)).map (fun g => (g.core, g.resident))) = some [(8, true)] ∧
      early (exec (.teamPlacement { die := 0, id := 1 } 1 [8]) s) = true) ∧
    (ended.launch? { die := 0, id := 1 }).any (fun l => l.allRetired && !launchBusy ended l && decide (l.state < 3)) = true ∧ (ended.gangOf { die := 0, id := 1 }).isNone = true ∧
    (after (exec (.launchComplete { die := 0, id := 1 }) ended)).map (fun s => (s.launches, s.groups)) = some ([], []) ∧
    early (exec (.launchComplete { die := 0, id := 1 }) plain) = true := by decide +kernel

theorem witness_SchedulerSteps_preempt : (theSet fullDie).isSome = true ∧ (nextWaiting fullDie 0).map (fun w => w.ref.id) = some 2 ∧
    (theSet fullDie).any (fun u => (pathOf fullDie u false false).isSome && chosen fullDie waitingLaunch (fun v => v.free fullDie false && outranks fullDie waitingLaunch v) u) = true ∧
    (after (exec (.timeSliceExpiry { die := 0, id := 1 } 0) fullDie)).isSome = true ∧ nextWaiting plain 0 = none ∧ early (exec (.timeSliceExpiry { die := 0, id := 1 } 0) plain) = true ∧
    early (exec (.drainTimeout { die := 0, id := 1 } 0) plain) = true ∧ (after (exec (.drainTimeout { die := 0, id := 1 } 0) (draining 5))).isSome = true ∧
    (theSet setSaving).any (fun u => savable setSaving u && decide ((u.groups setSaving).length = 1) && decide ((u.teams.filter (fun x => x.resident)).length = 1)) = true ∧
    (after (exec (.teamSave { die := 0, id := 1 } 0) setSaving)).map (fun s => s.groups.map (fun g => g.resident)) = some [false] ∧
    (theSet swappedOut).any (fun u => !u.live.isEmpty && mayReturn swappedOut u.launch u.first && tilesStay swappedOut u.launch u.teams 0 && (placeBack swappedOut u.launch u.teams 0 (backCores u.teams 0)).isSome) = true ∧
    (after (exec (.teamRestore { die := 0, id := 1 } 0 0 [0]) swappedOut)).map (fun s => s.groups.map (fun g => g.resident)) = some [true] ∧
    early (exec (.teamRestore { die := 0, id := 1 } 0 0 [0]) plain) = true := by decide +kernel
/-! Host commands. -/

/-- The part in service for the management controller, with a loaded address space 1. -/
def serving (f : State → State) : State :=
  rig id id id (fun s => f { s with cur := none, nextId := 100, ctl := { s.ctl with stage := 7, owner := 0 } })
def cmdWords (ws : List (Nat × Word)) : List Word := ws.foldl (fun r v => r.set (v.1 / 4) v.2) (List.replicate 16 0)
/-- The command of a channel that the words name, and the state once it is taken. -/
def sent0 (ws : List Word) (s : State) : HostCmd := { id := s.nextId, queue := none, agent := 0, index := 0, words := ws, wait := .counter 0 }
def chan (ws : List Word) : CmdSrc := .channel .mgmt ws
def startedOk (ws : List Word) (op : Nat) (s : State) : Bool :=
  takeCmd s (chan ws) op == some (sent0 ws s, { s with nextId := s.nextId + 1 }) && !entryBad s (chan ws) && (cmdGate { s with nextId := s.nextId + 1 } (sent0 ws s) true).isNone
/-- The completions of a channel after an outcome: status and result. -/
def done (o : Host.Outcome State Fault Refusal) : Option (List (Word × Word)) := (after o).map (fun s => s.chanOut.map (fun x => (x.status, x.result)))

/-- A launch header of one group of one warp, at 0x40000. -/
def aHeader : List Byte :=
  ((List.replicate 256 (0 : Byte)).set 0x12 1).set 0x20 16 |>.set 0x22 40 |>.set 0x2C 1 |>.set 0x30 5 |>.set 0xA0 1
def withHeader : State := serving (fun s => { s with mem := memWrite s.mem aHeader 0x40000 })
def launchWords : List Word := cmdWords [(0, 1), (8, 0x40000), (0x18, 1), (0x1C, 0x100)]
def queued (bad : Bool) : State := serving (fun s =>
  { s with ctl := { s.ctl with owner := 1 }, mem := memWrite s.mem (bytesOf 4 3) 0x50040, poison := if bad then [(0x50040 / 64, 0)] else [],
           queues := s.queues.set 2 { base := 0x50000, size := 4, head := 1, en := true, asid := 1, avail := 2 } })

theorem witness_HostCommandsRun : 1 ≤ (serving id).ctl.stage ∧ (serving id).cmds.all (fun x => x.queue.isSome || x.agent != Agent.mgmt.code) = true ∧
    cmdGate (serving (fun s => { s with ctl := { s.ctl with fatal := true } })) (sent0 (cmdWords [(0, 3)]) plain) true = some 0x81 ∧
    cmdGate (serving (fun s => { s with ctl := { s.ctl with stage := 6 } })) (sent0 (cmdWords [(0, 3)]) plain) true = some 0x81 ∧
    cmdGate (serving (fun s => { s with ctl := { s.ctl with owner := 2 } })) (sent0 (cmdWords [(0, 3)]) plain) true = some 7 ∧
    cmdGate (serving id) (sent0 (cmdWords [(0, 13)]) plain) true = some 0x80 ∧ cmdGate (serving id) (sent0 (cmdWords [(0, 12)]) plain) true = none ∧
    cmdGate (serving id) (sent0 (cmdWords [(0, 0x203)]) plain) true = some 0x80 ∧ cmdGate (serving id) (sent0 (cmdWords [(0, 3)]) plain) false = some 0x80 ∧
    queueEntry (queued false) 2 = some (cmdWords [(0, 3)]) ∧ entryBad (queued false) (.queue 2) = false ∧
    hostAddrKey (queued false) 1 (0x50000 + BitVec.ofNat 64 (64 * 1)) .write = .ok 0x50040 ∧
    ((takeCmd (queued false) (.queue 2) 3).map (fun x => (x.1.index, (x.2.queues.getD 2 CQueue.reset).head))) = some (1, 2) ∧
    entryBad (queued true) (.queue 2) = true ∧ ((after (exec (.signal (.queue 2)) (queued true))).map (fun s => (readNat s 0x50078 4, readNat s 0x5007C 4))) = some (0x80000080, 0) := by
  refine ⟨by decide +kernel, by decide +kernel, by decide +kernel, by decide +kernel, by decide +kernel, by decide +kernel, by decide +kernel, by decide +kernel, by decide +kernel,
    by decide +kernel, by decide +kernel, okOf (by decide +kernel), by decide +kernel, by decide +kernel, by decide +kernel⟩

theorem witness_HostCommandsComplete_launch : startedOk launchWords 1 withHeader = true ∧ launchForm (sent0 launchWords withHeader) = true ∧ (sent0 launchWords withHeader).ptr 0x20 = 0 ∧
    (let r := launchReq (sent0 launchWords withHeader) 1; checkLaunch (countHeader withHeader r.asid r.header) 0 (readHeader withHeader r.asid r.header) r = 0) ∧
    (after (exec (.launchCommand (chan launchWords)) withHeader)).map (fun s => s.launches.map (fun l => (l.ref.id, l.T))) = some [(1, 1), (2, 1)] ∧
    done (exec (.launchCommand (chan launchWords)) (serving id)) = some [(0x80000000, 0x405)] := by decide +kernel

def copyWords (n : Word) : List Word := cmdWords [(0, 0x10002), (8, 0x20000), (0x10, 0x30000), (0x18, n)]
def signalWords : List Word := cmdWords [(0, 0x10003), (8, 0x30000), (0x10, 5), (0x14, 1)]
def waitWords : List Word := cmdWords [(0, 0x10004), (8, 0x30000), (0x10, 5)]

theorem witness_HostCommandsComplete_memory : startedOk (copyWords 16) 2 (serving id) = true ∧
    (after (exec (.hostCopy (chan (copyWords 16))) (serving id))).map (fun s => s.cmds.map (fun c => c.wait)) = some [.copy []] ∧
    done (exec (.hostCopy (chan (copyWords 0))) (serving id)) = some [(0x80000000, 0)] ∧
    startedOk signalWords 3 (serving id) = true ∧ (cmdKey (serving id) (sent0 signalWords (serving id)) 0x30000 4 .write 2).toOption = some 0x30000 ∧
    (after (exec (.signal (chan signalWords)) (serving id))).map (fun s => readNat s 0x30000 4) = some 5 ∧
    (errorIn (hostAddrKey (serving id) 2 0x30000 .write)).map (fun d => d.cause) = some 0x06 ∧
    done (exec (.signal (chan (signalWords.set 0 0x20003))) (serving id)) = some [(0x80000000, 2)] ∧
    startedOk waitWords 4 (serving id) = true ∧ (after (exec (.hostWait (chan waitWords)) (serving id))).map (fun s => s.trigs.map (fun r => (r.key, r.due))) = some [(0x30000, false)] := by
  decide +kernel

/-- The sources of the remaining commands: owner, calendar, ports, faults, attestation. -/
def claimWords : List Word := cmdWords [(0, 11)]
def yieldWords : List Word := cmdWords [(0, 12), (8, 2)]
def attestWords : List Word := cmdWords [(0, 0x1000A), (8, 0x20000), (0x10, 16), (0x18, 0x30000), (0x20, 0)]
def calWords : List Word := cmdWords [(0, 0x10005), (8, 0x20000)]
def portWords (op : Word) : List Word := cmdWords [(0, op), (8, 3)]
def statusWords : List Word := cmdWords [(0, 0x10008), (8, 0x30000)]
def replayWords : List Word := cmdWords [(0, 9), (8, 0x10000)]
def withPort (st : PortSt) : State := serving (fun s => { s with net := { s.net with ports := s.net.ports.set 3 { Port.reset with st := st } } })
def ownerless : State := serving (fun s => { s with ctl := { s.ctl with owner := 3 } })

theorem witness_HostCommandsComplete_owner : startedOk claimWords 11 ownerless = true ∧ (after (exec (.ownerClaim (chan claimWords)) ownerless)).map (fun s => s.ctl.owner) = some 0 ∧
    done (exec (.ownerClaim (chan claimWords)) (serving id)) = some [(0x80000002, 0)] ∧
    startedOk yieldWords 12 (serving id) = true ∧ (after (exec (.ownerYield (chan yieldWords)) (serving id))).map (fun s => s.ctl.owner) = some 2 ∧
    startedOk attestWords 10 (serving id) = true ∧ (readBuffer (serving id) 1 0x20000 16).toOption = some (List.replicate 16 0) ∧
    done (exec (.attest (chan attestWords)) (serving id)) = some [(0x80000082, 0)] ∧ done (exec (.attest (chan (attestWords.set 8 4))) (serving id)) = some [(0x80000000, 4)] ∧
    (after (exec (.attest (chan (attestWords.set 8 4))) (serving id))).map (fun s => memRead s.mem 4 0x30000) = some [0x13, 0x7F, 7, 0] ∧
    (writeBuffer (serving id) 1 0x30000 [0x13, 0x7F, 7, 0]).toOption.isSome = true ∧ (readBuffer (serving id) 2 0x20000 16).toOption = none ∧
    done (exec (.attest (chan (attestWords.set 0 0x2000A))) (serving id)) = some [(0x80000080, 0)] ∧
    startedOk calWords 5 (serving id) = true ∧ errorIn (readCal (serving id) 1 0x20000) = some 1 ∧ done (exec (.calLoad (chan calWords)) (serving id)) = some [(0x80000001, 0)] := by decide +kernel

theorem witness_HostCommandsComplete_ports : startedOk (portWords 6) 6 (withPort .active) = true ∧
    (after (exec (.portDrain (chan (portWords 6))) (withPort .active))).map (fun s => (s.cmds.map (fun c => c.wait), (s.net.ports.getD 3 Port.reset).drainReq)) = some ([.drain 3], true) ∧
    done (exec (.portDrain (chan (portWords 6))) (withPort .failed)) = some [(0x80000005, 0)] ∧ startedOk (portWords 7) 7 (withPort .failed) = true ∧
    (after (exec (.portRetrain (chan (portWords 7))) (withPort .failed))).map (fun s => (s.net.ports.getD 3 Port.reset).st) = some .training ∧
    done (exec (.portRetrain (chan (portWords 7))) (withPort .active)) = some [(0x80000005, 0)] ∧
    startedOk statusWords 8 (serving id) = true ∧ (writeBuffer (serving id) 1 0x30000 (calBlock (serving id))).toOption.isSome = true ∧ done (exec (.calStatus (chan statusWords)) (serving id)) = some [(0x80000000, 0)] ∧
    startedOk replayWords 9 (serving id) = true ∧ done (exec (.faultReplay (chan replayWords)) (serving id)) = some [(0x80000001, 0)] := by decide +kernel
/-! The calendar, packets, gangs and the outside. -/

/-- A calendar of two slots: port 0 faces package 1 in both, every other port is dark. -/
def bCal : Cal :=
  { gen := 1, start := 0, s := 2, slotLen := 4000, guard := 96, flight := 0, npkg := 3, ref := 1, plans := [0xFFFF], entries :=
      { v := true, bcast := false, peer := 1, plan := 0 } :: (List.replicate 63 Entry.none ++ { v := true, bcast := false, peer := 1, plan := 0 } :: List.replicate 63 Entry.none),
    bcasts := [] }
def lockedBank : Bank := { Bank.dark with st := .locked }
def lane (p : Port → Port) (n : Net → Net) (f : State → State) : State := rig id id id (fun s =>
  let q := p { Port.reset with st := .active, cur := lockedBank, spare := lockedBank }
  let m : Net := { s.net with cal := some bCal, synced := true, aligned := true, inData := true, hops := some 1, offset := some 0, ports := s.net.ports.set 0 q }
  f { s with cur := none, nextId := 100, net := n m })
def port0 (s : State) : Port := s.net.ports.getD 0 Port.reset
def onPort (o : Host.Outcome State Fault Refusal) : Option Port := (after o).map port0

def tuned (st : PortSt) (tries : Nat) (need : List Nat) : State :=
  lane (fun p => { p with st := st, need := need, spare := { st := .tuning, plan := 0, tries := tries } }) id id
def atEnd : State := lane id (fun n => { n with steered := true, staged := some { bCal with gen := 2 } }) (fun s => { s with calSlot := 1 })
def guardTime : State := lane id (fun n => { n with inData := false }) id

theorem witness_CalendarTurns_rotation : (lane id id id).net.cal = some bCal ∧ (lane id id id).net.synced = true ∧ (lane id id id).net.inData = true ∧ tuningOpen (lane id id id) = false ∧
    (stagedDue (lane id id id)).isNone = true ∧ (after (exec .slotBoundary (lane id id id))).map (fun s => (s.calSlot, s.net.inData)) = some (1, false) ∧
    slotOpen (lane id id id) bCal = false ∧
    (after (exec .slotBoundary (lane id (fun n => { n with steered := true }) (fun s => { s with calSlot := 1 })))).map (fun s => (s.calSlot, s.calCycle, s.net.steered)) = some (0, 1, false) ∧
    early (exec .slotBoundary (lane id id (fun s => { s with calSlot := 1 }))) = true ∧ slotOpen (tuned .active 0 []) bCal = true ∧
    slotOpen (lane (fun p => { p with faults := 3 }) id id) bCal = true ∧
    early (exec .slotBoundary guardTime) = true ∧ guardTime.net.inData = false ∧ guardTime.net.ports.length = 64 ∧
    (after (exec .dataWindowStart guardTime)).map (fun s => s.net.inData) = some true ∧ early (exec .dataWindowStart (lane id id id)) = true ∧
    early (exec .dataWindowStart (lane (fun p => { p with st := .draining }) (fun n => { n with inData := false }) id)) = true ∧
    (stagedDue atEnd).map (fun c => c.gen) = some 2 ∧ slotOpen atEnd bCal = false ∧ (after (exec .generationChange atEnd)).map (fun s => s.net.cal.map (fun c => c.gen)) = some (some 2) ∧
    early (exec .generationChange (lane id id id)) = true ∧ isRef (lane id id id) = false ∧
    (after (exec .cycleSteer (lane id (fun n => { n with offset := some 1000 }) id))).map (fun s => s.net.offset) = some (some 750) := by decide +kernel

theorem witness_CalendarTurns_ports : (port0 (tuned .active 0 [])).spare.st = .tuning ∧ (onPort (exec (.ringLocked 0) (tuned .active 0 []))).map (fun p => p.spare.st) = some .locked ∧
    (onPort (exec (.ringLocked 0) (tuned .training 0 [0, 3]))).map (fun p => (p.spare.st, p.spare.plan, p.need)) = some (.tuning, 3, [3]) ∧
    (onPort (exec (.tuningTimeout 0) (tuned .training 0 [0]))).map (fun p => p.spare.tries) = some 1 ∧ (onPort (exec (.tuningTimeout 0) (tuned .training 2 [0]))).map (fun p => p.st) = some .failed ∧
    (onPort (exec (.tuningTimeout 0) (tuned .active 0 []))).map (fun p => p.spare.tries) = some 1 ∧
    (onPort (exec (.tuningTimeout 0) (tuned .active 1 []))).map (fun p => (p.spare.st, p.faults)) = some (.fault, 1) ∧
    (onPort (exec (.portFailed 0) (lane (fun p => { p with faults := 3 }) id id))).map (fun p => p.st) = some .failed ∧ early (exec (.portFailed 0) (lane (fun p => { p with faults := 2 }) id id)) = true ∧
    (onPort (exec (.portDrained 0) (lane (fun p => { p with st := .draining }) (fun n => { n with inData := false }) id))).map (fun p => p.st) = some .drained ∧
    (onPort (exec (.portTrained 0) (lane (fun p => { p with st := .training, seen := [1] }) id id))).map (fun p => p.st) = some .active := by decide +kernel

def aPreamble : PreambleMsg :=
  { pkg := 1, port := 0, gen := 1, cycle := 0, slot := 0, lit := 0xFFFF, offset := 0, hops := some 0, aligned := true, crcOk := true, delta := 0, elapsed := 1, lowest := 1 }
/-- A packet of package 1 waits to be acknowledged by it; it has been sent so many times. -/
def outgoing (sent : Nat) (bcast : Option (List Nat)) : OutPkt :=
  { id := 60, die := 0, launch := none, pkt := { src := 0, hop := 1, dst := 1, die := 0, transit := false, cls := 0, gen := 1, seq := 0, kind := 4, body := .reply 0 0 7 [] },
    bcast := bcast, sent := sent, port := some 0, fly := false, relayed := false, foreign := false, origin := 0, ports := [0],
    casts := (bcast.getD []).map (fun m => (m, sent)) }
def sending (sent : Nat) (bcast : Option (List Nat)) : State := lane (fun p => { p with verified := some 1 }) (fun n => { n with out := [outgoing sent bcast] }) id
def anAck : AckMsg := { src := 1, acked := [(0, 0)], bases := [], transit := [], credit := 0, bcast := [] }

theorem witness_CalendarTurns_messages : verifies (lane id id id) 0 (port0 (lane id id id)) aPreamble = true ∧ synchronises (lane id id id) 0 (port0 (lane id id id)) aPreamble = false ∧
    (onPort (exec (.preamble 0 aPreamble) (lane id id id))).map (fun p => (p.verified, p.seen)) = some (some 1, [1]) ∧
    verifies (lane id id id) 0 (port0 (lane id id id)) { aPreamble with pkg := 2 } = false ∧
    (let s := lane id (fun n => { n with synced := false, inData := false }) id; synchronises s 0 (port0 s) aPreamble = true ∧
      (after (exec (.preamble 0 aPreamble) s)).map (fun s => (s.net.synced, s.calSlot)) = some (true, 1)) ∧
    (sending 1 none).net.out = [outgoing 1 none] ∧ seqLe 0 0 = true ∧ (after (exec (.ackFlit 0 anAck) (sending 1 none))).map (fun s => s.net.out) = some [] ∧
    (after (exec (.cutOff 1) (sending 8 none))).map (fun s => s.net.cut) = some [1] ∧ early (exec (.cutOff 1) (sending 7 none)) = true ∧
    (after (exec (.broadcastMemberDrop 0 2) (sending 8 (some [1, 2])))).map (fun s => s.net.dropped) = some [(0, 2)] ∧
    early (exec (.broadcastMemberDrop 0 2) (sending 7 (some [1, 2]))) = true := by decide +kernel

/-- A packet from package 1 to this part as it comes in at port 0. -/
def comes (kind : Nat) (body : Body) : Rx :=
  let k : Packet := { src := 1, hop := 0, dst := 0, die := 0, transit := false, cls := 0, gen := 1, seq := 0, kind := kind, body := body }
  { port := 0, pkt := k, crc := packetCrc k }
/-- The part with pod key 5 for address space 1 and a verified sender on port 0. -/
def receiving : State := lane (fun p => { p with verified := some 1 }) id (fun s => { s with podKeys := s.podKeys.set 0 0x00050101 })
def acceptedBy (s : State) (rx : Rx) : Bool :=
  !s.ctl.fatal && decide (bodyUnits rx.pkt ≤ 256) && rx.crcOk && rx.pkt.dst == s.pkgId.toNat && (nextRx s rx.port rx.pkt).isSome
/-- Status, reason and data of the replies that wait to leave. -/
def replies (o : Host.Outcome State Fault Refusal) : Option (List (Option (Nat × Nat × List Byte))) := (after o).map (fun s => s.net.out.map (fun x => match x.pkt.body with
  | .reply a b _ d => some (a, b, d)
  | _ => none))
def gets (kind : Nat) (key sub flags : Nat) (data : List Byte) (a : DWord) : Rx := comes kind (.req a key sub flags 9 data)

theorem witness_PacketsAreServed_requests : acceptedBy receiving (gets 0 5 4 0 [] 0x20000000) = true ∧ Memory.wf receiving.mem = true ∧ keyAsid receiving 5 = some 1 ∧ keyAsid receiving 6 = none ∧
    replies (exec (.readRequest (gets 0 6 4 0 [] 0x20000000)) receiving) = some [some (7, 6, [])] := by decide +kernel

theorem witness_PacketsAreServed_reads : replies (exec (.readRequest (gets 0 5 4 0 [] 0x20000000)) receiving) = some [some (0, 0, [0x0F, 0x80, 0, 0])] ∧
    replies (exec (.readRequest (gets 0 5 4 0 [] 0x0001000020000000)) receiving) = some [some (6, 1, [])] :=
  ⟨by decide +kernel, by decide +kernel⟩

theorem witness_PacketsAreServed_writes : (after (exec (.pktWrite (gets 2 5 2 0 [1, 2] 0x30000)) receiving)).map (fun s => memRead s.mem 4 0x30000) = some [1, 2, 0, 0] ∧
    replies (exec (.pktAtomic (gets 3 5 0 0 [1, 0, 0, 0] 0x20000000)) receiving) = some [some (0, 0, [0x0F, 0x80, 0, 0])] ∧
    (after (exec (.copyUnits (gets 5 5 1 0 (List.replicate 16 7) 0x30000)) receiving)).map (fun s => memRead s.mem 1 0x3000F) = some [7] ∧
    (after (exec (.reduceCopyUnits (gets 11 5 1 0 (List.replicate 16 7) 0x30000)) receiving)).isSome = true ∧
    replies (exec (.publish (gets 12 5 0 0 [] 0x30000)) receiving) = some [some (7, 4, [])] := by decide +kernel

/-- The part with its page in a class that PUBLISH flips (R239), and a flip that waits. -/
def flippable : State := { receiving with mem := memWrite receiving.mem [0x4F] 0x20000000 }
def flipWaits : State := { flippable with flips := [{ id := 3, die := 0, asid := 1, addr := 0x30000, src := 1, cls := 0, tag := 9 }] }

theorem witness_PacketsAreServed_publish : leafSC 0x804F = true ∧ leafSS 0x804F = false ∧ (translate flippable 0 1 0x30000 .read).toOption = some (2, 0x804F) ∧
    pageBusy flippable 1 0 0x30000 2 = false ∧ leafKey flippable 0 0x30000 4 1 (rootOf flippable 0 1) = some 0x20000000 ∧
    replies (exec (.publish (gets 12 5 0 0 [] 0x30000)) flippable) = some [some (0, 0, [])] ∧
    (after (exec (.publish (gets 12 5 0 0 [] 0x30000)) flippable)).map (fun s => memByte s.mem 0x20000000) = some 0xCF ∧
    (let s := { flippable with groups := flippable.groups.map (fun g => { g with threads := g.threads.modify 0 (fun th => { th with infl := [loadIn 4] }) }) }
     pageBusy s 1 0 0x30000 2 = true ∧ (after (exec (.publish (gets 12 5 0 0 [] 0x30000)) s)).map (fun s => s.flips.map (fun f => f.asid)) = some [1]) ∧
    acceptedBy flipWaits (gets 0 5 4 0 [] 0x20000000) = true ∧ early (exec (.readRequest (gets 0 5 4 0 [] 0x20000000)) flipWaits) = true ∧
    early (exec (.publish (gets 12 5 0 0 [] 0x30000)) flipWaits) = true := by decide +kernel

theorem witness_PacketsAreServed_refused : early (exec (.readRequest (gets 2 5 4 0 [] 0x20000000)) receiving) = true ∧
    (let rx := { gets 0 5 4 0 [] 0x20000000 with crc := 0 }; rx.crcOk = false ∧ (onPort (exec (.readRequest rx) receiving)).map (fun p => p.crcErr) = some 1) := by decide +kernel

def remoteLoad : State := { receiving with groups := receiving.groups.map (fun g => { g with threads := g.threads.modify 0 (fun th => { th with
  infl := [{ loadIn 4 with st := .remote 9, id := 9, loc := none }, pend 8 .none (.store [1] false) 0x4001000000000000 none (.remote 8)] }) }) }
def reply (kind tag status : Nat) (data : List Byte) : Rx := comes kind (.reply status 0 tag data)

theorem witness_PacketsAreServed_replies : (pendOf remoteLoad 9).isSome = true ∧ (pendOf remoteLoad 8).isSome = true ∧ (pendOf remoteLoad 7).isNone = true ∧ (flightOf remoteLoad 7).isNone = true ∧
    acceptedBy remoteLoad (reply 1 9 0 [5, 0, 0, 0]) = true ∧
    (after (exec (.readReply (reply 1 9 0 [5, 0, 0, 0])) remoteLoad)).map (fun s => (s.pend? t0 9).map (fun p => p.st)) = some (some (.ready [some 5])) ∧
    (after (exec (.readReply (reply 1 9 7 [])) remoteLoad)).map (fun s => (s.thread? t0).map (fun th => th.refused.length)) = some (some 1) ∧
    (after (exec (.completion (reply 4 8 0 [])) remoteLoad)).map (fun s => (s.pend? t0 8).isNone) = some true ∧
    acceptedBy receiving (comes 13 .reserved) = true ∧ (after (exec (.reservedPacket (comes 13 .reserved)) receiving)).isSome = true ∧
    acceptedBy receiving (comes 8 (.collAbort 1 0 5 3)) = true := by decide +kernel

/-- Two packets of 64 bytes wait for package 1, of class 0 and class 1, where the interval holds an ack flit and one: class 1 goes first, for class 0 has weight 0 (R373, R381). -/
theorem test_window_weights : (after (exec (.preamble 0 aPreamble) (lane (fun p => { p with left := 128 }) (fun n => { n with out := [outgoing 0 none,
      { outgoing 0 none with id := 61, pkt := { (outgoing 0 none).pkt with cls := 1 } }] }) (fun s => { s with netWeights := 0x10 })))).map (fun s => s.net.out.map (fun o => (o.id, o.sent))) =
    some [(60, 0), (61, 1)] := by decide +kernel

/-- A packet in transit waits until the package it goes by has granted room (R382). -/
theorem test_transit_credit : granted (lane id id id).net 0 { outgoing 0 none with pkt := { (outgoing 0 none).pkt with transit := true, dst := 2 } } = false ∧
    granted (lane id (fun n => { n with credit := [(dieOf 1 0, 64)] }) id).net 0 { outgoing 0 none with pkt := { (outgoing 0 none).pkt with transit := true, dst := 2 } } = true ∧
    granted (lane id (fun n => { n with credit := [(dieOf 1 0, 64)], used := [(dieOf 1 0, 1)] }) id).net 0 { outgoing 0 none with pkt := { (outgoing 0 none).pkt with transit := true, dst := 2 } } = false := by
  decide +kernel
def aGang (rank : Nat) (go : Option Nat) : Gang :=
  { gid := { pkg := 1, die := 0, id := 4 }, launch := { die := 0, id := 1 }, members := [1, 0], rank := rank, c0 := 0, accepts := [], go := go, dones := [], ended := none }
def ganged (g : Gang) : State := { receiving with gangs := [g] }
def told (what : Nat) : Rx := comes 9 (.gang { gangMsg what { pkg := 1, die := 0, id := 4 } with rank := 1, key := 5, members := [1, 0], teams := 1, header := 0x40000, code := 3, cycle := 9 })
/-- The header of the host's launch with the GANG flag. -/
def gangHeader : List Byte := ((aHeader.set 0x37 2).set 1 8).set 0x35 1
def gangReady : State := { receiving with mem := memWrite receiving.mem gangHeader 0x40000 }
def goOf (o : Host.Outcome State Fault Refusal) : Option (List (Option Nat)) := (after o).map (fun s => s.gangs.map (fun g => g.go))

theorem witness_GangsAgree : acceptedBy receiving (told 0) = true ∧ early (exec (.gangStart (told 1)) receiving) = true ∧
    (∀ i ∈ [Instr.gangAccept (told 1), .gangRefuse (told 2), .gangCancel (told 4), .gangAbort (told 5)], (after (exec i receiving)).map (fun s => s.gangs) = some []) ∧
    (after (exec (.gangStart (told 0)) receiving)).map (fun s => (s.launches.length, s.net.late.map (fun o => o.pkt.dst))) = some (1, [1]) ∧
    (after (exec (.gangStart (told 0)) gangReady)).map (fun s => (s.launches.length, s.gangs.map (fun g => g.rank))) = some (2, [1]) ∧
    goOf (exec (.gangAccept (told 1)) (ganged (aGang 0 none))) = some [some 2] ∧
    (after (exec (.gangRefuse (told 2)) (ganged (aGang 0 none)))).map (fun s => (s.gangs, s.launches)) = some ([], []) ∧
    goOf (exec (.gangGo (told 3)) (ganged (aGang 1 none))) = some [some 9] ∧ (after (exec (.gangCancel (told 4)) (ganged (aGang 1 none)))).map (fun s => s.launches) = some [] ∧
    goOf (exec (.gangCancel (told 4)) (ganged (aGang 1 (some 9)))) = some [some 9] ∧
    (after (exec (.gangDone (told 6)) (ganged (aGang 0 (some 0))))).map (fun s => s.gangs.map (fun g => g.dones)) = some [[(1, 3, 0)]] := by decide +kernel

theorem witness_GangsAgree_late : reachable (ganged (aGang 0 none)) 1 = true ∧
    (after (exec (.gangAccept (told 1)) (ganged { aGang 0 none with members := [0, 1] }))).map (fun s => s.net.late.map (fun o => o.pkt.dst)) = some [1] ∧
    goOf (exec (.gangAccept (told 1)) { ganged (aGang 0 none) with calCycle := 7 }) = some [some 9] ∧
    goOf (exec (.gangAccept (told 1)) { ganged (aGang 0 none) with calCycle := 8 }) = some [none] ∧
    goOf (exec (.gangGo (told 3)) { ganged (aGang 1 none) with calCycle := 15 }) = some [some 9] ∧
    goOf (exec (.gangGo (told 3)) { ganged (aGang 1 none) with calCycle := 16 }) = some [none] ∧
    goOf (exec (.gangAbort (told 5)) (ganged { aGang 0 (some 0) with ended := some (0, 0) })) = some [some 0] := by decide +kernel

theorem witness_GangsAgree_time : (ganged (aGang 0 none)).gangOf { die := 0, id := 1 } = some (aGang 0 none) ∧
    (after (exec (.gangStartTimeout { die := 0, id := 1 }) { ganged (aGang 0 none) with calCycle := 8 })).map (fun s => (s.launches, s.gangs)) = some ([], []) ∧
    early (exec (.gangStartTimeout { die := 0, id := 1 }) { ganged (aGang 0 none) with calCycle := 7 }) = true ∧
    (after (exec (.gangDiscardTimeout { die := 0, id := 1 }) { ganged (aGang 1 none) with calCycle := 16 })).map (fun s => (s.launches, s.gangs)) = some ([], []) ∧
    early (exec (.gangDiscardTimeout { die := 0, id := 1 }) { ganged (aGang 1 none) with calCycle := 15 }) = true ∧
    (let g := { aGang 0 (some 0) with ended := some (0, 0) }; (ganged g).gang? g.gid = some g ∧ endGang (ganged g) g.gid = ganged g) ∧
    (let g := { aGang 0 (some 0) with ended := some (0, 0), dones := [(1, 3, 0)] }; (endGang (ganged g) g.gid).gangs = []) := by decide +kernel

def owned (f : State → State) : State := serving f
def resting : State := serving (fun s => { s with ctl := { s.ctl with stage := 3 } })
def targeted : State := owned (fun s => { s with dies := s.dies.map (fun d => { d with dbgLaunch := 1 }) })

theorem witness_TheOutsideActs_registers : (owned id).queues.length = 16 ∧ (owned id).dies.length = 4 ∧
    (after (exec (.doorbell 15 7) (owned id))).map (fun s => (s.queues.getD 15 CQueue.reset).avail) = some 7 ∧
    (after (exec (.registerWrite .mgmt 0x10000 5) (owned id))).map (fun s => s.dies.map (fun d => d.preQuantum)) = some [5, 1000, 1000, 1000] ∧
    (after (exec (.registerWrite .pod 0x10000 5) (owned id))).map (fun s => s.dies.map (fun d => d.preQuantum)) = some [1000, 1000, 1000, 1000] ∧
    (after (exec (.registerWrite .pod 0x20004 5) (owned id))).map (fun s => s.dies.map (fun d => d.dbgResult)) = some [4, 0, 0, 0] ∧
    (after (exec (.tlbinv .mgmt 0x40000001) (owned id))).map (fun s => (s.ctl.tlbBusy, s.ctl.tlbAll)) = some (true, true) ∧
    (after (exec (.abortWrite .mgmt 0 1) (owned id))).map (fun s => s.launches.map (fun l => (l.stopped, l.code))) = some [(true, 8)] ∧
    (after (exec (.dbgHalt .mgmt 0 0x40000000) targeted)).map (fun s => (s.thread? t0).map (fun th => (th.halted, th.why))) = some (some (true, 1)) ∧
    early (exec .tlbinvComplete (owned id)) = true ∧
    (let s := owned (fun s => { s with ctl := { s.ctl with tlbBusy := true, tlbAll := true, tlbAsid := 2 } }); asidBusy s 2 = false ∧
      (after (exec .tlbinvComplete s)).map (fun s => s.ctl.tlbBusy) = some false) ∧
    (let s := owned (fun s => { s with ctl := { s.ctl with tlbBusy := true, tlbAll := false, tlbAsid := 2 } }); pageBusy s 2 0 0 2 = false ∧ addrDie s.ctl.tlbAt = 0 ∧
      (after (exec .tlbinvComplete s)).map (fun s => s.ctl.tlbBusy) = some false ∧ writeReg s .mgmt 0x20 0 = s) := by decide +kernel

/-- The firmware of stage 0 does not verify. -/
def unsigned : State := State.reset.modCtl (fun c => { c with fwSigned := (false, true) })
def bar4 (en : Bool) : State := owned (fun s => { s with ctl := { s.ctl with bar4En := en, bar4Asid := 1, bar4Base := 0x20000000 } })

theorem witness_TheOutsideActs_part : bar4Form 0 4 = true ∧ (bar4 true).ctl.recovery = false ∧
    (after (exec (.bar4Read 0 4) (bar4 true))).map (fun s => (s.bar4.status, s.bar4.data)) = some (1, [0x0F, 0x80, 0, 0]) ∧
    (after (exec (.bar4Read 0 4) (bar4 false))).map (fun s => (s.bar4.status, s.bar4.data)) = some (2, []) ∧
    (after (exec (.bar4Write 0x100 [1, 2, 3, 4]) (bar4 true))).map (fun s => memRead s.mem 4 0x20000100) = some [1, 2, 3, 4] ∧
    (resetModule plain).groups = [] ∧ (after (exec (.bringUpStage true) State.reset)).map (fun s => s.ctl.stage) = some 1 ∧
    (after (exec (.bringUpStage false) unsigned)).map (fun s => s.ctl.recovery) = some true ∧
    early (exec (.bringUpStage true) unsigned) = true ∧ early (exec (.bringUpStage false) State.reset) = true ∧
    (∀ k ∈ [(2, 1), (3, 3)], (after (exec (.bringUpStage false) (serving (fun s => { s with ctl := { s.ctl with stage := k.1 } })))).map (fun s => (s.ctl.fatal, s.ctl.cause)) = some (true, k.2)) ∧
    (after (exec (.bringUpStage true) resting)).map (fun s => (s.ctl.stage, memByte s.mem 0x20000000)) = some (4, 0) ∧
    (after (exec .linkFailure plain)).map (fun s => s.ctl.cause) = some 1 ∧ (after (exec .linkFailure plain)).map (fun s => early (exec .linkFailure s)) = some true ∧
    (let s := serving (fun s => { s with ctl := { s.ctl with flow := 200, inlet := 501 } }); (after (exec .coolantFatal s)).map (fun s => s.ctl.cause) = some 2) ∧
    early (exec .coolantFatal (serving (fun s => { s with ctl := { s.ctl with flow := 150, inlet := 500 } }))) = true ∧
    (after (exec (.clockStep true) (serving (fun s => { s with ctl := { s.ctl with clkNow := 1700, inlet := 400, flow := 300 } })))).map (fun s => s.ctl.clkNow) = some 1800 ∧
    early (exec (.clockStep true) (serving (fun s => { s with ctl := { s.ctl with clkNow := 1800, inlet := 400, flow := 300 } }))) = true ∧
    early (exec (.clockStep true) (serving (fun s => { s with ctl := { s.ctl with clkNow := 1700, inlet := 401, flow := 300 } }))) = true ∧
    early (exec (.clockStep true) (serving (fun s => { s with ctl := { s.ctl with clkNow := 1700, inlet := 400, flow := 299 } }))) = true ∧
    early (exec (.clockStep false) (serving (fun s => { s with ctl := { s.ctl with clkNow := 900 } }))) = true ∧
    (after (exec (.completionTimeout t0 5) (holding [{ loadIn 4 with loc := some .host }]))).map (fun s => (s.thread? t0).map (fun th => th.refused.length)) = some (some 1) ∧
    early (exec (.completionTimeout t0 5) (holding [loadIn 4])) = true ∧
    (after (exec (.unitPoisoned 0x30000) plain)).map (fun s => (poisoned s 0x30000 1, poisoned s 0x30040 1)) = some (true, false) := by decide +kernel
def someColl : CollHdr := { group := 1, rop := 0, rtype := 0, cseq := 0, offset := 0, sig := 0, len := 16, kind := 3, key := 5, route := [1024 + 3 * 4096, 1 + 4 * 4096] }
def collRx (dst : Nat) : Rx :=
  let k : Packet := { (comes 7 (.coll someColl (List.replicate 16 7))).pkt with hop := if dst = 0 then 0 else 1, dst := dst }
  { port := 0, pkt := k, crc := packetCrc k }
/-- A receiver of package 1's broadcast slot. -/
def hearing : State := { receiving with net := { receiving.net with cal := some { aCal with entries := List.replicate 128 { v := true, bcast := true, peer := 1, plan := 0 } } } }
def heldAt (o : Host.Outcome State Fault Refusal) : Option (List (Nat × List Nat)) := (after o).map (fun s => s.heldColl.map (fun p => (p.die, p.hdr.route)))

theorem witness_PacketsAreServed_collectives : acceptedBy receiving (collRx 0) = true ∧ (curEntry receiving 0).bcast = false ∧
    heldAt (exec (.collectiveData (collRx 0)) receiving) = some [(0, [5120 + 2 * 4096, 1 + 4 * 4096])] ∧
    (collRx 1).crcOk = true ∧ (nextRx hearing 0 (collRx 1).pkt).isSome = true ∧ (curEntry hearing 0).bcast = true ∧
    heldAt (exec (.collectiveData (collRx 1)) hearing) = some [(1, [1024 + 4 * 4096])] := by decide +kernel

/-- R383, R410: the broadcast queue serves a collective whose other members a record of a root entry names. -/
theorem test_cast_set :
    (let n := { Net.reset with cal := some { aCal with s := 1, entries := List.replicate 64 { v := true, bcast := true, peer := 0, plan := 0 }, bcasts := [{ slot := 0, port := 2, members := [1, 2, 3] }] },
                               ports := List.replicate 64 { Port.reset with st := .active }, dropped := [(2, 3)] }
     let s := { State.reset with net := n }
     castSet s [1, 2] = some [1, 2] ∧ castSet s [1, 3] = none ∧ castSet s [4] = none) := by decide +kernel

/-! Clauses that came with the second review. -/

/-- R120: every compare and the fused minor need capability bit 1, and give their value with it. -/
theorem witness_Fp64Arithmetic_rest : (∀ i ∈ ([.deq false 0 1 12 16, .dlt false 0 1 12 16, .dle false 0 1 12 16, .duno false 0 1 12 16, .dfma false 8 12 16,
      .dsqrt false 8 12] : List Instr), trapAfter (exec i noCaps) = some (2, 0x10000)) ∧
    (let s := withRegs [(8, 0), (9, 0x3FF00000), (12, 0), (13, 0x40000000), (16, 0), (17, 0x40080000)]
     regAfter (exec (.dfma false 8 12 16) s) 9 = some 0x401C0000 ∧
     (thAfter (exec (.dlt false 0 1 12 16) s)).map (fun th => th.preds.getLsbD 1) = some true ∧
     (thAfter (exec (.deq false 0 1 12 16) s)).map (fun th => th.preds.getLsbD 1) = some false) := by decide +kernel

/-- R69, R367: PROGRESS and the calendar's registers before a calendar stands; SYS_RINGS reads a bank that locks. -/
theorem witness_SrdReadsTheMap_calendar : regAfter (exec (.srd false 8 0 0x50) plain) 8 = some 0 ∧
    [(0, 0), (3, 0), (4, 1), (5, 4000), (6, 96), (7, 0x80000000), (8, 0)].all (fun x => (thAfter (exec (.srd false 8 2 (BitVec.ofNat 7 x.1)) plain)).map (fun th => th.infl.map (fun p => p.st))
      == some [.ready [some (BitVec.ofNat 32 x.2)]]) = true ∧
    (let s := rig id id id (fun s => { s with net := { s.net with ports := s.net.ports.set 5 { Port.reset with cur := { Bank.dark with st := .locked } } } })
     (thAfter (exec (.srd false 8 2 8) s)).map (fun th => th.infl.map (fun p => p.st)) = some [.ready [some 8]]) := by decide +kernel

/-- R152: GRFADD adds in the tree of lanes; a lane that takes no part is skipped. -/
theorem witness_RendezvousResults_tree :
    [part 1 8 false 0x3F800000 0 7, part 31 8 false 0x40000000 0 6].all (fun x =>
      rendezResult [part 1 8 false 0x3F800000 0 7, part 31 8 false 0x40000000 0 6] x == 0x40400000) = true ∧
    treeNode [part 1 8 false 0x3F800000 0 7, part 31 8 false 0x40000000 0 6] 5 0 = some 0x40400000 ∧
    rendezResult [part 0 8 false 0x4B800000 0 1, part 1 8 false 0x3F800000 0 2, part 2 8 false 0x3F800000 0 3, part 3 8 false 0x3F800000 0 4] (part 0 8 false 0x4B800000 0 1) =
      0x4B800001 := by decide +kernel

/-- R205, R206: LDX.C of a tile and STX take the trap of the first check that fails. -/
theorem witness_LoadsAndStoresIssue_traps :
    trapAfter (exec (.ldxC false 4 8 12 16) (withRegs [(12, 0x80000002), (13, 0x50000000), (16, 0)])) = some (4, 0x10000) ∧
    trapAfter (exec (.stx false 4 8 12 16) (withRegs [(12, 0x20002), (13, 0), (16, 0)])) = some (4, 0x10000) := by decide +kernel

/-- R161: a reserved tag with capability bit 9, and without it tag 0x4. -/
theorem witness_AccessChecksAtIssue_tags : tagOk 0x6000000000000000 = false ∧ (ctx plain).l.has 9 = true ∧ (ctx noCaps).l.has 9 = false ∧ tagOk 0x4FFFFFFFFFFFFFFF = true := by
  decide +kernel

/-- R260: each matrix word by a group without the baton raises BATON. -/
theorem witness_MatrixWords_baton : (∀ i ∈ ([.mma8s false 80 84 88, .mma8gs false 80 84 88, .mzero false 80, .mldc false 80 84 88, .mstc false 80 84 88] : List Instr),
    (trapAfter (exec i (withUni [(5, 0x10000000), (6, 1), (9, 0x10000000), (10, 1)]))).map Prod.fst = some 0x1B) := by decide +kernel

/-- R442: a prefetch of a poisoned unit is counted. -/
theorem witness_FencesAndCacheWords_poison :
    (after (exec (.pref false 12) { pointers with poison := [(0x20000 / 64, 0)] })).map (fun s => (s.rdc, s.l1, (s.errs.getD 0 (0, 0)).1)) = some ([], [], 1) := by decide +kernel

/-- A cached line, one byte of which differs from memory. -/
def cachedLine (holder : Nat) : Copy := { holder := holder, asid := 1, line := 0x20000000 / 128, kind := 1, place := hbmKey 0 0x20000000 / 128, data := 0x55 :: List.replicate 127 0x66 }
def loadSO : Pend := { loadIn 5 with loc := some (.phys 0 0x20000000 0) }
def loadScratch : Pend := pend 5 (.vec 8 1) (.load 4 false false) 0x1000000000000000 (some .scratch) .sent
def loadHost : Pend := pend 5 (.vec 8 2) (.load 5 false false) 0x2000000000000000 (some .host) .sent

/-- R33, R171: a line that stands in L1 gives the copy's bytes, an acquire and SO memory those at the point of coherence; scratchpad and host memory their own. -/
theorem witness_ResultsReachTheirRegisters_kinds :
    (let s := holding [loadSO]; orderOk s (ctx s).l (ctx s).g (ctx s).th loadSO = true ∧ heldAhead s (ctx s).g loadSO (hbmKey 0 0x20000000) = false ∧
      regAfter (exec (.resultDelivery t0 5 none) s) 9 = some 0 ∧ regAfter (exec (.resultDelivery t0 5 none) s) 8 = some 0x800F) ∧
    (let s := { holding [loadIn 4] with l1 := [cachedLine 0] }; (ctx s).g.core = 0 ∧ (ctx s).l.asid = 1 ∧ findCopy s.l1 0 1 (0x20000000 / 128) = some (cachedLine 0) ∧
      (cachedLine 0).data.length = 128 ∧ regAfter (exec (.resultDelivery t0 5 none) s) 8 = some 0x66666655) ∧
    (let p : Pend := { loadIn 4 with op := .load 4 true false }
     let s := { holding [p] with l1 := [cachedLine 0] }; regAfter (exec (.resultDelivery t0 5 none) s) 8 = some 0x800F) ∧
    (let s := holding [loadScratch]; loadScratch.key (ctx s).l (ctx s).g = localKey (ctx s).l (ctx s).g 0x1000000000000000 ∧
      ((localKey (ctx s).l (ctx s).g 0x1000000000000000).map (lineState s)) = some 0 ∧ orderOk s (ctx s).l (ctx s).g (ctx s).th loadScratch = true ∧
      regAfter (exec (.resultDelivery t0 5 none) s) 8 = some 0) ∧
    (let s := { holding [loadHost] with mem := memWrite (holding [loadHost]).mem [1, 2, 3, 4, 5] (hostKey 0) }
     loadHost.key (ctx s).l (ctx s).g = some (hostKey 0) ∧ poisoned s (hostKey 0) 8 = false ∧ regAfter (exec (.resultDelivery t0 5 none) s) 8 = some 0x04030201 ∧
      regAfter (exec (.resultDelivery t0 5 none) s) 9 = some 5) := by decide +kernel

theorem witness_WritesArePerformed_flush : wcbWaits (holding [storeIn]) (ctx (holding [storeIn])).g storeIn = false ∧
    wcbWaits (holding [atomicIn]) (ctx (holding [atomicIn])).g atomicIn = false := by decide +kernel

/-- R438, R439: the version, a measurement by its index, and a request that the device does not support. -/
theorem witness_HostCommandsComplete_spdm :
    (let s := State.reset.modCtl (fun c => { c with measured := [List.replicate 64 7] })
     let req : List Byte := [0x13, 0xE0, 0, 1] ++ List.replicate 8 0
     (attestReply s req).take 5 = [0x13, 0x60, 0, 0, 1] ∧ ((attestReply s req).drop 15).take 64 = List.replicate 64 7 ∧
     attestReply s [0x10, 0x84, 0, 0] = [0x10, 4, 0, 0, 0, 1, 0, 0x13] ∧ attestReply s [0x13, 0xEA, 0, 0] = [0x13, 0x7F, 7, 0xEA] ∧
     attestReply s ([0x13, 0xE0, 0, 2] ++ List.replicate 8 0) = [0x13, 0x7F, 7, 0xE0]) := by decide +kernel

/-- R247, R432: a host copy that host memory does not answer ends with 9. -/
theorem witness_TheOutsideActs_timeouts :
    (let c : HostCmd := { id := 5, queue := none, agent := 0, index := 0, words := cmdWords [(0, 0x10002), (0x0C, 0x20000000), (0x10, 0x30000), (0x18, 16)], wait := .copy [] }
     let s := serving (fun s => { s with cmds := [c], copies := [] })
     addrTag (c.ptr 0x08) = 2 ∧ (s.pend? t0 5).isNone = true ∧ done (exec (.completionTimeout t0 5) s) = some [(0x80000000, 9)] ∧
     early (exec (.completionTimeout t0 5) { s with cmds := [{ c with words := (cmdWords [(0, 0x10002), (8, 0x20000), (0x10, 0x30000)]) }] }) = true) := by decide +kernel

/-- Every core of the die's six clusters is taken by a team of launch 1; the thread of team 0 waits in TKNEXT. -/
def idleDie : State := { fullDie with recs := [{ aRec with queue := 1 }] }.modThread t0 (fun th => { th with hz := true, infl := [tknextIn] })

/-- R147: a set whose threads all wait in TKNEXT goes for a launch that waits; a set whose thread goes on does not. -/
theorem witness_SchedulerSteps_swap : (nextWaiting idleDie 0).map (fun w => w.ref.id) = some 2 ∧
    (after (exec (.blockedTeamSwap { die := 0, id := 1 } 0) idleDie)).map (fun s => s.groups.map (fun g => g.saving)) = some [true] ∧
    early (exec (.blockedTeamSwap { die := 0, id := 1 } 0) fullDie) = true := by decide +kernel

theorem witness_QueriesAreAnswered_held : engineHeld (querier 2 4 false []) 0 (scratchKey 0 0) none = false := by decide +kernel

theorem witness_SchedulerSteps_pool : (theSet setSaving).any (fun u => savable setSaving u && decide (poolUsed setSaving 0 ≤ setSaving.ctl.config.savePool * 2 ^ 30)) = true ∧
    (theSet { setSaving with ctl := { setSaving.ctl with config := { setSaving.ctl.config with savePool := 0 } } }).any (fun u =>
      decide (0 < poolUsed { setSaving with ctl := { setSaving.ctl with config := { setSaving.ctl.config with savePool := 0 } } } u.launch.ref.die)) = true ∧
    (after (exec (.teamSave { die := 0, id := 1 } 0) { setSaving with ctl := { setSaving.ctl with config := { setSaving.ctl.config with savePool := 0 } } })).map
      (fun s => s.groups.map (fun g => (g.saving, g.resident))) = some [(false, true)] := by decide +kernel
end Sys2Proof.Tests
end

section
/-! What reaches the part from outside (O53): the register rules (R5, R427), the debugger's halt (R356), the invalidation (R177), BAR4 (R429), bring-up
(R436), the clock and the coolant (R440), host memory that does not answer (R162), poison (R442). -/
namespace Sys2Proof.Outside
open Sys2Proof.Machine Sys2Proof.Laws

/-! Where a register lies (R427). -/

/-- The fields of an offset in the block of a die: the number of the block, the die, the register. -/
theorem die_offset_fields {base b die o : Nat} (hb : base = b * 0x10000) (hd : die < 4) (ho : o < 0x1000) (h4 : o % 4 = 0) :
    (base + o + 0x1000 * die) / 0x10000 = b ∧ (base + o + 0x1000 * die) / 0x1000 % 16 = die ∧
      (base + o + 0x1000 * die) % 0x1000 = o ∧ (base + o + 0x1000 * die) % 4 = 0 := by
  omega

theorem regAt_sched {die o : Nat} (hd : die < 4) (ho : o < 0x1000) (h4 : o % 4 = 0) : regAt (0x10000 + o + 0x1000 * die) = .sched die o := by
  obtain ⟨hblock, hunit, hlow, hword⟩ := die_offset_fields (base := 0x10000) (b := 1) rfl hd ho h4
  simp only [regAt, hblock, hunit, hlow, hword, ne_eq, not_true_eq_false, if_false, if_pos hd]

theorem regAt_dbg {die o : Nat} (hd : die < 4) (ho : o < 0x1000) (h4 : o % 4 = 0) : regAt (0x20000 + o + 0x1000 * die) = .dbg die o := by
  obtain ⟨hblock, hunit, hlow, hword⟩ := die_offset_fields (base := 0x20000) (b := 2) rfl hd ho h4
  simp only [regAt, hblock, hunit, hlow, hword, ne_eq, not_true_eq_false, if_false, if_pos hd]

/-- The debug registers lie in one range of BAR0. -/
theorem regAt_dbg_range {off d o : Nat} (h : regAt off = .dbg d o) : 0x20000 ≤ off ∧ off < 0x24000 := by
  dsimp only [regAt] at h
  repeat' split at h
  all_goals cases h
  omega

/-! Who may write a register (R5, R427, R437). -/

theorem mayWrite_of_owner {s : State} {a : Agent} (h : s.ctl.owner = a.code) (off : Nat) : mayWrite s a off = true := by
  simp [mayWrite, h]

theorem mayWrite_of_stranger {s : State} {a : Agent} (h : s.ctl.owner ≠ a.code) (h3 : s.ctl.owner ≠ 3 ∨ a ≠ .host) (off : Nat) :
    mayWrite s a off = false := by
  rcases h3 with h3 | h3 <;> simp [mayWrite, h, h3]

theorem writeReg_of_fatal {s : State} {off : Nat} (hf : s.ctl.fatal = true) (h : off ≠ 0x24) (a : Agent) (v : Word) : writeReg s a off v = s :=
  if_pos (.inr ⟨hf, h⟩)

section
variable {s : State} (hf : s.ctl.fatal = false) (hs : 1 ≤ s.ctl.stage)
include hf hs

/-- A module that runs and has left stage 0 asks only who writes. -/
theorem answers_writes (p : Prop) (off : Nat) : ¬ ((s.ctl.stage = 0 ∧ p) ∨ (s.ctl.fatal = true ∧ off ≠ 0x24)) := by
  rintro (⟨h, -⟩ | ⟨h, -⟩)
  · omega
  · simp [hf] at h

theorem writeReg_by_owner {a : Agent} (ho : s.ctl.owner = a.code) (off : Nat) (v : Word) : writeReg s a off v = putReg s off v :=
  (if_neg (answers_writes hf hs _ off)).trans (if_pos (mayWrite_of_owner ho off))

section
variable {a : Agent} (ho : s.ctl.owner ≠ a.code) (h3 : s.ctl.owner ≠ 3 ∨ a ≠ .host)
include ho h3

theorem writeReg_by_stranger {off : Nat} (h : off < 0x20000 ∨ 0x24000 ≤ off) (v : Word) : writeReg s a off v = s := by
  refine (if_neg (answers_writes hf hs _ off)).trans ((if_neg (ne_true_of_eq_false (mayWrite_of_stranger ho h3 off))).trans ?_)
  split
  · rename_i e
    have := regAt_dbg_range e
    omega
  · rfl

theorem writeReg_dbg_by_stranger {off d o : Nat} (h : regAt off = .dbg d o) (v : Word) : writeReg s a off v = setResult s d 4 := by
  refine (if_neg (answers_writes hf hs _ off)).trans ((if_neg (ne_true_of_eq_false (mayWrite_of_stranger ho h3 off))).trans ?_)
  rw [h]

end

end

theorem putReg_sched {off die o : Nat} (h : regAt off = .sched die o) (s : State) (v : Word) : putReg s off v = writeSched s die o v := by
  simp only [putReg, h]

/-- The registers of a die after their own change. -/
theorem dies_modDie {s : State} {die : Nat} {d : DieRegs} (h : s.dies[die]? = some d) (f : DieRegs → DieRegs) :
    (s.modDie die f).dies[die]? = some (f d) := by
  simp [State.modDie, h]

/-! Halt (R355, R356). -/

theorem ofThread_isSome_modThread (s : State) (t u : Tid) (f : Thread → Thread) :
    ((s.modThread t f).ofThread u).isSome = (s.ofThread u).isSome := by
  unfold State.ofThread State.modThread
  rw [group?_modGroup s t.gid u.gid (fun g => { g with threads := g.threads.modify t.lane f }) (fun _ => rfl)]
  cases s.group? u.gid with
  | none => rfl
  | some g =>
    simp only [Option.map_some, Option.isSome_map]
    split <;> rfl

/-- A halt leaves the state or changes only its own thread. -/
theorem haltThread_eq (w : Nat) (s : State) (t : Tid) : haltThread w s t = s ∨ ∃ f, haltThread w s t = s.modThread t f := by
  unfold haltThread
  split
  · split
    · exact .inl rfl
    · exact .inr ⟨_, rfl⟩
  · exact .inl rfl

theorem thread?_haltThread_other {t u : Tid} (h : u ≠ t) (w : Nat) (s : State) : (haltThread w s t).thread? u = s.thread? u := by
  rcases haltThread_eq w s t with e | ⟨f, e⟩ <;> rw [e]
  exact thread?_modThread_other s t u f h

theorem ofThread_isSome_haltThread (w : Nat) (s : State) (t u : Tid) : ((haltThread w s t).ofThread u).isSome = (s.ofThread u).isSome := by
  rcases haltThread_eq w s t with e | ⟨f, e⟩ <;> rw [e]
  exact ofThread_isSome_modThread s t u f

/-- A halted thread is not halted again. -/
theorem haltThread_of_halted {s : State} {t : Tid} {th : Thread} (ht : s.thread? t = some th) (hh : th.halted = true) (w : Nat) :
    haltThread w s t = s := by
  unfold haltThread
  rw [ht]
  split
  · rename_i e
    cases e
    exact if_pos (.inr hh)
  · rfl

/-- What a halt makes of a thread that ran: it is halted, for the given reason, and its registers stay (R356). -/
def HaltOf (w : Nat) (th th' : Thread) : Prop :=
  th'.halted = true ∧ th'.why = w ∧ th'.pc = th.pc ∧ th'.regs = th.regs ∧ th'.preds = th.preds

theorem haltThread_halts {s : State} {t : Tid} {th : Thread} (ht : s.thread? t = some th) (hh : th.halted = false) (hx : th.exited = false)
    (ho : (s.ofThread t).isSome = true) (w : Nat) : ∃ th', (haltThread w s t).thread? t = some th' ∧ HaltOf w th th' := by
  obtain ⟨⟨l, g⟩, hlg⟩ := Option.isSome_iff_exists.mp ho
  simp only [haltThread, hlg, ht, hh, hx, Bool.false_eq_true, or_self, if_false]
  refine ⟨?th', ?eq, ?halt⟩
  case eq =>
    rw [thread?_modThread, ht]
    rfl
  case halt => exact ⟨rfl, rfl, rfl, rfl, rfl⟩

theorem foldl_haltThread_of_halted {t : Tid} {th : Thread} (hh : th.halted = true) (w : Nat) (ts : List Tid) {s : State}
    (ht : s.thread? t = some th) : (ts.foldl (haltThread w) s).thread? t = some th := by
  induction ts generalizing s with
  | nil => exact ht
  | cons u us ih =>
    apply ih
    by_cases e : t = u
    · subst e
      rw [haltThread_of_halted ht hh]
      exact ht
    · rw [thread?_haltThread_other e]
      exact ht

/-- Every thread of a list that is halted in turn ends halted. -/
theorem foldl_haltThread_halts {t : Tid} {th : Thread} (hh : th.halted = false) (hx : th.exited = false) (w : Nat) (ts : List Tid) (hm : t ∈ ts)
    {s : State} (ht : s.thread? t = some th) (ho : (s.ofThread t).isSome = true) :
    ∃ th', (ts.foldl (haltThread w) s).thread? t = some th' ∧ HaltOf w th th' := by
  induction ts generalizing s with
  | nil => cases hm
  | cons u us ih =>
    by_cases e : t = u
    · subst e
      obtain ⟨th', h1, h2⟩ := haltThread_halts ht hh hx ho w
      exact ⟨th', foldl_haltThread_of_halted h2.1 w us h1, h2⟩
    · refine ih ((List.mem_cons.mp hm).resolve_left e) ?_ ?_
      · rw [thread?_haltThread_other e]
        exact ht
      · rw [ofThread_isSome_haltThread]
        exact ho

/-- A write of DBG_CTL with HALT alone sets the fields, then halts the scope. -/
theorem writeDbgCtl_halt {v : Word} (hgo : bit v 31 = false) (hstep : bit v 26 = false) (hhalt : bit v 30 = true) (s : State) (die : Nat) :
    writeDbgCtl s die v =
      let s1 := s.modDie die (fun d => { d with dbgScope := BitVec.ofNat 2 (bits v 29 28), dbgBrkArm := bit v 27, dbgResult := 0 })
      (scopeThreads s1 die).foldl (haltThread 1) s1 := by
  simp only [writeDbgCtl, hgo, hstep, hhalt, Bool.false_eq_true, if_false, if_true]

/-! BAR4 (R429). -/

/-- A fill of the MTLB changes nothing else. -/
theorem fillMtlb_eq (s : State) (die asid v : Nat) : ∃ m, fillMtlb s die asid v = { s with mtlb := m } := by
  unfold fillMtlb
  split
  · exact ⟨s.mtlb, rfl⟩
  · split
    · exact ⟨_, rfl⟩
    · exact ⟨s.mtlb, rfl⟩

theorem memByte_pocWrite {s : State} (h : Memory.wf s.mem = true) (byGid : Option Nat) (key : Nat) (bs : List Byte) (b : Nat) :
    memByte (pocWrite s byGid key bs).mem b = if key ≤ b ∧ b < key + bs.length then bs.getD (b - key) 0 else memByte s.mem b :=
  memByte_memWrite h bs key b

section
variable {s : State} (hf : s.ctl.fatal = false) (hr : s.ctl.recovery = false)
include hf hr

/-- The window is served while the module runs. -/
theorem bar4Dead_eq_false : bar4Dead s = false := by simp [bar4Dead, hf, hr]

theorem exec_bar4Read_closed {off n : Nat} (hb : bar4Form off n = true) (he : s.ctl.bar4En = false) :
    exec (.bar4Read off n) s = .next { bar4Refused s with bar4 := { status := 2, data := [] } } := by
  change execBar4Read off n s = _
  simp [execBar4Read, hb, bar4Dead_eq_false hf hr, bar4Key, bar4Count, he]

theorem exec_bar4Write_closed {off : Nat} {data : List Byte} (hb : bar4Form off data.length = true) (he : s.ctl.bar4En = false) :
    exec (.bar4Write off data) s = .next (bar4Refused s) := by
  change execBar4Write off data s = _
  simp [execBar4Write, hb, bar4Dead_eq_false hf hr, bar4Key, bar4Count, he]

/-- A read that the translation lets through delivers the bytes, and says whether they are poisoned. -/
theorem exec_bar4Read_served {off n : Nat} (hb : bar4Form off n = true) {a : DWord} {k : Nat} (hk : bar4Key s off .read = some (a, k)) :
    ∃ s', exec (.bar4Read off n) s = .next s' ∧
      s'.bar4 = { status := if poisoned s k n = true then 3 else 1, data := memRead s.mem n k } ∧ s'.mem = s.mem ∧ s'.groups = s.groups := by
  obtain ⟨m, hm⟩ := fillMtlb_eq s (addrDie a) s.ctl.bar4Asid.toNat (addrOff a)
  change ∃ s', execBar4Read off n s = .next s' ∧ _
  simp only [execBar4Read, hb, bar4Dead_eq_false hf hr, hk, hm, Bool.true_eq_false, Bool.false_eq_true, if_false]
  by_cases hp : poisoned s k n = true
  · exact ⟨_, if_pos hp, by simp only [hp, if_true], rfl, rfl⟩
  · exact ⟨_, if_neg hp, by simp only [hp, if_false, Bool.false_eq_true], rfl, rfl⟩

/-- A write that the translation lets through puts its bytes where the translation says. -/
theorem exec_bar4Write_served {off : Nat} {data : List Byte} (hb : bar4Form off data.length = true) {a : DWord} {k : Nat}
    (hk : bar4Key s off .write = some (a, k)) (hw : Memory.wf s.mem = true) :
    ∃ s', exec (.bar4Write off data) s = .next s' ∧
      ∀ b, memByte s'.mem b = if k ≤ b ∧ b < k + data.length then data.getD (b - k) 0 else memByte s.mem b := by
  obtain ⟨m, hm⟩ := fillMtlb_eq s (addrDie a) s.ctl.bar4Asid.toNat (addrOff a)
  change ∃ s', execBar4Write off data s = .next s' ∧ _
  simp only [execBar4Write, hb, bar4Dead_eq_false hf hr, hk, hm, Bool.true_eq_false, Bool.false_eq_true, if_false]
  exact ⟨_, rfl, memByte_pocWrite (s := { s with mtlb := m }) hw none k data⟩

end

/-- The key that an enabled window reaches is the one that the translation gives. -/
theorem bar4Key_of_translate {s : State} (he : s.ctl.bar4En = true) {off : Nat} {p : Perm} {lvl e : Nat} {a : DWord}
    (ha : a = s.ctl.bar4Base + BitVec.ofNat 64 off) (ht : translate s (addrDie a) s.ctl.bar4Asid.toNat (addrOff a) p = .ok (lvl, e)) :
    bar4Key s off p = some (a, hbmKey (addrDie a) (physOf lvl e (addrOff a))) := by
  subst ha
  simp [bar4Key, he, ht]

/-! Bring-up (R436, R438). -/

/-- What the check of a stage says, of the stages whose end a check decides: 0, 1 and 5 (R19, R438). -/
def stageGood (s : State) (k : Nat) : Bool := if k = 0 then s.ctl.fwSigned.1 else if k = 1 then recordOk s.ctl.config else s.ctl.fwSigned.2

theorem stageCheck_of_checked {k : Nat} (h : k = 0 ∨ k = 1 ∨ k = 5) (s : State) : stageCheck s k = some (stageGood s k) := by
  rcases h with rfl | rfl | rfl <;> rfl

theorem stageCheck_of_unchecked {k : Nat} (h : ¬ (k = 0 ∨ k = 1 ∨ k = 5)) (s : State) : stageCheck s k = none := by
  unfold stageCheck
  split
  · exact absurd (.inl rfl) h
  · exact absurd (.inr (.inl rfl)) h
  · exact absurd (.inr (.inr rfl)) h
  · rfl

/-- The measurements after the work of the current stage (R438). -/
def addMeasurements (s : State) : State := s.modCtl (fun c => { c with measured := c.measured ++ stageDigests s s.ctl.stage })

/-- The state in the next stage, with the measurements of the one that ended. -/
def nextStage (s : State) : State := (addMeasurements s).modCtl (fun c => { c with stage := s.ctl.stage + 1 })

/-- The stacks after stage 3: no byte written, no unit poisoned (R436). -/
def scrub (s : State) : State :=
  { s with mem := s.mem.filter (fun c => !isHbm c.1), poison := s.poison.filter (fun u => !isHbm (u.1 * 64)) }

/-- After the scrub stack memory reads 0, and every other byte as before. -/
theorem memByte_scrub {s : State} (hw : Memory.wf s.mem = true) (a : Nat) :
    memByte (scrub s).mem a = if isHbm a = true then 0 else memByte s.mem a := by
  have kept : ∀ x, (a, x) ∈ (scrub s).mem ↔ (a, x) ∈ s.mem ∧ isHbm a = false := by
    intro x
    simp [scrub]
  split
  · rename_i ha
    refine memByte_of_not_mem (fun b hb => ?_)
    simp [((kept b).mp hb).2] at ha
  · rename_i ha
    rw [memByte_eq (m := (scrub s).mem) (wf_filter _ hw)]
    rcases (memByte_eq hw a _).mp rfl with hm | ⟨h0, hn⟩
    · exact .inl ((kept _).mpr ⟨hm, by simpa using ha⟩)
    · exact .inr ⟨h0, fun x hx => hn x ((kept x).mp hx).1⟩

section
variable {s : State} (h7 : s.ctl.stage < 7) (hf : s.ctl.fatal = false) (hr : s.ctl.recovery = false)
include h7 hf hr

/-- While bring-up is under way, the one thing that forbids the end of a stage is its check. -/
theorem bringUp_disabled_iff (ok : Bool) :
    (7 ≤ s.ctl.stage ∨ s.ctl.fatal = true ∨ s.ctl.recovery = true ∨ (stageCheck s s.ctl.stage).any (fun x => x != ok) = true) ↔
      (s.ctl.stage = 0 ∨ s.ctl.stage = 1 ∨ s.ctl.stage = 5) ∧ ok ≠ stageGood s s.ctl.stage := by
  by_cases hc : s.ctl.stage = 0 ∨ s.ctl.stage = 1 ∨ s.ctl.stage = 5
  · simp only [stageCheck_of_checked hc, hf, hr, Nat.not_le.mpr h7, hc, Option.any_some, bne_iff_ne, Bool.false_eq_true, false_or, true_and]
    exact ne_comm
  · simp only [stageCheck_of_unchecked hc, hf, hr, Nat.not_le.mpr h7, hc, Option.any_none, Bool.false_eq_true, false_or, false_and]

theorem exec_bringUpStage_against_check {ok : Bool} (hc : s.ctl.stage = 0 ∨ s.ctl.stage = 1 ∨ s.ctl.stage = 5)
    (hg : ok ≠ stageGood s s.ctl.stage) : exec (.bringUpStage ok) s = .fault .notEnabled :=
  if_pos ((bringUp_disabled_iff h7 hf hr ok).mpr ⟨hc, hg⟩)

theorem exec_bringUpStage_pass (hg : ¬ (s.ctl.stage = 0 ∨ s.ctl.stage = 1 ∨ s.ctl.stage = 5) ∨ stageGood s s.ctl.stage = true) :
    exec (.bringUpStage true) s = .next (if s.ctl.stage = 3 then scrub (nextStage s) else nextStage s) := by
  refine (if_neg ?_).trans rfl
  rw [bringUp_disabled_iff h7 hf hr]
  rintro ⟨hc, hn⟩
  exact hg.elim (fun h => h hc) (fun h => hn h.symm)

/-- A failed check of stage 0, 1 or 5 leads to recovery (log 68). -/
theorem exec_bringUpStage_recovery (hc : s.ctl.stage = 0 ∨ s.ctl.stage = 1 ∨ s.ctl.stage = 5) (hg : stageGood s s.ctl.stage = false) :
    exec (.bringUpStage false) s = .next ((addMeasurements s).modCtl (fun c => { c with recovery := true })) := by
  refine (if_neg ?_).trans ?_
  · rw [bringUp_disabled_iff h7 hf hr]
    exact fun h => h.2 hg.symm
  · rcases hc with e | e | e <;> simp only [addMeasurements, e, Bool.false_eq_true, if_false]

/-- A failed link of stage 2 or stack of stage 3 leads to FATAL (log 68). -/
theorem exec_bringUpStage_fatal {cause : Nat} (hk : s.ctl.stage = 2 ∧ cause = 1 ∨ s.ctl.stage = 3 ∧ cause = 3) :
    exec (.bringUpStage false) s = .next (setFatal (addMeasurements s) cause) := by
  refine (if_neg ?_).trans ?_
  · rw [bringUp_disabled_iff h7 hf hr]
    omega
  · rcases hk with ⟨e, rfl⟩ | ⟨e, rfl⟩ <;> simp only [addMeasurements, e, Bool.false_eq_true, if_false]

end

/-! Invalidation (R177, R428), the coolant and the clock (R440), host memory (R162), poison (R442). -/

/-- No entry and no line of an address space is left. -/
def dropAsid (s : State) (asid : Nat) : State :=
  { s with mtlb := s.mtlb.filter (fun m => m.asid != asid), l1 := s.l1.filter (fun x => x.asid != asid), rdc := s.rdc.filter (fun x => x.asid != asid) }

theorem mem_mtlb_dropAsid (s : State) (asid : Nat) (m : Mtlb) : m ∈ (dropAsid s asid).mtlb ↔ m ∈ s.mtlb ∧ m.asid ≠ asid := by
  simp [dropAsid]

theorem asid_ne_of_mem_dropAsid {s : State} {asid : Nat} {x : Copy} (h : x ∈ (dropAsid s asid).l1 ++ (dropAsid s asid).rdc) : x.asid ≠ asid := by
  simp only [dropAsid, List.mem_append, List.mem_filter, bne_iff_ne] at h
  exact h.elim And.right And.right

theorem exec_tlbinvComplete_all {s : State} (hb : s.ctl.tlbBusy = true) (ha : s.ctl.tlbAll = true) (hn : asidBusy s s.ctl.tlbAsid.toNat = false) :
    exec .tlbinvComplete s = .next ((dropAsid s s.ctl.tlbAsid.toNat).modCtl (fun c => { c with tlbBusy := false })) := by
  change execTlbinvComplete s = _
  simp only [execTlbinvComplete, hb, ha, hn, Bool.true_eq_false, Bool.false_eq_true, if_false, if_true]
  rfl

/-- The entries that an invalidation of a page takes away. -/
def pageEntry (s : State) (m : Mtlb) : Bool :=
  m.die == addrDie s.ctl.tlbAt && m.asid == s.ctl.tlbAsid.toNat && m.page == addrOff s.ctl.tlbAt / 2 ^ pageBits m.lvl

theorem exec_tlbinvComplete_page {s : State} (hb : s.ctl.tlbBusy = true) (ha : s.ctl.tlbAll = false)
    (hn : pageBusy s s.ctl.tlbAsid.toNat (addrDie s.ctl.tlbAt) (addrOff s.ctl.tlbAt) 2 = false) :
    exec .tlbinvComplete s = .next ((dropPage { s with mtlb := s.mtlb.filter (fun m => !pageEntry s m) } (some s.ctl.tlbAsid.toNat)
      (addrDie s.ctl.tlbAt) (addrOff s.ctl.tlbAt) 2).modCtl (fun c => { c with tlbBusy := false })) := by
  change execTlbinvComplete s = _
  simp only [execTlbinvComplete, hb, ha, hn, Bool.true_eq_false, Bool.false_eq_true, if_false]
  rfl

theorem coolantBad_iff (s : State) : coolantBad s = true ↔ 500 < s.ctl.inlet.toNat ∨ ∃ t, s.ctl.lowSince = some t ∧ t + 10 ^ 9 ≤ s.ns := by
  simp [coolantBad, Option.any_eq_true]

theorem coolantGood_iff (c : Ctl) : coolantGood c = true ↔ c.inlet.toNat ≤ 400 ∧ 300 ≤ c.flow.toNat := by
  simp [coolantGood]

theorem satAdd_toNat (x : Word) (n : Nat) : (satAdd x n).toNat = min (x.toNat + n) (2 ^ 32 - 1) := by
  simp only [satAdd, BitVec.toNat_ofNat]
  omega

/-- The clock after a step up or down, in MHz. -/
def clockTarget (s : State) (up : Bool) : Nat := if up = true then s.ctl.clkNow.toNat + 100 else s.ctl.clkNow.toNat - 100

/-- The clock may take a step: it stays between its limits, and rises only while the coolant is within its own (R440, log 103). -/
def ClockMay (s : State) (up : Bool) : Prop :=
  900 ≤ clockTarget s up ∧ clockTarget s up ≤ 1800 ∧ (up = true → s.ctl.inlet.toNat ≤ 400 ∧ 300 ≤ s.ctl.flow.toNat)

theorem exec_clockStep_enabled {s : State} {up : Bool} (h : ClockMay s up) : exec (.clockStep up) s =
    .next (s.modCtl (fun c => { c with clkNow := BitVec.ofNat 16 (clockTarget s up), clkSteps := satAdd c.clkSteps 1 })) := by
  obtain ⟨hlo, hhi, hcool⟩ := h
  exact if_pos ⟨hlo, hhi, fun hu => (coolantGood_iff _).mpr (hcool hu)⟩

theorem exec_clockStep_refused {s : State} {up : Bool} (h : ¬ ClockMay s up) : exec (.clockStep up) s = .fault .notEnabled :=
  if_neg fun ⟨hlo, hhi, hcool⟩ => h ⟨hlo, hhi, fun hu => (coolantGood_iff _).mp (hcool hu)⟩

theorem toHost_iff (c : CopyCmd) :
    c.toHost = true ↔ addrTag c.src = 2 ∧ c.srcOk.length < c.units ∨ addrTag c.dst = 2 ∧ c.done.length < c.units := by
  simp [CopyCmd.toHost]

theorem exec_completionTimeout_access {s : State} {t : Tid} {id : Nat} {p : Pend} (hp : s.pend? t id = some p) :
    exec (.completionTimeout t id) s =
      if p.bound = false ∧ p.loc = some .host then .next (s.modThread t (fun th => th.refuse p (p.trap notPresent 3))) else .fault .notEnabled := by
  change execCompletionTimeout t id s = _
  simp only [execCompletionTimeout, hp]
  rfl

theorem exec_completionTimeout_copy {s : State} {t : Tid} {id : Nat} {c : CopyCmd} (hp : s.pend? t id = none)
    (hc : s.copies.find? (fun c => c.id == id && c.t == t) = some c) :
    exec (.completionTimeout t id) s = if c.st = .running ∧ c.fail = 0 ∧ c.toHost = true then
      .next { s with copies := s.copies.map (fun x => if x.id = id then { x with fail := 9 } else x) } else .fault .notEnabled := by
  change execCompletionTimeout t id s = _
  simp only [execCompletionTimeout, hp, hc]
  rfl

theorem exec_completionTimeout_command {s : State} {t : Tid} {id : Nat} {c : HostCmd} {done : List Nat} (hp : s.pend? t id = none)
    (hn : s.copies.find? (fun c => c.id == id && c.t == t) = none) (hc : s.cmds.find? (fun c => c.id == id) = some c) (hw : c.wait = .copy done) :
    exec (.completionTimeout t id) s =
      if addrTag (c.ptr 0x08) = 2 ∨ addrTag (c.ptr 0x10) = 2 then .next (completeCmd s c 0 0 9) else .fault .notEnabled := by
  change execCompletionTimeout t id s = _
  simp only [execCompletionTimeout, hp, hn, hc, hw]
  rfl

/-- A byte is poisoned if its unit is listed. -/
theorem poisoned_one_iff (s : State) (a : Nat) :
    poisoned s a 1 = true ↔ (isHbm a = true ∨ isHost a = true) ∧ ∃ u ∈ s.poison, u.1 = a / 64 := by
  have unit : ∀ u : Nat × Nat, (u.1 * 64 < a + 1 ∧ a < u.1 * 64 + 64) ↔ u.1 = a / 64 := fun u => by omega
  simp only [poisoned, Bool.and_eq_true, Bool.or_eq_true, List.any_eq_true, decide_eq_true_eq, unit]

/-- The state after a unit has become poisoned (R442). -/
def poisonUnit (s : State) (key : Nat) : State := { s with poison := (key / 64, 0) :: s.poison.filter (fun u => u.1 != key / 64) }

theorem exec_unitPoisoned {key : Nat} (h : key < 2 ^ 39 ∨ isHost key = true) (s : State) : exec (.unitPoisoned key) s = .next (poisonUnit s key) := by
  refine if_pos ?_
  simpa [isHbm] using h

theorem poisoned_poisonUnit {key : Nat} (h : key < 2 ^ 39 ∨ isHost key = true) (s : State) : poisoned (poisonUnit s key) key 1 = true := by
  rw [poisoned_one_iff]
  exact ⟨by simpa [isHbm] using h, _, List.mem_cons_self .., rfl⟩

theorem poisoned_poisonUnit_other {a key : Nat} (h : a / 64 ≠ key / 64) (s : State) : poisoned (poisonUnit s key) a 1 = poisoned s a 1 := by
  have same : (∃ u ∈ (poisonUnit s key).poison, u.1 = a / 64) ↔ ∃ u ∈ s.poison, u.1 = a / 64 := by
    constructor
    · rintro ⟨u, hu, e⟩
      rcases List.mem_cons.mp hu with rfl | hu
      · exact absurd e.symm h
      · exact ⟨u, (List.mem_filter.mp hu).1, e⟩
    · rintro ⟨u, hu, e⟩
      exact ⟨u, List.mem_cons_of_mem _ (List.mem_filter.mpr ⟨hu, by simp [e, h]⟩), e⟩
  rw [Bool.eq_iff_iff, poisoned_one_iff, poisoned_one_iff, same]

/-! The statement. -/

/-- Settles O53: each happening by its rule above; the state after it is written out, so that its frame is read off. -/
theorem theOutsideActs : Obligations.TheOutsideActs := by
  unfold Obligations.TheOutsideActs
  refine ⟨?doorbell, ?registerWrite, ?namedWrites, ?writers, fun s a off v hf h => writeReg_of_fatal hf h a v, ?halt, ?tlbinv, ?bar4, ?reset,
    ?bringUp, ?failures, ?stopped, fun _ _ => ⟨rfl, rfl, rfl, rfl, rfl⟩, ?clock, ?access, ?copies, ?poison⟩
  case doorbell =>
    intro s q x c hc hq
    refine ⟨_, if_pos hq, ?_, fun j hj => ?_, rfl, rfl⟩
    · simp [hc]
    · simp [Ne.symm hj]
  case registerWrite => exact fun s a off v h1 h2 => if_pos ⟨h1, h2⟩
  case namedWrites =>
    exact fun s a v => ⟨rfl, rfl, fun die hd => ⟨if_pos hd, if_pos hd, fun hb => if_pos ⟨hd, hb⟩, fun hb => if_pos ⟨hd, hb⟩, fun hb => if_pos ⟨hd, hb⟩⟩⟩
  case writers =>
    intro s a die v d hd hdie hf hs
    have sched : ∀ o, o < 0x1000 → o % 4 = 0 → s.ctl.owner = a.code → writeReg s a (0x10000 + o + 0x1000 * die) v = writeSched s die o v :=
      fun o h1 h2 ho => (writeReg_by_owner hf hs ho _ v).trans (putReg_sched (regAt_sched hd h1 h2) s v)
    have mgmt := fun (ho : s.ctl.owner = a.code) off => writeReg_by_owner hf hs ho off v
    refine ⟨fun ho => ⟨?_, ?_, sched 0x14 (by decide) rfl ho, fun hb => congrArg State.ctl ((mgmt ho 0x20).trans (if_neg (ne_true_of_eq_false hb))),
      fun hb => (mgmt ho 0x20).trans (if_pos hb), fun hv => (mgmt ho 0x24).trans (if_pos hv), fun hv => (mgmt ho 0x24).trans (if_neg hv)⟩,
      fun ho h3 => ⟨fun off h => writeReg_by_stranger hf hs ho h3 h v, ?_⟩⟩
    · rw [sched 0 (by decide) rfl ho]
      exact dies_modDie hdie _
    · rw [sched 8 (by decide) rfl ho]
      exact dies_modDie hdie _
    · rw [writeReg_dbg_by_stranger hf hs ho h3 (o := 4) (regAt_dbg hd (by decide) rfl)]
      exact dies_modDie hdie _
  case halt =>
    intro s die v hgo hstep hhalt s1 t th hm ht hh hx ho
    rw [writeDbgCtl_halt hgo hstep hhalt]
    exact foldl_haltThread_halts hh hx 1 _ hm ht ho
  case tlbinv =>
    intro s
    refine ⟨fun hb => if_pos hb, fun hb ha hn => ⟨_, exec_tlbinvComplete_all hb ha hn, rfl, mem_mtlb_dropAsid s _, fun x => asid_ne_of_mem_dropAsid, rfl, rfl⟩,
      fun hb ha hn => ⟨_, exec_tlbinvComplete_page hb ha hn, rfl, rfl, rfl, fun m hm hp => ?_⟩⟩
    · have := (List.mem_filter.mp hm).2
      simp [pageEntry, hp] at this
  case bar4 =>
    intro s off n data hb hl hf hr a asid
    subst hl
    exact ⟨fun he => ⟨_, exec_bar4Read_closed hf hr hb he, rfl, rfl, exec_bar4Write_closed hf hr hb he⟩,
      fun he => ⟨fun lvl e ht => exec_bar4Read_served hf hr hb (bar4Key_of_translate he rfl ht),
        fun lvl e ht hw => exec_bar4Write_served hf hr hb (bar4Key_of_translate he rfl ht) hw⟩⟩
  case reset => exact fun s => ⟨rfl, rfl, rfl, rfl, rfl, rfl, rfl, rfl⟩
  case bringUp =>
    intro s h7 hf hr told checked good
    refine ⟨fun hg => ⟨_, exec_bringUpStage_pass h7 hf hr hg, ?_, fun h3 => ?_, fun h3 hw b => ?_⟩,
      fun hc hg => ⟨_, exec_bringUpStage_recovery h7 hf hr hc hg, rfl, rfl⟩,
      fun ok hc hg => exec_bringUpStage_against_check h7 hf hr hc hg, fun k cause hm hk => ⟨_, exec_bringUpStage_fatal h7 hf hr ?_, rfl, rfl⟩⟩
    · split <;> rfl
    · rw [if_neg h3]
      rfl
    · rw [if_pos h3]
      exact memByte_scrub (s := nextStage s) hw b
    · subst hk
      simpa using hm
  case failures =>
    intro s hf
    refine ⟨if_neg (by simp [hf]), fun h => if_neg ?_, fun h => if_pos ?_⟩
    · simp [hf, (coolantBad_iff s).mpr h]
    · exact .inr (by simpa using mt (coolantBad_iff s).mp h)
  case stopped => exact fun s hf => ⟨if_pos (.inl hf), if_pos hf, fun ok => if_pos (.inr (.inl hf))⟩
  case clock =>
    intro s up f good
    refine ⟨fun h1 h2 h3 => ⟨_, exec_clockStep_enabled ⟨h1, h2, h3⟩, ?_, satAdd_toNat _ _, rfl, rfl⟩, fun h => exec_clockStep_refused ?_⟩
    · exact Nat.mod_eq_of_lt (Nat.lt_of_le_of_lt h2 (by decide))
    · rintro ⟨h1, h2, h3⟩
      rcases h with h | h | ⟨hu, hg⟩
      · exact Nat.not_le.mpr h h1
      · exact Nat.not_le.mpr h h2
      · exact hg (h3 hu)
  case access =>
    intro s t id p hp hb
    rw [exec_completionTimeout_access hp]
    exact ⟨fun h => if_pos ⟨hb, h⟩, fun h => if_neg (fun x => h x.2)⟩
  case copies =>
    intro s t id hp
    refine ⟨fun c hc => ?_, fun c done hn hc hw => ?_⟩
    · rw [exec_completionTimeout_copy hp hc]
      exact ⟨fun ⟨hst, hf, hh⟩ => if_pos ⟨hst, hf, (toHost_iff c).mpr hh⟩, fun h => if_neg fun ⟨hst, hf, hh⟩ => h ⟨hst, hf, (toHost_iff c).mp hh⟩⟩
    · rw [exec_completionTimeout_command hp hn hc hw]
      exact ⟨fun h => if_pos h, fun h1 h2 => if_neg (not_or.mpr ⟨h1, h2⟩)⟩
  case poison =>
    exact fun s key h => ⟨_, exec_unitPoisoned h s, poisoned_poisonUnit h s, rfl, rfl, fun a ha => poisoned_poisonUnit_other ha s⟩

end Sys2Proof.Outside
end

section
/-! The encoding (O54–O56): the word of an instruction decodes to it (R39–R45), no bit of a word that decodes is ignored (R42, R46), and words
written out. -/
namespace Sys2Proof.Laws.RoundTrip

/-- Each row of the opcode table by its own lemma, in the order of the constructors. -/
theorem statement_holds (i : Instr) : Statement i :=
  Instr.casesOn (motive := Statement) i
    nop exit trap brk srd swr wbase ubase yield join bar arrive bwait nap fmtld tret add sub mul mulh mulhu and or xor andn shl shr sar min
    max minu maxu add64 sub64 mul64 mad madw clz popc brev bfe bfi prmt rol div divu rem remu icmpEq icmpNe icmpLt icmpLe icmpGt icmpGe
    icmpLtu icmpLeu icmpGtu icmpGeu icmpEq64 icmpNe64 icmpLt64 icmpLtu64 icmpBtst addi andi ori xori shli shri sari roli shli64 shri64
    sari64 muli cmpi movw movh sel lea mov mov64 pmov pset sext zext fadd fsub fmul fmin fmax fminn fmaxn fabs fneg fcpsgn ffloor fceil
    ftrunc frint ffrac fscale ffma ffms fnfma fnfms hadd2 hsub2 hmul2 hfma2 hmin2 hmax2 badd2 bsub2 bmul2 bfma2 bmin2 bmax2 hdot2 bdot2
    fcmpOeq fcmpOne fcmpOlt fcmpOle fcmpOgt fcmpOge fcmpUno fcmpOrd fcmpUeq fcmpUne fcmpUlt fcmpUle fcmpUgt fcmpUge fcmpClass xfnRcp xfnRsq
    xfnSqrt xfnExp2 xfnLog2 xfnSinpi xfnCospi xfnTanh xfnDiv xfnSigm xfnExp xfnLog f2i f2u i2f u2f f2h h2f f2b b2f f2n n2f f2d d2f i2d d2i
    packn unpkn dadd dsub dmul dfma dmin dmax ddiv dsqrt deq dlt dle duno mlmrg expsub rescale br call brp jr callr ret brx pblk vany vall
    ballot shfidx shfup shfdn shfxor gradd grfadd grmin grmax gmatch elect active ld st ldx ldxC stx ldAcq stRel aadd axch acas amin amax
    aminu amaxu aand aor axor aincw afadd aadd64 acas64 axch64 afmax aaddAr axchAr acasAr aminAr amaxAr aminuAr amaxuAr aandAr aorAr axorAr
    aincwAr afaddAr aadd64Ar acas64Ar axch64Ar afmaxAr fenceAcq fenceRel fenceAr fenceSc fenceDrain pref prefl1 invl1 rdcinv lempty lfull
    talloc trel tdrop taddr tstat tcset tcadd tcwait tcread cpy cpyr cpym cpys publ cpyt cpyw cpyq mma8 mma8s mma8g mma8gs mmah mmab mzero
    mldc mstc mwait mstat macq mpass mrel mwho tknext tkdone tkpost tkspec tkabort tksucc launch lwait lstat role aqpost aqwait aqstat
    aqcancel ndrain ngen npath clpost clwait clstat clroute resultDelivery segmentHorizon joinTimeout napExpiry barPhaseComplete
    launchCommand pendingPoolCheck teamPlacement launchComplete blockedTeamSwap timeSliceExpiry drainTimeout teamSave teamRestore armedFire
    copyUnit publishFlip matrixStep tallocGrant poolStarvation tileFree taskDelivery qry bauScan refresh rpl cxl wcbFlush tlbinvComplete
    slotBoundary dataWindowStart tuningTimeout portFailed preamble ackFlit cutOff broadcastMemberDrop cycleSteer generationChange
    portDrained portTrained readRequest readReply pktWrite pktAtomic completion copyUnits copyCompletion reduceCopyUnits publish
    reservedPacket collectiveData collectiveAbort gangStart gangAccept gangRefuse gangGo gangCancel gangAbort gangDone gangStartTimeout
    gangDiscardTimeout barrierArrive barrierRelease hostCopy signal hostWait calLoad portDrain portRetrain calStatus faultReplay attest
    ownerClaim ownerYield doorbell tlbinv resetWrite abortWrite dbgHalt dbgGo dbgStep dbgData bar4Read bar4Write registerWrite moduleReset
    bringUpStage clockStep coolantFatal linkFailure writePerformed instructionFetch notAnInstruction ringLocked completionTimeout
    unitPoisoned

end Sys2Proof.Laws.RoundTrip

namespace Sys2Proof.Encoding
open Sys2Proof.Laws

/-! What one field of a word, or of a 7-bit field, is. -/

theorem fld_toNat (w : Word) (lo n : Nat) : (fld w lo n).toNat = w.toNat / 2 ^ lo % 2 ^ n := BitVec.toNat_ofNat _ _
theorem part_toNat (f : BitVec 7) (lo n : Nat) : (part f lo n).toNat = f.toNat / 2 ^ lo % 2 ^ n := BitVec.toNat_ofNat _ _
theorem hbit_flag (w : Word) (n : Nat) : hbit (flag w n) = w.toNat / 2 ^ n % 2 := by
  rcases Nat.mod_two_eq_zero_or_one (w.toNat / 2 ^ n) with h | h <;> simp [flag, hbit, h]
theorem hbit_part (f : BitVec 7) (n : Nat) : hbit (part f n 1 == 1) = f.toNat / 2 ^ n % 2 := by
  rcases Nat.mod_two_eq_zero_or_one (f.toNat / 2 ^ n) with h | h <;> simp [part, hbit, ← BitVec.toNat_inj, h]

theorem fld_zero {w : Word} {lo n : Nat} (h : (fld w lo n == 0) = true) : w.toNat / 2 ^ lo % 2 ^ n = 0 := by
  rw [← fld_toNat, eq_of_beq h]; simp
theorem part_zero {f : BitVec 7} {lo n : Nat} (h : (part f lo n == 0) = true) : f.toNat / 2 ^ lo % 2 ^ n = 0 := by
  rw [← part_toNat, eq_of_beq h]; simp

/-! A 7-bit field from the fields inside it. -/

theorem pred_field {f : BitVec 7} (h : (part f 3 2 == 0) = true) : f.toNat = (part f 5 2).toNat * 2 ^ 5 + (part f 0 3).toNat := by
  have := part_zero h
  simp only [part_toNat]; omega
theorem cvt_field (f : BitVec 7) : f.toNat = (part f 4 3).toNat * 2 ^ 4 + hbit (part f 3 1 == 1) * 2 ^ 3 + (part f 0 3).toNat := by
  simp only [part_toNat, hbit_part]; omega
theorem bit_field {f : BitVec 7} (h : (part f 1 6 == 0) = true) : f.toNat = hbit (part f 0 1 == 1) := by
  have := part_zero h
  simp only [hbit_part]; omega
theorem low_field {f : BitVec 7} (h : (part f 3 4 == 0) = true) : f.toNat = (part f 0 3).toNat := by
  have := part_zero h
  simp only [part_toNat]; omega
theorem route_field (f : BitVec 7) : f.toNat = (part f 4 3).toNat * 2 ^ 4 + (part f 0 4).toNat := by
  simp only [part_toNat]; omega

theorem zero_field {f : BitVec 7} (h : (f == 0) = true) : f.toNat = 0 := by rw [eq_of_beq h]; rfl
theorem zero_and_bit_fields {d a b : BitVec 7} (h : (d == 0 && part b 1 6 == 0) = true) :
    d.toNat = 0 ∧ a.toNat = a.toNat ∧ b.toNat = hbit (part b 0 1 == 1) :=
  have ⟨hd, hb⟩ := (Bool.and_eq_true _ _).mp h
  ⟨zero_field hd, rfl, bit_field hb⟩

/-- The word is made of its H bit, its major opcode and its low 25 bits. -/
theorem eq_encX (w : Word) : w = encX (flag w 31) (fld w 25 6).toNat (w.toNat % 2 ^ 25) := by
  apply BitVec.eq_of_toNat_eq
  have := w.isLt
  rw [encX_toNat _ _ _ (fld w 25 6).isLt (Nat.mod_lt _ (by decide)), hbit_flag, fld_toNat]
  omega

/-- The word is made of the fields of the R format (R40). -/
theorem eq_encR (w : Word) :
    w = encR (flag w 31) (fld w 25 6).toNat (fld w 21 4).toNat (fld w 14 7).toNat (fld w 7 7).toNat (fld w 0 7).toNat := by
  apply BitVec.eq_of_toNat_eq
  have := w.isLt
  rw [encR_toNat _ _ _ _ _ _ (fld w 25 6).isLt (fld w 21 4).isLt (fld w 14 7).isLt (fld w 7 7).isLt (fld w 0 7).isLt, hbit_flag]
  simp only [fld_toNat]
  omega

/-- Whatever instruction a decoder answers, it is well formed, and `w` is its word. -/
def Decodes (w : Word) (r : Except Reject Instr) : Prop := ∀ i, r = .ok i → i.wf = true ∧ encode i = some w

namespace Decodes

theorem error {w : Word} {r : Reject} : Decodes w (.error r) := nofun

theorem ok {w : Word} {i : Instr} (hw : i.wf = true) (he : encode i = some w) : Decodes w (.ok i) := by
  rintro _ ⟨⟩
  exact ⟨hw, he⟩

/-- Only a well-formed instruction passes its checks. -/
theorem checked {w : Word} {i : Instr} (he : encode i = some w) : Decodes w (checked i) := by
  unfold Sys2Proof.checked
  split
  · exact error
  next hn => exact ok (List.all_eq_true.mpr fun c hc => by simpa using List.find?_eq_none.mp hn c hc) he

theorem need {w : Word} {c : Bool} {n : Nat} {k : Except Reject Instr} (h : c = true → Decodes w k) : Decodes w (need c n k) := by
  cases c
  · exact error
  · exact h rfl

/-- An R word whose fields the condition fixes: those that the instruction does not use are zero (R46). -/
theorem fields {h : Bool} {mj mn D A B : Nat} {d a b : BitVec 7} {c : Bool} {i : Instr} (he : encode i = some (encR h mj mn D A B))
    (hc : c = true → d.toNat = D ∧ a.toNat = A ∧ b.toNat = B) :
    Decodes (encR h mj mn d.toNat a.toNat b.toNat) (Sys2Proof.need c 5 (Sys2Proof.checked i)) := by
  refine .need fun ht => .checked ?_
  obtain ⟨rfl, rfl, rfl⟩ := hc ht
  exact he

/-- A conversion, whose kind, saturation and rounding mode stand in the field b (R41). -/
theorem cvt {h : Bool} {mj mn D A : Nat} {b : BitVec 7} {i : Instr}
    (he : encode i = some (encR h mj mn D A ((part b 4 3).toNat * 2 ^ 4 + hbit (part b 3 1 == 1) * 2 ^ 3 + (part b 0 3).toNat))) :
    Decodes (encR h mj mn D A b.toNat) (Sys2Proof.checked i) := .checked (he.trans (by rw [← cvt_field]))

end Decodes

/-! The minors of each major opcode (R45). -/

section
variable {mn : Nat} {h : Bool} {d a b : BitVec 7}

theorem decSys_decodes : Decodes (encR h 0x00 mn d.toNat a.toNat b.toNat) (decSys mn h d a b) := by
  match mn with
  | 0 | 1 | 2 | 3 | 6 | 7 | 8 | 9 | 10 | 11 | 12 | 13 | 14 | 15 => exact .fields rfl (by simp +contextual)
  | 4 | 5 => unfold decSys; exact .checked rfl
  | _ + 16 => exact .error

theorem decIop_decodes : Decodes (encR h 0x01 mn d.toNat a.toNat b.toNat) (decIop mn h d a b) := by
  match mn with
  | 0 | 1 | 2 | 3 | 4 | 5 | 6 | 7 | 8 | 9 | 10 | 11 | 12 | 13 | 14 | 15 => unfold decIop; exact .checked rfl
  | _ + 16 => exact .error

theorem decIopx_decodes : Decodes (encR h 0x02 mn d.toNat a.toNat b.toNat) (decIopx mn h d a b) := by
  match mn with
  | 0 | 1 | 2 | 3 | 4 | 8 | 9 | 10 | 11 | 12 | 13 | 14 | 15 => unfold decIopx; exact .checked rfl
  | 5 | 6 | 7 => exact .fields rfl (by simp +contextual)
  | _ + 16 => exact .error

theorem decIcmp_decodes : Decodes (encR h 0x03 mn d.toNat a.toNat b.toNat) (decIcmp mn h d a b) := by
  match mn with
  | 0 | 1 | 2 | 3 | 4 | 5 | 6 | 7 | 8 | 9 | 10 | 11 | 12 | 13 | 14 => exact .fields rfl fun hp => ⟨pred_field hp, rfl, rfl⟩
  | _ + 15 => exact .error

theorem decMovx_decodes : Decodes (encR h 0x0F mn d.toNat a.toNat b.toNat) (decMovx mn h d a b) := by
  match mn with
  | 0 | 1 | 2 | 3 => exact .fields rfl (by simp +contextual)
  | 4 | 5 => unfold decMovx; exact .checked rfl
  | _ + 6 => exact .error

theorem decFop_decodes : Decodes (encR h 0x10 mn d.toNat a.toNat b.toNat) (decFop mn h d a b) := by
  match mn with
  | 0 | 1 | 2 | 3 | 4 | 5 | 6 | 9 | 15 => unfold decFop; exact .checked rfl
  | 7 | 8 | 10 | 11 | 12 | 13 | 14 => exact .fields rfl (by simp +contextual)
  | _ + 16 => exact .error

theorem decFma_decodes : Decodes (encR h 0x11 mn d.toNat a.toNat b.toNat) (decFma mn h d a b) := by
  match mn with
  | 0 | 1 | 2 | 3 => unfold decFma; exact .checked rfl
  | _ + 4 => exact .error

theorem decHop_decodes : Decodes (encR h 0x12 mn d.toNat a.toNat b.toNat) (decHop mn h d a b) := by
  match mn with
  | 0 | 1 | 2 | 3 | 4 | 5 | 6 | 7 | 8 | 9 | 10 | 11 | 12 | 13 => unfold decHop; exact .checked rfl
  | _ + 14 => exact .error

theorem decFcmp_decodes : Decodes (encR h 0x13 mn d.toNat a.toNat b.toNat) (decFcmp mn h d a b) := by
  match mn with
  | 0 | 1 | 2 | 3 | 4 | 5 | 6 | 7 | 8 | 9 | 10 | 11 | 12 | 13 | 14 => exact .fields rfl fun hp => ⟨pred_field hp, rfl, rfl⟩
  | _ + 15 => exact .error

theorem decXfn_decodes : Decodes (encR h 0x14 mn d.toNat a.toNat b.toNat) (decXfn mn h d a b) := by
  match mn with
  | 0 | 1 | 2 | 3 | 4 | 5 | 6 | 7 | 9 | 10 | 11 => exact .fields rfl (by simp +contextual)
  | 8 => unfold decXfn; exact .checked rfl
  | _ + 12 => exact .error

theorem decCvt_decodes : Decodes (encR h 0x15 mn d.toNat a.toNat b.toNat) (decCvt mn h d a b) := by
  match mn with
  | 0 | 1 | 2 | 3 | 4 | 5 | 6 | 7 | 8 | 9 | 10 | 11 | 12 | 13 | 14 | 15 => unfold decCvt; exact .cvt rfl
  | _ + 16 => exact .error

theorem decDop_decodes : Decodes (encR h 0x16 mn d.toNat a.toNat b.toNat) (decDop mn h d a b) := by
  match mn with
  | 0 | 1 | 2 | 3 | 4 | 5 | 6 => unfold decDop; exact .checked rfl
  | 7 => exact .fields rfl (by simp +contextual)
  | 8 | 9 | 10 | 11 => exact .fields rfl fun hp => ⟨pred_field hp, rfl, rfl⟩
  | _ + 12 => exact .error

theorem decSmx_decodes : Decodes (encR h 0x17 mn d.toNat a.toNat b.toNat) (decSmx mn h d a b) := by
  match mn with
  | 0 => exact .fields rfl (by simp +contextual)
  | 1 | 2 => unfold decSmx; exact .checked rfl
  | _ + 3 => exact .error

theorem decJx_decodes : Decodes (encR h 0x1B mn d.toNat a.toNat b.toNat) (decJx mn h d a b) := by
  match mn with
  | 0 | 1 | 2 | 3 => exact .fields rfl (by simp +contextual)
  | _ + 4 => exact .error

theorem decGrp_decodes : Decodes (encR h 0x1D mn d.toNat a.toNat b.toNat) (decGrp mn h d a b) := by
  match mn with
  | 0 | 1 | 2 | 7 | 8 | 11 | 12 | 13 => exact .fields rfl (by simp +contextual)
  | 3 | 4 | 5 | 6 => unfold decGrp; exact .checked rfl
  | 9 | 10 => exact .fields rfl fun hp => ⟨rfl, rfl, bit_field hp⟩
  | _ + 14 => exact .error

theorem decAtom_decodes : Decodes (encR h 0x26 mn d.toNat a.toNat b.toNat) (decAtom mn h d a b) := by
  match mn with
  | 0 | 1 | 2 | 3 | 4 | 5 | 6 | 7 | 8 | 9 | 10 | 11 | 12 | 13 | 14 | 15 => unfold decAtom; exact .checked rfl
  | _ + 16 => exact .error

theorem decAtomAr_decodes : Decodes (encR h 0x27 mn d.toNat a.toNat b.toNat) (decAtomAr mn h d a b) := by
  match mn with
  | 0 | 1 | 2 | 3 | 4 | 5 | 6 | 7 | 8 | 9 | 10 | 11 | 12 | 13 | 14 | 15 => unfold decAtomAr; exact .checked rfl
  | _ + 16 => exact .error

theorem decFence_decodes : Decodes (encR h 0x28 mn d.toNat a.toNat b.toNat) (decFence mn h d a b) := by
  match mn with
  | 0 | 1 | 2 | 3 | 4 => exact .need fun _ => .fields rfl (by simp +contextual)
  | _ + 5 => exact .error

theorem decCctl_decodes : Decodes (encR h 0x29 mn d.toNat a.toNat b.toNat) (decCctl mn h d a b) := by
  match mn with
  | 0 | 1 | 4 | 5 => exact .fields rfl (by simp +contextual)
  | 2 | 3 => exact .fields rfl zero_and_bit_fields
  | _ + 6 => exact .error

theorem decTile_decodes : Decodes (encR h 0x2A mn d.toNat a.toNat b.toNat) (decTile mn h d a b) := by
  match mn with
  | 0 | 3 => unfold decTile; exact .checked rfl
  | 1 | 2 | 4 => exact .fields rfl (by simp +contextual)
  | _ + 5 => exact .error

theorem decTrig_decodes : Decodes (encR h 0x2B mn d.toNat a.toNat b.toNat) (decTrig mn h d a b) := by
  match mn with
  | 0 | 1 | 2 | 3 => exact .fields rfl (by simp +contextual)
  | _ + 4 => exact .error

theorem decCopy_decodes : Decodes (encR h 0x30 mn d.toNat a.toNat b.toNat) (decCopy mn h d a b) := by
  match mn with
  | 0 | 1 | 2 | 3 => unfold decCopy; exact .checked rfl
  | 4 | 6 | 7 => exact .fields rfl (by simp +contextual)
  | 5 => exact .fields rfl fun hp => ⟨low_field hp, rfl, rfl⟩
  | _ + 8 => exact .error

theorem decMma_decodes : Decodes (encR h 0x31 mn d.toNat a.toNat b.toNat) (decMma mn h d a b) := by
  match mn with
  | 0 | 1 | 2 | 3 | 4 | 5 | 7 | 8 => unfold decMma; exact .checked rfl
  | 6 | 9 | 10 => exact .fields rfl (by simp +contextual)
  | _ + 11 => exact .error

theorem decBaton_decodes : Decodes (encR h 0x32 mn d.toNat a.toNat b.toNat) (decBaton mn h d a b) := by
  match mn with
  | 0 | 1 | 2 | 3 => exact .fields rfl (by simp +contextual)
  | _ + 4 => exact .error

theorem decTask_decodes : Decodes (encR h 0x33 mn d.toNat a.toNat b.toNat) (decTask mn h d a b) := by
  match mn with
  | 0 | 1 | 2 | 3 | 4 | 5 => exact .fields rfl (by simp +contextual)
  | _ + 6 => exact .error

theorem decLnch_decodes : Decodes (encR h 0x34 mn d.toNat a.toNat b.toNat) (decLnch mn h d a b) := by
  match mn with
  | 0 | 3 => unfold decLnch; exact .checked rfl
  | 1 | 2 => exact .fields rfl (by simp +contextual)
  | _ + 4 => exact .error

theorem decAq_decodes : Decodes (encR h 0x35 mn d.toNat a.toNat b.toNat) (decAq mn h d a b) := by
  match mn with
  | 0 | 1 | 2 | 3 => exact .fields rfl (by simp +contextual)
  | _ + 4 => exact .error

theorem decNet_decodes : Decodes (encR h 0x36 mn d.toNat a.toNat b.toNat) (decNet mn h d a b) := by
  match mn with
  | 0 | 2 => exact .fields rfl (by simp +contextual)
  | 1 => exact .fields rfl fun hp => ⟨rfl, rfl, bit_field hp⟩
  | _ + 3 => exact .error

theorem decColl_decodes : Decodes (encR h 0x37 mn d.toNat a.toNat b.toNat) (decColl mn h d a b) := by
  match mn with
  | 0 | 1 | 2 => exact .fields rfl (by simp +contextual)
  | 3 => exact .fields rfl fun hd => ⟨zero_field hd, rfl, route_field _⟩
  | _ + 4 => exact .error
end

/-! The low 25 bits in the other formats (R40), and in the words that divide the R format further (R41, R45). -/

section
variable (w : Word)

theorem low25_I : (fld w 18 7).toNat * 2 ^ 18 + (fld w 11 7).toNat * 2 ^ 11 + (fld w 0 11).toNat = w.toNat % 2 ^ 25 := by
  simp only [fld_toNat]; omega
theorem low25_IM : (fld w 18 7).toNat * 2 ^ 18 + (fld w 11 7).toNat * 2 ^ 11 + (fld w 8 3).toNat * 2 ^ 8 + (fld w 0 8).toNat = w.toNat % 2 ^ 25 := by
  simp only [fld_toNat]; omega
theorem low25_W : (fld w 18 7).toNat * 2 ^ 18 + (fld w 0 18).toNat = w.toNat % 2 ^ 25 := by
  simp only [fld_toNat]; omega
theorem low25_J : (fld w 0 25).toNat = w.toNat % 2 ^ 25 := by
  simp only [fld_toNat]; omega
theorem low25_C : (fld w 22 3).toNat * 2 ^ 22 + hbit (flag w 21) * 2 ^ 21 + (fld w 0 21).toNat = w.toNat % 2 ^ 25 := by
  simp only [fld_toNat, hbit_flag]; omega
theorem low25_P : (fld w 22 3).toNat * 2 ^ 22 + (fld w 19 3).toNat * 2 ^ 19 + (fld w 11 8).toNat * 2 ^ 11 + (fld w 0 11).toNat = w.toNat % 2 ^ 25 := by
  simp only [fld_toNat]; omega
theorem low25_cmpi :
    (fld w 21 4).toNat * 2 ^ 21 + (fld w 18 3).toNat * 2 ^ 18 + (fld w 11 7).toNat * 2 ^ 11 + (fld w 0 11).toNat = w.toNat % 2 ^ 25 := by
  simp only [fld_toNat]; omega
theorem low25_shfi : (fld w 18 7).toNat * 2 ^ 18 + (fld w 11 7).toNat * 2 ^ 11 + (fld w 8 3).toNat * 2 ^ 8 + (fld w 6 2).toNat * 2 ^ 6 + (fld w 0 6).toNat =
    w.toNat % 2 ^ 25 := by
  simp only [fld_toNat]; omega
theorem low25_lea :
    (fld w 21 4).toNat * 2 ^ 21 + (fld w 14 7).toNat * 2 ^ 14 + (fld w 7 7).toNat * 2 ^ 7 + (fld w 0 7).toNat = w.toNat % 2 ^ 25 := by
  simp only [fld_toNat]; omega
theorem low25_sel : hbit (flag w 24) * 2 ^ 24 + (fld w 21 3).toNat * 2 ^ 21 + (fld w 14 7).toNat * 2 ^ 14 + (fld w 7 7).toNat * 2 ^ 7 + (fld w 0 7).toNat =
    w.toNat % 2 ^ 25 := by
  simp only [fld_toNat, hbit_flag]; omega
end

section
variable {w : Word}

theorem Decodes.ofR {mj : Nat} {r : Except Reject Instr} (e : (fld w 25 6).toNat = mj)
    (hr : Decodes (encR (flag w 31) mj (fld w 21 4).toNat (fld w 14 7).toNat (fld w 7 7).toNat (fld w 0 7).toNat) r) : Decodes w r := by
  rw [eq_encR w, e]
  exact hr

theorem Decodes.ofX {mj x : Nat} {r : Except Reject Instr} (e : (fld w 25 6).toNat = mj) (hx : x = w.toNat % 2 ^ 25)
    (hr : Decodes (encX (flag w 31) mj x) r) : Decodes w r := by
  rw [eq_encX w, e, ← hx]
  exact hr
end

section
variable {h : Bool} {d a b : BitVec 7}

/-- SHFI (R41): bits [7:6] are zero. -/
theorem decShfi_decodes {kind : Nat} {z : BitVec 2} {n : BitVec 6} :
    Decodes (encX h 0x08 (d.toNat * 2 ^ 18 + a.toNat * 2 ^ 11 + kind * 2 ^ 8 + z.toNat * 2 ^ 6 + n.toNat)) (decShfi kind h d a z n) := by
  match kind with
  | 0 | 1 | 2 | 3 => exact .need fun _ => .need fun hz => .checked (by cases eq_of_beq hz; simp [encode])
  | 4 | 5 | 6 => exact .need fun hz => .checked (by cases eq_of_beq hz; simp [encode])
  | _ + 7 => exact .error

/-- PBLK (R37): bits [10:0] are zero, and so is H. -/
theorem decPblk_decodes {p n : BitVec 3} {t : BitVec 8} {z : BitVec 11} :
    Decodes (encX h 0x1C (p.toNat * 2 ^ 22 + n.toNat * 2 ^ 19 + t.toNat * 2 ^ 11 + z.toNat)) (decPblk h p n t z) := by
  refine .need fun hc => .need fun hh => ?_
  obtain ⟨hz, ht⟩ := (Bool.and_eq_true _ _).mp hc
  cases eq_of_beq hz
  cases h
  · exact .ok ((Bool.and_true _).trans ht) (by simp [encode])
  · cases hh

theorem decLdx_decodes {c : Bool} {s : BitVec 3} :
    Decodes (encX h 0x22 (hbit c * 2 ^ 24 + s.toNat * 2 ^ 21 + d.toNat * 2 ^ 14 + a.toNat * 2 ^ 7 + b.toNat))
      (if c then checked (.ldxC h s d a b) else checked (.ldx h s d a b)) := by
  cases c
  · exact .checked (by simp [encode, hbit])
  · exact .checked rfl

theorem decStx_decodes {c : Bool} {s : BitVec 3} :
    Decodes (encX h 0x23 (hbit c * 2 ^ 24 + s.toNat * 2 ^ 21 + d.toNat * 2 ^ 14 + a.toNat * 2 ^ 7 + b.toNat))
      (need (s != 7) 3 (need (!c) 5 (checked (.stx h s d a b)))) := by
  refine .need fun _ => .need fun hc => .checked ?_
  cases c
  · simp [encode, hbit]
  · cases hc
end

/-- R42, R46: the fields of a word that decodes are those of the instruction. The cases stand in the order of the major opcodes. -/
theorem decodeWord_decodes (w : Word) : Decodes w (decodeWord w) := by
  unfold decodeWord
  split
  next e => exact .ofR e decSys_decodes
  next e => exact .ofR e decIop_decodes
  next e => exact .ofR e decIopx_decodes
  next e => exact .ofR e decIcmp_decodes
  next e => exact .ofX e (low25_I w) (.checked rfl)
  next e => exact .ofX e (low25_I w) (.checked rfl)
  next e => exact .ofX e (low25_I w) (.checked rfl)
  next e => exact .ofX e (low25_I w) (.checked rfl)
  next e => exact .ofX e (low25_shfi w) decShfi_decodes
  next e => exact .ofX e (low25_I w) (.checked rfl)
  next e => exact .ofX e (low25_cmpi w) (.checked rfl)
  next e => exact .ofX e (low25_W w) (.checked rfl)
  next e => exact .ofX e (low25_W w) (.checked rfl)
  next e => exact .ofX e (low25_sel w) (.checked rfl)
  next e => exact .ofX e (low25_lea w) (.checked rfl)
  next e => exact .ofR e decMovx_decodes
  next e => exact .ofR e decFop_decodes
  next e => exact .ofR e decFma_decodes
  next e => exact .ofR e decHop_decodes
  next e => exact .ofR e decFcmp_decodes
  next e => exact .ofR e decXfn_decodes
  next e => exact .ofR e decCvt_decodes
  next e => exact .ofR e decDop_decodes
  next e => exact .ofR e decSmx_decodes
  next e => exact .ofX e (low25_J w) (.checked rfl)
  next e => exact .ofX e (low25_J w) (.checked rfl)
  next e => exact .ofX e (low25_C w) (.checked rfl)
  next e => exact .ofR e decJx_decodes
  next e => exact .ofX e (low25_P w) decPblk_decodes
  next e => exact .ofR e decGrp_decodes
  next e => exact .ofX e (low25_IM w) (.checked rfl)
  next e => exact .ofX e (low25_IM w) (.checked rfl)
  next e => exact .ofX e (low25_sel w) decLdx_decodes
  next e => exact .ofX e (low25_sel w) decStx_decodes
  next e => exact .ofX e (low25_IM w) (.checked rfl)
  next e => exact .ofX e (low25_IM w) (.checked rfl)
  next e => exact .ofR e decAtom_decodes
  next e => exact .ofR e decAtomAr_decodes
  next e => exact .ofR e decFence_decodes
  next e => exact .ofR e decCctl_decodes
  next e => exact .ofR e decTile_decodes
  next e => exact .ofR e decTrig_decodes
  next e => exact .ofR e decCopy_decodes
  next e => exact .ofR e decMma_decodes
  next e => exact .ofR e decBaton_decodes
  next e => exact .ofR e decTask_decodes
  next e => exact .ofR e decLnch_decodes
  next e => exact .ofR e decAq_decodes
  next e => exact .ofR e decNet_decodes
  next e => exact .ofR e decColl_decodes
  · exact .error

/-- Settles O55: by the format that the major opcode selects, the word is made of the fields that the decoder reads, and those that the instruction
does not hold are zero. -/
theorem noBitIsIgnored : Obligations.NoBitIsIgnored := decodeWord_decodes

/-! From bytes and from the opcode table. -/

/-- The four bytes of a word hold it (R2). -/
theorem bytesWord_wordBytes (w : Word) : bytesWord (wordBytes w) = w := by
  apply BitVec.eq_of_toNat_eq
  have := w.isLt
  simp only [bytesWord, wordBytes, List.foldr, BitVec.toNat_ofNat]
  omega

theorem decodeBytes_wordBytes {w : Word} {i : Instr} (h : decodeWord w = .ok i) (rest : List Byte) :
    decodeBytes (wordBytes w ++ rest) = .ok (i, rest) := by
  have hb : decodeWord (bytesWord (wordBytes w)) = .ok i := (congrArg decodeWord (bytesWord_wordBytes w)).trans h
  simp only [wordBytes] at hb
  simp only [wordBytes, List.cons_append, List.nil_append, decodeBytes, hb]

theorem decodeTableWord_toNat {w : Word} {i : Instr} (h : decodeWord w = .ok i) : decodeTableWord 32 w.toNat = some i := by
  have hb := decodeBytes_wordBytes h []
  rw [List.append_nil] at hb
  simp only [decodeTableWord, BitVec.ofNat_toNat, BitVec.setWidth_eq, hb, if_pos]

/-- Settles O54: each instruction by its own law; its bytes, and the word of its row in the table, hold its word. -/
theorem decodeEncodeAgree : Obligations.DecodeEncodeAgree := by
  intro i w rest hw he
  have h := RoundTrip.statement_holds i w hw he
  exact ⟨h, decodeBytes_wordBytes h rest, decodeTableWord_toNat h⟩

/-! Words that are not instructions (R46). -/

/-- Reason 1: a reserved major opcode. -/
theorem decodeWord_reserved {w : Word} (h : w.toNat / 2 ^ 25 % 2 ^ 6 ∈ [0x1E, 0x1F, 0x2C, 0x2D, 0x2E, 0x2F, 0x38, 0x39, 0x3A, 0x3B, 0x3C, 0x3D, 0x3E, 0x3F]) :
    decodeWord w = .error { reason := 1 } := by
  rw [← fld_toNat] at h
  unfold decodeWord
  generalize (fld w 25 6).toNat = k at h ⊢
  simp only [List.mem_cons, List.not_mem_nil, or_false] at h
  rcases h with rfl | rfl | rfl | rfl | rfl | rfl | rfl | rfl | rfl | rfl | rfl | rfl | rfl | rfl <;> rfl

/-- Reason 5: a NOP with a nonzero unused field. -/
theorem decodeWord_nop_field {w : Word} (h0 : w.toNat / 2 ^ 21 % 2 ^ 10 = 0) (h : w.toNat % 2 ^ 21 ≠ 0) :
    decodeWord w = .error { reason := 5 } := by
  rw [decode_0x00 w (fld_eq _ _ _ _ (by omega)), fld_eq w 21 4 0 (by omega)]
  refine if_neg fun hz => h ?_
  simp only [Bool.and_eq_true] at hz
  obtain ⟨⟨hd, ha⟩, hb⟩ := hz
  have := fld_zero hd
  have := fld_zero ha
  have := fld_zero hb
  omega

/-- Reason 2: the reserved minor 15 of ICMP. -/
theorem decodeWord_icmp_reserved {w : Word} (hj : w.toNat / 2 ^ 25 % 2 ^ 6 = 0x03) (hn : w.toNat / 2 ^ 21 % 2 ^ 4 = 15) :
    decodeWord w = .error { reason := 2 } := by
  rw [decode_0x03 w (fld_eq _ _ _ _ hj), fld_eq w 21 4 15 hn]
  rfl

/-- Reason 5: a PBLK with a nonzero low field. -/
theorem decodeWord_pblk_field {w : Word} (hj : w.toNat / 2 ^ 25 % 2 ^ 6 = 0x1C) (hz : w.toNat % 2 ^ 11 ≠ 0) :
    decodeWord w = .error { reason := 5 } := by
  rw [decode_0x1C w (fld_eq _ _ _ _ hj)]
  refine if_neg fun hc => hz ?_
  have := fld_zero ((Bool.and_eq_true _ _).mp hc).1
  omega

/-- An instruction that breaks its first check is rejected under the reason of that check. -/
theorem checked_error {i : Instr} {r : Nat} {cs : List (Nat × Bool)} (h : Machine.formChecks i = (r, false) :: cs) :
    checked i = .error { reason := r } := by
  simp only [checked, h, List.find?, Bool.not_false]

/-- Reason 4: a condition of CMPI above 9. -/
theorem decodeWord_cmpi_condition {w : Word} (hj : w.toNat / 2 ^ 25 % 2 ^ 6 = 0x0A) (hc : 10 ≤ w.toNat / 2 ^ 21 % 2 ^ 4) :
    decodeWord w = .error { reason := 4 } := by
  have hn : decide ((fld w 21 4).toNat < 10) = false := decide_eq_false (by rw [fld_toNat]; omega)
  rw [decode_0x0A w (fld_eq _ _ _ _ hj)]
  exact checked_error (congrArg (fun c => [(4, c)]) hn)

/-- Settles O56: the words by the round trip, the reserved ones by the rule of R46 that each breaks. -/
theorem decodedWords : Obligations.DecodedWords := by
  refine ⟨?words, decodeWord_reserved (by decide), ?size, fun _ => decodeWord_reserved, fun _ => decodeWord_nop_field,
    fun _ => decodeWord_icmp_reserved, fun _ => decodeWord_pblk_field, fun _ => decodeWord_cmpi_condition⟩
  case size => rfl
  case words =>
    intro p hp
    have h : p.2.wf = true ∧ encode p.2 = some p.1 := by
      simp only [List.mem_cons, List.not_mem_nil, or_false] at hp
      rcases hp with rfl | rfl | rfl | rfl | rfl | rfl | rfl | rfl | rfl <;> exact ⟨rfl, rfl⟩
    exact RoundTrip.statement_holds p.2 p.1 h.1 h.2

end Sys2Proof.Encoding
end

section
/-! Integer, control and system words (O2–O7, O16–O19, O21): what each computes and writes, and where it traps (R65–R85). The values come first, then the
shapes that the words share, then the statements. -/
namespace Sys2Proof.Integer
open Sys2Proof.Machine Sys2Proof.Safety Sys2Proof.Claims Sys2Proof.Laws

/-! What the integer functions compute (R74–R78, R81), said as the statements say it. -/

/-- The high word of a product of 64 bits (R74). -/
theorem extractLsb'_ofInt_high (z : Int) : (BitVec.ofInt 64 z).extractLsb' 32 32 = BitVec.ofInt 32 (z / 2 ^ 32) := by
  apply BitVec.eq_of_toNat_eq
  simp only [BitVec.extractLsb'_toNat, BitVec.toNat_ofInt, Nat.shiftRight_eq_div_pow]
  omega

theorem signExtend_mul_signExtend (a b : Word) : a.signExtend 64 * b.signExtend 64 = BitVec.ofInt 64 (a.toInt * b.toInt) :=
  (BitVec.ofInt_mul ..).symm

theorem iMulh_eq (a b : Word) : iMulh a b = (a.signExtend 64 * b.signExtend 64).extractLsb' 32 32 := by
  rw [signExtend_mul_signExtend, extractLsb'_ofInt_high, iMulh]

theorem iMulhu_eq (a b : Word) : iMulhu a b = (a.zeroExtend 64 * b.zeroExtend 64).extractLsb' 32 32 := by
  apply BitVec.eq_of_toNat_eq
  have hp : a.toNat * b.toNat < 2 ^ 64 := Nat.lt_of_lt_of_eq (Nat.mul_lt_mul'' a.isLt b.isLt) (Nat.pow_add 2 32 32).symm
  have ha : a.toNat % 2 ^ 64 = a.toNat := Nat.mod_eq_of_lt (by omega)
  have hb : b.toNat % 2 ^ 64 = b.toNat := Nat.mod_eq_of_lt (by omega)
  simp only [iMulhu, BitVec.toNat_ofNat, BitVec.extractLsb'_toNat, BitVec.toNat_mul, BitVec.zeroExtend, BitVec.toNat_setWidth,
    Nat.shiftRight_eq_div_pow, ha, hb, Nat.mod_eq_of_lt hp]

theorem iMadw_eq (a b : Word) (d : DWord) : iMadw a b d = a.signExtend 64 * b.signExtend 64 + d := by
  rw [signExtend_mul_signExtend, iMadw]

theorem iMin_eq (a b : Word) : iMin a b = if a.sle b then a else b := by
  simp only [iMin, BitVec.sle_eq_decide, decide_eq_true_eq, ← Int.not_lt, ite_not]

theorem iMax_eq (a b : Word) : iMax a b = if a.sle b then b else a := by
  simp only [iMax, BitVec.sle_eq_decide, decide_eq_true_eq]
  rcases Int.lt_trichotomy a.toInt b.toInt with h | h | h
  · rw [if_pos h, if_pos (Int.le_of_lt h)]
  · rw [BitVec.toInt_inj.mp h, ite_self, ite_self]
  · rw [if_neg (Int.lt_asymm h), if_neg (Int.not_le_of_gt h)]

theorem iMinU_eq (a b : Word) : iMinU a b = if a ≤ b then a else b := by
  simp only [iMinU, BitVec.le_def, ← Nat.not_lt, ite_not]

theorem iMaxU_eq (a b : Word) : iMaxU a b = if a ≤ b then b else a := by
  simp only [iMaxU, BitVec.le_def]
  rcases Nat.lt_trichotomy a.toNat b.toNat with h | h | h
  · rw [if_pos h, if_pos (Nat.le_of_lt h)]
  · rw [BitVec.toNat_inj.mp h, ite_self, ite_self]
  · rw [if_neg (Nat.not_lt_of_gt h), if_neg (Nat.not_le_of_gt h)]

/-- The count of CLZ (R75): no bit above it is set, and the one at it is, unless there is none. -/
theorem iClz_spec (a : Word) :
    (iClz a).toNat ≤ 32 ∧ (∀ i, i < (iClz a).toNat → a.getMsbD i = false) ∧ ((iClz a).toNat < 32 → a.getMsbD (iClz a).toNat = true) := by
  by_cases ha : a = 0
  · subst ha
    simp [iClz]
  have hn : a.toNat ≠ 0 := fun h => ha (BitVec.eq_of_toNat_eq h)
  have hlog : Nat.log2 a.toNat < 32 := (Nat.log2_lt hn).mpr a.isLt
  have hv : (iClz a).toNat = 31 - Nat.log2 a.toNat := by
    rw [iClz, if_neg ha, BitVec.toNat_ofNat]
    omega
  rw [hv]
  refine ⟨by omega, fun i hi => ?_, fun _ => ?_⟩
  · rw [BitVec.getMsbD_eq_getLsbD, BitVec.getLsbD, Nat.testBit_lt_two_pow, Bool.and_false]
    exact (Nat.log2_lt hn).mp (by omega)
  · have hi : 32 - 1 - (31 - Nat.log2 a.toNat) = Nat.log2 a.toNat := by omega
    rw [BitVec.getMsbD_eq_getLsbD, hi, BitVec.getLsbD, Nat.testBit_log2 hn, Bool.and_true, decide_eq_true_eq]
    omega

theorem popGo_eq_countP (n x : Nat) : popGo n x = (List.range n).countP (fun i => x.testBit i) := by
  induction n generalizing x with
  | zero => rfl
  | succ n ih =>
    have hbit : x % 2 = if x.testBit 0 = true then 1 else 0 := by
      rw [Nat.testBit_zero]
      rcases Nat.mod_two_eq_zero_or_one x with h | h <;> simp [h]
    rw [popGo, ih, List.range_succ_eq_map, List.countP_cons, List.countP_map, hbit, Nat.add_comm]
    simp only [Function.comp_def, Nat.testBit_succ]

theorem iPopc_eq (a : Word) : iPopc a = BitVec.ofNat 32 ((List.range 32).countP (fun i => a.getLsbD i)) :=
  congrArg (BitVec.ofNat 32) (popGo_eq_countP 32 a.toNat)

/-- Reversing `n` bits over an accumulator: the bits stand in reverse below it. -/
theorem testBit_brevGo (n x acc i : Nat) :
    (brevGo n x acc).testBit i = if i < n then x.testBit (n - 1 - i) else acc.testBit (i - n) := by
  induction n generalizing x acc with
  | zero => rfl
  | succ n ih =>
    rw [brevGo, ih]
    rcases Nat.lt_trichotomy i n with h | rfl | h
    · rw [if_pos h, if_pos (by omega), Nat.testBit_div_two, show n - 1 - i + 1 = n + 1 - 1 - i by omega]
    · rw [if_neg (by omega), if_pos (by omega), Nat.sub_self, Nat.add_sub_cancel, Nat.sub_self, Nat.testBit_zero, Nat.testBit_zero]
      simp only [Nat.mul_add_mod, Nat.mod_mod]
    · rw [if_neg (by omega), if_neg (by omega), show i - n = (i - (n + 1)) + 1 by omega, Nat.testBit_succ]
      congr 1
      omega

theorem getLsbD_iBrev {a : Word} {i : Nat} (h : i < 32) : (iBrev a).getLsbD (31 - i) = a.getLsbD i := by
  have hi : 31 - i < 32 := by omega
  have hr : 32 - 1 - (31 - i) = i := by omega
  rw [iBrev, BitVec.getLsbD_ofNat, testBit_brevGo, if_pos hi, hr, decide_eq_true hi, Bool.true_and, BitVec.getLsbD]

/-- A rotation takes its count modulo 32 (R75). -/
theorem iRol_amt (x y : Word) : iRol x (amt y) = x.rotateLeft (y.toNat % 32) :=
  congrArg x.rotateLeft (Nat.mod_mod _ 32)

/-- The lowest field of a word (R9). -/
theorem bits_zero {w : Nat} (x : BitVec w) (hi : Nat) : bits x hi 0 = x.toNat % 2 ^ (hi + 1) :=
  congrArg (· % 2 ^ (hi + 1)) (Nat.div_one x.toNat)

/-- BFE (R76): the sign that is extended is the top bit of the field. -/
theorem iBfe_eq (a b : Word) : iBfe a b =
    let pos := b.toNat % 32
    let len := min (b.toNat / 2 ^ 8 % 64) 32
    let f : Nat := a.toNat / 2 ^ pos % 2 ^ len
    if b.getLsbD 16 = true ∧ 0 < len ∧ f.testBit (len - 1) = true then BitVec.ofInt 32 ((f : Int) - (2 ^ len : Nat)) else BitVec.ofNat 32 f := by
  have hpos : bits b 4 0 = b.toNat % 32 := bits_zero b 4
  have hlen : bits b 13 8 = b.toNat / 2 ^ 8 % 64 := rfl
  have htop : ∀ f n : Nat, f / 2 ^ n % 2 = 1 ↔ f.testBit n = true := fun f n => by
    rw [Nat.testBit_eq_decide_div_mod_eq, decide_eq_true_eq]
  have hpow : ∀ n : Nat, ((2 ^ n : Nat) : Int) = 2 ^ n := Int.natCast_pow 2
  simp only [iBfe, hpos, hlen]
  exact ite_congr (propext (and_congr_right' (and_congr_right' (htop ..)))) (fun _ => by rw [hpow]) (fun _ => rfl)

theorem iBfi_eq (a b d : Word) : iBfi a b d =
    let pos := b.toNat % 32
    let len := min (b.toNat / 2 ^ 8 % 64) 32
    let mask : Word := BitVec.ofNat 32 ((2 ^ len - 1) * 2 ^ pos)
    (d &&& ~~~ mask) ||| ((a <<< pos) &&& mask) := by
  have hpos : bits b 4 0 = b.toNat % 32 := bits_zero b 4
  have hlen : bits b 13 8 = b.toNat / 2 ^ 8 % 64 := rfl
  have hshift : ∀ k, BitVec.ofNat 32 (a.toNat * 2 ^ k) = a <<< k := fun k =>
    BitVec.eq_of_toNat_eq (by rw [BitVec.toNat_ofNat, BitVec.toNat_shiftLeft, Nat.shiftLeft_eq])
  simp only [iBfi, hpos, hlen, hshift]

/-- A field as a number is the field as a word (R9). -/
theorem bits_eq_extractLsb' {w : Nat} (x : BitVec w) (lo n : Nat) : bits x (lo + n) lo = (x.extractLsb' lo (n + 1)).toNat := by
  rw [bits, bitsN, BitVec.extractLsb'_toNat, Nat.shiftRight_eq_div_pow, show lo + n + 1 - lo = n + 1 by omega]

/-- The byte that a selector of PRMT names, or its sign throughout (R76). -/
def prmtByteOf (x : DWord) (y : Word) (i : Nat) : Byte :=
  let byte := x.extractLsb' (8 * (y.toNat / 2 ^ (4 * i) % 8)) 8
  if y.getLsbD (4 * i + 3) then (if byte.msb then 0xFF else 0) else byte

theorem prmtByte_eq (x : DWord) (y : Word) (i : Nat) : prmtByte x y i = (prmtByteOf x y i).toNat := by
  have hsel : bits y (4 * i + 2) (4 * i) = y.toNat / 2 ^ (4 * i) % 8 := by
    rw [bits, bitsN, show 4 * i + 2 + 1 - 4 * i = 3 by omega, show 2 ^ 3 = 8 from rfl]
  have hsign : (bits y (4 * i + 3) (4 * i + 3) = 1) ↔ y.getLsbD (4 * i + 3) = true := by
    rw [bits, bitsN, Nat.add_sub_cancel_left, BitVec.getLsbD, Nat.testBit_eq_decide_div_mod_eq, decide_eq_true_eq, Nat.pow_one]
  have hbyte : ∀ k, bits x (8 * k + 7) (8 * k) = (x.extractLsb' (8 * k) 8).toNat := fun k => bits_eq_extractLsb' x (8 * k) 7
  simp only [prmtByte, prmtByteOf, hsel, hsign, hbyte]
  generalize x.extractLsb' (8 * (y.toNat / 2 ^ (4 * i) % 8)) 8 = byte
  have hbit : byte.toNat / 2 ^ 7 = if byte.msb then 1 else 0 := by
    simp only [BitVec.msb_eq_decide, decide_eq_true_eq]
    have := byte.isLt
    split <;> omega
  rw [hbit]
  cases byte.msb <;> split <;> rfl

theorem extractLsb'_iPrmt (x : DWord) (y : Word) {i : Nat} (h : i < 4) : (iPrmt x y).extractLsb' (8 * i) 8 = prmtByteOf x y i := by
  apply BitVec.eq_of_toNat_eq
  simp only [iPrmt, prmtByte_eq, BitVec.extractLsb'_toNat, BitVec.toNat_ofNat, Nat.shiftRight_eq_div_pow]
  have h0 := (prmtByteOf x y 0).isLt
  have h1 := (prmtByteOf x y 1).isLt
  have h2 := (prmtByteOf x y 2).isLt
  have h3 := (prmtByteOf x y 3).isLt
  match i, h with
  | 0, _ | 1, _ | 2, _ | 3, _ => omega

/-! The divisions (R77): the corners are those of the rule. -/

theorem iDiv_eq (a b : Word) : (iDivRem a b).1 =
    if b = 0 then 0xFFFFFFFF else if a = 0x80000000 ∧ b = 0xFFFFFFFF then 0x80000000 else BitVec.ofInt 32 (a.toInt.tdiv b.toInt) := by
  unfold iDivRem
  split
  · rfl
  split
  next h =>
    obtain ⟨rfl, rfl⟩ := h
    rfl
  · rfl

theorem iRem_eq (a b : Word) : (iDivRem a b).2 =
    if b = 0 then a else if a = 0x80000000 ∧ b = 0xFFFFFFFF then 0 else BitVec.ofInt 32 (a.toInt - a.toInt.tdiv b.toInt * b.toInt) := by
  unfold iDivRem
  split
  · rfl
  split
  next h =>
    obtain ⟨rfl, rfl⟩ := h
    rfl
  · rw [Int.tmod_def, Int.mul_comm]

theorem iDivU_eq (a b : Word) : (iDivRemU a b).1 = if b = 0 then 0xFFFFFFFF else BitVec.ofNat 32 (a.toNat / b.toNat) := by
  unfold iDivRemU
  split <;> rfl

theorem iRemU_eq (a b : Word) : (iDivRemU a b).2 = if b = 0 then a else BitVec.ofNat 32 (a.toNat - a.toNat / b.toNat * b.toNat) := by
  unfold iDivRemU
  split
  · rfl
  · rw [Nat.mod_eq_sub_div_mul]

/-- MOVH (R78): the immediate above the low 14 bits of d. -/
theorem iMovh_eq (i : BitVec 18) (z : Word) : iMovh i z = (i.zeroExtend 32 <<< 14) ||| (z &&& 0x3FFF) := by
  apply BitVec.eq_of_toNat_eq
  have hi := i.isLt
  have hmask : z.toNat &&& (0x3FFF : Word).toNat = z.toNat % 2 ^ 14 := Nat.and_two_pow_sub_one_eq_mod _ 14
  have hlow : z.toNat % 2 ^ 14 < 2 ^ 14 := Nat.mod_lt _ (by decide)
  have hor := Nat.shiftLeft_add_eq_or_of_lt hlow i.toNat
  have himm : i.toNat % 2 ^ 32 = i.toNat := Nat.mod_eq_of_lt (by omega)
  have hhigh : i.toNat <<< 14 % 2 ^ 32 = i.toNat <<< 14 := Nat.mod_eq_of_lt (by rw [Nat.shiftLeft_eq]; omega)
  rw [BitVec.toNat_or, BitVec.toNat_and, hmask, BitVec.toNat_shiftLeft, BitVec.zeroExtend, BitVec.toNat_setWidth, himm, hhigh, ← hor, iMovh,
    BitVec.toNat_ofNat, Nat.shiftLeft_eq]
  omega

/-- SEXT (R81): a field at the top of a word, shifted down with its sign. -/
theorem iSextW_eq (x : Word) {w : Nat} (hw : w ≤ 32) : iSextW x w = (x <<< (32 - w)).sshiftRight (32 - w) := by
  obtain ⟨k, hk⟩ := Nat.exists_eq_add_of_le hw
  rw [← BitVec.ofInt_toInt (x := (x <<< (32 - w)).sshiftRight (32 - w)), iSextW]
  congr 1
  have hpow : (2 : Nat) ^ 32 = 2 ^ w * 2 ^ k := by rw [hk, Nat.pow_add]
  have htop : x.toNat <<< k % 2 ^ 32 = x.toNat % 2 ^ w * 2 ^ k := by rw [Nat.shiftLeft_eq, hpow, Nat.mul_mod_mul_right]
  rw [show 32 - w = k by omega, BitVec.toInt_sshiftRight, BitVec.toInt_eq_toNat_cond, BitVec.toNat_shiftLeft, htop, Int.shiftRight_eq_div_pow, sextN]
  have hsign : 2 * (x.toNat % 2 ^ w * 2 ^ k) < 2 ^ 32 ↔ 2 * (x.toNat % 2 ^ w) < 2 ^ w := by
    rw [hpow, ← Nat.mul_assoc]
    exact Nat.mul_lt_mul_right (Nat.two_pow_pos k)
  simp only [hsign]
  have hnz : ((2 ^ k : Nat) : Int) ≠ 0 := Int.ofNat_ne_zero.mpr (Nat.ne_of_gt (Nat.two_pow_pos k))
  have hcast : ((2 ^ w : Nat) : Int) = 2 ^ w := Int.natCast_pow 2 w
  split
  · rw [Int.natCast_mul, Int.mul_ediv_cancel _ hnz]
  · rw [hpow, Int.natCast_mul, Int.natCast_mul, ← Int.sub_mul, Int.mul_ediv_cancel _ hnz, hcast]

/-- The scaled index of LEA (R80). -/
theorem ofNat_mul_two_pow_eq_shiftLeft (y : Word) (k : Nat) : BitVec.ofNat 64 (y.toNat * 2 ^ k) = y.zeroExtend 64 <<< k := by
  have hy : y.toNat % 2 ^ 64 = y.toNat := Nat.mod_eq_of_lt (Nat.lt_trans y.isLt (by decide))
  apply BitVec.eq_of_toNat_eq
  rw [BitVec.toNat_ofNat, BitVec.toNat_shiftLeft, Nat.shiftLeft_eq, BitVec.zeroExtend, BitVec.toNat_setWidth, hy]

/-! The register words: from the sources that are read and the destination that is named to the state after the word (R23–R25, R27). -/

/-- A negation bit turns a predicate (R79, R84). -/
theorem bne_eq_xor (p n : Bool) : (p != n) = (p ^^ n) := by
  cases p <;> cases n <;> rfl

section
variable {c : Ctx} {d a b : BitVec 7} {dst : Dst}

theorem op1_ok {f : Word → Word} {x : Word} (hw : Writes c 1 d dst [a] false) (ha : Reads c a x) : op1 f d a c = .ok (c.write dst [f x]) := by
  obtain ⟨hd, hu⟩ := hw
  rw [Reads] at ha
  simp only [op1, hd, ha, hu, res_ok_bind]

theorem op2_ok {f : Word → Word → Word} {x y : Word} (hw : Writes c 1 d dst [a, b] false) (ha : Reads c a x) (hb : Reads c b y) :
    op2 f d a b c = .ok (c.write dst [f x y]) := by
  obtain ⟨hd, hu⟩ := hw
  rw [Reads] at ha hb
  simp only [op2, hd, ha, hb, hu, res_ok_bind]

theorem op3_ok {f : Word → Word → Word → Word} {x y z : Word} (hw : Writes c 1 d dst [d, a, b] false) (ha : Reads c a x) (hb : Reads c b y)
    (hd : Reads c d z) : op3 f d a b c = .ok (c.write dst [f x y z]) := by
  obtain ⟨hdst, hu⟩ := hw
  rw [Reads] at ha hb hd
  simp only [op3, hdst, ha, hb, hd, hu, res_ok_bind]

theorem op1p_ok {f : DWord → DWord} {x : DWord} (hw : Writes c 2 d dst [a] false) (ha : Reads64 c a x) :
    op1p f d a c = .ok (c.write64 dst (f x)) := by
  obtain ⟨hd, hu⟩ := hw
  rw [Reads64] at ha
  simp only [op1p, hd, ha, hu, res_ok_bind]

theorem op2p_ok {f : DWord → DWord → DWord} {x y : DWord} (hw : Writes c 2 d dst [a, b] false) (ha : Reads64 c a x) (hb : Reads64 c b y) :
    op2p f d a b c = .ok (c.write64 dst (f x y)) := by
  obtain ⟨hd, hu⟩ := hw
  rw [Reads64] at ha hb
  simp only [op2p, hd, ha, hb, hu, res_ok_bind]

theorem divRegs_ok {f : Word → Word → Word} {x y : Word} (hw : Writes c 1 d dst [a, b] false) (ha : Reads c a x) (hb : Reads c b y) :
    divRegs f d a b c = .ok { c := c, dst := dst, vals := [f x y] } := by
  obtain ⟨hd, hu⟩ := hw
  rw [Reads] at ha hb
  simp only [divRegs, hd, ha, hb, hu, res_ok_bind]

theorem madwRegs_ok {x y : Word} {z : DWord} (hw : Writes c 2 d dst [d, a, b] false) (ha : Reads c a x) (hb : Reads c b y) (hd : Reads64 c d z) :
    madwRegs d a b c = .ok (c.write64 dst (iMadw x y z)) := by
  obtain ⟨hdst, hu⟩ := hw
  rw [Reads] at ha hb
  rw [Reads64] at hd
  simp only [madwRegs, hdst, ha, hb, hd, hu, res_ok_bind]

theorem prmtRegs_ok {x : DWord} {y : Word} (hw : Writes c 1 d dst [a, b] false) (ha : Reads64 c a x) (hb : Reads c b y) :
    prmtRegs d a b c = .ok (c.write dst [iPrmt x y]) := by
  obtain ⟨hd, hu⟩ := hw
  rw [Reads64] at ha
  rw [Reads] at hb
  simp only [prmtRegs, hd, ha, hb, hu, res_ok_bind]

theorem movwRegs_ok {i : BitVec 18} (hd : dest c 1 d = .ok dst) : movwRegs d i c = .ok (c.write dst [i.signExtend 32]) := by
  simp only [movwRegs, hd, res_ok_bind]

theorem leaRegs_ok {sh : BitVec 4} {x : DWord} {y : Word} (hw : Writes c 2 d dst [a, b] false) (ha : Reads64 c a x) (hb : Reads c b y) :
    leaRegs sh d a b c = .ok (c.write64 dst (x + BitVec.ofNat 64 (y.toNat * 2 ^ sh.toNat))) := by
  obtain ⟨hd, hu⟩ := hw
  rw [Reads64] at ha
  rw [Reads] at hb
  simp only [leaRegs, hd, ha, hb, hu, res_ok_bind]

theorem selRegs_ok {n : Bool} {p : BitVec 3} {x y : Word} (hw : Writes c 1 d dst [a, b] true) (ha : Reads c a x) (hb : Reads c b y) :
    selRegs n p d a b c = .ok (c.write dst [if (c.pred p ^^ n) = true then x else y]) := by
  obtain ⟨hd, hu⟩ := hw
  rw [Reads] at ha hb
  simp only [selRegs, hd, ha, hb, hu, res_ok_bind, bne_eq_xor]

theorem pmovRegs_ok (hw : Writes c 1 d dst [] true) : pmovRegs d c = .ok (c.write dst [BitVec.ofNat 32 (128 + c.th.preds.toNat)]) := by
  obtain ⟨hd, hu⟩ := hw
  simp only [pmovRegs, hd, hu, res_ok_bind]

theorem psetRegs_ok {x y : Word} (ha : Reads c a x) (hb : Reads c b y) :
    psetRegs a b c = .ok { c with th := { c.th with preds := psetBits c.th.preds x y } } := by
  rw [Reads] at ha hb
  simp only [psetRegs, ha, hb, res_ok_bind]

theorem cmpiRegs_ok {k : BitVec 4} {p : BitVec 3} {i : BitVec 11} {x : Word} (ha : Reads c a x) :
    cmpiRegs k p a i c = .ok (c.setPred p (icmpCond k.toNat x (i.signExtend 32))) := by
  rw [Reads] at ha
  simp only [cmpiRegs, ha, res_ok_bind]
  rfl

section
variable {f : Word → Nat → Word} {w : BitVec 7} {x : Word} (hw : Writes c 1 d dst [a] false) (ha : Reads c a x)
include hw ha

theorem extRegs_ok (h : 1 ≤ w.toNat ∧ w.toNat ≤ 32) : extRegs f d a w c = .ok (c.write dst [f x w.toNat]) := by
  obtain ⟨hd, hu⟩ := hw
  rw [Reads] at ha
  simp only [extRegs, hd, ha, hu, res_ok_bind, h, decide_true, Bool.and_self, require_true]

theorem extRegs_trap (h : ¬ (1 ≤ w.toNat ∧ w.toNat ≤ 32)) : extRegs f d a w c = .error c.illegal := by
  obtain ⟨hd, hu⟩ := hw
  rw [Reads] at ha
  have hr : (decide (1 ≤ w.toNat) && decide (w.toNat ≤ 32)) = false := by rw [← Bool.decide_and, decide_eq_false h]
  simp only [extRegs, hd, ha, hu, res_ok_bind, require_error hr, res_error_bind]

end
end

/-- How a condition enters a predicate (R82). -/
theorem combine_eq (k : BitVec 2) (p t : Bool) : combine k p t = Combined k p t := by
  revert k p t
  decide

theorem cmp32_ok {f : Word → Word → Bool} {k : BitVec 2} {p : BitVec 3} {a b : BitVec 7} {c : Ctx} {x y : Word} (ha : Reads c a x) (hb : Reads c b y) :
    cmp32 f k p a b c = .ok (c.setPred p (Combined k (c.pred p) (f x y))) := by
  rw [Reads] at ha hb
  simp only [cmp32, ha, hb, res_ok_bind, setCond, combine_eq]

theorem cmp64_ok {f : DWord → DWord → Bool} {k : BitVec 2} {p : BitVec 3} {a b : BitVec 7} {c : Ctx} {x y : DWord} (ha : Reads64 c a x)
    (hb : Reads64 c b y) : cmp64 f k p a b c = .ok (c.setPred p (Combined k (c.pred p) (f x y))) := by
  rw [Reads64] at ha hb
  simp only [cmp64, ha, hb, res_ok_bind, setCond, combine_eq]

/-! The shapes of the statements, from the meaning that `exec` calls and the value that it computes. -/

section
variable {mk1 : Bool → BitVec 7 → BitVec 7 → Instr} {mk : Bool → BitVec 7 → BitVec 7 → BitVec 7 → Instr}
  {mkc : Bool → BitVec 2 → BitVec 3 → BitVec 7 → BitVec 7 → Instr}

theorem word1_of_op1 {f g : Word → Word} (he : ∀ h d a s, exec (mk1 h d a) s = issueReg h s (op1 g d a)) (hg : ∀ x, g x = f x) : Word1 mk1 f := by
  intro s c h d a dst x hx hw ha
  rw [he, ← hg]
  exact issueReg_ok hx h (op1_ok hw ha) (write_t ..)

theorem word1Rel_of_op1 {g : Word → Word} {R : Word → Word → Prop} (he : ∀ h d a s, exec (mk1 h d a) s = issueReg h s (op1 g d a))
    (hR : ∀ x, R x (g x)) : Word1Rel mk1 R := by
  intro s c h d a dst x hx hw ha
  refine ⟨g x, hR x, ?_⟩
  rw [he]
  exact issueReg_ok hx h (op1_ok hw ha) (write_t ..)

theorem word2_of_op2 {f g : Word → Word → Word} (he : ∀ h d a b s, exec (mk h d a b) s = issueReg h s (op2 g d a b))
    (hg : ∀ x y, g x y = f x y) : Word2 mk f := by
  intro s c h d a b dst x y hx hw ha hb
  rw [he, ← hg]
  exact issueReg_ok hx h (op2_ok hw ha hb) (write_t ..)

theorem word3_of_op3 {f g : Word → Word → Word → Word} (he : ∀ h d a b s, exec (mk h d a b) s = issueReg h s (op3 g d a b))
    (hg : ∀ x y z, g x y z = f x y z) : Word3 mk f := by
  intro s c h d a b dst x y z hx hw ha hb hd
  rw [he, ← hg]
  exact issueReg_ok hx h (op3_ok hw ha hb hd) (write_t ..)

theorem pair2_of_op2p {f : DWord → DWord → DWord} (he : ∀ h d a b s, exec (mk h d a b) s = issueReg h s (op2p f d a b)) : Pair2 mk f := by
  intro s c h d a b dst x y hx hw ha hb
  rw [he]
  exact issueReg_ok hx h (op2p_ok hw ha hb) (write64_t ..)

theorem var2_of_divRegs {f g : Word → Word → Word} (he : ∀ h d a b s, exec (mk h d a b) s = issueVar h s (divRegs g d a b))
    (hg : ∀ x y, g x y = f x y) : Var2 mk f := by
  intro s c h d a b dst x y hx hw ha hb
  rw [he, ← hg]
  exact issueVar_ok hx h (divRegs_ok hw ha hb)

theorem imm1_of_op1 {w : Nat} {mki : Bool → BitVec 7 → BitVec 7 → BitVec w → Instr} {f : Word → BitVec w → Word}
    (he : ∀ h d a i s, exec (mki h d a i) s = issueReg h s (op1 (fun x => f x i) d a)) : Imm1 mki f := by
  intro s c h d a i dst x hx hw ha
  rw [he]
  exact issueReg_ok hx h (op1_ok hw ha) (write_t ..)

theorem immPair_of_op1p {w : Nat} {mki : Bool → BitVec 7 → BitVec 7 → BitVec w → Instr} {f : DWord → BitVec w → DWord}
    (he : ∀ h d a i s, exec (mki h d a i) s = issueReg h s (op1p (fun x => f x i) d a)) : ImmPair mki f := by
  intro s c h d a i dst x hx hw ha
  rw [he]
  exact issueReg_ok hx h (op1p_ok hw ha) (write64_t ..)

theorem cond32_of_cmp32 {t u : Word → Word → Bool} (he : ∀ h k p a b s, exec (mkc h k p a b) s = issueReg h s (cmp32 u k p a b))
    (hu : ∀ x y, u x y = t x y) : Cond32 mkc t := by
  intro s c h k p a b x y hx ha hb
  rw [he, ← hu]
  exact issueReg_ok hx h (cmp32_ok ha hb) (setPred_t ..)

theorem cond64_of_cmp64 {t u : DWord → DWord → Bool} (he : ∀ h k p a b s, exec (mkc h k p a b) s = issueReg h s (cmp64 u k p a b))
    (hu : ∀ x y, u x y = t x y) : Cond64 mkc t := by
  intro s c h k p a b x y hx ha hb
  rw [he, ← hu]
  exact issueReg_ok hx h (cmp64_ok ha hb) (setPred_t ..)

end

/-! The statements O2 to O7. -/

/-- Settles O2: each minor is a function of two registers, by the law of its value. -/
theorem iopMinorsCompute : Obligations.IopMinorsCompute :=
  ⟨word2_of_op2 exec_add (fun _ _ => rfl), word2_of_op2 exec_sub (fun _ _ => rfl), word2_of_op2 exec_mul (fun _ _ => rfl),
    word2_of_op2 exec_mulh iMulh_eq, word2_of_op2 exec_mulhu iMulhu_eq, word2_of_op2 exec_and (fun _ _ => rfl),
    word2_of_op2 exec_or (fun _ _ => rfl), word2_of_op2 exec_xor (fun _ _ => rfl), word2_of_op2 exec_andn (fun _ _ => rfl),
    word2_of_op2 exec_shl (fun _ _ => rfl), word2_of_op2 exec_shr (fun _ _ => rfl), word2_of_op2 exec_sar (fun _ _ => rfl),
    word2_of_op2 exec_min iMin_eq, word2_of_op2 exec_max iMax_eq, word2_of_op2 exec_minu iMinU_eq, word2_of_op2 exec_maxu iMaxU_eq⟩

/-- Settles O3: the counts and the reversal by their bits, the other minors by their values. -/
theorem iopxMinorsCompute : Obligations.IopxMinorsCompute := by
  refine ⟨pair2_of_op2p exec_add64, pair2_of_op2p exec_sub64, pair2_of_op2p exec_mul64, word3_of_op3 exec_mad (fun _ _ _ => rfl), ?madw,
    word1Rel_of_op1 exec_clz iClz_spec, word1_of_op1 exec_popc iPopc_eq, word1Rel_of_op1 exec_brev (fun _ _ => getLsbD_iBrev),
    word2_of_op2 exec_rol iRol_amt⟩
  case madw =>
    intro s c h d a b dst x y z hx hw ha hb hd
    rw [← iMadw_eq]
    exact issueReg_ok hx h (madwRegs_ok hw ha hb hd) (write64_t ..)

/-- Settles O4: the permutation byte by byte. -/
theorem fieldMinorsCompute : Obligations.FieldMinorsCompute := by
  refine ⟨word2_of_op2 exec_bfe iBfe_eq, word3_of_op3 exec_bfi iBfi_eq, ?prmt⟩
  case prmt =>
    intro s c h d a b dst x y hx hw ha hb
    exact ⟨iPrmt x y, fun i hi => extractLsb'_iPrmt x y hi, issueReg_ok hx h (prmtRegs_ok hw ha hb) (write_t ..)⟩

/-- Settles O5: the quotient and the remainder with their corners, on their way to the destination. -/
theorem divisionMinorsCompute : Obligations.DivisionMinorsCompute :=
  ⟨var2_of_divRegs exec_div iDiv_eq, var2_of_divRegs exec_rem iRem_eq, var2_of_divRegs exec_divu iDivU_eq, var2_of_divRegs exec_remu iRemU_eq⟩

/-- Settles O6: the immediates by their shape, the extensions by their width. -/
theorem immediateFormsCompute : Obligations.ImmediateFormsCompute := by
  refine ⟨imm1_of_op1 exec_addi, imm1_of_op1 exec_andi, imm1_of_op1 exec_ori, imm1_of_op1 exec_xori, imm1_of_op1 exec_muli,
    imm1_of_op1 exec_shli, imm1_of_op1 exec_shri, imm1_of_op1 exec_sari, imm1_of_op1 exec_roli,
    immPair_of_op1p exec_shli64, immPair_of_op1p exec_shri64, immPair_of_op1p exec_sari64, ?movw, ?movh, word1_of_op1 exec_mov (fun _ => rfl),
    ?mov64, ?lea, ?ext⟩
  case movw => exact fun s c h d i dst hx hd => issueReg_ok hx h (movwRegs_ok hd) (write_t ..)
  case movh =>
    intro s c h d i dst z hx hw hd
    rw [← iMovh_eq]
    exact issueReg_ok hx h (op1_ok hw hd) (write_t ..)
  case mov64 => exact fun s c h d a dst x hx hw ha => issueReg_ok hx h (op1p_ok hw ha) (write64_t ..)
  case lea =>
    intro s c h sh d a b dst x y hx hw ha hb
    rw [← ofNat_mul_two_pow_eq_shiftLeft]
    exact issueReg_ok hx h (leaRegs_ok hw ha hb) (write64_t ..)
  case ext =>
    intro s c h d a w dst x hx hw ha
    refine ⟨fun hr => ⟨issueReg_ok hx h (extRegs_ok hw ha hr) (write_t ..), ?_⟩,
      fun hr => ⟨issueReg_trap hx h (extRegs_trap hw ha hr), issueReg_trap hx h (extRegs_trap hw ha hr)⟩⟩
    rw [← iSextW_eq x hr.2]
    exact issueReg_ok hx h (extRegs_ok hw ha hr) (write_t ..)

/-! The predicates (R28, R81). -/

theorem pred_seven (c : Ctx) : c.pred 7 = true := rfl
theorem pred_of_ne {k : BitVec 3} (h : k ≠ 7) (c : Ctx) : c.pred k = c.th.preds.getLsbD k.toNat := if_neg h
theorem toNat_lt_seven {k : BitVec 3} (h : k ≠ 7) : k.toNat < 7 := by
  have : k.toNat ≠ 7 := fun e => h (BitVec.eq_of_toNat_eq e)
  omega

theorem getLsbD_setPred (p : BitVec 7) (k : Nat) (v : Bool) {j : Nat} (hj : j < 7) :
    (Machine.setPred p k v).getLsbD j = if k = j then v else p.getLsbD j := by
  have one : (BitVec.ofNat 7 (2 ^ k)).getLsbD j = decide (k = j) := by
    rw [BitVec.getLsbD_ofNat, decide_eq_true hj, Bool.true_and, Nat.testBit_two_pow]
  unfold Machine.setPred
  by_cases hk : k < 7
  · rw [if_pos hk]
    cases v with
    | true =>
      rw [if_pos rfl, BitVec.getLsbD_or, one]
      by_cases e : k = j <;> simp [e]
    | false =>
      rw [if_neg Bool.false_ne_true, BitVec.getLsbD_and, BitVec.getLsbD_not, one, decide_eq_true hj]
      by_cases e : k = j <;> simp [e]
  · rw [if_neg hk, if_neg (by omega)]

/-- PSET over the predicates below `n`: those that the mask names are set. -/
theorem getLsbD_psetUpTo (p : BitVec 7) (v m : Word) {j : Nat} (hj : j < 7) (n : Nat) :
    ((List.range n).foldl (fun q k => if bit m k then Machine.setPred q k (bit v k) else q) p).getLsbD j =
      if j < n ∧ m.getLsbD j = true then v.getLsbD j else p.getLsbD j := by
  induction n with
  | zero => exact (if_neg (fun e => Nat.not_lt_zero j e.1)).symm
  | succ n ih =>
    rw [List.range_succ, List.foldl_append, List.foldl_cons, List.foldl_nil, apply_ite (BitVec.getLsbD · j), getLsbD_setPred _ _ _ hj, ih]
    by_cases e : n = j
    · subst e
      simp [bit]
    · have hlt : j < n + 1 ↔ j < n := by omega
      simp only [if_neg e, ite_self, hlt]

theorem getLsbD_psetBits (p : BitVec 7) (v m : Word) {j : Nat} (hj : j < 7) :
    (psetBits p v m).getLsbD j = if m.getLsbD j = true then v.getLsbD j else p.getLsbD j := by
  rw [psetBits, getLsbD_psetUpTo p v m hj]
  simp only [hj, true_and]

/-- The word that PMOV reads (R81): predicate k at bit k, p7 as 1. -/
theorem getLsbD_pmov (c : Ctx) (k : BitVec 3) : (BitVec.ofNat 32 (128 + c.th.preds.toNat)).getLsbD k.toNat = c.pred k := by
  have hk : k.toNat < 32 := by omega
  rw [BitVec.getLsbD_ofNat, decide_eq_true hk, Bool.true_and, show 128 = 2 ^ 7 from rfl]
  by_cases h : k = 7
  · subst h
    rw [pred_seven]
    refine (Nat.testBit_two_pow_add_eq _ 7).trans ?_
    rw [Nat.testBit_lt_two_pow c.th.preds.isLt, Bool.not_false]
  · rw [pred_of_ne h, Nat.testBit_two_pow_add_gt (toNat_lt_seven h), BitVec.getLsbD]

/-- PSET leaves p7 and sets the others that its mask names (R81). -/
theorem pred_psetBits (c : Ctx) (x y : Word) (k : BitVec 3) :
    ({ c with th := { c.th with preds := psetBits c.th.preds x y } } : Ctx).pred k =
      if k ≠ 7 ∧ y.getLsbD k.toNat = true then x.getLsbD k.toNat else c.pred k := by
  by_cases h : k = 7
  · subst h
    rw [if_neg (fun e => e.1 rfl)]
    rfl
  · rw [pred_of_ne h, pred_of_ne h, getLsbD_psetBits _ _ _ (toNat_lt_seven h)]
    simp only [ne_eq, h, not_false_eq_true, true_and]

/-- The conditions of CMPI (R83) are those of ICMP. -/
theorem icmpCond_eq_getD {k : BitVec 4} (h : k ≤ 9) (x y : Word) : icmpCond k.toNat x y =
    [x == y, !(x == y), x.slt y, x.sle y, y.slt x, y.sle x, x.ult y, x.ule y, y.ult x, y.ule x].getD k.toNat false := by
  have hk : k.toNat ≤ 9 := h
  generalize k.toNat = n at hk
  match n, hk with
  | 0, _ | 1, _ | 2, _ | 3, _ | 4, _ | 5, _ | 6, _ | 7, _ | 8, _ | 9, _ => rfl

/-- Settles O7: the compares by their conditions; SEL, PMOV and PSET by the predicates. -/
theorem comparesSetPredicates : Obligations.ComparesSetPredicates := by
  refine ⟨cond32_of_cmp32 exec_icmpEq (fun _ _ => rfl), cond32_of_cmp32 exec_icmpNe (fun _ _ => rfl), cond32_of_cmp32 exec_icmpLt (fun _ _ => rfl),
    cond32_of_cmp32 exec_icmpLe (fun _ _ => rfl), cond32_of_cmp32 exec_icmpGt (fun _ _ => rfl), cond32_of_cmp32 exec_icmpGe (fun _ _ => rfl),
    cond32_of_cmp32 exec_icmpLtu (fun _ _ => rfl), cond32_of_cmp32 exec_icmpLeu (fun _ _ => rfl), cond32_of_cmp32 exec_icmpGtu (fun _ _ => rfl),
    cond32_of_cmp32 exec_icmpGeu (fun _ _ => rfl), cond64_of_cmp64 exec_icmpEq64 (fun _ _ => rfl), cond64_of_cmp64 exec_icmpNe64 (fun _ _ => rfl),
    cond64_of_cmp64 exec_icmpLt64 (fun _ _ => rfl), cond64_of_cmp64 exec_icmpLtu64 (fun _ _ => rfl), cond32_of_cmp32 exec_icmpBtst (fun _ _ => rfl),
    ?cmpi, ?sel, ?pmov, ?pset⟩
  case cmpi =>
    intro s c h k p a i x hx ha hk
    refine (issueReg_ok hx h (cmpiRegs_ok ha) (setPred_t ..)).trans ?_
    rw [icmpCond_eq_getD hk]
  case sel => exact fun s c h n p d a b dst x y hx hw ha hb => issueReg_ok hx h (selRegs_ok hw ha hb) (write_t ..)
  case pmov =>
    intro s c h d dst hx hw
    refine ⟨_, getLsbD_pmov c, ?_, issueReg_ok hx h (pmovRegs_ok hw) (write_t ..)⟩
    have := c.th.preds.isLt
    rw [BitVec.toNat_ofNat]
    omega
  case pset =>
    intro s c h a b x y hx ha hb
    exact ⟨_, pred_psetBits c x y, rfl, issueReg_ok hx h (psetRegs_ok ha hb) rfl⟩

/-! The words of a pair, and a change that is none. -/

theorem loWord_eq (x : DWord) : loWord x = x.extractLsb' 0 32 := rfl
theorem hiWord_eq (x : DWord) : hiWord x = x.extractLsb' 32 32 := by
  rw [hiWord, BitVec.extractLsb', Nat.shiftRight_eq_div_pow]

theorem modThread_unchanged (s : State) (t : Tid) : s.modThread t (fun th => th) = s := by
  have same : ∀ g : Group, (if g.gid = t.gid then { g with threads := g.threads.modify t.lane (fun th => th) } else g) = g := fun g => by
    rw [show (fun th : Thread => th) = id from rfl, List.modify_id]
    exact ite_self g
  unfold State.modThread State.modGroup
  simp only [same, List.map_id']

/-! NOP, YIELD, WBASE, UBASE and FMTLD (R65, R72, R73). -/

/-- The format words that FMTLD takes (R73). -/
theorem nfLegal_iff (x : BitVec 16) :
    let sg := (x.extractLsb' 15 1).toNat
    let e := (x.extractLsb' 12 3).toNat
    let m := (x.extractLsb' 9 3).toNat
    let pol := (x.extractLsb' 0 2).toNat
    nfLegal x = true ↔
      ¬ (sg + e + m = 0 ∨ sg + e + m > 8 ∨ e = 7 ∨ pol = 3 ∨ (e = 0 ∧ pol ≠ 0) ∨ (pol = 2 ∧ e < 2) ∨ (pol = 1 ∧ sg + e + m < 2)) := by
  have hs : bits x 15 15 = _ := bits_eq_extractLsb' x 15 0
  have he : bits x 14 12 = _ := bits_eq_extractLsb' x 12 2
  have hm : bits x 11 9 = _ := bits_eq_extractLsb' x 9 2
  have hp : bits x 1 0 = _ := bits_eq_extractLsb' x 0 1
  simp only [nfLegal, nfOf, Nf.width, hs, he, hm, hp, Bool.not_eq_true', ← Bool.not_eq_true, Bool.or_eq_true, Bool.and_eq_true, beq_iff_eq,
    bne_iff_ne, decide_eq_true_eq, or_assoc, gt_iff_lt]

/-- Two checks under one trap are one check of both. -/
theorem require_and {α : Type} (a b : Bool) (r : TrapRec) (k : Res α) :
    (require a r >>= fun _ => require b r >>= fun _ => k) = (require (a && b) r >>= fun _ => k) := by
  cases a <;> rfl

theorem decide_and_decide_iff (p q : Prop) [Decidable p] [Decidable q] : (decide p && decide q) = true ↔ p ∧ q := by
  rw [Bool.and_eq_true, decide_eq_true_eq, decide_eq_true_eq]

/-- A register word that goes on where its check holds, and otherwise raises ILLEGAL_OPERAND. -/
theorem exec_checked {s : State} {c c' : Ctx} {i : Instr} {h b : Bool} {f : Ctx → Res Ctx} {P : Prop} (hx : Executes s c)
    (he : exec i s = issueReg h s f) (hf : f c = (require b c.illegal >>= fun _ => .ok c')) (ht : c'.t = c.t) (hb : b = true ↔ P) :
    (P → exec i s = .next (retired s c' h)) ∧ (¬ P → exec i s = .next (trapNow s c.t c.illegal c.th.blk)) := by
  rw [he]
  constructor
  · exact fun hp => issueReg_ok hx h (by rw [hf, require_ok (hb.mpr hp), res_ok_bind]) ht
  · exact fun hp => issueReg_trap hx h (by rw [hf, require_error (eq_false_of_ne_true (mt hb.mp hp)), res_error_bind])

/-- Settles O16: each window and the format by the condition that its word checks. -/
theorem windowsAndFormats : Obligations.WindowsAndFormats := by
  intro s c h hx
  refine ⟨issueReg_ok hx h (f := fun c => .ok c) rfl rfl,
    issueReg_ok hx h (f := fun c => .ok { c with th := { c.th with yielded := true } }) rfl rfl, fun b => ?_, fun k a y ha => ?_⟩
  · obtain ⟨vector, vectorTraps⟩ := exec_checked hx (exec_wbase h b s) rfl rfl (decide_and_decide_iff ..)
    obtain ⟨uniform, uniformTraps⟩ := exec_checked hx (exec_ubase h b s) rfl rfl (decide_and_decide_iff ..)
    exact ⟨vector, vectorTraps, uniform, uniformTraps⟩
  · rw [Reads] at ha
    refine exec_checked (b := uniSource a && (decide (k.toNat ≤ 7) && nfLegal (y.truncate 16))) hx (exec_fmtld h k a s) ?_ rfl ?_
    · simp only [ha, res_ok_bind, require_and]
      rfl
    · rw [Bool.and_eq_true, Bool.and_eq_true, decide_eq_true_eq]
      exact and_congr_right' (and_congr Iff.rfl (nfLegal_iff _))

/-! SRD (R26, R68–R71). -/

section
variable {s : State} {c : Ctx} {d a b : BitVec 7} {dst : Dst} {n : Nat}
variable (hx : Executes s c) (h : Bool) (hd : dest c 1 d = .ok dst) (hn : a.toNat * 128 + b.toNat = n)
include hx hd hn

theorem exec_srd_at_once (hm : n ∈ sysMap) (hv : sysVar n = false) (hu : dst.isUni = false ∨ sysG n = true) :
    exec (.srd h d a b) s = .next (retired s (c.write dst [sysValue s c n]) h) := by
  have hg : (!dst.isUni || sysG n) = true := by rcases hu with e | e <;> simp [e]
  rw [exec_srd, execSrd, retired, write_t]
  refine issueWith_ok hx h (i := .done (putCtx s (c.write dst [sysValue s c n]))) ?_
  simp only [hn, hd, res_ok_bind, List.contains_iff_mem.mpr hm, hg, require_true, hv, Bool.false_eq_true, if_false]

/-- A read that is delivered later takes its value at the issue (log 33), and may change a capture (R70). -/
theorem exec_srd_later (hm : n ∈ sysMap) (hv : sysVar n = true) (hu : dst.isUni = false ∨ sysG n = true) :
    exec (.srd h d a b) s = .next (later (s.modThread c.t (captures s n)) c h dst [sysValue s c n]) := by
  have hg : (!dst.isUni || sysG n) = true := by rcases hu with e | e <;> simp [e]
  rw [exec_srd, execSrd, later]
  refine issueWith_ok hx h (i := .done (addResult (s.modThread c.t (captures s n)) c.t c.th.pc dst [sysValue s c n])) ?_
  simp only [hn, hd, res_ok_bind, List.contains_iff_mem.mpr hm, hg, require_true, hv, if_true]

theorem exec_srd_unmapped (hm : n ∉ sysMap) : exec (.srd h d a b) s = .next (trapNow s c.t c.illegal c.th.blk) := by
  have hc : sysMap.contains n = false := by simpa using hm
  rw [exec_srd, execSrd]
  refine issueWith_trap hx h ?_
  simp only [hn, hd, res_ok_bind, require_error hc, res_error_bind]

theorem exec_srd_uniform (hm : n ∈ sysMap) (hg : sysG n = false) (hu : dst.isUni = true) :
    exec (.srd h d a b) s = .next (trapNow s c.t c.illegal c.th.blk) := by
  have hr : (!dst.isUni || sysG n) = false := by simp [hg, hu]
  rw [exec_srd, execSrd]
  refine issueWith_trap hx h ?_
  simp only [hn, hd, res_ok_bind, List.contains_iff_mem.mpr hm, require_true, require_error hr, res_error_bind]

end

/-- The registers of the package, the core and the launch (R26, R69). -/
def placeRegs (s : State) (c : Ctx) : List (Nat × Word) :=
  [(0x010, BitVec.ofNat 32 s.pkgId.toNat), (0x011, BitVec.ofNat 32 c.g.die), (0x012, BitVec.ofNat 32 (c.g.core % 48)),
    (0x013, BitVec.ofNat 32 c.g.quad), (0x014, BitVec.ofNat 32 (c.g.core % 48 / 8)), (0x018, BitVec.ofNat 32 c.l.ref.id),
    (0x020, 0x3FFF), (0x021, 0), (0x022, 0), (0x023, 0), (0x110, s.netWeights)]

/-- The registers of the thread (R26). -/
def threadRegs (c : Ctx) : List (Nat × Word) :=
  [(0x040, c.th.vwb.zeroExtend 32), (0x041, c.th.uwb.zeroExtend 32), (0x042, BitVec.ofNat 32 c.th.regs.length),
    (0x044, BitVec.ofNat 32 (min 8 c.th.stack.length * 2 ^ 24 + c.th.stack.length)), (0x048, c.th.trapCause.zeroExtend 32),
    (0x049, c.th.trapPc.extractLsb' 0 32), (0x04A, c.th.trapPc.extractLsb' 32 32), (0x04B, c.th.trapAddr.extractLsb' 0 32),
    (0x04C, c.th.trapAddr.extractLsb' 32 32), (0x04D, c.th.trapInfo), (0x050, ((c.l.team? c.g.team).map (fun t => t.progress)).getD 0),
    (0x060, c.th.srseed)]

/-- The registers of the calendar that no read changes (R366, R367). -/
def calendarRegs (s : State) : List (Nat × Word) :=
  [(0x100, BitVec.ofNat 32 s.calSlot.toNat), (0x103, (s.net.cal.map (fun x => x.gen)).getD 0),
    (0x104, BitVec.ofNat 32 ((s.net.cal.map (fun x => x.s)).getD 1)), (0x105, BitVec.ofNat 32 ((s.net.cal.map (fun x => x.slotLen)).getD 4000)),
    (0x106, BitVec.ofNat 32 ((s.net.cal.map (fun x => x.guard)).getD 96)), (0x107, (s.net.offset.map (BitVec.ofInt 32)).getD 0x80000000)]

/-! Each list is a part of the map, by its numbers and by its values. -/

theorem placeRegs_numbers {s : State} {c : Ctx} {n : Nat} {v : Word} (hm : (n, v) ∈ placeRegs s c) :
    n ∈ sysMap ∧ sysVar n = false ∧ sysG n = true := by
  have all : ∀ m ∈ [0x010, 0x011, 0x012, 0x013, 0x014, 0x018, 0x020, 0x021, 0x022, 0x023, 0x110],
      m ∈ sysMap ∧ sysVar m = false ∧ sysG m = true := by decide
  exact all n (List.mem_map_of_mem (f := Prod.fst) hm)

theorem threadRegs_numbers {c : Ctx} {n : Nat} {v : Word} (hm : (n, v) ∈ threadRegs c) : n ∈ sysMap ∧ sysVar n = false ∧ sysG n = false := by
  have all : ∀ m ∈ [0x040, 0x041, 0x042, 0x044, 0x048, 0x049, 0x04A, 0x04B, 0x04C, 0x04D, 0x050, 0x060],
      m ∈ sysMap ∧ sysVar m = false ∧ sysG m = false := by decide
  exact all n (List.mem_map_of_mem (f := Prod.fst) hm)

theorem calendarRegs_numbers {s : State} {n : Nat} {v : Word} (hm : (n, v) ∈ calendarRegs s) : n ∈ sysMap ∧ sysVar n = true ∧ sysG n = true := by
  have all : ∀ m ∈ [0x100, 0x103, 0x104, 0x105, 0x106, 0x107], m ∈ sysMap ∧ sysVar m = true ∧ sysG m = true := by decide
  exact all n (List.mem_map_of_mem (f := Prod.fst) hm)

theorem sysValue_placeRegs {s : State} {c : Ctx} {n : Nat} {v : Word} (hm : (n, v) ∈ placeRegs s c) : sysValue s c n = v := by
  have all : ∀ p ∈ placeRegs s c, sysValue s c p.1 = p.2 := by
    simp only [placeRegs, List.forall_mem_cons]
    exact ⟨rfl, rfl, rfl, rfl, rfl, rfl, rfl, rfl, rfl, rfl, rfl, nofun⟩
  exact all _ hm

theorem teamProgress_eq (l : Launch) (team : Nat) : teamProgress l team = ((l.team? team).map (fun t => t.progress)).getD 0 := by
  unfold teamProgress
  cases l.team? team <;> rfl

theorem sysValue_threadRegs {c : Ctx} {n : Nat} {v : Word} (hm : (n, v) ∈ threadRegs c) (s : State) : sysValue s c n = v := by
  have all : ∀ p ∈ threadRegs c, sysValue s c p.1 = p.2 := by
    simp only [threadRegs, List.forall_mem_cons]
    exact ⟨BitVec.ofNat_toNat .., BitVec.ofNat_toNat .., rfl, rfl, BitVec.ofNat_toNat .., loWord_eq _, hiWord_eq _, loWord_eq _, hiWord_eq _, rfl,
      teamProgress_eq .., rfl, nofun⟩
  exact all _ hm

/-- Without a calendar, and without an estimate of the offset, the registers read what R366 and R367 give. -/
theorem sysValue_calendarRegs {s : State} {n : Nat} {v : Word} (hm : (n, v) ∈ calendarRegs s) (c : Ctx) :
    sysValue s c n = v ∧ captures s n = fun th => th := by
  have hcal : calGen s = (s.net.cal.map (fun x => x.gen)).getD 0 ∧ calSlots s = (s.net.cal.map (fun x => x.s)).getD 1 ∧
      calSlotLen s = (s.net.cal.map (fun x => x.slotLen)).getD 4000 ∧ calGuard s = (s.net.cal.map (fun x => x.guard)).getD 96 := by
    unfold calGen calSlots calSlotLen calGuard
    cases s.net.cal <;> exact ⟨rfl, rfl, rfl, rfl⟩
  have hoff : calOffset s = (s.net.offset.map (BitVec.ofInt 32)).getD 0x80000000 := by
    unfold calOffset
    cases s.net.offset <;> rfl
  obtain ⟨hgen, hslots, hlen, hguard⟩ := hcal
  have all : ∀ p ∈ calendarRegs s, sysValue s c p.1 = p.2 ∧ captures s p.1 = fun th => th := by
    simp only [calendarRegs, List.forall_mem_cons, ← hgen, ← hslots, ← hlen, ← hguard, ← hoff]
    exact ⟨⟨rfl, rfl⟩, ⟨rfl, rfl⟩, ⟨rfl, rfl⟩, ⟨rfl, rfl⟩, ⟨rfl, rfl⟩, ⟨rfl, rfl⟩, nofun⟩
  exact all _ hm

/-! CAL_LOCK (R372): a digit for each optical engine. -/

theorem sum_digits_lt {d : Nat → Nat} (hd : ∀ k, d k < 4) (n : Nat) : ((List.range n).map (fun k => d k * 4 ^ k)).sum < 4 ^ n := by
  induction n with
  | zero => exact Nat.one_pos
  | succ n ih =>
    have := Nat.mul_le_mul_right (4 ^ n) (Nat.le_of_lt_succ (hd n))
    rw [List.range_succ, List.map_append, List.sum_append, List.map_singleton, List.sum_singleton, Nat.pow_succ]
    omega

theorem sum_digits_digit {d : Nat → Nat} (hd : ∀ k, d k < 4) {n k : Nat} (hk : k < n) :
    ((List.range n).map (fun k => d k * 4 ^ k)).sum / 4 ^ k % 4 = d k := by
  induction n with
  | zero => exact absurd hk (Nat.not_lt_zero k)
  | succ n ih =>
    rw [List.range_succ, List.map_append, List.sum_append, List.map_singleton, List.sum_singleton]
    rcases Nat.lt_succ_iff_lt_or_eq.mp hk with hlt | rfl
    · obtain ⟨j, rfl⟩ := Nat.exists_eq_add_of_lt hlt
      have hmult : d (k + j + 1) * 4 ^ (k + j + 1) = 4 ^ k * (4 * (d (k + j + 1) * 4 ^ j)) := by
        rw [Nat.pow_succ, Nat.pow_add]
        ac_rfl
      rw [hmult, Nat.add_mul_div_left _ _ (Nat.pow_pos (by decide)), Nat.add_mul_mod_self_left, ih hlt]
    · rw [Nat.add_mul_div_right _ _ (Nat.pow_pos (by decide)), Nat.div_eq_of_lt (sum_digits_lt hd k), Nat.zero_add, Nat.mod_eq_of_lt (hd k)]

/-- A bank of the ports of an optical engine is in a state. -/
def bankIn (s : State) (k : Nat) (st : BankSt) : Bool :=
  (List.range 4).any (fun j => (s.net.ports[4 * k + j]?).any (fun p => p.cur.st == st || p.spare.st == st))

/-- The banks of a port. -/
def banksOf (s : State) (i : Nat) : List BankSt := match s.net.ports[i]? with
  | some p => [p.cur.st, p.spare.st]
  | none => []

theorem contains_banksOf (s : State) (i : Nat) (st : BankSt) :
    (banksOf s i).contains st = (s.net.ports[i]?).any (fun p => p.cur.st == st || p.spare.st == st) := by
  unfold banksOf
  cases s.net.ports[i]? with
  | none => rfl
  | some p => simp only [List.contains_cons, List.contains_nil, Bool.or_false, Option.any_some, BEq.comm (a := st)]

theorem engineLock_eq_banksOf (s : State) (k : Nat) : engineLock s k =
    let bs := (List.range 4).flatMap (fun j => banksOf s (4 * k + j))
    if bs.contains .fault then 3 else if bs.contains .tuning then 1 else if bs.contains .locked then 2 else 0 := rfl

theorem engineLock_eq (s : State) (k : Nat) : engineLock s k =
    if bankIn s k .fault = true then 3 else if bankIn s k .tuning = true then 1 else if bankIn s k .locked = true then 2 else 0 := by
  simp only [engineLock_eq_banksOf, List.contains_flatMap, contains_banksOf]
  rfl

theorem engineLock_lt (s : State) (k : Nat) : engineLock s k < 4 := by
  rw [engineLock_eq]
  split
  · decide
  split
  · decide
  split <;> decide

theorem calLock_digit (s : State) {k : Nat} (hk : k < 16) : (calLock s).toNat / 4 ^ k % 4 = engineLock s k := by
  have hlt : _ < 2 ^ 32 := sum_digits_lt (engineLock_lt s) 16
  rw [calLock, BitVec.toNat_ofNat, Nat.mod_eq_of_lt hlt, sum_digits_digit (engineLock_lt s) hk]

/-- Settles O17: the lists of registers by their place in the map, the captures and the lock states by their own laws. -/
theorem srdReadsTheMap : Obligations.SrdReadsTheMap := by
  intro s c h d a b dst hx hd n
  have hn : a.toNat * 128 + b.toNat = n := rfl
  clear_value n
  refine ⟨fun v hm => ?place, fun v hm => ⟨fun hu => ?thread, fun hu => ?uniform⟩, fun e hu => ?clock, fun e hu => ?clockHigh, fun e => ?cycle,
    fun e => ?cycleHigh, fun v hm => ?calendar, fun e => ?lock, fun hm => exec_srd_unmapped hx h hd hn hm⟩
  case place =>
    obtain ⟨hmap, hvar, hgrp⟩ := placeRegs_numbers hm
    rw [← sysValue_placeRegs hm]
    exact exec_srd_at_once hx h hd hn hmap hvar (.inr hgrp)
  case thread =>
    obtain ⟨hmap, hvar, -⟩ := threadRegs_numbers hm
    rw [← sysValue_threadRegs hm s]
    exact exec_srd_at_once hx h hd hn hmap hvar (.inl hu)
  case uniform =>
    obtain ⟨hmap, -, hgrp⟩ := threadRegs_numbers hm
    exact exec_srd_uniform hx h hd hn hmap hgrp hu
  case clock => exact exec_srd_later (n := 0x000) hx h hd (hn.trans e) (by decide) rfl (.inl hu)
  case clockHigh => exact exec_srd_later (n := 0x001) hx h hd (hn.trans e) (by decide) rfl (.inl hu)
  case cycle =>
    rw [← hiWord_eq, ← loWord_eq]
    exact exec_srd_later (n := 0x101) hx h hd (hn.trans e) (by decide) rfl (.inr rfl)
  case cycleHigh =>
    rw [← hiWord_eq]
    exact exec_srd_later (n := 0x102) hx h hd (hn.trans e) (by decide) rfl (.inr rfl)
  case calendar =>
    obtain ⟨hmap, hvar, hgrp⟩ := calendarRegs_numbers hm
    obtain ⟨hval, hcap⟩ := sysValue_calendarRegs hm c
    rw [← hval, exec_srd_later hx h hd hn hmap hvar (.inr hgrp), hcap, modThread_unchanged]
  case lock =>
    refine ⟨calLock s, ?_, fun k hk => (calLock_digit s hk).trans (engineLock_eq s k)⟩
    rw [exec_srd_later hx h hd (hn.trans e) (by decide) rfl (.inr rfl), show captures s 0x108 = fun th => th from rfl, modThread_unchanged]
    rfl

/-! SWR (R26, R68, R71). -/

section
variable {s : State} {c : Ctx} {d a b : BitVec 7} {n : Nat} {x : Word}
variable (hx : Executes s c) (h : Bool) (hd : Reads c d x) (hn : a.toNat * 128 + b.toNat = n)
include hx hd hn

/-- A number outside the map, or one whose register has no field that can be written. -/
theorem exec_swr_unwritable (hw : n ∉ [0x040, 0x041, 0x050, 0x060, 0x110]) :
    exec (.swr h d a b) s = .next (trapNow s c.t c.illegal c.th.blk) := by
  have hro : (!sysRO n) = false := by
    rw [sysRO, Bool.not_not]
    exact eq_false_of_ne_true (mt List.contains_iff_mem.mp hw)
  rw [Reads] at hd
  rw [exec_swr, execSwr]
  refine issueWith_trap hx h ?_
  simp only [hn, hd, res_ok_bind, hro]
  cases sysMap.contains n <;> rfl

theorem exec_swr_netWeights (e : n = 0x110) : exec (.swr h d a b) s =
    .next (trapNow s c.t { trapPlain c.th.pc privilege 0 with addr := 0x110 } c.th.blk) := by
  rw [Reads] at hd
  rw [exec_swr, execSwr]
  refine issueWith_trap hx h ?_
  simp only [hn, hd, e, res_ok_bind]
  rfl

/-- VWB and UWB take a base that is legal (R26). -/
theorem exec_swr_vwb (e : n = 0x040) : exec (.swr h d a b) s = .next (if vwbOk c.th (bits x 7 0) = true
    then past (s.modThread c.t (fun th => { th with vwb := BitVec.ofNat 8 x.toNat })) c.t h else trapNow s c.t c.illegal c.th.blk) := by
  rw [Reads] at hd
  rw [exec_swr, execSwr, issueWith_eval hx]
  simp only [hn, hd, e, res_ok_bind]
  cases vwbOk c.th (bits x 7 0) <;> rfl

theorem exec_swr_uwb (e : n = 0x041) : exec (.swr h d a b) s = .next (if uwbOk (bits x 5 0) = true
    then past (s.modThread c.t (fun th => { th with uwb := BitVec.ofNat 6 x.toNat })) c.t h else trapNow s c.t c.illegal c.th.blk) := by
  rw [Reads] at hd
  rw [exec_swr, execSwr, issueWith_eval hx]
  simp only [hn, hd, e, res_ok_bind]
  cases uwbOk (bits x 5 0) <;> rfl

theorem exec_swr_progress (e : n = 0x050) : exec (.swr h d a b) s =
    .next (past (s.modTeam c.l.ref c.g.team (fun t => { t with progress := x })) c.t h) := by
  rw [Reads] at hd
  rw [exec_swr, execSwr, issueWith_eval hx]
  simp only [hn, hd, e, res_ok_bind]
  rfl

theorem exec_swr_srseed (e : n = 0x060) : exec (.swr h d a b) s =
    .next (past (s.modThread c.t (fun th => { th with srseed := x })) c.t h) := by
  rw [Reads] at hd
  rw [exec_swr, execSwr, issueWith_eval hx]
  simp only [hn, hd, e, res_ok_bind]
  rfl

end

theorem vwbOk_iff (th : Thread) (v : Nat) : vwbOk th v = true ↔ v % 16 = 0 ∧ v < th.regs.length := by
  rw [vwbOk, Bool.and_eq_true, beq_iff_eq, decide_eq_true_eq]

theorem uwbOk_iff (u : Nat) : uwbOk u = true ↔ u % 8 = 0 ∧ u ≤ 56 := by
  rw [uwbOk, Bool.and_eq_true, beq_iff_eq, decide_eq_true_eq]

/-- Settles O18: each number by what SWR answers for it. -/
theorem swrWritesOrTraps : Obligations.SwrWritesOrTraps := by
  intro s c h d a b x hx hd n wrote illegal v u
  have hn : a.toNat * 128 + b.toNat = n := rfl
  have hv : bits x 7 0 = v := bits_zero x 7
  have hu : bits x 5 0 = u := bits_zero x 5
  have wordV : BitVec.ofNat 8 x.toNat = BitVec.ofNat 8 v := BitVec.eq_of_toNat_eq (by simp [v])
  have wordU : BitVec.ofNat 6 x.toNat = BitVec.ofNat 6 u := BitVec.eq_of_toNat_eq (by simp [u])
  clear_value n v u
  refine ⟨fun e hr => ?vwb, fun e hr => ?vwbTrap, fun e hr => ?uwb, fun e hr => ?uwbTrap, exec_swr_progress hx h hd hn, exec_swr_srseed hx h hd hn,
    exec_swr_netWeights hx h hd hn, fun h1 h2 h3 h4 h5 => ?others⟩
  case vwb => rw [exec_swr_vwb hx h hd hn e, hv, if_pos ((vwbOk_iff ..).mpr hr), wordV]
  case vwbTrap => rw [exec_swr_vwb hx h hd hn e, hv, if_neg (mt (vwbOk_iff ..).mp hr)]
  case uwb => rw [exec_swr_uwb hx h hd hn e, hu, if_pos ((uwbOk_iff ..).mpr hr), wordU]
  case uwbTrap => rw [exec_swr_uwb hx h hd hn e, hu, if_neg (mt (uwbOk_iff ..).mp hr)]
  case others => exact exec_swr_unwritable hx h hd hn (by simp [h1, h2, h3, h4, h5])

/-- Settles O19: what each word answers; the thread that BRK halts, by its change. -/
theorem trapBrkExitTret : Obligations.TrapBrkExitTret := by
  intro s c h b hx after
  refine ⟨(exec_trap h b s).trans (issueWith_trap hx h rfl), fun ha => ?raises, fun ha => ?halt,
    (exec_exit h s).trans (issueWith_ok hx h (i := .drain s .exit) rfl), fun hb hh => ?tret, fun hr => ?refused⟩
  case raises =>
    rw [exec_brk, execBrk]
    refine issueWith_trap hx h ?_
    simp only [ha, Bool.false_eq_true, if_false]
    rfl
  case halt =>
    rw [exec_brk, execBrk, issueWith_eval hx]
    simp only [ha, if_true, issued_done, past]
    refine ⟨_, ?thread, rfl, ?found, ?fields⟩
    case found =>
      rw [thread?_modThread, thread?_modThread, hx.thread]
      rfl
    case fields => exact ⟨rfl, rfl, rfl, rfl, rfl, rfl, rfl⟩
  case tret =>
    have hcheck : (decide (b.toNat ≤ 1) && c.th.inHandler) = true := by
      rw [hh, Bool.and_true]
      exact decide_eq_true hb
    rw [exec_tret, execTret]
    refine issueWith_ok hx h (i := .drain s (.tret b.toNat)) ?_
    simp only [require_ok hcheck, res_ok_bind]
  case refused =>
    have hcheck : (decide (b.toNat ≤ 1) && c.th.inHandler) = false := by
      rcases hr with hb | hh
      · have above : ¬ b.toNat ≤ 1 := Nat.not_le_of_gt hb
        rw [decide_eq_false above, Bool.false_and]
      · rw [hh, Bool.and_false]
    rw [exec_tret, execTret]
    refine issueWith_trap hx h ?_
    simp only [require_error hcheck, res_error_bind]

/-! The transfers (R30, R84, R85). -/

theorem relTarget_eq (pc : DWord) {w : Nat} (o : BitVec w) : relTarget pc o = pc + 4 * o.signExtend 64 := by
  rw [relTarget, BitVec.ofInt_mul]
  rfl

theorem ofNat_four_mul (y : Word) : BitVec.ofNat 64 (4 * y.toNat) = 4 * y.zeroExtend 64 := by
  rw [BitVec.ofNat_mul, BitVec.ofNat_toNat]
  rfl

section
variable {s : State} {c : Ctx} {i : Instr} {h : Bool} {f : Ctx → Res (DWord × Thread)}
variable (hx : Executes s c) (hb : c.th.blk = []) (he : exec i s = transfer h s f)
include hx hb he

theorem transfer_ok {target : DWord} {th : Thread} (hf : f c = .ok (target, th)) :
    exec i s = .next (jumped (s.modThread c.t (fun _ => th)) c h target) := by
  rw [he]
  refine (issue_executes hx h 9 _ (.inr hb)).trans ?_
  simp only [hf, issued_jump]

theorem transfer_trap {r : TrapRec} (hf : f c = .error r) : exec i s = .next (trapNow s c.t r []) := by
  rw [he]
  refine (issue_executes hx h 9 _ (.inr hb)).trans ?_
  simp only [hf, issued_trap, hb]

end

theorem exec_brp_eq {s : State} {c : Ctx} (hx : Executes s c) (hb : c.th.blk = []) (h : Bool) (p : BitVec 3) (n : Bool) (o : BitVec 21) :
    exec (.brp h p n o) s = .next (if (c.pred p ^^ n) = true then jumped s c h (c.th.pc + 4 * o.signExtend 64) else past s c.t h) := by
  rw [exec_brp, execBrp, issue_executes hx h 9 _ (.inr hb), bne_eq_xor, relTarget_eq]
  split <;> rfl

theorem push_ok {c : Ctx} (h : ¬ c.th.stack.length = 8 + c.l.hdr.stackBytes / 8) :
    push c = .ok { c.th with stack := (c.th.pc + 4) :: c.th.stack } := by
  have hm : (c.th.stack.length != maxDepth c) = true := bne_iff_ne.mpr h
  rw [push, require_ok hm, res_ok_bind]

theorem push_full {c : Ctx} (h : c.th.stack.length = 8 + c.l.hdr.stackBytes / 8) : push c = .error (trapPlain c.th.pc stackOver 0) := by
  have hm : (c.th.stack.length != maxDepth c) = false := by rw [h]; exact bne_self_eq_false _
  rw [push, require_error hm, res_error_bind]

/-- Settles O21: each transfer by its target and by the stack that it leaves. -/
theorem transfersJump : Obligations.TransfersJump := by
  intro s c h hx hb goes called full overflow
  refine ⟨fun o => ⟨?br, fun hf => ?call, fun hf => ?callFull⟩, fun p n o => ⟨fun hp => ?taken, fun hp => ?through⟩,
    fun a b x y ha => ⟨?jr, fun hf => ?callr, fun hf => ?callrFull, fun hy => ?brx⟩, fun x rest he => ?ret, fun he => ?retEmpty⟩
  case br =>
    rw [← relTarget_eq]
    exact transfer_ok hx hb (exec_br h o s) rfl
  case call =>
    rw [← relTarget_eq]
    exact transfer_ok hx hb (exec_call h o s) (by simp only [push_ok hf, res_ok_bind])
  case callFull => exact transfer_trap hx hb (exec_call h o s) (by simp only [push_full hf, res_error_bind]; rfl)
  case taken => rw [exec_brp_eq hx hb, if_pos hp]
  case through => rw [exec_brp_eq hx hb, if_neg (ne_true_of_eq_false hp)]
  case jr =>
    rw [Reads64] at ha
    exact transfer_ok hx hb (exec_jr h a s) (by simp only [ha, res_ok_bind])
  case callr =>
    rw [Reads64] at ha
    exact transfer_ok hx hb (exec_callr h a s) (by simp only [ha, push_ok hf, res_ok_bind])
  case callrFull =>
    rw [Reads64] at ha
    exact transfer_trap hx hb (exec_callr h a s) (by simp only [ha, push_full hf, res_ok_bind, res_error_bind]; rfl)
  case brx =>
    rw [Reads64] at ha
    rw [Reads] at hy
    exact transfer_ok hx hb (exec_brx h a b s) (by simp only [ha, hy, res_ok_bind, ofNat_four_mul])
  case ret => exact transfer_ok hx hb (exec_ret h s) (by simp only [he])
  case retEmpty => exact transfer_trap hx hb (exec_ret h s) (by simp only [he]; rfl)

end Sys2Proof.Integer
end

section
/-! NaN and the least and greatest of two FP32 codes (O9): which codes are NaN (R88), what a NaN operand gives (R91, R106), and the order of R108,
in which −0 lies below +0. -/
namespace Sys2Proof.Floats
open Sys2Proof.Machine Sys2Proof.Safety Sys2Proof.Claims Sys2Proof.Laws Sys2Proof.Integer

/-! NaN (R88, R90, R91). -/

/-- A code of a format of R88 is NaN by its exponent and mantissa fields. -/
theorem isNan_decodeF {f : Flt} (hp : f.pol = 2) (c : Nat) :
    (decodeF f c).isNan = (c % 2 ^ f.mw / 2 ^ f.mb == 2 ^ f.eb - 1 && c % 2 ^ f.mw % 2 ^ f.mb != 0) := by
  have hpol : (2 : Nat) ≠ 1 := by decide
  simp only [decodeF, hp, eq_false hpol, false_and, if_false, true_and]
  by_cases hex : c % 2 ^ f.mw / 2 ^ f.mb = 2 ^ f.eb - 1
  · by_cases hm : c % 2 ^ f.mw % 2 ^ f.mb = 0
    · rw [if_pos hex, if_pos hm, beq_iff_eq.mpr hex, hm]
      rfl
    · rw [if_pos hex, if_neg hm, beq_iff_eq.mpr hex, bne_iff_ne.mpr hm]
      rfl
  · rw [if_neg hex, beq_eq_false_iff_ne.mpr hex]
    split <;> rfl

theorem isNan_v32 (x : Word) : (v32 x).isNan = (x.extractLsb' 23 8 == 255 && x.extractLsb' 0 23 != 0) := by
  have hex : x.extractLsb' 23 8 = 255 ↔ x.toNat % 2 ^ 31 / 2 ^ 23 = 255 := by
    rw [← BitVec.toNat_inj, BitVec.extractLsb'_toNat, Nat.shiftRight_eq_div_pow]
    change _ = 255 ↔ _
    omega
  have hm : x.extractLsb' 0 23 = 0 ↔ x.toNat % 2 ^ 31 % 2 ^ 23 = 0 := by
    rw [← BitVec.toNat_inj, BitVec.extractLsb'_toNat, Nat.shiftRight_zero]
    change _ = 0 ↔ _
    omega
  rw [v32, isNan_decodeF rfl, Bool.eq_iff_iff]
  simp only [Bool.and_eq_true, beq_iff_eq, bne_iff_ne, ne_eq, hex, hm]
  rfl

theorem isNan_iff {v : Val} : v.isNan = true ↔ v = .nan := by
  cases v <;> simp only [Val.isNan, reduceCtorEq]

@[simp] theorem isNan_neg (v : Val) : v.neg.isNan = v.isNan := by
  cases v <;> rfl

@[simp] theorem addV_nan_left (v : Val) : addV .nan v = .nan := by
  cases v <;> rfl

@[simp] theorem addV_nan_right (v : Val) : addV v .nan = .nan := by
  cases v <;> rfl

@[simp] theorem mulV_nan_left (v : Val) : mulV .nan v = .nan := by
  cases v <;> rfl

@[simp] theorem mulV_nan_right (v : Val) : mulV v .nan = .nan := by
  cases v <;> rfl

theorem addV_of_isNan {v w : Val} (h : v.isNan = true ∨ w.isNan = true) : addV v w = .nan := by
  rcases h with h | h
  · rw [isNan_iff.mp h, addV_nan_left]
  · rw [isNan_iff.mp h, addV_nan_right]

theorem mulV_of_isNan {v w : Val} (h : v.isNan = true ∨ w.isNan = true) : mulV v w = .nan := by
  rcases h with h | h
  · rw [isNan_iff.mp h, mulV_nan_left]
  · rw [isNan_iff.mp h, mulV_nan_right]

/-- A term that is NaN, or a factor of one, makes the whole NaN (R109). -/
theorem addV_mulV_of_isNan {u v w : Val} (h : u.isNan = true ∨ v.isNan = true ∨ w.isNan = true) : addV (mulV u v) w = .nan := by
  rcases or_assoc.mpr h with h | h
  · rw [mulV_of_isNan h, addV_nan_left]
  · exact addV_of_isNan (.inr h)

theorem f32_nan : f32 .nan = 0x7FC00000 := by decide

/-- The sign of a NaN result is not inverted. -/
theorem negRes_canonical : negRes 0x7FC00000 = 0x7FC00000 := by decide

section
variable {x y z : Word}

section
variable (h : (v32 x).isNan = true ∨ (v32 y).isNan = true)
include h

theorem fpAdd_of_isNan : fpAdd x y = 0x7FC00000 := by
  rw [fpAdd, addV_of_isNan h, f32_nan]

theorem fpSub_of_isNan : fpSub x y = 0x7FC00000 := by
  rw [← isNan_neg (v32 y)] at h
  rw [fpSub, addV_of_isNan h, f32_nan]

theorem fpMul_of_isNan : fpMul x y = 0x7FC00000 := by
  rw [fpMul, mulV_of_isNan h, f32_nan]

theorem minMaxF_of_isNan (max : Bool) : minMaxF fp32 max x.toNat y.toNat = fp32.nanCode := by
  rw [minMaxF]
  exact if_pos (Bool.or_eq_true_iff.mpr h)

theorem fpMin_of_isNan : fpMin x y = 0x7FC00000 := by
  rw [fpMin, minMaxF_of_isNan h]
  rfl

theorem fpMax_of_isNan : fpMax x y = 0x7FC00000 := by
  rw [fpMax, minMaxF_of_isNan h]
  rfl

end

section
variable (h : (v32 x).isNan = true ∨ (v32 y).isNan = true ∨ (v32 z).isNan = true)
include h

theorem fpFma_of_isNan : fpFma x y z = 0x7FC00000 := by
  rw [fpFma, addV_mulV_of_isNan h, f32_nan]

theorem fpFms_of_isNan : fpFms x y z = 0x7FC00000 := by
  rw [← isNan_neg (v32 z)] at h
  rw [fpFms, addV_mulV_of_isNan h, f32_nan]

theorem negRes_fpFma_of_isNan : negRes (fpFma x y z) = 0x7FC00000 := by
  rw [fpFma_of_isNan h, negRes_canonical]

theorem negRes_fpFms_of_isNan : negRes (fpFms x y z) = 0x7FC00000 := by
  rw [fpFms_of_isNan h, negRes_canonical]

end
end

/-! The order of codes (R108, R112). -/

/-- The place of a code in the order of R108, where −0 lies below +0. -/
def wordKey (x : Word) : Int := fltKey fp32 x.toNat

/-- The place of a number in the order of R112, where the zeros are equal. -/
def valueKey (x : Word) : Int := if x.toNat / 2 ^ 31 % 2 = 1 then -((x.toNat % 2 ^ 31 : Nat) : Int) else (x.toNat % 2 ^ 31 : Nat)

theorem rel32_eq (a b : Word) :
    rel32 a b = if (v32 a).isNan || (v32 b).isNan then none else some (compare (valueKey a) (valueKey b)) := rfl

/-- A negative code, −0 with it, lies one lower in the order of R108 than its value does. -/
theorem wordKey_cases (x : Word) : (0 ≤ valueKey x ∧ wordKey x = valueKey x) ∨ (valueKey x ≤ 0 ∧ wordKey x = valueKey x - 1) := by
  by_cases hneg : x.toNat / 2 ^ 31 % 2 = 1
  · have hv : valueKey x = -((x.toNat % 2 ^ 31 : Nat) : Int) := if_pos hneg
    have hw : wordKey x = -((x.toNat % 2 ^ 31 : Nat) : Int) - 1 := if_pos hneg
    omega
  · have hv : valueKey x = (x.toNat % 2 ^ 31 : Nat) := if_neg hneg
    have hw : wordKey x = (x.toNat % 2 ^ 31 : Nat) := if_neg hneg
    omega

/-- The order of R108 only separates the zeros. -/
theorem valueKey_le_of_wordKey_le {a b : Word} (h : wordKey a ≤ wordKey b) : valueKey a ≤ valueKey b := by
  rcases wordKey_cases a with ⟨ha, hka⟩ | ⟨ha, hka⟩ <;> rcases wordKey_cases b with ⟨hb, hkb⟩ | ⟨hb, hkb⟩ <;> omega

theorem rel32_ne_gt {a b : Word} (h : wordKey a ≤ wordKey b) : rel32 a b ≠ some .gt := by
  rw [rel32_eq]
  split
  · exact nofun
  · exact fun hgt => Int.not_lt.mpr (valueKey_le_of_wordKey_le h) (Int.compare_eq_gt.mp (Option.some.inj hgt))

theorem rel32_ne_lt {a b : Word} (h : wordKey b ≤ wordKey a) : rel32 a b ≠ some .lt := by
  rw [rel32_eq]
  split
  · exact nofun
  · exact fun hlt => Int.not_lt.mpr (valueKey_le_of_wordKey_le h) (Int.compare_eq_lt.mp (Option.some.inj hlt))

theorem wordKey_neg_zero_lt : wordKey 0x80000000 < wordKey 0 := by decide

section
variable {a b : Word} (ha : (v32 a).isNan = false) (hb : (v32 b).isNan = false)
include ha hb

theorem ofNat_minMaxF (max : Bool) : BitVec.ofNat 32 (minMaxF fp32 max a.toNat b.toNat) =
    if max then (if wordKey a < wordKey b then b else a) else (if wordKey b < wordKey a then b else a) := by
  have hn : ¬ ((v32 a).isNan || (v32 b).isNan) = true := by
    simp only [ha, hb, Bool.or_self, Bool.false_eq_true, not_false_eq_true]
  have hself (x : Word) : BitVec.ofNat 32 x.toNat = x := (BitVec.ofNat_toNat ..).trans (BitVec.setWidth_eq x)
  rw [minMaxF]
  refine (congrArg (BitVec.ofNat 32) (if_neg hn)).trans ?_
  simp only [apply_ite (BitVec.ofNat 32), hself]
  rfl

theorem fpMin_of_not_isNan : fpMin a b = if wordKey b < wordKey a then b else a :=
  (ofNat_minMaxF ha hb false).trans (if_neg Bool.false_ne_true)

theorem fpMax_of_not_isNan : fpMax a b = if wordKey a < wordKey b then b else a :=
  (ofNat_minMaxF ha hb true).trans (if_pos rfl)

/-- The lesser of two numbers is one of them, and neither is below it. -/
theorem fpMin_least : (fpMin a b = a ∨ fpMin a b = b) ∧ wordKey (fpMin a b) ≤ wordKey a ∧ wordKey (fpMin a b) ≤ wordKey b := by
  rw [fpMin_of_not_isNan ha hb]
  split
  case isTrue h => exact ⟨.inr rfl, Int.le_of_lt h, Int.le_refl _⟩
  case isFalse h => exact ⟨.inl rfl, Int.le_refl _, Int.not_lt.mp h⟩

/-- The greater of two numbers is one of them, and neither is above it. -/
theorem fpMax_greatest : (fpMax a b = a ∨ fpMax a b = b) ∧ wordKey a ≤ wordKey (fpMax a b) ∧ wordKey b ≤ wordKey (fpMax a b) := by
  rw [fpMax_of_not_isNan ha hb]
  split
  case isTrue h => exact ⟨.inr rfl, Int.le_of_lt h, Int.le_refl _⟩
  case isFalse h => exact ⟨.inl rfl, Int.le_refl _, Int.not_lt.mp h⟩

theorem fpMin_spec : (fpMin a b = a ∨ fpMin a b = b) ∧ rel32 (fpMin a b) a ≠ some .gt ∧ rel32 (fpMin a b) b ≠ some .gt ∧
    (a = 0x80000000 ∨ b = 0x80000000 → fpMin a b ≠ 0) := by
  obtain ⟨hmem, hle, hle'⟩ := fpMin_least ha hb
  refine ⟨hmem, rel32_ne_gt hle, rel32_ne_gt hle', fun hz h0 => ?_⟩
  have hle0 : wordKey (fpMin a b) ≤ wordKey 0x80000000 := by rcases hz with rfl | rfl <;> assumption
  rw [h0] at hle0
  exact Int.not_lt.mpr hle0 wordKey_neg_zero_lt

theorem fpMax_spec : (fpMax a b = a ∨ fpMax a b = b) ∧ rel32 (fpMax a b) a ≠ some .lt ∧ rel32 (fpMax a b) b ≠ some .lt ∧
    (a = 0 ∨ b = 0 → fpMax a b ≠ 0x80000000) := by
  obtain ⟨hmem, hle, hle'⟩ := fpMax_greatest ha hb
  refine ⟨hmem, rel32_ne_lt hle, rel32_ne_lt hle', fun hz h0 => ?_⟩
  have hle0 : wordKey 0 ≤ wordKey (fpMax a b) := by rcases hz with rfl | rfl <;> assumption
  rw [h0] at hle0
  exact Int.not_lt.mpr hle0 wordKey_neg_zero_lt

end

/-- FMINN and FMAXN by which operands are NaN (R108): a NaN gives way to the other operand. -/
theorem minMaxNumF_cases (max : Bool) (a b : Word) :
    let v := BitVec.ofNat 32 (minMaxNumF fp32 max a.toNat b.toNat)
    ((v32 a).isNan = true → (v32 b).isNan = true → v = 0x7FC00000) ∧ ((v32 a).isNan = true → (v32 b).isNan = false → v = b) ∧
      ((v32 a).isNan = false → (v32 b).isNan = true → v = a) ∧
      ((v32 a).isNan = false → (v32 b).isNan = false → v = BitVec.ofNat 32 (minMaxF fp32 max a.toNat b.toNat)) := by
  simp only [minMaxNumF, v32]
  refine ⟨fun ha hb => ?_, fun ha hb => ?_, fun ha hb => ?_, fun ha hb => ?_⟩
  · rw [ha, hb]
    rfl
  · simp only [ha, hb, Bool.and_false, Bool.false_eq_true, if_true, if_false, BitVec.ofNat_toNat, BitVec.setWidth_eq]
  · simp only [ha, hb, Bool.and_true, Bool.false_eq_true, if_true, if_false, BitVec.ofNat_toNat, BitVec.setWidth_eq]
  · simp only [ha, hb, Bool.and_self, Bool.false_eq_true, if_false]

/-! The shapes of the statement, from the meaning that `exec` calls. -/

section
variable {mk : Bool → BitVec 7 → BitVec 7 → BitVec 7 → Instr}

theorem word2Rel_of_op2 {g : Word → Word → Word} {R : Word → Word → Word → Prop}
    (he : ∀ h d a b s, exec (mk h d a b) s = issueReg h s (op2 g d a b)) (hR : ∀ x y, R x y (g x y)) : Word2Rel mk R :=
  fun s c h d a b dst x y hx hw ha hb => ⟨g x y, hR x y, word2_of_op2 he (fun _ _ => rfl) s c h d a b dst x y hx hw ha hb⟩

variable {s : State} {c : Ctx} {h : Bool} {d a b : BitVec 7} {dst : Dst} {x y z v : Word}

theorem exec_op2_of_eq {g : Word → Word → Word} (he : ∀ h d a b s, exec (mk h d a b) s = issueReg h s (op2 g d a b)) (hx : Executes s c)
    (hw : Writes c 1 d dst [a, b] false) (ha : Reads c a x) (hb : Reads c b y) (hg : g x y = v) :
    exec (mk h d a b) s = .next (retired s (c.write dst [v]) h) := by
  subst hg
  exact word2_of_op2 he (fun _ _ => rfl) s c h d a b dst x y hx hw ha hb

theorem exec_op3_of_eq {g : Word → Word → Word → Word} (he : ∀ h d a b s, exec (mk h d a b) s = issueReg h s (op3 g d a b)) (hx : Executes s c)
    (hw : Writes c 1 d dst [d, a, b] false) (ha : Reads c a x) (hb : Reads c b y) (hd : Reads c d z) (hg : g x y z = v) :
    exec (mk h d a b) s = .next (retired s (c.write dst [v]) h) := by
  subst hg
  exact word3_of_op3 he (fun _ _ _ => rfl) s c h d a b dst x y z hx hw ha hb hd

end

/-- Settles O9: NaN by the fields of the code, the NaN rules of each minor by its value, and the minimum and the maximum by the order of R108. -/
theorem nanAndMinMaxResults : Obligations.NanAndMinMaxResults := by
  refine ⟨isNan_v32, ?two, ?three, word2Rel_of_op2 exec_fmin fun _ _ => ⟨fpMin_of_isNan, fpMin_spec⟩,
    word2Rel_of_op2 exec_fmax fun _ _ => ⟨fpMax_of_isNan, fpMax_spec⟩,
    word2Rel_of_op2 exec_fminn (minMaxNumF_cases false), word2Rel_of_op2 exec_fmaxn (minMaxNumF_cases true)⟩
  case two =>
    intro s c h d a b dst x y hx hw ha hb hn
    simp only [List.forall_mem_cons, List.not_mem_nil, false_implies, implies_true, and_true]
    exact ⟨exec_op2_of_eq exec_fadd hx hw ha hb (fpAdd_of_isNan hn), exec_op2_of_eq exec_fsub hx hw ha hb (fpSub_of_isNan hn),
      exec_op2_of_eq exec_fmul hx hw ha hb (fpMul_of_isNan hn), exec_op2_of_eq exec_fmin hx hw ha hb (fpMin_of_isNan hn),
      exec_op2_of_eq exec_fmax hx hw ha hb (fpMax_of_isNan hn)⟩
  case three =>
    intro s c h d a b dst x y z hx hw ha hb hd hn
    simp only [List.forall_mem_cons, List.not_mem_nil, false_implies, implies_true, and_true]
    exact ⟨exec_op3_of_eq exec_ffma hx hw ha hb hd (fpFma_of_isNan hn), exec_op3_of_eq exec_ffms hx hw ha hb hd (fpFms_of_isNan hn),
      exec_op3_of_eq exec_fnfma hx hw ha hb hd (negRes_fpFma_of_isNan hn), exec_op3_of_eq exec_fnfms hx hw ha hb hd (negRes_fpFms_of_isNan hn)⟩

end Sys2Proof.Floats
end

section
/-! FP32 and packed arithmetic, and the FP32 compares (O8, O10, O11): the exact result rounded once (R106–R111), the signs moved as bits (R107), and
the conditions of R112 and R113. -/
namespace Sys2Proof.Floats
open Sys2Proof.Machine Sys2Proof.Safety Sys2Proof.Claims Sys2Proof.Laws Sys2Proof.Integer

/-! The sign minors (R107). -/

theorem toNat_and_low (a : Word) : (a &&& 0x7FFFFFFF).toNat = a.toNat % 2 ^ 31 :=
  (BitVec.toNat_and ..).trans (Nat.and_two_pow_sub_one_eq_mod a.toNat 31)

theorem toNat_and_sign (b : Word) : (b &&& 0x80000000).toNat = (b.toNat / 2 ^ 31) <<< 31 := by
  refine (BitVec.toNat_and ..).trans (Nat.eq_of_testBit_eq fun i => ?_)
  change (b.toNat &&& 2 ^ 31).testBit i = _
  rw [Nat.testBit_and, Nat.testBit_two_pow, Nat.testBit_shiftLeft, Nat.testBit_div_two_pow]
  rcases Nat.lt_trichotomy i 31 with h | rfl | h
  · rw [decide_eq_false (Nat.ne_of_gt h), decide_eq_false (Nat.not_le_of_gt h), Bool.and_false, Bool.false_and]
  · exact Bool.and_comm ..
  · have hhigh : b.toNat.testBit i = false := Nat.testBit_lt_two_pow (Nat.lt_of_lt_of_le b.isLt (Nat.pow_le_pow_right (by decide) h))
    rw [Nat.sub_add_cancel (Nat.le_of_lt h), hhigh, Bool.false_and, Bool.and_false]

theorem fpAbs_eq (a : Word) : fpAbs a = a &&& 0x7FFFFFFF := by
  rw [fpAbs, ← toNat_and_low, BitVec.ofNat_toNat, BitVec.setWidth_eq]

theorem fpCpsgn_eq (a b : Word) : fpCpsgn a b = (a &&& 0x7FFFFFFF) ||| (b &&& 0x80000000) := by
  have hlow : a.toNat % 2 ^ 31 < 2 ^ 31 := Nat.mod_lt _ (by decide)
  have hsum : ((a &&& 0x7FFFFFFF) ||| (b &&& 0x80000000)).toNat = a.toNat % 2 ^ 31 + b.toNat / 2 ^ 31 * 2 ^ 31 := by
    rw [BitVec.toNat_or, toNat_and_low, toNat_and_sign, Nat.or_comm, ← Nat.shiftLeft_add_eq_or_of_lt hlow, Nat.shiftLeft_eq, Nat.add_comm]
  rw [fpCpsgn, ← hsum, BitVec.ofNat_toNat, BitVec.setWidth_eq]

/-- Settles O8: each minor by the value that it computes; the sign minors by the bits that they move. -/
theorem fp32ArithmeticRoundsOnce : Obligations.Fp32ArithmeticRoundsOnce :=
  ⟨word2_of_op2 exec_fadd (fun _ _ => rfl), word2_of_op2 exec_fsub (fun _ _ => rfl), word2_of_op2 exec_fmul (fun _ _ => rfl),
    word3_of_op3 exec_ffma (fun _ _ _ => rfl), word3_of_op3 exec_ffms (fun _ _ _ => rfl), word3_of_op3 exec_fnfma (fun _ _ _ => rfl),
    word3_of_op3 exec_fnfms (fun _ _ _ => rfl), word1_of_op1 exec_fabs fpAbs_eq, word1_of_op1 exec_fneg (fun _ => rfl),
    word2_of_op2 exec_fcpsgn fpCpsgn_eq, word1_of_op1 exec_ffloor (fun _ => rfl), word1_of_op1 exec_fceil (fun _ => rfl),
    word1_of_op1 exec_ftrunc (fun _ => rfl), word1_of_op1 exec_frint (fun _ => rfl), word1_of_op1 exec_ffrac (fun _ => rfl),
    word2_of_op2 exec_fscale (fun _ _ => rfl)⟩

/-- Settles O10: each minor by the value of its two elements, and the dot products by the sum of their three terms. -/
theorem packedHalvesComputeApart : Obligations.PackedHalvesComputeApart :=
  ⟨word2_of_op2 exec_hadd2 (fun _ _ => rfl), word2_of_op2 exec_hsub2 (fun _ _ => rfl), word2_of_op2 exec_hmul2 (fun _ _ => rfl),
    word2_of_op2 exec_hmin2 (fun _ _ => rfl), word2_of_op2 exec_hmax2 (fun _ _ => rfl), word2_of_op2 exec_badd2 (fun _ _ => rfl),
    word2_of_op2 exec_bsub2 (fun _ _ => rfl), word2_of_op2 exec_bmul2 (fun _ _ => rfl), word2_of_op2 exec_bmin2 (fun _ _ => rfl),
    word2_of_op2 exec_bmax2 (fun _ _ => rfl), word3_of_op3 exec_hfma2 (fun _ _ _ => rfl), word3_of_op3 exec_bfma2 (fun _ _ _ => rfl),
    word3_of_op3 exec_hdot2 (fun _ _ _ => rfl), word3_of_op3 exec_bdot2 (fun _ _ _ => rfl)⟩

/-! The conditions (R112, R121) and the classes (R113). -/

/-- Each condition by how the operands compare: an ordered one is false and an unordered one true where they do not. -/
theorem fcmpCond_eq_getD (n : Nat) (o : Option Ordering) : fcmpCond n o =
    [o == some .eq, o == some .lt || o == some .gt, o == some .lt, o == some .lt || o == some .eq, o == some .gt, o == some .gt || o == some .eq,
      o == none, o != none, o == none || o == some .eq, o != some .eq, o == none || o == some .lt, o != some .gt,
      o == none || o == some .gt].getD n (o != some .lt) := by
  match n, o with
  | 0, none | 1, none | 2, none | 3, none | 4, none | 5, none | 6, none | 7, none | 8, none | 9, none | 10, none | 11, none | 12, none => rfl
  | n + 13, none => rw [fcmpCond, decide_eq_true (Nat.le_add_left_of_le (by decide)), Bool.true_or]; rfl
  | 0, some c | 1, some c | 2, some c | 3, some c | 4, some c | 5, some c | 6, some c | 7, some c | 8, some c | 9, some c | 10, some c | 11, some c
  | 12, some c | n + 13, some c => cases c <;> rfl

theorem bit_eq_msb (a : Word) : bit a 31 = a.msb := rfl

theorem fpClass_eq (a : Word) : fpClass a =
    let ex := a.toNat / 2 ^ 23 % 2 ^ 8
    let m := a.toNat % 2 ^ 23
    if ex = 255 then (if m ≠ 0 then 8 else if a.msb then 0 else 7)
    else if ex = 0 then (if m = 0 then (if a.msb then 3 else 4) else if a.msb then 2 else 5)
    else if a.msb then 1 else 6 := by
  have hex : bits a 30 23 = a.toNat / 2 ^ 23 % 2 ^ 8 := rfl
  have hm : bits a 22 0 = a.toNat % 2 ^ 23 := bits_zero a 22
  simp only [fpClass, hex, hm, bit_eq_msb]
  by_cases h : a.toNat / 2 ^ 23 % 2 ^ 8 = 255
  · simp only [h, true_and, if_true]
    split <;> rfl
  by_cases h0 : a.toNat / 2 ^ 23 % 2 ^ 8 = 0
  · simp only [h0, true_and, if_true]
    rfl
  · simp only [h, h0, false_and, if_false]
    rfl

/-- Settles O11: each condition by its entry in the table of R112, CLASS by the number of the class. -/
theorem fcmpConditions : Obligations.FcmpConditions :=
  ⟨cond32_of_cmp32 exec_fcmpOeq fun _ _ => fcmpCond_eq_getD .., cond32_of_cmp32 exec_fcmpOne fun _ _ => fcmpCond_eq_getD ..,
    cond32_of_cmp32 exec_fcmpOlt fun _ _ => fcmpCond_eq_getD .., cond32_of_cmp32 exec_fcmpOle fun _ _ => fcmpCond_eq_getD ..,
    cond32_of_cmp32 exec_fcmpOgt fun _ _ => fcmpCond_eq_getD .., cond32_of_cmp32 exec_fcmpOge fun _ _ => fcmpCond_eq_getD ..,
    cond32_of_cmp32 exec_fcmpUno fun _ _ => fcmpCond_eq_getD .., cond32_of_cmp32 exec_fcmpOrd fun _ _ => fcmpCond_eq_getD ..,
    cond32_of_cmp32 exec_fcmpUeq fun _ _ => fcmpCond_eq_getD .., cond32_of_cmp32 exec_fcmpUne fun _ _ => fcmpCond_eq_getD ..,
    cond32_of_cmp32 exec_fcmpUlt fun _ _ => fcmpCond_eq_getD .., cond32_of_cmp32 exec_fcmpUle fun _ _ => fcmpCond_eq_getD ..,
    cond32_of_cmp32 exec_fcmpUgt fun _ _ => fcmpCond_eq_getD .., cond32_of_cmp32 exec_fcmpUge fun _ _ => fcmpCond_eq_getD ..,
    cond32_of_cmp32 exec_fcmpClass fun x y => congrArg y.getLsbD (fpClass_eq x)⟩

end Sys2Proof.Floats
end

section
/-! CVT (O12): the value that each conversion fits to its format (R116–R119), the seed that advances after it (R105), and the element groups that
UNPKN may name (R118). -/
namespace Sys2Proof.Floats
open Sys2Proof.Machine Sys2Proof.Safety Sys2Proof.Claims Sys2Proof.Laws Sys2Proof.Integer

@[simp] theorem cvtSeed_t (c : Ctx) (r : BitVec 3) : (cvtSeed c r).t = c.t := by
  unfold cvtSeed
  split <;> rfl

/-- FP64 needs capability bit 1 and stochastic rounding bit 13 (R132). -/
theorem cvtFeatures_ok {c : Ctx} {fp : Bool} {r : BitVec 3} (h1 : fp = true → c.l.has 1 = true) (h13 : r = 5 → c.l.has 13 = true) :
    cvtFeatures c fp r = .ok () := by
  refine require_ok (Bool.and_eq_true_iff.mpr ⟨?_, ?_⟩) _
  · cases fp with
    | false => rfl
    | true => exact h1 rfl
  · by_cases hr : r = 5
    · rw [h13 hr, Bool.or_true]
    · rw [bne_iff_ne.mpr hr, Bool.true_or]

section
variable {c : Ctx} {d a : BitVec 7} {k r : BitVec 3} {dst : Dst}

section
variable (h13 : r = 5 → c.l.has 13 = true)
include h13

theorem cvt1_ok {f : Rnd → Word → Word} {x : Word} (hw : Writes c 1 d dst [a] false) (ha : Reads c a x) :
    cvt1 f d a r c = .ok (cvtSeed (c.write dst [f (cvtRnd c r 0) x]) r) := by
  obtain ⟨hd, hu⟩ := hw
  rw [Reads] at ha
  simp only [cvt1, hd, ha, hu, cvtFeatures_ok (fp := false) nofun h13, res_ok_bind]

theorem cvtTo64_ok {f : Word → DWord} {x : Word} (hw : Writes c 2 d dst [a] false) (ha : Reads c a x) (h1 : c.l.has 1 = true) :
    cvtTo64 f d a r c = .ok (cvtSeed (c.write64 dst (f x)) r) := by
  obtain ⟨hd, hu⟩ := hw
  rw [Reads] at ha
  simp only [cvtTo64, hd, ha, hu, cvtFeatures_ok (fun _ => h1) h13, res_ok_bind]

theorem cvtFrom64_ok {f : Rnd → DWord → Word} {x : DWord} (hw : Writes c 1 d dst [a] false) (ha : Reads64 c a x) (h1 : c.l.has 1 = true) :
    cvtFrom64 f d a r c = .ok (cvtSeed (c.write dst [f (cvtRnd c r 0) x]) r) := by
  obtain ⟨hd, hu⟩ := hw
  rw [Reads64] at ha
  simp only [cvtFrom64, hd, ha, hu, cvtFeatures_ok (fun _ => h1) h13, res_ok_bind]

theorem packRegs_ok {sat : Bool} {z : Word} {xs : List Word} (hw : Writes c 1 d dst [d, a] false) (hd : Reads c d z) (ha : src c 4 a = .ok xs) :
    packRegs d a k sat r c = .ok (cvtSeed (c.write dst [
      let codes := packCodes (c.nf k) (fun j => cvtRnd c r j) sat xs
      BitVec.ofNat 32 (if (c.nf k).container = 8 then codes else z.toNat / 2 ^ 16 + codes * 2 ^ 16)]) r) := by
  obtain ⟨hdst, hu⟩ := hw
  rw [Reads] at hd
  simp only [packRegs, hdst, hd, ha, hu, cvtFeatures_ok (fp := false) nofun h13, res_ok_bind]

end

section
variable {x : Word} (hw : Writes c 4 d dst [a] false) (ha : Reads c a x)
include hw ha

theorem unpackRegs_ok (hg : (c.nf k).container = 8 ∨ r.toNat ≤ 1) : unpackRegs d a k r c = .ok (c.write dst ((List.range 4).map (fun j =>
    f32 (decodeNf (c.nf k) (nfElem (c.nf k) x.toNat ((if (c.nf k).container = 8 then 0 else 4 * r.toNat) + j)))))) := by
  obtain ⟨hd, hu⟩ := hw
  rw [Reads] at ha
  have hb : ((c.nf k).container == 8 || decide (r.toNat ≤ 1)) = true := by rwa [Bool.or_eq_true_iff, beq_iff_eq, decide_eq_true_iff]
  simp only [unpackRegs, hd, ha, hu, require_ok hb, res_ok_bind]

theorem unpackRegs_trap (hg : ¬ ((c.nf k).container = 8 ∨ r.toNat ≤ 1)) : unpackRegs d a k r c = .error c.illegal := by
  obtain ⟨hd, hu⟩ := hw
  rw [Reads] at ha
  have hb : ((c.nf k).container == 8 || decide (r.toNat ≤ 1)) = false := by
    rwa [← Bool.not_eq_true, Bool.or_eq_true_iff, beq_iff_eq, decide_eq_true_iff]
  simp only [unpackRegs, hd, ha, hu, require_error hb, res_ok_bind, res_error_bind]

end
end

/-! The shapes of the statement, from the meaning that `exec` calls. -/

section
variable {mk : Bool → BitVec 7 → BitVec 7 → BitVec 3 → Bool → BitVec 3 → Instr}

theorem cvt32_of_cvt1 {f : (BitVec 3 → Nf) → BitVec 3 → Bool → Rnd → Word → Word}
    (he : ∀ h d a k sat r s, exec (mk h d a k sat r) s = issueReg h s (fun c => cvt1 (f c.nf k sat) d a r c)) : Cvt32 mk f := by
  intro s c h d a k sat r dst x hx hw ha h13
  rw [he]
  exact issueReg_ok hx h (cvt1_ok h13 hw ha) ((cvtSeed_t ..).trans (write_t ..))

theorem cvtTo64_of_exec {f : Word → DWord} (he : ∀ h d a k sat r s, exec (mk h d a k sat r) s = issueReg h s (cvtTo64 f d a r)) :
    CvtTo64 mk f := by
  intro s c h d a k sat r dst x hx hw ha h1 h13
  rw [he]
  exact issueReg_ok hx h (cvtTo64_ok h13 hw ha h1) ((cvtSeed_t ..).trans (write64_t ..))

theorem cvtFrom64_of_exec {f : Bool → Rnd → DWord → Word}
    (he : ∀ h d a k sat r s, exec (mk h d a k sat r) s = issueReg h s (cvtFrom64 (f sat) d a r)) : CvtFrom64 mk f := by
  intro s c h d a k sat r dst x hx hw ha h1 h13
  rw [he]
  exact issueReg_ok hx h (cvtFrom64_ok h13 hw ha h1) ((cvtSeed_t ..).trans (write_t ..))

end

theorem intVal_natCast (n : Nat) : intVal n = .fin false n 0 false := by
  have hn : decide ((n : Int) < 0) = false := decide_eq_false (Int.not_lt.mpr (Int.natCast_nonneg n))
  rw [intVal, hn, Int.natAbs_natCast]

theorem exec_u2f_unsigned (h : Bool) (d a : BitVec 7) (k : BitVec 3) (sat : Bool) (r : BitVec 3) (s : State) : exec (.u2f h d a k sat r) s =
    issueReg h s (cvt1 (fun m x => BitVec.ofNat 32 (fitF fp32 m false (.fin false x.toNat 0 false))) d a r) := by
  simp only [exec_u2f, execU2f, intVal_natCast]

/-- Settles O12: the single values by their shapes, PACKN and UNPKN by what they do to their registers. -/
theorem conversionsFit : Obligations.ConversionsFit := by
  refine ⟨cvt32_of_cvt1 exec_f2i, cvt32_of_cvt1 exec_f2u, cvt32_of_cvt1 exec_i2f, cvt32_of_cvt1 exec_u2f_unsigned, cvt32_of_cvt1 exec_f2h,
    cvt32_of_cvt1 exec_h2f, cvt32_of_cvt1 exec_f2b, cvt32_of_cvt1 exec_b2f, cvt32_of_cvt1 exec_f2n, cvt32_of_cvt1 exec_n2f,
    cvtTo64_of_exec exec_f2d, cvtTo64_of_exec exec_i2d, cvtFrom64_of_exec exec_d2f, cvtFrom64_of_exec exec_d2i, ?packn, ?unpkn, ?unpknTrap⟩
  case packn =>
    exact fun s c h d a k sat r dst z xs hx hw hd ha h13 => issueReg_ok hx h (packRegs_ok h13 hw hd ha) ((cvtSeed_t ..).trans (write_t ..))
  case unpkn => exact fun s c h d a k sat r dst x hx hw ha hg => issueReg_ok hx h (unpackRegs_ok hw ha hg) (write_t ..)
  case unpknTrap => exact fun s c h d a k sat r dst x hx hw ha hg => issueReg_trap hx h (unpackRegs_trap hw ha hg)

end Sys2Proof.Floats
end

section
/-! DOP (O13): FP64 arithmetic and compares with capability bit 1 (R120, R121), and the trap of every minor without it (R132). -/
namespace Sys2Proof.Floats
open Sys2Proof.Machine Sys2Proof.Safety Sys2Proof.Claims Sys2Proof.Laws Sys2Proof.Integer

theorem dopFeature_ok {c : Ctx} (h : c.l.has 1 = true) : dopFeature c = .ok () := require_ok h _
theorem dopFeature_trap {c : Ctx} (h : c.l.has 1 = false) : dopFeature c = .error c.illegal := require_error h _

/-- A destination that two sources allow, the first of them allows (R27). -/
theorem writes_of_two {c : Ctx} {w : Nat} {d a b : BitVec 7} {dst : Dst} {p : Bool} (hw : Writes c w d dst [a, b] p) : Writes c w d dst [a] p := by
  obtain ⟨hd, hu⟩ := hw
  refine ⟨hd, ?_⟩
  simp only [uniRule, require, List.all_cons, List.all_nil, Bool.and_true] at hu ⊢
  split at hu
  case isTrue h =>
    refine if_pos ?_
    simp only [Bool.or_eq_true_iff, Bool.and_eq_true_iff] at h ⊢
    exact h.imp_right fun ⟨⟨ha, _⟩, hp⟩ => ⟨ha, hp⟩
  case isFalse => exact nomatch hu

section
variable {c : Ctx} {d a b : BitVec 7} {dst : Dst} {x y z : DWord} {k : BitVec 2} {p : BitVec 3} {n : Nat}

section
variable (ha : Reads64 c a x) (hb : Reads64 c b y)
include ha hb

theorem dop2_bind {f : DWord → DWord → DWord} (hw : Writes c 2 d dst [a, b] false) :
    dop2 f d a b c = (dopFeature c >>= fun _ => .ok (c.write64 dst (f x y))) := by
  obtain ⟨hd, hu⟩ := hw
  rw [Reads64] at ha hb
  simp only [dop2, hd, ha, hb, hu, res_ok_bind]

theorem dopVar2_bind {f : DWord → DWord → DWord} (hw : Writes c 2 d dst [a, b] false) :
    dopVar2 f d a b c = (dopFeature c >>= fun _ => .ok { c := c, dst := dst, vals := [loWord (f x y), hiWord (f x y)] }) := by
  obtain ⟨hd, hu⟩ := hw
  rw [Reads64] at ha hb
  simp only [dopVar2, hd, ha, hb, hu, res_ok_bind]

theorem dop3_bind {f : DWord → DWord → DWord → DWord} (hw : Writes c 2 d dst [d, a, b] false) (hd : Reads64 c d z) :
    dop3 f d a b c = (dopFeature c >>= fun _ => .ok (c.write64 dst (f x y z))) := by
  obtain ⟨hdst, hu⟩ := hw
  rw [Reads64] at ha hb hd
  simp only [dop3, hdst, hd, ha, hb, hu, res_ok_bind]

theorem dopCmp_bind : dopCmp n k p a b c = (dopFeature c >>= fun _ => .ok (c.setPred p (Combined k (c.pred p) (fcmp64 n x y)))) := by
  rw [Reads64] at ha hb
  simp only [dopCmp, ha, hb, res_ok_bind, setCond, combine_eq]

end

theorem dopVar1_bind {f : DWord → DWord} (hw : Writes c 2 d dst [a] false) (ha : Reads64 c a x) :
    dopVar1 f d a c = (dopFeature c >>= fun _ => .ok { c := c, dst := dst, vals := [loWord (f x), hiWord (f x)] }) := by
  obtain ⟨hd, hu⟩ := hw
  rw [Reads64] at ha
  simp only [dopVar1, hd, ha, hu, res_ok_bind]

end

/-! A word that is checked for capability bit 1 last. -/

section
variable {s : State} {c : Ctx} (hx : Executes s c) (h : Bool)
include hx

theorem issueReg_dop {f : Ctx → Res Ctx} {c' : Ctx} (hf : f c = (dopFeature c >>= fun _ => .ok c')) (ht : c'.t = c.t) (h1 : c.l.has 1 = true) :
    issueReg h s f = .next (retired s c' h) :=
  issueReg_ok hx h (by rw [hf, dopFeature_ok h1, res_ok_bind]) ht

theorem issueReg_noDop {f : Ctx → Res Ctx} {c' : Ctx} (hf : f c = (dopFeature c >>= fun _ => .ok c')) (h1 : c.l.has 1 = false) :
    issueReg h s f = .next (trapNow s c.t c.illegal c.th.blk) :=
  issueReg_trap hx h (by rw [hf, dopFeature_trap h1, res_error_bind])

theorem issueVar_dop {f : Ctx → Res VarRes} {dst : Dst} {vals : List Word}
    (hf : f c = (dopFeature c >>= fun _ => .ok { c := c, dst := dst, vals := vals })) (h1 : c.l.has 1 = true) :
    issueVar h s f = .next (retiredVar s c h dst vals) :=
  issueVar_ok hx h (by rw [hf, dopFeature_ok h1, res_ok_bind])

theorem issueVar_noDop {f : Ctx → Res VarRes} {v : VarRes} (hf : f c = (dopFeature c >>= fun _ => .ok v)) (h1 : c.l.has 1 = false) :
    issueVar h s f = .next (trapNow s c.t c.illegal c.th.blk) :=
  issueVar_trap hx h (by rw [hf, dopFeature_trap h1, res_error_bind])

end

/-! The shapes of the statement, from the meaning that `exec` calls. -/

section
variable {mk : Bool → BitVec 7 → BitVec 7 → BitVec 7 → Instr} {mkc : Bool → BitVec 2 → BitVec 3 → BitVec 7 → BitVec 7 → Instr}

theorem dbl2_of_dop2 {f : DWord → DWord → DWord} (he : ∀ h d a b s, exec (mk h d a b) s = issueReg h s (dop2 f d a b)) : Dbl2 mk f := by
  intro s c h d a b dst x y hx hw ha hb h1
  rw [he]
  exact issueReg_dop hx h (dop2_bind ha hb hw) (write64_t ..) h1

theorem dblCond_of_dopCmp {n : Nat} {t : DWord → DWord → Bool} (he : ∀ h k p a b s, exec (mkc h k p a b) s = issueReg h s (dopCmp n k p a b))
    (ht : ∀ x y, fcmp64 n x y = t x y) : DblCond mkc t := by
  intro s c h k p a b x y hx ha hb h1
  rw [he, ← ht]
  exact issueReg_dop hx h (dopCmp_bind ha hb) (setPred_t ..) h1

end

/-- Settles O13: each minor up to the check of capability bit 1, and then by its outcome. -/
theorem fp64Arithmetic : Obligations.Fp64Arithmetic := by
  refine ⟨dbl2_of_dop2 exec_dadd, dbl2_of_dop2 exec_dsub, dbl2_of_dop2 exec_dmul, dbl2_of_dop2 exec_dmin, dbl2_of_dop2 exec_dmax, ?dfma, ?ddiv, ?dsqrt,
    dblCond_of_dopCmp exec_deq fun _ _ => fcmpCond_eq_getD .., dblCond_of_dopCmp exec_dlt fun _ _ => fcmpCond_eq_getD ..,
    dblCond_of_dopCmp exec_dle fun _ _ => fcmpCond_eq_getD .., dblCond_of_dopCmp exec_duno fun _ _ => fcmpCond_eq_getD ..,
    ?without, ?dfmaWithout, ?compareWithout⟩
  case dfma => exact fun s c h d a b dst x y z hx hw ha hb hd h1 => issueReg_dop hx h (dop3_bind ha hb hw hd) (write64_t ..) h1
  case ddiv => exact fun s c h d a b dst x y hx hw ha hb h1 => issueVar_dop hx h (dopVar2_bind ha hb hw) h1
  case dsqrt => exact fun s c h d a dst x hx hw ha h1 => issueVar_dop hx h (dopVar1_bind hw ha) h1
  case without =>
    intro s c h d a b dst x y hx hw ha hb h1
    simp only [List.forall_mem_cons, List.not_mem_nil, false_implies, implies_true, and_true]
    exact ⟨issueReg_noDop hx h (dop2_bind ha hb hw) h1, issueReg_noDop hx h (dop2_bind ha hb hw) h1, issueReg_noDop hx h (dop2_bind ha hb hw) h1,
      issueReg_noDop hx h (dop2_bind ha hb hw) h1, issueReg_noDop hx h (dop2_bind ha hb hw) h1, issueVar_noDop hx h (dopVar2_bind ha hb hw) h1,
      issueVar_noDop hx h (dopVar1_bind (writes_of_two hw) ha) h1⟩
  case dfmaWithout => exact fun s c h d a b dst x y z hx hw ha hb hd h1 => issueReg_noDop hx h (dop3_bind ha hb hw hd) h1
  case compareWithout =>
    intro s c h k p a b x y hx ha hb h1
    simp only [List.forall_mem_cons, List.not_mem_nil, false_implies, implies_true, and_true]
    exact ⟨issueReg_noDop hx h (dopCmp_bind ha hb) h1, issueReg_noDop hx h (dopCmp_bind ha hb) h1, issueReg_noDop hx h (dopCmp_bind ha hb) h1,
      issueReg_noDop hx h (dopCmp_bind ha hb) h1⟩

end Sys2Proof.Floats
end

section
/-! XFN and SMX (O14, O15): the functions as results of variable latency (R114), their special inputs (R115), and the pieces of the softmax (R122–R124). -/
namespace Sys2Proof.Floats
open Sys2Proof.Machine Sys2Proof.Safety Sys2Proof.Claims Sys2Proof.Laws Sys2Proof.Integer

section
variable {c : Ctx} {d a b : BitVec 7} {dst : Dst} {x y : Word}

theorem xfn1_ok {f : Nat → Nat} (hw : Writes c 1 d dst [a] false) (ha : Reads c a x) :
    xfn1 f d a c = .ok { c := c, dst := dst, vals := [BitVec.ofNat 32 (f x.toNat)] } := by
  obtain ⟨hd, hu⟩ := hw
  rw [Reads] at ha
  simp only [xfn1, hd, ha, hu, res_ok_bind]

theorem xfn2_ok {f : Nat → Nat → Nat} (hw : Writes c 1 d dst [a, b] false) (ha : Reads c a x) (hb : Reads c b y) :
    xfn2 f d a b c = .ok { c := c, dst := dst, vals := [BitVec.ofNat 32 (f x.toNat y.toNat)] } := by
  obtain ⟨hd, hu⟩ := hw
  rw [Reads] at ha hb
  simp only [xfn2, hd, ha, hb, hu, res_ok_bind]

end

/-! The shapes of the statement, from the meaning that `exec` calls. -/

section
variable {mk1 : Bool → BitVec 7 → BitVec 7 → Instr} {f : Nat → Nat}
  (he : ∀ h d a s, exec (mk1 h d a) s = issueVar h s (xfn1 f d a))
include he

theorem var1_of_xfn1 {g : Word → Word} (hg : ∀ x, BitVec.ofNat 32 (f x.toNat) = g x) : Var1 mk1 g := by
  intro s c h d a dst x hx hw ha
  rw [he, ← hg]
  exact issueVar_ok hx h (xfn1_ok hw ha)

theorem gives_of_eq {x v : Word} (hv : f x.toNat = v.toNat) : Gives mk1 x v := by
  have hval : BitVec.ofNat 32 (f x.toNat) = v := by rw [hv, BitVec.ofNat_toNat, BitVec.setWidth_eq]
  rw [← hval]
  exact fun s c h d a dst => var1_of_xfn1 he (fun _ => rfl) s c h d a dst x

/-- The rows of a table of special inputs, compared by a test that evaluates. -/
theorem gives_of_rows {l : List (Word × Word)} (hl : l.all (fun r => f r.1.toNat == r.2.toNat) = true) : ∀ r ∈ l, Gives mk1 r.1 r.2 :=
  fun r hr => gives_of_eq he (eq_of_beq (List.all_eq_true.mp hl r hr))

end

theorem var2_of_xfn2 {mk : Bool → BitVec 7 → BitVec 7 → BitVec 7 → Instr} {f : Nat → Nat → Nat}
    (he : ∀ h d a b s, exec (mk h d a b) s = issueVar h s (xfn2 f d a b)) {g : Word → Word → Word}
    (hg : ∀ x y, BitVec.ofNat 32 (f x.toNat y.toNat) = g x y) : Var2 mk g := by
  intro s c h d a b dst x y hx hw ha hb
  rw [he, ← hg]
  exact issueVar_ok hx h (xfn2_ok hw ha hb)

/-! A NaN operand (R115). -/

section
variable {n : Nat} (h : decodeF fp32 n = .nan)
include h

theorem xRcp_of_nan : xRcp n = nan32 := by rw [xRcp, h]; rfl
theorem xSqrt_of_nan : xSqrt n = nan32 := by rw [xSqrt, h]; rfl
theorem xRsq_of_nan : xRsq n = nan32 := by simp only [xRsq, h]
theorem xExp2_of_nan : xExp2 n = nan32 := by simp only [xExp2, h]
theorem xLog2_of_nan : xLog2 n = nan32 := by simp only [xLog2, h]
theorem xSinpi_of_nan : xSinpi n = nan32 := by simp only [xSinpi, h]
theorem xCospi_of_nan : xCospi n = nan32 := by simp only [xCospi, h]
theorem xTanh_of_nan : xTanh n = nan32 := by simp only [xTanh, h]
theorem xSigm_of_nan : xSigm n = nan32 := by simp only [xSigm, h]
theorem xExp_of_nan : xExp n = nan32 := by simp only [xExp, h]
theorem xLog_of_nan : xLog n = nan32 := by simp only [xLog, h]

end

/-! The functions whose results the statement gives by exact values (R115). -/

theorem xRcp_eq (x : Word) : BitVec.ofNat 32 (xRcp x.toNat) = f32 (divV (.fin false 1 0 false) (v32 x)) := by rw [xRcp, f32, v32]
theorem xSqrt_eq (x : Word) : BitVec.ofNat 32 (xSqrt x.toNat) = f32 (sqrtV (v32 x)) := by rw [xSqrt, f32, v32]
theorem xDiv_eq (x y : Word) : BitVec.ofNat 32 (xDiv x.toNat y.toNat) = f32 (divV (v32 x) (v32 y)) := by rw [xDiv, f32, v32, v32]

/-- Settles O14: the functions by their shapes, the special inputs by their values, the NaN operands by their decoding. -/
theorem xfnResults : Obligations.XfnResults := by
  refine ⟨var1_of_xfn1 exec_xfnRcp xRcp_eq, var1_of_xfn1 exec_xfnSqrt xSqrt_eq, var1_of_xfn1 exec_xfnRsq fun _ => rfl,
    var1_of_xfn1 exec_xfnExp2 fun _ => rfl, var1_of_xfn1 exec_xfnLog2 fun _ => rfl, var1_of_xfn1 exec_xfnSinpi fun _ => rfl,
    var1_of_xfn1 exec_xfnCospi fun _ => rfl, var1_of_xfn1 exec_xfnTanh fun _ => rfl, var1_of_xfn1 exec_xfnSigm fun _ => rfl,
    var1_of_xfn1 exec_xfnExp fun _ => rfl, var1_of_xfn1 exec_xfnLog fun _ => rfl, var2_of_xfn2 exec_xfnDiv xDiv_eq,
    gives_of_rows exec_xfnRcp (by decide), gives_of_rows exec_xfnRsq (by decide), gives_of_rows exec_xfnSqrt (by decide),
    gives_of_rows exec_xfnExp2 (by decide), gives_of_rows exec_xfnExp (by decide), gives_of_rows exec_xfnLog2 (by decide),
    gives_of_rows exec_xfnLog (by decide), gives_of_rows exec_xfnSinpi (by decide), gives_of_rows exec_xfnCospi (by decide),
    gives_of_rows exec_xfnTanh (by decide), gives_of_rows exec_xfnSigm (by decide), fun x hx => ?nan⟩
  case nan =>
    have hn : decodeF fp32 x.toNat = .nan := isNan_iff.mp hx
    exact ⟨gives_of_eq exec_xfnRcp (xRcp_of_nan hn), gives_of_eq exec_xfnRsq (xRsq_of_nan hn), gives_of_eq exec_xfnSqrt (xSqrt_of_nan hn),
      gives_of_eq exec_xfnExp2 (xExp2_of_nan hn), gives_of_eq exec_xfnLog2 (xLog2_of_nan hn), gives_of_eq exec_xfnSinpi (xSinpi_of_nan hn),
      gives_of_eq exec_xfnCospi (xCospi_of_nan hn), gives_of_eq exec_xfnTanh (xTanh_of_nan hn), gives_of_eq exec_xfnSigm (xSigm_of_nan hn),
      gives_of_eq exec_xfnExp (xExp_of_nan hn), gives_of_eq exec_xfnLog (xLog_of_nan hn)⟩

/-! MLMRG and RESCALE (R123, R124). -/

/-- The operands for which MLMRG gives NaN throughout (R123). -/
def MergeBad (m0 l0 m1 l1 : Word) : Prop := [m0, l0, m1, l1].any (fun x => (v32 x).isNan) = true ∨ m0 = 0x7F800000 ∨ m1 = 0x7F800000

section
variable {m0 l0 m1 l1 : Word}

theorem mergeBad_iff : MergeBad m0 l0 m1 l1 ↔ ((v32 m0).isNan || (v32 m1).isNan || (v32 l0).isNan || (v32 l1).isNan ||
    m0 == BitVec.ofNat 32 inf32 || m1 == BitVec.ofNat 32 inf32) = true := by
  have hinf : BitVec.ofNat 32 inf32 = 0x7F800000 := rfl
  simp only [MergeBad, hinf, List.any_cons, List.any_nil, Bool.or_false, Bool.or_eq_true_iff, beq_iff_eq, or_assoc]
  exact or_congr_right or_left_comm

theorem mlMerge_of_bad (h : MergeBad m0 l0 m1 l1) : mlMerge m0 l0 m1 l1 = (0x7FC00000, 0x7FC00000, 0x7FC00000, 0x7FC00000) :=
  if_pos (mergeBad_iff.mp h)

theorem mlMerge_of_not_bad (h : ¬ MergeBad m0 l0 m1 l1) : mlMerge m0 l0 m1 l1 =
    let mn := fpMax m0 m1
    let f0 := if m0 = 0xFF800000 then 0 else expSub m0 mn
    let f1 := if m1 = 0xFF800000 then 0 else expSub m1 mn
    (mn, f32 (addV (skipTerm l0 f0) (skipTerm l1 f1)), f0, f1) :=
  if_neg (mt mergeBad_iff.mpr h)

variable {c : Ctx} {d a b : BitVec 7} {dst : Dst}

theorem mlmrgRegs_ok {z2 z3 : Word} (hw : Writes c 4 d dst [d, a] false) (hd : src c 4 d = .ok [m0, l0, z2, z3]) (ha : src c 2 a = .ok [m1, l1])
    {v0 v1 v2 v3 : Word} (hv : mlMerge m0 l0 m1 l1 = (v0, v1, v2, v3)) : mlmrgRegs d a c = .ok (c.write dst [v0, v1, v2, v3]) := by
  obtain ⟨hdst, hu⟩ := hw
  simp only [mlmrgRegs, hdst, hd, ha, hu, res_ok_bind, List.getD_cons_zero, List.getD_cons_succ, hv]

theorem rescaleRegs_ok {z x f0 f1 : Word} (hw : Writes c 1 d dst [d, a, b] false) (hd : Reads c d z) (ha : Reads c a x)
    (hb : src c 2 b = .ok [f0, f1]) : rescaleRegs d a b c = .ok (c.write dst [f32 (addV (skipTerm z f0) (skipTerm x f1))]) := by
  obtain ⟨hdst, hu⟩ := hw
  rw [Reads] at hd ha
  simp only [rescaleRegs, hdst, hd, ha, hb, hu, res_ok_bind, List.getD_cons_zero, List.getD_cons_succ, rescale]

end

/-- Settles O15: EXPSUB by its value, MLMRG by whether an operand is bad, RESCALE by its two terms. -/
theorem softmaxPieces : Obligations.SoftmaxPieces := by
  refine ⟨word2_of_op2 exec_expsub (fun _ _ => rfl), ?mlmrg, ?rescale⟩
  case mlmrg =>
    intro s c h d a dst m0 l0 z2 z3 m1 l1 hx hw hd ha bad mn factor term
    exact ⟨fun hbad => issueReg_ok hx h (mlmrgRegs_ok hw hd ha (mlMerge_of_bad hbad)) (write_t ..),
      fun hbad => issueReg_ok hx h (mlmrgRegs_ok hw hd ha (mlMerge_of_not_bad hbad)) (write_t ..)⟩
  case rescale =>
    exact fun s c h d a b dst z x f0 f1 hx hw hd ha hb => issueReg_ok hx h (rescaleRegs_ok hw hd ha hb) (write_t ..)

end Sys2Proof.Floats
end

section
/-! The scheduler (O47): what a step keeps (HBM, the launches, the names of the groups), the check of a child (R302), placement (R134), completion (R137,
R286, R303), the choice among the paths of pre-emption (R346, R347), save and return (R348). -/
namespace Sys2Proof.Scheduler
open Sys2Proof.Machine Sys2Proof.Laws

/-- A change of some that keeps what is asked of them keeps it of all. -/
theorem apply_ite_of_keeps {α β : Type} {key : α → β} {f : α → α} (hf : ∀ x, key (f x) = key x) (c : Prop) [Decidable c] (x : α) :
    key (if c then f x else x) = key x := by
  split
  · exact hf x
  · rfl

/-! What a step keeps. -/

/-- The bytes of HBM stay as they are. -/
def KeepsHbm (s s' : State) : Prop :=
  Memory.wf s.mem = true → Memory.wf s'.mem = true ∧ ∀ a, isHbm a = true → memByte s'.mem a = memByte s.mem a

namespace KeepsHbm

theorem of_mem_eq {s s' : State} (h : s'.mem = s.mem) : KeepsHbm s s' := by
  intro hw
  rw [h]
  exact ⟨hw, fun _ _ => rfl⟩

theorem trans {s s' s'' : State} (h : KeepsHbm s s') (h' : KeepsHbm s' s'') : KeepsHbm s s'' := by
  intro hw
  obtain ⟨hw', hb⟩ := h hw
  obtain ⟨hw'', hb'⟩ := h' hw'
  exact ⟨hw'', fun a ha => (hb' a ha).trans (hb a ha)⟩

theorem foldl {α : Type} {f : State → α → State} (hf : ∀ s x, KeepsHbm s (f s x)) (xs : List α) (s : State) : KeepsHbm s (xs.foldl f s) :=
  List.foldlRecOn xs f (motive := KeepsHbm s) (of_mem_eq rfl) (fun s' h x _ => h.trans (hf s' x))

end KeepsHbm

/-- Scratch lies above HBM (R163, R175). -/
theorem clearScratch_keepsHbm (s : State) (core base len : Nat) : KeepsHbm s (clearScratch s core base len) := by
  refine fun hw => ⟨wf_memZero _ _ hw, fun a ha => (memByte_memZero hw _ _ a).trans (if_neg ?_)⟩
  have below : a < 2 ^ 39 := of_decide_eq_true ha
  have above : 2 ^ 40 ≤ scratchKey core base := by
    unfold scratchKey
    omega
  omega

/-- Who a group is: its number, its launch and its team. -/
def groupName (g : Group) : Nat × LRef × Nat := (g.gid, g.launch, g.team)

/-- The launches, tiles and task records stay as they are, and the groups keep their names. -/
structure SameWork (s s' : State) : Prop where
  launches : s'.launches = s.launches
  tiles : s'.tiles = s.tiles
  recs : s'.recs = s.recs
  groups : s'.groups.map groupName = s.groups.map groupName

namespace SameWork

theorem refl (s : State) : SameWork s s := ⟨rfl, rfl, rfl, rfl⟩

theorem trans {s s' s'' : State} (h : SameWork s s') (h' : SameWork s' s'') : SameWork s s'' :=
  ⟨h'.launches.trans h.launches, h'.tiles.trans h.tiles, h'.recs.trans h.recs, h'.groups.trans h.groups⟩

theorem foldl {α : Type} {f : State → α → State} (hf : ∀ s x, SameWork s (f s x)) (xs : List α) (s : State) : SameWork s (xs.foldl f s) :=
  List.foldlRecOn xs f (motive := SameWork s) (refl s) (fun s' h x _ => h.trans (hf s' x))

/-- A change of the groups that keeps each one's name. -/
theorem of_map {s : State} {f : Group → Group} (hf : ∀ g, groupName (f g) = groupName g) : SameWork s { s with groups := s.groups.map f } :=
  ⟨rfl, rfl, rfl, by simp [Function.comp_def, hf]⟩

/-- A group has the name of one that was there before. -/
theorem exists_group {s s' : State} (h : SameWork s s') {g : Group} (hg : g ∈ s'.groups) : ∃ g0 ∈ s.groups, groupName g0 = groupName g := by
  rw [← List.mem_map, ← h.groups]
  exact List.mem_map_of_mem hg

end SameWork

theorem clearScratch_sameWork (s : State) (core base len : Nat) : SameWork s (clearScratch s core base len) :=
  ⟨rfl, rfl, rfl, rfl⟩

theorem putEngine_sameWork (s : State) (e : Engine) : SameWork s (s.putEngine e) := ⟨rfl, rfl, rfl, rfl⟩

/-! The baton (R272, R274) changes engines and, where it is granted, what the group's threads wait for. -/

theorem modGroup_sameWork (s : State) (gid : Nat) {f : Group → Group} (hf : ∀ g, groupName (f g) = groupName g) : SameWork s (s.modGroup gid f) :=
  .of_map fun g => apply_ite_of_keeps hf _ g

theorem grantBaton_eq (s : State) (core : Nat) : grantBaton s core = s ∨ ∃ gid, grantBaton s core = giveBaton s core gid := by
  unfold grantBaton
  dsimp only
  split
  · split
    · exact .inl rfl
    · exact .inr ⟨_, rfl⟩
  · exact .inl rfl

theorem grantBaton_mem (s : State) (core : Nat) : (grantBaton s core).mem = s.mem := by
  rcases grantBaton_eq s core with e | ⟨gid, e⟩ <;> rw [e]
  rfl

theorem grantBaton_sameWork (s : State) (core : Nat) : SameWork s (grantBaton s core) := by
  rcases grantBaton_eq s core with e | ⟨gid, e⟩ <;> rw [e]
  · exact .refl s
  · exact (putEngine_sameWork s _).trans (modGroup_sameWork _ gid fun _ => rfl)

theorem dropBaton_keepsHbm (s : State) (core gid : Nat) : KeepsHbm s (dropBaton s core gid) := .of_mem_eq (grantBaton_mem _ _)

theorem dropBaton_sameWork (s : State) (core gid : Nat) : SameWork s (dropBaton s core gid) :=
  (putEngine_sameWork s _).trans (grantBaton_sameWork _ core)

/-! A launch and a team after a change. -/

theorem launch?_ref {s : State} {ref : LRef} {l : Launch} (h : s.launch? ref = some l) : l.ref = ref := by
  simpa using List.find?_some h

theorem launch?_modLaunch (s : State) (ref : LRef) {f : Launch → Launch} (hf : ∀ l, (f l).ref = l.ref) :
    (s.modLaunch ref f).launch? ref = (s.launch? ref).map f := by
  simp only [State.launch?, State.modLaunch, List.find?_map, Function.comp_def, apply_ite_of_keeps hf]
  cases h : s.launches.find? (fun l => l.ref == ref) with
  | none => rfl
  | some l => simp [launch?_ref h]

theorem team?_idx {l : Launch} {i : Nat} {t : Team} (h : l.team? i = some t) : t.idx = i := by
  simpa using List.find?_some h

/-- The launch with one of its teams changed. -/
def withTeam (i : Nat) (f : Team → Team) (l : Launch) : Launch := { l with teams := l.teams.map (fun t => if t.idx = i then f t else t) }

theorem withTeam_team? (l : Launch) (i : Nat) {f : Team → Team} (hf : ∀ t, (f t).idx = t.idx) : (withTeam i f l).team? i = (l.team? i).map f := by
  simp only [Launch.team?, withTeam, List.find?_map, Function.comp_def, apply_ite_of_keeps hf]
  cases h : l.teams.find? (fun t => t.idx == i) with
  | none => rfl
  | some t => simp [team?_idx h]

/-! The check of a child (R302, R133). -/

/-- Counting an error in a header changes the error counts alone. -/
theorem countHeader_eq (s : State) (asid : Nat) (a : DWord) : ∃ errs, countHeader s asid a = { s with errs := errs } := by
  unfold countHeader countReads
  split
  · exact ⟨_, rfl⟩
  · split
    · exact ⟨_, rfl⟩
    · exact ⟨_, rfl⟩

/-- The status of a launch that is refused (R304). -/
theorem statusWord_refused (code : Nat) : statusWord 0 4 code = BitVec.ofNat 32 (4 * 256 + code) := by
  simp [statusWord]

/-- What is asked for by an entry of a pending pool. -/
def childReq (p : Pending) : LaunchReq :=
  { header := p.header, argp := p.argp, T := p.T, prio := p.prio, asid := p.asid, podKey := p.podKey, P := 1, rank := 0, gang := false,
    depth := p.depth, parent := some p.pl }

/-- The state once an entry has left its pool and its header has been read. -/
def unpooled (s : State) (p : Pending) : State := countHeader { s with pool := s.pool.filter (fun x => x.ref != p.ref) } p.asid p.header

/-- The code of the check of a child; 0 accepts it. -/
def childCode (s : State) (die : Nat) (p : Pending) : Nat := checkLaunch (unpooled s p) die (readHeader s p.asid p.header) (childReq p)

/-- The answer to a code and a header. -/
def childAnswer (s : State) (p : Pending) : Nat → Option Header → Out
  | 0, some hd => .next (acceptLaunch s p.ref hd (childReq p))
  | code, _ => .next { s with kept := s.kept ++ [{ ref := p.ref, parent := p.pl, status := statusWord 0 4 code }] }

section
variable {s : State} {die : Nat} {p : Pending} (hp : s.pool.find? (fun x => x.ref.die == die) = some p)
include hp

theorem exec_pendingPoolCheck_eq :
    exec (.pendingPoolCheck die) s = childAnswer (unpooled s p) p (childCode s die p) (readHeader s p.asid p.header) := by
  rw [exec_pendingPoolCheck, execPendingPoolCheck, hp]
  rfl

theorem exec_pendingPoolCheck_refuse (hc : childCode s die p ≠ 0) : exec (.pendingPoolCheck die) s =
    .next { unpooled s p with kept := (unpooled s p).kept ++ [{ ref := p.ref, parent := p.pl, status := statusWord 0 4 (childCode s die p) }] } := by
  obtain ⟨n, hn⟩ := Nat.exists_eq_succ_of_ne_zero hc
  rw [exec_pendingPoolCheck_eq hp, hn]
  rfl

/-- A launch without a header is refused, so that one that is accepted has one. -/
theorem exec_pendingPoolCheck_accept (hc : childCode s die p = 0) :
    ∃ hd, exec (.pendingPoolCheck die) s = .next (acceptLaunch (unpooled s p) p.ref hd (childReq p)) := by
  rw [exec_pendingPoolCheck_eq hp, hc]
  cases hh : readHeader s p.asid p.header with
  | none =>
    rw [childCode, hh] at hc
    cases hc
  | some hd => exact ⟨hd, rfl⟩

end

/-! Placement (R134). -/

/-- The bytes of HBM stay, and so do the groups whose numbers have been given out. -/
structure Grows (s s' : State) : Prop where
  hbm : KeepsHbm s s'
  groups : ∀ g ∈ s.groups, g.gid < s.nextGid → g ∈ s'.groups
  nextGid : s.nextGid ≤ s'.nextGid

namespace Grows

theorem of_eq {s s' : State} (hm : KeepsHbm s s') (hg : s'.groups = s.groups) (hn : s'.nextGid = s.nextGid) : Grows s s' :=
  ⟨hm, fun _ h _ => hg ▸ h, Nat.le_of_eq hn.symm⟩

theorem refl (s : State) : Grows s s := of_eq (.of_mem_eq rfl) rfl rfl

theorem trans {s s' s'' : State} (h : Grows s s') (h' : Grows s' s'') : Grows s s'' :=
  ⟨h.hbm.trans h'.hbm, fun g hg hn => h'.groups g (h.groups g hg hn) (Nat.lt_of_lt_of_le hn h.nextGid), Nat.le_trans h.nextGid h'.nextGid⟩

theorem foldl {α : Type} {f : State → α → State} (hf : ∀ s x, Grows s (f s x)) (xs : List α) (s : State) : Grows s (xs.foldl f s) :=
  List.foldlRecOn xs f (motive := Grows s) (refl s) (fun s' h x _ => h.trans (hf s' x))

end Grows

/-- The state with one group more, in the place of whichever had its number. -/
def addGroup (s : State) (g : Group) : State :=
  { s with groups := s.groups.filter (fun x => x.gid != g.gid) ++ [g], nextGid := max s.nextGid (g.gid + 1) }

theorem addGroup_grows {s : State} {g : Group} (hg : s.nextGid ≤ g.gid) : Grows s (addGroup s g) := by
  refine ⟨.of_mem_eq rfl, fun x hx hn => List.mem_append_left _ (List.mem_filter.mpr ⟨hx, ?_⟩), Nat.le_max_left _ _⟩
  exact bne_iff_ne.mpr (Nat.ne_of_lt (Nat.lt_of_lt_of_le hn hg))

/-- Groups are placed one by one, each on a core of its team. -/
theorem placeGroups_cons {s s' : State} {l : Launch} {team i : Nat} {cores is : List Nat} {mk : State → Nat → Nat → Nat → Nat → Group}
    (h : placeGroups s l team cores mk (i :: is) = some s') :
    ∃ core quad slot, core ∈ cores ∧ placeGroups (addGroup s (mk s i core quad slot)) l team cores mk is = some s' := by
  rw [placeGroups] at h
  split at h
  · rename_i core slot hcore _
    exact ⟨core, _, slot, List.mem_of_getElem? hcore, h⟩
  · cases h

section
variable {l : Launch} {team : Nat} {cores : List Nat} {mk : State → Nat → Nat → Nat → Nat → Group}
  (hmk : ∀ s i core quad slot, (mk s i core quad slot).gid = s.nextGid)
include hmk

theorem placeGroups_grows {is : List Nat} {s s' : State} (h : placeGroups s l team cores mk is = some s') : Grows s s' := by
  induction is generalizing s with
  | nil =>
    obtain rfl : s = s' := Option.some.inj h
    exact .refl s
  | cons i is ih =>
    obtain ⟨core, quad, slot, -, h⟩ := placeGroups_cons h
    exact (addGroup_grows (Nat.le_of_eq (hmk s i core quad slot).symm)).trans (ih h)

/-- Each group of a list has been made, on a core of its team, and stands there with its number given out. -/
theorem placeGroups_starts {is : List Nat} {s s' : State} (h : placeGroups s l team cores mk is = some s') {k : Nat} (hk : k ∈ is) :
    ∃ s0 core quad slot, core ∈ cores ∧ (mk s0 k core quad slot).gid < s'.nextGid ∧ mk s0 k core quad slot ∈ s'.groups := by
  induction is generalizing s with
  | nil => cases hk
  | cons i is ih =>
    obtain ⟨core, quad, slot, hcore, h⟩ := placeGroups_cons h
    rcases List.mem_cons.mp hk with rfl | hk
    · have later := placeGroups_grows hmk h
      have given : (mk s k core quad slot).gid < (addGroup s (mk s k core quad slot)).nextGid := Nat.le_max_right _ _
      exact ⟨s, core, quad, slot, hcore, Nat.lt_of_lt_of_le given later.nextGid,
        later.groups _ (List.mem_append_right _ (List.mem_singleton_self _)) given⟩
    · exact ih h hk

end

/-- The engine that a launch finds on a core is another; nothing else changes. -/
theorem engineFor_eq (s : State) (l : Launch) (core : Nat) : ∃ engines, engineFor s l core = { s with engines := engines } := by
  unfold engineFor
  split
  · exact ⟨_, rfl⟩
  · exact ⟨s.engines, rfl⟩

/-- The cores of a team are made ready for it (R166, R251). -/
theorem prepareCore_grows (s : State) (l : Launch) (core : Nat) : Grows s (acquireCopies (engineFor s l core) core true) := by
  obtain ⟨engines, e⟩ := engineFor_eq s l core
  rw [e]
  exact .of_eq (.of_mem_eq rfl) rfl rfl

/-- A team is placed by clearing its scratch, making its cores ready and starting its groups. -/
theorem placeTeam_eq_some {s s' : State} {l : Launch} {tm : Team} {cores bases is : List Nat} {mk : State → Nat → Nat → Nat → Nat → Group}
    (h : placeTeam s l tm cores bases is mk = some s') : ∃ s1, Grows s s1 ∧ placeGroups s1 l tm.idx cores mk is = some s' := by
  unfold placeTeam at h
  dsimp only at h
  split at h
  · cases h
  · refine ⟨_, ?_, h⟩
    have cleared := Grows.foldl fun s (x : (Nat × Nat) × Nat) =>
      Grows.of_eq (clearScratch_keepsHbm s x.1.1 x.1.2 (sliceLen l.hdr.scratch cores.length x.2)) rfl rfl
    have prepared := Grows.foldl fun s core => prepareCore_grows s l core
    exact ((cleared _ s).trans (prepared _ _)).trans (.of_eq (.of_mem_eq rfl) rfl rfl)

/-- One team of a set is placed, where the teams before it have been. -/
def placeStep (s : State) (l : Launch) (cores : List Nat) (n : Nat) (is : Nat → List Nat) (mk : Nat → State → Nat → Nat → Nat → Nat → Group)
    (o : Option State) (x : Team × Nat) : Option State :=
  match o, slicesFor s l.hdr cores n x.2 with
  | some s1, some bases => (s1.launch? l.ref).bind (fun l1 => placeTeam s1 l1 x.1 (coresOf l.hdr cores x.2) bases (is x.1.idx) (mk x.1.idx))
  | _, _ => none

theorem placeSet_eq {s : State} {l : Launch} (hl : s.launch? l.ref = some l) (ts : List Team) (cores : List Nat) (is : Nat → List Nat)
    (mk : Nat → State → Nat → Nat → Nat → Nat → Group) :
    placeSet s l.ref ts cores is mk = ts.zipIdx.foldl (placeStep s l cores ts.length is mk) (some s) := by
  rw [placeSet, hl]
  rfl

section
variable {s : State} {l : Launch} {cores : List Nat} {n : Nat} {is : Nat → List Nat} {mk : Nat → State → Nat → Nat → Nat → Nat → Group}

theorem placeStep_eq_some {o : Option State} {x : Team × Nat} {s' : State} (h : placeStep s l cores n is mk o x = some s') :
    ∃ s1 s2 l1, o = some s1 ∧ Grows s1 s2 ∧ placeGroups s2 l1 x.1.idx (coresOf l.hdr cores x.2) (mk x.1.idx) (is x.1.idx) = some s' := by
  unfold placeStep at h
  split at h
  · rename_i s1 _ _
    obtain ⟨l1, -, h⟩ := Option.bind_eq_some_iff.mp h
    obtain ⟨s2, grows, h⟩ := placeTeam_eq_some h
    exact ⟨s1, s2, l1, rfl, grows, h⟩
  · cases h

variable (hmk : ∀ t s i core quad slot, (mk t s i core quad slot).gid = s.nextGid)
include hmk

theorem placeSteps_grows {xs : List (Team × Nat)} {o : Option State} {s' : State} (h : xs.foldl (placeStep s l cores n is mk) o = some s') :
    ∃ s1, o = some s1 ∧ Grows s1 s' := by
  induction xs generalizing o with
  | nil => exact ⟨s', h, .refl s'⟩
  | cons x xs ih =>
    obtain ⟨s3, h3, later⟩ := ih h
    obtain ⟨s1, s2, l1, rfl, grows, h3⟩ := placeStep_eq_some h3
    exact ⟨s1, rfl, (grows.trans (placeGroups_grows (hmk _) h3)).trans later⟩

/-- Every group of every team of a set has been made, on one of the cores chosen. -/
theorem placeSteps_starts {xs : List (Team × Nat)} {o : Option State} {s' : State} (h : xs.foldl (placeStep s l cores n is mk) o = some s')
    {x : Team × Nat} (hx : x ∈ xs) {k : Nat} (hk : k ∈ is x.1.idx) :
    ∃ s0 core quad slot, core ∈ cores ∧ mk x.1.idx s0 k core quad slot ∈ s'.groups := by
  obtain ⟨as, bs, rfl⟩ := List.append_of_mem hx
  rw [List.foldl_append, List.foldl_cons] at h
  obtain ⟨s3, h3, later⟩ := placeSteps_grows hmk h
  obtain ⟨s1, s2, l1, -, -, h3⟩ := placeStep_eq_some h3
  obtain ⟨s0, core, quad, slot, hcore, given, hg⟩ := placeGroups_starts (hmk _) h3 hk
  exact ⟨s0, core, quad, slot, List.mem_of_mem_drop (List.mem_of_mem_take hcore), later.groups _ hg given⟩

end

section
variable {s s1 : State} {l : Launch} {cores : List Nat} (hl : s.launch? l.ref = some l) (h : placeFresh s l cores = some s1)
include hl h

theorem placeFresh_keepsHbm : KeepsHbm s s1 := by
  rw [placeFresh, placeSet_eq hl] at h
  obtain ⟨s0, e, grows⟩ := placeSteps_grows (fun _ _ _ _ _ _ => rfl) h
  cases e
  exact grows.hbm

/-- A team that has not retired is placed as a new one, with all its groups (R134). -/
theorem placeFresh_starts {i : Nat} (hi : i ∈ nextTeams l) (hr : ∀ t, l.team? i = some t → t.retired = false) {k : Nat} (hk : k < l.hdr.g) :
    ∃ s0 core quad slot, core ∈ cores ∧ startGroup l i s0 k core quad slot ∈ s1.groups := by
  have fresh : freshTeam l i = Team.fresh i := by
    unfold freshTeam
    split
    · rename_i t ht
      rw [hr t ht]
      rfl
    · rfl
  have groups : freshGroups l i = List.range l.hdr.g := by
    rw [freshGroups, fresh]
    rfl
  rw [placeFresh, placeSet_eq hl] at h
  have mem := List.mem_map_of_mem (f := freshTeam l) hi
  rw [← List.zipIdx_map_fst 0 ((nextTeams l).map (freshTeam l)), fresh, List.mem_map] at mem
  obtain ⟨x, hx, hxi⟩ := mem
  have := placeSteps_starts (fun _ _ _ _ _ _ => rfl) h hx (k := k)
  rw [hxi] at this
  exact this (groups ▸ List.mem_range.mpr hk)

end

/-- The launch after a placement (R134, R137). -/
def afterPlacement (s : State) (ts : List Nat) (l : Launch) : Launch :=
  { l with state := 2, since := s.ns, nextTeam := max l.nextTeam (ts.foldl max 0 + 1), flushed := l.flushed.filter (fun i => !ts.contains i) }

section
variable {s s1 : State} {ref : LRef} {l : Launch} (hl : s.launch? ref = some l)
include hl

theorem exec_teamPlacement_refused (h : l.waits s = false ∨ l.first s = false) (cluster : Nat) (cores : List Nat) :
    exec (.teamPlacement ref cluster cores) s = .fault .notEnabled := by
  rw [exec_teamPlacement, execTeamPlacement, hl]
  exact if_pos (h.elim .inl fun h => .inr (.inl h))

theorem exec_teamPlacement_placed {cluster : Nat} {cores : List Nat} (hw : l.waits s = true) (hf : l.first s = true) (ht : nextTeams l ≠ [])
    (hc : coresOk l cluster cores (nextTeams l).length = true) (hp : placeFresh s l cores = some s1) :
    exec (.teamPlacement ref cluster cores) s = .next (s1.modLaunch ref (afterPlacement s (nextTeams l))) := by
  rw [exec_teamPlacement, execTeamPlacement, hl]
  refine (if_neg (by simp [hw, hf, ht, hc])).trans ?_
  rw [hp]
  rfl

end

/-! Completion (R137, R286, R303). -/

/-- The states in which the completion of a launch that has not ended is not enabled. -/
theorem exec_launchComplete_refused {s : State} {ref : LRef} {l : Launch} (hl : s.launch? ref = some l) (hs : l.state < 3)
    (h : launchBusy s l = true ∨ l.allRetired = false) : exec (.launchComplete ref) s = .fault .notEnabled := by
  rw [exec_launchComplete, execLaunchComplete, hl]
  exact (if_neg fun ⟨e, _⟩ => Nat.ne_of_lt hs e).trans (if_pos (.inr h.symm))

/-- The final status of a launch: its leak, COMPLETE, its code. -/
def endStatus (s : State) (l : Launch) : Word := statusWord (finalStatus s l).1 3 (finalStatus s l).2

theorem endStatus_eq (s : State) (l : Launch) :
    endStatus s l = BitVec.ofNat 32 ((finalStatus s l).1 * 2 ^ 16 + 3 * 2 ^ 8 + (finalStatus s l).2) := by
  rw [endStatus, statusWord, Nat.min_eq_left (by exact Nat.min_le_right _ _)]

/-- What the end of a launch leaves: its status goes to its parent, or to the command that waits for it. -/
def afterEnd (s : State) (l : Launch) : State :=
  l.parent.elim (launchDone (clearLaunch s l) l.ref (endStatus s l)) fun p =>
    { clearLaunch s l with kept := (clearLaunch s l).kept ++ [{ ref := l.ref, parent := p, status := endStatus s l }] }

theorem exec_launchComplete_ends {s : State} {l : Launch} (hl : s.launch? l.ref = some l) (hs : l.state < 3) (hr : l.allRetired = true)
    (hb : launchBusy s l = false) (hg : s.gangOf l.ref = none) : exec (.launchComplete l.ref) s = .next (afterEnd s l) := by
  rw [exec_launchComplete, execLaunchComplete, hl]
  refine (if_neg fun ⟨e, _⟩ => Nat.ne_of_lt hs e).trans ((if_neg (by simp [hs, hr, hb])).trans ?_)
  rw [hg, afterEnd]
  cases l.parent <;> rfl

/-- Nothing of a launch is left: no entry of its own, no group, no tile, no task record. -/
def Gone (ref : LRef) (s : State) : Prop :=
  s.launch? ref = none ∧ (∀ g ∈ s.groups, g.launch ≠ ref) ∧ (∀ x ∈ s.tiles, x.live = true → x.owner ≠ ref) ∧ ∀ r ∈ s.recs, r.launch ≠ ref

theorem clearLaunch_gone (s : State) (l : Launch) : Gone l.ref (clearLaunch s l) := by
  refine ⟨?launches, fun g hg => ?groups, fun x hx hlive => ?tiles, fun r hr => ?recs⟩
  case launches =>
    refine List.find?_eq_none.mpr fun x hx => ?_
    have := (List.mem_filter.mp hx).2
    simpa using this
  case groups => simpa using (List.mem_filter.mp hg).2
  case recs => simpa using (List.mem_filter.mp hr).2
  case tiles =>
    obtain ⟨y, -, rfl⟩ := List.mem_map.mp hx
    split at hlive
    · cases hlive
    · rename_i h
      rw [if_neg h]
      simpa [hlive] using h

theorem Gone.of_sameWork {ref : LRef} {s s' : State} (h : Gone ref s) (hw : SameWork s s') : Gone ref s' := by
  obtain ⟨hl, hg, ht, hr⟩ := h
  refine ⟨?_, fun g' hg' => ?_, hw.tiles ▸ ht, hw.recs ▸ hr⟩
  · rw [State.launch?, hw.launches]
    exact hl
  · obtain ⟨g, hmem, e⟩ := hw.exists_group hg'
    have : g.launch = g'.launch := congrArg (fun x => x.2.1) e
    exact this ▸ hg g hmem

/-- A write at the point of coherence dooms versions; it moves no group (R181). -/
theorem pocWrite_sameWork (s : State) (byGid : Option Nat) (key : Nat) (bs : List Byte) : SameWork s (pocWrite s byGid key bs) := by
  have hf : ∀ g, groupName (doom byGid key bs.length g) = groupName g := fun g => by
    unfold doom
    split
    · split <;> rfl
    · rfl
  obtain ⟨hl, ht, hr, hg⟩ := SameWork.of_map (s := s) hf
  exact ⟨hl, ht, hr, hg⟩

theorem countAddr_sameWork (s : State) (asid : Nat) (a : DWord) : SameWork s (countAddr s asid a) := by
  unfold countAddr countWalk
  split
  · exact .refl s
  · split
    · exact ⟨rfl, rfl, rfl, rfl⟩
    · exact .refl s

theorem completeCmd_sameWork (s : State) (c : HostCmd) (out : DWord) (code : Nat) (result : Word) : SameWork s (completeCmd s c out code result) := by
  have taken : SameWork s { s with cmds := s.cmds.filter (fun x => x.id != c.id) } := ⟨rfl, rfl, rfl, rfl⟩
  refine taken.trans ?_
  unfold completeCmd
  dsimp only
  split
  · exact ⟨rfl, rfl, rfl, rfl⟩
  · split
    · exact .refl _
    · split
      · exact countAddr_sameWork ..
      · exact ((pocWrite_sameWork ..).trans (pocWrite_sameWork ..)).trans (pocWrite_sameWork ..)

theorem launchDone_sameWork (s : State) (ref : LRef) (status : Word) : SameWork s (launchDone s ref status) :=
  SameWork.foldl (fun s c => completeCmd_sameWork s c _ _ _) _ s

theorem afterEnd_gone (s : State) (l : Launch) : Gone l.ref (afterEnd s l) := by
  unfold afterEnd
  cases l.parent with
  | none => exact (clearLaunch_gone s l).of_sameWork (launchDone_sameWork _ _ _)
  | some p => exact clearLaunch_gone s l

/-! Sets of teams (R128, R346). -/

theorem setOf_eq_some {s : State} {ref : LRef} {team : Nat} {u : TeamSet} (h : Machine.setOf s ref team = some u) : s.launch? ref = some u.launch := by
  unfold Machine.setOf at h
  split at h
  · rename_i l hl
    split at h
    · cases h
      exact hl
    · cases h
  · cases h

/-- A team of a set is the one of its number. -/
theorem team?_of_mem_teams {u : TeamSet} {t : Team} (h : t ∈ u.teams) : u.launch.team? t.idx = some t := by
  obtain ⟨k, -, hk⟩ := List.mem_filterMap.mp h
  rw [team?_idx hk]
  exact hk

/-- No group is changed where only teams are. -/
theorem setMod_eq (s : State) (u : TeamSet) (f : Team → Team) : (TeamSet.mod s u f).mem = s.mem ∧ (TeamSet.mod s u f).groups = s.groups :=
  List.foldlRecOn u.teams _ (motive := fun s' : State => s'.mem = s.mem ∧ s'.groups = s.groups) ⟨rfl, rfl⟩ (fun _ h _ _ => h)

theorem discardVersion_mem (s : State) (gid : Nat) : (discardVersion s gid).mem = s.mem := by
  unfold discardVersion
  dsimp only
  split
  · split
    · split <;> rfl
    · rfl
  · rfl

theorem discardSet_mem (s : State) (u : TeamSet) : (discardSet s u).mem = s.mem :=
  List.foldlRecOn (u.groups s) _ (motive := fun s' : State => s'.mem = s.mem) rfl (fun s' h g _ => (discardVersion_mem s' g.gid).trans h)

/-- A group of a set is one of those whose number is listed. -/
theorem contains_gids {gs : List Group} {g : Group} (h : gs.any (fun x => x.gid == g.gid) = true) : (gs.map (fun x => x.gid)).contains g.gid = true := by
  rw [List.contains_iff_mem, List.mem_map]
  obtain ⟨x, hx, e⟩ := List.any_eq_true.mp h
  exact ⟨x, hx, beq_iff_eq.mp e⟩

/-- A change of the listed groups reaches each of them. -/
theorem of_mem_map_listed {gs all : List Group} {f : Group → Group} {P : Group → Prop} (hP : ∀ g, P (f g)) {g : Group}
    (hg : g ∈ all.map (fun g => if (gs.map (fun x => x.gid)).contains g.gid then f g else g)) (h : gs.any (fun x => x.gid == g.gid) = true) : P g := by
  obtain ⟨g0, -, rfl⟩ := List.mem_map.mp hg
  by_cases hc : (gs.map (fun x => x.gid)).contains g0.gid = true
  · rw [if_pos hc]
    exact hP g0
  · rw [if_neg hc] at h
    exact absurd (contains_gids h) hc

/-! The choice among the paths (R346, R347, R147, R305). -/

section
variable {s : State} {ref : LRef} {team : Nat} {u : TeamSet} (hu : Machine.setOf s ref team = some u)
include hu

theorem exec_timeSliceExpiry_taken {w : Launch} {p : Path} (hw : nextWaiting s ref.die = some w) (hp : pathOf s u false false = some p)
    (hc : chosen s w (fun v => v.free s false && outranks s w v) u = true) : exec (.timeSliceExpiry ref team) s = .next (startPath s u p) := by
  rw [exec_timeSliceExpiry, execTimeSliceExpiry, hu, hw]
  simp only [hp]
  exact if_pos hc

theorem exec_timeSliceExpiry_idle (hw : nextWaiting s ref.die = none) : exec (.timeSliceExpiry ref team) s = .fault .notEnabled := by
  rw [exec_timeSliceExpiry, execTimeSliceExpiry, hu, hw]
  rfl

end

/-- A wait for a child (R304), a wait for a task (R292). -/
def waitsForChild : POp → Bool
  | .lwait _ => true
  | _ => false

def waitsForTask : POp → Bool
  | .tknext .. => true
  | _ => false

/-- A set may make way for a launch because it is blocked: for its own, or, where all its threads wait for children or all for tasks, for any. -/
def givesWay (s : State) (w : Launch) (v : TeamSet) : Bool :=
  v.free s true && ((v.launch.ref == w.ref && v.teams.all (fun t => blockedTeam s v.launch t.idx))
    || (v.teams.all (fun t => allWaitIn s v.launch t.idx waitsForChild) || v.teams.all (fun t => allWaitIn s v.launch t.idx waitsForTask)))

/-- The set makes way for the other teams of its launch. -/
def GivesOwn (s : State) (u : TeamSet) : Prop := u.launch.waits s = true ∧ chosen s u.launch (givesWay s u.launch) u = true

/-- The set makes way for the launch that its die serves next. -/
def GivesOther (s : State) (die : Nat) (u : TeamSet) : Prop := ∃ w, nextWaiting s die = some w ∧ chosen s w (givesWay s w) u = true

section
variable {s : State} {ref : LRef} {team : Nat} {u : TeamSet} (hu : Machine.setOf s ref team = some u)
include hu

theorem exec_blockedTeamSwap_eq : exec (.blockedTeamSwap ref team) s =
    if (u.launch.waits s && chosen s u.launch (givesWay s u.launch) u || (nextWaiting s ref.die).any (fun w => chosen s w (givesWay s w) u)) = true
    then .next (startPath s u .save) else .fault .notEnabled := by
  rw [exec_blockedTeamSwap, execBlockedTeamSwap, hu]
  cases nextWaiting s ref.die <;> rfl

theorem exec_blockedTeamSwap_taken (h : GivesOwn s u ∨ GivesOther s ref.die u) : exec (.blockedTeamSwap ref team) s = .next (startPath s u .save) := by
  rw [exec_blockedTeamSwap_eq hu]
  refine if_pos ?_
  rcases h with ⟨hw, hc⟩ | ⟨w, hw, hc⟩
  · rw [hw, hc]
    rfl
  · rw [hw]
    exact Bool.or_eq_true_iff.mpr (.inr hc)

theorem exec_blockedTeamSwap_refused (hown : ¬ GivesOwn s u) (hother : ¬ GivesOther s ref.die u) :
    exec (.blockedTeamSwap ref team) s = .fault .notEnabled := by
  rw [exec_blockedTeamSwap_eq hu]
  refine if_neg fun h => ?_
  rcases Bool.or_eq_true_iff.mp h with h | h
  · exact hown (Bool.and_eq_true_iff.mp h)
  · exact hother ((Option.any_eq_true _ _).mp h)

end

/-- Where drain is excluded it is not chosen. -/
theorem pathOf_ne_drain {s : State} {u : TeamSet} {blocked : Bool} {p : Path} (h : pathOf s u blocked true = some p) : p ≠ .drain := by
  unfold pathOf at h
  rintro rfl
  simp only [Bool.not_true, Bool.false_and, Bool.false_eq_true, if_false] at h
  repeat' split at h
  all_goals cases h

/-- A drain of the set has run out (R347). -/
def drainLate (s : State) (u : TeamSet) : Bool := u.teams.any (fun t => !t.retired && t.drainTill.any (fun x => decide (x ≤ s.ns)))

/-- The set, its drain ended and excluded. -/
def endDrain (s : State) (u : TeamSet) : State := TeamSet.mod s u (fun t => { t with drainTill := none, noDrain := true })

/-- The set, its drain excluded, starts on the path that is chosen now, or stays. -/
def choiceAgain (s : State) (u v : TeamSet) : State :=
  (pathOf (endDrain s u) v false true).elim (endDrain s u) (startPath (endDrain s u) v)

section
variable {s : State} {ref : LRef} {team : Nat} {u : TeamSet} (hu : Machine.setOf s ref team = some u)
include hu

theorem exec_drainTimeout_eq : exec (.drainTimeout ref team) s =
    if drainLate s u = false ∨ (u.groups s).any (fun g => g.threads.any (fun th => th.halted)) = true then .fault .notEnabled
    else (Machine.setOf (endDrain s u) ref team).elim (.fault .notEnabled) (fun v => .next (choiceAgain s u v)) := by
  rw [exec_drainTimeout, execDrainTimeout, hu]
  refine ite_congr (congrArg (fun late : Bool => late = false ∨ _) (congrArg u.teams.any (funext fun t => ?late))) (fun _ => rfl) (fun _ => ?again)
  case late => cases t.drainTill <;> rfl
  case again =>
    unfold choiceAgain endDrain
    dsimp only
    split
    · rename_i v hv
      rw [hv, Option.elim_some]
      split <;> rename_i hp <;> rw [hp] <;> rfl
    · rename_i hv
      rw [hv]
      rfl

theorem exec_drainTimeout_idle (h : u.teams.all (fun t => t.drainTill.isNone) = true) : exec (.drainTimeout ref team) s = .fault .notEnabled := by
  rw [exec_drainTimeout_eq hu]
  refine if_pos (.inl (List.any_eq_false.mpr fun t ht => ?_))
  have none := Option.isNone_iff_eq_none.mp (List.all_eq_true.mp h t ht)
  simp [none]

theorem exec_drainTimeout_late (hl : drainLate s u = true) (hh : (u.groups s).all (fun g => g.threads.all (fun th => !th.halted)) = true) {v : TeamSet}
    (hv : Machine.setOf (endDrain s u) ref team = some v) : exec (.drainTimeout ref team) s = .next (choiceAgain s u v) := by
  rw [exec_drainTimeout_eq hu, hv]
  refine if_neg ?_
  rintro (h | h)
  · rw [hl] at h
    cases h
  · simp only [List.any_eq_true, List.all_eq_true, Bool.not_eq_true'] at h hh
    obtain ⟨g, hg, th, hth, e⟩ := h
    rw [hh g hg th hth] at e
    cases e

end

/-! Save and return (R348, R350). -/

/-- The state once a team's operations, baton and scratch are off its cores. -/
def offCores (l : Launch) (s : State) (t : Team) : State :=
  let gs := wholeTeam s l t.idx
  let s1 := { s with engines := s.engines.map (fun e => { e with queue := e.queue.filter (fun o => !gs.any (fun g : Group => g.gid == o.gid)) }),
                     savedEng := s.savedEng ++ teamEngines s l t gs }
  (t.slices l.hdr).foldl (fun s x => clearScratch s x.1 x.2.1 x.2.2) (gs.foldl (fun s g => dropBaton s g.core g.gid) s1)

theorem offCores_sameWork (l : Launch) (s : State) (t : Team) : SameWork s (offCores l s t) := by
  refine .trans (.trans ?_ (SameWork.foldl (fun s g => dropBaton_sameWork s _ _) _ _)) (SameWork.foldl (fun s x => clearScratch_sameWork s _ _ _) _ _)
  exact ⟨rfl, rfl, rfl, rfl⟩

theorem offCores_keepsHbm (l : Launch) (s : State) (t : Team) : KeepsHbm s (offCores l s t) := by
  refine .trans (.trans ?_ (KeepsHbm.foldl (fun s g => dropBaton_keepsHbm s _ _) _ _)) (KeepsHbm.foldl (fun s x => clearScratch_keepsHbm s _ _ _) _ _)
  exact .of_mem_eq rfl

/-- A group whose team has been saved. -/
def awayGroup (g : Group) : Group :=
  { g with resident := false, saving := false, threads := g.threads.map (fun th => { th with fetched := none }) }

/-- The bytes of a team's slices, and the states of their lines. -/
def scratchImage (l : Launch) (s : State) (t : Team) : List (List Byte) :=
  (t.slices l.hdr).map (fun x => memRead s.mem x.2.2 (scratchKey x.1 x.2.1))

def lineStates (l : Launch) (s : State) (t : Team) : List (List Nat) :=
  (t.slices l.hdr).map (fun x => (List.range (cdiv x.2.2 128)).map (fun k => lineState s (scratchKey x.1 x.2.1 + 128 * k)))

/-- What a save makes of the team itself. -/
def savedTeam (l : Launch) (s : State) (t x : Team) : Team :=
  { x with resident := false, drainTill := none, noDrain := false, image := scratchImage l s t, lineImage := lineStates l s t }

theorem saveTeam_eq (l : Launch) (s : State) (t : Team) : saveTeam l s t =
    State.modTeam { offCores l s t with
      groups := (offCores l s t).groups.map (fun g => if (wholeTeam s l t.idx).any (fun x => x.gid == g.gid) then awayGroup g else g) }
      l.ref t.idx (savedTeam l s t) := rfl

theorem saveTeam_keepsHbm (l : Launch) (s : State) (t : Team) : KeepsHbm s (saveTeam l s t) := offCores_keepsHbm l s t

/-- Every group of a saved team has left its core. -/
theorem saveTeam_groups {l : Launch} {s : State} {t : Team} {g : Group} (hg : g ∈ (saveTeam l s t).groups) (hl : g.launch = l.ref) (ht : g.team = t.idx) :
    g.resident = false := by
  rw [saveTeam_eq] at hg
  obtain ⟨g1, hg1, rfl⟩ := List.mem_map.mp hg
  by_cases away : (wholeTeam s l t.idx).any (fun x => x.gid == g1.gid) = true
  · rw [if_pos away]
    rfl
  · rw [if_neg away] at hl ht
    obtain ⟨g0, hg0, e⟩ := (offCores_sameWork l s t).exists_group hg1
    obtain ⟨hgid, hlaunch, hteam⟩ : g0.gid = g1.gid ∧ g0.launch = g1.launch ∧ g0.team = g1.team := by simpa [groupName] using e
    have mine : g0 ∈ wholeTeam s l t.idx := List.mem_filter.mpr ⟨hg0, by simp [hlaunch, hteam, hl, ht]⟩
    have listed : (wholeTeam s l t.idx).any (fun x => x.gid == g1.gid) = true := List.any_eq_true.mpr ⟨g0, mine, beq_iff_eq.mpr hgid⟩
    exact absurd listed away

theorem saveTeam_launch? (l : Launch) (s : State) (t : Team) :
    (saveTeam l s t).launch? l.ref = (s.launch? l.ref).map (withTeam t.idx (savedTeam l s t)) := by
  rw [saveTeam_eq]
  refine (launch?_modLaunch _ _ (f := withTeam t.idx (savedTeam l s t)) fun _ => rfl).trans ?_
  rw [State.launch?, (offCores_sameWork l s t).launches]
  rfl

/-- The groups of a set stop being saved: the pool has no room (R350). -/
def stopSave (s : State) (u : TeamSet) : State :=
  { s with groups := s.groups.map (fun g => if ((u.groups s).map (fun x => x.gid)).contains g.gid then { g with saving := false } else g) }

/-- The state once the resident teams of a set are saved. -/
def saveSet (s : State) (ref : LRef) (u : TeamSet) : State :=
  (((u.teams.filter (fun t => t.resident)).foldl (saveTeam u.launch) s).modLaunch ref (fun l => { l with since := s.ns })).modDie ref.die
    (fun d => { d with preSaves := satAdd d.preSaves u.live.length })

section
variable {s : State} {ref : LRef} {team : Nat} {u : TeamSet} (hu : Machine.setOf s ref team = some u)
include hu

theorem exec_teamSave_eq (hg : u.groups s ≠ []) (hs : savable s u = true) : exec (.teamSave ref team) s =
    if s.ctl.config.savePool * 2 ^ 30 < poolUsed s ref.die then .next (stopSave s u) else .next (saveSet s ref u) := by
  rw [exec_teamSave, execTeamSave, hu]
  refine (if_neg ?_).trans rfl
  simp [hg, hs]

theorem exec_teamRestore_resident (h : u.teams.any (fun t => t.resident) = true) (cluster : Nat) (cores : List Nat) :
    exec (.teamRestore ref team cluster cores) s = .fault .notEnabled := by
  rw [exec_teamRestore, execTeamRestore, hu]
  exact if_pos (.inr (.inl h))

theorem exec_teamRestore_back {s1 : State} {cluster : Nat} (hlive : u.live ≠ []) (haway : u.teams.all (fun t => !t.resident) = true)
    (hm : mayReturn s u.launch u.first = true) (h24 : cluster < 24) (hdie : cluster / 6 = ref.die) (ht : tilesStay s u.launch u.teams cluster = true)
    (hp : placeBack s u.launch u.teams cluster (backCores u.teams cluster) = some s1) :
    exec (.teamRestore ref team cluster (backCores u.teams cluster)) s =
      .next ((u.teams.foldl (restoreTeam ref) s1).modLaunch ref (fun l => { l with since := s.ns })) := by
  have away : u.teams.any (fun t => t.resident) = false := by simpa using haway
  rw [exec_teamRestore, execTeamRestore, hu]
  refine (if_neg ?_).trans ?_
  · simp [hlive, away, hm, h24, hdie, ht]
  · rw [hp]

end

/-! The statement. -/

/-- Settles O47: each step by its rule above; the paths of pre-emption as they are chosen, and what a save leaves of the one resident team. -/
theorem schedulerSteps : Obligations.SchedulerSteps := by
  unfold Obligations.SchedulerSteps
  refine ⟨?pool, ?placement, ?completion, ?preemption, ?paths⟩
  case pool =>
    intro s die p hp s1 r code
    obtain ⟨errs, unpooled_eq⟩ := countHeader_eq { s with pool := s.pool.filter (fun x => x.ref != p.ref) } p.asid p.header
    by_cases hc : code = 0
    · obtain ⟨hd, he⟩ := exec_pendingPoolCheck_accept hp hc
      rw [unpooled, unpooled_eq] at he
      exact ⟨_, he, rfl, rfl, rfl, fun h => absurd hc h, fun _ => ⟨rfl, _, rfl, rfl, rfl, rfl, rfl, rfl, rfl, rfl, rfl, rfl, rfl⟩⟩
    · have he := exec_pendingPoolCheck_refuse hp hc
      rw [statusWord_refused, unpooled, unpooled_eq] at he
      exact ⟨_, he, rfl, rfl, rfl, fun _ => ⟨rfl, rfl⟩, fun h => absurd h hc⟩
  case placement =>
    intro s s1 ref l cluster cores hl hw hf ht hc hp
    obtain rfl := launch?_ref hl
    refine ⟨_, exec_teamPlacement_placed hl hw hf ht hc hp, fun hwf => (placeFresh_keepsHbm hl hp hwf).2, fun i hi hr k hk => ?_⟩
    obtain ⟨s0, core, quad, slot, hcore, hg⟩ := placeFresh_starts hl hp hi hr hk
    exact ⟨_, hg, rfl, rfl, rfl, rfl, hcore, rfl, rfl, rfl⟩
  case completion =>
    intro s ref l hl
    obtain rfl := launch?_ref hl
    refine ⟨exec_teamPlacement_refused hl, ?_, exec_launchComplete_refused hl⟩
    intro hs hr hb hg leak code status
    have hstatus : endStatus s l = status := endStatus_eq s l
    obtain ⟨noLaunch, noGroup, noTile, noRec⟩ := afterEnd_gone s l
    refine ⟨_, exec_launchComplete_ends hl hs hr hb hg, noLaunch, noGroup, noTile, noRec, fun p hp => ?_, fun hp => ?_⟩
    · rw [afterEnd, hp, ← hstatus]
      exact ⟨rfl, rfl⟩
    · rw [afterEnd, hp, ← hstatus]
      rfl
  case preemption =>
    intro s ref team u hu
    refine ⟨fun w p hw hp hc => exec_timeSliceExpiry_taken hu hw hp hc, ?swap, exec_timeSliceExpiry_idle hu, exec_drainTimeout_idle hu, ?drain, ?stays,
      ?saved, ?restored, exec_teamRestore_resident hu⟩
    case swap =>
      intro isL isK ok own
      refine ⟨fun h => exec_blockedTeamSwap_taken hu (.inl h), fun w hw hc => exec_blockedTeamSwap_taken hu (.inr ⟨w, hw, hc⟩), fun ho hn => ?_⟩
      refine exec_blockedTeamSwap_refused hu ho ?_
      rintro ⟨w, hw, hc⟩
      exact absurd ((hn w hw).symm.trans hc) (by decide)
    case drain =>
      intro v p hlate hh s1 hv
      have e := exec_drainTimeout_late hu hlate hh hv
      refine ⟨fun hp => ⟨pathOf_ne_drain hp, e.trans ?_⟩, fun hp => e.trans ?_⟩
      · rw [choiceAgain, show pathOf (endDrain s u) v false true = some p from hp]
        rfl
      · rw [choiceAgain, show pathOf (endDrain s u) v false true = none from hp]
        rfl
    case stays =>
      intro hg hs hfull
      exact ⟨_, (exec_teamSave_eq hu hg hs).trans (if_pos hfull), rfl, rfl,
        fun g => of_mem_map_listed (f := fun g => { g with saving := false }) (P := fun g => g.saving = false) fun _ => rfl⟩
    case saved =>
      rintro g t rfl hg hs hroom ht
      have hl := setOf_eq_some hu
      obtain rfl := launch?_ref hl
      have mem : t ∈ u.teams := (List.mem_filter.mp (ht ▸ List.mem_singleton_self t)).1
      have hsave := (exec_teamSave_eq hu hg hs).trans (if_neg (Nat.not_lt.mpr hroom))
      rw [saveSet, ht] at hsave
      refine ⟨_, { withTeam t.idx (savedTeam u.launch s t) u.launch with since := s.ns }, savedTeam u.launch s t t, hsave, ?launch, ?team, rfl, rfl,
        ?groups, fun hw => (saveTeam_keepsHbm u.launch s t hw).2⟩
      case launch =>
        refine (launch?_modLaunch (saveTeam u.launch s t) u.launch.ref (f := fun l => { l with since := s.ns }) fun _ => rfl).trans ?_
        rw [saveTeam_launch?, hl]
        rfl
      case team =>
        refine (withTeam_team? u.launch t.idx (f := savedTeam u.launch s t) fun _ => rfl).trans ?_
        rw [team?_of_mem_teams mem]
        rfl
      case groups =>
        intro x hx
        obtain ⟨hx, named⟩ := List.mem_filter.mp hx
        simp only [Bool.and_eq_true, beq_iff_eq] at named
        obtain ⟨⟨hlaunch, hteam⟩, -⟩ := named
        exact saveTeam_groups hx hlaunch hteam
    case restored =>
      exact fun s1 cluster hlive haway hm h24 hdie hstay hp => exec_teamRestore_back hu hlive haway hm h24 hdie hstay hp
  case paths =>
    intro s u
    obtain ⟨hmem, hgroups⟩ := setMod_eq s u fun t => { t with drainTill := some (s.ns + 2 * drainNs s u.launch.ref.die) }
    exact ⟨discardSet_mem s u, hmem, hgroups,
      fun g => of_mem_map_listed (f := fun g => { g with saving := true }) (P := fun g => g.saving = true) fun _ => rfl⟩

end Sys2Proof.Scheduler
end

section
/-! JOIN, NAP, BAR, ARRIVE and BWAIT (O20): what the thread waits for and what raises ILLEGAL_OPERAND (R154–R157). -/
namespace Sys2Proof.Groups
open Sys2Proof.Machine Sys2Proof.Safety Sys2Proof.Claims Sys2Proof.Laws Sys2Proof.Integer

section
variable {b : BitVec 7} (c : Ctx)

theorem barLevel_ok (hb : b < 6) : barLevel c b = .ok b.toNat := by
  have hlevel : decide (b.toNat < 6) = true := decide_eq_true hb
  rw [barLevel, require_ok hlevel, res_ok_bind]

theorem barLevel_trap (hb : 6 ≤ b) : barLevel c b = .error c.illegal := by
  have hlevel : decide (b.toNat < 6) = false := decide_eq_false (Nat.not_lt_of_ge hb)
  rw [barLevel, require_error hlevel, res_error_bind]

end

/-- What BWAIT asks of its token, where the thread has arrived `r` times at the level: not to be one of the thread's own future (R157). -/
def tokenOk (token r : Nat) : Bool :=
  let ahead := (token + 1 + 2 ^ 32 - r % 2 ^ 32) % 2 ^ 32
  !(decide (1 ≤ ahead) && decide (ahead ≤ 2 ^ 31 - 1))

/-- The check on naturals is that of the rule on integers: the phase of the latest arrival is `r - 1`. -/
theorem tokenOk_iff {token r : Nat} {ahead : Int} (he : ((token : Int) - ((r : Int) - 1)) % 2 ^ 32 = ahead) :
    tokenOk token r = true ↔ ¬ (1 ≤ ahead ∧ ahead < 2 ^ 31) := by
  have same : (((token + 1 + 2 ^ 32 - r % 2 ^ 32) % 2 ^ 32 : Nat) : Int) = ahead := by omega
  rw [tokenOk, Bool.not_eq_true', ← Bool.not_eq_true, decide_and_decide_iff, ← same]
  omega

theorem execBwait_eq (h : Bool) (a b : BitVec 7) (s : State) : execBwait h a b s = issueWith h s (fun c s => do
    let x ← src32 c a
    let level ← barLevel c b
    require (tokenOk x.toNat (c.th.arrivals.getD level 0)) c.illegal
    .ok (.wait s (.phase level x.toNat))) := rfl

section
variable {s : State} {c : Ctx} (hx : Executes s c) (h : Bool)
include hx

theorem exec_join_waits {a : BitVec 7} {x : Word} (ha : Reads c a x) : exec (.join h a) s = .next (waiting s.nextId s c h (.join x)) := by
  rw [Reads] at ha
  rw [exec_join, execJoin]
  exact issueWith_ok hx h (i := .wait s (.join x)) (by simp only [ha, res_ok_bind])

theorem exec_nap_eq {a : BitVec 7} {x : Word} (ha : Reads c a x) :
    exec (.nap h a) s = .next (if x.toNat % 2 ^ 16 = 0 then past s c.t h else waiting s.nextId s c h .nap) := by
  rw [Reads] at ha
  have hcount : bits x 15 0 = x.toNat % 2 ^ 16 := bits_zero x 15
  rw [exec_nap, execNap, issueWith_eval hx]
  by_cases hz : x.toNat % 2 ^ 16 = 0
  · simp only [ha, hcount, if_pos hz, res_ok_bind, issued_done]
  · simp only [ha, hcount, if_neg hz, res_ok_bind, issued_wait]

theorem exec_bar_waits {b : BitVec 7} (hb : b < 6) :
    exec (.bar h b) s = .next (waiting s.nextId (s.modThread c.t (barMark c b.toNat)) c h (.arrive b.toNat true .none)) := by
  rw [exec_bar, execBar]
  exact issueWith_ok hx h (i := .wait (s.modThread c.t (barMark c b.toNat)) (.arrive b.toNat true .none)) (by simp only [barLevel_ok c hb, res_ok_bind])

theorem exec_bar_illegal {b : BitVec 7} (hb : 6 ≤ b) : exec (.bar h b) s = .next (trapNow s c.t c.illegal c.th.blk) := by
  rw [exec_bar, execBar]
  exact issueWith_trap hx h (by simp only [barLevel_trap c hb, res_error_bind])

section
variable {d b : BitVec 7} {dst : Dst} (hd : dest c 1 d = .ok dst)
include hd

theorem exec_arrive_waits (hu : dst.isUni = false) (hb : b < 6) :
    exec (.arrive h d b) s = .next (waiting s.nextId (s.modThread c.t (barMark c b.toNat)) c h (.arrive b.toNat false dst)) := by
  rw [exec_arrive, execArrive]
  refine issueWith_ok hx h (i := .wait (s.modThread c.t (barMark c b.toNat)) (.arrive b.toNat false dst)) ?_
  simp only [hd, hu, Bool.not_false, require_true, barLevel_ok c hb, res_ok_bind]

/-- ARRIVE checks its destination before its level; both checks raise the same trap. -/
theorem exec_arrive_illegal (hr : dst.isUni = true ∨ 6 ≤ b) : exec (.arrive h d b) s = .next (trapNow s c.t c.illegal c.th.blk) := by
  rw [exec_arrive, execArrive]
  refine issueWith_trap hx h ?_
  cases hu : dst.isUni with
  | true => simp only [hd, hu, Bool.not_true, require_error, res_ok_bind, res_error_bind]
  | false =>
    have hb : 6 ≤ b := hr.resolve_left (ne_true_of_eq_false hu)
    simp only [hd, hu, Bool.not_false, require_true, barLevel_trap c hb, res_ok_bind, res_error_bind]

end

section
variable {a b : BitVec 7} {x : Word} (ha : Reads c a x)
include ha

/-- BWAIT waits unless its token is one of the thread's own future (R157). -/
theorem exec_bwait_eq {ahead : Int} (he : ((x.toNat : Int) - ((c.th.arrivals.getD b.toNat 0 : Int) - 1)) % 2 ^ 32 = ahead) (hb : b < 6) :
    exec (.bwait h a b) s =
      .next (if 1 ≤ ahead ∧ ahead < 2 ^ 31 then trapNow s c.t c.illegal c.th.blk else waiting s.nextId s c h (.phase b.toNat x.toNat)) := by
  rw [Reads] at ha
  rw [exec_bwait, execBwait_eq]
  split
  next future =>
    have refused : tokenOk x.toNat (c.th.arrivals.getD b.toNat 0) = false := eq_false_of_ne_true fun hok => (tokenOk_iff he).mp hok future
    exact issueWith_trap hx h (by rw [ha, res_ok_bind, barLevel_ok c hb, res_ok_bind, require_error refused, res_error_bind])
  next notFuture =>
    have taken := (tokenOk_iff he).mpr notFuture
    exact issueWith_ok hx h (i := .wait s (.phase b.toNat x.toNat)) (by rw [ha, res_ok_bind, barLevel_ok c hb, res_ok_bind, require_ok taken, res_ok_bind])

theorem exec_bwait_illegal (hb : 6 ≤ b) : exec (.bwait h a b) s = .next (trapNow s c.t c.illegal c.th.blk) := by
  rw [Reads] at ha
  rw [exec_bwait, execBwait]
  exact issueWith_trap hx h (by simp only [ha, barLevel_trap c hb, res_ok_bind, res_error_bind])

end
end

/-- Settles O20: each word by what it checks and what it waits for; BWAIT by how far its token lies ahead. -/
theorem barrierWordsWait : Obligations.BarrierWordsWait := by
  intro s c h d a b x dst hx ha hd illegal marked latest ahead
  refine ⟨exec_join_waits hx h ha, fun hz => ?nap0, fun hz => ?nap, exec_bar_waits hx h, fun hb hu => exec_arrive_waits hx h hd hu hb,
    fun hb hp => ?bwait, fun hb h1 h2 => ?future, fun hu => exec_arrive_illegal hx h hd (.inl hu),
    fun hb => ⟨exec_bar_illegal hx h hb, exec_arrive_illegal hx h hd (.inr hb), exec_bwait_illegal hx h ha hb⟩⟩
  case nap0 => rw [exec_nap_eq hx h ha, if_pos hz]
  case nap => rw [exec_nap_eq hx h ha, if_neg hz]
  case bwait =>
    have notFuture : ¬ (1 ≤ ahead ∧ ahead < 2 ^ 31) := by omega
    exact (exec_bwait_eq hx h ha rfl hb).trans (congrArg _ (if_neg notFuture))
  case future => exact (exec_bwait_eq hx h ha rfl hb).trans (congrArg _ (if_pos ⟨h1, h2⟩))

end Sys2Proof.Groups
end

section
/-! The gathered minors (O23): their values over the members that execute the word (R148, R150); and the arrivals at a rendezvous (O24) (R149, R150). -/
namespace Sys2Proof.Groups
open Sys2Proof.Machine Sys2Proof.Safety Sys2Proof.Claims Sys2Proof.Laws

/-- An operand that a minor may lack; one that it lacks reads 0. -/
def readIf (c : Ctx) : Option (BitVec 7) → Res Word
  | some a => src32 c a
  | none => .ok 0

theorem readIf_some {c : Ctx} {a : BitVec 7} {x : Word} (ha : Reads c a x) : readIf c (some a) = .ok x := ha

theorem readIf_none {c : Ctx} : readIf c none = .ok 0 := rfl

/-- What a rendezvous minor does where nothing stops it. -/
def arrival (minor : Nat) (u : Bool) (dst : Dst) (x y : Word) (c : Ctx) (s : State) : Iss :=
  .met (addPend (s.modThread c.t (fun th => { th with rendez := th.rendez + 1 })) c.t c.th.pc dst (.rendez minor u (c.th.rendez + 1).toNat x y) 0 none .sent)
    (fun s => tryRendez s c.t.gid)

section
variable (h : Bool) (d : BitVec 7) (a b : Option (BitVec 7)) (s : State)

theorem gathered_eq (f : Word → List (Nat × Word) → Word) : gathered h d a f s = issueWith h s (fun c s => do
    let dst ← dest c 1 d
    let x ← readIf c a
    require (!dst.isUni) c.illegal
    .ok (.done (addResult s c.t c.th.pc dst [f x (participants s c x)]))) := rfl

theorem rendezvous_eq (minor : Nat) (u : Bool) : rendezvous h minor u d a b s = issueWith h s (fun c s => do
    let dst ← dest c 1 d
    let x ← readIf c a
    let y ← readIf c b
    require (!dst.isUni) c.illegal
    .ok (arrival minor u dst x y c s)) := rfl

end

section
variable {s : State} {c : Ctx} {i : Instr} {h : Bool} {d : BitVec 7} {dst : Dst} {a b : Option (BitVec 7)} {x y : Word}
variable (hx : Executes s c)
include hx

section
variable {f : Word → List (Nat × Word) → Word} (he : exec i s = gathered h d a f s) (hd : dest c 1 d = .ok dst) (ha : readIf c a = .ok x)
include he hd ha

theorem gathered_ok (hu : dst.isUni = false) : exec i s = .next (later s c h dst [f x (participants s c x)]) := by
  rw [he, gathered_eq]
  refine issueWith_ok hx h (i := .done (addResult s c.t c.th.pc dst [f x (participants s c x)])) ?_
  simp only [hd, ha, hu, Bool.not_false, require_true, res_ok_bind]

theorem gathered_uniform (hu : dst.isUni = true) : exec i s = .next (trapNow s c.t c.illegal c.th.blk) := by
  rw [he, gathered_eq]
  refine issueWith_trap hx h ?_
  simp only [hd, ha, hu, Bool.not_true, require_error, res_ok_bind, res_error_bind]

end

section
variable {minor : Nat} {u : Bool} (he : exec i s = rendezvous h minor u d a b s) (hd : dest c 1 d = .ok dst)
variable (ha : readIf c a = .ok x) (hb : readIf c b = .ok y)
include he hd ha hb

theorem rendezvous_ok (hu : dst.isUni = false) : exec i s = .next (arrived s c h minor u dst x y) := by
  rw [he, rendezvous_eq]
  refine issueWith_ok hx h (i := arrival minor u dst x y c s) ?_
  simp only [hd, ha, hb, hu, Bool.not_false, require_true, res_ok_bind]

theorem rendezvous_uniform (hu : dst.isUni = true) : exec i s = .next (trapNow s c.t c.illegal c.th.blk) := by
  rw [he, rendezvous_eq]
  refine issueWith_trap hx h ?_
  simp only [hd, ha, hb, hu, Bool.not_true, require_error, res_ok_bind, res_error_bind]

end
end

/-- A mask of lanes has the bits of the lanes that stand in the list. -/
theorem getLsbD_laneMask (l : List (Nat × Word)) {q : Nat} (hq : q < 32) : (laneMask l).getLsbD q = l.any (fun y => y.1 == q) := by
  have acc : ∀ m : Word, (l.foldl (fun m x => m ||| BitVec.ofNat 32 (2 ^ x.1)) m).getLsbD q = (m.getLsbD q || l.any (fun y => y.1 == q)) := by
    induction l with
    | nil => exact fun m => (Bool.or_false _).symm
    | cons y l ih =>
      intro m
      have own : (BitVec.ofNat 32 (2 ^ y.1)).getLsbD q = (y.1 == q) := by
        rw [BitVec.getLsbD_ofNat, decide_eq_true hq, Bool.true_and, Nat.testBit_two_pow]
        rfl
      rw [List.foldl_cons, ih, BitVec.getLsbD_or, own, List.any_cons, Bool.or_assoc]
  exact (acc 0#32).trans (by rw [BitVec.getLsbD_zero, Bool.false_or])

theorem getLsbD_laneMask_filter (l : List (Nat × Word)) (p : Word → Bool) {q : Nat} (hq : q < 32) :
    (laneMask (l.filter (fun y => p y.2))).getLsbD q = l.any (fun y => y.1 == q && p y.2) := by
  rw [getLsbD_laneMask _ hq, List.any_filter]
  simp only [Bool.and_comm]

/-- Settles O23: each minor by what it computes of the participants; the masks by their bits. -/
theorem gatheredMinorsVote : Obligations.GatheredMinorsVote := by
  intro s c h d a dst x hx hd hu ha others ps gives
  replace ha := readIf_some ha
  have members : participants s c x = ps := rfl
  refine ⟨?vany, ?vall, ⟨_, fun q hq => ?ballot, gathered_ok hx (exec_ballot h d a s) hd ha hu⟩,
    ⟨_, fun q hq => ?gmatch, gathered_ok hx (exec_gmatch h d a s) hd ha hu⟩, ⟨_, fun q hq => ?active, gathered_ok hx (exec_active h d s) hd readIf_none hu⟩⟩
  case vany => rw [gathered_ok hx (exec_vany h d a s) hd ha hu, flagWord, members]
  case vall => rw [gathered_ok hx (exec_vall h d a s) hd ha hu, flagWord, members]
  case ballot => exact getLsbD_laneMask_filter ps (fun v => v != 0) hq
  case gmatch => exact getLsbD_laneMask_filter ps (fun v => v == x) hq
  case active => exact getLsbD_laneMask _ hq

/-- Settles O24: each minor by the operands that it reads. -/
theorem rendezvousArrive : Obligations.RendezvousArrive := by
  intro s c h d a b u dst x y hx hd ha hb
  replace ha := readIf_some ha
  replace hb := readIf_some hb
  refine ⟨fun hu => ?vector, fun hu => ?uniform⟩
  case vector =>
    exact ⟨rendezvous_ok hx (exec_shfidx h d a b s) hd ha hb hu, rendezvous_ok hx (exec_shfup h d a b s) hd ha hb hu,
      rendezvous_ok hx (exec_shfdn h d a b s) hd ha hb hu, rendezvous_ok hx (exec_shfxor h d a b s) hd ha hb hu,
      rendezvous_ok hx (exec_gradd h d a s) hd ha readIf_none hu, rendezvous_ok hx (exec_grfadd h d a s) hd ha readIf_none hu,
      rendezvous_ok hx (exec_grmin h d a u s) hd ha readIf_none hu, rendezvous_ok hx (exec_grmax h d a u s) hd ha readIf_none hu,
      rendezvous_ok hx (exec_elect h d s) hd readIf_none readIf_none hu⟩
  case uniform =>
    simp only [List.forall_mem_cons, List.not_mem_nil, false_implies, implies_true, and_true]
    exact ⟨rendezvous_uniform hx (exec_shfidx h d a b s) hd ha hb hu, rendezvous_uniform hx (exec_shfup h d a b s) hd ha hb hu,
      rendezvous_uniform hx (exec_shfdn h d a b s) hd ha hb hu, rendezvous_uniform hx (exec_shfxor h d a b s) hd ha hb hu,
      rendezvous_uniform hx (exec_gradd h d a s) hd ha readIf_none hu, rendezvous_uniform hx (exec_grfadd h d a s) hd ha readIf_none hu,
      rendezvous_uniform hx (exec_grmin h d a u s) hd ha readIf_none hu, rendezvous_uniform hx (exec_grmax h d a u s) hd ha readIf_none hu,
      rendezvous_uniform hx (exec_elect h d s) hd readIf_none readIf_none hu, gathered_uniform hx (exec_vany h d a s) hd ha hu,
      gathered_uniform hx (exec_vall h d a s) hd ha hu, gathered_uniform hx (exec_ballot h d a s) hd ha hu,
      gathered_uniform hx (exec_gmatch h d a s) hd ha hu, gathered_uniform hx (exec_active h d s) hd readIf_none hu⟩

end Sys2Proof.Groups
end

section
/-! What a participant of a rendezvous receives (O25): the source lanes of the shuffles (R151), the sums, the tree of GRFADD (R152), the least and the
greatest value (R150). -/
namespace Sys2Proof.Groups
open Sys2Proof.Machine Sys2Proof.Claims Sys2Proof.Integer

/-- GRADD: the sum modulo 2^32 (R150). -/
theorem foldl_add_eq_ofNat_sum (l : List Word) : l.foldl (· + ·) 0 = BitVec.ofNat 32 (l.map BitVec.toNat).sum := by
  rw [← List.sum_eq_foldl]
  induction l with
  | nil => rfl
  | cons y l ih => rw [List.sum_cons, ih, List.map_cons, List.sum_cons, BitVec.ofNat_add, BitVec.ofNat_toNat, BitVec.setWidth_eq]

/-! The tree of GRFADD (R152). -/

/-- A list holds, at the positions where the nodes of level `k` stand, those nodes. -/
def HoldsLevel (ps : List Part) (k : Nat) (xs : List (Option Word)) : Prop :=
  ∀ i, i < 32 → i % 2 ^ k = 0 → xs[i]? = some (treeNode ps k i)

theorem holdsLevel_zero (ps : List Part) : HoldsLevel ps 0 ((List.range 32).map (valueOf ps)) := by
  intro i hi _
  rw [List.getElem?_map, List.getElem?_range hi]
  rfl

/-- Below a node of level `k + 1` stand two of level `k`, both within the 32 positions. -/
theorem nodes_below_node {k i : Nat} (hk : k < 5) (hi : i < 32) (hm : i % 2 ^ (k + 1) = 0) :
    i % 2 ^ k = 0 ∧ (i + 2 ^ k) % 2 ^ k = 0 ∧ i + 2 ^ k < 32 := by
  match k, hk with
  | 0, _ | 1, _ | 2, _ | 3, _ | 4, _ => omega

/-- One pass over the list computes the next level of the tree. -/
theorem HoldsLevel.step {ps : List Part} {k : Nat} {xs : List (Option Word)} (h : HoldsLevel ps k xs) (hk : k < 5) :
    HoldsLevel ps (k + 1) (treeStep (2 ^ k) xs) := by
  intro i hi hm
  obtain ⟨hown, hbeside, hlt⟩ := nodes_below_node hk hi hm
  have node : i % (2 * 2 ^ k) = 0 := by rw [← Nat.pow_succ', hm]
  have own := h i hi hown
  have beside : xs.getD (i + 2 ^ k) none = treeNode ps k (i + 2 ^ k) := by
    rw [List.getD_eq_getElem?_getD, h _ hlt hbeside, Option.getD_some]
  rw [treeStep, List.getElem?_map, List.getElem?_zipIdx, own, Option.map_some, Option.map_some, Nat.zero_add, if_pos node, beside, treeNode]
  cases treeNode ps k i <;> cases treeNode ps k (i + 2 ^ k) <;> rfl

/-- A node is absent exactly where both nodes below it are. -/
theorem treeNode_succ_isSome (ps : List Part) (k i : Nat) :
    (treeNode ps (k + 1) i).isSome = ((treeNode ps k i).isSome || (treeNode ps k (i + 2 ^ k)).isSome) := by
  rw [treeNode]
  cases treeNode ps k i <;> cases treeNode ps k (i + 2 ^ k) <;> rfl

/-- A node stands above each participant whose lane lies in its range. -/
theorem treeNode_isSome {ps : List Part} {x : Part} (hx : x ∈ ps) {k i : Nat} (hi : i ≤ x.lane) (hlt : x.lane < i + 2 ^ k) :
    (treeNode ps k i).isSome = true := by
  induction k generalizing i with
  | zero =>
    have hlane : (x.lane == i) = true := beq_iff_eq.mpr (by omega)
    rw [treeNode, Option.isSome_map, List.find?_isSome]
    exact ⟨x, hx, hlane⟩
  | succ k ih =>
    rw [treeNode_succ_isSome, Bool.or_eq_true]
    rcases Nat.lt_or_ge x.lane (i + 2 ^ k) with below | above
    · exact .inl (ih hi below)
    · exact .inr (ih above (by rw [Nat.pow_succ] at hlt; omega))

theorem holdsLevel_five (ps : List Part) :
    HoldsLevel ps 5 (([1, 2, 4, 8, 16] : List Nat).foldl (fun xs w => treeStep w xs) ((List.range 32).map (valueOf ps))) :=
  (((((holdsLevel_zero ps).step (by decide)).step (by decide)).step (by decide)).step (by decide)).step (by decide)

/-- The sum is the root of the tree, where somebody takes part. -/
theorem treeNode_root {ps : List Part} {x : Part} (hx : x ∈ ps) (hl : x.lane < 32) : treeNode ps 5 0 = some (treeSum ps) := by
  have root := holdsLevel_five ps 0 (by decide) rfl
  obtain ⟨v, hv⟩ := Option.isSome_iff_exists.mp (treeNode_isSome (k := 5) hx (Nat.zero_le _) ((Nat.zero_add _).symm ▸ hl))
  rw [treeSum, List.headD_eq_head?_getD, List.head?_eq_getElem?, root, hv, Option.getD_some, Option.getD_some]

/-! The least and the greatest value (R150). -/

/-- What the order of GRMIN (`max` false) and GRMAX compares, unsigned where `u` is set. -/
def extremeKey (max u : Bool) (x : Word) : Int :=
  let v : Int := if u then x.toNat else x.toInt
  if max then -v else v

theorem extreme_cons (max u : Bool) (x : Word) (l : List Word) :
    extreme max u (x :: l) = l.foldl (fun m y => if extremeKey max u y < extremeKey max u m then y else m) x := by
  rw [extreme]
  cases max <;> cases u <;> simp only [extremeKey, Bool.false_eq_true, if_true, if_false, decide_eq_true_eq, Int.ofNat_lt, Int.neg_lt_neg_iff]

theorem extreme_eq_minOn (max u : Bool) {l : List Word} (hl : l ≠ []) : extreme max u l = l.minOn (extremeKey max u) hl := by
  obtain ⟨x, l, rfl⟩ := List.exists_cons_of_ne_nil hl
  have pick : (fun m y : Word => if extremeKey max u y < extremeKey max u m then y else m) = minOn (extremeKey max u) := by
    funext m y
    simp only [minOn, ← Int.not_lt, ite_not]
  rw [extreme_cons, pick]
  rfl

/-- `y` does not lie beyond `e`: not below it, or for `max` not above it. -/
def NotBeyond : (max u : Bool) → (e y : Word) → Prop
  | false, false, e, y => e.sle y = true
  | false, true, e, y => e ≤ y
  | true, false, e, y => y.sle e = true
  | true, true, e, y => y ≤ e

theorem notBeyond_iff (max u : Bool) (e y : Word) : NotBeyond max u e y ↔ extremeKey max u e ≤ extremeKey max u y := by
  cases max <;> cases u <;> simp only [NotBeyond, extremeKey, Bool.false_eq_true, if_true, if_false, BitVec.sle_iff_toInt_le, BitVec.le_def,
    Int.ofNat_le, Int.neg_le_neg_iff]

theorem extreme_spec (max u : Bool) {ps : List Part} (hps : ps ≠ []) :
    extreme max u (ps.map (fun y => y.a)) ∈ ps.map (fun y => y.a) ∧ ∀ y ∈ ps, NotBeyond max u (extreme max u (ps.map (fun y => y.a))) y.a := by
  have hl : ps.map (fun y => y.a) ≠ [] := mt List.map_eq_nil_iff.mp hps
  rw [extreme_eq_minOn max u hl]
  exact ⟨List.minOn_mem, fun y hy => (notBeyond_iff ..).mpr (List.apply_minOn_le_of_mem (List.mem_map_of_mem hy))⟩

/-! The result of each minor. -/

section
variable (ps : List Part) {x : Part}

/-- A shuffle gives the value of its source lane, and the participant's own where there is none (R151). -/
theorem rendezResult_shuffle {m : Nat} (hm : x.minor = m) (h : m ∈ [3, 4, 5, 6]) :
    rendezResult ps x = ((shuffleSrc m x.lane x.b).bind (valueOf ps)).getD x.a := by
  have ofSource : ∀ o : Option Nat, (match o with | some l => (valueOf ps l).getD x.a | none => x.a) = (o.bind (valueOf ps)).getD x.a :=
    fun o => by cases o <;> rfl
  simp only [List.mem_cons, List.not_mem_nil, or_false] at h
  rw [← ofSource, rendezResult, hm]
  rcases h with rfl | rfl | rfl | rfl <;> rfl

theorem rendezResult_gradd (h : x.minor = 7) : rendezResult ps x = BitVec.ofNat 32 (ps.map (fun y => y.a.toNat)).sum := by
  rw [rendezResult, h]
  exact (foldl_add_eq_ofNat_sum _).trans (by rw [List.map_map]; rfl)

theorem rendezResult_grfadd (h : x.minor = 8) : rendezResult ps x = treeSum ps := by
  rw [rendezResult, h]
  rfl

theorem rendezResult_grmin (h : x.minor = 9) : rendezResult ps x = extreme false x.u (ps.map (fun y => y.a)) := by
  rw [rendezResult, h]
  rfl

theorem rendezResult_grmax (h : x.minor = 10) : rendezResult ps x = extreme true x.u (ps.map (fun y => y.a)) := by
  rw [rendezResult, h]
  rfl

theorem rendezResult_elect (h : x.minor = 12) : rendezResult ps x = if ∀ y ∈ ps, x.p.id ≤ y.p.id then 1 else 0 := by
  rw [rendezResult, h]
  simp only [flagWord, List.all_eq_true, decide_eq_true_eq]

end

/-- Settles O25: the shuffles by their source lane, GRFADD by the levels of its tree, GRMIN and GRMAX by the order that they follow. -/
theorem rendezvousResults : Obligations.RendezvousResults := by
  intro ps x hl hx k from_
  have hk : bits x.b 4 0 = k := bits_zero x.b 4
  have hps : ps ≠ [] := List.ne_nil_of_mem hx
  refine ⟨fun hm => ?shfidx, fun hm => ?shfup, fun hm => ?shfdn, fun hm => ?shfxor, rendezResult_gradd ps, fun hm => ?grfadd, fun hm hu => ?grmin,
    fun hm hu => ?grminu, fun hm hu => ?grmax, fun hm hu => ?grmaxu, rendezResult_elect ps⟩
  case shfidx =>
    rw [rendezResult_shuffle ps hm (by decide), ← hk]
    rfl
  case shfup =>
    rw [rendezResult_shuffle ps hm (by decide), shuffleSrc, hk]
    split <;> rfl
  case shfdn =>
    rw [rendezResult_shuffle ps hm (by decide), shuffleSrc, hk]
    by_cases beyond : 31 < x.lane + k
    · rw [if_pos beyond, if_neg (by omega)]
      rfl
    · rw [if_neg beyond, if_pos (by omega)]
      rfl
  case shfxor =>
    rw [rendezResult_shuffle ps hm (by decide), ← hk]
    rfl
  case grfadd => rw [rendezResult_grfadd ps hm, treeNode_root hx hl]
  case grmin =>
    rw [rendezResult_grmin ps hm, hu]
    exact extreme_spec false false hps
  case grminu =>
    rw [rendezResult_grmin ps hm, hu]
    exact extreme_spec false true hps
  case grmax =>
    rw [rendezResult_grmax ps hm, hu]
    exact extreme_spec true false hps
  case grmaxu =>
    rw [rendezResult_grmax ps hm, hu]
    exact extreme_spec true true hps

end Sys2Proof.Groups
end

section
/-! The invariant of the machine (O60): every instruction keeps it, and so does every step (R160, R355, R371, R427, R430). -/
namespace Sys2Proof.Invariant
open Sys2Proof.Machine Sys2Proof.Safety Sys2Proof.Laws

/-- Whatever state with the invariant an instruction is run in, a next state that it answers has the invariant. -/
def Keeps (i : Instr) : Prop := ∀ s, MachineInv s → OutInv (exec i s)

/-- Each row of the opcode table by its own lemma, in the order of the constructors. -/
theorem exec_inv : RunInv exec := fun i =>
  Instr.casesOn (motive := Keeps) i
    execNop_inv execExit_inv execTrap_inv execBrk_inv execSrd_inv execSwr_inv execWbase_inv execUbase_inv execYield_inv execJoin_inv execBar_inv
    execArrive_inv execBwait_inv execNap_inv execFmtld_inv execTret_inv execAdd_inv execSub_inv execMul_inv execMulh_inv execMulhu_inv execAnd_inv
    execOr_inv execXor_inv execAndn_inv execShl_inv execShr_inv execSar_inv execMin_inv execMax_inv execMinu_inv execMaxu_inv execAdd64_inv
    execSub64_inv execMul64_inv execMad_inv execMadw_inv execClz_inv execPopc_inv execBrev_inv execBfe_inv execBfi_inv execPrmt_inv execRol_inv
    execDiv_inv execDivu_inv execRem_inv execRemu_inv execIcmpEq_inv execIcmpNe_inv execIcmpLt_inv execIcmpLe_inv execIcmpGt_inv execIcmpGe_inv
    execIcmpLtu_inv execIcmpLeu_inv execIcmpGtu_inv execIcmpGeu_inv execIcmpEq64_inv execIcmpNe64_inv execIcmpLt64_inv execIcmpLtu64_inv
    execIcmpBtst_inv execAddi_inv execAndi_inv execOri_inv execXori_inv execShli_inv execShri_inv execSari_inv execRoli_inv execShli64_inv
    execShri64_inv execSari64_inv execMuli_inv execCmpi_inv execMovw_inv execMovh_inv execSel_inv execLea_inv execMov_inv execMov64_inv execPmov_inv
    execPset_inv execSext_inv execZext_inv execFadd_inv execFsub_inv execFmul_inv execFmin_inv execFmax_inv execFminn_inv execFmaxn_inv execFabs_inv
    execFneg_inv execFcpsgn_inv execFfloor_inv execFceil_inv execFtrunc_inv execFrint_inv execFfrac_inv execFscale_inv execFfma_inv execFfms_inv
    execFnfma_inv execFnfms_inv execHadd2_inv execHsub2_inv execHmul2_inv execHfma2_inv execHmin2_inv execHmax2_inv execBadd2_inv execBsub2_inv
    execBmul2_inv execBfma2_inv execBmin2_inv execBmax2_inv execHdot2_inv execBdot2_inv execFcmpOeq_inv execFcmpOne_inv execFcmpOlt_inv
    execFcmpOle_inv execFcmpOgt_inv execFcmpOge_inv execFcmpUno_inv execFcmpOrd_inv execFcmpUeq_inv execFcmpUne_inv execFcmpUlt_inv execFcmpUle_inv
    execFcmpUgt_inv execFcmpUge_inv execFcmpClass_inv execXfnRcp_inv execXfnRsq_inv execXfnSqrt_inv execXfnExp2_inv execXfnLog2_inv execXfnSinpi_inv
    execXfnCospi_inv execXfnTanh_inv execXfnDiv_inv execXfnSigm_inv execXfnExp_inv execXfnLog_inv execF2i_inv execF2u_inv execI2f_inv execU2f_inv
    execF2h_inv execH2f_inv execF2b_inv execB2f_inv execF2n_inv execN2f_inv execF2d_inv execD2f_inv execI2d_inv execD2i_inv execPackn_inv
    execUnpkn_inv execDadd_inv execDsub_inv execDmul_inv execDfma_inv execDmin_inv execDmax_inv execDdiv_inv execDsqrt_inv execDeq_inv execDlt_inv
    execDle_inv execDuno_inv execMlmrg_inv execExpsub_inv execRescale_inv execBr_inv execCall_inv execBrp_inv execJr_inv execCallr_inv execRet_inv
    execBrx_inv execPblk_inv execVany_inv execVall_inv execBallot_inv execShfidx_inv execShfup_inv execShfdn_inv execShfxor_inv execGradd_inv
    execGrfadd_inv execGrmin_inv execGrmax_inv execGmatch_inv execElect_inv execActive_inv execLd_inv execSt_inv execLdx_inv execLdxC_inv execStx_inv
    execLdAcq_inv execStRel_inv execAadd_inv execAxch_inv execAcas_inv execAmin_inv execAmax_inv execAminu_inv execAmaxu_inv execAand_inv execAor_inv
    execAxor_inv execAincw_inv execAfadd_inv execAadd64_inv execAcas64_inv execAxch64_inv execAfmax_inv execAaddAr_inv execAxchAr_inv execAcasAr_inv
    execAminAr_inv execAmaxAr_inv execAminuAr_inv execAmaxuAr_inv execAandAr_inv execAorAr_inv execAxorAr_inv execAincwAr_inv execAfaddAr_inv
    execAadd64Ar_inv execAcas64Ar_inv execAxch64Ar_inv execAfmaxAr_inv execFenceAcq_inv execFenceRel_inv execFenceAr_inv execFenceSc_inv
    execFenceDrain_inv execPref_inv execPrefl1_inv execInvl1_inv execRdcinv_inv execLempty_inv execLfull_inv execTalloc_inv execTrel_inv
    execTdrop_inv execTaddr_inv execTstat_inv execTcset_inv execTcadd_inv execTcwait_inv execTcread_inv execCpy_inv execCpyr_inv execCpym_inv
    execCpys_inv execPubl_inv execCpyt_inv execCpyw_inv execCpyq_inv execMma8_inv execMma8s_inv execMma8g_inv execMma8gs_inv execMmah_inv
    execMmab_inv execMzero_inv execMldc_inv execMstc_inv execMwait_inv execMstat_inv execMacq_inv execMpass_inv execMrel_inv execMwho_inv
    execTknext_inv execTkdone_inv execTkpost_inv execTkspec_inv execTkabort_inv execTksucc_inv execLaunch_inv execLwait_inv execLstat_inv
    execRole_inv execAqpost_inv execAqwait_inv execAqstat_inv execAqcancel_inv execNdrain_inv execNgen_inv execNpath_inv execClpost_inv
    execClwait_inv execClstat_inv execClroute_inv execResultDelivery_inv execSegmentHorizon_inv execJoinTimeout_inv execNapExpiry_inv
    execBarPhaseComplete_inv execLaunchCommand_inv execPendingPoolCheck_inv execTeamPlacement_inv execLaunchComplete_inv execBlockedTeamSwap_inv
    execTimeSliceExpiry_inv execDrainTimeout_inv execTeamSave_inv execTeamRestore_inv execArmedFire_inv execCopyUnit_inv execPublishFlip_inv
    execMatrixStep_inv execTallocGrant_inv execPoolStarvation_inv execTileFree_inv execTaskDelivery_inv execQry_inv execBauScan_inv execRefresh_inv
    execRpl_inv execCxl_inv execWcbFlush_inv execTlbinvComplete_inv execSlotBoundary_inv execDataWindowStart_inv execTuningTimeout_inv
    execPortFailed_inv execPreamble_inv execAckFlit_inv execCutOff_inv execBroadcastMemberDrop_inv execCycleSteer_inv execGenerationChange_inv
    execPortDrained_inv execPortTrained_inv execReadRequest_inv execReadReply_inv execPktWrite_inv execPktAtomic_inv execCompletion_inv
    execCopyUnits_inv execCopyCompletion_inv execReduceCopyUnits_inv execPublish_inv execReservedPacket_inv execCollectiveData_inv
    execCollectiveAbort_inv execGangStart_inv execGangAccept_inv execGangRefuse_inv execGangGo_inv execGangCancel_inv execGangAbort_inv
    execGangDone_inv execGangStartTimeout_inv execGangDiscardTimeout_inv execBarrierArrive_inv execBarrierRelease_inv execHostCopy_inv execSignal_inv
    execHostWait_inv execCalLoad_inv execPortDrain_inv execPortRetrain_inv execCalStatus_inv execFaultReplay_inv execAttest_inv execOwnerClaim_inv
    execOwnerYield_inv execDoorbell_inv execTlbinv_inv execResetWrite_inv execAbortWrite_inv execDbgHalt_inv execDbgGo_inv execDbgStep_inv
    execDbgData_inv execBar4Read_inv execBar4Write_inv execRegisterWrite_inv execModuleReset_inv execBringUpStage_inv execClockStep_inv
    execCoolantFatal_inv execLinkFailure_inv execWritePerformed_inv execInstructionFetch_inv execNotAnInstruction_inv execRingLocked_inv
    execCompletionTimeout_inv execUnitPoisoned_inv

/-- Settles O60: a step runs instructions and settles the part; neither leaves the invariant. -/
theorem stepKeepsMachineInv : Obligations.StepKeepsMachineInv :=
  fun s s' hs hstep => runStep_inv exec s exec_inv hs s' hstep

end Sys2Proof.Invariant
end

section
/-! The checks at issue of an access (O27), in the order of the rules: the capability of tag 0x4, the form of the address, its alignment, and then
what its tag asks for (R160–R162, R205). -/
namespace Sys2Proof.Spaces
open Sys2Proof.Machine Sys2Proof.Safety Sys2Proof.Laws Sys2Proof.Integer

section
variable (s : State) {c : Ctx} {a : DWord} (n kind : Nat)

theorem accessCheck_incapable (ht : addrTag a = 4) (hcap : c.l.has 9 = false) :
    accessCheck s c a n kind = some (trapAt c.th.pc illegalOperand 0 0 kind) := if_pos ⟨ht, hcap⟩

section
variable (hcap : addrTag a = 4 → c.l.has 9 = true)
include hcap

/-- The capability check passes where the tag is another, or the launch has the bit. -/
theorem capable : ¬ (addrTag a = 4 ∧ c.l.has 9 = false) :=
  fun ⟨ht, hno⟩ => Bool.false_ne_true (hno.symm.trans (hcap ht))

theorem accessCheck_malformed (hok : tagOk a = false) : accessCheck s c a n kind = some (trapAt c.th.pc addressSpace a 0 kind) :=
  (if_neg (capable hcap)).trans (if_pos hok)

theorem accessCheck_misaligned (hok : tagOk a = true) (hmod : a.toNat % n ≠ 0) :
    accessCheck s c a n kind = some (trapAt c.th.pc misaligned a 0 kind) :=
  (if_neg (capable hcap)).trans ((if_neg (ne_false_of_eq_true hok)).trans (if_pos hmod))

end

section
variable {n} (hok : tagOk a = true) (hmod : a.toNat % n = 0)
include hok hmod

theorem accessCheck_unreachable (ht : addrTag a = 4) (hcap : c.l.has 9 = true) (hr : reachable s (addrPkg a) = false) :
    accessCheck s c a n kind = some (trapAt c.th.pc remoteUnreachable a 0 kind) := by
  simp [accessCheck, ht, hcap, hok, hmod, hr]

theorem accessCheck_beyond (ht : addrTag a = 1 ∨ addrTag a = 5) (hlen : localLen c.l c.g a < localOff a + n) :
    accessCheck s c a n kind = some (trapAt c.th.pc scratchRange a 0 kind) := by
  have h4 : addrTag a ≠ 4 := by omega
  simp [accessCheck, h4, hok, hmod, ht, hlen]

theorem accessCheck_ungranted (ht : addrTag a = 2) (hg : hostGranted s c.l.asid (a.toNat % 2 ^ 48) n = false) :
    accessCheck s c a n kind = some (trapAt c.th.pc protection a 5 kind) := by
  rw [← bits_zero a 47] at hg
  simp [accessCheck, ht, hok, hmod, hg]

theorem accessCheck_hbm (ht : addrTag a = 0) : accessCheck s c a n kind = none := by
  simp [accessCheck, ht, hok, hmod]

end
end

/-- Settles O27: one check after another, each by the lemma about it. -/
theorem accessChecksAtIssue : Obligations.AccessChecksAtIssue := by
  intro s c a n kind _ trap
  exact ⟨fun hok hcap => accessCheck_malformed s n kind hcap hok, accessCheck_incapable s n kind,
    fun hok hcap => accessCheck_misaligned s n kind hcap hok, fun hok ht hcap hmod => accessCheck_unreachable s kind hok hmod ht hcap,
    fun hok ht hmod => accessCheck_beyond s kind hok hmod ht, fun hok ht hmod => accessCheck_ungranted s kind hok hmod ht,
    fun hok ht hmod => accessCheck_hbm s kind hok hmod ht⟩

end Sys2Proof.Spaces
end

section
/-! Host commands (O48): how one is taken from its queue or channel (R430, R431), the gate that turns it away (R432), and where its completion is
written (R431). -/
namespace Sys2Proof.HostCommands
open Sys2Proof.Machine Sys2Proof.Laws Sys2Proof.Integer Sys2Proof.Outside

/-! The gate: the part's state, then the owner, then the form. -/

section
variable {s : State} {c : HostCmd}

theorem cmdGate_fatal (hf : s.ctl.fatal = true) (hop : c.op ≠ 10) (form : Bool) : cmdGate s c form = some 0x81 := by
  simp [cmdGate, hf, hop, notReady]

theorem cmdGate_early (hs : s.ctl.stage < 7) (hop : c.op < 10) (form : Bool) : cmdGate s c form = some 0x81 := by
  have hlate : c.op ≠ 10 ∧ c.op ≠ 11 ∧ c.op ≠ 12 := by omega
  simp [cmdGate, hs, hlate, notReady]

section
variable (hf : s.ctl.fatal = false) (hs : 7 ≤ s.ctl.stage)
include hf hs

theorem cmdGate_stranger (ho : s.ctl.owner ≠ c.agent) (hop : (1 ≤ c.op ∧ c.op ≤ 7) ∨ c.op = 9 ∨ c.op = 12) (form : Bool) :
    cmdGate s c form = some 7 := by
  have hrange : 1 ≤ c.op ∧ c.op ≤ 12 := by omega
  have hopen : c.op ≠ 8 ∧ c.op ≠ 10 ∧ c.op ≠ 11 := by omega
  simp [cmdGate, hf, Nat.not_lt.mpr hs, hrange, hopen, ho, notOwner]

variable (ho : s.ctl.owner = c.agent)
include ho

theorem cmdGate_malformed {form : Bool} (h : c.op = 0 ∨ 12 < c.op ∨ form = false) : cmdGate s c form = some 0x80 := by
  rcases h with h | h | h <;> simp [cmdGate, hf, Nat.not_lt.mpr hs, ho, h, badCommand]

theorem cmdGate_passes (h1 : 1 ≤ c.op) (h12 : c.op ≤ 12) (hlow : bits (c.words.getD 0 0) 15 9 = 0) (hhigh : bits (c.words.getD 0 0) 31 24 = 0) :
    cmdGate s c true = none := by
  have hop : c.op ≠ 0 := by omega
  unfold cmdGate
  rw [hlow, hhigh]
  simp [hf, Nat.not_lt.mpr hs, ho, hop, Nat.not_lt.mpr h12]

end
end

/-! Taking a command. -/

/-- From stage 1 of bring-up on commands are taken. -/
theorem takes {s : State} (hs : 1 ≤ s.ctl.stage) : ¬ (s.ctl.stage = 0 ∧ s.ctl.recovery = false ∧ s.ctl.fatal = false) :=
  fun ⟨h0, _⟩ => Nat.ne_of_gt hs h0

/-- A command step takes a command of its own opcode (R431). -/
theorem fits_op {w : Word} {op : Nat} (hop : w.toNat % 2 ^ 8 = op) : (bits w 7 0 == op || bits w 7 0 == 0 || decide (12 < bits w 7 0)) = true := by
  rw [bits_zero, hop, beq_self_eq_true, Bool.true_or, Bool.true_or]

/-- The command that a channel carries, as it starts. -/
def channelCmd (s : State) (a : Agent) (ws : List Word) : HostCmd :=
  { id := s.nextId, queue := none, agent := a.code, index := 0, words := ws, wait := .counter 0 }

theorem takeCmd_channel {s : State} {a : Agent} {ws : List Word} {op : Nat} (hs : 1 ≤ s.ctl.stage) (ha : a ≠ .host) (hl : ws.length = 16)
    (hop : (ws.getD 0 0).toNat % 2 ^ 8 = op) (hfree : s.cmds.all (fun x => x.queue.isSome || x.agent != a.code) = true) :
    takeCmd s (.channel a ws) op = some (channelCmd s a ws, { s with nextId := s.nextId + 1 }) := by
  have hidle : s.cmds.any (fun x => x.queue == none && x.agent == a.code) = false := by
    rw [← Bool.not_eq_true, List.any_eq_true]
    rintro ⟨x, hx, hbusy⟩
    have hother := List.all_eq_true.mp hfree x hx
    rw [Bool.and_eq_true, beq_iff_eq, beq_iff_eq] at hbusy
    simp [hbusy] at hother
  simp only [takeCmd, if_neg (takes hs), fits_op hop]
  exact if_neg (by simp only [ha, hl, hidle, ne_eq, not_true_eq_false, Bool.true_eq_false, Bool.false_eq_true, or_self, not_false_eq_true])

/-- The command that the next entry of a queue holds, as it starts. -/
def queueCmd (s : State) (q : Nat) (cq : CQueue) (ws : List Word) : HostCmd :=
  { id := s.nextId, queue := some q, agent := Agent.host.code, index := cq.head.toNat, words := ws, wait := .counter 0 }

/-- The state once the next entry of a queue has started. -/
def queueTaken (s : State) (q : Nat) : State :=
  { s with nextId := s.nextId + 1
           queues := s.queues.modify q (fun c => { c with head := BitVec.ofNat 32 ((c.head.toNat + 1) % c.size.toNat) }) }

theorem takeCmd_queue {s : State} {q op : Nat} {cq : CQueue} {ws : List Word} (hs : 1 ≤ s.ctl.stage) (hq : s.queues[q]? = some cq)
    (he : queueEntry s q = some ws) (hop : (ws.getD 0 0).toNat % 2 ^ 8 = op) :
    takeCmd s (.queue q) op = some (queueCmd s q cq ws, queueTaken s q) := by
  simp only [takeCmd, if_neg (takes hs), he, hq, fits_op hop, if_true]
  rfl

theorem queueTaken_head {s : State} {q : Nat} {cq : CQueue} (hq : s.queues[q]? = some cq) :
    (queueTaken s q).queues[q]? = some { cq with head := BitVec.ofNat 32 ((cq.head.toNat + 1) % cq.size.toNat) } := by
  simp [queueTaken, hq]

/-! Bytes of a number, and memory that holds them (R2). -/

theorem bytesOf_length (n x : Nat) : (bytesOf n x).length = n := by
  induction n generalizing x with
  | zero => rfl
  | succ n ih => exact congrArg (· + 1) (ih (x / 256))

theorem ofBytes_bytesOf (n x : Nat) : ofBytes (bytesOf n x) = x % 256 ^ n := by
  induction n generalizing x with
  | zero => exact (Nat.mod_one x).symm
  | succ n ih =>
    rw [bytesOf, ofBytes, ih, BitVec.toNat_ofNat, Nat.pow_succ' (m := 256)]
    exact Nat.mod_mul.symm

/-- Memory that holds the bytes of a number reads as that number. -/
theorem readNat_of_bytes {s : State} {key n x : Nat} (h : ∀ i, i < n → memByte s.mem (key + i) = (bytesOf n x).getD i 0) :
    readNat s key n = x % 256 ^ n := by
  have hbytes : memRead s.mem n key = bytesOf n x := by
    refine List.ext_getElem ((memRead_length _ n key).trans (bytesOf_length n x).symm) fun i hi hi' => ?_
    have hn : i < n := by rwa [memRead_length] at hi
    have := (memRead_getD s.mem n key i hn).trans (h i hn)
    rwa [List.getD_eq_getElem?_getD, List.getD_eq_getElem?_getD, List.getElem?_eq_getElem hi, List.getElem?_eq_getElem hi'] at this
  rw [readNat, hbytes, ofBytes_bytesOf]

theorem wf_pocWrite {s : State} (byGid : Option Nat) (key : Nat) (bs : List Byte) (h : Memory.wf s.mem = true) :
    Memory.wf (pocWrite s byGid key bs).mem = true := wf_memWrite bs key h

/-! Completion. -/

/-- The state once a command has left the list of those that have started. -/
def untaken (s : State) (c : HostCmd) : State := { s with cmds := s.cmds.filter (fun x => x.id != c.id) }

theorem completeCmd_channel {s : State} {c : HostCmd} (hq : c.queue = none) (out : DWord) (code : Nat) (result : Word) :
    completeCmd s c out code result = { s with
      cmds := s.cmds.filter (fun x => x.id != c.id),
      chanOut := s.chanOut ++ [{ agent := c.agent, out := out, status := BitVec.ofNat 32 (2 ^ 31 + code), result := result }] } := by
  simp only [completeCmd, hq]

section
variable {s : State} {c : HostCmd} {q key : Nat} {cq : CQueue} (hc : c.queue = some q) (hq : s.queues[q]? = some cq)
  (hk : hostAddrKey s cq.asid.toNat (cq.base + BitVec.ofNat 64 (64 * c.index)) .write = .ok key) (out : DWord) (code : Nat) (result : Word)
include hc hq hk

/-- The completion of a queue's entry: OUT, RESULT, and then STATUS with DONE. -/
theorem completeCmd_queue : completeCmd s c out code result =
    pocWrite (pocWrite (pocWrite (untaken s c) none (key + 0x30) (bytesOf 8 out.toNat)) none (key + 0x3C) (bytesOf 4 result.toNat)) none (key + 0x38)
      (bytesOf 4 (BitVec.ofNat 32 (2 ^ 31 + code)).toNat) := by
  have hkey : hostAddrKey (untaken s c) cq.asid.toNat (cq.entryAt c.index) .write = .ok key := hk
  simp only [untaken] at hkey
  simp only [completeCmd, hc, hq, hkey, untaken]

variable (hw : Memory.wf s.mem = true)
include hw

/-- What each byte of memory is after it. -/
theorem memByte_completeCmd (a : Nat) : memByte (completeCmd s c out code result).mem a =
    if key + 0x38 ≤ a ∧ a < key + 0x3C then (bytesOf 4 (BitVec.ofNat 32 (2 ^ 31 + code)).toNat).getD (a - (key + 0x38)) 0
    else if key + 0x3C ≤ a ∧ a < key + 0x40 then (bytesOf 4 result.toNat).getD (a - (key + 0x3C)) 0
    else if key + 0x30 ≤ a ∧ a < key + 0x38 then (bytesOf 8 out.toNat).getD (a - (key + 0x30)) 0
    else memByte s.mem a := by
  have hw0 : Memory.wf (untaken s c).mem = true := hw
  have hw1 := wf_pocWrite none (key + 0x30) (bytesOf 8 out.toNat) hw0
  have hw2 := wf_pocWrite none (key + 0x3C) (bytesOf 4 result.toNat) hw1
  rw [completeCmd_queue hc hq hk, memByte_pocWrite hw2, memByte_pocWrite hw1, memByte_pocWrite hw0]
  simp only [bytesOf_length]
  rfl

theorem completeCmd_out : readNat (completeCmd s c out code result) (key + 0x30) 8 = out.toNat := by
  refine (readNat_of_bytes fun i hi => ?_).trans (Nat.mod_eq_of_lt out.isLt)
  rw [memByte_completeCmd hc hq hk out code result hw, if_neg (by omega), if_neg (by omega), if_pos (by omega), Nat.add_sub_cancel_left]

theorem completeCmd_status : readNat (completeCmd s c out code result) (key + 0x38) 4 = (2 ^ 31 + code) % 2 ^ 32 := by
  refine (readNat_of_bytes (x := (BitVec.ofNat 32 (2 ^ 31 + code)).toNat) fun i hi => ?_).trans ?_
  · rw [memByte_completeCmd hc hq hk out code result hw, if_pos (by omega), Nat.add_sub_cancel_left]
  · exact (Nat.mod_eq_of_lt (BitVec.isLt _)).trans (BitVec.toNat_ofNat _ _)

theorem completeCmd_result : readNat (completeCmd s c out code result) (key + 0x3C) 4 = result.toNat := by
  refine (readNat_of_bytes fun i hi => ?_).trans (Nat.mod_eq_of_lt result.isLt)
  rw [memByte_completeCmd hc hq hk out code result hw, if_neg (by omega), if_pos (by omega), Nat.add_sub_cancel_left]

theorem completeCmd_elsewhere {a : Nat} (ha : a < key + 0x30 ∨ key + 0x40 ≤ a) :
    memByte (completeCmd s c out code result).mem a = memByte s.mem a := by
  rw [memByte_completeCmd hc hq hk out code result hw, if_neg (by omega), if_neg (by omega), if_neg (by omega)]

end

/-! A poisoned entry (R442). -/

theorem countAddr_eq (s : State) (asid : Nat) (a : DWord) : ∃ errs, countAddr s asid a = { s with errs := errs } := by
  unfold countAddr countWalk
  split
  · exact ⟨_, rfl⟩
  · split
    · exact ⟨_, rfl⟩
    · exact ⟨_, rfl⟩

/-- Counting the error of an entry changes the error counts alone. -/
theorem countEntry_eq (s0 s : State) (src : CmdSrc) : ∃ errs, countEntry s0 s src = { s with errs := errs } := by
  unfold countEntry
  split
  · split
    · exact ⟨_, rfl⟩
    · exact ⟨_, rfl⟩
  · split
    · exact countAddr_eq ..
    · exact ⟨_, rfl⟩
  · exact ⟨_, rfl⟩

/-- A command whose entry is poisoned completes with BAD_COMMAND, whatever it would have done. -/
theorem runCmd_poisoned {s s1 : State} {src : CmdSrc} {op : Nat} {c : HostCmd} (ht : takeCmd s src op = some (c, s1)) (hf : s1.ctl.fatal = false)
    (hs : 7 ≤ s1.ctl.stage) (ho : s1.ctl.owner = c.agent) (hbad : entryBad s src = true) (form : HostCmd → Bool) (f : HostCmd → State → Out) :
    ∃ s2, runCmd s src op form f = .next (completeCmd s2 c 0 0x80 0) ∧ s2.mem = s1.mem := by
  obtain ⟨errs, herrs⟩ := countEntry_eq s s1 src
  refine ⟨{ s1 with errs := errs }, ?_, rfl⟩
  have hgate : cmdGate { s1 with errs := errs } c (form c && !entryBad s src) = some 0x80 :=
    cmdGate_malformed hf hs ho (.inr (.inr (by rw [hbad]; exact Bool.and_false _)))
  simp only [runCmd, ht, herrs, hgate]

/-- Settles O48: the taking by where the command comes from, the gate by what turns it away, the completion byte by byte. -/
theorem hostCommandsRun : Obligations.HostCommandsRun := by
  refine ⟨fun s a ws op hs ha hl hop hfree => takeCmd_channel hs ha hl hop hfree, fun s c form => ?gate, fun s c out code result => ?completion,
    fun s a ws op hs hf ha ho hl hw h1 h12 hfree => ?channel, fun s q op ws cq hs hf ho hq he hop hlow hhigh h1 h12 hgood => ?queue,
    fun s s1 src c ht hf hs ho hbad => ?poisoned⟩
  case gate =>
    exact ⟨fun hf hop => cmdGate_fatal hf hop form, fun hs hop => cmdGate_early hs hop form, fun hf hs ho hop => cmdGate_stranger hf hs ho hop form,
      fun hf hs ho h => cmdGate_malformed hf hs ho h, cmdGate_passes⟩
  case completion =>
    exact ⟨fun hc => completeCmd_channel hc out code result, fun q cq key hc hq hw hk =>
      ⟨completeCmd_out hc hq hk out code result hw, completeCmd_status hc hq hk out code result hw, completeCmd_result hc hq hk out code result hw,
        fun a ha => completeCmd_elsewhere hc hq hk out code result hw ha⟩⟩
  case channel =>
    have hcode : (ws.getD 0 0).toNat % 256 = op := by omega
    have hop : (channelCmd s a ws).op = op := (bits_zero _ 7).trans hcode
    have hfield : ∀ hi lo, 4 ≤ lo → bits (ws.getD 0 0) hi lo = 0 := fun hi lo hlo => by
      have small : op < 2 ^ lo := Nat.lt_of_lt_of_le (show op < 2 ^ 4 by omega) (Nat.pow_le_pow_right (by decide) hlo)
      rw [bits, bitsN, hw, Nat.div_eq_of_lt small, Nat.zero_mod]
    exact ⟨takeCmd_channel (by omega) ha hl hcode hfree, rfl,
      cmdGate_passes (c := channelCmd s a ws) hf hs ho (by omega) (by omega) (hfield 15 9 (by decide)) (hfield 31 24 (by decide))⟩
  case queue =>
    have hcode : (queueCmd s q cq ws).op = op := (bits_zero _ 7).trans hop
    exact ⟨queueTaken s q, ⟨takeCmd_queue (by omega) hq he hop, hgood,
      cmdGate_passes (s := queueTaken s q) (c := queueCmd s q cq ws) hf hs ho (by omega) (by omega) hlow hhigh⟩, rfl, rfl, queueTaken_head hq⟩
  case poisoned =>
    rw [exec_signal]
    exact runCmd_poisoned ht hf hs ho hbad _ _

end Sys2Proof.HostCommands
end

section
/-! FENCE and CCTL (O30): the waits of the fences (R193), what a prefetch brings in (R215), the invalidations (R216) and the changes of lines (R217). -/
namespace Sys2Proof.CacheWords
open Sys2Proof.Machine Sys2Proof.Safety Sys2Proof.Claims Sys2Proof.Laws

/-! Errors are met only where memory is poisoned (R324, R442). -/

section
variable {s : State} (hclean : s.poison = [])
include hclean

theorem poisoned_of_clean (key n : Nat) : poisoned s key n = false := by
  rw [poisoned, hclean, List.any_nil, Bool.and_false]

theorem walkErr_of_clean (die v fuel lvl tbl : Nat) : walkErr s die v fuel lvl tbl = none := by
  induction fuel generalizing lvl tbl with
  | zero => rfl
  | succ fuel ih => simp [walkErr, poisoned_of_clean hclean, ih]

theorem countWalk_of_clean (die asid v : Nat) : countWalk s die asid v = s := by
  have hnone : leafErr s die asid v = none := by
    unfold leafErr
    split
    · exact ite_eq_right_iff.mpr fun _ => walkErr_of_clean hclean ..
    · rfl
  rw [countWalk, hnone]

end

theorem countWalk_eq (s : State) (die asid v : Nat) : ∃ errs, countWalk s die asid v = { s with errs := errs } := by
  unfold countWalk
  split
  · exact ⟨_, rfl⟩
  · exact ⟨_, rfl⟩

/-! Prefetches (R215). -/

/-- `s'` is `s` but for the cached copies and the counts of errors, which stay where no memory is poisoned. -/
def CopiesMoved (s s' : State) : Prop :=
  ∃ rdc l1 errs, s' = { s with rdc := rdc, l1 := l1, errs := errs } ∧ (s.poison = [] → errs = s.errs)

theorem CopiesMoved.of_copies (s : State) (rdc l1 : List Copy) : CopiesMoved s { s with rdc := rdc, l1 := l1 } :=
  ⟨rdc, l1, s.errs, rfl, fun _ => rfl⟩

theorem CopiesMoved.refl (s : State) : CopiesMoved s s := .of_copies s s.rdc s.l1

theorem CopiesMoved.ite {p : Prop} [Decidable p] {s a b : State} (ha : CopiesMoved s a) (hb : CopiesMoved s b) :
    CopiesMoved s (if p then a else b) := by
  split
  · exact ha
  · exact hb

theorem countWalk_copiesMoved (s : State) (die asid v : Nat) : CopiesMoved s (countWalk s die asid v) := by
  obtain ⟨errs, he⟩ := countWalk_eq s die asid v
  refine ⟨s.rdc, s.l1, errs, he, fun hclean => ?_⟩
  rw [countWalk_of_clean hclean] at he
  exact (congrArg State.errs he).symm

/-- The error of a line that is poisoned is counted. -/
theorem countErr_copiesMoved {s : State} {key n : Nat} (hbad : poisoned s key n = true) : CopiesMoved s (countErr s key) :=
  ⟨s.rdc, s.l1, _, rfl, fun hclean => absurd hbad (ne_true_of_eq_false (poisoned_of_clean hclean key n))⟩

theorem prefetch_copiesMoved (s : State) (c : Ctx) (p : DWord) (l1 : Bool) : CopiesMoved s (prefetch s c p l1) := by
  unfold prefetch
  split
  case isFalse => exact .refl s
  case isTrue =>
    split
    case h_1 => exact countWalk_copiesMoved ..
    case h_2 lvl e _ =>
      dsimp only
      split
      case h_1 => exact .ite (.of_copies ..) (.of_copies ..)
      case h_2 =>
        split
        case isTrue hbad => exact countErr_copiesMoved hbad
        case isFalse =>
          refine .ite (.refl s) ?_
          split
          · exact .ite (.of_copies ..) (.of_copies ..)
          · exact .ite (.of_copies ..) (.of_copies ..)

/-- A malformed address, or one outside tag 0x0, brings in nothing. -/
theorem prefetch_elsewhere {p : DWord} (hp : tagOk p = false ∨ addrTag p ≠ 0) (s : State) (c : Ctx) (l1 : Bool) : prefetch s c p l1 = s := by
  refine if_neg fun ⟨hok, ht⟩ => ?_
  exact hp.elim (ne_false_of_eq_true hok) (absurd ht)

/-! The words. -/

section
variable {s : State} {c : Ctx} (hx : Executes s c) (h : Bool)
include hx

theorem fence_waits (kind : Nat) (b : BitVec 7) : fence h kind b s = .next (waiting s.nextId s c h (.fence kind b.toNat s.nextId)) :=
  issueWith_ok hx h (i := .wait s (.fence kind b.toNat s.nextId)) rfl

theorem prefWord_reads {a : BitVec 7} {p : DWord} (ha : src64 c a = .ok p) (l1 : Bool) :
    prefWord h l1 a s = .next (past (prefetch s c p l1) c.t h) := by
  rw [prefWord, issue_executes hx h 0 _ (.inl rfl), ha, issued_done]

theorem prefWord_unread {a : BitVec 7} {r : TrapRec} (ha : src64 c a = .error r) (l1 : Bool) : prefWord h l1 a s = .next (past s c.t h) := by
  rw [prefWord, issue_executes hx h 0 _ (.inl rfl), ha, issued_done]

/-- A prefetch never traps, whether its operand can be read or not (R215). -/
theorem prefWord_moves (l1 : Bool) (a : BitVec 7) : ∃ rdc l1' errs,
    prefWord h l1 a s = .next (past { s with rdc := rdc, l1 := l1', errs := errs } c.t h) ∧ (s.poison = [] → errs = s.errs) := by
  cases ha : src64 c a with
  | ok p =>
    obtain ⟨rdc, l1', errs, he, hclean⟩ := prefetch_copiesMoved s c p l1
    exact ⟨rdc, l1', errs, he ▸ prefWord_reads hx h ha l1, hclean⟩
  | error r => exact ⟨s.rdc, s.l1, s.errs, prefWord_unread hx h ha l1, fun _ => rfl⟩

section
variable {a : BitVec 7} {p : DWord} (ha : src64 c a = .ok p)
include ha

theorem prefWord_elsewhere (hp : tagOk p = false ∨ addrTag p ≠ 0) (l1 : Bool) : prefWord h l1 a s = .next (past s c.t h) := by
  rw [prefWord_reads hx h ha, prefetch_elsewhere hp]

theorem exec_invl1_all : exec (.invl1 h a true) s = .next (past { s with l1 := s.l1.filter (fun y => y.holder != c.g.core) } c.t h) := by
  rw [exec_invl1, execInvl1]
  refine issueWith_ok hx h (i := .done { s with l1 := s.l1.filter (fun y => y.holder != c.g.core) }) ?_
  simp only [ha, res_ok_bind, Bool.true_or, require_true, if_true]

section
variable (hok : tagOk p = true)
include hok

theorem exec_invl1_line (ht : addrTag p = 0) :
    exec (.invl1 h a false) s = .next (past { s with l1 := dropCopy s.l1 c.g.core c.l.asid (p.toNat / 128) } c.t h) := by
  rw [exec_invl1, execInvl1]
  refine issueWith_ok hx h (i := .done { s with l1 := dropCopy s.l1 c.g.core c.l.asid (p.toNat / 128) }) ?_
  simp [ha, hok, ht]

theorem exec_invl1_elsewhere (ht : addrTag p ≠ 0) : exec (.invl1 h a false) s = .next (past s c.t h) := by
  rw [exec_invl1, execInvl1]
  refine issueWith_ok hx h (i := .done s) ?_
  simp [ha, hok, ht]

theorem exec_rdcinv_waits {all : Bool} (ht : all = true ∨ addrTag p = 0) :
    exec (.rdcinv h a all) s = .next (waiting s.nextId s c h (.rdcinv p all)) := by
  rw [exec_rdcinv, execRdcinv]
  refine issueWith_ok hx h (i := .wait s (.rdcinv p all)) ?_
  rw [ha, res_ok_bind, require_ok hok, res_ok_bind, if_pos ht]

theorem exec_rdcinv_elsewhere (ht : addrTag p ≠ 0) : exec (.rdcinv h a false) s = .next (past s c.t h) := by
  rw [exec_rdcinv, execRdcinv]
  refine issueWith_ok hx h (i := .done s) ?_
  simp [ha, hok, ht]

/-- LEMPTY and LFULL name `n + 1` lines of a slice or of a tile (R217). -/
theorem lineWord_sends (full : Bool) {n : BitVec 7} (ht : addrTag p = 1 ∨ addrTag p = 5)
    (hfits : localOff p / 128 * 128 + 128 * (n.toNat + 1) ≤ localLen c.l c.g p) :
    lineWord h full a n s = .next (sent { s with nextId := s.nextId + n.toNat } c h p .none (.lineSet full (n.toNat + 1))) := by
  have hlocal : (tagOk p && (addrTag p == 1 || addrTag p == 5)) = true := by simpa [hok] using ht
  refine issueWith_ok hx h (i := .done (access { s with nextId := s.nextId + n.toNat } c p .none (.lineSet full (n.toNat + 1)))) ?_
  rw [ha, res_ok_bind, require_ok hlocal, res_ok_bind, require_ok (decide_eq_true hfits), res_ok_bind]

end

section
variable (hbad : tagOk p = false)
include hbad

theorem exec_invl1_malformed : exec (.invl1 h a false) s = .next (trapNow s c.t (trapAt c.th.pc addressSpace p 0 0) c.th.blk) := by
  rw [exec_invl1, execInvl1]
  refine issueWith_trap hx h ?_
  rw [ha, res_ok_bind, Bool.false_or, require_error hbad, res_error_bind]

theorem exec_rdcinv_malformed (all : Bool) : exec (.rdcinv h a all) s = .next (trapNow s c.t (trapAt c.th.pc addressSpace p 0 0) c.th.blk) := by
  rw [exec_rdcinv, execRdcinv]
  refine issueWith_trap hx h ?_
  rw [ha, res_ok_bind, require_error hbad, res_error_bind]

end
end
end

/-- Settles O30: the fences by what they wait for, a prefetch by the copies that it moves, the other words by the form of their address. -/
theorem fencesAndCacheWords : Obligations.FencesAndCacheWords := by
  intro s c h hx
  refine ⟨fun b => ⟨fence_waits hx h 0 b, fence_waits hx h 1 b, fence_waits hx h 2 b, fence_waits hx h 3 b, fence_waits hx h 4 b⟩,
    fun a => ⟨fun p ha hp => ⟨prefWord_elsewhere hx h ha hp false, prefWord_elsewhere hx h ha hp true⟩, prefWord_moves hx h false a,
      prefWord_moves hx h true a⟩,
    fun a p ha => ⟨exec_invl1_all hx h ha, fun hok ht => ?hbm, fun hok ht => ?elsewhere, fun hok => exec_rdcinv_waits hx h ha hok (.inl rfl),
      fun hbad => ?malformed, fun n hok ht hfits => ?lines⟩⟩
  case hbm => exact ⟨exec_invl1_line hx h ha hok ht, exec_rdcinv_waits hx h ha hok (.inr ht)⟩
  case elsewhere => exact ⟨exec_invl1_elsewhere hx h ha hok ht, exec_rdcinv_elsewhere hx h ha hok ht⟩
  case malformed => exact ⟨exec_invl1_malformed hx h ha hbad, exec_rdcinv_malformed hx h ha hbad⟩
  case lines => exact ⟨lineWord_sends hx h ha hok false ht hfits, lineWord_sends hx h ha hok true ht hfits⟩

end Sys2Proof.CacheWords
end

section
/-! Writes at their point of coherence (O40): a store and an atomic of a thread in memory of this package (R181, R211), and a line that the
write-combining buffer sends (R365). -/
namespace Sys2Proof.PerformedWrites
open Sys2Proof.Machine Sys2Proof.Laws Sys2Proof.Outside Sys2Proof.HostCommands Sys2Proof.Scheduler

/-! Entries of a thread after a change. -/

section
variable (s : State) (t : Tid) (id : Nat)

theorem pend?_dropPend : (dropPend s t id).pend? t id = none := by
  rw [State.pend?, dropPend, thread?_modThread]
  cases s.thread? t with
  | none => rfl
  | some th => exact List.find?_eq_none.mpr fun q hq => by simpa using (List.mem_filter.mp hq).2

/-- The entry of the number is the one that changes. -/
theorem pend?_modPend {f : Pend → Pend} (hf : ∀ q, (f q).id = q.id) : (s.modPend t id f).pend? t id = (s.pend? t id).map f := by
  rw [State.pend?, State.pend?, State.modPend, thread?_modThread]
  cases s.thread? t with
  | none => rfl
  | some th =>
    have hid : ∀ q, ((if q.id = id then f q else q).id == id) = (q.id == id) := fun q =>
      congrArg (· == id) (apply_ite_of_keeps hf (q.id = id) q)
    simp only [Option.map_some, Option.bind_some, List.find?_map, Function.comp_def, hid]
    refine Option.map_congr fun q hq => if_pos ?_
    exact eq_of_beq (List.find?_some (p := fun q : Pend => q.id == id) hq)

end

/-! A write at the point of coherence dooms tasks and changes no thread (R181, R299). -/

theorem doom_eq (byGid : Option Nat) (key n : Nat) (g : Group) : ∃ task, doom byGid key n g = { g with task := task } := by
  unfold doom
  split
  · split
    · exact ⟨_, rfl⟩
    · exact ⟨g.task, rfl⟩
  · exact ⟨g.task, rfl⟩

theorem thread?_pocWrite (s : State) (byGid : Option Nat) (key : Nat) (bs : List Byte) (t : Tid) :
    (pocWrite s byGid key bs).thread? t = s.thread? t := by
  have hgid : ∀ g, (doom byGid key bs.length g).gid = g.gid := fun g => by
    obtain ⟨task, e⟩ := doom_eq byGid key bs.length g
    rw [e]
  have hgroup : (pocWrite s byGid key bs).group? t.gid = (s.group? t.gid).map (doom byGid key bs.length) := by
    simp only [State.group?, pocWrite, List.find?_map, Function.comp_def, hgid]
  rw [State.thread?, State.thread?, hgroup]
  cases s.group? t.gid with
  | none => rfl
  | some g =>
    obtain ⟨task, e⟩ := doom_eq byGid key bs.length g
    rw [Option.map_some, e]

theorem pend?_pocWrite (s : State) (byGid : Option Nat) (key : Nat) (bs : List Byte) (t : Tid) (id : Nat) :
    (pocWrite s byGid key bs).pend? t id = s.pend? t id := by
  rw [State.pend?, State.pend?, thread?_pocWrite]

/-- The state after an access at its point of coherence, with the copies that its core and its die hold of the line (R171, R364). -/
def withCopies (s : State) (l1 rdc : List Copy) : State := { s with l1 := l1, rdc := rdc }

theorem pend?_withCopies (s : State) (l1 rdc : List Copy) (t : Tid) (id : Nat) : (withCopies s l1 rdc).pend? t id = s.pend? t id := rfl

section
variable {s : State} {minor key n : Nat} {ops : List Word} (byGid : Option Nat)

theorem atomicAt_writes {y : Nat} (hy : atomicNew minor (readNat s key n) ops = some y) :
    atomicAt s byGid minor key n ops = (pocWrite s byGid key (bytesOf n y), readNat s key n) := by
  simp only [atomicAt, hy]

theorem atomicAt_leaves (hnone : atomicNew minor (readNat s key n) ops = none) : atomicAt s byGid minor key n ops = (s, readNat s key n) := by
  simp only [atomicAt, hnone]

theorem atomicAt_old : (atomicAt s byGid minor key n ops).2 = readNat s key n := by
  cases hy : atomicNew minor (readNat s key n) ops with
  | none => rw [atomicAt_leaves byGid hy]
  | some y => rw [atomicAt_writes byGid hy]

theorem pend?_atomicAt (t : Tid) (id : Nat) : (atomicAt s byGid minor key n ops).1.pend? t id = s.pend? t id := by
  cases hy : atomicNew minor (readNat s key n) ops with
  | none => rw [atomicAt_leaves byGid hy]
  | some y => rw [atomicAt_writes byGid hy, pend?_pocWrite]

end

section
variable {s : State} {l : Launch} {g : Group} {p : Pend} {die pa kind : Nat} (hloc : p.loc = some (.phys die pa kind))
include hloc

theorem key_phys : p.key l g = some (hbmKey die pa) := by
  rw [Pend.key, hloc]

theorem performStore_phys (htask : g.task = none) (key : Nat) (d : List Byte) :
    ∃ l1 rdc, performStore s l g p key d = .done (withCopies (pocWrite s (some g.gid) key d) l1 rdc) [] := by
  have hver : versionedAt g p die = none := by rw [versionedAt, htask]
  simp only [performStore, hloc, hver]
  split
  · exact ⟨_, _, rfl⟩
  · exact ⟨_, _, rfl⟩

theorem performAtomic_phys {key : Nat} (hclean : poisoned s key p.op.size = false) (minor : Nat) (ops : List Word) (acq : Bool) :
    ∃ l1 rdc, performAtomic s l g p key minor ops acq =
      .done (withCopies (atomicAt s (some g.gid) minor key p.op.size ops).1 l1 rdc) (wordsOf (p.op.size / 4) (readNat s key p.op.size)) := by
  rw [← atomicAt_old (minor := minor) (ops := ops) (some g.gid)]
  simp only [performAtomic, hloc, hclean]
  cases acq with
  | true => exact ⟨_, _, rfl⟩
  | false => exact ⟨_, _, rfl⟩

end

/-! An entry whose write may go. -/

section
variable {s : State} {t : Tid} {l : Launch} {g : Group} {th : Thread} {p : Pend} {key : Nat}

theorem writeFree_of_unheld (horder : orderOk s l g th p = true) (hreport : unreported th p.id (if p.op.isRel then p.relScope else 0) = [])
    (hscore : scoreHeld s t l.asid g.core p.id p.addr key p.op.size = false) : writeFree s t l g th p key = true := by
  rw [writeFree, horder, hreport, hscore, Bool.and_false]
  rfl

section
variable (hkey : p.key l g = some key) (hfree : writeFree s t l g th p key = true)
include hkey hfree

theorem performEntry_store {d : List Byte} {rel : Bool} (hop : p.op = .store d rel) :
    performEntry s t l g th p = performStore s l g p key d := by
  simp [performEntry, hop, hkey, hfree]

theorem performEntry_atomic {m : Nat} {ops : List Word} {acq rel : Bool} (hop : p.op = .atomic m ops acq rel) :
    performEntry s t l g th p = performAtomic s l g p key m ops acq := by
  simp [performEntry, hop, hkey, hfree]

end

theorem exec_writePerformed_done {die pa kind : Nat} {s' : State} {vals : List Word} (howner : s.ofThread t = some (l, g))
    (hth : s.thread? t = some th) (hp : s.pend? t p.id = some p) (hsent : p.st = .sent) (hloc : p.loc = some (.phys die pa kind))
    (hwcb : wcbWaits s g p = false) (hwrite : p.op.isWrite = true) (hdone : performEntry s t l g th p = .done s' vals) :
    exec (.writePerformed t p.id) s = .next (afterWrite s' t p vals) := by
  have hbound : p.bound = false := by rw [Pend.bound, hsent]
  simp [exec_writePerformed, execWritePerformed, howner, hth, hp, hbound, hsent, hwrite, hloc, hwcb, hdone]

theorem afterWrite_drops (hdel : p.op.delivers = false) (vals : List Word) : afterWrite s t p vals = dropPend s t p.id :=
  if_neg fun ⟨hyes, _⟩ => Bool.false_ne_true (hdel.symm.trans hyes)

theorem afterWrite_mem (vals : List Word) : (afterWrite s t p vals).mem = s.mem := by
  unfold afterWrite
  split <;> rfl

/-- An atomic that delivers keeps its old value for its destination. -/
theorem afterWrite_ready (hdel : p.op.delivers = true) (hdst : p.dst ≠ .none) (hp : s.pend? t p.id = some p) (vals : List Word) :
    (afterWrite s t p vals).pend? t p.id = some { p with st := .ready (vals.map some) } := by
  have hid : ∀ q : Pend, ({ q with st := .ready (vals.map some) } : Pend).id = q.id := fun _ => rfl
  rw [afterWrite, if_pos ⟨hdel, hdst⟩, pend?_modPend s t p.id hid, hp, Option.map_some]

end

theorem exec_wcbFlush_some {s : State} {die asid line : Nat} (hsome : wcbStores s die asid line ≠ []) :
    exec (.wcbFlush die asid line) s = .next ((wcbStores s die asid line).foldl flushOne ((wcbStores s die asid line).foldl sendHeld s)) := by
  rw [exec_wcbFlush, execWcbFlush]
  split
  case h_1 hnone => exact absurd hnone hsome
  case h_2 => rfl

/-- Settles O40: the entry's write goes, and its state is that of its point of coherence but for the copies and the entry itself. -/
theorem writesArePerformed : Obligations.WritesArePerformed := by
  refine ⟨fun s t l g th p die pa kind hwf howner hth hp hsent hloc htask horder hreport hscore hwcb => ?entry,
    fun s die asid line => exec_wcbFlush_some⟩
  intro key wrote
  have hfree := writeFree_of_unheld (t := t) horder hreport hscore
  refine ⟨fun d rel hop => ?store, fun m ops acq rel hop hclean => ?atomic⟩
  case store =>
    obtain ⟨l1, rdc, hstore⟩ := performStore_phys (s := s) (l := l) hloc htask key d
    have hexec := exec_writePerformed_done howner hth hp hsent hloc hwcb (by rw [hop]; rfl)
      ((performEntry_store (key_phys hloc) hfree hop).trans hstore)
    rw [afterWrite_drops (by rw [hop]; rfl)] at hexec
    exact ⟨_, hexec, memByte_pocWrite hwf (some g.gid) key d, rfl, pend?_dropPend _ t p.id⟩
  case atomic =>
    intro n old
    obtain ⟨l1, rdc, hatomic⟩ := performAtomic_phys (l := l) (g := g) hloc hclean m ops acq
    have hexec := exec_writePerformed_done howner hth hp hsent hloc hwcb (by rw [hop]; rfl)
      ((performEntry_atomic (key_phys hloc) hfree hop).trans hatomic)
    refine ⟨_, hexec, fun y hy a => ?writes, fun hnone a => ?leaves, fun hdst hret => ?delivers⟩
    case writes =>
      rw [afterWrite_mem, withCopies, atomicAt_writes _ hy]
      exact memByte_pocWrite hwf (some g.gid) key (bytesOf n y) a
    case leaves => rw [afterWrite_mem, withCopies, atomicAt_leaves _ hnone]
    case delivers =>
      have hdel : p.op.delivers = true := by
        rw [hop]
        rcases hret with rfl | rfl
        · rfl
        · exact Bool.or_true acq
      exact ⟨_, afterWrite_ready hdel hdst ((pend?_withCopies ..).trans ((pend?_atomicAt ..).trans hp)) _, rfl⟩

end Sys2Proof.PerformedWrites
end

section
/-! LD, ST and their forms (O26): the address that each forms (R204), the checks that it takes in turn (R205, R206, R209) and the bytes that a
store carries (R207, R208). -/
namespace Sys2Proof.LoadsAndStores
open Sys2Proof.Machine Sys2Proof.Safety Sys2Proof.Claims Sys2Proof.Laws Sys2Proof.HostCommands

/-! The size codes (R43). -/

theorem sizeBytes_eq (z : BitVec 3) : ([1, 1, 2, 2, 4, 8, 16, 16] : List Nat).getD z.toNat 16 = sizeBytes z.toNat := by
  revert z
  decide

theorem sizeRegs_eq (z : BitVec 3) : ([1, 1, 1, 1, 1, 2, 4, 1] : List Nat).getD z.toNat 1 = sizeRegs z := by
  revert z
  decide

/-! The bytes of registers (R2). -/

theorem getElem?_bytesOf {n i : Nat} (hi : i < n) (x : Nat) : (bytesOf n x)[i]? = some (BitVec.ofNat 8 (x / 256 ^ i)) := by
  induction n generalizing i x with
  | zero => exact absurd hi (Nat.not_lt_zero i)
  | succ n ih =>
    cases i with
    | zero => rw [bytesOf, List.getElem?_cons_zero, pow_zero, Nat.div_one]
    | succ i => rw [bytesOf, List.getElem?_cons_succ, ih (Nat.lt_of_succ_lt_succ hi), Nat.div_div_eq_div_mul, Nat.pow_succ']

/-- A byte of words that stand one after another is a byte of the word in which it lies. -/
theorem byte_ofWords (ws : List Word) (i : Nat) :
    BitVec.ofNat 8 (ofWords ws / 256 ^ i) = (ws.getD (i / 4) 0).extractLsb' (8 * (i % 4)) 8 := by
  induction ws generalizing i with
  | nil =>
    rw [ofWords, Nat.zero_div, List.getD_nil]
    exact BitVec.extractLsb'_zero.symm
  | cons w ws ih =>
    by_cases hi : i < 4
    case pos =>
      have hword : i / 4 = 0 := Nat.div_eq_of_lt hi
      rw [hword, Nat.mod_eq_of_lt hi, List.getD_cons_zero, ofWords]
      refine BitVec.eq_of_toNat_eq ?_
      rw [BitVec.toNat_ofNat, BitVec.extractLsb'_toNat, Nat.shiftRight_eq_div_pow]
      interval_cases i <;> omega
    case neg =>
      obtain ⟨j, rfl⟩ := Nat.exists_eq_add_of_le' (Nat.le_of_not_lt hi)
      have hrest : ofWords (w :: ws) / 256 ^ 4 = ofWords ws := by
        rw [ofWords]
        omega
      rw [Nat.pow_add', ← Nat.div_div_eq_div_mul, hrest, ih j, Nat.add_div_right j (by decide), List.getD_cons_succ, Nat.add_mod_right]

theorem eq_storeBytes {z : BitVec 3} {ws : List Word} {bytes : List Byte} (hlen : bytes.length = sizeBytes z.toNat)
    (hbyte : ∀ i, i < sizeBytes z.toNat → bytes[i]? = some ((ws.getD (i / 4) 0).extractLsb' (8 * (i % 4)) 8)) : bytes = storeBytes z ws := by
  have hlen' : (storeBytes z ws).length = sizeBytes z.toNat := bytesOf_length _ _
  refine List.ext_getElem? fun i => ?_
  by_cases hi : i < sizeBytes z.toNat
  · rw [hbyte i hi, storeBytes, getElem?_bytesOf hi, byte_ofWords]
  · rw [List.getElem?_eq_none (by omega), List.getElem?_eq_none (by omega)]

/-! The addresses (R204). -/

section
variable {c : Ctx} {a : BitVec 7} {p : DWord} (ha : Reads64 c a p)
include ha

theorem imAddr_reads (z : BitVec 3) (o : BitVec 8) : imAddr c a z o = .ok (p + BitVec.ofInt 64 (o.toInt * sizeBytes z.toNat)) := by
  rw [Reads64] at ha
  rw [imAddr, ha, res_ok_bind]

theorem ixAddr_reads {b : BitVec 7} {y : Word} (hb : Reads c b y) : ixAddr c a b = .ok (p + y.signExtend 64) := by
  rw [Reads64] at ha
  rw [Reads] at hb
  rw [ixAddr, ha, hb, res_ok_bind, res_ok_bind, BitVec.signExtend]

end

/-! The checks of a load and of a store that is no task's (R205, R297). -/

theorem checkThat_some (r : TrapRec) : checkThat (some r) = .error r := rfl

theorem consume_allowed {consume : Bool} {a : DWord} (htile : consume = true → addrTag a = 5) : (!consume || addrTag a == 5) = true := by
  cases consume with
  | false => rfl
  | true => exact beq_iff_eq.mpr (htile rfl)

section
variable {c : Ctx} (htask : c.g.task = none)
include htask

theorem versionCheck_untasked (kind : Nat) (allowed : Bool) : versionCheck c kind allowed = .ok () := by
  rw [versionCheck, htask]

theorem versionFull_untasked (s : State) (a : DWord) : versionFull s c a = false := by
  rw [versionFull, htask]

end

/-! A load and a store, whatever forms their address. -/

section
variable {s : State} {c : Ctx} (hx : Executes s c) {i : Instr} {h : Bool} {z : BitVec 3} {d : BitVec 7} {f : Ctx → Res DWord} {a : DWord}
variable (hf : f c = .ok a)
include hx hf

section
variable {acq consume : Bool} {srcs : List (BitVec 7)} (he : exec i s = load h acq consume z d srcs f s)
variable {dst : Dst} (hd : dest c (sizeRegs z) d = .ok dst) (hu : uniRule c dst srcs false = .ok ())
include he hd hu

theorem load_sends (htile : consume = true → addrTag a = 5) (hcheck : accessCheck s c a (sizeBytes z.toNat) 1 = none) :
    exec i s = .next (sent s c h a dst (.load z.toNat acq consume)) := by
  rw [he]
  refine issueWith_ok hx h (i := .done (access s c a dst (.load z.toNat acq consume))) ?_
  simp only [hd, hf, hu, require_ok (consume_allowed htile), hcheck, checkThat_none, res_ok_bind]

theorem load_traps (htile : consume = true → addrTag a = 5) {r : TrapRec}
    (hcheck : accessCheck s c a (sizeBytes z.toNat) 1 = some r) :
    exec i s = .next (trapNow s c.t r c.th.blk) := by
  rw [he]
  refine issueWith_trap hx h ?_
  simp only [hd, hf, hu, require_ok (consume_allowed htile), hcheck, checkThat_some, res_ok_bind, res_error_bind]

/-- A consuming load is of a tile (R209). -/
theorem load_consume_elsewhere (hconsume : consume = true) (htag : addrTag a ≠ 5) :
    exec i s = .next (trapNow s c.t (c.illegalK 1) c.th.blk) := by
  have htile : (!consume || addrTag a == 5) = false := by
    rw [hconsume, beq_false_of_ne htag]
    rfl
  rw [he]
  refine issueWith_trap hx h ?_
  simp only [hd, hf, hu, require_error htile, res_ok_bind, res_error_bind]

end

section
variable {rel : Bool} (he : exec i s = store h rel z d f s) {ws : List Word} (hd : src c (sizeRegs z) d = .ok ws) (htask : c.g.task = none)
include he hd htask

theorem store_sends (hcheck : accessCheck s c a (sizeBytes z.toNat) 2 = none) :
    exec i s = .next (sent (if rel then marked s c else s) c h a .none (.store (storeBytes z ws) rel)) := by
  rw [he]
  refine issueWith_ok hx h (i := .done (access (if rel then marked s c else s) c a .none (.store (storeBytes z ws) rel))) ?_
  simp only [hd, hf, versionCheck_untasked htask, hcheck, versionFull_untasked htask, checkThat_none, Bool.not_false, require_true, res_ok_bind]
  rfl

theorem store_traps {r : TrapRec} (hcheck : accessCheck s c a (sizeBytes z.toNat) 2 = some r) :
    exec i s = .next (trapNow s c.t r c.th.blk) := by
  rw [he]
  refine issueWith_trap hx h ?_
  simp only [hd, hf, versionCheck_untasked htask, hcheck, checkThat_some, res_ok_bind, res_error_bind]

end
end

/-- Settles O26: each word by the address that it forms; a store's bytes are those of its registers. -/
theorem loadsAndStoresIssue : Obligations.LoadsAndStoresIssue := by
  intro s c h d a b z o p y hx ha hb
  rw [sizeBytes_eq, sizeRegs_eq]
  intro n regs im ix trap
  have him : imAddr c a z o = .ok im := imAddr_reads ha z o
  have hix : ixAddr c a b = .ok ix := ixAddr_reads ha hb
  refine ⟨fun dst hd => ⟨fun hu => ⟨fun hok => ?ld, fun r hbad => ?ldTrap⟩,
      fun hu => ⟨fun hok => ?ldx, fun r hbad => ?ldxTrap, load_consume_elsewhere hx hix (exec_ldxC h z d a b s) hd hu rfl⟩⟩,
    fun vs bytes hd htask hlen hbyte => ?stores⟩
  case ld =>
    exact ⟨load_sends hx him (exec_ld h d a z o s) hd hu nofun hok, load_sends hx him (exec_ldAcq h d a z o s) hd hu nofun hok⟩
  case ldTrap =>
    exact ⟨load_traps hx him (exec_ld h d a z o s) hd hu nofun hbad, load_traps hx him (exec_ldAcq h d a z o s) hd hu nofun hbad⟩
  case ldx =>
    exact ⟨load_sends hx hix (exec_ldx h z d a b s) hd hu nofun hok,
      fun htag => load_sends hx hix (exec_ldxC h z d a b s) hd hu (fun _ => htag) hok⟩
  case ldxTrap =>
    exact ⟨load_traps hx hix (exec_ldx h z d a b s) hd hu nofun hbad,
      fun htag => load_traps hx hix (exec_ldxC h z d a b s) hd hu (fun _ => htag) hbad⟩
  case stores =>
    obtain rfl : bytes = storeBytes z vs := eq_storeBytes hlen hbyte
    exact ⟨fun hok => ⟨store_sends hx him (exec_st h d a z o s) hd htask hok, store_sends hx him (exec_stRel h d a z o s) hd htask hok⟩,
      fun r hbad => ⟨store_traps hx him (exec_st h d a z o s) hd htask hbad, store_traps hx him (exec_stRel h d a z o s) hd htask hbad⟩,
      store_sends hx hix (exec_stx h z d a b s) hd htask, fun r => store_traps hx hix (exec_stx h z d a b s) hd htask⟩

end Sys2Proof.LoadsAndStores
end

section
/-! ATOM and ATOM.AR (O28): the access that a minor sends (R206, R210, R212) and the value that it writes (R210, R211). -/
namespace Sys2Proof.Atomics
open Sys2Proof.Machine Sys2Proof.Safety Sys2Proof.Claims Sys2Proof.Laws

/-! A source of one register (R23). -/

theorem src_one (c : Ctx) (a : BitVec 7) : (∃ v, src c 1 a = .ok [v]) ∨ ∃ r, src c 1 a = .error r := by
  unfold src
  dsimp only
  split
  case isTrue =>
    split
    case isTrue => exact .inl ⟨_, rfl⟩
    case isFalse => exact .inr ⟨_, rfl⟩
  case isFalse =>
    split
    case isTrue => exact .inl ⟨_, rfl⟩
    case isFalse => exact .inl ⟨_, if_pos rfl⟩

theorem src_of_reads {c : Ctx} {a : BitVec 7} {x : Word} (ha : Reads c a x) : src c 1 a = .ok [x] := by
  rw [Reads, src32] at ha
  obtain ⟨v, hv⟩ | ⟨r, hr⟩ := src_one c a
  · rw [hv] at ha
    obtain rfl : v = x := Except.ok.inj ha
    exact hv
  · rw [hr] at ha
    cases ha

/-! The access. -/

/-- A minor that passes its checks sends its operands. -/
theorem atom_sends {s : State} {c : Ctx} (hx : Executes s c) {i : Instr} {h ar : Bool} {minor w n : Nat} {d a b : BitVec 7}
    (he : exec i s = atom h minor ar d a b s) (hregs : atomRegs minor = (w, n)) {dst : Dst} {p : DWord} {ops : List Word}
    (hd : dest c w d = .ok dst) (ha : Reads64 c a p) (hb : src c n b = .ok ops) (hu : dst.isUni = false) (hver : versionCheck c 3 false = .ok ())
    (hhost : addrTag p = 2 → hostAtomic minor = true) (hcheck : accessCheck s c p (4 * w) 3 = none) :
    exec i s = .next (sent (marked s c) c h p dst (.atomic minor ops ar ar)) := by
  rw [Reads64] at ha
  have hallowed : (addrTag p != 2 || hostAtomic minor) = true := by
    by_cases ht : addrTag p = 2
    case pos => rw [hhost ht, Bool.or_true]
    case neg => rw [bne_iff_ne.mpr ht, Bool.true_or]
  rw [he]
  refine issueWith_ok hx h (i := .done (access (marked s c) c p dst (.atomic minor ops ar ar))) ?_
  simp only [hregs, hd, ha, hb, hu, Bool.not_false, require_true, hver, require_ok hallowed, hcheck, checkThat_none, res_ok_bind]
  rfl

/-! The values that the table gives by a comparison (R210). -/

section
variable (x y : Word)

theorem ite_toInt_lt_toNat (u v : Word) : (if x.toInt < y.toInt then u else v).toNat = (if x.slt y then u else v).toNat := by
  simp only [BitVec.slt_iff_toInt_lt]

theorem min_toNat : min x.toNat y.toNat = (if x ≤ y then x else y).toNat := by
  rw [Nat.min_def, apply_ite BitVec.toNat]
  rfl

theorem max_toNat : max x.toNat y.toNat = (if x ≤ y then y else x).toNat := by
  rw [Nat.max_def, apply_ite BitVec.toNat]
  rfl

theorem wrapped_toNat : (if y.toNat ≤ x.toNat then 0 else (x.toNat + 1) % 2 ^ 32) = (if y ≤ x then 0 else x + 1).toNat := by
  rw [apply_ite BitVec.toNat, BitVec.toNat_add]
  rfl

end

/-! The shapes of the statement. -/

section
variable {rlx ar : Bool → BitVec 7 → BitVec 7 → BitVec 7 → Instr} {minor : Nat}
variable (hrlx : ∀ h d a b s, exec (rlx h d a b) s = atom h minor false d a b s) (har : ∀ h d a b s, exec (ar h d a b) s = atom h minor true d a b s)
include hrlx har

/-- A minor of registers of 32 bits; the statement speaks of a host address for minors 0 and 1 only. -/
theorem atomic_of {f : Word → Word → Word} (hregs : atomRegs minor = (1, 1)) (hhost : minor ≤ 1 → hostAtomic minor = true)
    (hnew : ∀ (x : Nat) (y : Word), atomicNew minor x [y] = some (f (BitVec.ofNat 32 x) y).toNat) : Atomic rlx ar minor f := by
  refine ⟨fun s c h d a b dst p y hx hd ha hb hu hver htag hcheck => ?sends, fun x y => ?value⟩
  case sends =>
    exact ⟨atom_sends hx (hrlx h d a b s) hregs hd ha (src_of_reads hb) hu hver (hhost ∘ htag) hcheck,
      atom_sends hx (har h d a b s) hregs hd ha (src_of_reads hb) hu hver (hhost ∘ htag) hcheck⟩
  case value => rw [hnew, BitVec.ofNat_toNat, BitVec.setWidth_eq]

/-- A minor of wider operands: a host address takes each of them (R212). -/
theorem wideAtomic_of {w n : Nat} {f : Nat → List Word → Option Nat} (hregs : atomRegs minor = (w, n)) (hhost : hostAtomic minor = true)
    (hnew : ∀ x ys, atomicNew minor x ys = f x ys) : WideAtomic rlx ar minor w n f := by
  refine ⟨fun s c h d a b dst p ys hx hd ha hb hu hver hcheck => ?_, hnew⟩
  exact ⟨atom_sends hx (hrlx h d a b s) hregs hd ha hb hu hver (fun _ => hhost) hcheck,
    atom_sends hx (har h d a b s) hregs hd ha hb hu hver (fun _ => hhost) hcheck⟩

end

/-- Settles O28: each minor by its registers, by whether a host address takes it and by its row of the table. -/
theorem atomicsSendAndCompute : Obligations.AtomicsSendAndCompute :=
  ⟨atomic_of exec_aadd exec_aaddAr rfl (fun _ => rfl) (fun _ _ => rfl), atomic_of exec_axch exec_axchAr rfl (fun _ => rfl) (fun _ _ => rfl),
    atomic_of exec_amin exec_aminAr rfl (by decide) (fun _ _ => congrArg some (ite_toInt_lt_toNat ..)),
    atomic_of exec_amax exec_amaxAr rfl (by decide) (fun _ _ => congrArg some (ite_toInt_lt_toNat ..)),
    atomic_of exec_aminu exec_aminuAr rfl (by decide) (fun _ _ => congrArg some (min_toNat ..)),
    atomic_of exec_amaxu exec_amaxuAr rfl (by decide) (fun _ _ => congrArg some (max_toNat ..)),
    atomic_of exec_aand exec_aandAr rfl (by decide) (fun _ _ => rfl), atomic_of exec_aor exec_aorAr rfl (by decide) (fun _ _ => rfl),
    atomic_of exec_axor exec_axorAr rfl (by decide) (fun _ _ => rfl),
    atomic_of exec_aincw exec_aincwAr rfl (by decide) (fun _ _ => congrArg some (wrapped_toNat ..)),
    atomic_of exec_afadd exec_afaddAr rfl (by decide) (fun _ _ => rfl), atomic_of exec_afmax exec_afmaxAr rfl (by decide) (fun _ _ => rfl),
    wideAtomic_of exec_acas exec_acasAr rfl rfl (fun _ _ => rfl), wideAtomic_of exec_aadd64 exec_aadd64Ar rfl rfl (fun _ _ => rfl),
    wideAtomic_of exec_acas64 exec_acas64Ar rfl rfl (fun _ _ => rfl), wideAtomic_of exec_axch64 exec_axch64Ar rfl rfl (fun _ _ => rfl)⟩

end Sys2Proof.Atomics
end

section
/-! TCSET, TCADD, TCREAD and TCWAIT (O29): the counter that a word names (R205, R245), what is sent to it and what the thread waits for (R242). -/
namespace Sys2Proof.Counters
open Sys2Proof.Machine Sys2Proof.Safety Sys2Proof.Claims Sys2Proof.Laws Sys2Proof.LoadsAndStores

section
variable {s : State} {c : Ctx} {a : BitVec 7} {p : DWord} (ha : Reads64 c a p)
include ha

/-- A counter that passes the checks of its access: of this package, or of another one where the word may name one. -/
theorem counterAt_named {peer : Bool} (htag : addrTag p = 0 ∨ peer = true ∧ addrTag p = 4) (hcheck : accessCheck s c p 4 3 = none) :
    counterAt s c a peer = .ok p := by
  rw [Reads64] at ha
  have hplace : (addrTag p == 0 || (peer && addrTag p == 4)) = true := by simpa using htag
  simp only [counterAt, ha, res_ok_bind, require_ok hplace, hcheck, checkThat_none]

/-- A wait names a counter of this package (R245). -/
theorem counterAt_elsewhere (htag : addrTag p ≠ 0) : counterAt s c a false = .error (c.illegalK 3) := by
  rw [Reads64] at ha
  have hplace : (addrTag p == 0 || (false && addrTag p == 4)) = false := by simpa using htag
  simp only [counterAt, ha, res_ok_bind, require_error hplace, res_error_bind]

variable (hx : Executes s c) (h : Bool)
include hx

section
variable (htag : addrTag p = 0 ∨ addrTag p = 4) (hcheck : accessCheck s c p 4 3 = none)
include htag hcheck

/-- TCSET and TCADD send the atomic of their minor, as a release. -/
theorem trigWrite_sends {b : BitVec 7} {y : Word} (hb : Reads c b y) (htask : c.g.task = none) (minor : Nat) :
    trigWrite h minor a b s = .next (sent (marked s c) c h p .none (.atomic minor [y] false true)) := by
  rw [Reads] at hb
  refine issueWith_ok hx h (i := .done (access (marked s c) c p .none (.atomic minor [y] false true))) ?_
  simp only [hb, versionCheck_untasked htask, counterAt_named ha (htag.imp_right (And.intro rfl)) hcheck, res_ok_bind]
  rfl

theorem exec_tcread_waits {d : BitVec 7} {dst : Dst} (hd : dest c 1 d = .ok dst) (huni : dst.isUni = false) :
    exec (.tcread h d a) s = .next (waiting s.nextId (access (marked s c) c p dst (.atomic 16 [] false false)) c h (.result s.nextId)) := by
  rw [exec_tcread]
  refine issueWith_ok hx h (i := .wait (access (marked s c) c p dst (.atomic 16 [] false false)) (.result s.nextId)) ?_
  simp only [hd, huni, Bool.not_false, require_true, counterAt_named ha (htag.imp_right (And.intro rfl)) hcheck, res_ok_bind]
  rfl

end

section
variable {b : BitVec 7} {y : Word} (hb : Reads c b y)
include hb

theorem exec_tcwait_waits (htag : addrTag p = 0) (hcheck : accessCheck s c p 4 3 = none) :
    exec (.tcwait h a b) s = .next (waiting s.nextId (marked { s with nextId := s.nextId + 1 } c) c h (.tcwait s.nextId p y)) := by
  rw [exec_tcwait]
  rw [Reads] at hb
  refine issueWith_ok hx h (i := .wait (marked { s with nextId := s.nextId + 1 } c) (.tcwait s.nextId p y)) ?_
  simp only [hb, counterAt_named ha (.inl htag) hcheck, res_ok_bind]
  rfl

theorem exec_tcwait_elsewhere (htag : addrTag p ≠ 0) :
    exec (.tcwait h a b) s = .next (trapNow s c.t (c.illegalK 3) c.th.blk) := by
  rw [exec_tcwait]
  rw [Reads] at hb
  refine issueWith_trap hx h ?_
  simp only [hb, counterAt_elsewhere ha htag, res_ok_bind, res_error_bind]

end
end

/-- Settles O29: the words by the counter that they name. -/
theorem counterWords : Obligations.CounterWords := by
  intro s c h d a b dst p y hx ha hb hd htask hcheck
  refine ⟨fun htag => ⟨?tcset, ?tcadd, exec_tcread_waits ha hx h htag hcheck hd⟩, fun htag => exec_tcwait_waits ha hx h hb htag hcheck,
    exec_tcwait_elsewhere ha hx h hb⟩
  case tcset => exact trigWrite_sends ha hx h htag hcheck hb htask 1
  case tcadd => exact trigWrite_sends ha hx h htag hcheck hb htask 0

end Sys2Proof.Counters
end

section
/-! The copy engine's words (O31): the data commands (R222–R232), a plain copy's checks (R225), CPYT (R228), PUBL (R239), CPYQ and CPYW (R249). -/
namespace Sys2Proof.CopyWords
open Sys2Proof.Machine Sys2Proof.Safety Sys2Proof.Claims Sys2Proof.Laws Sys2Proof.LoadsAndStores

/-! The checks of a plain copy within the package (R225). -/

theorem firstBad_none {pc : DWord} {cause : Nat} {as : List DWord} {ok : DWord → Bool} (hall : ∀ a ∈ as, ok a = true) :
    firstBad pc cause as ok = .ok () := by
  have hnone : as.find? (fun a => !ok a) = none := List.find?_eq_none.mpr fun a ha => by simp [hall a ha]
  rw [firstBad, hnone]

/-- A unit of an extent that stays below the end of its space has the base's upper fields. -/
theorem unit_stays {p : DWord} {off : Nat} (hfits : p.toNat % 2 ^ 48 + off < 2 ^ 48) :
    (p + BitVec.ofNat 64 off).toNat / 2 ^ 48 = p.toNat / 2 ^ 48 := by
  have hp := p.isLt
  rw [BitVec.toNat_add, BitVec.toNat_ofNat]
  omega

theorem addrTag_eq (a : DWord) : addrTag a = a.toNat / 2 ^ 48 / 2 ^ 12 := by
  have ha := a.isLt
  simp only [addrTag, bits, bitsN]
  omega

section
variable {p : DWord} (htag : addrTag p = 0)
include htag

theorem unitStays_of_fits {off : Nat} (hfits : p.toNat % 2 ^ 48 + off < 2 ^ 48) : unitStays p (p + BitVec.ofNat 64 off) = true := by
  have hfix : unitFix p = 48 := by
    rw [unitFix, htag]
    rfl
  rw [unitStays, hfix, unit_stays hfits, BEq.rfl]

/-- A unit in package memory lies in no window. -/
theorem unitFits_of_fits {off : Nat} (hfits : p.toNat % 2 ^ 48 + off < 2 ^ 48) (l : Launch) (g : Group) :
    unitFits l g (p + BitVec.ofNat 64 off) = true := by
  have hunit : addrTag (p + BitVec.ofNat 64 off) = 0 := by rw [addrTag_eq, unit_stays hfits, ← addrTag_eq, htag]
  exact if_neg (by simp [hunit])

end

section
variable {k : CopyCmd} (hctl : k.ctl = 0) (hminor : k.minor = 0)

section
include hctl

theorem tensor_of_plain : k.tensor = false := by simp [CopyCmd.tensor, bit, hctl]

/-- A plain copy uses its two addresses only. -/
theorem ptrs_of_plain : k.ptrs = [k.src, k.dst] := by simp [CopyCmd.ptrs, CopyCmd.waits, CopyCmd.sigs, bit, hctl]

theorem units_of_plain : k.units = k.len / 16 := by simp [CopyCmd.units, tensor_of_plain hctl]

theorem srcAt_of_plain (u : Nat) : k.srcAt u = k.src + BitVec.ofNat 64 (16 * u) := by simp [CopyCmd.srcAt, tensor_of_plain hctl]

theorem dstAt_of_plain (u : Nat) : k.dstAt u = k.dst + BitVec.ofNat 64 (16 * u) := by simp [CopyCmd.dstAt, tensor_of_plain hctl]

end

include hctl hminor

theorem copyForm_of_plain (h16 : 16 ≤ k.len) (hmax : k.len ≤ 2 ^ 24) (hwhole : k.len % 16 = 0) : copyForm k = true := by
  have hlimit : k.len ≤ 16777216 := hmax
  simp [copyForm, CopyCmd.rop, CopyCmd.rtype, CopyCmd.mask, tensor_of_plain hctl, bit, bits, bitsN, hctl, hminor, h16, hlimit, hwhole]

theorem copyTags_of_plain : copyTags k = true := by
  simp [copyTags, CopyCmd.waits, CopyCmd.sigs, CopyCmd.consumes, CopyCmd.marks, tensor_of_plain hctl, bit, hctl, hminor]

/-- A plain copy of whole units between two extents of package memory passes every check. -/
theorem copyCheck_of_plain (s : State) {c : Ctx} (htask : c.g.task = none) (hokp : tagOk k.src = true) (hokq : tagOk k.dst = true)
    (hp : addrTag k.src = 0) (hq : addrTag k.dst = 0) (hap : k.src.toNat % 16 = 0) (haq : k.dst.toNat % 16 = 0)
    (h16 : 16 ≤ k.len) (hmax : k.len ≤ 2 ^ 24) (hwhole : k.len % 16 = 0) (hfp : k.src.toNat % 2 ^ 48 + k.len ≤ 2 ^ 48)
    (hfq : k.dst.toNat % 2 ^ 48 + k.len ≤ 2 ^ 48) : copyCheck s c k = .ok () := by
  have hunit : ∀ {u}, u ∈ List.range k.units → 16 * u < k.len := fun {u} hu => by
    rw [List.mem_range, units_of_plain hctl] at hu
    omega
  have hmulti : (k.minor != 3) = true ∧ (k.minor != 2) = true := by rw [hminor]; decide
  have hpeer : (c.l.has 9 || !([k.src, k.dst].any (fun a => addrTag a == 4))) = true := by simp [hp, hq]
  have hpeers : [k.src, k.dst].filter (fun a => addrTag a == 4) = [] := by simp [hp, hq]
  have hdsts : (List.range k.units).flatMap k.dstsAt = (List.range k.units).map k.dstAt := by
    have hone : ∀ u, k.dstsAt u = [k.dstAt u] := fun u => if_neg (by rw [hminor]; decide)
    rw [funext hone, ← List.map_eq_flatMap]
  simp only [copyCheck, ptrs_of_plain hctl, hmulti, Bool.true_or, require_true, hpeer, versionCheck_untasked htask,
    copyForm_of_plain hctl hminor h16 hmax hwhole, copyTags_of_plain hctl hminor, hdsts, hpeers, res_ok_bind]
  rw [firstBad_none (by simp [hokp, hokq]), res_ok_bind, firstBad_none (by simp [hap, haq]), res_ok_bind, firstBad_none (by simp), res_ok_bind,
    firstBad_none ?srcStays, res_ok_bind, firstBad_none ?dstStays, res_ok_bind, firstBad_none (by simp), res_ok_bind, firstBad_none ?srcFits, res_ok_bind,
    firstBad_none ?dstFits]
  case srcStays =>
    refine List.forall_mem_map.mpr fun u hu => ?_
    rw [srcAt_of_plain hctl]
    exact unitStays_of_fits hp (by have := hunit hu; omega)
  case dstStays =>
    refine List.forall_mem_map.mpr fun u hu => ?_
    rw [dstAt_of_plain hctl]
    exact unitStays_of_fits hq (by have := hunit hu; omega)
  case srcFits =>
    refine List.forall_mem_map.mpr fun u hu => ?_
    rw [srcAt_of_plain hctl]
    exact unitFits_of_fits hp (by have := hunit hu; omega) ..
  case dstFits =>
    refine List.forall_mem_map.mpr fun u hu => ?_
    rw [dstAt_of_plain hctl]
    exact unitFits_of_fits hq (by have := hunit hu; omega) ..

end

/-! The words. -/


/-- The state in which a command takes its entries: its team is marked where it signals or writes beyond the package's memory. -/
def beforeCommand (s : State) (c : Ctx) (k : CopyCmd) : State :=
  let s0 := { s with nextId := s.nextId + 1 }
  if k.sigs = true ∨ addrTag k.dst = 2 ∨ addrTag k.dst = 4 then marked s0 c else s0

/-- What a command that passes its checks comes to. -/
def commandIss (s : State) (c : Ctx) (k : CopyCmd) : Iss :=
  if copyReady (beforeCommand s c k) c.l c.g c.th k = true then .done (startCopy (beforeCommand s c k) c.l c.g k)
  else .wait (beforeCommand s c k) (.copy k)

theorem beforeCommand_eq (s : State) (c : Ctx) (k : CopyCmd) :
    (if (k.sigs || addrTag k.dst == 2 || addrTag k.dst == 4) = true then marked { s with nextId := s.nextId + 1 } c
      else { s with nextId := s.nextId + 1 }) = beforeCommand s c k := by
  simp only [beforeCommand, Bool.or_eq_true, beq_iff_eq, or_assoc]

section
variable {s : State} {c : Ctx} (hx : Executes s c) (h : Bool)
include hx

section
variable {d a b : BitVec 7} {tr ad cm : List Word} (hd : src c 4 d = .ok tr) (ha : src c 4 a = .ok ad) (hb : src c 4 b = .ok cm) {minor : Nat}
include hd ha hb

theorem copyWord_commands (hcheck : copyCheck s c (command s c minor tr ad cm) = .ok ()) :
    copyWord h minor d a b s = .next (commanded s c h (command s c minor tr ad cm)) := by
  have hiss : issued s h c (commandIss s c (command s c minor tr ad cm)) = commanded s c h (command s c minor tr ad cm) := by
    simp only [commandIss, apply_ite (issued s h c), issued_done, issued_wait]
    rfl
  rw [← hiss]
  refine issueWith_ok hx h ?_
  simp only [hd, ha, hb, res_ok_bind]
  refine (congrArg (fun r : Res Unit => r >>= _) hcheck).trans ?_
  rw [commandIss, ← beforeCommand_eq]
  exact (apply_ite Except.ok ..).symm

theorem copyWord_traps {r : TrapRec} (hcheck : copyCheck s c (command s c minor tr ad cm) = .error r) :
    copyWord h minor d a b s = .next (trapNow s c.t r c.th.blk) := by
  refine issueWith_trap hx h ?_
  simp only [hd, ha, hb, res_ok_bind]
  exact (congrArg (fun r : Res Unit => r >>= _) hcheck).trans rfl

end

section
variable {k : BitVec 3} {a b : BitVec 7} {x y : List Word} (ha : src c 4 a = .ok x) (hb : src c 4 b = .ok y)
include ha hb

/-- A legal record of two uniform quads is set (R227, R228). -/
theorem exec_cpyt_sets (hua : uniSource a = true) (hub : uniSource b = true) (hok : layoutOk (x ++ y) = true) :
    exec (.cpyt h k a b) s = .next (retired s { c with g := { c.g with lt := c.g.lt.set k.toNat (x ++ y) } } h) := by
  rw [exec_cpyt]
  refine issueReg_ok hx h ?_ rfl
  simp only [ha, hb, hua, hub, hok, Bool.and_self, require_true, res_ok_bind]

theorem exec_cpyt_illegal (hbad : ¬ (uniSource a = true ∧ uniSource b = true ∧ layoutOk (x ++ y) = true)) :
    exec (.cpyt h k a b) s = .next (trapNow s c.t c.illegal c.th.blk) := by
  rw [exec_cpyt]
  refine issueReg_trap hx h ?_
  simp only [ha, hb, res_ok_bind]
  by_cases hu : (uniSource a && uniSource b) = true
  case neg => rw [require_error (eq_false_of_ne_true hu), res_error_bind]
  case pos =>
    have hlay : layoutOk (x ++ y) = false := by
      rw [Bool.and_eq_true] at hu
      exact eq_false_of_ne_true fun hok => hbad ⟨hu.1, hu.2, hok⟩
    rw [hu, hlay]
    rfl

end

theorem exec_publ_waits {a : BitVec 7} {p : DWord} (ha : Reads64 c a p) (hcap : c.l.has 12 = true) (htask : c.g.task = none)
    (htag : addrTag p = 0 ∨ addrTag p = 4) (hcheck : accessCheck s c p 1 5 = none) :
    exec (.publ h a) s = .next (waiting s.nextId (marked { s with nextId := s.nextId + 1 } c) c h (.publ s.nextId p false)) := by
  rw [Reads64] at ha
  have hplace : (addrTag p == 0 || addrTag p == 4) = true := by simpa using htag
  rw [exec_publ]
  refine issueWith_ok hx h (i := .wait (marked { s with nextId := s.nextId + 1 } c) (.publ s.nextId p false)) ?_
  simp only [ha, needCap, hcap, require_true, versionCheck_untasked htask, hplace, hcheck, checkThat_none, res_ok_bind]
  rfl

section
variable {d a : BitVec 7} {dst : Dst} {n : Word} (hd : dest c 1 d = .ok dst) (ha : Reads c a n)
include hd

theorem exec_cpyq_reads (hvec : dst.isVec = true) :
    exec (.cpyq h d) s = .next (past (s.modThread c.t (fun _ => (c.write dst [copyStatus s c.t c.th]).th)) c.t h) := by
  rw [exec_cpyq]
  refine issueWith_ok hx h (i := .done (s.modThread c.t (fun _ => (c.write dst [copyStatus s c.t c.th]).th))) ?_
  simp only [hd, hvec, require_true, res_ok_bind]

theorem exec_cpyq_illegal (hvec : dst.isVec = false) : exec (.cpyq h d) s = .next (trapNow s c.t c.illegal c.th.blk) := by
  rw [exec_cpyq]
  refine issueWith_trap hx h ?_
  simp only [hd, require_error hvec, res_ok_bind, res_error_bind]

include ha

theorem exec_cpyw_waits (hvec : dst.isVec = true) :
    exec (.cpyw h d a) s = .next (past (addPend s c.t c.th.pc dst (.cpyw n.toNat) 0 none .sent) c.t h) := by
  rw [Reads] at ha
  rw [exec_cpyw]
  refine issueWith_ok hx h (i := .done (addPend s c.t c.th.pc dst (.cpyw n.toNat) 0 none .sent)) ?_
  simp only [hd, ha, hvec, require_true, res_ok_bind]

theorem exec_cpyw_illegal (hvec : dst.isVec = false) : exec (.cpyw h d a) s = .next (trapNow s c.t c.illegal c.th.blk) := by
  rw [Reads] at ha
  rw [exec_cpyw]
  refine issueWith_trap hx h ?_
  simp only [hd, ha, require_error hvec, res_ok_bind, res_error_bind]

end
end

/-- Settles O31: the data commands by their checks, then the other words. -/
theorem copyWords : Obligations.CopyWords := by
  intro s c h hx
  refine ⟨fun d a b tr ad cm hd ha hb => ?commands, fun k a b x y ha hb => ?layout,
    fun a p ha hcap htask htag hcheck => exec_publ_waits hx h ha hcap htask htag hcheck, fun d a dst n hd ha => ?status⟩
  case commands =>
    refine ⟨fun hok => copyWord_commands hx h hd ha hb hok, fun hok => copyWord_commands hx h hd ha hb hok,
      fun hok => copyWord_commands hx h hd ha hb hok, fun hok => copyWord_commands hx h hd ha hb hok, fun r hbad => copyWord_traps hx h hd ha hb hbad, ?_⟩
    exact fun hctl htask hokp hokq hp hq hap haq h16 hmax hwhole hfp hfq =>
      copyCheck_of_plain hctl rfl s htask hokp hokq hp hq hap haq h16 hmax hwhole hfp hfq
  case layout => exact ⟨fun ⟨hua, hub, hok⟩ => exec_cpyt_sets hx h ha hb hua hub hok, exec_cpyt_illegal hx h ha hb⟩
  case status =>
    exact ⟨fun hvec => ⟨exec_cpyq_reads hx h hd hvec, exec_cpyw_waits hx h hd ha hvec⟩,
      fun hvec => ⟨exec_cpyq_illegal hx h hd hvec, exec_cpyw_illegal hx h hd ha hvec⟩⟩

end Sys2Proof.CopyWords
end

section
/-! The matrix engine's words (O33): an operation that passes its checks (R252, R253, R260), the baton that it needs (R251), the status (R271). -/
namespace Sys2Proof.MatrixWords
open Sys2Proof.Machine Sys2Proof.Safety Sys2Proof.Claims Sys2Proof.Laws Sys2Proof.LoadsAndStores Sys2Proof.Atomics

/-! The fields of an operation's words. -/

theorem bits_slot (w : Word) : bits w 3 0 = w.toNat % 16 := by simp [bits, bitsN]

theorem bits_format (w : Word) : bits w 31 29 = w.toNat / 2 ^ 29 := by
  have hw := w.isLt
  simp only [bits, bitsN]
  omega

/-- The state in which an operation enters the queue: its group is marked as using the slot. -/
def usingSlot (s : State) (c : Ctx) (o : MOp) : State := s.modGroup c.t.gid (fun g => { g with used := g.used ||| 2 ^ (o.slotw.toNat % 16) })

/-- What an operation that passes its checks comes to (R252). -/
def entryIss (s : State) (c : Ctx) (o : MOp) : Iss :=
  if matrixReady (usingSlot s c o) c.g.core o = true then .done (enterMatrix (usingSlot s c o) c.t c.l c.g c.th.pc o)
  else .wait (usingSlot s c o) (.mma o)

theorem issued_entryIss (s : State) (c : Ctx) (h : Bool) (o : MOp) : issued s h c (entryIss s c o) = entered s c h o := by
  simp only [entryIss, apply_ite (issued s h c), issued_done, issued_wait]
  rfl

/-! A word of the engine: its names, its sources, its capabilities, and then the baton (R251, R253, R260). -/

/-- The second capability, of the words with scales, is there where it is needed (R132). -/
theorem scales_allowed {l : Launch} {minor : Nat} (hscaled : minor = 1 ∨ minor = 3 → l.has 3 = true) :
    (!(minor == 1 || minor == 3) || l.has 3) = true := by
  by_cases hm : minor = 1 ∨ minor = 3
  case pos => rw [hscaled hm, Bool.or_true]
  case neg => simpa using .inl (not_or.mp hm)

section
variable {s : State} {c : Ctx} (hx : Executes s c) (h : Bool) {minor : Nat} {names : List (BitVec 7)} {d : BitVec 7} {opA opB : Ctx → Res (List Word)}
variable {sw : Word} {x y : List Word} (hnames : names.all uniName = true) (hd : Reads c d sw) (hA : opA c = .ok x) (hB : opB c = .ok y)
variable (hcap : c.l.has 2 = true) (hscaled : minor = 1 ∨ minor = 3 → c.l.has 3 = true) (htask : c.g.task = none)
include hx hnames hd hA hB hcap hscaled htask

theorem matrixWord_enters (hholds : holds s c.g = true) (hcheck : matrixCheck c (operation c minor sw x y) = .ok ()) :
    matrixWord h minor names d opA opB s = .next (entered s c h (operation c minor sw x y)) := by
  rw [Reads] at hd
  rw [← issued_entryIss]
  refine issueWith_ok hx h ?_
  simp only [require_ok hnames, hd, hA, hB, needMatrix, require_ok hcap, require_ok (scales_allowed hscaled), versionCheck_untasked htask,
    require_ok hholds, blkOp, bits_format, MOp.slot, bits_slot, res_ok_bind]
  refine (congrArg (fun r : Res Unit => r >>= _) hcheck).trans ?_
  exact (apply_ite Except.ok ..).symm

/-- Without the baton nothing enters (R251). -/
theorem matrixWord_unheld (hholds : holds s c.g = false) :
    matrixWord h minor names d opA opB s = .next (trapNow s c.t (trapPlain c.th.pc batonCause 0) c.th.blk) := by
  rw [Reads] at hd
  refine issueWith_trap hx h ?_
  simp only [require_ok hnames, hd, hA, hB, needMatrix, require_ok hcap, require_ok (scales_allowed hscaled), versionCheck_untasked htask,
    require_error hholds, res_ok_bind, res_error_bind]

end

/-- A compute form, by its minor and the capabilities of its row. -/
theorem operation_of {minor : Nat} {caps : List Nat} {mk : Bool → BitVec 7 → BitVec 7 → BitVec 7 → Instr}
    (he : ∀ h d a b s, exec (mk h d a b) s = compute h minor d a b s) (hscaled : minor = 1 ∨ minor = 3 → 3 ∈ caps) : Operation minor caps mk := by
  intro s c h d a b sw x y hx hd ha hb hnames hcap hcaps htask hholds hcheck
  rw [he]
  exact matrixWord_enters hx h hnames hd ha hb hcap (fun hm => List.all_eq_true.mp hcaps 3 (hscaled hm)) htask hholds hcheck

/-! MWAIT and MSTAT (R271); without the engine both give 0 (R251). -/

section
variable {s : State} {c : Ctx} (hx : Executes s c) (h : Bool) {d a : BitVec 7} {m : Word} {dst : Dst} (hw : Writes c 1 d dst [a] false)
include hx hw

theorem exec_mstat_reads : exec (.mstat h d) s = .next (retired s (c.write dst [if c.l.has 2 then matrixStatus s c.g else 0]) h) := by
  obtain ⟨hd, -⟩ := hw
  rw [exec_mstat, retired, write_t]
  refine issueWith_ok hx h (i := .done (putCtx s (c.write dst [if c.l.has 2 then matrixStatus s c.g else 0]))) ?_
  simp only [hd, res_ok_bind]

variable (ha : Reads c a m)
include ha

theorem exec_mwait_waits (hcap : c.l.has 2 = true) :
    exec (.mwait h d a) s = .next (waiting s.nextId s c h (.mwait (m.toNat % 2 ^ 16) s.nextId dst)) := by
  obtain ⟨hd, hrule⟩ := hw
  rw [Reads] at ha
  have hmask : bits m 15 0 = m.toNat % 2 ^ 16 := by simp [bits, bitsN]
  rw [exec_mwait]
  refine issueWith_ok hx h (i := .wait s (.mwait (m.toNat % 2 ^ 16) s.nextId dst)) ?_
  simp only [hd, ha, hrule, hcap, hmask, res_ok_bind, if_true]

theorem exec_mwait_without (hcap : c.l.has 2 = false) : exec (.mwait h d a) s = .next (retired s (c.write dst [0]) h) := by
  obtain ⟨hd, hrule⟩ := hw
  rw [Reads] at ha
  rw [exec_mwait, retired, write_t]
  refine issueWith_ok hx h (i := .done (putCtx s (c.write dst [0]))) ?_
  simp only [hd, ha, hrule, hcap, res_ok_bind, Bool.false_eq_true, if_false]

end

/-- Settles O33: the words of the engine by their operands, with the baton and without it. -/
theorem matrixWords : Obligations.MatrixWords := by
  refine ⟨⟨operation_of exec_mma8 (by decide), operation_of exec_mma8s (by decide), operation_of exec_mma8g (by decide),
      operation_of exec_mma8gs (by decide), operation_of exec_mmah (by decide), operation_of exec_mmab (by decide)⟩,
    fun s c h d sw hx hd hname hcap htask hholds => ?zero, fun s c h d a b sw x p hx hd ha hb hnames hcap htask hholds => ?transfer,
    fun s c h d a b sw x y hx hd ha hb hnames hcap htask hholds => ?unheld,
    fun s c h d a b sw x p hx hd hname hcap htask hholds => ?unheldSlots, fun s c h d a m dst hx hw ha => ?status⟩
  case zero =>
    have hnames : [d].all uniName = true := by simp [hname]
    exact fun hcheck => (exec_mzero h d s).trans (matrixWord_enters hx h hnames hd rfl rfl hcap (absurd · (by decide)) htask hholds hcheck)
  case transfer =>
    exact ⟨fun hcheck => (exec_mldc h d a b s).trans (matrixWord_enters hx h hnames hd ha hb hcap (absurd · (by decide)) htask hholds hcheck),
      fun hcheck => (exec_mstc h d a b s).trans (matrixWord_enters hx h hnames hd ha hb hcap (absurd · (by decide)) htask hholds hcheck)⟩
  case unheld =>
    intro none_
    have unheld : ∀ minor, (minor = 1 ∨ minor = 3 → c.l.has 3 = true) →
        compute h minor d a b s = .next (trapNow s c.t (trapPlain c.th.pc batonCause 0) c.th.blk) := fun minor hscaled =>
      matrixWord_unheld hx h hnames hd ha hb hcap hscaled htask hholds
    simp only [List.forall_mem_cons, List.not_mem_nil, false_imp_iff, implies_true, and_true]
    exact ⟨⟨(exec_mma8 h d a b s).trans (unheld 0 (absurd · (by decide))), (exec_mma8g h d a b s).trans (unheld 2 (absurd · (by decide))),
        (exec_mmah h d a b s).trans (unheld 4 (absurd · (by decide))), (exec_mmab h d a b s).trans (unheld 5 (absurd · (by decide)))⟩,
      fun hcap3 => ⟨(exec_mma8s h d a b s).trans (unheld 1 fun _ => hcap3), (exec_mma8gs h d a b s).trans (unheld 3 fun _ => hcap3)⟩⟩
  case unheldSlots =>
    refine ⟨(exec_mzero h d s).trans (matrixWord_unheld hx h (by simp [hname]) hd rfl rfl hcap (absurd · (by decide)) htask hholds),
      fun hna hnb ha hb => ?_⟩
    have hnames : [d, a, b].all uniName = true := by simp [hname, hna, hnb]
    exact ⟨(exec_mldc h d a b s).trans (matrixWord_unheld hx h hnames hd ha hb hcap (absurd · (by decide)) htask hholds),
      (exec_mstc h d a b s).trans (matrixWord_unheld hx h hnames hd ha hb hcap (absurd · (by decide)) htask hholds)⟩
  case status =>
    refine ⟨fun hcap => ⟨exec_mwait_waits hx h hw ha hcap, ?_⟩, fun hcap => ⟨exec_mwait_without hx h hw ha hcap, ?_⟩⟩
    · rw [exec_mstat_reads hx h hw, hcap]
      rfl
    · rw [exec_mstat_reads hx h hw, hcap]
      rfl

end Sys2Proof.MatrixWords
end

section
/-! The baton (O34): the FIFO and the grant (R272), what MACQ, MREL, MPASS and MWHO do with them (R273), and the words without the capability (R251). -/
namespace Sys2Proof.BatonWords
open Sys2Proof.Machine Sys2Proof.Safety Sys2Proof.Claims Sys2Proof.Laws

/-! The engine of a core. -/

theorem engine_core (s : State) (core : Nat) : (s.engine core).core = core := by
  rw [State.engine]
  cases hfind : s.engines.find? (fun e => e.core == core) with
  | none => rfl
  | some e => simpa using List.find?_some hfind

theorem engine_of_engines {s s' : State} (he : s'.engines = s.engines) (core : Nat) : s'.engine core = s.engine core := by
  rw [State.engine, State.engine, he]

/-- The engine that is put is the engine of its core. -/
theorem engine_putEngine {s : State} {e : Engine} {core : Nat} (hcore : e.core = core) : (s.putEngine e).engine core = e := by
  simp [State.engine, State.putEngine, hcore]

theorem engine_past (s : State) (t : Tid) (h : Bool) (core : Nat) : (past s t h).engine core = s.engine core := rfl

theorem engine_markActed (s : State) (gid n core : Nat) : (markActed s gid n).engine core = s.engine core := rfl

/-! The grant (R272, R341). -/

/-- Whether a grant waits depends on the groups alone. -/
theorem grantWaits_of_groups {s s' : State} (hg : s'.groups = s.groups) (gid : Nat) : grantWaits s' gid = grantWaits s gid := by
  rw [grantWaits, grantWaits, State.group?, State.group?, hg]

/-- A grant makes the group the holder under the next EPOCH, and it leaves the FIFO. -/
theorem engine_giveBaton (s : State) (core gid : Nat) : (giveBaton s core gid).engine core =
    { s.engine core with holder := some gid, epoch := (s.engine core).epoch + 1, fifo := (s.engine core).fifo.filter (fun x => x != gid),
                         back := (s.engine core).back.filter (fun x => x != gid) } :=
  (engine_of_engines rfl core).trans (engine_putEngine (engine_core s core))

section
variable {s : State} {core : Nat}

theorem grantBaton_held {g : Nat} (hholder : (s.engine core).holder = some g) : grantBaton s core = s := by
  simp only [grantBaton, hholder]

theorem grantBaton_nobody (hfifo : (s.engine core).fifo = []) : grantBaton s core = s := by
  simp only [grantBaton, hfifo]
  split <;> simp_all

section
variable {g : Nat} {rest : List Nat} (hholder : (s.engine core).holder = none) (hfifo : (s.engine core).fifo = g :: rest)
include hholder hfifo

theorem grantBaton_waits (hwaits : grantWaits s g = true) : grantBaton s core = s := by
  simp only [grantBaton, hholder, hfifo, hwaits, if_true]

theorem grantBaton_gives (hwaits : grantWaits s g = false) : grantBaton s core = giveBaton s core g := by
  simp only [grantBaton, hholder, hfifo, hwaits, Bool.false_eq_true, if_false]

end
end

/-! MACQ (R273). -/

/-- The FIFO with a group in it. -/
def joined (e : Engine) (own : Nat) : List Nat := if e.fifo.contains own then e.fifo else e.fifo ++ [own]

/-- The state after a MACQ that has to wait, before a free baton is granted. -/
def asking (s : State) (c : Ctx) (dst : Dst) : State :=
  let e := s.engine c.g.core
  let s1 := addPend s c.t c.th.pc dst .macq 0 none .sent
  if e.fifo.contains c.g.gid then s1 else s1.putEngine { e with fifo := e.fifo ++ [c.g.gid] }

theorem engine_asking (s : State) (c : Ctx) (dst : Dst) :
    (asking s c dst).engine c.g.core = { s.engine c.g.core with fifo := joined (s.engine c.g.core) c.g.gid } := by
  simp only [asking, joined]
  split
  case isTrue => exact engine_of_engines rfl _
  case isFalse => exact engine_putEngine (engine_core s _)

theorem grantWaits_asking (s : State) (c : Ctx) (dst : Dst) (gid : Nat) :
    grantWaits (asking s c dst) gid = grantWaits (addPend s c.t c.th.pc dst .macq 0 none .sent) gid := by
  refine grantWaits_of_groups ?_ gid
  simp only [asking]
  split <;> rfl

/-- In a group whose members have not acted yet, the holder's word acts (R273). -/
theorem batonOnce_holder {s : State} {c : Ctx} (hacted : c.g.acted = 0) (hown : (s.engine c.g.core).holder = some c.g.gid) (k : Res Iss) :
    batonOnce c s k = k := by
  have hholds : holds s c.g = true := by rw [holds, hown]; exact beq_self_eq_true _
  rw [batonOnce, hacted, hholds]
  rfl

section
variable {s : State} {c : Ctx} (hx : Executes s c) (h : Bool) (hcap : c.l.has 2 = true)
include hx hcap

section
variable {d : BitVec 7} {dst : Dst} (hd : dest c 1 d = .ok dst)
include hd

theorem exec_macq_holder (hown : (s.engine c.g.core).holder = some c.g.gid) : exec (.macq h d) s =
    .next (past (addPend s c.t c.th.pc dst .macq 0 none (.ready [some (s.engine c.g.core).epoch])) c.t h) := by
  rw [exec_macq]
  refine issueWith_ok hx h (i := .done (addPend s c.t c.th.pc dst .macq 0 none (.ready [some (s.engine c.g.core).epoch]))) ?_
  simp only [hd, require_ok hcap, res_ok_bind, hown, if_true]

theorem exec_macq_asks (hother : (s.engine c.g.core).holder ≠ some c.g.gid) :
    exec (.macq h d) s = .next (past (grantBaton (asking s c dst) c.g.core) c.t h) := by
  rw [exec_macq]
  refine issueWith_ok hx h (i := .done (grantBaton (asking s c dst) c.g.core)) ?_
  simp only [hd, require_ok hcap, res_ok_bind, if_neg hother]
  rfl

/-- A baton that another group holds: the group joins the FIFO. -/
theorem macq_of_held {g : Nat} (hholder : (s.engine c.g.core).holder = some g) (hne : g ≠ c.g.gid) : ∃ t, exec (.macq h d) s = .next t ∧
    t.engine c.g.core = { s.engine c.g.core with fifo := joined (s.engine c.g.core) c.g.gid } := by
  have hother : (s.engine c.g.core).holder ≠ some c.g.gid := fun e => hne (Option.some.inj (hholder.symm.trans e))
  have hheld : ((asking s c dst).engine c.g.core).holder = some g := by rw [engine_asking]; exact hholder
  refine ⟨_, exec_macq_asks hx h hcap hd hother, ?_⟩
  rw [engine_past, grantBaton_held hheld, engine_asking]

section
variable {g : Nat} (hfree : (s.engine c.g.core).holder = none) (hhead : (joined (s.engine c.g.core) c.g.gid).head? = some g)
include hfree hhead

/-- A free baton goes to the head of the FIFO. -/
theorem macq_of_free (hgrant : grantWaits (addPend s c.t c.th.pc dst .macq 0 none .sent) g = false) : ∃ t, exec (.macq h d) s = .next t ∧
    (t.engine c.g.core).holder = some g ∧ (t.engine c.g.core).epoch = (s.engine c.g.core).epoch + 1 := by
  obtain ⟨rest, hlist⟩ := List.head?_eq_some_iff.mp hhead
  have hgive : grantBaton (asking s c dst) c.g.core = giveBaton (asking s c dst) c.g.core g :=
    grantBaton_gives (by rw [engine_asking]; exact hfree) (by rw [engine_asking]; exact hlist) ((grantWaits_asking ..).trans hgrant)
  refine ⟨_, exec_macq_asks hx h hcap hd (by rw [hfree]; nofun), ?_⟩
  rw [engine_past, hgive, engine_giveBaton, engine_asking]
  exact ⟨rfl, rfl⟩

/-- A head that may not take it leaves it free (R341). -/
theorem macq_of_waiting (hgrant : grantWaits (addPend s c.t c.th.pc dst .macq 0 none .sent) g = true) : ∃ t, exec (.macq h d) s = .next t ∧
    t.engine c.g.core = { s.engine c.g.core with fifo := joined (s.engine c.g.core) c.g.gid } := by
  obtain ⟨rest, hlist⟩ := List.head?_eq_some_iff.mp hhead
  have hstay : grantBaton (asking s c dst) c.g.core = asking s c dst :=
    grantBaton_waits (by rw [engine_asking]; exact hfree) (by rw [engine_asking]; exact hlist) ((grantWaits_asking ..).trans hgrant)
  refine ⟨_, exec_macq_asks hx h hcap hd (by rw [hfree]; nofun), ?_⟩
  rw [engine_past, hstay, engine_asking]

end
end

/-! MREL and MPASS (R273, R274). -/

section
variable (hacted : c.g.acted = 0)
include hacted

theorem exec_mrel_unheld (hother : (s.engine c.g.core).holder ≠ some c.g.gid) :
    exec (.mrel h) s = .next (trapNow s c.t (trapPlain c.th.pc batonCause 0) c.th.blk) := by
  have hholds : holds s c.g = false := beq_eq_false_iff_ne.mpr hother
  rw [exec_mrel]
  refine issueWith_trap hx h ?_
  rw [needMatrix, require_ok hcap, res_ok_bind, batonOnce, hacted, hholds]
  rfl

theorem exec_mrel_holder (hown : (s.engine c.g.core).holder = some c.g.gid) :
    exec (.mrel h) s = .next (past (markActed (dropBaton s c.g.core c.g.gid) c.g.gid 1) c.t h) := by
  rw [exec_mrel]
  refine issueWith_ok hx h (i := .done (markActed (dropBaton s c.g.core c.g.gid) c.g.gid 1)) ?_
  rw [needMatrix, require_ok hcap, res_ok_bind, batonOnce_holder hacted hown]

/-- A group of the team on the core takes the baton under the next EPOCH. -/
theorem exec_mpass_gives {a : BitVec 7} {x : Word} (ha : Reads c a x) {g : Group}
    (hheir : s.groups.find? (fun g => g.launch == c.g.launch && g.team == c.g.team && g.idx == x.toNat) = some g) (hres : g.resident = true)
    (hlive : g.retired = false) (hcore : g.core = c.g.core) (hne : g.gid ≠ c.g.gid) (hown : (s.engine c.g.core).holder = some c.g.gid) :
    exec (.mpass h a) s = .next (past (markActed (giveBaton s c.g.core g.gid) c.g.gid 1) c.t h) := by
  rw [Reads] at ha
  rw [exec_mpass, execMpass, issue_executes hx h 0 _ (.inl rfl)]
  simp only [ha, needMatrix, require_ok hcap, hheir, hres, hlive, hcore, Bool.not_false, Bool.true_and, BEq.rfl, Bool.true_eq_false, and_false, if_false,
    batonOnce_holder hacted hown, if_neg hne, issued_done]

end
end

/-- The engine when a group gives up the baton and its place in the FIFO. -/
def released (e : Engine) (own : Nat) : Engine :=
  { e with holder := e.holder.filter (fun x => x != own), fifo := e.fifo.filter (fun x => x != own), back := e.back.filter (fun x => x != own) }

/-- The baton that its holder gives up goes to the head of the FIFO, or is free. -/
theorem engine_dropBaton {s : State} {core own : Nat} (hown : (s.engine core).holder = some own) {others : List Nat}
    (hothers : others = (s.engine core).fifo.filter (fun g => g != own)) (hgrant : ∀ g, others.head? = some g → grantWaits s g = false) :
    ((dropBaton s core own).engine core).holder = others.head? ∧ ((dropBaton s core own).engine core).fifo = others.filter (fun g => others.head? != some g) ∧
      ((dropBaton s core own).engine core).epoch = if others = [] then (s.engine core).epoch else (s.engine core).epoch + 1 := by
  have heng : (s.putEngine (released (s.engine core) own)).engine core = released (s.engine core) own := engine_putEngine (engine_core s core)
  have hfree : ((s.putEngine (released (s.engine core) own)).engine core).holder = none := by
    rw [heng]
    simp [released, hown]
  have hfifo : ((s.putEngine (released (s.engine core) own)).engine core).fifo = others := by rw [heng, hothers, released]
  have hdrop : dropBaton s core own = grantBaton (s.putEngine (released (s.engine core) own)) core := rfl
  cases others with
  | nil =>
    rw [hdrop, grantBaton_nobody hfifo, hfree, hfifo, heng]
    exact ⟨rfl, rfl, rfl⟩
  | cons g rest =>
    rw [hdrop, grantBaton_gives hfree hfifo ((grantWaits_of_groups rfl g).trans (hgrant g rfl)), engine_giveBaton, hfifo, heng]
    refine ⟨rfl, List.filter_congr fun x _ => ?_, rfl⟩
    rw [List.head?_cons]
    exact bne_comm

/-! MWHO (R273). -/

/-- The index that the word tells: the holder's, where the launch may see it. -/
def holderIndex (s : State) (c : Ctx) : Nat := match (s.engine c.g.core).holder with
  | some x => if c.l.has 2 then
      (match s.group? x with
        | some g => if g.launch = c.g.launch then g.idx else 0xFFFF
        | none => 0xFFFF) else 0xFFFF
  | none => 0xFFFF

theorem batonWord_eq (s : State) (c : Ctx) : batonWord s c = BitVec.ofNat 32 ((if (s.engine c.g.core).holder.isSome then 2 ^ 31 else 0) +
    (if holds s c.g then 2 ^ 30 else 0) + holderIndex s c) := rfl

theorem holderIndex_lt {s : State} (hsmall : ∀ y ∈ s.groups, y.idx < 512) (c : Ctx) : holderIndex s c < 2 ^ 16 := by
  unfold holderIndex
  split
  case h_2 => decide
  case h_1 =>
    split
    case isFalse => decide
    case isTrue =>
      split
      case h_2 => decide
      case h_1 g hg =>
        split
        case isTrue => exact (hsmall g (List.mem_of_find?_eq_some hg)).trans (by decide)
        case isFalse => decide

theorem holderIndex_shown {s : State} {c : Ctx} {x : Nat} {y : Group} (hcap : c.l.has 2 = true) (hholder : (s.engine c.g.core).holder = some x)
    (hy : s.group? x = some y) (hlaunch : y.launch = c.g.launch) : holderIndex s c = y.idx := by
  simp only [holderIndex, hholder, hcap, hy, hlaunch, if_true]

theorem holderIndex_hidden {s : State} {c : Ctx} (hnone : c.l.has 2 = false ∨ (s.engine c.g.core).holder = none) : holderIndex s c = 0xFFFF := by
  unfold holderIndex
  split
  case h_2 => rfl
  case h_1 x hholder => rw [hnone.resolve_right (by rw [hholder]; nofun), if_neg Bool.false_ne_true]

/-- The fields of the word: two bits above an index. -/
theorem batonWord_fields {s : State} {c : Ctx} (hindex : holderIndex s c < 2 ^ 16) : (batonWord s c).getLsbD 31 = (s.engine c.g.core).holder.isSome ∧
    (batonWord s c).getLsbD 30 = holds s c.g ∧ (batonWord s c).toNat % 2 ^ 16 = holderIndex s c := by
  rw [BitVec.getLsbD, BitVec.getLsbD, batonWord_eq, BitVec.toNat_ofNat, Nat.testBit_eq_decide_div_mod_eq, Nat.testBit_eq_decide_div_mod_eq]
  generalize holderIndex s c = idx at *
  cases (s.engine c.g.core).holder.isSome <;> cases holds s c.g <;> simp <;> omega

theorem exec_mwho_reads {s : State} {c : Ctx} (hx : Executes s c) (h : Bool) {d : BitVec 7} {dst : Dst} (hd : dest c 1 d = .ok dst) :
    exec (.mwho h d) s = .next (retired s (c.write dst [batonWord s c]) h) := by
  rw [exec_mwho, retired, write_t]
  refine issueWith_ok hx h (i := .done (putCtx s (c.write dst [batonWord s c]))) ?_
  simp only [hd, res_ok_bind]

/-- Settles O34: MACQ by who holds the baton, the words of the holder, and MWHO by the fields of its word. -/
theorem batonWords : Obligations.BatonWords := by
  intro s c h d a x dst hx hd ha e own others joined asked
  refine ⟨fun hcap => ⟨exec_macq_holder hx h hcap hd, fun g => macq_of_held hx h hcap hd, fun g => macq_of_free hx h hcap hd,
    fun g => macq_of_waiting hx h hcap hd, fun hacted hown hgrant => ?mrel, exec_mrel_unheld hx h hcap,
    fun g hheir hres hlive hcore hne hacted hown => ?mpass⟩, fun hsmall => ?mwho⟩
  case mrel =>
    refine ⟨_, exec_mrel_holder hx h hcap hacted hown, ?_⟩
    rw [engine_past, engine_markActed]
    exact engine_dropBaton hown rfl hgrant
  case mpass =>
    refine ⟨_, exec_mpass_gives hx h hcap hacted ha hheir hres hlive hcore hne hown, ?_⟩
    rw [engine_past, engine_markActed, engine_giveBaton]
    exact ⟨rfl, rfl⟩
  case mwho =>
    obtain ⟨hheld, hown, hindex⟩ := batonWord_fields (holderIndex_lt hsmall c)
    refine ⟨batonWord s c, ⟨hheld, hown, fun g y hcap hholder hy hlaunch => ?_, fun hnone => ?_⟩, exec_mwho_reads hx h hd⟩
    · rw [hindex, holderIndex_shown hcap hholder hy hlaunch]
    · rw [hindex, holderIndex_hidden hnone]

end Sys2Proof.BatonWords
end

section
/-! The words of the tile pool (O32): the request of TALLOC (R281), the counts of TREL and TDROP (R282), the pointer of TADDR (R283) and the word of
TSTAT (R284). -/
namespace Sys2Proof.TileWords
open Sys2Proof.Machine Sys2Proof.Safety Sys2Proof.Claims Sys2Proof.Laws Sys2Proof.LoadsAndStores

/-- A handle and an offset leave room for the tag. -/
theorem tilePtr_fits {x y : Nat} (hx : x < 2 ^ 32) (hy : y < 2 ^ 16) :
    y < 2 ^ 24 ∧ x < 2 ^ 64 ∧ x * 2 ^ 24 < 2 ^ 64 ∧ x * 2 ^ 24 + y < 2 ^ 60 ∧ 5 * 2 ^ 60 + (x * 2 ^ 24 + y) < 2 ^ 64 := by
  omega

/-- The fields of a tile's pointer lie apart (R160, R283). -/
theorem tilePtr_eq (x y : Word) : BitVec.ofNat 64 (5 * 2 ^ 60 + x.toNat * 2 ^ 24 + y.toNat % 2 ^ 16) =
    (0x5000000000000000 ||| (x.zeroExtend 64 <<< 24) ||| (y.zeroExtend 64 &&& 0xFFFF) : DWord) := by
  obtain ⟨hoff, hx64, hx88, hhandle, hall⟩ := tilePtr_fits x.isLt (Nat.mod_lt y.toNat (Nat.two_pow_pos 16))
  have htag : ((0x5000000000000000 : Nat) : DWord).toNat = 5 <<< 60 := by
    rw [BitVec.natCast_eq_ofNat]
    rfl
  have hmask : (0xFFFF : DWord).toNat = 2 ^ 16 - 1 := rfl
  have hlow : (y.zeroExtend 64 &&& 0xFFFF : DWord).toNat = y.toNat % 2 ^ 16 := by
    rw [BitVec.toNat_and, BitVec.toNat_setWidth, hmask, Nat.and_two_pow_sub_one_eq_mod, Nat.mod_mod_of_dvd _ (by decide)]
  have hshift : (x.zeroExtend 64 <<< 24 : DWord).toNat = x.toNat <<< 24 := by
    rw [BitVec.toNat_shiftLeft, BitVec.toNat_setWidth, Nat.mod_eq_of_lt hx64, Nat.shiftLeft_eq, Nat.mod_eq_of_lt hx88]
  refine BitVec.eq_of_toNat_eq ?_
  rw [BitVec.toNat_or, BitVec.toNat_or, hlow, hshift, htag, Nat.or_assoc, ← Nat.shiftLeft_add_eq_or_of_lt hoff, Nat.shiftLeft_eq x.toNat,
    ← Nat.shiftLeft_add_eq_or_of_lt hhandle, Nat.shiftLeft_eq, BitVec.toNat_ofNat, Nat.add_assoc, Nat.mod_eq_of_lt hall]

section
variable {s : State} {c : Ctx} (hx : Executes s c) (h : Bool) {a b d : BitVec 7} (hcap : c.l.has 4 = true)
include hcap

theorem needCap_has : needCap c 4 = .ok () := require_ok hcap _

theorem tilePointer_reads {p : DWord} (ha : Reads64 c a p) (htag : addrTag p = 5) : tilePointer c a = .ok p := by
  rw [Reads64] at ha
  simp only [tilePointer, ha, res_ok_bind, needCap_has hcap, htag, BEq.rfl, require_true]

include hx

section
variable {dst : Dst} {p n : Word} (hd : dest c 2 d = .ok dst) (huni : dst.isUni = false) (ha : Reads c a p) (hb : Reads c b n) (hp : p.toNat ≤ 7)
include hd huni ha hb hp

theorem exec_talloc_asks (hclass : partClass c.l p.toNat ≠ 0) (h1 : 1 ≤ n.toNat) (h2 : n.toNat ≤ 65535) :
    exec (.talloc h d a b) s =
      .next (past (addPend { s with nextId := s.nextId + 1 } c.t c.th.pc dst (.talloc p.toNat n.toNat s.nextId) 0 none .sent) c.t h) := by
  rw [Reads] at ha hb
  rw [exec_talloc]
  refine issueWith_ok hx h
    (i := .done (addPend { s with nextId := s.nextId + 1 } c.t c.th.pc dst (.talloc p.toNat n.toNat s.nextId) 0 none .sent)) ?_
  simp only [hd, ha, hb, huni, Bool.not_false, require_true, needCap_has hcap, decide_eq_true hp, decide_eq_true h1, decide_eq_true h2,
    bne_iff_ne.mpr hclass, Bool.and_self, res_ok_bind, State.fresh]

/-- The partition is none of the launch's (R281). -/
theorem exec_talloc_unpartitioned (hclass : partClass c.l p.toNat = 0) :
    exec (.talloc h d a b) s = .next (trapNow s c.t (trapPlain c.th.pc poolPartition p.toNat) c.th.blk) := by
  rw [Reads] at ha hb
  have hnone : (partClass c.l p.toNat != 0) = false := by rw [hclass]; rfl
  rw [exec_talloc]
  refine issueWith_trap hx h ?_
  simp only [hd, ha, hb, huni, Bool.not_false, require_true, needCap_has hcap, decide_eq_true hp, require_error hnone, res_ok_bind, res_error_bind]

end

section
variable {p : DWord} (ha : Reads64 c a p) (htag : addrTag p = 5) (hcheck : accessCheck s c (p - BitVec.ofNat 64 (p.toNat % 2 ^ 16)) 1 0 = none)
include ha htag hcheck

theorem exec_trel_sends :
    exec (.trel h a) s = .next (past (addPend s c.t c.th.pc .none (.tileCount 0 true) p (some .tile) .sent) c.t h) := by
  rw [exec_trel]
  refine issueWith_ok hx h (i := .done (addPend s c.t c.th.pc .none (.tileCount 0 true) p (some .tile) .sent)) ?_
  simp only [tilePointer_reads hcap ha htag, tileCheck, hcheck, Option.map_none, checkThat_none, res_ok_bind]

theorem exec_tdrop_sends {n : Word} (hb : Reads c b n) :
    exec (.tdrop h a b) s = .next (past (addPend s c.t c.th.pc .none (.tileCount n.toNat false) p (some .tile) .sent) c.t h) := by
  rw [Reads] at hb
  rw [exec_tdrop]
  refine issueWith_ok hx h (i := .done (addPend s c.t c.th.pc .none (.tileCount n.toNat false) p (some .tile) .sent)) ?_
  simp only [hb, tilePointer_reads hcap ha htag, tileCheck, hcheck, Option.map_none, checkThat_none, res_ok_bind]

end

theorem exec_taddr_forms {dst : Dst} {x y : Word} (hw : Writes c 2 d dst [a, b] false) (ha : Reads c a x) (hb : Reads c b y) :
    exec (.taddr h d a b) s =
      .next (retired s (c.write64 dst (0x5000000000000000 ||| (x.zeroExtend 64 <<< 24) ||| (y.zeroExtend 64 &&& 0xFFFF))) h) := by
  obtain ⟨hd, hrule⟩ := hw
  rw [Reads] at ha hb
  rw [exec_taddr]
  refine issueReg_ok hx h ?_ (write64_t ..)
  simp only [hd, ha, hb, hrule, require_ok hcap, res_ok_bind, tilePtr_eq]

theorem exec_tstat_reads {dst : Dst} {p : DWord} (hd : dest c 1 d = .ok dst) (huni : dst.isUni = false) (ha : Reads64 c a p) (htag : addrTag p = 5)
    (hok : tagOk p = true) :
    exec (.tstat h d a) s = .next (past (s.modThread c.t (fun _ => (c.write dst [tileStatus s c (addrHandle p)]).th)) c.t h) := by
  rw [exec_tstat]
  refine issueWith_ok hx h (i := .done (s.modThread c.t (fun _ => (c.write dst [tileStatus s c (addrHandle p)]).th))) ?_
  simp only [hd, huni, Bool.not_false, require_true, tilePointer_reads hcap ha htag, require_ok hok, res_ok_bind]

end

/-- The word of TSTAT by the tile that a handle names, if any. -/
theorem tileStatus_eq (s : State) (c : Ctx) (hd : Nat) : tileStatus s c hd = BitVec.ofNat 32
    (liveTiles s c.l.ref (coreCluster c.g.core) (hPart hd) * 2 ^ 16 +
      if tileFresh s c.l c.g.core hd = true then ((s.tile? (hCore c.g.core hd) (hSlot hd)).map (fun x => x.count)).getD 0 else 0) := by
  unfold tileStatus
  cases s.tile? (hCore c.g.core hd) (hSlot hd) with
  | none => simp only [Option.map_none, Option.getD_none, ite_self]
  | some t => rfl

/-- Settles O32: the words one by one. -/
theorem tileWords : Obligations.TileWords := by
  intro s c h d a b hx hcap
  refine ⟨fun dst p n hd huni ha hb hp => ⟨exec_talloc_asks hx h hcap hd huni ha hb hp, exec_talloc_unpartitioned hx h hcap hd huni ha hb hp⟩,
    fun p n ha hb htag hcheck => ⟨exec_trel_sends hx h hcap ha htag hcheck, exec_tdrop_sends hx h hcap ha htag hcheck hb⟩,
    fun dst x y hw ha hb => exec_taddr_forms hx h hcap hw ha hb, fun dst p hd huni ha htag hok => ?tstat⟩
  case tstat =>
    rw [exec_tstat_reads hx h hcap hd huni ha htag hok, tileStatus_eq]

end Sys2Proof.TileWords
end

section
/-! The task unit's words (O35): the arrivals of TKNEXT, TKDONE and TKSPEC (R275, R291, R296), the posts (R293, R294), and the discard of a version
(R300). -/
namespace Sys2Proof.TaskWords
open Sys2Proof.Machine Sys2Proof.Safety Sys2Proof.Claims Sys2Proof.Laws

theorem executes_of_executes {s : State} {c : Ctx} (hx : Executes s c) : executes s = true := by
  have hthread : s.cur.bind (fun t => s.thread? t) = some c.th := by rw [hx.cur, Option.bind_some, hx.thread]
  rw [executes, hthread]
  exact bne_iff_ne.mpr hx.on

section
variable {s : State} {c : Ctx} (hx : Executes s c) (h : Bool) (hcap : c.l.has 5 = true)
include hx hcap

/-! The arrivals (R291). -/

section
variable {d a : BitVec 7} {m : Word} (ha : Reads c a m)
include ha

theorem exec_tknext_arrives {dst : Dst} (hd : dest c 16 d = .ok dst) (hdst : d.toNat ∈ [80, 88, 96, 104]) (hlo : 80 ≤ a.toNat) (hhi : a.toNat < 120) :
    exec (.tknext h d a) s = .next (tryTask (past (addPend (s.modThread c.t (fun th =>
      { th with tkRendez := th.tkRendez + 1, tkPoints := ((c.th.tkRendez + 1).toNat, c.th.point) :: th.tkPoints, barsFlush := true })) c.t c.th.pc dst
      (.tknext (c.th.tkRendez + 1).toNat m) 0 none .sent) c.t h) c.t.gid) := by
  rw [Reads] at ha
  have hlist : [80, 88, 96, 104].contains d.toNat = true := List.contains_iff_mem.mpr hdst
  rw [exec_tknext]
  refine issueWith_ok hx h (i := .met (addPend (s.modThread c.t (fun th =>
    { th with tkRendez := th.tkRendez + 1, tkPoints := ((c.th.tkRendez + 1).toNat, c.th.point) :: th.tkPoints, barsFlush := true })) c.t c.th.pc dst
      (.tknext (c.th.tkRendez + 1).toNat m) 0 none .sent) (fun s => tryTask s c.t.gid)) ?_
  simp only [ha, hd, needCap, require_ok hcap, require_ok hlist, decide_eq_true hlo, decide_eq_true hhi, Bool.and_self, require_true, res_ok_bind]
  rfl

/-- The destination is one of four names and the mask is uniform (R291). -/
theorem exec_tknext_illegal (hbad : ¬ (d.toNat ∈ [80, 88, 96, 104] ∧ 80 ≤ a.toNat ∧ a.toNat < 120)) :
    exec (.tknext h d a) s = .next (trapNow s c.t c.illegal c.th.blk) := by
  rw [Reads] at ha
  rw [exec_tknext]
  refine issueWith_trap hx h ?_
  simp only [ha, needCap, require_ok hcap, res_ok_bind]
  by_cases hdst : d.toNat ∈ [80, 88, 96, 104]
  case neg => rw [require_error (eq_false_of_ne_true fun hc => hdst (List.contains_iff_mem.mp hc)), res_error_bind]
  case pos =>
    have hmask : (decide (80 ≤ a.toNat) && decide (a.toNat < 120)) = false :=
      eq_false_of_ne_true fun hc => hbad ⟨hdst, by simpa using hc⟩
    rw [require_ok (List.contains_iff_mem.mpr hdst), res_ok_bind, require_error hmask, res_error_bind]

end

theorem exec_tkdone_waits : exec (.tkdone h) s =
    .next (waiting s.nextId (s.modThread c.t (fun th => { th with tkRendez := th.tkRendez + 1 })) c h (.tkdone (c.th.tkRendez + 1).toNat)) := by
  rw [exec_tkdone]
  refine issueWith_ok hx h
    (i := .wait (s.modThread c.t (fun th => { th with tkRendez := th.tkRendez + 1 })) (.tkdone (c.th.tkRendez + 1).toNat)) ?_
  rw [needCap, require_ok hcap, res_ok_bind]
  rfl

theorem exec_tkspec_waits (hspec : c.l.has 8 = true ∧ c.l.hdr.speculate = true) : exec (.tkspec h) s =
    .next (waiting s.nextId (s.modThread c.t (fun th => { th with tkRendez := th.tkRendez + 1 })) c h (.tkspec (c.th.tkRendez + 1).toNat)) := by
  obtain ⟨hcap8, hhdr⟩ := hspec
  rw [exec_tkspec]
  refine issueWith_ok hx h
    (i := .wait (s.modThread c.t (fun th => { th with tkRendez := th.tkRendez + 1 })) (.tkspec (c.th.tkRendez + 1).toNat)) ?_
  simp only [needCap, require_ok hcap, hcap8, hhdr, Bool.and_self, require_true, res_ok_bind]
  rfl

theorem exec_tkspec_illegal (hspec : ¬ (c.l.has 8 = true ∧ c.l.hdr.speculate = true)) :
    exec (.tkspec h) s = .next (trapNow s c.t c.illegal c.th.blk) := by
  have hno : (c.l.has 8 && c.l.hdr.speculate) = false := eq_false_of_ne_true fun hc => hspec (by simpa using hc)
  rw [exec_tkspec]
  refine issueWith_trap hx h ?_
  simp only [needCap, require_ok hcap, require_error hno, res_ok_bind, res_error_bind]

/-! The posts (R293, R294). -/

section
variable {a : BitVec 7} {p : DWord} (ha : Reads64 c a p)
include ha

theorem exec_tkpost_sends (htag : addrTag p = 0 ∨ addrTag p = 1) (hcheck : accessCheck s c p 64 1 = none) :
    exec (.tkpost h a) s = .next (sent (marked s c) c h p .none .taskPost) := by
  rw [Reads64] at ha
  have hplace : (addrTag p == 0 || addrTag p == 1) = true := by simpa using htag
  rw [exec_tkpost]
  refine issueWith_ok hx h (i := .done (access (marked s c) c p .none .taskPost)) ?_
  simp only [ha, needCap, require_ok hcap, require_ok hplace, hcheck, checkThat_none, res_ok_bind]
  rfl

theorem exec_tksucc_sends (htag : addrTag p = 0) (halign : p.toNat % 16 = 0) (hcheck : accessCheck s c p 16 3 = none) :
    exec (.tksucc h a) s = .next (sent (marked s c) c h p .none .taskSucc) := by
  rw [Reads64] at ha
  rw [exec_tksucc]
  refine issueWith_ok hx h (i := .done (access (marked s c) c p .none .taskSucc)) ?_
  simp only [ha, needCap, require_ok hcap, htag, halign, BEq.rfl, Bool.and_self, require_true, hcheck, checkThat_none, res_ok_bind]
  rfl

end

/-! TKABORT (R300). -/

/-- TKABORT issues as a word whose H bit is its own, or set where a version is discarded. -/
theorem exec_tkabort_issues {i : Iss} (hi : (if c.th.redo = true then .ok (.done s)
      else require (inVersion s c.t) c.illegal >>= fun _ => .ok (.done (discardVersion s c.t.gid))) = (.ok i : Res Iss)) :
    exec (.tkabort h) s = .next (issued s (h || (inVersion s c.t && executes s)) c i) := by
  have hcur := hx.cur
  rw [exec_tkabort, execTkabort, hcur]
  refine issueWith_ok hx _ ?_
  rw [needCap, require_ok hcap, res_ok_bind, ← hi]


theorem exec_tkabort_discards (hver : inVersion s c.t = true) (hredo : c.th.redo = false) :
    exec (.tkabort h) s = .next (past (discardVersion s c.t.gid) c.t true) := by
  have hissue := exec_tkabort_issues hx h hcap (i := .done (discardVersion s c.t.gid)) (by rw [hredo, hver]; rfl)
  rwa [hver, executes_of_executes hx, Bool.and_self, Bool.or_true] at hissue

theorem exec_tkabort_again (hredo : c.th.redo = true) : ∃ hz, exec (.tkabort h) s = .next (past s c.t hz) :=
  ⟨_, exec_tkabort_issues hx h hcap (i := .done s) (by rw [hredo]; rfl)⟩

theorem exec_tkabort_illegal (hver : inVersion s c.t = false) (hredo : c.th.redo = false) :
    exec (.tkabort h) s = .next (trapNow s c.t c.illegal c.th.blk) := by
  rw [exec_tkabort, execTkabort]
  refine issueWith_trap hx _ ?_
  rw [needCap, require_ok hcap, res_ok_bind, hredo, hver]
  rfl

end

/-! What a discard leaves. -/

section
variable {s : State} {l : Launch} {g : Group} {tk : Task} (hg : s.group? g.gid = some g) (howner : s.ofThread { gid := g.gid, lane := 0 } = some (l, g))
variable (htask : g.task = some tk) (hver : tk.versioned = true)
include hg howner htask hver

/-- A discard changes the group, which has no task any more, and the records. -/
theorem discardVersion_eq : ∃ f : Group → Group, (∀ x, (f x).gid = x.gid) ∧ (∀ x, (f x).task = none) ∧ discardVersion s g.gid =
    { s.modGroup g.gid f with
      recs := s.recs.filter (fun r => r.held != some g.gid) ++ (s.recs.filter (fun r => r.held == some g.gid)).map (fun r => { r with held := none }) } := by
  simp only [discardVersion, hg, howner, htask, hver, if_true]
  refine ⟨?f, ?gid, ?task, ?eq⟩
  case eq => rfl
  case gid => exact fun _ => rfl
  case task => exact fun _ => rfl

theorem discardVersion_leaves : (discardVersion s g.gid).mem = s.mem ∧ (∀ g', (discardVersion s g.gid).group? g.gid = some g' → g'.task = none) ∧
    (discardVersion s g.gid).recs = s.recs.filter (fun r => r.held != some g.gid) ++
      (s.recs.filter (fun r => r.held == some g.gid)).map (fun r => { r with held := none }) := by
  obtain ⟨f, hgid, hnone, heq⟩ := discardVersion_eq hg howner htask hver
  rw [heq]
  refine ⟨rfl, fun g' hg' => ?_, rfl⟩
  have hafter : (s.modGroup g.gid f).group? g.gid = some g' := hg'
  rw [group?_modGroup s g.gid g.gid f hgid, hg, Option.map_some, if_pos rfl] at hafter
  rw [← Option.some.inj hafter, hnone]

end

/-- Settles O35: the words one by one, and the discard. -/
theorem taskWords : Obligations.TaskWords := by
  refine ⟨fun s c h d a hx hcap => ?words, fun s l g tk hg howner htask hver => discardVersion_leaves hg howner htask hver⟩
  exact ⟨fun m dst ha hd hdst hlo hhi => exec_tknext_arrives hx h hcap ha hd hdst hlo hhi, fun m ha hbad => exec_tknext_illegal hx h hcap ha hbad,
    exec_tkdone_waits hx h hcap, exec_tkspec_waits hx h hcap, exec_tkspec_illegal hx h hcap,
    fun p ha => ⟨exec_tkpost_sends hx h hcap ha, exec_tksucc_sends hx h hcap ha⟩,
    exec_tkabort_discards hx h hcap, exec_tkabort_again hx h hcap, exec_tkabort_illegal hx h hcap⟩

end Sys2Proof.TaskWords
end

section
/-! LAUNCH, LWAIT, LSTAT and ROLE (O36): what the thread waits for, the status of a child and the role (R302–R306). -/
namespace Sys2Proof.LaunchWords
open Sys2Proof.Machine Sys2Proof.Safety Sys2Proof.Claims Sys2Proof.Laws Sys2Proof.LoadsAndStores

/-- The priority word of LAUNCH holds four bits (R302). -/
theorem priority_high_zero {q : Word} (hq : q.toNat < 16) : (bits q 31 4 == 0) = true := by
  simp [bits, bitsN]
  omega

section
variable {s : State} {c : Ctx} (hx : Executes s c) (h : Bool) {d a b : BitVec 7} {dst : Dst} (hd : dest c 1 d = .ok dst) (huni : dst.isUni = false)
include hx hd huni

theorem exec_launch_waits {hdr : DWord} {q0 q1 q2 q3 : Word} (ha : Reads64 c a hdr) (hb : src c 4 b = .ok [q0, q1, q2, q3]) (hcap : c.l.has 6 = true)
    (htask : c.g.task = none) (hq : q3.toNat < 16) (htag : addrTag hdr = 0) (hcheck : accessCheck s c hdr 1 1 = none) :
    exec (.launch h d a b) s =
      .next (waiting s.nextId (marked s c) c h (.launch hdr (pairOf q0 q1) q2 (if q3.getLsbD 3 = true then some (q3.toNat % 8) else none) dst)) := by
  rw [Reads64] at ha
  have hlow : bits q3 2 0 = q3.toNat % 8 := by simp [bits, bitsN]
  rw [exec_launch]
  refine issueWith_ok hx h
    (i := .wait (marked s c) (.launch hdr (pairOf q0 q1) q2 (if q3.getLsbD 3 = true then some (q3.toNat % 8) else none) dst)) ?_
  simp only [hd, ha, hb, huni, Bool.not_false, require_true, needCap, hcap, versionCheck_untasked htask, List.getD_cons_zero, List.getD_cons_succ,
    priority_high_zero hq, htag, BEq.rfl, hcheck, checkThat_none, res_ok_bind, hlow]
  rfl

section
variable {x : Word} (ha : Reads c a x)
include ha

section
variable (hcap : c.l.has 6 = true)
include hcap

theorem exec_lwait_waits : exec (.lwait h d a) s = .next (past (addPend s c.t c.th.pc dst (.lwait x) 0 none .sent) c.t h) := by
  rw [Reads] at ha
  rw [exec_lwait]
  refine issueWith_ok hx h (i := .done (addPend s c.t c.th.pc dst (.lwait x) 0 none .sent)) ?_
  simp only [hd, ha, huni, Bool.not_false, require_true, needCap, hcap, res_ok_bind]

theorem exec_lstat_reads : exec (.lstat h d a) s = .next (retired s (c.write dst [(childStatus s c.l x.toNat).getD unknownStatus]) h) := by
  rw [Reads] at ha
  rw [exec_lstat, retired, write_t]
  refine issueWith_ok hx h (i := .done (putCtx s (c.write dst [(childStatus s c.l x.toNat).getD unknownStatus]))) ?_
  simp only [hd, ha, huni, Bool.not_false, require_true, needCap, hcap, res_ok_bind]

end

/-- Both words need the capability (R132). -/
theorem child_words_unavailable (hcap : c.l.has 6 = false) : exec (.lwait h d a) s = .next (trapNow s c.t c.illegal c.th.blk) ∧
    exec (.lstat h d a) s = .next (trapNow s c.t c.illegal c.th.blk) := by
  rw [Reads] at ha
  refine ⟨(exec_lwait h d a s).trans (issueWith_trap hx h ?_), (exec_lstat h d a s).trans (issueWith_trap hx h ?_)⟩
  all_goals simp only [hd, ha, huni, Bool.not_false, require_true, needCap, require_error hcap, res_ok_bind, res_error_bind]

theorem exec_role_reads (hlevel : b ≤ 5) (hdiv : x ≠ 0) : exec (.role h d a b) s =
    .next (retired s (c.write dst [BitVec.ofNat 32 ((c.g.idx + c.th.arrivals.getD b.toNat 0 % 2 ^ 32) % x.toNat)]) h) := by
  rw [Reads] at ha
  have hlevel' : b.toNat ≤ 5 := BitVec.le_def.mp hlevel
  rw [exec_role]
  refine issueReg_ok hx h ?_ (write_t ..)
  simp only [hd, ha, huni, Bool.not_false, require_true, decide_eq_true hlevel', bne_iff_ne.mpr hdiv, res_ok_bind]

theorem exec_role_illegal (hbad : 5 < b ∨ x = 0) : exec (.role h d a b) s = .next (trapNow s c.t c.illegal c.th.blk) := by
  rw [Reads] at ha
  rw [exec_role]
  refine issueReg_trap hx h ?_
  simp only [hd, ha, huni, Bool.not_false, require_true, res_ok_bind]
  by_cases hlevel : b.toNat ≤ 5
  case neg => rw [require_error (decide_eq_false hlevel), res_error_bind]
  case pos =>
    have hzero : (x != 0) = false := by
      rw [hbad.resolve_left (fun hlt => absurd (BitVec.lt_def.mp hlt) (Nat.not_lt.mpr hlevel))]
      rfl
    rw [require_ok (decide_eq_true hlevel), res_ok_bind, require_error hzero, res_error_bind]

end
end

/-- Settles O36: the words one by one. -/
theorem launchWords : Obligations.LaunchWords := by
  intro s c h d a b dst hx hd huni
  refine ⟨fun hdr q0 q1 q2 q3 ha hb hcap htask hq htag hcheck => exec_launch_waits hx h hd huni ha hb hcap htask hq htag hcheck,
    fun x ha => ⟨fun hcap => ⟨exec_lwait_waits hx h hd huni ha hcap, exec_lstat_reads hx h hd huni ha hcap⟩, exec_role_reads hx h hd huni ha,
      exec_role_illegal hx h hd huni ha, child_words_unavailable hx h hd huni ha⟩⟩

end Sys2Proof.LaunchWords
end

section
/-! The AQ and COLL words (O37): a post that passes its checks (R326, R417, R419), the waits and statuses (R328, R418), and what a cancellation asks
for (R327). -/
namespace Sys2Proof.QueryWords
open Sys2Proof.Machine Sys2Proof.Safety Sys2Proof.Claims Sys2Proof.Laws Sys2Proof.LoadsAndStores

/-! The marks of AQCANCEL (R327). -/

/-- A page whose triple is not formed is marked. -/
def cancelPage (p : QPage) : QPage := if p.st < 2 then { p with cxl := true } else p

/-- The query of an identity, of a thread, has its pages marked. -/
def cancelQuery (t : Tid) (x : Word) (q : Query) : Query :=
  if q.t = t ∧ q.slot = bits x 1 0 ∧ q.seq = bits x 15 2 ∧ bits x 31 16 = 0 then { q with pages := q.pages.map cancelPage } else q

theorem cancelPage_eq (p : QPage) : cancelPage p = { p with cxl := p.cxl || decide (p.st < 2) } := by
  unfold cancelPage
  split
  case isTrue hopen => rw [decide_eq_true hopen, Bool.or_true]
  case isFalse hformed => rw [decide_eq_false hformed, Bool.or_false]

/-- The identity names one query: its slot, its sequence, and no other bit (R326). -/
theorem names_query (x : Word) (slot seq : Nat) :
    (slot = bits x 1 0 ∧ seq = bits x 15 2 ∧ bits x 31 16 = 0) ↔ (slot = x.toNat % 4 ∧ x.toNat / 4 = seq ∧ x.toNat < 2 ^ 16) := by
  have hx := x.isLt
  simp only [bits, bitsN]
  omega

theorem cancelQuery_named {t : Tid} {x : Word} {q : Query} (hq : q.t = t ∧ q.slot = x.toNat % 4 ∧ x.toNat / 4 = q.seq ∧ x.toNat < 2 ^ 16) :
    cancelQuery t x q = { q with pages := q.pages.map (fun p => { p with cxl := p.cxl || decide (p.st < 2) }) } := by
  rw [cancelQuery, if_pos ⟨hq.1, (names_query ..).mpr hq.2⟩, funext cancelPage_eq]

theorem cancelQuery_other {t : Tid} {x : Word} {q : Query} (hq : ¬ (q.t = t ∧ q.slot = x.toNat % 4 ∧ x.toNat / 4 = q.seq ∧ x.toNat < 2 ^ 16)) :
    cancelQuery t x q = q :=
  if_neg fun ⟨ht, hname⟩ => hq ⟨ht, (names_query ..).mp hname⟩

section
variable {s : State} {c : Ctx} (hx : Executes s c) (h : Bool) {d a : BitVec 7} (htask : c.g.task = none)
include hx htask

/-! The posts. -/

section
variable {p : DWord} (ha : Reads64 c a p) (htag : addrTag p = 0 ∨ addrTag p = 1) (hcheck : accessCheck s c p 64 1 = none)
include ha htag hcheck

theorem exec_clroute_waits (hcap : c.l.has 10 = true) {l : BitVec 3} (hlevel : l ≤ 5) (n : BitVec 4) :
    exec (.clroute h a l n) s = .next (waiting s.nextId (marked s c) c h (.post 2 p (n.toNat + 16 * l.toNat) .none [])) := by
  rw [Reads64] at ha
  have hplace : tag01 p = true := by simpa [tag01] using htag
  have hlow : l.toNat ≤ 5 := BitVec.le_def.mp hlevel
  rw [exec_clroute]
  refine issueWith_ok hx h (i := .wait (marked s c) (.post 2 p (n.toNat + 16 * l.toNat) .none [])) ?_
  simp only [ha, needCap, hcap, require_true, versionCheck_untasked htask, hplace, hcheck, checkThat_none, decide_eq_true hlow,
    res_ok_bind]
  rfl

section
variable {dst : Dst} (hd : dest c 1 d = .ok dst) (huni : dst.isUni = false)
include hd huni

theorem exec_aqpost_waits (hcap : c.l.has 7 = true) :
    exec (.aqpost h d a) s = .next (waiting s.nextId (marked s c) c h (.post 0 p 0 dst [])) := by
  rw [Reads64] at ha
  have hplace : tag01 p = true := by simpa [tag01] using htag
  rw [exec_aqpost]
  refine issueWith_ok hx h (i := .wait (marked s c) (.post 0 p 0 dst [])) ?_
  simp only [hd, ha, huni, Bool.not_false, needCap, hcap, require_true, versionCheck_untasked htask, hplace, hcheck, checkThat_none, res_ok_bind]
  rfl

theorem exec_clpost_waits (hcap : c.l.has 10 = true) :
    exec (.clpost h d a) s = .next (waiting s.nextId (marked s c) c h (.post 1 p 0 dst [])) := by
  rw [Reads64] at ha
  have hplace : tag01 p = true := by simpa [tag01] using htag
  rw [exec_clpost]
  refine issueWith_ok hx h (i := .wait (marked s c) (.post 1 p 0 dst [])) ?_
  simp only [hd, ha, huni, Bool.not_false, needCap, hcap, require_true, versionCheck_untasked htask, hplace, hcheck, checkThat_none, res_ok_bind]
  rfl

end
end

/-! The waits and the statuses. -/

section
variable {x : Word} (ha : Reads c a x)
include ha

theorem exec_aqcancel_marks (hcap : c.l.has 7 = true) :
    exec (.aqcancel h a) s = .next (past { s with queries := s.queries.map (cancelQuery c.t x) } c.t h) := by
  rw [Reads] at ha
  rw [exec_aqcancel]
  refine issueWith_ok hx h (i := .done { s with queries := s.queries.map (cancelQuery c.t x) }) ?_
  simp only [ha, needCap, hcap, require_true, versionCheck_untasked htask, res_ok_bind]
  rfl

variable {dst : Dst} (hd : dest c 1 d = .ok dst) (huni : dst.isUni = false)
include hd huni

theorem exec_aqwait_waits (hcap : c.l.has 7 = true) :
    exec (.aqwait h d a) s = .next (past (addPend s c.t c.th.pc dst (.aqwait x.toNat) 0 none .sent) c.t h) := by
  rw [Reads] at ha
  rw [exec_aqwait]
  refine issueWith_ok hx h (i := .done (addPend s c.t c.th.pc dst (.aqwait x.toNat) 0 none .sent)) ?_
  simp only [hd, ha, huni, Bool.not_false, needCap, hcap, require_true, versionCheck_untasked htask, res_ok_bind]

theorem exec_aqstat_reads (hcap : c.l.has 7 = true) :
    exec (.aqstat h d a) s = .next (retired s (c.write dst [queryStatus s c.t c.g c.th x]) h) := by
  rw [Reads] at ha
  rw [exec_aqstat, retired, write_t]
  refine issueWith_ok hx h (i := .done (putCtx s (c.write dst [queryStatus s c.t c.g c.th x]))) ?_
  simp only [hd, ha, huni, Bool.not_false, needCap, hcap, require_true, versionCheck_untasked htask, res_ok_bind]

theorem exec_clwait_waits (hcap : c.l.has 10 = true) : exec (.clwait h d a) s = .next (waiting s.nextId s c h (.clwait x dst)) := by
  rw [Reads] at ha
  rw [exec_clwait]
  refine issueWith_ok hx h (i := .wait s (.clwait x dst)) ?_
  simp only [hd, ha, huni, Bool.not_false, needCap, hcap, require_true, versionCheck_untasked htask, res_ok_bind]

theorem exec_clstat_reads (hcap : c.l.has 10 = true) :
    exec (.clstat h d a) s = .next (retired s (c.write dst [collStatus s c.g c.th x]) h) := by
  rw [Reads] at ha
  rw [exec_clstat, retired, write_t]
  refine issueWith_ok hx h (i := .done (putCtx s (c.write dst [collStatus s c.g c.th x]))) ?_
  simp only [hd, ha, huni, Bool.not_false, needCap, hcap, require_true, versionCheck_untasked htask, res_ok_bind]

end
end

/-- Settles O37: the posts, then the words of an identity. -/
theorem queryAndCollectiveWords : Obligations.QueryAndCollectiveWords := by
  intro s c h d a dst hx hd huni htask
  refine ⟨fun p ha htag hcheck => ⟨exec_aqpost_waits hx h htask ha htag hcheck hd huni, exec_clpost_waits hx h htask ha htag hcheck hd huni,
      fun l n hcap hlevel => exec_clroute_waits hx h htask ha htag hcheck hcap hlevel n⟩,
    fun x ha => ⟨fun hcap => ⟨exec_aqwait_waits hx h htask ha hd huni hcap, exec_aqstat_reads hx h htask ha hd huni hcap, ?cancel⟩,
      fun hcap => ⟨exec_clwait_waits hx h htask ha hd huni hcap, exec_clstat_reads hx h htask ha hd huni hcap⟩⟩⟩
  case cancel => exact ⟨cancelQuery c.t x, exec_aqcancel_marks hx h htask ha hcap, fun q => ⟨cancelQuery_named, cancelQuery_other⟩⟩

end Sys2Proof.QueryWords
end

section
/-! NDRAIN, NGEN and NPATH (O38): the waits and the words that they deliver (R402), and the trap of a uniform destination (R401). -/
namespace Sys2Proof.NetWords
open Sys2Proof.Machine Sys2Proof.Safety Sys2Proof.Claims Sys2Proof.Laws

/-! The word of NPATH (R402). -/

theorem nextSlot_lt {s : State} (hslots : calSlots s ≤ 64) (q : Nat) : nextSlot s q < 2 ^ 16 := by
  simp only [nextSlot]
  cases hfind : List.find? _ _ with
  | none => exact (by decide : (0x7F : Nat) < 2 ^ 16)
  | some k =>
    obtain ⟨i, hi, rfl⟩ := List.mem_map.mp (List.mem_of_find?_eq_some hfind)
    rw [List.mem_range] at hi
    exact (Nat.mod_lt _ (Nat.zero_lt_of_lt hi)).trans (by omega)

/-- The fields of the word: reachability, the number of direct entries, the next slot. -/
theorem pathWord_fields {s : State} (hslots : calSlots s ≤ 64) (q : Nat) :
    (pathWord s q).getLsbD 31 = reachable s q ∧ (pathWord s q).toNat / 2 ^ 16 % 2 ^ 15 = min (directSlots s q).length 255 ∧
      (pathWord s q).toNat % 2 ^ 16 = nextSlot s q := by
  have hnext := nextSlot_lt hslots q
  have hcount : min (directSlots s q).length 255 ≤ 255 := Nat.min_le_right ..
  rw [BitVec.getLsbD, pathWord, BitVec.toNat_ofNat, Nat.testBit_eq_decide_div_mod_eq]
  generalize nextSlot s q = next at *
  generalize min (directSlots s q).length 255 = count at *
  cases reachable s q <;> simp <;> omega

section
variable {s : State} {c : Ctx} (hx : Executes s c) (h : Bool) {d : BitVec 7} {dst : Dst} (hd : dest c 1 d = .ok dst)
include hx hd

section
variable (huni : dst.isUni = false)
include huni

theorem exec_ndrain_waits : exec (.ndrain h d) s = .next (waiting s.nextId s c h (.ndrain s.nextId dst)) := by
  rw [exec_ndrain]
  refine issueWith_ok hx h (i := .wait s (.ndrain s.nextId dst)) ?_
  simp only [vecDest, hd, huni, Bool.not_false, require_true, res_ok_bind]

section
variable {a : BitVec 7} {x : Word} (ha : Reads c a x)
include ha

theorem exec_ngen_waits : exec (.ngen h d a true) s = .next (waiting s.nextId s c h (.ngen x dst)) := by
  rw [exec_ngen]
  rw [Reads] at ha
  refine issueWith_ok hx h (i := .wait s (.ngen x dst)) ?_
  simp only [hd, ha, huni, Bool.not_false, require_true, res_ok_bind, if_true]

theorem exec_ngen_reads : exec (.ngen h d a false) s = .next (retired s (c.write dst [lowestOpen s]) h) := by
  rw [exec_ngen, retired, write_t]
  rw [Reads] at ha
  refine issueWith_ok hx h (i := .done (putCtx s (c.write dst [lowestOpen s]))) ?_
  simp only [hd, ha, huni, Bool.not_false, require_true, res_ok_bind, Bool.false_eq_true, if_false]

theorem exec_npath_reads : exec (.npath h d a) s = .next (retired s (c.write dst [pathWord s (x.toNat % 1024)]) h) := by
  rw [exec_npath, retired, write_t]
  rw [Reads] at ha
  have hfield : bits x 9 0 = x.toNat % 1024 := by simp [bits, bitsN]
  refine issueWith_ok hx h (i := .done (putCtx s (c.write dst [pathWord s (x.toNat % 1024)]))) ?_
  simp only [hd, ha, huni, Bool.not_false, require_true, res_ok_bind, hfield]

end
end

/-- A uniform destination is illegal in each of the words (R401). -/
theorem uniform_traps (huni : dst.isUni = true) {a : BitVec 7} {x : Word} (ha : Reads c a x) :
    ∀ i ∈ ([.ndrain h d, .ngen h d a true, .ngen h d a false, .npath h d a] : List Instr),
      exec i s = .next (trapNow s c.t c.illegal c.th.blk) := by
  rw [Reads] at ha
  have hillegal : require (!dst.isUni) c.illegal = .error c.illegal := require_error (by rw [huni]; rfl) _
  simp only [List.forall_mem_cons, List.not_mem_nil, false_imp_iff, implies_true, and_true]
  refine ⟨(exec_ndrain h d s).trans (issueWith_trap hx h ?_), (exec_ngen h d a true s).trans (issueWith_trap hx h ?_),
    (exec_ngen h d a false s).trans (issueWith_trap hx h ?_), (exec_npath h d a s).trans (issueWith_trap hx h ?_)⟩
  · simp only [vecDest, hd, hillegal, res_ok_bind, res_error_bind]
  all_goals simp only [hd, ha, hillegal, res_ok_bind, res_error_bind]

end

/-- Settles O38: each word by its destination; NPATH's word by its fields. -/
theorem netWords : Obligations.NetWords := by
  intro s c h d a dst x hx hd ha
  refine ⟨fun huni => ⟨exec_ndrain_waits hx h hd huni, exec_ngen_waits hx h hd huni ha, exec_ngen_reads hx h hd huni ha, fun hslots => ?npath⟩,
    fun huni => uniform_traps hx h hd huni ha⟩
  case npath =>
    obtain ⟨hreach, hcount, hnext⟩ := pathWord_fields hslots (x.toNat % 1024)
    exact ⟨pathWord s (x.toNat % 1024), hreach, hcount, hnext, exec_npath_reads hx h hd huni ha⟩

end Sys2Proof.NetWords
end

section
/-! Traps and returns from them (O43): the handler is entered with its hidden state (R333-R335), or the launch ends (R334); a return goes on where
TS says (R36, R67). -/
namespace Sys2Proof.Traps
open Sys2Proof.Machine Sys2Proof.Claims Sys2Proof.Laws Sys2Proof.PerformedWrites

/-! A thread's own change, seen from its launch and group. -/

theorem group_gid_of_ofThread {s : State} {t : Tid} {l : Launch} {g : Group} (hof : s.ofThread t = some (l, g)) :
    s.group? t.gid = some g ∧ s.launch? g.launch = some l ∧ g.gid = t.gid := by
  unfold State.ofThread at hof
  cases hg : s.group? t.gid with
  | none => simp [hg] at hof
  | some h =>
    simp only [hg, Option.map_eq_some_iff, Prod.mk.injEq] at hof
    obtain ⟨_, hl, rfl, rfl⟩ := hof
    exact ⟨rfl, hl, by simpa using List.find?_some hg⟩

theorem ofThread_modThread {s : State} {t : Tid} {l : Launch} {g : Group} (hof : s.ofThread t = some (l, g)) (f : Thread → Thread) :
    (s.modThread t f).ofThread t = some (l, { g with threads := g.threads.modify t.lane f }) := by
  obtain ⟨hg, hl, hgid⟩ := group_gid_of_ofThread hof
  have hgroup : (s.modThread t f).group? t.gid = some { g with threads := g.threads.modify t.lane f } := by
    rw [State.modThread, group?_modGroup s t.gid t.gid (fun g => { g with threads := g.threads.modify t.lane f }) (fun _ => rfl), hg, Option.map_some,
      if_pos hgid]
  rw [State.ofThread, hgroup]
  exact congrArg (Option.map fun l => (l, { g with threads := g.threads.modify t.lane f })) hl

theorem inVersion_modThread (s : State) (t : Tid) (f : Thread → Thread) : inVersion (s.modThread t f) t = inVersion s t := by
  rw [inVersion, inVersion, State.modThread, group?_modGroup s t.gid t.gid (fun g => { g with threads := g.threads.modify t.lane f }) (fun _ => rfl)]
  cases s.group? t.gid with
  | none => rfl
  | some g => by_cases hg : g.gid = t.gid <;> simp [hg]

/-! Entering the handler (R333). -/

/-- The thread that has taken a trap whose handler it has not entered yet. -/
def trapped (r : TrapRec) (blk : List Bool) (th : Thread) : Thread :=
  { th with drain := some (.trap r blk), wait := none, hz := false, fetched := none, fetchFrom := none,
            refused := ((th.wait.map (fun w => w.rest)).getD []).foldl insertRefused th.refused }

/-- What a trap taken at once keeps of its thread (R333, R335). -/
def keptAtOnce (s : State) (l : Launch) (g : Group) (th : Thread) (r : TrapRec) (blk : List Bool) : Ts :=
  { blk := blk, resume := r.pc, horizon := false, toTask := false, refused := th.kept l g, hz := false, upto := s.nextId }

section
variable {s : State} {t : Tid} {l : Launch} {g : Group} {th : Thread} (hof : s.ofThread t = some (l, g)) (hth : s.thread? t = some th)
include hof hth

theorem enterTrap_handler (r : TrapRec) {ts : Ts} (hhandler : l.hdr.handler ≠ 0) (hin : th.inHandler = false) (hexit : th.exited = false)
    (hver : inVersion s t = false) (hredo : th.redo = false) (htask : ts.toTask = false) :
    enterTrap s t r ts = s.modThread t (fun th => th.atHandler r ts l.hdr.handler) := by
  have hgo : ¬ (l.hdr.handler = 0 ∨ th.inHandler = true ∨ th.exited = true) := by
    rw [hin, hexit]
    exact fun hend => hend.elim hhandler (fun h => h.elim Bool.false_ne_true Bool.false_ne_true)
  simp only [enterTrap, hof, hth, if_neg hgo, hver, hredo, htask, Bool.or_self, Bool.false_eq_true, if_false]
  congr 1
  funext th
  cases ts
  cases htask
  rfl

theorem trapNow_handler (r : TrapRec) (blk : List Bool) (hhandler : l.hdr.handler ≠ 0) (hin : th.inHandler = false) (hexit : th.exited = false)
    (hwait : th.wait = none) (hver : inVersion s t = false) (hredo : th.redo = false) (hdeliver : th.infl.all (fun p => !p.op.delivers) = true) :
    trapNow s t r blk = (s.modThread t (trapped r blk)).modThread t (fun x => x.atHandler r (keptAtOnce s l g th r blk) l.hdr.handler) := by
  have hof1 := ofThread_modThread hof (trapped r blk)
  have hth1 : (s.modThread t (trapped r blk)).thread? t = some (trapped r blk th) := by rw [thread?_modThread, hth, Option.map_some]
  have hdrained : (trapped r blk th).drained l { g with threads := g.threads.modify t.lane (trapped r blk) } = true :=
    List.all_eq_true.mpr fun p hp => Bool.or_eq_true_iff.mpr (.inr (List.all_eq_true.mp hdeliver p hp))
  have hkept : (trapped r blk th).kept l { g with threads := g.threads.modify t.lane (trapped r blk) } = th.kept l g := by
    have hcut : trapped r blk th = { th with drain := some (.trap r blk), wait := none, hz := false, fetched := none, fetchFrom := none } := by
      rw [trapped, hwait]
      rfl
    rw [hcut]
    rfl
  have hnow : trapNow s t r blk = enterAtOnce (s.modThread t (trapped r blk)) t r blk := by
    change (match (s.modThread t (trapped r blk)).ofThread t, (s.modThread t (trapped r blk)).thread? t with
      | some (l, g), some th => if th.drained l g then enterAtOnce (s.modThread t (trapped r blk)) t r blk else s.modThread t (trapped r blk)
      | _, _ => s.modThread t (trapped r blk)) = _
    simp only [hof1, hth1, hdrained, if_true]
  simp only [hnow, enterAtOnce, hof1, hth1, hkept]
  exact enterTrap_handler hof1 hth1 r hhandler hin hexit ((inVersion_modThread ..).trans hver) hredo rfl

end

/-! Without a handler the launch ends (R334), and its record is posted. -/

/-- One more record: the ring stays, or an error of the translation is counted, or the record is written and the rest follow. -/
theorem pumpRing_succ (s : State) (die fuel : Nat) : (∃ errs, pumpRing s die (fuel + 1) = { s with errs := errs }) ∨
    ∃ key bs frecs dies, pumpRing s die (fuel + 1) = pumpRing { pocWrite s none key bs with frecs := frecs, dies := dies } die fuel := by
  rw [pumpRing]
  split
  case h_2 => exact .inl ⟨s.errs, rfl⟩
  case h_1 d r _ _ =>
    dsimp only
    generalize (if d.fqSize.toNat = 0 then 0 else (d.fqTail.toNat + 1) % d.fqSize.toNat) = next
    split
    · exact .inl ⟨s.errs, rfl⟩
    · split
      · exact .inl (HostCommands.countAddr_eq ..)
      · exact .inr ⟨_, _, _, _, rfl⟩

theorem pumpRing_launches (s : State) (die fuel : Nat) : (pumpRing s die fuel).launches = s.launches := by
  induction fuel generalizing s with
  | zero => rfl
  | succ fuel ih =>
    obtain ⟨errs, he⟩ | ⟨key, bs, frecs, dies, he⟩ := pumpRing_succ s die fuel
    · rw [he]
    · exact (congrArg State.launches he).trans (ih _)

theorem pumpRing_thread? (s : State) (die fuel : Nat) (u : Tid) : (pumpRing s die fuel).thread? u = s.thread? u := by
  induction fuel generalizing s with
  | zero => rfl
  | succ fuel ih =>
    obtain ⟨errs, he⟩ | ⟨key, bs, frecs, dies, he⟩ := pumpRing_succ s die fuel
    · rw [he]
      rfl
    · rw [he, ih]
      exact thread?_pocWrite s none key bs u

theorem enterTrap_aborts {s : State} {t : Tid} {l : Launch} {g : Group} {th : Thread} (hof : s.ofThread t = some (l, g)) (hth : s.thread? t = some th)
    (r : TrapRec) (ts : Ts) (hend : l.hdr.handler = 0 ∨ th.inHandler = true ∨ th.exited = true) :
    ∃ s1 : State, s1.launches = s.launches ∧ (∀ u, s1.thread? u = s.thread? u) ∧ enterTrap s t r ts = abortLaunch s1 l.ref := by
  refine ⟨(postRec s g.die r.addr r.pc l.ref.id (placeWord l.asid g.die (some g) r.cause) (BitVec.ofNat 32 (2 ^ t.lane)) 6
    (if r.cause = notPresent then r.detail else 0) .nothing false).2, pumpRing_launches .., fun u => pumpRing_thread? .., ?_⟩
  simp only [enterTrap, hof, hth, if_pos hend]

/-! Returning (R36, R67). -/

/-- The thread as it leaves its handler. -/
def outOfHandler (pc : DWord) (blk : List Bool) (th : Thread) : Thread :=
  { th with inHandler := false, drain := none, hz := false, ts := Ts.empty, pc := pc, blk := blk }

theorem leaveTrap_eq {s : State} {t : Tid} {th : Thread} (hth : s.thread? t = some th) (htask : th.ts.toTask = false) (hkept : th.ts.refused = [])
    (mode : Nat) :
    leaveTrap s t mode = s.modThread t (if th.ts.horizon = true ∨ mode = 0 then outOfHandler th.ts.resume th.ts.blk
      else outOfHandler (th.ts.resume + 4) (th.ts.blk.drop 1)) := by
  have hagain : th.ts.again mode = [] := by rw [Ts.again, hkept, List.filter_nil, ite_self]
  cases hh : th.ts.horizon with
  | true =>
    simp only [leaveTrap, hth, htask, hh, hagain, Bool.false_eq_true, if_false, if_true, performAgain, true_or]
    rfl
  | false =>
    simp only [leaveTrap, hth, htask, hh, hagain, Bool.false_eq_true, if_false, performAgain, false_or]
    by_cases hm : mode = 0 <;> simp only [hm, if_true, if_false] <;> rfl

/-- Settles O43. The state after each is a change of the one thread, whose fields are read off. -/
theorem trapsEnterAndReturn : Obligations.TrapsEnterAndReturn := by
  unfold Obligations.TrapsEnterAndReturn
  refine ⟨fun s t l g th r blk hof hth hhandler hin hexit hwait hver hredo hdeliver => ?_,
    fun s t l g th r ts hof hth hend => enterTrap_aborts hof hth r ts hend, fun s t th mode hth htask hkept hmode => ?_⟩
  · have hth' : (trapNow s t r blk).thread? t = some ((trapped r blk th).atHandler r (keptAtOnce s l g th r blk) l.hdr.handler) := by
      rw [trapNow_handler hof hth r blk hhandler hin hexit hwait hver hredo hdeliver, thread?_modThread, thread?_modThread, hth, Option.map_some,
        Option.map_some]
    refine ⟨_, hth', rfl, rfl, rfl, rfl, rfl, rfl, rfl, rfl, rfl, rfl, rfl, rfl, rfl, rfl, rfl, rfl, rfl, rfl, rfl, rfl, ?_⟩
    rw [trapNow_handler hof hth r blk hhandler hin hexit hwait hver hredo hdeliver]
    exact ⟨rfl, rfl, fun u hu => by rw [thread?_modThread_other _ _ _ _ hu, thread?_modThread_other _ _ _ _ hu]⟩
  · rw [leaveTrap_eq hth htask hkept, thread?_modThread, hth, Option.map_some]
    by_cases hback : th.ts.horizon = true ∨ mode = 0
    · simp only [if_pos hback]
      exact ⟨_, rfl, rfl, rfl, rfl, rfl, rfl, rfl, rfl, fun _ => ⟨rfl, rfl⟩, fun _ _ => ⟨rfl, rfl⟩, fun hz hm => by simp [hz, hm] at hback⟩
    · simp only [if_neg hback]
      exact ⟨_, rfl, rfl, rfl, rfl, rfl, rfl, rfl, rfl, fun hz => absurd (.inl hz) hback, fun _ hm => absurd (.inr hm) hback, fun _ _ => ⟨rfl, rfl⟩⟩

end Sys2Proof.Traps
end

section
/-! The steps that serve waiting threads (O44): a tile for a TALLOC and a spent tile's return (R277, R278, R281), the starvation trap of the pool
(R285), and the delivery of a task to a group (R290, R292). -/
namespace Sys2Proof.Pools
open Sys2Proof.Machine Sys2Proof.Safety Sys2Proof.Claims Sys2Proof.Laws Sys2Proof.PerformedWrites

/-! The pointer of a granted tile (R277, R281). -/

theorem tilePtr_fields {hd : Nat} (hfits : hd < 2 ^ 32) : addrTag (BitVec.ofNat 64 (5 * 2 ^ 60 + hd * 2 ^ 24)) = 5 ∧
    localOff (BitVec.ofNat 64 (5 * 2 ^ 60 + hd * 2 ^ 24)) = 0 ∧ addrHandle (BitVec.ofNat 64 (5 * 2 ^ 60 + hd * 2 ^ 24)) = hd := by
  have hnat : (5 * 2 ^ 60 + hd * 2 ^ 24) % 2 ^ 64 = 5 * 2 ^ 60 + hd * 2 ^ 24 := by omega
  have htag : addrTag (BitVec.ofNat 64 (5 * 2 ^ 60 + hd * 2 ^ 24)) = 5 := by
    rw [addrTag, bits, bitsN, BitVec.toNat_ofNat, hnat]
    omega
  refine ⟨htag, ?_, ?_⟩
  · rw [localOff, htag, if_neg (by decide), addrTileOff, bits, bitsN, BitVec.toNat_ofNat, hnat]
    omega
  · rw [addrHandle, bits, bitsN, BitVec.toNat_ofNat, hnat]
    omega

theorem handle_fits {rank slot gen cls part : Nat} (hrank : rank < 8) (hslot : slot < 256) (hgen : gen < 4096) (hcls : cls < 4) (hpart : part < 128) :
    rank * 2 ^ 29 + slot * 2 ^ 21 + gen * 2 ^ 9 + cls * 2 ^ 7 + part < 2 ^ 32 := by omega

theorem handle_fields {rank slot gen cls part : Nat} (hrank : rank < 8) (hslot : slot < 256) (hgen : gen < 4096) (hcls : cls < 4) (hpart : part < 128) :
    let hd := rank * 2 ^ 29 + slot * 2 ^ 21 + gen * 2 ^ 9 + cls * 2 ^ 7 + part
    hRank hd = rank ∧ hSlot hd = slot ∧ hGen hd = gen ∧ hClass hd = cls ∧ hPart hd = part := by
  refine ⟨?_, ?_, ?_, ?_, ?_⟩
  · rw [hRank, bitsN]; omega
  · rw [hSlot, bitsN]; omega
  · rw [hGen, bitsN]; omega
  · rw [hClass, bitsN]; omega
  · rw [hPart, bitsN]; omega

/-! Its lines and its bytes (R278). -/

theorem classSize_lines (cls : Nat) : classSize cls = classSize cls / 128 * 128 := by
  unfold classSize
  split <;> rfl

theorem find?_setLines {line : Nat} (ls : List (Nat × Nat)) (key n : Nat) (hlo : key / 128 ≤ line) (hhi : line < key / 128 + n) :
    (setLines ls key 1 n).find? (fun x => x.1 == line) = some (line, 1) := by
  induction n generalizing ls with
  | zero => omega
  | succ n ih =>
    rw [setLines]
    by_cases hlast : line < key / 128 + n
    · exact ih _ hlast
    · have hline : line = key / 128 + n := by omega
      have keeps : ∀ (m : Nat) (ls : List (Nat × Nat)), m ≤ n → ls.find? (fun x => x.1 == line) = some (line, 1) →
          (setLines ls key 1 m).find? (fun x => x.1 == line) = some (line, 1) := by
        intro m
        induction m with
        | zero => exact fun ls _ h => h
        | succ m ihm =>
          intro ls hm h
          refine ihm _ (by omega) ?_
          have hne : key / 128 + m ≠ line := by omega
          rw [setLine, if_neg (by decide), List.find?_cons_of_neg (by simpa using hne), List.find?_filter]
          refine Eq.trans (congrArg (fun p => ls.find? p) (funext fun x => ?_)) h
          by_cases hx : x.1 = line
          · simp [hx, hne.symm]
          · simp [hx]
      refine keeps n _ (Nat.le_refl n) ?_
      rw [hline, setLine, if_neg (by decide), List.find?_cons_of_pos (by simp)]

theorem lineState_setLines {s : State} {ls : List (Nat × Nat)} {key n a : Nat} (hlines : s.lines = setLines ls key 1 (n / 128)) (hkey : key % 128 = 0)
    (hn : n = n / 128 * 128) (hlo : key ≤ a) (hhi : a < key + n) : lineState s a = 1 := by
  rw [lineState, hlines, find?_setLines ls key (n / 128) (by omega) (by omega)]

theorem tileKey_line (core slot : Nat) : tileKey core slot 0 % 128 = 0 := by
  rw [tileKey]
  omega

theorem freeBytes_length (from_ n : Nat) : (freeBytes from_ n).length = n := by rw [freeBytes, List.length_map, List.length_range]

/-! The grant (R276, R281). -/

section
variable {s : State} {t : Tid} {l : Launch} {g : Group} {p : Pend} {part count ord rank slot : Nat} (hof : s.ofThread t = some (l, g))
  (hp : s.pend? t p.id = some p)
include hof hp

theorem exec_tallocGrant_grants (hop : p.op = .talloc part count ord) (hbound : p.bound = false) (hres : g.resident = true) (hrank : rank < 8)
    (hslot : slot < 256) (hfree : ∀ x, s.tile? (coreCluster g.core * 8 + rank) slot = some x → x.live = false)
    (hroom : liveTiles s l.ref (coreCluster g.core) part < partCount l part) (hplace : placeFree s l (coreCluster g.core) part rank = true)
    (hfirst : ∀ o ∈ tallocWaiting s l.ref (coreCluster g.core) part, ord ≤ o) :
    exec (.tallocGrant t p.id rank slot) s = .next (grantTile s t p.id l g part count rank slot) := by
  have hslotFree : (match s.tile? (coreCluster g.core * 8 + rank) slot with
      | some x => !x.live
      | none => true) = true := by
    cases hx : s.tile? (coreCluster g.core * 8 + rank) slot with
    | none => rfl
    | some x => simp only [hfree x hx, Bool.not_false]
  have hnobody : (tallocWaiting s l.ref (coreCluster g.core) part).any (fun o => decide (o < ord)) = false :=
    List.any_eq_false.mpr fun o ho => by simpa using hfirst o ho
  change execTallocGrant t p.id rank slot s = _
  simp only [execTallocGrant, hof, hp, hop]
  rw [if_neg]
  simp only [hbound, hres, hplace, hnobody, not_or, Bool.false_eq_true, Bool.true_eq_false, not_false_eq_true, and_true, true_and]
  exact ⟨Nat.not_le.mpr hrank, Nat.not_le.mpr hslot, fun h => Bool.false_ne_true (h.symm.trans hslotFree), Nat.not_le.mpr hroom⟩

end

/-- The tile that a grant makes. -/
def grantedTile (l : Launch) (g : Group) (part count rank slot gen : Nat) : Tile :=
  { core := coreCluster g.core * 8 + rank, slot := slot, gen := gen, live := true, spent := false, part := part, cls := partClass l part, count := count,
    owner := l.ref, team := g.team }

/-- Its pointer. -/
def grantedPtr (rank slot gen cls part : Nat) : DWord :=
  BitVec.ofNat 64 (5 * 2 ^ 60 + (rank * 2 ^ 29 + slot * 2 ^ 21 + gen * 2 ^ 9 + cls * 2 ^ 7 + part) * 2 ^ 24)

/-- The state in which a tile of a generation stands, its lines EMPTY. -/
def withTile (s : State) (l : Launch) (g : Group) (part count rank slot gen : Nat) : State :=
  let core := coreCluster g.core * 8 + rank
  let n := classSize (partClass l part)
  { s with tiles := grantedTile l g part count rank slot gen :: s.tiles.filter (fun x => !(x.core == core && x.slot == slot)),
           mem := memWrite s.mem (freeBytes s.freeCtr n) (tileKey core slot 0), freeCtr := s.freeCtr + n,
           lines := setLines s.lines (tileKey core slot 0) 1 (n / 128) }

theorem grantTile_eq {s : State} {g : Group} {rank slot gen : Nat}
    (hgen : gen = ((s.tile? (coreCluster g.core * 8 + rank) slot).map (fun x => x.gen)).getD 0) (t : Tid) (id : Nat) (l : Launch) (part count : Nat) :
    grantTile s t id l g part count rank slot = (withTile s l g part count rank slot gen).modPend t id (fun p =>
      { p with st := .ready [some (loWord (grantedPtr rank slot gen (partClass l part) part)),
                             some (hiWord (grantedPtr rank slot gen (partClass l part) part))] }) := by
  subst hgen
  cases hx : s.tile? (coreCluster g.core * 8 + rank) slot with
  | none =>
    simp only [grantTile, hx]
    rfl
  | some x =>
    simp only [grantTile, hx]
    rfl

/-- What the grant writes: the tile, its pointer, its EMPTY lines and its bytes. -/
theorem grantTile_writes {s : State} {t : Tid} {l : Launch} {g : Group} {p : Pend} {part count rank slot gen : Nat} (hp : s.pend? t p.id = some p)
    (hrank : rank < 8) (hslot : slot < 256) (hpart : part < 128) (hgen : gen < 4096) (hcls : partClass l part < 4) (hwf : Memory.wf s.mem = true)
    (hthis : gen = ((s.tile? (coreCluster g.core * 8 + rank) slot).map (fun x => x.gen)).getD 0) :
    let core := coreCluster g.core * 8 + rank
    let key := tileKey core slot 0
    let n := classSize (partClass l part)
    let s' := grantTile s t p.id l g part count rank slot
    ∃ ptr : DWord, addrTag ptr = 5 ∧ localOff ptr = 0 ∧ hCore g.core (addrHandle ptr) = core ∧ hSlot (addrHandle ptr) = slot ∧
      hGen (addrHandle ptr) = gen ∧ hClass (addrHandle ptr) = partClass l part ∧ hPart (addrHandle ptr) = part ∧
      s'.pend? t p.id = some { p with st := .ready [some (loWord ptr), some (hiWord ptr)] } ∧
      s'.tile? core slot = some { core := core, slot := slot, gen := gen, live := true, spent := false, part := part, cls := partClass l part,
                                  count := count, owner := l.ref, team := g.team } ∧
      (∀ a, key ≤ a → a < key + n → lineState s' a = 1) ∧ (∀ a, a < key ∨ key + n ≤ a → memByte s'.mem a = memByte s.mem a) ∧
      s'.launches = s.launches ∧ ∀ u, u ≠ t → s'.thread? u = s.thread? u := by
  intro core key n s'
  have hs' : s' = _ := grantTile_eq hthis t p.id l part count
  obtain ⟨htag, hoff, hhandle⟩ := tilePtr_fields (handle_fits hrank hslot hgen hcls hpart)
  obtain ⟨fRank, fSlot, fGen, fClass, fPart⟩ := handle_fields hrank hslot hgen hcls hpart
  refine ⟨grantedPtr rank slot gen (partClass l part) part, htag, hoff, (congrArg (hCore g.core) hhandle).trans (by rw [hCore, fRank]),
    (congrArg hSlot hhandle).trans fSlot, (congrArg hGen hhandle).trans fGen, (congrArg hClass hhandle).trans fClass,
    (congrArg hPart hhandle).trans fPart, ?pend, ?tile, ?lines, ?bytes, ?launches, ?others⟩
  case pend =>
    have hp' : (withTile s l g part count rank slot gen).pend? t p.id = some p := hp
    rw [hs']
    refine (pend?_modPend _ t p.id ?_).trans (congrArg _ hp')
    exact fun _ => rfl
  case tile =>
    rw [hs', State.tile?]
    exact List.find?_cons_of_pos (by simp [grantedTile, core])
  case lines => exact fun a hlo hhi => lineState_setLines (by rw [hs']; rfl) (tileKey_line core slot) (classSize_lines _) hlo hhi
  case bytes =>
    intro a ha
    rw [hs']
    have hout : ¬ (key ≤ a ∧ a < key + n) := by omega
    refine (memByte_memWrite hwf _ _ _).trans (if_neg ?_)
    rwa [freeBytes_length]
  case launches => rw [hs']; rfl
  case others => exact fun u hu => by rw [hs', State.modPend, thread?_modThread_other _ _ _ _ hu]; rfl

/-! The return of a spent tile (R278). -/

/-- The state with a tile of a slot freed. -/
def withFreed (s : State) (core slot : Nat) (x : Tile) : State :=
  let line0 := tileKey core slot 0 / 128
  { s with tiles := x.free :: s.tiles.filter (fun y => !(y.core == core && y.slot == slot)),
           lines := s.lines.filter (fun y => !(decide (line0 ≤ y.1) && decide (y.1 < line0 + 512))) }

section
variable {s : State} {cluster rank slot : Nat} {x : Tile} (hx : s.tile? (cluster * 8 + rank) slot = some x)
include hx

theorem exec_tileFree_frees (hrank : rank < 8) (hlive : x.live = true) (hspent : x.spent = true) (huse : tileInUse s (cluster * 8 + rank) slot = false) :
    exec (.tileFree cluster rank slot) s = .next (withFreed s (cluster * 8 + rank) slot x) := by
  change execTileFree cluster rank slot s = _
  simp only [execTileFree, hx, hlive, hspent, huse, Nat.not_le.mpr hrank, Bool.true_eq_false, Bool.false_eq_true, or_self, if_false]
  rfl

theorem tile?_withFreed : (withFreed s (cluster * 8 + rank) slot x).tile? (cluster * 8 + rank) slot = some x.free := by
  have hplace : (x.core == cluster * 8 + rank && x.slot == slot) = true :=
    List.find?_some (p := fun y : Tile => y.core == cluster * 8 + rank && y.slot == slot) hx
  exact List.find?_cons_of_pos hplace

theorem exec_tileFree_waits (hwait : x.spent = false ∨ tileInUse s (cluster * 8 + rank) slot = true) :
    exec (.tileFree cluster rank slot) s = .fault .notEnabled := by
  change execTileFree cluster rank slot s = _
  simp only [execTileFree, hx]
  exact if_pos (.inr (.inr hwait))

end

/-! The starvation trap (R285). -/

section
variable {ref : LRef} {cluster : Nat} {s : State} {l : Launch} (hl : s.launch? ref = some l)
include hl

theorem exec_poolStarvation_waits (hstarved : starved s l cluster = false) : exec (.poolStarvation cluster ref) s = .fault .notEnabled := by
  change execPoolStarvation cluster ref s = _
  simp only [execPoolStarvation, hl, hstarved, Bool.false_eq_true, if_false]
  rfl

/-- A group of a starved launch on its cluster. -/
def starveGroup (ref : LRef) (cluster : Nat) (g : Group) : Group :=
  if g.launch = ref ∧ coreCluster g.core = cluster ∧ g.resident then { g with threads := g.threads.map starve } else g

theorem exec_poolStarvation_refuses (hstarved : starved s l cluster = true) :
    exec (.poolStarvation cluster ref) s = .next { s with groups := s.groups.map (starveGroup ref cluster) } := by
  change execPoolStarvation cluster ref s = _
  simp only [execPoolStarvation, hl, hstarved, if_true]
  rfl

end

theorem starveGroup_gid (ref : LRef) (cluster : Nat) (g : Group) : (starveGroup ref cluster g).gid = g.gid := by
  unfold starveGroup
  split <;> rfl

theorem thread?_starve {s : State} {u : Tid} {g : Group} {th : Thread} (hg : s.group? u.gid = some g) (hth : s.thread? u = some th) (ref : LRef)
    (cluster : Nat) : ({ s with groups := s.groups.map (starveGroup ref cluster) } : State).thread? u =
      some (if g.launch = ref ∧ coreCluster g.core = cluster ∧ g.resident then starve th else th) := by
  have hgroup : ({ s with groups := s.groups.map (starveGroup ref cluster) } : State).group? u.gid = some (starveGroup ref cluster g) := by
    refine Eq.trans ?_ (congrArg (Option.map (starveGroup ref cluster)) hg)
    simp only [State.group?, List.find?_map, Function.comp_def, starveGroup_gid]
  have hlane : g.threads[u.lane]? = some th := by
    rw [State.thread?, hg] at hth
    exact hth
  rw [State.thread?, hgroup]
  simp only [starveGroup]
  split
  · simp only [List.getElem?_map, hlane, Option.map_some]
  · exact hlane

theorem starve_unblocked {th : Thread} (hfree : ¬ (th.exited = false ∧ inTalloc th = true)) : starve th = th := by
  rw [starve, if_neg]
  simpa using hfree

/-- One entry of a blocked thread: an unserved TALLOC is refused. -/
def starveEntry (th : Thread) (p : Pend) : Thread := match p.op with
  | .talloc part _ _ => if p.bound then th else th.refuse p (p.trap poolStarvation part)
  | _ => th

theorem starve_blocked {th : Thread} (hexit : th.exited = false) (hin : inTalloc th = true) : starve th = th.infl.foldl starveEntry th := by
  rw [starve, hexit, hin]
  rfl

theorem starveEntry_talloc {th : Thread} {p : Pend} {part n o : Nat} (hop : p.op = .talloc part n o) (hbound : p.bound = false) :
    starveEntry th p = th.refuse p (p.trap poolStarvation part) := by simp only [starveEntry, hop, hbound, Bool.false_eq_true, if_false]

theorem starveEntry_cases (th : Thread) (p : Pend) : starveEntry th p = th ∨ ∃ r, starveEntry th p = th.refuse p r := by
  unfold starveEntry
  split
  · split
    · exact .inl rfl
    · exact .inr ⟨_, rfl⟩
  · exact .inl rfl

/-! A refused entry leaves the outstanding ones and is kept with its segment or with TS (R35). -/

/-- What a thread keeps refused, in its segment and in TS. -/
def allRefused (th : Thread) : List Refused := th.refused ++ th.ts.refused

theorem mem_insertRefused (l : List Refused) (r x : Refused) : x ∈ insertRefused l r ↔ x = r ∨ (x ∈ l ∧ x.p.id ≠ r.p.id) := by
  simp only [insertRefused, List.mem_append, List.mem_filter, List.mem_cons, decide_eq_true_eq]
  constructor
  · rintro (⟨hx, hlt⟩ | rfl | ⟨hx, hlt⟩)
    · exact .inr ⟨hx, by omega⟩
    · exact .inl rfl
    · exact .inr ⟨hx, by omega⟩
  · rintro (rfl | ⟨hx, hne⟩)
    · exact .inr (.inl rfl)
    · obtain hlt | hlt := Nat.lt_or_gt_of_ne hne
      · exact .inl ⟨hx, hlt⟩
      · exact .inr (.inr ⟨hx, hlt⟩)

theorem refuse_keeps (th : Thread) (p : Pend) (r : TrapRec) : (th.refuse p r).regs = th.regs ∧ (th.refuse p r).pc = th.pc ∧
    (th.refuse p r).infl = th.infl.filter (fun q => q.id != p.id) := by
  unfold Thread.refuse
  split <;> exact ⟨rfl, rfl, rfl⟩

theorem mem_refuse_self (th : Thread) (p : Pend) (r : TrapRec) : ({ p := p, trap := some r } : Refused) ∈ allRefused (th.refuse p r) := by
  unfold Thread.refuse allRefused
  split
  · exact List.mem_append_right _ ((mem_insertRefused ..).mpr (.inl rfl))
  · exact List.mem_append_left _ ((mem_insertRefused ..).mpr (.inl rfl))

theorem mem_refuse_other {th : Thread} {x : Refused} (hx : x ∈ allRefused th) (p : Pend) (r : TrapRec) (hne : x.p.id ≠ p.id) :
    x ∈ allRefused (th.refuse p r) := by
  unfold Thread.refuse allRefused at *
  split <;> obtain hx | hx := List.mem_append.mp hx
  · exact List.mem_append_left _ hx
  · exact List.mem_append_right _ ((mem_insertRefused ..).mpr (.inr ⟨hx, hne⟩))
  · exact List.mem_append_left _ ((mem_insertRefused ..).mpr (.inr ⟨hx, hne⟩))
  · exact List.mem_append_right _ hx

theorem starveEntries_keep (ps : List Pend) (th : Thread) : (ps.foldl starveEntry th).regs = th.regs ∧ (ps.foldl starveEntry th).pc = th.pc ∧
    ∀ q ∈ (ps.foldl starveEntry th).infl, q ∈ th.infl := by
  induction ps generalizing th with
  | nil => exact ⟨rfl, rfl, fun q hq => hq⟩
  | cons p ps ih =>
    obtain ⟨iregs, ipc, iinfl⟩ := ih (starveEntry th p)
    obtain he | ⟨r, he⟩ := starveEntry_cases th p
    · rw [List.foldl_cons]
      rw [he] at iregs ipc iinfl ⊢
      exact ⟨iregs, ipc, iinfl⟩
    · obtain ⟨hregs, hpc, hinfl⟩ := refuse_keeps th p r
      rw [List.foldl_cons]
      rw [he] at iregs ipc iinfl ⊢
      exact ⟨iregs.trans hregs, ipc.trans hpc, fun q hq => (List.mem_filter.mp (hinfl ▸ iinfl q hq)).1⟩

/-- A kept refusal stays while entries of other numbers are refused. -/
theorem starveEntries_still {x : Refused} (ps : List Pend) {th : Thread} (hx : x ∈ allRefused th) (hne : ∀ q ∈ ps, x.p.id ≠ q.id) :
    x ∈ allRefused (ps.foldl starveEntry th) := by
  induction ps generalizing th with
  | nil => exact hx
  | cons p ps ih =>
    refine ih ?_ fun q hq => hne q (List.mem_cons_of_mem _ hq)
    obtain he | ⟨r, he⟩ := starveEntry_cases th p
    · rwa [he]
    · rw [he]
      exact mem_refuse_other hx p r (hne p List.mem_cons_self)

theorem starveEntries_refuse {p : Pend} {part n o : Nat} (hop : p.op = .talloc part n o) (hbound : p.bound = false) {ps : List Pend} (hp : p ∈ ps)
    (hids : (ps.map (fun q => q.id)).Nodup) (th : Thread) :
    { p := p, trap := some (p.trap poolStarvation part) } ∈ allRefused (ps.foldl starveEntry th) ∧
      ∀ q ∈ (ps.foldl starveEntry th).infl, q.id ≠ p.id := by
  obtain ⟨before, after, rfl⟩ := List.append_of_mem hp
  have hafter : ∀ q ∈ after, p.id ≠ q.id := fun q hq => by
    rw [List.map_append, List.map_cons, List.nodup_append, List.nodup_cons] at hids
    exact fun he => hids.2.1.1 (he ▸ List.mem_map_of_mem hq)
  rw [List.foldl_append, List.foldl_cons, starveEntry_talloc hop hbound]
  refine ⟨starveEntries_still after (mem_refuse_self ..) hafter, fun q hq => ?_⟩
  have hq' := (starveEntries_keep after _).2.2 q hq
  rw [(refuse_keeps ..).2.2] at hq'
  simpa using (List.mem_filter.mp hq').2

/-! The delivery of a task (R290, R292). -/

/-- The number of the TKNEXT in which a group stands is that of its first arrival's entry. -/
theorem taskArr_number {th : Thread} {lane : Nat} {x : TaskArr} {p : Pend} {k : Nat} {m : Word} (harr : th.taskArr lane = some x) (hp : x.p = some p)
    (hop : p.op = .tknext k m) : x.k = k := by
  have hwait : ∀ w : TaskArr, w.p = none → w ≠ x := fun w hw he => by rw [he, hp] at hw; cases hw
  have hwaits : (match th.wait with
      | some y => match y.kind with
        | .tkdone k => some { lane := lane, k := k, minor := 1, upto := y.id, p := none }
        | .tkspec k => some { lane := lane, k := k, minor := 2, upto := y.id, p := none }
        | _ => none
      | none => none) ≠ some x := by
    split
    · split
      · exact fun he => hwait _ rfl (Option.some.inj he)
      · exact fun he => hwait _ rfl (Option.some.inj he)
      · exact nofun
    · exact nofun
  unfold Thread.taskArr at harr
  dsimp only at harr
  split at harr
  · split at harr
    · rename_i q _ k' m' hop'
      cases harr
      cases hp
      rw [hop] at hop'
      cases hop'
      rfl
    · exact absurd harr hwaits
  · exact absurd harr hwaits

theorem mem_of_taskMeet {g : Group} {ys : List TaskArr} (hmeet : taskMeet g = some ys) {x : TaskArr} (hx : x ∈ ys) : x ∈ taskArrivals g := by
  unfold taskMeet at hmeet
  dsimp only at hmeet
  split at hmeet
  · cases hmeet
  · split at hmeet
    · rw [← Option.some.inj hmeet] at hx
      exact (List.mem_filter.mp hx).1
    · cases hmeet

theorem taskMeet_of_inTknext {g : Group} {ys : List TaskArr} (hin : inTknext g = some ys) : taskMeet g = some ys := by
  unfold inTknext at hin
  split at hin
  · cases hin
  · split at hin
    · rename_i zs hmeet
      split at hin
      · rw [hmeet, hin]
      · cases hin
    · cases hin

theorem inTknext_number {g : Group} {x : TaskArr} {xs : List TaskArr} {p : Pend} {k : Nat} {m : Word} (hin : inTknext g = some (x :: xs))
    (hp : x.p = some p) (hop : p.op = .tknext k m) : arrivedIn (x :: xs) = k := by
  obtain ⟨y, -, harr⟩ := List.mem_filterMap.mp (mem_of_taskMeet (taskMeet_of_inTknext hin) List.mem_cons_self)
  exact taskArr_number harr hp hop

/-! What a thread's entries become. -/

/-- An entry of a TKNEXT of number `k` receives its words; any other stays. -/
def serveEntry (k : Nat) (ws : List Word) (halted : Bool) (p : Pend) : Pend := match p.op with
  | .tknext i _ => if i = k ∧ p.bound = false then { p with st := .ready (ws.map some), late := halted } else p
  | _ => p

theorem serveEntry_id (k : Nat) (ws : List Word) (halted : Bool) (p : Pend) : (serveEntry k ws halted p).id = p.id := by
  unfold serveEntry
  split
  · split <;> rfl
  · rfl

theorem serveEntry_waiting {k : Nat} {m : Word} {p : Pend} (hop : p.op = .tknext k m) (hbound : p.bound = false) (ws : List Word) (halted : Bool) :
    serveEntry k ws halted p = { p with st := .ready (ws.map some), late := halted } := by
  simp only [serveEntry, hop, hbound, and_self, if_true]

theorem serveEntry_bound {p : Pend} (hbound : p.bound = true) (k : Nat) (ws : List Word) (halted : Bool) : serveEntry k ws halted p = p := by
  unfold serveEntry
  split
  · exact if_neg fun h => by rw [hbound] at h; exact Bool.false_ne_true h.2.symm
  · rfl

theorem takeTask_infl {th : Thread} (hexit : th.exited = false) (k : Nat) (ws : List Word) :
    (th.takeTask k ws).infl = th.infl.map (serveEntry k ws th.halted) := by
  rw [Thread.takeTask, hexit]
  rfl

theorem takeTask_find? {th : Thread} (hexit : th.exited = false) (k : Nat) (ws : List Word) (id : Nat) :
    (th.takeTask k ws).infl.find? (fun p => p.id == id) = (th.infl.find? (fun p => p.id == id)).map (serveEntry k ws th.halted) := by
  simp only [takeTask_infl hexit, List.find?_map, Function.comp_def, serveEntry_id]

theorem takeTask_keeps (th : Thread) (k : Nat) (ws : List Word) : (th.takeTask k ws).exited = th.exited ∧ (th.takeTask k ws).halted = th.halted := by
  unfold Thread.takeTask
  dsimp only
  split <;> exact ⟨rfl, rfl⟩

/-! A thread of a group that receives sixteen words. -/

theorem thread?_giveTask (s : State) (g : Group) (k : Nat) (ws : List Word) (u : Tid) : (giveTask s g k ws).thread? u =
    if u.gid = g.gid then (s.thread? u).map (fun th => th.takeTask k ws) else s.thread? u := by
  have hgroup : (giveTask s g k ws).group? u.gid = (s.group? u.gid).map (fun h =>
      if h.gid = g.gid then { h with threads := h.threads.map (fun th => th.takeTask k ws) } else h) :=
    group?_modGroup s g.gid u.gid (fun g => { g with threads := g.threads.map (fun th => th.takeTask k ws) }) (fun _ => rfl)
  rw [State.thread?, State.thread?, hgroup]
  cases hg : s.group? u.gid with
  | none => simp
  | some h =>
    have hgid : h.gid = u.gid := by simpa using List.find?_some hg
    rw [Option.map_some, hgid]
    by_cases hu : u.gid = g.gid
    · simp only [hu, if_true, List.getElem?_map]
    · simp only [if_neg hu]

/-- A live thread whose entry waits, or has been served. -/
structure Stands (s : State) (u : Tid) (id : Nat) (halted : Bool) (p : Pend) : Prop where
  live : ∃ th, s.thread? u = some th ∧ th.exited = false ∧ th.halted = halted
  entry : s.pend? u id = some p

theorem stands_giveTask {s : State} {u : Tid} {id : Nat} {halted : Bool} {p : Pend} (h : Stands s u id halted p) {g : Group} (hgid : u.gid = g.gid)
    (k : Nat) (ws : List Word) : Stands (giveTask s g k ws) u id halted (serveEntry k ws halted p) := by
  obtain ⟨⟨th, hth, hexit, hhalted⟩, hp⟩ := h
  have hth' : (giveTask s g k ws).thread? u = some (th.takeTask k ws) := by rw [thread?_giveTask, if_pos hgid, hth, Option.map_some]
  obtain ⟨kexit, khalted⟩ := takeTask_keeps th k ws
  refine ⟨⟨_, hth', kexit.trans hexit, khalted.trans hhalted⟩, ?_⟩
  rw [State.pend?, hth, Option.bind_some] at hp
  rw [State.pend?, hth', Option.bind_some, takeTask_find? hexit, hp, hhalted, Option.map_some]

theorem stands_giveTask_other {s : State} {u : Tid} {id : Nat} {halted : Bool} {p : Pend} (h : Stands s u id halted p) {g : Group} (hgid : u.gid ≠ g.gid)
    (k : Nat) (ws : List Word) : Stands (giveTask s g k ws) u id halted p := by
  have hth : (giveTask s g k ws).thread? u = s.thread? u := by rw [thread?_giveTask, if_neg hgid]
  exact ⟨by rw [hth]; exact h.live, by rw [State.pend?, hth]; exact h.entry⟩

/-! The zero record of an exhausted launch (R292). -/

/-- Zeros for one group, if it stands in a TKNEXT. -/
def giveZeros (s : State) (g : Group) : State := match inTknext g with
  | some ys => giveTask s g (arrivedIn ys) (List.replicate 16 0)
  | none => s

theorem giveZeros_keeps (s : State) (g : Group) : (giveZeros s g).mem = s.mem ∧ (giveZeros s g).recs = s.recs := by
  unfold giveZeros
  split <;> exact ⟨rfl, rfl⟩

theorem foldl_giveZeros_keeps (gs : List Group) (s : State) : (gs.foldl giveZeros s).mem = s.mem ∧ (gs.foldl giveZeros s).recs = s.recs := by
  induction gs generalizing s with
  | nil => exact ⟨rfl, rfl⟩
  | cons g gs ih =>
    obtain ⟨hmem, hrecs⟩ := giveZeros_keeps s g
    exact ⟨(ih _).1.trans hmem, (ih _).2.trans hrecs⟩

theorem stands_giveZeros_other {s : State} {u : Tid} {id : Nat} {halted : Bool} {p : Pend} {gs : List Group} (h : Stands s u id halted p)
    (hother : ∀ g ∈ gs, u.gid ≠ g.gid) : Stands (gs.foldl giveZeros s) u id halted p := by
  induction gs generalizing s with
  | nil => exact h
  | cons g gs ih =>
    refine ih ?_ fun g' hg' => hother g' (List.mem_cons_of_mem _ hg')
    unfold giveZeros
    split
    · exact stands_giveTask_other h (hother g List.mem_cons_self) _ _
    · exact h

theorem stands_giveZeros_bound {s : State} {u : Tid} {id : Nat} {halted : Bool} {p : Pend} (h : Stands s u id halted p) (hbound : p.bound = true)
    (gs : List Group) : Stands (gs.foldl giveZeros s) u id halted p := by
  induction gs generalizing s with
  | nil => exact h
  | cons g gs ih =>
    refine ih ?_
    unfold giveZeros
    split
    · by_cases hgid : u.gid = g.gid
      · have := stands_giveTask h hgid (arrivedIn ‹_›) (List.replicate 16 0)
        rwa [serveEntry_bound hbound] at this
      · exact stands_giveTask_other h hgid _ _
    · exact h

/-- Every group of the launch receives zeros; a thread of the first group of its number receives them once. -/
theorem stands_giveZeros {s : State} {u : Tid} {id k : Nat} {m : Word} {halted : Bool} {p : Pend} (h : Stands s u id halted p) {g : Group}
    {ys : List TaskArr} (hg : s.group? u.gid = some g) (hin : inTknext g = some ys) (harr : arrivedIn ys = k) (hop : p.op = .tknext k m)
    (hbound : p.bound = false) : Stands ((s.groups.filter (fun x => x.launch == g.launch)).foldl giveZeros s) u id halted
      { p with st := .ready ((List.replicate 16 0).map some), late := halted } := by
  obtain ⟨hgid, before, after, hsplit, hbefore⟩ := List.find?_eq_some_iff_append.mp hg
  rw [hsplit, List.filter_append, List.filter_cons_of_pos (by exact beq_self_eq_true g.launch),
    List.foldl_append, List.foldl_cons]
  have hfirst := stands_giveZeros_other (gs := before.filter (fun x => x.launch == g.launch)) h fun x hx he => by
    simpa [he] using hbefore x (List.mem_filter.mp hx).1
  have hzeros := stands_giveTask hfirst (g := g) (eq_of_beq hgid).symm (arrivedIn ys) (List.replicate 16 0)
  rw [harr, serveEntry_waiting hop hbound] at hzeros
  refine stands_giveZeros_bound ?_ rfl _
  rw [giveZeros, hin]
  dsimp only
  rwa [harr]

/-! TASK_DELIVERY (R290, R292). -/

section
variable {s : State} {gid : Nat} {l : Launch} {g : Group} {x : TaskArr} {xs : List TaskArr} {p0 : Pend} {k : Nat} {m : Word}
  (hof : s.ofThread { gid := gid, lane := 0 } = some (l, g)) (hin : inTknext g = some (x :: xs)) (hp0 : x.p = some p0) (hop0 : p0.op = .tknext k m)
  (hres : g.resident = true) (hsave : g.saving = false)

/-- The state in which a group has taken a record. -/
def withTask (s : State) (gid : Nat) (r : QRec) : State :=
  let tk : Task := { bytes := r.bytes, queue := r.queue, versioned := taskV r.bytes, writes := [], reads := [], doomed := false, since := s.nextId,
                     held := [] }
  { s.fresh.2 with recs := takeRec s.recs r gid }.modGroup gid (fun g => { g with task := some tk })

include hof hin hp0 hop0 hres hsave

theorem exec_taskDelivery_gives {r : QRec} (hpick : pickTask s l.ref (m.toNat % 2 ^ 16) = some r) : exec (.taskDelivery gid) s =
    .next (giveTask (withTask s gid r) g k (wordsOf 16 (ofBytes r.bytes))) := by
  have hmask : bits m 15 0 = m.toNat % 2 ^ 16 := by simp [bits, bitsN]
  change execTaskDelivery gid s = _
  simp only [execTaskDelivery, hof, hin, List.head?_cons, Option.bind_some, hp0, hop0, hres, hsave, hmask, hpick, Bool.true_eq_false, Bool.false_eq_true,
    or_self, if_false, inTknext_number hin hp0 hop0]
  rfl

theorem exec_taskDelivery_ends (hpick : pickTask s l.ref (m.toNat % 2 ^ 16) = none) (hexh : exhausted s l = true) : exec (.taskDelivery gid) s =
    .next ((s.groups.filter (fun g => g.launch == l.ref)).foldl giveZeros s) := by
  have hmask : bits m 15 0 = m.toNat % 2 ^ 16 := by simp [bits, bitsN]
  change execTaskDelivery gid s = _
  simp only [execTaskDelivery, hof, hin, List.head?_cons, Option.bind_some, hp0, hop0, hres, hsave, hmask, hpick, hexh, Bool.true_eq_false,
    Bool.false_eq_true, or_self, if_false, if_true]
  rfl

theorem exec_taskDelivery_waits (hpick : pickTask s l.ref (m.toNat % 2 ^ 16) = none) (hexh : exhausted s l = false) :
    exec (.taskDelivery gid) s = .fault .notEnabled := by
  have hmask : bits m 15 0 = m.toNat % 2 ^ 16 := by simp [bits, bitsN]
  change execTaskDelivery gid s = _
  simp only [execTaskDelivery, hof, hin, List.head?_cons, Option.bind_some, hp0, hop0, hres, hsave, hmask, hpick, hexh, Bool.true_eq_false,
    Bool.false_eq_true, or_self, if_false]
  rfl

end

theorem takeRec_unversioned {r : QRec} (hver : taskV r.bytes = false) (rs : List QRec) (gid : Nat) : takeRec rs r gid = rs.erase r := by
  induction rs with
  | nil => rfl
  | cons x rs ih =>
    rw [takeRec, List.erase_cons, hver]
    by_cases hx : x = r
    · simp [hx]
    · simp [hx, ih]

/-- A change of groups that leaves their threads leaves every thread. -/
theorem thread?_modGroup_of_threads {f : Group → Group} (hgid : ∀ g, (f g).gid = g.gid) (hthreads : ∀ g, (f g).threads = g.threads) (s : State)
    (gid : Nat) (u : Tid) : (s.modGroup gid f).thread? u = s.thread? u := by
  rw [State.thread?, State.thread?, group?_modGroup _ _ _ _ hgid]
  cases s.group? u.gid with
  | none => rfl
  | some g => by_cases hg : g.gid = gid <;> simp [hg, hthreads]

theorem stands_withTask {s : State} {u : Tid} {id : Nat} {halted : Bool} {p : Pend} (h : Stands s u id halted p) (gid : Nat) (r : QRec) :
    Stands (withTask s gid r) u id halted p := by
  have hth : (withTask s gid r).thread? u = s.thread? u :=
    thread?_modGroup_of_threads (by exact fun _ => rfl) (by exact fun _ => rfl) { s.fresh.2 with recs := takeRec s.recs r gid } gid u
  exact ⟨by rw [hth]; exact h.live, by rw [State.pend?, hth]; exact h.entry⟩

/-- Settles O44: the grant by the first thread that waits for a tile, the free and the refusal by what they keep, and the delivery by the rendezvous of the
group. -/
theorem poolsServeWaitingThreads : Obligations.PoolsServeWaitingThreads := by
  unfold Obligations.PoolsServeWaitingThreads
  refine ⟨?grant, ?free, ?starvation, ?delivery⟩
  case grant =>
    intro s t l g p part count ord rank slot gen hof hp hop hbound hres hrank hslot hpart hgen hcls hwf cluster core hfree hthis hroom hplace hfirst key n
    obtain ⟨ptr, hptr⟩ := grantTile_writes hp hrank hslot hpart hgen hcls hwf hthis (l := l) (count := count)
    exact ⟨_, ptr, exec_tallocGrant_grants hof hp hop hbound hres hrank hslot hfree hroom hplace hfirst, hptr⟩
  case free =>
    exact fun s cluster rank slot x hrank hx hlive =>
      ⟨fun hspent huse => ⟨_, exec_tileFree_frees hx hrank hlive hspent huse, tile?_withFreed hx, rfl, rfl, rfl⟩, exec_tileFree_waits hx⟩
  case starvation =>
    refine fun s ref l cluster hl => ⟨exec_poolStarvation_waits hl, fun hstarved => ⟨_, exec_poolStarvation_refuses hl hstarved, rfl, rfl, rfl, ?_⟩⟩
    intro u g th hg hth blocked
    rw [thread?_starve hg hth]
    refine ⟨fun hfree => ?_, fun hblocked hids => ?_⟩
    · split
      · rename_i hgroup
        rw [starve_unblocked fun h => hfree ⟨hgroup.1, hgroup.2.1, hgroup.2.2, h⟩]
      · rfl
    · obtain ⟨href, hcluster, hres, hexit, hin⟩ := hblocked
      rw [if_pos ⟨href, hcluster, hres⟩, starve_blocked hexit hin]
      obtain ⟨hregs, hpc, -⟩ := starveEntries_keep th.infl th
      refine ⟨_, rfl, hregs, hpc, fun p part n o hp hop hbound => ?_⟩
      obtain ⟨hkept, hgone⟩ := starveEntries_refuse hop hbound hp hids th
      exact ⟨⟨_, hkept, _, rfl, rfl, rfl, rfl⟩, hgone⟩
  case delivery =>
    intro s gid l g x xs p0 k m hof hin hp0 hop0 hres hsave waits
    obtain ⟨hg, hl, hgid⟩ := Traps.group_gid_of_ofThread hof
    have hstands : ∀ u th p, waits u th p → u.gid = gid ∧ Stands s u p.id th.halted p ∧ p.bound = false ∧ ∃ m', p.op = .tknext k m' :=
      fun u th p ⟨hu, hth, hexit, hp, hbound, hop⟩ => ⟨hu, ⟨⟨th, hth, hexit, rfl⟩, hp⟩, hbound, hop⟩
    refine ⟨fun r hpick => ⟨_, exec_taskDelivery_gives hof hin hp0 hop0 hres hsave hpick, rfl, fun hver => takeRec_unversioned hver _ _,
      fun u th p hw => ?_⟩, fun hpick hexh => ⟨_, exec_taskDelivery_ends hof hin hp0 hop0 hres hsave hpick hexh, (foldl_giveZeros_keeps ..).1,
      (foldl_giveZeros_keeps ..).2, fun u th p hw => ?_⟩, exec_taskDelivery_waits hof hin hp0 hop0 hres hsave⟩
    · obtain ⟨hu, hst, hbound, m', hop⟩ := hstands u th p hw
      have hserved := (stands_giveTask (stands_withTask hst gid r) (hu.trans hgid.symm) k (wordsOf 16 (ofBytes r.bytes))).entry
      rwa [serveEntry_waiting hop hbound] at hserved
    · obtain ⟨hu, hst, hbound, m', hop⟩ := hstands u th p hw
      have hlaunch : l.ref = g.launch := by simpa using List.find?_some hl
      rw [hlaunch]
      exact (stands_giveZeros hst (hu ▸ hg) hin (inTknext_number hin hp0 hop0) hop hbound).entry

end Sys2Proof.Pools
end

section
/-! The steps of the engines (O45): a step of the matrix engine (R258, R261, R264, R270), a unit of a copy and the end of a command (R230, R247), an
armed command (R242), and the flip of a published page (R178, R239). -/
namespace Sys2Proof.Engines
open Sys2Proof.Machine Sys2Proof.Safety Sys2Proof.Claims Sys2Proof.Laws Sys2Proof.Outside Sys2Proof.PerformedWrites Sys2Proof.BatonWords

/-! Reading operand lines moves no engine (R265). -/

/-- Operations may have read lines and consumed tiles; all else that a step speaks of is as it was. -/
structure OnlyReads (s s' : State) : Prop where
  mem : s'.mem = s.mem
  launches : s'.launches = s.launches
  groups : s'.groups = s.groups
  copies : s'.copies = s.copies
  engines : ∀ core, Unmoved (s.engine core) (s'.engine core)

theorem unmoved_refl (e : Engine) : Unmoved e e := ⟨rfl, rfl, rfl, rfl, rfl, rfl, rfl, rfl⟩

theorem unmoved_trans {e1 e2 e3 : Engine} (h : Unmoved e1 e2) (h' : Unmoved e2 e3) : Unmoved e1 e3 := by
  obtain ⟨a1, a2, a3, a4, a5, a6, a7, a8⟩ := h
  obtain ⟨b1, b2, b3, b4, b5, b6, b7, b8⟩ := h'
  exact ⟨b1.trans a1, b2.trans a2, b3.trans a3, b4.trans a4, b5.trans a5, b6.trans a6, b7.trans a7, b8.trans a8⟩

theorem OnlyReads.refl (s : State) : OnlyReads s s := ⟨rfl, rfl, rfl, rfl, fun _ => unmoved_refl _⟩

theorem OnlyReads.trans {s1 s2 s3 : State} (h : OnlyReads s1 s2) (h' : OnlyReads s2 s3) : OnlyReads s1 s3 :=
  ⟨h'.mem.trans h.mem, h'.launches.trans h.launches, h'.groups.trans h.groups, h'.copies.trans h.copies,
    fun core => unmoved_trans (h.engines core) (h'.engines core)⟩

theorem onlyReads_foldl {α : Type} {f : State → α → State} (hf : ∀ s x, OnlyReads s (f s x)) (xs : List α) (s : State) : OnlyReads s (xs.foldl f s) := by
  induction xs generalizing s with
  | nil => exact OnlyReads.refl s
  | cons x xs ih => exact (hf s x).trans (ih _)

theorem engine_mapQueue {s s' : State} {put : MOp → MOp} (he : s'.engines = s.engines.map (fun e => { e with queue := e.queue.map put })) (core : Nat) :
    s'.engine core = { s.engine core with queue := (s.engine core).queue.map put } := by
  rw [State.engine, State.engine, he, List.find?_map]
  simp only [Function.comp_def]
  cases s.engines.find? (fun e => e.core == core) <;> rfl

theorem eatBlock_eq (s : State) (l : Launch) (g : Group) (core : Nat) (o : MOp) (isA : Bool) :
    ∃ tiles eaten, eatBlock s l g core o isA = ({ s with tiles := tiles }, { o with eaten := eaten }) := by
  unfold eatBlock
  dsimp only
  generalize (if isA = true then o.a else o.b) = q
  split
  · exact ⟨_, _, rfl⟩
  · exact ⟨s.tiles, o.eaten, rfl⟩

theorem onlyReads_putRead (s : State) (l : Launch) (g : Group) (core : Nat) (o : MOp) : OnlyReads s (putRead s l g core o) := by
  obtain ⟨tiles, eaten, h1⟩ := eatBlock_eq s l g core o true
  obtain ⟨tiles', eaten', h2⟩ := eatBlock_eq { s with tiles := tiles } l g core { o with eaten := eaten } false
  have hput : putRead s l g core o = { s with
      tiles := tiles',
      engines := s.engines.map (fun e => { e with queue := e.queue.map (fun x => if x.id = o.id then { o with eaten := eaten' } else x) }),
      savedEng := s.savedEng.map (fun e => { e with ops := e.ops.map (fun x => if x.id = o.id then { o with eaten := eaten' } else x) }) } := by
    simp only [putRead, h1, h2]
  have hengine := engine_mapQueue (s := s) (s' := putRead s l g core o) (put := fun x => if x.id = o.id then { o with eaten := eaten' } else x)
    (by rw [hput])
  refine ⟨by rw [hput], by rw [hput], by rw [hput], by rw [hput], fun core => ?_⟩
  rw [hengine]
  refine ⟨rfl, rfl, rfl, rfl, rfl, rfl, rfl, ?_⟩
  rw [List.map_map]
  refine List.map_congr_left fun x _ => ?_
  simp only [Function.comp_apply]
  split
  · rename_i h; exact h.symm
  · rfl

theorem onlyReads_latchQueue (s : State) (core : Nat) : OnlyReads s (latchQueue s core) := by
  refine onlyReads_foldl (fun s o => ?_) _ s
  split
  · exact onlyReads_putRead ..
  · exact OnlyReads.refl s

theorem onlyReads_readHeld (s : State) (lines : List Nat) : OnlyReads s (readHeld s lines) := by
  refine onlyReads_foldl (fun s x => ?_) _ s
  split
  · dsimp only
    split
    · exact OnlyReads.refl s
    · exact onlyReads_putRead ..
  · exact OnlyReads.refl s

/-- Where no line changes, nothing is read first. -/
theorem changeLines_nil (s : State) (st : Nat) : changeLines s [] st = s := by
  have hread : readHeld s [] = s := by
    unfold readHeld
    generalize heldOps s = ops
    induction ops with
    | nil => rfl
    | cons x ops ih =>
      rw [List.foldl_cons]
      refine Eq.trans (congrArg (fun s => List.foldl _ s ops) ?_) ih
      split <;> rfl
  rw [changeLines, hread]
  rfl

/-! The slots of an engine (R250). -/

theorem slot_setSlot (e : Engine) (k : Nat) (v : List Word) : (e.setSlot k v).slot k = v := by simp [Engine.slot, Engine.setSlot]

theorem slot_setSlot_other (e : Engine) {j k : Nat} (v : List Word) (hne : j ≠ k) : (e.setSlot k v).slot j = e.slot j := by
  rw [Engine.slot, Engine.slot, Engine.setSlot, List.find?_cons_of_neg (by simpa using hne.symm), List.find?_filter]
  congr 3
  funext x
  by_cases hx : x.1 = j
  · simp [hx, hne]
  · simp [hx]

theorem engine_putEngine_other {s : State} {e : Engine} {core : Nat} (hne : core ≠ e.core) : (s.putEngine e).engine core = s.engine core := by
  rw [State.engine, State.engine, State.putEngine, List.find?_cons_of_neg (by simpa using hne.symm), List.find?_filter]
  congr 2
  funext x
  by_cases hx : x.core = core
  · simp [hx, hne]
  · simp [hx]

/-- What a step that ends in a slot leaves: the slot written, the others and the other engines as they were. -/
structure Writes1 (s s' : State) (core k : Nat) (v : List Word) : Prop where
  mem : s'.mem = s.mem
  launches : s'.launches = s.launches
  slot : (s'.engine core).slot k = v
  others : ∀ j, j ≠ k → (s'.engine core).slot j = (s.engine core).slot j
  engines : ∀ x, x ≠ core → Unmoved (s.engine x) (s'.engine x)

/-- A step that puts its engine back with one slot written, after some reading. -/
theorem writes_putEngine {s s1 : State} (hreads : OnlyReads s s1) {core k : Nat} {v : List Word} {e : Engine} (hcore : e.core = core)
    (hslots : e.slots = ((s1.engine core).setSlot k v).slots) : Writes1 s (s1.putEngine e) core k v := by
  have hslot : ∀ j, e.slot j = ((s1.engine core).setSlot k v).slot j := fun j => by rw [Engine.slot, Engine.slot, hslots]
  have hsame : ∀ j, (s1.engine core).slot j = (s.engine core).slot j := fun j => by
    obtain ⟨-, -, hs, -⟩ := hreads.engines core
    rw [Engine.slot, Engine.slot, hs]
  refine ⟨hreads.mem, hreads.launches, ?_, fun j hj => ?_, fun x hx => ?_⟩
  · rw [engine_putEngine hcore, hslot, slot_setSlot]
  · rw [engine_putEngine hcore, hslot, slot_setSlot_other _ _ hj, hsame]
  · rw [engine_putEngine_other (hcore ▸ hx)]
    exact hreads.engines x

/-! A step of the matrix engine (R258, R261, R264). -/

section
variable {s : State} {core : Nat} {o0 : MOp} {rest0 : List MOp} {l : Launch} {g : Group} (hq : (s.engine core).queue = o0 :: rest0)
  (hof : s.ofThread o0.t = some (l, g)) (hrun : g.haltedWhole = false)


include hq hof hrun

theorem exec_matrixStep_fails (hhold : o0.hold = none) {code : Nat} (hbad : readsError s l g (latch s o0 (o0.idxLines l g)) = true ∧ code = 1 ∨
    readsError s l g (latch s o0 (o0.idxLines l g)) = false ∧ gatherBeyond s l g (latch s o0 (o0.idxLines l g)) = true ∧ code = 3) :
    exec (.matrixStep core) s = .next (failMatrix s l g core (latch s o0 (o0.idxLines l g)) code) := by
  change execMatrixStep core s = _
  obtain ⟨herr, rfl⟩ | ⟨herr, hbeyond, rfl⟩ := hbad
  · simp only [execMatrixStep, hq, hof, hrun, hhold, herr, Option.isNone_none, Bool.false_eq_true, and_self, if_false, if_true]
  · simp only [execMatrixStep, hq, hof, hrun, hhold, herr, hbeyond, Option.isNone_none, Bool.false_eq_true, and_self, and_false, if_false, if_true]

theorem exec_matrixStep_goes (hhold : o0.hold = none) (herr : readsError s l g (latch s o0 (o0.idxLines l g)) = false)
    (hbeyond : gatherBeyond s l g (latch s o0 (o0.idxLines l g)) = false) {o : MOp} {rest : List MOp}
    (hq1 : ((latchQueue s core).engine core).queue = o :: rest) {s' : State} (hstep : headStep (latchQueue s core) l g core o = .next s') :
    exec (.matrixStep core) s = .next s' := by
  change execMatrixStep core s = _
  simp only [execMatrixStep, hq, hof, hrun, hhold, herr, hbeyond, hq1, hstep, Option.isNone_none, Bool.false_eq_true, and_false, if_false,
    List.head?_cons, Option.getD_some]

end

/-! A failed operation (R270). -/

theorem failMatrix_eq (s : State) (l : Launch) (g : Group) (core : Nat) {o : MOp} (hminor : o.minor ≠ 8) (code : Nat) : failMatrix s l g core o code =
    (s.putEngine ((s.engine core).setSlot o.slot (List.replicate 4096 0x7FC00000#32)).pop).modGroup o.gid
      (fun g => if g.mFail = 0 then { g with mFail := code, mSlot := o.slot } else g) := by
  have hbad : o.badLines l g = [] := by
    unfold MOp.badLines
    split
    · rename_i hm _
      exact absurd (by simpa using hm) hminor
    · rfl
  rw [failMatrix, if_neg hminor, hbad, changeLines_nil]
  rfl

theorem group?_modGroup_fails {s : State} {gid : Nat} {g : Group} (hg : s.group? gid = some g) (hfree : g.mFail = 0) (code slot : Nat) :
    ∃ g', (s.modGroup gid (fun g => if g.mFail = 0 then { g with mFail := code, mSlot := slot } else g)).group? gid = some g' ∧ g'.mFail = code ∧
      g'.mSlot = slot := by
  have hgid : g.gid = gid := by simpa using List.find?_some hg
  refine ⟨{ g with mFail := code, mSlot := slot }, ?_, rfl, rfl⟩
  rw [group?_modGroup _ _ _ _ (fun x => by split <;> rfl), hg, Option.map_some, if_pos hgid, if_pos hfree]

/-- What a failure of the head operation leaves (R270). -/
theorem failMatrix_writes {s : State} {core : Nat} {o0 : MOp} {rest0 : List MOp} (hq : (s.engine core).queue = o0 :: rest0) (l : Launch) (g : Group)
    {o : MOp} (hminor : o.minor ≠ 8) (code : Nat) :
    Writes1 s (failMatrix s l g core o code) core o.slot (List.replicate 4096 0x7FC00000#32) ∧
      ((failMatrix s l g core o code).engine core).queue = rest0 ∧
      ∀ g', s.group? o.gid = some g' → g'.mFail = 0 → ∃ g'', (failMatrix s l g core o code).group? o.gid = some g'' ∧ g''.mFail = code ∧
        g''.mSlot = o.slot := by
  have hcore : (((s.engine core).setSlot o.slot (List.replicate 4096 0x7FC00000#32)).pop).core = core := engine_core s core
  have hw := writes_putEngine (OnlyReads.refl s) hcore (k := o.slot) (v := List.replicate 4096 0x7FC00000#32) rfl
  rw [failMatrix_eq s l g core hminor]
  refine ⟨⟨hw.mem, hw.launches, hw.slot, hw.others, hw.engines⟩, ?_, fun g' hg' hfree => group?_modGroup_fails (by exact hg') hfree code o.slot⟩
  refine (congrArg Engine.queue (engine_putEngine hcore)).trans ?_
  exact congrArg (List.drop 1) hq

/-! A step of a compute form (R261, R262). -/

theorem getElem?_flatMap_map {α β γ : Type} (f : α → β → γ) (xs : List α) (ys : List β) {i j : Nat} (hj : j < ys.length) :
    (xs.flatMap (fun x => ys.map (f x)))[ys.length * i + j]? = (xs[i]?).map (fun x => f x ys[j]) := by
  induction xs generalizing i with
  | nil => simp
  | cons x xs ih =>
    rw [List.flatMap_cons]
    cases i with
    | zero => simp [List.getElem?_append_left, hj]
    | succ i =>
      have hidx : ys.length * (i + 1) + j - ys.length = ys.length * i + j := by
        rw [Nat.mul_succ]
        omega
      rw [List.getElem?_append_right (by rw [List.length_map, Nat.mul_succ]; omega), List.length_map, hidx, List.getElem?_cons_succ]
      exact ih

/-- One element of the slot after a step (R261). -/
theorem stepSlot_getElem? (s : State) (l : Launch) (g : Group) (o : MOp) (slot : List Word) {i j : Nat} (hi : i < 64) (hj : j < 64) :
    let k0 := o.next * o.bs
    let ks := (List.range (min (blkK o.a) (k0 + o.bs) - k0)).map (fun x => k0 + x)
    let ka := (localKey l g (blkPtr o.a)).getD 0
    let kb := (localKey l g (blkPtr o.b)).getD 0
    let la := o.lineA s l g i
    (o.stepSlot s l g slot)[64 * i + j]? = some (macBlock (if o.next = 0 ∧ o.ovw = true then 0 else slot.getD (64 * i + j) 0)
      (ks.map (o.elem s true ka la)) (ks.map (o.elem s false kb j))
      (if o.scaled = true then some (scaleVal o.a (o.byteAt s (ka + o.scaleOff o.a la o.next)).toNat,
        scaleVal o.b (o.byteAt s (kb + o.scaleOff o.b j o.next)).toNat) else none)) := by
  intro k0 ks ka kb la
  rw [MOp.stepSlot]
  simp only [List.getElem?_map, List.getElem?_zipIdx]
  have hcols : ∀ (f : Nat → List Val × Val), j < ((List.range 64).map f).length := fun f => by simpa using hj
  have hcell := fun (f f' : Nat → List Val × Val) => getElem?_flatMap_map (fun r c => (r, c)) ((List.range 64).map f) ((List.range 64).map f') (i := i)
    (hcols f')
  simp only [List.length_map, List.length_range] at hcell
  rw [hcell]
  simp only [List.getElem?_map, List.getElem?_range hi, Option.map_some, List.getElem_map, List.getElem_range, Nat.zero_add]
  rfl

theorem stepSlot_length (s : State) (l : Launch) (g : Group) (o : MOp) (slot : List Word) : (o.stepSlot s l g slot).length = 4096 := by
  simp only [MOp.stepSlot, List.length_map, List.length_zipIdx, List.length_flatMap, List.map_map, Function.comp_def, List.length_range, List.map_const',
    List.sum_replicate]
  rfl

section
variable {s s1 : State} (hreads : OnlyReads s s1) {core : Nat} {o : MOp} {rest : List MOp} (hq : (s1.engine core).queue = o :: rest) (l : Launch) (g : Group)
  (hhold : o.hold = none)

/-- The state after a step of a compute form. -/
def computed (s : State) (l : Launch) (g : Group) (core : Nat) (o : MOp) : State :=
  let e := (s.engine core).setSlot o.slot (o.stepSlot s l g ((s.engine core).slot o.slot))
  s.putEngine (if o.next + 1 < o.nb then e.setHead { o with next := o.next + 1 } else e.pop)

include hhold

theorem headStep_zeros (hminor : o.minor = 6) :
    headStep s1 l g core o = .next (s1.putEngine ((s1.engine core).setSlot o.slot (List.replicate 4096 0)).pop) := by
  simp only [headStep, hhold, hminor, Option.isSome_none, Bool.false_eq_true, if_false, if_true]

theorem headStep_computes (hminor : o.minor ≤ 5) (hread : (linesOf (o.idxKeys l g ++ o.stepKeys s1 l g o.next)).all o.hasRead = true) :
    headStep s1 l g core o = .next (computed s1 l g core o) := by
  have hopen : ¬ o.hold.isSome = true := by rw [hhold]; exact Bool.false_ne_true
  rw [headStep, if_neg hopen, if_neg (by omega), if_neg (by omega), if_neg (by omega), if_pos hread]
  rfl

omit hhold

include hreads hq

theorem zeros_write : Writes1 s (s1.putEngine ((s1.engine core).setSlot o.slot (List.replicate 4096 0)).pop) core o.slot (List.replicate 4096 0) ∧
    ((s1.putEngine ((s1.engine core).setSlot o.slot (List.replicate 4096 0)).pop).engine core).queue = rest := by
  have hcore : ((s1.engine core).setSlot o.slot (List.replicate 4096 0)).pop.core = core := engine_core s1 core
  exact ⟨writes_putEngine hreads hcore rfl, (congrArg Engine.queue (engine_putEngine hcore)).trans (congrArg (List.drop 1) hq)⟩

theorem computed_writes : Writes1 s (computed s1 l g core o) core o.slot (o.stepSlot s1 l g ((s.engine core).slot o.slot)) ∧
    ((computed s1 l g core o).engine core).queue = if o.next + 1 < o.nb then { o with next := o.next + 1 } :: rest else rest := by
  have hslot : (s1.engine core).slot o.slot = (s.engine core).slot o.slot := by
    obtain ⟨-, -, hs, -⟩ := hreads.engines core
    rw [Engine.slot, Engine.slot, hs]
  have hcore := engine_core s1 core
  rw [← hslot, computed]
  split
  · exact ⟨writes_putEngine hreads hcore rfl, (congrArg Engine.queue (engine_putEngine (by exact hcore))).trans
      (congrArg (fun q => ({ o with next := o.next + 1 } : MOp) :: List.drop 1 q) hq)⟩
  · exact ⟨writes_putEngine hreads hcore rfl, (congrArg Engine.queue (engine_putEngine (by exact hcore))).trans (congrArg (List.drop 1) hq)⟩

end

/-! A unit of a copy (R230, R247). -/

theorem find?_putCopy {s : State} {c c' : CopyCmd} (hc : s.copies.find? (fun x => x.id == c.id) = some c) (hid : c'.id = c.id) :
    (s.putCopy c').copies.find? (fun x => x.id == c.id) = some c' := by
  have hsame : ∀ x : CopyCmd, ((if x.id = c.id then c' else x).id == c.id) = (x.id == c.id) := fun x => by
    split
    · rename_i hx
      rw [hx, hid]
    · rfl
  rw [State.putCopy, List.find?_map]
  simp only [Function.comp_def, hid, hsame, hc, Option.map_some, if_true]

theorem unitRead1_eq (s : State) (g : Group) (c : CopyCmd) (u : Nat) :
    ∃ tiles srcOk consumed, unitRead1 s g c u = ({ s with tiles := tiles }, { c with srcOk := srcOk, consumed := consumed }) := by
  unfold unitRead1
  dsimp only
  split
  · exact ⟨_, _, _, rfl⟩
  · exact ⟨s.tiles, _, _, rfl⟩

theorem readPlace_clean {s : State} {k : Nat} (hclean : poisoned s k 16 = false) (asid : Nat) (a : DWord) :
    readPlace s asid a k = .data (fillMtlb s (addrDie a) asid (addrOff a)) (memRead s.mem 16 k) := by
  rw [readPlace, pocRead, if_neg (by rw [hclean]; exact Bool.false_ne_true)]

theorem readUnit_hbm {s : State} {asid : Nat} {a : DWord} {lvl e : Nat} (htag : addrTag a = 0)
    (htr : translate s (addrDie a) asid (addrOff a) .read = .ok (lvl, e))
    (hclean : poisoned s (hbmKey (addrDie a) (physOf lvl e (addrOff a))) 16 = false) (l : Launch) (g : Group) (key absent : Nat) :
    readUnit s l g asid key a absent = .data (fillMtlb s (addrDie a) asid (addrOff a))
      (memRead s.mem 16 (hbmKey (addrDie a) (physOf lvl e (addrOff a)))) := by
  have htag0 : readUnit s l g asid key a absent = readUnit.hbm s asid key a absent := by
    unfold readUnit
    split
    · rename_i h; rw [htag] at h; exact absurd h (by decide)
    · rfl
    · rfl
    · rename_i h _; exact absurd htag h
  rw [htag0, ← readPlace_clean hclean]
  simp only [readUnit.hbm, engineAsid, htag, htr, if_true]

theorem writeUnit_plain {s : State} {asid : Nat} {a : DWord} {lvl e : Nat} (htag : addrTag a = 0)
    (htr : translate s (addrDie a) asid (addrOff a) .write = .ok (lvl, e)) (l : Launch) (g : Group) (key : Nat) (x : List Byte) (absent : Nat) :
    writeUnit s l g asid key .plain a x absent =
      .data (fillMtlb (pocWrite s none (hbmKey (addrDie a) (physOf lvl e (addrOff a))) x) (addrDie a) asid (addrOff a)) [] := by
  simp only [writeUnit, engineAsid, htag, writeHbm, htr, putUnit, if_true, if_false, reduceCtorEq, false_and, Bool.false_and, Bool.false_eq_true]

theorem memByte_fillMtlb_pocWrite {s : State} (hwf : Memory.wf s.mem = true) (key : Nat) (x : List Byte) (die asid v a : Nat) :
    memByte (fillMtlb (pocWrite s none key x) die asid v).mem a =
      if key ≤ a ∧ a < key + x.length then x.getD (a - key) 0 else memByte s.mem a := by
  obtain ⟨m, hm⟩ := fillMtlb_eq (pocWrite s none key x) die asid v
  rw [hm]
  exact memByte_pocWrite hwf none key x a

/-- A plain unit goes to its place in HBM. -/
theorem storeUnit_plain {s : State} {c : CopyCmd} {u lvl e : Nat} (hminor : c.minor = 0) (htag : addrTag (c.dstAt u) = 0)
    (htr : translate s (addrDie (c.dstAt u)) c.asid (addrOff (c.dstAt u)) .write = .ok (lvl, e)) (l : Launch) (g : Group) (x : List Byte) :
    storeUnit s l g c u x = .next (unitDone (fillMtlb (pocWrite s none (hbmKey (addrDie (c.dstAt u)) (physOf lvl e (addrOff (c.dstAt u)))) x)
      (addrDie (c.dstAt u)) c.asid (addrOff (c.dstAt u))) l g c u) := by
  have hhow : c.how = .plain := by simp only [CopyCmd.how, hminor]
  simp only [storeUnit, hminor, OfNat.zero_ne_ofNat, if_false, hhow, writeUnit_plain htag htr]

section
variable {s : State} {c : CopyCmd} {l : Launch} {g : Group} {th : Thread} (hc : s.copies.find? (fun x => x.id == c.id) = some c)
  (hctx : copyCtx s c = some (l, g)) (hth : s.thread? c.t = some th) (hrun : c.st = .running)
include hc hctx hrun

theorem exec_copyUnit_unit {u : Nat} (hu : u < c.units) (hfail : c.fail = 0) (hdone : c.done.contains u = false) (hflies : c.flies u = none) :
    exec (.copyUnit c.id u) s = fetchUnit s l g c u := by
  change execCopyUnit c.id u s = _
  simp only [execCopyUnit, hc, copyStep, hctx, hrun, hfail, hdone, hflies, Bool.true_eq_false, Bool.false_eq_true, or_false, if_false, ne_eq,
    not_true_eq_false]
  rw [if_neg (by omega), if_neg (by omega)]

theorem exec_copyUnit_end : exec (.copyUnit c.id c.units) s = finishCopy s l g c := by
  change execCopyUnit c.id c.units s = _
  simp only [execCopyUnit, hc, copyStep, hctx, hrun, Bool.true_eq_false, if_false, if_true]

include hth

/-- A unit of a plain copy in HBM: read, and written where it goes. -/
theorem exec_copyUnit_copies {u k1 e1 k2 e2 : Nat} (hu : u < c.units) (hfail : c.fail = 0) (hminor : c.minor = 0) (hdone : c.done.contains u = false)
    (hflies : c.flies u = none) (hown : ownWrites s l g th c.id (c.srcAt u) 16 = false) (htag1 : addrTag (c.srcAt u) = 0) (htag2 : addrTag (c.dstAt u) = 0)
    (htr1 : translate s (addrDie (c.srcAt u)) c.asid (addrOff (c.srcAt u)) .read = .ok (k1, e1))
    (htr2 : translate (fillMtlb s (addrDie (c.srcAt u)) c.asid (addrOff (c.srcAt u))) (addrDie (c.dstAt u)) c.asid (addrOff (c.dstAt u)) .write =
      .ok (k2, e2)) (hclean : poisoned s (hbmKey (addrDie (c.srcAt u)) (physOf k1 e1 (addrOff (c.srcAt u)))) 16 = false) :
    ∃ mtlb tiles srcOk consumed, exec (.copyUnit c.id u) s = .next (unitDone
      (fillMtlb (pocWrite { s with mtlb := mtlb, tiles := tiles } none (hbmKey (addrDie (c.dstAt u)) (physOf k2 e2 (addrOff (c.dstAt u))))
        (memRead s.mem 16 (hbmKey (addrDie (c.srcAt u)) (physOf k1 e1 (addrOff (c.srcAt u)))))) (addrDie (c.dstAt u)) c.asid (addrOff (c.dstAt u)))
      l g { c with srcOk := srcOk, consumed := consumed } u) := by
  obtain ⟨mtlb, hm⟩ := fillMtlb_eq s (addrDie (c.srcAt u)) c.asid (addrOff (c.srcAt u))
  rw [hm] at htr2
  obtain ⟨tiles, srcOk, consumed, hr⟩ := unitRead1_eq { s with mtlb := mtlb } g c u
  refine ⟨mtlb, tiles, srcOk, consumed, ?_⟩

  have htr2' : translate { s with mtlb := mtlb, tiles := tiles } (addrDie (c.dstAt u)) c.asid (addrOff (c.dstAt u)) .write = .ok (k2, e2) := htr2
  rw [exec_copyUnit_unit hc hctx hrun hu hfail hdone hflies]
  simp only [fetchUnit, hth, hown, Bool.false_eq_true, if_false, readUnit_hbm htag1 htr1 hclean, hm, hr]
  exact storeUnit_plain (c := { c with srcOk := srcOk, consumed := consumed }) hminor htag2 htr2' l g _

end

/-- The last unit's end, or a failure, takes the command from its engine and leaves memory (R243, R247). -/
theorem leaveCopy_keeps (s : State) (l : Launch) (g : Group) (c : CopyCmd) : (leaveCopy s l g c).mem = s.mem ∧
    (leaveCopy s l g c).copies = s.copies.filter (fun x => x.id != c.id) ∧ (c.fail = 0 → (leaveCopy s l g c).lines = s.lines) ∧
    ∀ th, s.thread? c.t = some th → c.fail ≠ 0 → th.cpyFail = 0 → ∃ th', (leaveCopy s l g c).thread? c.t = some th' ∧ th'.cpyFail = c.fail := by
  let s1 : State := { s with copies := s.copies.filter (fun x => x.id != c.id), trigs := s.trigs.filter (fun r => r.id != c.id) }
  have hread := fun bad => onlyReads_readHeld s1 bad
  refine ⟨(hread _).mem, (hread _).copies, fun hfail => ?_, fun th hth hfail hfree => ?_⟩
  · rw [leaveCopy, if_pos hfail, changeLines_nil]
    rfl
  · have hth1 : ∀ bad, (changeLines s1 bad 2).thread? c.t = some th := fun bad => by
      rw [← hth, State.thread?, State.thread?, State.group?, State.group?]
      exact congrArg (fun gs => match List.find? (fun g : Group => g.gid == c.t.gid) gs with
        | some g => g.threads[c.t.lane]?
        | none => none) (hread bad).groups
    refine ⟨_, (thread?_modThread ..).trans (congrArg _ (hth1 _)), ?_⟩
    simp only [ne_eq, hfail, not_false_eq_true, hfree, true_or, and_self, if_true]

/-! Armed commands (R242). -/

section
variable {s : State} {c : CopyCmd} (hc : s.copies.find? (fun x => x.id == c.id) = some c)
include hc

theorem exec_armedFire_copy : exec (.armedFire c.id) s = fireCopy s c := by
  change execArmedFire c.id s = _
  simp only [execArmedFire, hc]

theorem exec_armedFire_fires (harmed : c.st = .armed) (hdue : isDue s c.id = true) :
    exec (.armedFire c.id) s = .next ((dropTrig s c.id).putCopy { c with st := .running }) := by
  rw [exec_armedFire_copy hc]
  simp only [fireCopy, harmed, hdue, if_true]

theorem exec_armedFire_waits (harmed : c.st = .armed) (hdue : isDue s c.id = false) : exec (.armedFire c.id) s = .fault .notEnabled := by
  rw [exec_armedFire_copy hc]
  simp only [fireCopy, harmed, hdue, Bool.false_eq_true, if_false]
  rfl

theorem exec_armedFire_registers {l : Launch} {g : Group} {th : Thread} {lvl e : Nat} (hst : c.st = .unregistered) (hctx : copyCtx s c = some (l, g))
    (hth : s.thread? c.t = some th) (hfail : c.fail = 0) (hown : ownWrites s l g th c.id c.w 4 = false)
    (htr : translate s (addrDie c.w) c.asid (addrOff c.w) .read = .ok (lvl, e))
    (hclean : poisoned s (hbmKey (addrDie c.w) (physOf lvl e (addrOff c.w))) 4 = false)
    (hfree : (s.trigs.filter (fun r => r.die == addrDie c.w)).length < 4096) : exec (.armedFire c.id) s =
      .next ((register (fillMtlb s (addrDie c.w) c.asid (addrOff c.w)) c.id (addrDie c.w) (hbmKey (addrDie c.w) (physOf lvl e (addrOff c.w)))
        c.thr).putCopy { c with st := .armed }) := by
  have hreg : regFree s (addrDie c.w) = true := decide_eq_true hfree
  rw [exec_armedFire_copy hc]
  simp only [fireCopy, hst, hctx, hth, hfail, hown, tryRegister, htr, hclean, hreg, ne_eq, not_true_eq_false, Bool.false_eq_true, or_self, if_false, if_true]

end

/-! The flip of a published page (R178, R239). -/

theorem remotePeer_of_engineAsid {s : State} {asid key : Nat} {a : DWord} {x : Option Nat} (h : engineAsid s asid key a = some x) :
    remotePeer s a = false := by
  unfold engineAsid at h
  unfold remotePeer
  split at h
  · rename_i htag
    rw [htag]
    rfl
  · split at h
    · rename_i hpkg
      simp [hpkg]
    · cases h

theorem exec_publishFlip_done {s s1 : State} {t : Tid} {w : Waiting} {id asid : Nat} {a : DWord} {l : Launch} {g : Group} {th : Thread}
    (hflips : s.flips.all (fun f => f.id != id) = true) (hw : tcWaiter s id = some (t, w)) (hkind : w.kind = .publ id a false)
    (hof : s.ofThread t = some (l, g)) (hth : s.thread? t = some th) (hres : g.resident = true) (hhalt : th.halted = false) (hexit : th.exited = false)
    (hpend : cpysPending s t id asid a = false) (hrel : releaseReady s th id 5 false = true) (hrep : reportFailed th id 5 w.pc = none)
    (hasid : engineAsid s l.asid l.podKey a = some (some asid)) (hflip : flipPage s asid (addrDie a) (addrOff a) = .done s1) :
    exec (.publishFlip id) s = .next (endWait s1 t w) := by
  have hnone : s.flips.find? (fun f => f.id == id) = none := List.find?_eq_none.mpr fun f hf => by simpa using List.all_eq_true.mp hflips f hf
  change execPublishFlip id s = _
  simp only [execPublishFlip, hnone, hw, hkind, publThread, hof, hth, hres, hhalt, hexit, hrel, hrep, hasid, hflip, Option.bind_some, Option.getD_some, hpend,
    remotePeer_of_engineAsid hasid, Bool.false_eq_true, Bool.true_eq_false, false_and, or_self, if_false]

theorem leafByte_flip (b : Byte) (up : Bool) :
    BitVec.ofNat 8 (b.toNat % 2 ^ 7 + if up = true then 0 else 2 ^ 7) = (b &&& 0x7F) ||| (if up = true then 0 else 0x80) := by
  revert b up
  decide

theorem readNat_one (s : State) (k : Nat) : readNat s k 1 = (memByte s.mem k).toNat := by
  simp only [readNat, memRead, ofBytes, Nat.mul_zero, Nat.add_zero]

section
variable {s : State} {asid die v lvl e : Nat} (htr : translate s die asid v .read = .ok (lvl, e))
include htr

theorem flipPage_refused (hsc : leafSC e = false) : flipPage s asid die v = .deny s 0x07 4 := by
  simp only [flipPage, htr, hsc, if_true]
  rfl

theorem flipPage_flips {k : Nat} (hfree : pageBusy s asid die v lvl = false) (hkey : leafKey s die v 4 1 (rootOf s die asid) = some k)
    (hwf : Memory.wf s.mem = true) (hsc : leafSC e = true) : ∃ s1, flipPage s asid die v = .done s1 ∧
      ∀ a, memByte s1.mem a = if a = k then (memByte s.mem k &&& 0x7F) ||| (if leafSS e = true then 0 else 0x80) else memByte s.mem a := by
  refine ⟨?s1, ?heq, ?hmem⟩
  case heq =>
    simp only [flipPage, htr, hsc, hfree, hkey, Bool.true_eq_false, Bool.false_eq_true, if_false]
    rfl
  case hmem =>
    intro a
    refine (memByte_pocWrite hwf none k _ a).trans ?_
    rw [List.length_singleton]
    by_cases ha : a = k
    · subst ha
      rw [if_pos ⟨Nat.le_refl _, Nat.lt_succ_self _⟩, if_pos rfl, Nat.sub_self, readNat_one]
      exact leafByte_flip _ _
    · rw [if_neg (by omega), if_neg ha]

end

/-- Settles O45: a matrix step by what its operands read, a copy unit by its number, an armed command by its state, a flip by the entry of its page. -/
theorem enginesGoOn : Obligations.EnginesGoOn := by
  unfold Obligations.EnginesGoOn
  refine ⟨?matrix, ?copy, ?armed, fun s s1 t w id asid a l g th => exec_publishFlip_done, ?flip⟩
  case matrix =>
    intro s core o0 o rest0 rest l g hq hof hrun e s1 first goes
    have hgoes : ∀ {k s' v}, exec (.matrixStep core) s = .next s' → Writes1 s s' core k v → goes k s' v :=
      fun hexec hw => ⟨hexec, hw.mem, hw.launches, hw.slot, hw.others, hw.engines⟩
    refine ⟨fun hhold hminor herr => ?_, fun hhold hminor herr hbeyond => ?_, fun hhold herr hbeyond hq1 hhold1 => ⟨fun hminor => ?_, fun hminor hread => ?_⟩⟩
    · obtain ⟨hw, hqueue, hfail⟩ := failMatrix_writes hq l g (o := first) hminor 1
      exact ⟨_, hgoes (exec_matrixStep_fails hq hof hrun hhold (.inl ⟨herr, rfl⟩)) hw, hqueue, hfail⟩
    · obtain ⟨hw, hqueue, hfail⟩ := failMatrix_writes hq l g (o := first) hminor 3
      exact ⟨_, hgoes (exec_matrixStep_fails hq hof hrun hhold (.inr ⟨herr, hbeyond, rfl⟩)) hw, hqueue, hfail⟩
    · obtain ⟨hw, hqueue⟩ := zeros_write (onlyReads_latchQueue s core) hq1
      exact ⟨_, hgoes (exec_matrixStep_goes hq hof hrun hhold herr hbeyond hq1 (headStep_zeros l g hhold1 hminor)) hw, hqueue,
        (onlyReads_latchQueue s core).groups⟩
    · obtain ⟨hw, hqueue⟩ := computed_writes (onlyReads_latchQueue s core) hq1 l g
      exact ⟨_, _, hgoes (exec_matrixStep_goes hq hof hrun hhold herr hbeyond hq1 (headStep_computes l g hhold1 hminor hread)) hw,
        stepSlot_length .., hqueue, fun i j hi hj => stepSlot_getElem? _ l g o _ hi hj⟩
  case copy =>
    intro s c l g th hc hctx hth hrun
    refine ⟨?_, fun hflight hfail hunits hsigs => ?_, fun hflight hfail hfree => ?_⟩
    · intro u k1 e1 k2 e2 hu hfail hminor hdone hflies hown htag1 htag2 hwf htr1 htr2 src dst hclean
      obtain ⟨mtlb, tiles, srcOk, consumed, hexec⟩ :=
        exec_copyUnit_copies hc hctx hth hrun hu hfail hminor hdone hflies hown htag1 htag2 htr1 htr2 hclean
      obtain ⟨m2, hm2⟩ := fillMtlb_eq (pocWrite { s with mtlb := mtlb, tiles := tiles } none dst (memRead s.mem 16 src)) (addrDie (c.dstAt u)) c.asid
        (addrOff (c.dstAt u))
      refine ⟨_, { ({ c with srcOk := srcOk, consumed := consumed } : CopyCmd).land u with done := u :: c.done }, hexec, ?_, rfl, hfail, ?_, fun a => ?_⟩
      · rw [hm2]
        exact find?_putCopy (by exact hc) rfl
      · rw [hm2]
        rfl
      · refine (memByte_fillMtlb_pocWrite (s := { s with mtlb := mtlb, tiles := tiles }) hwf dst (memRead s.mem 16 src) _ _ _ a).trans ?_
        rw [memRead_length]
        split
        · rename_i ha
          exact memRead_getD s.mem 16 src (a - dst) (by omega)
        · rfl
    · have hend : finishCopy s l g c = .next (leaveCopy s l g c) := by
        rw [finishCopy, if_neg (by simp [hflight]), if_neg (by simp [hfail]), if_neg (by omega), if_neg (by simp [hsigs])]
      obtain ⟨hmem, hcopies, hlines, -⟩ := leaveCopy_keeps s l g c
      exact ⟨_, (exec_copyUnit_end hc hctx hrun).trans hend, hmem, hlines hfail, hcopies⟩
    · have hend : finishCopy s l g c = .next (leaveCopy s l g c) := by
        rw [finishCopy, if_neg (by simp [hflight]), if_pos hfail]
      obtain ⟨hmem, hcopies, -, hthread⟩ := leaveCopy_keeps s l g c
      obtain ⟨th', hth', hcode⟩ := hthread th hth hfail hfree
      exact ⟨_, th', (exec_copyUnit_end hc hctx hrun).trans hend, hmem, hcopies, hth', hcode⟩
  case armed =>
    intro s c hc due
    refine ⟨fun harmed hdue => ⟨_, exec_armedFire_fires hc harmed hdue, rfl, rfl, rfl, find?_putCopy (by exact hc) rfl⟩,
      fun harmed hdue => exec_armedFire_waits hc harmed hdue, ?_⟩
    intro l g th lvl e hst hctx hth hfail hown htr key hclean hfree
    obtain ⟨m, hm⟩ := fillMtlb_eq s (addrDie c.w) c.asid (addrOff c.w)
    have hexec := exec_armedFire_registers hc hst hctx hth hfail hown htr hclean hfree
    rw [hm] at hexec
    exact ⟨_, hexec, rfl, rfl, rfl, find?_putCopy (by exact hc) rfl⟩
  case flip =>
    exact fun s asid die v lvl e k htr hfree hkey hwf =>
      ⟨fun hsc => flipPage_flips htr hfree hkey hwf hsc, fun hsc => ⟨s, flipPage_refused htr hsc, rfl⟩⟩

end Sys2Proof.Engines
end

section
/-! A page as its post finds it (O46; R319, R326): the statement asks for the bytes of its frame in every state, and memory reads by cells in order. -/
namespace Sys2Proof.Queries
open Sys2Proof.Machine Sys2Proof.Claims

/-- A state whose memory lists its cells out of order: the cell at 2^40 hides the one at 0, which lies in the frame of the page at address 0. -/
def disordered : State :=
  { State.reset with mem := [(2 ^ 40, 1), (0, 7)], mtlb := [{ die := 0, asid := 0, lvl := 4, page := 0, leaf := 0x20 }] }

/-- A descriptor under which its first page has tokens. -/
def someDesc : List Byte := List.replicate 64 1

theorem translate_disordered : translate disordered 0 0 0 .read = .ok (4, 0x20) := by decide

theorem aqCount_someDesc : aqCount someDesc 0 ≠ 0 := by decide

/-- Memory reads 0 at the first byte of the frame. -/
theorem memByte_disordered : memByte disordered.mem 0 = 0 := by decide

/-- The page keeps the cell that memory hides. -/
theorem memByte_pageAt_disordered : memByte (pageAt disordered 0 someDesc 0 0).cells 0 = 7 := by decide

/-- Refutes O46: in a state whose memory is not in the order of its cells, which the clause on a page's post does not exclude (it asks for no
`Memory.wf s.mem`), the page keeps a byte 7 where memory reads 0. -/
theorem not_queriesAreAnswered : ¬ Obligations.QueriesAreAnswered := by
  unfold Obligations.QueriesAreAnswered
  intro h
  obtain ⟨-, hpost, -⟩ := h
  obtain ⟨-, -, htranslated⟩ := hpost disordered 0 0 someDesc 0
  obtain ⟨-, hcells⟩ := htranslated 4 0x20 aqCount_someDesc translate_disordered
  obtain ⟨-, -, -, -, -, hbytes⟩ := hcells (by decide)
  have hsame : memByte (pageAt disordered 0 someDesc 0 0).cells 0 = memByte disordered.mem 0 := hbytes 0 (by decide)
  rw [memByte_pageAt_disordered, memByte_disordered] at hsame
  exact absurd hsame (by decide)

end Sys2Proof.Queries
end

section
/-! What each host command does (O49): a command that nothing turns away runs (R431), and each of the twelve ends as R372, R380, R385, R390, R391 and
R432-R439 say. -/
namespace Sys2Proof.HostWords
open Sys2Proof.Machine Sys2Proof.Claims Sys2Proof.Laws Sys2Proof.Outside Sys2Proof.HostCommands

/-! A command that is started runs (R431). -/

theorem cmdGate_zero (s : State) {c : HostCmd} (hop : c.op = 0) (form : Bool) : cmdGate s c form ≠ none := by
  have hzero : (c.op == 0) = true := by rw [hop]; rfl
  unfold cmdGate
  dsimp only
  rw [hzero]
  split
  · exact nofun
  · split
    · exact nofun
    · split
      · exact nofun
      · exact nofun

/-- The words of a queue's entry, where its place is refused, are those of no command. -/
theorem queueEntry_unplaced {s : State} {q : Nat} {ws : List Word} (hentry : queueEntry s q = some ws) (hkey : entryKey s (.queue q) = none) :
    ws = List.replicate 16 0 := by
  unfold queueEntry at hentry
  unfold entryKey at hkey
  dsimp only at hentry hkey
  cases hq : s.queues[q]? with
  | none => simp [hq] at hentry
  | some cq =>
    rw [hq] at hentry hkey
    simp only [Option.bind_some] at hkey hentry
    split at hentry
    · cases hentry
    · cases haddr : hostAddrKey s cq.asid.toNat (cq.entryAt cq.head.toNat) .read with
      | ok key => rw [haddr] at hkey; cases hkey
      | error d =>
        simp only [haddr] at hentry
        split at hentry
        · exact (Option.some.inj hentry).symm
        · cases hentry

theorem takeCmd_queue_words {s s1 : State} {q op : Nat} {c : HostCmd} (ht : takeCmd s (.queue q) op = some (c, s1)) :
    queueEntry s q = some c.words := by
  unfold takeCmd at ht
  dsimp only at ht
  split at ht
  · cases ht
  · split at ht
    · split at ht
      · cases ht
        assumption
      · cases ht
    · cases ht

section
variable {s s1 : State} {src : CmdSrc} {op : Nat} {c : HostCmd} (hst : Started s s1 src op c)
include hst

/-- No error is counted for an entry that is read and begins a command. -/
theorem countEntry_started : countEntry s s1 src = s1 := by
  obtain ⟨ht, hbad, hgate⟩ := hst
  cases hkey : entryKey s src with
  | some key =>
    have hclean : poisoned s key 64 = false := by
      rw [entryBad, hkey] at hbad
      exact hbad
    simp only [countEntry, hkey, hclean, Bool.false_and, Bool.false_eq_true, if_false]
  | none =>
    cases src with
    | channel a ws => rfl
    | queue q =>
      have hop : c.op = 0 := by
        rw [HostCmd.op, queueEntry_unplaced (takeCmd_queue_words ht) hkey]
        rfl
      exact absurd hgate (cmdGate_zero s1 hop true)

theorem runCmd_started {form : HostCmd → Bool} (hform : form c = true) (f : HostCmd → State → Out) : runCmd s src op form f = f c s1 := by
  have hcount := countEntry_started hst
  obtain ⟨ht, hbad, hgate⟩ := hst
  simp only [runCmd, ht, hcount, hform, hbad, Bool.not_false, Bool.and_self, hgate]

end

/-! LAUNCH (R133, R432). -/

/-- What the launch of a request looks like when it is accepted. -/
def IsAccepted (l : Launch) (ref : LRef) (h : Header) (r : LaunchReq) : Prop :=
  l.ref = ref ∧ l.hdr.entry = h.entry ∧ l.state = 1 ∧ l.T = r.T ∧ l.P = r.P ∧ l.asid = r.asid ∧ l.parent = r.parent

theorem acceptLaunch_appends (s : State) (ref : LRef) (h : Header) (r : LaunchReq) : ∃ l, IsAccepted l ref h r ∧
    (acceptLaunch s ref h r).launches = s.launches ++ [l] ∧ (acceptLaunch s ref h r).mem = s.mem ∧ (acceptLaunch s ref h r).groups = s.groups := by
  refine ⟨_, ⟨?_, ?_, ?_, ?_, ?_, ?_, ?_⟩, rfl, rfl, rfl⟩
  case refine_2 => cases r.prio <;> rfl
  all_goals rfl

section
variable {s : State} {c : HostCmd} {s2 : State} (hs2 : s2 = countHeader s (launchReq c 1).asid (launchReq c 1).header)
include hs2

theorem beginLaunch_refused {code : Nat}
    (hcode : checkLaunch s2 (addrDie (launchReq c 1).header) (readHeader s2 (launchReq c 1).asid (launchReq c 1).header) (launchReq c 1) = code)
    (hne : code ≠ 0) : beginLaunch s c [] = completeCmd s2 c 0 0 (statusWord 0 4 code) := by
  subst hs2
  have hmax : max 1 ([] : List Nat).length = 1 := rfl
  rw [beginLaunch]
  simp only [hmax, hcode]
  split
  · exact absurd rfl hne
  · rfl

theorem beginLaunch_accepts {h : Header} (hgang : (launchReq c 1).gang = false)
    (hcode : checkLaunch s2 (addrDie (launchReq c 1).header) (readHeader s2 (launchReq c 1).asid (launchReq c 1).header) (launchReq c 1) = 0)
    (hhdr : readHeader s2 (launchReq c 1).asid (launchReq c 1).header = some h) : beginLaunch s c [] =
      let q := takeId s2 (addrDie (launchReq c 1).header)
      let ref : LRef := { die := addrDie (launchReq c 1).header, id := q.1 }
      keepCmd (acceptLaunch q.2 ref h (launchReq c 1)) c (.launch ref) := by
  subst hs2
  have hmax : max 1 ([] : List Nat).length = 1 := rfl
  have hone : ¬ 1 < ([] : List Nat).length := by decide
  rw [hhdr] at hcode
  rw [beginLaunch]
  simp only [hmax, hhdr, hcode, hone, false_and, if_false, hgang, Bool.false_eq_true]

end

section
variable {s s1 : State} {src : CmdSrc} {c : HostCmd}

theorem exec_launchCommand_started (hst : Started s s1 src 1 c) (hform : launchForm c = true) (halone : c.ptr 0x20 = 0) :
    exec (.launchCommand src) s = .next (beginLaunch s1 c []) := by
  rw [exec_launchCommand]
  refine (runCmd_started hst hform _).trans ?_
  exact if_pos halone

theorem launch_accepted (hst : Started s s1 src 1 c) (hform : launchForm c = true) (halone : c.ptr 0x20 = 0) {s2 : State} {h : Header}
    (hs2 : s2 = countHeader s1 (launchReq c 1).asid (launchReq c 1).header)
    (hcode : checkLaunch s2 (addrDie (launchReq c 1).header) (readHeader s2 (launchReq c 1).asid (launchReq c 1).header) (launchReq c 1) = 0)
    (hhdr : readHeader s2 (launchReq c 1).asid (launchReq c 1).header = some h) : ∃ s' l x, exec (.launchCommand src) s = .next s' ∧
      s'.launches = s1.launches ++ [l] ∧ s'.mem = s1.mem ∧ s'.groups = s1.groups ∧ l.state = 1 ∧ l.ref.die = addrDie (c.ptr 0x08) ∧ l.hdr.entry = h.entry ∧
      l.T = (c.word 0x18).toNat ∧ l.P = 1 ∧ l.asid = bits (c.word 0x1C) 15 8 ∧ l.parent = none ∧ x ∈ s'.cmds ∧ x.id = c.id ∧ x.wait = .launch l.ref := by
  have hgang : (launchReq c 1).gang = false := by simp [launchReq, halone]
  obtain ⟨errs, herrs⟩ := Scheduler.countHeader_eq s1 (launchReq c 1).asid (launchReq c 1).header
  have hs2' : s2 = { s1 with errs := errs } := hs2.trans herrs
  obtain ⟨l, ⟨href, hentry, hstate, hT, hP, hasid, hparent⟩, hlaunches, hmem, hgroups⟩ :=
    acceptLaunch_appends (takeId s2 (addrDie (launchReq c 1).header)).2
      { die := addrDie (launchReq c 1).header, id := (takeId s2 (addrDie (launchReq c 1).header)).1 } h (launchReq c 1)
  refine ⟨_, l, { c with wait := .launch l.ref }, (exec_launchCommand_started hst hform halone).trans
    (congrArg _ (beginLaunch_accepts hs2 hgang hcode hhdr)), hlaunches.trans ?_, hmem.trans ?_, hgroups.trans ?_, hstate, ?_, hentry, hT, hP, hasid,
    hparent, ?_, rfl, rfl⟩
  · rw [hs2']; rfl
  · rw [hs2']; rfl
  · rw [hs2']; rfl
  · rw [href]; rfl
  · rw [href]; exact List.mem_append_right _ List.mem_cons_self

/-! COPY, SIGNAL and WAIT (R432). -/

theorem hostCopy_started (hst : Started s s1 src 2 c) (htag1 : tag02 (c.ptr 0x08) = true) (htag2 : tag02 (c.ptr 0x10) = true)
    (ha1 : (c.ptr 0x08).toNat % 16 = 0) (ha2 : (c.ptr 0x10).toNat % 16 = 0) (hn : (c.word 0x18).toNat % 16 = 0) (hmax : (c.word 0x18).toNat ≤ 2 ^ 28) :
    exec (.hostCopy src) s = if (c.word 0x18).toNat = 0 then .next (completeCmd s1 c 0 0 0) else .next (keepCmd s1 c (.copy [])) := by
  rw [exec_hostCopy]
  exact runCmd_started hst (by simp only [htag1, htag2, ha1, ha2, hn, decide_eq_true hmax, beq_self_eq_true, Bool.and_self]) _

/-- The value that SIGNAL writes: its operand, or the sum with what is there. -/
def signalled (s : State) (key : Nat) (c : HostCmd) : Word := if c.word 0x14 = 0 then c.word 0x10 else BitVec.ofNat 32 (readNat s key 4) + c.word 0x10

theorem atomicAt_signalled (s : State) (key : Nat) (c : HostCmd) :
    (atomicAt s none (if c.word 0x14 = 0 then 1 else 0) key 4 [c.word 0x10]).1 = pocWrite s none key (bytesOf 4 (signalled s key c).toNat) := by
  unfold signalled
  split <;> rfl

section
variable (hst : Started s s1 src 3 c) (hcounter : counterForm (c.ptr 0x08) = true) (hop : (c.word 0x14).toNat ≤ 1)
include hst hcounter hop

theorem signal_performs {key : Nat} (hkey : cmdKey s1 c (c.ptr 0x08) 4 .write 2 = .ok key) (hclean : poisoned s1 key 4 = false) :
    exec (.signal src) s = .next (completeCmd (pocWrite s1 none key (bytesOf 4 (signalled s1 key c).toNat)) c 0 0 0) := by
  rw [exec_signal]
  refine (runCmd_started hst (by rw [hcounter, decide_eq_true hop]; rfl) _).trans ?_
  simp only [hkey, hclean, Bool.false_eq_true, if_false, atomicAt_signalled]

theorem signal_refused {d : Deny} (haddr : hostAddrKey s1 c.asid (c.ptr 0x08) .write = .error d) (hcause : d.cause = 0x06 ∨ d.cause = 0x07) :
    exec (.signal src) s = .next (completeCmd s1 c 0 0 (if d.cause = 0x06 then 2 else 3)) := by
  have hkey : cmdKey s1 c (c.ptr 0x08) 4 .write 2 = .error (if d.cause = 0x06 then 2 else 3) := by
    simp only [cmdKey, haddr]
    obtain h | h := hcause <;> rw [h] <;> rfl
  rw [exec_signal]
  refine (runCmd_started hst (by rw [hcounter, decide_eq_true hop]; rfl) _).trans ?_
  simp only [hkey]
  by_cases h6 : d.cause = 0x06
  · simp only [h6, if_true]
    rfl
  · simp only [h6, if_false]
    rfl

end

theorem hostWait_registers (hst : Started s s1 src 4 c) (hcounter : counterForm (c.ptr 0x08) = true) {key : Nat}
    (hkey : cmdKey s1 c (c.ptr 0x08) 4 .read 2 = .ok key) (hfree : (s1.trigs.filter (fun r => r.die == addrDie (c.ptr 0x08))).length < 4096) :
    exec (.hostWait src) s = .next (keepCmd (register s1 c.id (addrDie (c.ptr 0x08)) key (c.word 0x10)) c (.counter c.id)) := by
  have hreg : regFree s1 (addrDie (c.ptr 0x08)) = true := decide_eq_true hfree
  rw [exec_hostWait]
  refine (runCmd_started hst hcounter _).trans ?_
  simp only [hkey, hreg, if_true]

/-! Ownership (R434). -/

theorem ownerClaim_started (hst : Started s s1 src 11 c) : exec (.ownerClaim src) s =
    if s1.ctl.owner = 3 then .next (completeCmd { s1 with ctl := { s1.ctl with owner := c.agent } } c 0 0 0) else .next (completeCmd s1 c 0 2 0) := by
  rw [exec_ownerClaim]
  exact runCmd_started hst rfl _

theorem ownerYield_started (hst : Started s s1 src 12 c) (hto : (c.word 0x08).toNat ≤ 3) : exec (.ownerYield src) s =
    .next (completeCmd { s1 with ctl := { s1.ctl with owner := (c.word 0x08).toNat } } c 0 0 0) := by
  rw [exec_ownerYield]
  exact runCmd_started hst (decide_eq_true hto) _

/-! ATTEST (R439). -/

section
variable (hst : Started s s1 src 10 c) (htag1 : tag02 (c.ptr 0x08) = true) (htag2 : tag02 (c.ptr 0x18) = true)
include hst htag1 htag2

theorem attest_unread {s2 : State} (hread : readBuffer s1 c.asid (c.ptr 0x08) (c.word 0x10).toNat = .error s2) :
    exec (.attest src) s = .next (completeCmd s2 c 0 0x80 0) := by
  rw [exec_attest]
  refine (runCmd_started hst (by rw [htag1, htag2]; rfl) _).trans ?_
  simp only [hread]
  rfl

section
variable {req : List Byte} (hread : readBuffer s1 c.asid (c.ptr 0x08) (c.word 0x10).toNat = .ok req)
include hread

theorem attest_too_long (hlong : (c.word 0x20).toNat < (attestReply s1 req).length) :
    exec (.attest src) s = .next (completeCmd { s1 with freeCtr := s1.freeCtr + 64 } c 0 0x82 0) := by
  rw [exec_attest]
  refine (runCmd_started hst (by rw [htag1, htag2]; rfl) _).trans ?_
  simp only [hread, if_pos hlong]

variable {s3 : State} (hfits : (attestReply s1 req).length ≤ (c.word 0x20).toNat)
include hfits

theorem attest_written (hwrite : writeBuffer { s1 with freeCtr := s1.freeCtr + 64 } c.asid (c.ptr 0x18) (attestReply s1 req) = .ok s3) :
    exec (.attest src) s = .next (completeCmd s3 c 0 0 (BitVec.ofNat 32 (attestReply s1 req).length)) := by
  rw [exec_attest]
  refine (runCmd_started hst (by rw [htag1, htag2]; rfl) _).trans ?_
  simp only [hread, if_neg (Nat.not_lt.mpr hfits), hwrite]

theorem attest_unwritten (hwrite : writeBuffer { s1 with freeCtr := s1.freeCtr + 64 } c.asid (c.ptr 0x18) (attestReply s1 req) = .error s3) :
    exec (.attest src) s = .next (completeCmd s3 c 0 0x80 0) := by
  rw [exec_attest]
  refine (runCmd_started hst (by rw [htag1, htag2]; rfl) _).trans ?_
  simp only [hread, if_neg (Nat.not_lt.mpr hfits), hwrite]
  rfl

end

end

/-! CAL_LOAD (R385). -/

theorem calLoad_refused (hst : Started s s1 src 5 c) {code : Nat} (hread : readCal s1 c.asid (c.ptr 0x08) = .error code) : exec (.calLoad src) s =
    .next (completeCmd (if code = 8 then countImage s1 c.asid (c.ptr 0x08) else s1) c 0 code 0) := by
  rw [exec_calLoad]
  refine (runCmd_started hst rfl _).trans ?_
  simp only [hread]

theorem calLoad_read (hst : Started s s1 src 5 c) {cal : Cal} (hread : readCal s1 c.asid (c.ptr 0x08) = .ok cal) : exec (.calLoad src) s =
    if calCheck s1 cal ≠ 0 then .next (completeCmd s1 c 0 (calCheck s1 cal) 0)
    else .next (completeCmd (if s1.net.cal.isNone then firstGen s1 cal else { s1 with net := { s1.net with staged := some cal } }) c 0 0 0) := by
  rw [exec_calLoad]
  refine (runCmd_started hst rfl _).trans ?_
  simp only [hread]

end

theorem align_cal (n : Net) : (align n).cal = n.cal := by
  unfold align
  split <;> rfl

/-- The first generation is in force from slot 0 of cycle 0 (R378). -/
theorem firstGen_begins (s : State) (c : Cal) : (firstGen s c).net.cal = some c ∧ (firstGen s c).calSlot = 0 ∧ (firstGen s c).calCycle = 0 := by
  have hcal : (enterGen s c).net.cal = some c := align_cal _
  unfold firstGen
  dsimp only
  split
  · exact ⟨hcal, rfl, rfl⟩
  · exact ⟨hcal, rfl, rfl⟩

/-! Ports and the calendar's status (R390, R391), and FAULT_REPLAY (R339). -/

section
variable {s s1 : State} {src : CmdSrc} {c : HostCmd}

theorem portDrain_started (hst : Started s s1 src 6 c) (hport : (c.word 0x08).toNat < 64) {p : Port} (hp : s1.net.ports[(c.word 0x08).toNat]? = some p) :
    exec (.portDrain src) s = if p.st = .active
      then .next (keepCmd (s1.modPort c.port (fun p => { p with drainReq := true })) c (.drain c.port)) else .next (completeCmd s1 c 0 5 0) := by
  rw [exec_portDrain]
  refine (runCmd_started hst (decide_eq_true hport) _).trans ?_
  simp only [HostCmd.port, hp]

theorem portRetrain_started (hst : Started s s1 src 7 c) (hport : (c.word 0x08).toNat < 64) {p : Port} (hp : s1.net.ports[(c.word 0x08).toNat]? = some p) :
    exec (.portRetrain src) s = if p.st = .drained ∨ p.st = .failed
      then .next (keepCmd (s1.modPort c.port (fun p => p.train (portPlans s1 c.port))) c (.retrain c.port)) else .next (completeCmd s1 c 0 5 0) := by
  rw [exec_portRetrain]
  refine (runCmd_started hst (decide_eq_true hport) _).trans ?_
  simp only [HostCmd.port, hp]

theorem modPort_getElem? {k : Nat} {p : Port} (hp : s.net.ports[k]? = some p) (f : Port → Port) : (s.modPort k f).net.ports[k]? = some (f p) := by
  simp [State.modPort, hp]

theorem calStatus_written (hst : Started s s1 src 8 c) (htag : tag02 (c.ptr 0x08) = true) {s2 : State}
    (hwrite : writeBuffer s1 c.asid (c.ptr 0x08) (calBlock s1) = .ok s2) : exec (.calStatus src) s = .next (completeCmd s2 c 0 0 0) := by
  rw [exec_calStatus]
  refine (runCmd_started hst htag _).trans ?_
  simp only [hwrite]

theorem calStatus_unwritten (hst : Started s s1 src 8 c) (htag : tag02 (c.ptr 0x08) = true) {s2 : State}
    (hwrite : writeBuffer s1 c.asid (c.ptr 0x08) (calBlock s1) = .error s2) : exec (.calStatus src) s = .next (completeCmd s2 c 0 0x80 0) := by
  rw [exec_calStatus]
  refine (runCmd_started hst htag _).trans ?_
  simp only [hwrite]
  rfl

section
variable (hst : Started s s1 src 9 c) (hdie : bits (c.word 0x08) 15 0 < 4) (hans : (c.word 0x0C).toNat ≤ 1)
include hst hdie hans

theorem faultReplay_unknown
    (hfind : s1.frecs.find? (fun r => r.die == bits (c.word 0x08) 15 0 && r.tag == bits (c.word 0x08) 31 16 && r.open_) = none) :
    exec (.faultReplay src) s = .next (completeCmd s1 c 0 1 0) := by
  rw [exec_faultReplay]
  refine (runCmd_started hst (by rw [decide_eq_true hdie, decide_eq_true hans]; rfl) _).trans ?_
  simp only [hfind]

theorem faultReplay_answers {r : FRec}
    (hfind : s1.frecs.find? (fun r => r.die == bits (c.word 0x08) 15 0 && r.tag == bits (c.word 0x08) 31 16 && r.open_) = some r) :
    exec (.faultReplay src) s = .next (completeCmd (answerRec s1 r (c.word 0x0C == 0)) c 0 0 0) := by
  rw [exec_faultReplay]
  refine (runCmd_started hst (by rw [decide_eq_true hdie, decide_eq_true hans]; rfl) _).trans ?_
  simp only [hfind]

end

end

/-! The responses of ATTEST (R438, R439). -/

section
variable (s : State) {req : List Byte} (hlen : 4 ≤ req.length)
include hlen

theorem attestReply_version (hcode : (req.getD 1 0).toNat = 0x84) : attestReply s req = [0x10, 0x04, 0, 0, 0, 1, 0x00, 0x13] := by
  have hsup : spdmSupported s.ctl req = true := by
    simp only [spdmSupported, spdmByte, hcode, decide_eq_true hlen, Bool.and_self]
  rw [attestReply, spdmReply, hsup]
  simp only [spdmByte, hcode]
  rfl

theorem attestReply_refusal (hcode : (req.getD 1 0).toNat ∉ [0x81, 0x82, 0x83, 0x84, 0xE0, 0xE1, 0xE3]) :
    attestReply s req = [0x13, 0x7F, 0x07, req.getD 1 0] := by
  simp only [List.mem_cons, List.not_mem_nil, or_false, not_or] at hcode
  obtain ⟨h81, h82, h83, h84, hE0, hE1, hE3⟩ := hcode
  have hsup : spdmSupported s.ctl req = false := by
    unfold spdmSupported
    dsimp only
    split <;> simp_all [spdmByte]
  rw [attestReply, spdmReply, if_pos hsup, spdmRefusal, spdmHead, spdmByte, BitVec.ofNat_toNat, BitVec.setWidth_eq]
  rfl

end

theorem filter_zipIdx_index {α : Type} {xs : List α} {k : Nat} {x : α} (hk : xs[k]? = some x) (j : Nat) :
    (xs.zipIdx j).filter (fun y => y.2 == j + k) = [(x, j + k)] := by
  induction xs generalizing j k with
  | nil => cases hk
  | cons y ys ih =>
    rw [List.zipIdx_cons]
    cases k with
    | zero =>
      obtain rfl : y = x := by simpa using hk
      have hlater : (ys.zipIdx (j + 1)).filter (fun z => z.2 == j + 0) = [] := List.filter_eq_nil_iff.mpr fun z hz => by
        have := List.le_snd_of_mem_zipIdx hz
        simp only [beq_iff_eq]
        omega
      rw [List.filter_cons_of_pos (by simp), hlater, Nat.add_zero]
    | succ k =>
      rw [List.filter_cons_of_neg (by simp), Nat.add_comm k 1, ← Nat.add_assoc]
      exact ih hk (j + 1)

/-- Of the measurements taken, the one with an index is one block. -/
theorem spdmBlocks_one {c : Ctl} {k : Nat} {d : List Byte} (hk : c.measured[k]? = some d) (hsmall : k + 1 < 0xFF) (free : List Byte) :
    spdmBlocks c free (k + 1) = [spdmBlock free (k + 1) d] := by
  have hone : c.measured.zipIdx.filter (fun x => (k + 1 == 0xFF) || x.2 + 1 == k + 1) = [(d, k)] := by
    have hff : (k + 1 == 0xFF) = false := by simpa using Nat.ne_of_lt hsmall
    have hindex : (fun x : List Byte × Nat => (k + 1 == 0xFF) || x.2 + 1 == k + 1) = fun x => x.2 == 0 + k := by
      funext x
      simp [hff]
    rw [hindex, filter_zipIdx_index hk 0, Nat.zero_add]
  rw [spdmBlocks, hone]
  rfl

theorem attestReply_measurement (s : State) {req : List Byte} {k : Nat} {d : List Byte} (hcode : (req.getD 1 0).toNat = 0xE0)
    (hversion : req.getD 0 0 = 0x13) (hplain : req.getD 2 0 = 0) (hindex : req.getD 3 0 = BitVec.ofNat 8 (k + 1)) (hsmall : k < 254)
    (hlen : 12 ≤ req.length) (hk : s.ctl.measured[k]? = some d) :
    (attestReply s req).take 5 = [0x13, 0x60, 0, 0, 1] ∧ ((attestReply s req).drop 15).take d.length = d := by
  have hop : spdmByte req 3 = k + 1 := by
    rw [spdmByte, hindex, BitVec.toNat_ofNat]
    omega
  have hb2 : spdmByte req 2 = 0 := by rw [spdmByte, hplain]; rfl
  have hb0 : spdmByte req 0 = 0x13 := by rw [spdmByte, hversion]; rfl
  have hb1 : spdmByte req 1 = 0xE0 := hcode
  have htaken : k + 1 ≤ s.ctl.measured.length := by
    obtain ⟨h, -⟩ := List.getElem?_eq_some_iff.mp hk
    exact h
  have hlen4 : 4 ≤ req.length := by omega
  have hsup : spdmSupported s.ctl req = true := by
    simp [spdmSupported, hop, hb2, hb0, hb1, hlen, hlen4, htaken]
  have hreply : attestReply s req = spdmMeasurements s.ctl ((List.range 64).map (fun i => Config.freeByte (s.freeCtr + i))) req := by
    rw [attestReply, spdmReply, hsup]
    simp only [hb1]
    rfl
  obtain ⟨n, x, rest, hshape⟩ : ∃ n x rest, attestReply s req =
      spdmHead 0x60 0 0 ++ [1] ++ bytesOf 3 n ++ ([BitVec.ofNat 8 (k + 1), 1] ++ bytesOf 2 67 ++ [x] ++ bytesOf 2 64) ++ (d ++ rest) := by
    refine ⟨?_, ?_, ?_, hreply.trans ?eq⟩
    case eq =>
      rw [spdmMeasurements]
      simp only [hop, hb2, spdmBlocks_one hk (Nat.succ_lt_succ hsmall), Nat.succ_ne_zero, if_false, Nat.zero_mod, Nat.reduceBEq, Bool.false_eq_true,
        List.flatten_cons, List.flatten_nil, List.append_nil, spdmBlock, List.append_assoc]
      rfl
  rw [hshape]
  exact ⟨rfl, List.take_left' rfl⟩

/-- Settles O49: each command by the one way in which a command starts (`runCmd_started`), then by its own operands. -/
theorem hostCommandsComplete : Obligations.HostCommandsComplete := by
  unfold Obligations.HostCommandsComplete
  refine ⟨?launch, ?copy, ?signal, ?refused, ?wait, ?rest, ?spdm⟩
  case launch =>
    intro s s1 src c hst hform halone r s2 h
    exact ⟨fun code hcode hne => (exec_launchCommand_started hst hform halone).trans (congrArg _ (beginLaunch_refused rfl hcode hne)),
      fun hd hcode hhdr => launch_accepted hst hform halone rfl hcode hhdr⟩
  case copy =>
    intro s s1 src c hst htag1 htag2 ha1 ha2 hn hmax
    have hexec := hostCopy_started hst htag1 htag2 ha1 ha2 hn hmax
    exact ⟨fun h0 => hexec.trans (if_pos (congrArg BitVec.toNat h0)), fun hne => hexec.trans (if_neg fun h0 => hne (BitVec.eq_of_toNat_eq h0))⟩
  case signal => exact fun s s1 src c key hst hcounter hop hkey hclean => signal_performs hst hcounter hop hkey hclean
  case refused => exact fun s s1 src c d hst hcounter hop haddr hcause => signal_refused hst hcounter hop haddr hcause
  case wait => exact fun s s1 src c key hst hcounter hkey hfree => hostWait_registers hst hcounter hkey hfree
  case rest =>
    refine fun s s1 src c => ⟨fun hst ho => (ownerClaim_started hst).trans (if_pos ho), fun hst ho => (ownerClaim_started hst).trans (if_neg ho),
      ownerYield_started, ?attest, ?calLoad, ?portDrain, ?portRetrain, ?calStatus, ?faultReplay⟩
    case attest =>
      exact fun hst htag1 htag2 => ⟨fun s2 hread => attest_unread hst htag1 htag2 hread, fun req hread =>
        ⟨attest_too_long hst htag1 htag2 hread, fun hfits => ⟨fun s3 => attest_written hst htag1 htag2 hread hfits,
          fun s3 => attest_unwritten hst htag1 htag2 hread hfits⟩⟩⟩
    case calLoad =>
      refine fun hst => ⟨fun code hread hne => (calLoad_refused hst hread).trans (by rw [if_neg hne]), calLoad_refused hst, fun cal hread => ?_⟩
      have hexec := calLoad_read hst hread
      refine ⟨fun hne => hexec.trans (if_pos hne), fun h0 hsome => ?_, fun h0 hnone => ?_⟩
      · have hsome' : s1.net.cal.isNone = false := by rw [← Option.not_isSome, hsome]; rfl
        rw [hexec, if_neg (not_not.mpr h0), hsome']
        rfl
      · refine ⟨firstGen s1 cal, ?_, firstGen_begins s1 cal⟩
        rw [hexec, if_neg (not_not.mpr h0), hnone]
        rfl
    case portDrain =>
      exact fun p hst hport hp => ⟨fun hact => ⟨_, (portDrain_started hst hport hp).trans (if_pos hact), rfl, rfl, modPort_getElem? hp _⟩,
        fun hact => (portDrain_started hst hport hp).trans (if_neg hact)⟩
    case portRetrain =>
      exact fun p hst hport hp => ⟨fun hst' => ⟨_, _, (portRetrain_started hst hport hp).trans (if_pos hst'), rfl, rfl, modPort_getElem? hp _, rfl⟩,
        fun hnot => (portRetrain_started hst hport hp).trans (if_neg fun h => h.elim hnot.1 hnot.2)⟩
    case calStatus => exact fun hst htag => ⟨fun s2 => calStatus_written hst htag, fun s2 => calStatus_unwritten hst htag⟩
    case faultReplay => exact fun hst hdie hans => ⟨faultReplay_unknown hst hdie hans, fun r => faultReplay_answers hst hdie hans⟩
  case spdm =>
    exact fun s req hlen => ⟨attestReply_version s hlen, attestReply_refusal s hlen,
      fun k d hcode hversion hplain hindex hsmall hlen12 hk => attestReply_measurement s hcode hversion hplain hindex hsmall hlen12 hk⟩

end Sys2Proof.HostWords
end

section
/-! The rotation of the calendar (O50): slot boundaries and data windows (R366, R371–R374), generations and steering (R377, R386), rings and ports
(R372, R390), preambles (R374, R378), acknowledgements and what is given up (R376, R384). -/
namespace Sys2Proof.Calendar
open Sys2Proof.Machine Sys2Proof.Safety Sys2Proof.Claims Sys2Proof.Laws Sys2Proof.Outside

/-- What each step of a fold keeps, the fold keeps. -/
theorem foldl_keeps {α β γ : Type} {key : α → γ} {f : α → β → α} (hf : ∀ s x, key (f s x) = key s) (xs : List β) (s : α) :
    key (xs.foldl f s) = key s := by
  induction xs generalizing s with
  | nil => rfl
  | cons x xs ih => exact (ih (f s x)).trans (hf s x)

/-- A change of one entry that keeps a key keeps the list of the keys. -/
theorem map_modify_of_keeps {α β : Type} {key : α → β} {f : α → α} (hf : ∀ x, key (f x) = key x) (l : List α) (i : Nat) :
    (l.modify i f).map key = l.map key := by
  refine List.ext_getElem? fun j => ?_
  rw [List.getElem?_map, List.getElem?_modify, List.getElem?_map]
  cases l[j]? with
  | none => rfl
  | some x => exact congrArg some (apply_ite key (i = j) (f x) x |>.trans (by rw [hf, ite_self]))

/-! Sending packets moves no part of a slot but the queues and counts of the ports (R371–R373, R381). -/

/-- What the sending of packets leaves of a port. -/
def portKey (p : Port) : PortSt × Option Nat × Nat × List Nat × Nat := (p.st, p.verified, p.peerDie, p.seen, p.grant)

/-- What the sending of packets leaves of the network. -/
def netKey (n : Net) : Option Int × Bool × Bool × Bool × List Nat × List (PortSt × Option Nat × Nat × List Nat × Nat) :=
  (n.offset, n.steered, n.inData, n.synced, n.ptr, n.ports.map portKey)

theorem netKey_ports {n : Net} {l : List Port} (h : l.map portKey = n.ports.map portKey) : netKey { n with ports := l } = netKey n :=
  congrArg (fun k => (n.offset, n.steered, n.inData, n.synced, n.ptr, k)) h

theorem ite_keeps {α β : Type} {key : α → β} {c : Prop} [Decidable c] {a b : α} {k : β} (ha : key a = k) (hb : key b = k) :
    key (if c then a else b) = k := by
  split
  · exact ha
  · exact hb

theorem sendOut_netKey (n : Net) (port : Nat) (o : OutPkt) : netKey (sendOut n port o).1 = netKey n := by
  have once : ∀ l : List Port, (l.modify port (fun p => { p with left := p.left - pktBytes o.pkt })).map portKey = l.map portKey :=
    fun l => map_modify_of_keeps (by exact fun _ => rfl) l port
  unfold sendOut
  dsimp only
  split
  · exact netKey_ports (once n.ports)
  · exact netKey_ports (n := n) ((map_modify_of_keeps (by exact fun _ => rfl) _ port).trans (once n.ports))

theorem sendList_netKey (port : Nat) (l : List OutPkt) (n : Net) : netKey (sendList port l n).1 = netKey n := by
  induction l generalizing n with
  | nil => rfl
  | cons o rest ih =>
    rw [sendList]
    split
    · exact (ih _).trans (sendOut_netKey n port o)
    · rfl

theorem flowSend_netKey (port q : Nat) (k : Nat × Option LRef) (fuel : Nat) (n : Net) (d : Nat) :
    netKey (flowSend port q k fuel n d).1 = netKey n := by
  induction fuel generalizing n d with
  | zero => rfl
  | succ fuel ih =>
    rw [flowSend]
    split
    · split
      · rfl
      · split
        · rfl
        · exact (ih _ _).trans (sendOut_netKey n port _)
    · rfl

theorem flowTurn_netKey (s : State) (port q : Nat) (ks go : List (Nat × Option LRef)) (n : Net) (k : Nat × Option LRef) :
    netKey (flowTurn s port q ks go n k).1 = netKey n := by
  unfold flowTurn
  refine Eq.trans (netKey_ports ?_) (flowSend_netKey port q k (n.out.length + 1) n _)
  exact map_modify_of_keeps (by exact fun _ => rfl) _ port

theorem roundTurns_netKey (s : State) (port q : Nat) (ks go l : List (Nat × Option LRef)) (n : Net) :
    netKey (roundTurns s port q ks go l n).1 = netKey n := by
  induction l generalizing n with
  | nil => rfl
  | cons k rest ih =>
    exact ite_keeps (key := fun r : Net × Bool => netKey r.1) (flowTurn_netKey ..) ((ih _).trans (flowTurn_netKey ..))

theorem rounds_netKey (s : State) (port q fuel : Nat) (n : Net) : netKey (rounds s port q fuel n) = netKey n := by
  induction fuel generalizing n with
  | zero => rfl
  | succ fuel ih =>
    rw [rounds]
    dsimp only
    split
    · rfl
    · split
      · exact roundTurns_netKey ..
      · exact (ih _).trans (roundTurns_netKey ..)

/-- What the sending of packets leaves of the state. -/
def sendKey (s : State) := (s.mem, s.groups, s.calSlot, s.calCycle, netKey s.net)

theorem sendKey_of_net {s : State} {n : Net} (h : netKey n = netKey s.net) : sendKey { s with net := n } = sendKey s :=
  congrArg (fun k => (s.mem, s.groups, s.calSlot, s.calCycle, k)) h

theorem serve_sendKey (s : State) (port q : Nat) : sendKey (serve s port q) = sendKey s := by
  have two := fun l l' => (sendList_netKey port l _).trans (sendList_netKey port l' s.net)
  unfold serve
  refine ite_keeps rfl (ite_keeps (sendKey_of_net (sendList_netKey ..)) (sendKey_of_net ?_))
  exact ite_keeps ((rounds_netKey ..).trans (two _ _)) (two _ _)

theorem serveOpen_sendKey (s : State) : sendKey (serveOpen s) = sendKey s := by
  unfold serveOpen
  split
  · rfl
  · refine foldl_keeps (fun s p => ?_) _ s
    split
    · exact serve_sendKey ..
    · rfl

theorem sendAcks_sendKey (s : State) : sendKey (sendAcks s) = sendKey s := by
  refine sendKey_of_net (netKey_ports ?_)
  rw [List.map_map]
  conv_rhs => rw [← List.zipIdx_map_fst 0 s.net.ports, List.map_map]
  refine List.map_congr_left fun p _ => ?_
  dsimp only [Function.comp]
  split <;> rfl

theorem castOut_netKey (me port : Nat) (n : Net) (o : OutPkt) (ms : List Nat) : netKey (castOut me port n o ms) = netKey n :=
  netKey_ports (n := n) (map_modify_of_keeps (by exact fun _ => rfl) n.ports port)

theorem castList_netKey (me port : Nat) (members : List Nat) (l : List OutPkt) (r : Net × List (Nat × Nat)) :
    netKey (castList me port members l r).1 = netKey r.1 := by
  induction l generalizing r with
  | nil => rfl
  | cons o rest ih =>
    obtain ⟨n, seen⟩ := r
    rw [castList]
    dsimp only
    split
    · exact ih _
    · split
      · rfl
      · exact (ih _).trans (castOut_netKey ..)

theorem sendBcast_sendKey (s : State) : sendKey (sendBcast s) = sendKey s := by
  unfold sendBcast
  split
  · rfl
  · refine sendKey_of_net ?_
    refine foldl_keeps (key := fun r : Net × List (Nat × Nat) => netKey r.1) (fun r p => ?_) s.net.ports.zipIdx (s.net, [])
    split
    · exact castList_netKey ..
    · rfl

theorem sendPreambles_sendKey (s : State) : sendKey (sendPreambles s) = sendKey s := by
  refine sendKey_of_net (netKey_ports ?_)
  rw [List.map_map]
  conv_rhs => rw [← List.zipIdx_map_fst 0 s.net.ports, List.map_map]
  rfl

/-! Slot boundaries (R366, R372, R373). -/

section
variable {s : State} {c : Cal}

theorem portBoundary_active {c' : Cal} {e e' : Entry} {p : Port} (ha : p.st = .active) (hd : p.drainReq = false) :
    (portBoundary s c' e e' p).st = .active ∧ (portBoundary s c' e e' p).verified = none ∧ (portBoundary s c' e e' p).spare = p.cur ∧
      (portBoundary s c' e e' p).lastLit = p.lit ∧
      (portBoundary s c' e e' p).cur = (if e'.v = true then p.spare else { p.spare with st := .dark }) := by
  unfold portBoundary
  simp [ha, hd, PortSt.lit]

theorem slotBoundary_turns (hcal : s.net.cal = some c) (hsync : s.net.synced = true) (hdata : s.net.inData = true) (hopen : slotOpen s c = false)
    (hst : stagedDue s = none) : exec .slotBoundary s = .next (boundary s c c ((s.calSlot.toNat + 1) % c.s)) := by
  rw [exec_slotBoundary, execSlotBoundary, hcal]
  simp [hsync, hdata, hopen, hst]

theorem slotBoundary_not (hcal : s.net.cal = some c) (h : s.net.inData = false ∨ slotOpen s c = true ∨ (stagedDue s).isSome = true) :
    exec .slotBoundary s = .fault .notEnabled := by
  rw [exec_slotBoundary, execSlotBoundary, hcal]
  exact if_pos (h.imp_right .inr)

theorem forget_cal (n : Net) (k : Nat) : (forget n k).cal = n.cal := by
  unfold forget
  split <;> rfl

theorem boundary_out (c' : Cal) (k : Nat) : ∀ o ∈ (boundary s c c' k).net.out, o.fly = false := by
  intro o ho
  obtain ⟨x, -, rfl⟩ := List.mem_map.mp ho
  rfl

theorem boundary_port {c' : Cal} {k j : Nat} {p : Port} (hp : s.net.ports[j]? = some p) :
    (boundary s c c' k).net.ports[j]? = some (portBoundary s c' (c.entry s.calSlot.toNat j) (c'.entry k j) p) := by
  unfold boundary
  simp [hp]

theorem boundary_steered (c' : Cal) : (boundary s c c' 0).net.steered = false := by
  unfold boundary
  simp

theorem slotBoundary_holds (hcal : s.net.cal = some c) (k : Nat) :
    (boundary s c c k).mem = s.mem ∧ (boundary s c c k).groups = s.groups ∧ (boundary s c c k).net.inData = false ∧
      (boundary s c c k).calSlot = BitVec.ofNat 6 k ∧ (boundary s c c k).calCycle = (if k = 0 then s.calCycle + 1 else s.calCycle) ∧
      (boundary s c c k).net.cal = some c ∧ (k = 0 → (boundary s c c k).net.steered = false) ∧
      (∀ o ∈ (boundary s c c k).net.out, o.fly = false) ∧
      ∀ j p, s.net.ports[j]? = some p → p.st = .active → p.drainReq = false → ∃ p', (boundary s c c k).net.ports[j]? = some p' ∧ p'.st = .active ∧
        p'.verified = none ∧ p'.spare = p.cur ∧ p'.lastLit = p.lit ∧
        p'.cur = (if (c.entry k j).v = true then p.spare else { p.spare with st := .dark }) :=
  ⟨rfl, rfl, rfl, rfl, rfl, (forget_cal s.net k).trans hcal, fun hk => hk ▸ boundary_steered c, boundary_out c k,
    fun _ _ hp ha hd => ⟨_, boundary_port hp, portBoundary_active ha hd⟩⟩

/-! What keeps a slot open (R372, R376, R377, R384, R404). -/

theorem slotOpen_of_failDue {p : Port} (hp : p ∈ s.net.ports) (hw : p.st.works = true) (h3 : 3 ≤ p.faults) : slotOpen s c = true := by
  have : s.net.ports.any Port.failDue = true := List.any_eq_true.mpr ⟨p, hp, by simp [Port.failDue, hw, h3]⟩
  simp [slotOpen, this]

theorem slotOpen_of_steerDue (hsync : s.net.synced = true) (href : isRef s = false) (hoff : s.net.offset.isSome = true)
    (hst : s.net.steered = false) (hlast : s.calSlot.toNat + 1 = c.s) : slotOpen s c = true := by
  have : steerDue s c = true := by simp [steerDue, hsync, href, hoff, hst, hlast]
  simp [slotOpen, this]

theorem slotOpen_of_cutDue {o : OutPkt} (ho : o ∈ s.net.out) (hfly : o.fly = false) (hb : o.bcast = none) (hr : o.relayed = false) (h8 : 8 ≤ o.sent) :
    slotOpen s c = true := by
  have hcut : cutDue s o.pkt.hop = true := List.any_eq_true.mpr ⟨o, ho, by simp [hfly, hb, hr, h8]⟩
  have : s.net.out.any (fun o => cutDue s o.pkt.hop || (o.bcast.getD []).any o.castDue) = true :=
    List.any_eq_true.mpr ⟨o, ho, by rw [hcut, Bool.true_or]⟩
  rw [slotOpen, this, Bool.or_true]

theorem slotOpen_of_castDue {o : OutPkt} {ms : List Nat} {q : Nat} (ho : o ∈ s.net.out) (hfly : o.fly = false) (hb : o.bcast = some ms) (hq : q ∈ ms)
    (h8 : 8 ≤ countOf o.casts q) : slotOpen s c = true := by
  have hcast : ms.any o.castDue = true := List.any_eq_true.mpr ⟨q, hq, by simp [OutPkt.castDue, OutPkt.castTo, hb, hq, hfly, h8]⟩
  have : s.net.out.any (fun o => cutDue s o.pkt.hop || (o.bcast.getD []).any o.castDue) = true :=
    List.any_eq_true.mpr ⟨o, ho, by rw [hb, Option.getD_some, hcast, Bool.or_true]⟩
  rw [slotOpen, this, Bool.or_true]

/-! The start of a data window (R371, R372). -/

theorem dataWindowStart_not (hcal : s.net.cal = some c) (h : s.net.inData = true ∨ ∃ q o, s.net.ports[q]? = some o ∧ o.st = .draining ∧
    ∀ x ∈ s.net.out, q ∉ x.ports) : exec .dataWindowStart s = .fault .notEnabled := by
  rw [exec_dataWindowStart, execDataWindowStart, hcal]
  refine if_pos (h.imp_right fun ⟨q, o, hq, hdr, hx⟩ => .inr ?_)
  refine List.any_eq_true.mpr ⟨(o, q), List.mk_mem_zipIdx_iff_getElem?.mpr hq, ?_⟩
  simpa [hdr] using hx

/-- The state in which a window opens, its grants fixed, before preambles and packets go out. -/
def granting (s : State) (c : Cal) : State :=
  let n := nextSlotOf s c
  let gs := (List.range 16).flatMap (engineGrants s n.1 n.2)
  { s with net := { s.net with inData := true, ptr := s.net.ptr.map (fun x => (x + 1) % 4),
                               ports := (s.net.ports.zipIdx.map (tuneSpare n.1 n.2)).zipIdx.map (fun p => { p.1 with grant := gs.getD p.2 0 }) } }

theorem dataWindowStart_opens (hcal : s.net.cal = some c) (hsync : s.net.synced = true) (hdata : s.net.inData = false)
    (h : ∀ q (o : Port), s.net.ports[q]? = some o → o.st = .draining → ∃ x ∈ s.net.out, q ∈ x.ports) :
    exec .dataWindowStart s = .next (sendBcast (sendPreambles (granting s c))) := by
  rw [exec_dataWindowStart, execDataWindowStart, hcal]
  refine if_neg ?_
  rintro (h' | h' | h')
  · exact absurd h' (by rw [hdata]; decide)
  · exact absurd h' (by rw [hsync]; decide)
  · obtain ⟨⟨o, q⟩, hmem, hq⟩ := List.any_eq_true.mp h'
    rw [Bool.and_eq_true, beq_iff_eq, List.all_eq_true] at hq
    obtain ⟨x, hx, hqx⟩ := h q o (List.mk_mem_zipIdx_iff_getElem?.mp hmem) hq.1
    have := hq.2 x hx
    simp [hqx] at this

theorem grantLoop_length (w : List Nat) (hungry : Nat → Nat → Bool) (fuel spare q : Nat) (g : List Nat) :
    (grantLoop w hungry fuel spare q g).length = g.length := by
  induction fuel generalizing spare q g with
  | zero => rfl
  | succ fuel ih =>
    rw [grantLoop]
    exact ite_keeps (key := List.length) rfl ((ih ..).trans (List.length_set ..))

/-- One entry raised by `x` raises the sum by no more. -/
theorem sum_set_le (g : List Nat) (q x : Nat) : (g.set q (g.getD q 0 + x)).sum ≤ g.sum + x := by
  induction g generalizing q with
  | nil => simp
  | cons y g ih =>
    cases q with
    | zero => simp; omega
    | succ q => have := ih q; simp at this ⊢; omega

theorem grantLoop_sum (w : List Nat) (hungry : Nat → Nat → Bool) (fuel spare q : Nat) (g : List Nat) :
    (grantLoop w hungry fuel spare q g).sum ≤ g.sum + spare := by
  induction fuel generalizing spare q g with
  | zero => exact Nat.le_add_right ..
  | succ fuel ih =>
    rw [grantLoop]
    dsimp only
    split
    · exact Nat.le_add_right ..
    · refine (ih ..).trans ?_
      refine (Nat.add_le_add_right (sum_set_le g q _) _).trans ?_
      split <;> omega

theorem engineGrants_length (slot k : Nat) : (engineGrants s c slot k).length = 4 := by
  unfold engineGrants
  rw [grantLoop_length]
  simp

/-- Four first grants are at most 48 wavelengths each (R371). -/
theorem sum_min_le {l : List Nat} (hl : l.length = 4) : (l.map (fun x => min x 48)).sum ≤ 192 := by
  match l, hl with
  | [a, b, c, d], _ => simp only [List.map_cons, List.map_nil, List.sum_cons, List.sum_nil]; omega

theorem engineGrants_sum (slot k : Nat) : (engineGrants s c slot k).sum ≤ 192 := by
  unfold engineGrants
  exact (grantLoop_sum ..).trans (Nat.add_sub_of_le (sum_min_le (by simp))).le

/-- The entries of the lists of equal length put one after another. -/
theorem getD_flatMap_range {f : Nat → List Nat} (hf : ∀ e, (f e).length = 4) (n e j : Nat) (he : e < n) (hj : j < 4) :
    ((List.range n).flatMap f).getD (4 * e + j) 0 = (f e).getD j 0 := by
  induction n with
  | zero => omega
  | succ n ih =>
    have hlen : ((List.range n).flatMap f).length = 4 * n := by simp [List.length_flatMap, hf, Nat.mul_comm]
    rw [List.range_succ, List.flatMap_append, List.flatMap_singleton]
    rcases Nat.lt_succ_iff_lt_or_eq.mp he with h | rfl
    · rw [List.getD_append _ _ _ _ (by omega), ih h]
    · rw [List.getD_append_right _ _ _ _ (by omega), hlen, Nat.add_sub_cancel_left]

theorem sum_range_four {l : List Nat} (hl : l.length = 4) : ((List.range 4).map (fun j => l.getD j 0)).sum = l.sum := by
  match l, hl with
  | [a, b, c, d], _ => simp [List.range, List.range.loop]

theorem granting_grants (hlen : s.net.ports.length = 64) {e : Nat} (he : e < 16) :
    ((List.range 4).map (fun j => ((granting s c).net.ports.getD (4 * e + j) Port.reset).grant)).sum ≤ 192 := by
  have hj : ∀ j ∈ List.range 4, ((granting s c).net.ports.getD (4 * e + j) Port.reset).grant =
      (engineGrants s (nextSlotOf s c).1 (nextSlotOf s c).2 e).getD j 0 := fun j hj => by
    have h4 := List.mem_range.mp hj
    rw [← getD_flatMap_range (fun e => engineGrants_length (nextSlotOf s c).2 e) 16 e j he h4]
    have hlt : 4 * e + j < s.net.ports.length := by omega
    unfold granting
    simp [List.getD_eq_getElem?_getD, List.getElem?_eq_getElem hlt]
  rw [List.map_congr_left hj, sum_range_four (engineGrants_length ..)]
  exact engineGrants_sum ..

/-- The grants of ports are among what the sending of packets keeps. -/
theorem grant_of_netKey {n n' : Net} (h : netKey n' = netKey n) (j : Nat) :
    (n'.ports.getD j Port.reset).grant = (n.ports.getD j Port.reset).grant := by
  have hp : n'.ports.map portKey = n.ports.map portKey := congrArg (fun k => k.2.2.2.2.2) h
  have := congrArg (fun l => (l.getD j (portKey Port.reset)).2.2.2.2) hp
  simp only [List.getD_map] at this
  exact this

theorem dataWindowStart_holds (hcal : s.net.cal = some c) (hsync : s.net.synced = true) (hdata : s.net.inData = false)
    (h : ∀ q (o : Port), s.net.ports[q]? = some o → o.st = .draining → ∃ x ∈ s.net.out, q ∈ x.ports) :
    ∃ s', exec .dataWindowStart s = .next s' ∧ s'.mem = s.mem ∧ s'.groups = s.groups ∧ s'.net.inData = true ∧ s'.calSlot = s.calSlot ∧
      s'.net.ptr = s.net.ptr.map (fun x => (x + 1) % 4) ∧
      (s.net.ports.length = 64 → ∀ e, e < 16 → ((List.range 4).map (fun j => (s'.net.ports.getD (4 * e + j) Port.reset).grant)).sum ≤ 192) := by
  have hkey : sendKey (sendBcast (sendPreambles (granting s c))) = sendKey (granting s c) :=
    (sendBcast_sendKey _).trans (sendPreambles_sendKey _)
  have hnet := congrArg (fun k => k.2.2.2.2) hkey
  refine ⟨_, dataWindowStart_opens hcal hsync hdata h, congrArg (fun k => k.1) hkey, congrArg (fun k => k.2.1) hkey, congrArg (fun k => k.2.2.1) hnet,
    congrArg (fun k => k.2.2.1) hkey, congrArg (fun k => k.2.2.2.2.1) hnet, fun hlen e he => ?_⟩
  rw [List.map_congr_left fun j _ => grant_of_netKey hnet (4 * e + j)]
  exact granting_grants hlen he

end

/-! Failing what is queued moves no byte of memory (R376, R386, R414). -/

/-- What the abort of a collective leaves: all but the collectives and the packets that wait for room. -/
def abortKey (s : State) := (s.mem, s.groups, s.calSlot, s.calCycle, { s.net with late := [] })

theorem abortAt_abortKey (s : State) (die group cseq key code : Nat) : abortKey (abortAt s die group cseq key code) = abortKey s := by
  unfold abortAt
  split
  · rfl
  · exact ite_keeps rfl rfl

theorem tellMembers_abortKey (s : State) (c : Coll) (code : Nat) : abortKey (tellMembers s c code) = abortKey s := by
  unfold tellMembers
  refine foldl_keeps (fun s m => ?_) _ s
  exact ite_keeps rfl (ite_keeps (abortAt_abortKey ..) rfl)

theorem abortColl_abortKey (s : State) (c : Coll) (code : Nat) : abortKey (abortColl s c code) = abortKey s :=
  ite_keeps (tellMembers_abortKey ..) rfl

/-- What the failing of a packet leaves. -/
def failKey (s : State) := (s.mem, s.calSlot, s.calCycle, s.net.cal, s.net.staged, s.net.cut)

theorem abortColl_failKey (s : State) (c : Coll) (code : Nat) : failKey (abortColl s c code) = failKey s :=
  congrArg (fun k => (k.1, k.2.2.1, k.2.2.2.1, k.2.2.2.2.cal, k.2.2.2.2.staged, k.2.2.2.2.cut)) (abortColl_abortKey s c code)

theorem failEntry_failKey (s : State) (t : Tid) (p : Pend) : failKey (failEntry s t p) = failKey s := by
  unfold failEntry
  split <;> rfl

theorem failTag_failKey (s : State) (tag : Nat) : failKey (failTag s tag) = failKey s := by
  unfold failTag
  split
  · exact failEntry_failKey ..
  · rfl
  · exact abortColl_failKey ..
  · split <;> rfl
  · rfl

theorem failOut_failKey (s : State) (o : OutPkt) : failKey (failOut s o) = failKey s := by
  unfold failOut
  refine ite_keeps rfl ?_
  split
  · exact failTag_failKey ..
  · exact foldl_keeps (fun s c => abortColl_failKey s c 1) _ _
  · rfl

theorem rehome_failKey (c : Cal) (s : State) (o : OutPkt) : failKey (rehome c s o) = failKey s := by
  unfold rehome
  refine ite_keeps rfl ?_
  split
  · exact ite_keeps rfl (failOut_failKey s o)
  · refine ite_keeps rfl (ite_keeps ?_ (failOut_failKey s o))
    split
    · rfl
    · exact ite_keeps rfl (failOut_failKey s o)

/-! Generations and steering (R377, R386). -/

/-- Alignment changes the flag that tells it, and nothing else. -/
theorem align_eq (n : Net) : ∃ b, align n = { n with aligned := b } := by
  unfold align
  split <;> exact ⟨_, rfl⟩

section
variable {s : State} {c : Cal}

theorem enterGen_failKey (s : State) (n : Cal) : failKey (enterGen s n) = (s.mem, s.calSlot, s.calCycle, some n, none, []) := by
  unfold enterGen
  dsimp only
  obtain ⟨b, hb⟩ := align_eq _
  rw [hb]
  rfl

theorem generationChange_holds {n : Cal} (hcal : s.net.cal = some c) (hsync : s.net.synced = true) (hdata : s.net.inData = true)
    (hopen : slotOpen s c = false) (hst : stagedDue s = some n) :
    ∃ s', exec .generationChange s = .next s' ∧ s'.net.cal = some n ∧ s'.net.staged = none ∧ s'.calSlot = 0 ∧ s'.calCycle = s.calCycle + 1 ∧
      s'.mem = s.mem := by
  let s1 := enterGen (boundary s c n 0) n
  have hkey : failKey (s1.net.out.foldl (rehome n) s1) = (s.mem, 0, s.calCycle + 1, some n, none, []) :=
    (foldl_keeps (rehome_failKey n) _ s1).trans (enterGen_failKey _ n)
  refine ⟨s1.net.out.foldl (rehome n) s1, ?_, congrArg (fun k => k.2.2.2.1) hkey, congrArg (fun k => k.2.2.2.2.1) hkey, congrArg (fun k => k.2.1) hkey,
    congrArg (fun k => k.2.2.1) hkey, congrArg (fun k => k.1) hkey⟩
  rw [exec_generationChange, execGenerationChange, hcal, hst]
  exact if_neg (by simp [hsync, hdata, hopen])

theorem generationChange_not (hcal : s.net.cal = some c) (h : s.net.inData = false ∨ slotOpen s c = true ∨ stagedDue s = none) :
    exec .generationChange s = .fault .notEnabled := by
  rw [exec_generationChange, execGenerationChange, hcal]
  cases hst : stagedDue s with
  | none => rfl
  | some n => exact if_pos (h.imp_right fun h' => .inr (h'.resolve_right (by rw [hst]; exact nofun)))

theorem cycleSteer_not (h : s.net.steered = true ∨ isRef s = true) : exec .cycleSteer s = .fault .notEnabled := by
  rw [exec_cycleSteer, execCycleSteer]
  split
  · exact if_pos (.inr h)
  · rfl

theorem align_netKey (n : Net) : netKey (align n) = netKey n := by
  obtain ⟨b, hb⟩ := align_eq n
  rw [hb]
  rfl

theorem cycleSteer_holds {x : Int} (hcal : s.net.cal = some c) (hsync : s.net.synced = true) (hx : s.net.offset = some x)
    (hst : s.net.steered = false) (href : isRef s = false) :
    ∃ s' y, exec .cycleSteer s = .next s' ∧ s'.net.offset = some y ∧ s'.net.steered = true ∧ (x - y).natAbs ≤ 250 ∧ (x.natAbs ≤ 250 → y = 0) ∧
      s'.mem = s.mem ∧ s'.groups = s.groups := by
  have hkey : sendKey (serveOpen { s with net := align { s.net with offset := some (x - max (-250) (min 250 x)), steered := true } }) =
      sendKey { s with net := { s.net with offset := some (x - max (-250) (min 250 x)), steered := true } } :=
    (serveOpen_sendKey _).trans (sendKey_of_net (s := { s with net := { s.net with offset := some (x - max (-250) (min 250 x)), steered := true } })
      (align_netKey _))
  have hnet := congrArg (fun k => k.2.2.2.2) hkey
  refine ⟨_, x - max (-250) (min 250 x), ?_, congrArg (fun k => k.1) hnet, congrArg (fun k => k.2.1) hnet, by omega, by omega,
    congrArg (fun k => k.1) hkey, congrArg (fun k => k.2.1) hkey⟩
  rw [exec_cycleSteer, execCycleSteer, hcal, hx]
  exact if_neg (by simp [hsync, hst, href])

end

/-! Rings and ports (R372, R390). -/

section
variable {s : State} {port : Nat} {p : Port} (hp : s.net.ports[port]? = some p)
include hp

theorem ringLocked_next {b : Bank} {put : Bank → Port} {x : Nat} {xs : List Nat} (hb : tuningBank p = some (b, put))
    (htr : (put { b with st := .locked }).st = .training) (hrest : (put { b with st := .locked }).need.filter (fun x => x != b.plan) = x :: xs) :
    exec (.ringLocked port) s = .next (s.modPort port (fun _ => { put { b with st := .locked } with
      spare := { st := .tuning, plan := x, tries := 0 }, need := x :: xs })) := by
  rw [exec_ringLocked, execRingLocked, hp, Option.bind_some, hb]
  simp only [htr, hrest]
  rfl

theorem ringLocked_locks {b : Bank} {put : Bank → Port} (hb : tuningBank p = some (b, put))
    (h : (put { b with st := .locked }).st ≠ .training ∨ (put { b with st := .locked }).need.filter (fun x => x != b.plan) = []) :
    exec (.ringLocked port) s = .next (s.modPort port (fun _ => { put { b with st := .locked } with
      need := (put { b with st := .locked }).need.filter (fun x => x != b.plan) })) := by
  rw [exec_ringLocked, execRingLocked, hp, Option.bind_some, hb]
  dsimp only
  split
  · rename_i hst hrest
    exact absurd (beq_iff_eq.mp hst) (h.resolve_right (by rw [hrest]; exact nofun))
  · rfl

theorem ringLocked_not (hb : tuningBank p = none) : exec (.ringLocked port) s = .fault .notEnabled := by
  rw [exec_ringLocked, execRingLocked, hp, Option.bind_some, hb]
  rfl

theorem tuningTimeout_not (hb : tuningBank p = none) : exec (.tuningTimeout port) s = .fault .notEnabled := by
  rw [exec_tuningTimeout, execTuningTimeout, hp, Option.bind_some, hb]
  rfl

theorem tuningTimeout_eq {b : Bank} {put : Bank → Port} {c : Cal} (hb : tuningBank p = some (b, put)) (hcal : s.net.cal = some c) :
    exec (.tuningTimeout port) s =
      if p.st = .training ∧ p.need ≠ [] then
        (if 2 ≤ b.tries then .next (failPort s port) else .next (s.modPort port (fun _ => put { b with tries := b.tries + 1 })))
      else if b.tries = 0 ∧ c.guard + 2400 ≤ c.slotLen then .next (s.modPort port (fun _ => put { b with tries := 1 }))
      else .next (s.modPort port (fun p => { put { b with st := .fault } with faults := p.faults + 1 })) := by
  rw [exec_tuningTimeout, execTuningTimeout, hp, Option.bind_some, hb, hcal]

omit hp in
theorem completeCmd_net (s : State) (c : HostCmd) (out : DWord) (code : Nat) (result : Word) : (completeCmd s c out code result).net = s.net := by
  unfold completeCmd
  dsimp only
  split
  · rfl
  · split
    · rfl
    · split
      · obtain ⟨errs, h⟩ := HostCommands.countAddr_eq _ _ _
        rw [h]
      · rfl

omit hp in
theorem portDone_net (s : State) (port : Nat) (retrain : Bool) (code : Nat) : (portDone s port retrain code).net = s.net :=
  foldl_keeps (key := State.net) (fun s c => completeCmd_net s c 0 code 0) _ s

/-- A port that a step changes stands as the step left it when the commands that waited for it have completed. -/
theorem portDone_port (f : Port → Port) (retrain : Bool) (code : Nat) :
    (portDone (s.modPort port f) port retrain code).net.ports[port]? = some (f p) := by
  rw [portDone_net]
  exact HostWords.modPort_getElem? hp f

theorem portFailed_eq : exec (.portFailed port) s = if p.failDue then .next (failPort s port) else notNow := by
  rw [exec_portFailed, execPortFailed, hp]

theorem portDrained_eq : exec (.portDrained port) s =
    if p.st = .draining ∧ s.net.inData = false ∧ s.net.out.all (fun o => !o.ports.contains port) then
      .next (portDone (s.modPort port (fun p => { p with st := .drained, cur := Bank.dark, spare := Bank.dark, verified := none, grant := 0, lit := 0 }))
        port false 0)
    else notNow := by
  rw [exec_portDrained, execPortDrained, hp]

theorem portTrained_eq : exec (.portTrained port) s =
    if p.st = .training ∧ p.need = [] ∧ p.spare.st ≠ .tuning ∧ (portPeers s port).all (fun q => p.seen.contains q) then
      .next (portDone (s.modPort port (fun p => { p with st := .active, faults := 0, seen := [] })) port true 0)
    else notNow := by
  rw [exec_portTrained, execPortTrained, hp]

omit hp in
theorem tuningBank_spare (h : p.spare.st = .tuning) : tuningBank p = some (p.spare, fun b => { p with spare := b }) := if_pos h

omit hp in
theorem tuningBank_cur (h : p.spare.st ≠ .tuning) (h' : p.cur.st = .tuning) : tuningBank p = some (p.cur, fun b => { p with cur := b }) :=
  (if_neg h).trans (if_pos h')

omit hp in
theorem tuningBank_none (h : p.spare.st ≠ .tuning) (h' : p.cur.st ≠ .tuning) : tuningBank p = none :=
  (if_neg h).trans (if_neg h')

/-! Preambles (R374, R378). -/

/-- What an estimate and the sending of packets leave of a slot. -/
def slotKey (s : State) := (s.mem, s.groups, s.calSlot, s.calCycle, s.net.inData, s.net.synced, s.net.ports.map portKey)

omit hp in
theorem slotKey_of_sendKey {s' : State} (h : sendKey s' = sendKey s) : slotKey s' = slotKey s :=
  congrArg (fun k => (k.1, k.2.1, k.2.2.1, k.2.2.2.1, k.2.2.2.2.2.2.1, k.2.2.2.2.2.2.2.1, k.2.2.2.2.2.2.2.2.2)) h

omit hp in
theorem estimate_slotKey (s : State) (m : PreambleMsg) : slotKey (estimate s m) = slotKey s := by
  unfold estimate
  split
  · refine ite_keeps ?_ rfl
    obtain ⟨b, hb⟩ := align_eq { s.net with offset := some (m.offset + m.delta), hops := some (_ + 1), via := some m.pkg, heard := true }
    rw [hb]
    rfl
  · rfl

theorem preamble_ignored {m : PreambleMsg} (hsync : synchronises s port p m = false) (hver : verifies s port p m = false) :
    exec (.preamble port m) s = .next s := by
  rw [exec_preamble, execPreamble, hp]
  simp [hsync, hver]

theorem preamble_synchronises {m : PreambleMsg} {c : Cal} (hsync : synchronises s port p m = true) (hcal : s.net.cal = some c) :
    ∃ s', exec (.preamble port m) s = .next s' ∧ s'.net.synced = true ∧ s'.net.inData = true ∧
      s'.calSlot = BitVec.ofNat 6 ((m.slot + m.elapsed) % c.s) ∧ s'.calCycle = BitVec.ofNat 64 (m.cycle + (m.slot + m.elapsed) / c.s) ∧ s'.mem = s.mem ∧
      s'.groups = s.groups := by
  let s1 : State := { s with
    calSlot := BitVec.ofNat 6 ((m.slot + m.elapsed) % c.s), calCycle := BitVec.ofNat 64 (m.cycle + (m.slot + m.elapsed) / c.s),
    net := { s.net with synced := true, inData := true } }
  have hkey : slotKey (sendPreambles (estimate s1 m)) = slotKey s1 := (slotKey_of_sendKey (sendPreambles_sendKey _)).trans (estimate_slotKey s1 m)
  refine ⟨_, ?_, congrArg (fun k => k.2.2.2.2.2.1) hkey, congrArg (fun k => k.2.2.2.2.1) hkey, congrArg (fun k => k.2.2.1) hkey,
    congrArg (fun k => k.2.2.2.1) hkey, congrArg (fun k => k.1) hkey, congrArg (fun k => k.2.1) hkey⟩
  rw [exec_preamble, execPreamble, hp]
  refine (if_pos hsync).trans ?_
  split
  · rename_i hc
    obtain rfl := Option.some.inj (hcal.symm.trans hc)
    rfl
  · rename_i hc
    exact absurd (hcal.symm.trans hc) nofun

/-- A port that a preamble has verified (R374). -/
def Verified (m : PreambleMsg) (p : Port) : Port :=
  { p with verified := some m.pkg, peerDie := m.port / 16 % 4, seen := if p.seen.contains m.pkg then p.seen else m.pkg :: p.seen }

omit hp in
theorem mem_seen_verified (m : PreambleMsg) (p : Port) : m.pkg ∈ (Verified m p).seen := by
  unfold Verified
  dsimp only
  split
  · exact List.contains_iff_mem.mp ‹_›
  · exact List.mem_cons_self

omit hp in
/-- A port is told by its key, in the parts that the sending of packets keeps. -/
theorem port_of_keys {l : List Port} {q : Port} (hq : (l.map portKey)[port]? = some (portKey q)) :
    ∃ p', l[port]? = some p' ∧ p'.verified = q.verified ∧ p'.peerDie = q.peerDie ∧ p'.seen = q.seen := by
  rw [List.getElem?_map] at hq
  obtain ⟨p', hp', hk⟩ := Option.map_eq_some_iff.mp hq
  exact ⟨p', hp', congrArg (fun k => k.2.1) hk, congrArg (fun k => k.2.2.1) hk, congrArg (fun k => k.2.2.2.1) hk⟩

theorem preamble_verifies {m : PreambleMsg} (hsync : synchronises s port p m = false) (hver : verifies s port p m = true) :
    ∃ s' p', exec (.preamble port m) s = .next s' ∧ s'.net.ports[port]? = some p' ∧
      p'.verified = some m.pkg ∧ p'.peerDie = m.port / 16 % 4 ∧ m.pkg ∈ p'.seen ∧ s'.mem = s.mem ∧ s'.groups = s.groups := by
  have hkey : slotKey (serveOpen (sendAcks (estimate (s.modPort port (Verified m)) m))) = slotKey (s.modPort port (Verified m)) :=
    (slotKey_of_sendKey ((serveOpen_sendKey _).trans (sendAcks_sendKey _))).trans (estimate_slotKey _ m)
  have hports : ((s.modPort port (Verified m)).net.ports.map portKey)[port]? = some (portKey (Verified m p)) := by
    rw [List.getElem?_map, HostWords.modPort_getElem? hp (Verified m)]
    rfl
  obtain ⟨p', hp', hv, hd, hs⟩ := port_of_keys ((congrArg (fun k => k.2.2.2.2.2.2[port]?) hkey).trans hports)
  refine ⟨_, p', ?_, hp', hv, hd, hs ▸ mem_seen_verified m p, congrArg (fun k => k.1) hkey, congrArg (fun k => k.2.1) hkey⟩
  rw [exec_preamble, execPreamble, hp]
  simp only [hsync, hver]
  rfl

end

/-! Acknowledgements (R376, R382, R384). -/

/-- Every queued packet with a packet's number is that packet. -/
def Sole (o : OutPkt) (s : State) : Prop := ∀ x ∈ s.net.out, x.id = o.id → x = o

/-- No queued packet has a packet's number. -/
def Released (o : OutPkt) (s : State) : Prop := ∀ x ∈ s.net.out, x.id ≠ o.id

theorem Released.sole {o : OutPkt} {s : State} (h : Released o s) : Sole o s := fun x hx hid => absurd hid (h x hx)

/-- Packets leave the queue, or stay under their numbers. -/
def Dwindles (s s' : State) : Prop := ∀ x ∈ s'.net.out, ∃ y ∈ s.net.out, y.id = x.id

theorem Released.of_dwindles {o : OutPkt} {s s' : State} (h : Released o s) (hd : Dwindles s s') : Released o s' := fun x hx => by
  obtain ⟨y, hy, hid⟩ := hd x hx
  exact hid ▸ h y hy

/-- The queue's packet that has been acknowledged by the package that it travels by waits for its transit completion (R382). -/
def markRelayed (o x : OutPkt) : OutPkt :=
  if x.id = o.id ∧ x.foreign = false then { x with relayed := true, fly := false, port := none, ports := [] } else x

theorem markRelayed_id (o x : OutPkt) : (markRelayed o x).id = x.id := by
  unfold markRelayed
  split <;> rfl

theorem markRelayed_other {o x : OutPkt} (h : x.id ≠ o.id) : markRelayed o x = x := if_neg fun h' => h h'.1

theorem ackOut_transit {s : State} {o : OutPkt} (hf : o.foreign = false) (ht : o.pkt.transit = true) :
    (ackOut s o).net.out = s.net.out.map (markRelayed o) := by
  simp only [ackOut, hf, ht]
  rfl

theorem ackOut_direct {s : State} {o : OutPkt} (h : o.foreign = true ∨ o.pkt.transit = false) :
    (ackOut s o).net.out = s.net.out.filter (fun x => x.id != o.id || x.foreign != o.foreign) := by
  unfold ackOut
  dsimp only
  split
  · rfl
  · rename_i hf
    rw [if_neg (by simpa [hf] using h)]

theorem ackOut_out (s : State) (o : OutPkt) : (ackOut s o).net.out = s.net.out.map (markRelayed o) ∨
    (ackOut s o).net.out = s.net.out.filter (fun x => x.id != o.id || x.foreign != o.foreign) := by
  by_cases h : o.foreign = true ∨ o.pkt.transit = false
  · exact .inr (ackOut_direct h)
  · rw [not_or, Bool.not_eq_true, Bool.not_eq_false] at h
    exact .inl (ackOut_transit h.1 h.2)

theorem ackOut_dwindles (s : State) (o : OutPkt) : Dwindles s (ackOut s o) := by
  intro x hx
  rcases ackOut_out s o with h | h
  · obtain ⟨y, hy, rfl⟩ := List.mem_map.mp (h ▸ hx)
    exact ⟨y, hy, (markRelayed_id o y).symm⟩
  · exact ⟨x, List.mem_of_mem_filter (h ▸ hx), rfl⟩

/-- A packet of the package's own, sent directly, leaves the queue with its acknowledgement. -/
theorem ackOut_releases {s : State} {o : OutPkt} (hs : Sole o s) (ht : o.pkt.transit = false) : Released o (ackOut s o) := by
  intro x hx hid
  obtain ⟨hmem, hne⟩ := List.mem_filter.mp (ackOut_direct (.inr ht) ▸ hx)
  obtain rfl := hs x hmem hid
  simp at hne

/-- The acknowledgement of another packet leaves a packet as it is. -/
theorem ackOut_sole {s : State} {o x : OutPkt} (hs : Sole o s) (hx : x.id ≠ o.id) : Sole o (ackOut s x) := by
  intro y hy hid
  rcases ackOut_out s x with h | h
  · obtain ⟨z, hz, rfl⟩ := List.mem_map.mp (h ▸ hy)
    rw [markRelayed_id] at hid
    rw [markRelayed_other (hid ▸ hx.symm)]
    exact hs z hz hid
  · exact hs y (List.mem_of_mem_filter (h ▸ hy)) hid

/-- What acknowledgements leave. -/
def ackKey (s : State) := (s.mem, s.groups)

theorem ackOut_ackKey (s : State) (o : OutPkt) : ackKey (ackOut s o) = ackKey s :=
  ite_keeps rfl (ite_keeps rfl rfl)

section
variable {o : OutPkt} (ht : o.pkt.transit = false)
include ht

/-- Acknowledgements of packets, among which one with the number is the packet itself, keep it sole; and they release it if it is one of them. -/
theorem foldl_ackOut (l : List OutPkt) {s : State} (hs : Sole o s) (hl : ∀ x ∈ l, x.id = o.id → x = o) :
    Sole o (l.foldl ackOut s) ∧ ((o ∈ l ∨ Released o s) → Released o (l.foldl ackOut s)) := by
  induction l generalizing s with
  | nil => exact ⟨hs, fun h => h.resolve_left List.not_mem_nil⟩
  | cons x l ih =>
    have hl' : ∀ y ∈ l, y.id = o.id → y = o := fun y hy => hl y (List.mem_cons_of_mem x hy)
    by_cases hx : x.id = o.id
    · obtain rfl := hl x List.mem_cons_self hx
      have hrel := ackOut_releases hs ht
      obtain ⟨h1, h2⟩ := ih hrel.sole hl'
      exact ⟨h1, fun _ => h2 (.inr hrel)⟩
    · obtain ⟨h1, h2⟩ := ih (ackOut_sole hs hx) hl'
      refine ⟨h1, fun h => h2 (h.imp (fun hmem => ?_) (fun hrel => hrel.of_dwindles (ackOut_dwindles s x)))⟩
      exact (List.mem_cons.mp hmem).resolve_left fun h => hx (h ▸ rfl)

theorem ackClass_sole (src : Nat) (a : Nat × Nat) {s : State} (hs : Sole o s) : Sole o (ackClass s src a) :=
  (foldl_ackOut ht _ hs fun x hx => hs x (List.mem_of_mem_filter hx)).1

theorem ackClass_releases {src : Nat} {a : Nat × Nat} {s : State} (hs : Sole o s)
    (h : Released o s ∨ (o.pkt.hop = src ∧ o.pkt.cls = a.1 ∧ o.bcast = none ∧ 0 < o.sent ∧ o.relayed = false ∧ seqLe o.pkt.seq a.2 = true)) :
    Released o (ackClass s src a) := by
  by_cases hmem : o ∈ s.net.out
  · refine (foldl_ackOut ht _ hs fun x hx => hs x (List.mem_of_mem_filter hx)).2 ?_
    refine h.symm.imp_left fun ⟨h1, h2, h3, h4, h5, h6⟩ => List.mem_filter.mpr ⟨hmem, ?_⟩
    simp [h1, h2, h3, h4, h5, h6]
  · have hrel : Released o s := fun x hx hid => hmem (hs x hx hid ▸ hx)
    exact (foldl_ackOut ht _ hs fun x hx => hs x (List.mem_of_mem_filter hx)).2 (.inr hrel)

theorem foldl_ackClass_releases {src : Nat} (l : List (Nat × Nat)) {s : State} (hs : Sole o s) {a : Nat × Nat}
    (h : Released o s ∨ a ∈ l) (h1 : o.pkt.hop = src) (h2 : o.pkt.cls = a.1) (h3 : o.bcast = none) (h4 : 0 < o.sent) (h5 : o.relayed = false)
    (h6 : seqLe o.pkt.seq a.2 = true) : Released o (l.foldl (fun s a => ackClass s src a) s) := by
  induction l generalizing s with
  | nil => exact h.resolve_right List.not_mem_nil
  | cons b l ih =>
    refine ih (ackClass_sole ht src b hs) ?_
    rcases h with hrel | hmem
    · exact .inl (ackClass_releases ht hs (.inl hrel))
    · rcases List.mem_cons.mp hmem with rfl | hmem
      · exact .inl (ackClass_releases ht hs (.inr ⟨h1, h2, h3, h4, h5, h6⟩))
      · exact .inr hmem

end

theorem ackTransit_dwindles (s : State) (src code : Nat) : Dwindles s (ackTransit s src code) :=
  fun x hx => ⟨x, List.mem_of_mem_filter hx, rfl⟩

theorem ackBcast_dwindles (s : State) (src : Nat) (a : Nat × Nat) : Dwindles s (ackBcast s src a) := by
  intro x hx
  obtain ⟨y, hy, rfl⟩ := List.mem_map.mp (List.mem_of_mem_filter hx)
  refine ⟨y, hy, ?_⟩
  split
  · split <;> rfl
  · rfl

theorem released_foldl {α : Type} {o : OutPkt} {f : State → α → State} (hf : ∀ s x, Dwindles s (f s x)) (l : List α) {s : State} (h : Released o s) :
    Released o (l.foldl f s) := by
  induction l generalizing s with
  | nil => exact h
  | cons x l ih => exact ih (h.of_dwindles (hf s x))

section
variable {s : State} {port : Nat} {p : Port} (hp : s.net.ports[port]? = some p)
include hp

theorem ackFlit_ignored {m : AckMsg} (hv : p.verified ≠ some m.src) : exec (.ackFlit port m) s = .next s := by
  rw [exec_ackFlit, execAckFlit, hp]
  exact if_pos hv

/-- The state in which an ack flit has told what the classes, the transit packets and the members acknowledge. -/
def acked (s : State) (p : Port) (m : AckMsg) : State :=
  let s1 := m.acked.foldl (fun s a => ackClass s m.src a) s
  let s2 := { s1 with net := { s1.net with rx := m.bases.foldl (fun l b => raiseBase l m.src b) s1.net.rx } }
  let s3 := m.transit.foldl (fun s c => ackTransit s m.src c) s2
  let s4 := { s3 with net := { s3.net with credit := (dieOf m.src p.peerDie, m.credit) :: s3.net.credit.filter (fun x => x.1 != dieOf m.src p.peerDie) } }
  m.bcast.foldl (fun s a => ackBcast s m.src a) s4

theorem ackFlit_eq {m : AckMsg} (hv : p.verified = some m.src) : exec (.ackFlit port m) s = .next (sendAcks (acked s p m)) := by
  rw [exec_ackFlit, execAckFlit, hp]
  exact if_neg (not_not.mpr hv)

omit hp in
theorem acked_ackKey (s : State) (p : Port) (m : AckMsg) : ackKey (acked s p m) = ackKey s := by
  unfold acked
  refine (foldl_keeps (by exact fun _ _ => rfl) _ _).trans ?_
  refine Eq.trans (b := ackKey (m.transit.foldl (fun s c => ackTransit s m.src c) _)) rfl ?_
  refine (foldl_keeps (by exact fun _ _ => rfl) _ _).trans ?_
  exact foldl_keeps (f := fun s a => ackClass s m.src a) (fun s a => foldl_keeps ackOut_ackKey _ s) m.acked s

omit hp in
theorem acked_releases {m : AckMsg} {o : OutPkt} {a : Nat × Nat} (hs : Sole o s) (h1 : o.pkt.hop = m.src) (h3 : o.bcast = none) (h4 : 0 < o.sent)
    (h5 : o.relayed = false) (ht : o.pkt.transit = false) (ha : a ∈ m.acked) (h2 : o.pkt.cls = a.1) (h6 : seqLe o.pkt.seq a.2 = true) :
    Released o (acked s p m) := by
  have hclass : Released o (m.acked.foldl (fun s a => ackClass s m.src a) s) := foldl_ackClass_releases ht _ hs (.inr ha) h1 h2 h3 h4 h5 h6
  have htransit := released_foldl (fun s c => ackTransit_dwindles s m.src c) m.transit
    (s := { m.acked.foldl (fun s a => ackClass s m.src a) s with net := { (m.acked.foldl (fun s a => ackClass s m.src a) s).net with
      rx := m.bases.foldl (fun l b => raiseBase l m.src b) (m.acked.foldl (fun s a => ackClass s m.src a) s).net.rx } }) hclass
  exact released_foldl (fun s a => ackBcast_dwindles s m.src a) m.bcast htransit

theorem ackFlit_holds {m : AckMsg} (hv : p.verified = some m.src) : ∃ s', exec (.ackFlit port m) s = .next s' ∧ s'.mem = s.mem ∧ s'.groups = s.groups ∧
    ∀ o a, o ∈ s.net.out → (∀ x ∈ s.net.out, x.id = o.id → x = o) → o.pkt.hop = m.src → o.bcast = none → 0 < o.sent → o.relayed = false →
      o.foreign = false → o.pkt.transit = false → a ∈ m.acked → o.pkt.cls = a.1 → seqLe o.pkt.seq a.2 = true → ∀ x ∈ s'.net.out, x.id ≠ o.id :=
  have hkey := acked_ackKey s p m
  ⟨_, ackFlit_eq hp hv, congrArg (fun k => k.1) hkey, congrArg (fun k => k.2) hkey,
    fun _ _ _ hs h1 h3 h4 h5 _ ht ha h2 h6 => acked_releases hs h1 h3 h4 h5 ht ha h2 h6⟩

end

/-! Giving up (R376, R384). -/

theorem cutOff_eq (s : State) (pkg : Nat) : exec (.cutOff pkg) s = if cutDue s pkg then
    .next ((s.net.out.filter (fun o => o.pkt.hop == pkg && o.bcast.isNone && !o.relayed)).foldl failOut
      { s with net := { s.net with cut := pkg :: s.net.cut } }) else notNow := rfl

theorem cutDue_eq (s : State) (pkg : Nat) : cutDue s pkg =
    s.net.out.any (fun o => o.pkt.hop == pkg && o.bcast.isNone && !o.relayed && !o.fly && decide (8 ≤ o.sent)) := rfl

theorem cutOff_holds {s : State} {pkg : Nat} (h : cutDue s pkg = true) :
    ∃ s', exec (.cutOff pkg) s = .next s' ∧ pkg ∈ s'.net.cut ∧ s'.mem = s.mem := by
  let s1 : State := { s with net := { s.net with cut := pkg :: s.net.cut } }
  let s' := (s.net.out.filter (fun o => o.pkt.hop == pkg && o.bcast.isNone && !o.relayed)).foldl failOut s1
  have hkey : failKey s' = failKey s1 := foldl_keeps failOut_failKey _ s1
  have hcut : s'.net.cut = pkg :: s.net.cut := congrArg (fun k => k.2.2.2.2.2) hkey
  exact ⟨s', (cutOff_eq s pkg).trans (if_pos h), hcut ▸ List.mem_cons_self, congrArg (fun k => k.1) hkey⟩

theorem failMember_abortKey (s : State) (o : OutPkt) : abortKey (failMember s o) = abortKey s := by
  unfold failMember
  split
  · exact foldl_keeps (fun s c => abortColl_abortKey s c 1) _ s
  · rfl

/-- The queue without a member (R384). -/
def without (member : Nat) (l : List OutPkt) : List OutPkt :=
  (l.map (fun o => { o with bcast := o.bcast.map (fun ms => ms.filter (fun m => m != member)) })).filter (fun o => o.bcast != some [])

theorem without_member {member : Nat} {l : List OutPkt} {o : OutPkt} (ho : o ∈ without member l) {ms : List Nat} (hb : o.bcast = some ms) :
    member ∉ ms ∧ ms ≠ [] := by
  obtain ⟨hmem, hne⟩ := List.mem_filter.mp ho
  obtain ⟨x, -, rfl⟩ := List.mem_map.mp hmem
  refine ⟨?_, ?_⟩
  · obtain ⟨l, -, rfl⟩ := Option.map_eq_some_iff.mp hb
    simp
  · rintro rfl
    rw [hb] at hne
    exact absurd hne (by decide)

/-- The packets of the broadcast queue that a member has not acknowledged. -/
def owedTo (member : Nat) (l : List OutPkt) : List OutPkt := l.filter (fun o => match o.bcast with
  | some ms => ms.contains member
  | none => false)

theorem broadcastMemberDrop_eq (s : State) (port member : Nat) : exec (.broadcastMemberDrop port member) s =
    if s.net.dropped.contains (port, member) = false ∧ s.net.out.any (fun o => o.castDue member && o.ports.contains port) then
      .next ((owedTo member s.net.out).foldl failMember
        { s with net := { s.net with dropped := (port, member) :: s.net.dropped, out := without member s.net.out } })
    else notNow := rfl

theorem castDue_eq (o : OutPkt) (m : Nat) : o.castDue m =
    (o.bcast.any (fun ms => ms.contains m) && !o.fly && decide (8 ≤ countOf o.casts m)) := by
  unfold OutPkt.castDue OutPkt.castTo
  cases o.bcast <;> rfl

theorem broadcastMemberDrop_holds {s : State} {port member : Nat}
    (h : s.net.out.any (fun o => o.castDue member && o.ports.contains port) = true) (hd : (port, member) ∉ s.net.dropped) :
    ∃ s', exec (.broadcastMemberDrop port member) s = .next s' ∧ (port, member) ∈ s'.net.dropped ∧
      (∀ o ∈ s'.net.out, ∀ ms, o.bcast = some ms → member ∉ ms ∧ ms ≠ []) ∧ s'.mem = s.mem ∧ s'.groups = s.groups := by
  let s1 : State := { s with net := { s.net with dropped := (port, member) :: s.net.dropped, out := without member s.net.out } }
  let s' := (owedTo member s.net.out).foldl failMember s1
  have hkey : abortKey s' = abortKey s1 := foldl_keeps failMember_abortKey _ s1
  have hdropped : s'.net.dropped = (port, member) :: s.net.dropped := congrArg (fun k => k.2.2.2.2.dropped) hkey
  have hout : s'.net.out = without member s.net.out := congrArg (fun k => k.2.2.2.2.out) hkey
  exact ⟨s', (broadcastMemberDrop_eq s port member).trans (if_pos ⟨by simpa using hd, h⟩), hdropped ▸ List.mem_cons_self,
    fun o ho ms hb => without_member (hout ▸ ho) hb, congrArg (fun k => k.1) hkey, congrArg (fun k => k.2.1) hkey⟩

theorem broadcastMemberDrop_not {s : State} {port member : Nat}
    (h : s.net.out.any (fun o => o.castDue member && o.ports.contains port) = false ∨ (port, member) ∈ s.net.dropped) :
    exec (.broadcastMemberDrop port member) s = .fault .notEnabled := by
  refine (broadcastMemberDrop_eq s port member).trans (if_neg ?_)
  rintro ⟨hd, hlate⟩
  rcases h with h | h
  · exact absurd (h.symm.trans hlate) (by decide)
  · exact absurd hd (by simpa using h)

/-- Settles O50: the calendar's own turns, by the equation of each and by what its sends and its failures leave; the steps of a port, by the bank that
tunes or the state in which it stands; what is given up, by the packets that are due. -/
theorem calendarTurns : Obligations.CalendarTurns := by
  unfold Obligations.CalendarTurns
  refine ⟨fun s c hcal hsync => ?turns, fun s port p hp => ?ports, fun s pkg => ?cut, fun s port member => ?drop⟩
  case turns =>
    refine ⟨fun hdata hopen hst => ⟨_, slotBoundary_turns hcal hsync hdata hopen hst, slotBoundary_holds hcal _⟩, slotBoundary_not hcal, ?due,
      fun hdata h => dataWindowStart_holds hcal hsync hdata h, dataWindowStart_not hcal,
      fun n hdata hopen hst => generationChange_holds hcal hsync hdata hopen hst, generationChange_not hcal,
      fun x hx hst href => cycleSteer_holds hcal hsync hx hst href, cycleSteer_not⟩
    rintro (h | h | ⟨p, hmem, hw, h3⟩ | ⟨href, hoff, hst, hlast⟩ | ⟨o, ho, hfly, ⟨hb, hr, h8⟩ | ⟨ms, q, hb, hq, h8⟩⟩)
    · simp [slotOpen, h]
    · simp [slotOpen, h]
    · exact slotOpen_of_failDue hmem hw h3
    · exact slotOpen_of_steerDue hsync href hoff hst hlast
    · exact slotOpen_of_cutDue ho hfly hb hr h8
    · exact slotOpen_of_castDue ho hfly hb hq h8
  case ports =>
    refine ⟨?locks, ?next, ?relocks, ?idle, ?timeout, ?fails, ?works, ?drains, ?undrained, ?trained, ?untrained, fun m => preamble_ignored hp,
      fun m c => preamble_synchronises hp, fun m => preamble_verifies hp, fun m => ackFlit_ignored hp, fun m => ackFlit_holds hp⟩
    case locks =>
      exact fun hb h => ⟨_, ringLocked_locks hp (tuningBank_spare hb) h, HostWords.modPort_getElem? hp _, rfl, rfl⟩
    case next =>
      intro x xs hb hst hrest
      refine ⟨_, ringLocked_next hp (tuningBank_spare hb) hst hrest, ?_, rfl, rfl⟩
      exact (HostWords.modPort_getElem? hp _).trans (by rw [hrest])
    case relocks =>
      exact fun hs hb hst => ⟨_, ringLocked_locks hp (tuningBank_cur hs hb) (.inl hst), HostWords.modPort_getElem? hp _, rfl, rfl⟩
    case idle =>
      exact fun hs hb => ⟨ringLocked_not hp (tuningBank_none hs hb), tuningTimeout_not hp (tuningBank_none hs hb)⟩
    case timeout =>
      intro c hcal hb
      have heq := tuningTimeout_eq hp (tuningBank_spare hb) hcal
      refine ⟨fun hst hneed h2 => ?again, fun hst hneed h2 => ?failed, fun hst h0 hroom => ?once, fun hst h => ?fault⟩
      case again =>
        exact ⟨_, heq.trans ((if_pos ⟨hst, hneed⟩).trans (if_neg (by omega))), HostWords.modPort_getElem? hp _, rfl, rfl⟩
      case failed =>
        exact ⟨_, _, heq.trans ((if_pos ⟨hst, hneed⟩).trans (if_pos h2)), portDone_port hp _ true 6, rfl⟩
      case once =>
        exact ⟨_, heq.trans ((if_neg fun h => hst h.1).trans (if_pos ⟨h0, hroom⟩)), HostWords.modPort_getElem? hp _, rfl, rfl⟩
      case fault =>
        exact ⟨_, heq.trans ((if_neg fun h => hst h.1).trans (if_neg (by omega))), HostWords.modPort_getElem? hp _, rfl, rfl⟩
    case fails =>
      exact fun hw h3 => ⟨_, _, (portFailed_eq hp).trans (if_pos (by simp [Port.failDue, hw, h3])), portDone_port hp _ true 6, rfl⟩
    case works =>
      refine fun h => (portFailed_eq hp).trans (if_neg ?_)
      rw [Port.failDue, Bool.and_eq_true, decide_eq_true_iff]
      exact fun ⟨hw, h3⟩ => h.elim (fun h => by omega) (fun h => absurd (h.symm.trans hw) (by decide))
    case drains =>
      exact fun hst hdata hout => ⟨_, _, (portDrained_eq hp).trans (if_pos ⟨hst, hdata, by simpa using hout⟩), portDone_port hp _ false 0, rfl⟩
    case undrained =>
      refine fun h => (portDrained_eq hp).trans (if_neg ?_)
      rintro ⟨hst, hdata, hout⟩
      rcases h with h | h | ⟨o, ho, hport⟩
      · exact h hst
      · exact absurd (hdata.symm.trans h) (by decide)
      · have := List.all_eq_true.mp hout o ho
        simp [hport] at this
    case trained =>
      exact fun hst hneed hs hseen => ⟨_, _, (portTrained_eq hp).trans (if_pos ⟨hst, hneed, hs, hseen⟩), portDone_port hp _ true 0, rfl⟩
    case untrained =>
      exact fun h => (portTrained_eq hp).trans (if_neg fun ⟨hst, hneed, _⟩ => h.elim (· hst) (· hneed))
  case cut => exact ⟨cutOff_holds, fun h => (cutOff_eq s pkg).trans (if_neg (by rw [cutDue_eq]; simpa using h))⟩
  case drop =>
    simp only [← castDue_eq]
    exact ⟨broadcastMemberDrop_holds, broadcastMemberDrop_not⟩

end Sys2Proof.Calendar
end

section
/-! Packets from other packages (O51): their acceptance (R375, R376), what an owner serves (R239, R236, R393, R394, R397), what a reply brings to whoever
asked (R393, R395), collective packets (R409, R412, R414) and the messages of barriers (R405). -/
namespace Sys2Proof.Packets
open Sys2Proof.Machine Sys2Proof.Safety Sys2Proof.Claims Sys2Proof.Laws Sys2Proof.Outside Sys2Proof.PerformedWrites Sys2Proof.CacheWords

/-! Acceptance (R375, R376, R382). -/

section
variable {s s1 : State} {rx : Rx} {kind : Nat → Bool} {f : State → Packet → Out}

theorem receive_other (h : kind rx.pkt.kind = false ∨ 256 < bodyUnits rx.pkt) : receive s rx kind f = .fault .notEnabled := if_pos h

theorem receive_of_kind (hk : kind rx.pkt.kind = true) (hlen : bodyUnits rx.pkt ≤ 256) :
    ¬ (kind rx.pkt.kind = false ∨ 256 < bodyUnits rx.pkt) := by
  rw [hk]
  rintro (h | h)
  · exact absurd h (by decide)
  · omega

theorem receive_ignored (hk : kind rx.pkt.kind = true) (hlen : bodyUnits rx.pkt ≤ 256)
    (h : s.ctl.fatal = true ∨ rx.crcOk = true ∧ nextRx s rx.port rx.pkt = none) : receive s rx kind f = .next s := by
  refine (if_neg (receive_of_kind hk hlen)).trans ?_
  by_cases hfatal : s.ctl.fatal = true
  · exact if_pos hfatal
  · obtain ⟨hcrc, hnext⟩ := h.resolve_left hfatal
    rw [if_neg hfatal, if_neg (by simp [hcrc]), hnext]

theorem receive_badCrc (hk : kind rx.pkt.kind = true) (hlen : bodyUnits rx.pkt ≤ 256) (hfatal : s.ctl.fatal = false) (hcrc : rx.crcOk = false) :
    receive s rx kind f = .next (s.modPort rx.port (fun p => { p with crcErr := satInc 32 p.crcErr })) := by
  refine (if_neg (receive_of_kind hk hlen)).trans ?_
  rw [if_neg (by simp [hfatal]), if_pos hcrc]

/-- A packet that is accepted is acted on in the state in which its acknowledgement stands. -/
theorem receive_accepted (hacc : Accepted s rx s1) (hk : kind rx.pkt.kind = true) : receive s rx kind f = f s1 rx.pkt := by
  obtain ⟨hfatal, hlen, hcrc, hfor, t, hnext, rfl⟩ := hacc
  refine (if_neg (receive_of_kind hk hlen)).trans ?_
  rw [if_neg (by simp [hfatal]), if_neg (by simp [hcrc]), hnext]
  rcases hfor with ⟨hdst, hsrc⟩ | ⟨htransit, hbcast⟩
  · refine (if_neg fun h => ?_).trans (if_neg fun h => h.1 hdst)
    exact h.2.elim (fun h' => h' hdst) (hsrc h.1)
  · refine (if_neg fun h => ?_).trans (if_neg fun h => ?_)
    · exact absurd (htransit.symm.trans h.1) (by decide)
    · exact absurd (hbcast.symm.trans h.2) (by decide)

end

/-- The receiver of each kind of request waits behind a publish (R397). -/
theorem exec_receivesReq {rx : Rx} {i : Instr} {k : Nat} (h : (i, k) ∈ [(Instr.readRequest rx, 0), (.pktWrite rx, 2), (.pktAtomic rx, 3),
    (.copyUnits rx, 5), (.reduceCopyUnits rx, 11), (.publish rx, 12)]) (s : State) : ∃ f, exec i s = receiveReq s rx k f := by
  simp only [List.mem_cons, Prod.mk.injEq, List.not_mem_nil, or_false] at h
  rcases h with ⟨rfl, rfl⟩ | ⟨rfl, rfl⟩ | ⟨rfl, rfl⟩ | ⟨rfl, rfl⟩ | ⟨rfl, rfl⟩ | ⟨rfl, rfl⟩
  exacts [⟨_, exec_readRequest rx s⟩, ⟨_, exec_pktWrite rx s⟩, ⟨_, exec_pktAtomic rx s⟩, ⟨_, exec_copyUnits rx s⟩, ⟨_, exec_reduceCopyUnits rx s⟩,
    ⟨_, exec_publish rx s⟩]

/-- The receiver of each kind of packet takes that kind alone. -/
theorem exec_receives {rx : Rx} {i : Instr} {k : Nat} (h : (i, k) ∈ [(Instr.readRequest rx, 0), (.readReply rx, 1), (.pktWrite rx, 2), (.pktAtomic rx, 3),
    (.completion rx, 4), (.copyUnits rx, 5), (.copyCompletion rx, 6), (.collectiveData rx, 7), (.collectiveAbort rx, 8), (.reduceCopyUnits rx, 11),
    (.publish rx, 12)]) (s : State) : ∃ f, exec i s = receive s rx (fun x => x == k) f := by
  have request : ∀ {i : Instr} (k : Nat), (i, k) ∈ [(Instr.readRequest rx, 0), (.pktWrite rx, 2), (.pktAtomic rx, 3), (.copyUnits rx, 5),
      (.reduceCopyUnits rx, 11), (.publish rx, 12)] → ∃ f, exec i s = receive s rx (fun x => x == k) f := fun k hk => by
    obtain ⟨f, he⟩ := exec_receivesReq hk s
    exact ⟨_, he⟩
  simp only [List.mem_cons, Prod.mk.injEq, List.not_mem_nil, or_false] at h
  rcases h with ⟨rfl, rfl⟩ | ⟨rfl, rfl⟩ | ⟨rfl, rfl⟩ | ⟨rfl, rfl⟩ | ⟨rfl, rfl⟩ | ⟨rfl, rfl⟩ | ⟨rfl, rfl⟩ | ⟨rfl, rfl⟩ | ⟨rfl, rfl⟩ | ⟨rfl, rfl⟩ | ⟨rfl, rfl⟩
  exacts [request _ (by simp), ⟨_, exec_readReply rx s⟩, request _ (by simp), request _ (by simp), ⟨_, exec_completion rx s⟩, request _ (by simp),
    ⟨_, exec_copyCompletion rx s⟩, ⟨_, exec_collectiveData rx s⟩, ⟨_, exec_collectiveAbort rx s⟩, request _ (by simp), request _ (by simp)]

theorem received_cases {rx : Rx} {i : Instr} {k : Nat} {f : State → Packet → Out} {s : State} (he : exec i s = receive s rx (fun x => x == k) f) :
    (rx.pkt.kind ≠ k → exec i s = .fault .notEnabled) ∧
    (256 < bodyUnits rx.pkt → exec i s = .fault .notEnabled) ∧
    (rx.pkt.kind = k → bodyUnits rx.pkt ≤ 256 → s.ctl.fatal = true ∨ rx.crcOk = true ∧ nextRx s rx.port rx.pkt = none → exec i s = .next s) ∧
    (rx.pkt.kind = k → bodyUnits rx.pkt ≤ 256 → s.ctl.fatal = false → rx.crcOk = false → ∃ s', exec i s = .next s' ∧ s'.mem = s.mem ∧ s'.groups = s.groups ∧
      s'.net.rx = s.net.rx ∧
      ∀ p, s.net.ports[rx.port]? = some p → s'.net.ports[rx.port]? = some { p with crcErr := min (p.crcErr + 1) (2 ^ 32 - 1) }) := by
  refine ⟨fun hk => he.trans (receive_other (.inl (by simpa using hk))), fun hlen => he.trans (receive_other (.inr hlen)),
    fun hk hlen h => he.trans (receive_ignored (by simpa using hk) hlen h), fun hk hlen hfatal hcrc => ?_⟩
  exact ⟨_, he.trans (receive_badCrc (by simpa using hk) hlen hfatal hcrc), rfl, rfl, rfl, fun p hp => HostWords.modPort_getElem? hp _⟩

/-! Replies that go out (R392, R393). -/

theorem sendNew_queues (s : State) (port : Option Nat) (o : OutPkt) :
    ∃ (n : Net) (seq sent : Nat) (fly : Bool) (at_ : Option Nat) (ports : List Nat), sendNew s port o = { s with
      net := { n with out := s.net.out ++ [{ o with pkt := { o.pkt with seq := seq }, sent := sent, fly := fly, port := at_, ports := ports }] } } := by
  unfold sendNew
  split
  · split
    · unfold sendOut
      split <;> exact ⟨_, _, _, _, _, _, rfl⟩
    · exact ⟨s.net, o.pkt.seq, o.sent, o.fly, o.port, o.ports, rfl⟩
  · exact ⟨s.net, o.pkt.seq, o.sent, o.fly, o.port, o.ports, rfl⟩

theorem sendReply_queues (s : State) (die : Nat) (p : Packet) (kind cls tag status reason : Nat) (data : List Byte) : ∃ o,
    (sendReply s die p kind cls tag status reason data).net.out = s.net.out ++ [o] ∧ o.pkt.src = s.pkgId.toNat ∧ o.pkt.hop = p.src ∧ o.pkt.dst = p.src ∧
      o.pkt.kind = kind ∧ o.pkt.cls = cls ∧ o.pkt.body = .reply status reason tag data ∧ (sendReply s die p kind cls tag status reason data).mem = s.mem ∧
      (sendReply s die p kind cls tag status reason data).groups = s.groups := by
  unfold sendReply enqueue
  dsimp only
  obtain ⟨n, seq, sent, fly, at_, ports, h⟩ := sendNew_queues _ _ _
  rw [h]
  exact ⟨_, rfl, rfl, rfl, rfl, rfl, rfl, rfl, rfl, rfl⟩

/-! Requests that an owner serves (R393, R394). -/

section
variable {s s1 : State} {rx : Rx} (hacc : Accepted s rx s1)
include hacc

theorem accepted_mem : s1.mem = s.mem := by
  obtain ⟨-, -, -, -, t, -, rfl⟩ := hacc
  rfl

theorem accepted_poisoned (k n : Nat) : poisoned s1 k n = poisoned s k n := by
  obtain ⟨-, -, -, -, t, -, rfl⟩ := hacc
  rfl

theorem accepted_flips : s1.flips = s.flips := by
  obtain ⟨-, -, -, -, t, -, rfl⟩ := hacc
  rfl

theorem accepted_readNat (k n : Nat) : readNat s1 k n = readNat s k n := by
  rw [readNat, readNat, accepted_mem hacc]

theorem receiveReq_waits {k : Nat} {f : State → Packet → Out} (hk : rx.pkt.kind = k) (htransit : rx.pkt.transit = false)
    (hflip : ∃ x ∈ s1.flips, x.src = rx.pkt.src ∧ x.cls = rx.pkt.cls) : receiveReq s rx k f = .fault .notEnabled := by
  obtain ⟨x, hx, hsrc, hcls⟩ := hflip
  refine (receive_accepted hacc (by simpa using hk)).trans (if_pos ⟨htransit, List.any_eq_true.mpr ⟨x, hx, ?_⟩⟩)
  simp [hsrc, hcls]

theorem receiveReq_serves {k : Nat} {f : State → Packet → Out} (hk : rx.pkt.kind = k)
    (hdue : rx.pkt.transit = true ∨ ∀ x ∈ s1.flips, x.src ≠ rx.pkt.src ∨ x.cls ≠ rx.pkt.cls) : receiveReq s rx k f = f s1 rx.pkt := by
  refine (receive_accepted hacc (by simpa using hk)).trans (if_neg ?_)
  rintro ⟨htransit, hany⟩
  obtain ⟨x, hx, h⟩ := List.any_eq_true.mp hany
  rw [Bool.and_eq_true, beq_iff_eq, beq_iff_eq] at h
  rcases hdue with hdue | hdue
  · exact absurd (htransit.symm.trans hdue) (by decide)
  · exact (hdue x hx).elim (· h.1) (· h.2)

end

section
variable {s : State} {key : Nat} {a : DWord} {p : Perm} {f : State → Nat → Nat → Nat → Served} {asid : Nat}

/-- The address space that a pod key names, and what the walk there gives. -/
theorem place_eq_some {x : Except Deny (Nat × Nat)}
    (h : (keyAsid s key).map (fun asid => (asid, translate s (addrDie a) asid (addrOff a) p)) = some (asid, x)) :
    keyAsid s key = some asid ∧ translate s (addrDie a) asid (addrOff a) p = x := by
  obtain ⟨asid', hkey, heq⟩ := Option.map_eq_some_iff.mp h
  obtain ⟨rfl, rfl⟩ := Prod.mk.injEq .. ▸ heq
  exact ⟨hkey, rfl⟩

theorem servePlace_unknown (hkey : keyAsid s key = none) : servePlace s key a p f = Served.no s 7 6 := by
  rw [servePlace, hkey]
  rfl

theorem servePlace_denied {d : Deny} (hkey : keyAsid s key = some asid) (htr : translate s (addrDie a) asid (addrOff a) p = .error d) :
    ∃ s2, servePlace s key a p f = Served.no s2 d.cause d.detail ∧ s2.mem = s.mem := by
  obtain ⟨errs, h⟩ := countWalk_eq s (addrDie a) asid (addrOff a)
  refine ⟨{ s with errs := errs }, ?_, rfl⟩
  simp only [servePlace, hkey, htr, h]

theorem servePlace_found {lvl e : Nat} (hkey : keyAsid s key = some asid) (htr : translate s (addrDie a) asid (addrOff a) p = .ok (lvl, e)) :
    ∃ m, servePlace s key a p f = f { s with mtlb := m } lvl e (hbmKey (addrDie a) (physOf lvl e (addrOff a))) := by
  obtain ⟨m, h⟩ := fillMtlb_eq s (addrDie a) asid (addrOff a)
  exact ⟨m, by simp only [servePlace, hkey, htr, h]⟩

end

/-- How many bytes a read asks for (R393). -/
def readLength (sub flags : Nat) : Nat := if flags / 8 % 2 = 1 then 16 * sub else sizeBytes sub

/-- What a read of `n` bytes comes to at its place. -/
def readAnswer (n : Nat) (s : State) (_ _ k : Nat) : Served := match pocRead s k n with
  | .error s' => Served.no s' dataError 0
  | .ok bs => Served.ok s bs

theorem readAnswer_clean {n : Nat} {s : State} {k : Nat} (lvl e : Nat) (hp : poisoned s k n = false) :
    readAnswer n s lvl e k = Served.ok s (memRead s.mem n k) := by
  rw [readAnswer, pocRead, if_neg (ne_true_of_eq_false hp)]

theorem readAnswer_poisoned {n : Nat} {s : State} {k : Nat} (lvl e : Nat) (hp : poisoned s k n = true) :
    readAnswer n s lvl e k = Served.no (countErr s k) 0x0C 0 := by
  rw [readAnswer, pocRead, if_pos hp]
  rfl

/-- How many bytes an atomic of a minor reads and writes (R211). -/
def atomicSize (m : Nat) : Nat := if m = 12 ∨ m = 13 ∨ m = 14 then 8 else 4

/-- What an atomic comes to at its place. -/
def atomicAnswer (m : Nat) (data : List Byte) (s : State) (_ _ k : Nat) : Served :=
  if poisoned s k (atomicSize m) then Served.no (countErr s k) dataError 0
  else
    let r := atomicAt s none m k (atomicSize m) (wordsOf (data.length / 4) (ofBytes data))
    Served.ok r.1 (bytesOf (atomicSize m) r.2)

theorem atomicAnswer_clean {m : Nat} {data : List Byte} {s : State} {k : Nat} (lvl e : Nat) (hp : poisoned s k (atomicSize m) = false) :
    atomicAnswer m data s lvl e k = Served.ok (atomicAt s none m k (atomicSize m) (wordsOf (data.length / 4) (ofBytes data))).1
      (bytesOf (atomicSize m) (readNat s k (atomicSize m))) := by
  refine (if_neg (ne_true_of_eq_false hp)).trans ?_
  dsimp only
  rw [atomicAt_old]

/-- Bytes written at a key, and no others. -/
def Wrote (s s2 : State) (k : Nat) (bs : List Byte) : Prop :=
  ∀ b, memByte s2.mem b = if k ≤ b ∧ b < k + bs.length then bs.getD (b - k) 0 else memByte s.mem b

theorem wrote_pocWrite {s s1 : State} (hwf : Memory.wf s.mem = true) (hmem : s1.mem = s.mem) (k : Nat) (bs : List Byte) :
    Wrote s (pocWrite s1 none k bs) k bs := fun b =>
  (memByte_pocWrite (hmem ▸ hwf) none k bs b).trans (by rw [hmem])

section
variable {s s1 : State} {rx : Rx} {a : DWord} {key sub flags tag : Nat} {data : List Byte} (hacc : Accepted s rx s1)
  (hbody : rx.pkt.body = .req a key sub flags tag data)
  (hdue : rx.pkt.transit = true ∨ ∀ x ∈ s1.flips, x.src ≠ rx.pkt.src ∨ x.cls ≠ rx.pkt.cls)
include hacc hbody hdue

theorem exec_readRequest_serves (hk : rx.pkt.kind = 0) : exec (.readRequest rx) s = replyServed rx.pkt 1 tag (serveRead s1 key sub flags a) := by
  rw [exec_readRequest, execReadRequest, receiveReq_serves hacc hk hdue, hbody]

theorem exec_pktWrite_serves (hk : rx.pkt.kind = 2) : exec (.pktWrite rx) s = replyServed rx.pkt 4 tag (serveWrite s1 key a data) := by
  rw [exec_pktWrite, execPktWrite, receiveReq_serves hacc hk hdue, hbody]

theorem exec_pktAtomic_serves (hk : rx.pkt.kind = 3) : exec (.pktAtomic rx) s = replyServed rx.pkt 4 tag (serveAtomic s1 key sub a data) := by
  rw [exec_pktAtomic, execPktAtomic, receiveReq_serves hacc hk hdue, hbody]

theorem exec_copyUnits_serves (hk : rx.pkt.kind = 5) : exec (.copyUnits rx) s =
    replyServed rx.pkt 6 tag (serveUnits s1 key (if flags / 8 % 2 = 1 then .shadow else .plain) a data sub) := by
  rw [exec_copyUnits, execCopyUnits, receiveReq_serves hacc hk hdue, hbody]

theorem exec_reduceCopyUnits_serves (hk : rx.pkt.kind = 11) : exec (.reduceCopyUnits rx) s =
    replyServed rx.pkt 6 tag (serveUnits s1 key (.combine (flags % 16) (flags / 16 % 8)) a data sub) := by
  rw [exec_reduceCopyUnits, execReduceCopyUnits, receiveReq_serves hacc hk hdue, hbody]

theorem exec_publish_unknown (hk : rx.pkt.kind = 12) (hkey : keyAsid s1 key = none) :
    exec (.publish rx) s = .next (sendReply s1 rx.pkt.die rx.pkt 4 rx.pkt.cls tag 7 6 []) := by
  rw [exec_publish, execPublish, receiveReq_serves hacc hk hdue, hbody]
  simp only [hkey]
  rfl

theorem exec_publish_done {asid : Nat} {s2 : State} (hk : rx.pkt.kind = 12) (hkey : keyAsid s1 key = some asid)
    (hflip : flipPage s1 asid (addrDie a) (addrOff a) = .done s2) :
    exec (.publish rx) s = .next (sendReply s2 rx.pkt.die rx.pkt 4 rx.pkt.cls tag 0 0 []) := by
  rw [exec_publish, execPublish, receiveReq_serves hacc hk hdue, hbody]
  simp only [hkey, hflip]
  rfl

theorem exec_publish_denied {asid : Nat} {s2 : State} {cause detail : Nat} (hk : rx.pkt.kind = 12) (hkey : keyAsid s1 key = some asid)
    (hflip : flipPage s1 asid (addrDie a) (addrOff a) = .deny s2 cause detail) :
    exec (.publish rx) s = .next (sendReply s2 rx.pkt.die rx.pkt 4 rx.pkt.cls tag cause detail []) := by
  rw [exec_publish, execPublish, receiveReq_serves hacc hk hdue, hbody]
  simp only [hkey, hflip]
  rfl

theorem exec_publish_waits {asid : Nat} (hk : rx.pkt.kind = 12) (hkey : keyAsid s1 key = some asid)
    (hflip : flipPage s1 asid (addrDie a) (addrOff a) = .wait) :
    exec (.publish rx) s = .next { s1 with nextId := s1.nextId + 1, flips := s1.flips ++
      [{ id := s1.nextId, die := addrDie a, asid := asid, addr := a, src := rx.pkt.src, cls := rx.pkt.cls, tag := tag }] } := by
  rw [exec_publish, execPublish, receiveReq_serves hacc hk hdue, hbody]
  simp only [hkey, hflip]
  rfl

end

section
variable {s : State} {key : Nat} {a : DWord} {asid lvl e : Nat} (hkey : keyAsid s key = some asid)
include hkey

theorem serveRead_reads (sub flags : Nat) (htr : translate s (addrDie a) asid (addrOff a) .read = .ok (lvl, e)) :
    ∃ m, serveRead s key sub flags a = readAnswer (readLength sub flags) { s with mtlb := m } lvl e (hbmKey (addrDie a) (physOf lvl e (addrOff a))) :=
  servePlace_found (f := readAnswer (readLength sub flags)) hkey htr

theorem serveWrite_writes (data : List Byte) (htr : translate s (addrDie a) asid (addrOff a) .write = .ok (lvl, e)) :
    ∃ m, serveWrite s key a data = Served.ok (pocWrite { s with mtlb := m } none (hbmKey (addrDie a) (physOf lvl e (addrOff a))) data) [] :=
  servePlace_found hkey htr

theorem serveAtomic_answers (minor : Nat) (data : List Byte) (htr : translate s (addrDie a) asid (addrOff a) .write = .ok (lvl, e)) :
    ∃ m, serveAtomic s key minor a data =
      atomicAnswer (minor % 16) data { s with mtlb := m } lvl e (hbmKey (addrDie a) (physOf lvl e (addrOff a))) :=
  servePlace_found (f := atomicAnswer (minor % 16) data) hkey htr

/-- One unit of 16 bytes is served by one write at its place. -/
theorem serveUnits_one {how : Put} {data : List Byte} {s2 : State} {x : List Byte} (hlen : data.length = 16)
    (htr : translate s (addrDie a) asid (addrOff a) .write = .ok (lvl, e)) (hw : writeHbm s asid how a data 1 = .data s2 x) :
    serveUnits s key how a data 1 = Served.ok s2 [] := by
  rw [serveUnits]
  simp only [hkey, htr, List.take_of_length_le hlen.le, hw]
  rfl

omit hkey in
theorem writeHbm_plain (x : List Byte) (htr : translate s (addrDie a) asid (addrOff a) .write = .ok (lvl, e)) :
    ∃ m, writeHbm s asid .plain a x 1 = .data { pocWrite s none (hbmKey (addrDie a) (physOf lvl e (addrOff a))) x with mtlb := m } [] := by
  obtain ⟨m, h⟩ := fillMtlb_eq (pocWrite s none (hbmKey (addrDie a) (physOf lvl e (addrOff a))) x) (addrDie a) asid (addrOff a)
  refine ⟨m, h ▸ ?_⟩
  simp only [writeHbm, htr, putUnit, if_false, reduceCtorEq, false_and, Bool.false_and, Bool.false_eq_true]

omit hkey in
theorem writeHbm_combine (rop rtype : Nat) (x : List Byte) (htr : translate s (addrDie a) asid (addrOff a) .write = .ok (lvl, e))
    (hp : poisoned s (hbmKey (addrDie a) (physOf lvl e (addrOff a))) 16 = false) :
    ∃ m, writeHbm s asid (.combine rop rtype) a x 1 = .data { pocWrite s none (hbmKey (addrDie a) (physOf lvl e (addrOff a)))
      (combineBytes rop rtype (memRead s.mem x.length (hbmKey (addrDie a) (physOf lvl e (addrOff a)))) x) with mtlb := m } [] := by
  obtain ⟨m, h⟩ := fillMtlb_eq (pocWrite s none (hbmKey (addrDie a) (physOf lvl e (addrOff a)))
    (combineBytes rop rtype (memRead s.mem x.length (hbmKey (addrDie a) (physOf lvl e (addrOff a)))) x)) (addrDie a) asid (addrOff a)
  refine ⟨m, h ▸ ?_⟩
  simp only [writeHbm, htr, putUnit, hp, if_false, reduceCtorEq, false_and, Bool.and_false, Bool.false_eq_true]

end

/-! The flip that another package asks for (R239). -/

section
variable {s : State} {asid die v : Nat}

theorem flipPage_denied {d : Deny} (htr : translate s die asid v .read = .error d) :
    ∃ s2, flipPage s asid die v = .deny s2 d.cause d.detail ∧ s2.mem = s.mem := by
  obtain ⟨errs, h⟩ := countWalk_eq s die asid v
  refine ⟨{ s with errs := errs }, ?_, rfl⟩
  rw [flipPage, htr]
  simp only [h]

theorem flipPage_waits {lvl e : Nat} (htr : translate s die asid v .read = .ok (lvl, e)) (hsc : leafSC e = true) (hbusy : pageBusy s asid die v lvl = true) :
    flipPage s asid die v = .wait := by
  rw [flipPage, htr]
  simp only [hsc, hbusy, Bool.true_eq_false, if_false, if_true]

theorem flipPage_done {lvl e : Nat} (htr : translate s die asid v .read = .ok (lvl, e)) (hsc : leafSC e = true) (hbusy : pageBusy s asid die v lvl = false)
    (hwf : Memory.wf s.mem = true) : ∃ s2, flipPage s asid die v = .done s2 ∧ s2.flips = s.flips ∧
      ∀ k, leafKey s die v 4 1 (rootOf s die asid) = some k →
        Wrote s s2 k [BitVec.ofNat 8 (readNat s k 1 % 2 ^ 7 + if leafSS e = true then 0 else 2 ^ 7)] := by
  cases hkey : leafKey s die v 4 1 (rootOf s die asid) with
  | none =>
    refine ⟨?_, ?eq, ?flips, nofun⟩
    case eq =>
      rw [flipPage, htr]
      simp only [hsc, hbusy, hkey, Bool.true_eq_false, Bool.false_eq_true, if_false]
      rfl
    case flips => rfl
  | some at_ =>
    refine ⟨?_, ?eq, ?flips, fun k hk => ?wrote⟩
    case eq =>
      rw [flipPage, htr]
      simp only [hsc, hbusy, hkey, Bool.true_eq_false, Bool.false_eq_true, if_false]
      rfl
    case flips => rfl
    case wrote =>
      obtain rfl := Option.some.inj hk
      exact wrote_pocWrite hwf rfl at_ _

end

/-! What a request is answered with. -/

theorem replyServed_ok (k : Packet) (kind tag : Nat) (s : State) (data : List Byte) :
    replyServed k kind tag (Served.ok s data) = .next (sendReply s k.die k kind k.cls tag 0 0 data) := rfl

theorem replyServed_no (k : Packet) (kind tag : Nat) (s : State) (cause detail : Nat) :
    replyServed k kind tag (Served.no s cause detail) = .next (sendReply s k.die k kind k.cls tag cause detail []) := rfl

section
variable {s s1 : State} {rx : Rx} {a : DWord} {key sub flags tag : Nat} {data : List Byte} (hacc : Accepted s rx s1)
  (hbody : rx.pkt.body = .req a key sub flags tag data)
  (hdue : rx.pkt.transit = true ∨ ∀ x ∈ s1.flips, x.src ≠ rx.pkt.src ∨ x.cls ≠ rx.pkt.cls)
include hacc hbody hdue

theorem requests_unknown (hkey : keyAsid s1 key = none) :
    (rx.pkt.kind = 0 → exec (.readRequest rx) s = .next (sendReply s1 rx.pkt.die rx.pkt 1 rx.pkt.cls tag 7 6 [])) ∧
    (rx.pkt.kind = 2 → exec (.pktWrite rx) s = .next (sendReply s1 rx.pkt.die rx.pkt 4 rx.pkt.cls tag 7 6 [])) ∧
    (rx.pkt.kind = 3 → exec (.pktAtomic rx) s = .next (sendReply s1 rx.pkt.die rx.pkt 4 rx.pkt.cls tag 7 6 [])) ∧
    (rx.pkt.kind = 12 → exec (.publish rx) s = .next (sendReply s1 rx.pkt.die rx.pkt 4 rx.pkt.cls tag 7 6 [])) := by
  refine ⟨fun hk => ?read, fun hk => ?write, fun hk => ?atomic, fun hk => exec_publish_unknown hacc hbody hdue hk hkey⟩
  case read => exact (exec_readRequest_serves hacc hbody hdue hk).trans (congrArg (replyServed rx.pkt 1 tag) (servePlace_unknown hkey))
  case write => exact (exec_pktWrite_serves hacc hbody hdue hk).trans (congrArg (replyServed rx.pkt 4 tag) (servePlace_unknown hkey))
  case atomic => exact (exec_pktAtomic_serves hacc hbody hdue hk).trans (congrArg (replyServed rx.pkt 4 tag) (servePlace_unknown hkey))

section
variable {asid : Nat} (hkey : keyAsid s1 key = some asid)
include hkey

theorem readRequest_denied {d : Deny} (htr : translate s1 (addrDie a) asid (addrOff a) .read = .error d) (hk : rx.pkt.kind = 0) :
    ∃ s2, exec (.readRequest rx) s = .next (sendReply s2 rx.pkt.die rx.pkt 1 rx.pkt.cls tag d.cause d.detail []) ∧ s2.mem = s.mem := by
  obtain ⟨s2, h, hmem⟩ := servePlace_denied (f := readAnswer (readLength sub flags)) hkey htr
  exact ⟨s2, (exec_readRequest_serves hacc hbody hdue hk).trans (congrArg (replyServed rx.pkt 1 tag) h), hmem.trans (accepted_mem hacc)⟩

theorem pktWrite_denied {d : Deny} (htr : translate s1 (addrDie a) asid (addrOff a) .write = .error d) (hk : rx.pkt.kind = 2) :
    ∃ s2, exec (.pktWrite rx) s = .next (sendReply s2 rx.pkt.die rx.pkt 4 rx.pkt.cls tag d.cause d.detail []) ∧ s2.mem = s.mem := by
  obtain ⟨s2, h, hmem⟩ := servePlace_denied (f := fun s _ _ k => Served.ok (pocWrite s none k data) []) hkey htr
  exact ⟨s2, (exec_pktWrite_serves hacc hbody hdue hk).trans (congrArg (replyServed rx.pkt 4 tag) h), hmem.trans (accepted_mem hacc)⟩

theorem publish_denied {d : Deny} (htr : translate s1 (addrDie a) asid (addrOff a) .read = .error d) (hk : rx.pkt.kind = 12) :
    ∃ s2, exec (.publish rx) s = .next (sendReply s2 rx.pkt.die rx.pkt 4 rx.pkt.cls tag d.cause d.detail []) ∧ s2.mem = s.mem := by
  obtain ⟨s2, h, hmem⟩ := flipPage_denied htr
  exact ⟨s2, exec_publish_denied hacc hbody hdue hk hkey h, hmem.trans (accepted_mem hacc)⟩

section
variable {lvl e : Nat} (htr : translate s1 (addrDie a) asid (addrOff a) .read = .ok (lvl, e))
include htr

theorem readRequest_reads (hk : rx.pkt.kind = 0)
    (hp : poisoned s (hbmKey (addrDie a) (physOf lvl e (addrOff a))) (readLength sub flags) = false) :
    ∃ s2, exec (.readRequest rx) s = .next (sendReply s2 rx.pkt.die rx.pkt 1 rx.pkt.cls tag 0 0
      (memRead s.mem (readLength sub flags) (hbmKey (addrDie a) (physOf lvl e (addrOff a))))) ∧ s2.mem = s.mem := by
  obtain ⟨m, h⟩ := serveRead_reads hkey sub flags htr
  rw [readAnswer_clean (s := { s1 with mtlb := m }) lvl e ((accepted_poisoned hacc _ _).trans hp)] at h
  rw [← accepted_mem hacc, exec_readRequest_serves hacc hbody hdue hk, h, replyServed_ok]
  exact ⟨_, rfl, rfl⟩

theorem readRequest_poisoned (hk : rx.pkt.kind = 0)
    (hp : poisoned s (hbmKey (addrDie a) (physOf lvl e (addrOff a))) (readLength sub flags) = true) :
    ∃ s2, exec (.readRequest rx) s = .next (sendReply s2 rx.pkt.die rx.pkt 1 rx.pkt.cls tag 0x0C 0 []) ∧ s2.mem = s.mem := by
  obtain ⟨m, h⟩ := serveRead_reads hkey sub flags htr
  rw [readAnswer_poisoned (s := { s1 with mtlb := m }) lvl e ((accepted_poisoned hacc _ _).trans hp)] at h
  rw [← accepted_mem hacc, exec_readRequest_serves hacc hbody hdue hk, h, replyServed_no]
  exact ⟨_, rfl, rfl⟩

theorem publish_flips (hwf : Memory.wf s.mem = true) (hk : rx.pkt.kind = 12) (hsc : leafSC e = true)
    (hbusy : pageBusy s1 asid (addrDie a) (addrOff a) lvl = false) :
    ∃ s2, exec (.publish rx) s = .next (sendReply s2 rx.pkt.die rx.pkt 4 rx.pkt.cls tag 0 0 []) ∧ s2.flips = s.flips ∧
      ∀ at_, leafKey s1 (addrDie a) (addrOff a) 4 1 (rootOf s1 (addrDie a) asid) = some at_ →
        Wrote s s2 at_ [BitVec.ofNat 8 (readNat s at_ 1 % 2 ^ 7 + if leafSS e = true then 0 else 2 ^ 7)] := by
  obtain ⟨s2, hflip, hflips, hwrote⟩ := flipPage_done htr hsc hbusy ((accepted_mem hacc).symm ▸ hwf)
  refine ⟨s2, exec_publish_done hacc hbody hdue hk hkey hflip, hflips.trans (accepted_flips hacc), fun at_ hat => ?_⟩
  have h := hwrote at_ hat
  rw [accepted_readNat hacc] at h
  exact fun b => (h b).trans (by rw [accepted_mem hacc])

end

section
variable {lvl e : Nat} (hwf : Memory.wf s.mem = true) (htr : translate s1 (addrDie a) asid (addrOff a) .write = .ok (lvl, e))
include hwf htr

theorem pktWrite_writes (hk : rx.pkt.kind = 2) :
    ∃ s2, exec (.pktWrite rx) s = .next (sendReply s2 rx.pkt.die rx.pkt 4 rx.pkt.cls tag 0 0 []) ∧
      Wrote s s2 (hbmKey (addrDie a) (physOf lvl e (addrOff a))) data := by
  obtain ⟨m, h⟩ := serveWrite_writes hkey data htr
  rw [exec_pktWrite_serves hacc hbody hdue hk, h, replyServed_ok]
  exact ⟨_, rfl, wrote_pocWrite hwf (accepted_mem hacc) _ _⟩

theorem pktAtomic_answers (hk : rx.pkt.kind = 3)
    (hp : poisoned s (hbmKey (addrDie a) (physOf lvl e (addrOff a))) (atomicSize (sub % 16)) = false) :
    let at_ := hbmKey (addrDie a) (physOf lvl e (addrOff a))
    let n := atomicSize (sub % 16)
    ∃ s2, exec (.pktAtomic rx) s = .next (sendReply s2 rx.pkt.die rx.pkt 4 rx.pkt.cls tag 0 0 (bytesOf n (readNat s at_ n))) ∧
      (∀ y, atomicNew (sub % 16) (readNat s at_ n) (wordsOf (data.length / 4) (ofBytes data)) = some y → Wrote s s2 at_ (bytesOf n y)) ∧
      (atomicNew (sub % 16) (readNat s at_ n) (wordsOf (data.length / 4) (ofBytes data)) = none → s2.mem = s.mem) := by
  intro at_ n
  obtain ⟨m, h⟩ := serveAtomic_answers hkey sub data htr
  have hread : readNat { s1 with mtlb := m } at_ n = readNat s at_ n := accepted_readNat hacc at_ n
  rw [atomicAnswer_clean (s := { s1 with mtlb := m }) lvl e ((accepted_poisoned hacc at_ n).trans hp), hread] at h
  rw [exec_pktAtomic_serves hacc hbody hdue hk, h, replyServed_ok]
  refine ⟨_, rfl, fun y hy => ?_, fun hnone => ?_⟩
  · rw [← hread] at hy
    rw [atomicAt_writes none hy]
    exact wrote_pocWrite hwf (accepted_mem hacc) at_ _
  · rw [← hread] at hnone
    rw [atomicAt_leaves none hnone]
    have hmem := accepted_mem hacc
    exact hmem

theorem copyUnits_writes (hk : rx.pkt.kind = 5) (hsub : sub = 1) (hflags : flags / 8 % 2 = 0) (hlen : data.length = 16) :
    ∃ s2, exec (.copyUnits rx) s = .next (sendReply s2 rx.pkt.die rx.pkt 6 rx.pkt.cls tag 0 0 []) ∧
      Wrote s s2 (hbmKey (addrDie a) (physOf lvl e (addrOff a))) data := by
  obtain ⟨m, hw⟩ := writeHbm_plain data htr
  have h := exec_copyUnits_serves hacc hbody hdue hk
  rw [hsub, if_neg (by rw [hflags]; decide), serveUnits_one hkey hlen htr hw, replyServed_ok] at h
  exact ⟨_, h, wrote_pocWrite hwf (accepted_mem hacc) _ _⟩

theorem reduceCopyUnits_writes (hk : rx.pkt.kind = 11) (hsub : sub = 1) (hlen : data.length = 16)
    (hp : poisoned s (hbmKey (addrDie a) (physOf lvl e (addrOff a))) 16 = false) :
    ∃ s2, exec (.reduceCopyUnits rx) s = .next (sendReply s2 rx.pkt.die rx.pkt 6 rx.pkt.cls tag 0 0 []) ∧
      Wrote s s2 (hbmKey (addrDie a) (physOf lvl e (addrOff a)))
        (combineBytes (flags % 16) (flags / 16 % 8) (memRead s.mem 16 (hbmKey (addrDie a) (physOf lvl e (addrOff a)))) data) := by
  obtain ⟨m, hw⟩ := writeHbm_combine (flags % 16) (flags / 16 % 8) data htr ((accepted_poisoned hacc _ _).trans hp)
  rw [hlen, accepted_mem hacc] at hw
  have h := exec_reduceCopyUnits_serves hacc hbody hdue hk
  rw [hsub, serveUnits_one hkey hlen htr hw, replyServed_ok] at h
  exact ⟨_, h, wrote_pocWrite hwf (accepted_mem hacc) _ _⟩

end

end

end

/-! Replies (R393, R395). -/

section
variable {s s1 : State} {rx : Rx} {status reason tag : Nat} {data : List Byte} (hacc : Accepted s rx s1)
include hacc

theorem exec_reservedPacket_accepted (hk : 13 ≤ rx.pkt.kind) : exec (.reservedPacket rx) s = .next s1 := by
  rw [exec_reservedPacket, execReservedPacket]
  exact receive_accepted hacc (decide_eq_true hk)

section
variable (hbody : rx.pkt.body = .reply status reason tag data)
include hbody

section
variable (hk : rx.pkt.kind = 1)
include hk

theorem exec_readReply_unknown (hp : pendOf s1 tag = none) (hf : flightOf s1 tag = none) : exec (.readReply rx) s = .next s1 := by
  rw [exec_readReply, execReadReply, receive_accepted hacc (by simp [hk]), hbody]
  simp only [hp, hf]

theorem exec_readReply_refuses {t : Tid} {p : Pend} (hp : pendOf s1 tag = some (t, p)) (hst : status ≠ 0) :
    exec (.readReply rx) s = .next (s1.modThread t (fun th => th.refuse p (p.trap status reason))) := by
  rw [exec_readReply, execReadReply, receive_accepted hacc (by simp [hk]), hbody]
  simp only [hp, if_neg hst]

theorem exec_readReply_lands {t : Tid} {p : Pend} (hp : pendOf s1 tag = some (t, p)) (hst : status = 0) :
    exec (.readReply rx) s = .next (landLoad s1 t p data) := by
  rw [exec_readReply, execReadReply, receive_accepted hacc (by simp [hk]), hbody]
  simp only [hp, if_pos hst]

theorem exec_readReply_unit {c : CopyCmd} {f : Flight} {l : Launch} {g : Group} (hp : pendOf s1 tag = none) (hf : flightOf s1 tag = some (c, f))
    (hst : status = 0) (hctx : copyCtx s1 c = some (l, g)) (hc : c.consumes = false) :
    exec (.readReply rx) s = .next (s1.putCopy ({ c with srcOk := f.unit :: c.srcOk }.fly { f with sent := false, data := some data })) := by
  have hread : unitRead1 s1 g c f.unit = (s1, { c with srcOk := f.unit :: c.srcOk }) :=
    if_neg fun h => absurd (hc.symm.trans h.1) (by decide)
  rw [exec_readReply, execReadReply, receive_accepted hacc (by simp [hk]), hbody]
  simp only [hp, hf, hst, hctx, hread, ne_eq, not_true_eq_false, if_false]

end

section
variable (hk : rx.pkt.kind = 4)
include hk

theorem exec_completion_refuses {t : Tid} {p : Pend} (hp : pendOf s1 tag = some (t, p)) (hst : status ≠ 0) :
    exec (.completion rx) s = .next (s1.modThread t (fun th => th.refuse p (p.trap status reason))) := by
  rw [exec_completion, execCompletion, receive_accepted hacc (by simp [hk]), hbody]
  simp only [hp, if_neg hst]

theorem exec_completion_lands {t : Tid} {p : Pend} (hp : pendOf s1 tag = some (t, p)) (hst : status = 0) :
    exec (.completion rx) s = .next (landWrite s1 t p data) := by
  rw [exec_completion, execCompletion, receive_accepted hacc (by simp [hk]), hbody]
  simp only [hp, if_pos hst]

end

section
variable (hk : rx.pkt.kind = 6)
include hk

theorem exec_copyCompletion_unknown (hf : flightOf s1 tag = none) : exec (.copyCompletion rx) s = .next s1 := by
  rw [exec_copyCompletion, execCopyCompletion, receive_accepted hacc (by simp [hk]), hbody]
  simp only [hf]

theorem exec_copyCompletion_unit {c : CopyCmd} {f : Flight} {l : Launch} {g : Group} (hf : flightOf s1 tag = some (c, f))
    (hst : status = 0) (hctx : copyCtx s1 c = some (l, g)) : exec (.copyCompletion rx) s = .next (unitDone s1 l g c f.unit) := by
  rw [exec_copyCompletion, execCopyCompletion, receive_accepted hacc (by simp [hk]), hbody]
  simp only [hf, hst, hctx, ne_eq, not_true_eq_false, if_false]

end

end

theorem accepted_pend? (t : Tid) (id : Nat) : s1.pend? t id = s.pend? t id := by
  obtain ⟨-, -, -, -, t, -, rfl⟩ := hacc
  rfl

end

section
variable {s : State} {t : Tid} {p : Pend}

theorem landLoad_keeps {z : Nat} {c : Bool} (hop : p.op = .load z false c) (data : List Byte) : (landLoad s t p data).mem = s.mem := by
  unfold landLoad
  rw [hop]
  split
  · rename_i heq _
    cases heq
    rfl
  · rfl

/-- A thread that has an entry stands in a group. -/
theorem group?_of_pend? {id : Nat} {q : Pend} (hq : s.pend? t id = some q) : ∃ g, s.group? t.gid = some g := by
  cases hg : s.group? t.gid with
  | none => simp [State.pend?, State.thread?, hg] at hq
  | some g => exact ⟨g, rfl⟩

theorem landLoad_delivers {z : Nat} {c : Bool} (hop : p.op = .load z false c) (data : List Byte) {q : Pend} (hq : s.pend? t p.id = some q) :
    (landLoad s t p data).pend? t p.id = some { q with st := .ready ((loadWords z data).map some) } := by
  obtain ⟨g, hg⟩ := group?_of_pend? hq
  unfold landLoad
  rw [hop, hg]
  refine (pend?_modPend _ _ _ (by exact fun _ => rfl)).trans ?_
  rw [show (if false = true then acquireCopies s g.core false else s).pend? t p.id = some q from hq]
  rfl

theorem landWrite_store {d : List Byte} {rel : Bool} (hop : p.op = .store d rel) (data : List Byte) :
    (landWrite s t p data).mem = s.mem ∧ (landWrite s t p data).pend? t p.id = none := by
  have h : ∃ s2, landWrite s t p data = dropPend s2 t p.id ∧ s2.mem = s.mem := by
    unfold landWrite
    rw [hop]
    split
    · exact ⟨_, rfl, rfl⟩
    · exact ⟨_, rfl, rfl⟩
  obtain ⟨s2, h, hmem⟩ := h
  rw [h]
  exact ⟨hmem, pend?_dropPend ..⟩

end

/-! Collective packets (R409, R412, R414). -/

section
variable {s s1 : State} {rx : Rx} (hacc : Accepted s rx s1)
include hacc

theorem exec_collectiveData_comes {h : CollHdr} {x : List Byte} (hk : rx.pkt.kind = 7) (hbody : rx.pkt.body = .coll h x) :
    exec (.collectiveData rx) s = .next ((collHops s1 rx.port rx.pkt h).foldl (fun s y => comeColl s y.1 y.2 x) s1) := by
  rw [exec_collectiveData, execCollectiveData, receive_accepted hacc (by simp [hk]), hbody]

theorem exec_collectiveAbort_tells {group cseq key code : Nat} (hk : rx.pkt.kind = 8) (hbody : rx.pkt.body = .collAbort group cseq key code) :
    exec (.collectiveAbort rx) s = .next (abortAt s1 rx.pkt.die group cseq key code) := by
  rw [exec_collectiveAbort, execCollectiveAbort, receive_accepted hacc (by simp [hk]), hbody]

theorem accepted_pkgId : s1.pkgId = s.pkgId := by
  obtain ⟨-, -, -, -, t, -, rfl⟩ := hacc
  rfl

end

section
variable {s : State} {die : Nat} {h : CollHdr} {x : List Byte}

theorem comeColl_unknown (hc : s.colls.find? (fun c => c.takes die h) = none) : comeColl s die h x = arriveColl s die h x := by
  have hc' : (arriveColl s die h x).colls.find? (fun c => c.takes die h) = none := hc
  simp only [comeColl, hc']

theorem comeColl_waits {c : Coll} (hc : s.colls.find? (fun c => c.takes die h) = some c) (hno : c.st ≠ .running ∨ c.agrees h = false) :
    comeColl s die h x = arriveColl s die h x := by
  have hc' : (arriveColl s die h x).colls.find? (fun c => c.takes die h) = some c := hc
  simp only [comeColl, hc']
  split
  · rename_i hst hag
    exact absurd (hno.resolve_left (not_not.mpr hst)) (by rw [hag]; decide)
  · rfl

theorem comeColl_runs {c : Coll} (hc : s.colls.find? (fun c => c.takes die h) = some c) (hst : c.st = .running) (hag : c.agrees h = true) :
    comeColl s die h x = (runColl (arriveColl s die h x) c).getD (arriveColl s die h x) := by
  have hc' : (arriveColl s die h x).colls.find? (fun c => c.takes die h) = some c := hc
  simp only [comeColl, hc', hst, hag]

theorem collHops_direct {port : Nat} (k : Packet) (hb : (curEntry s port).bcast = false) : collHops s port k h = [(k.die, h)] := by
  rw [collHops, if_neg (ne_true_of_eq_false hb)]

theorem collHops_bcast {port : Nat} (k : Packet) (hb : (curEntry s port).bcast = true) : collHops s port k h =
    (h.route.filter (fun e => mbPkg e == s.pkgId.toNat)).map (fun e => (mbDie e, { h with route := [e % 4096 + 4 * 4096] })) := if_pos hb

end

/-! The messages of barriers (R405). -/

section
variable {s s1 : State} {rx : Rx} {m : BarMsg} (hacc : Accepted s rx s1) (hk : rx.pkt.kind = 10) (hbody : rx.pkt.body = .bar m)
include hacc hk hbody

omit hacc hk in
theorem exec_barrierRelease_not (hm : m.release = false) : exec (.barrierRelease rx) s = .fault .notEnabled := by
  rw [exec_barrierRelease, execBarrierRelease]
  exact receive_other (.inl (by simp [hbody, hm]))

omit hacc hk in
theorem exec_barrierArrive_not (hm : m.release = true) : exec (.barrierArrive rx) s = .fault .notEnabled := by
  rw [exec_barrierArrive, execBarrierArrive]
  exact receive_other (.inl (by simp [hbody, hm]))

theorem exec_barrierArrive_unknown (hm : m.release = false) (hg : s1.gang? m.gang = none) : exec (.barrierArrive rx) s = .next s1 := by
  rw [exec_barrierArrive, execBarrierArrive, receive_accepted hacc (by simp [hk, hbody, hm]), hbody]
  simp only [hg]

theorem exec_barrierArrive_notes {g : Gang} {l : Launch} (hm : m.release = false) (hg : s1.gang? m.gang = some g) (hl : s1.launch? g.launch = some l) :
    let a : BarArr := { gang := m.gang, level := m.level, set := m.set, phase := m.phase, rank := g.members.findIdx (fun x => x == rx.pkt.src) }
    exec (.barrierArrive rx) s = .next (barRelease (if s1.barArr.contains a = true then s1 else { s1 with barArr := a :: s1.barArr }) g l
      m.level m.set m.phase) := by
  rw [exec_barrierArrive, execBarrierArrive, receive_accepted hacc (by simp [hk, hbody, hm]), hbody]
  simp only [hg, hl]

theorem exec_barrierRelease_late {l : Launch} (hm : m.release = true) (hl : (s1.gang? m.gang).bind (fun g => s1.launch? g.launch) = some l)
    (hphase : phaseCount l m.level m.set ≠ m.phase) : exec (.barrierRelease rx) s = .next s1 := by
  rw [exec_barrierRelease, execBarrierRelease, receive_accepted hacc (by simp [hk, hbody, hm]), hbody]
  simp only [hl, if_neg hphase]

theorem exec_barrierRelease_completes {l : Launch} (hm : m.release = true) (hl : (s1.gang? m.gang).bind (fun g => s1.launch? g.launch) = some l)
    (hphase : phaseCount l m.level m.set = m.phase) : exec (.barrierRelease rx) s = .next (completePhase { s1 with
      barArr := s1.barArr.filter (fun a => !(a.gang == m.gang && a.level == m.level && a.set == m.set && a.phase == m.phase)) }
      l m.level m.set m.phase) := by
  rw [exec_barrierRelease, execBarrierRelease, receive_accepted hacc (by simp [hk, hbody, hm]), hbody]
  simp only [hl, if_pos hphase]

end

/-- Settles O51: acceptance, by the branches of the one receiver that every packet comes through; a request, by the place that its key and address name;
a reply, by the entry, the flight or the collective that its tag names. -/
theorem packetsAreServed : Obligations.PacketsAreServed := by
  unfold Obligations.PacketsAreServed
  refine ⟨fun s rx i k hik => ?received, sendReply_queues, fun s s1 rx a key sub flags tag data hacc hbody hwf => ?requests,
    fun s s1 rx hacc hk => exec_reservedPacket_accepted hacc hk, fun s s1 rx status reason tag data hacc hbody => ?replies,
    fun s s1 rx h x hacc hk hbody => ?collectives, fun s s1 rx group cseq key code hacc hk hbody => exec_collectiveAbort_tells hacc hk hbody,
    fun s s1 rx m hacc hk hbody => ?barriers⟩
  case received =>
    obtain ⟨f, he⟩ := exec_receives hik s
    exact received_cases he
  case requests =>
    refine ⟨fun htransit hflip i n hin hk => ?waits, fun hdue => ?serves⟩
    case waits =>
      obtain ⟨f, he⟩ := exec_receivesReq hin s
      exact he.trans (receiveReq_waits hacc hk htransit hflip)
    case serves =>
      refine ⟨requests_unknown hacc hbody hdue, fun asid d hplace hk => ?_, fun asid d hplace hk => ?_, fun asid lvl e hplace hk => ?_,
        fun asid lvl e hplace => ?_, fun asid d hplace hk => ?_, fun asid lvl e hplace hk => ?_⟩ <;>
        obtain ⟨hkey, htr⟩ := place_eq_some hplace
      · exact readRequest_denied hacc hbody hdue hkey htr hk
      · exact pktWrite_denied hacc hbody hdue hkey htr hk
      · exact ⟨readRequest_reads hacc hbody hdue hkey htr hk, readRequest_poisoned hacc hbody hdue hkey htr hk⟩
      · exact ⟨pktWrite_writes hacc hbody hdue hkey hwf htr, pktAtomic_answers hacc hbody hdue hkey hwf htr,
          copyUnits_writes hacc hbody hdue hkey hwf htr, reduceCopyUnits_writes hacc hbody hdue hkey hwf htr⟩
      · exact publish_denied hacc hbody hdue hkey htr hk
      · exact ⟨fun hsc => exec_publish_denied hacc hbody hdue hk hkey (Engines.flipPage_refused htr hsc),
          fun hsc hbusy => exec_publish_waits hacc hbody hdue hk hkey (flipPage_waits htr hsc hbusy),
          fun hsc hbusy => publish_flips hacc hbody hdue hkey htr hwf hk hsc hbusy⟩
  case replies =>
    refine ⟨fun hp hf => ⟨fun hk => exec_readReply_unknown hacc hbody hk hp hf, fun hk => exec_copyCompletion_unknown hacc hbody hk hf⟩,
      fun t p hp => ⟨fun hst => ⟨fun hk => exec_readReply_refuses hacc hbody hk hp hst, fun hk => exec_completion_refuses hacc hbody hk hp hst⟩,
        fun z c hst hk hop => ⟨_, exec_readReply_lands hacc hbody hk hp hst, ?memory, fun q hq => ?data⟩,
        fun d rel hst hk hop => ⟨_, exec_completion_lands hacc hbody hk hp hst, ?stored, (landWrite_store hop data).2⟩⟩,
      fun c f l g hp hf hst hctx => ⟨fun hk => exec_copyCompletion_unit hacc hbody hk hf hst hctx,
        fun hk hc => exec_readReply_unit hacc hbody hk hp hf hst hctx hc⟩⟩
    case memory => exact (landLoad_keeps hop data).trans (accepted_mem hacc)
    case data => exact landLoad_delivers hop data ((accepted_pend? hacc t p.id).trans hq)
    case stored => exact (landWrite_store hop data).1.trans (accepted_mem hacc)
  case collectives =>
    have hcomes := exec_collectiveData_comes hacc hk hbody
    refine ⟨fun hb => ?direct, fun hb => ?bcast⟩
    case direct =>
      rw [collHops_direct rx.pkt hb] at hcomes
      exact ⟨fun hc => hcomes.trans (congrArg Host.Outcome.next (comeColl_unknown hc)),
        fun c hc => ⟨fun hno => hcomes.trans (congrArg Host.Outcome.next (comeColl_waits hc hno)),
          fun hst hag => hcomes.trans (congrArg Host.Outcome.next (comeColl_runs hc hst hag))⟩⟩
    case bcast =>
      rw [collHops_bcast rx.pkt hb, accepted_pkgId hacc] at hcomes
      refine ⟨fun hno => ?elsewhere, fun e hroute => ?here⟩
      case elsewhere =>
        rw [List.filter_eq_nil_iff.mpr fun e he => by simpa using hno e he] at hcomes
        exact hcomes
      case here =>
        rw [hroute] at hcomes
        exact fun hc => hcomes.trans (congrArg Host.Outcome.next (comeColl_unknown hc))
  case barriers =>
    exact ⟨fun hm => ⟨exec_barrierRelease_not hbody hm, exec_barrierArrive_unknown hacc hk hbody hm,
        fun g l hg hl => exec_barrierArrive_notes hacc hk hbody hm hg hl⟩,
      fun hm => ⟨exec_barrierArrive_not hbody hm, fun l hl => ⟨exec_barrierRelease_late hacc hk hbody hm hl,
        exec_barrierRelease_completes hacc hk hbody hm hl⟩⟩⟩

end Sys2Proof.Packets
end

section
/-! Register names (O1): what each name reads, where a write to it goes, and the traps of names that are refused (R23–R25, R27, R63). -/
namespace Sys2Proof.Names
open Sys2Proof.Machine Sys2Proof.Safety Sys2Proof.Claims Sys2Proof.Laws Sys2Proof.Integer

/-! What a name reads and where it writes (R23–R25), by the range in which it lies. -/

section
variable {c : Ctx} {f : BitVec 7}

/-- REG_RANGE of a vector name (R24). -/
def beyond (c : Ctx) (f : BitVec 7) : TrapRec := trapPlain c.th.pc regRange f.toNat

theorem vector_reads (w : Nat) (hn : f.toNat < 80) (hp : c.th.vwb.toNat + f.toNat + w ≤ c.th.regs.length) :
    src c w f = .ok (slice c.th.regs (c.th.vwb.toNat + f.toNat) w) ∧ dest c w f = .ok (.vec (c.th.vwb.toNat + f.toNat) w) := by
  simp only [src, dest, hn, hp, if_true, and_self]

theorem vector_beyond (w : Nat) (hn : f.toNat < 80) (hp : c.th.regs.length < c.th.vwb.toNat + f.toNat + w) :
    src c w f = .error (beyond c f) ∧ dest c w f = .error (beyond c f) := by
  simp only [src, dest, hn, Nat.not_le_of_lt hp, if_true, if_false, beyond, and_self]

theorem uniform_reads (w : Nat) (h1 : 80 ≤ f.toNat) (h2 : f.toNat < 120) :
    src c w f = .ok (slice c.g.uniRd (c.th.uwb.toNat + (f.toNat - 80)) w) ∧ dest c w f = .ok (.uni (c.th.uwb.toNat + (f.toNat - 80)) w) := by
  simp only [src, dest, Nat.not_lt_of_le h1, h2, if_true, if_false, and_self]

section
variable {n : Nat} (h : 120 ≤ n) (hf : f.toNat = n)
include h hf

theorem system_reads : Reads c f (systemName c n) := by
  have h1 : ¬ n < 80 := by omega
  simp only [Reads, src32, src, hf, h1, Nat.not_lt_of_le h, if_true, if_false, List.getD_cons_zero]

/-- Of the system names 120 and 122 alone read as pairs (R25). -/
theorem system_pair : src64 c f =
    if n = 120 then .ok 0 else if n = 122 then .ok (pairOf (systemName c 122) (systemName c 123)) else .error c.illegal := by
  have h1 : ¬ n < 80 := by omega
  simp only [src64, src, hf, h1, Nat.not_lt_of_le h, OfNat.ofNat_ne_one, if_false, true_and]
  by_cases h120 : n = 120
  · simp only [if_pos h120]
    rfl
  · by_cases h122 : n = 122
    · simp only [if_neg h120, if_pos h122]
      rfl
    · simp only [if_neg h120, if_neg h122]

end

section
variable (h : 120 ≤ f.toNat)
include h

theorem system_dest (w : Nat) : dest c w f = if w = 1 ∧ f.toNat = 127 then .ok .none else .error c.illegal := by
  have h1 : ¬ f.toNat < 80 := by omega
  simp only [dest, h1, Nat.not_lt_of_le h, if_false]

end

theorem src32_of_slice {l : List Word} {i : Nat} (h : src c 1 f = .ok (slice l i 1)) : src32 c f = .ok (l.getD i 0) := by
  simp only [src32, h]
  rfl

theorem src64_of_slice {l : List Word} {i : Nat} (h : src c 2 f = .ok (slice l i 2)) : src64 c f = .ok (pairOf (l.getD i 0) (l.getD (i + 1) 0)) := by
  simp only [src64, h]
  rfl

theorem src32_of_error {r : TrapRec} (h : src c 1 f = .error r) : src32 c f = .error r := by simp only [src32, h]

theorem src64_of_error {r : TrapRec} (h : src c 2 f = .error r) : src64 c f = .error r := by simp only [src64, h]

end

/-- Two names hold a work identifier, the low half first (R23, R25). -/
theorem pairOf_halves (n : Nat) : pairOf (BitVec.ofNat 32 n) (BitVec.ofNat 32 (n / 2 ^ 32)) = BitVec.ofNat 64 n := by
  refine BitVec.eq_of_toNat_eq ?_
  simp only [pairOf, BitVec.toNat_ofNat]
  omega

/-- A name that an instruction writing a uniform register may read (R27). -/
theorem uniSource_iff (f : BitVec 7) : uniSource f = true ↔ (80 ≤ f ∧ f < 120) ∨ f = 120 ∨ f = 124 ∨ f = 125 ∨ f = 127 := by
  revert f
  decide

/-! A word whose operands are refused (R63, log 9). -/

/-- The operands of a word of two sources, in the order in which their names are decoded. -/
def operands (c : Ctx) (d a b : BitVec 7) : Res (Dst × Word × Word) := do
  let dst ← dest c 1 d
  let x ← src32 c a
  let y ← src32 c b
  uniRule c dst [a, b] false
  .ok (dst, x, y)

section
variable {c : Ctx} {d a b : BitVec 7} {r : TrapRec}

theorem operands_dest (hd : dest c 1 d = .error r) : operands c d a b = .error r := by
  simp only [operands, hd, res_error_bind]

theorem operands_first {dst : Dst} (hd : dest c 1 d = .ok dst) (ha : src32 c a = .error r) : operands c d a b = .error r := by
  simp only [operands, hd, ha, res_ok_bind, res_error_bind]

theorem operands_second {dst : Dst} {x : Word} (hd : dest c 1 d = .ok dst) (ha : Reads c a x) (hb : src32 c b = .error r) :
    operands c d a b = .error r := by
  rw [Reads] at ha
  simp only [operands, hd, ha, hb, res_ok_bind, res_error_bind]

theorem operands_uniform {q : Nat} {x y : Word} (hd : dest c 1 d = .ok (.uni q 1)) (ha : Reads c a x) (hb : Reads c b y)
    (hno : ¬ (uniSource a = true ∧ uniSource b = true)) : operands c d a b = .error c.illegal := by
  have hrule : uniRule c (.uni q 1) [a, b] false = .error c.illegal := by
    refine require_error (Bool.eq_false_iff.mpr fun h => hno ?_) _
    simpa [Dst.isUni] using h
  rw [Reads] at ha hb
  simp only [operands, hd, ha, hb, hrule, res_ok_bind, res_error_bind]

end

/-- A word takes the trap of its operands, and has no other effect. -/
def TakesTraps (i : Instr) (d a b : BitVec 7) : Prop :=
  ∀ {s : State} {c : Ctx} {r : TrapRec}, Executes s c → operands c d a b = .error r → exec i s = .next (trapNow s c.t r c.th.blk)

/-- What a word computes from its operands does not change their trap. -/
theorem bind_of_operands {α : Type} {c : Ctx} {d a b : BitVec 7} {r : TrapRec} (h : operands c d a b = .error r) (k : Dst → Word → Word → Res α) :
    (do let dst ← dest c 1 d; let x ← src32 c a; let y ← src32 c b; uniRule c dst [a, b] false; k dst x y) = .error r := by
  rw [operands] at h
  cases hd : dest c 1 d with
  | error e => simpa [hd] using h
  | ok dst => cases ha : src32 c a with
    | error e => simpa [hd, ha] using h
    | ok x => cases hb : src32 c b with
      | error e => simpa [hd, ha, hb] using h
      | ok y => cases hu : uniRule c dst [a, b] false with
        | error e => simpa [hd, ha, hb, hu] using h
        | ok u => simp [hd, ha, hb, hu] at h

section
variable {i : Instr} {h : Bool} {d a b : BitVec 7}

theorem takes_op2 {f : Word → Word → Word} (he : ∀ s, exec i s = issueReg h s (op2 f d a b)) : TakesTraps i d a b :=
  fun {s} {_} {_} hx hr => (he s).trans (issueReg_trap hx h (bind_of_operands hr _))

theorem takes_divRegs {f : Word → Word → Word} (he : ∀ s, exec i s = issueVar h s (divRegs f d a b)) : TakesTraps i d a b :=
  fun {s} {_} {_} hx hr => (he s).trans (issueVar_trap hx h (bind_of_operands hr _))

theorem takes_xfn2 {f : Nat → Nat → Nat} (he : ∀ s, exec i s = issueVar h s (xfn2 f d a b)) : TakesTraps i d a b :=
  fun {s} {_} {_} hx hr => (he s).trans (issueVar_trap hx h (bind_of_operands hr _))

end

/-- The words of two sources. -/
def twoSource (h : Bool) (d a b : BitVec 7) : List Instr :=
  [.add h d a b, .sub h d a b, .mul h d a b, .mulh h d a b, .mulhu h d a b, .and h d a b, .or h d a b, .xor h d a b,
    .andn h d a b, .shl h d a b, .shr h d a b, .sar h d a b, .min h d a b, .max h d a b, .minu h d a b, .maxu h d a b, .bfe h d a b, .rol h d a b,
    .div h d a b, .rem h d a b, .divu h d a b, .remu h d a b, .fadd h d a b, .fsub h d a b, .fmul h d a b, .fmin h d a b, .fmax h d a b, .fminn h d a b,
    .fmaxn h d a b, .fcpsgn h d a b, .fscale h d a b, .hadd2 h d a b, .hsub2 h d a b, .hmul2 h d a b, .hmin2 h d a b, .hmax2 h d a b, .badd2 h d a b,
    .bsub2 h d a b, .bmul2 h d a b, .bmin2 h d a b, .bmax2 h d a b, .expsub h d a b, .xfnDiv h d a b]

theorem twoSource_takesTraps (h : Bool) (d a b : BitVec 7) : ∀ i ∈ twoSource h d a b, TakesTraps i d a b := by
  simp only [twoSource, List.forall_mem_cons, List.not_mem_nil, false_implies, implies_true, and_true]
  exact ⟨takes_op2 (exec_add h d a b), takes_op2 (exec_sub h d a b), takes_op2 (exec_mul h d a b), takes_op2 (exec_mulh h d a b), takes_op2 (exec_mulhu h d a b),
    takes_op2 (exec_and h d a b), takes_op2 (exec_or h d a b), takes_op2 (exec_xor h d a b), takes_op2 (exec_andn h d a b), takes_op2 (exec_shl h d a b),
    takes_op2 (exec_shr h d a b), takes_op2 (exec_sar h d a b), takes_op2 (exec_min h d a b), takes_op2 (exec_max h d a b), takes_op2 (exec_minu h d a b),
    takes_op2 (exec_maxu h d a b), takes_op2 (exec_bfe h d a b), takes_op2 (exec_rol h d a b), takes_divRegs (exec_div h d a b), takes_divRegs (exec_rem h d a b),
    takes_divRegs (exec_divu h d a b), takes_divRegs (exec_remu h d a b), takes_op2 (exec_fadd h d a b), takes_op2 (exec_fsub h d a b), takes_op2 (exec_fmul h d a b),
    takes_op2 (exec_fmin h d a b), takes_op2 (exec_fmax h d a b), takes_op2 (exec_fminn h d a b), takes_op2 (exec_fmaxn h d a b), takes_op2 (exec_fcpsgn h d a b),
    takes_op2 (exec_fscale h d a b), takes_op2 (exec_hadd2 h d a b), takes_op2 (exec_hsub2 h d a b), takes_op2 (exec_hmul2 h d a b), takes_op2 (exec_hmin2 h d a b),
    takes_op2 (exec_hmax2 h d a b), takes_op2 (exec_badd2 h d a b), takes_op2 (exec_bsub2 h d a b), takes_op2 (exec_bmul2 h d a b), takes_op2 (exec_bmin2 h d a b),
    takes_op2 (exec_bmax2 h d a b), takes_op2 (exec_expsub h d a b), takes_xfn2 (exec_xfnDiv h d a b)⟩

/-- A word that reads a predicate writes no uniform register (R27). -/
theorem uniRule_predicate (c : Ctx) (q : Nat) (srcs : List (BitVec 7)) : uniRule c (.uni q 1) srcs true = .error c.illegal :=
  require_error (by simp [Dst.isUni]) _

section
variable {s : State} {c : Ctx} {d : BitVec 7} {q : Nat} (hx : Executes s c) (hd : dest c 1 d = .ok (.uni q 1))
include hx hd

theorem sel_uniform (h k : Bool) (m : BitVec 3) {a b : BitVec 7} {x y : Word} (ha : Reads c a x) (hb : Reads c b y) :
    exec (.sel h k m d a b) s = .next (trapNow s c.t c.illegal c.th.blk) := by
  rw [Reads] at ha hb
  exact issueReg_trap hx h (by simp only [selRegs, hd, ha, hb, uniRule_predicate, res_ok_bind, res_error_bind])

theorem pmov_uniform (h : Bool) : exec (.pmov h d) s = .next (trapNow s c.t c.illegal c.th.blk) :=
  issueReg_trap hx h (by simp only [pmovRegs, hd, uniRule_predicate, res_ok_bind, res_error_bind])

end

/-- Settles O1: each name by the range in which it lies; a write by its destination; the traps by the operands of a word. -/
theorem namesResolve : Obligations.NamesResolve := by
  refine ⟨fun c f => ?names, fun c r v => ⟨rfl, rfl, rfl⟩, fun s c h k m d a b hx => ?traps⟩
  case names =>
    intro n p q range
    refine ⟨fun hn => ⟨fun hp => ?one, fun hp => ?oneBeyond, fun hp => ?two, fun hp => ?twoBeyond⟩, fun h1 h2 => ?uniform, ?zero,
      ?lane, ?workLow, ?workHigh, ?group, ?core, ?window, ?zero64, ?work64, ?illegal64, ?null, ?noDest, ?noPair⟩
    case one =>
      obtain ⟨hs, hd⟩ := vector_reads 1 hn hp
      exact ⟨src32_of_slice hs, hd⟩
    case oneBeyond =>
      obtain ⟨hs, hd⟩ := vector_beyond 1 hn (Nat.lt_succ_of_le hp)
      exact ⟨src32_of_error hs, hd⟩
    case two =>
      obtain ⟨hs, hd⟩ := vector_reads 2 hn hp
      exact ⟨src64_of_slice hs, hd⟩
    case twoBeyond =>
      obtain ⟨hs, hd⟩ := vector_beyond 2 hn (Nat.lt_succ_of_le hp)
      exact ⟨src64_of_error hs, hd⟩
    case uniform =>
      obtain ⟨hs, hd⟩ := uniform_reads (c := c) 1 h1 h2
      obtain ⟨hs2, hd2⟩ := uniform_reads (c := c) 2 h1 h2
      exact ⟨src32_of_slice hs, hd, src64_of_slice hs2, hd2⟩
    case zero => exact fun h => h.elim (system_reads (by decide)) (system_reads (by decide))
    case lane => exact system_reads (by decide)
    case workLow => exact system_reads (by decide)
    case workHigh => exact system_reads (by decide)
    case group => exact system_reads (by decide)
    case core => exact system_reads (by decide)
    case window => exact fun h => (system_reads (by decide) h).trans (congrArg Except.ok (BitVec.ofNat_toNat 32 c.th.vwb))
    case zero64 => exact system_pair (by decide)
    case work64 => exact fun h => (system_pair (by decide) h).trans (congrArg Except.ok (pairOf_halves _))
    case illegal64 => exact fun h => h.elim (system_pair (by decide)) (system_pair (by decide))
    case null => exact fun h => (system_dest (le_of_le_of_eq (by decide) h.symm) 1).trans (if_pos ⟨rfl, h⟩)
    case noDest => exact fun h1 h2 => (system_dest h1 1).trans (if_neg fun h => Nat.ne_of_lt h2 h.2)
    case noPair => exact fun h => (system_dest h 2).trans (if_neg fun h => absurd h.1 (by decide))
  case traps =>
    intro traps two
    have htwo := twoSource_takesTraps h d a b
    refine ⟨fun i hi r hd => htwo i hi hx (operands_dest hd), fun i hi dst r hd ha => htwo i hi hx (operands_first hd ha),
      fun i hi dst x r hd ha hb => htwo i hi hx (operands_second hd ha hb), fun q x y hd ha hb => ⟨fun hno i hi => ?_, sel_uniform hx hd h k m ha hb,
      pmov_uniform hx hd h⟩⟩
    refine htwo i hi hx (operands_uniform hd ha hb ?_)
    rwa [uniSource_iff, uniSource_iff]

end Sys2Proof.Names
end

section
/-! What every word does (O58), and what stands in a predicate block (O22): each word is issued, with its H bit and the reason under which it may not
stand in a block (R36, R37, R40, R47, R87). -/
namespace Sys2Proof.Words
open Sys2Proof.Machine Sys2Proof.Safety Sys2Proof.Laws

/-! The high bits of a word (R40–R44): H and the major opcode. -/

/-- The word of an instruction has this H bit and this major opcode. -/
def HighBits (i : Instr) (h : Bool) (mj : Nat) : Prop :=
  ∀ w, encode i = some w → w.getLsbD 31 = h ∧ w.toNat / 2 ^ 25 % 2 ^ 6 = mj

section
variable {i : Instr} {h : Bool} {mj : Nat}

theorem HighBits.ofX {x : Nat} (he : encode i = some (encX h mj x)) (hb : mj < 64 ∧ x < 2 ^ 25) : HighBits i h mj := by
  rintro w hw
  obtain rfl : encX h mj x = w := Option.some.inj (he.symm.trans hw)
  have hn := encX_toNat h mj x hb.1 hb.2
  have := hbit_le h
  constructor
  · rw [BitVec.getLsbD, Nat.testBit_eq_decide_div_mod_eq, hn, show (hbit h * 2 ^ 31 + mj * 2 ^ 25 + x) / 2 ^ 31 % 2 = hbit h by omega]
    cases h <;> rfl
  · omega

theorem HighBits.ofR {mn d a b : Nat} (he : encode i = some (encR h mj mn d a b)) (hb : mj < 64 ∧ mn < 16 ∧ d < 128 ∧ a < 128 ∧ b < 128) :
    HighBits i h mj := by
  have hx : encR h mj mn d a b = encX h mj (mn * 2 ^ 21 + d * 2 ^ 14 + a * 2 ^ 7 + b) := by
    simp only [encR, encX, Nat.add_assoc]
  exact .ofX (he.trans (congrArg some hx)) (by omega)

end

/-! Issue (R36, R37, R47). -/

/-- The major opcodes that may not stand in a predicate block: the transfers and PBLK (R37). -/
def unskipped : List Nat := [0x18, 0x19, 0x1A, 0x1B, 0x1C]

/-- A word is issued so: with this H bit, and with this reason not to stand in an open block. -/
def Issued (h : Bool) (bk : Nat) (s : State) (o : Out) : Prop := ∃ f, o = issue h bk s f

section
variable (h : Bool) (bk : Nat) (s : State)

theorem issued_issue (f : Ctx → State → Iss) : Issued h bk s (issue h bk s f) := ⟨f, rfl⟩

theorem issued_issueReg (f : Ctx → Res Ctx) : Issued h 0 s (issueReg h s f) := issued_issue h 0 s _

theorem issued_issueVar (f : Ctx → Res VarRes) : Issued h 0 s (issueVar h s f) := issued_issue h 0 s _

theorem issued_issueWith (f : Ctx → State → Res Iss) : Issued h 0 s (issueWith h s f) := issued_issue h 0 s _

theorem issued_transfer (f : Ctx → Res (DWord × Thread)) : Issued h 9 s (transfer h s f) := issued_issue h 9 s _

section
variable (d a b : BitVec 7) (x y : Option (BitVec 7)) (n : Nat) (z : BitVec 3) (u v : Bool)

theorem issued_gathered (f : Word → List (Nat × Word) → Word) : Issued h 0 s (gathered h d x f s) := issued_issueWith h s _

theorem issued_rendezvous : Issued h 0 s (rendezvous h n u d x y s) := issued_issueWith h s _

theorem issued_load (srcs : List (BitVec 7)) (f : Ctx → Res DWord) : Issued h 0 s (load h u v z d srcs f s) := issued_issueWith h s _

theorem issued_store (f : Ctx → Res DWord) : Issued h 0 s (store h u z d f s) := issued_issueWith h s _

theorem issued_atom : Issued h 0 s (atom h n u d a b s) := issued_issueWith h s _

theorem issued_fence : Issued h 0 s (fence h n b s) := issued_issueWith h s _

theorem issued_prefWord : Issued h 0 s (prefWord h u a s) := issued_issue h 0 s _

theorem issued_lineWord : Issued h 0 s (lineWord h u a b s) := issued_issueWith h s _

theorem issued_trigWrite : Issued h 0 s (trigWrite h n a b s) := issued_issueWith h s _

theorem issued_copyWord : Issued h 0 s (copyWord h n d a b s) := issued_issueWith h s _

theorem issued_matrixWord (names : List (BitVec 7)) (f g : Ctx → Res (List Word)) : Issued h 0 s (matrixWord h n names d f g s) :=
  issued_issueWith h s _

theorem issued_compute : Issued h 0 s (compute h n d a b s) := issued_matrixWord h s d n _ _ _

end

end

/-- Whatever a word does when it is executed, its issue answers a next state. -/
theorem issue_goes (h : Bool) (bk : Nat) (s : State) (f : Ctx → State → Iss) : ∃ s', issue h bk s f = .next s' := by
  dsimp only [issue]
  split
  · exact ⟨_, rfl⟩
  · split
    · split
      · exact ⟨_, rfl⟩
      · split
        · exact ⟨_, rfl⟩
        · split <;> exact ⟨_, rfl⟩
    · exact ⟨_, rfl⟩

theorem Issued.goes {h : Bool} {bk : Nat} {s : State} {o : Out} (hi : Issued h bk s o) : ∃ s', o = .next s' := by
  obtain ⟨f, rfl⟩ := hi
  exact issue_goes h bk s f

theorem Issued.skips {h : Bool} {s : State} {o : Out} (hi : Issued h 0 s o) {c : Ctx} (hc : Skips s c) : o = .next (past s c.t h) := by
  obtain ⟨f, rfl⟩ := hi
  exact issue_skips hc h f

/-- A word goes on from every state, and one that its predicate block skips only moves its thread. -/
structure GoesOn (i : Instr) : Prop where
  next : ∀ w, encode i = some w → ∀ s, ∃ s', exec i s = .next s'
  skip : ∀ w, encode i = some w → w.toNat / 2 ^ 25 % 2 ^ 6 ∉ unskipped → ∀ s c, Skips s c → exec i s = .next (past s c.t (w.getLsbD 31))

section
variable {i : Instr} {h : Bool} {mj : Nat} (hw : HighBits i h mj)
include hw

/-- A word that may stand in a block. -/
theorem GoesOn.plain (hi : ∀ s, Issued h 0 s (exec i s)) : GoesOn i where
  next _ _ s := (hi s).goes
  skip w he _ s _ hc := (hw w he).1 ▸ (hi s).skips hc

/-- A transfer or PBLK. -/
theorem GoesOn.transfer (hmj : mj ∈ unskipped) {bk : Nat} (hi : ∀ s, Issued h bk s (exec i s)) : GoesOn i where
  next _ _ s := (hi s).goes
  skip w he hno := absurd ((hw w he).2 ▸ hmj) hno

end

/-- A step of the part has no word. -/
theorem GoesOn.step {i : Instr} (he : encode i = none) : GoesOn i where
  next _ hw := nomatch he.symm.trans hw
  skip _ hw := nomatch he.symm.trans hw

/-- TKABORT that is executed in a versioned task waits as a horizon does, whatever its H bit (R300); one that is skipped does not. -/
theorem tkabort_goesOn (h : Bool) : GoesOn (.tkabort h) where
  next _ _ s := by
    rw [exec_tkabort]
    exact (issued_issueWith _ s _).goes
  skip w he _ s c hc := by
    have hoff : executes s = false := by
      rw [executes, hc.cur, Option.bind_some, hc.thread]
      exact bne_eq_false_iff_eq.mpr hc.off
    have hbits : HighBits (.tkabort h) h 0x33 := .ofR rfl (by decide)
    rw [exec_tkabort, execTkabort, hoff, Bool.and_false, Bool.or_false, (hbits w he).1]
    exact issue_skips hc _ _

/-- Every instruction by the format of its word (R40–R45) and the operation by which it is issued. -/
theorem goesOn (i : Instr) : GoesOn i := by
  cases i
  case tkabort h => exact tkabort_goesOn h
  case br | call => exact .transfer (.ofX rfl (by omega)) (by decide) fun _ => by dsimp only [exec]; exact issued_transfer ..
  case jr | callr | ret | brx => exact .transfer (.ofR rfl (by omega)) (by decide) fun _ => by dsimp only [exec]; exact issued_transfer ..
  case brp n _ => exact .transfer (.ofX rfl (by have := hbit_le n; omega)) (by decide) fun _ => by dsimp only [exec]; exact issued_issue ..
  case pblk => exact .transfer (.ofX rfl (by omega)) (by decide) fun _ => by dsimp only [exec]; exact issued_issue ..
  case nop | wbase | ubase | yield | fmtld | add | sub | mul | mulh | mulhu | and | or | xor | andn | shl | shr | sar | min | max | minu | maxu |
    add64 | sub64 | mul64 | mad | madw | clz | popc | brev | bfe | bfi | prmt | rol | icmpEq | icmpNe | icmpLt | icmpLe | icmpGt | icmpGe | icmpLtu |
    icmpLeu | icmpGtu | icmpGeu | icmpEq64 | icmpNe64 | icmpLt64 | icmpLtu64 | icmpBtst | mov | mov64 | pmov | pset | sext | zext | fadd | fsub |
    fmul | fmin | fmax | fminn | fmaxn | fabs | fneg | fcpsgn | ffloor | fceil | ftrunc | frint | ffrac | fscale | ffma | ffms | fnfma | fnfms |
    hadd2 | hsub2 | hmul2 | hfma2 | hmin2 | hmax2 | badd2 | bsub2 | bmul2 | bfma2 | bmin2 | bmax2 | hdot2 | bdot2 | fcmpOeq | fcmpOne | fcmpOlt |
    fcmpOle | fcmpOgt | fcmpOge | fcmpUno | fcmpOrd | fcmpUeq | fcmpUne | fcmpUlt | fcmpUle | fcmpUgt | fcmpUge | fcmpClass | dadd | dsub | dmul |
    dfma | dmin | dmax | deq | dlt | dle | duno | mlmrg | expsub | rescale | taddr | cpyt | role =>
    exact .plain (.ofR rfl (by omega)) fun _ => by dsimp only [exec]; exact issued_issueReg ..
  case exit | trap | brk | srd | swr | join | bar | arrive | bwait | nap | tret | talloc | trel | tdrop | tstat | tcwait | tcread | publ | cpyw |
    cpyq | mwait | mstat | macq | mrel | mwho | tknext | tkdone | tkpost | tkspec | tksucc | launch | lwait | lstat | aqpost | aqwait | aqstat |
    aqcancel | ndrain | npath | clpost | clwait | clstat | clroute =>
    exact .plain (.ofR rfl (by omega)) fun _ => by dsimp only [exec]; exact issued_issueWith ..
  case div | divu | rem | remu | xfnRcp | xfnRsq | xfnSqrt | xfnExp2 | xfnLog2 | xfnSinpi | xfnCospi | xfnTanh | xfnDiv | xfnSigm | xfnExp | xfnLog |
    ddiv | dsqrt =>
    exact .plain (.ofR rfl (by omega)) fun _ => by dsimp only [exec]; exact issued_issueVar ..
  case addi | andi | ori | xori | shli | shri | sari | roli | shli64 | shri64 | sari64 | muli | cmpi | movw | movh | lea =>
    exact .plain (.ofX rfl (by omega)) fun _ => by dsimp only [exec]; exact issued_issueReg ..
  case sel n _ _ _ _ => exact .plain (.ofX rfl (by have := hbit_le n; omega)) fun _ => by dsimp only [exec]; exact issued_issueReg ..
  case f2i u _ | f2u u _ | i2f u _ | u2f u _ | f2h u _ | h2f u _ | f2b u _ | b2f u _ | f2n u _ | n2f u _ | f2d u _ | d2f u _ | i2d u _ | d2i u _ |
    packn u _ | unpkn u _ =>
    exact .plain (.ofR rfl (by have := hbit_le u; omega)) fun _ => by dsimp only [exec]; exact issued_issueReg ..
  case vany | vall | ballot | gmatch | active => exact .plain (.ofR rfl (by omega)) fun _ => by dsimp only [exec]; exact issued_gathered ..
  case shfidx | shfup | shfdn | shfxor | gradd | grfadd | elect =>
    exact .plain (.ofR rfl (by omega)) fun _ => by dsimp only [exec]; exact issued_rendezvous ..
  case grmin u | grmax u => exact .plain (.ofR rfl (by have := hbit_le u; omega)) fun _ => by dsimp only [exec]; exact issued_rendezvous ..
  case ld | ldx | ldxC | ldAcq => exact .plain (.ofX rfl (by omega)) fun _ => by dsimp only [exec]; exact issued_load ..
  case st | stx | stRel => exact .plain (.ofX rfl (by omega)) fun _ => by dsimp only [exec]; exact issued_store ..
  case aadd | axch | acas | amin | amax | aminu | amaxu | aand | aor | axor | aincw | afadd | aadd64 | acas64 | axch64 | afmax | aaddAr | axchAr |
    acasAr | aminAr | amaxAr | aminuAr | amaxuAr | aandAr | aorAr | axorAr | aincwAr | afaddAr | aadd64Ar | acas64Ar | axch64Ar | afmaxAr =>
    exact .plain (.ofR rfl (by omega)) fun _ => by dsimp only [exec]; exact issued_atom ..
  case fenceAcq | fenceRel | fenceAr | fenceSc | fenceDrain =>
    exact .plain (.ofR rfl (by omega)) fun _ => by dsimp only [exec]; exact issued_fence ..
  case pref | prefl1 => exact .plain (.ofR rfl (by omega)) fun _ => by dsimp only [exec]; exact issued_prefWord ..
  case invl1 u | rdcinv u | ngen u => exact .plain (.ofR rfl (by have := hbit_le u; omega)) fun _ => by dsimp only [exec]; exact issued_issueWith ..
  case lempty | lfull => exact .plain (.ofR rfl (by omega)) fun _ => by dsimp only [exec]; exact issued_lineWord ..
  case tcset | tcadd => exact .plain (.ofR rfl (by omega)) fun _ => by dsimp only [exec]; exact issued_trigWrite ..
  case cpy | cpyr | cpym | cpys => exact .plain (.ofR rfl (by omega)) fun _ => by dsimp only [exec]; exact issued_copyWord ..
  case mma8 | mma8s | mma8g | mma8gs | mmah | mmab => exact .plain (.ofR rfl (by omega)) fun _ => by dsimp only [exec]; exact issued_compute ..
  case mzero | mldc | mstc => exact .plain (.ofR rfl (by omega)) fun _ => by dsimp only [exec]; exact issued_matrixWord ..
  case mpass => exact .plain (.ofR rfl (by omega)) fun _ => by dsimp only [exec]; exact issued_issue ..
  all_goals exact .step rfl

/-- Settles O58: every word is issued, and a word that is skipped only moves its thread. -/
theorem wordsGoOn : Obligations.WordsGoOn :=
  ⟨fun s i w he => (goesOn i).next w he s, fun s c i w hc he hno => (goesOn i).skip w he hno s c hc⟩

/-! Predicate blocks (R36, R37, R87). -/

/-- A word that may not stand in an open block raises ILLEGAL_INSTR with its reason (R37, R46). -/
theorem Issued.blocked {s : State} {c : Ctx} {bk : Nat} {h : Bool} {o : Out} (hi : Issued h bk s o) (hbk : bk ≠ 0) (hcur : s.cur = some c.t)
    (hof : s.ofThread c.t = some (c.l, c.g)) (hth : s.thread? c.t = some c.th) (hopen : c.th.blk ≠ []) :
    o = .next (trapNow s c.t { cause := 0x01, pc := c.th.pc, addr := 0, detail := bk, kind := 0, at_ := 0, further := 0 } c.th.blk) := by
  obtain ⟨f, rfl⟩ := hi
  exact issue_blocked hcur hof hth h bk f hbk hopen

theorem issued_pblk (p n : BitVec 3) (t : BitVec 8) (s : State) : Issued false 8 s (exec (.pblk p n t) s) := by
  rw [exec_pblk]
  exact issued_issue ..

/-- The transfers (R84, R85) may not stand in a block, for reason 9. -/
theorem issued_transfers (h : Bool) (o : BitVec 25) (p : BitVec 3) (q : Bool) (u : BitVec 21) (a b : BitVec 7) (s : State) :
    ∀ i ∈ ([.br h o, .call h o, .brp h p q u, .jr h a, .callr h a, .ret h, .brx h a b] : List Instr), Issued h 9 s (exec i s) := by
  simp only [List.forall_mem_cons, List.not_mem_nil, false_implies, implies_true, and_true, exec_br, exec_call, exec_brp, exec_jr, exec_callr, exec_ret,
    exec_brx]
  exact ⟨issued_transfer .., issued_transfer .., issued_issue .., issued_transfer .., issued_transfer .., issued_transfer .., issued_transfer ..⟩

/-- The block that PBLK opens: its pattern, compared with the predicate (R87). -/
def openBlock (p : Bool) (n : BitVec 3) (t : BitVec 8) : List Bool := (List.range (n.toNat + 1)).map (fun i => t.getLsbD i == p)

theorem openBlock_getElem? (p : Bool) {n : BitVec 3} (t : BitVec 8) {i : Nat} (hi : i ≤ n.toNat) :
    (openBlock p n t)[i]? = some (t.getLsbD i == p) := by
  rw [openBlock, List.getElem?_map, List.getElem?_range (Nat.lt_succ_of_le hi), Option.map_some]

/-- The thread of a PBLK after it. -/
theorem exec_pblk_opens {s : State} {c : Ctx} (hx : Executes s c) (hb : c.th.blk = []) (p n : BitVec 3) (t : BitVec 8) :
    ∃ s', exec (.pblk p n t) s = .next s' ∧
      s'.thread? c.t = some { c.th with pc := c.th.pc + 4, blk := openBlock (c.pred p) n t, hz := false, fetched := none, fetchFrom := none } := by
  rw [exec_pblk]
  refine ⟨_, issue_executes hx false 8 _ (.inr hb), ?_⟩
  rw [issued, past, thread?_modThread, thread?_modThread, hx.thread]
  rfl

/-- Settles O22: the block by the thread that PBLK leaves; in an open block each word by the reason under which it may not stand there. -/
theorem predicateBlocks : Obligations.PredicateBlocks := by
  refine ⟨fun s c p n t hx hb => ?opens, fun s c hcur hof hth hopen h p n t o q u a b =>
    ⟨(issued_pblk p n t s).blocked (by decide) hcur hof hth hopen,
      fun i hi => (issued_transfers h o p q u a b s i hi).blocked (by decide) hcur hof hth hopen⟩⟩
  case opens =>
    obtain ⟨s', hs', hth⟩ := exec_pblk_opens hx hb p n t
    refine ⟨s', _, hs', hth, rfl, rfl, rfl, rfl, ?_, fun i hi => openBlock_getElem? (c.pred p) t hi⟩
    rw [openBlock, List.length_map, List.length_range]

end Sys2Proof.Words
end

section
/-! What ends a wait of a thread (O42) and a segment (O41): the timed waits (R154, R155), the phases of barriers (R157, R158), the fetch (R29, R46), and
the horizon (R32, R35, R38, R67). -/
namespace Sys2Proof.Horizons
open Sys2Proof.Machine Sys2Proof.Laws Sys2Proof.Outside Sys2Proof.Traps

/-! The ends of timed waits (R154, R155). -/

section
variable {s : State} {t : Tid} {g : Group} {th : Thread} {w : Waiting} (hg : s.group? t.gid = some g) (hth : s.thread? t = some th)
  (hres : g.resident = true) (hhalt : th.halted = false) (hexit : th.exited = false) (hw : th.wait = some w)
include hg hth hres hhalt hexit hw

theorem waitsIn_some {f : WaitKind → Bool} (hf : f w.kind = true) : waitsIn s t f = some w := by
  simp only [waitsIn, hg, hth, hres, hhalt, hexit, hw, Option.filter, hf, Bool.not_false, Bool.and_self, if_true]

theorem exec_joinTimeout_ends {m : Word} (hk : w.kind = .join m) : exec (.joinTimeout t) s = .next (endWait s t w) := by
  rw [exec_joinTimeout, execJoinTimeout, waitsIn_some hg hth hres hhalt hexit hw]
  rw [hk]

theorem exec_napExpiry_ends (hk : w.kind = .nap) : exec (.napExpiry t) s = .next (endWait s t w) := by
  rw [exec_napExpiry, execNapExpiry]
  simp only [waitsIn_some hg hth hres hhalt hexit hw (f := fun k => k == .nap) (by simp [hk])]

end

/-- A wait behind which nothing is kept ends with its thread free (R35). -/
theorem endWait_frees {s : State} {t : Tid} {th : Thread} {w : Waiting} (hth : s.thread? t = some th) (hrest : w.rest = []) :
    (endWait s t w).thread? t = some { th with wait := none } ∧ (endWait s t w).mem = s.mem := by
  rw [endWait, hrest, performAgain, thread?_modThread, hth]
  exact ⟨rfl, rfl⟩

/-! Barrier phases (R157, R158). -/

section
variable {s : State} {l : Launch} {level set : Nat} (hl : s.launch? l.ref = some l)
include hl

theorem exec_barPhaseComplete_completes (hlevel : level < 6) (hspan : setSpans l level set = false) (hmem : setMembers s l level set ≠ [])
    (harr : setArrived s l level set (phaseCount l level set) = true) :
    exec (.barPhaseComplete l.ref level set) s = .next (completePhase s l level set (phaseCount l level set)) := by
  have hgo : ¬ (level ≥ 6 ∨ setArrived s l level set (phaseCount l level set) = false) := by simp [hlevel, harr]
  have hsome : ¬ (setMembers s l level set).isEmpty = true := by simpa using hmem
  rw [exec_barPhaseComplete, execBarPhaseComplete]
  simp only [hl, if_neg hgo, if_pos hspan, if_neg hsome]

theorem exec_barPhaseComplete_refused (harr : setArrived s l level set (phaseCount l level set) = false) :
    exec (.barPhaseComplete l.ref level set) s = .fault .notEnabled := by
  rw [exec_barPhaseComplete, execBarPhaseComplete]
  simp only [hl, if_pos (Or.inr harr), notNow]

end

/-! The fetch (R29, R86). -/

/-- A fetch fills the translation and the text that it keeps, and nothing else (R171, R179). -/
theorem fetchFill_eq (s : State) (l : Launch) (core : Nat) (a : DWord) : ∃ mtlb l1, fetchFill s l core a = { s with mtlb := mtlb, l1 := l1 } := by
  obtain ⟨mtlb, hm⟩ := fillMtlb_eq s (addrDie a) l.asid (addrOff a)
  unfold fetchFill
  rw [hm]
  dsimp only
  repeat' split
  all_goals exact ⟨mtlb, _, rfl⟩

theorem exec_instructionFetch_reads {s : State} {t : Tid} {l : Launch} {g : Group} {th : Thread} {w : Word} (hof : s.ofThread t = some (l, g))
    (hth : s.thread? t = some th) (hmay : ¬ (g.resident = false ∨ th.exited ∨ th.hz ∨ th.wait.isSome ∨ th.drain.isSome ∨ th.parked ∨ th.halted ∨ th.fetched.isSome))
    (hw : fetchWord s l g.core th = .ok w) :
    exec (.instructionFetch t) s = .next ((fetchFill s l g.core th.pc).modThread t (fun th => { th with fetched := some w })) := by
  rw [exec_instructionFetch, execInstructionFetch]
  simp only [hof, hth, if_neg hmay, hw]

theorem fetchWord_memory {s : State} {l : Launch} {core : Nat} {th : Thread} {lvl e : Nat} (hok : tagOk th.pc = true) (htag : addrTag th.pc = 0)
    (halign : th.pc.toNat % 4 = 0) (htr : translate s (addrDie th.pc) l.asid (addrOff th.pc) .fetch = .ok (lvl, e))
    (hmiss : findCopy s.l1 (textHolder core) l.asid (th.pc.toNat / 128) = none)
    (hclean : poisoned s (hbmKey (addrDie th.pc) (physOf lvl e (addrOff th.pc))) 4 = false) :
    fetchWord s l core th = .ok (readWord s (hbmKey (addrDie th.pc) (physOf lvl e (addrOff th.pc)))) := by
  simp [fetchWord, hok, htag, halign, htr, hclean, textWord, hmiss]

/-- Settles O42: the timed waits by the wait that they end, the phase by its members, the fetch by the word at the PC, and a word that is no
instruction by its trap. -/
theorem threadEventsHappen : Obligations.ThreadEventsHappen := by
  refine ⟨fun s t g th w hg hth hres hhalt hexit hw hrest => ?timed, fun s l level set hl hlevel hspan hmem => ?phase,
    fun s t l g th hof hth hres hexit hhz hwait hdrain hpark hhalt hnone => ⟨fun w hw => ?fetch, fun lvl e hok htag halign htr hmiss hclean => ?memory⟩,
    fun s t th w reason hcur hth => ?noWord⟩
  case timed =>
    intro freed
    obtain ⟨hfree, hmem⟩ := endWait_frees hth hrest
    exact ⟨fun m hk => ⟨_, exec_joinTimeout_ends hg hth hres hhalt hexit hw hk, hfree, hmem⟩,
      fun hk => ⟨_, exec_napExpiry_ends hg hth hres hhalt hexit hw hk, hfree, hmem⟩⟩
  case phase =>
    exact ⟨exec_barPhaseComplete_completes hl hlevel hspan hmem, exec_barPhaseComplete_refused hl⟩
  case fetch =>
    have hmay : ¬ (g.resident = false ∨ th.exited ∨ th.hz ∨ th.wait.isSome ∨ th.drain.isSome ∨ th.parked ∨ th.halted ∨ th.fetched.isSome) := by
      simp [hres, hexit, hhz, hwait, hdrain, hpark, hhalt, hnone]
    obtain ⟨mtlb, l1, hfill⟩ := fetchFill_eq s l g.core th.pc
    refine ⟨_, exec_instructionFetch_reads hof hth hmay hw, ?_, ?_⟩
    · rw [hfill]
      rfl
    · rw [thread?_modThread, hfill, show ({ s with mtlb := mtlb, l1 := l1 } : State).thread? t = some th from hth, Option.map_some]
  case memory => exact fetchWord_memory hok htag halign htr hmiss hclean
  case noWord =>
    rw [exec_notAnInstruction, execNotAnInstruction]
    simp only [hcur, hth]
    rfl

/-! A thread put back as it is. -/

theorem modThread_modThread (s : State) (t : Tid) (f g : Thread → Thread) : (s.modThread t f).modThread t g = s.modThread t (g ∘ f) := by
  simp only [State.modThread, State.modGroup, List.map_map]
  congr 1
  refine List.map_congr_left fun x _ => ?_
  by_cases hx : x.gid = t.gid <;> simp [hx, List.modify_modify_eq]

/-- The launch and the group of a thread that is put back as it is. -/
theorem ofThread_putBack {s : State} {t : Tid} {l : Launch} {g : Group} {th : Thread} (hof : s.ofThread t = some (l, g)) (hth : s.thread? t = some th) :
    (s.modThread t (fun _ => th)).ofThread t = some (l, g) := by
  obtain ⟨hg, -, -⟩ := group_gid_of_ofThread hof
  have hlane : g.threads[t.lane]? = some th := by simpa only [State.thread?, hg] using hth
  have hsame : g.threads.modify t.lane (fun _ => th) = g.threads := by
    refine List.ext_getElem? fun i => ?_
    rw [List.getElem?_modify]
    split
    · subst_vars
      rw [hlane]
      rfl
    · exact congrFun Option.map_id _
  rw [ofThread_modThread hof, hsame]

/-! The horizon (R32, R35). -/

/-- A thread that may come to its horizon: it lives, and nothing but its segment holds it. -/
structure Comes (s : State) (t : Tid) (l : Launch) (g : Group) (th : Thread) : Prop where
  owner    : s.ofThread t = some (l, g)
  thread   : s.thread? t = some th
  live     : th.exited = false
  free     : th.wait = none
  unparked : th.parked = false
  runs     : th.halted = false
  resident : g.resident = true
  noTask   : g.task = none
  noRedo   : th.redo = false
  settles  : refuseReleases th = th
  unheld   : th.infl.any (relHeld th) = false

/-- The trap of a thread that is on its way comes before its horizon. -/
def NotTrapping (th : Thread) : Prop := ∀ r b, th.drain ≠ some (.trap r b)

section
variable {s : State} {t : Tid} {l : Launch} {g : Group} {th : Thread} (hc : Comes s t l g th) (hno : NotTrapping th)
include hc hno

theorem exec_segmentHorizon_eq : exec (.segmentHorizon t) s =
    if th.settled l g = false ∨ (th.hz = false ∧ th.drain = none) then .fault .notEnabled else .next (passHorizon (s.modThread t (fun _ => th)) t g th) := by
  have hstart : ¬ (th.exited = true ∨ th.parked = true ∨ g.resident = false) := by simp [hc.live, hc.unparked, hc.resident]
  have hfree : (th.infl.filter (relHeld th)).all (fun p => (th.stuck l g).contains p) = true := by
    rw [List.filter_eq_nil_iff.mpr fun p hp h => ?_, List.all_nil]
    exact absurd hc.unheld (ne_false_of_eq_true (List.any_eq_true.mpr ⟨p, hp, h⟩))
  rw [exec_segmentHorizon, execSegmentHorizon]
  simp only [hc.owner, hc.thread, if_neg hstart]
  split
  case h_1 r b hd => exact absurd hd (hno r b)
  case h_2 =>
    simp only [hc.settles, hc.runs, hfree, hc.free, Bool.false_eq_true, false_or, Bool.true_eq_false, or_false, Option.isNone_iff_eq_none]
    by_cases hs : th.settled l g = false
    · simp [hs, notNow]
    · by_cases hz : th.hz = false ∧ th.drain = none <;> simp [hs, hz, notNow]

theorem exec_segmentHorizon_unsettled (hs : th.settled l g = false) : exec (.segmentHorizon t) s = .fault .notEnabled :=
  (exec_segmentHorizon_eq hc hno).trans (if_pos (.inl hs))

variable (hready : th.settled l g = true ∧ (th.hz = true ∨ th.drain ≠ none))
include hready

theorem exec_segmentHorizon_passes : exec (.segmentHorizon t) s = .next (passHorizon (s.modThread t (fun _ => th)) t g th) := by
  refine (exec_segmentHorizon_eq hc hno).trans (if_neg ?_)
  rintro (hs | ⟨hz, hd⟩)
  · exact absurd hready.1 (ne_true_of_eq_false hs)
  · exact hready.2.elim (fun h => absurd h (ne_true_of_eq_false hz)) (fun h => h hd)

end

section
variable {s : State} {t : Tid} {l : Launch} {g : Group} {th : Thread} (hc : Comes s t l g th)
include hc

/-- A thread of a group without a versioned task takes what was refused, or goes on, ends, returns or traps. -/
theorem passHorizon_unversioned (s1 : State) : passHorizon s1 t g th =
    if th.refused ≠ [] then takeRefused s1 t th
    else match th.drain with
      | none => s1.modThread t (fun th => { th with hz := false })
      | some .exit => endThread s1 t
      | some (.tret mode) => leaveTrap s1 t mode
      | some (.trap r blk) => enterAtOnce s1 t r blk := by
  have hdoom : ¬ doomed g = true := by simp [doomed, hc.noTask]
  have hredo : ¬ (th.redo = true ∧ th.inHandler = false) := by simp [hc.noRedo]
  rw [passHorizon, if_neg hdoom, if_neg hredo] <;> rfl

theorem thread?_putBack : (s.modThread t (fun _ => th)).thread? t = some th := by
  rw [thread?_modThread, hc.thread, Option.map_some]

theorem endThread_putBack : endThread (s.modThread t (fun _ => th)) t =
    tryTask (tryRendez ((dropStaged (s.modThread t (fun _ => th)) t th).modThread t (fun x =>
      { x with exited := true, hz := false, drain := none, blk := [], fetched := none, fetchFrom := none })) t.gid) t.gid := by
  simp only [endThread, thread?_putBack hc]

end

/-- The first refused access of a segment, and how many more of it faulted (R35, R335). -/
theorem firstRefused_cons {x : Refused} {y : TrapRec} (hy : x.trap = some y) (rest : List Refused) :
    firstRefused (x :: rest) = some (x.p, { y with further := y.further + (rest.filter (fun z => z.trap.isSome)).length }) := by
  have hcount : (rest.filterMap (fun x => x.trap.map (fun r => (x.p, r)))).length = (rest.filter (fun z => z.trap.isSome)).length := by
    rw [List.length_filterMap_eq_countP, List.countP_eq_length_filter]
    simp only [Option.isSome_map]
  simp only [firstRefused, List.filterMap_cons, hy, Option.map_some, List.head?_cons, List.length_cons, Nat.add_sub_cancel, hcount]

/-- A refused access that does not park its thread traps at the horizon, with all that its segment keeps (R35, log 13). -/
theorem takeRefused_traps {s : State} {t : Tid} {l : Launch} {g : Group} {th : Thread} (hc : Comes s t l g th) {x : Refused} {rest : List Refused}
    {y : TrapRec} (href : th.refused = x :: rest) (hy : x.trap = some y) (hpark : ¬ (y.cause = 0x06 ∧ y.detail = 1)) :
    takeRefused (s.modThread t (fun _ => th)) t th =
      enterTrap ((s.modThread t (fun _ => th)).modThread t (fun th => { th with failed := th.failed.filter (fun f => f.by_ != some x.p.id) })) t
        { y with further := y.further + (rest.filter (fun z => z.trap.isSome)).length }
        { blk := th.blk, resume := th.pc, horizon := true, toTask := false, refused := th.kept l g, hz := th.hz, upto := s.nextId } := by
  have hshelve : th.shelve = th := by rw [Thread.shelve, hc.free]
  have htwice : (s.modThread t (fun _ => th)).modThread t (fun _ => th) = s.modThread t (fun _ => th) := modThread_modThread s t _ _
  have hstays : TrapRec.parks { y with further := y.further + (rest.filter (fun z => z.trap.isSome)).length } = false := by
    simpa [TrapRec.parks, notPresent] using hpark
  simp only [takeRefused, hshelve, htwice, ofThread_putBack hc.owner hc.thread, href, firstRefused_cons hy, hstays, Bool.false_eq_true, if_false]
  rfl

/-- Settles O41: the horizon passes once the segment is settled; what was refused comes first, then what the thread waits to do. -/
theorem horizonsWait : Obligations.HorizonsWait := by
  intro s t l g th hof hth hexit hwait hpark hhalt hres htask hredo hrel hheld s0 ready
  have hc : Comes s t l g th := ⟨hof, hth, hexit, hwait, hpark, hhalt, hres, htask, hredo, hrel, hheld⟩
  refine ⟨fun hr hnone hd => ?goesOn, fun hr hnone hd => ?ends, fun mode hr hnone hd => ?returns, fun x rest y hr href hy hno hp => ?traps,
    fun hs hno => exec_segmentHorizon_unsettled hc hno hs⟩
  case goesOn =>
    have hno : NotTrapping th := fun r b h => by simp [hd] at h
    refine ⟨s0.modThread t (fun th => { th with hz := false }), ?_, ?_, rfl⟩
    · rw [exec_segmentHorizon_passes hc hno hr, passHorizon_unversioned hc, if_neg (not_not.mpr hnone), hd]
    · rw [thread?_modThread, thread?_putBack hc, Option.map_some]
  case ends =>
    have hno : NotTrapping th := fun r b h => by simp [hd] at h
    rw [exec_segmentHorizon_passes hc hno hr, passHorizon_unversioned hc, if_neg (not_not.mpr hnone), hd]
    exact congrArg Host.Outcome.next (endThread_putBack hc)
  case returns =>
    have hno : NotTrapping th := fun r b h => by simp [hd] at h
    rw [exec_segmentHorizon_passes hc hno hr, passHorizon_unversioned hc, if_neg (not_not.mpr hnone), hd]
  case traps =>
    have hsome : th.refused ≠ [] := by simp [href]
    rw [exec_segmentHorizon_passes hc hno hr, passHorizon_unversioned hc, if_pos hsome, takeRefused_traps hc href hy hp]

end Sys2Proof.Horizons
end

section
/-! Results on their way (O39): a value reaches its register (R33, R34), and a load delivers the bytes of its copy or its place (R43, R161, R171, R207). -/
namespace Sys2Proof.Results
open Sys2Proof.Machine Sys2Proof.Claims Sys2Proof.Laws Sys2Proof.PerformedWrites

/-! The bytes of a load as registers (R2, R43, R207). -/

theorem toNat_append_eq {m n : Nat} (x : BitVec m) (y : BitVec n) : (x ++ y).toNat = x.toNat * 2 ^ n + y.toNat := by
  rw [BitVec.toNat_append, ← Nat.shiftLeft_add_eq_or_of_lt y.isLt, Nat.shiftLeft_eq]

theorem sextN_toNat {w : Nat} (x : BitVec w) : sextN w x.toNat = x.toInt := by
  rw [sextN, BitVec.toInt, Nat.mod_eq_of_lt x.isLt, Nat.cast_pow]
  rfl

/-- Four bytes are a word, the lowest first; the rest are the words after it. -/
theorem wordsOf_ofBytes (n : Nat) (b0 b1 b2 b3 : Byte) (bs : List Byte) :
    wordsOf (n + 1) (ofBytes (b0 :: b1 :: b2 :: b3 :: bs)) = (b3 ++ b2 ++ b1 ++ b0) :: wordsOf n (ofBytes bs) := by
  have hword : (b3 ++ b2 ++ b1 ++ b0).toNat = b0.toNat + 256 * (b1.toNat + 256 * (b2.toNat + 256 * b3.toNat)) := by
    simp only [toNat_append_eq]
    omega
  have hbytes : ofBytes (b0 :: b1 :: b2 :: b3 :: bs) = (b3 ++ b2 ++ b1 ++ b0).toNat + 2 ^ 32 * ofBytes bs := by
    rw [hword]
    simp only [ofBytes]
    omega
  have hlt : (b3 ++ b2 ++ b1 ++ b0).toNat < 2 ^ 32 := (b3 ++ b2 ++ b1 ++ b0).isLt
  rw [wordsOf, hbytes]
  congr 1
  · refine BitVec.eq_of_toNat_eq ?_
    rw [BitVec.toNat_ofNat]
    omega
  · congr 1
    omega

/-- The registers of a load, from its bytes one by one. -/
theorem loadWords_eq {z : Nat} (hz : z ≤ 6) (b : Nat → Byte) : loadWords z ((List.range (sizeBytes z)).map b) = loaded z b := by
  have hpair : ∀ x y : Byte, x.toNat + 256 * (y.toNat + 256 * 0) = (y ++ x).toNat := fun x y => by
    rw [toNat_append_eq]
    omega
  interval_cases z
  · exact congrArg (fun x => [x]) ((congrArg (BitVec.ofNat 32) (Nat.add_zero _)).trans (BitVec.ofNat_toNat 32 (b 0)))
  · exact congrArg (fun i => [BitVec.ofInt 32 i]) ((congrArg (sextN 8) (Nat.add_zero _)).trans (sextN_toNat (b 0)))
  · exact congrArg (fun x => [x]) ((congrArg (BitVec.ofNat 32) (hpair (b 0) (b 1))).trans (BitVec.ofNat_toNat 32 (b 1 ++ b 0)))
  · exact congrArg (fun i => [BitVec.ofInt 32 i]) ((congrArg (sextN 16) (hpair (b 0) (b 1))).trans (sextN_toNat (b 1 ++ b 0)))
  · exact wordsOf_ofBytes 0 ..
  · exact (wordsOf_ofBytes 1 ..).trans (congrArg (List.cons _) (wordsOf_ofBytes 0 ..))
  · exact (wordsOf_ofBytes 3 ..).trans (congrArg (List.cons _) ((wordsOf_ofBytes 2 ..).trans (congrArg (List.cons _)
      ((wordsOf_ofBytes 1 ..).trans (congrArg (List.cons _) (wordsOf_ofBytes 0 ..))))))

theorem memRead_eq (m : List Host.Cell) (n a : Nat) : memRead m n a = (List.range n).map (fun i => memByte m (a + i)) := by
  refine List.ext_getElem (by simp [memRead_length]) fun i hi _ => ?_
  have hn : i < n := by rwa [memRead_length] at hi
  have hbyte := memRead_getD m n a i hn
  rw [List.getD_eq_getElem?_getD, List.getElem?_eq_getElem hi, Option.getD_some] at hbyte
  simpa using hbyte

/-- The bytes that a copy of a line holds (R171). -/
theorem take_drop_eq {data : List Byte} {off n : Nat} (h : off + n ≤ data.length) :
    (data.drop off).take n = (List.range n).map (fun i => data.getD (off + i) 0) := by
  refine List.ext_getElem (by simp; omega) fun i hi _ => ?_
  have hn : i < n := by simp at hi; omega
  simp [List.getElem?_eq_getElem (show off + i < data.length by omega)]

/-- An aligned load lies within its line (R161). -/
theorem within_line {z a : Nat} (hz : z ≤ 6) (halign : a % sizeBytes z = 0) : a % 128 + sizeBytes z ≤ 128 := by
  interval_cases z <;> simp only [sizeBytes] at halign ⊢ <;> omega

/-! Delivery (R33, R34). -/

/-- The registers with values from one on. -/
def putFrom (r : Nat) (regs vs : List Word) : List Word := vs.zipIdx.foldl (fun rs v => rs.set (r + v.2) v.1) regs

theorem thread?_writes {t : Tid} (r : Nat) (xs : List (Word × Nat)) {s : State} {th : Thread} (hth : s.thread? t = some th) :
    (xs.foldl (fun s x => writeDst s t (.vec (r + x.2) 1) [x.1]) s).thread? t =
        some { th with regs := xs.foldl (fun rs v => rs.set (r + v.2) v.1) th.regs } ∧
      (xs.foldl (fun s x => writeDst s t (.vec (r + x.2) 1) [x.1]) s).mem = s.mem := by
  induction xs generalizing s th with
  | nil => exact ⟨hth, rfl⟩
  | cons x xs ih =>
    have hstep : (writeDst s t (.vec (r + x.2) 1) [x.1]).thread? t = some { th with regs := th.regs.set (r + x.2) x.1 } := by
      rw [writeDst, thread?_modThread, hth]
      rfl
    exact ih hstep

/-- All values of an entry are written, and the entry leaves. -/
theorem deliver_eq {p : Pend} {r w : Nat} (hdst : p.dst = .vec r w) (s : State) (t : Tid) (vs : List Word) :
    deliver s t p (vs.map some) none = (vs.zipIdx.foldl (fun s x => writeDst s t (.vec (r + x.2) 1) [x.1]) s).modThread t
      (fun th => { th with infl := th.infl.filter (fun q => q.id != p.id) }) := by
  simp only [deliver, true_or, if_true, hdst, List.zipIdx_map, List.foldl_map]
  rw [if_pos (by simp)]
  rfl

/-- The thread after its entry has delivered some words to its registers. -/
theorem thread?_deliver {p : Pend} {r w : Nat} (hdst : p.dst = .vec r w) {s : State} {t : Tid} {th : Thread} (hth : s.thread? t = some th)
    (vs : List Word) :
    (deliver s t p (vs.map some) none).thread? t =
        some { th with regs := putFrom r th.regs vs, infl := th.infl.filter (fun q => q.id != p.id) } ∧
      (deliver s t p (vs.map some) none).mem = s.mem := by
  obtain ⟨hregs, hmem⟩ := thread?_writes r vs.zipIdx hth
  rw [deliver_eq hdst, thread?_modThread, hregs]
  exact ⟨rfl, hmem⟩

/-! Binding a load (R168, R171, R364). -/

/-- A try to bind answers some words, and leaves the threads and memory. -/
def Binds (s : State) (a : Act) (vs : List Word) : Prop := ∃ s1, a = .done s1 vs ∧ s1.groups = s.groups ∧ s1.mem = s.mem

theorem fillCopies_eq (s : State) (g : Group) (asid : Nat) (a : DWord) (kind key : Nat) :
    ∃ l1 rdc, fillCopies s g asid a kind key = withCopies s l1 rdc := by
  dsimp only [fillCopies]
  by_cases hp : poisoned s (key - a.toNat % 128) 128 = true
  · rw [if_pos hp]
    exact ⟨_, _, rfl⟩
  · rw [if_neg hp]
    exact ⟨_, _, rfl⟩

theorem pocRead_clean {s : State} {key n : Nat} (h : poisoned s key n = false) : pocRead s key n = .ok (memRead s.mem n key) := by
  rw [pocRead, if_neg (ne_true_of_eq_false h)]

section
variable {s : State} {l : Launch} {g : Group} {p : Pend} {size die pa kind key : Nat} {acq consume : Bool}
  (hloc : p.loc = some (.phys die pa kind)) (htask : g.task = none) (hahead : heldAhead s g p key = false)
include hloc htask hahead

/-- A load that no copy may serve reads its point of coherence (R171, R190, R195). -/
theorem bindLoad_uncached (huncached : acq = true ∨ kind = 0 ∨ addrTag p.addr = 4) (hclean : poisoned s key (sizeBytes size) = false) :
    Binds s (bindLoad s l g p size acq consume key) (loadWords size (memRead s.mem (sizeBytes size) key)) := by
  have hver : versionedAt g p die = none := by rw [versionedAt, htask]
  simp only [bindLoad, hloc, hahead, hver, if_pos huncached, pocRead_clean hclean, Bool.false_eq_true, if_false]
  refine ⟨_, rfl, ?_⟩
  obtain ⟨l1, rdc, hfill⟩ := fillCopies_eq (if acq = true then acquireCopies s g.core false else s) g l.asid p.addr kind key
  rw [hfill]
  cases acq <;> split <;> exact ⟨rfl, rfl⟩

section
variable (hcached : kind ≠ 0 ∧ addrTag p.addr ≠ 4 ∧ acq = false)
include hcached

theorem bindLoad_cached : bindLoad s l g p size acq consume key =
    match cachedRead s g p.bypass l.asid p.addr kind key (sizeBytes size) with
    | .error s' => .refuse s' dataError 0
    | .ok (s', bs) => .done s' (loadWords size bs) := by
  have hver : versionedAt g p die = none := by rw [versionedAt, htask]
  have huncached : ¬ (acq = true ∨ kind = 0 ∨ addrTag p.addr = 4) := by
    obtain ⟨hk, ht, ha⟩ := hcached
    simp [hk, ht, ha]
  simp only [bindLoad, hloc, hahead, hver, if_neg huncached, Bool.false_eq_true, if_false] <;> rfl

variable {inL1 inRdc : Option Copy} (hL1 : (if p.bypass = true then none else findCopy s.l1 g.core l.asid (p.addr.toNat / 128)) = inL1)
  (hRdc : (if addrDie p.addr = g.die then none else findCopy s.rdc g.die l.asid (p.addr.toNat / 128)) = inRdc)
include hL1 hRdc

theorem bindLoad_miss (h1 : inL1 = none) (h2 : inRdc = none) (hclean : poisoned s key (sizeBytes size) = false) :
    Binds s (bindLoad s l g p size acq consume key) (loadWords size (memRead s.mem (sizeBytes size) key)) := by
  obtain ⟨l1, rdc, hfill⟩ := fillCopies_eq s g l.asid p.addr kind key
  rw [bindLoad_cached hloc htask hahead hcached]
  simp only [cachedRead, hL1, hRdc, h1, h2, pocRead_clean hclean, hfill]
  exact ⟨_, rfl, rfl, rfl⟩

/-- A load whose line a cache holds is served by the copy (R171, R364). -/
theorem bindLoad_hit {x : Copy} (hx : inL1 = some x ∨ inL1 = none ∧ inRdc = some x) :
    Binds s (bindLoad s l g p size acq consume key) (loadWords size ((x.data.drop (p.addr.toNat % 128)).take (sizeBytes size))) := by
  rw [bindLoad_cached hloc htask hahead hcached]
  rcases hx with h1 | ⟨h1, h2⟩
  · simp only [cachedRead, hL1, h1]
    exact ⟨_, rfl, rfl, rfl⟩
  · simp only [cachedRead, hL1, hRdc, h1, h2]
    exact ⟨_, rfl, rfl, rfl⟩

end

end

section
variable {s : State} {l : Launch} {g : Group} {p : Pend} {size key : Nat} {acq consume : Bool}

/-- A load of a FULL line of scratchpad or of a tile (R168). -/
theorem bindLoad_local (hloc : p.loc = some .scratch ∨ p.loc = some .tile) (hfull : lineState s key = 0) :
    Binds s (bindLoad s l g p size acq consume key) (loadWords size (memRead s.mem (sizeBytes size) key)) := by
  have h1 : ¬ lineState s key = 1 := by omega
  have h2 : ¬ lineState s key = 2 := by omega
  rcases hloc with hloc | hloc
  all_goals
    simp only [bindLoad, hloc, if_neg h1, if_neg h2]
    refine ⟨_, rfl, ?_⟩
    cases acq <;> cases consume <;> exact ⟨rfl, rfl⟩

theorem bindLoad_host (hloc : p.loc = some .host) (hclean : poisoned s key (sizeBytes size) = false) :
    Binds s (bindLoad s l g p size acq consume key) (loadWords size (memRead s.mem (sizeBytes size) key)) := by
  simp only [bindLoad, hloc, hclean, Bool.false_eq_true, if_false]
  refine ⟨_, rfl, ?_⟩
  cases acq <;> exact ⟨rfl, rfl⟩

end

/-! What RESULT_DELIVERY answers. -/

/-- An entry's words reach the registers of its thread from `r` on, and the entry leaves; no other register and no byte changes (R33, R34). -/
def Delivers (s : State) (t : Tid) (th : Thread) (p : Pend) (r : Nat) (vs : List Word) : Prop :=
  ∃ s' th', exec (.resultDelivery t p.id none) s = .next s' ∧ s'.thread? t = some th' ∧ s'.mem = s.mem ∧
    th'.regs = putFrom r th.regs vs ∧ th'.pc = th.pc ∧ th'.preds = th.preds ∧ th'.infl = th.infl.filter (fun q => q.id != p.id)

section
variable {s : State} {t : Tid} {l : Launch} {g : Group} {th : Thread} {p : Pend} {r w : Nat} (hof : s.ofThread t = some (l, g))
  (hth : s.thread? t = some th) (hp : s.pend? t p.id = some p) (hdst : p.dst = .vec r w) (hres : g.resident = true) (hhalt : th.halted = false)
include hof hth hp hdst hres hhalt

/-- A value that is ready (R33). -/
theorem delivers_ready {vs : List Word} (hdel : p.op.delivers = true) (hst : p.st = .ready (vs.map some)) : Delivers s t th p r vs := by
  have hgo : ¬ (p.op.delivers = false ∨ g.resident = false ∨ (th.halted = true ∧ (p.late = true ∨ (p.op.waits = true ∧ p.bound = false)))) := by
    simp [hdel, hres, hhalt]
  obtain ⟨hth', hmem⟩ := thread?_deliver hdst hth vs
  refine ⟨_, _, ?_, hth', hmem, rfl, rfl, rfl, rfl⟩
  rw [exec_resultDelivery, execResultDelivery]
  simp only [hof, hth, hp, if_neg hgo, hst]

/-- A load that its order lets go (R189) delivers what it binds. -/
theorem delivers_load {z key : Nat} {acq consume : Bool} {vs : List Word} (hop : p.op = .load z acq consume) (hst : p.st = .sent)
    (horder : orderOk s l g th p = true) (hkey : p.key l g = some key) (hb : Binds s (bindLoad s l g p z acq consume key) vs) :
    Delivers s t th p r vs := by
  obtain ⟨s1, hdone, hgroups, hmem⟩ := hb
  have hgo : ¬ (p.op.delivers = false ∨ g.resident = false ∨ (th.halted = true ∧ (p.late = true ∨ (p.op.waits = true ∧ p.bound = false)))) := by
    simp [hop, POp.delivers, hres, hhalt]
  have hth1 : s1.thread? t = some th := by
    rw [State.thread?, State.group?, hgroups]
    exact hth
  have hbind : bindEntry s t l g th p = .done s1 vs := by
    rw [bindEntry, if_neg (ne_false_of_eq_true hres), hop]
    simp only [horder, if_true, hkey, hdone]
  obtain ⟨hth', hmem'⟩ := thread?_deliver hdst hth1 vs
  refine ⟨_, _, ?_, hth', hmem'.trans hmem, rfl, rfl, rfl, rfl⟩
  rw [exec_resultDelivery, execResultDelivery]
  simp only [hof, hth, hp, if_neg hgo, hst, hbind]

end

/-- Settles O39: a ready value by its delivery; a load by what it binds at its place, whose bytes are its registers. -/
theorem resultsReachTheirRegisters : Obligations.ResultsReachTheirRegisters := by
  intro s t l g th p r w hof hth hp hdst hres hhalt delivers
  refine ⟨fun vs hdel hst => delivers_ready hof hth hp hdst hres hhalt hdel hst, fun z acq consume hz hop hst horder => ?load⟩
  have hload : ∀ {key : Nat} {vs : List Word}, p.key l g = some key → Binds s (bindLoad s l g p z acq consume key) vs → delivers vs :=
    fun hkey hb => delivers_load hof hth hp hdst hres hhalt hop hst horder hkey hb
  have hmemory : ∀ {key : Nat}, p.key l g = some key → Binds s (bindLoad s l g p z acq consume key) (loadWords z (memRead s.mem (sizeBytes z) key)) →
      delivers (loaded z (fun i => memByte s.mem (key + i))) := fun {key} hkey hb => by
    rw [← loadWords_eq hz, ← memRead_eq]
    exact hload hkey hb
  refine ⟨fun die pa kind hloc htask hahead => ?memory,
    fun key hloc hkey hfull => hmemory hkey (bindLoad_local hloc hfull), fun key hloc hkey hclean => hmemory hkey (bindLoad_host hloc hclean)⟩
  case memory =>
    intro key line cached inL1 inRdc
    refine ⟨fun hmiss hclean => ?place, fun x hcached hx hlen halign => ?copy⟩
    case place =>
      refine hmemory (key_phys hloc) ?_
      by_cases hcached : cached
      · obtain ⟨h1, h2⟩ := hmiss.resolve_left (not_not.mpr hcached)
        exact bindLoad_miss hloc htask hahead hcached rfl rfl h1 h2 hclean
      · refine bindLoad_uncached hloc htask hahead ?_ hclean
        by_contra hno
        refine hcached ⟨fun h => hno (.inr (.inl h)), fun h => hno (.inr (.inr h)), ?_⟩
        exact Bool.eq_false_iff.mpr fun h => hno (.inl h)
    case copy =>
      rw [← loadWords_eq hz, ← take_drop_eq (hlen.symm ▸ within_line hz halign)]
      exact hload (key_phys hloc) (bindLoad_hit hloc htask hahead hcached rfl rfl hx)

end Sys2Proof.Results
end

section
/-! What a step runs (O57), and the module after reset (O59): the words of a constellation (R29, R140–R143), the happenings of the agenda, and the
reset values (R26, R349, R367, R426–R436). -/
namespace Sys2Proof.Steps
open Sys2Proof.Machine Sys2Proof.Safety Sys2Proof.Laws

/-! The word of the next member (R29). -/

theorem instrOf_ok {w : Word} {i : Instr} (h : decodeWord w = .ok i) : instrOf w = i := by
  simp only [instrOf, h]

theorem instrOf_error {w : Word} {r : Reject} (h : decodeWord w = .error r) : instrOf w = .notAnInstruction w r.reason := by
  simp only [instrOf, h]

theorem step_of_cons {s : State} {t : Tid} {rest : List Tid} {th : Thread} {w : Word} (hcons : s.cons = t :: rest)
    (hth : s.thread? t = some th) (hw : th.fetched = some w) :
    step s = settle (exec (instrOf w) { s with cons := rest, cur := some t }) := by
  simp only [step, runStep, hcons, runIssue, nextIssue, hth, Option.bind_some, hw]

theorem step_of_agenda {s : State} {n : Next} {rest : List Next} (hcons : s.cons = []) (hagenda : s.agenda = n :: rest) :
    step s = runNext exec { s with agenda := rest } n := by
  simp only [step, runStep, hcons, hagenda]

/-- A pick that the order and the fetch let happen forms a constellation and issues its first word (R140, R143). -/
theorem runNext_pick {s s2 : State} {quad : Nat} (h : pick s (some quad) = some s2) : runNext exec s (.pick quad) = runIssue exec s2 := by
  simp only [runNext, runPick, h, Option.map_some, Option.getD_some]

theorem runNext_pick_none {s : State} {quad : Nat} (h : pick s (some quad) = none) : runNext exec s (.pick quad) = .fault .notEnabled := by
  simp only [runNext, runPick, h, Option.map_none, Option.getD_none, notNow]

theorem pick_fetches {s : State} {quad : Nat} {t : Tid} {l : Launch} {g : Group} {th : Thread} {w : Word}
    (hfirst : (refreshAge s).find? (fun u => quadOf s u == some quad) = some t) (hof : s.ofThread t = some (l, g)) (hth : s.thread? t = some th)
    (hnone : th.fetched = none) (hw : fetchWord { s with age := refreshAge s } l g.core th = .ok w) :
    pick s (some quad) = some (formConstellation (fetchFill { s with age := refreshAge s } l g.core th.pc) (refreshAge s) t w) := by
  have hmine : (fun u => (some quad == none) || quadOf s u == some quad) = fun u => quadOf s u == some quad := rfl
  simp only [pick, hmine, hfirst, hof, hth, hnone, hw]

/-! The members of a constellation (R141). -/

theorem mem_constellation {s : State} {t u : Tid} {order : List Tid} (h : u ∈ constellation s t order) : u = t ∨ gathers s t u = true := by
  obtain ⟨q, -, hq⟩ := List.mem_filterMap.mp h
  split at hq
  · exact .inl (Option.some.inj hq).symm
  · exact .inr (List.mem_filter.mp (List.mem_of_find?_eq_some hq)).2

/-- A thread whose word has been fetched, if the state holds it. -/
def Fetched (s : State) (w : Word) (u : Tid) : Prop := ∀ x, s.thread? u = some x → x.fetched = some w

/-- A change of a thread that keeps its word keeps the words of all. -/
theorem Fetched.modThread {s : State} {w : Word} {u : Tid} (h : Fetched s w u) (t : Tid) {f : Thread → Thread} (hf : ∀ x, x.fetched = some w → (f x).fetched = some w) :
    Fetched (s.modThread t f) w u := by
  intro x hx
  by_cases hu : u = t
  · subst hu
    rw [thread?_modThread] at hx
    obtain ⟨y, hy, rfl⟩ := Option.map_eq_some_iff.mp hx
    exact hf y (h y hy)
  · rw [thread?_modThread_other _ _ _ _ hu] at hx
    exact h x hx

theorem fetched_of_set (s : State) (w : Word) (t : Tid) : Fetched (s.modThread t (fun th => { th with fetched := some w })) w t := by
  intro x hx
  rw [thread?_modThread] at hx
  obtain ⟨y, -, rfl⟩ := Option.map_eq_some_iff.mp hx
  rfl

/-- Every member of a list is given its word. -/
theorem fetched_of_members (w : Word) (ks : List Tid) (s : State) {u : Tid} (h : u ∈ ks ∨ Fetched s w u) :
    Fetched (ks.foldl (fun s t => s.modThread t (fun th => { th with fetched := some w })) s) w u := by
  induction ks generalizing s with
  | nil => exact h.resolve_left List.not_mem_nil
  | cons t ks ih =>
    refine ih _ ?_
    rcases h with h | h
    · rcases List.mem_cons.mp h with rfl | h
      · exact .inr (fetched_of_set s w _)
      · exact .inl h
    · exact .inr (h.modThread t fun _ _ => rfl)

theorem foldl_modThread_cons (f : Thread → Thread) (ks : List Tid) (s : State) : (ks.foldl (fun s t => s.modThread t f) s).cons = s.cons := by
  induction ks generalizing s with
  | nil => rfl
  | cons t ks ih => exact ih _

theorem formConstellation_cons (s : State) (order : List Tid) (t : Tid) (w : Word) :
    (formConstellation s order t w).cons = constellation s t order :=
  foldl_modThread_cons _ _ _

theorem formConstellation_fetched {s : State} {order : List Tid} {t u : Tid} {w : Word} (h : u ∈ constellation s t order) :
    Fetched (formConstellation s order t w) w u :=
  (fetched_of_members w _ _ (.inl h)).modThread t fun _ hx => hx

/-- Settles O57: the word of the next member by what it decodes to; an event by the agenda; a pick by its constellation, whose members are gathered
with the anchor and are given its word. -/
theorem stepRunsDecoded : Obligations.StepRunsDecoded := by
  refine ⟨fun s t rest th w hcons hth hw => ⟨fun i hi => ?word, fun r hr => ?noWord⟩, fun s i rest hcons hagenda => step_of_agenda hcons hagenda,
    fun s quad rest t l g th w hcons hagenda => ?pick, fun s quad rest hcons hagenda hnone => ?idle⟩
  case word => rw [step_of_cons hcons hth hw, instrOf_ok hi]
  case noWord => rw [step_of_cons hcons hth hw, instrOf_error hr]
  case pick =>
    intro s0 order s1 hfirst hof hth hnone hw s2
    have hcons2 : s2.cons = constellation (fetchFill s1 l g.core th.pc) t order := formConstellation_cons _ _ _ _
    refine ⟨(step_of_agenda hcons hagenda).trans (runNext_pick (pick_fetches hfirst hof hth hnone hw)), fun u hu => ?_, fun u x hu => ?_⟩
    · exact mem_constellation (hcons2 ▸ hu)
    · exact formConstellation_fetched (hcons2 ▸ hu) x
  case idle => exact (step_of_agenda hcons hagenda).trans (runNext_pick_none hnone)

/-! The reset values. -/

theorem banks_reset : Banks State.reset :=
  ⟨List.length_replicate, List.length_replicate, List.length_replicate, List.length_replicate, List.length_replicate, List.length_replicate⟩

/-- Before anything has an owner a write of PKG is ignored (R427). -/
theorem writeReg_pkg_reset (w : Word) : writeReg State.reset .host 0x28 w = State.reset := rfl

/-- Settles O59: memory is empty, every bank is a list of reset registers, and each register reads its reset value. -/
theorem resetState : Obligations.ResetState := by
  refine ⟨⟨rfl, banks_reset⟩, rfl, rfl, rfl, rfl, rfl, rfl, rfl, rfl, rfl, fun q hq => ?queue, fun p hp => ?port, fun d hd => ?die,
    fun w => ⟨rfl, rfl, rfl, writeReg_pkg_reset w⟩⟩
  case queue =>
    obtain rfl : q = CQueue.reset := List.eq_of_mem_replicate hq
    exact ⟨rfl, rfl⟩
  case port =>
    obtain rfl : p = Port.reset := List.eq_of_mem_replicate hp
    exact ⟨rfl, rfl⟩
  case die =>
    obtain rfl : d = DieRegs.reset := List.eq_of_mem_replicate hd
    exact ⟨rfl, rfl, rfl, rfl, rfl⟩

end Sys2Proof.Steps
end
